-- ==== Sys2Proof/Word.lean ====
section
/-! DEFINITION. The words the device works with: 32-bit words, bytes, 16-bit instruction words. -/

namespace Sys2Proof

/-- A 32-bit word: a register, an operand stack entry, a channel item (R9, R88, R289). -/
abbrev Word := BitVec 32

/-- One byte of memory (R8). -/
abbrev Byte := BitVec 8

/-- One 16-bit instruction word (R130). -/
abbrev IWord := BitVec 16

end Sys2Proof
end

