-- ==== Sys2Proof/Config.lean ====
section
/-! DEFINITION. What an implementation fixes, and the values the spec leaves open. -/

namespace Sys2Proof.Config

/-! ### Open values: no body, so nothing can be proved of the value chosen -/

/-- A fresh open word: applied to the state's count of open values taken. -/
opaque freeWord : Nat → Word

/-- The data bits of a word into which two bit errors were injected at a bit position (R286). -/
opaque injData : Nat → Word → Word

/-! ### Cryptography named by outside standards (R331, R503, R679): left uninterpreted -/

/-- SHA-256 of a byte string. -/
opaque sha256 : List Byte → List Byte

/-- HMAC-SHA-256 of a byte string under a key. -/
opaque hmac : List Byte → List Byte → List Byte

/-- Does an ECDSA P-256 signature hold: public key, signed bytes, signature (R679)? -/
opaque ecdsaOk : List Byte → List Byte → List Byte → Bool

/-- Do the state signatures of two strings collide although the states differ (R221)? Indexed by the course's count of
checkpoints. -/
opaque sigCollides : Nat → Bool

/-! ### What a module is born with (R674, R675, R693) -/

/-- Wafer lot, six characters. -/
opaque lot : List Byte
/-- Wafer within the lot. -/
opaque wafer : BitVec 5
/-- Die position, x. -/
opaque dieX : Byte
/-- Die position, y. -/
opaque dieY : Byte
/-- Test bin. -/
opaque bin : Byte
/-- Speed grade. -/
opaque speed : BitVec 4
/-- Die revision. -/
opaque dieRev : BitVec 4
/-- The fixed-unison fuse is blown. -/
opaque fuFuse : Bool
/-- Serial number, 16 characters. -/
opaque serial : List Byte
/-- Assembly date. -/
opaque asmDate : Word
/-- Board revision. -/
opaque boardRev : BitVec 16
/-- Build option -E. -/
opaque optE : Bool
/-- ETH0's MAC address, six bytes, byte 0 first. -/
opaque mac0 : List Byte
/-- PGRP of the peg-bus address. -/
opaque pgrp : BitVec 2
/-- SHA-256 of the firmware signing key. -/
opaque keyHash : List Byte
/-- SVNMIN as shipped: the lowest accepted security version. -/
opaque svnMin : Nat
/-- The contents of the luthier's ROM, by word address (R687): the spec does not give them. -/
opaque romWord : Nat → Word
/-- ROM loader version. -/
opaque romVer : Nat

end Sys2Proof.Config
end

