-- ==== Sys2Proof/Syntax.lean ====
section
/-! DEFINITION. The commands of the block: one constructor for each row of spec/opcode_table.json, each an event that
reaches the device or that a unit of it performs. The table gives the rows no bits. Operands: `k` a core (0 to 511, 512 and
513 the luthier's strings), unless a comment says otherwise; `n` a course; `rep` that a word executes as the repeated word of
a REP or REPI; what the outside supplies (samples, verdicts, received data) stands in the operands. The rows without operands come last. -/

namespace Sys2Proof

/-- The symbol of a token of the peg bus (R689). -/
inductive PegSym where
  | zero | one | mark
  deriving DecidableEq, Repr

/-- The 10-bit symbols that arrive at the receiver of port `port`'s link (R467, R469). -/
structure LineIn where
  port : Nat
  syms : List (BitVec 10)
  deriving DecidableEq, Repr

/-- A doubleword of a host's write: its data and its byte enables (R494). -/
structure HostWord where
  be : Nat
  data : Word
  deriving DecidableEq, Repr

/-- What a port sends for PTP, `bytes`, and the event message it stamps: `ev` 0 none, 1 the one received, 2 the one sent, with the
time base `sfd` at which its start-of-frame delimiter passes (R507). -/
structure PtpEvent where
  bytes : List Byte
  ev : Nat
  sfd : Nat
  deriving DecidableEq, Repr

/-- The commands. -/
inductive Instr where
/-- PAIR (R132): An instruction word in pair form executes its two short operations together on the operand stack. -/
  | pair (k : Nat) (rep : Bool) (a b : BitVec 7)
/-- LIT (R143): Pushes a sign-extended 8-bit constant. -/
  | lit (k : Nat) (rep : Bool) (f : BitVec 8)
/-- LITX (R143): Pushes a sign-extended 16-bit constant from the extension word. -/
  | litx (k : Nat) (x : IWord)
/-- LITHI (R143): Sets the upper half of the top word from the extension word. -/
  | lithi (k : Nat) (x : IWord)
/-- ADDI (R160): Adds a sign-extended field constant and writes C and V. -/
  | addi (k : Nat) (rep : Bool) (f : BitVec 8)
/-- SHLI (R143): Left shift by a field amount 0 to 31. -/
  | shli (k : Nat) (rep : Bool) (n : BitVec 5)
/-- SHRI (R143): Logical right shift by a field amount. -/
  | shri (k : Nat) (rep : Bool) (n : BitVec 5)
/-- SARI (R143): Arithmetic right shift by a field amount. -/
  | sari (k : Nat) (rep : Bool) (n : BitVec 5)
/-- ROLI (R143): Left rotate by a field amount. -/
  | roli (k : Nat) (rep : Bool) (n : BitVec 5)
/-- PICK (R143): Copies the stack entry at depth n to the top. -/
  | pick (k : Nat) (rep : Bool) (n : BitVec 3)
/-- BR (R145): Branches to a relative target. -/
  | br (k : Nat) (f : BitVec 8)
/-- BZ (R168): Pops a condition and branches if it is zero. -/
  | bz (k : Nat) (f : BitVec 8)
/-- BNZ (R168): Pops a condition and branches if it is not zero. -/
  | bnz (k : Nat) (f : BitVec 8)
/-- BRX (R145): Branches to a relative target with an extension-word offset. -/
  | brx (k : Nat) (x : IWord)
/-- BZX (R168): Extended branch if the popped condition is zero. -/
  | bzx (k : Nat) (x : IWord)
/-- BNZX (R168): Extended branch if the popped condition is not zero. -/
  | bnzx (k : Nat) (x : IWord)
/-- CALL (R170): Pushes the return address on the return stack and jumps to an absolute target. -/
  | call (k : Nat) (x : IWord)
/-- CALLI (R170): Calls the target popped from the operand stack. -/
  | calli (k : Nat)
/-- RET (R170): Returns to the address popped from the return stack. -/
  | ret (k : Nat)
/-- JMPI (R143): Jumps to the target popped from the operand stack. -/
  | jmpi (k : Nat)
/-- TOR (R143): Moves the top operand to the return stack. -/
  | tor (k : Nat)
/-- FROMR (R143): Moves the top of the return stack to the operand stack. -/
  | fromr (k : Nat)
/-- RGET (R143): Copies the top of the return stack to the operand stack. -/
  | rget (k : Nat)
/-- RDROP (R143): Discards the top of the return stack. -/
  | rdrop (k : Nat)
/-- REP (R171): Starts a non-interruptible repetition of the next word. -/
  | rep (k : Nat) (f : BitVec 8)
/-- REPI (R175): Starts an interruptible repetition of the next word. -/
  | repi (k : Nat) (f : BitVec 8)
/-- REP_ITERATION (R171): One iteration of the repeated word executes and REPCNT decreases. -/
  | repIteration (k : Nat)
/-- LDR (R143): Issues a remote load of any address into a landing slot. -/
  | ldr (k : Nat) (rep : Bool) (slot size : BitVec 2) (sg : Bool)
/-- STR (R143): Places a store to any address into the store buffer. -/
  | str (k : Nat) (rep : Bool) (size : BitVec 2) (tflt : Nat)
/-- TAS (R180): Issues an atomic test-and-set whose old word lands in a slot. -/
  | tas (k : Nat) (rep : Bool) (slot : BitVec 2)
/-- LR (R181): Issues a load that places a reservation on its granule. -/
  | lr (k : Nat) (rep : Bool) (slot : BitVec 2)
/-- SC (R184): Issues a store-conditional that lands 1 on success and 0 on failure. -/
  | sc (k : Nat) (rep : Bool) (slot : BitVec 2)
/-- AGREE (R213): Issues an agreed read performed once by string A in unison. -/
  | agree (k : Nat) (rep : Bool) (slot size : BitVec 2) (sg : Bool)
/-- MUL (R163): Issues a 64-bit multiply landing in two slots. -/
  | mul (k : Nat) (rep : Bool) (slot : BitVec 2) (uns : Bool)
/-- DIV (R164): Issues a division landing quotient and remainder. -/
  | div (k : Nat) (rep : Bool) (slot : BitVec 2) (uns : Bool)
/-- LAND (R102): Pushes a landing slot's value without a hazard check, setting EARLY if early. -/
  | land (k : Nat) (rep : Bool) (slot : BitVec 2)
/-- PUTL (R104): Waits for a slot to be free and pops a word into it. -/
  | putl (k : Nat) (rep : Bool) (slot : BitVec 2)
/-- WAITL (R103): Waits until the named slots have no result in flight. -/
  | waitl (k : Nat) (rep : Bool) (m : BitVec 4)
/-- SEND (R304): Sends a word on a channel, waiting while it is full. -/
  | send (k : Nat) (rep : Bool)
/-- RECV (R305): Receives a word from a channel, parking while it is empty. -/
  | recv (k : Nat) (rep : Bool)
/-- SENDT (R304): Tries to send a word on a channel and pushes a status. -/
  | sendt (k : Nat) (rep : Bool)
/-- RECVT (R305): Tries to receive a word and pushes it with a status. -/
  | recvt (k : Nat) (rep : Bool)
/-- WAIT (R147): Waits awake for an event, optionally with a time-base deadline. -/
  | wait (k : Nat) (t : Bool)
/-- SLEEP (R123): Waits asleep at leakage power for an event. -/
  | sleep (k : Nat)
/-- CKPT (R220): Forces a checkpoint in unison; no effect in split. -/
  | ckpt (k : Nat)
/-- FENCE (R109): Waits until earlier long operations landed and stores completed, taking any trap raised. -/
  | fence (k : Nat)
/-- SYNC (R121): Fence that also applies pending CSR writes and empties the line buffers. -/
  | sync (k : Nat)
/-- IFENCE (R117): Drains the store buffer and empties the line buffers. -/
  | ifence (k : Nat)
/-- CSRR (R156): Reads a CSR that has no behaviour of its own. -/
  | csrr (k : Nat) (rep : Bool) (ix : BitVec 8)
/-- CSRW (R120): Writes a CSR that has no behaviour of its own. -/
  | csrw (k : Nat) (rep : Bool) (ix : BitVec 8)
/-- CSRW_DEFERRED (R118): A write to SBASE, SLIMIT, RSCTL, TRAPVEC or IMASK is held pending until SYNC, trap entry or
  RETT. -/
  | csrwDeferred (k : Nat) (rep : Bool) (ix : BitVec 8)
/-- CSRW_SPTR (R94): A write to SPTR takes effect for the next word, after the operand is popped. -/
  | csrwSptr (k : Nat) (rep : Bool)
/-- CSRR_TBLO (R127): Reads time base [31:0] and captures [63:32] into the holding register. -/
  | csrrTblo (k : Nat) (rep : Bool)
/-- CSRR_DPOS (R128): Reads the position of the selected drone through the crossing. -/
  | csrrDpos (k : Nat) (rep : Bool)
/-- CSRW_DPOS (R128): Selects the drone that DPOS reads. -/
  | csrwDpos (k : Nat) (rep : Bool)
/-- CSRR_CLAIM (R575): Claims the highest-priority presented source, which enters service. -/
  | csrrClaim (k : Nat) (rep : Bool)
/-- CSRW_COMPLETE (R576): Ends service of a source held by the core, or counts a stray completion. -/
  | csrwComplete (k : Nat) (rep : Bool)
/-- CSRW_CPL (R573): Writes the core's priority level, applied to eligibility at once. -/
  | csrwCpl (k : Nat) (rep : Bool)
/-- TRAP (R145): Raises a software trap with a code. -/
  | trap (k : Nat) (f : BitVec 8)
/-- RETT (R193): Returns from a trap, applying pending writes and possibly resuming a repetition. -/
  | rett (k : Nat)
/-- CPWR (R411): Writes a cam and profile engine register; status lands. -/
  | cpwr (k : Nat) (rep : Bool) (slot : BitVec 2) (sel : BitVec 5)
/-- CPRD (R411): Reads a cam and profile engine register into a slot. -/
  | cprd (k : Nat) (rep : Bool) (slot : BitVec 2) (sel : BitVec 5)
/-- CAMEV (R411): Evaluates a cam table at a position; the set-point lands. -/
  | camev (k : Nat) (rep : Bool) (slot : BitVec 2) (sel : BitVec 5)
/-- CAMEV2 (R411): Evaluates a cam table; set-point and velocity land. -/
  | camev2 (k : Nat) (rep : Bool) (slot : BitVec 2) (sel : BitVec 5)
/-- CAMEVD (R411): Evaluates a cam table at its drone's present position. -/
  | camevd (k : Nat) (rep : Bool) (slot : BitVec 2) (sel : BitVec 5)
/-- CAMOFS (R410): Sets the phase offset of a selector; status lands. -/
  | camofs (k : Nat) (rep : Bool) (slot : BitVec 2) (sel : BitVec 5)
/-- CAMLD (R414): Loads a cam table from cluster store into the active set. -/
  | camld (k : Nat) (rep : Bool) (slot : BitVec 2) (sel : BitVec 5)
/-- CPSYNC (R411): Completes once the engine has finished every earlier operation and copy. -/
  | cpsync (k : Nat) (rep : Bool) (slot : BitVec 2) (sel : BitVec 5)
/-- LANDING (R100): The result of a long operation lands in its slot or slots. -/
  | landing (k slot : Nat)
/-- STORE_DRAIN (R111): The oldest store buffer entry drains to local SRAM or enters the data fabric. -/
  | storeDrain (k : Nat)
/-- STORE_ACK (R267): The acknowledgement of a remote store arrives, possibly carrying an error. -/
  | storeAck (k ix : Nat)
/-- TRAP_ENTRY (R190): A due trap is entered at a word boundary, recording cause and vectoring. -/
  | trapEntry (k : Nat)
/-- INTERRUPT (R574): A core with its request line up and unmasked takes the trap INTERRUPT. -/
  | interrupt (k : Nat)
/-- WAIT_TIMEOUT (R147): The time-base deadline of a WAIT with T = 1 passes and it pushes 0. -/
  | waitTimeout (k : Nat)
/-- RESERVATION_EXPIRY (R182): A reservation is lost after 64 words executed since the LR. -/
  | reservationExpiry (k : Nat)
/-- PEG_HALT (R30): A peg halts a course, stopping fetch at the next word boundary. -/
  | pegHalt (n : Nat)
/-- COURSE_HALTED (R30): The peg reports the course halted once all outstanding responses have landed. -/
  | courseHalted (n : Nat)
/-- CHECKPOINT_WORD_LIMIT (R220): String A reaches 4,096 words since the last checkpoint and a checkpoint is called.
  -/
  | checkpointWordLimit (n : Nat)
/-- CHECKPOINT (R221): Both strings stop at the same word, the comparators are tested and the signatures compared. -/
  | checkpoint (n fault : Nat)
/-- SKEW_TIMEOUT (R224): One string has waited 1 ms while the other executes nothing, a mismatch with cause SKEW. -/
  | skewTimeout (n : Nat)
/-- LBIST_VERDICT (R225): LBIST of both strings ends and the tuner acts on the verdict. -/
  | lbistVerdict (n : Nat) (passA passB : Bool)
/-- TUNER_SELF_TEST_DONE (R225): The tuner self-test after a double pass ends, resuming both strings or recording a
  tuner fault. -/
  | tunerSelfTestDone (n cause : Nat)
/-- HANDOVER_QUIESCED (R234): Both strings have quiesced and string A's state is copied to B, completing a hand-over
  to unison. -/
  | handoverQuiesced (n : Nat)
/-- HANDOVER_TIMEOUT (R234): Quiescence takes over 100 µs; the hand-over is abandoned with TIMEOUT. -/
  | handoverTimeout (n : Nat)
/-- TUNER_TEST_DONE (R232): LBIST and the tuner self-test of TUNER_TEST end and set BADA, BADB and TFLT. -/
  | tunerTestDone (n : Nat) (passA passB : Bool) (tuner : Nat)
/-- CO_CTL_WRITE (R242): A write to CO.CTL takes effect at the next checkpoint or at once in split. -/
  | coCtlWrite (n : Nat) (w : Word)
/-- MEMORY_ACCESS (R251): A request reaching a course-local SRAM or cluster store bank is performed by its arbiter. -/
  | memoryAccess (b : Nat) (arrived : List Nat)
/-- SCRUB (R259): The patrol scrubber reads and corrects one word every SINT µs. -/
  | scrub (k w : Nat)
/-- MEMORY_CLEAR_DONE (R253): A domain powered up from off finishes clearing its memories and opens its gate. -/
  | memoryClearDone (p : Nat)
/-- DATA_FLIT_ERROR (R271): A data flit failing parity at a router input is passed on poisoned. -/
  | dataFlitError (k p what who ix : Nat)
/-- HEAD_FLIT_ERROR (R272): An uncorrectable head flit stops its input port and is handled as a fatal fabric error. -/
  | headFlitError (k p : Nat)
/-- GATHER_RECORD (R274): The gather collector takes one complete record from a cluster. -/
  | gatherRecord (arrived : BitVec 32)
/-- ECCINJ_WRITE (R286): A write to CL.ECCINJ arms an error injection for the next write to the named memory. -/
  | eccinjWrite (k : Nat) (w : Word)
/-- MAILBOX_SEND_ARRIVAL (R304): A mailbox SEND arrives at the home engine and is pushed or parked. -/
  | mailboxSendArrival (k : Nat)
/-- PARKED_SEND_PUSH (R304): A parked mailbox SEND is pushed when a place frees. -/
  | parkedSendPush (ch : Nat)
/-- PARKED_RECV_COMPLETE (R305): A parked RECV completes when a word becomes poppable. -/
  | parkedRecvComplete (ch : Nat)
/-- CREDIT_RETURN (R315): A batch of stream credits returns to the producer-side engine. -/
  | creditReturn (ch : Nat)
/-- TAIL_TIMER_EXPIRY (R312): A channel's tail timer expires, setting TAILF and closing a link-queue bank. -/
  | tailTimerExpiry (ch : Nat)
/-- CLOSE_DRAIN_END (R302): A draining channel close finds its queue empty and frees the slot. -/
  | closeDrainEnd (ch : Nat)
/-- CLOSE_DRAIN_LIMIT (R302): The drain limit of a channel close expires and the words left are counted. -/
  | closeDrainLimit (ch : Nat)
/-- DRONE_STEP (R364): The followed drone presents a step and the engine walks the passed positions. -/
  | droneStep (d : Nat)
/-- NOTE_FETCH (R372): The note fetch reads notes ahead from the active bank. -/
  | noteFetch (time : Bool) (n : Nat)
/-- NOTE_ISSUE (R373): The issue point hands the next due note to its lane queue. -/
  | noteIssue (bad : Nat)
/-- NOTE_START (R374): A lane starts a note once its ordering and fence conditions allow. -/
  | noteStart (lane hs : Nat) (data : List Word) (ep : List Nat)
/-- SIGNAL (R339): A note signal pulses its source once earlier notes have completed. -/
  | signal (lane : Nat)
/-- NOTE_COMPLETE (R333): A note's bytes are visible at its destination and it retires in lane order. -/
  | noteComplete (lane no : Nat)
/-- TAB_CLEAR_DONE (R352): The clear of a bank by TAB_OPEN completes. -/
  | tabClearDone (b : Nat)
/-- TAB_VERIFY_DONE (R354): Verification of an image ends, leaving the bank VERIFIED or OPEN. -/
  | tabVerifyDone (b : Nat)
/-- CAM_PERFORM (R401): The cam and profile engine performs the next accepted operation. -/
  | camPerform (e ecc at_ : Nat)
/-- CAMLD_COPY_END (R414): A CAMLD copy ends and replaces the table or fails. -/
  | camldCopyEnd (e ecc at_ : Nat)
/-- CAMTOFS_WRITE (R427): A write to CAMTOFS acts as CAMOFS for selector TSEL. -/
  | camtofsWrite (e : Nat) (w : Word)
/-- PORT_RECONFIGURE (R433): A CTL write changing MODE or SUB or setting RST reconfigures the port. -/
  | portReconfigure (p : Nat) (w : Word)
/-- PORT_READY (R433): The new mode's receivers settle; READY is set and held writes are applied. -/
  | portReady (p : Nat)
/-- PORT_LEVEL_CHANGE (R431): A change of LVL or TERM bits takes effect within 1 µs. -/
  | portLevelChange (p : Nat)
/-- PORT_DRIVE_ENABLE (R434): A write of DRVEN enables or disables the port's drivers. -/
  | portDriveEnable (p : Nat) (w : Word)
/-- ENC_COUNT (R444): A filtered encoder edge changes COUNT and may feed a drone. -/
  | encCount (p : Nat) (up both : Bool)
/-- ENC_PRESET (R443): A write to DATA0 in ENC presets the count. -/
  | encPreset (p : Nat) (w : Word)
/-- ENC_COMPARE_WRITE (R443): A write to OUT in ENC sets the compare value. -/
  | encCompareWrite (p : Nat) (w : Word)
/-- SSI_FRAME_START (R445): A write to OUT in SSI starts a frame. -/
  | ssiFrameStart (p : Nat) (w : Word)
/-- SSI_FRAME_END (R445): An SSI frame ends, updating the position or recording an error. -/
  | ssiFrameEnd (p : Nat) (raw : Word) (good : Bool)
/-- STEP_TARGET_WRITE (R453): A write to OUT in STEP sets a new target. -/
  | stepTargetWrite (p : Nat) (w : Word)
/-- STEP_PULSE (R453): The port issues one step pulse toward the target. -/
  | stepPulse (p : Nat)
/-- STEP_STOP (R453): A write to DATA0 in STEP stops the move and sets position and target. -/
  | stepStop (p : Nat) (w : Word)
/-- CAPTURE (R455): A selected edge is captured with time and drone-position stamps. -/
  | capture (p : Nat) (pairB fall : Bool) (stamp : Nat)
/-- SER_CHARACTER (R458): An asynchronous serial character is received into the open record. -/
  | serCharacter (p : Nat) (b : Byte) (frame parity brk : Bool)
/-- SER_RECORD_CLOSE (R458): An idle line closes the received record, which is pushed. -/
  | serRecordClose (p : Nat)
/-- SER_TRANSMIT (R459): The transmitter pops a record from TXH and sends its bytes. -/
  | serTransmit (p : Nat)
/-- DRN_SET_WRITE (R367): A write of DRN.SET writes a drone position, judged as advance, jump or reverse. -/
  | drnSetWrite (d : Nat) (w : Word)
/-- DRONE_CTL_WRITE (R447): A change of KIND keeps the position and owed steps. -/
  | droneCtlWrite (d : Nat) (w : Word)
/-- RATE_STEP (R450): The rate generator issues a step and ramps SPD toward RATE. -/
  | rateStep (d : Nat)
/-- LINK_TRAINED (R471): The port's receiver locks on node 1's IDLE stream and READY is set. -/
  | linkTrained (p : LineIn)
/-- STARTUP_ENUM (R472): The port sends ENUM to find the nodes. -/
  | startupEnum (p : Nat)
/-- ENUM_RETURN (R473): The returning ENUM gives NODES, or flags too many nodes. -/
  | enumReturn (p count : Nat) (err : Bool)
/-- ENUM_TIMEOUT (R472): No ENUM returns within 1 ms and start-up repeats. -/
  | enumTimeout (p : Nat)
/-- ECHO_REPLY (R474): A node's ECHO reply arrives and its delay is measured and written. -/
  | echoReply (p t : Nat) (ident : Word)
/-- LINK_CYCLE_START (R478): A link cycle begins and SYNC is sent. -/
  | linkCycleStart (p : Nat)
/-- DATA_FRAME_SEND (R479): The line falls free and the port starts the next waiting frame. -/
  | dataFrameSend (p : Nat)
/-- ACK_RECEIVED (R483): An ACK frees acknowledged frames and may trigger a retransmission. -/
  | ackReceived (p : Nat) (nak : Bool) (seen : Nat) (bytes : Word)
/-- ACK_TIMEOUT (R483): The oldest unacknowledged frame waits ACKTO and the stream is retransmitted. -/
  | ackTimeout (p k : Nat)
/-- LOCK_LOSS (R469): The port's receiver loses lock and the link goes down. -/
  | lockLoss (p : LineIn)
/-- STATUS_FRAME_RECEIVED (R488): A node's STATUS frame replaces its receive area. -/
  | statusFrameReceived (p n seq : Nat) (words : List Word) (good : Bool)
/-- MGMT_REPLY (R489): A MGMT reply arrives and completes LINK_NODE. -/
  | mgmtReply (p node word0 : Nat) (err : Bool) (data : Word)
/-- MGMT_TIMEOUT (R554): No MGMT reply arrives within 1 ms and LINK_NODE completes TIMEOUT. -/
  | mgmtTimeout (p : Nat)
/-- LINK_RESTART (R490): A write of OUT.RESTART runs start-up again. -/
  | linkRestart (p : Nat) (w : Word)
/-- PCIE_FUNCTION_RESET (R495): PERST, hot reset, link-down or D3hot resets only the PCI Express function. -/
  | pcieFunctionReset (kind : Nat)
/-- MSIX_MESSAGE (R499): An MSI-X message is sent after the data it announces. -/
  | msixMessage (v : Nat)
/-- ETH_FRAME_RECEIVED (R500): An Ethernet port takes in a frame and answers or drops it. -/
  | ethFrameReceived (k kind ret : Nat) (data : List Byte)
/-- ETH_LINK_LOSS (R603): An Ethernet port loses its link or is disabled and its crossings are reset. -/
  | ethLinkLoss (k : Nat)
/-- PTP_MESSAGE (R506): A PTP event or general message is processed by the ordinary clock. -/
  | ptpMessage (state : Nat) (sync : Bool) (ofs dly rate : Word) (step : BitVec 64) (answer : PtpEvent)
/-- TIME_BASE_STEP (R509): A write of TBCTL.STEP adds TBOFS to the time base or is refused. -/
  | timeBaseStep (w : Word)
/-- COMMAND_DOORBELL (R524): A write of CDB hands the filled ring entries to the module. -/
  | commandDoorbell (q : Nat) (w : Word)
/-- CCTL_ENABLE (R524): Setting CCTL.EN from 0 to 1 sets HEAD and TAIL to 0. -/
  | cctlEnable (q : Nat) (w : Word)
/-- COMMAND_TAKE (R528): The luthier takes the next command round-robin and checks it. -/
  | commandTake (hdr payload : List Byte) (raddr : Nat) (bad : Bool)
/-- RPOP_READ (R530): A read of RPOP returns and removes the oldest reply word. -/
  | rpopRead (q : Nat)
/-- RECOVER (R657): Recovers from FAULTED to STANDBY. -/
  | recover (ring : Bool)
/-- SOURCE_ASSERT (R566): An event source's input changes and the source becomes pending or counts an edge. -/
  | sourceAssert (src : Nat)
/-- PRESENTATION (R571): A pending source is decided and presented to an eligible core, waking it if asleep. -/
  | presentation (src : Nat)
/-- EDS_WRITE (R586): A write to an EDS register, clearing the source's state when SENSE or KIND changes. -/
  | edsWrite (src : Nat) (w : Word)
/-- EDG_RAISE (R568): A write of EDG.RAISE acts as one edge of the named source. -/
  | edgRaise (w : Word)
/-- EDG_CTL_WRITE (R573): A write of DELIVER 0 withdraws every presentation and holds sources pending. -/
  | edgCtlWrite (w : Word)
/-- HCOMPLETE_WRITE (R583): A write of EDG.HCOMPLETE completes a source held by the host. -/
  | hcompleteWrite (w : Word)
/-- GROUP_MASK_WRITE (R588): A change of a spread-group mask changes target sets. -/
  | groupMaskWrite (k : Nat) (hi : Bool) (w : Word)
/-- TCXO_START (R589): The TCXO starts and TCXOOK is set. -/
  | tcxoStart (khz : BitVec 18)
/-- CLK_PLLEN_WRITE (R589): A write of CLK.CTL.PLLEN starts or stops the PLLs. -/
  | clkPllenWrite (w : Word)
/-- PLL_LOCK (R589): A PLL locks. -/
  | pllLock (ix : Nat)
/-- CLOCK_SWITCH (R593): A write of CLK.CTL.SWITCH moves the periphery clocks to the PLLs or is refused. -/
  | clockSwitch (w : Word)
/-- CLOCK_SOURCE_FAULT (R595): A TCXO or PLL fault returns the periphery clocks to the FIO. -/
  | clockSourceFault (ix : Nat)
/-- FLUSH_ACK (R603): The reset side of a crossing leaves reset and acknowledges the flush, reopening traffic. -/
  | flushAck (u : Nat)
/-- HANDSHAKE_ANSWER (R621): An asked unit answers ACCEPT, DEFER or REFUSE in the entry handshake. -/
  | handshakeAnswer (u waited : Nat)
/-- ISLAND_POWER_UP_DONE (R614): An island switched on reaches its voltage and opens its gates. -/
  | islandPowerUpDone (k : Nat)
/-- RETENTION_EXIT_DONE (R615): An island or peg domain leaving RETENTION opens its gates without clearing. -/
  | retentionExitDone (u : Nat)
/-- REGULATOR_FAULT (R616): An island regulator faults; the island is shut without a handshake. -/
  | regulatorFault (k : Nat)
/-- VOLTAGE_SLEW_STEP (R55): An island regulator moves 5 mV toward its target. -/
  | voltageSlewStep (k : Nat)
/-- TEMPERATURE_SAMPLE (R617): Island and baseplate temperatures are sampled every 1 ms. -/
  | temperatureSample (base : BitVec 16) (isl : List (BitVec 16))
/-- WATCH_PERIOD (R627): The watch sequencer samples the enabled slots at the end of a period. -/
  | watchPeriod (samples : List (BitVec 2))
/-- STRAP_SAMPLE (R673): The straps are sampled 100 µs after LUT is on and the address is latched. -/
  | strapSample (slot : BitVec 5) (fu : Bool)
/-- FIRMWARE_CHECK (R680): The ROM loader finishes checking both slot headers. -/
  | firmwareCheck (bad : BitVec 2)
/-- BOOT_COMPLETE (R683): The device enters STANDBY, UNATTACHED. -/
  | bootComplete (us : Word)
/-- PRES_LATE_LOSS (R76): Loss of PRES_LATE is recognised and outputs float. -/
  | presLateLoss (which : BitVec 2)
/-- PEG_RING_TIMEOUT (R27): A management message is not acknowledged within 1 ms; the device enters FAULTED. -/
  | pegRingTimeout (u : Nat)
/-- PEG_STATUS (R691): The peg-bus STATUS frame returns state and attach status. -/
  | pegStatus (first : PegSym) (rest : List PegSym)
/-- PEG_IDENT (R691): The peg-bus IDENT frame returns 16 bytes of the identity record. -/
  | pegIdent (first : PegSym) (rest : List PegSym)
/-- PEG_ATTACH (R691): The peg-bus ATTACH wake frame attaches the module. -/
  | pegAttach (first : PegSym) (rest : List PegSym)
/-- PEG_DETACH (R691): The peg-bus DETACH frame starts an ordered detach. -/
  | pegDetach (first : PegSym) (rest : List PegSym)
/-- PEG_WAKE (R691): The peg-bus WAKE frame wakes the module from WATCH or HIBERNATE. -/
  | pegWake (first : PegSym) (rest : List PegSym)
/-- PEG_RESET (R691): The peg-bus RESET frame resets every domain but AON and reboots. -/
  | pegReset (first : PegSym) (rest : List PegSym)
/-- REGISTER_WRITE (R10): A write to a register field that has no row of its own. -/
  | registerWrite (a : Nat) (w : HostWord)
/-- PCIE_LINK_UP (R66): PCI Express link training completes and PCISTAT.LINKUP becomes 1, after which the function can
  take requests. -/
  | pcieLinkUp (speed width : Nat)
/-- PCIE_CONFIG_WRITE (R495): The host writes the function's configuration or MSI-X capability, changing Bus Master
  Enable, MSI-X Enable, Function Mask, a vector mask or the power state, and held pending messages are sent on
  unmasking. -/
  | pcieConfigWrite (field v : Nat) (w : Word)
/-- ETH_LINK_UP (R500): An Ethernet PHY completes auto-negotiation and ETHSTAT.LINK becomes 1, so the port takes
  frames again. -/
  | ethLinkUp (k rate : Nat)
/-- PTP_MESSAGE_INTERVAL (R506): A timer of the PTP ordinary clock runs out, so the stack sends its periodic messages
  or judges a receipt timeout under the profile's default message intervals. -/
  | ptpMessageInterval (state : Nat) (sent : PtpEvent)
/-- ENC_RATE_WINDOW (R443): A whole 1,000 µs window of the time base ends, and an ENC port loads DATA2.RATE with the
  signed counts of that window. -/
  | encRateWindow (p : Nat)
/-- VIN_SAMPLE (R641): VIN_24 is sampled every 100 µs into PWR.VIN, and VMIN takes the lowest value since it was last
  read. -/
  | vinSample (v : BitVec 16)
/-- GATHER_COMPLETE (R275): All records and the status word are written and the gather note completes. -/
  | gatherComplete
/-- FRAME_START (R327): A time-stave frame begins at T mod TPER = TALIGN. -/
  | frameStart
/-- TIME_NOTE_DUE (R369): A time-stave note falls due at frame start plus 16 × OFFSET ns. -/
  | timeNoteDue
/-- SPEED_WINDOW (R378): A 1,000 µs window ends; SPD is computed and overspeed judged. -/
  | speedWindow
/-- STAGING_END (R358): Staging of cam tables ends and the arming is confirmed or times out. -/
  | stagingEnd
/-- SUPPLY_LIMIT (R54): The port supply limits its current; all drivers float and ILIM is set. -/
  | supplyLimit
/-- SUPPLY_LIMIT_END (R638): The port-supply limit ends and LIMEND is set. -/
  | supplyLimitEnd
/-- PERST_RELEASE (R66): PERST_N rises and PCI Express link training begins. -/
  | perstRelease
/-- TBLO_READ (R512): A read of HST.TBLO captures the upper half into TBHI. -/
  | tbloRead
/-- NOP_COMMAND (R542): Command NOP does nothing and answers OK. -/
  | nopCommand
/-- IDENT (R542): Returns the 64-byte identity record. -/
  | ident
/-- DEV_STAT (R543): Returns the device state payload. -/
  | devStat
/-- CONFIGURE (R542): Moves between STANDBY and CONFIGURED. -/
  | configure
/-- HALT (R542): Enters HALTED and stops the tablature engine. -/
  | halt
/-- RESUME (R542): Leaves HALTED for RUNNING or CONFIGURED. -/
  | resume
/-- DETACH (R71): Starts an ordered detach. -/
  | detach
/-- POWER_MODE (R626): Starts entry into WATCH or HIBERNATE. -/
  | powerMode
/-- ISLAND (R544): Sets islands on, in retention or off, or their voltage. -/
  | island
/-- DOMAIN (R545): Sets a peg domain on, in retention or off. -/
  | domain
/-- COURSE (R547): Halts, resumes, resets or starts one or more courses. -/
  | course
/-- HANDOVER (R233): Hands a course over between split and unison. -/
  | handover
/-- TUNER_TEST (R232): Runs LBIST and the tuner self-test on a halted split course. -/
  | tunerTest
/-- MEM_READ (R550): Reads memory of the core address map. -/
  | memRead
/-- MEM_WRITE (R550): Writes memory of the core address map. -/
  | memWrite
/-- REG_READ (R551): Reads one register with its side effects. -/
  | regRead
/-- REG_WRITE (R551): Writes one register. -/
  | regWrite
/-- DRONE_SET (R552): Writes a drone position under R367. -/
  | droneSet
/-- CHAN_OPEN (R300): Opens a channel in a home cluster and returns its handle. -/
  | chanOpen
/-- CHAN_CLOSE (R302): Closes a channel, with or without drain. -/
  | chanClose
/-- CHAN_STAT (R303): Returns a channel descriptor and optionally clears its counters. -/
  | chanStat
/-- TAB_OPEN (R352): Opens a tablature bank for writing, optionally clearing it. -/
  | tabOpen
/-- TAB_WRITE (R353): Writes a payload into an OPEN bank. -/
  | tabWrite
/-- TAB_VERIFY (R354): Starts verification of the image in a bank. -/
  | tabVerify
/-- TAB_ARM (R357): Checks and arms a first start or changeover at position P. -/
  | tabArm
/-- TAB_CANCEL (R361): Cancels an armed first start or changeover. -/
  | tabCancel
/-- TAB_STAT (R363): Returns the tablature status payload. -/
  | tabStat
/-- LINK_NODE (R554): Reads or writes a Firos node register through MGMT. -/
  | linkNode
/-- KEY_SET (R555): Installs or removes an HMAC key for Ethernet commands. -/
  | keySet
/-- DUMP_READ (R665): Reads words of a dump or removal record. -/
  | dumpRead
/-- FLASH_ERASE (R556): Erases a host-writable flash sector. -/
  | flashErase
/-- FLASH_WRITE (R556): Writes bytes into a host-writable flash sector. -/
  | flashWrite
/-- FLASH_OP_DONE (R556): A flash erase or write finishes and its completion is posted. -/
  | flashOpDone
/-- HPOP_READ (R583): A read of EDG.HPOP returns and removes the oldest host delivery. -/
  | hpopRead
/-- LUTHIER_EVENT_SAMPLE (R727): Gorene samples level sources in service every 1 ms and completes inactive ones. -/
  | luthierEventSample
/-- SWITCH_COMPLETE (R593): The clock switch completes; LINKTX, Ethernet and PTP start. -/
  | switchComplete
/-- AUTO_SWITCH (R594): With AUTO set the luthier enables the PLLs and switches by itself. -/
  | autoSwitch
/-- DEFERRAL_LIMIT (R621): A unit's deferral passes 10 ms and it is taken as refusing. -/
  | deferralLimit
/-- PER_SWITCH_OFF (R626): After the completion is popped or 10 ms, PER is switched off. -/
  | perSwitchOff
/-- WAKE_FROM_WATCH (R631): The module wakes from WATCH and enters STANDBY. -/
  | wakeFromWatch
/-- WAKE_FROM_HIBERNATE (R632): The module wakes from HIBERNATE and runs insertion from step 5. -/
  | wakeFromHibernate
/-- BROWN_OUT (R637): An AON brown-out is latched and may wake the module. -/
  | brownOut
/-- BANK_CHARGED (R66): VIN_24 above the turn-on threshold and the bank charged; AON comes up. -/
  | bankCharged
/-- PRESENCE_DEBOUNCE (R66): Both PRES_LATE contacts are made for 20 ms and LUT is powered. -/
  | presenceDebounce
/-- BODY_COPY_DONE (R683): The chosen body is copied and hashed, and the ROM jumps to Gorene. -/
  | bodyCopyDone
/-- PER_POWERED (R66): PER is powered with ports OFF and the attach status becomes ATTACHED. -/
  | perPowered
/-- INPUT_LOSS (R50): VIN_24 falls below the input-loss threshold and is handled as a removal. -/
  | inputLoss
/-- OVERVOLTAGE (R51): VIN_24 exceeds the overvoltage disconnect and the ideal diode opens. -/
  | overvoltage
/-- REMOVAL_RECORD_WRITTEN (R76): The 512-byte removal record is completed in flash. -/
  | removalRecordWritten
/-- HOLD_UP_EXHAUSTED (R76): The hold-up bank is exhausted and AON and LUT lose power. -/
  | holdUpExhausted
/-- OWED_ERASE (R80): The luthier erases the other removal-record sector when an erase is owed. -/
  | owedErase
/-- DRAIN_COMPLETE (R71): Every channel is drained and the detach halts courses and posts its completion. -/
  | drainComplete
/-- DRAIN_LIMIT (R71): The detach drain limit expires and the detach goes on. -/
  | drainLimit
/-- DUMP_WRITTEN (R653): The fatal-error dump is written into the retention store. -/
  | dumpWritten
/-- DUMP_FLASH_COPY_DONE (R664): The dump is copied into the erased flash slot. -/
  | dumpFlashCopyDone
/-- DUMP_SLOT_ERASE_DONE (R664): The background erase of the other dump slot ends. -/
  | dumpSlotEraseDone
/-- RET_TEST_FORCE (R672): A write of RET.TEST.FORCE raises a fatal error with cause 10. -/
  | retTestForce
  deriving DecidableEq, Repr

end Sys2Proof
end

