-- ==== Sys2Proof/Decode.lean ====
section
/-! DEFINITION. The decoder of the command words (no row of the table has bits, so none decodes) and the decoder of
the 16-bit instruction words of a core (R130 to R154), which a core's word commands are checked against. -/

namespace Sys2Proof

/-- The command a table word spells. No row of spec/opcode_table.json gives its command any bits, so no word spells a
command. -/
def decodeTableWord (_nbits _w : Nat) : Option Instr := none

/-- What an instruction word of a core is (R131 to R150). The extension word, where the table shows one, is part of the
operation (R137). -/
inductive CoreOp where
  /-- A pair of short opcodes A and B (R132). -/
  | pair (a b : BitVec 7)
  /-- Constant of the field, sign-extended. -/
  | lit (f : BitVec 8)
  /-- Constant of the extension word, sign-extended. -/
  | litx (x : IWord)
  /-- Sets the upper half. -/
  | lithi (x : IWord)
  /-- Adds the field. -/
  | addi (f : BitVec 8)
  /-- Shift left by the field. -/
  | shli (n : BitVec 5)
  /-- Logical shift right by the field. -/
  | shri (n : BitVec 5)
  /-- Arithmetic shift right by the field. -/
  | sari (n : BitVec 5)
  /-- Rotate left by the field. -/
  | roli (n : BitVec 5)
  /-- Copy the entry at a depth. -/
  | pick (n : BitVec 3)
  /-- Branch. -/
  | br (f : BitVec 8)
  /-- Branch if zero. -/
  | bz (f : BitVec 8)
  /-- Branch if not zero. -/
  | bnz (f : BitVec 8)
  /-- Branch, extended offset. -/
  | brx (x : IWord)
  /-- Branch if zero, extended offset. -/
  | bzx (x : IWord)
  /-- Branch if not zero, extended offset. -/
  | bnzx (x : IWord)
  /-- Call of an address. -/
  | call (x : IWord)
  /-- Call of the top of the stack. -/
  | calli
  /-- Return. -/
  | ret
  /-- Jump to the top of the stack. -/
  | jmpi
  /-- Move to the return stack. -/
  | tor
  /-- Move from the return stack. -/
  | fromr
  /-- Copy the top of the return stack. -/
  | rget
  /-- Discard the top of the return stack. -/
  | rdrop
  /-- Repeat the next word, not interruptible. -/
  | rep (f : BitVec 8)
  /-- Repeat the next word, interruptible. -/
  | repi (f : BitVec 8)
  /-- Remote load. -/
  | ldr (slot size : BitVec 2) (sgn : Bool)
  /-- Store to any address. -/
  | str (size : BitVec 2)
  /-- Test and set. -/
  | tas (slot : BitVec 2)
  /-- Load and reserve. -/
  | lr (slot : BitVec 2)
  /-- Store conditional. -/
  | sc (slot : BitVec 2)
  /-- Agreed read. -/
  | agree (slot size : BitVec 2) (sgn : Bool)
  /-- Multiply. -/
  | mul (slot : BitVec 2) (uns : Bool)
  /-- Divide. -/
  | div (slot : BitVec 2) (uns : Bool)
  /-- Push a landing slot. -/
  | land (slot : BitVec 2)
  /-- Write a landing slot. -/
  | putl (slot : BitVec 2)
  /-- Wait for slots. -/
  | waitl (mask : BitVec 4)
  /-- Send on a channel. -/
  | send
  /-- Receive from a channel. -/
  | recv
  /-- Try to send. -/
  | sendt
  /-- Try to receive. -/
  | recvt
  /-- Wait for an event, awake. -/
  | wait (t : Bool)
  /-- Wait for an event, asleep. -/
  | sleep
  /-- Force a checkpoint. -/
  | ckpt
  /-- Barrier. -/
  | fence
  /-- Barrier that applies pending CSR writes. -/
  | sync
  /-- Barrier for fetch. -/
  | ifence
  /-- Read a CSR. -/
  | csrr (i : BitVec 8)
  /-- Write a CSR. -/
  | csrw (i : BitVec 8)
  /-- Software trap. -/
  | trap (f : BitVec 8)
  /-- Return from trap. -/
  | rett
  /-- Coprocessor operation 0x70 + op. -/
  | cp (op : BitVec 3) (slot : BitVec 2) (sel : BitVec 5)
  deriving DecidableEq, Repr

/-- Is the short opcode one of the table of R141? -/
def shortDefined (o : Nat) : Bool :=
  o ≤ 0x0A || (0x10 ≤ o && o ≤ 0x2A) || (0x30 ≤ o && o ≤ 0x37) || (0x40 ≤ o && o ≤ 0x47)

/-- The CSR indices that are assigned (R155, R721). -/
def csrAssigned (i : Nat) : Bool :=
  i ≤ 0x02 || (0x08 ≤ i && i ≤ 0x0B) || (0x10 ≤ i && i ≤ 0x14) || (0x18 ≤ i && i ≤ 0x1B) ||
    (0x20 ≤ i && i ≤ 0x22) || i = 0x28 || (0x30 ≤ i && i ≤ 0x33)

/-- Does the word take an extension word (R143: LITX, LITHI, BRX, BZX, BNZX, CALL)? -/
def needsExt (w : IWord) : Bool :=
  let o := w.toNat / 256
  o = 0x02 || o = 0x03 || o = 0x13 || o = 0x14 || o = 0x15 || o = 0x16

/-- Decodes a word with its extension word `x` (used only where the table shows one); none is an undefined word
(R151). On the luthier's strings opcodes 0x70 to 0x7F are undefined (R150). What REP and REPI may repeat is checked
beside the fetch of the repeated word (R148, R152). -/
def decodeWord (luthier : Bool) (w x : IWord) : Option CoreOp :=
  let n := w.toNat
  let o := n / 256
  let f := n % 256
  let f8 := BitVec.ofNat 8 f
  let sl := BitVec.ofNat 2 f
  let sz := BitVec.ofNat 2 (f / 4)
  let zero (op : CoreOp) : Option CoreOp := if f = 0 then some op else none
  let only (m : Nat) (op : CoreOp) : Option CoreOp := if f < m then some op else none
  if 128 ≤ o then
    let a := o - 128
    let b := f / 2
    if f % 2 = 1 then none
    else if shortDefined a && shortDefined b then some (.pair (BitVec.ofNat 7 a) (BitVec.ofNat 7 b)) else none
  else match o with
    | 0x01 => some (.lit f8)
    | 0x02 => zero (.litx x)
    | 0x03 => zero (.lithi x)
    | 0x04 => some (.addi f8)
    | 0x05 => only 32 (.shli (BitVec.ofNat 5 f))
    | 0x06 => only 32 (.shri (BitVec.ofNat 5 f))
    | 0x07 => only 32 (.sari (BitVec.ofNat 5 f))
    | 0x08 => only 32 (.roli (BitVec.ofNat 5 f))
    | 0x09 => only 7 (.pick (BitVec.ofNat 3 f))
    | 0x10 => some (.br f8)
    | 0x11 => some (.bz f8)
    | 0x12 => some (.bnz f8)
    | 0x13 => zero (.brx x)
    | 0x14 => zero (.bzx x)
    | 0x15 => zero (.bnzx x)
    | 0x16 => zero (.call x)
    | 0x17 => zero .calli
    | 0x18 => zero .ret
    | 0x19 => zero .jmpi
    | 0x1A => zero .tor
    | 0x1B => zero .fromr
    | 0x1C => zero .rget
    | 0x1D => zero .rdrop
    | 0x1E => some (.rep f8)
    | 0x1F => some (.repi f8)
    | 0x20 => if f < 32 && sz ≠ 3 && !(sz = 2 && 16 ≤ f) then some (.ldr sl sz (decide (16 ≤ f))) else none
    | 0x21 => if f < 16 && sl = 0 && sz ≠ 3 then some (.str sz) else none
    | 0x22 => only 4 (.tas sl)
    | 0x23 => only 4 (.lr sl)
    | 0x24 => only 4 (.sc sl)
    | 0x25 => if f < 32 && sz ≠ 3 && !(sz = 2 && 16 ≤ f) then some (.agree sl sz (decide (16 ≤ f))) else none
    | 0x26 => only 8 (.mul sl (decide (4 ≤ f)))
    | 0x27 => only 8 (.div sl (decide (4 ≤ f)))
    | 0x28 => only 4 (.land sl)
    | 0x29 => only 4 (.putl sl)
    | 0x2A => if f = 0 then none else only 16 (.waitl (BitVec.ofNat 4 f))
    | 0x30 => zero .send
    | 0x31 => zero .recv
    | 0x32 => zero .sendt
    | 0x33 => zero .recvt
    | 0x38 => only 2 (.wait (decide (f = 1)))
    | 0x39 => zero .sleep
    | 0x3A => zero .ckpt
    | 0x3B => zero .fence
    | 0x3C => zero .sync
    | 0x3D => zero .ifence
    | 0x40 => if csrAssigned f then some (.csrr f8) else none
    | 0x41 => if csrAssigned f then some (.csrw f8) else none
    | 0x48 => some (.trap f8)
    | 0x49 => zero .rett
    | _ =>
      if 0x70 ≤ o && o ≤ 0x77 && !luthier && f < 128 then
        some (.cp (BitVec.ofNat 3 (o - 0x70)) sl (BitVec.ofNat 5 (f / 4)))
      else none

/-- May REP and REPI repeat this word (R148)? -/
def repeatable (luthier : Bool) (w : IWord) : Bool :=
  let o := w.toNat / 256
  (decodeWord luthier w 0).isSome && !needsExt w && !(0x10 ≤ o && o ≤ 0x1F) && !(0x38 ≤ o && o ≤ 0x3D) &&
    !(o = 0x48) && !(o = 0x49)

/-! ### The encoder of a core's instruction words -/

/-- Does an instruction use only what its word can spell and no reserved field value (R140 to R144, R149 to R151)? -/
def CoreOp.wf (luthier : Bool) : CoreOp → Bool
  | .pair a b => shortDefined a.toNat && shortDefined b.toNat
  | .pick n => n ≠ 7
  | .ldr _ z g => z ≠ 3 && !(z = 2 && g)
  | .str z => z ≠ 3
  | .agree _ z g => z ≠ 3 && !(z = 2 && g)
  | .waitl m => m ≠ 0
  | .csrr i => csrAssigned i.toNat
  | .csrw i => csrAssigned i.toNat
  | .cp _ _ _ => !luthier
  | .lit _ | .litx _ | .lithi _ | .addi _ | .shli _ | .shri _ | .sari _ | .roli _ => true
  | .br _ | .bz _ | .bnz _ | .brx _ | .bzx _ | .bnzx _ | .call _ | .calli | .ret | .jmpi => true
  | .tor | .fromr | .rget | .rdrop | .rep _ | .repi _ => true
  | .tas _ | .lr _ | .sc _ | .mul _ _ | .div _ _ | .land _ | .putl _ => true
  | .send | .recv | .sendt | .recvt | .wait _ | .sleep | .ckpt | .fence | .sync | .ifence => true
  | .trap _ | .rett => true

/-- A long-form word of an opcode and a field (R131). -/
def longWord (o f : Nat) : IWord := BitVec.ofNat 16 (o * 256 + f)

/-- The field of LDR and AGREE (R143, R144). -/
def loadField (slot size : BitVec 2) (sgn : Bool) : Nat := slot.toNat + 4 * size.toNat + (if sgn then 16 else 0)

/-- The word of an instruction and its extension word, 0 where it has none (R131, R143, R144, R149). -/
def encodeWord : CoreOp → IWord × IWord
  | .pair a b => (BitVec.ofNat 16 (0x8000 + a.toNat * 256 + b.toNat * 2), 0)
  | .lit f => (longWord 0x01 f.toNat, 0)
  | .litx x => (longWord 0x02 0, x)
  | .lithi x => (longWord 0x03 0, x)
  | .addi f => (longWord 0x04 f.toNat, 0)
  | .shli n => (longWord 0x05 n.toNat, 0)
  | .shri n => (longWord 0x06 n.toNat, 0)
  | .sari n => (longWord 0x07 n.toNat, 0)
  | .roli n => (longWord 0x08 n.toNat, 0)
  | .pick n => (longWord 0x09 n.toNat, 0)
  | .br f => (longWord 0x10 f.toNat, 0)
  | .bz f => (longWord 0x11 f.toNat, 0)
  | .bnz f => (longWord 0x12 f.toNat, 0)
  | .brx x => (longWord 0x13 0, x)
  | .bzx x => (longWord 0x14 0, x)
  | .bnzx x => (longWord 0x15 0, x)
  | .call x => (longWord 0x16 0, x)
  | .calli => (longWord 0x17 0, 0)
  | .ret => (longWord 0x18 0, 0)
  | .jmpi => (longWord 0x19 0, 0)
  | .tor => (longWord 0x1A 0, 0)
  | .fromr => (longWord 0x1B 0, 0)
  | .rget => (longWord 0x1C 0, 0)
  | .rdrop => (longWord 0x1D 0, 0)
  | .rep f => (longWord 0x1E f.toNat, 0)
  | .repi f => (longWord 0x1F f.toNat, 0)
  | .ldr s z g => (longWord 0x20 (loadField s z g), 0)
  | .str z => (longWord 0x21 (4 * z.toNat), 0)
  | .tas s => (longWord 0x22 s.toNat, 0)
  | .lr s => (longWord 0x23 s.toNat, 0)
  | .sc s => (longWord 0x24 s.toNat, 0)
  | .agree s z g => (longWord 0x25 (loadField s z g), 0)
  | .mul s u => (longWord 0x26 (s.toNat + if u then 4 else 0), 0)
  | .div s u => (longWord 0x27 (s.toNat + if u then 4 else 0), 0)
  | .land s => (longWord 0x28 s.toNat, 0)
  | .putl s => (longWord 0x29 s.toNat, 0)
  | .waitl m => (longWord 0x2A m.toNat, 0)
  | .send => (longWord 0x30 0, 0)
  | .recv => (longWord 0x31 0, 0)
  | .sendt => (longWord 0x32 0, 0)
  | .recvt => (longWord 0x33 0, 0)
  | .wait t => (longWord 0x38 (if t then 1 else 0), 0)
  | .sleep => (longWord 0x39 0, 0)
  | .ckpt => (longWord 0x3A 0, 0)
  | .fence => (longWord 0x3B 0, 0)
  | .sync => (longWord 0x3C 0, 0)
  | .ifence => (longWord 0x3D 0, 0)
  | .csrr i => (longWord 0x40 i.toNat, 0)
  | .csrw i => (longWord 0x41 i.toNat, 0)
  | .trap f => (longWord 0x48 f.toNat, 0)
  | .rett => (longWord 0x49 0, 0)
  | .cp op s t => (longWord (0x70 + op.toNat) (s.toNat + 4 * t.toNat), 0)

end Sys2Proof
end

