-- ==== Sys2Proof/Machine/RegMap.lean ====
section
/-! DEFINITION. The map of the register space (R694, R700 to R720): which addresses hold a register, and the reset
values of the registers' stored fields. -/

namespace Sys2Proof.Machine

open Sys2Proof

/-- Reset value by offset in the GLB block (R700); latched, fuse and identity values are formed from Config. -/
def glbReset (o : Nat) : Nat :=
  if o = 0x000 then 1
  else if o = 0x020 then 0x7E + Config.svnMin % 64 * 256
  else if o = 0x028 then Config.romVer
  else 0

/-- Reset value by offset in the PWR block (R702). -/
def pwrReset (o : Nat) : Nat :=
  if o = 0x02C then 0xFFFF0000
  else if o = 0x038 then 1
  else if o = 0x03C then 0xFFFF
  else if o = 0x044 then 0x103E8
  else if o = 0x058 then 0x7FF
  else if 0x060 ≤ o ∧ o < 0x080 then 0x41A
  else 0

/-- Reset value by offset in the HST block (R704). -/
def hstReset (o : Nat) : Nat :=
  if o = 0x02C then 0x08080008
  else if o = 0x03C then 0x007000D8
  else if o = 0x040 ∨ o = 0x060 then 8
  else 0

/-- Reset value by offset in the CMD block (R705). -/
def cmdReset (o : Nat) : Nat :=
  let r := o % 0x20
  if r = 0x08 then 4 else 0

/-- Reset value by offset in the TAB block (R706). -/
def tabReset (o : Nat) : Nat :=
  if o = 0 then 3
  else if o = 0x030 then 0x7D0
  else if o = 0x034 then 0x3FF
  else if 0x080 ≤ o ∧ o < 0x100 ∧ o % 0x20 = 0 then 8
  else 0

/-- Reset value by offset in the RET block (R709). -/
def retReset (o : Nat) : Nat :=
  if o = 0 then 0x1F0 else if o = 0x10 then 2 else if o = 0x28 then 1 else 0

/-- Reset value by offset in a CL block (R717). -/
def clReset (o : Nat) : Nat :=
  if o = 0 then 0x103 else if o = 0x10 then 0x1000 else if o = 0x40 then 6 else 0

/-- The value a register's stored fields take at reset, by absolute address. -/
def regReset (a : Nat) : Word :=
  let b := a / 0x1000
  let o := a % 0x1000
  BitVec.ofNat 32 <|
    if b = 0x60000 then glbReset o
    else if b = 0x60001 then pwrReset o
    else if b = 0x60003 then hstReset o
    else if b = 0x60004 then cmdReset o
    else if b = 0x60005 then tabReset o
    else if b = 0x60006 then (if o < 0x200 ∧ o % 0x20 = 8 then 0x10000 else 0)
    else if b = 0x60007 then (if o = 0 then 1 else 0)
    else if b = 0x60008 then retReset o
    else if b = 0x60010 then (if 4 ≤ o ∧ o ≤ 0xFA0 then 0x210 else 0)
    else if 0x60100000 ≤ a ∧ a < 0x60102000 then (if a % 0x40 = 0x10 then 0xF00 else 0)
    else if 0x60200000 ≤ a ∧ a < 0x60202000 then clReset (a % 0x100)
    else 0

/-- Does the offset hold a register in its global block (R700 to R709)? -/
def globalPopulated (b o : Nat) : Bool :=
  if b = 0x60000 then o < 0x0C0
  else if b = 0x60001 then o < 0x100
  else if b = 0x60002 then o < 0x080
  else if b = 0x60003 then o < 0x180
  else if b = 0x60004 then o < 0x080 && o % 0x20 < 0x18
  else if b = 0x60005 then o < 0x140
  else if b = 0x60006 then o < 0x200
  else if b = 0x60007 then o < 0x080
  else if b = 0x60008 then o < 0x040
  else false

/-- Does an address of the register space hold a register (R250, R694, R710, R711)? -/
def regPopulated (a : Nat) : Bool :=
  if a % 4 ≠ 0 then false
  else if globalPopulated (a / 0x1000) (a % 0x1000) then true
  else if 0x60010004 ≤ a ∧ a ≤ 0x60010FA0 then true
  else if 0x60100000 ≤ a ∧ a < 0x60102000 then decide (a % 0x40 < 0x30)
  else if 0x60200000 ≤ a ∧ a < 0x60202000 then
    let o := a % 0x100
    o < 0x28 || (0x40 ≤ o && o < 0x60) || (0x80 ≤ o && o < 0x98)
  else if 0x60300000 ≤ a ∧ a < 0x60302000 then decide (a % 0x20 < 0x18)
  else false

end Sys2Proof.Machine
end

