-- ==== Sys2Proof/Machine/State.lean ====
section
/-! DEFINITION. The machine's state as plain data, what stops it, and the state after reset. -/

namespace Sys2Proof.Machine

open Sys2Proof

/-- A sparse table in canonical form: keys strictly rising, no entry at its default. -/
abbrev Tbl (α : Type) := List (Nat × α)

/-- Why a command has no meaning in the model. -/
inductive Refusal where
  /-- The command's arm has no meaning yet. Raised only by arms of the dispatch; safe: the run stops. -/
  | notModelled (mnemonic : String)
  deriving DecidableEq, Repr

/-- Why the machine stops. -/
inductive Fault where
  /-- Raised by no meaning: the spec gives every command of the table an effect, and an access to an address that
  does not exist the error response (R268), which is an effect. Kept so that the type is inhabited; safe. -/
  | none
  deriving DecidableEq, Repr

/-! ### A core -/

/-- A store waiting in a store buffer (R111): core address, bytes, data, address of the issuing word. -/
structure Store where
  addr : Nat
  size : Nat
  data : Word
  ipc : Nat
  deriving DecidableEq, Repr

/-- A request of a string in the data fabric, in the order in which it entered (R200, R201, R251). `kind` is 0 for a
load, 1 for a store, 2 for TAS, 3 for LR, 4 for SC; `done` with `resp` once performed (0 done, 1 error response,
2 rejection by a course in unison), `psn` when the data carry a poison tag (R271). `slot` 4 marks a request whose string
has been reset or has lost its power since: it is performed, and its answer goes nowhere (R30). -/
structure BusReq where
  kind : Nat
  slot : Nat
  addr : Nat
  size : Nat
  data : Word
  ipc : Nat
  psn : Bool
  done : Bool
  resp : Nat
  deriving DecidableEq, Repr

/-- A long operation in flight (R100): its opcode, landing slot, whether its result has two words, the address of the
issuing word, its operands, and its result once formed: the two words, the flags V and DZ to set, the trap cause to
raise (0 none), the coprocessor status and the data address of the trap record. -/
structure Flight where
  op : Nat
  slot : Nat
  wide : Bool
  ipc : Nat
  addr : Nat
  size : Nat
  sgn : Bool
  ready : Bool
  lo : Word
  hi : Word
  setV : Bool
  setDZ : Bool
  trap : Nat
  code : Nat
  taddr : Nat
  deriving DecidableEq, Repr

/-- A raised imprecise trap not yet taken (R108, R194, R196); `each` marks one that each string of a course in unison
raises for itself (R217, R239). -/
structure ITrap where
  cause : Nat
  store : Bool
  slot : Nat
  code : Nat
  ipc : Nat
  addr : Nat
  each : Bool
  deriving DecidableEq, Repr

/-- What a string waits for inside a word: 1 SLEEP; 2 WAIT; 3 WAIT with a time `arg`; 4 SEND on its way to a mailbox or
parked there; 5 SENDT on its way to a mailbox; 6 RECV parked; 7 a barrier. `arg` is the time or the handle, `val` the
word sent, `drop` the operands the word removes when it completes. -/
structure Wait where
  kind : Nat
  arg : Word
  val : Word
  drop : Nat
  parked : Bool
  deriving DecidableEq, Repr

/-- A repetition in progress (R171): REPI or REP, the repeated word, the address of the REP or REPI. -/
structure Rep where
  intr : Bool
  word : IWord
  at_ : Nat
  deriving DecidableEq, Repr

/-- A line buffer: the address of its 16-byte line and the line's eight words as refilled (R116). -/
structure Line where
  base : Nat
  words : List IWord
  deriving DecidableEq, Repr

/-- The reservation of a string (R181): granule by global address, words executed since the LR, and whether it has
been lost. -/
structure Resv where
  granule : Nat
  words : Nat
  deriving DecidableEq, Repr

/-- One core: a string of a course (R83 to R129, R158, R173, R181); `dhalt` while a double trap has halted it (R191);
`ownCkpt` is 1 once the word about to execute has called its checkpoint, 2 once that checkpoint has been made (R215, R218);
`resumed` while RETT has resumed a repetition and no iteration has run since (R193). -/
structure Core where
  pc : Nat := 0
  halted : Bool := true
  haltReq : Bool := false
  started : Bool := false
  stk : List Word := []
  rsFile : Tbl Word := []
  rsPtr : Nat := 0
  rsDepth : Nat := 0
  slots : Tbl Word := []
  flights : List Flight := []
  sbuf : List Store := []
  bus : List BusReq := []
  lines : List Line := []
  csr : Tbl Word := []
  pend : Tbl Word := []
  dpos : Nat := 0
  tbhi : Word := 0
  itraps : List ITrap := []
  wait : Option Wait := none
  rep : Option Rep := none
  resv : Option Resv := none
  words : Nat := 0
  traps : Nat := 0
  mskPend : Bool := false
  dhalt : Bool := false
  ownCkpt : Nat := 0
  resumed : Bool := false
  deriving DecidableEq, Repr

/-! ### A tuner -/

/-- One half of a compare-buffer pair (R205): kind 0 store, 1 SEND or SENDT, 2 COMPLETE, 3 engine operation
(`sel` the opcode, `addr` its field, `data2` the second operand); `priv` marks a store to the course's own SRAM, `place` a
SEND of string A that holds a place reserved in its channel (R211). -/
structure Entry where
  kind : Nat
  addr : Nat
  size : Nat
  data : Word
  data2 : Word
  sel : Nat
  slot : Nat
  ipc : Nat
  priv : Bool
  place : Bool
  deriving DecidableEq, Repr

/-- A pair of the compare buffer: string A's half, whether string B's equal half has been compared (R206), and the pair's
index, 0 to 63 (R244). -/
structure Pair where
  a : Entry
  compared : Bool
  no : Nat
  deriving DecidableEq, Repr

/-- An entry of the read log (R213, R214, R217). `kind` is the opcode of the read (its CSR index in `size` for CSRR),
or 0x100 an interrupt, 0x101 an imprecise trap taken by string A after word `word`; `slot` the landing slot, `vals` the values, `ready` once A
has them; `kept` for replay; `aTook` and `bTook` whether each string has consumed it. -/
structure LogEnt where
  kind : Nat
  addr : Nat
  size : Nat
  vals : List Word
  ready : Bool
  trap : Option ITrap
  word : Nat
  slot : Nat
  kept : Bool
  aTook : Bool
  bTook : Bool
  deriving DecidableEq, Repr

/-- Where a reply of a command goes (R516 to R519, R525): the queue, the command's SEQ, OPCODE and HANDLE, the reply area
of a ring, and for an Ethernet queue the key and the sender's address (R500, R503). -/
structure ReplyTo where
  queue : Nat
  seq : Nat
  opcode : Nat
  handle : Nat
  raddr : Nat
  key : Nat
  ret : Nat
  deriving DecidableEq, Repr

/-- A hand-over in progress (R234, R235): to unison or to split, string B's start address, whose reply is due, and
whether the strings had been halted. -/
structure Hand where
  toUnison : Bool
  start : Nat
  reply : ReplyTo
  wasHalted : Bool
  deriving DecidableEq, Repr

/-- One course: its tuner and its CO registers (R204 to R247, R720). -/
structure Course where
  ctl : Word := 1
  ctlPend : Option Word := none
  mode : Nat := 0
  check : Nat := 0
  degraded : Bool := false
  safe : Bool := false
  survB : Bool := false
  tflt : Bool := false
  badA : Bool := false
  badB : Bool := false
  dtrap : Bool := false
  mism : Bool := false
  replay : Bool := false
  mcause : Nat := 0
  verdict : Nat := 0
  dtcause : Nat := 0
  entry : Nat := 0
  dtstrB : Bool := false
  ckpts : Nat := 0
  miscnt : Nat := 0
  tfcnt : Nat := 0
  safeReg : Word := 0
  pairs : List Pair := []
  pairNo : Nat := 0
  bHalves : List Entry := []
  log : List LogEnt := []
  replaying : Bool := false
  snap : Option Core := none
  ckptAt : Option Nat := none
  hand : Option Hand := none
  test : Option ReplyTo := none
  locked : Bool := false
  discarded : Nat := 0
  deriving DecidableEq, Repr

/-! ### Channels -/

/-- A word of a queue with its poison tag (R322). -/
structure QWord where
  w : Word
  p : Bool
  deriving DecidableEq, Repr

/-- A close in progress (R302): the reply owed, and whether the queue is drained first. -/
structure Closing where
  reply : ReplyTo
  drain : Bool
  limit : Nat
  deriving DecidableEq, Repr

/-- A channel slot: descriptor, state and counters (R287 to R324). The words of a queue in cluster store lie in
memory, `rd` the place of the oldest and `depth` their number; the words of a link queue lie in `lq`. `lead` counts
the words at the tail that belong to a record not complete, `need` how many more it takes, `rem` the words of the
record being popped that remain; `batch` counts the credits that gather to a batch, `due` the batches still to be
returned; `wiped` whether its domain has been off since the channel was opened, so that it stays BROKEN. -/
structure Chan where
  opened : Bool := false
  gen : Nat := 0
  kind : Nat := 0
  fmt : Nat := 0
  k : Nat := 2
  crb : Nat := 0
  prod : Nat := 0
  cons : Nat := 0
  qbase : Nat := 0
  evsrc : Nat := 0
  evth : Nat := 1
  tailto : Nat := 0
  rd : Nat := 0
  depth : Nat := 0
  lq : List QWord := []
  lead : Nat := 0
  need : Nat := 0
  rem : Nat := 0
  reserved : Nat := 0
  broken : Bool := false
  wiped : Bool := false
  tailf : Bool := false
  closing : Option Closing := none
  gapPend : Bool := false
  gapSeq : Nat := 0
  gapCnt : Nat := 0
  credit : Nat := 0
  batch : Nat := 0
  due : List Nat := []
  lost : Nat := 0
  seq : Nat := 0
  psn : Nat := 0
  gaps : Nat := 0
  sends : List Nat := []
  recvs : List Nat := []
  tailAt : Nat := 0
  tailRun : Bool := false
  deriving DecidableEq, Repr

/-! ### Cam and profile engines -/

/-- An operation in an engine's stream (R401). `kind`: 0 a core's coprocessor operation `op` (0 to 7), 1 a CAMOUT note,
2 a set switch, 3 a register access of the host or a core. `who` is the core or the lane, `a` and `n` the operands, `job` the
note's issue number, for a core's operation 1 where its result lands in both strings of the course (R419). -/
structure CamOp where
  kind : Nat
  who : Nat
  op : Nat
  slot : Nat
  sel : Nat
  a : Nat
  n : Nat
  job : Nat
  deriving DecidableEq, Repr

/-- A CAMLD copy in progress (R414); `both` where its status lands in both strings of the course (R419). -/
structure CamCopy where
  core : Nat
  slot : Nat
  sel : Nat
  addr : Nat
  n : Nat
  both : Bool
  deriving DecidableEq, Repr

/-- A requester that offered an operation which the engine could not accept (R401): a lane with the number of its note, or a
core with the address of its word, and whether the operation is a CAMLD. -/
structure CamWait where
  lane : Bool
  who : Nat
  at_ : Nat
  ld : Bool
  deriving DecidableEq, Repr

/-- One cam and profile engine: its stream, the requesters waiting for a place, the operations released by courses in unison
and not yet accepted, the string last accepted (R401, R419), the CPSYNCs that wait for a copy (R402, R411), the two table
sets by selector, the active set, the offsets, the CAMLD copy, whether a staging copy runs (R400 to R402, R410), the words
of the active and of the shadow set found uncorrectable, as selector and word of the table (R421), and the set switch that
waits behind the old tablature's notes issued before a number (R385). -/
structure Cam where
  queue : List CamOp := []
  waits : List CamWait := []
  offers : List CamOp := []
  rr : Nat := 15
  syncs : List CamOp := []
  set0 : Tbl (List Byte) := []
  set1 : Tbl (List Byte) := []
  aset1 : Bool := false
  ofs : Tbl Nat := []
  copy : Option CamCopy := none
  staging : Bool := false
  bad : List (Nat × Nat) := []
  shadowBad : List (Nat × Nat) := []
  sw : Option Nat := none
  deriving DecidableEq, Repr

/-! ### The tablature engine -/

/-- A note that has fallen due (R365, R369): its stave (1 time), bank, index, due position, due moment, and whether its
position has been stamped. -/
structure Due where
  time : Bool
  bank : Nat
  idx : Nat
  pos : Nat
  stamp : Nat
  stamped : Bool
  deriving DecidableEq, Repr

/-- A note on a lane: its issue number, identity, due position and moment, its four words, whether it carries the
changeover fence, its issue moment, and its progress: 0 queued, 1 in flight, 2 complete. `moved` bytes were moved. -/
structure Job where
  no : Nat
  time : Bool
  bank : Nat
  idx : Nat
  pos : Nat
  due : Nat
  w0 : Word
  w1 : Word
  w2 : Word
  w3 : Word
  chg : Bool
  at_ : Nat
  st : Nat
  moved : Nat
  deriving DecidableEq, Repr

/-- A transfer lane: notes queued and in flight, in issue order (R373, R374), and whether it held one in flight in the
present microsecond (R397). -/
structure Lane where
  q : List Job := []
  fl : List Job := []
  busy : Bool := false
  deriving DecidableEq, Repr

/-- An armed or staging tablature (R356 to R358): P, the engines whose shadow sets it stages, NOW, bank, the reply owed, whether RUNNING was left, whether
staging has ended. -/
structure Arm where
  p : Word
  mask : Nat
  now : Bool
  bank : Nat
  reply : ReplyTo
  running : Bool
  staged : Bool
  deriving DecidableEq, Repr

/-- The gather in progress (R273 to R275): its note, mask, store offset, record bytes, destination address, the pointer,
the records read and on their way, the clusters whose records wait complete (with the words read and whether replaced), those taken, and those
replaced. -/
structure Gather where
  lane : Nat
  job : Nat
  mask : Nat
  off : Nat
  b : Nat
  dst : Nat
  ptr : Nat
  read : Tbl (List QWord × Bool)
  recs : Tbl (List QWord × Bool)
  taken : List Nat
  replaced : Nat
  failed : Bool
  deriving DecidableEq, Repr

/-- The tablature store's state and the tablature engine (R349 to R397): bank states and the clears and verifications that
run; the armed and the active bank; the bank whose time stave is in force, and the banks whose time staves follow it, each
with the moment at or after which it begins (R359, R368, R509); due notes; the frame in hand and the next note of it; the
notes read ahead for the staves of the active bank and of the other (R372, R384), and the due notes counted as waiting for
their fetch; lanes; the changeover fence owed; the speed window; the gather; and the walk's direction. -/
structure Tab where
  stA : Nat := 0
  stB : Nat := 0
  clearA : Option ReplyTo := none
  clearB : Option ReplyTo := none
  verA : Option ReplyTo := none
  verB : Option ReplyTo := none
  arm : Option Arm := none
  active : Option Nat := none
  tsBank : Option Nat := none
  tsQ : List (Nat × Nat) := []
  lasterr : Word := 0
  dueP : List Due := []
  dueT : List Due := []
  frame : Option Nat := none
  tIdx : Nat := 0
  fetchP : Nat := 0
  fetchT : Nat := 0
  fetchP2 : Nat := 0
  fetchT2 : Nat := 0
  stalled : List Due := []
  issueNo : Nat := 0
  lanes : Tbl Lane := []
  chgDue : Bool := false
  win : Nat := 0
  winIdx : Nat := 0
  gather : Option Gather := none
  stopped : Bool := false
  lastFwd : Bool := false
  deriving DecidableEq, Repr

/-! ### Field ports and drones -/

/-- A record a port holds waiting for credit (R441): TAG and data words. -/
structure PRec where
  tag : Nat
  words : List Word
  deriving DecidableEq, Repr

/-- A field port's engine beside its registers (R430 to R460): the mode applied, READY and the holds, receiver levels,
writes held until READY (register offset and value), a level change settling on each pair, records waiting for credit, dead
times of the capture pairs, the SSI frame and whether a good one has come since the reconfiguration, the rate window, the serial
receiver, the bytes of the popped record that are still to be sent, and whether the transmitter has sent since it last found
TXH empty. -/
structure Port where
  mode : Nat := 0
  sub : Nat := 0
  ready : Bool := false
  ilim : Bool := false
  safeh : Bool := false
  safec : Nat := 0
  rxa : Bool := false
  rxb : Bool := false
  held : List (Nat × Word) := []
  settleA : Bool := false
  settleB : Bool := false
  wait : List PRec := []
  deadA : Nat := 0
  deadB : Nat := 0
  ssiBusy : Bool := false
  ssiFree : Nat := 0
  moving : Bool := false
  rateCnt : Word := 0
  rateWin : Nat := 0
  rxBytes : List Byte := []
  rxOpen : Bool := false
  rxFrame : Bool := false
  rxParity : Bool := false
  rxBreak : Bool := false
  tx : List Byte := []
  txSent : Bool := false
  ssiGood : Bool := false
  deriving DecidableEq, Repr

/-- A drone beside its registers (R447 to R450): owed steps, the accumulator's fraction in units of 2^-16,
SRCDOWN, the moment the rate generator was last advanced, and its fraction of a step in units of 2^-9 ns per
second. -/
structure Drone where
  backlog : Int := 0
  frac : Int := 0
  down : Bool := false
  lastRamp : Nat := 0
  phase : Int := 0
  deriving DecidableEq, Repr

/-! ### The device, commands and replies -/

/-- The device states (R536). -/
inductive DevState where
  | boot | standby | configured | armed | running | changeover | halted | faulted | detaching | watch | hibernate
  deriving DecidableEq, Repr

/-- A command packet as the luthier reads it (R516, R523): its queue, header fields, payload and reply address. `resv`
holds the reserved bits [15:12] of word 0; `hurt` the words of its data that a flit error has poisoned in the fabric (R271). -/
structure Packet where
  queue : Nat
  opcode : Nat
  flags : Nat
  resv : Nat
  seq : Nat
  handle : Nat
  length : Nat
  p2 : Word
  p3 : Word
  payload : List Byte
  raddr : Nat
  key : Nat
  ret : Nat
  hurt : List Nat
  deriving DecidableEq, Repr

/-- A reply or completion kept for an Ethernet queue (R504, R535): SEQ, and the bytes of reply and completion. -/
structure Kept where
  seq : Nat
  reply : List Byte
  comp : List Byte
  deriving DecidableEq, Repr

/-- A command queue (R522 to R533): its reply register, expected SEQ, the wake note owed on its next reply, and for an
Ethernet queue the packets waiting, the kept replies and the reply's return address. -/
structure Queue where
  replies : List Word := []
  expect : Option Nat := none
  tail : Nat := 0
  head : Nat := 0
  wake : Bool := false
  wakeFail : Bool := false
  packets : List Packet := []
  kept : List Kept := []
  deriving DecidableEq, Repr

/-- What leaves the device: a posted write to host memory, an MSI-X message, an Ethernet datagram, bytes on the peg bus,
a frame on a Firos link, a step pulse, bytes of a serial transmitter, an SSI clock burst, the answer to a host's read of a register whose read has an
effect. -/
inductive Output where
  | tlp (addr : Nat) (bytes : List Byte) (poison : Bool)
  | msix (vector : Nat) (addr : Nat) (data : Word)
  | datagram (port : Nat) (dest : Nat) (bytes : List Byte)
  | peg (tokens : List PegSym)
  | firos (port : Nat) (kind : Nat) (line : List (BitVec 10))
  | step (port : Nat) (forward : Bool)
  | serial (port : Nat) (bytes : List Byte)
  | ssi (port : Nat)
  | read (addr : Nat) (value : Word)
  deriving DecidableEq, Repr

/-- An event source (R562 to R582): state 0 idle, 1 pending, 2 presented, 3 in service; COUNT; holder; SAT; the input
as last sampled; the moment it came to owe its event; whether it stands without target; and its crossing: a pulse on its
way, a further pulse behind it, and the pulses merged (R602). -/
structure Src where
  st : Nat := 0
  count : Nat := 0
  holder : Nat := 0
  sat : Bool := false
  input : Bool := false
  since : Nat := 0
  notgt : Bool := false
  pulseBusy : Bool := false
  again : Bool := false
  merged : Nat := 0
  deriving DecidableEq, Repr

/-- A delivery in the host list (R582). -/
structure HostDel where
  src : Nat
  prio : Nat
  vector : Nat
  deriving DecidableEq, Repr

/-- The states of a peg's domain or an island (R610, R612): coming up counts as off until its gates open. -/
inductive PegState where
  | off | ret | on | rising
  deriving DecidableEq, Repr

/-- A peg's domain: its state, and whether its memories still have to be cleared before its gate opens (R253). -/
structure Peg where
  st : PegState := .off
  clearing : Bool := false
  deriving DecidableEq, Repr

/-! ### Firos links -/

/-- A bank of a link queue closed and waiting to be taken as a frame (R299, R340, R484): its words, the slot its LINKSEND
named, its place in the port's order of handing, the lane and note that closed it (lane 9 none), the moment it was
handed, the start of its slot (that moment where the slot does not exist), and whether the slot had begun or did not
exist. -/
structure LBank where
  len : Nat
  slot : Option Nat
  ord : Nat
  lane : Nat
  job : Nat
  at_ : Nat
  start : Nat
  late : Bool
  deriving DecidableEq, Repr

/-- A DATA frame of a stream, from its bank's taking to its acknowledgement (R479 to R484): SEQ, payload, slot wanted,
SLOT sent, order of handing, the note that waits for its EOF, the start of its slot and whether it was handed after it,
whether it has been sent,
whether it waits to be sent again, when it was last sent, and whether it carries FRESH. -/
structure LFrame where
  seq : Nat
  words : List QWord
  slot : Option Nat
  slotNo : Nat
  ord : Nat
  lane : Nat
  job : Nat
  start : Nat
  late : Bool
  sent : Bool
  again : Bool
  sentAt : Nat
  fresh : Bool := false
  deriving DecidableEq, Repr

/-- A stream of a LINK port (R481 to R485): the channel slot whose link queue it is, the next SEQ, whether FRESH is owed,
the retransmissions in a row, the slot of the last LINKSEND, the banks closed and not taken, and the frames not yet
acknowledged. -/
structure Stream where
  chan : Option Nat := none
  next : Nat := 0
  fresh : Bool := true
  retries : Nat := 0
  lastSlot : Nat := 0
  banks : List LBank := []
  frames : List LFrame := []
  deriving DecidableEq, Repr

/-- A receive area of a node (R488). -/
structure Area where
  seq : Nat := 0
  len : Nat := 0
  valid : Bool := false
  tb : Nat := 0
  words : List Word := []
  deriving DecidableEq, Repr

/-- A LINK_NODE access in progress (R489, R554): the node, word 0 of the request, the data, whether its frame has been
sent, whether it is the module's own write of a DELAY register, and the reply owed. -/
structure Mgmt where
  node : Nat
  word0 : Nat
  data : Word
  sent : Bool
  reply : Option ReplyTo
  deriving DecidableEq, Repr

/-- A link receiver's symbol state (R467, R469): its running disparity (true: positive), the commas since the last code error,
which of the last 16 symbols were code errors (the last first), and the symbols since the last comma. -/
structure Rx where
  plus : Bool := false
  commas : Nat := 0
  errs : List Bool := []
  since : Nat := 0
  deriving DecidableEq, Repr

/-- The link of a port in LINK (R466 to R491). `lstate` is 0 DOWN, 1 STARTING, 2 UP; `up` the start-up's next step: 0
none, 3 ENUM to be sent, 4 ENUM awaited, 5 ECHO of node `echo` to be sent, 6 its reply awaited, 7 the last node's DELAY to be
sent. `plus` is the transmitter's running disparity, `rx` the receiver's symbol state. -/
structure Link where
  plus : Bool := false
  rx : Rx := {}
  locked : Bool := false
  lstate : Nat := 0
  up : Nat := 0
  echo : Nat := 0
  nodes : Nat := 0
  topo : Bool := false
  rtt : Nat := 0
  idents : List Word := []
  lastNodes : Nat := 0
  lastIdents : List Word := []
  started : Bool := false
  streams : Tbl Stream := []
  areas : Tbl Area := []
  ord : Nat := 0
  cycle : Option Nat := none
  cycLen : Nat := 0
  syncDue : Bool := false
  mgmt : List Mgmt := []
  retx : Nat := 0
  crcerr : Nat := 0
  slotlate : Nat := 0
  upmiss : Nat := 0
  deriving DecidableEq, Repr

/-! ### Host interfaces -/

/-- An Ethernet command key (R503): the key, the last host counter accepted, the device's next counter. -/
structure Key where
  key : List Byte := []
  host : Nat := 0
  dev : Nat := 1
  deriving DecidableEq, Repr

/-- The PCI Express function beside its HST registers (R492 to R499): whether PERST_N is high, the MSI-X vectors masked
and pending, whether the host set a maximum payload of 256 bytes, the base address registers, by index from BAR0's low half, and
the words of the MSI-X table but the vector controls, by their offset in BAR2. -/
structure Pcie where
  perst : Bool := false
  masked : List Nat := []
  pend : List Nat := []
  mps256 : Bool := false
  bars : Tbl Word := []
  table : Tbl Word := []
  deriving DecidableEq, Repr

/-- The PTP ordinary clock (R506, R513): the fields of PTPCTL taken when EN rose, and the Sync messages in a row within
±1 µs, and the stamps of the last event message received and sent (R507). -/
structure Ptp where
  ctl : Word := 0
  good : Nat := 0
  rxStamp : Nat := 0
  txStamp : Nat := 0
  deriving DecidableEq, Repr

/-! ### Clocks, power, attach, boot -/

/-- The attach status (R64). -/
inductive Attach where
  | unattached | attached | detaching | removed
  deriving DecidableEq, Repr

/-- Where BOOT stands (R683): not in BOOT; LUT on, straps not yet sampled; straps sampled; headers checked, the body of
`b` (slot B) being copied; body copied, Gorene running; in rescue. -/
inductive BootStep where
  | none | lutOn | strapped | copying (b : Bool) | gorene | rescue
  deriving DecidableEq, Repr

/-- An ordered detach in progress (R69 to R72): the reply owed (none from the peg bus), the stop position until it is
its last note is issued, whether the drone has reached it, the drain limit in ms, whether the drain runs,
whether the courses are being halted (R71 step 4), and whether a fatal error ended the drain (R74). -/
structure Detach where
  reply : Option ReplyTo
  stop : Option Word
  reached : Bool
  limit : Nat
  drain : Bool
  halting : Bool
  fault : Bool
  deriving DecidableEq, Repr

/-- The removal record to come (R76 to R81): cause and flags, whether it is due to be written, its fields from STATE to CHOPEN
as captured at recognition, the channels not drained, the items left, and the commands left without answer. -/
structure Removal where
  cause : Nat
  flags : Nat
  due : Bool
  bytes : List Byte
  left : Nat
  items : Nat
  cmdopen : Nat
  deriving DecidableEq, Repr

/-- A unit asked in the entry handshake (R621): coded as R546, its answer (0 none, 1 accepted, 2 deferred), the reason of
its last DEFER, the 10 µs units it has spent deferred, and the count of mismatches and tuner faults of its courses when it
answered (R623). -/
structure Asked where
  unit : Nat
  ans : Nat
  reason : Nat
  wait : Nat
  mark : Nat
  deriving DecidableEq, Repr

/-- The power command in progress (R620 to R626, R726): kind 0 ISLAND, 1 DOMAIN, 2 POWER_MODE; its mode; the islands
still to handle, in ascending order, or the peg; those handled; the target of the handshake that runs (R640 TARGET; 0
none), its units, and the courses it halted. `step` for POWER_MODE: 0 handshake, 1 completion posted. -/
structure PowerCmd where
  kind : Nat
  mode : Nat
  todo : List Nat
  handled : List Nat
  vset : Option Nat
  reply : ReplyTo
  target : Nat
  units : List Asked
  halted : List Nat
  step : Nat
  rising : Option Nat
  deriving DecidableEq, Repr

/-- A flash erase or write in progress (R556). -/
structure FlashOp where
  erase : Bool
  addr : Nat
  bytes : List Byte
  reply : ReplyTo
  deriving DecidableEq, Repr

/-- A COURSE HALT in progress (R547): the reply owed and the courses not yet reported halted. -/
structure HaltCmd where
  reply : ReplyTo
  todo : List Nat
  deriving DecidableEq, Repr

/-- The module as a receiver of the peg bus (R689): whether it has joined, whether a MARK has come, and the bits since. -/
structure PegBus where
  joined : Bool := false
  marked : Bool := false
  bits : List Bool := []
  deriving DecidableEq, Repr

/-- The module as a whole: supply, contacts, domains, straps, boot, attach, power, flash and dump work; `gone` names the units that
the peg ring has not reached (R27); `wctl` and `wtimer` are PWR.WCTL and WTIMER as POWER_MODE took them (R625). -/
structure Sys where
  vin : Bool := false
  contacts : Bool := false
  aon : Bool := false
  lutRet : Bool := false
  per : Bool := false
  identBuilt : Bool := false
  pegAddr : Option Nat := none
  slot : Nat := 0
  bootFu : Bool := false
  boot : BootStep := .none
  attach : Attach := .unattached
  attachReq : Bool := false
  detach : Option Detach := none
  removal : Option Removal := none
  ovp : Bool := false
  rack : Bool := false
  ip0 : Word := 0
  ip1 : Word := 0
  clkAuto : Bool := true
  power : Option PowerCmd := none
  perOffDue : Bool := false
  wakeHeld : Option (Nat × Nat) := none
  waking : Bool := false
  woken : Bool := false
  dumped : Bool := false
  crcs : Tbl Nat := []
  debounce : Nat := 0
  wctl : Word := 0x103E8
  wtimer : Word := 0
  psupLim : Bool := false
  flash : Option FlashOp := none
  flashWait : List FlashOp := []
  owedErase : Option Nat := none
  dumpErase : Option Nat := none
  dumpDue : Bool := false
  second : Bool := false
  dumpState : Nat := 0
  halts : List HaltCmd := []
  svnMin : Option Nat := none
  dumpSeq : Nat := 0
  recSeq : Nat := 0
  gone : List Nat := []
  bus : PegBus := {}
  deriving DecidableEq, Repr

/-- The arbiter of a memory bank (R252): the requesters whose requests wait at it, in their order of arrival (a core's number,
1024 the gather), and the input port it served last. -/
structure Bank where
  waiting : List Nat := []
  last : Nat := 3
  deriving DecidableEq, Repr

/-- The patrol scrubber of a cluster (R259): the place of the next word it visits, and the moment of its last visit. -/
structure Scrub where
  pos : Nat := 0
  at_ : Nat := 0
  deriving DecidableEq, Repr

/-- The device. `mem` is every byte that does not read blank, by global address; `poison` the words that carry a poison
tag or an uncorrectable error, `sbe` those with a single-bit error; `regs` every register whose stored value differs from
its reset value, by address; `tb` the time base in ns, with `frac` its fraction in units of 2^-40 ns; `free` counts the
open values taken; `out` what has left the device, oldest first; `flits` what each cluster's router has sent, `stalls` the flits
found to have waited and those sent when they were last counted (R281). -/
structure Chip where
  mem : List Host.Cell := []
  poison : List Nat := []
  sbe : List Nat := []
  regs : Tbl Word := []
  tb : Nat := 0
  frac : Nat := 0
  free : Nat := 0
  out : List Output := []
  cores : Tbl Core := []
  courses : Tbl Course := []
  memResv : Tbl (List Nat) := []
  chans : Tbl Chan := []
  cams : Tbl Cam := []
  tab : Tab := {}
  ports : Tbl Port := []
  links : Tbl Link := []
  drones : Tbl Drone := []
  stopped : List Nat := []
  banks : Tbl Bank := []
  scrubs : Tbl Scrub := []
  flits : Tbl Word := []
  stalls : Tbl (Word × Word) := []
  pegs : Tbl Peg := []
  islands : Tbl PegState := []
  srcs : Tbl Src := []
  hostList : List HostDel := []
  flushing : List Nat := []
  pcie : Pcie := {}
  keys : Tbl Key := []
  ptp : Ptp := {}
  dev : DevState := .boot
  queues : Tbl Queue := []
  accepted : List ReplyTo := []
  cur : Option Packet := none
  lastQueue : Nat := 5
  lut : Bool := false
  fixedUnison : Bool := false
  sys : Sys := {}
  deriving DecidableEq, Repr

/-- The machine's state: the device, and the commands that wait, oldest first. -/
structure State where
  chip : Chip := {}
  pending : List Instr := []
  deriving DecidableEq, Repr

/-- The machine right after reset: no supply, every register at its reset value, every memory blank, no command. -/
def State.reset : State := {}

end Sys2Proof.Machine
end

