-- ==== Sys2Proof/WellFormed.lean ====
section
/-! DEFINITION. Well-formed commands: every unit an operand names exists. A command that names a unit the device does not have
cannot reach it. -/

namespace Sys2Proof

/-- Is a number a core, the luthier's two included (R84, R240)? -/
def isCore (k : Nat) : Bool := decide (k < 514)

/-- Is a number a course, the luthier's included? -/
def isCourse (n : Nat) : Bool := decide (n < 257)

/-- Is a number a field port? -/
def isPort (p : Nat) : Bool := decide (p < 128)

/-- Is a number a drone? -/
def isDrone (d : Nat) : Bool := decide (d < 16)

/-- Is a number a cluster? -/
def isCluster (k : Nat) : Bool := decide (k < 32)

/-- Is a number a landing slot? -/
def isSlot (s : Nat) : Bool := decide (s < 4)

/-- Is a number a channel slot (R293)? -/
def isChan (s : Nat) : Bool := decide (s < 4096)

/-- Is a number a ring queue (R522)? -/
def isRing (q : Nat) : Bool := decide (q < 4)

/-- Is a number a bank of the tablature store? -/
def isBank (b : Nat) : Bool := decide (b < 2)

/-- Is a number an island? -/
def isIsland (k : Nat) : Bool := decide (k < 8)

/-- Is a number a peg's domain? -/
def isPeg (p : Nat) : Bool := decide (p < 64)

/-- Is a number a transfer lane? -/
def isLane (l : Nat) : Bool := decide (l < 4)

/-- Is a number a stream of a port? -/
def isStream (k : Nat) : Bool := decide (k < 4)

/-- Is a number an Ethernet port? -/
def isEth (k : Nat) : Bool := decide (k < 2)

/-- Is a number a PLL? -/
def isPll (i : Nat) : Bool := decide (i < 4)

/-- Is a number a PLL, or 4 the TCXO? -/
def isClock (i : Nat) : Bool := decide (i < 5)

/-- Is a number an MSI-X vector? -/
def isVector (v : Nat) : Bool := decide (v < 64)

/-- Is a number a link speed, 1 to 3? -/
def isSpeed (v : Nat) : Bool := decide (v < 4)

/-- Is a number a kind of function reset? -/
def isResetKind (v : Nat) : Bool := decide (v < 4)

/-- A write of the PCI Express function's structures: field 0 to 6; of field 3 a doubleword of BAR2, of field 6 a base address
register, else no index. -/
def isCfgWrite (field v : Nat) : Bool :=
  decide (field < 7) && (if field = 3 then decide (v < 8192) && decide (v % 4 = 0) else if field = 6 then decide (v < 4) else decide (v = 0))

/-- The byte enables of a doubleword. -/
def isEnables (v : Nat) : Bool := decide (v < 16)

/-- Which event message a PTP step stamps: 0 none, 1 the one received, 2 the one sent. -/
def isStampKind (v : Nat) : Bool := decide (v < 3)

/-- Is a number what memory meets: nothing, a single-bit error, an uncorrectable one? -/
def isEcc (v : Nat) : Bool := decide (v < 3)

/-- Is a number an input port of a router? -/
def isInput (p : Nat) : Bool := decide (p < 6)

/-- Are numbers requesters of a memory bank: cores, or 1024 for the gather? -/
def areRequesters (l : List Nat) : Bool := l.all (fun k => isCore k || decide (k = 1024))

/-- Is a number an event source (R562)? -/
def isSource (s : Nat) : Bool := decide (1 ≤ s) && decide (s < 1001)

/-- Is a number a lane count of a PCI Express link (R492)? -/
def isWidth (v : Nat) : Bool := decide (v = 1) || decide (v = 2) || decide (v = 4)

/-- Is a number a failure of a tuner's checker: none, comparators, parity (R230)? -/
def isFlaw (v : Nat) : Bool := decide (v = 0) || decide (v = 5) || decide (v = 6)

/-- Is a number a unit whose crossings are reset: a port, the PCI Express function, an Ethernet port (R603)? -/
def isCrossing (u : Nat) : Bool := decide (u < 128) || (decide (200 ≤ u) && decide (u < 203))

/-- Is a number an island controller or, from 0x40, a peg (R546)? -/
def isPowerUnit (u : Nat) : Bool := decide (u < 8) || (decide (0x40 ≤ u) && decide (u < 0x80))

/-- Is a number the address of a register word (R9, R250)? -/
def isRegister (a : Nat) : Bool := decide (0x60000000 ≤ a) && decide (a < 0x61000000) && decide (a % 4 = 0)

/-- Is a command well formed? -/
def Instr.wf : Instr → Bool
  | .pair k _ _ _ => isCore k
  | .lit k _ _ => isCore k
  | .litx k _ => isCore k
  | .lithi k _ => isCore k
  | .addi k _ _ => isCore k
  | .shli k _ _ => isCore k
  | .shri k _ _ => isCore k
  | .sari k _ _ => isCore k
  | .roli k _ _ => isCore k
  | .pick k _ _ => isCore k
  | .br k _ => isCore k
  | .bz k _ => isCore k
  | .bnz k _ => isCore k
  | .brx k _ => isCore k
  | .bzx k _ => isCore k
  | .bnzx k _ => isCore k
  | .call k _ => isCore k
  | .calli k => isCore k
  | .ret k => isCore k
  | .jmpi k => isCore k
  | .tor k => isCore k
  | .fromr k => isCore k
  | .rget k => isCore k
  | .rdrop k => isCore k
  | .rep k _ => isCore k
  | .repi k _ => isCore k
  | .repIteration k => isCore k
  | .ldr k _ _ _ _ => isCore k
  | .str k _ _ tflt => isCore k && isFlaw tflt
  | .tas k _ _ => isCore k
  | .lr k _ _ => isCore k
  | .sc k _ _ => isCore k
  | .agree k _ _ _ _ => isCore k
  | .mul k _ _ _ => isCore k
  | .div k _ _ _ => isCore k
  | .land k _ _ => isCore k
  | .putl k _ _ => isCore k
  | .waitl k _ _ => isCore k
  | .send k _ => isCore k
  | .recv k _ => isCore k
  | .sendt k _ => isCore k
  | .recvt k _ => isCore k
  | .wait k _ => isCore k
  | .sleep k => isCore k
  | .ckpt k => isCore k
  | .fence k => isCore k
  | .sync k => isCore k
  | .ifence k => isCore k
  | .csrr k _ _ => isCore k
  | .csrw k _ _ => isCore k
  | .csrwDeferred k _ _ => isCore k
  | .csrwSptr k _ => isCore k
  | .csrrTblo k _ => isCore k
  | .csrrDpos k _ => isCore k
  | .csrwDpos k _ => isCore k
  | .csrrClaim k _ => isCore k
  | .csrwComplete k _ => isCore k
  | .csrwCpl k _ => isCore k
  | .trap k _ => isCore k
  | .rett k => isCore k
  | .cpwr k _ _ _ => isCore k
  | .cprd k _ _ _ => isCore k
  | .camev k _ _ _ => isCore k
  | .camev2 k _ _ _ => isCore k
  | .camevd k _ _ _ => isCore k
  | .camofs k _ _ _ => isCore k
  | .camld k _ _ _ => isCore k
  | .cpsync k _ _ _ => isCore k
  | .landing k slot => isCore k && isSlot slot
  | .storeDrain k => isCore k
  | .storeAck k _ => isCore k
  | .trapEntry k => isCore k
  | .interrupt k => isCore k
  | .waitTimeout k => isCore k
  | .reservationExpiry k => isCore k
  | .pegHalt n => isCourse n
  | .courseHalted n => isCourse n
  | .checkpointWordLimit n => isCourse n
  | .checkpoint n fault => isCourse n && isFlaw fault
  | .skewTimeout n => isCourse n
  | .lbistVerdict n _ _ => isCourse n
  | .tunerSelfTestDone n cause => isCourse n && isFlaw cause
  | .handoverQuiesced n => isCourse n
  | .handoverTimeout n => isCourse n
  | .tunerTestDone n _ _ tuner => isCourse n && isFlaw tuner
  | .coCtlWrite n _ => isCourse n
  | .memoryAccess _ arrived => areRequesters arrived
  | .scrub k _ => isCluster k
  | .memoryClearDone p => isPeg p
  | .dataFlitError k p _ _ _ => isCluster k && isInput p
  | .headFlitError k p => isCluster k && isInput p
  | .gatherRecord _ => true
  | .gatherComplete => true
  | .eccinjWrite k _ => isCluster k
  | .mailboxSendArrival k => isCore k
  | .parkedSendPush ch => isChan ch
  | .parkedRecvComplete ch => isChan ch
  | .creditReturn ch => isChan ch
  | .tailTimerExpiry ch => isChan ch
  | .closeDrainEnd ch => isChan ch
  | .closeDrainLimit ch => isChan ch
  | .droneStep d => isDrone d
  | .frameStart => true
  | .timeNoteDue => true
  | .noteFetch _ _ => true
  | .noteIssue _ => true
  | .noteStart lane _ _ _ => isLane lane
  | .signal lane => isLane lane
  | .noteComplete lane _ => isLane lane
  | .speedWindow => true
  | .tabClearDone b => isBank b
  | .tabVerifyDone b => isBank b
  | .stagingEnd => true
  | .camPerform e ecc _ => isCluster e && isEcc ecc
  | .camldCopyEnd e ecc _ => isCluster e && isEcc ecc
  | .camtofsWrite e _ => isCluster e
  | .portReconfigure p _ => isPort p
  | .portReady p => isPort p
  | .portLevelChange p => isPort p
  | .portDriveEnable p _ => isPort p
  | .supplyLimit => true
  | .supplyLimitEnd => true
  | .encCount p _ _ => isPort p
  | .encPreset p _ => isPort p
  | .encCompareWrite p _ => isPort p
  | .ssiFrameStart p _ => isPort p
  | .ssiFrameEnd p _ _ => isPort p
  | .stepTargetWrite p _ => isPort p
  | .stepPulse p => isPort p
  | .stepStop p _ => isPort p
  | .capture p _ _ _ => isPort p
  | .serCharacter p _ _ _ _ => isPort p
  | .serRecordClose p => isPort p
  | .serTransmit p => isPort p
  | .drnSetWrite d _ => isDrone d
  | .droneCtlWrite d _ => isDrone d
  | .rateStep d => isDrone d
  | .linkTrained p => isPort p.port
  | .startupEnum p => isPort p
  | .enumReturn p _ _ => isPort p
  | .enumTimeout p => isPort p
  | .echoReply p _ _ => isPort p
  | .linkCycleStart p => isPort p
  | .dataFrameSend p => isPort p
  | .ackReceived p _ _ _ => isPort p
  | .ackTimeout p k => isPort p && isStream k
  | .lockLoss p => isPort p.port
  | .statusFrameReceived p _ _ _ _ => isPort p
  | .mgmtReply p _ _ _ _ => isPort p
  | .mgmtTimeout p => isPort p
  | .linkRestart p _ => isPort p
  | .perstRelease => true
  | .pcieFunctionReset kind => isResetKind kind
  | .msixMessage v => isVector v
  | .ethFrameReceived k _ _ _ => isEth k
  | .ethLinkLoss k => isEth k
  | .ptpMessage _ _ _ _ _ _ answer => isStampKind answer.ev
  | .timeBaseStep _ => true
  | .tbloRead => true
  | .commandDoorbell q _ => isRing q
  | .cctlEnable q _ => isRing q
  | .commandTake _ _ _ _ => true
  | .rpopRead q => isRing q
  | .nopCommand => true
  | .ident => true
  | .devStat => true
  | .configure => true
  | .halt => true
  | .resume => true
  | .recover _ => true
  | .detach => true
  | .powerMode => true
  | .island => true
  | .domain => true
  | .course => true
  | .handover => true
  | .tunerTest => true
  | .memRead => true
  | .memWrite => true
  | .regRead => true
  | .regWrite => true
  | .droneSet => true
  | .chanOpen => true
  | .chanClose => true
  | .chanStat => true
  | .tabOpen => true
  | .tabWrite => true
  | .tabVerify => true
  | .tabArm => true
  | .tabCancel => true
  | .tabStat => true
  | .linkNode => true
  | .keySet => true
  | .dumpRead => true
  | .flashErase => true
  | .flashWrite => true
  | .flashOpDone => true
  | .sourceAssert src => isSource src
  | .presentation src => isSource src
  | .edsWrite src _ => isSource src
  | .edgRaise _ => true
  | .edgCtlWrite _ => true
  | .hpopRead => true
  | .hcompleteWrite _ => true
  | .groupMaskWrite k _ _ => isCluster k
  | .luthierEventSample => true
  | .tcxoStart _ => true
  | .clkPllenWrite _ => true
  | .pllLock ix => isPll ix
  | .clockSwitch _ => true
  | .switchComplete => true
  | .autoSwitch => true
  | .clockSourceFault ix => isClock ix
  | .flushAck u => isCrossing u
  | .handshakeAnswer _ _ => true
  | .deferralLimit => true
  | .islandPowerUpDone k => isIsland k
  | .retentionExitDone u => isPowerUnit u
  | .regulatorFault k => isIsland k
  | .voltageSlewStep k => isIsland k
  | .temperatureSample _ _ => true
  | .perSwitchOff => true
  | .watchPeriod _ => true
  | .wakeFromWatch => true
  | .wakeFromHibernate => true
  | .brownOut => true
  | .bankCharged => true
  | .presenceDebounce => true
  | .strapSample _ _ => true
  | .firmwareCheck _ => true
  | .bodyCopyDone => true
  | .bootComplete _ => true
  | .perPowered => true
  | .presLateLoss _ => true
  | .inputLoss => true
  | .overvoltage => true
  | .removalRecordWritten => true
  | .holdUpExhausted => true
  | .owedErase => true
  | .drainComplete => true
  | .drainLimit => true
  | .pegRingTimeout u => isPowerUnit u
  | .dumpWritten => true
  | .dumpFlashCopyDone => true
  | .dumpSlotEraseDone => true
  | .retTestForce => true
  | .pegStatus _ _ => true
  | .pegIdent _ _ => true
  | .pegAttach _ _ => true
  | .pegDetach _ _ => true
  | .pegWake _ _ => true
  | .pegReset _ _ => true
  | .registerWrite a w => isRegister a && isEnables w.be
  | .pcieLinkUp speed width => isSpeed speed && isWidth width
  | .pcieConfigWrite field v _ => isCfgWrite field v
  | .ethLinkUp k _ => isEth k
  | .ptpMessageInterval _ sent => isStampKind sent.ev
  | .encRateWindow p => isPort p
  | .vinSample _ => true

end Sys2Proof
end

