-- ==== Sys2Proof/Machine/Ops.lean ====
section
/-! DEFINITION. The named operations: sparse tables, bit fields, the units of the device, memory with its check bits,
the address map, register values, event pulses, outputs, free values. -/

namespace Sys2Proof.Machine

open Sys2Proof

/-! ### Commands -/

/-- A command's effect on the device. It always completes: an event whose conditions do not hold does not take place. -/
def onChip (s : State) (f : Chip → Chip) : Host.Outcome State Fault Refusal := .next { s with chip := f s.chip }

/-- A command's effect on a unit of the device; one that names a unit the device does not have reaches nothing. -/
def onUnit (ok : Bool) (s : State) (f : Chip → Chip) : Host.Outcome State Fault Refusal :=
  .next (if ok then { s with chip := f s.chip } else s)

/-! ### Sparse tables -/

/-- The value at a key, or the default. -/
def Tbl.get {α : Type} (d : α) : Tbl α → Nat → α
  | [], _ => d
  | (j, v) :: t, k => if j = k then v else Tbl.get d t k

/-- Removes a key. -/
def Tbl.del {α : Type} : Tbl α → Nat → Tbl α
  | [], _ => []
  | (j, v) :: t, k => if j = k then Tbl.del t k else (j, v) :: Tbl.del t k

/-- Writes a key, keeping the keys rising. -/
def Tbl.ins {α : Type} : Tbl α → Nat → α → Tbl α
  | [], k, x => [(k, x)]
  | (j, v) :: t, k, x =>
    if k < j then (k, x) :: (j, v) :: t
    else if k = j then (k, x) :: t
    else (j, v) :: Tbl.ins t k x

/-- Writes a key in canonical form: a value equal to the default removes the entry. -/
def Tbl.put {α : Type} [DecidableEq α] (d : α) (t : Tbl α) (k : Nat) (x : α) : Tbl α :=
  if x = d then Tbl.del t k else Tbl.ins t k x

/-! ### Bit fields -/

/-- Bits [hi:lo] of a word as a number. -/
def bits (w : Word) (hi lo : Nat) : Nat := w.toNat / 2 ^ lo % 2 ^ (hi + 1 - lo)

/-- One bit of a word. -/
def bit (w : Word) (i : Nat) : Bool := w.toNat / 2 ^ i % 2 = 1

/-- The word with bits [hi:lo] replaced by a number. -/
def setBits (w : Word) (hi lo v : Nat) : Word :=
  let n := w.toNat
  BitVec.ofNat 32 (n - n / 2 ^ lo % 2 ^ (hi + 1 - lo) * 2 ^ lo + v % 2 ^ (hi + 1 - lo) * 2 ^ lo)

/-- A number as a word. -/
def wd (n : Nat) : Word := BitVec.ofNat 32 n

/-- A truth value as 1 or 0. -/
def b1 (b : Bool) : Nat := if b then 1 else 0

/-- A word's two's-complement value. -/
def sgn (w : Word) : Int := w.toInt

/-- An integer as a word. -/
def wi (i : Int) : Word := BitVec.ofInt 32 i

/-- The least of a number and a bound: a counter that saturates. -/
def sat (n m : Nat) : Nat := if n ≤ m then n else m

/-- Sign extension of the low `n` bits. -/
def sext (n : Nat) (w : Word) : Word :=
  let v := w.toNat % 2 ^ n
  if v < 2 ^ (n - 1) then wd v else wd (v + (2 ^ 32 - 2 ^ n))

/-- A fresh free value: the spec gives a value here and does not say which. -/
def fresh (c : Chip) : Chip × Word := ({ c with free := c.free + 1 }, Config.freeWord c.free)

/-- Appends an output (the model's record of what leaves the device). -/
def emit (c : Chip) (o : Output) : Chip := { c with out := c.out ++ [o] }

/-! ### Units -/

/-- A core's record after reset: string B's stack area differs in split (R92, R93, R721); the table holds only what
differs from it. -/
def coreOf (c : Chip) (k : Nat) : Core := Tbl.get {} c.cores k

/-- Changes one core. -/
def updCore (c : Chip) (k : Nat) (f : Core → Core) : Chip :=
  { c with cores := Tbl.put {} c.cores k (f (coreOf c k)) }

/-- A course's record. -/
def courseOf (c : Chip) (n : Nat) : Course := Tbl.get {} c.courses n

/-- Changes one course. -/
def updCourse (c : Chip) (n : Nat) (f : Course → Course) : Chip :=
  { c with courses := Tbl.put {} c.courses n (f (courseOf c n)) }

/-- A channel slot's record. -/
def chanOf (c : Chip) (s : Nat) : Chan := Tbl.get {} c.chans s

/-- Changes one channel slot. -/
def updChan (c : Chip) (s : Nat) (f : Chan → Chan) : Chip :=
  { c with chans := Tbl.put {} c.chans s (f (chanOf c s)) }

/-- A port's record. -/
def portOf (c : Chip) (p : Nat) : Port := Tbl.get {} c.ports p

/-- Changes one port. -/
def updPort (c : Chip) (p : Nat) (f : Port → Port) : Chip :=
  { c with ports := Tbl.put {} c.ports p (f (portOf c p)) }

/-- Number of application cores (R16). -/
def nCores : Nat := 512

/-- The course of the luthier, the management controller's own pair of strings 512 and 513 (R126). -/
def luthierCourse : Nat := 256

/-- The peg domain of a course: four courses to a peg (R21). -/
def pegOfCourse (n : Nat) : Nat := n / 4

/-- The cluster of a course (R17). -/
def clusterOf (n : Nat) : Nat := n / 8

/-- The state of a peg's domain. -/
def pegOf (c : Chip) (p : Nat) : Peg := Tbl.get {} c.pegs p

/-- Changes one peg. -/
def updPeg (c : Chip) (p : Nat) (f : Peg → Peg) : Chip := { c with pegs := Tbl.put {} c.pegs p (f (pegOf c p)) }

/-- Is the gate of a peg's domain to the fabric open: powered and, after a power-up, cleared (R28, R253)? -/
def gateOpen (c : Chip) (p : Nat) : Bool := (pegOf c p).st = PegState.on

/-- The island of a peg: the courses of quarter `k` of each cluster column; island k holds the courses with
(course >> 3) & 7 = k (R22). -/
def islandOfPeg (p : Nat) : Nat := p / 2 % 8

/-- Is a course's domain on? The luthier's own course is powered from LUT. -/
def courseOn (c : Chip) (n : Nat) : Bool := if n = luthierCourse then c.lut else gateOpen c (pegOfCourse n)

/-! ### Register values -/

/-- The stored value of a register by its absolute address. -/
def regVal (c : Chip) (a : Nat) : Word := Tbl.get (regReset a) c.regs a

/-- Stores a register's value. -/
def regPut (c : Chip) (a : Nat) (w : Word) : Chip := { c with regs := Tbl.put (regReset a) c.regs a w }

/-- Changes a register's stored value. -/
def regUpd (c : Chip) (a : Nat) (f : Word → Word) : Chip := regPut c a (f (regVal c a))

/-- Sets bits of a register. -/
def regOr (c : Chip) (a m : Nat) : Chip := regUpd c a (fun w => w ||| wd m)

/-- Clears bits of a register. -/
def regClr (c : Chip) (a m : Nat) : Chip := regUpd c a (fun w => w &&& ~~~ (wd m))

/-- A field of a register. -/
def regFld (c : Chip) (a hi lo : Nat) : Nat := bits (regVal c a) hi lo

/-- Sets a field of a register. -/
def regSetFld (c : Chip) (a hi lo v : Nat) : Chip := regUpd c a (fun w => setBits w hi lo v)

/-- Adds to a counting field that saturates at its greatest value. -/
def regCount (c : Chip) (a hi lo n : Nat) : Chip :=
  regUpd c a (fun w => setBits w hi lo (sat (bits w hi lo + n) (2 ^ (hi + 1 - lo) - 1)))

/-- Adds to a counting field that wraps. -/
def regWrap (c : Chip) (a hi lo n : Nat) : Chip := regUpd c a (fun w => setBits w hi lo (bits w hi lo + n))

/-- Raises a field to a greatest value since read. -/
def regMax (c : Chip) (a hi lo n : Nat) : Chip :=
  regUpd c a (fun w => setBits w hi lo (Nat.max (bits w hi lo) (sat n (2 ^ (hi + 1 - lo) - 1))))

/-- Register `o` of the CL block of cluster `k` (R277). -/
def clReg (k o : Nat) : Nat := 0x60200000 + k * 0x100 + o

/-- Register `o` of the FP block of port `p` (R715). -/
def fpReg (p o : Nat) : Nat := 0x60100000 + p * 0x40 + o

/-- Register `o` of drone `d` (R707). -/
def drnReg (d o : Nat) : Nat := 0x60006000 + d * 0x20 + o

/-! ### Memory -/

/-- What a byte of memory that nothing has written reads as: an erased byte of flash 0xFF (R677), any other 0. -/
def memBlank (a : Nat) : Byte := if 0x70000000 ≤ a ∧ a < 0x80000000 then 0xFF else 0

/-- Reads one byte. -/
def Memory.read : List Host.Cell → Nat → Byte
  | [], a => memBlank a
  | (j, v) :: t, a => if j = a then v else Memory.read t a

/-- Writes one byte, keeping the canonical form. -/
def Memory.write (m : List Host.Cell) (a : Nat) (v : Byte) : List Host.Cell := Tbl.put (memBlank a) m a v

/-- The canonical form: addresses strictly rising from a bound, no entry equal to what an unlisted address reads as. -/
def Memory.okFrom : Nat → List Host.Cell → Bool
  | _, [] => true
  | n, (j, v) :: t => decide (n ≤ j) && decide (v ≠ memBlank j) && Memory.okFrom (j + 1) t

/-- The canonical form of memory. -/
def Memory.wf (m : List Host.Cell) : Bool := Memory.okFrom 0 m

/-- One byte of the device's memory by global address. -/
def byteAt (c : Chip) (a : Nat) : Byte := Memory.read c.mem a

/-- Writes one byte. -/
def putByte (c : Chip) (a : Nat) (v : Byte) : Chip := { c with mem := Memory.write c.mem a v }

/-- A little-endian number of `n` bytes (R8). -/
def leNat (c : Chip) (a : Nat) : Nat → Nat
  | 0 => 0
  | n + 1 => (byteAt c a).toNat + 256 * leNat c (a + 1) n

/-- Writes `n` bytes of a number, little-endian. -/
def putLe (c : Chip) (a : Nat) : Nat → Nat → Chip
  | 0, _ => c
  | n + 1, v => putLe (putByte c a (BitVec.ofNat 8 v)) (a + 1) n (v / 256)

/-- The word at an address. -/
def wordAt (c : Chip) (a : Nat) : Word := wd (leNat c a 4)

/-- Writes a word's bytes. -/
def putWord (c : Chip) (a : Nat) (w : Word) : Chip := putLe c a 4 w.toNat

/-- The bytes of a range. -/
def bytesAt (c : Chip) (a : Nat) : Nat → List Byte
  | 0 => []
  | n + 1 => byteAt c a :: bytesAt c (a + 1) n

/-- Writes bytes from an address on. -/
def putBytes (c : Chip) (a : Nat) : List Byte → Chip
  | [] => c
  | b :: t => putBytes (putByte c a b) (a + 1) t

/-- The words of a byte list, little-endian; a last part word is filled with zeros. -/
def wordsOf : List Byte → List Word
  | a :: b :: d :: e :: t => wd (a.toNat + 256 * b.toNat + 65536 * d.toNat + 16777216 * e.toNat) :: wordsOf t
  | [a, b, d] => [wd (a.toNat + 256 * b.toNat + 65536 * d.toNat)]
  | [a, b] => [wd (a.toNat + 256 * b.toNat)]
  | [a] => [wd a.toNat]
  | [] => []

/-- The bytes of a word, little-endian. -/
def bytesOfWord (w : Word) : List Byte :=
  [BitVec.ofNat 8 w.toNat, BitVec.ofNat 8 (w.toNat / 256), BitVec.ofNat 8 (w.toNat / 65536),
    BitVec.ofNat 8 (w.toNat / 16777216)]

/-- The bytes of a list of words. -/
def bytesOf : List Word → List Byte
  | [] => []
  | w :: t => bytesOfWord w ++ bytesOf t

/-- Drops every byte of a range, which then reads as blank. -/
def Memory.clear (m : List Host.Cell) (lo hi : Nat) : List Host.Cell :=
  m.filter (fun e => !(decide (lo ≤ e.1) && decide (e.1 < hi)))

/-- Clears a range of memory, its poison tags and its single-bit errors (R253: every word is written with valid check
bits). -/
def clearRange (c : Chip) (lo hi : Nat) : Chip :=
  { c with mem := Memory.clear c.mem lo hi,
           poison := c.poison.filter (fun a => !(decide (lo ≤ a) && decide (a < hi))),
           sbe := c.sbe.filter (fun a => !(decide (lo ≤ a) && decide (a < hi))) }

/-! ### The address map (R248, R249) -/

/-- Where an address leads. -/
inductive Tgt where
  | sram (course off : Nat)
  | store (cluster off : Nat)
  | tab (bank off : Nat)
  | ret (off : Nat)
  | reg (addr : Nat)
  | flash (off : Nat)
  | rom (off : Nat)
  | nowhere
  deriving DecidableEq, Repr

/-- The target of an address; `own` is the course of a core that makes the access, whose own windows exist for it
alone (R249). The luthier's private SRAM and its ROM are the own window of its strings (R687). -/
def target (own : Option Nat) (a : Nat) : Tgt :=
  if a < 0x10000000 then
    match own with
    | none => .nowhere
    | some n =>
      if n = luthierCourse then (if a < 0x80000 then .sram n a
        else if 0x08000000 ≤ a ∧ a < 0x08040000 then .rom (a - 0x08000000) else .nowhere)
      else if a < 0x8000 then .sram n a
      else if 0x10000 ≤ a ∧ a < 0x90000 then .store (clusterOf n) (a - 0x10000)
      else .nowhere
  else if a < 0x12000000 then
    let o := a % 0x100000
    if o < 0x80000 then .store ((a - 0x10000000) / 0x100000) o else .nowhere
  else if a < 0x20000000 then .nowhere
  else if a < 0x21000000 then
    let o := a % 0x10000
    if o < 0x8000 then .sram ((a - 0x20000000) / 0x10000) o else .nowhere
  else if a < 0x40000000 then .nowhere
  else if a < 0x41000000 then .tab ((a - 0x40000000) / 0x800000) (a % 0x800000)
  else if a < 0x50000000 then .nowhere
  else if a < 0x50100000 then .ret (a - 0x50000000)
  else if a < 0x60000000 then .nowhere
  else if a < 0x61000000 then .reg a
  else if a < 0x70000000 then .nowhere
  else if a < 0x80000000 then .flash (a - 0x70000000)
  else .nowhere

/-- The global address of a byte of a target (for a register its own address). -/
def Tgt.ga : Tgt → Nat
  | .sram n o => 0x20000000 + n * 0x10000 + o
  | .store k o => 0x10000000 + k * 0x100000 + o
  | .tab b o => 0x40000000 + b * 0x800000 + o
  | .ret o => 0x50000000 + o
  | .reg a => a
  | .flash o => 0x70000000 + o
  | .rom o => 0x08000000 + o
  | .nowhere => 0

/-- The peg domain that holds a byte: the course's peg, or the lower or upper peg of the cluster by the bank (R23). -/
def Tgt.peg : Tgt → Option Nat
  | .sram n _ => if n = luthierCourse then none else some (pegOfCourse n)
  | .store k o => some (2 * k + o / 0x40000)
  | _ => none

/-- The target units of R200, numbered: course-local SRAMs 0 to 256, cluster stores 300 to 331, tablature store 400,
retention store 401, register space 402, flash window 403, unpopulated 404, the luthier's ROM 405. -/
def Tgt.unit : Tgt → Nat
  | .sram n _ => n
  | .store k _ => 300 + k
  | .tab _ _ => 400
  | .ret _ => 401
  | .reg _ => 402
  | .flash _ => 403
  | .nowhere => 404
  | .rom _ => 405

/-- The memories that perform accesses one at a time: SRAM n is n, bank b of cluster store k is 300 + 2k + b. -/
def Tgt.bank : Tgt → Option Nat
  | .sram n _ => some n
  | .store k o => some (300 + 2 * k + o / 0x40000)
  | _ => none

/-! ### Event sources and pulses -/

/-- A source's record. -/
def srcOf (c : Chip) (s : Nat) : Src := Tbl.get {} c.srcs s

/-- Changes one source. -/
def updSrc (c : Chip) (s : Nat) (f : Src → Src) : Chip := { c with srcs := Tbl.put {} c.srcs s (f (srcOf c s)) }

/-- A pulse reaches a source's crossing. A pulse that meets the crossing busy is merged: the receiver sees one further
pulse after the first however many arrive, and the source's merge counter, CLK.MRGTOT and CLK.STAT.MERGE record each
(R602, R607). -/
def pulse (c : Chip) (s : Nat) : Chip :=
  if (srcOf c s).pulseBusy then
    let c := updSrc c s (fun r => { r with again := true, merged := sat (r.merged + 1) 255 })
    regOr (regCount c 0x60002014 31 0 1) 0x60002004 (2 ^ 10)
  else updSrc c s (fun r => { r with pulseBusy := true })

end Sys2Proof.Machine
end

