-- ==== Sys2Proof/Machine/PegBus.lean ====
section
/-! DEFINITION. The tokens of the peg bus (R689, R690): the symbol a token carries, the four steps of its handshake as a receiver
and as the sender takes them, joining, and frames of bytes, least significant bit first. -/

namespace Sys2Proof.Machine

open Sys2Proof

/-- The wires a symbol asserts: PEG_D0, PEG_D1 (R689). -/
def symWires : PegSym → Bool × Bool
  | .zero => (true, false)
  | .one => (false, true)
  | .mark => (true, true)

/-- What one party of a token drives: PEG_D0, PEG_D1 and PEG_ACK asserted. A wire is asserted while any party asserts it. -/
structure Drive where
  d0 : Bool := false
  d1 : Bool := false
  ack : Bool := false
  deriving DecidableEq, Repr

/-- The wires as every party reads them. -/
def readWires (a b : Drive) : Drive := ⟨a.d0 || b.d0, a.d1 || b.d1, a.ack || b.ack⟩

/-- A receiver at rest: it holds PEG_ACK (R689 step 1). -/
def rxRest : Drive := { ack := true }

/-- The sender's step `n` of a token, once the wires read as the step waits for (R689): it asserts the token's wires, asserts
PEG_ACK after every receiver has latched, and releases the wires and then PEG_ACK. -/
def senderStep (s : PegSym) (n : Nat) (own wires : Drive) : Drive :=
  if n = 1 then { own with d0 := (symWires s).1, d1 := (symWires s).2 }
  else if n = 3 then (if wires.ack then own else { own with ack := true })
  else if n = 4 then { own with d0 := false, d1 := false, ack := false }
  else own

/-- A receiver's step `n` of a token (R689): at the token's wires it latches, asserts them too and releases PEG_ACK; at PEG_ACK
seen low again it asserts PEG_ACK and releases the wires. -/
def receiverStep (n : Nat) (own wires : Drive) : Drive :=
  if n = 2 then (if wires.d0 ∨ wires.d1 then ⟨wires.d0, wires.d1, false⟩ else own)
  else if n = 3 then (if wires.ack then ⟨false, false, true⟩ else own)
  else own

/-- What sender and receivers drive after the first `n` steps of a token, the receivers taken together. -/
def tokenAfter (s : PegSym) : Nat → Drive × Drive
  | 0 => ({}, rxRest)
  | n + 1 =>
    let (a, b) := tokenAfter s n
    let a := senderStep s (n + 1) a (readWires a b)
    (a, receiverStep (n + 1) b (readWires a b))

/-- The symbol a receiver latches from the wires at step 2: none where no wire is asserted. -/
def latched (w : Drive) : Option PegSym :=
  if w.d0 && w.d1 then some .mark else if w.d1 then some .one else if w.d0 then some .zero else none

/-- The symbol latched in a token whose wires carry `s`. -/
def tokenSym (s : PegSym) : Option PegSym := latched (readWires (tokenAfter s 1).1 (tokenAfter s 1).2)

/-- A module takes a token: it joins at rest between two tokens, ignores every token until a MARK, and after one keeps the bits
(R689). -/
def pegToken (b : PegBus) (s : PegSym) : PegBus :=
  match tokenSym s with
  | some .mark => { joined := true, marked := true, bits := [] }
  | some .one => { b with joined := true, bits := if b.marked then b.bits ++ [true] else [] }
  | some .zero => { b with joined := true, bits := if b.marked then b.bits ++ [false] else [] }
  | none => b

/-- The number that bits spell, the least significant first. -/
def bitsNat : List Bool → Nat
  | [] => 0
  | b :: t => b1 b + 2 * bitsNat t

/-- The bytes that bits spell, the least significant bit of each first (R690). -/
def byteBits : Nat → List Bool → List Byte
  | 0, _ => []
  | n + 1, l => BitVec.ofNat 8 (bitsNat (l.take 8)) :: byteBits n (l.drop 8)

/-- Tokens arrive until a frame of the rack, ADDR, CMD, PARAM and CRC behind a MARK, is complete (R690). -/
def pegFeed (b : PegBus) : List PegSym → PegBus × Option (List Byte)
  | [] => (b, none)
  | s :: t =>
    let b := pegToken b s
    if b.bits.length = 32 then ({ b with marked := false, bits := [] }, some (byteBits 4 b.bits)) else pegFeed b t

/-- The tokens of a byte. -/
def byteToks (b : Byte) : List PegSym := (List.range 8).map (fun i => if b.getLsbD i then PegSym.one else PegSym.zero)

/-- One bit of CRC-8, polynomial 0x07. -/
def crc8Bit (r : Byte) : Byte := if r.toNat < 128 then r <<< 1 else (r <<< 1) ^^^ 0x07

/-- CRC-8 of a byte string, initial value 0 (R690). -/
def crc8 (l : List Byte) : Byte :=
  l.foldl (fun r b => crc8Bit (crc8Bit (crc8Bit (crc8Bit (crc8Bit (crc8Bit (crc8Bit (crc8Bit (r ^^^ b))))))))) 0

end Sys2Proof.Machine
end

