-- ==== Sys2Proof/Machine/Flags.lean ====
section
/-! DEFINITION. The arithmetic whose results and flags the spec lays down (R160 to R166). -/

namespace Sys2Proof.Machine

open Sys2Proof

/-- A result with the flags it writes: C (none where the operation does not write C) and whether V is set. -/
structure Flagged where
  val : Word
  c : Option Bool
  v : Bool
  deriving DecidableEq, Repr

/-- Does an exact signed result lie outside -2^31 to 2^31 - 1? -/
def outside (i : Int) : Bool := decide (i < -2147483648) || decide (2147483647 < i)

/-- a + b + carry (R160). -/
def addFlags (a b : Word) (cin : Bool) : Flagged :=
  let k := if cin then 1 else 0
  let u := a.toNat + b.toNat + k
  ⟨BitVec.ofNat 32 u, some (decide (2 ^ 32 ≤ u)), outside (a.toInt + b.toInt + k)⟩

/-- a - b - borrow (R160). -/
def subFlags (a b : Word) (cin : Bool) : Flagged :=
  let k := if cin then 1 else 0
  ⟨a - b - BitVec.ofNat 32 k, some (decide (a.toNat < b.toNat + k)), outside (a.toInt - b.toInt - k)⟩

/-- NEG: 0 - a, V for 0x8000_0000 (R161). -/
def negFlags (a : Word) : Flagged := ⟨-a, none, decide (a = 0x80000000#32)⟩

/-- ABS (R161). -/
def absFlags (a : Word) : Flagged := ⟨if a.toNat < 2 ^ 31 then a else -a, none, decide (a = 0x80000000#32)⟩

/-- Logical left shift by a whole 32-bit amount (R162). -/
def shl (a n : Word) : Word := if n.toNat < 32 then a <<< n.toNat else 0

/-- Logical right shift by a whole 32-bit amount (R162). -/
def shr (a n : Word) : Word := if n.toNat < 32 then a >>> n.toNat else 0

/-- Arithmetic right shift by a whole 32-bit amount (R162). -/
def sar (a n : Word) : Word :=
  if n.toNat < 32 then a.sshiftRight n.toNat else if a.toNat < 2 ^ 31 then 0 else 0xFFFFFFFF

/-- Rotate left by n modulo 32 (R162). -/
def rol (a n : Word) : Word := a.rotateLeft (n.toNat % 32)

/-- Rotate right by n modulo 32 (R162). -/
def ror (a n : Word) : Word := a.rotateRight (n.toNat % 32)

/-- Leading zero bits, by fuel from the top bit. -/
def clzFrom (n : Nat) : Nat → Nat
  | 0 => 0
  | k + 1 => if n / 2 ^ k % 2 = 1 then 0 else 1 + clzFrom n k

/-- CLZ, 0 to 32 (R141). -/
def clz (a : Word) : Word := BitVec.ofNat 32 (clzFrom a.toNat 32)

/-- The exact 64-bit product: low word and high word (R163). -/
def mulWords (a b : Word) (uns : Bool) : Word × Word :=
  if uns then
    let p := a.toNat * b.toNat
    (BitVec.ofNat 32 p, BitVec.ofNat 32 (p / 2 ^ 32))
  else
    let p := a.toInt * b.toInt
    let q := BitVec.ofInt 64 p
    (BitVec.ofNat 32 q.toNat, BitVec.ofNat 32 (q.toNat / 2 ^ 32))

/-- Quotient, remainder and whether V and DZ are set (R164 to R166). -/
def divWords (a b : Word) (uns : Bool) : Word × Word × Bool × Bool :=
  if b = 0 then (0, a, false, true)
  else if uns then (BitVec.ofNat 32 (a.toNat / b.toNat), BitVec.ofNat 32 (a.toNat % b.toNat), false, false)
  else if a = 0x80000000#32 ∧ b = 0xFFFFFFFF#32 then (0x80000000, 0, true, false)
  else (BitVec.ofInt 32 (a.toInt.tdiv b.toInt), BitVec.ofInt 32 (a.toInt.tmod b.toInt), false, false)

end Sys2Proof.Machine
end

