-- ==== Sys2Proof/Machine/Mem.lean ====
section
/-! DEFINITION. Accesses to course-local SRAM and cluster store: check bits, poison, injection, reservations and
atomics (R180 to R185, R251 to R258, R286). -/

namespace Sys2Proof.Machine

open Sys2Proof

/-- The cluster whose CL block answers for a word of SRAM or store, by global address. -/
def clusterOfGa (ga : Nat) : Nat :=
  if ga < 0x12000000 then (ga - 0x10000000) / 0x100000 else (ga - 0x20000000) / 0x10000 / 8

/-- Is a global address one of a course-local SRAM? -/
def gaIsSram (ga : Nat) : Bool := decide (0x20000000 ≤ ga)

/-- Counts a corrected error (R255, R284, R285). The luthier's own memory has no CL block. -/
def noteCorrected (c : Chip) (ga : Nat) : Chip :=
  let k := clusterOfGa ga
  if 32 ≤ k then c else
  let c := if gaIsSram ga then regCount c (clReg k 0x18) 31 16 1 else regCount c (clReg k 0x18) 15 0 1
  regOr (regPut c (clReg k 0x20) (wd (ga / 4 * 4))) (clReg k 0x14) 1

/-- Records the discovery of an uncorrectable word: `src` and `core` as USRC and UCORE (R256, R258, R283). -/
def noteUncorrectable (c : Chip) (ga src core : Nat) : Chip :=
  let k := clusterOfGa ga
  if 32 ≤ k then c else
  let a := clReg k 0x14
  let first := regFld c a 2 1 = 0
  let c := regOr c a (if gaIsSram ga then 4 else 2)
  if first then
    regSetFld (regSetFld (regPut c (clReg k 0x1C) (wd (ga / 4 * 4))) a 10 8 src) a 15 12
      (if src = 1 ∨ src = 2 then core % 16 else 0)
  else regOr c a 16

/-- A read of the aligned word at a global address of SRAM or store: the word and whether it is poisoned. A
single-bit error is corrected and written back in the same access (R255, R256). -/
def readWord (c : Chip) (ga src core : Nat) : Chip × Word × Bool :=
  let ga := ga / 4 * 4
  let c := if ga ∈ c.sbe then noteCorrected { c with sbe := c.sbe.filter (· ≠ ga) } ga else c
  if ga ∈ c.poison then (noteUncorrectable c ga src core, wordAt c ga, true) else (c, wordAt c ga, false)

/-- Every string whose reservation covers the granule loses it, but for the storing string `by_` (R182). -/
def loseResv (cores : Tbl Core) (granule : Nat) (by_ : Option Nat) : Tbl Core :=
  cores.map (fun e =>
    match e.2.resv with
    | some r => if r.granule = granule ∧ some e.1 ≠ by_ then (e.1, { e.2 with resv := none }) else e
    | none => e)

/-- A store reaches a granule. -/
def touchGranule (c : Chip) (ga : Nat) (by_ : Option Nat) : Chip :=
  { c with cores := loseResv c.cores (ga / 8 * 8) by_ }

/-- The memory an error injection names is the memory of this word (R286). -/
def injHits (c : Chip) (ga : Nat) : Bool :=
  let w := regVal c (clReg (clusterOfGa ga) 0x24)
  decide (clusterOfGa ga < 32) && decide (bits w 1 0 ≠ 0) &&
    (if gaIsSram ga then bit w 2 && decide (bits w 5 3 = (ga - 0x20000000) / 0x10000 % 8) else !bit w 2)

/-- Writes a whole word into SRAM or store with its check bits; a word with a poison tag takes the fixed check pattern
(R257), and an armed injection inverts the chosen bits and is then off (R286). Where the two inverted bits fall among
the data bits is not stated: the data of such a word are an open value. -/
def writeWord (c : Chip) (ga : Nat) (w : Word) (poison : Bool) (by_ : Option Nat) : Chip :=
  let ga := ga / 4 * 4
  let c := touchGranule c ga by_
  let k := clusterOfGa ga
  let c := { c with sbe := c.sbe.filter (· ≠ ga), poison := c.poison.filter (· ≠ ga) }
  let inj := regVal c (clReg k 0x24)
  let hit := injHits c ga
  let c := if hit then regSetFld c (clReg k 0x24) 1 0 0 else c
  let w := if hit ∧ bits inj 1 0 = 2 then Config.injData (bits inj 13 8) w else w
  let c := putWord c ga w
  if poison then
    let c := { c with poison := ga :: c.poison }
    if k < 32 then regOr c (clReg k 0x14) 8 else c
  else if hit then
    (if bits inj 1 0 = 1 then { c with sbe := ga :: c.sbe } else { c with poison := ga :: c.poison })
  else c

/-- Places the low `size` bytes of a value into a word at a byte offset. -/
def mergeBytes (old : Word) (off size : Nat) (v : Word) : Word :=
  setBits old (8 * off + 8 * size - 1) (8 * off) v.toNat

/-- A store of 1, 2 or 4 bytes into SRAM or store. A byte or halfword store reads, merges and writes the whole word as
one access; on a poisoned word it is not performed (R254, R256). -/
def writeMem (c : Chip) (ga size : Nat) (v : Word) (poison : Bool) (by_ : Option Nat) : Chip :=
  if size = 4 then writeWord c ga v poison by_
  else
    let (c, old, bad) := readWord c ga 5 0
    if bad then c else writeWord c ga (mergeBytes old (ga % 4) size v) poison by_

/-- Extracts the loaded bytes of a word. -/
def loadFrom (w : Word) (off size : Nat) (sgnd : Bool) : Word :=
  let v := wd (bits w (8 * off + 8 * size - 1) (8 * off))
  if sgnd then sext (8 * size) v else v

/-- The capacity of a memory's reservations (R183). -/
def resvCap (t : Tgt) : Nat := match t with | .sram _ _ => 8 | _ => 32

/-- The strings that hold a reservation in a bank, oldest first. -/
def bankResv (c : Chip) (b : Nat) : List Nat := Tbl.get [] c.memResv b

/-- Does a string still hold a reservation in a bank? -/
def holdsIn (c : Chip) (b k : Nat) : Bool :=
  match (coreOf c k).resv with
  | some r => decide ((target none r.granule).bank = some b)
  | none => false

/-- Places a string's reservation, `words` words after the LR; a memory whose reservations are all in use gives up its
oldest (R181, R183). -/
def placeResv (c : Chip) (k : Nat) (t : Tgt) (words : Nat) : Chip :=
  match t.bank with
  | none => c
  | some b =>
    let held := (bankResv c b).filter (fun j => decide (j ≠ k) && holdsIn c b j)
    let (c, held) :=
      if resvCap t ≤ held.length then
        match held with
        | o :: rest => (updCore c o (fun r => { r with resv := none }), rest)
        | [] => (c, [])
      else (c, held)
    let c := { c with memResv := Tbl.put [] c.memResv b (held ++ [k]) }
    updCore c k (fun r => { r with resv := some ⟨t.ga / 8 * 8, words⟩ })

/-- A string's reservation is held, not lost and covers the address (R184). -/
def resvCovers (c : Chip) (k : Nat) (t : Tgt) : Bool :=
  match (coreOf c k).resv with
  | some r => decide (r.granule = t.ga / 8 * 8) && decide (r.words < 64) && t.bank.isSome
  | none => false

/-- Does a course reject writes from outside (R209): MODE 1, and MODE 2 once the hand-over's checkpoint stands? -/
def rejectsWrites (c : Chip) (n : Nat) : Bool :=
  if n = luthierCourse then true
  else
    let r := courseOf c n
    c.fixedUnison || decide (r.mode = 1) || (decide (r.mode = 2) && r.locked)

/-- Counts an access turned away by a gate in OFFACC of the island that holds the peg (R268). -/
def countOff (c : Chip) (p : Nat) : Chip := regCount c (0x600010A0 + 4 * islandOfPeg p) 31 0 1

/-- How an access to a memory ends. -/
inductive Acc where
  | good (w : Word) (poisoned : Bool)
  | off
  | unpop
  | deny
  | err
  deriving DecidableEq, Repr

end Sys2Proof.Machine
end

