-- ==== Sys2Proof/Machine/Operands.lean ====
section
/-! DEFINITION. What each instruction word takes from and leaves on the operand stack (R132, R133, R141, R143, R149),
and the results of the short operations that touch no memory. -/

namespace Sys2Proof.Machine

open Sys2Proof

/-- Operands taken and results left by a short operation (R141). -/
def shortEffect (o : Nat) : Nat × Nat :=
  match o with
  | 0x01 => (1, 2) | 0x02 => (1, 0) | 0x03 => (2, 2) | 0x04 => (2, 3) | 0x05 => (3, 3) | 0x06 => (2, 1)
  | 0x07 => (2, 3) | 0x08 => (0, 1) | 0x09 => (0, 1) | 0x0A => (0, 1)
  | 0x10 => (2, 1) | 0x11 => (2, 1) | 0x12 => (2, 1) | 0x13 => (2, 1)
  | 0x14 => (1, 1) | 0x15 => (1, 1) | 0x16 => (1, 1) | 0x17 => (1, 1)
  | 0x18 => (2, 1) | 0x19 => (2, 1) | 0x1A => (2, 1) | 0x1B => (1, 1)
  | 0x1C => (2, 1) | 0x1D => (2, 1) | 0x1E => (2, 1) | 0x1F => (2, 1) | 0x20 => (2, 1)
  | 0x21 => (2, 1) | 0x22 => (2, 1) | 0x23 => (2, 1) | 0x24 => (2, 1)
  | 0x25 => (1, 1) | 0x26 => (1, 1) | 0x27 => (1, 1) | 0x28 => (1, 1) | 0x29 => (1, 1) | 0x2A => (3, 1)
  | 0x30 => (2, 1) | 0x31 => (2, 1) | 0x32 => (2, 1) | 0x33 => (2, 1) | 0x34 => (2, 1) | 0x35 => (2, 1)
  | 0x36 => (1, 1) | 0x37 => (1, 1)
  | 0x40 => (1, 1) | 0x41 => (1, 1) | 0x42 => (1, 1) | 0x43 => (1, 1) | 0x44 => (1, 1)
  | 0x45 => (2, 0) | 0x46 => (2, 0) | 0x47 => (2, 0)
  | _ => (0, 0)

/-- Is it a short load (0x40 to 0x44)? -/
def isShortLoad (o : Nat) : Bool := 0x40 ≤ o && o ≤ 0x44

/-- Is it a short store (0x45 to 0x47)? -/
def isShortStore (o : Nat) : Bool := 0x45 ≤ o && o ≤ 0x47

/-- Bytes of a short load or store. -/
def shortSize (o : Nat) : Nat :=
  if o = 0x40 ∨ o = 0x45 then 4 else if o = 0x41 ∨ o = 0x42 ∨ o = 0x46 then 2 else 1

/-- Does a short load extend the sign? -/
def shortSigned (o : Nat) : Bool := o = 0x41 || o = 0x43

/-- A truth value as the word 1 or 0. -/
def bw (b : Bool) : Word := if b then 1 else 0

/-- Results (top first) with the flags of a short operation that touches no memory; `ops` top first, `cin` the carry
before the word (R135, R141, R160 to R162). -/
def shortResult (o : Nat) (ops : List Word) (cin : Bool) : List Word × Option Bool × Bool :=
  let plain (l : List Word) : List Word × Option Bool × Bool := (l, none, false)
  let fl (f : Flagged) : List Word × Option Bool × Bool := ([f.val], f.c, f.v)
  match ops with
  | b :: a :: z :: _ =>
    if o = 0x05 then plain [z, b, a]
    else if o = 0x2A then plain [if b ≠ 0 then z else a]
    else plain []
  | [b, a] =>
    match o with
    | 0x03 => plain [a, b]
    | 0x04 => plain [a, b, a]
    | 0x06 => plain [b]
    | 0x07 => plain [b, a, b]
    | 0x10 => fl (addFlags a b false)
    | 0x11 => fl (subFlags a b false)
    | 0x12 => fl (addFlags a b cin)
    | 0x13 => fl (subFlags a b cin)
    | 0x18 => plain [a &&& b]
    | 0x19 => plain [a ||| b]
    | 0x1A => plain [a ^^^ b]
    | 0x1C => plain [shl a b]
    | 0x1D => plain [shr a b]
    | 0x1E => plain [sar a b]
    | 0x1F => plain [rol a b]
    | 0x20 => plain [ror a b]
    | 0x21 => plain [if a.toInt ≤ b.toInt then a else b]
    | 0x22 => plain [if a.toInt ≤ b.toInt then b else a]
    | 0x23 => plain [if a.toNat ≤ b.toNat then a else b]
    | 0x24 => plain [if a.toNat ≤ b.toNat then b else a]
    | 0x30 => plain [bw (a = b)]
    | 0x31 => plain [bw (a ≠ b)]
    | 0x32 => plain [bw (a.toInt < b.toInt)]
    | 0x33 => plain [bw (a.toInt ≤ b.toInt)]
    | 0x34 => plain [bw (a.toNat < b.toNat)]
    | 0x35 => plain [bw (a.toNat ≤ b.toNat)]
    | _ => plain []
  | [a] =>
    match o with
    | 0x01 => plain [a, a]
    | 0x14 => fl (negFlags a)
    | 0x15 => fl (absFlags a)
    | 0x16 => plain [a + 1]
    | 0x17 => plain [a - 1]
    | 0x1B => plain [~~~a]
    | 0x25 => plain [sext 8 a]
    | 0x26 => plain [sext 16 a]
    | 0x27 => plain [wd (a.toNat % 256)]
    | 0x28 => plain [wd (a.toNat % 65536)]
    | 0x29 => plain [clz a]
    | 0x36 => plain [bw (a = 0)]
    | 0x37 => plain [bw (a.toInt < 0)]
    | _ => plain []
  | [] =>
    match o with
    | 0x08 => plain [0]
    | 0x09 => plain [1]
    | 0x0A => plain [0xFFFFFFFF]
    | _ => plain []

/-- Operands taken and results left on the operand stack by an instruction word (R133, R141, R143, R149). -/
def opEffect : CoreOp → Nat × Nat
  | .pair a b =>
    let x := shortEffect a.toNat
    let y := shortEffect b.toNat
    (x.1 + y.1, x.2 + y.2)
  | .lit _ => (0, 1) | .litx _ => (0, 1) | .lithi _ => (1, 1) | .addi _ => (1, 1)
  | .shli _ => (1, 1) | .shri _ => (1, 1) | .sari _ => (1, 1) | .roli _ => (1, 1)
  | .pick n => (n.toNat + 1, n.toNat + 2)
  | .br _ => (0, 0) | .bz _ => (1, 0) | .bnz _ => (1, 0)
  | .brx _ => (0, 0) | .bzx _ => (1, 0) | .bnzx _ => (1, 0)
  | .call _ => (0, 0) | .calli => (1, 0) | .ret => (0, 0) | .jmpi => (1, 0)
  | .tor => (1, 0) | .fromr => (0, 1) | .rget => (0, 1) | .rdrop => (0, 0)
  | .rep f => (if f = 0 then 1 else 0, 0)
  | .repi f => (if f = 0 then 1 else 0, 0)
  | .ldr _ _ _ => (1, 0) | .str _ => (2, 0) | .tas _ => (1, 0) | .lr _ => (1, 0) | .sc _ => (2, 0)
  | .agree _ _ _ => (1, 0) | .mul _ _ => (2, 0) | .div _ _ => (2, 0)
  | .land _ => (0, 1) | .putl _ => (1, 0) | .waitl _ => (0, 0)
  | .send => (2, 0) | .recv => (1, 1) | .sendt => (2, 1) | .recvt => (1, 2)
  | .wait t => if t then (1, 1) else (0, 0)
  | .sleep => (0, 0) | .ckpt => (0, 0) | .fence => (0, 0) | .sync => (0, 0) | .ifence => (0, 0)
  | .csrr _ => (0, 1) | .csrw _ => (1, 0) | .trap _ => (0, 0) | .rett => (0, 0)
  | .cp op _ _ =>
    match op.toNat with
    | 0 => (1, 0) | 1 => (0, 0) | 2 => (1, 0) | 3 => (1, 0) | 4 => (0, 0) | 5 => (1, 0) | 6 => (2, 0) | _ => (0, 0)

end Sys2Proof.Machine
end

