-- ==== Sys2Proof/Machine/Strings.lean ====
section
/-! DEFINITION. The strings of a course as the other units meet them: CSR values, unison or split, words retired,
traps raised, taken and returned from, halts, and the reset of a course (R88 to R129, R188 to R197, R216 to R218,
R573 to R578). -/

namespace Sys2Proof.Machine

open Sys2Proof

/-! ### CSRs -/

/-- Is a core string B of its course? -/
def isB (k : Nat) : Bool := decide (k % 2 = 1)

/-- The reset value of a stored CSR (R721, R722): string B's stack area is its own in split and string A's in fixed
unison (R93). -/
def csrReset (c : Chip) (k i : Nat) : Word :=
  let ownB := isB k && !c.fixedUnison && decide (k < 512)
  if i = 0x08 then (if ownB then 0x7C00 else 0x7800)
  else if i = 0x09 then (if ownB then 0x8000 else 0x7C00)
  else if i = 0x0A then (if ownB then 0x7C00 else 0x7800)
  else if i = 0x0B then 1
  else if i = 0x18 then 1
  else 0

/-- The stored value of a CSR. -/
def csrVal (c : Chip) (k i : Nat) : Word := Tbl.get (csrReset c k i) (coreOf c k).csr i

/-- Stores a CSR. -/
def csrPut (c : Chip) (k i : Nat) (w : Word) : Chip :=
  updCore c k (fun r => { r with csr := Tbl.put (csrReset c k i) r.csr i w })

/-- Applies the pending deferred CSR writes (R118, R119). -/
def applyPend (c : Chip) (k : Nat) : Chip :=
  let p := (coreOf c k).pend
  let c := p.foldl (fun c e => csrPut c k e.1 e.2) c
  updCore c k (fun r => { r with pend := [] })

/-- TRAPINFO.INH: a handler runs. -/
def inhOf (c : Chip) (k : Nat) : Bool := bit (csrVal c k 0x13) 17

/-! ### Unison and split -/

/-- The course of a core. -/
def courseNo (k : Nat) : Nat := k / 2

/-- An access of core `k` has met the gate of a domain that is off or in retention: it is counted, and OFFRSP of the core's
cluster is set; the luthier belongs to no cluster (R268, R280). -/
def offMet (c : Chip) (k p : Nat) : Chip :=
  let c := countOff c p
  if 512 ≤ k then c else regOr c (clReg (clusterOf (courseNo k)) 0x04) 0x200

/-- Does the course run in unison now: checked mode, neither degraded nor in its safe state? During a hand-over to
split it still does (R235), during one to unison not yet (R234). -/
def inUnison (c : Chip) (n : Nat) : Bool :=
  let r := courseOf c n
  !r.degraded && !r.safe &&
    (decide (n = luthierCourse) || c.fixedUnison || decide (r.mode = 1) ||
      (decide (r.mode = 2) && match r.hand with | some h => !h.toUnison | none => false))

/-- Is rollback enabled (R207)? The luthier's course has it fixed at 1 (R240). -/
def rbkOf (c : Chip) (n : Nat) : Bool := decide (n = luthierCourse) || bit (courseOf c n).ctl 0

/-- Is degraded running enabled (R225, R240)? -/
def degrunOf (c : Chip) (n : Nat) : Bool := decide (n = luthierCourse) || bit (courseOf c n).ctl 1

/-- The core number under which the event distributor knows a core: the course in unison or degraded counts under 2n
(R570, R571). -/
def eventId (c : Chip) (k : Nat) : Nat :=
  let n := courseNo k
  if n = luthierCourse then 512
  else if inUnison c n ∨ (courseOf c n).degraded then 2 * n else k

/-- The core that acts for an event target: string A of a course in unison, the survivor of a degraded one (R216,
R228). -/
def targetCore (c : Chip) (e : Nat) : Nat :=
  let r := courseOf c (courseNo e)
  if r.degraded then 2 * courseNo e + b1 r.survB else if inUnison c (courseNo e) then 2 * courseNo e else e

/-- Does the core itself receive presentations? String B of a course in unison does not (R216). -/
def receives (c : Chip) (k : Nat) : Bool := decide (targetCore c (eventId c k) = k)

/-- Enters an entry in the read log: behind what string A has consumed, before what a replay still has to consume
(R213, R226). -/
def logAdd (l : List LogEnt) (e : LogEnt) : List LogEnt :=
  l.takeWhile (fun x => x.aTook) ++ e :: l.dropWhile (fun x => x.aTook)

/-! ### Words -/

/-- The address of the word a string executes: under repetition the repeated word (R171). -/
def wordPc (c : Chip) (k : Nat) : Nat :=
  match (coreOf c k).rep with
  | some q => q.at_ + 2
  | none => (coreOf c k).pc

/-- Counts an executed word (R172): the checkpoint interval and the 64 words after an LR (R182), which its request
counts until its reservation is placed; the word after it has called no checkpoint yet. -/
def countWord (c : Chip) (k : Nat) : Chip :=
  updCore c k (fun r =>
    { r with words := r.words + 1, ownCkpt := 0, resumed := false,
             bus := r.bus.map (fun q => if q.kind = 3 ∧ q.done = false then { q with data := q.data + 1 } else q),
             resv := match r.resv with
               | some q => some { q with words := q.words + 1 }
               | none => none })

/-- A word is complete: outside a repetition the PC becomes `pc`; in a repetition the count falls by 1, and after the
last iteration execution goes on behind the repeated word (R171, R173). -/
def retire (c : Chip) (k : Nat) (pc : Nat) : Chip :=
  let c := updCore (countWord c k) k (fun r => { r with wait := none })
  match (coreOf c k).rep with
  | none => updCore c k (fun r => { r with pc := pc })
  | some q =>
    let left := csrVal c k 0x28 - 1
    let c := csrPut c k 0x28 left
    if left = 0 then updCore c k (fun r => { r with rep := none, pc := q.at_ + 4 })
    else c

/-- The address a trap between words or a withdrawn word returns to: the next word, or the REP or REPI of a
repetition in progress (R190). -/
def resumePc (c : Chip) (k : Nat) : Nat :=
  match (coreOf c k).rep with
  | some q => q.at_
  | none => (coreOf c k).pc

/-- A word that waited completes: its operands are removed and `push` (top first) pushed. Every word that can wait is
one word long and leaves no more than it takes, so nothing spills. -/
def completeWait (c : Chip) (k : Nat) (push : List Word) : Chip :=
  let drop := match (coreOf c k).wait with | some w => w.drop | none => 0
  let c := updCore c k (fun r => { r with stk := push ++ r.stk.drop drop })
  retire c k ((coreOf c k).pc + 2)

/-- Raises an imprecise trap in a string; it is taken at a later word boundary (R108). -/
def raiseTrap (c : Chip) (k : Nat) (t : ITrap) : Chip := updCore c k (fun r => { r with itraps := r.itraps ++ [t] })

/-! ### Events presented to strings -/

/-- The sources presented to an event target. -/
def presentedTo (c : Chip) (e : Nat) : List Nat :=
  (c.srcs.filter (fun x => decide (x.2.st = 2) && decide (x.2.holder = e))).map Prod.fst

/-- Is the request line of a core's target up (R573)? -/
def reqUp (c : Chip) (k : Nat) : Bool := receives c k && !(presentedTo c (eventId c k)).isEmpty

/-- Withdraws a presented source: pending again, counted in WDRCNT (R573). -/
def withdraw (c : Chip) (s : Nat) : Chip :=
  regCount (updSrc c s (fun r => { r with st := 1, holder := 0 })) 0x60007028 31 0 1

/-- Withdraws every source presented to a target. -/
def withdrawAll (c : Chip) (e : Nat) : Chip := (presentedTo c e).foldl withdraw c

/-- Does the string execute a word that traps between words do not interrupt: SLEEP and WAIT, which only a presentation
or the deadline ends (R105, R147), and the barriers, which complete before a trap is taken (R109)? -/
def heldInWord (c : Chip) (k : Nat) : Bool :=
  match (coreOf c k).wait with
  | some w => decide (w.kind < 4) || decide (w.kind = 7)
  | none => false

/-- Is a repetition by REP in progress, which holds traps between words pending (R174)? One that RETT has just resumed does
not yet: a trap still pending is taken before the first word at its target (R193). -/
def inRep (c : Chip) (k : Nat) : Bool :=
  match (coreOf c k).rep with | some q => !q.intr && !(coreOf c k).resumed | none => false

/-- Is the interrupt of a core due: line up, IMASK 0, INH 0, no REP repetition (R574)? -/
def intDue (c : Chip) (k : Nat) : Bool :=
  reqUp c k && !bit (csrVal c k 0x18) 0 && !inhOf c k && !inRep c k && !heldInWord c k

/-- Is an imprecise trap due: one raised, INH 0, no REP repetition (R110, R174, R191)? -/
def itrapDue (c : Chip) (k : Nat) : Bool :=
  !(coreOf c k).itraps.isEmpty && !inhOf c k && !inRep c k && !heldInWord c k

/-! ### Channels: a waiting SEND or RECV withdrawn -/

/-- Withdraws the request of a waiting word from its engine: nothing is pushed or popped, and the word executes again
later (R306). -/
def withdrawWait (c : Chip) (k : Nat) : Chip :=
  match (coreOf c k).wait with
  | none => c
  | some w =>
    let c := if 4 ≤ w.kind ∧ w.kind ≤ 6 then
        updChan c (w.arg.toNat % 4096) (fun h =>
          { h with sends := h.sends.filter (· ≠ k), recvs := h.recvs.filter (· ≠ k) })
      else c
    updCore c k (fun r => { r with wait := none })

/-! ### Calling a checkpoint -/

/-- Is a string in a barrier? -/
def inBarrier (c : Chip) (k : Nat) : Bool := match (coreOf c k).wait with | some w => decide (w.kind = 7) | none => false

/-- Calls a checkpoint after `w` words of string A, where none is called. -/
def callAt (c : Chip) (n w : Nat) : Chip :=
  updCourse c n (fun r => { r with ckptAt := match r.ckptAt with | some v => some v | none => some w })

/-- Calls a checkpoint at string A's next word boundary (R220): where it stands, a word that waits being withdrawn and
executed again (R123); behind a barrier, which completes first. -/
def callCkpt (c : Chip) (n : Nat) : Chip :=
  let w := (coreOf c (2 * n)).words
  if inBarrier c (2 * n) then callAt c n (w + 1)
  else if (courseOf c n).ckptAt.isSome then c
  else callAt (withdrawWait c (2 * n)) n w

/-- Has the word about to execute no checkpoint of its own yet? Words that act on what lies outside, or are about to wait, call
one at themselves (R215, R218), whether or not one has just been made. -/
def ckptFirst (c : Chip) (k : Nat) : Bool := inUnison c (courseNo k) && !isB k && decide ((coreOf c k).ownCkpt ≠ 2)

/-- The word about to execute calls its own checkpoint. -/
def callOwn (c : Chip) (k : Nat) : Chip :=
  updCore (callAt c (courseNo k) (coreOf c k).words) k (fun r => { r with ownCkpt := 1 })

/-! ### Traps -/

/-- What a trap records (R188, R190, R194, R196, R197). -/
structure TrapRec where
  cause : Nat
  retPc : Nat
  ipc : Nat
  rpt : Bool := false
  imp : Bool := false
  store : Bool := false
  slot : Nat := 0
  halfB : Bool := false
  code : Nat := 0
  addr : Nat := 0
  deriving DecidableEq, Repr

/-- The vector of a cause (R188). -/
def trapVector (cause : Nat) : Nat :=
  if cause = 0x20 then 3 else if 0x10 ≤ cause then 2 else if cause = 0x0A then 1 else 0

/-- TRAPCAUSE of a record (R194). -/
def causeWord (t : TrapRec) : Word :=
  wd (t.cause + 256 * b1 t.imp + 512 * b1 t.store + 1024 * (t.slot % 4) + 4096 * b1 t.halfB + 65536 * (t.code % 256))

/-- TRAPINFO of a record, with INH set (R196). MORE is computed when read. -/
def infoWord (t : TrapRec) : Word := wd (t.ipc % 65536 + 65536 * b1 t.rpt + 131072)

/-- A request that is an LR not yet performed becomes a plain load: its reservation is lost before it is placed. -/
def loseReq (q : BusReq) : BusReq := if q.kind = 3 ∧ q.done = false then { q with kind := 0 } else q

/-- Loses a string's reservation, one still on its way to the memory too (R182). -/
def dropResv (c : Chip) (k : Nat) : Chip := updCore c k (fun r => { r with resv := none, bus := r.bus.map loseReq })

/-- Halts a string at its word boundary: a waiting request is withdrawn (R306), its presented sources are withdrawn
(R573, R578) and its reservation is lost (R182). -/
def haltCore (c : Chip) (k : Nat) : Chip :=
  let e := eventId c k
  let was := receives c k
  let c := updCore (dropResv (withdrawWait c k) k) k (fun r => { r with halted := true, haltReq := false })
  if was then withdrawAll c e else c

/-- A double trap: the string halts before the word, its record stays the first one, the course's status names cause
and string, and the course's tuner source is raised (R191). -/
def doubleTrap (c : Chip) (k cause : Nat) : Chip :=
  let n := courseNo k
  let c := updCore (haltCore c k) k (fun r => { r with dhalt := true })
  let c := updCourse c n (fun r => { r with dtrap := true, dtcause := cause, dtstrB := isB k })
  if n < 256 then pulse c (705 + n) else c

/-- Trap entry, one indivisible step of the string (R190). A trap while a handler runs is a double trap (R191). -/
def trapEntry (c : Chip) (k : Nat) (t : TrapRec) : Chip :=
  let c := applyPend (updCore c k (fun r => { r with traps := r.traps + 1 })) k
  if inhOf c k then doubleTrap c k t.cause
  else
    let c := csrPut c k 0x12 (wd (t.retPc % 65536 / 2 * 2))
    let c := csrPut c k 0x11 (causeWord t)
    let c := csrPut c k 0x13 (infoWord t)
    let c := csrPut c k 0x14 (wd t.addr)
    let c := dropResv c k
    updCore c k (fun r =>
      { r with pc := bits (csrVal c k 0x10) 14 4 * 16 + 4 * trapVector t.cause, wait := none, rep := none, resumed := false,
               ownCkpt := 0 })

/-- A precise trap of the word a string is about to execute (R176, R188, R190). -/
def preciseRec (c : Chip) (k cause : Nat) (halfB : Bool) (addr : Nat) : TrapRec :=
  { cause := cause, retPc := resumePc c k, ipc := wordPc c k, rpt := (coreOf c k).rep.isSome, halfB := halfB, addr := addr }

/-- The record of an imprecise trap taken now (R190, R194, R196). -/
def itrapRec (c : Chip) (k : Nat) (t : ITrap) : TrapRec :=
  { cause := t.cause, retPc := resumePc c k, ipc := t.ipc, rpt := (coreOf c k).rep.isSome, imp := true,
    store := t.store, slot := if t.store then 0 else t.slot, code := t.code, addr := t.addr }

/-- The record of an interrupt taken now. -/
def intRec (c : Chip) (k : Nat) : TrapRec :=
  { cause := 0x20, retPc := resumePc c k, ipc := 0, rpt := (coreOf c k).rep.isSome }

/-- Return from trap (R193): the pending CSR writes are applied and INH becomes 0; the caller decides the target, an
unusable one (R115) and the resumption of a repetition (R177). -/
def trapReturn (c : Chip) (k : Nat) : Chip :=
  let c := applyPend c k
  csrPut c k 0x13 (setBits (csrVal c k 0x13) 17 17 0)

/-! ### Courses -/

/-- Is an address in the course's own local SRAM, by either name (R249)? -/
def ownSram (k a : Nat) : Bool :=
  match target (some (courseNo k)) a with
  | .sram n _ => decide (n = courseNo k)
  | _ => false

/-- What remains of a string's requests when it is reset or loses its power: those on the fabric are still performed, and
their answers go nowhere (R30). -/
def orphans (k : Nat) (l : List BusReq) : List BusReq :=
  (l.filter (fun q => !q.done && !ownSram k q.addr)).map (fun q => { (loseReq q) with slot := 4 })

/-- What the snapshot store keeps of string A. Traps raised and not yet taken are kept with it, and the engine operations
released and still in flight, whose results land in the slots it keeps. -/
def snapOf (r : Core) : Core :=
  { r with wait := none, sbuf := [], bus := [], lines := [], resv := none, words := 0, traps := 0 }

/-- Takes the snapshot of a course from string A. -/
def takeSnap (c : Chip) (n : Nat) : Chip := updCourse c n (fun r => { r with snap := some (snapOf (coreOf c (2 * n))) })

/-- Resets of a course (R124, R720, R724): stacks empty, slots 0, buffers empty, CSRs at reset, strings halted; the
tuner's buffers empty; TFLT, BADA, BADB, CTL, SAFE and TFCNT kept. Results in flight are dropped with their slots; requests on
the fabric are still performed. -/
def resetCourse (c : Chip) (n : Nat) : Chip :=
  let c := withdrawAll (withdrawWait (withdrawWait c (2 * n)) (2 * n + 1)) (2 * n)
  let c := withdrawAll c (2 * n + 1)
  let c := updCore c (2 * n) (fun r => { bus := orphans (2 * n) r.bus })
  let c := updCore c (2 * n + 1) (fun r => { bus := orphans (2 * n + 1) r.bus })
  updCourse c n (fun r =>
    { r with mode := 0, check := 0, degraded := false, safe := false, survB := false, dtrap := false, mism := false,
             replay := false, mcause := 0, verdict := 0, dtcause := 0, entry := 0, dtstrB := false, ckpts := 0,
             miscnt := 0, pairs := [], pairNo := 0, bHalves := [], log := [], replaying := false, snap := none, ckptAt := none,
             hand := none, test := none, locked := false, discarded := 0,
             ctl := r.ctlPend.getD r.ctl, ctlPend := none })

/-- Are both strings of a course, or its survivor, halted (R243)? -/
def courseHalted (c : Chip) (n : Nat) : Bool :=
  let r := courseOf c n
  let a := (coreOf c (2 * n)).halted
  let b := (coreOf c (2 * n + 1)).halted
  if r.degraded then (if r.survB then b else a) else a && b

/-- A poisoned local load, fill or fetch halts the course through its peg before the word, in both strings; no trap is
taken and no mismatch recorded (R256). -/
def poisonHalt (c : Chip) (n : Nat) : Chip := haltCore (haltCore c (2 * n)) (2 * n + 1)

end Sys2Proof.Machine
end

