-- ==== Sys2Proof/Machine/Channels.lean ====
section
/-! DEFINITION. The channel engines (R287 to R324): queues, records, credits, the rewind mark and GAP records, parked
SENDs and RECVs, broken channels and closes. -/

namespace Sys2Proof.Machine

open Sys2Proof

/-! ### Queues -/

/-- Capacity in words (R298). -/
def chCap (h : Chan) : Nat := 2 ^ (h.k + 1)

/-- The class of a party (R288). -/
def partyClass (p : Nat) : Nat := p / 4096

/-- The number within a party's class. -/
def partyNo (p : Nat) : Nat := p % 4096

/-- Is the queue held in a port's buffer (R299)? Its consumer is a LINK port, which uses WORD (R289); a channel a SER port
pops (R440) is a RECORD channel in cluster store. -/
def isLinkQ (h : Chan) : Bool := decide (partyClass h.cons = 4) && decide (h.fmt = 0)

/-- The global address of the word at place `i` of a queue in cluster store (R298). -/
def chWordGa (s : Nat) (h : Chan) (i : Nat) : Nat :=
  0x10000000 + s / 128 * 0x100000 + h.qbase + 4 * ((h.rd + i) % chCap h)

/-- Words in the queue. -/
def chDepth (h : Chan) : Nat := if isLinkQ h then h.lq.length else h.depth

/-- Free places, the reserved ones taken off (R211). -/
def chFree (h : Chan) : Nat := chCap h - chDepth h - h.reserved

/-- Does the crossing of a link queue flush, so that a writer waits until its reset has been acknowledged (R603, R604)?
Ports stand in `flushing` under their own numbers. -/
def chFlushing (c : Chip) (s : Nat) : Bool :=
  isLinkQ (chanOf c s) && decide (partyNo (chanOf c s).cons ∈ c.flushing)

/-- Words a consumer may pop: a record only once complete (R291). -/
def chPoppable (h : Chan) : Nat := chDepth h - h.lead

/-- Restarts the tail timer: at each pop and at each push into an empty queue (R312). -/
def tailRestart (c : Chip) (h : Chan) : Chan :=
  { h with tailAt := c.tb, tailRun := decide (h.tailto ≠ 0) && decide (chDepth h ≠ 0) }

/-- The tail timer runs only while the queue is not empty (R312). -/
def tailStop (h : Chan) : Chan := { h with tailRun := h.tailRun && decide (chDepth h ≠ 0) }

/-- Words of a credit batch (R301 CRB). -/
def crbSize (h : Chan) : Nat := if h.crb = 0 then 1 else if h.crb = 1 then 4 else if h.crb = 2 then 16 else 64

/-- A popped word of a stream channel joins the batch of credits; the batch is to be returned when it is full, and at once when
the queue has become empty (R315). -/
def creditPop (h : Chan) : Chan :=
  if h.kind ≠ 1 then h
  else if crbSize h ≤ h.batch + 1 ∨ chDepth h = 0 then { h with batch := 0, due := h.due ++ [h.batch + 1] }
  else { h with batch := h.batch + 1 }

/-- Places a word at the tail; the caller has seen room. -/
def chPushRaw (c : Chip) (s : Nat) (w : Word) (p : Bool) : Chip :=
  let h := chanOf c s
  let wasEmpty := chDepth h = 0
  let c :=
    if isLinkQ h then updChan c s (fun h => { h with lq := h.lq ++ [⟨w, p⟩] })
    else
      let c := writeWord c (chWordGa s h h.depth) w p none
      updChan c s (fun h => { h with depth := h.depth + 1 })
  if wasEmpty then updChan c s (tailRestart c) else c

/-- Takes the oldest word, checked as it is read (R309, R322); the tail timer restarts and TAILF is cleared
(R312), and on a stream channel the word's credit is returned (R315). -/
def chPopRaw (c : Chip) (s : Nat) : Chip × Word × Bool :=
  let h := chanOf c s
  let (c, w, p) :=
    if isLinkQ h then
      match h.lq with
      | q :: t => (updChan c s (fun h => { h with lq := t }), q.w, q.p)
      | [] => (c, 0, false)
    else
      let (c, w, p) := readWord c (chWordGa s h 0) 3 0
      (updChan c s (fun h => { h with rd := (h.rd + 1) % chCap h, depth := h.depth - 1 }), w, p)
  let c := updChan c s (fun h =>
    { (creditPop (tailRestart c h)) with tailf := false, psn := if p then sat (h.psn + 1) 255 else h.psn })
  (c, w, p)

/-- The words of a queue, oldest first, with their tags; `n` is fuel for the count of words. -/
def chWords (c : Chip) (s : Nat) (h : Chan) : Nat → Nat → List QWord
  | _, 0 => []
  | i, n + 1 =>
    let ga := chWordGa s h i
    ⟨wordAt c ga, decide (ga ∈ c.poison)⟩ :: chWords c s h (i + 1) n

/-- All words of a queue. -/
def chAll (c : Chip) (s : Nat) : List QWord :=
  let h := chanOf c s
  if isLinkQ h then h.lq else chWords c s h 0 h.depth

/-- Moves a word of a queue to another place as it stands, with its tag: no store, and nothing else meets it. -/
def moveWord (c : Chip) (src dst : Nat) : Chip :=
  let tag (l : List Nat) : List Nat := (if src ∈ l then [dst] else []) ++ l.filter (· ≠ dst)
  { (putWord c dst (wordAt c src)) with poison := tag c.poison, sbe := tag c.sbe }

/-- Takes `n` words out of a queue behind its first `rem`: those move up to the words that stay, the last of them first. -/
def chCut (c : Chip) (s rem n : Nat) : Chip :=
  let h := chanOf c s
  if isLinkQ h then updChan c s (fun h => tailStop { h with lq := h.lq.take rem ++ h.lq.drop (rem + n) })
  else
    let c := (List.range rem).reverse.foldl (fun c i => moveWord c (chWordGa s h i) (chWordGa s h (i + n))) c
    updChan c s (fun h => tailStop { h with rd := (h.rd + n) % chCap h, depth := h.depth - n })

/-- Takes the last `n` words out of a queue. -/
def chCutTail (c : Chip) (s n : Nat) : Chip :=
  updChan c s (fun h => tailStop (if isLinkQ h then { h with lq := h.lq.take (h.lq.length - n) } else { h with depth := h.depth - n }))

/-- LEN of a record header (R290). -/
def hdrLen (w : Word) : Nat := bits w 11 0

/-- A record header. -/
def mkHeader (len seq tag : Nat) (gap : Bool) : Word := wd (len % 4096 + 4096 * b1 gap + 65536 * (seq % 256) + 16777216 * (tag % 256))

/-- The number of complete records among words that begin at a header; `n` is fuel. -/
def countRecs : Nat → List QWord → Nat
  | 0, _ => 0
  | _, [] => 0
  | n + 1, q :: t => if hdrLen q.w ≤ t.length then 1 + countRecs n (t.drop (hdrLen q.w)) else 0

/-- Complete records whose headers have not been popped. -/
def chRecords (c : Chip) (s : Nat) : Nat :=
  let h := chanOf c s
  let l := (chAll c s).drop h.rem
  countRecs l.length (l.take (chPoppable h - h.rem))

/-- DEPTH as the event threshold counts it: visible words, or complete records (R313). -/
def chVisible (c : Chip) (s : Nat) : Nat := if (chanOf c s).fmt = 1 then chRecords c s else chPoppable (chanOf c s)

/-- The level with which a channel drives its event source (R313). -/
def chLevel (c : Chip) (s : Nat) (h : Chan) : Bool :=
  h.opened && (decide (h.evth ≤ chVisible c s) || h.tailf || h.broken || h.gapPend)

/-! ### Pushing -/

/-- A word from a producer that sends words one by one: on a RECORD channel the first word after open and after each
complete record is a header, whose SEQ the engine writes and whose GAP, TAG and reserved bits it forces to 0
(R292). -/
def chPushWord (c : Chip) (s : Nat) (w : Word) (p : Bool) : Chip :=
  let h := chanOf c s
  if h.fmt = 0 then chPushRaw c s w p
  else if h.need = 0 then
    let n := hdrLen w
    let c := chPushRaw c s (mkHeader n h.seq 0 false) p
    updChan c s (fun h => { h with seq := (h.seq + 1) % 256, need := n, lead := if n = 0 then 0 else 1 })
  else
    let c := chPushRaw c s w p
    updChan c s (fun h => { h with need := h.need - 1, lead := if h.need = 1 then 0 else h.lead + 1 })

/-- Is the next word of a channel, behind the words `held` that are still to be pushed, a header that cannot fit (R292)? -/
def badHeader (h : Chan) (held : List Word) (w : Word) : Bool :=
  let need := held.foldl (fun n x => if n = 0 then hdrLen x else n - 1) h.need
  decide (h.fmt = 1) && decide (need = 0) && decide (chCap h - 1 < hdrLen w)

/-- Counts a released record into LOST and the pending GAP (R318). -/
def chLose (h : Chan) (words seq : Nat) : Chan :=
  { h with lost := sat (h.lost + words) 0xFFFFFFFF, gapSeq := if h.gapPend then h.gapSeq else seq, gapPend := true,
           gapCnt := sat (h.gapCnt + 1) 255 }

/-- Releases unbegun records whole, from the oldest, until `room` places are free; `n` is fuel (R318). -/
def chRelease (c : Chip) (s room : Nat) : Nat → Chip
  | 0 => c
  | n + 1 =>
    let h := chanOf c s
    if room ≤ chFree h then c
    else
      let l := chAll c s
      match l.drop h.rem with
      | q :: _ =>
        let len := if h.fmt = 1 then hdrLen q.w else 0
        if h.rem + len + 1 ≤ chPoppable h then
          let c := chCut c s h.rem (len + 1)
          let c := updChan c s (fun h => chLose h (len + 1) (bits q.w 23 16))
          chRelease c s room n
        else c
      | [] => c

/-- A whole record of a note or a field port (R296, R318): on a RECORD channel with a header the engine forms, on a
WORD channel its words. On a scheduled channel unbegun records are released to make room, and a record that still does
not fit is lost. Answers whether the record was placed. -/
def chPushRecord (c : Chip) (s : Nat) (data : List QWord) (tag : Nat) : Chip × Bool :=
  let h := chanOf c s
  let size := data.length + (if h.fmt = 1 then 1 else 0)
  let c := if h.kind = 0 then chRelease c s size (chDepth h + 1) else c
  let h := chanOf c s
  if size ≤ chFree h then
    let c :=
      if h.fmt = 1 then
        updChan (chPushRaw c s (mkHeader data.length h.seq tag false) false) s (fun h => { h with seq := (h.seq + 1) % 256 })
      else c
    (data.foldl (fun c q => chPushRaw c s q.w q.p) c, true)
  else
    (updChan c s (fun h => { (chLose h size h.seq) with seq := if h.fmt = 1 then (h.seq + 1) % 256 else h.seq }), false)

/-! ### Popping -/

/-- Is there a next item for the consumer: a pending GAP record between records, or a poppable word (R291, R319)? -/
def chReady (h : Chan) : Bool := (h.gapPend && decide (h.rem = 0)) || decide (0 < chPoppable h)

/-- The next item for the consumer: the pending GAP record before any later record, else the oldest word (R309,
R319). -/
def chTake (c : Chip) (s : Nat) : Chip × Word × Bool :=
  let h := chanOf c s
  if h.gapPend ∧ h.rem = 0 then
    (updChan c s (fun h => { h with gapPend := false, gaps := sat (h.gaps + 1) 0xFFFF, gapCnt := 0, gapSeq := 0 }),
      mkHeader 0 h.gapSeq h.gapCnt true, false)
  else
    let (c, w, p) := chPopRaw c s
    (updChan c s (fun h =>
      { h with rem := if h.fmt = 0 then 0 else if h.rem = 0 then hdrLen w else h.rem - 1 }), w, p)

/-- Takes `n` items. -/
def chTakeN (c : Chip) (s : Nat) : Nat → Chip × List QWord
  | 0 => (c, [])
  | n + 1 =>
    let (c, w, p) := chTake c s
    let (c, l) := chTakeN c s n
    (c, ⟨w, p⟩ :: l)

/-- Is a batch of credits to be returned to the producer (R315)? -/
def creditDue (h : Chan) : Bool := h.opened && !h.due.isEmpty

/-- CREDIT_RETURN: the home engine returns the oldest batch. -/
def creditReturn (c : Chip) (s : Nat) : Chip :=
  updChan c s (fun h => { h with credit := h.credit + h.due.headD 0, due := h.due.drop 1 })

/-! ### Handles and parties -/

/-- The slot of a valid handle: the slot is open in the handle's generation, which is not 0 (R293). -/
def slotOfHandle (c : Chip) (hd : Nat) : Option Nat :=
  let h := chanOf c (hd % 4096)
  if hd < 65536 ∧ h.opened ∧ hd / 4096 = h.gen ∧ hd / 4096 ≠ 0 then some (hd % 4096) else none

/-- The handle of an open slot. -/
def handleOf (c : Chip) (s : Nat) : Nat := (chanOf c s).gen * 4096 + s

/-- Does a string act for a party (R288)? A course matches both strings in split; in unison a core party 2n or 2n + 1
matches course n. -/
def partyMatches (c : Chip) (k party : Nat) : Bool :=
  let n := courseNo k
  if party = 0 then true
  else if partyClass party = 1 then
    decide (partyNo party = k) || ((inUnison c n || (courseOf c n).degraded) && decide (partyNo party / 2 = n))
  else if partyClass party = 2 then decide (partyNo party = n)
  else false

/-- The words a string of a course in unison has sent to a handle and that are held for release: its own halves (R211). -/
def heldSends (c : Chip) (k hd : Nat) : List Word :=
  let r := courseOf c (courseNo k)
  let mine : List Entry := if isB k then (r.pairs.filter (fun p => p.compared)).map (fun p => p.a) ++ r.bHalves
    else r.pairs.map (fun p => p.a)
  (mine.filter (fun e => decide (e.kind = 1) && decide (e.addr = hd))).map (fun e => e.data)

/-- The checks of R292 and R294 on a core's SEND: the slot, or none for BADHANDLE. On a mailbox the home engine judges the
header when the item arrives, but for a course in unison when the entry is placed. -/
def sendSlot (c : Chip) (k : Nat) (hd v : Word) : Option Nat :=
  match slotOfHandle c hd.toNat with
  | none => none
  | some s =>
    let h := chanOf c s
    let later := decide (h.kind = 2) && !inUnison c (courseNo k)
    if h.kind ≠ 0 ∧ partyMatches c k h.prod ∧ h.closing = none ∧ (later ∨ badHeader h (heldSends c k hd.toNat) v = false) then some s else none

/-- The checks of R294 on a core's RECV. -/
def recvSlot (c : Chip) (k : Nat) (hd : Word) : Option Nat :=
  match slotOfHandle c hd.toNat with
  | none => none
  | some s => if partyMatches c k (chanOf c s).cons ∧ partyClass (chanOf c s).cons ≠ 0 then some s else none

/-- The address of bank 0 of a queue in the global window, which TRAPADDR holds for a broken channel (R307). -/
def chBank0 (c : Chip) (s : Nat) : Nat := 0x10000000 + s / 128 * 0x100000 + (chanOf c s).qbase

/-- The domain of the store bank that holds a channel's queue. -/
def chPeg (s : Nat) (h : Chan) : Nat := 2 * (s / 128) + h.qbase / 0x40000

/-- The domain whose closed gate an item for a channel's queue meets; none for a link queue (R268, R323). -/
def chGate (c : Chip) (s : Nat) : Option Nat :=
  let h := chanOf c s
  if isLinkQ h ∨ gateOpen c (chPeg s h) then none else some (chPeg s h)

/-- An item of core `k` meets a channel's queue: a closed gate is noted (R268, R280). -/
def chMet (c : Chip) (s k : Nat) : Chip := match chGate c s with | some p => offMet c k p | none => c

/-- BUSOFF of a SEND to a broken channel: the word is counted in LOST and the string takes the trap as of a store
(R323). -/
def sendBroken (c : Chip) (s k : Nat) : Chip :=
  let c := chMet c s k
  let c := updChan c s (fun h => { h with lost := sat (h.lost + 1) 0xFFFFFFFF })
  raiseTrap c k ⟨0x10, true, 0, 0, wordPc c k, chBank0 c s, false⟩

/-- BUSOFF of a RECV or RECVT on a broken channel (R307). -/
def recvBroken (c : Chip) (s k : Nat) : Chip := raiseTrap (chMet c s k) k ⟨0x10, false, 0, 0, wordPc c k, chBank0 c s, false⟩

/-! ### Gates, closes, resets of crossings -/

/-- Enters what string A of a course in unison has waited for in the read log, so that string B takes it too (R213, R214). -/
def logWait (c : Chip) (k kind hd : Nat) (vals : List Word) (trap : Option ITrap) : Chip :=
  let n := courseNo k
  if inUnison c n then
    updCourse c n (fun r =>
      { r with log := logAdd r.log ⟨kind, hd, 0, vals, true, trap, (coreOf c k).words, 0, rbkOf c n, true, false⟩ })
  else c

/-- The handle a string waits with. -/
def waitHandle (c : Chip) (k : Nat) : Nat := match (coreOf c k).wait with | some w => w.arg.toNat | none => 0

/-- The open slots that hold a queue in a peg's domain. -/
def chansOfPeg (c : Chip) (p : Nat) : List Nat :=
  (c.chans.filter (fun x => x.2.opened && !isLinkQ x.2 && decide (chPeg x.1 x.2 = p))).map Prod.fst

/-- A domain leaves retention: its channels' queues are intact and BROKEN is cleared, but not on one whose domain has been off
meanwhile (R323). -/
def mendChannels (c : Chip) (p : Nat) : Chip :=
  (chansOfPeg c p).foldl (fun c s => updChan c s (fun h => { h with broken := h.wiped })) c

/-- A domain is switched off: the queued words are counted in LOST and the channel stays BROKEN until it is closed (R323); the
descriptor keeps the rest (R297). -/
def loseChannels (c : Chip) (p : Nat) : Chip :=
  (chansOfPeg c p).foldl (fun c s => updChan c s (fun h =>
    { h with lost := sat (h.lost + h.depth) 0xFFFFFFFF, depth := 0, lead := 0, tailRun := false, wiped := true })) c

/-- A waiting SEND, SENDT or RECV traps BADHANDLE precisely (R302). -/
def badWait (c : Chip) (k : Nat) : Chip :=
  let t := preciseRec c k 0x09 false (waitHandle c k)
  trapEntry (updCore c k (fun r => { r with wait := none })) k t

/-- The end of a close (R302 step 3): the words left and the reserved places are counted into LOST, the slot is freed,
and a parked RECV or SEND traps BADHANDLE precisely. Answers the number of words left. -/
def closeSlot (c : Chip) (s : Nat) : Chip × Nat :=
  let h := chanOf c s
  let left := chDepth h + h.reserved
  let c := updChan c s (fun _ => { gen := h.gen, lost := sat (h.lost + left) 0xFFFFFFFF })
  ((h.recvs ++ h.sends).foldl badWait c, left)

/-- The reset of the clocked side of a crossing that a channel uses (R321): records held or partly pushed are withdrawn
into LOST behind a pending GAP, the records held taking the next sequence numbers, and a stream producer's credits become capacity less DEPTH. `held` words waited at the
crossing in `recs` records. Answers the number of words discarded. -/
def flushChannel (c : Chip) (s held recs : Nat) : Chip × Nat :=
  let h := chanOf c s
  let part := h.lead
  let c := if part = 0 then c else chCutTail c s part
  let n := held + part
  let r := recs + (if part = 0 then 0 else 1)
  let c := updChan c s (fun h =>
    let h := { h with lead := 0, need := 0, lost := sat (h.lost + n) 0xFFFFFFFF }
    let h := if r = 0 then h else
      { h with gapSeq := if h.gapPend then h.gapSeq else if part = 0 then h.seq else (h.seq + 255) % 256, gapPend := true,
               gapCnt := sat (h.gapCnt + r) 255, seq := (h.seq + recs) % 256 }
    if h.kind = 1 then { h with credit := chCap h - chDepth h, batch := 0, due := [] } else h)
  (c, n)

/-! ### Descriptor images (R301) -/

/-- The 32-byte descriptor of a slot as eight words. -/
def chImage (c : Chip) (s : Nat) : List Word :=
  let h := chanOf c s
  [wd (h.kind + 4 * h.fmt + 16 * h.k + 256 * h.crb + 4096 * h.gen),
   wd (h.prod + 65536 * h.cons), wd h.qbase, wd (h.evsrc + 4096 * h.evth), wd h.tailto,
   wd (chDepth h % 4096 + 4096 * b1 h.broken + 8192 * b1 h.tailf + 16384 * b1 h.closing.isSome +
     32768 * b1 h.gapPend + 65536 * (if h.kind = 1 then h.credit % 4096 else 0)),
   wd h.lost, wd (h.seq + 256 * h.psn + 65536 * h.gaps)]

end Sys2Proof.Machine
end

