-- ==== Sys2Proof/Machine/Fabric.lean ====
section
/-! DEFINITION. The data fabric's routes (R19, R24, R25, R260, R262, R265, R272, R281): the gateways, the input ports a packet
meets, the ports that are stopped, the flits the routers have sent. -/

namespace Sys2Proof.Machine

open Sys2Proof

/-! ### The mesh and its gateways (R19, R24, R265) -/

/-- Mesh column of a cluster. -/
def meshX (k : Nat) : Nat := k % 4 + 4 * (k / 8 % 2)

/-- Mesh row of a cluster. -/
def meshY (k : Nat) : Nat := k / 4 % 2 + 2 * (k / 16)

/-- The cluster at a mesh position. -/
def clusterAt (x y : Nat) : Nat := 16 * (y / 2) + 8 * (x / 4) + 4 * (y % 2) + x % 4

/-- The cluster at whose router the gateway of a quadrant is attached. -/
def gateway (q : Nat) : Nat := if q = 0 then 0 else if q = 1 then 11 else if q = 2 then 20 else 31

/-- The cluster of the gateway of a cluster's quadrant. -/
def gatewayOf (k : Nat) : Nat := gateway (k / 8)

/-- The cluster of the gateway that serves a field port: 32g to 32g + 31 hang on gateway g (R19). -/
def portGateway (p : Nat) : Nat := gateway (p / 32)

/-- Input ports a packet meets from one cluster's router to another's, X first: 0 X-, 1 X+, 2 Y-, 3 Y+ (R262, R280); the
first one is `entry`: 4 the local port, 5 a gateway's. Port p of cluster k is 6k + p. -/
def route (entry src dst : Nat) : List Nat :=
  let x0 := meshX src
  let x1 := meshX dst
  let y0 := meshY src
  let y1 := meshY dst
  let xs := if x0 ≤ x1 then (List.range (x1 - x0)).map (fun i => 6 * clusterAt (x0 + i + 1) y0)
    else (List.range (x0 - x1)).map (fun i => 6 * clusterAt (x0 - i - 1) y0 + 1)
  let ys := if y0 ≤ y1 then (List.range (y1 - y0)).map (fun i => 6 * clusterAt x1 (y0 + i + 1) + 2)
    else (List.range (y0 - y1)).map (fun i => 6 * clusterAt x1 (y0 - i - 1) + 3)
  (6 * src + entry) :: (xs ++ ys)

/-- The way of a packet from the periphery to a cluster, or back, through the gateway of the cluster's quadrant (R265). -/
def fromPeriphery (j : Nat) : List Nat := route 5 (gatewayOf j) j

/-- The way of a packet from a cluster to the periphery. -/
def toPeriphery (j : Nat) : List Nat := route 4 j (gatewayOf j)

/-- The ends of an access of a string that passes routers: its own router and input port, and those of the target's answers. The
luthier enters through the gateway of the target's quadrant. None where no router is passed. -/
def ends (k : Nat) (t : Tgt) : Option ((Nat × Nat) × Nat × Nat) :=
  let own := clusterOf (courseNo k)
  match t with
  | .sram n _ => if n = courseNo k then none else some (if 512 ≤ k then (gatewayOf (clusterOf n), 5) else (own, 4), clusterOf n, 4)
  | .store j _ => some (if 512 ≤ k then (gatewayOf j, 5) else (own, 4), j, 4)
  | .nowhere => none
  | .rom _ => none
  | _ => if 512 ≤ k then none else some ((own, 4), gatewayOf own, 5)

/-- The cluster whose router a target hangs on, and the input port of its answers. -/
def farEnd (k : Nat) (t : Tgt) : Option (Nat × Nat) := (ends k t).map Prod.snd

/-- The input ports an access of a string meets on its way, or its answer. -/
def accessPath (k : Nat) (t : Tgt) (answer : Bool) : List Nat :=
  match ends k t with
  | none => []
  | some (a, b) => if answer then route b.2 b.1 a.1 else route a.2 a.1 b.1

/-- The input ports an item of a core meets on its way to a channel's queue, or from it: the store of the channel's home
cluster, or the gateway that serves the port of a link queue (R25, R265, R286). -/
def itemPath (c : Chip) (k s : Nat) (back : Bool) : List Nat :=
  let h := chanOf c s
  let (far, p) := if isLinkQ h then (portGateway (partyNo h.cons), 5) else (s / 128, 4)
  let (own, q) := if 512 ≤ k then (gatewayOf (s / 128), 5) else (clusterOf (courseNo k), 4)
  if back then route p far own else route q own far

/-- The input ports a record of a field port meets on its way to a channel's queue; a link queue lies in the periphery too. -/
def recordPath (c : Chip) (p s : Nat) : List Nat := if isLinkQ (chanOf c s) then [] else route 5 (portGateway p) (s / 128)

/-! ### Stopped ports (R272) -/

/-- Does a way need an input port that is stopped? Its traffic waits and is not dropped. -/
def pathHeld (c : Chip) (l : List Nat) : Bool := l.any (fun x => decide (x ∈ c.stopped))

/-- Does a stopped input port hold a request of a string, or its answer? -/
def heldUp (c : Chip) (k : Nat) (t : Tgt) (answer : Bool) : Bool := pathHeld c (accessPath k t answer)

/-- Does one hold a core's item for a channel? -/
def itemHeld (c : Chip) (k s : Nat) : Bool := pathHeld c (itemPath c k s false)

/-- Does one hold a core's request for an item, or the item? -/
def popHeld (c : Chip) (k s : Nat) : Bool := pathHeld c (itemPath c k s false) || pathHeld c (itemPath c k s true)

/-! ### Flits sent (R260, R281) -/

/-- Every router on a way sends the `n` flits of a packet. -/
def sendFlits (c : Chip) (l : List Nat) (n : Nat) : Chip :=
  { c with flits := l.foldl (fun t x => Tbl.put 0 t (x / 6) (Tbl.get 0 t (x / 6) + wd n)) c.flits }

/-- Flits of a scheduled transfer or channel item. -/
def itemFlits (len : Nat) : Nat := 1 + (len + 7) / 8

/-- The flits of an access of a string and of its answer: `kind` as of its request (R260). -/
def accessFlits (c : Chip) (k kind : Nat) (t : Tgt) : Chip :=
  let c := sendFlits c (accessPath k t false) (if kind = 1 ∨ kind = 4 then 2 else 1)
  sendFlits c (accessPath k t true) (if kind = 1 then 1 else 2)

/-- An item of a core is sent to a channel. -/
def itemSent (c : Chip) (k s : Nat) : Chip := sendFlits c (itemPath c k s false) (itemFlits 4)

/-- An item is sent from a channel to a core. -/
def itemGiven (c : Chip) (k s : Nat) : Chip := sendFlits c (itemPath c k s true) (itemFlits 4)

end Sys2Proof.Machine
end

