-- ==== Sys2Proof/Machine/Events.lean ====
section
/-! DEFINITION. The event distributor (R562 to R588): the inputs of the level sources, eligibility and the choice of a
target, presentation, claim, completion, withdrawal, and deliveries to the host. -/

namespace Sys2Proof.Machine

open Sys2Proof

/-! ### The EDS registers (R585) -/

/-- The EDS register of a source. -/
def edsAddr (s : Nat) : Nat := 0x60010000 + 4 * s

/-- SENSE of a source. -/
def srcSense (c : Chip) (s : Nat) : Nat := regFld c (edsAddr s) 2 0

/-- PRIO of a source. -/
def srcPrio (c : Chip) (s : Nat) : Nat := regFld c (edsAddr s) 7 4

/-- KIND of a source. -/
def srcKind (c : Chip) (s : Nat) : Nat := regFld c (edsAddr s) 9 8

/-- TSEL of a source. -/
def srcTsel (c : Chip) (s : Nat) : Nat := regFld c (edsAddr s) 15 10

/-- CMASK of a source. -/
def srcCmask (c : Chip) (s : Nat) : Nat := regFld c (edsAddr s) 31 16

/-- Is a source sensed as a level? -/
def isLevelSense (n : Nat) : Bool := n = 1 || n = 2

/-- Can source numbers be named by software: 1 to 1000 (R562, R585)? -/
def srcValid (s : Nat) : Bool := 1 ≤ s && s ≤ 1000

/-! ### Inputs (R562 to R564) -/

/-- Any bit of a register together with its enable bit in another, within [hi:lo]. -/
def anyEnabled (c : Chip) (st en hi lo : Nat) : Bool :=
  decide (bits (regVal c st &&& regVal c en) hi lo ≠ 0)

/-- The memory source of a cluster (R278). -/
def memSource (c : Chip) (k : Nat) : Bool :=
  let st := regVal c (clReg k 0x14)
  bit st 1 || bit st 2 || bit st 3 || (bit st 0 && bit (regVal c (clReg k 0x10)) 0)

/-- The router and cam engine source of a cluster (R278). -/
def routerSource (c : Chip) (k : Nat) : Bool :=
  let rs := regVal c (clReg k 0x04)
  let rc := regVal c (clReg k 0x00)
  let cs := regVal c (clReg k 0x44)
  let cc := regVal c (clReg k 0x40)
  bit rs 6 || (decide (bits rs 5 0 ≠ 0) && bit rc 0) || (bit rs 8 && bit rc 1) || (bit cs 0 && bit cc 0) ||
    (bit cs 1 && bit cc 1) || (bit cs 3 && bit cc 2)

/-- The level that drives a level source (R562, R564); a pulse source's input is 0 outside its pulse. -/
def srcLevel (c : Chip) (s : Nat) : Bool :=
  if s = 0 then false
  else if s ≤ 256 then
    let p := (s - 1) / 2
    if s % 2 = 1 then anyEnabled c (fpReg p 0x14) (fpReg p 0x10) 7 0
    else anyEnabled c (fpReg p 0x14) (fpReg p 0x10) 15 8
  else if s ≤ 512 then c.chans.any (fun x => decide (x.2.evsrc = s) && chLevel c x.1 x.2)
  else if s ≤ 528 then decide (regFld c (drnReg (s - 513) 0x1C) 1 0 ≠ 0)
  else if s ≤ 592 then
    (if s % 2 = 1 then memSource c ((s - 529) / 2) else routerSource c ((s - 530) / 2))
  else if s ≤ 596 then !(Tbl.get {} c.queues (s - 593)).replies.isEmpty
  else if s ≤ 640 then false
  else if s ≤ 650 then bit (regVal c 0x60005038 &&& regVal c 0x60005034) (s - 641)
  else if s ≤ 960 then false
  else if s ≤ 968 then
    let k := s - 961
    decide (regFld c (0x60001080 + 4 * k) 17 16 ≠ 0) && bit (regVal c 0x60001058) k
  else if s = 969 then decide (regFld c 0x60001028 1 0 ≠ 0) && bit (regVal c 0x60001058) 8
  else if s = 972 then bit (regVal c 0x60001030) 0 && bit (regVal c 0x60001058) 9
  else if s = 973 then decide (regFld c 0x60001040 15 0 ≠ 0) && bit (regVal c 0x60001058) 10
  else if s = 974 then decide (regFld c 0x60008014 7 0 = 1)
  else if s = 977 then bit (regVal c 0x60002004) 8
  else if s = 980 then decide (regFld c 0x60007004 2 1 ≠ 0)
  else false

/-- Is a level source active: its input meets its sensing (R566)? -/
def srcActive (c : Chip) (s : Nat) : Bool := if srcSense c s = 1 then srcLevel c s else !srcLevel c s

/-! ### Deliveries to the host (R582, R499) -/

/-- May a message of a vector be sent now: link up, Bus Master Enable, function in D0, MSI-X enabled, neither masked
(R495, R499)? -/
def msixOpen (c : Chip) (v : Nat) : Bool :=
  let st := regVal c 0x60003000
  let ms := regVal c 0x6000300C
  bit st 0 && bit st 6 && !bit st 7 && bit ms 0 && !bit ms 1 && !decide (v ∈ c.pcie.masked)

/-- Requests a message: while it cannot be sent, requests of a vector collapse into its pending bit. -/
def msixRequest (c : Chip) (v : Nat) : Chip :=
  if !msixOpen c v ∧ v ∈ c.pcie.pend then c else { c with pcie := { c.pcie with pend := c.pcie.pend ++ [v] } }

/-- A source of KIND 3 enters service with the host and joins the host list (R582). -/
def hostDeliver (c : Chip) (s : Nat) : Chip :=
  let c := updSrc c s (fun r => { r with st := 3, holder := 0x3FF, notgt := false })
  let c := { c with hostList := c.hostList ++ [⟨s, srcPrio c s, srcTsel c s⟩] }
  let c := regWrap (regWrap c 0x60007040 31 0 1) 0x60007024 31 0 1
  msixRequest c (srcTsel c s)

/-- May sources be presented at all (R565, R587)? -/
def delivering (c : Chip) : Bool := bit (regVal c 0x60007000) 0

/-- A source comes to owe an event: it becomes pending, and one of KIND 3 goes to the host at once (R582). -/
def becomePending (c : Chip) (s : Nat) : Chip :=
  let c := updSrc c s (fun r => { r with st := 1, holder := 0, since := c.tb, notgt := false })
  if srcKind c s = 3 ∧ srcPrio c s ≠ 0 ∧ delivering c then hostDeliver c s else c

/-- A source becomes idle. -/
def becomeIdle (c : Chip) (s : Nat) : Chip :=
  updSrc c s (fun r => { r with st := 0, holder := 0, sat := false, notgt := false })

/-! ### Edges and levels (R566, R567) -/

/-- An edge of an edge source. -/
def srcEdge (c : Chip) (s : Nat) : Chip :=
  let r := srcOf c s
  if r.st = 0 then becomePending c s
  else if r.count < 255 then updSrc c s (fun r => { r with count := r.count + 1 })
  else
    let c := regCount (updSrc c s (fun r => { r with sat := true })) 0x6000703C 31 0 1
    regOr c 0x60007004 4

/-- The level of a level source is judged (R566). -/
def srcJudge (c : Chip) (s : Nat) : Chip :=
  let r := srcOf c s
  if srcActive c s then (if r.st = 0 then becomePending c s else c)
  else if r.st = 2 then becomeIdle (withdraw c s) s
  else if r.st = 1 then becomeIdle c s
  else c

/-- The end of a source's service (R566, R567, R578). -/
def completeSrc (c : Chip) (s : Nat) : Chip :=
  let r := srcOf c s
  if isLevelSense (srcSense c s) then
    (if srcActive c s then becomePending c s else becomeIdle c s)
  else if r.count ≠ 0 then becomePending (updSrc c s (fun r => { r with count := r.count - 1 })) s
  else becomeIdle c s

/-- A COMPLETE by a receiver: the source it names ends its service, or the completion is stray (R576, R583). -/
def completeBy (c : Chip) (holder : Nat) (w : Word) : Chip :=
  let s := w.toNat
  if srcValid s ∧ (srcOf c s).st = 3 ∧ (srcOf c s).holder = holder then completeSrc c s
  else regCount c 0x60007008 31 0 1

/-- Completes every source in service with a receiver on its behalf (R578). -/
def completeHeld (c : Chip) (e : Nat) : Chip :=
  ((c.srcs.filter (fun x => decide (x.2.st = 3) && decide (x.2.holder = e))).map Prod.fst).foldl completeSrc c

/-- A pulse or a changed level reaches the distributor (R563, R566, R567). A pulse is two changes of its input. -/
def srcSample (c : Chip) (s : Nat) : Chip :=
  let r := srcOf c s
  let sense := srcSense c s
  let now := srcLevel c s
  let was := r.input
  let pulsed := r.pulseBusy
  let c := updSrc c s (fun r => { r with input := now, pulseBusy := r.pulseBusy && r.again, again := false })
  if sense = 0 then c
  else if isLevelSense sense then
    let c := if pulsed then
        (if sense = 1 then (if r.st = 0 then becomePending c s else c)
         else if r.st = 2 then becomeIdle (withdraw c s) s else if r.st = 1 then becomeIdle c s else c)
      else c
    srcJudge c s
  else
    let rise := (pulsed || (now && !was)) && (sense = 3 || sense = 5)
    let fall := (pulsed || (!now && was)) && (sense = 4 || sense = 5)
    let c := if rise then srcEdge c s else c
    if fall then srcEdge c s else c

/-- Is there anything for the distributor to take from a source's input? -/
def srcMoved (c : Chip) (s : Nat) : Bool :=
  let r := srcOf c s
  srcValid s && (r.pulseBusy || decide (srcLevel c s ≠ r.input) ||
    (isLevelSense (srcSense c s) && decide (r.st < 3) && decide (srcActive c s ≠ decide (r.st ≠ 0))))

/-! ### Targets (R569 to R572) -/

/-- CPL of a target: in unison string A's, degraded the survivor's (R570). -/
def cplOf (c : Chip) (e : Nat) : Nat := bits (csrVal c (targetCore c e) 0x19) 3 0

/-- Could a core become eligible by a change of CPL alone (R572)? -/
def reachable (c : Chip) (e : Nat) : Bool :=
  decide (eventId c e = e) && courseOn c (courseNo e) && !(coreOf c (targetCore c e)).halted

/-- Is a target eligible for a priority (R570)? The luthier always is, but for its CPL. -/
def eligible (c : Chip) (e prio : Nat) : Bool := (decide (e = 512) || reachable c e) && decide (cplOf c e < prio)

/-- Bit of a spread group's mask for a core (R588). -/
def inGroup (c : Chip) (g k : Nat) : Bool :=
  bit (regVal c (clReg (k / 16) (if g < 2 then 0x80 else 0x84))) (g % 2 * 16 + k % 16)

/-- The target set of a source of KIND 0 or 1 (R569). -/
def targetSet (c : Chip) (s : Nat) : List Nat :=
  if srcKind c s = 0 then
    ((List.range 16).filter (fun i => (srcCmask c s).testBit i)).map (fun i => 16 * srcTsel c s + i)
  else if srcKind c s = 1 then (List.range 512).filter (inGroup c (srcTsel c s))
  else []

/-- Does a target belong to the target set? Core 2n stands for a course in unison or degraded. -/
def inTargets (c : Chip) (s e : Nat) : Bool :=
  if srcKind c s = 2 then decide (e = 512)
  else if srcKind c s = 0 then decide (e / 16 = srcTsel c s) && (srcCmask c s).testBit (e % 16) && decide (e < 512)
  else if srcKind c s = 1 then decide (e < 512) && inGroup c (srcTsel c s) e
  else false

/-- Is a target asleep: in SLEEP (R571)? -/
def asleep (c : Chip) (e : Nat) : Bool :=
  match (coreOf c (targetCore c e)).wait with | some w => decide (w.kind = 1) | none => false

/-- The better of two targets: lowest CPL, then lowest number (R571). -/
def better (c : Chip) (best : Option Nat) (e : Nat) : Option Nat :=
  match best with
  | none => some e
  | some b => if cplOf c e < cplOf c b then some e else some b

/-- The target chosen for a source (R571): an awake eligible core, otherwise a sleeping one. -/
def chooseTarget (c : Chip) (s : Nat) : Option Nat :=
  if srcKind c s = 2 then (if eligible c 512 (srcPrio c s) then some 512 else none)
  else
    let el := (targetSet c s).filter (fun e => eligible c e (srcPrio c s))
    match (el.filter (fun e => !asleep c e)).foldl (better c) none with
    | some e => some e
    | none => el.foldl (better c) none

/-- Does an event complete the string's word: SLEEP or WAIT (R580)? In unison the outcome is entered in the read log for
string B (R216). -/
def eventWake (c : Chip) (k : Nat) : Chip :=
  let note (c : Chip) (op : Nat) (vals : List Word) : Chip :=
    if inUnison c (courseNo k) then
      updCourse c (courseNo k) (fun r =>
        { r with log := logAdd r.log ⟨op, 0, 0, vals, true, none, 0, 0, false, true, false⟩ })
    else c
  match (coreOf c k).wait with
  | some w =>
    if w.kind = 1 then completeWait (note c 0x39 []) k []
    else if w.kind = 2 then completeWait (note c 0x38 []) k []
    else if w.kind = 3 then completeWait (note c 0x38 [1]) k [1]
    else c
  | none => c

/-- Presents a source to a target (R571, R573, R580). -/
def present (c : Chip) (s e : Nat) : Chip :=
  let was := asleep c e
  let k := targetCore c e
  let c := updSrc c s (fun r => { r with st := 2, holder := e, notgt := false })
  let c := regWrap c 0x60007024 31 0 1
  let c := if e < 512 then regWrap c (clReg (e / 16) 0x94) 15 0 1 else c
  let c := if was then regCount c 0x60007030 31 0 1 else c
  let c := updCore c k (fun r => { r with mskPend := false })
  eventWake c k

/-- A source stands without target (R572). -/
def noTarget (c : Chip) (s : Nat) : Chip :=
  if (srcOf c s).notgt then c
  else
    let c := updSrc c s (fun r => { r with notgt := true })
    regOr (regSetFld (regCount c 0x60007034 31 0 1) 0x60007038 9 0 s) 0x60007004 2

/-- Is a source waiting to be decided? -/
def decidable (c : Chip) (s : Nat) : Bool :=
  srcValid s && decide ((srcOf c s).st = 1) && decide (srcPrio c s ≠ 0) && delivering c

/-- Have two sources one target set: the same cores, or the luthier, or one vector of the host (R569)? -/
def sameTargets (c : Chip) (s t : Nat) : Bool :=
  if srcKind c s < 2 ∧ srcKind c t < 2 then decide (targetSet c s = targetSet c t)
  else decide (srcKind c s = srcKind c t) && decide (srcTsel c s = srcTsel c t)

/-- Does another pending source of the same target set go before this one (R571)? -/
def goesBefore (c : Chip) (s : Nat) : Bool :=
  c.srcs.any (fun x =>
    decide (x.1 ≠ s) && decidable c x.1 && sameTargets c x.1 s &&
      (decide (srcPrio c s < srcPrio c x.1) || (decide (srcPrio c s = srcPrio c x.1) && decide (s < x.1))) &&
      (chooseTarget c x.1).isSome)

/-- A pending source is decided (R571, R572, R582). -/
def decideSrc (c : Chip) (s : Nat) : Chip :=
  if srcKind c s = 3 then hostDeliver c s
  else
    match chooseTarget c s with
    | some e => present c s e
    | none =>
      if srcKind c s ≠ 2 ∧ (targetSet c s).any (reachable c) = false then noTarget c s
      else updSrc c s (fun r => { r with notgt := false })

/-- Does a presentation still fit: the target set holds the core, and the core is eligible (R573)? -/
def stillFits (c : Chip) (s : Nat) : Bool :=
  let e := (srcOf c s).holder
  inTargets c s e && eligible c e (srcPrio c s)

/-- Withdraws every presentation that no longer fits (R573). -/
def recheckAll (c : Chip) : Chip :=
  ((c.srcs.filter (fun x => decide (x.2.st = 2))).map Prod.fst).foldl
    (fun c s => if stillFits c s then c else withdraw c s) c

/-- Withdraws every presentation (R573: DELIVER written 0). -/
def withdrawEvery (c : Chip) : Chip :=
  ((c.srcs.filter (fun x => decide (x.2.st = 2))).map Prod.fst).foldl withdraw c

/-! ### Claim (R575, R579) -/

/-- The greater of two presented sources: highest PRIO, then highest number. -/
def higher (c : Chip) (best : Option Nat) (s : Nat) : Option Nat :=
  match best with
  | none => some s
  | some b => if srcPrio c b < srcPrio c s ∨ (srcPrio c b = srcPrio c s ∧ b < s) then some s else some b

/-- CLAIM by a core: the word returned, and the source in service. -/
def claim (c : Chip) (k : Nat) : Chip × Word :=
  let e := eventId c k
  let ps := presentedTo c e
  let msk := (coreOf c k).mskPend
  let c := updCore c k (fun r => { r with mskPend := false })
  match ps.foldl (higher c) none with
  | none =>
    let c := if msk then regCount c 0x6000702C 31 0 1 else c
    let c := if e < 512 then regCount c (clReg (e / 16) 0x94) 31 16 1 else c
    (c, 0)
  | some s =>
    let p := srcPrio c s
    let w := wd (s + 65536 * p + 0x100000 * b1 (decide (1 < ps.length)))
    let c := updSrc c s (fun r => { r with st := 3, notgt := false })
    let c := if p = 0 then c else regMax c (0x60007040 + 4 * p) 31 0 (c.tb - (srcOf c s).since)
    (c, w)

/-- A core's CPL changes: presentations that it makes ineligible are withdrawn, and the core remembers that its own
write did it (R573, R579). -/
def setCpl (c : Chip) (k : Nat) (w : Word) : Chip :=
  let c := csrPut c k 0x19 (wd (bits w 3 0))
  if receives c k then
    let lost := (presentedTo c (eventId c k)).filter (fun s => !stillFits c s)
    let c := lost.foldl withdraw c
    if lost.isEmpty then c else updCore c k (fun r => { r with mskPend := true })
  else c

/-! ### Registers of the distributor -/

/-- A write of an EDS register (R585, R586). -/
def edsWrite (c : Chip) (s : Nat) (w : Word) : Chip :=
  if !srcValid s then c else
  let old := regVal c (edsAddr s)
  let kind := bits w 9 8
  let badSense := decide (5 < bits w 2 0)
  let t := bits w 15 10
  let badT := (kind = 0 && decide (31 < t)) || (kind = 1 && decide (3 < t)) || (kind = 2 && decide (t ≠ 0))
  let v := wd (w.toNat - w.toNat / 8 % 2 * 8)
  let v := if badSense then setBits v 2 0 0 else v
  let v := if badT then setBits v 15 10 0 else v
  let c := if badSense || badT then regOr c 0x60007004 (2 ^ 15) else c
  let c := regPut c (edsAddr s) v
  if bits old 2 0 ≠ bits v 2 0 ∨ bits old 9 8 ≠ bits v 9 8 then
    let c := if (srcOf c s).st = 2 then withdraw c s else c
    let c := becomeIdle (updSrc c s (fun r => { r with count := 0, input := srcLevel c s })) s
    if isLevelSense (srcSense c s) ∧ srcActive c s then becomePending c s else c
  else if (srcOf c s).st = 2 ∧ !stillFits c s then withdraw c s
  else c

/-- A write of EDG.RAISE (R568). -/
def edgRaise (c : Chip) (w : Word) : Chip :=
  let s := bits w 9 0
  if srcValid s ∧ 3 ≤ srcSense c s then srcEdge c s else regOr c 0x60007004 1

/-- A write of EDG.CTL (R573). -/
def edgCtl (c : Chip) (w : Word) : Chip :=
  let c := regPut c 0x60007000 (wd (bits w 0 0))
  if bit w 0 then c else withdrawEvery c

/-- A read of EDG.HPOP (R583). -/
def hpop (c : Chip) : Chip × Word :=
  match c.hostList with
  | [] => (c, 0)
  | d :: t => ({ c with hostList := t }, wd (d.src + 65536 * d.prio + 16777216 * d.vector))

/-- EDG.SRCSTAT of a source (R587). -/
def srcStat (c : Chip) (s : Nat) : Word :=
  if !srcValid s then 0 else
  let r := srcOf c s
  wd (r.st + 4 * b1 (srcLevel c s) + 8 * b1 r.sat + 256 * r.count + 65536 * (if 2 ≤ r.st then r.holder else 0))

/-- EDG.ACTSUM (R587). -/
def actSum (c : Chip) : Word :=
  wd (((List.range 32).filter (fun g => c.srcs.any (fun x => decide (x.1 / 32 = g) && decide (x.2.st ≠ 0)))).foldl
    (fun n g => n + 2 ^ g) 0)

end Sys2Proof.Machine
end

