-- ==== Sys2Proof/Machine/LinkQ.lean ====
section
/-! DEFINITION. Link queues (R299, R311, R312, R317, R318, R340, R484): banks closed, handed to their port and taken as
frames. -/

namespace Sys2Proof.Machine

open Sys2Proof

/-- The link of a port. -/
def linkOf (c : Chip) (p : Nat) : Link := Tbl.get {} c.links p

/-- Changes the link of a port. -/
def updLink (c : Chip) (p : Nat) (f : Link → Link) : Chip := { c with links := Tbl.put {} c.links p (f (linkOf c p)) }

/-- A stream of a port. -/
def streamOf (c : Chip) (p k : Nat) : Stream := Tbl.get {} (linkOf c p).streams k

/-- Changes a stream. -/
def updStream (c : Chip) (p k : Nat) (f : Stream → Stream) : Chip :=
  updLink c p (fun l => { l with streams := Tbl.put {} l.streams k (f (streamOf c p k)) })

/-- The stream of a link queue at its port. -/
def streamNo (c : Chip) (p s : Nat) : Option Nat :=
  ((linkOf c p).streams.find? (fun e => decide (e.2.chan = some s))).map Prod.fst

/-- Is a port in LINK? -/
def inLink (c : Chip) (p : Nat) : Bool := decide ((portOf c p).mode = 1)

/-- A note of a lane is complete: every byte it writes is visible (R333). -/
def noteDone (c : Chip) (lane job : Nat) : Chip :=
  let l : Lane := Tbl.get {} c.tab.lanes lane
  let l : Lane := { l with fl := l.fl.map (fun j => if j.no = job then { j with st := 2 } else j) }
  { c with tab := { c.tab with lanes := Tbl.put {} c.tab.lanes lane l } }

/-- Words of a link queue that lie in banks closed and not yet taken. -/
def closedWords (st : Stream) : Nat := st.banks.foldl (fun n b => n + b.len) 0

/-- Words in the oldest bank not yet closed, at most the bank's size. -/
def openBank (h : Chan) (st : Stream) : Nat := Nat.min (2 ^ h.k) (h.lq.length - closedWords st)

/-- Pops `n` words for a frame. -/
def popWords (c : Chip) (s : Nat) : Nat → Chip × List QWord
  | 0 => (c, [])
  | n + 1 =>
    let (c, w, p) := chPopRaw c s
    let (c, l) := popWords c s n
    (c, ⟨w, p⟩ :: l)

/-- A pending GAP record is delivered to the port before the next bank's words: it leads the frame (R319). -/
def takeGap (c : Chip) (s : Nat) : Chip × List QWord :=
  if (chanOf c s).gapPend ∧ (chanOf c s).rem = 0 then chTakeN c s 1 else (c, [])

/-- Releases the oldest frame of a scheduled stream: its words are added to LOST; a note that waits for a frame never
sent is complete (R318, R484). -/
def releaseFrame (c : Chip) (p k s : Nat) : Chip :=
  match (streamOf c p k).frames with
  | [] => c
  | f :: rest =>
    let c := updStream c p k (fun st => { st with frames := rest })
    let c := updChan c s (fun h => { h with lost := sat (h.lost + f.words.length) 0xFFFFFFFF })
    let c := regOr c (fpReg p 0x14) 0x200
    if f.lane < 4 ∧ f.sent = false then noteDone c f.lane f.job else c

/-- The transmitter takes the oldest closed bank as a frame: on a stream channel while fewer than four frames stand
unacknowledged; on a scheduled one the oldest frame makes room (R317, R318, R484). -/
def takeBank (c : Chip) (p k s : Nat) : Chip :=
  match (streamOf c p k).banks with
  | [] => c
  | b :: rest =>
    let full := 4 ≤ (streamOf c p k).frames.length
    if full ∧ (chanOf c s).kind ≠ 0 then c
    else
      let c := if full then releaseFrame c p k s else c
      let c := updStream c p k (fun st => { st with banks := rest })
      let (c, g) := takeGap c s
      let (c, l) := popWords c s b.len
      let l := g ++ l
      updStream c p k (fun st =>
        let no := match b.slot with | some x => x | none => st.lastSlot
        { st with frames := st.frames ++ [⟨st.next, l, b.slot, no, b.ord, b.lane, b.job, b.start, b.late, false, false, 0, false⟩],
                  next := (st.next + 1) % 256, lastSlot := no })

/-- Takes every bank that can be taken; `n` is fuel. -/
def takeBanks (c : Chip) (p k s : Nat) : Nat → Chip
  | 0 => c
  | n + 1 =>
    if (streamOf c p k).banks.isEmpty then c
    else if 4 ≤ (streamOf c p k).frames.length ∧ (chanOf c s).kind ≠ 0 then c
    else takeBanks (takeBank c p k s) p k s n

/-- When a bank's frame is due: the start of its slot in the link cycle in progress, and whether that slot has begun or does
not exist (R479). A bank without a slot is due at once. -/
def slotStart (c : Chip) (p : Nat) (slot : Option Nat) : Nat × Bool :=
  match slot with
  | none => (c.tb, false)
  | some s =>
    let l := linkOf c p
    match l.cycle with
    | none => (c.tb, true)
    | some cy =>
      let off := s * regFld c (fpReg p 0x08) 11 0 * 40
      if l.cycLen ≤ off then (c.tb, true) else (cy + off, decide (cy + off < c.tb))

/-- Closes the bank that a link queue is filling and hands it to the port; a bank without a word sends nothing. Answers
whether a frame was formed or waits. -/
def closeBank (c : Chip) (p s : Nat) (slot : Option Nat) (lane job : Nat) : Chip × Bool :=
  match streamNo c p s with
  | none => (c, false)
  | some k =>
    let n := openBank (chanOf c s) (streamOf c p k)
    if n = 0 then (c, false)
    else
      let ord := (linkOf c p).ord
      let c := updLink c p (fun l => { l with ord := l.ord + 1 })
      let (start, late) := slotStart c p slot
      let c := updStream c p k (fun st => { st with banks := st.banks ++ [⟨n, slot, ord, lane, job, c.tb, start, late⟩] })
      (takeBanks c p k s 3, true)

end Sys2Proof.Machine
end

