-- ==== Sys2Proof/Machine/Device.lean ====
section
/-! DEFINITION. The device as a whole: writes to host memory, replies and completions, changes of the device state, the
end of an arming and of the tablature engine's run, safe states and tuner faults, and fatal errors (R229 to R231, R361,
R362, R368, R436, R497, R502 to R504, R518, R519, R525 to R530, R536 to R539, R651 to R655). -/

namespace Sys2Proof.Machine

open Sys2Proof

/-! ### Writes to host memory (R492, R497) -/

/-- Can the PCI Express function write: link up, Bus Master Enable, D0 (R495, R499)? -/
def canWriteHost (c : Chip) : Bool :=
  let st := regVal c 0x60003000
  bit st 0 && bit st 6 && !bit st 7

/-- The maximum payload of a TLP, 128 or 256 bytes as the host sets. -/
def maxPayload (c : Chip) : Nat := if c.pcie.mps256 then 256 else 128

/-- Posted write TLPs of at most the maximum payload, none crossing a 4 KiB boundary; a TLP that carries a poisoned
word is sent with EP set (R497). `n` is fuel for the number of TLPs. -/
def hostWrite (c : Chip) (a : Nat) (l : List QWord) : Nat → Chip
  | 0 => c
  | n + 1 =>
    if l.isEmpty then c
    else
      let size := Nat.min (maxPayload c) (4096 - a % 4096)
      let k := Nat.max 1 (size / 4)
      let now := l.take k
      let ep := now.any (fun q => q.p)
      let c := emit c (.tlp a (bytesOf (now.map (fun q => q.w))) ep)
      let c := if ep then regOr c 0x60003004 8 else c
      hostWrite c (a + 4 * k) (l.drop k) n

/-- Writes bytes, a multiple of four, to host memory. -/
def hostWriteBytes (c : Chip) (a : Nat) (b : List Byte) : Chip :=
  let l := (wordsOf b).map (fun w => (⟨w, false⟩ : QWord))
  hostWrite c a l l.length

/-! ### Replies and completions (R518 to R520) -/

/-- Status codes (R520). -/
def stOK : Nat := 0x00
/-- Begun; a completion follows. -/
def stACCEPTED : Nat := 0x01
/-- Opcode not defined. -/
def stOPCODE : Nat := 0x10
/-- Reserved value or parameter out of range. -/
def stPARAM : Nat := 0x11
/-- Payload length outside what the command takes. -/
def stLENGTH : Nat := 0x12
/-- Not legal in the present state. -/
def stSTATE : Nat := 0x13
/-- Stale or malformed handle. -/
def stHANDLE : Nat := 0x14
/-- Resource taken, or a controller refused. -/
def stBUSY : Nat := 0x15
/-- No free slot, stream, place or key. -/
def stNORESOURCE : Nat := 0x16
/-- Target in a domain that is off or in retention. -/
def stDOMAINOFF : Nat := 0x17
/-- Not permitted on this queue, or a stale counter. -/
def stAUTH : Nat := 0x18
/-- Uncorrectable error, failed verification, fatal error. -/
def stFAULT : Nat := 0x20
/-- Not ended within its bound. -/
def stTIMEOUT : Nat := 0x21

/-- A command queue's record. -/
def queueOf (c : Chip) (q : Nat) : Queue := Tbl.get {} c.queues q

/-- Changes one queue. -/
def updQueue (c : Chip) (q : Nat) (f : Queue → Queue) : Chip :=
  { c with queues := Tbl.put {} c.queues q (f (queueOf c q)) }

/-- An Ethernet key's record. -/
def keyOf (c : Chip) (k : Nat) : Key := Tbl.get {} c.keys k

/-- Changes one key. -/
def updKey (c : Chip) (k : Nat) (f : Key → Key) : Chip := { c with keys := Tbl.put {} c.keys k (f (keyOf c k)) }

/-- Where the reply of a packet goes. -/
def replyTo (p : Packet) : ReplyTo := ⟨p.queue, p.seq, p.opcode, p.handle, p.raddr, p.key, p.ret⟩

/-- Word 0 of a reply or completion. -/
def replyWord0 (r : ReplyTo) (comp : Bool) (status : Nat) : Word :=
  wd (status % 256 + 256 * (r.opcode % 128) + 32768 * b1 comp + 65536 * (r.seq % 65536))

/-- A number's `n` low bytes, lowest first. -/
def leBytes : Nat → Nat → List Byte
  | 0, _ => []
  | n + 1, v => BitVec.ofNat 8 v :: leBytes n (v / 256)

/-- Sends a datagram of an Ethernet queue: the packet and its trailer under the key, with the device's own counter
(R502, R503). -/
def sendDatagram (c : Chip) (r : ReplyTo) (pkt : List Byte) : Chip :=
  let k := keyOf c r.key
  let body := pkt ++ leBytes 2 r.key ++ leBytes 2 0 ++ leBytes 8 k.dev
  let c := updKey c r.key (fun k => { k with dev := k.dev + 1 })
  emit c (.datagram (r.queue - 4) r.ret (body ++ Config.hmac k.key body))

/-- Keeps a reply of an accepted sequence number, or adds its completion (R504, R535): the last 16. -/
def keepReply (c : Chip) (r : ReplyTo) (comp : Bool) (pkt : List Byte) : Chip :=
  updQueue c r.queue (fun q =>
    if comp then { q with kept := q.kept.map (fun e => if e.seq = r.seq then { e with comp := pkt } else e) }
    else
      let l := q.kept ++ [⟨r.seq, pkt, []⟩]
      { q with kept := l.drop (l.length - 16) })

/-- Posts a reply or completion on its queue (R518, R525, R527, R530, R534). A reply or completion that falls due while
the function cannot write is discarded. `keep` is whether the sequence number was accepted. -/
def post (c : Chip) (r : ReplyTo) (comp : Bool) (status : Nat) (detail : Word) (payload : List Byte)
    (handle : Nat) (keep : Bool) : Chip :=
  let q := queueOf c r.queue
  let w0 := replyWord0 r comp status
  let hdr := bytesOf [w0, wd (handle % 65536 + 65536 * payload.length), detail, wd (b1 q.wake + 2 * b1 q.wakeFail)]
  if r.queue < 4 then
    if !canWriteHost c then c
    else
      let c := updQueue c r.queue (fun q => { q with wake := false, wakeFail := false })
      let c :=
        if r.raddr = 0 then c
        else hostWriteBytes (hostWriteBytes c (r.raddr + 32) payload) (r.raddr + 16 * b1 comp) hdr
      updQueue c r.queue (fun q => { q with replies := q.replies ++ [w0] })
  else
    let c := updQueue c r.queue (fun q => { q with wake := false, wakeFail := false })
    let c := if keep then keepReply c r comp (hdr ++ payload) else c
    sendDatagram c r (hdr ++ payload)

/-- A reply without payload, the command's handle in it. -/
def reply (c : Chip) (r : ReplyTo) (status : Nat) (detail : Word) : Chip := post c r false status detail [] r.handle true

/-- The reply OK with a payload. -/
def replyData (c : Chip) (r : ReplyTo) (payload : List Byte) : Chip := post c r false stOK 0 payload r.handle true

/-- The reply ACCEPTED: a completion is owed (R519, R529). -/
def accept (c : Chip) (r : ReplyTo) : Chip := { (reply c r stACCEPTED 0) with accepted := c.accepted ++ [r] }

/-- The completion of a command answered ACCEPTED; one already completed receives no second one (R519). -/
def complete (c : Chip) (r : ReplyTo) (status : Nat) (detail : Word) : Chip :=
  if r ∈ c.accepted then
    { (post c r true status detail [] r.handle true) with accepted := c.accepted.erase r }
  else c

/-! ### Device states (R536, R537) -/

/-- The code of a device state. -/
def devCode : DevState → Nat
  | .boot => 0 | .standby => 1 | .configured => 2 | .armed => 3 | .running => 4 | .changeover => 5
  | .halted => 6 | .faulted => 7 | .detaching => 8 | .watch => 9 | .hibernate => 10

/-- A change of the device state: GLB.STATE with PREV and CAUSE, TCHG, the pulse of source 597 (R532, R543, R693), the
count of entries into HALTED, and FSTAT.CAUSE on leaving FAULTED (R656, R670). -/
def setDev (c : Chip) (new : DevState) (cause : Nat) : Chip :=
  let old := c.dev
  if new = old then c
  else
    let c := { c with dev := new }
    let c := regPut c 0x60000000 (wd (devCode new + 256 * devCode old + 65536 * (cause % 256)))
    let c := regPut (regPut c 0x60000034 (wd c.tb)) 0x60000038 (wd (c.tb / 2 ^ 32))
    let c := if new = .halted then regCount c 0x60008038 31 0 1 else c
    let c := if old = .faulted then regSetFld c 0x60008014 7 0 0 else c
    if c.sys.per then pulse c 597 else c

/-- Does Gorene run: the luthier is powered, has booted and has not failed (R655, R683)? -/
def gorene (c : Chip) : Bool :=
  c.lut && decide (c.dev ≠ .boot) && !(courseOf c luthierCourse).safe

/-- Is any state in which a host command can be legal (R536)? -/
def hostStates (c : Chip) : Bool := decide (c.dev ≠ .boot) && decide (c.dev ≠ .watch) && decide (c.dev ≠ .hibernate)

/-! ### The tablature engine stopped (R361, R362, R368) -/

/-- The state of a bank. -/
def bankState (c : Chip) (b : Nat) : Nat := if b = 0 then c.tab.stA else c.tab.stB

/-- Sets the state of a bank. -/
def setBank (c : Chip) (b n : Nat) : Chip :=
  if b = 0 then { c with tab := { c.tab with stA := n } } else { c with tab := { c.tab with stB := n } }

/-- An engine's record. -/
def camOf (c : Chip) (k : Nat) : Cam := Tbl.get {} c.cams k

/-- Changes one engine. -/
def updCam (c : Chip) (k : Nat) (f : Cam → Cam) : Chip := { c with cams := Tbl.put {} c.cams k (f (camOf c k)) }

/-- Empties the shadow set of an engine and ends its staging copy (R417). -/
def dropShadow (m : Cam) : Cam :=
  if m.aset1 then { m with set0 := [], staging := false } else { m with set1 := [], staging := false }

/-- Empties the shadow sets of the engines of a mask. -/
def dropShadows (c : Chip) (mask : Nat) : Chip :=
  ((List.range 32).filter mask.testBit).foldl (fun c k => updCam c k dropShadow) c

/-- An arming ends without taking place: the bank returns to VERIFIED, its staged tables are discarded, and TAB_ARM
completes with STATE and the detail (R361, R362). -/
def endArm (c : Chip) (detail : Nat) : Chip :=
  match c.tab.arm with
  | none => c
  | some a =>
    let c := dropShadows (setBank c a.bank 3) a.mask
    let c := regOr { c with tab := { c.tab with arm := none } } 0x60005038 0x20
    complete c a.reply stSTATE (wd detail)

/-- The drain of an ordered detach begins: the partly filled bank of every link queue is closed (R71 steps 2 and 3). -/
def drainStart (c : Chip) (d : Detach) : Chip :=
  let l := (c.chans.filter (fun (e : Nat × Chan) => e.2.opened && isLinkQ e.2)).map Prod.fst
  let c := l.foldl (fun c s => (closeBank c (partyNo (chanOf c s).cons) s none 9 0).1) c
  { c with sys := { c.sys with detach := some { d with stop := none, reached := false, drain := true } } }

/-- The engine stops: notes due and not issued are never issued and are counted in SKIPCNT, and the frame in hand is not
gone on with (R368). -/
def tabStop (c : Chip) : Chip :=
  let n := c.tab.dueP.length + c.tab.dueT.length
  let c := { c with tab := { c.tab with dueP := [], dueT := [], frame := none, stopped := true } }
  let c := regCount c 0x6000505C 31 0 n
  match c.sys.detach with
  | some d => if d.stop.isSome then drainStart c d else c
  | none => c

/-- Entry into HALTED with a cause (R362, R368, R537, R539). In a state that does not lead to HALTED the engine stops and
the device state stays. -/
def enterHalted (c : Chip) (cause : Nat) : Chip :=
  let c := tabStop c
  if c.dev = .armed ∨ c.dev = .running ∨ c.dev = .changeover then setDev (endArm c 3) .halted cause else c

/-! ### Ports held (R435, R436, R653) -/

/-- A port's link goes down (R487): no frame is sent, the frames not acknowledged are kept, and a LINK_NODE in progress
completes with STATE (R554). -/
def linkDown (c : Chip) (p : Nat) : Chip :=
  let l : Link := Tbl.get {} c.links p
  let st := l.streams.map (fun e => (e.1, { e.2 with retries := 0 }))
  let c1 := { c with links := Tbl.put {} c.links p { l with lstate := 0, up := 0, echo := 0, syncDue := false, mgmt := [], streams := st } }
  let c1 := (l.mgmt.filterMap (fun m => m.reply)).foldl (fun c r => complete c r stSTATE 0) c1
  if l.lstate = 0 then c1 else regOr c1 (fpReg p 0x14) 0x400

/-- The pairs of a port stop driving. In STEP the move ends: the target is set to POS, TOGO reads 0 and BUSY is cleared
(R453). In LINK the link goes down (R487). -/
def drivesOff (c : Chip) (p : Nat) : Chip :=
  if (portOf c p).mode = 4 ∧ (portOf c p).moving then
    let c := updPort c p (fun r => { r with moving := false })
    let c := regPut (regPut c (fpReg p 0x28) (regVal c (fpReg p 0x18))) (fpReg p 0x1C) 0
    regClr c (fpReg p 0x24) 1
  else if (portOf c p).mode = 1 then linkDown c p
  else c

/-- A port is floated by a course's safe state or tuner fault (R436). -/
def safeHold (c : Chip) (course p : Nat) : Chip :=
  regOr (updPort (drivesOff c p) p (fun r => { r with safeh := true, safec := course })) (fpReg p 0x14) 0x800

/-- Floats the ports named by the enabled fields of CO.SAFE (R229, R247). -/
def safePorts (c : Chip) (n : Nat) : Chip :=
  let w := (courseOf c n).safeReg
  let c := if bit w 7 then safeHold c n (bits w 6 0) else c
  if bit w 15 then safeHold c n (bits w 14 8) else c

/-- A fatal error or a detach's end clears DRVEN of a port and sets EVSTAT.HELD (R653). -/
def dropDrive (c : Chip) (p : Nat) : Chip := regOr (regClr (drivesOff c p) (fpReg p 0x00) 0x200) (fpReg p 0x14) 0x800

/-- Every field port at high impedance (R653). -/
def dropAllDrives (c : Chip) : Chip := (List.range 128).foldl dropDrive c

/-! ### Held outputs (R211, R225, R231, R653) -/

/-- Returns the channel place that a pair holds reserved, and on a stream channel its credit (R211, R308). -/
def returnPlace (c : Chip) (p : Pair) : Chip :=
  if p.a.place then
    match slotOfHandle c p.a.addr with
    | some s => updChan c s (fun h =>
        { h with reserved := h.reserved - 1, credit := if h.kind = 1 then h.credit + 1 else h.credit })
    | none => c
  else c

/-- Discards every entry of a course not yet performed; the channel reservations are returned. -/
def discardPairs (c : Chip) (n : Nat) : Chip :=
  let r := courseOf c n
  updCourse (r.pairs.foldl returnPlace c) n (fun r => { r with pairs := [], bHalves := [], ckptAt := none })

/-- Stops both strings of a course at once and discards what they hold, without a checkpoint. -/
def stopCourse (c : Chip) (n : Nat) : Chip :=
  discardPairs (haltCore (haltCore c (2 * n)) (2 * n + 1)) n

/-! ### Fatal errors (R651 to R655) -/

/-- A course is halted by a fatal error (R653 step 4): its held outputs are discarded and their number kept for the dump,
and a hand-over in progress ends with its command. -/
def fatalHalt (c : Chip) (n : Nat) : Chip :=
  let held := ((courseOf c n).pairs.filter (fun p => p.compared)).length
  updCourse (stopCourse c n) n (fun r =>
    { r with discarded := held, locked := false,
             mode := (match r.hand with | some h => if h.toUnison then 0 else 1 | none => r.mode), hand := none })

/-- The courses 0 to 255 that differ from a course at rest. -/
def liveCourses (c : Chip) : List Nat :=
  (((c.cores.map Prod.fst).map (fun k => k / 2) ++ c.courses.map Prod.fst).filter (fun n => decide (n < 256))).eraseDups

/-- Steps 2 to 4 of R653: the engine stops, every driver floats, every course halts. -/
def fatalStop (c : Chip) : Chip :=
  let c := dropAllDrives (tabStop (endArm c 3))
  (liveCourses c).foldl fatalHalt c

/-- Every command answered ACCEPTED ends with FAULT, DETACH apart (R539). -/
def failAccepted (c : Chip) : Chip :=
  let c := (c.accepted.filter (fun r => decide (r.opcode ≠ 0x08))).foldl (fun c r => complete c r stFAULT 0) c
  { c with sys := { c.sys with power := none, halts := [] } }

/-- Records a fatal error in the RET block (R653 step 1, R670). -/
def fatalRecord (c : Chip) (cause : Nat) (detail : Word) : Chip :=
  let c := regPut c 0x60008014 (wd (cause + 256 * cause))
  let c := regPut c 0x60008018 detail
  let c := regPut (regPut c 0x6000801C (wd c.tb)) 0x60008020 (wd (c.tb / 2 ^ 32))
  regCount c 0x60008024 15 0 1

/-- Is a fatal error being handled: the device in FAULTED, or a dump being written or copied (R653, R654)? -/
def faultHandled (c : Chip) : Bool := decide (c.dev = .faulted) || decide (regFld c 0x60008004 2 1 ≠ 0)

/-- A fatal error (R652 to R654). One that arises while another is handled is counted in FCNT.SECOND. -/
def fatal (c : Chip) (cause : Nat) (detail : Word) : Chip :=
  if !hostStates c then c
  else if faultHandled c then
    { (regCount c 0x60008024 31 16 1) with sys := { c.sys with second := true } }
  else
    let c := { c with sys := { c.sys with dumpState := devCode c.dev, second := false, dumpDue := true } }
    let c := setDev (fatalRecord c cause detail) .faulted cause
    let c := { c with sys := { c.sys with detach := c.sys.detach.map (fun d => { d with stop := none, reached := false, drain := false, fault := true }) } }
    let c := failAccepted (fatalStop c)
    regOr (regClr c 0x60008004 9) 0x60008004 2

/-- A hand-over in progress ends with FAULT: the course stays in the mode it had (R235, R236). -/
def endHand (c : Chip) (n : Nat) : Chip :=
  match (courseOf c n).hand with
  | none => c
  | some h => complete (updCourse c n (fun r => { r with hand := none, locked := false, mode := if h.toUnison then 0 else 1 })) h.reply stFAULT 0

/-- A luthier failure (R655): steps 2 to 4 of R653 by the tuner's hardware, LSTAT.SAFE, the PCI Express transmitters at
high impedance; no dump is written, no command is answered, and the luthier's work in hand ends. A detach's drain ends (R74). -/
def luthierFail (c : Chip) : Chip :=
  let r := courseOf c luthierCourse
  let c := updCourse (stopCourse c luthierCourse) luthierCourse (fun r => { r with safe := true, check := 0 })
  let c := regOr c 0x60008028 8
  let c := { c with accepted := [], cur := none, sys := { c.sys with power := none, halts := [], flash := none, flashWait := [],
                                                                     dumpDue := false, removal := none } }
  if !hostStates c then c
  else if c.dev = .faulted then regClr (regCount c 0x60008024 31 16 1) 0x60003000 1
  else
    let c := setDev (fatalRecord c 5 (wd (r.mcause + 16 * r.verdict))) .faulted 5
    let c := { c with sys := { c.sys with detach := c.sys.detach.map (fun d =>
      { d with stop := none, reached := false, drain := false, halting := false, fault := true }) } }
    regClr (fatalStop c) 0x60003000 1

/-- A course's safe state (R229): both strings halted, no entry leaves, the named ports float; fatal with SAFEESC 1
(R651). -/
def enterSafe (c : Chip) (n : Nat) : Chip :=
  if n = luthierCourse then luthierFail c
  else
    let c := updCourse (endHand (stopCourse c n) n) n (fun r => { r with safe := true, check := 0, replaying := false })
    let c := safePorts c n
    if bit (regVal c 0x60008010) 0 then fatal c 7 (wd n) else c

/-- A tuner fault with its cause (R230, R231): every entry discarded, the safe-state actions, TFLT, TFCNT, the tuner's
source; fatal with SAFEESC 1. `verdict` is 4 where the self-test of R225 found it, else 0. -/
def tunerFault (c : Chip) (n mcause verdict : Nat) : Chip :=
  let c := updCourse c n (fun r =>
    { r with tflt := true, mcause := mcause, verdict := verdict, entry := 0, tfcnt := sat (r.tfcnt + 1) 255 })
  let c := if n = luthierCourse then regCount c 0x60008028 23 16 1 else pulse c (705 + n)
  enterSafe c n

end Sys2Proof.Machine
end

