-- ==== Sys2Proof/Machine/Fetch.lean ====
section
/-! DEFINITION. The stages every instruction word passes (R83 to R120, R154, R205 to R219): fetch through the line
buffers, fills and spills, forwarding, the compare buffer, the read log, and the order in which the two strings of a
course in unison execute. -/

namespace Sys2Proof.Machine

open Sys2Proof

/-! ### Mismatches (R224, R225, R227) -/

/-- Is a flight that of an engine operation held in the compare buffer (R419)? -/
def heldOp (r : Course) (f : Flight) : Bool :=
  (decide (f.op = 0x70) || decide (f.op = 0x75) || decide (f.op = 0x76)) &&
    (r.pairs.any (fun p => decide (p.a.kind = 3) && decide (p.a.slot = f.slot)) ||
      r.bHalves.any (fun e => decide (e.kind = 3) && decide (e.slot = f.slot)))

/-- A mismatch: both strings stop, presented sources are withdrawn (R578), every entry not yet performed is discarded, and
LBIST begins (R225 steps 1 and 2). The results that read requests of string A still bring land; those of string B and of discarded engine operations do not. A
hand-over to split ends with FAULT (R235, R236). -/
def mismatch (c : Chip) (n mcause entry : Nat) : Chip :=
  let c := withdrawAll c (if n = luthierCourse then 512 else 2 * n)
  let c := updCore c (2 * n) (fun r => { r with flights := r.flights.filter (fun f => !heldOp (courseOf c n) f) })
  let c := discardPairs (withdrawWait (withdrawWait c (2 * n)) (2 * n + 1)) n
  let c := updCore c (2 * n + 1) (fun r => { r with flights := [], bus := [] })
  let c := updCourse c n (fun r =>
    { r with check := 1, mcause := mcause, entry := if mcause = 1 then entry else 0, verdict := 0 })
  endHand c n

/-- A failed replay (R227): a mismatch with cause REPLAY that leads straight to the safe state; the entries not consumed
stay in the read log. -/
def replayFail (c : Chip) (n : Nat) : Chip :=
  let c := updCourse c n (fun r =>
    { r with replay := true, mism := true, mcause := 7, verdict := 0, entry := 0, miscnt := sat (r.miscnt + 1) 255 })
  let c := if n = luthierCourse then regCount c 0x60008028 15 8 1 else pulse c (705 + n)
  enterSafe c n

/-! ### Who may execute -/

/-- The first entry of the read log that a replay still has to consume (R226). -/
def replayNext (c : Chip) (n : Nat) : Option LogEnt := (courseOf c n).log.find? (fun e => !e.aTook)

/-- The first entry that string B has still to take, among those string A has consumed. -/
def bNext (c : Chip) (n : Nat) : Option LogEnt := ((courseOf c n).log.takeWhile (fun e => e.aTook)).find? (fun e => !e.bTook)

/-- Is an entry an asynchronous one (R217)? -/
def isAsync (e : LogEnt) : Bool := decide (0x100 ≤ e.kind)

/-- The entry a string takes next: string B after string A, and the string that replays the log (R213, R217, R226). -/
def nextEnt (c : Chip) (k : Nat) : Option LogEnt :=
  if inUnison c (courseNo k) && isB k then bNext c (courseNo k) else replayNext c (courseNo k)

/-- The first asynchronous entry a string has still to take. -/
def asyncNext (c : Chip) (k : Nat) : Option LogEnt :=
  let n := courseNo k
  if inUnison c n && isB k then
    ((courseOf c n).log.takeWhile (fun e => e.aTook)).find? (fun e => !e.bTook && isAsync e)
  else (courseOf c n).log.find? (fun e => !e.aTook && isAsync e)

/-- The asynchronous entry due at a string's present word boundary, or passed by: the string executes no word before it has
taken it (R217, R226, R227). -/
def asyncNow (c : Chip) (k : Nat) : Option LogEnt := (asyncNext c k).filter (fun e => decide (e.word ≤ (coreOf c k).words))

/-- Has the string come past an asynchronous entry: its word is over, or the string stands at its boundary without having
taken what string A took before it? -/
def asyncMissed (c : Chip) (k : Nat) : Bool :=
  match asyncNow c k with
  | some e => decide (e.word < (coreOf c k).words) || decide (nextEnt c k ≠ some e)
  | none => false

/-- An asynchronous entry that cannot be taken: in string B a mismatch with cause ASYNC, in a replay a failed one (R217, R224,
R227). -/
def asyncFails (c : Chip) (k : Nat) : Chip :=
  let n := courseNo k
  if inUnison c n && isB k then mismatch c n 4 0 else replayFail c n

/-- May the string execute its next word in the order of its course? String A stops at the word of a checkpoint called;
or once it has executed 4,096 words since the last; string B trails string A (R210, R220, R221). -/
def orderRun (c : Chip) (k : Nat) : Bool :=
  let n := courseNo k
  let r := courseOf c n
  if !inUnison c n then true
  else if isB k then decide ((coreOf c k).words < (coreOf c (2 * n)).words)
  else
    decide ((coreOf c k).words < 4096) &&
      (match r.ckptAt with
        | some w => decide ((coreOf c k).words < w)
        | none => true)

/-- May the string take a precise trap of its next word: as for executing it, and string B where string A has taken one
after the same number of words. -/
def orderTrap (c : Chip) (k : Nat) : Bool :=
  let n := courseNo k
  orderRun c k ||
    (inUnison c n && isB k && decide ((coreOf c k).words = (coreOf c (2 * n)).words) &&
      decide ((coreOf c k).traps < (coreOf c (2 * n)).traps))

/-- Does a string execute at all: its domain on, started, not halted, its course neither in a check nor in its safe state
nor quiescing for a hand-over to unison (R225, R229, R234)? -/
def running (c : Chip) (k : Nat) : Bool :=
  let n := courseNo k
  let r := courseOf c n
  decide (k < 514) && courseOn c n && !(coreOf c k).halted && decide (r.check = 0) && !r.safe &&
    (match r.hand with | some h => !h.toUnison | none => true)

/-- Stands the string at a word boundary with no trap between words due before its next word (R110)? -/
def atWord (c : Chip) (k : Nat) : Bool :=
  running c k && (coreOf c k).wait.isNone && !(itrapDue c k && !(inUnison c (courseNo k) && isB k)) &&
    (asyncNow c k).isNone

/-! ### Fetch (R115 to R117) -/

/-- The eight words of a line of the course's SRAM, and whether one of its memory words is poisoned. -/
def readLine (c : Chip) (k base : Nat) : Chip × List IWord × Bool :=
  let ga := (Tgt.sram (courseNo k) base).ga
  let step (acc : Chip × List IWord × Bool) (i : Nat) : Chip × List IWord × Bool :=
    let (c, l, p) := acc
    let (c, w, q) := readWord c (ga + 4 * i) 2 k
    (c, l ++ [BitVec.ofNat 16 w.toNat, BitVec.ofNat 16 (w.toNat / 65536)], p || q)
  (List.range 4).foldl step (c, [], false)

/-- A line buffer that is used becomes the most recently used one. -/
def touchLine (c : Chip) (k : Nat) (l : Line) : Chip :=
  updCore c k (fun r => { r with lines := l :: r.lines.filter (fun x => decide (x.base ≠ l.base)) })

/-- A refill replaces the least recently used line buffer. -/
def fillLine (c : Chip) (k base : Nat) (ws : List IWord) : Chip :=
  updCore c k (fun r => { r with lines := ⟨base, ws⟩ :: r.lines.take 1 })

/-- Fetches the instruction word at an address: from a line buffer, else by refilling the least recently used one. The
third component says that the refill met a poisoned word (R256). -/
def fetchWord (c : Chip) (k a : Nat) : Chip × IWord × Bool :=
  let base := a / 16 * 16
  let i := a % 16 / 2
  match (coreOf c k).lines.find? (fun l => decide (l.base = base)) with
  | some l => (touchLine c k l, l.words.getD i 0, false)
  | none =>
    let q := readLine c k base
    (fillLine q.1 k base q.2.1, q.2.1.getD i 0, q.2.2)

/-- A fetched instruction: the word, its extension word, whether a refill met poison, and the address refused by fetch
(R115, R137). -/
structure Fetched where
  c : Chip
  w : IWord
  x : IWord
  poison : Bool
  refused : Option Nat

/-- Is an address one that instructions can be fetched from (R115)? -/
def fetchable (a : Nat) : Bool := decide (a < 0x8000) && decide (a % 2 = 0)

/-- Fetches the word at an address with its extension word, or for REP and REPI the word that is repeated (R116, R137,
R148). -/
def fetchInstr (c : Chip) (k a : Nat) : Fetched :=
  if !fetchable a then ⟨c, 0, 0, false, some a⟩
  else
    let (c, w, p) := fetchWord c k a
    let o := w.toNat / 256
    if needsExt w || o = 0x1E || o = 0x1F then
      if !fetchable (a + 2) then ⟨c, w, 0, p, some (a + 2)⟩
      else
        let (c, x, q) := fetchWord c k (a + 2)
        ⟨c, w, x, p || q, none⟩
    else ⟨c, w, 0, p, none⟩

/-! ### Stores not yet performed, and forwarding (R111 to R113, R212) -/

/-- Where a byte of a core's address map lies, so that two names of one byte compare equal (R249). -/
def locOf (k a : Nat) : Nat :=
  match target (some (courseNo k)) a with
  | .nowhere => a + 2 ^ 40
  | .rom o => o + 2 ^ 41
  | t => t.ga

/-- Is an address in the register space? -/
def inRegs (a : Nat) : Bool := decide (0x60000000 ≤ a) && decide (a < 0x61000000)

/-- The store an entry of the compare buffer holds. -/
def entryStore (e : Entry) : Option Store := if e.kind = 0 then some ⟨e.addr, e.size, e.data, e.ipc⟩ else none

/-- The stores of a string not yet performed, oldest first: its store buffer, or in unison its own halves of pairs. -/
def pendStores (c : Chip) (k : Nat) : List Store :=
  let n := courseNo k
  let r := courseOf c n
  if !inUnison c n then (coreOf c k).sbuf
  else if isB k then
    (r.pairs.filter (fun p => p.compared)).filterMap (fun p => entryStore p.a) ++ r.bHalves.filterMap entryStore
  else r.pairs.filterMap (fun p => entryStore p.a)

/-- How a load meets the stores not yet performed. -/
inductive Fwd where
  | mem
  | val (w : Word)
  | wait
  deriving DecidableEq, Repr

/-- Do two extents share a byte? -/
def overlaps (a n b m : Nat) : Bool := decide (a < b + m) && decide (b < a + n)

/-- Forwarding: the youngest overlapping store gives the bytes if it covers them, else the load waits (R112). A load in
the register space is never forwarded: it waits for stores to the same word (R113). -/
def forward (k : Nat) (st : List Store) (a size : Nat) : Fwd :=
  let l := locOf k a
  if inRegs a then
    (if st.any (fun s => decide (locOf k s.addr / 4 = l / 4)) then .wait else .mem)
  else
    match st.reverse.find? (fun s => overlaps l size (locOf k s.addr) s.size) with
    | none => .mem
    | some s =>
      let b := locOf k s.addr
      if b ≤ l ∧ l + size ≤ b + s.size then .val (wd (bits s.data (8 * (l - b) + 8 * size - 1) (8 * (l - b)))) else .wait

/-- How a local load or fill ends: with its value, with a wait (in unison a checkpoint may have been called), or at a
poisoned word. -/
inductive LoadRes where
  | got (c : Chip) (w : Word)
  | hold (c : Chip)
  | poison (c : Chip)

/-- Is a pair an output (R207)? -/
def isOutput (c : Chip) (n : Nat) (e : Entry) : Bool := rbkOf c n || !e.priv

/-- Does a load of `size` bytes at `a` meet a store: a shared byte, in the register space the same word (R112, R113)? -/
def meets (k a size : Nat) (s : Store) : Bool :=
  if inRegs a then decide (locOf k s.addr / 4 = locOf k a / 4) else overlaps (locOf k a) size (locOf k s.addr) s.size

/-- A load waits. One of string A that waits for a held output of its course calls a checkpoint at itself (R212). -/
def holdLoad (c : Chip) (k a size : Nat) : Chip :=
  let n := courseNo k
  let out (p : Pair) : Bool := isOutput c n p.a && ((entryStore p.a).any (fun s => meets k a size s))
  if inUnison c n && !isB k && (courseOf c n).pairs.any out then callCkpt c n else c

/-- Is a request an unperformed access to the string's own SRAM? -/
def ownReq (k : Nat) (q : BusReq) : Bool := !q.done && ownSram k q.addr

/-- Has the string a TAS or SC to its own SRAM that is not yet performed? Its later accesses there come after it (R186,
R199). -/
def ownAtomic (c : Chip) (k : Nat) : Bool :=
  (coreOf c k).bus.any (fun q => ownReq k q && (decide (q.kind = 2) || decide (q.kind = 4)))

/-- A local load of raw bytes from the course's own SRAM (R83, R112, R256). -/
def loadLocal (c : Chip) (k : Nat) (st : List Store) (a size : Nat) : LoadRes :=
  match forward k st a size with
  | .val w => .got c w
  | .wait => .hold (holdLoad c k a size)
  | .mem =>
    if ownAtomic c k then .hold c else
    let (c, w, p) := readWord c (Tgt.sram (courseNo k) a).ga 1 k
    if p then .poison (poisonHalt c (courseNo k)) else .got c (loadFrom w (a % 4) size false)

/-! ### The operand stack (R88 to R95) -/

/-- SPTR as a byte address. -/
def sptrOf (c : Chip) (k : Nat) : Nat := (csrVal c k 0x0A).toNat

/-- The stack test of R89 for a number of fills and of spills: the cause of the trap. -/
def stackTest (c : Chip) (k fills spills : Nat) : Option Nat :=
  let sp : Int := (csrVal c k 0x0A).toNat
  let sb : Int := (csrVal c k 0x08).toNat
  let sl : Int := (csrVal c k 0x09).toNat
  if sp - sb < 4 * (fills : Int) then some 0x03
  else if sl - sp < 4 * (spills : Int) then some 0x04
  else none

/-- The place of the stack's memory beneath an address. -/
def beneath (sp : Nat) : Nat := if 4 ≤ sp then sp - 4 else sp + 0xFFFC

/-- The fills of a word, shallowest first (R88): values read below SPTR; `n` counts them. -/
def readFills (c : Chip) (k : Nat) (st : List Store) : Nat → Nat → List Word → LoadRes × List Word
  | 0, _, l => (.got c 0, l)
  | n + 1, sp, l =>
    match loadLocal c k st (beneath sp) 4 with
    | .got c w => readFills c k st n (beneath sp) (l ++ [w])
    | r => (r, l)

/-- The return stack test of an operation (R98): a push at depth 16 or a pop at depth 0 in trap mode. -/
def rsTest (c : Chip) (k : Nat) (op : CoreOp) : Option Nat :=
  let d := (coreOf c k).rsDepth
  if !bit (csrVal c k 0x0B) 0 then none
  else match op with
    | .call _ | .calli | .tor => if 16 ≤ d then some 0x05 else none
    | .ret | .fromr | .rget | .rdrop => if d = 0 then some 0x06 else none
    | _ => none

/-! ### Room for stores -/

/-- Has the string a store on the fabric that is not yet performed? -/
def storeOut (c : Chip) (k : Nat) : Bool := (coreOf c k).bus.any (fun q => decide (q.kind = 1) && !q.done && decide (q.slot < 4))

/-- Entries that SEND, COMPLETE and an engine operation make beside stores: in unison one in the compare buffer; a degraded
course performs them in program order with its stores (R205, R228). -/
def entries (c : Chip) (k : Nat) : Nat := b1 (inUnison c (courseNo k) || (courseOf c (courseNo k)).degraded)

/-- Is there room for the stores of a word: the store buffer, or for string A in unison the compare buffer (R111,
R210)? A degraded course performs each entry at once, behind the ones before it (R228). -/
def storeRoom (c : Chip) (k n : Nat) : Bool :=
  let r := courseOf c (courseNo k)
  if r.degraded then decide (n = 0) || !(storeOut c k || ownAtomic c k)
  else if !inUnison c (courseNo k) then decide (n = 0) || decide ((coreOf c k).sbuf.length + n ≤ 4)
  else isB k || decide (r.pairs.length + n ≤ 64)

/-- A string without room waits; in unison a buffer full of compared outputs calls a checkpoint (R210). -/
def roomWait (c : Chip) (k : Nat) : Chip :=
  let n := courseNo k
  if inUnison c n && !isB k && (courseOf c n).pairs.all (fun p => p.compared) then callCkpt c n else c

/-! ### The compare buffer (R205 to R210) -/

/-- The data of an entry as compared: the bytes the store writes. -/
def entryData (size : Nat) (w : Word) : Word := if 4 ≤ size then w else wd (w.toNat % 2 ^ (8 * size))

/-- Are two halves of a pair equal: kind, address or handle, size, data (R206)? -/
def halvesEqual (a b : Entry) : Bool :=
  decide (a.kind = b.kind) && decide (a.addr = b.addr) && decide (a.size = b.size) && decide (a.data = b.data) &&
    decide (a.data2 = b.data2) && decide (a.sel = b.sel) && decide (a.slot = b.slot)

/-- Gives the flight of a read request its result, formed from the flight. Answered flights stand before those still open, in
the order in which they were answered (R262). -/
def fillFlight (c : Chip) (k slot : Nat) (g : Flight → Word) (trap : Nat) : Chip :=
  let hit (f : Flight) : Bool := decide (f.slot = slot) && !f.ready && decide (f.op < 0x70)
  updCore c k (fun r =>
    { r with flights := r.flights.filter (fun f => f.ready) ++
        (r.flights.filter hit).map (fun f => { f with ready := true, lo := g f, trap := trap }) ++
        r.flights.filter (fun f => !f.ready && !hit f) })

/-- The loaded bytes of a word as a flight lands them. -/
def landBytes (a : Nat) (w : Word) (f : Flight) : Word := loadFrom w (a % 4) f.size f.sgn

/-- Performs the loads a string has issued to its own SRAM, in their order, before a store of its course is written there:
each was issued before that store, since a later one that meets its bytes takes them from it (R112, R199, R201, R212). None
goes past a TAS or SC. -/
def settleOwn (c : Chip) (k : Nat) : Chip :=
  let isLoad (q : BusReq) : Bool := decide (q.kind = 0) || decide (q.kind = 3)
  let own := (coreOf c k).bus.filter (ownReq k)
  let l := own.takeWhile isLoad
  let c := updCore c k (fun r => { r with bus := r.bus.filter (fun q => !decide (q ∈ l)) })
  l.foldl (fun c q =>
    let (c, w, p) := readWord c (locOf k q.addr) 3 k
    let c := if q.kind = 3 ∧ p = false then placeResv c k (target (some (courseNo k)) q.addr) q.data.toNat else c
    fillFlight c k q.slot (landBytes q.addr w) (if p then 0x14 else 0)) c

/-- A compared pair that is no output is performed at once: a store to the course's own SRAM (R207). -/
def performPriv (c : Chip) (n : Nat) (e : Entry) : Chip :=
  writeMem (settleOwn (settleOwn c (2 * n)) (2 * n + 1)) (locOf (2 * n) e.addr) e.size e.data false (some (2 * n))

/-- Compares string B's half with the oldest pair not yet compared. -/
def compareB (c : Chip) (n : Nat) (e : Entry) : Chip :=
  let r := courseOf c n
  match r.pairs.find? (fun p => !p.compared) with
  | none => updCourse c n (fun r => { r with bHalves := r.bHalves ++ [e] })
  | some p =>
    if !halvesEqual p.a e then mismatch c n 1 p.no
    else if isOutput c n p.a then
      updCourse c n (fun r =>
        { r with pairs := r.pairs.map (fun q => if q.no = p.no ∧ q.compared = false then { q with compared := true } else q) })
    else
      let c := updCourse c n (fun r => { r with pairs := r.pairs.filter (fun q => !(decide (q.no = p.no) && !q.compared)) })
      performPriv c n p.a

/-- Are the strings of a course stopped by a mismatch, a tuner fault or a safe state, so that nothing more is placed (R225,
R229, R231)? -/
def placesNone (c : Chip) (n : Nat) : Bool := decide ((courseOf c n).check ≠ 0) || (courseOf c n).safe

/-- A string places an entry (R205, R206). A half that string B placed first is compared when string A places its own. -/
def placeEntry (c : Chip) (k : Nat) (e : Entry) : Chip :=
  let n := courseNo k
  let e := { e with data := entryData e.size e.data }
  if placesNone c n then c
  else if isB k then compareB c n e
  else
    let r := courseOf c n
    let c := updCourse c n (fun r =>
      { r with pairs := r.pairs ++ [⟨e, false, r.pairNo⟩], pairNo := (r.pairNo + 1) % 64 })
    match r.bHalves with
    | [] => c
    | b :: t => compareB (updCourse c n (fun r => { r with bHalves := t })) n b

/-- A store of a string enters the fabric behind its earlier requests (R200, R201, R251). -/
def storeReq (c : Chip) (k : Nat) (s : Store) : Chip :=
  updCore c k (fun r => { r with bus := r.bus ++ [⟨1, 0, s.addr, s.size, s.data, s.ipc, false, false, 0⟩] })

/-- A store of a string to its own SRAM is written, behind the loads issued before it. -/
def ownStore (c : Chip) (k : Nat) (s : Store) : Chip := writeMem (settleOwn c k) (locOf k s.addr) s.size s.data false (some k)

/-- The oldest store of a string's buffer leaves it: it is written to the string's own SRAM, or enters the data fabric while
fewer than eight of its stores are unacknowledged (R111, R267). None where it has to wait. -/
def drainOne (c : Chip) (k : Nat) : Option Chip :=
  match (coreOf c k).sbuf with
  | [] => none
  | s :: rest =>
    let d := updCore c k (fun r => { r with sbuf := rest })
    if ownSram k s.addr then (if ownAtomic c k then none else some (ownStore d k s))
    else if 8 ≤ ((coreOf c k).bus.filter (fun q => decide (q.kind = 1) && decide (q.slot < 4))).length then none
    else some (storeReq d k s)

/-- Every store of a string's buffer leaves it; `n` is fuel for the four. -/
def drainAll (c : Chip) (k : Nat) : Nat → Option Chip
  | 0 => some c
  | n + 1 =>
    if (coreOf c k).sbuf.isEmpty then some c
    else match drainOne c k with
      | some d => drainAll d k n
      | none => none

/-- A string makes a store: into its store buffer, in unison as an entry, degraded at once (R111, R205, R228). -/
def placeStore (c : Chip) (k : Nat) (s : Store) : Chip :=
  if placesNone c (courseNo k) then c
  else if inUnison c (courseNo k) then
    placeEntry c k ⟨0, s.addr, s.size, s.data, 0, 0, 0, s.ipc, ownSram k s.addr, false⟩
  else if (courseOf c (courseNo k)).degraded then (if ownSram k s.addr then ownStore c k s else storeReq c k s)
  else updCore c k (fun r => { r with sbuf := r.sbuf ++ [s] })

/-! ### One word -/

/-- The fills of a word, read but not yet performed: the hardware stack with them, and their number. -/
structure Fills where
  stk : List Word
  n : Nat
  deriving DecidableEq, Repr

/-- What precedes the execution of a word: it does not take place; it ends here (a trap taken, a checkpoint called, a
halt at a poisoned word); or it executes, with its fills read and its operands, top first. -/
inductive Prep where
  | no
  | stop (c : Chip)
  | go (c : Chip) (f : Fills) (ops : List Word)
  deriving DecidableEq, Repr

/-- A precise trap of the word about to execute (R154, R190). -/
def preciseStop (c : Chip) (k cause : Nat) (halfB : Bool) (addr : Nat) : Prep :=
  if orderTrap c k then .stop (trapEntry c k (preciseRec c k cause halfB addr)) else .no

/-- Is an operation a REP or REPI? -/
def isRepOp : CoreOp → Bool
  | .rep _ => true
  | .repi _ => true
  | _ => false

/-- The word of a row is at hand: fetched at the PC and decoding to the operation, or inside a repetition the stored word
(R116, R148). `none` when the row's word is not the one the string is about to execute, or is a REP or REPI of a word that R148
excludes, which is undefined. -/
def atHand (c : Chip) (k : Nat) (rep : Bool) (op : CoreOp) : Option (Chip × Bool) :=
  let lu := decide (courseNo k = luthierCourse)
  match (coreOf c k).rep with
  | some q => if rep ∧ decodeWord lu q.word 0 = some op then some (c, false) else none
  | none =>
    if rep then none
    else
      let f := fetchInstr c k (coreOf c k).pc
      if f.refused.isNone ∧ decodeWord lu f.w f.x = some op ∧ (isRepOp op = false ∨ f.poison ∨ repeatable lu f.x) then
        some (f.c, f.poison)
      else none

/-- The start of a word of operation `op` (R84, R89, R110, R154). `check` gives the precise traps that depend on the
operands: cause, half B, TRAPADDR. `stores` is the number of stores the word makes beside its spills. -/
def begin_ (c : Chip) (k : Nat) (rep : Bool) (op : CoreOp) (stores : Nat)
    (check : List Word → Option (Nat × Bool × Nat)) : Prep :=
  if !atWord c k then .no
  else
    match atHand c k rep op with
    | none => .no
    | some (c, poisoned) =>
      if poisoned then (if orderTrap c k then .stop (poisonHalt c (courseNo k)) else .no)
      else
        let r := coreOf c k
        let (t, l) := opEffect op
        let fills := t - r.stk.length
        let spills := r.stk.length + fills - t + l - 8
        match stackTest c k fills spills with
        | some cause => preciseStop c k cause false (sptrOf c k)
        | none =>
          match rsTest c k op with
          | some cause => preciseStop c k cause false 0
          | none =>
            let st := pendStores c k
            match readFills c k st fills (sptrOf c k) [] with
            | (.hold c, _) => .stop c
            | (.poison c, _) => .stop c
            | (.got c _, vals) =>
              let stk := r.stk ++ vals
              let ops := stk.take t
              match check ops with
              | some (cause, hb, addr) => preciseStop c k cause hb addr
              | none =>
                if intDue c k ∨ orderRun c k = false then .no
                else if !storeRoom c k (stores + spills) then .stop (roomWait c k)
                else .go c ⟨stk, fills⟩ ops

/-- Performs the fills of a word: they are in hardware, and SPTR lies below them (R88). -/
def fillUp (c : Chip) (k : Nat) (f : Fills) : Chip :=
  let c := updCore c k (fun r => { r with stk := f.stk })
  if f.n = 0 then c else csrPut c k 0x0A (wd (sptrOf c k - 4 * f.n))

/-- The spills of a word: the entries beyond eight, deepest first, from SPTR upward (R88). -/
def spillStores (ipc : Nat) : Nat → List Word → List Store
  | _, [] => []
  | sp, w :: t => ⟨sp, 4, w, ipc⟩ :: spillStores ipc (sp + 4) t

/-- The end of a word but for what fetch has taken: its fills performed, its operands removed, its results (top first)
pushed, its stores made, then its spills (R88, R89). Execution goes on at `pc`. -/
def endWord (c : Chip) (k : Nat) (f : Fills) (t : Nat) (res : List Word) (stores : List Store) (pc : Nat) : Chip :=
  let ipc := wordPc c k
  let c := fillUp c k f
  let stk := res ++ (coreOf c k).stk.drop t
  let sp := sptrOf c k
  let deepW := (stk.drop 8).reverse
  let c := updCore c k (fun r => { r with stk := stk.take 8 })
  let c := if deepW.isEmpty then c else csrPut c k 0x0A (wd (sp + 4 * deepW.length))
  let c := (stores ++ spillStores ipc sp deepW).foldl (fun c s => placeStore c k s) c
  retire c k pc

/-- The address of the word that follows one that goes on at `pc`; none while the iterations of a repetition go on. -/
def followPc (c : Chip) (k pc : Nat) : Option Nat :=
  match (coreOf c k).rep with
  | none => some pc
  | some q => if csrVal c k 0x28 = 1 then some (q.at_ + 4) else none

/-- The word that follows a storing word is fetched before the store can reach memory: it executes in its old form (R117). A
refill that would meet poison is left to the word itself (R256). -/
def fetchAhead (c : Chip) (k pc : Nat) : Chip :=
  match followPc c k pc with
  | none => c
  | some a =>
    let f := fetchInstr c k a
    if f.poison then c else f.c

/-- The end of a word; of one that stores or spills the following word is fetched first. -/
def finish (c : Chip) (k : Nat) (f : Fills) (t : Nat) (res : List Word) (stores : List Store) (pc : Nat) : Chip :=
  let quiet := stores.isEmpty && decide ((res ++ f.stk.drop t).length ≤ 8)
  endWord (if quiet then c else fetchAhead c k pc) k f t res stores pc

/-- The word after a one-word operation. -/
def nextPc (c : Chip) (k : Nat) : Nat := (coreOf c k).pc + 2

/-- A word that touches nothing but the string's own state: `f` gives its effect and its results. -/
def plainWord (c : Chip) (k : Nat) (rep : Bool) (op : CoreOp) (len : Nat)
    (f : Chip → List Word → Chip × List Word) : Chip :=
  match begin_ c k rep op 0 (fun _ => none) with
  | .no => c
  | .stop c => c
  | .go c fl ops =>
    let (c, res) := f c ops
    finish c k fl (opEffect op).1 res [] ((coreOf c k).pc + len)

/-- Writes C (where given) and sets V (R158, R159). -/
def putFlags (c : Chip) (k : Nat) (cf : Option Bool) (v : Bool) : Chip :=
  let w := csrVal c k 0x01
  let w := match cf with | some b => setBits w 0 0 (b1 b) | none => w
  csrPut c k 0x01 (if v then setBits w 1 1 1 else w)

/-! ### Agreed and logged reads (R213, R214, R226) -/

/-- Frees what both strings have taken and no replay keeps. -/
def logTrim (l : List LogEnt) : List LogEnt := l.filter (fun e => !(e.aTook && e.bTook && !e.kept))

/-- String B takes its next entry. -/
def takeB (c : Chip) (n : Nat) : Chip :=
  let rec go : List LogEnt → List LogEnt
    | [] => []
    | e :: t => if e.aTook && !e.bTook then { e with bTook := true } :: t else e :: go t
  updCourse c n (fun r => { r with log := logTrim (go r.log) })

/-- The replaying string takes its next entry; a survivor that runs degraded is the only one to take it. -/
def takeA (c : Chip) (n : Nat) : Chip :=
  let solo := !inUnison c n
  let rec go : List LogEnt → List LogEnt
    | [] => []
    | e :: t =>
      if e.aTook then e :: go t
      else { e with aTook := true, bTook := e.bTook || solo, kept := e.kept && !solo } :: t
  updCourse c n (fun r => { r with log := logTrim (go r.log) })

/-- Does an entry answer a request of this kind, address and size? -/
def matches_ (e : LogEnt) (kind addr size : Nat) : Bool :=
  decide (e.kind = kind) && decide (e.addr = addr) && decide (e.size = size)

/-- Who performs a read of a string. -/
inductive Reader where
  /-- The string itself, with no entry. -/
  | self
  /-- String A, for the course: an entry is made. -/
  | lead
  /-- Nobody: the value comes from the read log; the chip has it taken. -/
  | given (c : Chip) (vals : List Word) (trap : Option ITrap)
  /-- The word does not take place yet. -/
  | no
  /-- The word ends here: a mismatch, or a checkpoint called. -/
  | stop (c : Chip)

/-- Decides who performs a read. A read that string B makes where string A took an interrupt or trap first, or a replayed one
that differs from the next entry, matches nothing (R213, R224, R227). `logged` reads are performed once also in fixed unison and are kept for replay;
`always` marks the agreed reads that stay agreed in fixed unison (R213, R214, R239). -/
def reader (c : Chip) (k : Nat) (logged always : Bool) (kind addr size : Nat) : Reader :=
  let n := courseNo k
  let r := courseOf c n
  if inUnison c n && c.fixedUnison && !logged && !always then .self
  else if inUnison c n && isB k then
    match bNext c n with
    | none => .no
    | some e =>
      if !matches_ e kind addr size then .stop (mismatch c n 1 0)
      else if !e.ready then .no
      else .given (takeB c n) e.vals e.trap
  else if logged then
    match replayNext c n with
    | some e =>
      if matches_ e kind addr size then .given (takeA c n) e.vals e.trap
      else .stop (replayFail c n)
    | none =>
      if !inUnison c n then .self
      else if r.log.length < 32 then .lead
      else if r.log.all (fun e => e.kept) then .stop (callCkpt c n) else .no
  else if !inUnison c n then .self
  else if r.log.length < 32 then .lead
  else .no

/-- Makes string A's entry of a read. -/
def logRead (c : Chip) (k : Nat) (logged : Bool) (kind addr size slot : Nat) (vals : List Word) (ready : Bool)
    (trap : Option ITrap) : Chip :=
  let n := courseNo k
  let kept := logged && rbkOf c n
  updCourse c n (fun r =>
    { r with log := logAdd r.log ⟨kind, addr, size, vals, ready, trap, (coreOf c k).words, slot, kept, true, false⟩ })

/-! ### Long operations in flight (R100, R101) -/

/-- Has a slot a result in flight? -/
def slotBusy (c : Chip) (k s : Nat) : Bool :=
  (coreOf c k).flights.any (fun f => decide (f.slot = s) || (f.wide && decide ((f.slot + 1) % 4 = s)))

/-- Is a slot, or for a two-word result either of its two slots, busy (R101)? -/
def slotsBusy (c : Chip) (k s : Nat) (wide : Bool) : Bool :=
  slotBusy c k s || (wide && slotBusy c k ((s + 1) % 4))

/-- Adds a flight. -/
def addFlight (c : Chip) (k : Nat) (f : Flight) : Chip := updCore c k (fun r => { r with flights := r.flights ++ [f] })

/-- Writes a landing slot. -/
def putSlot (c : Chip) (k s : Nat) (w : Word) : Chip :=
  updCore c k (fun r => { r with slots := Tbl.put 0 r.slots (s % 4) w })

/-- The value of a landing slot. -/
def slotVal (c : Chip) (k s : Nat) : Word := Tbl.get 0 (coreOf c k).slots s

end Sys2Proof.Machine
end

