-- ==== Sys2Proof/Machine/Short.lean ====
section
/-! DEFINITION. Pairs of short operations, constants and arithmetic with a field (R131 to R136, R141 to R143, R158 to
R162). -/

namespace Sys2Proof.Machine

open Sys2Proof

/-! ### Pairs -/

/-- The precise trap of a short load or store, with the data address (R142). -/
def shortTrap (o : Nat) (ops : List Word) : Option (Nat × Nat) :=
  if isShortLoad o || isShortStore o then
    let a := (ops.getD 0 0).toNat
    let n := shortSize o
    if a % n ≠ 0 then some (0x07, a)
    else if 0x8000 < a + n then some (0x08, a)
    else none
  else none

/-- The precise trap of a pair: A's before B's (R134). -/
def pairTrap (a b : Nat) (ops : List Word) : Option (Nat × Bool × Nat) :=
  let na := (shortEffect a).1
  match shortTrap a (ops.take na) with
  | some (cause, ad) => some (cause, false, ad)
  | none =>
    match shortTrap b (ops.drop na) with
    | some (cause, ad) => some (cause, true, ad)
    | none => none

/-- One half of a pair carried out: its results with the flags it writes, and the store it makes. -/
structure Half where
  res : List Word
  cf : Option Bool
  v : Bool
  store : Option Store

/-- How a half ends. -/
inductive HalfRes where
  | done (c : Chip) (h : Half)
  | hold (c : Chip)
  | poison (c : Chip)

/-- Carries out one short operation on its operands; a load meets the stores `st` (R112, R132, R141, R142). -/
def runHalf (c : Chip) (k : Nat) (st : List Store) (o : Nat) (ops : List Word) : HalfRes :=
  let a := (ops.getD 0 0).toNat
  if isShortLoad o then
    match loadLocal c k st a (shortSize o) with
    | .got c w => .done c ⟨[if shortSigned o then sext (8 * shortSize o) w else w], none, false, none⟩
    | .hold c => .hold c
    | .poison c => .poison c
  else if isShortStore o then
    .done c ⟨[], none, false, some ⟨a, shortSize o, ops.getD 1 0, wordPc c k⟩⟩
  else
    let r := shortResult o ops (bit (csrVal c k 0x01) 0)
    .done c ⟨r.1, r.2.1, r.2.2, none⟩

/-- Half B loads bytes of which half A's store `s` gives a part: the load waits until that store has been performed, then reads
memory (R112, R134). In split the stores before it leave the buffer first; in unison the store is a half of a pair, and its
bytes stand over what memory holds. Answers the word stored over, and whether the store has been made. -/
def partStored (c : Chip) (k : Nat) (s : Store) (a size pc : Nat) : HalfRes × Bool :=
  let n := courseNo k
  let (c1, w, p) := readWord c (Tgt.sram n a).ga 1 k
  let half (c : Chip) (w : Word) : HalfRes := .done c ⟨[loadFrom w (a % 4) size false], none, false, none⟩
  if ownAtomic c k then (.hold c, false)
  else if p then (.poison (poisonHalt c1 n), false)
  else if inUnison c n then
    if (pendStores c k).any (meets k a size) then (.hold (holdLoad c k a size), false)
    else (half c1 (mergeBytes w (s.addr % 4) s.size s.data), false)
  else
    match drainAll (fetchAhead c k pc) k 4 with
    | none => (.hold c, false)
    | some c2 =>
      let (c3, w, _) := readWord (ownStore c2 k s) (Tgt.sram n a).ga 1 k
      (half c3 w, true)

/-- Half B of a pair, behind half A's store. -/
def runSecond (c : Chip) (k : Nat) (st : List Store) (sa : Option Store) (o : Nat) (ops : List Word) : HalfRes × Bool :=
  let a := (ops.getD 0 0).toNat
  match sa with
  | some s =>
    if isShortLoad o ∧ forward k [s] a (shortSize o) = .wait then
      match partStored c k s a (shortSize o) (nextPc c k) with
      | (.done c h, made) => (.done c { h with res := h.res.map (fun w => if shortSigned o then sext (8 * shortSize o) w else w) }, made)
      | r => r
    else (runHalf c k (st ++ [s]) o ops, false)
  | none => (runHalf c k st o ops, false)

/-- PAIR: both halves read the stack as it stood before the word; B's results stand beneath A's (R132 to R135). -/
def xPair (c : Chip) (k : Nat) (rep : Bool) (a b : BitVec 7) : Chip :=
  let stores := b1 (isShortStore a.toNat) + b1 (isShortStore b.toNat)
  match begin_ c k rep (.pair a b) stores (pairTrap a.toNat b.toNat) with
  | .no => c
  | .stop c => c
  | .go c fl ops =>
    let na := (shortEffect a.toNat).1
    let st := pendStores c k
    match runHalf c k st a.toNat (ops.take na) with
    | .hold c => c
    | .poison c => c
    | .done c ha =>
      match runSecond c k st ha.store b.toNat (ops.drop na) with
      | (.hold c, _) => c
      | (.poison c, _) => c
      | (.done c hb, made) =>
        let c := putFlags c k (match hb.cf with | some x => some x | none => ha.cf) (ha.v || hb.v)
        let sa := if made then [] else ha.store.toList
        finish c k fl (opEffect (.pair a b)).1 (ha.res ++ hb.res) (sa ++ hb.store.toList) (nextPc c k)

/-- The command PAIR on a unit that exists. -/
def execPair (k : Nat) (rep : Bool) (a b : BitVec 7) (s : State) : Host.Outcome State Fault Refusal :=
  onUnit (isCore k) s (fun c => xPair c k rep a b)

/-! ### Constants and arithmetic with a field -/

/-- LIT: the field, sign-extended. -/
def xLit (c : Chip) (k : Nat) (rep : Bool) (f : BitVec 8) : Chip :=
  plainWord c k rep (.lit f) 2 (fun c _ => (c, [f.signExtend 32]))

/-- The command LIT on a unit that exists. -/
def execLit (k : Nat) (rep : Bool) (f : BitVec 8) (s : State) : Host.Outcome State Fault Refusal :=
  onUnit (isCore k) s (fun c => xLit c k rep f)

/-- LITX: the extension word, sign-extended. -/
def xLitx (c : Chip) (k : Nat) (x : IWord) : Chip :=
  plainWord c k false (.litx x) 4 (fun c _ => (c, [x.signExtend 32]))

/-- The command LITX on a unit that exists. -/
def execLitx (k : Nat) (x : IWord) (s : State) : Host.Outcome State Fault Refusal :=
  onUnit (isCore k) s (fun c => xLitx c k x)

/-- LITHI: the extension word above the low half of the top. -/
def xLithi (c : Chip) (k : Nat) (x : IWord) : Chip :=
  plainWord c k false (.lithi x) 4 (fun c ops => (c, [wd (x.toNat * 65536 + (ops.getD 0 0).toNat % 65536)]))

/-- The command LITHI on a unit that exists. -/
def execLithi (k : Nat) (x : IWord) (s : State) : Host.Outcome State Fault Refusal :=
  onUnit (isCore k) s (fun c => xLithi c k x)

/-- ADDI: as ADD with the sign-extended field (R160). -/
def xAddi (c : Chip) (k : Nat) (rep : Bool) (f : BitVec 8) : Chip :=
  plainWord c k rep (.addi f) 2 (fun c ops =>
    let r := addFlags (ops.getD 0 0) (f.signExtend 32) false
    (putFlags c k r.c r.v, [r.val]))

/-- The command ADDI on a unit that exists. -/
def execAddi (k : Nat) (rep : Bool) (f : BitVec 8) (s : State) : Host.Outcome State Fault Refusal :=
  onUnit (isCore k) s (fun c => xAddi c k rep f)

/-- SHLI. -/
def xShli (c : Chip) (k : Nat) (rep : Bool) (n : BitVec 5) : Chip :=
  plainWord c k rep (.shli n) 2 (fun c ops => (c, [shl (ops.getD 0 0) (wd n.toNat)]))

/-- The command SHLI on a unit that exists. -/
def execShli (k : Nat) (rep : Bool) (n : BitVec 5) (s : State) : Host.Outcome State Fault Refusal :=
  onUnit (isCore k) s (fun c => xShli c k rep n)

/-- SHRI. -/
def xShri (c : Chip) (k : Nat) (rep : Bool) (n : BitVec 5) : Chip :=
  plainWord c k rep (.shri n) 2 (fun c ops => (c, [shr (ops.getD 0 0) (wd n.toNat)]))

/-- The command SHRI on a unit that exists. -/
def execShri (k : Nat) (rep : Bool) (n : BitVec 5) (s : State) : Host.Outcome State Fault Refusal :=
  onUnit (isCore k) s (fun c => xShri c k rep n)

/-- SARI. -/
def xSari (c : Chip) (k : Nat) (rep : Bool) (n : BitVec 5) : Chip :=
  plainWord c k rep (.sari n) 2 (fun c ops => (c, [sar (ops.getD 0 0) (wd n.toNat)]))

/-- The command SARI on a unit that exists. -/
def execSari (k : Nat) (rep : Bool) (n : BitVec 5) (s : State) : Host.Outcome State Fault Refusal :=
  onUnit (isCore k) s (fun c => xSari c k rep n)

/-- ROLI. -/
def xRoli (c : Chip) (k : Nat) (rep : Bool) (n : BitVec 5) : Chip :=
  plainWord c k rep (.roli n) 2 (fun c ops => (c, [rol (ops.getD 0 0) (wd n.toNat)]))

/-- The command ROLI on a unit that exists. -/
def execRoli (k : Nat) (rep : Bool) (n : BitVec 5) (s : State) : Host.Outcome State Fault Refusal :=
  onUnit (isCore k) s (fun c => xRoli c k rep n)

/-- PICK: a copy of the entry at depth n; the entries above it stay. -/
def xPick (c : Chip) (k : Nat) (rep : Bool) (n : BitVec 3) : Chip :=
  plainWord c k rep (.pick n) 2 (fun c ops => (c, ops.getD n.toNat 0 :: ops))

/-- The command PICK on a unit that exists. -/
def execPick (k : Nat) (rep : Bool) (n : BitVec 3) (s : State) : Host.Outcome State Fault Refusal :=
  onUnit (isCore k) s (fun c => xPick c k rep n)

end Sys2Proof.Machine
end

