-- ==== Sys2Proof/Machine/Flow.lean ====
section
/-! DEFINITION. Control flow: branches, calls, the return stack, repetition, TRAP and RETT (R97, R98, R115, R145, R168 to
R178, R193). -/

namespace Sys2Proof.Machine

open Sys2Proof

/-! ### Targets -/

/-- IFETCH of a transfer of control: a target outside local SRAM or odd (R115, R169). -/
def targetTrap (t : Word) : Option (Nat × Bool × Nat) :=
  if fetchable t.toNat then none else some (0x02, false, t.toNat)

/-- A relative target: the PC plus twice the offset (R145). -/
def relTarget (c : Chip) (k : Nat) (off : Word) : Word := wd (coreOf c k).pc + 2#32 * off

/-- A branch of `len` bytes to a relative target: `taken` judges the condition popped, if any (R168, R169). -/
def branchWord (c : Chip) (k : Nat) (op : CoreOp) (len : Nat) (off : Word) (taken : List Word → Bool) : Chip :=
  let t := relTarget c k off
  match begin_ c k false op 0 (fun ops => if taken ops then targetTrap t else none) with
  | .no => c
  | .stop c => c
  | .go c fl ops => finish c k fl (opEffect op).1 [] [] (if taken ops then t.toNat else (coreOf c k).pc + len)

/-- Is the condition popped zero? -/
def condZero (ops : List Word) : Bool := ops.getD 0 0 = 0

/-- BR. -/
def xBr (c : Chip) (k : Nat) (f : BitVec 8) : Chip := branchWord c k (.br f) 2 (f.signExtend 32) (fun _ => true)

/-- The command BR on a unit that exists. -/
def execBr (k : Nat) (f : BitVec 8) (s : State) : Host.Outcome State Fault Refusal :=
  onUnit (isCore k) s (fun c => xBr c k f)

/-- BZ. -/
def xBz (c : Chip) (k : Nat) (f : BitVec 8) : Chip := branchWord c k (.bz f) 2 (f.signExtend 32) condZero

/-- The command BZ on a unit that exists. -/
def execBz (k : Nat) (f : BitVec 8) (s : State) : Host.Outcome State Fault Refusal :=
  onUnit (isCore k) s (fun c => xBz c k f)

/-- BNZ. -/
def xBnz (c : Chip) (k : Nat) (f : BitVec 8) : Chip :=
  branchWord c k (.bnz f) 2 (f.signExtend 32) (fun ops => !condZero ops)

/-- The command BNZ on a unit that exists. -/
def execBnz (k : Nat) (f : BitVec 8) (s : State) : Host.Outcome State Fault Refusal :=
  onUnit (isCore k) s (fun c => xBnz c k f)

/-- BRX. -/
def xBrx (c : Chip) (k : Nat) (x : IWord) : Chip := branchWord c k (.brx x) 4 (x.signExtend 32) (fun _ => true)

/-- The command BRX on a unit that exists. -/
def execBrx (k : Nat) (x : IWord) (s : State) : Host.Outcome State Fault Refusal :=
  onUnit (isCore k) s (fun c => xBrx c k x)

/-- BZX. -/
def xBzx (c : Chip) (k : Nat) (x : IWord) : Chip := branchWord c k (.bzx x) 4 (x.signExtend 32) condZero

/-- The command BZX on a unit that exists. -/
def execBzx (k : Nat) (x : IWord) (s : State) : Host.Outcome State Fault Refusal :=
  onUnit (isCore k) s (fun c => xBzx c k x)

/-- BNZX. -/
def xBnzx (c : Chip) (k : Nat) (x : IWord) : Chip :=
  branchWord c k (.bnzx x) 4 (x.signExtend 32) (fun ops => !condZero ops)

/-- The command BNZX on a unit that exists. -/
def execBnzx (k : Nat) (x : IWord) (s : State) : Host.Outcome State Fault Refusal :=
  onUnit (isCore k) s (fun c => xBnzx c k x)

/-! ### The return stack (R97, R98) -/

/-- Pushes an entry; at depth 16 in wrap mode the oldest is overwritten. -/
def rsPush (c : Chip) (k : Nat) (w : Word) : Chip :=
  updCore c k (fun r =>
    { r with rsFile := Tbl.put 0 r.rsFile r.rsPtr w, rsPtr := (r.rsPtr + 1) % 16, rsDepth := sat (r.rsDepth + 1) 16 })

/-- The entry a pop returns: the place beneath the pointer. -/
def rsTop (c : Chip) (k : Nat) : Word := Tbl.get 0 (coreOf c k).rsFile (((coreOf c k).rsPtr + 15) % 16)

/-- Pops: the pointer moves down one place; at depth 0 in wrap mode the depth stays 0. -/
def rsPop (c : Chip) (k : Nat) : Chip :=
  updCore c k (fun r => { r with rsPtr := (r.rsPtr + 15) % 16, rsDepth := r.rsDepth - 1 })

/-- A word that acts on the return stack and goes on at the next word. -/
def rsWord (c : Chip) (k : Nat) (op : CoreOp) (f : Chip → List Word → Chip × List Word) : Chip :=
  plainWord c k false op 2 f

/-- TOR. -/
def xTor (c : Chip) (k : Nat) : Chip := rsWord c k .tor (fun c ops => (rsPush c k (ops.getD 0 0), []))

/-- The command TOR on a unit that exists. -/
def execTor (k : Nat) (s : State) : Host.Outcome State Fault Refusal :=
  onUnit (isCore k) s (fun c => xTor c k)

/-- FROMR. -/
def xFromr (c : Chip) (k : Nat) : Chip := rsWord c k .fromr (fun c _ => (rsPop c k, [rsTop c k]))

/-- The command FROMR on a unit that exists. -/
def execFromr (k : Nat) (s : State) : Host.Outcome State Fault Refusal :=
  onUnit (isCore k) s (fun c => xFromr c k)

/-- RGET: a copy; pointer and depth stay. -/
def xRget (c : Chip) (k : Nat) : Chip := rsWord c k .rget (fun c _ => (c, [rsTop c k]))

/-- The command RGET on a unit that exists. -/
def execRget (k : Nat) (s : State) : Host.Outcome State Fault Refusal :=
  onUnit (isCore k) s (fun c => xRget c k)

/-- RDROP. -/
def xRdrop (c : Chip) (k : Nat) : Chip := rsWord c k .rdrop (fun c _ => (rsPop c k, []))

/-- The command RDROP on a unit that exists. -/
def execRdrop (k : Nat) (s : State) : Host.Outcome State Fault Refusal :=
  onUnit (isCore k) s (fun c => xRdrop c k)

/-- A transfer to an absolute target after `f` has changed the return stack. -/
def jumpWord (c : Chip) (k : Nat) (op : CoreOp) (target : Chip → List Word → Word) (f : Chip → Chip) : Chip :=
  match begin_ c k false op 0 (fun ops => targetTrap (target c ops)) with
  | .no => c
  | .stop c => c
  | .go c fl ops =>
    let t := target c ops
    finish (f c) k fl (opEffect op).1 [] [] t.toNat

/-- CALL: the return address is PC + 4 (R145, R170). -/
def xCall (c : Chip) (k : Nat) (x : IWord) : Chip :=
  jumpWord c k (.call x) (fun _ _ => x.setWidth 32) (fun c => rsPush c k (wd ((coreOf c k).pc + 4)))

/-- The command CALL on a unit that exists. -/
def execCall (k : Nat) (x : IWord) (s : State) : Host.Outcome State Fault Refusal :=
  onUnit (isCore k) s (fun c => xCall c k x)

/-- CALLI: the return address is PC + 2. -/
def xCalli (c : Chip) (k : Nat) : Chip :=
  jumpWord c k .calli (fun _ ops => ops.getD 0 0) (fun c => rsPush c k (wd ((coreOf c k).pc + 2)))

/-- The command CALLI on a unit that exists. -/
def execCalli (k : Nat) (s : State) : Host.Outcome State Fault Refusal :=
  onUnit (isCore k) s (fun c => xCalli c k)

/-- RET. -/
def xRet (c : Chip) (k : Nat) : Chip := jumpWord c k .ret (fun c _ => rsTop c k) (fun c => rsPop c k)

/-- The command RET on a unit that exists. -/
def execRet (k : Nat) (s : State) : Host.Outcome State Fault Refusal :=
  onUnit (isCore k) s (fun c => xRet c k)

/-- JMPI. -/
def xJmpi (c : Chip) (k : Nat) : Chip := jumpWord c k .jmpi (fun _ ops => ops.getD 0 0) (fun c => c)

/-- The command JMPI on a unit that exists. -/
def execJmpi (k : Nat) (s : State) : Host.Outcome State Fault Refusal :=
  onUnit (isCore k) s (fun c => xJmpi c k)

/-! ### Repetition (R148, R171 to R177) -/

/-- Starts a repetition of the word after the one at `a`: REPCNT holds the count; a count of 0 skips the word. -/
def startRep (c : Chip) (k a n : Nat) (intr : Bool) (w : IWord) : Chip :=
  let c := csrPut c k 0x28 (wd n)
  if n = 0 then updCore c k (fun r => { r with rep := none, pc := a + 4 })
  else updCore c k (fun r => { r with rep := some ⟨intr, w, a⟩, pc := a })

/-- REP and REPI: the count is the field, or for a field of 0 popped from the stack (R171). The next word is fetched and
decoded with it; where R148 excludes the next word, the REP is undefined and UNDEF is taken by the trap entry. -/
def repWord (c : Chip) (k : Nat) (f : BitVec 8) (intr : Bool) : Chip :=
  let op : CoreOp := if intr then .repi f else .rep f
  match begin_ c k false op 0 (fun _ => none) with
  | .no => c
  | .stop c => c
  | .go c fl ops =>
    let a := (coreOf c k).pc
    let (c, w, _) := fetchWord c k (a + 2)
    let n := if f = 0 then (ops.getD 0 0).toNat else f.toNat
    startRep (finish c k fl (opEffect op).1 [] [] a) k a n intr w

/-- REP. -/
def xRep (c : Chip) (k : Nat) (f : BitVec 8) : Chip := repWord c k f false

/-- The command REP on a unit that exists. -/
def execRep (k : Nat) (f : BitVec 8) (s : State) : Host.Outcome State Fault Refusal :=
  onUnit (isCore k) s (fun c => xRep c k f)

/-- REPI. -/
def xRepi (c : Chip) (k : Nat) (f : BitVec 8) : Chip := repWord c k f true

/-- The command REPI on a unit that exists. -/
def execRepi (k : Nat) (f : BitVec 8) (s : State) : Host.Outcome State Fault Refusal :=
  onUnit (isCore k) s (fun c => xRepi c k f)

/-! ### TRAP and RETT -/

/-- TRAP: the word completes, then the trap is taken with TRAPPC at the word after; while a handler runs it is a double
trap, and the string halts before the word (R145, R190, R191). -/
def xTrap (c : Chip) (k : Nat) (f : BitVec 8) : Chip :=
  match begin_ c k false (.trap f) 0 (fun _ => if inhOf c k then some (0x0A, false, 0) else none) with
  | .no => c
  | .stop c => c
  | .go c fl _ =>
    let pc := (coreOf c k).pc
    let c := finish c k fl 0 [] [] (pc + 2)
    trapEntry c k { cause := 0x0A, retPc := pc + 2, ipc := pc, code := f.toNat }

/-- The command TRAP on a unit that exists. -/
def execTrap (k : Nat) (f : BitVec 8) (s : State) : Host.Outcome State Fault Refusal :=
  onUnit (isCore k) s (fun c => xTrap c k f)

/-- RETT with TRAPINFO.RPT set: the word at TRAPPC is decoded first, with its repeated word (R148, R177). A word that is
neither REP nor REPI, or one that repeats what R148 excludes, leaves its trap to the trap entry: it is marked by an
undefined repeated word. -/
def resumeRep (c : Chip) (k t : Nat) : Chip :=
  let lu := decide (courseNo k = luthierCourse)
  let (c, w, p) := fetchWord c k t
  let isRep := decide (w.toNat / 256 = 0x1E) || decide (w.toNat / 256 = 0x1F)
  let intr := decide (w.toNat / 256 ≠ 0x1E)
  let again (c : Chip) (w : IWord) : Chip := updCore c k (fun r => { r with rep := some ⟨intr, w, t⟩, pc := t, resumed := true })
  let bad (c : Chip) : Chip := again c 0
  if p then poisonHalt (updCore c k (fun r => { r with pc := t })) (courseNo k)
  else if !isRep ∨ fetchable (t + 2) = false then bad c
  else
    let (c, x, q) := fetchWord c k (t + 2)
    if q then poisonHalt (updCore c k (fun r => { r with pc := t })) (courseNo k)
    else if repeatable lu x then
      let n := csrVal c k 0x28
      if n = 0 then updCore c k (fun r => { r with pc := t + 4 })
      else again c x
    else bad c

/-- RETT to a target that cannot be fetched from: a precise trap like any other, taken before interrupts (R110), with INH
already 0. -/
def rettTrap (c : Chip) (k t : Nat) : Chip :=
  if !atWord c k ∨ orderTrap c k = false then c
  else match atHand c k false .rett with
    | none => c
    | some (c, poisoned) =>
      let pc := (coreOf c k).pc
      if poisoned then poisonHalt c (courseNo k)
      else trapEntry (trapReturn c k) k { cause := 0x02, retPc := pc, ipc := pc, addr := t }

/-- RETT (R119, R177, R193): the pending CSR writes apply, INH becomes 0, and control goes to TRAPPC; an unusable target
traps IFETCH with INH already 0. -/
def xRett (c : Chip) (k : Nat) : Chip :=
  let t := (csrVal c k 0x12).toNat
  if !fetchable t then rettTrap c k t
  else match begin_ c k false .rett 0 (fun _ => none) with
  | .no => c
  | .stop c => c
  | .go c fl _ =>
    let rpt := bit (csrVal c k 0x13) 16
    let c := finish (trapReturn c k) k fl 0 [] [] t
    if rpt then resumeRep c k t else c

/-- The command RETT on a unit that exists. -/
def execRett (k : Nat) (s : State) : Host.Outcome State Fault Refusal :=
  onUnit (isCore k) s (fun c => xRett c k)

end Sys2Proof.Machine
end

