-- ==== Sys2Proof/Machine/Remote.lean ====
section
/-! DEFINITION. Long operations and stores (R99 to R108, R139, R143, R144, R163 to R167, R179 to R187, R212 to R215):
remote loads and stores, atomics, multiply and divide, and the landing slots. -/

namespace Sys2Proof.Machine

open Sys2Proof

/-! ### Sizes and alignment -/

/-- Bytes of a size field (R144). -/
def sizeOf_ (s : BitVec 2) : Nat := if s = 0 then 1 else if s = 1 then 2 else 4

/-- ALIGN of an access (R142, R188). -/
def alignTrap (a n : Nat) : Option (Nat × Bool × Nat) := if a % n ≠ 0 then some (0x07, false, a) else none

/-! ### Flights -/

/-- A flight whose result is still to come from memory. -/
def memFlight (c : Chip) (k op slot a size : Nat) (sg : Bool) : Flight :=
  ⟨op, slot, false, wordPc c k, a, size, sg, false, 0, 0, false, false, 0, 0, a⟩

/-- A flight whose result is formed. -/
def readyFlight (c : Chip) (k op slot : Nat) (wide : Bool) (lo hi : Word) : Flight :=
  ⟨op, slot, wide, wordPc c k, 0, 4, false, true, lo, hi, false, false, 0, 0, 0⟩

/-- Issues a request into the data fabric behind the string's earlier ones (R200, R201, R251). -/
def issueReq (c : Chip) (k kind slot a size : Nat) (data : Word) : Chip :=
  updCore c k (fun r => { r with bus := r.bus ++ [⟨kind, slot, a, size, data, wordPc c k, false, false, 0⟩] })

/-- Issues a request with its flight. -/
def issueMem (c : Chip) (k op kind slot a size : Nat) (sg : Bool) (data : Word) : Chip :=
  issueReq (addFlight c k (memFlight c k op slot a size sg)) k kind slot a size data

/-- The flight of a value taken from the read log. A replay raises the trap of its read again; string B takes it from string
A's asynchronous entry (R217, R226). -/
def givenFlight (c : Chip) (k op slot : Nat) (wide : Bool) (vals : List Word) (t : Option ITrap) : Flight :=
  let f := readyFlight c k op slot wide (vals.getD 0 0) (vals.getD 1 0)
  match t with
  | some t => { f with trap := t.cause, code := t.code, taddr := t.addr }
  | none => f

/-- A read that a string or its course performs through the fabric, or takes from the read log; `last` ends the word
(R100, R213, R214). `c0` is the state in which the word does not take place. -/
def readThrough (c0 c : Chip) (k op kind slot a size tag : Nat) (sg logged always : Bool) (data : Word)
    (last : Chip → Chip) : Chip :=
  match reader c k logged always op a tag with
  | .self => last (issueMem c k op kind slot a size sg data)
  | .lead => last (logRead (issueMem c k op kind slot a size sg data) k logged op a tag slot [] false none)
  | .given c vals t => last (addFlight c k (givenFlight c k op slot false vals t))
  | .no => c0
  | .stop c => c

/-! ### LDR, AGREE, LR -/

/-- An LR whose bytes a store not yet performed gives: they land at once (R112), and the reservation of the granule is placed,
where its memory keeps one and is on. -/
def lrForwarded (c : Chip) (k slot a : Nat) (w : Word) : Chip :=
  let t := target (some (courseNo k)) a
  let on := match t with
    | .sram n _ => courseOn c n
    | .store j o => gateOpen c (2 * j + o / 0x40000)
    | _ => false
  putSlot (if on then placeResv c k t 0xFFFFFFFF else c) k slot w

/-- LR (R112, R179, R181, R214). Its words count from the LR, which the end of its own word does not add to (R182). -/
def lrWord (c0 c : Chip) (k slot a tag : Nat) (last : Chip → Chip) : Chip :=
  match reader c k true true 0x23 a tag with
  | .given c vals t => last (addFlight c k (givenFlight c k 0x23 slot false vals t))
  | .no => c0
  | .stop c => c
  | r =>
    let lead := match r with | .lead => true | _ => false
    match forward k (pendStores c k) a 4 with
    | .wait => holdLoad c0 k a 4
    | .val w => last (lrForwarded (if lead then logRead c k true 0x23 a tag slot [w] true none else c) k slot a w)
    | .mem =>
      let c := issueMem c k 0x23 3 slot a 4 false 0xFFFFFFFF
      last (if lead then logRead c k true 0x23 a tag slot [] false none else c)

/-- A remote load (R112, R113, R143, R201, R212 to R214). A forwarded load lands at once. -/
def loadWord (c0 : Chip) (k : Nat) (rep : Bool) (op : CoreOp) (code slot size : Nat) (sg : Bool) : Chip :=
  match begin_ c0 k rep op 0 (fun ops => alignTrap (ops.getD 0 0).toNat size) with
  | .no => c0
  | .stop c => c
  | .go c fl ops =>
    let a := (ops.getD 0 0).toNat
    let last (c : Chip) : Chip := finish c k fl 1 [] [] (nextPc c k)
    let tag := size + 8 * b1 sg
    let own := ownSram k a
    if slotBusy c k slot then c0
    else if code = 0x23 then lrWord c0 c k slot a tag last
    else
      match forward k (pendStores c k) a size with
      | .wait => holdLoad c0 k a size
      | .val w => last (putSlot c k slot (if sg then sext (8 * size) w else w))
      | .mem =>
        if own then last (issueMem c k code 0 slot a size sg 0)
        else readThrough c0 c k code 0 slot a size tag sg (inRegs a) (decide (code = 0x25)) 0 last

/-- LDR. -/
def xLdr (c : Chip) (k : Nat) (rep : Bool) (slot size : BitVec 2) (sg : Bool) : Chip :=
  loadWord c k rep (.ldr slot size sg) 0x20 slot.toNat (sizeOf_ size) sg

/-- The command LDR on a unit that exists. -/
def execLdr (k : Nat) (rep : Bool) (slot size : BitVec 2) (sg : Bool) (s : State) :
    Host.Outcome State Fault Refusal :=
  onUnit (isCore k) s (fun c => xLdr c k rep slot size sg)

/-- AGREE: in split as LDR. -/
def xAgree (c : Chip) (k : Nat) (rep : Bool) (slot size : BitVec 2) (sg : Bool) : Chip :=
  loadWord c k rep (.agree slot size sg) 0x25 slot.toNat (sizeOf_ size) sg

/-- The command AGREE on a unit that exists. -/
def execAgree (k : Nat) (rep : Bool) (slot size : BitVec 2) (sg : Bool) (s : State) :
    Host.Outcome State Fault Refusal :=
  onUnit (isCore k) s (fun c => xAgree c k rep slot size sg)

/-- LR. -/
def xLr (c : Chip) (k : Nat) (rep : Bool) (slot : BitVec 2) : Chip :=
  loadWord c k rep (.lr slot) 0x23 slot.toNat 4 false

/-- The command LR on a unit that exists. -/
def execLr (k : Nat) (rep : Bool) (slot : BitVec 2) (s : State) : Host.Outcome State Fault Refusal :=
  onUnit (isCore k) s (fun c => xLr c k rep slot)

/-! ### STR -/

/-- STR. `tflt` is the failure the tuner's checker meets at this entry of a course in unison: 0 none, 5 the comparators,
6 parity (R230). -/
def xStr (c : Chip) (k : Nat) (rep : Bool) (size : BitVec 2) (tflt : Nat) : Chip :=
  let n := sizeOf_ size
  match begin_ c k rep (.str size) 1 (fun ops => alignTrap (ops.getD 0 0).toNat n) with
  | .no => c
  | .stop c => c
  | .go c fl ops =>
    if inUnison c (courseNo k) ∧ (tflt = 5 ∨ tflt = 6) then tunerFault c (courseNo k) tflt 0
    else
      finish c k fl 2 [] [⟨(ops.getD 0 0).toNat, n, ops.getD 1 0, wordPc c k⟩] (nextPc c k)

/-- The command STR on a unit that exists. -/
def execStr (k : Nat) (rep : Bool) (size : BitVec 2) (tflt : Nat) (s : State) : Host.Outcome State Fault Refusal :=
  onUnit (isCore k && isFlaw tflt) s (fun c => xStr c k rep size tflt)

/-! ### TAS and SC -/

/-- Have a string's earlier stores drained and been accepted by their targets (R186)? -/
def drained (c : Chip) (k : Nat) : Bool :=
  (coreOf c k).sbuf.isEmpty && !storeOut c k

/-- Words of a course's stack memory beneath an address, shallowest first. -/
def deepWords (c : Chip) (n : Nat) : Nat → Nat → List Word
  | 0, _ => []
  | m + 1, sp => wordAt c (Tgt.sram n (beneath sp)).ga :: deepWords c n m (beneath sp)

/-- The `n` topmost operands of a string that holds no store of its own back: in hardware, then in the spill area (R87). -/
def topWords (c : Chip) (k n : Nat) : List Word :=
  let r := coreOf c k
  (r.stk ++ deepWords c (courseNo k) (n - r.stk.length) (sptrOf c k)).take n

/-- An atomic word (R179 to R187). `v` is the value SC stores. In unison, string A goes on once the checkpoint it has called
there is made and string B, which stands at the same word, has the same operands (R215). -/
def atomicWord (c0 : Chip) (k : Nat) (rep : Bool) (op : CoreOp) (code kind slot : Nat) (value : List Word → Word) : Chip :=
  match begin_ c0 k rep op 0 (fun ops => alignTrap (ops.getD 0 0).toNat 4) with
  | .no => c0
  | .stop c => c
  | .go c fl ops =>
    let a := (ops.getD 0 0).toNat
    let v := value ops
    if slotBusy c k slot then c0
    else if ckptFirst c k then callOwn c0 k
    else if inUnison c (courseNo k) ∧ isB k = false ∧ topWords c (k + 1) (opEffect op).1 ≠ ops then
      mismatch c (courseNo k) 1 0
    else if !drained c k then c0
    else
      readThrough c0 (fetchAhead c k (nextPc c k)) k code kind slot a 4 (4 + 8 * v.toNat) false true true v
        (fun c => finish c k fl (opEffect op).1 [] [] (nextPc c k))

/-- TAS. -/
def xTas (c : Chip) (k : Nat) (rep : Bool) (slot : BitVec 2) : Chip :=
  atomicWord c k rep (.tas slot) 0x22 2 slot.toNat (fun _ => 0)

/-- The command TAS on a unit that exists. -/
def execTas (k : Nat) (rep : Bool) (slot : BitVec 2) (s : State) : Host.Outcome State Fault Refusal :=
  onUnit (isCore k) s (fun c => xTas c k rep slot)

/-- SC: the value is the deeper operand. -/
def xSc (c : Chip) (k : Nat) (rep : Bool) (slot : BitVec 2) : Chip :=
  atomicWord c k rep (.sc slot) 0x24 4 slot.toNat (fun ops => ops.getD 1 0)

/-- The command SC on a unit that exists. -/
def execSc (k : Nat) (rep : Bool) (slot : BitVec 2) (s : State) : Host.Outcome State Fault Refusal :=
  onUnit (isCore k) s (fun c => xSc c k rep slot)

/-! ### MUL and DIV -/

/-- A word whose two-word result a long unit of the core forms (R100, R101, R163 to R166). -/
def unitWord (c0 : Chip) (k : Nat) (rep : Bool) (op : CoreOp) (slot : Nat) (f : Chip → List Word → Flight) : Chip :=
  match begin_ c0 k rep op 0 (fun _ => none) with
  | .no => c0
  | .stop c => c
  | .go c fl ops =>
    if slotsBusy c k slot true then c0
    else finish (addFlight c k (f c ops)) k fl 2 [] [] (nextPc c k)

/-- MUL: the exact product, low word first (R163). -/
def xMul (c : Chip) (k : Nat) (rep : Bool) (slot : BitVec 2) (uns : Bool) : Chip :=
  unitWord c k rep (.mul slot uns) slot.toNat (fun c ops =>
    let p := mulWords (ops.getD 1 0) (ops.getD 0 0) uns
    readyFlight c k 0x26 slot.toNat true p.1 p.2)

/-- The command MUL on a unit that exists. -/
def execMul (k : Nat) (rep : Bool) (slot : BitVec 2) (uns : Bool) (s : State) : Host.Outcome State Fault Refusal :=
  onUnit (isCore k) s (fun c => xMul c k rep slot uns)

/-- DIV: quotient first; V, DZ and DIVZ come with the landing; DZTRAP counts as it stands at issue (R164 to R167). -/
def xDiv (c : Chip) (k : Nat) (rep : Bool) (slot : BitVec 2) (uns : Bool) : Chip :=
  unitWord c k rep (.div slot uns) slot.toNat (fun c ops =>
    let (q, r, v, dz) := divWords (ops.getD 1 0) (ops.getD 0 0) uns
    let trap := if dz ∧ bit (csrVal c k 0x01) 8 then 0x12 else 0
    { readyFlight c k 0x27 slot.toNat true q r with setV := v, setDZ := dz, trap := trap })

/-- The command DIV on a unit that exists. -/
def execDiv (k : Nat) (rep : Bool) (slot : BitVec 2) (uns : Bool) (s : State) : Host.Outcome State Fault Refusal :=
  onUnit (isCore k) s (fun c => xDiv c k rep slot uns)

/-! ### Slots -/

/-- LAND: the slot's value, without a hazard check; an early one sets EARLY (R102). -/
def xLand (c : Chip) (k : Nat) (rep : Bool) (slot : BitVec 2) : Chip :=
  plainWord c k rep (.land slot) 2 (fun c _ =>
    let c' := if slotBusy c k slot.toNat then csrPut c k 0x00 (csrVal c k 0x00 ||| 1) else c
    (c', [slotVal c k slot.toNat]))

/-- The command LAND on a unit that exists. -/
def execLand (k : Nat) (rep : Bool) (slot : BitVec 2) (s : State) : Host.Outcome State Fault Refusal :=
  onUnit (isCore k) s (fun c => xLand c k rep slot)

/-- PUTL: waits for the slot, then pops a word into it (R104). -/
def xPutl (c0 : Chip) (k : Nat) (rep : Bool) (slot : BitVec 2) : Chip :=
  match begin_ c0 k rep (.putl slot) 0 (fun _ => none) with
  | .no => c0
  | .stop c => c
  | .go c fl ops =>
    if slotBusy c k slot.toNat then c0
    else finish (putSlot c k slot.toNat (ops.getD 0 0)) k fl 1 [] [] (nextPc c k)

/-- The command PUTL on a unit that exists. -/
def execPutl (k : Nat) (rep : Bool) (slot : BitVec 2) (s : State) : Host.Outcome State Fault Refusal :=
  onUnit (isCore k) s (fun c => xPutl c k rep slot)

/-- Is a slot of a mask in flight? -/
def maskBusy (c : Chip) (k : Nat) (m : BitVec 4) : Bool :=
  (List.range 4).any (fun s => m.toNat.testBit s && slotBusy c k s)

/-- Does a held engine entry of the course own a slot of a mask (R419)? -/
def maskHeld (c : Chip) (k : Nat) (m : BitVec 4) : Bool :=
  (courseOf c (courseNo k)).pairs.any (fun p => decide (p.a.kind = 3) && m.toNat.testBit p.a.slot)

/-- WAITL: completes once none of the named slots is in flight; in unison a slot of an engine entry not yet performed
calls a checkpoint (R103, R419). -/
def xWaitl (c0 : Chip) (k : Nat) (rep : Bool) (m : BitVec 4) : Chip :=
  match begin_ c0 k rep (.waitl m) 0 (fun _ => none) with
  | .no => c0
  | .stop c => c
  | .go c fl _ =>
    if !maskBusy c k m then finish c k fl 0 [] [] (nextPc c k)
    else if inUnison c (courseNo k) ∧ isB k = false ∧ maskHeld c k m then callCkpt c0 (courseNo k)
    else c0

/-- The command WAITL on a unit that exists. -/
def execWaitl (k : Nat) (rep : Bool) (m : BitVec 4) (s : State) : Host.Outcome State Fault Refusal :=
  onUnit (isCore k) s (fun c => xWaitl c k rep m)

end Sys2Proof.Machine
end

