-- ==== Sys2Proof/Machine/CoreIo.lean ====
section
/-! DEFINITION. The words with which a string meets channels, events, checkpoints, barriers, CSRs and the cam and profile
engine (R118 to R129, R146, R147, R149, R155, R211, R214 to R218, R304 to R308, R411, R419, R420, R573 to R580). -/

namespace Sys2Proof.Machine

open Sys2Proof

/-! ### SEND and SENDT (R292, R294, R304, R308, R323) -/

/-- BADHANDLE of a SEND: the handle operand is on top, the word beneath it. -/
def sendTrap (c : Chip) (k : Nat) (ops : List Word) : Option (Nat × Bool × Nat) :=
  match sendSlot c k (ops.getD 0 0) (ops.getD 1 0) with
  | none => some (0x09, false, (ops.getD 0 0).toNat)
  | some _ => none

/-- The entry of a send; `place` whether it holds a reserved place. -/
def sendEntry (c : Chip) (k : Nat) (h v : Word) (place : Bool) : Entry := ⟨1, h.toNat, 4, v, 0, 0, 0, wordPc c k, false, place⟩

/-- Is there a place, or on a stream channel a credit, to take (R211, R304, R308)? -/
def placeFree (c : Chip) (s : Nat) : Bool :=
  let h := chanOf c s
  if h.kind = 1 then decide (0 < h.credit) else decide (0 < chFree h)

/-- May a new SEND take a place: one is free, and no SEND waits before it (R304)? -/
def placeNow (c : Chip) (s : Nat) : Bool := placeFree c s && (chanOf c s).sends.isEmpty

/-- Reserves a place; on a stream channel this consumes the credit (R211, R308). -/
def reservePlace (c : Chip) (s : Nat) : Chip :=
  updChan c s (fun h => { h with reserved := h.reserved + 1, credit := if h.kind = 1 then h.credit - 1 else h.credit })

/-- Starts to wait inside a word: its fills are performed, its operands stay until it completes. -/
def startWait (c : Chip) (k : Nat) (f : Fills) (w : Wait) : Chip :=
  updCore (fillUp c k f) k (fun r => { r with wait := some w })

/-- A SEND of a course in unison places its entry, with a place reserved. -/
def sendPlaced (c : Chip) (s k : Nat) (h v : Word) : Chip := placeEntry (reservePlace c s) k (sendEntry c k h v true)

/-- A stream item is accepted, with the credit it spends. -/
def sendStream (c : Chip) (s k : Nat) (v : Word) : Chip :=
  chPushWord (updChan (itemSent c k s) s (fun h => { h with credit := h.credit - 1 })) s v false

/-- A SEND or SENDT that waits ends on a broken channel: nothing is pushed, and the status a SENDT pushes is an open value
(R323). In unison the SEND places its entry without a place; its word is lost at release (R211). -/
def sendEnds (c : Chip) (s k : Nat) : Chip :=
  match (coreOf c k).wait with
  | none => c
  | some w =>
    if w.kind = 5 then
      let (c, st) := fresh (sendBroken c s k)
      completeWait c k [st]
    else if inUnison c (courseNo k) then completeWait (placeEntry c k (sendEntry c k w.arg w.val false)) k []
    else completeWait (sendBroken c s k) k []

/-- Ends the strings waiting on a channel that has become BROKEN (R323). -/
def breakWaits (c : Chip) (s : Nat) : Chip :=
  let h := chanOf c s
  let c := updChan c s (fun h => { h with sends := [], recvs := [] })
  let c := h.recvs.foldl (fun c k =>
    completeWait (recvBroken (logWait c k 0x31 (waitHandle c k) [0xFFFFFFFF] none) s k) k [0xFFFFFFFF]) c
  h.sends.foldl (fun c k => sendEnds c s k) c

/-- A gate closes: every channel with its queue in the domain becomes BROKEN (R323). -/
def breakChannels (c : Chip) (p : Nat) : Chip :=
  (chansOfPeg c p).foldl (fun c s => breakWaits (updChan c s (fun h => { h with broken := true })) s) c

/-- A SEND that finds no place or credit waits for one behind those that already do (R304). -/
def sendWait (c : Chip) (s k : Nat) (fl : Fills) (h v : Word) : Chip :=
  updChan (startWait c k fl ⟨4, h, v, 2, true⟩) s (fun r => { r with sends := r.sends ++ [k] })

/-- SEND. In unison it reserves a place and places an entry; otherwise a stream item is accepted at once where a credit is
held, and a mailbox item is on its way to the home engine. A SEND of a course in unison that has to wait calls a checkpoint
first (R218). -/
def xSend (c0 : Chip) (k : Nat) (rep : Bool) : Chip :=
  match begin_ c0 k rep .send (entries c0 k) (sendTrap c0 k) with
  | .no => c0
  | .stop c => c
  | .go c fl ops =>
    let h := ops.getD 0 0
    let v := ops.getD 1 0
    let s := h.toNat % 4096
    let last (c : Chip) : Chip := finish c k fl 2 [] [] (nextPc c k)
    if inUnison c (courseNo k) then
      if isB k ∨ (chanOf c s).broken then last (placeEntry c k (sendEntry c k h v false))
      else if placeNow c s then last (sendPlaced c s k h v)
      else if ckptFirst c k then callOwn c0 k
      else sendWait c s k fl h v
    else if (chanOf c s).broken then last (sendBroken c s k)
    else if (chanOf c s).kind = 1 then
      if chFlushing c s ∨ itemHeld c k s then c0
      else if placeNow c s then last (sendStream c s k v)
      else sendWait c s k fl h v
    else startWait c k fl ⟨4, h, v, 2, false⟩

/-- The command SEND on a unit that exists. -/
def execSend (k : Nat) (rep : Bool) (s : State) : Host.Outcome State Fault Refusal :=
  onUnit (isCore k) s (fun c => xSend c k rep)

/-- SENDT: pushes 1 when sent, 0 when full. On a broken channel nothing is sent and BUSOFF is raised; the status pushed
is an open value. In unison string A decides, and the status is carried to string B (R211, R213). -/
def xSendt (c0 : Chip) (k : Nat) (rep : Bool) : Chip :=
  match begin_ c0 k rep .sendt (entries c0 k) (sendTrap c0 k) with
  | .no => c0
  | .stop c => c
  | .go c fl ops =>
    let h := ops.getD 0 0
    let v := ops.getD 1 0
    let s := h.toNat % 4096
    let last (c : Chip) (st : Word) : Chip := finish c k fl 2 [st] [] (nextPc c k)
    if inUnison c (courseNo k) then
      match reader c k false true 0x32 h.toNat 4 with
      | .given c vals _ =>
        let st := vals.getD 0 0
        last (if st = 1 then placeEntry c k (sendEntry c k h v false) else c) st
      | .no => c0
      | .stop c => c
      | _ =>
        if (chanOf c s).broken then
          let (c, st) := fresh (sendBroken c s k)
          last (logRead c k false 0x32 h.toNat 4 0 [st] true none) st
        else if placeNow c s then
          let c := sendPlaced c s k h v
          last (logRead c k false 0x32 h.toNat 4 0 [1] true none) 1
        else last (logRead c k false 0x32 h.toNat 4 0 [0] true none) 0
    else if (chanOf c s).broken then
      let (c, st) := fresh (sendBroken c s k)
      last c st
    else if (chanOf c s).kind = 1 then
      if itemHeld c k s then c0
      else if placeNow c s then last (sendStream c s k v) 1 else last c 0
    else startWait c k fl ⟨5, h, v, 2, false⟩

/-- The command SENDT on a unit that exists. -/
def execSendt (k : Nat) (rep : Bool) (s : State) : Host.Outcome State Fault Refusal :=
  onUnit (isCore k) s (fun c => xSendt c k rep)

/-! ### RECV and RECVT (R146, R291, R294, R305, R307, R319) -/

/-- BADHANDLE of a RECV. String B takes what string A received, whatever has become of the channel since. -/
def recvTrap (c : Chip) (k : Nat) (ops : List Word) : Option (Nat × Bool × Nat) :=
  if inUnison c (courseNo k) && isB k && orderRun c k then none
  else match recvSlot c k (ops.getD 0 0) with
    | none => some (0x09, false, (ops.getD 0 0).toNat)
    | some _ => none

/-- POISON of a received word, taken after the word and recorded as precise (R146). `ipc` is the receiving word. -/
def recvPoison (c : Chip) (k ipc hd : Nat) : Chip :=
  trapEntry c k { cause := 0x14, retPc := resumePc c k, ipc := ipc, rpt := (coreOf c k).rep.isSome, addr := hd }

/-- The mark a poisoned word carries in the read log to string B. -/
def poisonMark (hd : Nat) : ITrap := ⟨0x14, false, 0, 0, 0, hd, false⟩

/-- RECV and RECVT once their item is decided: what string A or the string itself takes from a channel. -/
inductive Item where
  | word (c : Chip) (w : Word) (poisoned : Bool)
  | broken (c : Chip)
  | empty

/-- Takes the next item of a channel for a string; a RECV that is parked there receives the next item before it (R310). -/
def recvItem (c : Chip) (k s : Nat) : Item :=
  let h := chanOf c s
  if h.broken then .broken (recvBroken c s k)
  else if chReady h ∧ h.recvs = [] then
    let (c, w, p) := chTake (itemGiven c k s) s
    .word c w p
  else .empty

/-- RECV. -/
def xRecv (c0 : Chip) (k : Nat) (rep : Bool) : Chip :=
  match begin_ c0 k rep .recv 0 (recvTrap c0 k) with
  | .no => c0
  | .stop c => c
  | .go c fl ops =>
    let h := ops.getD 0 0
    let s := h.toNat % 4096
    let ipc := wordPc c k
    let note (c : Chip) (w : Word) (p : Bool) : Chip :=
      if inUnison c (courseNo k) then
        logRead c k true 0x31 h.toNat 0 0 [w] true (if p then some (poisonMark h.toNat) else none)
      else c
    let last (c : Chip) (w : Word) (p : Bool) : Chip :=
      let c := finish c k fl 1 [w] [] (nextPc c k)
      if p then recvPoison c k ipc h.toNat else c
    match reader c k true true 0x31 h.toNat 0 with
    | .given c vals t => last c (vals.getD 0 0) t.isSome
    | .no => c0
    | .stop c => c
    | _ =>
      if popHeld c k s then c0 else
      match recvItem c k s with
      | .word c w p => last (note c w p) w p
      | .broken c => last (note c 0xFFFFFFFF false) 0xFFFFFFFF false
      | .empty =>
        if ckptFirst c k then callOwn c0 k
        else updChan (startWait c k fl ⟨6, h, 0, 1, true⟩) s (fun r => { r with recvs := r.recvs ++ [k] })

/-- The command RECV on a unit that exists. -/
def execRecv (k : Nat) (rep : Bool) (s : State) : Host.Outcome State Fault Refusal :=
  onUnit (isCore k) s (fun c => xRecv c k rep)

/-- RECVT: the status on top, the word beneath. -/
def xRecvt (c0 : Chip) (k : Nat) (rep : Bool) : Chip :=
  match begin_ c0 k rep .recvt 0 (recvTrap c0 k) with
  | .no => c0
  | .stop c => c
  | .go c fl ops =>
    let h := ops.getD 0 0
    let s := h.toNat % 4096
    let ipc := wordPc c k
    let note (c : Chip) (w st : Word) (p : Bool) : Chip :=
      if inUnison c (courseNo k) then
        logRead c k true 0x33 h.toNat 0 0 [w, st] true (if p then some (poisonMark h.toNat) else none)
      else c
    let last (c : Chip) (w st : Word) (p : Bool) : Chip :=
      let c := finish c k fl 1 [st, w] [] (nextPc c k)
      if p then recvPoison c k ipc h.toNat else c
    match reader c k true true 0x33 h.toNat 0 with
    | .given c vals t => last c (vals.getD 0 0) (vals.getD 1 0) t.isSome
    | .no => c0
    | .stop c => c
    | _ =>
      if popHeld c k s then c0 else
      match recvItem c k s with
      | .word c w p => last (note c w 1 p) w 1 p
      | .broken c => last (note c 0xFFFFFFFF 0 false) 0xFFFFFFFF 0 false
      | .empty => last (note c 0 0 false) 0 0 false

/-- The command RECVT on a unit that exists. -/
def execRecvt (k : Nat) (rep : Bool) (s : State) : Host.Outcome State Fault Refusal :=
  onUnit (isCore k) s (fun c => xRecvt c k rep)

/-! ### SLEEP, WAIT, CKPT (R123, R147, R216, R218, R220, R580) -/

/-- A word that waits for an event (R580): it completes at once where a source is presented. `push` is what it pushes
then; string B completes where string A does, with the outcome carried in the log (R216). -/
def eventWord (c0 : Chip) (k : Nat) (rep : Bool) (op : CoreOp) (code kind : Nat) (push : List Word) : Chip :=
  match begin_ c0 k rep op 0 (fun _ => none) with
  | .no => c0
  | .stop c => c
  | .go c fl ops =>
    let t := (opEffect op).1
    let last (c : Chip) (l : List Word) : Chip := finish c k fl t l [] (nextPc c k)
    match reader c k false true code 0 0 with
    | .given c vals _ => last c vals
    | .no => c0
    | .stop c => c
    | _ =>
      if ckptFirst c k then callOwn c0 k
      else if reqUp c k then
        last (if inUnison c (courseNo k) then logRead c k false code 0 0 0 push true none else c) push
      else startWait c k fl ⟨kind, ops.getD 0 0, 0, t, false⟩

/-- SLEEP. -/
def xSleep (c : Chip) (k : Nat) : Chip := eventWord c k false .sleep 0x39 1 []

/-- The command SLEEP on a unit that exists. -/
def execSleep (k : Nat) (s : State) : Host.Outcome State Fault Refusal :=
  onUnit (isCore k) s (fun c => xSleep c k)

/-- WAIT: with T = 1 the deadline is the operand, and 1 is pushed for an event (R147). -/
def xWait (c : Chip) (k : Nat) (t : Bool) : Chip :=
  eventWord c k false (.wait t) 0x38 (if t then 3 else 2) (if t then [1] else [])

/-- The command WAIT on a unit that exists. -/
def execWait (k : Nat) (t : Bool) (s : State) : Host.Outcome State Fault Refusal :=
  onUnit (isCore k) s (fun c => xWait c k t)

/-- CKPT: in unison a checkpoint after the word; no effect in split (R143, R220). -/
def xCkpt (c : Chip) (k : Nat) : Chip :=
  match begin_ c k false .ckpt 0 (fun _ => none) with
  | .no => c
  | .stop c => c
  | .go c fl _ =>
    let c := finish c k fl 0 [] [] (nextPc c k)
    if inUnison c (courseNo k) && !isB k then callCkpt c (courseNo k) else c

/-- The command CKPT on a unit that exists. -/
def execCkpt (k : Nat) (s : State) : Host.Outcome State Fault Refusal :=
  onUnit (isCore k) s (fun c => xCkpt c k)

/-! ### Barriers (R109, R117, R118, R121, R202, R218) -/

/-- Is what a barrier waits for done: 0 FENCE, 1 SYNC, 2 IFENCE? -/
def barrierDone (c : Chip) (k kind : Nat) : Bool :=
  let r := coreOf c k
  if kind = 2 then r.sbuf.isEmpty
  else r.flights.isEmpty && r.sbuf.isEmpty && !r.bus.any (fun q => decide (q.kind = 1) && decide (q.slot < 4))

/-- What a barrier does when it completes (R121). -/
def barrierEnd (c : Chip) (k kind : Nat) : Chip :=
  let c := if kind = 1 then applyPend c k else c
  if kind = 0 then c else updCore c k (fun r => { r with lines := [] })

/-- A waiting barrier completes once everything it waits for is done (R109), in string A of a course in unison once the
checkpoint it has called is made (R218). -/
def barrierCheck (c : Chip) (k : Nat) : Chip :=
  match (coreOf c k).wait with
  | some w =>
    if w.kind = 7 ∧ ckptFirst c k = false ∧ barrierDone c k w.arg.toNat then barrierEnd (completeWait c k []) k w.arg.toNat else c
  | none => c

/-- A barrier. In unison a FENCE or SYNC calls a checkpoint at itself and waits for it, and an IFENCE does where stores of the
string are held: a trap that the release or a landing raises there is taken behind the barrier (R109, R121, R218). -/
def barrierWord (c0 : Chip) (k : Nat) (op : CoreOp) (kind : Nat) : Chip :=
  match begin_ c0 k false op 0 (fun _ => none) with
  | .no => c0
  | .stop c => c
  | .go c fl _ =>
    if ckptFirst c k ∧ (kind ≠ 2 ∨ (pendStores c k).isEmpty = false) then
      callOwn (startWait c k fl ⟨7, wd kind, 0, 0, false⟩) k
    else if barrierDone c k kind then barrierEnd (finish c k fl 0 [] [] (nextPc c k)) k kind
    else startWait c k fl ⟨7, wd kind, 0, 0, false⟩

/-- FENCE. -/
def xFence (c : Chip) (k : Nat) : Chip := barrierWord c k .fence 0

/-- The command FENCE on a unit that exists. -/
def execFence (k : Nat) (s : State) : Host.Outcome State Fault Refusal :=
  onUnit (isCore k) s (fun c => xFence c k)

/-- SYNC. -/
def xSync (c : Chip) (k : Nat) : Chip := barrierWord c k .sync 1

/-- The command SYNC on a unit that exists. -/
def execSync (k : Nat) (s : State) : Host.Outcome State Fault Refusal :=
  onUnit (isCore k) s (fun c => xSync c k)

/-- IFENCE. -/
def xIfence (c : Chip) (k : Nat) : Chip := barrierWord c k .ifence 2

/-- The command IFENCE on a unit that exists. -/
def execIfence (k : Nat) (s : State) : Host.Outcome State Fault Refusal :=
  onUnit (isCore k) s (fun c => xIfence c k)

/-! ### CSRs (R118 to R129, R155 to R158, R173, R189, R194 to R197, R584) -/

/-- LPEND: bit n for a slot with a result in flight. -/
def lpend (c : Chip) (k : Nat) : Nat :=
  (List.range 4).foldl (fun n s => n + b1 (slotBusy c k s) * 2 ^ s) 0

/-- The value of a CSR whose read changes nothing (R125, R126, R99, R196). REPCNT reads 0 outside a repetition; in a handler
that has trapped out of one it reads what remains (R173, R175). -/
def csrRead (c : Chip) (k i : Nat) : Word :=
  let r := coreOf c k
  if i = 0x00 then
    wd (bits (csrVal c k 0) 1 0 + 16 * lpend c k + 256 * b1 (!r.pend.isEmpty) + 512 * b1 (inUnison c (courseNo k)) +
      1024 * b1 c.fixedUnison + 2048 * b1 (isB k) + 65536 * r.stk.length)
  else if i = 0x02 then wd k
  else if i = 0x0B then wd (bits (csrVal c k 0x0B) 0 0 + 256 * r.rsDepth)
  else if i = 0x13 then wd (bits (csrVal c k 0x13) 17 0 + 262144 * b1 (reqUp c k || !r.itraps.isEmpty))
  else if i = 0x1A ∨ i = 0x1B then 0
  else if i = 0x21 then r.tbhi
  else if i = 0x28 then (if r.rep.isSome ∨ bit (csrVal c k 0x13) 16 then csrVal c k i else 0)
  else csrVal c k i

/-- The position of a drone (R128, R451). -/
def dronePos (c : Chip) (d : Nat) : Word := regVal c (drnReg d 0x04)

/-- A CSRR whose value an agreed or logged read brings (R129, R213, R214): `perform` is what string A or the string itself
does, answering the values; `take` is what the string does with them, the first being pushed. -/
def csrReadWord (c0 : Chip) (k : Nat) (rep : Bool) (i : BitVec 8) (logged : Bool)
    (perform : Chip → Chip × List Word) (take : Chip → List Word → Chip) : Chip :=
  match begin_ c0 k rep (.csrr i) 0 (fun _ => none) with
  | .no => c0
  | .stop c => c
  | .go c fl _ =>
    let last (c : Chip) (l : List Word) : Chip := finish (take c l) k fl 0 [l.getD 0 0] [] (nextPc c k)
    match reader c k logged false 0x40 i.toNat 0 with
    | .given c vals _ => last c vals
    | .no => c0
    | .stop c => c
    | .self =>
      let (c, l) := perform c
      last c l
    | .lead =>
      let (c, l) := perform c
      last (logRead c k logged 0x40 i.toNat 0 0 l true none) l

/-- CSRR of a CSR without a behaviour of its own; TBHI is an agreed read in unison (R129, R156). -/
def xCsrr (c : Chip) (k : Nat) (rep : Bool) (i : BitVec 8) : Chip :=
  if i = 0x20 ∨ i = 0x22 ∨ i = 0x1A then c
  else if i = 0x21 then csrReadWord c k rep i false (fun c => (c, [(coreOf c k).tbhi])) (fun c _ => c)
  else plainWord c k rep (.csrr i) 2 (fun c _ => (c, [csrRead c k i.toNat]))

/-- The command CSRR on a unit that exists. -/
def execCsrr (k : Nat) (rep : Bool) (ix : BitVec 8) (s : State) : Host.Outcome State Fault Refusal :=
  onUnit (isCore k) s (fun c => xCsrr c k rep ix)

/-- CSRR of TBLO: the time base, whose upper half enters the holding register (R127). -/
def xCsrrTblo (c : Chip) (k : Nat) (rep : Bool) : Chip :=
  csrReadWord c k rep 0x20 false (fun c => (c, [wd c.tb, wd (c.tb / 2 ^ 32)]))
    (fun c l => updCore c k (fun r => { r with tbhi := l.getD 1 0 }))

/-- The command CSRR_TBLO on a unit that exists. -/
def execCsrrTblo (k : Nat) (rep : Bool) (s : State) : Host.Outcome State Fault Refusal :=
  onUnit (isCore k) s (fun c => xCsrrTblo c k rep)

/-- CSRR of DPOS: the selected drone's position (R128). -/
def xCsrrDpos (c : Chip) (k : Nat) (rep : Bool) : Chip :=
  csrReadWord c k rep 0x22 false (fun c => (c, [dronePos c (coreOf c k).dpos])) (fun c _ => c)

/-- The command CSRR_DPOS on a unit that exists. -/
def execCsrrDpos (k : Nat) (rep : Bool) (s : State) : Host.Outcome State Fault Refusal :=
  onUnit (isCore k) s (fun c => xCsrrDpos c k rep)

/-- CSRR of CLAIM (R575). -/
def xCsrrClaim (c : Chip) (k : Nat) (rep : Bool) : Chip :=
  csrReadWord c k rep 0x1A true (fun c => let (c, w) := claim c k; (c, [w])) (fun c _ => c)

/-- The command CSRR_CLAIM on a unit that exists. -/
def execCsrrClaim (k : Nat) (rep : Bool) (s : State) : Host.Outcome State Fault Refusal :=
  onUnit (isCore k) s (fun c => xCsrrClaim c k rep)

/-- A CSRW: `stores` is 1 where it places an entry in unison; `f` is its effect, made once the operand is removed. -/
def csrWriteWord (c : Chip) (k : Nat) (rep : Bool) (i : BitVec 8) (stores : Nat) (f : Chip → Word → Chip) : Chip :=
  match begin_ c k rep (.csrw i) stores (fun _ => none) with
  | .no => c
  | .stop c => c
  | .go c fl ops => f (finish c k fl 1 [] [] (nextPc c k)) (ops.getD 0 0)

/-- Sets CSTAT.CFGERR. -/
def csrCfgErr (c : Chip) (k : Nat) : Chip := csrPut c k 0x00 (csrVal c k 0x00 ||| 2)

/-- The stored value of a plain CSR after a write (R10, R11, R156). -/
def csrStore (c : Chip) (k i : Nat) (w : Word) : Chip :=
  if i = 0x00 then csrPut c k 0x00 (csrVal c k 0x00 &&& ~~~ (w &&& 3))
  else if i = 0x01 then csrPut c k i (w &&& 0x107)
  else if i = 0x11 then csrPut c k i (w &&& 0x00FF1FFF)
  else if i = 0x12 then csrPut c k i (w &&& 0xFFFE)
  else if i = 0x13 then csrPut c k i (w &&& 0x3FFFF)
  else if i = 0x14 ∨ i = 0x28 ∨ (0x30 ≤ i ∧ i ≤ 0x33) then csrPut c k i w
  else c

/-- CSRW of a CSR without a behaviour of its own; one to a read-only CSR is ignored. -/
def xCsrw (c : Chip) (k : Nat) (rep : Bool) (i : BitVec 8) : Chip :=
  if i = 0x08 ∨ i = 0x09 ∨ i = 0x0A ∨ i = 0x0B ∨ i = 0x10 ∨ i = 0x18 ∨ i = 0x19 ∨ i = 0x1B ∨ i = 0x22 then c
  else csrWriteWord c k rep i 0 (fun c w => csrStore c k i.toNat w)

/-- The command CSRW on a unit that exists. -/
def execCsrw (k : Nat) (rep : Bool) (ix : BitVec 8) (s : State) : Host.Outcome State Fault Refusal :=
  onUnit (isCore k) s (fun c => xCsrw c k rep ix)

/-- Is a CSR's write deferred (R118)? -/
def isDeferred (i : Nat) : Bool := i = 0x08 || i = 0x09 || i = 0x0B || i = 0x10 || i = 0x18

/-- The value a deferred write holds pending, and whether a reserved value was written (R92, R99, R120, R189, R584). -/
def deferVal (c : Chip) (k i : Nat) (w : Word) : Word × Bool :=
  let a := w.toNat % 65536 / 4 * 4
  if i = 0x08 then (if 0x4000 ≤ a ∧ a ≤ 0x7FFC then (wd a, false) else (csrReset c k i, true))
  else if i = 0x09 then (if 0x4000 ≤ a ∧ a ≤ 0x8000 then (wd a, false) else (csrReset c k i, true))
  else if i = 0x10 then (w &&& 0x7FF0, false)
  else (w &&& 1, false)

/-- CSRW of SBASE, SLIMIT, RSCTL, TRAPVEC or IMASK: held pending (R118). -/
def xCsrwDeferred (c : Chip) (k : Nat) (rep : Bool) (i : BitVec 8) : Chip :=
  if isDeferred i.toNat then
    csrWriteWord c k rep i 0 (fun c w =>
      let (v, bad) := deferVal c k i.toNat w
      let c := if bad then csrCfgErr c k else c
      updCore c k (fun r => { r with pend := Tbl.ins r.pend i.toNat v }))
  else c

/-- The command CSRW_DEFERRED on a unit that exists. -/
def execCsrwDeferred (k : Nat) (rep : Bool) (ix : BitVec 8) (s : State) : Host.Outcome State Fault Refusal :=
  onUnit (isCore k) s (fun c => xCsrwDeferred c k rep ix)

/-- CSRW of SPTR: the operand is removed first (R92, R94). -/
def xCsrwSptr (c : Chip) (k : Nat) (rep : Bool) : Chip :=
  csrWriteWord c k rep 0x0A 0 (fun c w =>
    let a := w.toNat % 65536 / 4 * 4
    if 0x4000 ≤ a ∧ a ≤ 0x8000 then csrPut c k 0x0A (wd a)
    else csrCfgErr (csrPut c k 0x0A (csrReset c k 0x0A)) k)

/-- The command CSRW_SPTR on a unit that exists. -/
def execCsrwSptr (k : Nat) (rep : Bool) (s : State) : Host.Outcome State Fault Refusal :=
  onUnit (isCore k) s (fun c => xCsrwSptr c k rep)

/-- CSRW of DPOS: selects a drone (R128). -/
def xCsrwDpos (c : Chip) (k : Nat) (rep : Bool) : Chip :=
  csrWriteWord c k rep 0x22 0 (fun c w => updCore c k (fun r => { r with dpos := w.toNat % 16 }))

/-- The command CSRW_DPOS on a unit that exists. -/
def execCsrwDpos (k : Nat) (rep : Bool) (s : State) : Host.Outcome State Fault Refusal :=
  onUnit (isCore k) s (fun c => xCsrwDpos c k rep)

/-- CSRW of COMPLETE: in unison an entry (R205, R576). -/
def xCsrwComplete (c : Chip) (k : Nat) (rep : Bool) : Chip :=
  let ipc := wordPc c k
  csrWriteWord c k rep 0x1B (entries c k) (fun c w =>
    if inUnison c (courseNo k) then placeEntry c k ⟨2, 0, 4, w, 0, 0, 0, ipc, false, false⟩
    else completeBy c (eventId c k) w)

/-- The command CSRW_COMPLETE on a unit that exists. -/
def execCsrwComplete (k : Nat) (rep : Bool) (s : State) : Host.Outcome State Fault Refusal :=
  onUnit (isCore k) s (fun c => xCsrwComplete c k rep)

/-- CSRW of CPL: applied to eligibility at once (R573, R584). -/
def xCsrwCpl (c : Chip) (k : Nat) (rep : Bool) : Chip := csrWriteWord c k rep 0x19 0 (fun c w => setCpl c k w)

/-- The command CSRW_CPL on a unit that exists. -/
def execCsrwCpl (k : Nat) (rep : Bool) (s : State) : Host.Outcome State Fault Refusal :=
  onUnit (isCore k) s (fun c => xCsrwCpl c k rep)

/-! ### The coprocessor block (R149, R401, R411, R413 to R415, R419, R420) -/

/-- The cluster whose engine a core reaches. -/
def camOfCore (k : Nat) : Nat := clusterOf (courseNo k)

/-- Is an engine's domain, its cluster's upper peg, on (R23, R399)? -/
def camOn (c : Chip) (e : Nat) : Bool := gateOpen c (2 * e + 1)

/-- Appends an operation to an engine's queue. -/
def camPush (c : Chip) (e : Nat) (o : CamOp) : Chip := updCam c e (fun m => { m with queue := m.queue ++ [o] })

/-- May a CAMLD be accepted: no earlier copy of the engine runs or is to come (R414)? -/
def camldFree (m : Cam) : Bool := m.copy.isNone && !m.queue.any (fun o => decide (o.op = 6) && decide (o.kind = 0))

/-- The released operations that each string offers next, in the strings' program order (R401, R419). -/
def headOffers : List CamOp → List CamOp
  | [] => []
  | o :: t => o :: (headOffers t).filter (fun x => decide (x.who ≠ o.who))

/-- Does a requester that had to wait still offer its operation: the lane's next note is the same, the core still stands at the
word? -/
def waitLive (c : Chip) (w : CamWait) : Bool :=
  if w.lane then (match (Tbl.get {} c.tab.lanes w.who).q with | j :: _ => decide (j.no = w.at_) | [] => false)
  else running c w.who && decide ((coreOf c w.who).pc = w.at_)

/-- The cores whose strings offer an operation that the engine could accept. -/
def camStrings (c : Chip) (e : Nat) : List Nat :=
  let m := camOf c e
  (m.waits.filter (fun w => !w.lane && waitLive c w && (!w.ld || camldFree m))).map (fun w => w.who) ++
    ((headOffers m.offers).filter (fun o => decide (o.op ≠ 6) || camldFree m)).map (fun o => o.who)

/-- Is an address a register of a cam and profile engine that holds operations, so that an access waits for its turn (R401,
R423)? -/
def camBusy (c : Chip) (a : Nat) : Bool :=
  let e := (a - 0x60200000) / 0x100
  decide (0x60200000 ≤ a) && decide (a < 0x60202000) && decide (0x40 ≤ a % 0x100) && decide (a % 0x100 < 0x60) &&
    camOn c e && !(camOf c e).queue.isEmpty

/-- Does a request of the tablature-engine class wait: a CAMOUT of a lane, or the host's REG_READ or REG_WRITE of an engine
register (R401)? -/
def camFirst (c : Chip) (e : Nat) : Bool :=
  (camOf c e).waits.any (fun w => w.lane && waitLive c w) ||
    (match c.cur with
      | some p => (decide (p.opcode = 0x17) || decide (p.opcode = 0x18)) && decide ((p.p2.toNat - 0x60200000) / 0x100 = e) && camBusy c p.p2.toNat
      | none => false)

/-- A core's place in the round behind the string last accepted (R401). -/
def camRank (m : Cam) (k : Nat) : Nat := (k % 16 + 31 - m.rr) % 16

/-- Does the arbiter accept an operation of core `k`: a place in the queue of 8, for CAMLD no earlier copy, no request of the
tablature-engine class before it, and the core's turn (R401, R414)? -/
def camAccepts (c : Chip) (e k op : Nat) : Bool :=
  let m := camOf c e
  decide (m.queue.length < 8) && (decide (op ≠ 6) || camldFree m) && !camFirst c e &&
    (camStrings c e).all (fun y => decide (camRank m k ≤ camRank m y))

/-- Does the engine accept an operation of a core's word: not before one of the string that has been released (R401)? -/
def camTakes (c : Chip) (k op : Nat) : Bool :=
  let e := camOfCore k
  !(camOf c e).offers.any (fun o => decide (o.who = k)) && camAccepts c e k op

/-- A requester waits for the engine. -/
def camWait (c : Chip) (e : Nat) (w : CamWait) : Chip :=
  updCam c e (fun m => { m with waits := m.waits.filter (fun x => !(x.lane == w.lane && x.who == w.who)) ++ [w] })

/-- A core's word waits in execute for the engine (R149). -/
def coreCamWait (c : Chip) (k op : Nat) : Chip :=
  camWait c (camOfCore k) ⟨false, k, (coreOf c k).pc, decide (op = 6)⟩

/-- A requester waits no longer. -/
def camWaitEnd (c : Chip) (e : Nat) (lane : Bool) (who : Nat) : Chip :=
  updCam c e (fun m => { m with waits := m.waits.filter (fun x => !(x.lane == lane && x.who == who)) })

/-- An operation of a string is accepted. -/
def camTake (c : Chip) (e : Nat) (o : CamOp) : Chip :=
  camPush (updCam (camWaitEnd c e false o.who) e (fun m => { m with rr := o.who % 16 })) e o

/-- Released operations that the engine can accept are accepted, each in its turn; the first argument is fuel (R401, R419). -/
def camAdmit : Nat → Chip → Nat → Chip
  | 0, c, _ => c
  | n + 1, c, e =>
    match (headOffers (camOf c e).offers).find? (fun o => camAccepts c e o.who o.op) with
    | some o => camAdmit n (camTake (updCam c e (fun m => { m with offers := m.offers.erase o })) e o) e
    | none => c

/-- Accepts what can be accepted of the released operations. -/
def camAdmitAll (c : Chip) (e : Nat) : Chip := camAdmit (camOf c e).offers.length c e

/-- The flight of an operation that meets the engine's domain off: BUSOFF, every slot 0xFFFFFFFF (R149, R268, R413). TRAPADDR of
such a trap is not stated: an open value. -/
def offFlight (c : Chip) (k op slot : Nat) (wide : Bool) : Chip :=
  let (c, a) := fresh (offMet c k (2 * camOfCore k + 1))
  addFlight c k { readyFlight c k (0x70 + op) slot wide 0xFFFFFFFF 0xFFFFFFFF with trap := 0x10, taddr := a.toNat }

/-- Issues an operation to the engine for a core. -/
def camIssue (c : Chip) (k op slot sel a n : Nat) (wide : Bool) : Chip :=
  let e := camOfCore k
  if camOn c e then
    camTake (addFlight c k { readyFlight c k (0x70 + op) slot wide 0 0 with ready := false }) e ⟨0, k, op, slot, sel, a, n, 0⟩
  else offFlight c k op slot wide

/-- An operation that changes engine state: CPWR, CAMOFS, CAMLD; in unison an entry (R205, R419). A CAMLD waits for the
string's earlier stores (R415). -/
def cpStateWord (c0 : Chip) (k : Nat) (rep : Bool) (op slot sel : Nat) (cop : CoreOp) (arg : List Word → Nat × Nat) : Chip :=
  match begin_ c0 k rep cop (entries c0 k) (fun _ => none) with
  | .no => c0
  | .stop c => c
  | .go c fl ops =>
    let (a, n) := arg ops
    let last (c : Chip) : Chip := finish c k fl (opEffect cop).1 [] [] (nextPc c k)
    if slotBusy c k slot then c0
    else if inUnison c (courseNo k) then
      let c := addFlight c k { readyFlight c k (0x70 + op) slot false 0 0 with ready := false }
      last (placeEntry c k ⟨3, sel, 4, wd a, wd n, op, slot, wordPc c k, false, false⟩)
    else if op = 6 ∧ drained c k = false then c0
    else if camOn c (camOfCore k) ∧ camTakes c k op = false then coreCamWait c0 k op
    else last (camIssue c k op slot sel a n false)

/-- An operation that only reads the engine: CPRD, CAMEV, CAMEV2, CAMEVD, CPSYNC; an agreed read (R213, R419, R420). -/
def cpReadWord (c0 : Chip) (k : Nat) (rep : Bool) (op slot sel : Nat) (cop : CoreOp) (wide : Bool) : Chip :=
  match begin_ c0 k rep cop 0 (fun _ => none) with
  | .no => c0
  | .stop c => c
  | .go c fl ops =>
    let a := (ops.getD 0 0).toNat
    let last (c : Chip) : Chip := finish c k fl (opEffect cop).1 [] [] (nextPc c k)
    let addr := sel + 32 * slot
    if slotsBusy c k slot wide then c0
    else if inUnison c (courseNo k) ∧ isB k = false ∧
        (courseOf c (courseNo k)).pairs.any (fun p => decide (p.a.kind = 3)) then callCkpt c0 (courseNo k)
    else
      match reader c k false false (0x70 + op) addr a with
      | .given c vals t => last (addFlight c k (givenFlight c k (0x70 + op) slot wide vals t))
      | .no => c0
      | .stop c => c
      | .self =>
        if camOn c (camOfCore k) ∧ camTakes c k op = false then coreCamWait c0 k op
        else last (camIssue c k op slot sel a 0 wide)
      | .lead =>
        if camOn c (camOfCore k) ∧ camTakes c k op = false then coreCamWait c0 k op
        else last (logRead (camIssue c k op slot sel a 0 wide) k false (0x70 + op) addr a slot [] false none)

/-- CPWR. -/
def xCpwr (c : Chip) (k : Nat) (rep : Bool) (slot : BitVec 2) (sel : BitVec 5) : Chip :=
  cpStateWord c k rep 0 slot.toNat sel.toNat (.cp 0 slot sel) (fun ops => ((ops.getD 0 0).toNat, 0))

/-- The command CPWR on a unit that exists. -/
def execCpwr (k : Nat) (rep : Bool) (slot : BitVec 2) (sel : BitVec 5) (s : State) :
    Host.Outcome State Fault Refusal :=
  onUnit (isCore k) s (fun c => xCpwr c k rep slot sel)

/-- CPRD. -/
def xCprd (c : Chip) (k : Nat) (rep : Bool) (slot : BitVec 2) (sel : BitVec 5) : Chip :=
  cpReadWord c k rep 1 slot.toNat sel.toNat (.cp 1 slot sel) false

/-- The command CPRD on a unit that exists. -/
def execCprd (k : Nat) (rep : Bool) (slot : BitVec 2) (sel : BitVec 5) (s : State) :
    Host.Outcome State Fault Refusal :=
  onUnit (isCore k) s (fun c => xCprd c k rep slot sel)

/-- CAMEV. -/
def xCamev (c : Chip) (k : Nat) (rep : Bool) (slot : BitVec 2) (sel : BitVec 5) : Chip :=
  cpReadWord c k rep 2 slot.toNat sel.toNat (.cp 2 slot sel) false

/-- The command CAMEV on a unit that exists. -/
def execCamev (k : Nat) (rep : Bool) (slot : BitVec 2) (sel : BitVec 5) (s : State) :
    Host.Outcome State Fault Refusal :=
  onUnit (isCore k) s (fun c => xCamev c k rep slot sel)

/-- CAMEV2. -/
def xCamev2 (c : Chip) (k : Nat) (rep : Bool) (slot : BitVec 2) (sel : BitVec 5) : Chip :=
  cpReadWord c k rep 3 slot.toNat sel.toNat (.cp 3 slot sel) true

/-- The command CAMEV2 on a unit that exists. -/
def execCamev2 (k : Nat) (rep : Bool) (slot : BitVec 2) (sel : BitVec 5) (s : State) :
    Host.Outcome State Fault Refusal :=
  onUnit (isCore k) s (fun c => xCamev2 c k rep slot sel)

/-- CAMEVD. -/
def xCamevd (c : Chip) (k : Nat) (rep : Bool) (slot : BitVec 2) (sel : BitVec 5) : Chip :=
  cpReadWord c k rep 4 slot.toNat sel.toNat (.cp 4 slot sel) true

/-- The command CAMEVD on a unit that exists. -/
def execCamevd (k : Nat) (rep : Bool) (slot : BitVec 2) (sel : BitVec 5) (s : State) :
    Host.Outcome State Fault Refusal :=
  onUnit (isCore k) s (fun c => xCamevd c k rep slot sel)

/-- CAMOFS. -/
def xCamofs (c : Chip) (k : Nat) (rep : Bool) (slot : BitVec 2) (sel : BitVec 5) : Chip :=
  cpStateWord c k rep 5 slot.toNat sel.toNat (.cp 5 slot sel) (fun ops => ((ops.getD 0 0).toNat, 0))

/-- The command CAMOFS on a unit that exists. -/
def execCamofs (k : Nat) (rep : Bool) (slot : BitVec 2) (sel : BitVec 5) (s : State) :
    Host.Outcome State Fault Refusal :=
  onUnit (isCore k) s (fun c => xCamofs c k rep slot sel)

/-- CAMLD: the address is the deeper operand, the byte count on top. -/
def xCamld (c : Chip) (k : Nat) (rep : Bool) (slot : BitVec 2) (sel : BitVec 5) : Chip :=
  cpStateWord c k rep 6 slot.toNat sel.toNat (.cp 6 slot sel) (fun ops => ((ops.getD 1 0).toNat, (ops.getD 0 0).toNat))

/-- The command CAMLD on a unit that exists. -/
def execCamld (k : Nat) (rep : Bool) (slot : BitVec 2) (sel : BitVec 5) (s : State) :
    Host.Outcome State Fault Refusal :=
  onUnit (isCore k) s (fun c => xCamld c k rep slot sel)

/-- CPSYNC. -/
def xCpsync (c : Chip) (k : Nat) (rep : Bool) (slot : BitVec 2) (sel : BitVec 5) : Chip :=
  cpReadWord c k rep 7 slot.toNat sel.toNat (.cp 7 slot sel) false

/-- The command CPSYNC on a unit that exists. -/
def execCpsync (k : Nat) (rep : Bool) (slot : BitVec 2) (sel : BitVec 5) (s : State) :
    Host.Outcome State Fault Refusal :=
  onUnit (isCore k) s (fun c => xCpsync c k rep slot sel)

end Sys2Proof.Machine
end

