-- ==== Sys2Proof/Machine/Cam.lean ====
section
/-! DEFINITION. The cam and profile engines (R399 to R429, R718): tables, evaluation, engine registers, table copies. -/

namespace Sys2Proof.Machine

open Sys2Proof

/-! ### CRC-32 (R332) -/

/-- One bit of the reflected CRC-32 of IEEE 802.3. -/
def crcBit (r : Word) : Word := if bit r 0 then (r >>> 1) ^^^ 0xEDB88320 else r >>> 1

/-- One byte. -/
def crcByte (r : Word) (b : Byte) : Word :=
  crcBit (crcBit (crcBit (crcBit (crcBit (crcBit (crcBit (crcBit (r ^^^ b.setWidth 32))))))))

/-- CRC-32 of a byte string: initial value and final XOR 0xFFFF_FFFF. -/
def crc32 (l : List Byte) : Word := (l.foldl crcByte 0xFFFFFFFF) ^^^ 0xFFFFFFFF

/-! ### Tables (R403, R404) -/

/-- A little-endian field of a byte string. -/
def fieldAt (l : List Byte) (off : Nat) : Nat → Nat
  | 0 => 0
  | n + 1 => (l.getD off 0).toNat + 256 * fieldAt l (off + 1) n

/-- A signed word of a byte string. -/
def sfieldAt (l : List Byte) (off : Nat) : Int := sgn (wd (fieldAt l off 4))

/-- INTERP: cubic. -/
def camCubic (l : List Byte) : Bool := (l.getD 2 0).toNat.testBit 0

/-- PER: periodic. -/
def camPer (l : List Byte) : Bool := (l.getD 2 0).toNat.testBit 1

/-- DRONE. -/
def camDrone (l : List Byte) : Nat := (l.getD 3 0).toNat

/-- X0. -/
def camX0 (l : List Byte) : Nat := fieldAt l 4 2

/-- DX. -/
def camDx (l : List Byte) : Nat := fieldAt l 6 2

/-- NPTS. -/
def camNpts (l : List Byte) : Nat := fieldAt l 8 4

/-- LIFT. -/
def camLift (l : List Byte) : Int := sfieldAt l 0x0C

/-- The phase steps the points span. -/
def camSpan (l : List Byte) : Nat := (camNpts l - 1) * camDx l

/-- Byte offset of a point. -/
def camPointOff (l : List Byte) (i : Nat) : Nat := 32 + (if camCubic l then 8 else 4) * i

/-- Y of a point. -/
def camY (l : List Byte) (i : Nat) : Int := sfieldAt l (camPointOff l i)

/-- M of a point; a linear table has none. -/
def camM (l : List Byte) (i : Nat) : Int := if camCubic l then sfieldAt l (camPointOff l i + 4) else 0

/-- Is a table valid: format, ranges, check sum and size (R403, R404)? -/
def camValid (l : List Byte) : Bool :=
  let n := camNpts l
  let cubic := camCubic l
  decide (32 ≤ l.length) && decide (fieldAt l 0 2 = 0x4D43) && decide ((l.getD 2 0).toNat < 4) && decide (camDrone l < 16) &&
    decide (1 ≤ camDx l) && decide (2 ≤ n) && decide (n ≤ if cubic then 16380 else 32760) &&
    (if camPer l then decide (camSpan l ≤ 65535) else decide (camX0 l + camSpan l ≤ 65535) && decide (fieldAt l 0x0C 4 = 0)) &&
    decide (fieldAt l 0x10 4 = 32 + (if cubic then 8 else 4) * n) && decide (l.length = fieldAt l 0x10 4) &&
    decide (fieldAt l 0x14 8 = 0) &&
    decide (wd (fieldAt l 0x1C 4) = crc32 (l.take 0x1C ++ [0, 0, 0, 0] ++ l.drop 0x20)) && decide (l.length ≤ 0x20000)

/-! ### Evaluation (R405 to R407) -/

/-- Where an evaluation falls: a point out of the table's range, or a segment with its ends, length and place; `exact` marks
a point, where the value is the point's Y. -/
inductive CamSpot where
  | outside (y : Int)
  | seg (y0 m0 y1 m1 : Int) (h a i : Nat)
  deriving DecidableEq, Repr

/-- The segment of a phase (R405). -/
def camSpot (l : List Byte) (ofs p : Nat) : CamSpot :=
  let q := (p % 65536 + ofs) % 65536
  let n := camNpts l
  let span := camSpan l
  let dx := camDx l
  let inner (u : Nat) : CamSpot :=
    let i := u / dx
    .seg (camY l i) (camM l i) (camY l (i + 1)) (camM l (i + 1)) dx (u % dx) i
  if camPer l then
    let u := (q + (65536 - camX0 l)) % 65536
    if u < span then inner u
    else .seg (camY l (n - 1)) (camM l (n - 1)) (camY l 0 + camLift l) (camM l 0) (65536 - span) (u - span) (n - 1)
  else if q < camX0 l then .outside (camY l 0)
  else if camX0 l + span < q then .outside (camY l (n - 1))
  else
    let u := q - camX0 l
    if u < span then inner u
    else .seg (camY l (n - 2)) (camM l (n - 2)) (camY l (n - 1)) (camM l (n - 1)) dx dx (n - 2)

/-- A quotient rounded to the nearest unit, halves up (R406). -/
def roundHalfUp (num : Int) (den : Nat) : Int := (2 * num + den) / (2 * den : Int)

/-- The exact Hermite value over the denominator 65536 h³ (R406). -/
def hermite (y0 m0 y1 m1 : Int) (h a : Nat) : Int :=
  let a : Int := a
  let h : Int := h
  65536 * ((2 * a ^ 3 - 3 * a ^ 2 * h + h ^ 3) * y0 + (3 * a ^ 2 * h - 2 * a ^ 3) * y1) +
    h * ((a ^ 3 - 2 * a ^ 2 * h + a * h ^ 2) * m0 + (a ^ 3 - a ^ 2 * h) * m1)

/-- The exact derivative over the denominator h³, in units of 2⁻¹⁶ slave units per phase step (R406). -/
def hermiteVel (y0 m0 y1 m1 : Int) (h a : Nat) : Int :=
  let a : Int := a
  let h : Int := h
  65536 * (6 * a ^ 2 - 6 * a * h) * (y0 - y1) +
    h * ((3 * a ^ 2 - 4 * a * h + h ^ 2) * m0 + (3 * a ^ 2 - 2 * a * h) * m1)

/-- The bounds of R407 hold for a segment. -/
def camSegOk (y0 m0 y1 m1 : Int) (h : Nat) : Bool :=
  decide ((y1 - y0).natAbs < 2 ^ 30) && decide (((h : Int) * m0).natAbs < 2 ^ 46) && decide (((h : Int) * m1).natAbs < 2 ^ 46)

/-- The bounds of R407 hold for every segment of a table. -/
def camTableOk (l : List Byte) : Bool :=
  let n := camNpts l
  (List.range (n - 1)).all (fun i => camSegOk (camY l i) (camM l i) (camY l (i + 1)) (camM l (i + 1)) (camDx l)) &&
    (!camPer l || camSegOk (camY l (n - 1)) (camM l (n - 1)) (camY l 0 + camLift l) (camM l 0) (65536 - camSpan l))

/-- An open integer within `w` of an exact quotient: R407 bounds a cubic result and does not give it. -/
def pickNear (c : Chip) (num : Int) (den w : Nat) : Chip × Int :=
  let lo : Int := -((-num) / (den : Int)) - w
  let hi : Int := num / (den : Int) + w
  let (c, f) := fresh c
  (c, lo + ((f.toNat % ((hi - lo).toNat + 1) : Nat) : Int))

/-- An evaluation: value, velocity, and whether it was out of range (R405 to R408). A cubic result is an open value within
the bounds of R407; where the table exceeds them, the result of R406, which wraps. -/
def camEval (c : Chip) (l : List Byte) (ofs p : Nat) : Chip × Word × Word × Bool :=
  match camSpot l ofs p with
  | .outside y => (c, wi y, 0, true)
  | .seg y0 m0 y1 m1 h a _ =>
    if camCubic l then
      if camTableOk l then
        let (c, v) := if a = 0 then (c, y0) else if a = h then (c, y1)
          else pickNear c (hermite y0 m0 y1 m1 h a) (65536 * h ^ 3) 1
        let (c, w) := pickNear c (hermiteVel y0 m0 y1 m1 h a) (h ^ 3) 2
        (c, wi v, wi w, false)
      else
        (c, wi (roundHalfUp (hermite y0 m0 y1 m1 h a) (65536 * h ^ 3)), wi (roundHalfUp (hermiteVel y0 m0 y1 m1 h a) (h ^ 3)), false)
    else (c, wi (roundHalfUp (y0 * h + (y1 - y0) * a) h), wi (roundHalfUp ((y1 - y0) * 65536) h), false)

/-- The words of table memory an evaluation reads: the header and the two points. -/
def camTouches (l : List Byte) (ofs p w : Nat) : Bool :=
  let pts : List Nat := match camSpot l ofs p with
    | .outside _ => [0, camNpts l - 1]
    | .seg _ _ _ _ _ _ i => [i, if i + 1 = camNpts l then 0 else i + 1]
  decide (w < 8) || pts.any (fun i => decide (camPointOff l i / 4 = w) || (camCubic l && decide (camPointOff l i / 4 + 1 = w)))

/-! ### Sets -/

/-- The active set. -/
def camActive (m : Cam) : Tbl (List Byte) := if m.aset1 then m.set1 else m.set0

/-- The shadow set. -/
def camShadow (m : Cam) : Tbl (List Byte) := if m.aset1 then m.set0 else m.set1

/-- Replaces the active set. -/
def setActive (m : Cam) (t : Tbl (List Byte)) : Cam := if m.aset1 then { m with set1 := t } else { m with set0 := t }

/-- Replaces the shadow set. -/
def setShadow (m : Cam) (t : Tbl (List Byte)) : Cam := if m.aset1 then { m with set0 := t } else { m with set1 := t }

/-- Allocated units of a set: tables are placed in units of eight bytes (R400). -/
def unitsUsed (t : Tbl (List Byte)) : Nat := t.foldl (fun n e => n + (e.2.length + 7) / 8) 0

/-- Units of a set. -/
def setUnits : Nat := 16384

/-- Units an engine has free in a set. -/
def unitsFree (t : Tbl (List Byte)) : Nat := setUnits - unitsUsed t

/-- The table at a selector of the active set; none where the place is empty. -/
def camTable (m : Cam) (s : Nat) : List Byte := Tbl.get [] (camActive m) s

/-- Puts or removes a table of a set. -/
def putTable (t : Tbl (List Byte)) (s : Nat) (l : List Byte) : Tbl (List Byte) := Tbl.put [] t s l

/-! ### Failures, status (R408, R412, R421) -/

/-- Engine register `i` of cluster `e`. -/
def camReg (e i : Nat) : Nat := clReg e (0x40 + 4 * i)

/-- A failure: sticky bit, last failure, count (R412). -/
def camFailure (c : Chip) (e code sel : Nat) : Chip :=
  let c := regOr (regCount c (camReg e 7) 15 0 1) (camReg e 1) 2
  regSetFld (regSetFld c (camReg e 1) 23 16 code) (camReg e 1) 28 24 sel

/-- A status word. -/
def camStatus (code sel : Nat) : Word := wd (code + 256 * sel)

/-- An out-of-range evaluation is noted (R408). -/
def camOor (c : Chip) (e : Nat) : Chip := regOr (regCount c (camReg e 6) 31 0 1) (camReg e 1) 1

/-- Table memory answers a read of the words `touched` holds: `ecc` is what the memory meets (0 nothing, 1 a single-bit
error, 2 an uncorrectable one) at word `at_` of the table. Answers whether the read fails. -/
def camEcc (c : Chip) (e sel ecc at_ : Nat) (touched : Nat → Bool) : Chip × Bool :=
  let m := camOf c e
  let old := m.bad.any (fun x => decide (x.1 = sel) && touched x.2)
  if touched at_ ∧ ecc = 1 ∧ old = false then (regOr (regCount c (camReg e 7) 31 16 1) (camReg e 1) 4, false)
  else if old ∨ (touched at_ ∧ ecc = 2) then
    let c := if old then c else updCam c e (fun m => { m with bad := m.bad ++ [(sel, at_)] })
    (regOr c (camReg e 1) 8, true)
  else (c, false)

/-- An evaluation by an engine: the failure code or 0, value and velocity (R405, R408, R412, R421). -/
def camEvaluate (c : Chip) (e sel p ecc at_ : Nat) : Chip × Nat × Word × Word :=
  let m := camOf c e
  let l := camTable m sel
  let ofs := Tbl.get 0 m.ofs sel
  let c := regWrap c (camReg e 5) 31 0 1
  if l.isEmpty then (camFailure c e 0x10 sel, 0x10, 0x80000000, 0)
  else
    let (c, bad) := camEcc c e sel ecc at_ (fun w => decide (w < l.length / 4) && camTouches l ofs p w)
    if bad then (camFailure c e 0x14 sel, 0x14, 0x80000000, 0)
    else
      let (c, v, w, o) := camEval c l ofs p
      (if o then camOor c e else c, 0, v, w)

/-! ### Engine registers (R411, R423 to R429, R718) -/

/-- Sets the offset of a selector. -/
def setOfs (c : Chip) (e sel d : Nat) : Chip := updCam c e (fun m => { m with ofs := Tbl.put 0 m.ofs sel (d % 65536) })

/-- TSEL. -/
def camTsel (c : Chip) (e : Nat) : Nat := regFld c (camReg e 0) 12 8

/-- CAMTINFO of table TSEL. -/
def camTinfo (c : Chip) (e : Nat) : Word :=
  let l := camTable (camOf c e) (camTsel c e)
  if l.isEmpty then 0
  else wd (1 + 2 * b1 (camCubic l) + 4 * b1 (camPer l) + 16 * camDrone l + 65536 * camNpts l)

/-- A read of an engine register; an RC register is cleared by it. -/
def camRegRead (c : Chip) (e i : Nat) : Chip × Word :=
  let m := camOf c e
  let w := regVal c (camReg e i)
  if i = 1 then
    (c, w ||| wd (256 * b1 (!m.queue.isEmpty) + 512 * b1 m.aset1 + 1024 * b1 m.staging + 2048 * b1 m.copy.isSome))
  else if i = 2 then (c, camTinfo c e)
  else if i = 3 then (c, wd (Tbl.get 0 m.ofs (camTsel c e)))
  else if i = 4 then (c, wd (unitsFree (camActive m) + 65536 * unitsFree (camShadow m)))
  else if i = 6 ∨ i = 7 then (regPut c (camReg e i) 0, w)
  else if i < 8 then (c, w)
  else (c, 0)

/-- A write of an engine register. A write of CAMTOFS acts as CAMOFS while the engine's domain is on. -/
def camRegWrite (c : Chip) (e i : Nat) (w : Word) : Chip :=
  if i = 0 then regPut c (camReg e 0) (w &&& 0x1F07)
  else if i = 1 then regClr c (camReg e 1) (w &&& 0x1F).toNat
  else if i = 3 then (if camOn c e then setOfs c e (camTsel c e) w.toNat else c)
  else c

/-! ### Results to the strings (R401, R412, R413, R419) -/

/-- Gives the flight of an operation its result. -/
def giveFlight (op slot : Nat) (lo hi : Word) (trap code : Nat) (ta : Word) (r : Core) : Core :=
  { r with flights := r.flights.map (fun f =>
      if f.op = 0x70 + op ∧ f.slot = slot ∧ f.ready = false then
        { f with ready := true, lo := lo, hi := hi, trap := trap, code := code, taddr := ta.toNat } else f) }

/-- Gives the flight of a string's operation its result. -/
def landCore (c : Chip) (k op slot : Nat) (lo hi : Word) (trap code : Nat) (ta : Word) : Chip :=
  updCore c k (giveFlight op slot lo hi trap code ta)

/-- The result of an operation of a string: the status of an entry released by a course in unison lands in both strings,
whatever the course does meanwhile, and in the flight that its snapshot keeps (R226, R419). -/
def landOp (c : Chip) (o : CamOp) (lo hi : Word) (trap code : Nat) (ta : Word) : Chip :=
  let c := landCore c o.who o.op o.slot lo hi trap code ta
  if o.job = 1 then
    let n := courseNo o.who
    let fill := giveFlight o.op o.slot lo hi trap code ta
    landCore (updCourse c n (fun r => { r with snap := r.snap.map fill })) (2 * n + 1) o.op o.slot lo hi trap code ta
  else c

/-- A status operation ends: OK, or a failure that raises COPROC (R412). -/
def landStatus (c : Chip) (o : CamOp) (code : Nat) : Chip :=
  landOp c o (camStatus code o.sel) 0 (if code = 0 then 0 else 0x13) code 0

/-- An evaluation ends. -/
def landEval (c : Chip) (o : CamOp) (code : Nat) (v w : Word) : Chip :=
  landOp c o v w (if code = 0 then 0 else 0x13) code 0

/-- Removes the operation at the head of an engine's stream. -/
def camPop (c : Chip) (e : Nat) : Chip := updCam c e (fun m => { m with queue := m.queue.drop 1 })

/-- An operation of a string is performed (R411). A CPSYNC that meets a copy waits for it beside the stream (R402). -/
def camDo (c : Chip) (e : Nat) (o : CamOp) (ecc at_ : Nat) : Chip :=
  if o.op = 0 then landStatus (camRegWrite c e o.sel (wd o.a)) o 0
  else if o.op = 1 then
    let (c, w) := camRegRead c e o.sel
    landOp c o w 0 0 0 0
  else if o.op = 2 ∨ o.op = 3 then
    let (c, code, v, w) := camEvaluate c e o.sel o.a ecc at_
    landEval c o code v w
  else if o.op = 4 then
    let l := camTable (camOf c e) o.sel
    let (c, code, v, w) := camEvaluate c e o.sel (dronePos c (camDrone l)).toNat ecc at_
    landEval c o code v w
  else if o.op = 5 then landStatus (setOfs c e o.sel o.a) o 0
  else if o.op = 6 then updCam c e (fun m => { m with copy := some ⟨o.who, o.slot, o.sel, o.a, o.n, decide (o.job = 1)⟩ })
  else if (camOf c e).copy.isSome then updCam c e (fun m => { m with syncs := m.syncs ++ [o] })
  else landStatus c o 0

/-! ### The copier (R402, R414, R417, R418) -/

/-- The bytes of a range of cluster store as the copier reads them; none on the error response or a poisoned word. -/
def copyWords (c : Chip) (ga : Nat) : Nat → Chip × Option (List Byte)
  | 0 => (c, some [])
  | n + 1 =>
    let t := target none ga
    let open_ := match t.peg with | some p => gateOpen c p | none => false
    if !open_ then ((match t.peg with | some p => offMet c (16 * (p / 2)) p | none => c), none)
    else
      let (c, w, bad) := readWord c ga 3 0
      if bad then (c, none)
      else
        let (c, r) := copyWords c (ga + 4) n
        (c, r.map (fun l => bytesOfWord w ++ l))

/-- The offset in the own cluster store that a CAMLD names, through either view (R414). -/
def camldOff (e a n : Nat) : Option Nat :=
  let o := if 0x10000 ≤ a ∧ a < 0x90000 then some (a - 0x10000)
    else if 0x10000000 + e * 0x100000 ≤ a ∧ a < 0x10080000 + e * 0x100000 then some (a - (0x10000000 + e * 0x100000)) else none
  match o with
  | some o => if a % 8 = 0 ∧ o + n ≤ 0x80000 then some o else none
  | none => none

/-- What a CAMLD copy comes to: the code, and the table where it is 0. The free units of R414 step 2 count the space of the
table now at the selector as occupied. -/
def camldResult (c : Chip) (e : Nat) (y : CamCopy) (ecc at_ : Nat) : Chip × Nat × List Byte :=
  if unitsFree (camActive (camOf c e)) < (y.n + 7) / 8 then (c, 0x12, [])
  else
    match camldOff e y.addr y.n with
    | none => (c, 0x13, [])
    | some o =>
      let (c, r) := copyWords c (0x10000000 + e * 0x100000 + o) ((y.n + 3) / 4)
      match r with
      | none => (c, 0x13, [])
      | some l =>
        let l := l.take y.n
        if ecc = 1 then (regOr (regCount c (camReg e 7) 31 16 1) (camReg e 1) 4, if camValid l then 0 else 0x11, l)
        else if ecc = 2 ∧ at_ < (y.n + 3) / 4 then (regOr c (camReg e 1) 8, 0x14, [])
        else (c, if camValid l then 0 else 0x11, l)

/-- The status of a CAMLD whose copy ends, and of the CPSYNCs that have waited for it; a released CAMLD may be accepted. -/
def endCamld (c : Chip) (e : Nat) (y : CamCopy) (code : Nat) : Chip :=
  let c := updCam c e (fun m => { m with copy := none })
  let c := if code = 0 then c else camFailure c e code y.sel
  let c := landStatus c ⟨0, y.core, 6, y.slot, y.sel, y.addr, y.n, b1 y.both⟩ code
  let c := (camOf c e).syncs.foldl (fun c o => landStatus c o 0) c
  camAdmitAll (updCam c e (fun m => { m with syncs := [] })) e

/-- A CAMLD copy ends; `ecc` and `at_` are what table memory meets when the copy is checked (R414, R421). -/
def camldEnd (c : Chip) (e ecc at_ : Nat) : Chip :=
  match (camOf c e).copy with
  | none => c
  | some y =>
    let (c, code, l) := camldResult c e y ecc at_
    let c := if code = 0 then
        updCam c e (fun m =>
          { (setActive m (putTable (camActive m) y.sel l)) with bad := m.bad.filter (fun x => decide (x.1 ≠ y.sel)) })
      else c
    endCamld c e y code

/-- CAMLD_COPY_END: the copy ends; a staging copy goes before it (R402, R414). -/
def xCamldCopyEnd (c : Chip) (e ecc at_ : Nat) : Chip :=
  if (camOf c e).staging ∨ camOn c e = false then c else camldEnd c e ecc at_

/-- The command CAMLD_COPY_END on a unit that exists. -/
def execCamldCopyEnd (e ecc at_ : Nat) (s : State) : Host.Outcome State Fault Refusal :=
  onUnit (isCluster e && isEcc ecc) s (fun c => xCamldCopyEnd c e ecc at_)

/-- A set switch is performed (R418). -/
def camSwitch (c : Chip) (e : Nat) : Chip :=
  let c := match (camOf c e).copy with
    | some y => endCamld c e y 0x15
    | none => c
  updCam c e (fun m =>
    let m := { m with aset1 := !m.aset1, bad := m.shadowBad, shadowBad := [] }
    setShadow m [])

/-- The engine's domain is no longer on (R149, R268, R413, R422): the operations released and not yet accepted end with BUSOFF;
`off` loses sets and offsets. TRAPADDR of such a trap is not stated: an open value. -/
def camPowerDown (c : Chip) (e : Nat) (off : Bool) : Chip :=
  let c := (camOf c e).offers.foldl (fun c o =>
    let (c, a) := fresh (offMet c o.who (2 * e + 1))
    landOp c o 0xFFFFFFFF 0xFFFFFFFF 0x10 0 a) c
  updCam c e (fun m => if off then {} else { m with offers := [] })

/-- CAMTOFS_WRITE: the host's write of CAMTOFS acts as CAMOFS for selector TSEL, in the engine's order behind the
operations it holds (R423, R427, R718). -/
def xCamtofsWrite (c : Chip) (e : Nat) (w : Word) : Chip :=
  if e < 32 ∧ c.sys.per ∧ camBusy c (camReg e 3) = false then camRegWrite c e 3 w else c

/-- The command CAMTOFS_WRITE on a unit that exists. -/
def execCamtofsWrite (e : Nat) (w : Word) (s : State) : Host.Outcome State Fault Refusal :=
  onUnit (isCluster e) s (fun c => xCamtofsWrite c e w)

end Sys2Proof.Machine
end

