-- ==== Sys2Proof/Machine/Tab.lean ====
section
/-! DEFINITION. The tablature (R325 to R372, R377 to R396): images and their checks, arming, the walk of the followed
drone, the changeover, frames, the issue point. -/

namespace Sys2Proof.Machine

open Sys2Proof

/-! ### Images (R329 to R346) -/

/-- The global address of byte `o` of bank `b`. -/
def tabGa (b o : Nat) : Nat := 0x40000000 + b * 0x800000 + o

/-- A field of `n` bytes of an image. -/
def imF (c : Chip) (b o n : Nat) : Nat := leNat c (tabGa b o) n

/-- A word of an image. -/
def imW (c : Chip) (b o : Nat) : Word := wordAt c (tabGa b o)

/-- LENGTH. -/
def imLength (c : Chip) (b : Nat) : Nat := imF c b 0x08 4
/-- DRONE. -/
def imDrone (c : Chip) (b : Nat) : Nat := imF c b 0x18 1
/-- MAXSPD. -/
def imMaxspd (c : Chip) (b : Nat) : Nat := imF c b 0x1C 4
/-- PSCNT. -/
def imPscnt (c : Chip) (b : Nat) : Nat := imF c b 0x24 4
/-- TSCNT. -/
def imTscnt (c : Chip) (b : Nat) : Nat := imF c b 0x2C 4
/-- TPER. -/
def imTper (c : Chip) (b : Nat) : Nat := imF c b 0x30 4
/-- TALIGN. -/
def imTalign (c : Chip) (b : Nat) : Nat := imF c b 0x34 4

/-- OFFSET of a note. -/
def nOffset (w0 : Word) : Nat := bits w0 15 0
/-- DROP. -/
def nDrop (w0 : Word) : Bool := bit w0 17
/-- QUIET. -/
def nQuiet (w0 : Word) : Bool := bit w0 18
/-- FENCE. -/
def nFence (w0 : Word) : Bool := bit w0 19
/-- OP. -/
def nOp (w0 : Word) : Nat := bits w0 31 24
/-- LENGTH. -/
def nLen (w3 : Word) : Nat := bits w3 15 0
/-- MISS. -/
def nMiss (w3 : Word) : Nat := bits w3 19 16
/-- LANE. -/
def nLane (w3 : Word) : Nat := bits w3 21 20
/-- SLOT. -/
def nSlot (w3 : Word) : Nat := bits w3 27 22

/-- Is an operation defined (R335)? -/
def opDefined (op : Nat) : Bool := op = 1 || op = 2 || op = 3 || op = 4 || op = 5 || op = 0x0F || decide (op / 8 = 8)

/-- Is an operation a GATHER? -/
def isGather (op : Nat) : Bool := decide (op / 8 = 8)

/-- The record length of a GATHER (R342). -/
def gatherB (op : Nat) : Nat := 8 * (op % 8 + 1)

/-- The kind of an endpoint (R295). -/
def epKind (w : Word) : Nat := bits w 31 28
/-- The unit of an endpoint. -/
def epUnit (w : Word) : Nat := bits w 27 16
/-- The offset field of an endpoint. -/
def epOff (w : Word) : Nat := bits w 15 0

/-- Do unit, offset and extent of an endpoint lie in range (R295, R336)? -/
def epOk (w : Word) (len : Nat) : Bool :=
  let u := epUnit w
  let o := epOff w
  match epKind w with
  | 0 => decide (u ≤ 255) && decide (o % 4 = 0) && decide (o ≤ 0x7FFC) && decide (o + len ≤ 0x8000)
  | 1 => decide (u ≤ 31) && decide (8 * o + len ≤ 0x80000)
  | 2 => decide (u ≤ 127)
  | 3 => decide (u ≤ 15)
  | 4 => decide (u < 16) && decide (8 * (u * 65536 + o) + len ≤ 0x800000)
  | 5 => decide (u = 0)
  | _ => false

/-- A check: the code and the offset of the item where it fails (R354, R355). -/
abbrev Chk := Option (Nat × Nat)

/-- Fails with code and offset unless the condition holds. -/
def chk (code off : Nat) (ok : Bool) : Chk := if ok then none else some (code, off)

/-- The first failure of a list. -/
def firstChk : List Chk → Chk
  | [] => none
  | none :: t => firstChk t
  | some f :: _ => some f

/-- The first item that fails a check. -/
def eachChk (l : List Nat) (f : Nat → Chk) : Chk := l.findSome? f

/-- The offsets of the entries of a section whose offset and count stand at `po` and `po + 4` of the header. -/
def section_ (c : Chip) (b po size : Nat) : List Nat :=
  (List.range (imF c b (po + 4) 4)).map (fun i => imF c b po 4 + size * i)

/-- The offsets of the notes of the phase stave. -/
def psNotes (c : Chip) (b : Nat) : List Nat := section_ c b 0x20 16
/-- The offsets of the notes of the time stave. -/
def tsNotes (c : Chip) (b : Nat) : List Nat := section_ c b 0x28 16
/-- The offsets of the cam directory's entries. -/
def camEntries (c : Chip) (b : Nat) : List Nat := section_ c b 0x38 16
/-- The offsets of the reservations. -/
def resEntries (c : Chip) (b : Nat) : List Nat := section_ c b 0x40 16
/-- The offsets of the bindings. -/
def bindEntries (c : Chip) (b : Nat) : List Nat := section_ c b 0x48 8
/-- The offsets of the requirements. -/
def reqEntries (c : Chip) (b : Nat) : List Nat := section_ c b 0x50 8

/-- The words of an image named by its bindings. -/
def boundWords (c : Chip) (b : Nat) : List Nat := (bindEntries c b).map (fun e => imF c b e 4)

/-- The body of an image as ICRC takes it: every bound word reads 0 (R332). -/
def bodyBytes (c : Chip) (b : Nat) : List Byte :=
  let bw := boundWords c b
  (List.range (imLength c b - 0x80)).map (fun i =>
    let o := 0x80 + i
    if bw.any (fun w => decide (w ≤ o) && decide (o < w + 4)) then 0 else byteAt c (tabGa b o))

/-- The occupied extents of an image: offset, size and the header or directory offset that names them. A table that two
directory entries name with one extent is one table. -/
def imExtents (c : Chip) (b : Nat) : List (Nat × Nat × Nat) :=
  let s (po size : Nat) : List (Nat × Nat × Nat) :=
    if imF c b (po + 4) 4 = 0 then [] else [(imF c b po 4, size * imF c b (po + 4) 4, po)]
  s 0x20 16 ++ s 0x28 16 ++ s 0x38 16 ++ s 0x40 16 ++ s 0x48 8 ++ s 0x50 8

/-- The cam tables' extents. -/
def camExtents (c : Chip) (b : Nat) : List (Nat × Nat × Nat) :=
  (camEntries c b).map (fun e => (imF c b (e + 8) 4, imF c b (e + 12) 4, e))

/-- Do two extents overlap? -/
def overlap (a b : Nat × Nat × Nat) : Bool :=
  decide (a.1 < b.1 + b.2.1) && decide (b.1 < a.1 + a.2.1) && decide (0 < a.2.1) && decide (0 < b.2.1)

/-- Is one extent placed under R331 against those before it? -/
def placedOk (len : Nat) (before : List (Nat × Nat × Nat)) (x : Nat × Nat × Nat) : Bool :=
  decide (x.1 % 16 = 0) && decide (0x80 ≤ x.1) && decide (x.1 + x.2.1 ≤ len) &&
    !before.any (fun y => overlap x y && !(decide (x.1 = y.1) && decide (x.2.1 = y.2.1) && decide (0x80 ≤ y.2.2)))

/-- The extents checked in order (check 0x05). -/
def placeChk (len : Nat) : List (Nat × Nat × Nat) → List (Nat × Nat × Nat) → Chk
  | _, [] => none
  | before, x :: t => if placedOk len before x then placeChk len (before ++ [x]) t else some (0x05, x.2.2)

/-- Check 0x06: header fields in range. -/
def headerChk (c : Chip) (b : Nat) : Chk :=
  firstChk [chk 6 0x06 (decide (imF c b 0x06 2 = 0)), chk 6 0x18 (decide (imDrone c b ≤ 15)),
    chk 6 0x19 (decide (imF c b 0x19 1 = 0)),
    chk 6 0x1A (decide (1 ≤ imF c b 0x1A 2) && decide (imF c b 0x1A 2 ≤ 16)),
    chk 6 0x1C (decide (1 ≤ imMaxspd c b) && decide (imMaxspd c b ≤ 4000000)),
    chk 6 0x3C (decide (imF c b 0x3C 4 ≤ 1024)), chk 6 0x44 (decide (imF c b 0x44 4 ≤ 4096)),
    chk 6 0x4C (decide (imF c b 0x4C 4 ≤ 4096)), chk 6 0x54 (decide (imF c b 0x54 4 ≤ 128)),
    chk 6 0x58 (decide (imF c b 0x58 32 = 0))]

/-- Check 0x07: TPER and TALIGN. -/
def frameChk (c : Chip) (b : Nat) : Chk :=
  if imTscnt c b = 0 then firstChk [chk 7 0x30 (decide (imTper c b = 0)), chk 7 0x34 (decide (imTalign c b = 0))]
  else firstChk [chk 7 0x30 (decide (15625 ≤ imTper c b) && decide (imTper c b ≤ 1048560)),
    chk 7 0x34 (decide (imTalign c b < imTper c b))]

/-- Check 0x08 of one note; SLOT is used by LINKSEND. -/
def noteFieldChk (c : Chip) (b stave o : Nat) : Chk :=
  let w0 := imW c b o
  let w3 := imW c b (o + 12)
  chk 8 o (opDefined (nOp w0) && decide (bits w0 16 16 = stave) && decide (bits w0 23 20 = 0) && decide (bits w3 31 28 = 0) &&
    decide (nMiss w3 ≤ 4) && (decide (nSlot w3 = 0) || decide (nOp w0 = 4)))

/-- May an endpoint word stand there: its kind is allowed, its extent in range, and a channel is named by a binding? A
bound word that still holds 0 counts as a channel. -/
def epAllowed (bw kinds : List Nat) (pos : Nat) (w : Word) (len : Nat) : Bool :=
  if w = 0 ∧ pos ∈ bw then decide (5 ∈ kinds)
  else decide (epKind w ∈ kinds) && epOk w len && (decide (epKind w ≠ 5) || decide (pos ∈ bw))

/-- Check 0x09 of one note (R335, R336). -/
def notePointChk (c : Chip) (b : Nat) (bw : List Nat) (o : Nat) : Chk :=
  let op := nOp (imW c b o)
  let src := imW c b (o + 4)
  let dst := imW c b (o + 8)
  let n := nLen (imW c b (o + 12))
  let s (kinds : List Nat) : Bool := epAllowed bw kinds (o + 4) src n
  let d (kinds : List Nat) (len : Nat) : Bool := epAllowed bw kinds (o + 8) dst len
  chk 9 o
    (if op = 1 then s [0, 1, 2, 3, 4, 5] && d [0, 1, 2, 3, 5] n
     else if op = 2 then d [0, 1, 3, 5] n
     else if op = 3 then decide (673 ≤ src.toNat) && decide (src.toNat ≤ 704) && decide (dst = 0)
     else if op = 4 then s [5] && d [2] 0
     else if op = 5 then decide (src.toNat < 1024) && d [0, 1, 2, 3, 5] n
     else if op = 0x0F then decide (src = 0) && decide (dst = 0)
     else decide (src ≠ 0) && d [0, 1, 3] (32 * gatherB op + 4))

/-- Check 0x0A of one note. -/
def noteLenChk (c : Chip) (b o : Nat) : Chk :=
  let op := nOp (imW c b o)
  let n := nLen (imW c b (o + 12))
  chk 0x0A o
    (if op = 1 ∨ op = 2 then decide (4 ≤ n) && decide (n ≤ 4096) && decide (n % 4 = 0)
     else if op = 5 then decide (n = 4) || decide (n = 8)
     else if isGather op then decide (8 * n + gatherB op ≤ 0x80000)
     else decide (n = 0))

/-- Check 0x0B: offsets in order and in range. -/
def orderChk (c : Chip) (b : Nat) (time : Bool) : List Nat → Option Nat → Chk
  | [], _ => none
  | o :: t, prev =>
    let f := nOffset (imW c b o)
    let inOrder := match prev with | some p => decide (p ≤ f) | none => true
    if inOrder && (!time || decide (16 * f < imTper c b)) then orderChk c b time t (some f) else some (0x0B, o)

/-- Check 0x0C: at most `most` notes at one offset. -/
def crowdChk (c : Chip) (b most : Nat) : List Nat → Nat → Nat → Chk
  | [], _, _ => none
  | o :: t, cur, n =>
    let f := nOffset (imW c b o)
    let n := if f = cur then n + 1 else 1
    if n ≤ most then crowdChk c b most t f n else some (0x0C, o)

/-- The bytes of a cam table of an image. -/
def imTable (c : Chip) (b e : Nat) : List Byte := bytesAt c (tabGa b (imF c b (e + 8) 4)) (imF c b (e + 12) 4)

/-- Does a directory entry give cluster `k` its table? -/
def camGives (c : Chip) (b k e : Nat) : Bool := (imF c b e 4).testBit k

/-- Units that entries give a cluster (R404). -/
def camUnits (c : Chip) (b k : Nat) (l : List Nat) : Nat :=
  (l.filter (camGives c b k)).foldl (fun n e => n + (imF c b (e + 12) 4 + 7) / 8) 0

/-- Check 0x0D: the directory's entries (R343, R404). -/
def camDirChk (c : Chip) (b : Nat) : List Nat → List Nat → Chk
  | _, [] => none
  | before, e :: t =>
    let mask := imF c b e 4
    let sel := imF c b (e + 4) 1
    let tab := imTable c b e
    let ok := decide (mask ≠ 0) && decide (sel ≤ 31) && decide (imF c b (e + 5) 3 = 0) && decide (imF c b (e + 8) 4 % 16 = 0) &&
      decide (imF c b (e + 12) 4 ≠ 0) && decide (fieldAt tab 0x10 4 = imF c b (e + 12) 4) && camValid tab &&
      !before.any (fun x => decide (imF c b (x + 4) 1 = sel) && decide (imF c b x 4 &&& mask ≠ 0)) &&
      (List.range 32).all (fun k => !mask.testBit k || decide (camUnits c b k (before ++ [e]) ≤ setUnits))
    if ok then camDirChk c b (before ++ [e]) t else some (0x0D, e)

/-- Check 0x0E of one reservation (R344). -/
def resChk (c : Chip) (b e : Nat) : Chk :=
  let len := imF c b (e + 4) 4
  let use := imF c b (e + 8) 1
  let lanes := imF c b (e + 9) 1
  chk 0x0E e (decide (epKind (imW c b e) ≤ 3) && epOk (imW c b e) len && decide (1 ≤ len) && decide (len ≤ 0x80000) &&
    decide (1 ≤ use) && decide (use ≤ 3) && decide (1 ≤ lanes) && decide (lanes ≤ 15) && decide (imF c b (e + 10) 6 = 0))

/-- The note that holds a word, as the note's offset, when the word is word 1 or 2 of a note. -/
def noteOfWord (c : Chip) (b w : Nat) : Option Nat :=
  let hit (po : Nat) : Option Nat :=
    let o := imF c b po 4
    let r := (w - o) % 16
    if o ≤ w ∧ w < o + 16 * imF c b (po + 4) 4 ∧ (r = 4 ∨ r = 8) then some (w - r) else none
  (hit 0x20).or (hit 0x28)

/-- Check 0x0F of one binding (R345, R355). -/
def bindChk (c : Chip) (b e : Nat) : Chk :=
  let w := imF c b e 4
  let v := imW c b w
  let mode := imF c b (e + 6) 1
  match noteOfWord c b w with
  | none => some (0x0F, e)
  | some n =>
    let op := nOp (imW c b n)
    let use := if mode = 0 then decide (w = n + 8) && (decide (op = 1) || decide (op = 2) || decide (op = 5))
      else if mode = 1 then decide (w = n + 4) && decide (op = 1)
      else if mode = 2 then decide (w = n + 4) && decide (op = 4) else false
    chk 0x0F e (use && decide (imF c b (e + 4) 2 ≤ 4095) && decide (imF c b (e + 7) 1 = 0) &&
      (decide (v = 0) || (decide (epKind v = 5) && decide (epUnit v = 0))))

/-- Check 0x10 of one requirement (R346). -/
def reqChk (c : Chip) (b e : Nat) : Chk :=
  chk 0x10 e (decide (imF c b e 1 ≤ 127) && decide (imF c b (e + 1) 1 ≤ 5) && decide (imF c b (e + 2) 6 = 0))

/-- Check 0x01: MAGIC and VERSION. -/
def magicChk (c : Chip) (b : Nat) : Chk :=
  firstChk [chk 1 0 (decide (imF c b 0 4 = 0x31424154)), chk 1 4 (decide (imF c b 4 2 = 1))]

/-- Checks 0x02 and 0x03: HCRC and LENGTH. -/
def headChk (c : Chip) (b : Nat) : Chk :=
  firstChk [chk 2 0x7C (decide (imW c b 0x7C = crc32 (bytesAt c (tabGa b 0) 0x7C))),
    chk 3 8 (decide (0x100 ≤ imLength c b) && decide (imLength c b ≤ 0x800000) && decide (imLength c b % 16 = 0))]

/-- Checks 0x04 to 0x10. -/
def bodyChk (c : Chip) (b : Nat) : Chk :=
  let ps := psNotes c b
  let ts := tsNotes c b
  let both := ps ++ ts
  let bw := boundWords c b
  chk 4 0x78 (decide (imW c b 0x78 = crc32 (bodyBytes c b))) <|>
  placeChk (imLength c b) [] (imExtents c b) <|>
  placeChk (imLength c b) (imExtents c b) (camExtents c b) <|>
  headerChk c b <|> frameChk c b <|>
  eachChk ps (noteFieldChk c b 0) <|> eachChk ts (noteFieldChk c b 1) <|>
  eachChk both (notePointChk c b bw) <|> eachChk both (noteLenChk c b) <|>
  orderChk c b false ps none <|> orderChk c b true ts none <|>
  crowdChk c b (imF c b 0x1A 2) ps 0 0 <|> crowdChk c b 16 ts 0 0 <|>
  camDirChk c b [] (camEntries c b) <|> eachChk (resEntries c b) (resChk c b) <|>
  eachChk (bindEntries c b) (bindChk c b) <|> eachChk (reqEntries c b) (reqChk c b)

/-- What a verification comes to: an uncorrectable word in its way, a check that fails, or success. -/
inductive Verdict where
  | fault
  | fails (code off : Nat)
  | passes
  deriving DecidableEq, Repr

/-- The checks in order, each with the bytes of the image it reads; the first that fails, or that meets an uncorrectable
word in its bytes, ends the verification (R256, R354). -/
def verifyRun (c : Chip) (b : Nat) : List (Nat × Chk) → Verdict
  | [] => .passes
  | (n, r) :: t =>
    if c.poison.any (fun a => decide (tabGa b 0 ≤ a) && decide (a < tabGa b n)) then .fault
    else match r with
      | some f => .fails f.1 f.2
      | none => verifyRun c b t

/-- The verification of an image (R354, R355). -/
def verifyImage (c : Chip) (b : Nat) : Verdict :=
  verifyRun c b [(8, magicChk c b), (0x80, headChk c b), (imLength c b, bodyChk c b)]

/-- RECIPE as TAB_STAT reports it: 0 for a bank EMPTY or OPEN (R363). -/
def recipeOf (c : Chip) (b : Nat) : Nat := if bankState c b < 2 then 0 else imF c b 0x0C 4

/-! ### The checks of an arming (R357) -/

/-- The slot a bound word names, where its handle is valid and its channel open and not closing. -/
def boundSlot (c : Chip) (b e : Nat) : Option Nat :=
  let v := imW c b (imF c b e 4)
  if epKind v = 5 ∧ epUnit v = 0 then
    match slotOfHandle c (epOff v) with
    | some s => if (chanOf c s).closing = none then some s else none
    | none => none
  else none

/-- Is a binding's channel party the notes (class 3), as MODE gives? -/
def bindParty (c : Chip) (b e : Nat) : Bool :=
  let mode := imF c b (e + 6) 1
  match boundSlot c b e with
  | none => false
  | some s =>
    if mode = 0 then decide (partyClass (chanOf c s).prod = 3)
    else if mode = 1 then decide (partyClass (chanOf c s).cons = 3) else true

/-- Is the consumer of a LINKSEND's channel the LINK port of the note's DST? -/
def bindLink (c : Chip) (b e : Nat) : Bool :=
  if imF c b (e + 6) 1 = 2 then
    match boundSlot c b e, noteOfWord c b (imF c b e 4) with
    | some s, some n => isLinkQ (chanOf c s) && decide (partyNo (chanOf c s).cons = epUnit (imW c b (n + 8)))
    | _, _ => false
  else true

/-- The global extent of a reservation in memory: first byte and first byte behind it; none for kinds 2 and 3. -/
def resExtent (c : Chip) (b e : Nat) : Option (Nat × Nat) :=
  let w := imW c b e
  let len := imF c b (e + 4) 4
  if epKind w = 0 then some (0x20000000 + epUnit w * 0x10000 + epOff w, 0x20000000 + epUnit w * 0x10000 + epOff w + len)
  else if epKind w = 1 then some (0x10000000 + epUnit w * 0x100000 + 8 * epOff w, 0x10000000 + epUnit w * 0x100000 + 8 * epOff w + len)
  else none

/-- Does a reservation overlap the queue area of an open channel that the image does not bind? -/
def resClash (c : Chip) (b e : Nat) : Bool :=
  let bound := (bindEntries c b).filterMap (boundSlot c b)
  match resExtent c b e with
  | none => false
  | some (lo, hi) =>
    c.chans.any (fun x =>
      x.2.opened && !isLinkQ x.2 && !decide (x.1 ∈ bound) &&
        (let q := 0x10000000 + x.1 / 128 * 0x100000 + x.2.qbase
         decide (lo < q + 4 * chCap x.2) && decide (q < hi)))

/-- Is the memory of an extent on, first and last byte alike? -/
def extentOn (c : Chip) (lo hi : Nat) : Bool :=
  let on (a : Nat) : Bool := match (target none a).peg with | some p => gateOpen c p | none => true
  on lo && on (hi - 1)

/-- The first check of R357 that fails: code, status and offset of the failing entry. -/
def armChk (c : Chip) (b : Nat) (change : Bool) : Option (Nat × Nat × Nat) :=
  let fail (code status : Nat) (l : List Nat) (bad : Nat → Bool) : Option (Nat × Nat × Nat) :=
    match l.find? bad with
    | some e => some (code, status, e)
    | none => none
  let binds := bindEntries c b
  let res := resEntries c b
  let same := match c.tab.active with | some a => decide (imDrone c a = imDrone c b) | none => true
  (if change && !same then some (0x27, stPARAM, 0x18) else none) <|>
  fail 0x20 stHANDLE binds (fun e => (boundSlot c b e).isNone) <|>
  fail 0x21 stHANDLE binds (fun e => !bindParty c b e) <|>
  fail 0x22 stHANDLE binds (fun e => !bindLink c b e) <|>
  fail 0x23 stNORESOURCE res (resClash c b) <|>
  fail 0x24 stSTATE res (fun e => decide (epKind (imW c b e) = 0) && decide (2 ≤ imF c b (e + 8) 1) &&
    rejectsWrites c (epUnit (imW c b e))) <|>
  fail 0x25 stDOMAINOFF res (fun e => match resExtent c b e with | some (lo, hi) => !extentOn c lo hi | none => false) <|>
  fail 0x25 stDOMAINOFF (camEntries c b) (fun e =>
    (List.range 32).any (fun k => camGives c b k e && !gateOpen c (2 * k + 1))) <|>
  fail 0x26 stSTATE (reqEntries c b) (fun e => decide ((portOf c (imF c b e 1)).mode ≠ imF c b (e + 1) 1))

/-- The clusters an image's directory names. -/
def camMask (c : Chip) (b : Nat) : Nat := (camEntries c b).foldl (fun m e => m ||| imF c b e 4) 0

/-! ### The engine's registers (R389 to R396) -/

/-- TAB registers used by name. -/
def rTAB (o : Nat) : Nat := 0x60005000 + o

/-- Sets a bit of TAB.EVSTAT (R382). -/
def tabEv (c : Chip) (n : Nat) : Chip := regOr c (rTAB 0x038) (2 ^ n)

/-- The served position H. -/
def servedH (c : Chip) : Word := regVal c (rTAB 0x010)

/-- Sets H. -/
def setH (c : Chip) (w : Word) : Chip := regPut c (rTAB 0x010) w

/-- The drone an active tablature follows. -/
def followed (c : Chip) : Option Nat := c.tab.active.map (imDrone c)

/-- The followed drone whose forward steps a speed window counts, also while a first start is staged or armed and while the
engine is stopped (R358, R378). -/
def counted (c : Chip) (d : Nat) : Bool :=
  decide ((c.tab.active.or (c.tab.arm.map (fun a => a.bank))).map (imDrone c) = some d)

/-- Forward steps join the window (R378). -/
def addSteps (c : Chip) (n : Nat) : Chip := { c with tab := { c.tab with win := c.tab.win + n } }

/-- Has the followed drone reached the stop position of an ordered detach, while notes due before it are still to be issued
(R71 step 2)? -/
def stopReached (c : Chip) : Bool := match c.sys.detach with | some d => d.reached | none => false

/-- The stop position an ordered detach waits for (R69, R71). -/
def stopPos (c : Chip) : Option Word := match c.sys.detach with | some d => d.stop | none => none

/-- Does the engine serve an active tablature: RUNNING or CHANGEOVER, or DETACHING up to its stop position? -/
def tabRuns (c : Chip) : Bool :=
  c.tab.active.isSome && (decide (c.dev = .running) || decide (c.dev = .changeover) ||
    (decide (c.dev = .detaching) && (stopPos c).isSome && !stopReached c))

/-- Does the issue point issue notes? -/
def tabIssues (c : Chip) : Bool := tabRuns c || (c.tab.active.isSome && stopReached c)

/-- The end of R71 step 2: the stop position is reached and its last note before it issued. -/
def stopIfLast (c : Chip) : Chip :=
  if stopReached c ∧ c.tab.dueP = [] ∧ c.tab.dueT = [] then tabStop c else c

/-- The position a walk makes due of the phase stave of bank `b`: note indices with that OFFSET, in image order (R326,
R364). -/
def notesAt (c : Chip) (b phi : Nat) : List Nat :=
  (List.range (imPscnt c b)).filter (fun i => decide (nOffset (imW c b (imF c b 0x20 4 + 16 * i)) = phi))

/-- The four words of a note. -/
def noteWord (c : Chip) (b : Nat) (time : Bool) (i j : Nat) : Word :=
  imW c b (imF c b (if time then 0x28 else 0x20) 4 + 16 * i + 4 * j)

/-- Stamped positions with notes not yet issued (R365). -/
def stampedHeld (l : List Due) : Nat := ((l.filter (fun d => d.stamped)).map (fun d => d.pos)).eraseDups.length

/-- The due unit admits positions that wait for a stamp, oldest first, each stamped when it is admitted (R365); `n` is
fuel. -/
def stampDue (now : Nat) : Nat → List Due → List Due
  | 0, l => l
  | n + 1, l =>
    match l.find? (fun d => !d.stamped) with
    | none => l
    | some d =>
      if stampedHeld l < 256 then
        stampDue now n (l.map (fun x => if x.stamped = false ∧ x.pos = d.pos ∧ x.bank = d.bank then { x with stamped := true, stamp := now } else x))
      else l

/-- Notes of a passed position fall due (R364, R365). -/
def dueAt (c : Chip) (b : Nat) (p : Word) (stamp : Nat) : Chip :=
  let l := notesAt c b (bits p 15 0)
  if l.isEmpty then c
  else
    let held := stampedHeld c.tab.dueP
    let full := decide (256 ≤ held) || c.tab.dueP.any (fun d => !d.stamped)
    let new : List Due := l.map (fun i => ⟨false, b, i, p.toNat, stamp, !full⟩)
    let c := { c with tab := { c.tab with dueP := c.tab.dueP ++ new } }
    if full then tabEv (regCount c (rTAB 0x07C) 31 0 1) 0
    else regMax c (rTAB 0x128) 31 0 (held + 1)

/-- Notes of a phase stave whose OFFSET a walk of `n` positions behind H passes (R367, R368). -/
def passedNotes (c : Chip) (b : Nat) (h : Word) (n : Nat) : Nat :=
  let first := (h + 1).toNat % 65536
  n / 65536 * imPscnt c b +
    ((List.range (imPscnt c b)).filter (fun i =>
      decide ((nOffset (noteWord c b false i 0) + 65536 - first) % 65536 < n % 65536))).length

/-- Is an issued CAMOUT of number at most `n` for engine `e` not yet handed to it? -/
def camoutWaits (c : Chip) (e n : Nat) : Bool :=
  c.tab.lanes.any (fun l => l.2.q.any (fun j => decide (nOp j.w0 = 5) && decide (bits j.w1 4 0 = e) && decide (j.no ≤ n)))

/-- Are phase notes of the old tablature still to be issued (R388)? -/
def oldPhaseDue (c : Chip) : Bool := c.tab.dueP.any (fun d => decide (c.tab.active ≠ some d.bank))

/-- The set switch of an engine enters its stream once every old phase note has been issued, the old CAMOUTs before it have
entered it, and the stream has room (R385, R388). -/
def camSwitchPush (c : Chip) (e : Nat) : Chip :=
  match (camOf c e).sw with
  | none => c
  | some n =>
    if oldPhaseDue c ∨ camoutWaits c e n ∨ 8 ≤ (camOf c e).queue.length then c
    else camPush (updCam c e (fun m => { m with sw := none })) e ⟨2, 0, 0, 0, 0, 0, 0, 0⟩

/-- Every set switch that can enter its stream does. -/
def camSwitches (c : Chip) : Chip := (List.range 32).foldl camSwitchPush c

/-- Notes issued and not complete. -/
def openJobs (c : Chip) : Nat :=
  c.tab.lanes.foldl (fun n l => n + l.2.q.length + (l.2.fl.filter (fun j => decide (j.st ≠ 2))).length) 0

/-- The changeover or first start at P, in the walk before any note of P (R359, R360, R385, R387). -/
def changeover (c : Chip) (a : Arm) (stamp : Nat) : Chip :=
  let old := c.tab.active
  let mask := camMask c a.bank
  let c := regPut (regPut (regPut c (rTAB 0x018) a.p) (rTAB 0x01C) (wd stamp)) (rTAB 0x020) (wd (stamp / 2 ^ 32))
  let c := regWrap (regPut c (rTAB 0x114) (wd (openJobs c))) (rTAB 0x110) 31 0 1
  let c := setH c (a.p - 1)
  let c := match old with | some b => setBank c b 3 | none => c
  let c := setBank c a.bank 6
  let n := c.tab.issueNo
  let c := ((List.range 32).filter mask.testBit).foldl (fun c e => updCam c e (fun m => { m with sw := some n })) c
  let t := c.tab
  let c := { c with tab := { t with arm := none, active := some a.bank, chgDue := true, tsQ := t.tsQ ++ [(a.bank, c.tb)],
                                    fetchP := t.fetchP2, fetchT := t.fetchT2, fetchP2 := t.fetchP, fetchT2 := t.fetchT,
                                    lastFwd := true, stopped := false } }
  let c := camSwitches (setDev (tabEv c 4) .running 0)
  complete c a.reply stOK (wd a.bank)

/-- Is the armed changeover or first start ready to take place at its position (bank ARMED)? -/
def armReady (c : Chip) : Option Arm :=
  match c.tab.arm with
  | some a => if a.staged ∧ (c.dev = .armed ∨ c.dev = .changeover) then some a else none
  | none => none

/-- One passed position. -/
def walkPos (c : Chip) (stamp : Nat) : Chip :=
  let p := servedH c + 1
  let c := match armReady c with
    | some a => if a.p = p then changeover c a stamp else c
    | none => c
  match c.tab.active with
  | some b =>
    if stopReached c then c
    else if stopPos c = some p then
      stopIfLast { c with sys := { c.sys with detach := c.sys.detach.map (fun d => { d with reached := true }) } }
    else if c.dev = .detaching ∧ (stopPos c).isNone then c
    else setH (dueAt c b p stamp) p
  | none => c

/-- The engine walks `n` positions behind H (R364). -/
def walk (c : Chip) (stamp : Nat) : Nat → Chip
  | 0 => c
  | n + 1 => walk (walkPos c stamp) stamp n

/-- Reverse motion: the followed drone stands at or behind H (R366). -/
def reverse (c : Chip) (back : Bool) (diff : Int) : Chip :=
  let c := if back ∧ diff < 0 then
      let c := if c.tab.lastFwd then tabEv (regOr c (rTAB 0x004) 0x10) 7 else c
      regMax c (rTAB 0x11C) 31 0 diff.natAbs
    else c
  { c with tab := { c.tab with lastFwd := !back } }

/-- The drone passes H: its positions are walked as one advance (R364). -/
def advance (c : Chip) (n : Nat) : Chip :=
  let c := regClr c (rTAB 0x004) 0x10
  walk { c with tab := { c.tab with lastFwd := true } } c.tb n

/-- The first start that waits for this drone. -/
def firstStart (c : Chip) (d : Nat) : Option Arm :=
  match armReady c with
  | some a => if c.dev = .armed ∧ imDrone c a.bank = d then some a else none
  | none => none

/-- The position a walk to `pos` begins behind: H, but P − 1 where a changeover is armed at a position not ahead of H, a
drone that stands behind H having reached it (R359, R388). -/
def walkFrom (c : Chip) (pos : Word) : Word :=
  match armReady c with
  | some a => if c.dev = .changeover ∧ 0 ≤ sgn (servedH c - a.p) ∧ 0 ≤ sgn (pos - a.p) then a.p - 1 else servedH c
  | none => servedH c

/-- A drone has presented one step (R364, R366, R378, R448); its position is already the new one. -/
def tabStep (c : Chip) (d : Nat) (fwd : Bool) : Chip :=
  let pos := dronePos c d
  let c := if fwd ∧ counted c d then addSteps c 1 else c
  match firstStart c d with
  | some a =>
    let diff := sgn (pos - (a.p - 1))
    if 0 < diff then advance (setH c (a.p - 1)) diff.toNat else c
  | none =>
    if tabRuns c ∧ followed c = some d then
      let h := walkFrom c pos
      let diff := sgn (pos - h)
      if 0 < diff then advance (setH c h) diff.toNat else reverse c (!fwd) diff
    else c

/-- A jump of the followed drone (R364, R367). -/
def jump (c : Chip) (pos : Word) (n : Nat) : Chip :=
  let skipped := match c.tab.active with | some b => passedNotes c b (servedH c) n | none => 0
  let c := regCount (regCount c (rTAB 0x05C) 31 0 skipped) (rTAB 0x120) 31 0 1
  enterHalted (setH (tabEv c 8) pos) 3

/-- A written position of a drone (R367); the position is already the new one, `old` the one before. -/
def tabWritten (c : Chip) (d : Nat) (old : Word) : Chip :=
  let pos := dronePos c d
  match firstStart c d with
  | some a =>
    let diff := sgn (pos - (a.p - 1))
    if 65536 < diff then jump c pos diff.toNat
    else if 0 < diff then advance (setH (addSteps c diff.toNat) (a.p - 1)) diff.toNat
    else c
  | none =>
    if tabRuns c ∧ followed c = some d then
      let h := walkFrom c pos
      let diff := sgn (pos - h)
      if 65536 < sgn (pos - servedH c) then jump c pos (sgn (pos - servedH c)).toNat
      else if 0 < diff then advance (setH (addSteps c diff.toNat) h) diff.toNat
      else if sgn (pos - old) = 0 then c
      else reverse c (decide (sgn (pos - old) < 0)) diff
    else c

/-- The engine starts to run again from HALTED (R368). -/
def tabResume (c : Chip) : Chip :=
  match c.tab.active with
  | none => c
  | some b =>
    let pos := dronePos c (imDrone c b)
    let diff := sgn (pos - servedH c)
    let c := if 0 < diff then regCount c (rTAB 0x05C) 31 0 (passedNotes c b (servedH c) diff.toNat) else c
    let c := setH (regClr c (rTAB 0x004) 0x10) pos
    { c with tab := { c.tab with tsBank := none, tsQ := [(b, c.tb)], frame := none, tIdx := 0, fetchP := 0, fetchT := 0,
                                 fetchP2 := 0, fetchT2 := 0, stalled := [], stopped := false, lastFwd := true } }

/-- No tablature is active any more: the bank becomes VERIFIED (R542). -/
def tabEndActive (c : Chip) : Chip :=
  match c.tab.active with
  | none => c
  | some b =>
    let c := regClr (setBank c b 3) (rTAB 0x004) 0x10
    { c with tab := { c.tab with active := none, tsBank := none, tsQ := [], frame := none, tIdx := 0 } }

/-! ### The issue point (R369 to R371, R373, R377, R379, R380) -/

/-- The index word of a record of R396. -/
def recIdx (idx : Nat) (time : Bool) (lane cause : Nat) : Word :=
  wd (idx + 2 ^ 19 * b1 time + 2 ^ 20 * lane + 2 ^ 24 * cause)

/-- Does overspeed hold (R378)? -/
def overspeed (c : Chip) : Bool := bit (regVal c (rTAB 0x004)) 3 || bit (regVal c (rTAB 0x13C)) 0

/-- DROPEN. -/
def dropEn (c : Chip) : Bool := bit (regVal c (rTAB 0x000)) 1

/-- The late threshold. -/
def lateTh (c : Chip) : Nat := regFld c (rTAB 0x030) 19 0

/-- A note is dropped (R380). -/
def dropNote (c : Chip) (d : Due) : Chip :=
  let lane := nLane (noteWord c d.bank d.time d.idx 3)
  tabEv (regPut (regCount c (rTAB 0x054 + 4) 31 0 1) (rTAB 0x078) (recIdx d.idx d.time lane 0)) 2

/-- A time-stave note falls due; with DROPEN, the same droppable note of an earlier frame still waiting is dropped
(R369, R371). -/
def timeDue (c : Chip) (b idx moment : Nat) : Chip :=
  let drop (d : Due) : Bool := decide (d.bank = b) && decide (d.idx = idx) && nDrop (noteWord c b true idx 0) && dropEn c
  let c1 := (c.tab.dueT.filter drop).foldl dropNote c
  { c1 with tab := { c1.tab with dueT := c1.tab.dueT.filter (fun d => !drop d) ++ [⟨true, b, idx, 0, moment, true⟩], tIdx := idx + 1 } }

/-- The due moment of the next time-stave note of the frame in hand. -/
def nextMoment (c : Chip) : Option (Nat × Nat) :=
  match c.tab.tsBank, c.tab.frame with
  | some b, some f =>
    if c.tab.tIdx < imTscnt c b then some (b, f + 16 * nOffset (noteWord c b true c.tab.tIdx 0)) else none
  | _, _ => none

/-- The notes of the frame in hand whose due moment lies before `limit` fall due; `n` is fuel. -/
def dueBefore (c : Chip) (limit : Nat) : Nat → Chip
  | 0 => c
  | n + 1 =>
    match nextMoment c with
    | some (b, m) => if m < limit then dueBefore (timeDue c b c.tab.tIdx m) limit n else c
    | none => c

/-- The notes still to come in the frame in hand. -/
def framesLeft (c : Chip) : Nat := match c.tab.tsBank with | some b => imTscnt c b | none => 0

/-- The first frame boundary of a bank's time stave at or after a moment; that moment where the bank has no frames (R327). -/
def firstBoundary (c : Chip) (b from_ : Nat) : Nat :=
  let t := imTper c b
  let a := imTalign c b
  if t = 0 then from_ else if from_ ≤ a then a else from_ + (t - (from_ - a) % t) % t

/-- The moment a time stave that follows `prev` begins: a frame boundary of its own, or, where it is empty, of the stave
before it (R359, R360). -/
def staveStart (c : Chip) (prev : Option Nat) (e : Nat × Nat) : Nat :=
  match (if imTscnt c e.1 = 0 then prev else some e.1) with
  | some b => firstBoundary c b e.2
  | none => e.2

/-- The time stave that follows the one in force: its bank, the moment it begins, and those that follow it. One that would
begin no earlier than its own follower never begins. -/
def nextStave (c : Chip) : Option Nat → List (Nat × Nat) → Option (Nat × Nat × List (Nat × Nat))
  | _, [] => none
  | prev, e :: t =>
    let s := staveStart c prev e
    match nextStave c (some e.1) t with
    | some r => if r.2.1 ≤ s then some r else some (e.1, s, t)
    | none => some (e.1, s, t)

/-- The time stave that follows the one in force now. -/
def comingStave (c : Chip) : Option (Nat × Nat × List (Nat × Nat)) := nextStave c c.tab.tsBank c.tab.tsQ

/-- Does a moment of the time stave in force lie before the one that follows it begins? -/
def inForce (c : Chip) (m : Nat) : Bool := match comingStave c with | some r => decide (m < r.2.1) | none => true

/-- The next frame of the time stave in force, where it has been reached. -/
def nextFrame (c : Chip) : Option (Nat × Nat) :=
  match c.tab.tsBank, c.tab.frame with
  | some b, some f => if f + imTper c b ≤ c.tb ∧ inForce c (f + imTper c b) then some (b, f + imTper c b) else none
  | _, _ => none

/-- A frame of a bank's time stave begins (R327, R371). -/
def beginFrame (c : Chip) (b start : Nat) : Chip :=
  let c := dueBefore c start (framesLeft c)
  let c := if c.tab.dueT.isEmpty then c else tabEv (regCount c (rTAB 0x10C) 31 0 1) 6
  let c := regWrap (regPut (regPut c (rTAB 0x044) (wd start)) (rTAB 0x048) (wd (start / 2 ^ 32))) (rTAB 0x108) 31 0 1
  { c with tab := { c.tab with tsBank := some b, frame := some start, tIdx := 0 } }

/-- The time stave of a bank comes into force at a moment; an empty one only ends the one before it (R359, R360). -/
def beginStave (c : Chip) (b start : Nat) (rest : List (Nat × Nat)) : Chip :=
  let c :=
    if imTscnt c b = 0 then
      let c := dueBefore c start (framesLeft c)
      { c with tab := { c.tab with tsBank := none, frame := none, tIdx := 0 } }
    else beginFrame c b start
  { c with tab := { c.tab with tsQ := rest } }

/-- FRAME_START: a frame boundary has been reached: the next frame of the time stave in force begins, or the stave that
follows it (R327, R359, R360, R368). -/
def xFrameStart (c : Chip) : Chip :=
  if !tabRuns c then c
  else
    match nextFrame c with
    | some (b, s) => beginFrame c b s
    | none =>
      match comingStave c with
      | some (b, s, rest) => if s ≤ c.tb then beginStave c b s rest else c
      | none => c

/-- The command FRAME_START. -/
def execFrameStart (s : State) : Host.Outcome State Fault Refusal :=
  onChip s (fun c => xFrameStart c)

/-- TIME_NOTE_DUE: the next time-stave note of the frame in hand falls due; none once the stave that follows has begun (R359,
R369). -/
def xTimeNoteDue (c : Chip) : Chip :=
  if !tabRuns c then c
  else
    match nextMoment c with
    | some (b, m) => if m ≤ c.tb ∧ inForce c m then timeDue c b c.tab.tIdx m else c
    | none => c

/-- The command TIME_NOTE_DUE. -/
def execTimeNoteDue (s : State) : Host.Outcome State Fault Refusal :=
  onChip s (fun c => xTimeNoteDue c)

/-- Notes in hand after the fetch has read `n` more, at most 512. -/
def readAhead (held n : Nat) : Nat := Nat.min 512 (held + n)

/-- Does the fetch read ahead for a bank that is not active: one is armed, or an old stave still has notes to issue (R359,
R384)? -/
def fetchesOther (c : Chip) (time : Bool) : Bool :=
  (armReady c).isSome || (if time then c.tab.dueT else c.tab.dueP).any (fun d => decide (c.tab.active ≠ some d.bank)) ||
    (time && c.tab.tsBank.isSome && decide (c.tab.tsBank ≠ c.tab.active))

/-- NOTE_FETCH: the note fetch reads up to 512 notes ahead for a stave of the active tablature, and for that of one that is
armed or still has notes to issue (R372, R384). -/
def xNoteFetch (c : Chip) (time : Bool) (n : Nat) : Chip :=
  let t := c.tab
  let t := if !tabIssues c then t
    else if time then { t with fetchT := readAhead t.fetchT n } else { t with fetchP := readAhead t.fetchP n }
  let t := if !fetchesOther c time then t
    else if time then { t with fetchT2 := readAhead t.fetchT2 n } else { t with fetchP2 := readAhead t.fetchP2 n }
  { c with tab := t }

/-- The command NOTE_FETCH. -/
def execNoteFetch (time : Bool) (n : Nat) (s : State) : Host.Outcome State Fault Refusal :=
  onChip s (fun c => xNoteFetch c time n)

/-- The next due note at the issue point: the earlier due moment, the time stave on equal ones (R370). -/
def nextDue (c : Chip) : Option Due :=
  match c.tab.dueT, c.tab.dueP with
  | t :: _, p :: _ => if t.stamp ≤ p.stamp then some t else some p
  | t :: _, [] => some t
  | [], p :: _ => some p
  | [], [] => none

/-- Notes read ahead that stand for a due note: those of its bank's stave (R372, R384). -/
def inHand (c : Chip) (d : Due) : Nat :=
  if c.tab.active = some d.bank then (if d.time then c.tab.fetchT else c.tab.fetchP)
  else if d.time then c.tab.fetchT2 else c.tab.fetchP2

/-- One note read ahead is used. -/
def useFetched (t : Tab) (d : Due) : Tab :=
  if t.active = some d.bank then
    (if d.time then { t with fetchT := t.fetchT - 1 } else { t with fetchP := t.fetchP - 1 })
  else if d.time then { t with fetchT2 := t.fetchT2 - 1 } else { t with fetchP2 := t.fetchP2 - 1 }

/-- Takes the note at the issue point off the due unit. -/
def takeDue (c : Chip) (d : Due) : Chip :=
  let t := useFetched c.tab d
  let t := { t with stalled := t.stalled.filter (· ≠ d) }
  if d.time then { c with tab := { t with dueT := t.dueT.drop 1 } }
  else { c with tab := { t with dueP := stampDue c.tb t.dueP.length (t.dueP.drop 1) } }

/-- Lane register `o` of lane `l` (R397). -/
def laneReg (l o : Nat) : Nat := rTAB 0x080 + l * 0x20 + o

/-- A lane. -/
def laneOf (c : Chip) (l : Nat) : Lane := Tbl.get {} c.tab.lanes l

/-- Changes a lane. -/
def updLane (c : Chip) (l : Nat) (f : Lane → Lane) : Chip :=
  { c with tab := { c.tab with lanes := Tbl.put {} c.tab.lanes l (f (laneOf c l)) } }

/-- A late note is counted and recorded (R377). -/
def noteLate (c : Chip) (idx : Nat) (time : Bool) (pos due lane lateness : Nat) : Chip :=
  let c := regCount (regCount c (rTAB 0x050) 31 0 1) (laneReg lane 0x10) 31 0 1
  let c := regMax c (rTAB 0x060) 31 0 lateness
  let c := regPut (regPut c (rTAB 0x064) (recIdx idx time lane 0)) (rTAB 0x068) (wd (if time then due else pos))
  tabEv (regPut c (rTAB 0x06C) (wd (sat lateness 0xFFFFFFFF))) 0

/-- A note is issued to its lane; an old phase note issued after a changeover goes before the set switches (R373, R377, R386,
R388). -/
def issue (c : Chip) (d : Due) (w0 w1 w2 w3 : Word) : Chip :=
  let lane := nLane w3
  let lateness := c.tb - d.stamp
  let c := takeDue c d
  let c := regWrap c (rTAB 0x04C) 31 0 1
  let c := if d.time then c else regPut c (rTAB 0x00C) (dronePos c (imDrone c d.bank))
  let c := if lateTh c < lateness then noteLate c d.idx d.time d.pos d.stamp lane lateness else c
  let chg := c.tab.chgDue && decide (c.tab.active = some d.bank)
  let no := c.tab.issueNo + 1
  let fence := chg && bit (regVal c (rTAB 0x000)) 0
  let c := { c with tab := { c.tab with issueNo := no, chgDue := c.tab.chgDue && !chg } }
  let c := updLane c lane (fun l =>
    { l with q := l.q ++ [⟨no, d.time, d.bank, d.idx, d.pos, d.stamp, w0, w1, w2, w3, fence, c.tb, 0, 0⟩] })
  let c := if d.time ∨ c.tab.active = some d.bank then c
    else { c with cams := c.cams.map (fun (e : Nat × Cam) => (e.1, { e.2 with sw := e.2.sw.map (fun _ => no) })) }
  regMax c (laneReg lane 0x18) 31 0 (laneOf c lane).q.length

/-- NOTE_ISSUE: the issue point takes the next due note; `bad` is the word of the note in which the store finds an
uncorrectable error, 4 or more none. A droppable phase note late under overspeed is dropped; a note not in hand waits
for its fetch; while the queue of its lane is full the issue point waits (R370, R372, R373, R379, R652). -/
def xNoteIssue (c : Chip) (bad : Nat) : Chip :=
  if !tabIssues c then c
  else
    match nextDue c with
    | none => c
    | some d =>
      let w (i : Nat) : Word := noteWord c d.bank d.time d.idx i
      if inHand c d = 0 then
        (if d ∈ c.tab.stalled then c
         else regCount { c with tab := { c.tab with stalled := c.tab.stalled ++ [d] } } (rTAB 0x124) 31 0 1)
      else
        let ga := tabGa d.bank (imF c d.bank (if d.time then 0x28 else 0x20) 4 + 16 * d.idx)
        let badW := (List.range 4).find? (fun i => decide (i = bad) || decide (ga + 4 * i ∈ c.poison))
        match badW with
        | some i => fatal c 9 (wd ((ga + 4 * i) % 0x800000 + 0x800000 * d.bank))
        | none =>
          if !d.time && overspeed c && dropEn c && nDrop (w 0) && decide (lateTh c < c.tb - d.stamp) then
            camSwitches (stopIfLast (takeDue (dropNote c d) d))
          else if 32 ≤ (laneOf c (nLane (w 3))).q.length then c
          else camSwitches (stopIfLast (issue c d (w 0) (w 1) (w 2) (w 3)))

/-- The command NOTE_ISSUE. -/
def execNoteIssue (bad : Nat) (s : State) : Host.Outcome State Fault Refusal :=
  onChip s (fun c => xNoteIssue c bad)

/-- SPEED_WINDOW: a 1,000 µs window of the time base has ended (R378). -/
def xSpeedWindow (c : Chip) : Chip :=
  if c.tb / 1000000 = c.tab.winIdx ∨ !c.sys.per then c
  else
    let spd := c.tab.win * 1000
    let c := { c with tab := { c.tab with win := 0, winIdx := c.tb / 1000000 } }
    let c := regMax (regPut c (rTAB 0x024) (wd spd)) (rTAB 0x028) 31 0 spd
    let fast := match c.tab.active with | some b => decide (imMaxspd c b < spd) | none => false
    if fast then (if bit (regVal c (rTAB 0x004)) 3 then c else tabEv (regOr c (rTAB 0x004) 8) 3)
    else regClr c (rTAB 0x004) 8

/-- The command SPEED_WINDOW. -/
def execSpeedWindow (s : State) : Host.Outcome State Fault Refusal :=
  onChip s (fun c => xSpeedWindow c)

/-! ### Staging (R358, R417) -/

/-- The shadow tables a bank's directory gives a cluster. -/
def stagedSet (c : Chip) (b k : Nat) : Tbl (List Byte) :=
  ((camEntries c b).filter (camGives c b k)).foldl (fun t e => putTable t (imF c b (e + 4) 1) (imTable c b e)) []

/-- Is the set switch of an earlier changeover still to be performed by an engine that is on? -/
def switchOwed (c : Chip) (k : Nat) : Bool :=
  gateOpen c (2 * k + 1) && ((camOf c k).sw.isSome || (camOf c k).queue.any (fun o => decide (o.kind = 2)))

/-- The staging copy of an engine ends: its shadow set holds what its directory entries give; one whose domain is off keeps no
tables (R417, R422). -/
def stageEngine (c : Chip) (b k : Nat) : Chip :=
  updCam c k (fun m =>
    { (setShadow m (if gateOpen c (2 * k + 1) then stagedSet c b k else [])) with staging := false, shadowBad := [] })

/-- What table memory meets in the staging copies: in engine `e`, at word `at_` of the table at selector `sel`, a single-bit
error (`ecc` 1) or an uncorrectable one (2), with which that table's copy fails (R421). -/
def stageEcc (c : Chip) (mask e sel ecc at_ : Nat) : Chip :=
  let l := Tbl.get [] (camShadow (camOf c e)) sel
  if mask.testBit e = false ∨ camOn c e = false ∨ l.length / 4 ≤ at_ then c
  else if ecc = 1 then regOr (regCount c (camReg e 7) 31 16 1) (camReg e 1) 4
  else if ecc = 2 then
    let c := updCam c e (fun m => setShadow m (putTable (camShadow m) sel []))
    camFailure (regOr c (camReg e 1) 8) e 0x14 sel
  else c

/-- Whether table memory meets an error in the staging copies of the engines of a mask, and where, is open. -/
def stageMemory (c : Chip) (mask : Nat) : Chip :=
  let (c, w) := fresh c
  stageEcc c mask (bits w 4 0) (bits w 9 5) (bits w 11 10) (bits w 31 12)

/-- STAGING_END: every table is copied into the shadow sets; the followed drone's position decides (R358). A copy into a set
that an earlier switch has yet to make active waits for the switch. -/
def xStagingEnd (c : Chip) : Chip :=
  match c.tab.arm with
  | none => c
  | some a =>
    if a.staged ∨ ((List.range 32).filter a.mask.testBit).any (switchOwed c) then c
    else
      let c := stageMemory (((List.range 32).filter a.mask.testBit).foldl (fun c k => stageEngine c a.bank k) c) a.mask
      let d := dronePos c (imDrone c a.bank)
      let p := if a.now then d + 1 else a.p
      if 1 ≤ sgn (p - d) then
        setBank { c with tab := { c.tab with arm := some { a with p := p, staged := true }, fetchP2 := 0, fetchT2 := 0 } } a.bank 5
      else
        let c := dropShadows (setBank c a.bank 3) a.mask
        let c := tabEv { c with tab := { c.tab with arm := none, lasterr := d } } 5
        complete (setDev c (if a.running then .running else .configured) 0) a.reply stTIMEOUT d

/-- The command STAGING_END. -/
def execStagingEnd (s : State) : Host.Outcome State Fault Refusal :=
  onChip s (fun c => xStagingEnd c)

/-! ### Clears and verification (R352, R354) -/

/-- TAB_CLEAR_DONE: the clear of a bank ends; it takes content from now on. -/
def xTabClearDone (c : Chip) (b : Nat) : Chip :=
  match (if b = 0 then c.tab.clearA else if b = 1 then c.tab.clearB else none) with
  | none => c
  | some r =>
    let c := clearRange c (tabGa b 0) (tabGa b 0x800000)
    let c := { c with tab := if b = 0 then { c.tab with clearA := none } else { c.tab with clearB := none } }
    complete c r stOK 0

/-- The command TAB_CLEAR_DONE on a unit that exists. -/
def execTabClearDone (b : Nat) (s : State) : Host.Outcome State Fault Refusal :=
  onUnit (isBank b) s (fun c => xTabClearDone c b)

/-- TAB_VERIFY_DONE: the verification of a bank ends; an uncorrectable word that a check reads ends it with FAULT (R354,
R256). -/
def xTabVerifyDone (c : Chip) (b : Nat) : Chip :=
  match (if b = 0 then c.tab.verA else if b = 1 then c.tab.verB else none) with
  | none => c
  | some r =>
    let c := { c with tab := if b = 0 then { c.tab with verA := none } else { c.tab with verB := none } }
    match verifyImage c b with
    | .fault => complete (setBank c b 1) r stFAULT 0
    | .passes => complete (setBank c b 3) r stOK (wd (imLength c b))
    | .fails code off =>
      let w := wd (off % 0x1000000 + 0x1000000 * code)
      complete { (setBank c b 1) with tab := { (setBank c b 1).tab with lasterr := w } } r stPARAM w

/-- The command TAB_VERIFY_DONE on a unit that exists. -/
def execTabVerifyDone (b : Nat) (s : State) : Host.Outcome State Fault Refusal :=
  onUnit (isBank b) s (fun c => xTabVerifyDone c b)

end Sys2Proof.Machine
end

