-- ==== Sys2Proof/Machine/Ports.lean ====
section
/-! DEFINITION. The field ports outside LINK (R430 to R465, R715, R716): registers, reconfiguration, drivers, and the
engines of the modes. -/

namespace Sys2Proof.Machine

open Sys2Proof

/-! ### Modes, drivers (R430 to R437) -/

/-- Is a sub-mode listed for a mode? -/
def subOk (mode sub : Nat) : Bool :=
  if mode = 2 then decide (sub ≤ 2) else if mode = 3 ∨ mode = 5 then decide (sub ≤ 1) else decide (sub = 0)

/-- Has a mode a pair in an out role? -/
def hasOut (mode : Nat) : Bool := mode = 1 || mode = 2 || mode = 4

/-- May the pairs in an out role drive: DRVEN, no ILIM, no SAFEH, READY (R434)? -/
def enabled (c : Chip) (p : Nat) : Bool :=
  let r := portOf c p
  hasOut r.mode && bit (regVal c (fpReg p 0x00)) 9 && !r.ilim && !r.safeh && r.ready

/-- Can the pairs in an out role drive now: enabled, and no change of level or termination settling on them (R431, R434)? -/
def canDrive (c : Chip) (p : Nat) : Bool :=
  let r := portOf c p
  enabled c p && !r.settleA && !(decide (r.mode = 4) && r.settleB)

/-- Is a port's pair A the half-duplex pair (R430)? -/
def isHalf (r : Port) : Bool := decide (r.mode = 2) && decide (r.sub = 1)

/-- Do the pairs in an out role drive: in half duplex pair A drives only while it transmits (R430, R459)? -/
def driving (c : Chip) (p : Nat) : Bool :=
  let r := portOf c p
  canDrive c p && !(isHalf r && r.tx.isEmpty)

/-- Is the receiver of pair A on (R430)? -/
def rxOnA (r : Port) : Bool := decide (r.mode = 3) || decide (r.mode = 5) || (isHalf r && r.tx.isEmpty)

/-- Is the receiver of pair B on (R430)? -/
def rxOnB (r : Port) : Bool :=
  decide (r.mode = 1) || (decide (r.mode = 2) && !decide (r.sub = 1)) || decide (r.mode = 3) || (decide (r.mode = 5) && decide (r.sub = 1))

/-- STAT (R463). -/
def fpStat (c : Chip) (p : Nat) : Word :=
  let r := portOf c p
  wd (r.mode + 8 * r.sub + 32 * b1 r.ready + 64 * b1 (driving c p) + 128 * b1 r.ilim + 256 * b1 r.safeh +
    512 * b1 (rxOnA r && r.rxa) + 1024 * b1 (rxOnB r && r.rxb) + 65536 * (r.safec % 256)) ||| (regVal c (fpReg p 0x04) &&& 0x8000)

/-- Sets bits of EVSTAT. -/
def fpEv (c : Chip) (p m : Nat) : Chip := regOr c (fpReg p 0x14) m

/-- ERRCNT.LINE and EVSTAT.LINE. -/
def fpLine (c : Chip) (p : Nat) : Chip := fpEv (regCount c (fpReg p 0x2C) 7 0 1) p 0x100

/-- ERRCNT.LOST and EVSTAT.LOST. -/
def fpLost (c : Chip) (p : Nat) : Chip := fpEv (regCount c (fpReg p 0x2C) 15 8 1) p 0x200

/-- ERRCNT.SKIP. -/
def fpSkip (c : Chip) (p : Nat) : Chip := regCount c (fpReg p 0x2C) 23 16 1

/-- A refused write of OUT (R437). -/
def fpRefuse (c : Chip) (p : Nat) : Chip := fpEv (regCount c (fpReg p 0x2C) 31 24 1) p 0x400

/-- CFGERR of the FP block. -/
def fpCfgErr (c : Chip) (p : Nat) : Chip := regOr c (fpReg p 0x04) 0x8000

/-- The default of CFG in a mode (R716). -/
def cfgDefault (mode sub : Nat) : Word :=
  if mode = 1 then 0x407D0019
  else if mode = 2 then (if sub = 2 then 0x145900C8 else 0x014006C8)
  else if mode = 3 then 4
  else if mode = 4 then 0x10000064
  else if mode = 5 then 0x400
  else 0

/-- A field of a value: kept where it is legal, else its default. -/
def legal (v d : Word) (hi lo : Nat) (ok : Nat → Bool) : Word := if ok (bits v hi lo) then v else setBits v hi lo (bits d hi lo)

/-- CFG as it is stored after a write: reserved fields 0, reserved values at their defaults (R443, R446, R454, R457,
R460, R490). -/
def cfgStored (mode sub : Nat) (w : Word) : Word :=
  let d := cfgDefault mode sub
  if mode = 1 then
    let v := w &&& 0xFFFF1FFF
    legal (legal (legal v d 11 0 (fun n => decide (1 ≤ n))) d 27 16 (fun n => decide (1 ≤ n))) d 31 28 (fun n => decide (1 ≤ n))
  else if mode = 2 then
    if sub = 2 then
      let v := w &&& 0xFF7FFFFF
      legal (legal (legal v d 15 0 (fun n => decide (10 ≤ n))) d 21 16 (fun n => decide (8 ≤ n) && decide (n ≤ 32))) d 31 24
        (fun n => decide (1 ≤ n))
    else
      let v := w &&& 0x0FF7FFFF
      legal (legal (legal v d 15 0 (fun n => decide (10 ≤ n))) d 17 16 (fun n => decide (n ≤ 2))) d 27 20 (fun n => decide (1 ≤ n))
  else if mode = 3 then w &&& 0x1FF
  else if mode = 4 then legal (legal w d 15 0 (fun n => decide (20 ≤ n))) d 31 16 (fun n => decide (1 ≤ n))
  else if mode = 5 then legal (legal w d 1 0 (fun n => decide (n ≤ 2))) d 3 2 (fun n => decide (n ≤ 2))
  else 0

/-- The bits of CFG that a mode defines. -/
def cfgMask (mode sub : Nat) : Word :=
  if mode = 1 then 0xFFFF1FFF else if mode = 2 then (if sub = 2 then 0xFF7FFFFF else 0x0FF7FFFF)
  else if mode = 3 then 0x1FF else if mode = 4 ∨ mode = 5 then 0xFFFFFFFF else 0

/-- A write of CFG in the mode applied. -/
def cfgWrite (c : Chip) (p : Nat) (w : Word) : Chip :=
  let r := portOf c p
  if r.mode = 0 then c
  else
    let v := cfgStored r.mode r.sub w
    let c := if v = w &&& cfgMask r.mode r.sub then c else fpCfgErr c p
    regPut c (fpReg p 0x08) v

/-! ### Channels of a port (R440, R441) -/

/-- The slot of RXH when the handle passes the port's checks. -/
def portRx (c : Chip) (p : Nat) : Option Nat :=
  match slotOfHandle c (regFld c (fpReg p 0x0C) 15 0) with
  | some s =>
    let h := chanOf c s
    if h.closing = none ∧ h.broken = false ∧ h.prod = 4 * 4096 + p then some s else none
  | none => none

/-- The slot of TXH when the handle passes the port's checks. -/
def portTx (c : Chip) (p : Nat) : Option Nat :=
  match slotOfHandle c (regFld c (fpReg p 0x0C) 31 16) with
  | some s =>
    let h := chanOf c s
    if h.closing = none ∧ h.broken = false ∧ h.cons = 4 * 4096 + p ∧ h.fmt = 1 then some s else none
  | none => none

/-- Places a record costs on a channel. -/
def recCost (h : Chan) (r : PRec) : Nat := r.words.length + (if h.fmt = 1 then 1 else 0)

/-- Pushes a record of port `p` into its channel, with its credit on a stream channel; NEW is set once the record is visible
(R461, R462). -/
def portPush (c : Chip) (p s : Nat) (r : PRec) : Chip :=
  let n := recCost (chanOf c s) r
  let c := if (chanOf c s).kind = 1 then updChan c s (fun h => { h with credit := h.credit - n }) else c
  let c := sendFlits c (recordPath c p s) (itemFlits (4 * r.words.length))
  fpEv (chPushRecord c s (r.words.map (fun w => (⟨w, false⟩ : QWord))) r.tag).1 p 1

/-- Does a port hold a record: on a stream channel behind those it holds and until credit covers it, and while a stopped input
port lies on its way (R272, R441)? -/
def portWaits (c : Chip) (p s : Nat) (q : List PRec) (r : PRec) : Bool :=
  let h := chanOf c s
  decide (h.kind = 1 ∧ h.credit < recCost h r) || !q.isEmpty || pathHeld c (recordPath c p s)

/-- A record is not pushed: LOST; NEW of a capture or of a frame announces its registers alone, NEW of the asynchronous
receiver a pushed record, and there is none (R440, R441, R462). -/
def portLost (c : Chip) (p : Nat) : Chip :=
  let r := portOf c p
  if r.mode = 2 ∧ r.sub < 2 then fpLost c p else fpEv (fpLost c p) p 1

/-- A port has formed a record (R440, R441). -/
def portRecord (c : Chip) (p : Nat) (r : PRec) : Chip :=
  match portRx c p with
  | none => portLost c p
  | some s =>
    let q := (portOf c p).wait
    if portWaits c p s q r then
      (if 4 ≤ q.length then portLost c p else updPort c p (fun x => { x with wait := x.wait ++ [r] }))
    else portPush c p s r

/-- A capture or a frame: the registers are in place, and its record is pushed where RXH names a channel (R445, R455, R461). -/
def portAnnounce (c : Chip) (p : Nat) (r : PRec) : Chip :=
  if regFld c (fpReg p 0x0C) 15 0 = 0 then fpEv c p 1 else portRecord c p r

/-- The records of a port that wait for credit are pushed as credit allows; `n` is fuel. -/
def portDrain (c : Chip) (p : Nat) : Nat → Chip
  | 0 => c
  | n + 1 =>
    match (portOf c p).wait with
    | [] => c
    | r :: rest =>
      match portRx c p with
      | none => portDrain (portLost (updPort c p (fun x => { x with wait := rest })) p) p n
      | some s =>
        if portWaits c p s [] r then c
        else portDrain (portPush (updPort c p (fun x => { x with wait := rest })) p s r) p n

/-! ### Flushes of crossings (R603) -/

/-- The reset of one side of a crossing of domain `k`: `n` words and pulses are discarded and counted. -/
def countFlush (c : Chip) (k n : Nat) : Chip :=
  let c := regCount (regOr c 0x60002004 0x800) 0x60002018 31 0 n
  regCount (regWrap c (0x60002060 + 4 * k) 15 0 1) (0x60002060 + 4 * k) 31 16 n

/-- The flush of a channel bound through FP.CHAN: records waiting for credit are withdrawn (R321, R441). -/
def flushRx (c : Chip) (p : Nat) : Chip × Nat :=
  let q := (portOf c p).wait
  match slotOfHandle c (regFld c (fpReg p 0x0C) 15 0) with
  | some s =>
    let h := chanOf c s
    if h.prod = 4 * 4096 + p then flushChannel c s (q.foldl (fun n r => n + recCost h r) 0) q.length else (c, 0)
  | none => (c, 0)

/-- The flush of the channel a port pops. -/
def flushTx (c : Chip) (p : Nat) : Chip × Nat :=
  match slotOfHandle c (regFld c (fpReg p 0x0C) 31 16) with
  | some s => if (chanOf c s).cons = 4 * 4096 + p then flushChannel c s 0 0 else (c, 0)
  | none => (c, 0)

/-- A link queue whose port is reset loses its queued words and its retransmit buffer (R321). Notes that waited for its
frames are complete. -/
def flushLinkQ (c : Chip) (p k : Nat) : Chip × Nat :=
  let st := streamOf c p k
  match st.chan with
  | none => (c, 0)
  | some s =>
    let h := chanOf c s
    let n := h.lq.length + st.frames.foldl (fun n f => n + f.words.length) 0
    let c := st.frames.foldl (fun c f => if f.lane < 4 then noteDone c f.lane f.job else c) c
    let c := st.banks.foldl (fun c b => if b.lane < 4 then noteDone c b.lane b.job else c) c
    let c := updStream c p k (fun st => { st with banks := [], frames := [], retries := 0 })
    (updChan c s (fun h => { h with lq := [], lead := 0, need := 0, tailRun := false, tailf := false,
                                    lost := sat (h.lost + n) 0xFFFFFFFF, batch := 0, due := [],
                                    credit := if h.kind = 1 then chCap h else h.credit }), n)

/-- The crossings of a port are reset. -/
def flushPort (c : Chip) (p : Nat) : Chip :=
  let (c, a) := flushRx c p
  let (c, b) := flushTx c p
  let (c, d) := [0, 1, 2, 3].foldl (fun (c, n) k => let (c, m) := flushLinkQ c p k; (c, n + m)) (c, 0)
  countFlush { c with flushing := p :: c.flushing.filter (· ≠ p) } 2 (a + b + d)

/-! ### Reconfiguration (R433) -/

/-- A drone's record. -/
def droneOf (c : Chip) (d : Nat) : Drone := Tbl.get {} c.drones d

/-- Changes a drone. -/
def updDrone (c : Chip) (d : Nat) (f : Drone → Drone) : Chip :=
  { c with drones := Tbl.put {} c.drones d (f (droneOf c d)) }

/-- The drones under KIND 1 that a port feeds. -/
def fedBy (c : Chip) (p : Nat) : List Nat :=
  (List.range 16).filter (fun d =>
    decide (regFld c (drnReg d 0) 2 0 = 1) && decide (regFld c (drnReg d 0) 10 4 = p))

/-- A drone's source port no longer serves (R449). -/
def droneDown (c : Chip) (d : Nat) : Chip :=
  regOr (updDrone c d (fun r => { r with down := true })) (drnReg d 0x1C) 2

/-- Reconfigures a port with the CTL value that takes force (R433). In LINK the numbering of the streams is kept (R485). -/
def reconfigure (c : Chip) (p : Nat) (ctl : Word) : Chip :=
  let mode := bits ctl 2 0
  let sub := bits ctl 4 3
  let c := if inLink c p then linkDown c p else c
  let c := flushPort c p
  let c := regPut c (fpReg p 0x00) (setBits ctl 9 9 0)
  let c := [0x14, 0x18, 0x1C, 0x20, 0x24, 0x28, 0x2C].foldl (fun c o => regPut c (fpReg p o) 0) c
  let c := regPut c (fpReg p 0x08) (cfgDefault mode sub)
  let c := updPort c p (fun r => { mode := mode, sub := sub, safec := r.safec, rateWin := c.tb / 1000000, rxa := r.rxa, rxb := r.rxb })
  let c := updLink c p (fun l => { streams := l.streams, ord := l.ord, lastNodes := l.lastNodes,
                                   lastIdents := l.lastIdents, started := l.started })
  (fedBy c p).foldl droneDown c

/-- The CTL value that a write gives: reserved values at 0 (R432). -/
def ctlStored (w : Word) : Word :=
  let w := w &&& 0x3FF
  let w := if 5 < bits w 2 0 then setBits w 2 0 0 else w
  if subOk (bits w 2 0) (bits w 4 3) then w else setBits w 4 3 0

/-- Does a write of CTL reconfigure the port: it changes MODE or SUB, writes a reserved value to one of them, or sets RST (R432,
R433)? -/
def reconfigures (c : Chip) (p : Nat) (w : Word) : Bool :=
  decide (bits (ctlStored w) 4 0 ≠ regFld c (fpReg p 0x00) 4 0) || decide (bits (ctlStored w) 4 0 ≠ bits w 4 0) || bit w 10

/-- Start-up begins when the receiver is locked and pair A drives: LSTATE becomes STARTING (R471, R472, R487). -/
def linkStart (c : Chip) (p : Nat) : Chip :=
  let l := linkOf c p
  if (portOf c p).mode = 1 ∧ l.locked ∧ l.lstate = 0 then
    updLink c p (fun l =>
      { l with lstate := 1, up := 3, echo := 0, idents := [], areas := l.areas.map (fun e => (e.1, { e.2 with valid := false })) })
  else c

/-- The LVL and TERM bits that a write of CTL changes begin to settle on their pairs; in LINK only pair A's termination is not
fixed by the mode (R431). -/
def settle (c : Chip) (p : Nat) (old v : Word) : Chip :=
  let link := decide ((portOf c p).mode = 1)
  let ch (i : Nat) : Bool := bit old i != bit v i
  updPort c p (fun r => { r with settleA := r.settleA || ch 7 || (ch 5 && !link), settleB := r.settleB || ((ch 6 || ch 8) && !link) })

/-- A write of CTL (R431 to R435). While the port supply limits, and in FAULTED, a write of
DRVEN = 1 is ignored (R435, R656). -/
def ctlWrite (c : Chip) (p : Nat) (w : Word) : Chip :=
  let v := ctlStored w
  let c := if v = w &&& 0x3FF then c else fpCfgErr c p
  let old := regVal c (fpReg p 0x00)
  if reconfigures c p w then reconfigure c p v
  else
    let c := settle c p old v
    let c := regPut c (fpReg p 0x00) (setBits v 9 9 (bits old 9 9))
    let c :=
      if bit v 9 then
        (if c.sys.psupLim ∨ c.dev = .faulted then c else regOr (updPort c p (fun r => { r with ilim := false })) (fpReg p 0x00) 0x200)
      else regClr c (fpReg p 0x00) 0x200
    if driving c p then linkStart c p else if enabled c p then c else drivesOff c p

/-! ### OUT and DATA0 (R437, R443, R445, R453) -/

/-- A new STEP target (R453). -/
def stepTarget (c : Chip) (p : Nat) (w : Word) : Chip :=
  let pos := regVal c (fpReg p 0x18)
  let cfg := regVal c (fpReg p 0x08)
  let n := (sgn (w - pos)).natAbs
  let c := regPut (regPut c (fpReg p 0x28) w) (fpReg p 0x1C) (w - pos)
  if n = 0 then
    fpEv (regClr (updPort c p (fun r => { r with moving := false })) (fpReg p 0x24) 1) p 1
  else
    let c := updPort (regOr c (fpReg p 0x24) 1) p (fun r => { r with moving := true })
    if bits cfg 31 16 * 16 < n * (2 * bits cfg 15 0 * 5) then fpEv (regOr c (fpReg p 0x24) 4) p 4
    else regClr c (fpReg p 0x24) 4

/-- A write of OUT in SSI starts a frame (R445). -/
def ssiStart (c : Chip) (p : Nat) : Chip :=
  let r := portOf c p
  if r.ssiBusy ∨ c.tb < r.ssiFree then fpSkip c p
  else
    let c := updPort (regPut c (fpReg p 0x1C) (wd c.tb)) p (fun r => { r with ssiBusy := true })
    if driving c p then emit c (.ssi p) else c

/-- Is a write of OUT refused now (R437)? -/
def outRefused (c : Chip) (p : Nat) : Bool :=
  let r := portOf c p
  (decide (r.mode = 4) || (decide (r.mode = 2) && decide (r.sub = 2))) && !enabled c p

/-- A write of OUT that is not refused, outside LINK. -/
def outApply (c : Chip) (p : Nat) (w : Word) : Chip :=
  let r := portOf c p
  if r.mode = 3 then regPut c (fpReg p 0x28) w
  else if r.mode = 4 then stepTarget c p w
  else if r.mode = 2 ∧ r.sub = 2 then ssiStart c p
  else c

/-- A write of DATA0: presets the count, or stops the move (R443, R453). -/
def data0Apply (c : Chip) (p : Nat) (w : Word) : Chip :=
  let r := portOf c p
  if r.mode = 3 then regPut c (fpReg p 0x18) w
  else if r.mode = 4 then
    let c := regPut (regPut (regPut c (fpReg p 0x18) w) (fpReg p 0x28) w) (fpReg p 0x1C) 0
    regClr (updPort c p (fun r => { r with moving := false })) (fpReg p 0x24) 1
  else c

/-- Applies a write that was held until READY. -/
def applyHeld (c : Chip) (p : Nat) (x : Nat × Word) : Chip :=
  if x.1 = 0x08 then cfgWrite c p x.2 else if x.1 = 0x18 then data0Apply c p x.2 else outApply c p x.2

/-- Sets READY and applies the held writes in the order they arrived (R433). -/
def setReady (c : Chip) (p : Nat) : Chip :=
  let l := (portOf c p).held
  let c := updPort c p (fun r => { r with ready := true, held := [], settleA := false, settleB := false })
  l.foldl (fun c x => applyHeld c p x) c

/-! ### The FP block (R438, R463 to R465, R715) -/

/-- DATA0 to DATA3 in LINK (R490). -/
def linkData (c : Chip) (p o : Nat) : Word :=
  let l := linkOf c p
  let un (k : Nat) : Nat := (streamOf c p k).frames.length
  if o = 0x18 then wd (l.nodes + 16 * l.lstate + 64 * b1 l.topo + 65536 * l.rtt)
  else if o = 0x1C then wd (un 0 + 256 * un 1 + 65536 * un 2 + 16777216 * un 3)
  else if o = 0x20 then wd (l.retx % 65536 + 65536 * (l.crcerr % 65536))
  else wd (l.slotlate % 65536 + 65536 * (l.upmiss % 65536))

/-- A read of an FP register. -/
def fpRead (c : Chip) (p o : Nat) : Chip × Word :=
  let r := portOf c p
  let v := regVal c (fpReg p o)
  if o = 0x04 then (c, fpStat c p)
  else if o = 0x2C then (regPut c (fpReg p o) 0, v)
  else if r.mode = 0 ∧ (o = 0x08 ∨ (0x18 ≤ o ∧ o ≤ 0x28)) then (c, 0)
  else if r.mode = 1 ∧ 0x18 ≤ o ∧ o < 0x28 then (c, linkData c p o)
  else if o = 0x28 then (c, if r.mode = 3 ∨ r.mode = 4 then v else 0)
  else (c, v)

/-- A write of an FP register but OUT in LINK; answers whether it takes the error response (R437). -/
def fpWrite (c : Chip) (p o : Nat) (w : Word) : Chip × Bool :=
  let r := portOf c p
  if o = 0x00 then (ctlWrite c p w, false)
  else if o = 0x04 then (regClr c (fpReg p 0x04) (w &&& 0x8000).toNat, false)
  else if o = 0x0C then (regPut c (fpReg p o) w, false)
  else if o = 0x10 then (regPut c (fpReg p o) (w &&& 0xFFFF), false)
  else if o = 0x14 then (regClr c (fpReg p o) (w &&& 0xFFF).toNat, false)
  else if o = 0x08 ∨ o = 0x18 ∨ o = 0x28 then
    (if o = 0x28 ∧ outRefused c p then (fpRefuse c p, true)
     else if r.mode = 0 then (c, false)
     else if !r.ready then (updPort c p (fun r => { r with held := r.held ++ [(o, w)] }), false)
     else (applyHeld c p (o, w), false))
  else (c, false)

/-! ### Rows: configuration -/

/-- Can a write of a port's register reach it: PER on (R465)? -/
def portOk (c : Chip) (p : Nat) : Bool := decide (p < 128) && c.sys.per

/-- PORT_RECONFIGURE: a write of CTL that changes MODE or SUB or sets RST (R433). -/
def xPortReconfigure (c : Chip) (p : Nat) (w : Word) : Chip :=
  if portOk c p && reconfigures c p w then ctlWrite c p w else c

/-- The command PORT_RECONFIGURE on a unit that exists. -/
def execPortReconfigure (p : Nat) (w : Word) (s : State) : Host.Outcome State Fault Refusal :=
  onUnit (isPort p) s (fun c => xPortReconfigure c p w)

/-- PORT_READY: the receivers of the new mode have settled and the flush has been acknowledged; a port in LINK becomes
ready by training (R433, R471, R603). -/
def xPortReady (c : Chip) (p : Nat) : Chip :=
  let r := portOf c p
  if portOk c p && !r.ready && decide (r.mode ≠ 1) && !decide (p ∈ c.flushing) then setReady c p else c

/-- The command PORT_READY on a unit that exists. -/
def execPortReady (p : Nat) (s : State) : Host.Outcome State Fault Refusal :=
  onUnit (isPort p) s (fun c => xPortReady c p)

/-- PORT_LEVEL_CHANGE: the change of LVL or TERM bits of a running port takes effect; where pair A of a link drives again and the
link is down, start-up follows (R431, R472). -/
def xPortLevelChange (c : Chip) (p : Nat) : Chip :=
  if portOk c p && (portOf c p).ready && ((portOf c p).settleA || (portOf c p).settleB) then
    let c := updPort c p (fun r => { r with settleA := false, settleB := false })
    if driving c p then linkStart c p else c
  else c

/-- The command PORT_LEVEL_CHANGE on a unit that exists. -/
def execPortLevelChange (p : Nat) (s : State) : Host.Outcome State Fault Refusal :=
  onUnit (isPort p) s (fun c => xPortLevelChange c p)

/-- PORT_DRIVE_ENABLE: a write of CTL that changes DRVEN, or repeats DRVEN = 1, and does not reconfigure (R434, R435). -/
def xPortDriveEnable (c : Chip) (p : Nat) (w : Word) : Chip :=
  if portOk c p && !reconfigures c p w then ctlWrite c p w else c

/-- The command PORT_DRIVE_ENABLE on a unit that exists. -/
def execPortDriveEnable (p : Nat) (w : Word) (s : State) : Host.Outcome State Fault Refusal :=
  onUnit (isPort p) s (fun c => xPortDriveEnable c p w)

/-! ### Rows: ENC (R443, R444) -/

/-- Where the counts and frames of a port go: what a drone under KIND 1 does with them is in `Drones`; this is the port's
own part. -/
def encCount (c : Chip) (p : Nat) (up : Bool) : Chip :=
  let inv := bit (regVal c (fpReg p 0x08)) 8
  let up := up != inv
  let n := if up then regVal c (fpReg p 0x18) + 1 else regVal c (fpReg p 0x18) - 1
  let c := regPut (regPut (regPut c (fpReg p 0x18) n) (fpReg p 0x1C) (wd c.tb)) (fpReg p 0x24) (wd (b1 (!up)))
  let c := updPort c p (fun r => { r with rateCnt := if up then r.rateCnt + 1 else r.rateCnt - 1 })
  if n = regVal c (fpReg p 0x28) then fpEv c p 1 else c

/-- Is a port's ENC engine running? -/
def encOk (c : Chip) (p : Nat) : Bool :=
  let r := portOf c p
  portOk c p && decide (r.mode = 3) && r.ready && !r.settleA && !r.settleB

/-- ENC_PRESET: a write of DATA0 in ENC (R443). -/
def xEncPreset (c : Chip) (p : Nat) (w : Word) : Chip :=
  if portOk c p && decide ((portOf c p).mode = 3) then (fpWrite c p 0x18 w).1 else c

/-- The command ENC_PRESET on a unit that exists. -/
def execEncPreset (p : Nat) (w : Word) (s : State) : Host.Outcome State Fault Refusal :=
  onUnit (isPort p) s (fun c => xEncPreset c p w)

/-- ENC_COMPARE_WRITE: a write of OUT in ENC (R443). -/
def xEncCompareWrite (c : Chip) (p : Nat) (w : Word) : Chip :=
  if portOk c p && decide ((portOf c p).mode = 3) then (fpWrite c p 0x28 w).1 else c

/-- The command ENC_COMPARE_WRITE on a unit that exists. -/
def execEncCompareWrite (p : Nat) (w : Word) (s : State) : Host.Outcome State Fault Refusal :=
  onUnit (isPort p) s (fun c => xEncCompareWrite c p w)

/-- ENC_RATE_WINDOW: a whole 1,000 µs window of the time base has ended (R443). -/
def xEncRateWindow (c : Chip) (p : Nat) : Chip :=
  let r := portOf c p
  if portOk c p && decide (r.mode = 3) && decide (r.rateWin ≠ c.tb / 1000000) then
    updPort (regPut c (fpReg p 0x20) r.rateCnt) p (fun r => { r with rateCnt := 0, rateWin := c.tb / 1000000 })
  else c

/-- The command ENC_RATE_WINDOW on a unit that exists. -/
def execEncRateWindow (p : Nat) (s : State) : Host.Outcome State Fault Refusal :=
  onUnit (isPort p) s (fun c => xEncRateWindow c p)

/-! ### Rows: SSI (R445, R446) -/

/-- Is a port in SER with SUB 2? -/
def isSsi (c : Chip) (p : Nat) : Bool := decide ((portOf c p).mode = 2) && decide ((portOf c p).sub = 2)

/-- SSI_FRAME_START: a write of OUT in SSI (R437, R445). -/
def xSsiFrameStart (c : Chip) (p : Nat) (w : Word) : Chip :=
  if portOk c p && isSsi c p then (fpWrite c p 0x28 w).1 else c

/-- The command SSI_FRAME_START on a unit that exists. -/
def execSsiFrameStart (p : Nat) (w : Word) (s : State) : Host.Outcome State Fault Refusal :=
  onUnit (isPort p) s (fun c => xSsiFrameStart c p w)

/-- The binary number of a Gray code of 32 bits. -/
def fromGray (w : Word) : Word :=
  let w := w ^^^ (w >>> 1)
  let w := w ^^^ (w >>> 2)
  let w := w ^^^ (w >>> 4)
  let w := w ^^^ (w >>> 8)
  w ^^^ (w >>> 16)

/-- The number of data bits of an SSI frame. -/
def ssiBits (c : Chip) (p : Nat) : Nat := regFld c (fpReg p 0x08) 21 16

/-- The position a frame's bits spell, right-aligned. -/
def ssiPos (c : Chip) (p : Nat) (raw : Word) : Word :=
  let v := wd (raw.toNat % 2 ^ ssiBits c p)
  if bit (regVal c (fpReg p 0x08)) 22 then fromGray v else v

/-- The end of an SSI frame: `good` when the further bit read 0 and pair B read 1 in time (R445). -/
def ssiEnd (c : Chip) (p : Nat) (raw : Word) (good : Bool) : Chip :=
  let mono := regFld c (fpReg p 0x08) 31 24
  let c := updPort c p (fun r => { r with ssiBusy := false, ssiFree := c.tb + 1000 * mono })
  if good then
    let pos := ssiPos c p raw
    let c := updPort c p (fun r => { r with ssiGood := true })
    let c := regPut (regPut c (fpReg p 0x20) (regVal c (fpReg p 0x18))) (fpReg p 0x18) pos
    let seq := (regFld c (fpReg p 0x24) 7 0 + 1) % 256
    let c := regPut c (fpReg p 0x24) (wd seq)
    portAnnounce c p ⟨0, [pos, regVal c (fpReg p 0x1C)]⟩
  else fpLine (regOr c (fpReg p 0x24) 0x100) p

/-! ### Rows: STEP (R453, R454) -/

/-- STEP_TARGET_WRITE: a write of OUT in STEP (R437, R453). -/
def xStepTargetWrite (c : Chip) (p : Nat) (w : Word) : Chip :=
  if portOk c p && decide ((portOf c p).mode = 4) then (fpWrite c p 0x28 w).1 else c

/-- The command STEP_TARGET_WRITE on a unit that exists. -/
def execStepTargetWrite (p : Nat) (w : Word) (s : State) : Host.Outcome State Fault Refusal :=
  onUnit (isPort p) s (fun c => xStepTargetWrite c p w)

/-- STEP_STOP: a write of DATA0 in STEP (R453). -/
def xStepStop (c : Chip) (p : Nat) (w : Word) : Chip :=
  if portOk c p && decide ((portOf c p).mode = 4) then (fpWrite c p 0x18 w).1 else c

/-- The command STEP_STOP on a unit that exists. -/
def execStepStop (p : Nat) (w : Word) (s : State) : Host.Outcome State Fault Refusal :=
  onUnit (isPort p) s (fun c => xStepStop c p w)

/-- STEP_PULSE: one step toward the target (R453). -/
def xStepPulse (c : Chip) (p : Nat) : Chip :=
  if portOk c p && decide ((portOf c p).mode = 4) && (portOf c p).moving && enabled c p then
    let togo := regVal c (fpReg p 0x1C)
    let fwd := decide (0 < sgn togo)
    let pos := if fwd then regVal c (fpReg p 0x18) + 1 else regVal c (fpReg p 0x18) - 1
    let left := regVal c (fpReg p 0x28) - pos
    let c := regPut (regPut (regPut c (fpReg p 0x18) pos) (fpReg p 0x1C) left) (fpReg p 0x20) (wd c.tb)
    let c := regSetFld c (fpReg p 0x24) 1 1 (b1 fwd)
    let c := if driving c p then emit c (.step p fwd) else c
    if left = 0 then fpEv (regClr (updPort c p (fun r => { r with moving := false })) (fpReg p 0x24) 1) p 1 else c
  else c

/-- The command STEP_PULSE on a unit that exists. -/
def execStepPulse (p : Nat) (s : State) : Host.Outcome State Fault Refusal :=
  onUnit (isPort p) s (fun c => xStepPulse c p)

/-! ### Rows: CAP (R455 to R457) -/

/-- Does the EDGE field of a pair select an edge (0 rising, 1 falling)? -/
def edgeSel (c : Chip) (p : Nat) (pairB fall : Bool) : Bool :=
  let e := if pairB then regFld c (fpReg p 0x08) 3 2 else regFld c (fpReg p 0x08) 1 0
  decide (e = 2) || decide (e = b1 fall)

/-- Does a port capture an edge of a pair (R431, R455)? -/
def captures (c : Chip) (p : Nat) (pairB fall : Bool) : Bool :=
  let r := portOf c p
  decide (r.mode = 5) && r.ready && !(if pairB then r.settleB else r.settleA) && (!pairB || decide (r.sub = 1)) && edgeSel c p pairB fall

/-- CAPTURE: an edge that has held its new level for the filter time is recognised; `stamp` is the time base at which it
crossed the threshold. The pair's level is the new one in every mode; a port in CAP whose EDGE selects the edge captures it
(R455, R456, R463). -/
def xCapture (c : Chip) (p : Nat) (pairB fall : Bool) (stamp : Nat) : Chip :=
  let r := portOf c p
  if !portOk c p || decide (c.tb < stamp) then c
  else
    let on := captures c p pairB fall
    let c := updPort c p (fun r => if pairB then { r with rxb := !fall } else { r with rxa := !fall })
    if !on then c
    else if stamp < (if pairB then r.deadB else r.deadA) then fpSkip c p
    else
      let cfg := regVal c (fpReg p 0x08)
      let dead := stamp + Nat.max 100 (1000 * bits cfg 31 16)
      let c := updPort c p (fun r => if pairB then { r with deadB := dead } else { r with deadA := dead })
      let pos := dronePos c (bits cfg 7 4)
      let seq := (regFld c (fpReg p 0x24) 7 0 + 1) % 256
      let c := regPut (regPut c (fpReg p 0x18) (wd stamp)) (fpReg p 0x1C) (wd (stamp / 2 ^ 32))
      let c := regPut (regPut c (fpReg p 0x20) pos) (fpReg p 0x24) (wd (seq + 256 * b1 pairB + 512 * b1 fall))
      portAnnounce c p ⟨b1 pairB + 2 * b1 fall, [wd stamp, wd (stamp / 2 ^ 32), pos]⟩

/-- The command CAPTURE on a unit that exists. -/
def execCapture (p : Nat) (pairB fall : Bool) (stamp : Nat) (s : State) : Host.Outcome State Fault Refusal :=
  onUnit (isPort p) s (fun c => xCapture c p pairB fall stamp)

/-! ### Rows: asynchronous serial (R458 to R460) -/

/-- Is a port in SER with SUB 0 or 1, running? -/
def serOk (c : Chip) (p : Nat) : Bool :=
  let r := portOf c p
  portOk c p && decide (r.mode = 2) && decide (r.sub < 2) && r.ready

/-- Does the receiver of a port in SER hear the line: pair B, or in half duplex pair A outside the port's own characters
(R430, R431, R459)? -/
def hears (r : Port) : Bool := if r.sub = 1 then r.tx.isEmpty && !r.settleA else !r.settleB

/-- Closes the received record and pushes it (R442, R458). -/
def serClose (c : Chip) (p : Nat) : Chip :=
  let r := portOf c p
  let n := r.rxBytes.length
  let tag := n % 4 + 4 * b1 r.rxFrame + 8 * b1 r.rxParity + 16 * b1 r.rxBreak
  let c := updPort c p (fun r => { r with rxBytes := [], rxOpen := false, rxFrame := false, rxParity := false, rxBreak := false })
  let c := regClr c (fpReg p 0x24) 2
  portRecord c p ⟨tag, wordsOf r.rxBytes⟩

/-- SER_CHARACTER: a character is received: kept with its flags, or a break, for which no byte is stored (R458). -/
def xSerCharacter (c : Chip) (p : Nat) (b : Byte) (frame parity brk : Bool) : Chip :=
  if serOk c p && hears (portOf c p) && decide (regFld c (fpReg p 0x0C) 15 0 ≠ 0) then
    let c := updPort c p (fun r =>
      { r with rxOpen := true, rxBytes := if brk then r.rxBytes else r.rxBytes ++ [b], rxBreak := r.rxBreak || brk,
               rxFrame := r.rxFrame || (frame && !brk), rxParity := r.rxParity || (parity && !brk) })
    let c := regOr c (fpReg p 0x24) 2
    let c := if brk then c else regWrap c (fpReg p 0x18) 31 0 1
    let c := if (frame ∨ parity) ∧ brk = false then fpLine c p else c
    if 64 ≤ (portOf c p).rxBytes.length then serClose c p else c
  else c

/-- The command SER_CHARACTER on a unit that exists. -/
def execSerCharacter (p : Nat) (b : Byte) (frame parity brk : Bool) (s : State) : Host.Outcome State Fault Refusal :=
  onUnit (isPort p) s (fun c => xSerCharacter c p b frame parity brk)

/-- SER_RECORD_CLOSE: the line has been idle for IDLE bit times (R458). -/
def xSerRecordClose (c : Chip) (p : Nat) : Chip := if serOk c p && (portOf c p).rxOpen then serClose c p else c

/-- The command SER_RECORD_CLOSE on a unit that exists. -/
def execSerRecordClose (p : Nat) (s : State) : Host.Outcome State Fault Refusal :=
  onUnit (isPort p) s (fun c => xSerRecordClose c p)

/-- The transmitter pops a record of TXH and takes up its bytes; a record whose byte count is out of range is popped and not
sent; an empty channel after sending sets IDLE (R440, R459). A GAP record carries no bytes. -/
def serPop (c : Chip) (p : Nat) : Chip :=
  match portTx c p with
  | none => fpLost c p
  | some s =>
    if !chReady (chanOf c s) then
      (if (portOf c p).txSent then fpEv (updPort c p (fun r => { r with txSent := false })) p 2 else c)
    else
      let (c, h, _) := chTake c s
      if bit h 12 then c
      else
        let (c, l) := chTakeN c s (hdrLen h)
        match l with
        | [] => fpLost c p
        | q :: body =>
          let n := q.w.toNat
          if 1 ≤ n ∧ n ≤ 4 * body.length then
            regOr (updPort c p (fun r => { r with tx := (bytesOf (body.map (fun q => q.w))).take n })) (fpReg p 0x24) 1
          else fpLost c p

/-- One character leaves: TXB counts it, and after the last TXBUSY is cleared (R458 to R460). -/
def serSend (c : Chip) (p : Nat) (b : Byte) (rest : List Byte) : Chip :=
  let c := emit (updPort (regWrap c (fpReg p 0x1C) 31 0 1) p (fun r => { r with tx := rest, txSent := true })) (.serial p [b])
  if rest.isEmpty then regClr c (fpReg p 0x24) 1 else c

/-- SER_TRANSMIT: while the pairs can drive, the transmitter takes up a record, or sends the next character of the one it has
taken up (R459). -/
def xSerTransmit (c : Chip) (p : Nat) : Chip :=
  if serOk c p && canDrive c p then
    match (portOf c p).tx with
    | b :: rest => serSend c p b rest
    | [] => if regFld c (fpReg p 0x0C) 31 16 = 0 then c else serPop c p
  else c

/-- The command SER_TRANSMIT on a unit that exists. -/
def execSerTransmit (p : Nat) (s : State) : Host.Outcome State Fault Refusal :=
  onUnit (isPort p) s (fun c => xSerTransmit c p)

end Sys2Proof.Machine
end

