-- ==== Sys2Proof/Machine/Symbols.lean ====
section
/-! DEFINITION. The symbols of a Firos link (R467 to R469): the 8b/10b code with its running disparity, the four control
symbols, and the receiver's lock. The code's tables are those of the 8b/10b standard, which the spec names and does not print
(PRESUMED, log entry 103). A code word is held bit `a` first: bit 9 is `a`, bit 0 is `j`. -/

namespace Sys2Proof.Machine

open Sys2Proof

/-- A symbol: a data byte, or a control symbol Kx.y named by its byte. -/
inductive Sym where
  | data (b : Byte)
  | ctl (b : Byte)
  deriving DecidableEq, Repr

/-- K28.5, the comma of IDLE (R468). -/
def kComma : Sym := .ctl 0xBC

/-- K27.7, the first symbol of a frame. -/
def kSOF : Sym := .ctl 0xFB

/-- K29.7, the last symbol of a good frame. -/
def kEOF : Sym := .ctl 0xFD

/-- K30.7, the last symbol of a frame that a repeating node found bad. -/
def kEOFA : Sym := .ctl 0xFE

/-- One IDLE set: K28.5 and D16.2. -/
def idleSet : List Sym := [kComma, .data 0x50]

/-- The 5b/6b code of the low five bits at negative disparity, `abcdei`. -/
def code6 (n : Nat) : BitVec 6 :=
  ([0b100111, 0b011101, 0b101101, 0b110001, 0b110101, 0b101001, 0b011001, 0b111000,
    0b111001, 0b100101, 0b010101, 0b110100, 0b001101, 0b101100, 0b011100, 0b010111,
    0b011011, 0b100011, 0b010011, 0b110010, 0b001011, 0b101010, 0b011010, 0b111010,
    0b110011, 0b100110, 0b010110, 0b110110, 0b001110, 0b101110, 0b011110, 0b101011] : List (BitVec 6)).getD n 0

/-- The 3b/4b code of the high three bits at negative disparity, `fghj`. -/
def code4 (n : Nat) : BitVec 4 :=
  ([0b1011, 0b1001, 0b0101, 0b1100, 0b1101, 0b1010, 0b0110, 0b1110] : List (BitVec 4)).getD n 0

/-- The ones of a value's low `n` bits. -/
def ones : Nat → Nat → Nat
  | 0, _ => 0
  | n + 1, v => v % 2 + ones n (v / 2)

/-- The running disparity behind a sub-block of `2 * k` bits: the sign of its ones over its zeros; where they are equal it is
kept, but for the halves of equal bits. -/
def flips (k : Nat) (v : Nat) (plus : Bool) : Bool :=
  if v = 2 ^ k - 1 then true
  else if v = 2 ^ k * (2 ^ k - 1) then false
  else if ones (2 * k) v = k then plus else decide (k < ones (2 * k) v)

/-- The six bits of a symbol at a disparity: the complement stands at positive disparity where the code is unbalanced, and for
D.7. -/
def six (ctl : Bool) (x : Nat) (plus : Bool) : BitVec 6 :=
  let v := if ctl ∧ x = 28 then 0b001111 else code6 x
  if plus ∧ (ones 6 v.toNat ≠ 3 ∨ x = 7) then ~~~v else v

/-- Does D.x.7 take its alternate four bits? -/
def altSeven (x : Nat) (plus : Bool) : Bool :=
  if plus then decide (x = 11 ∨ x = 13 ∨ x = 14) else decide (x = 17 ∨ x = 18 ∨ x = 20)

/-- The four bits of a symbol at the disparity behind its six: a control symbol's balanced ones are complemented too at
negative disparity, and its 7 is the alternate. -/
def four (ctl : Bool) (x y : Nat) (plus : Bool) : BitVec 4 :=
  if y = 7 ∧ (ctl ∨ altSeven x plus) then (if plus then 0b1000 else 0b0111)
  else
    let v := code4 y
    if plus ∧ (ones 4 v.toNat ≠ 2 ∨ y = 3) then ~~~v
    else if plus = false ∧ ctl ∧ (y = 1 ∨ y = 2 ∨ y = 5 ∨ y = 6) then ~~~v
    else v

/-- A symbol's code word at a running disparity, and the disparity behind it (R467). -/
def codeOf (s : Sym) (plus : Bool) : BitVec 10 × Bool :=
  let (ctl, n) : Bool × Nat := match s with
    | .data b => (false, b.toNat)
    | .ctl b => (true, b.toNat)
  let v6 := six ctl (n % 32) plus
  let mid := flips 3 v6.toNat plus
  let v4 := four ctl (n % 32) (n / 32) mid
  (v6 ++ v4, flips 2 v4.toNat mid)

/-- A line of symbols as code words, and the disparity behind it. -/
def codeLine : Bool → List Sym → List (BitVec 10) × Bool
  | plus, [] => ([], plus)
  | plus, s :: t =>
    let (w, p) := codeOf s plus
    let (l, q) := codeLine p t
    (w :: l, q)

/-- The symbols a receiver accepts: the four control symbols' and the data bytes'. -/
def allSyms : List Sym :=
  [kComma, .data 0x50, kSOF, kEOF, kEOFA] ++ (List.range 256).map (fun n => Sym.data (BitVec.ofNat 8 n))

/-- The symbol that a code word spells at a disparity; none is a code error: a word not valid for the running disparity, or another
control symbol (R467, R468). -/
def symOf (plus : Bool) (w : BitVec 10) : Option Sym := allSyms.find? (fun s => decide ((codeOf s plus).1 = w))

/-- One symbol received: a code error, or a symbol; a comma ends the count since the last one (R469). After any word the
running disparity follows its ones and zeros. -/
def rxStep (r : Rx) (w : BitVec 10) : Rx :=
  let plus := flips 2 (w.toNat % 16) (flips 3 (w.toNat / 16) r.plus)
  match symOf r.plus w with
  | none => { plus := plus, commas := 0, errs := (true :: r.errs).take 16, since := r.since + 1 }
  | some s =>
    if s = kComma then { plus := plus, commas := r.commas + 1, errs := (false :: r.errs).take 16, since := 0 }
    else { r with plus := plus, errs := (false :: r.errs).take 16, since := r.since + 1 }

/-- Has a receiver seen three commas with no code error between them (R469)? -/
def rxLocks (r : Rx) : Bool := decide (3 ≤ r.commas)

/-- Does a locked receiver lose lock: four code errors within 16 symbols, or no comma for 2,048 symbols (R469)? -/
def rxLoses (r : Rx) : Bool := decide (4 ≤ (r.errs.filter (fun e => e)).length) || decide (2048 ≤ r.since)

/-- Symbols received one by one until `stop` holds; answers whether it came to hold. -/
def rxFeed (stop : Rx → Bool) : Rx → List (BitVec 10) → Rx × Bool
  | r, [] => (r, false)
  | r, w :: t =>
    let r := rxStep r w
    if stop r then (r, true) else rxFeed stop r t

/-- The symbols of a frame on the line: SOF, its bytes, EOF, and the two IDLE sets that stand at least between two frames
(R468, R475). -/
def frameSyms (l : List Byte) : List Sym := [kSOF] ++ l.map Sym.data ++ [kEOF] ++ idleSet ++ idleSet

end Sys2Proof.Machine
end

