-- ==== Sys2Proof/Machine/Link.lean ====
section
/-! DEFINITION. The Firos link of a port in LINK (R466 to R491): training, start-up, link cycles, frames sent and received,
acknowledgement and retransmission, receive areas, management. -/

namespace Sys2Proof.Machine

open Sys2Proof

/-! ### Frames (R475 to R477) -/

/-- The poison mask of a payload. -/
def poisonMask : Nat → List QWord → Nat
  | _, [] => 0
  | i, q :: t => (if q.p then 2 ^ i else 0) + poisonMask (i + 1) t

/-- The header's eight bytes. -/
def frameHeader (typ : Nat) (p fresh : Bool) (addr stream slot seq rewind len : Nat) : List Byte :=
  [BitVec.ofNat 8 (typ + 16 * b1 p + 32 * b1 fresh), BitVec.ofNat 8 (addr + 16 * stream), BitVec.ofNat 8 slot,
    BitVec.ofNat 8 seq, BitVec.ofNat 8 rewind, BitVec.ofNat 8 len, 0, 0]

/-- A frame's bytes go onto pair A between SOF and EOF, 8b/10b coded at the transmitter's running disparity (R467, R468). -/
def sendLine (c : Chip) (port typ : Nat) (l : List Byte) : Chip :=
  let (line, plus) := codeLine (linkOf c port).plus (frameSyms l)
  emit (updLink c port (fun x => { x with plus := plus })) (.firos port typ line)

/-- Sends a frame: header, poison mask where a word is poisoned, payload and CRC (R475, R477, R486). -/
def sendFrame (c : Chip) (port typ : Nat) (fresh : Bool) (addr stream slot seq rewind : Nat) (l : List QWord) : Chip :=
  let m := poisonMask 0 l
  let body := frameHeader typ (decide (m ≠ 0)) fresh addr stream slot seq rewind l.length ++
    (if m = 0 then [] else bytesOfWord (wd m)) ++ bytesOf (l.map (fun q => q.w))
  sendLine c port typ (body ++ bytesOfWord (crc32 body))

/-- Plain words as a payload. -/
def plain (l : List Word) : List QWord := l.map (fun w => ⟨w, false⟩)

/-- Do the periphery clocks run from the PLLs (CLK.STAT.SRC)? -/
def onPll (c : Chip) : Bool := bit (regVal c 0x60002004) 0

/-- May a port's link send: in LINK, the clocks switched, pair A driving (R434, R466)? -/
def linkOk (c : Chip) (p : Nat) : Bool := portOk c p && inLink c p && onPll c && driving c p

/-! ### Training and start-up (R471 to R474, R487) -/

/-- LINK_TRAINED: symbols arrive at one alignment on pair B; with the third comma without a code error between them the
receiver is locked and its part of them is over. READY is set, and start-up follows once pair A drives (R469, R471, R472). -/
def xLinkTrained (c : Chip) (p : Nat) (syms : List (BitVec 10)) : Chip :=
  if portOk c p && inLink c p && onPll c && !(linkOf c p).locked && !(portOf c p).settleB && !decide (p ∈ c.flushing) then
    let (r, ok) := rxFeed rxLocks (linkOf c p).rx syms
    let c := updLink c p (fun l => { l with locked := ok, rx := r })
    if !ok then c
    else
      let c := if (portOf c p).ready then c else setReady c p
      if driving c p then linkStart c p else c
  else c

/-- The command LINK_TRAINED on a unit that exists. -/
def execLinkTrained (p : LineIn) (s : State) : Host.Outcome State Fault Refusal :=
  onUnit (isPort p.port) s (fun c => xLinkTrained c p.port p.syms)

/-- STARTUP_ENUM: the port sends ENUM with ADDR 15 and count 0 (R472 step 3). -/
def xStartupEnum (c : Chip) (p : Nat) : Chip :=
  if linkOk c p && (linkOf c p).locked then
    let c := linkStart c p
    if (linkOf c p).lstate = 1 ∧ (linkOf c p).up = 3 then
      sendFrame (updLink c p (fun l => { l with up := 4 })) p 7 false 15 0 0 0 0 (plain [0])
    else c
  else c

/-- The command STARTUP_ENUM on a unit that exists. -/
def execStartupEnum (p : Nat) (s : State) : Host.Outcome State Fault Refusal :=
  onUnit (isPort p) s (fun c => xStartupEnum c p)

/-- LSTATE becomes UP: held frames are sent again from the rewind mark; TOPO is set where NODES or the IDENT values differ
from the last start-up (R472 step 6, R487). -/
def linkUp (c : Chip) (p : Nat) : Chip :=
  updLink c p (fun l =>
    let st : Tbl Stream := l.streams.map (fun e =>
      (e.1, { e.2 with retries := 0, frames := e.2.frames.map (fun f => { f with again := f.sent }) }))
    { l with lstate := 2, up := 0, topo := l.topo || (l.started && (decide (l.nodes ≠ l.lastNodes) || decide (l.idents ≠ l.lastIdents))),
             started := true, lastNodes := l.nodes, lastIdents := l.idents,
             streams := st })

/-- ENUM_RETURN: ENUM comes back with the end node's address as the count, or with ERR from a node past the eighth
(R472 steps 4 and 5, R473). -/
def xEnumReturn (c : Chip) (p count : Nat) (err : Bool) : Chip :=
  let l := linkOf c p
  if linkOk c p && decide (l.lstate = 1) && decide (l.up = 4) then
    if err ∨ 8 < count then
      regOr (updLink c p (fun l => { l with up := 0, topo := true })) (fpReg p 0x14) 0x400
    else
      let c := updLink c p (fun l => { l with nodes := count, echo := 1, up := if count = 0 then 0 else 5, idents := [] })
      if count = 0 then linkUp c p else c
  else c

/-- The command ENUM_RETURN on a unit that exists. -/
def execEnumReturn (p count : Nat) (err : Bool) (s : State) : Host.Outcome State Fault Refusal :=
  onUnit (isPort p) s (fun c => xEnumReturn c p count err)

/-- ENUM_TIMEOUT: no ENUM has come back within 1 ms; start-up repeats from the sending of ENUM (R472 step 4). -/
def xEnumTimeout (c : Chip) (p : Nat) : Chip :=
  let l := linkOf c p
  if portOk c p && decide (l.lstate = 1) && decide (l.up = 4) then updLink c p (fun l => { l with up := 3 }) else c

/-- The command ENUM_TIMEOUT on a unit that exists. -/
def execEnumTimeout (p : Nat) (s : State) : Host.Outcome State Fault Refusal :=
  onUnit (isPort p) s (fun c => xEnumTimeout c p)

/-- The one-way delay in units of 4 ns of a measured time, (t − 400 ns) / 2 rounded (R474). -/
def oneWay (t : Nat) : Nat := ((t - 400) / 2 + 2) / 4

/-- ECHO_REPLY: the reply of the node echoed; `t` ns from the request's EOF to the reply's SOF, `ident` the node's IDENT.
The delay is to be written into the node by MGMT; the round trip of the end node is kept, in units of 4 ns (R472 step 5,
R474). -/
def xEchoReply (c : Chip) (p t : Nat) (ident : Word) : Chip :=
  let l := linkOf c p
  if linkOk c p && decide (l.lstate = 1) && decide (l.up = 6) then
    updLink c p (fun l =>
      { l with idents := l.idents ++ [ident], mgmt := l.mgmt ++ [⟨l.echo, 0x118, wd (oneWay t), false, none⟩],
               rtt := if l.echo = l.nodes then (t + 2) / 4 else l.rtt, echo := l.echo + 1, up := if l.nodes ≤ l.echo then 7 else 5 })
  else c

/-- The command ECHO_REPLY on a unit that exists. -/
def execEchoReply (p t : Nat) (ident : Word) (s : State) : Host.Outcome State Fault Refusal :=
  onUnit (isPort p) s (fun c => xEchoReply c p t ident)

/-- LOCK_LOSS: symbols arrive at a locked receiver; with the fourth code error within 16 of them, or the 2,048th without a comma,
it loses lock and the link goes down; READY stays set (R469, R487). -/
def xLockLoss (c : Chip) (p : Nat) (syms : List (BitVec 10)) : Chip :=
  if portOk c p && inLink c p && (linkOf c p).locked then
    let (r, lost) := rxFeed rxLoses (linkOf c p).rx syms
    if lost then linkDown (updLink c p (fun l => { l with locked := false, rx := {} })) p
    else updLink c p (fun l => { l with rx := r })
  else c

/-- The command LOCK_LOSS on a unit that exists. -/
def execLockLoss (p : LineIn) (s : State) : Host.Outcome State Fault Refusal :=
  onUnit (isPort p.port) s (fun c => xLockLoss c p.port p.syms)

/-- The link of a port starts again without a reconfiguration (R487). -/
def linkRestart (c : Chip) (p : Nat) : Chip :=
  let c := updLink c p (fun l => { l with lstate := 0, up := 0 })
  if driving c p then linkStart c p else c

/-- LINK_RESTART: a write of OUT in LINK; RESTART runs start-up again, and the write is never refused (R487, R490). -/
def xLinkRestart (c : Chip) (p : Nat) (w : Word) : Chip :=
  if portOk c p && inLink c p then
    if !(portOf c p).ready then updPort c p (fun r => { r with held := r.held ++ [(0x28, w)] })
    else if bit w 0 then linkRestart c p else c
  else c

/-- The command LINK_RESTART on a unit that exists. -/
def execLinkRestart (p : Nat) (w : Word) (s : State) : Host.Outcome State Fault Refusal :=
  onUnit (isPort p) s (fun c => xLinkRestart c p w)

/-! ### Link cycles (R478) -/

/-- LINK_CYCLE_START: a frame of the active time stave, or a period of LCYC × 500 ns, begins (R478). -/
def xLinkCycleStart (c : Chip) (p : Nat) : Chip :=
  if portOk c p && inLink c p then
    let cfg := regVal c (fpReg p 0x08)
    let next : Option (Nat × Nat) :=
      if bit cfg 12 then
        let len := bits cfg 27 16 * 500
        if len = 0 then none else some (c.tb - c.tb % len, len)
      else match c.tab.frame, c.tab.tsBank with
        | some f, some b => some (f, imTper c b)
        | _, _ => none
    match next with
    | none => c
    | some (s, len) =>
      if (linkOf c p).cycle = some s then c
      else updLink c p (fun l => { l with cycle := some s, cycLen := len, syncDue := decide (l.lstate = 2) })
  else c

/-- The command LINK_CYCLE_START on a unit that exists. -/
def execLinkCycleStart (p : Nat) (s : State) : Host.Outcome State Fault Refusal :=
  onUnit (isPort p) s (fun c => xLinkCycleStart c p)

/-! ### Sending (R479 to R485) -/

/-- REWIND: the SEQ of a stream's rewind mark: the oldest frame not acknowledged. -/
def rewindOf (st : Stream) : Nat := match st.frames with | f :: _ => f.seq | [] => st.next

/-- Sends frame `f` of stream `k`. The first frame of the stream carries FRESH, sent again too: a retransmission differs in REWIND
alone (R483, R485). -/
def sendData (c : Chip) (p k : Nat) (f : LFrame) : Chip :=
  let st := streamOf c p k
  let first := st.fresh || f.fresh
  let c := sendFrame c p 1 first 15 k f.slotNo f.seq (rewindOf st) f.words
  updStream c p k (fun st =>
    { st with fresh := false, frames := st.frames.map (fun x =>
        if x.seq = f.seq then { x with sent := true, again := false, sentAt := c.tb, fresh := first } else x) })

/-- The first frame of a stream that waits to be sent again. -/
def firstAgain (st : Stream) : Option LFrame := st.frames.find? (fun f => f.again)

/-- The first frame of a stream that has not been sent. -/
def firstNew (st : Stream) : Option LFrame := st.frames.find? (fun f => !f.sent)

/-- New frames of a port that may go now: with a slot once it has begun, or without one; none behind a retransmission
of its stream. -/
def ready_ (c : Chip) (p : Nat) (slotted : Bool) : List (Nat × LFrame) :=
  (linkOf c p).streams.filterMap (fun e =>
    match firstAgain e.2, firstNew e.2 with
    | none, some f => if f.slot.isSome = slotted ∧ f.start ≤ c.tb then some (e.1, f) else none
    | _, _ => none)

/-- The one handed or closed first. -/
def firstHanded : List (Nat × LFrame) → Option (Nat × LFrame)
  | [] => none
  | x :: t =>
    match firstHanded t with
    | some y => if y.2.ord < x.2.ord then some y else some x
    | none => some x

/-- The note of a LINKSEND whose frame's EOF has left: its lateness is judged, LINKCNT counts it, it is complete
(R377, R480). -/
def linksendDone (c : Chip) (p : Nat) (f : LFrame) : Chip :=
  if 4 ≤ f.lane then c
  else
    match (laneOf c f.lane).fl.find? (fun j => decide (j.no = f.job)) with
    | none => c
    | some j =>
      let issueLate := j.at_ - j.due
      let slotLate := c.tb - f.start
      let c := if lateTh c < Nat.max issueLate slotLate then
          let c := regOr c (fpReg p 0x14) 4
          if lateTh c < issueLate then regMax c (rTAB 0x060) 31 0 slotLate
          else noteLate c j.idx j.time j.pos j.due f.lane slotLate
        else c
      noteDone (regWrap c (rTAB 0x130) 31 0 1) f.lane f.job

/-- A new DATA frame is sent. -/
def sendNew (c : Chip) (p k : Nat) (f : LFrame) : Chip :=
  let c := sendData c p k f
  let c := if f.late then updLink c p (fun l => { l with slotlate := l.slotlate + 1 }) else c
  linksendDone c p f

/-- Is a management request the write of the last node's DELAY in start-up (R472 step 5)? -/
def lastDelay (l : Link) (m : Mgmt) : Bool :=
  decide (l.lstate = 1) && decide (l.up = 7) && decide (m.node = l.nodes) && decide (m.word0 = 0x118) && decide (m.reply = none)

/-- Sends the first management request not yet sent, or ECHO. With the last node's delay written the link is UP (R472). -/
def sendMgmt (c : Chip) (p : Nat) : Chip :=
  let l := linkOf c p
  match l.mgmt.find? (fun m => !m.sent) with
  | none =>
    if l.lstate = 1 ∧ l.up = 5 then sendFrame (updLink c p (fun x => { x with up := 6 })) p 8 false l.echo 0 0 0 0 []
    else c
  | some m =>
    let c := updLink c p (fun l =>
      { l with mgmt := l.mgmt.filterMap (fun x =>
          if x = m then (if m.reply = none then none else some { m with sent := true }) else some x) })
    let c := sendFrame c p 5 false m.node 0 0 0 0 (plain [wd m.word0, m.data])
    if lastDelay l m then linkUp c p else c

/-- DATA_FRAME_SEND: the line falls free and the port starts the first frame that waits: SYNC, a retransmission, a new frame
whose slot has begun, one without a slot, management (R479). SYNC carries the time base at which its SOF leaves
(R478). -/
def xDataFrameSend (c : Chip) (p : Nat) : Chip :=
  let l := linkOf c p
  if linkOk c p && decide (l.lstate ≠ 0) then
    if l.lstate = 2 ∧ l.syncDue then
      let slot := regFld c (fpReg p 0x08) 11 0 * 40
      sendFrame (updLink c p (fun l => { l with syncDue := false })) p 2 false 15 0 0 0 0
        (plain [wd c.tb, wd (c.tb / 2 ^ 32), wd slot, wd l.cycLen])
    else if l.lstate = 2 then
      match l.streams.find? (fun e => (firstAgain e.2).isSome) with
      | some e =>
        (match firstAgain e.2 with
         | some f => updLink (sendData c p e.1 f) p (fun l => { l with retx := l.retx + 1 })
         | none => c)
      | none =>
        match firstHanded (ready_ c p true) with
        | some (k, f) => sendNew c p k f
        | none =>
          match firstHanded (ready_ c p false) with
          | some (k, f) => sendNew c p k f
          | none => sendMgmt c p
    else sendMgmt c p
  else c

/-- The command DATA_FRAME_SEND on a unit that exists. -/
def execDataFrameSend (p : Nat) (s : State) : Host.Outcome State Fault Refusal :=
  onUnit (isPort p) s (fun c => xDataFrameSend c p)

/-! ### Acknowledgement (R482, R483) -/

/-- A signed 8-bit difference. -/
def diff8 (a b : Nat) : Int := (BitVec.ofNat 8 (a + 256 - b % 256)).toInt

/-- Retransmits a stream, or declares the link down after RETRY retransmissions in a row (R483). -/
def retransmit (c : Chip) (p k : Nat) : Chip :=
  let st := streamOf c p k
  if !st.frames.any (fun f => f.sent) then c
  else if regFld c (fpReg p 0x08) 31 28 ≤ st.retries then linkDown c p
  else updStream c p k (fun st =>
    { st with retries := st.retries + 1, frames := st.frames.map (fun f => { f with again := f.sent }) })

/-- An acknowledgement of one stream: `e` the next SEQ its end node expects. -/
def ackStream (c : Chip) (p k e : Nat) : Chip :=
  let st := streamOf c p k
  let keep := st.frames.filter (fun f => !(f.sent && decide (0 < diff8 e f.seq)))
  if keep.length = st.frames.length then c
  else
    let c := updStream c p k (fun st => { st with frames := keep, retries := 0 })
    match (streamOf c p k).chan with
    | some s => takeBanks c p k s 4
    | none => c

/-- ACK_RECEIVED: frees what it covers, then retransmits on NAK (R477, R482, R483, R491). `bytes` holds byte k for
stream k. -/
def xAckReceived (c : Chip) (p : Nat) (nak : Bool) (seen : Nat) (bytes : Word) : Chip :=
  if portOk c p && inLink c p && decide ((linkOf c p).lstate = 2) then
    let had := (linkOf c p).streams.any (fun e => !e.2.frames.isEmpty)
    let c := [0, 1, 2, 3].foldl (fun c k =>
      if seen.testBit k then ackStream c p k (bits bytes (8 * k + 7) (8 * k)) else c) c
    let none_ := (linkOf c p).streams.all (fun e => e.2.frames.isEmpty)
    let c := if had ∧ none_ then regOr c (fpReg p 0x14) 2 else c
    if nak then
      [0, 1, 2, 3].foldl (fun c k => retransmit c p k) (regOr c (fpReg p 0x14) 0x100)
    else c
  else c

/-- The command ACK_RECEIVED on a unit that exists. -/
def execAckReceived (p : Nat) (nak : Bool) (seen : Nat) (bytes : Word) (s : State) :
    Host.Outcome State Fault Refusal :=
  onUnit (isPort p) s (fun c => xAckReceived c p nak seen bytes)

/-- ACK_TIMEOUT: the oldest frame of a stream has stood unacknowledged for ACKTO, RTT plus 12 µs (R483). -/
def xAckTimeout (c : Chip) (p k : Nat) : Chip :=
  if portOk c p && inLink c p && decide ((linkOf c p).lstate = 2) && decide (k < 4) then
    match (streamOf c p k).frames with
    | f :: _ =>
      if f.sent ∧ f.again = false ∧ 4 * (linkOf c p).rtt + 12000 ≤ c.tb - f.sentAt then retransmit c p k else c
    | [] => c
  else c

/-- The command ACK_TIMEOUT on a unit that exists. -/
def execAckTimeout (p k : Nat) (s : State) : Host.Outcome State Fault Refusal :=
  onUnit (isPort p && isStream k) s (fun c => xAckTimeout c p k)

/-! ### STATUS and MGMT (R488, R489, R554) -/

/-- A receive area of a node. -/
def areaOf (c : Chip) (p n : Nat) : Area := Tbl.get {} (linkOf c p).areas n

/-- STATUS_FRAME_RECEIVED: a good frame of node `n` replaces its area; a frame that is not good is discarded and counted
(R477, R488). -/
def xStatusFrameReceived (c : Chip) (p n seq : Nat) (words : List Word) (good : Bool) : Chip :=
  if portOk c p && inLink c p && (linkOf c p).locked then
    if !good || decide (60 < words.length) || decide (n = 0) || decide (8 < n) then
      regOr (updLink c p (fun l => { l with crcerr := l.crcerr + 1 })) (fpReg p 0x14) 0x100
    else
      let a := areaOf c p n
      let seq := seq % 256
      let missed := if a.valid then (seq + 511 - a.seq) % 256 else 0
      let c := updLink c p (fun l =>
        { l with upmiss := l.upmiss + missed, areas := Tbl.put {} l.areas n ⟨seq, words.length, true, c.tb, words⟩ })
      let c := if missed = 0 then c else regOr c (fpReg p 0x14) 0x200
      regOr c (fpReg p 0x14) 1
  else c

/-- The command STATUS_FRAME_RECEIVED on a unit that exists. -/
def execStatusFrameReceived (p n seq : Nat) (words : List Word) (good : Bool) (s : State) :
    Host.Outcome State Fault Refusal :=
  onUnit (isPort p) s (fun c => xStatusFrameReceived c p n seq words good)

/-- A word of a port's endpoint space in LINK (R488). -/
def areaWord (c : Chip) (p o : Nat) : Word :=
  let a := areaOf c p (o / 256 + 1)
  let r := o % 256
  if r = 0 then wd (a.seq + 256 * a.len + 65536 * b1 a.valid)
  else if r = 4 then wd a.tb
  else if r < 0xF8 then a.words.getD ((r - 8) / 4) 0
  else 0

/-- MGMT_REPLY: the reply of a node to the oldest request that echoes its word 0 (R489, R554). -/
def xMgmtReply (c : Chip) (p node word0 : Nat) (err : Bool) (data : Word) : Chip :=
  if portOk c p && inLink c p then
    match (linkOf c p).mgmt.find? (fun m => m.sent && decide (m.node = node) && decide (m.word0 = word0)) with
    | none => c
    | some m =>
      let c := updLink c p (fun l => { l with mgmt := l.mgmt.erase m })
      match m.reply with
      | none => c
      | some r => if err then complete c r stPARAM 0 else complete c r stOK data
  else c

/-- The command MGMT_REPLY on a unit that exists. -/
def execMgmtReply (p node word0 : Nat) (err : Bool) (data : Word) (s : State) : Host.Outcome State Fault Refusal :=
  onUnit (isPort p) s (fun c => xMgmtReply c p node word0 err data)

/-- MGMT_TIMEOUT: no reply to the oldest request that awaits one has come within 1 ms, be it that the link could not send it
(R489, R554). -/
def xMgmtTimeout (c : Chip) (p : Nat) : Chip :=
  if portOk c p then
    match (linkOf c p).mgmt.find? (fun m => m.reply.isSome) with
    | none => c
    | some m =>
      let c := updLink c p (fun l => { l with mgmt := l.mgmt.erase m })
      match m.reply with
      | none => c
      | some r => complete c r stTIMEOUT 0
  else c

/-- The command MGMT_TIMEOUT on a unit that exists. -/
def execMgmtTimeout (p : Nat) (s : State) : Host.Outcome State Fault Refusal :=
  onUnit (isPort p) s (fun c => xMgmtTimeout c p)

/-- A write of an FP register by any writer, OUT in LINK included (R437, R490). -/
def fpWriteAny (c : Chip) (p o : Nat) (w : Word) : Chip × Bool :=
  if inLink c p ∧ o = 0x28 then (xLinkRestart c p w, false) else fpWrite c p o w

end Sys2Proof.Machine
end

