-- ==== Sys2Proof/Machine/Drones.lean ====
section
/-! DEFINITION. The drones (R447 to R452) and the port events that feed them (R444, R445). -/

namespace Sys2Proof.Machine

open Sys2Proof

/-- KIND of a drone. -/
def drnKind (c : Chip) (d : Nat) : Nat := regFld c (drnReg d 0x00) 2 0

/-- A written position of a drone (R367). -/
def setDrone (c : Chip) (d : Nat) (w : Word) : Chip :=
  let old := dronePos c d
  tabWritten (regPut c (drnReg d 0x04) w) d old

/-- Steps become owed; when their magnitude reaches 32,768 they are added to the position as one write (R448). -/
def oweSteps (c : Chip) (d : Nat) (n : Int) : Chip :=
  let b := (droneOf c d).backlog + n
  if 32768 ≤ b.natAbs then
    let c := regOr (updDrone c d (fun r => { r with backlog := 0 })) (drnReg d 0x1C) 1
    setDrone c d (dronePos c d + wi b)
  else updDrone c d (fun r => { r with backlog := b })

/-- SCALE times a signed count goes into the accumulator; its whole part is owed (R447). -/
def feedDrone (c : Chip) (d : Nat) (count : Int) : Chip :=
  let scale : Int := (regVal c (drnReg d 0x08)).toNat
  let delta := if bit (regVal c (drnReg d 0x00)) 11 then -(count * scale) else count * scale
  let acc := (droneOf c d).frac + delta
  let whole := acc.tdiv 65536
  let c := updDrone c d (fun r => { r with frac := acc - whole * 65536, down := false })
  oweSteps c d whole

/-- Does a drone move by its owed steps: under a port that serves it, or under the rate generator. Without a source, while its port
does not serve and under KIND 3 it stands still, and BACKLOG keeps them (R447, R449). -/
def droneMoves (c : Chip) (d : Nat) : Bool := decide (drnKind c d = 2) || (decide (drnKind c d = 1) && !(droneOf c d).down)

/-- DRONE_STEP: a drone presents one owed step (R364, R448). -/
def xDroneStep (c : Chip) (d : Nat) : Chip :=
  if d < 16 ∧ c.sys.per ∧ (droneOf c d).backlog ≠ 0 ∧ droneMoves c d then
    let fwd := decide (0 < (droneOf c d).backlog)
    let s : Int := if fwd then 1 else -1
    let c := updDrone c d (fun r => { r with backlog := r.backlog - s })
    tabStep (regPut c (drnReg d 0x04) (dronePos c d + wi s)) d fwd
  else c

/-- The command DRONE_STEP on a unit that exists. -/
def execDroneStep (d : Nat) (s : State) : Host.Outcome State Fault Refusal :=
  onUnit (isDrone d) s (fun c => xDroneStep c d)

/-- DRN_SET_WRITE: a write of DRN.SET (R367, R447). -/
def xDrnSetWrite (c : Chip) (d : Nat) (w : Word) : Chip := if d < 16 ∧ c.sys.per then setDrone c d w else c

/-- The command DRN_SET_WRITE on a unit that exists. -/
def execDrnSetWrite (d : Nat) (w : Word) (s : State) : Host.Outcome State Fault Refusal :=
  onUnit (isDrone d) s (fun c => xDrnSetWrite c d w)

/-- Does the port of a drone under KIND 1 serve: in ENC or SSI, and READY (R449)? -/
def sourceServes (c : Chip) (p : Nat) : Bool :=
  let r := portOf c p
  r.ready && (decide (r.mode = 3) || isSsi c p)

/-- CFGERR of a drone's registers. -/
def drnCfgErr (c : Chip) (d : Nat) : Chip := regOr c (drnReg d 0x1C) 0x8000

/-- SPD `ns` nanoseconds later, and twice the area under it in that time: it moves toward RATE at ACC steps per second per millisecond
and then stands (R450). -/
def rampSpd (spd rate acc : Int) (ns : Nat) : Int × Int :=
  let all := if acc = 0 then 0 else ((rate - spd).natAbs * 1000000 : Nat) / (acc * 256)
  if all ≤ ns then (rate, (spd + rate) * all + 2 * rate * (ns - all))
  else
    let step := acc * 256 * ns / 1000000
    let v := if spd < rate then spd + step else spd - step
    (v, (spd + v) * ns)

/-- The rate generator is advanced to the present time base: SPD moves toward RATE, and the steps that SPD gave since the last
advance become owed. Nothing happens before the ramp has moved SPD by one unit (R447, R450). -/
def advanceRate (c : Chip) (d : Nat) : Chip :=
  let r := droneOf c d
  let ns := c.tb - r.lastRamp
  let old := sgn (regVal c (drnReg d 0x14))
  let (spd, area) := rampSpd old (sgn (regVal c (drnReg d 0x0C))) (regVal c (drnReg d 0x10)).toNat ns
  if spd = old ∧ old ≠ sgn (regVal c (drnReg d 0x0C)) then c
  else
    let ph := r.phase + area
    let whole := ph.tdiv 512000000000
    let c := regPut c (drnReg d 0x14) (wi spd)
    let c := updDrone c d (fun r => { r with lastRamp := c.tb, phase := ph - whole * 512000000000 })
    oweSteps c d whole

/-- With ACC = 0, SPD takes RATE at once (R450). -/
def spdAtOnce (c : Chip) (d : Nat) : Chip :=
  if drnKind c d = 2 ∧ regVal c (drnReg d 0x10) = 0 then regPut c (drnReg d 0x14) (regVal c (drnReg d 0x0C)) else c

/-- A write of RATE or ACC: what has passed is owed at the speed it passed at (R450). -/
def rateWrite (c : Chip) (d o : Nat) (w : Word) : Chip :=
  spdAtOnce (regPut (if drnKind c d = 2 then advanceRate c d else c) (drnReg d o) w) d

/-- A write of DRN.CTL (R447, R449, R450). -/
def drnCtl (c : Chip) (d : Nat) (w : Word) : Chip :=
  let bad := decide (4 ≤ bits w 2 0)
  let v := (if bad then setBits w 2 0 0 else w) &&& 0xFF7
  let old := regVal c (drnReg d 0x00)
  let new := decide (bits old 2 0 ≠ bits v 2 0)
  let c := if new && decide (bits old 2 0 = 2) then advanceRate c d else c
  let c := regPut (if bad then drnCfgErr c d else c) (drnReg d 0x00) v
  let c := if !new then c
    else spdAtOnce (regPut (updDrone c d (fun r => { r with frac := 0, lastRamp := c.tb, phase := 0, down := false })) (drnReg d 0x14) 0) d
  if bits v 2 0 = 1 ∧ sourceServes c (bits v 10 4) = false then droneDown c d else c

/-- DRONE_CTL_WRITE: a write of DRN.CTL (R447). -/
def xDroneCtlWrite (c : Chip) (d : Nat) (w : Word) : Chip := if d < 16 ∧ c.sys.per then drnCtl c d w else c

/-- The command DRONE_CTL_WRITE on a unit that exists. -/
def execDroneCtlWrite (d : Nat) (w : Word) (s : State) : Host.Outcome State Fault Refusal :=
  onUnit (isDrone d) s (fun c => xDroneCtlWrite c d w)

/-- RATE_STEP: the rate generator of a drone under KIND 2 is advanced (R450). -/
def xRateStep (c : Chip) (d : Nat) : Chip := if d < 16 ∧ c.sys.per ∧ drnKind c d = 2 then advanceRate c d else c

/-- The command RATE_STEP on a unit that exists. -/
def execRateStep (d : Nat) (s : State) : Host.Outcome State Fault Refusal :=
  onUnit (isDrone d) s (fun c => xRateStep c d)

/-- ENC_COUNT: a filtered edge counts, or both tracks changed within one sample and the count stands (R444, R447, R449). -/
def xEncCount (c : Chip) (p : Nat) (up both : Bool) : Chip :=
  if !encOk c p then c
  else if both then (if (portOf c p).sub = 0 then fpLine c p else c)
  else
    let dir : Int := if up != bit (regVal c (fpReg p 0x08)) 8 then 1 else -1
    (fedBy c p).foldl (fun c d => feedDrone c d dir) (encCount c p up)

/-- The command ENC_COUNT on a unit that exists. -/
def execEncCount (p : Nat) (up both : Bool) (s : State) : Host.Outcome State Fault Refusal :=
  onUnit (isPort p) s (fun c => xEncCount c p up both)

/-- A signed difference modulo 2^n. -/
def signedMod (v : Int) (n : Nat) : Int :=
  let m : Int := 2 ^ n
  let r := v % m
  if 2 * r < m then r else r - m

/-- A drone takes a good SSI frame: POS less PREV is fed; the port's first good frame (`first`) only sets the reference (R447,
R449). -/
def ssiFeed (c : Chip) (p d : Nat) (first : Bool) : Chip :=
  if first then updDrone c d (fun r => { r with down := false })
  else feedDrone c d (signedMod (((regVal c (fpReg p 0x18)).toNat : Int) - (regVal c (fpReg p 0x20)).toNat) (ssiBits c p))

/-- SSI_FRAME_END: an SSI frame ends; `raw` holds the bits sampled, `good` whether steps 3 and 4 were met (R445). -/
def xSsiFrameEnd (c : Chip) (p : Nat) (raw : Word) (good : Bool) : Chip :=
  if portOk c p && isSsi c p && (portOf c p).ssiBusy then
    let first := !(portOf c p).ssiGood
    let c := ssiEnd c p raw good
    if good then (fedBy c p).foldl (fun c d => ssiFeed c p d first) c else c
  else c

/-- The command SSI_FRAME_END on a unit that exists. -/
def execSsiFrameEnd (p : Nat) (raw : Word) (good : Bool) (s : State) : Host.Outcome State Fault Refusal :=
  onUnit (isPort p) s (fun c => xSsiFrameEnd c p raw good)

/-- STAT of a drone (R451). -/
def drnStat (c : Chip) (d : Nat) : Word :=
  let r := droneOf c d
  (regVal c (drnReg d 0x1C) &&& 0x8003) ||| wd (4 * b1 r.down) ||| (wi r.backlog <<< 16)

/-- A read of a drone's register. -/
def drnRead (c : Chip) (d o : Nat) : Word :=
  if o = 0x1C then drnStat c d
  else if o = 0x18 then 0
  else if o = 0x14 ∧ drnKind c d ≠ 2 then 0
  else regVal c (drnReg d o)

/-- A write of a drone's register. -/
def drnWrite (c : Chip) (d o : Nat) (w : Word) : Chip :=
  let a := drnReg d o
  if o = 0x00 then drnCtl c d w
  else if o = 0x08 then
    (if 1 ≤ w.toNat ∧ w.toNat ≤ 0x100000 then regPut c a w else drnCfgErr (regPut c a 0x10000) d)
  else if o = 0x0C then
    (if (sgn w).natAbs ≤ 1024000000 then rateWrite c d o w else drnCfgErr (rateWrite c d o 0) d)
  else if o = 0x10 then
    (if w.toNat ≤ 4000000 then rateWrite c d o w else drnCfgErr (rateWrite c d o 0) d)
  else if o = 0x18 then setDrone c d w
  else if o = 0x1C then regClr c a (w &&& 0x8003).toNat
  else c

end Sys2Proof.Machine
end

