-- ==== Sys2Proof/Machine/NoteRun.lean ====
section
/-! DEFINITION. The transfer lanes (R273 to R276, R333 to R342, R374, R381, R386, R416, R496 to R498): notes started, moved,
failed, completed and retired; gathers; the cam and profile engine's stream. -/

namespace Sys2Proof.Machine

open Sys2Proof

/-! ### Endpoints -/

/-- The global address an endpoint of kind 0, 1 or 4 names; kind 4 in the note's own bank (R295, R336). -/
def epGa (bank : Nat) (w : Word) : Nat :=
  if epKind w = 0 then 0x20000000 + epUnit w * 0x10000 + epOff w
  else if epKind w = 1 then 0x10000000 + epUnit w * 0x100000 + 8 * epOff w
  else tabGa bank (8 * (epUnit w * 65536 + epOff w))

/-- Window register `o` of host window `w` (R515). -/
def winReg (w o : Nat) : Nat := 0x60003080 + w * 0x10 + o

/-- The host address an endpoint of kind 3 names (R496). -/
def hostAddr (c : Chip) (w : Word) : Nat :=
  (regVal c (winReg (epUnit w) 4)).toNat * 2 ^ 32 + (regVal c (winReg (epUnit w) 0)).toNat + 8 * epOff w

/-- Is a host window open for an extent: direction enabled, extent within it, the function able to reach the host (R495,
R496)? -/
def windowOk (c : Chip) (w : Word) (len bitNo : Nat) : Bool :=
  canWriteHost c && bit (regVal c (winReg (epUnit w) 12)) bitNo &&
    decide (8 * epOff w + len ≤ 8 * regFld c (winReg (epUnit w) 8) 16 0)

/-- Counts a transfer turned away by a gate (R268). -/
def countOffAt (c : Chip) (lo hi : Nat) : Chip :=
  let on (a : Nat) : Option Nat := match (target none a).peg with
    | some p => if gateOpen c p then none else some p
    | none => none
  match (on lo).or (on (hi - 1)) with
  | some p => countOff c p
  | none => c

/-- Items a note can pop: words poppable, and a pending GAP record (R296, R319). -/
def notePoppable (h : Chan) : Nat := chPoppable h + (if h.gapPend ∧ h.rem = 0 then 1 else 0)

/-- Why a source cannot be read: 0, or the cause of R396. `hs` is what a host read meets: 0 a good completion, 1 UR or CA, 2 a
completion timeout (R497). -/
def srcCause (c : Chip) (bank : Nat) (w : Word) (len hs : Nat) : Nat :=
  match epKind w with
  | 0 => if extentOn c (epGa bank w) (epGa bank w + len) then 0 else 1
  | 1 => if extentOn c (epGa bank w) (epGa bank w + len) then 0 else 1
  | 2 =>
    if inLink c (epUnit w) then (if epOff w % 4 = 0 ∧ epOff w + len ≤ 0x800 then 0 else 2)
    else if epOff w % 4 = 0 ∧ 0x18 ≤ epOff w ∧ epOff w + len ≤ 0x2C then 0 else 2
  | 3 => if windowOk c w len 0 ∧ hs = 0 then 0 else 2
  | 4 => 0
  | 5 =>
    match slotOfHandle c (epOff w) with
    | none => 4
    | some s =>
      let h := chanOf c s
      if h.closing.isSome ∨ h.broken ∨ partyClass h.cons ≠ 3 then 4
      else if notePoppable h < len / 4 then 5 else 0
  | _ => 2

/-- Why a destination cannot be written: 0, or the cause of R396. -/
def dstCause (c : Chip) (w : Word) (len : Nat) : Nat :=
  match epKind w with
  | 0 =>
    if !extentOn c (epGa 0 w) (epGa 0 w + len) then 1
    else if rejectsWrites c (epUnit w) then 3 else 0
  | 1 => if extentOn c (epGa 0 w) (epGa 0 w + len) then 0 else 1
  | 2 => if inLink c (epUnit w) ∨ epOff w ≠ 0x28 ∨ len ≠ 4 then 2 else 0
  | 3 => if windowOk c w len 1 then 0 else 2
  | 5 =>
    match slotOfHandle c (epOff w) with
    | none => 4
    | some s =>
      let h := chanOf c s
      if h.closing.isSome ∨ h.broken ∨ partyClass h.prod ≠ 3 then 4 else 0
  | _ => 2

/-- Counts a channel whose queue's gate turns a note away (R268, R323). -/
def chOffAt (c : Chip) (w : Word) : Chip :=
  match slotOfHandle c (epOff w) with
  | some s => (match chGate c s with | some p => countOff c p | none => c)
  | none => c

/-- Counts a destination turned away by a gate (R268). -/
def offDst (c : Chip) (w : Word) (cause len : Nat) : Chip :=
  if cause = 1 then countOffAt c (epGa 0 w) (epGa 0 w + len)
  else if cause = 4 ∧ epKind w = 5 then chOffAt c w else c

/-- Reads `n` words of SRAM, cluster store or a bank; a poisoned word is delivered with its tag (R256). -/
def readNoteMem (c : Chip) (ga : Nat) : Nat → Chip × List QWord
  | 0 => (c, [])
  | n + 1 =>
    let (c, w, p) := if ga < 0x40000000 then readWord c ga 3 0 else (c, wordAt c ga, decide (ga ∈ c.poison))
    let (c, l) := readNoteMem c (ga + 4) n
    (c, ⟨w, p⟩ :: l)

/-- Reads `n` words of a port as one snapshot (R439, R488). -/
def readNotePort (c : Chip) (p o n : Nat) : List QWord :=
  (List.range n).map (fun i => ⟨if inLink c p then areaWord c p (o + 4 * i) else (fpRead c p (o + 4 * i)).2, false⟩)

/-- The words of a source; those of the host are the operand `data` with the poisoned places `ep`. -/
def readSrc (c : Chip) (bank : Nat) (w : Word) (n : Nat) (data : List Word) (ep : List Nat) : Chip × List QWord :=
  match epKind w with
  | 2 => (c, readNotePort c (epUnit w) (epOff w) n)
  | 3 =>
    let c := if ep.isEmpty then c else regOr c 0x60003004 4
    (c, (List.range n).map (fun i => ⟨data.getD i 0, decide (i ∈ ep)⟩))
  | 5 =>
    match slotOfHandle c (epOff w) with
    | some s => chTakeN c s n
    | none => (c, [])
  | _ => readNoteMem c (epGa bank w) n

/-- Writes words into SRAM or cluster store. -/
def writeNoteMem (c : Chip) (ga : Nat) : List QWord → Chip
  | [] => c
  | q :: t => writeNoteMem (writeWord c ga q.w q.p none) (ga + 4) t

/-- Writes words to a destination at a byte offset; answers whether it took the error response (R437). -/
def writeDst (c : Chip) (w : Word) (off : Nat) (l : List QWord) : Chip × Bool :=
  match epKind w with
  | 2 => (match l with
    | q :: _ => fpWriteAny c (epUnit w) 0x28 q.w
    | [] => (c, false))
  | 3 => (hostWrite c (hostAddr c w + off) l l.length, false)
  | 5 =>
    match slotOfHandle c (epOff w) with
    | some s => ((chPushRecord c s l 0).1, false)
    | none => (c, true)
  | _ => (writeNoteMem c (epGa 0 w + off) l, false)

/-! ### Ends of notes (R333, R338, R381) -/

/-- Bytes of a note's whole destination extent. -/
def dstLen (j : Job) : Nat := if isGather (nOp j.w0) then 32 * gatherB (nOp j.w0) + 4 else nLen j.w3

/-- The number of bytes a note moved is recorded. -/
def setMoved (c : Chip) (lane no n : Nat) : Chip :=
  updLane c lane (fun l => { l with fl := l.fl.map (fun j => if j.no = no then { j with moved := n } else j) })

/-- A note's transfer fails (R337, R338, R381). -/
def failNote (c : Chip) (lane : Nat) (j : Job) (cause : Nat) : Chip :=
  let c := regCount (regCount c (rTAB 0x054) 31 0 1) (laneReg lane 0x14) 31 0 1
  let rec_ := recIdx j.idx j.time lane cause
  let c := regPut (regPut c (rTAB 0x070) rec_) (rTAB 0x074) (wd (if j.time then j.due else j.pos))
  let c := if nQuiet j.w0 then c else tabEv c 1
  let m := nMiss j.w3
  let op := nOp j.w0
  let c :=
    if (m = 1 ∨ m = 2) ∧ op ≠ 3 ∧ op ≠ 4 ∧ op ≠ 0x0F ∧ dstCause c j.w2 (dstLen j) = 0 ∧
        (epKind j.w2 = 2 ∧ outRefused c (epUnit j.w2)) = false then
      (writeDst c j.w2 0 (List.replicate (dstLen j / 4) ⟨0, decide (m = 2)⟩)).1
    else if m = 3 then enterHalted (tabEv c 9) 2
    else if m = 4 then fatal c 3 rec_
    else c
  noteDone c lane j.no

/-- Moves words to a note's destination; they are visible at once. -/
def moveNote (c : Chip) (lane : Nat) (j : Job) (l : List QWord) : Chip :=
  let (c, err) := writeDst c j.w2 0 l
  if err then failNote c lane j 2 else setMoved c lane j.no (4 * l.length)

/-! ### Order in a lane (R374, R386) -/

/-- Is every note issued before a number complete, on every lane? -/
def allBefore (c : Chip) (no : Nat) : Bool :=
  c.tab.lanes.all (fun l => l.2.q.all (fun j => decide (no ≤ j.no)) && l.2.fl.all (fun j => decide (no ≤ j.no) || decide (j.st = 2)))

/-- Does a note wait on FENCE or on the changeover fence? -/
def fenceWaits (c : Chip) (j : Job) : Bool := (nFence j.w0 || j.chg) && !allBefore c j.no

/-- A place in one number line for every endpoint: memory by address, then ports and channels, then the host's memory by host
address. -/
def epSpan (c : Chip) (bank : Nat) (w : Word) (len : Nat) : Nat × Nat :=
  let lo := if epKind w = 2 then 0x100000000 + epUnit w * 0x10000 + epOff w
    else if epKind w = 3 then 0x400000000 + hostAddr c w
    else if epKind w = 5 then 0x300000000 + epOff w % 4096
    else epGa bank w
  (lo, lo + (if epKind w = 5 then 1 else len))

/-- What a note reads; popping a channel changes it and counts as a write. -/
def readsOf (c : Chip) (j : Job) : List (Nat × Nat) :=
  let op := nOp j.w0
  if op = 1 ∧ epKind j.w1 ≠ 5 then [epSpan c j.bank j.w1 (nLen j.w3)]
  else if isGather op then
    ((List.range 32).filter j.w1.toNat.testBit).map (fun k =>
      (0x10000000 + k * 0x100000 + 8 * nLen j.w3, 0x10000000 + k * 0x100000 + 8 * nLen j.w3 + gatherB op))
  else []

/-- What a note writes. -/
def writesOf (c : Chip) (j : Job) : List (Nat × Nat) :=
  let op := nOp j.w0
  (if (op = 1 ∧ epKind j.w1 = 5) ∨ op = 4 then [epSpan c j.bank j.w1 1] else []) ++
    (if op = 1 ∨ op = 2 ∨ op = 5 ∨ isGather op then [epSpan c j.bank j.w2 (dstLen j)] else [])

/-- Do two lists of extents meet? -/
def spansMeet (a b : List (Nat × Nat)) : Bool :=
  a.any (fun x => b.any (fun y => decide (x.1 < y.2) && decide (y.1 < x.2)))

/-- Must a note wait for an earlier one of its lane in flight (R374)? -/
def conflicts (c : Chip) (j e : Job) : Bool :=
  decide (e.st ≠ 2) && (spansMeet (readsOf c j) (writesOf c e) || spansMeet (writesOf c j) (readsOf c e ++ writesOf c e))

/-- INFL of a lane. -/
def laneInfl (c : Chip) (lane : Nat) : Nat := regFld c (laneReg lane 0x00) 3 0

/-- Is a note's set switch behind it: no switch of its engine is pending, or only one that follows the note (R385)? -/
def beforeSwitch (m : Cam) (j : Job) : Bool := match m.sw with | some n => decide (j.no ≤ n) | none => true

/-- Does the engine of a CAMOUT accept it: its domain is off (the note then fails), or its queue has room and no CAMOUT issued
earlier waits on another lane (R401)? -/
def camRoom (c : Chip) (j : Job) : Bool :=
  let m := camOf c (bits j.w1 4 0)
  !camOn c (bits j.w1 4 0) ||
    (decide (m.queue.length < 8) && !m.waits.any (fun w => w.lane && waitLive c w && decide (w.at_ < j.no)))

/-- The way between a note's lane and an endpoint: a cluster's memory or a channel's home cluster, through the gateway of its
quadrant, the endpoint first where it is a source; a link queue, a port, the host and the tablature store lie in the
periphery (R265, R375). -/
def notePath (c : Chip) (w : Word) (source : Bool) : List Nat :=
  let way (j : Nat) : List Nat := if source then toPeriphery j else fromPeriphery j
  match epKind w with
  | 0 => way (clusterOf (epUnit w))
  | 1 => way (epUnit w)
  | 5 => (match slotOfHandle c (epOff w) with
    | some s => if isLinkQ (chanOf c s) then [] else way (s / 128)
    | none => [])
  | _ => []

/-- The ways a note's data take. -/
def notePaths (c : Chip) (j : Job) : List Nat × List Nat :=
  let op := nOp j.w0
  (if op = 1 ∨ op = 4 then notePath c j.w1 true else if op = 5 then toPeriphery (bits j.w1 4 0) else [],
    if op = 1 ∨ op = 2 ∨ op = 5 then notePath c j.w2 false else [])

/-- Does a stopped input port hold a note's transfer (R272)? -/
def noteHeld (c : Chip) (j : Job) : Bool := pathHeld c (notePaths c j).1 || pathHeld c (notePaths c j).2

/-- The flits of a note's transfer (R260). -/
def noteFlits (c : Chip) (j : Job) : Chip :=
  let n := itemFlits (nLen j.w3)
  sendFlits (sendFlits c (notePaths c j).1 n) (notePaths c j).2 n

/-- Can a note's operation begin now: the collector is free, the engine's stream has room and its set switch is behind the
note (R273, R385, R401)? -/
def opFree (c : Chip) (j : Job) : Bool :=
  let op := nOp j.w0
  if isGather op then c.tab.gather.isNone
  else if op = 5 then
    !camOn c (bits j.w1 4 0) || (camRoom c j && beforeSwitch (camOf c (bits j.w1 4 0)) j)
  else true

/-- Does a gather occupy its lane: its collection is not complete (R376)? -/
def gatherHolds (c : Chip) (lane : Nat) : Bool :=
  match c.tab.gather with
  | some g => decide (g.lane = lane) && ((List.range 32).filter g.mask.testBit).any (fun k => !decide (k ∈ g.taken))
  | none => false

/-- Do the lane's order and the fences let its first note start (R374, R376, R386)? -/
def laneFree (c : Chip) (lane : Nat) (j : Job) : Bool :=
  let l := laneOf c lane
  decide (l.fl.length < laneInfl c lane) && !fenceWaits c j && !l.fl.any (conflicts c j) && !gatherHolds c lane && !noteHeld c j

/-- What a note does when it acts. -/
def actNote (c : Chip) (lane : Nat) (j : Job) (hs : Nat) (data : List Word) (ep : List Nat) : Chip :=
  let op := nOp j.w0
  let len := nLen j.w3
  if op = 1 then
    let sc := srcCause c j.bank j.w1 len hs
    let c := if epKind j.w1 = 3 ∧ windowOk c j.w1 len 0 ∧ hs ≠ 0 then
        (if hs = 1 then regOr c 0x60003004 2 else regCount (regOr c 0x60003004 1) 0x60003008 15 0 1)
      else c
    let c := if sc = 1 then countOffAt c (epGa j.bank j.w1) (epGa j.bank j.w1 + len) else c
    let dc := dstCause c j.w2 len
    if sc ≠ 0 then failNote (if sc = 4 then chOffAt c j.w1 else c) lane j sc
    else if dc ≠ 0 then failNote (offDst c j.w2 dc len) lane j dc
    else
      let (c, l) := readSrc c j.bank j.w1 (len / 4) data ep
      moveNote c lane j l
  else if op = 2 then
    let dc := dstCause c j.w2 len
    if dc ≠ 0 then failNote (offDst c j.w2 dc len) lane j dc
    else moveNote c lane j (List.replicate (len / 4) ⟨j.w1, false⟩)
  else if op = 4 then
    match slotOfHandle c (epOff j.w1) with
    | none => failNote c lane j 4
    | some s =>
      let h := chanOf c s
      if h.closing.isSome ∨ h.broken then failNote (chOffAt c j.w1) lane j 4
      else if !inLink c (epUnit j.w2) then failNote c lane j 7
      else if isLinkQ h = false ∨ partyNo h.cons ≠ epUnit j.w2 then failNote c lane j 4
      else
        let (c, sent) := closeBank c (epUnit j.w2) s (some (nSlot j.w3)) lane j.no
        if sent then c else noteDone c lane j.no
  else if op = 5 then
    let e := bits j.w1 4 0
    if !camOn c e then failNote (countOff c (2 * e + 1)) lane j 1
    else camPush (camWaitEnd c e true lane) e ⟨1, lane, 0, 0, bits j.w1 9 5, j.pos, len, j.no⟩
  else if isGather op then
    let g : Gather := ⟨lane, j.no, j.w1.toNat, 8 * len, gatherB op, 0, 0, [], [], [], 0, false⟩
    { c with tab := { c.tab with gather := some g } }
  else c

/-- NOTE_START: a lane starts the first note of its queue once its order, fences and places allow; a CAMOUT that its engine
cannot accept waits there, before the operations of strings. `hs`, `data` and `ep` are
what a read of the host meets: the completion's status, its words and the poisoned ones among them (R374, R497). -/
def xNoteStart (c : Chip) (lane hs : Nat) (data : List Word) (ep : List Nat) : Chip :=
  if c.sys.per = false ∨ 4 ≤ lane then c
  else
    match (laneOf c lane).q with
    | [] => c
    | j :: rest =>
      if laneFree c lane j = false then c
      else if opFree c j = false then
        (if nOp j.w0 = 5 ∧ beforeSwitch (camOf c (bits j.w1 4 0)) j then camWait c (bits j.w1 4 0) ⟨true, lane, j.no, false⟩ else c)
      else
        let j := { j with st := 1 }
        let c := updLane c lane (fun l => { l with q := rest, fl := l.fl ++ [j], busy := true })
        let c := if j.chg then regPut c (rTAB 0x118) (wd (c.tb - j.at_)) else c
        let c := actNote (noteFlits c j) lane j hs data ep
        if nOp j.w0 = 5 then camAdmitAll (camSwitchPush c (bits j.w1 4 0)) (bits j.w1 4 0) else c

/-- The command NOTE_START on a unit that exists. -/
def execNoteStart (lane hs : Nat) (data : List Word) (ep : List Nat) (s : State) : Host.Outcome State Fault Refusal :=
  onUnit (isLane lane) s (fun c => xNoteStart c lane hs data ep)

/-- Retires complete notes in lane order (R374, R397); `n` is fuel. -/
def retireNotes (c : Chip) (lane : Nat) : Nat → Chip
  | 0 => c
  | n + 1 =>
    match (laneOf c lane).fl with
    | j :: rest =>
      if j.st = 2 then
        let c := regWrap (regWrap c (laneReg lane 0x08) 31 0 1) (laneReg lane 0x0C) 31 0 j.moved
        retireNotes (updLane c lane (fun l => { l with fl := rest })) lane n
      else c
    | [] => c

/-- NOTE_COMPLETE: the bytes of note `no` are visible at their destination; complete notes retire in lane order. A SIGNAL,
CAMOUT, GATHER or LINKSEND is complete through its own event (R333, R374). -/
def xNoteComplete (c : Chip) (lane no : Nat) : Chip :=
  if c.sys.per = false ∨ 4 ≤ lane then c
  else
    let own (op : Nat) : Bool := op = 1 || op = 2 || op = 0x0F
    let c := updLane c lane (fun l =>
      { l with fl := l.fl.map (fun j => if j.no = no ∧ own (nOp j.w0) then { j with st := 2 } else j) })
    retireNotes c lane 9

/-- The command NOTE_COMPLETE on a unit that exists. -/
def execNoteComplete (lane no : Nat) (s : State) : Host.Outcome State Fault Refusal :=
  onUnit (isLane lane) s (fun c => xNoteComplete c lane no)

/-- The first SIGNAL of a lane's notes in flight behind complete ones alone. -/
def nextSignal : List Job → Option Job
  | [] => none
  | j :: t => if nOp j.w0 = 3 ∧ j.st = 1 then some j else if j.st = 2 then nextSignal t else none

/-- SIGNAL: a note signal pulses its source once every note issued before it on the lane has completed (R339). -/
def xSignal (c : Chip) (lane : Nat) : Chip :=
  if c.sys.per = false ∨ 4 ≤ lane then c
  else
    match nextSignal (laneOf c lane).fl with
    | none => c
    | some j => noteDone (regWrap (pulse c j.w1.toNat) (rTAB 0x12C) 31 0 1) lane j.no

/-- The command SIGNAL on a unit that exists. -/
def execSignal (lane : Nat) (s : State) : Host.Outcome State Fault Refusal :=
  onUnit (isLane lane) s (fun c => xSignal c lane)

/-! ### Gathers (R273 to R275) -/

/-- The record a cluster sends, or the gateway's in its place, counted in OFFACC (R260, R268, R275). -/
def gatherRecord (c : Chip) (g : Gather) (k : Nat) : Chip × List QWord × Bool :=
  if gateOpen c (2 * k + g.off / 0x40000) then
    let c := sendFlits c (toPeriphery k) (1 + g.b / 8)
    let (c, l) := readNoteMem c (0x10000000 + k * 0x100000 + g.off) (g.b / 4)
    (c, l, false)
  else (countOff c (2 * k + g.off / 0x40000), List.replicate (g.b / 4) ⟨0xFFFFFFFF, false⟩, true)

/-- Has a cluster's record been read already? -/
def hasRecord (g : Gather) (k : Nat) : Bool := g.read.any (fun e => decide (e.1 = k)) || g.recs.any (fun e => decide (e.1 = k))

/-- A cluster's record is read, or replaced, and is on its way. -/
def readGather (c : Chip) (g : Gather) (k : Nat) : Chip × Gather :=
  let (c, l, r) := gatherRecord c g k
  (c, { g with read := Tbl.ins g.read k (l, r), replaced := if r then g.replaced + 2 ^ k else g.replaced })

/-- A record that has been read reaches the collector and waits there complete. -/
def landRecord (g : Gather) (k : Nat) : Gather :=
  match g.read.find? (fun e => decide (e.1 = k)) with
  | some e => { g with read := g.read.filter (fun e => decide (e.1 ≠ k)), recs := Tbl.ins g.recs k e.2 }
  | none => g

/-- Records that have arrived join those that wait complete; one not read yet is read first. A stopped input port on its way holds
a record (R272). -/
def gatherArrive (c : Chip) (g : Gather) : List Nat → Chip × Gather
  | [] => (c, g)
  | k :: t =>
    if g.mask.testBit k ∧ pathHeld c (toPeriphery k) = false then
      let (c, g) := if hasRecord g k then (c, g) else readGather c g k
      gatherArrive c (landRecord g k) t
    else gatherArrive c g t

/-- GATHER_RECORD: of the records waiting complete the collector takes the one whose cluster comes first at or after its
pointer; `arrived` names the clusters whose records have come in by now (R274). -/
def xGatherRecord (c : Chip) (arrived : BitVec 32) : Chip :=
  match c.tab.gather with
  | none => c
  | some g =>
    let (c, g) := gatherArrive c g ((List.range 32).filter arrived.toNat.testBit)
    let waiting := (g.recs.map Prod.fst).filter (fun k => !decide (k ∈ g.taken))
    let order := (List.range 32).map (fun i => (g.ptr + i) % 32)
    let g := match order.find? (fun k => decide (k ∈ waiting)) with
      | some k => { g with taken := g.taken ++ [k], ptr := (k + 1) % 32 }
      | none => g
    { c with tab := { c.tab with gather := some g } }

/-- The command GATHER_RECORD. -/
def execGatherRecord (arrived : BitVec 32) (s : State) : Host.Outcome State Fault Refusal :=
  onChip s (fun c => xGatherRecord c arrived)

/-- Writes the records of a gather to their places. -/
def writeRecords (c : Chip) (dst : Word) (b : Nat) : Tbl (List QWord × Bool) → Chip
  | [] => c
  | e :: t => writeRecords (writeDst c dst (e.1 * b) e.2.1).1 dst b t

/-- GATHER_COMPLETE: every record has been taken; records and status word are written, and the note completes (R275). -/
def xGatherComplete (c : Chip) : Chip :=
  match c.tab.gather with
  | none => c
  | some g =>
    if ((List.range 32).filter g.mask.testBit).any (fun k => !decide (k ∈ g.taken)) then c
    else
      let c := { c with tab := { c.tab with gather := none } }
      match (laneOf c g.lane).fl.find? (fun j => decide (j.no = g.job)) with
      | none => c
      | some j =>
        let dc := dstCause c j.w2 (dstLen j)
        if dc ≠ 0 then failNote (offDst c j.w2 dc (dstLen j)) g.lane j dc
        else
          let c := writeRecords c j.w2 g.b g.recs
          let (c, _) := writeDst c j.w2 (32 * g.b) [⟨wd g.replaced, false⟩]
          let c := regWrap (setMoved c g.lane j.no (g.recs.length * g.b + 4)) (rTAB 0x134) 31 0 1
          noteDone c g.lane j.no

/-- The command GATHER_COMPLETE. -/
def execGatherComplete (s : State) : Host.Outcome State Fault Refusal :=
  onChip s (fun c => xGatherComplete c)

/-! ### The engine's stream (R401, R411, R416, R418) -/

/-- A CAMOUT is performed: one evaluation, and the note's write (R341, R416). -/
def camoutDo (c : Chip) (e : Nat) (o : CamOp) (ecc at_ : Nat) : Chip :=
  match (laneOf c o.who).fl.find? (fun j => decide (j.no = o.job)) with
  | none => c
  | some j =>
    let pos := if j.time then (dronePos c (camDrone (camTable (camOf c e) o.sel))).toNat else o.a
    let (c, code, v, w) := camEvaluate c e o.sel pos ecc at_
    if code ≠ 0 then failNote c o.who j 6
    else
      let dc := dstCause c j.w2 (nLen j.w3)
      if dc ≠ 0 then failNote (offDst c j.w2 dc (nLen j.w3)) o.who j dc
      else
        let (c, err) := writeDst c j.w2 0 (plain (if nLen j.w3 = 8 then [v, w] else [v]))
        if err then failNote c o.who j 2
        else noteDone (regWrap (setMoved c o.who j.no (nLen j.w3)) (rTAB 0x138) 31 0 1) o.who j.no

/-- An operation taken off the stream is performed (R401, R411, R416, R418). -/
def camOpDo (c : Chip) (e : Nat) (o : CamOp) (ecc at_ : Nat) : Chip :=
  if o.kind = 1 then camoutDo c e o ecc at_
  else if o.kind = 2 then camSwitch c e
  else camDo c e o ecc at_

/-- What waits for a place in the stream takes it: a set switch, then released operations (R385, R401). -/
def camRefill (c : Chip) (e : Nat) : Chip := camAdmitAll (camSwitchPush c e) e

/-- CAM_PERFORM: the engine performs the operation at the head of its stream; `ecc` is what table memory meets at word
`at_` of the table (0 nothing, 1 a single-bit error, 2 an uncorrectable one) (R401, R421). -/
def xCamPerform (c : Chip) (e ecc at_ : Nat) : Chip :=
  if camOn c e = false then c
  else
    match (camOf c e).queue with
    | [] => camRefill c e
    | o :: _ => camRefill (camOpDo (camPop c e) e o ecc at_) e

/-- The command CAM_PERFORM on a unit that exists. -/
def execCamPerform (e ecc at_ : Nat) (s : State) : Host.Outcome State Fault Refusal :=
  onUnit (isCluster e && isEcc ecc) s (fun c => xCamPerform c e ecc at_)

/-- The operations an engine has accepted, performed in order; the first argument is fuel. -/
def camDrain : Nat → Chip → Nat → Chip
  | 0, c, _ => c
  | n + 1, c, e =>
    match (camOf c e).queue with
    | [] => c
    | o :: _ => camDrain n (camOpDo (camPop c e) e o 0 0) e

/-- The engine's domain closes its gate: what was delivered into it before completes normally, what is still offered ends with
BUSOFF (R28, R413). -/
def camGateClosed (c : Chip) (e : Nat) (off : Bool) : Chip :=
  let c := camDrain (camOf c e).queue.length c e
  camPowerDown (camldEnd c e 0 0) e off

/-! ### The TAB block as it is read and written (R389 to R398) -/

/-- STAT.ENG (R391). -/
def tabEng (c : Chip) : Nat :=
  if c.tab.active.isSome ∧ (c.dev = .halted ∨ c.dev = .faulted) then 4
  else match c.tab.arm with
    | some a => if a.staged then 3 else 2
    | none => if c.dev = .halted ∨ c.dev = .faulted then 4 else if tabRuns c then 1 else 0

/-- A read of TAB.STAT. -/
def tabStat (c : Chip) : Word :=
  let w := regVal c (rTAB 0x004) &&& 0x8010
  let chgf := c.tab.lanes.any (fun l => l.2.q.any (fun j => j.chg && fenceWaits c j))
  w ||| wd (tabEng c + 8 * b1 (overspeed c) + 32 * b1 (nextDue c).isSome + 64 * b1 c.tab.active.isSome +
    128 * b1 (decide (c.tab.active = some 1)) + 256 * b1 chgf)

/-- PSIDX: the index of the next phase note to fall due. -/
def psIdx (c : Chip) : Nat :=
  match c.tab.active with
  | none => 0
  | some b =>
    let h := (servedH c).toNat % 65536
    match (List.range (imPscnt c b)).find? (fun i => decide (h < nOffset (noteWord c b false i 0))) with
    | some i => i
    | none => 0

/-- LSTAT of a lane (R397). -/
def laneStat (c : Chip) (l : Nat) : Word :=
  let r := laneOf c l
  let fw := match r.q with | j :: _ => fenceWaits c j | [] => false
  wd (r.fl.length + 16 * r.q.length + 1024 * b1 fw)

/-- A value of the active image. -/
def ofActive (c : Chip) (f : Nat → Nat) : Word := match c.tab.active with | some b => wd (f b) | none => 0

/-- Is a TAB register read-clear (R395, R397)? -/
def tabRc (o : Nat) : Bool :=
  o = 0x028 || o = 0x050 || o = 0x054 || o = 0x058 || o = 0x05C || o = 0x060 || o = 0x07C || o = 0x10C || o = 0x11C ||
    o = 0x120 || o = 0x124 || o = 0x128 ||
    (decide (0x080 ≤ o) && decide (o < 0x100) && (o % 0x20 = 0x10 || o % 0x20 = 0x14 || o % 0x20 = 0x18))

/-- A read of a TAB register. -/
def tabRead (c : Chip) (o : Nat) : Chip × Word :=
  let v := regVal c (rTAB o)
  if o = 0x004 then (c, tabStat c)
  else if o = 0x008 then (c, wd (c.tab.stA + 16 * c.tab.stB))
  else if o = 0x014 then (c, match armReady c with | some a => a.p | none => 0)
  else if o = 0x02C then (c, ofActive c (imMaxspd c))
  else if o = 0x03C then (c, wd (psIdx c))
  else if o = 0x040 then (c, wd (match c.tab.tsBank with | some b => if c.tab.tIdx < imTscnt c b then c.tab.tIdx else 0 | none => 0))
  else if o = 0x100 then (c, ofActive c (imTper c))
  else if o = 0x104 then (c, ofActive c (imTalign c))
  else if 0x080 ≤ o ∧ o < 0x100 ∧ o % 0x20 = 4 then (c, laneStat c ((o - 0x080) / 0x20))
  else if tabRc o then (regPut c (rTAB o) 0, v)
  else (c, v)

/-- CFGERR of the TAB block. -/
def tabCfgErr (c : Chip) : Chip := regOr c (rTAB 0x004) 0x8000

/-- A write of a TAB register. -/
def tabWrite (c : Chip) (o : Nat) (w : Word) : Chip :=
  if o = 0x000 then regPut c (rTAB o) (w &&& 3)
  else if o = 0x004 then regClr c (rTAB o) (w &&& 0x8000).toNat
  else if o = 0x030 then
    let v := bits w 19 0
    if 100 ≤ v ∧ v ≤ 1000000 then regPut c (rTAB o) (wd v) else tabCfgErr (regPut c (rTAB o) 0x7D0)
  else if o = 0x034 then regPut c (rTAB o) (w &&& 0x3FF)
  else if o = 0x038 then regClr c (rTAB o) (w &&& 0x3FF).toNat
  else if o = 0x13C then regPut c (rTAB o) (w &&& 1)
  else if 0x080 ≤ o ∧ o < 0x100 ∧ o % 0x20 = 0 then
    let v := bits w 3 0
    if 1 ≤ v ∧ v ≤ 8 then regPut c (rTAB o) (wd v) else tabCfgErr (regPut c (rTAB o) 8)
  else c

end Sys2Proof.Machine
end

