-- ==== Sys2Proof/Machine/Clocks.lean ====
section
/-! DEFINITION. The time base, the clock domains and their crossings (R589 to R609), and steps of the time base (R508,
R509, R512). -/

namespace Sys2Proof.Machine

open Sys2Proof

/-- CLK register. -/
def rCLK (o : Nat) : Nat := 0x60002000 + o

/-- HST register. -/
def rHST (o : Nat) : Nat := 0x60003000 + o

/-- Is every PLL locked? -/
def allLocked (c : Chip) : Bool := decide (regFld c (rCLK 0x004) 5 2 = 15)

/-! ### The time base (R508, R591) -/

/-- Lane by lane, a microsecond with a note in flight has ended (R397). -/
def busyMicros (c : Chip) : Chip :=
  [0, 1, 2, 3].foldl (fun c l =>
    let c := if (laneOf c l).busy then regWrap c (laneReg l 0x1C) 31 0 1 else c
    if (laneOf c l).busy = !(laneOf c l).fl.isEmpty then c
    else updLane c l (fun x => { x with busy := !x.fl.isEmpty })) c

/-- One period of TBCLK: 5 ns from the FIO; from the PLL 2 ns, corrected by TBRATE in units of 2^-40 (R508, R591). -/
def tick (c : Chip) : Chip :=
  if !c.sys.per then c
  else
    let old := c.tb
    let c :=
      if onPll c then
        let f : Int := (c.frac : Int) + 2 * sgn (regVal c (rHST 0x018))
        { c with tb := ((c.tb : Int) + 2 + f / 2 ^ 40).toNat, frac := (f % 2 ^ 40).toNat }
      else { c with tb := c.tb + 5 }
    if c.tb / 1000 = old / 1000 then c else busyMicros c

/-- The step HST.TBOFS holds, signed 64-bit. -/
def tbOfs (c : Chip) : Int :=
  (BitVec.ofNat 64 ((regVal c (rHST 0x020)).toNat * 2 ^ 32 + (regVal c (rHST 0x01C)).toNat)).toInt

/-- Are steps of the time base refused in this state? -/
def stepBarred (c : Chip) : Bool := c.dev = .armed || c.dev = .running || c.dev = .changeover

/-- A step of the time base by the host or the PTP stack, or its refusal; source 978 is pulsed either way (R509, R564). -/
def tbStep (c : Chip) (ofs : Int) : Chip :=
  if stepBarred c ∨ (c.tb : Int) + ofs < 0 then pulse (regOr c (rHST 0x028) 1) 978
  else
    let now := ((c.tb : Int) + ofs).toNat
    let c := { c with tb := now, chans := c.chans.map (fun (e : Nat × Chan) => (e.1, { e.2 with tailAt := now })) }
    let c := match c.tab.active with
      | some b => { c with tab := { c.tab with tsBank := none, tsQ := [(b, now)], frame := none, tIdx := 0 } }
      | none => c
    pulse (regWrap c (rHST 0x028) 31 16 1) 978

/-- A write of HST.TBCTL (R508, R509, R512). -/
def tbctlWrite (c : Chip) (w : Word) : Chip :=
  let bad := bit w 0 && !Config.optE
  let c := if bad then regOr c (rHST 0x000) 0x8000 else c
  let c := regPut c (rHST 0x024) (if bad then 0 else w &&& 1)
  if bit w 1 ∧ bit (regVal c (rHST 0x024)) 0 = false then tbStep c (tbOfs c) else c

/-- TIME_BASE_STEP: a write of TBCTL with STEP set (R509). -/
def xTimeBaseStep (c : Chip) (w : Word) : Chip := if c.sys.per ∧ bit w 1 then tbctlWrite c w else c

/-- The command TIME_BASE_STEP. -/
def execTimeBaseStep (w : Word) (s : State) : Host.Outcome State Fault Refusal :=
  onChip s (fun c => xTimeBaseStep c w)

/-- A read of TBLO captures the upper half into TBHI (R512). -/
def tbloRead (c : Chip) : Chip × Word := (regPut c (rHST 0x014) (wd (c.tb / 2 ^ 32)), wd c.tb)

/-- TBLO_READ. -/
def xTbloRead (c : Chip) : Chip :=
  if c.sys.per then emit (tbloRead c).1 (.read (rHST 0x010) (tbloRead c).2) else c

/-- The command TBLO_READ. -/
def execTbloRead (s : State) : Host.Outcome State Fault Refusal :=
  onChip s (fun c => xTbloRead c)

/-! ### Sources and PLLs (R589, R593 to R596) -/

/-- TCXO_START: the TCXO runs within the monitor's window; `khz` is the FIO's frequency measured against it (R589, R606). -/
def xTcxoStart (c : Chip) (khz : BitVec 18) : Chip :=
  if c.sys.per ∧ bit (regVal c (rCLK 0x004)) 1 = false then
    regPut (regOr c (rCLK 0x004) 2) (rCLK 0x008) (khz.setWidth 32)
  else c

/-- The command TCXO_START. -/
def execTcxoStart (khz : BitVec 18) (s : State) : Host.Outcome State Fault Refusal :=
  onChip s (fun c => xTcxoStart c khz)

/-- The PTP stack follows the clocks: INITIALIZING on the FIO, LISTENING when it leaves it (R506, R513). -/
def ptpState (c : Chip) (n : Nat) : Chip :=
  if bit (regVal c (rHST 0x02C)) 0 then
    let lock := bit (regVal c (rHST 0x030)) 4
    let c := { (regSetFld c (rHST 0x030) 4 0 n) with ptp := { c.ptp with good := 0 } }
    if lock then pulse c 979 else c
  else c

/-- A write of CLK.CTL (R589, R593, R606). One that is refused, since it sets SWITCH where no switch can begin, changes nothing
but SWREF. -/
def clkCtl (c : Chip) (w : Word) : Chip :=
  let st := regVal c (rCLK 0x004)
  let en := bit w 0 || bit st 0
  let d := regPut c (rCLK 0x000) (wd (b1 en + 4 * b1 (bit w 2)))
  let d := if en then d else regClr d (rCLK 0x004) 0x3C
  if !bit w 1 then d
  else if !allLocked d || bit st 0 || bit st 6 then regOr c (rCLK 0x004) 0x200
  else regOr d (rCLK 0x004) 0x40

/-- CLK_PLLEN_WRITE: a write of CTL that leaves SWITCH 0 (R589). -/
def xClkPllenWrite (c : Chip) (w : Word) : Chip := if c.sys.per ∧ bit w 1 = false then clkCtl c w else c

/-- The command CLK_PLLEN_WRITE. -/
def execClkPllenWrite (w : Word) (s : State) : Host.Outcome State Fault Refusal :=
  onChip s (fun c => xClkPllenWrite c w)

/-- PLL_LOCK: a PLL locks once PLLEN and TCXOOK are 1 (R589). -/
def xPllLock (c : Chip) (i : Nat) : Chip :=
  if c.sys.per ∧ i < 4 ∧ bit (regVal c (rCLK 0x000)) 0 ∧ bit (regVal c (rCLK 0x004)) 1 then regOr c (rCLK 0x004) (2 ^ (2 + i)) else c

/-- The command PLL_LOCK on a unit that exists. -/
def execPllLock (ix : Nat) (s : State) : Host.Outcome State Fault Refusal :=
  onUnit (isPll ix) s (fun c => xPllLock c ix)

/-- CLOCK_SWITCH: a write of CTL with SWITCH set: the switch begins or is refused (R593). -/
def xClockSwitch (c : Chip) (w : Word) : Chip := if c.sys.per ∧ bit w 1 then clkCtl c w else c

/-- The command CLOCK_SWITCH. -/
def execClockSwitch (w : Word) (s : State) : Host.Outcome State Fault Refusal :=
  onChip s (fun c => xClockSwitch c w)

/-- SWITCH_COMPLETE: SRC becomes 1 and BUSY 0 (R593). -/
def xSwitchComplete (c : Chip) : Chip :=
  if c.sys.per ∧ bit (regVal c (rCLK 0x004)) 6 then ptpState (regOr (regClr c (rCLK 0x004) 0x40) (rCLK 0x004) 1) 4 else c

/-- The command SWITCH_COMPLETE. -/
def execSwitchComplete (s : State) : Host.Outcome State Fault Refusal :=
  onChip s (fun c => xSwitchComplete c)

/-- AUTO_SWITCH: with AUTO set the luthier sets PLLEN and, once every PLL is locked, writes SWITCH (R594). -/
def xAutoSwitch (c : Chip) : Chip :=
  let ctl := regVal c (rCLK 0x000)
  let st := regVal c (rCLK 0x004)
  if c.sys.per && gorene c && bit ctl 2 && !bit st 0 && !bit st 6 then
    (if !bit ctl 0 then clkCtl c (ctl ||| 1) else if allLocked c then clkCtl c (ctl ||| 2) else c)
  else c

/-- The command AUTO_SWITCH. -/
def execAutoSwitch (s : State) : Host.Outcome State Fault Refusal :=
  onChip s (fun c => xAutoSwitch c)

/-- The ports in LINK. -/
def linkPorts (c : Chip) : List Nat := (c.ports.filter (fun e => decide (e.2.mode = 1))).map Prod.fst

/-- CLOCK_SOURCE_FAULT: the TCXO fails (`i` = 4), or PLL `i` loses lock; while SRC is 0 that is no fault, and only LOCK and
LOSSCNT show it (R595, R596, R608). -/
def xClockSourceFault (c : Chip) (i : Nat) : Chip :=
  let st := regVal c (rCLK 0x004)
  let real := if i = 4 then bit st 1 else decide (i < 4) && bit st (2 + i)
  if !c.sys.per || !real then c
  else
    let c := if i = 4 then regPut (regClr c (rCLK 0x004) 2) (rCLK 0x008) 0
      else regClr (regCount c (rCLK 0x020 + 4 * i) 31 16 1) (rCLK 0x004) (2 ^ (2 + i))
    if i < 4 ∧ bit st 0 = false then c
    else
      let c := if bit st 6 then regOr c (rCLK 0x004) 0x200 else c
      let c := regOr (regClr c (rCLK 0x004) 0x7D) (rCLK 0x004) 0x100
      let c := regCount (regClr c (rCLK 0x000) 1) (rCLK 0x01C) 15 0 1
      let c := (linkPorts c).foldl (fun c p => linkDown (updLink c p (fun l => { l with locked := false })) p) c
      let c := regClr (regClr c (rHST 0x044) 7) (rHST 0x064) 7
      ptpState c 1

/-- The command CLOCK_SOURCE_FAULT on a unit that exists. -/
def execClockSourceFault (ix : Nat) (s : State) : Host.Outcome State Fault Refusal :=
  onUnit (isClock ix) s (fun c => xClockSourceFault c ix)

/-! ### Crossings (R602, R603) -/

/-- The unit number under which the PCI Express function stands in `flushing`; ETH0 and ETH1 follow. -/
def uPCIE : Nat := 200

/-- FLUSH_ACK: the reset side of a unit's crossings has left reset and acknowledges the flush; traffic is accepted again. -/
def xFlushAck (c : Chip) (u : Nat) : Chip := { c with flushing := c.flushing.filter (· ≠ u) }

/-- The command FLUSH_ACK on a unit that exists. -/
def execFlushAck (u : Nat) (s : State) : Host.Outcome State Fault Refusal :=
  onUnit (isCrossing u) s (fun c => xFlushAck c u)

/-- Is a source's crossing a counting one (R602)? -/
def countsMerges (s : Nat) : Bool :=
  s = 597 || (decide (673 ≤ s) && decide (s ≤ 704)) || (decide (705 ≤ s) && decide (s ≤ 960)) || s = 970 || s = 971 || s = 975 ||
    s = 976 || s = 978 || s = 979

/-- Does the clock of a domain run, and from its PLL, REFCLK or recovered clock (R590, R609)? -/
def dstat (c : Chip) (k : Nat) : Word :=
  let src := onPll c
  let run := if k ≤ 3 then true else if k = 4 then c.pcie.perst else if k ≤ 6 then src && Config.optE else src
  let pll := if k ≤ 2 then src else if k = 3 then false else if k = 4 then c.pcie.perst else src && (decide (k = 7) || Config.optE)
  let rst := if k = 2 then c.flushing.any (fun u => decide (u < 128)) else if k = 4 then decide (uPCIE ∈ c.flushing)
    else if k = 5 ∨ k = 6 then decide (uPCIE + k - 4 ∈ c.flushing) else false
  wd (b1 run + 2 * b1 rst + 4 * b1 pll)

/-- Bit b of LRXLOCK n: port 32n + b is in LINK and locked (R608). -/
def lrxlock (c : Chip) (n : Nat) : Word :=
  wd (((List.range 32).filter (fun b => inLink c (32 * n + b) && (linkOf c (32 * n + b)).locked)).foldl (fun v b => v + 2 ^ b) 0)

/-- A read of a CLK register. -/
def clkRead (c : Chip) (o : Nat) : Chip × Word :=
  let v := regVal c (rCLK o)
  if o = 0x010 then
    let s := regFld c (rCLK 0x00C) 9 0
    if countsMerges s then (updSrc c s (fun r => { r with merged := 0 }), wd (srcOf c s).merged) else (c, 0)
  else if o = 0x014 ∨ o = 0x018 ∨ o = 0x01C then (regPut c (rCLK o) 0, v)
  else if 0x020 ≤ o ∧ o < 0x030 then
    let i := (o - 0x020) / 4
    (regPut c (rCLK o) 0, setBits v 1 0 (b1 (bit (regVal c (rCLK 0x004)) (2 + i)) + 2 * b1 (bit (regVal c (rCLK 0x000)) 0)))
  else if 0x030 ≤ o ∧ o < 0x040 then (c, lrxlock c ((o - 0x030) / 4))
  else if 0x040 ≤ o ∧ o < 0x060 then (c, dstat c ((o - 0x040) / 4))
  else if 0x060 ≤ o ∧ o < 0x080 then (regSetFld c (rCLK o) 31 16 0, v)
  else (c, v)

/-- A write of a CLK register. -/
def clkWrite (c : Chip) (o : Nat) (w : Word) : Chip :=
  if o = 0x000 then clkCtl c w
  else if o = 0x004 then regClr c (rCLK o) (w &&& 0x8F00).toNat
  else if o = 0x00C then regPut c (rCLK o) (w &&& 0x3FF)
  else c

end Sys2Proof.Machine
end

