-- ==== Sys2Proof/Machine/HostIf.lean ====
section
/-! DEFINITION. The host interfaces (R492 to R515): the PCI Express function, Ethernet, PTP. -/

namespace Sys2Proof.Machine

open Sys2Proof

/-! ### PCI Express (R492 to R499, R511, R527) -/

/-- Register `o` of command queue `q` (R557). -/
def rCMD (q o : Nat) : Nat := 0x60004000 + q * 0x20 + o

/-- The MSI-X vectors as the function's reset leaves them: every one masked, as the Base Specification's vector control. -/
def allVectors : List Nat := List.range 64

/-- Channels with the host as a party are flushed; answers the words discarded (R321, R495). -/
def flushHostChans (c : Chip) : Chip × Nat :=
  ((c.chans.filter (fun e => e.2.opened && (decide (partyClass e.2.prod = 5) || decide (partyClass e.2.cons = 5)))).map
    Prod.fst).foldl (fun (c, n) s => let (c, m) := flushChannel c s 0 0; (c, n + m)) (c, 0)

/-- A reset of the PCI Express function (R495, R527); `d3` keeps the link up. -/
def pcieReset (c : Chip) (d3 : Bool) : Chip :=
  let (c, n) := flushHostChans c
  let c := countFlush { c with flushing := uPCIE :: c.flushing.filter (· ≠ uPCIE) } 4 n
  let c := regClr c (rHST 0x000) (if d3 then 0x40 else 0xFF)
  let c := if d3 then regOr c (rHST 0x000) 0x80 else c
  let c := regClr c (rHST 0x00C) 3
  let c := { c with pcie := { c.pcie with pend := [], masked := allVectors, mps256 := false, bars := [], table := [] } }
  let c := [0, 1, 2, 3].foldl (fun c q => updQueue (regClr c (rCMD q 0x08) 0x10) q (fun r => { r with replies := [] })) c
  regCount (regOr c (rHST 0x004) 0x20) (rHST 0x008) 31 16 1

/-- PERST_RELEASE: PERST_N rises; link training begins, with PER on, at the later of the two (R66 step 10). -/
def xPerstRelease (c : Chip) : Chip := { c with pcie := { c.pcie with perst := true } }

/-- The command PERST_RELEASE. -/
def execPerstRelease (s : State) : Host.Outcome State Fault Refusal :=
  onChip s (fun c => xPerstRelease c)

/-- PCIE_LINK_UP: link training completes; `speed` 1 to 3, `width` 1, 2 or 4 lanes (R66, R492, R511). -/
def xPcieLinkUp (c : Chip) (speed width : Nat) : Chip :=
  if c.sys.per ∧ c.pcie.perst ∧ 1 ≤ speed ∧ speed ≤ 3 ∧ (width = 1 ∨ width = 2 ∨ width = 4) ∧
      (courseOf c luthierCourse).safe = false then
    regPut c (rHST 0x000) ((regVal c (rHST 0x000) &&& 0x8040) ||| wd (1 + 2 * speed + 8 * width))
  else c

/-- The command PCIE_LINK_UP on a unit that exists. -/
def execPcieLinkUp (speed width : Nat) (s : State) : Host.Outcome State Fault Refusal :=
  onUnit (isSpeed speed && isWidth width) s (fun c => xPcieLinkUp c speed width)

/-- PCIE_FUNCTION_RESET: `kind` 0 PERST_N asserted, 1 hot reset, 2 link-down, 3 entry into D3hot (R495). -/
def xPcieFunctionReset (c : Chip) (kind : Nat) : Chip :=
  if !c.sys.per then (if kind = 0 then { c with pcie := { c.pcie with perst := false } } else c)
  else if kind = 0 then (if c.pcie.perst then pcieReset { c with pcie := { c.pcie with perst := false } } false else c)
  else if !bit (regVal c (rHST 0x000)) 0 then c
  else if kind = 1 ∨ kind = 2 then pcieReset c false
  else if kind = 3 then (if bit (regVal c (rHST 0x000)) 7 then c else pcieReset c true)
  else c

/-- The command PCIE_FUNCTION_RESET on a unit that exists. -/
def execPcieFunctionReset (kind : Nat) (s : State) : Host.Outcome State Fault Refusal :=
  onUnit (isResetKind kind) s (fun c => xPcieFunctionReset c kind)

/-- The bits of a base address register that hold an address: BAR0 is 16 MiB, BAR2 is 8 KiB (R493). -/
def barMask (k : Nat) : Word := if k = 0 then 0xFF000000 else if k = 2 then 0xFFFFE000 else 0xFFFFFFFF

/-- A base address register: 64-bit memory, not prefetchable (R493). -/
def barWord (c : Chip) (k : Nat) : Word := Tbl.get 0 c.pcie.bars k ||| (if k % 2 = 0 then 4 else 0)

/-- The words of the configuration header that the spec gives, at the offsets of the PCI header (R493). -/
def configWord (c : Chip) (o : Nat) : Option Word :=
  if o = 0x00 then some 0x51281FE4
  else if o = 0x08 then some (0x11800000 ||| wd Config.dieRev.toNat)
  else if 0x10 ≤ o ∧ o < 0x20 ∧ o % 4 = 0 then some (barWord c ((o - 0x10) / 4))
  else if o = 0x2C then some ((if Config.optE then 0x00020000 else 0x00010000) ||| 0x1FE4)
  else none

/-- A register's offset in BAR0 as its address in the register space (R493). -/
def bar0Address (x : Nat) : Nat := 0x60000000 + x

/-- A doubleword of BAR2: the MSI-X table at 0x0000, 16 bytes a vector, the last word its control; the pending-bit array at 0x1000
(R493). -/
def bar2Word (c : Chip) (o : Nat) : Word :=
  if o < 0x400 then (if o % 16 = 12 then wd (b1 (decide (o / 16 ∈ c.pcie.masked))) else Tbl.get 0 c.pcie.table o)
  else if o = 0x1000 then (List.range 32).foldl (fun w v => w ||| wd (2 ^ v * b1 (decide (v ∈ c.pcie.pend)))) 0
  else if o = 0x1004 then (List.range 32).foldl (fun w v => w ||| wd (2 ^ v * b1 (decide (32 + v ∈ c.pcie.pend)))) 0
  else 0

/-- A write of a doubleword of BAR2: bit 0 of a vector's control is its mask (R493, R499). -/
def bar2Write (c : Chip) (o : Nat) (w : Word) : Chip :=
  if 0x400 ≤ o then c
  else if o % 16 = 12 then
    let l := c.pcie.masked.filter (· ≠ o / 16)
    { c with pcie := { c.pcie with masked := if bit w 0 then o / 16 :: l else l } }
  else { c with pcie := { c.pcie with table := Tbl.put 0 c.pcie.table o w } }

/-- PCIE_CONFIG_WRITE: the host writes the function's configuration or MSI-X structures: `field` 0 Bus Master Enable, 1 MSI-X
Enable, 2 Function Mask, 3 the doubleword at offset `v` of BAR2, 4 the power state (D3hot or D0), 5 the maximum payload
of 256 bytes, 6 base address register `v` (R492, R493, R495, R499). -/
def xPcieConfigWrite (c : Chip) (field v : Nat) (w : Word) : Chip :=
  if !c.sys.per ∨ !bit (regVal c (rHST 0x000)) 0 then c
  else if field = 0 then regSetFld c (rHST 0x000) 6 6 (b1 (bit w 0))
  else if field = 1 then regSetFld c (rHST 0x00C) 0 0 (b1 (bit w 0))
  else if field = 2 then regSetFld c (rHST 0x00C) 1 1 (b1 (bit w 0))
  else if field = 3 then bar2Write c v w
  else if field = 4 then
    (if bit w 0 then (if bit (regVal c (rHST 0x000)) 7 then c else pcieReset c true) else regClr c (rHST 0x000) 0x80)
  else if field = 5 then { c with pcie := { c.pcie with mps256 := bit w 0 } }
  else if field = 6 then { c with pcie := { c.pcie with bars := Tbl.put 0 c.pcie.bars v (w &&& barMask v) } }
  else c

/-- The command PCIE_CONFIG_WRITE on a unit that exists. -/
def execPcieConfigWrite (field v : Nat) (w : Word) (s : State) : Host.Outcome State Fault Refusal :=
  onUnit (isCfgWrite field v) s (fun c => xPcieConfigWrite c field v w)

/-- The address and data of a vector's message, as its table entry holds them. -/
def msixEntry (c : Chip) (v : Nat) : Nat × Word :=
  ((bar2Word c (16 * v + 4)).toNat * 2 ^ 32 + (bar2Word c (16 * v)).toNat, bar2Word c (16 * v + 8))

/-- MSIX_MESSAGE: a requested message of vector `v` is sent (R499). -/
def xMsixMessage (c : Chip) (v : Nat) : Chip :=
  if v ∈ c.pcie.pend ∧ msixOpen c v then
    emit (regWrap { c with pcie := { c.pcie with pend := c.pcie.pend.erase v } } (rHST 0x00C) 31 16 1)
      (.msix v (msixEntry c v).1 (msixEntry c v).2)
  else c

/-- The command MSIX_MESSAGE on a unit that exists. -/
def execMsixMessage (v : Nat) (s : State) : Host.Outcome State Fault Refusal :=
  onUnit (isVector v) s (fun c => xMsixMessage c v)

/-! ### Ethernet (R500 to R505, R514) -/

/-- Register `o` of Ethernet port `k`. -/
def ethReg (k o : Nat) : Nat := rHST (0x040 + k * 0x20 + o)

/-- A MAC address as a number, byte 0 highest: ETH1's is ETH0's plus one (R501). -/
def macNat (k : Nat) : Nat := Config.mac0.foldl (fun n b => 256 * n + b.toNat) 0 + k

/-- The crossings of an Ethernet port are reset (R603). -/
def ethFlush (c : Chip) (k : Nat) : Chip :=
  countFlush { c with flushing := (uPCIE + 1 + k) :: c.flushing.filter (· ≠ uPCIE + 1 + k) } (5 + k) 0

/-- A write of ETHCTL (R514, R603). -/
def ethCtl (c : Chip) (k : Nat) (w : Word) : Chip :=
  let was := bit (regVal c (ethReg k 0)) 0
  let c := regPut c (ethReg k 0) (w &&& 0xF)
  if was ∧ bit w 0 = false then ethFlush (regClr c (ethReg k 4) 7) k else c

/-- ETH_LINK_UP: auto-negotiation completes; `rate` 1 to 3 (R500, R593). -/
def xEthLinkUp (c : Chip) (k rate : Nat) : Chip :=
  if Config.optE && c.sys.per && onPll c && decide (k < 2) && bit (regVal c (ethReg k 0)) 0 && decide (1 ≤ rate) && decide (rate ≤ 3) then
    regPut c (ethReg k 4) (wd (1 + 2 * rate))
  else c

/-- The command ETH_LINK_UP on a unit that exists. -/
def execEthLinkUp (k rate : Nat) (s : State) : Host.Outcome State Fault Refusal :=
  onUnit (isEth k) s (fun c => xEthLinkUp c k rate)

/-- ETH_LINK_LOSS: the port loses its link (R603). -/
def xEthLinkLoss (c : Chip) (k : Nat) : Chip :=
  if c.sys.per ∧ k < 2 ∧ bit (regVal c (ethReg k 4)) 0 then ethFlush (regClr c (ethReg k 4) 7) k else c

/-- The command ETH_LINK_LOSS on a unit that exists. -/
def execEthLinkLoss (k : Nat) (s : State) : Host.Outcome State Fault Refusal :=
  onUnit (isEth k) s (fun c => xEthLinkLoss c k)

/-- A dropped frame. -/
def ethDrop (c : Chip) (k : Nat) : Chip := regCount c (ethReg k 0x18) 31 0 1

/-- A command packet read from its bytes (R516). -/
def packetOf (queue : Nat) (l : List Byte) (payload : List Byte) (raddr key ret : Nat) : Packet :=
  let w0 := wd (fieldAt l 0 4)
  { queue := queue, opcode := bits w0 7 0, flags := bits w0 11 8, resv := bits w0 15 12, seq := bits w0 31 16,
    handle := fieldAt l 4 2, length := fieldAt l 6 2, p2 := wd (fieldAt l 8 4), p3 := wd (fieldAt l 12 4), payload := payload,
    raddr := raddr, key := key, ret := ret, hurt := [] }

/-- A datagram to port 47710 (R502 to R504): checked, then queued, or answered from the kept replies. `ret` is the sender. -/
def ethCommand (c : Chip) (k ret : Nat) (udp : List Byte) : Chip :=
  let n := fieldAt udp 6 2
  if udp.length ≠ 16 + n + 44 then ethDrop c k
  else
    let t := 16 + n
    let id := fieldAt udp t 2
    let key := keyOf c id
    if 4 ≤ id ∨ fieldAt udp (t + 2) 2 ≠ 0 ∨ key.key = [] ∨ Config.hmac key.key (udp.take (t + 12)) ≠ udp.drop (t + 12) then
      regCount c (ethReg k 0x1C) 15 0 1
    else
      let p := packetOf (4 + k) udp ((udp.drop 16).take n) 0 id ret
      let count := fieldAt udp (t + 4) 8
      if count ≤ key.host then post (regCount c (ethReg k 0x1C) 31 16 1) (replyTo p) false stAUTH 0 [] p.handle false
      else
        let c := updKey c id (fun x => { x with host := count })
        match (queueOf c (4 + k)).kept.find? (fun e => decide (e.seq = p.seq)) with
        | some e =>
          let c := sendDatagram c (replyTo p) e.reply
          if e.comp.isEmpty then c else sendDatagram c (replyTo p) e.comp
        | none => updQueue c (4 + k) (fun q => { q with packets := q.packets ++ [p] })

/-- ETH_FRAME_RECEIVED: `kind` 0 an ARP request for the port's address, 1 an ICMP echo request to it, 2 a UDP datagram to it on
port 47710, any other a frame the port drops; `ret` is the sender's address, `data` the datagram's or echo's bytes
(R500). -/
def xEthFrameReceived (c : Chip) (k kind ret : Nat) (data : List Byte) : Chip :=
  if Config.optE && c.sys.per && decide (k < 2) && bit (regVal c (ethReg k 4)) 0 && bit (regVal c (ethReg k 0)) 0 &&
      decide (regVal c (ethReg k 8) ≠ 0) && !decide (uPCIE + 1 + k ∈ c.flushing) then
    let taken (c : Chip) : Chip := regWrap c (ethReg k 0x14) 31 0 1
    if kind = 0 then emit (taken c) (.datagram k ret (leBytes 6 (macNat k)))
    else if kind = 1 ∧ bit (regVal c (ethReg k 0)) 3 then emit (taken c) (.datagram k ret data)
    else if kind = 2 then ethCommand (taken c) k ret data
    else ethDrop c k
  else c

/-- The command ETH_FRAME_RECEIVED on a unit that exists. -/
def execEthFrameReceived (k kind ret : Nat) (data : List Byte) (s : State) : Host.Outcome State Fault Refusal :=
  onUnit (isEth k) s (fun c => xEthFrameReceived c k kind ret data)

/-! ### PTP (R506 to R509, R513) -/

/-- The Ethernet port of the ordinary clock. -/
def ptpPort (c : Chip) : Nat := bits c.ptp.ctl 1 1

/-- Does the ordinary clock run: EN, build option -E, the clocks from the PLLs, its port with a link and an address, which it needs
to answer anything, and no flush of its crossings (R500, R506)? -/
def ptpRuns (c : Chip) : Bool :=
  Config.optE && c.sys.per && bit (regVal c (rHST 0x02C)) 0 && onPll c && bit (regVal c (ethReg (ptpPort c) 4)) 0 &&
    decide (regVal c (ethReg (ptpPort c) 8) ≠ 0) && !decide (uPCIE + 1 + ptpPort c ∈ c.flushing)

/-- The port state the profile gives: SLAVEONLY never takes MASTER or PRE_MASTER (R506). -/
def ptpAllowed (c : Chip) (n : Nat) : Bool :=
  decide (1 ≤ n) && decide (n ≤ 9) && !(bit c.ptp.ctl 3 && (decide (n = 5) || decide (n = 6)))

/-- Sets the port state; LOCK holds only in SLAVE, and its change pulses source 979 (R513, R564). -/
def ptpPstate (c : Chip) (n : Nat) : Chip :=
  let lock := bit (regVal c (rHST 0x030)) 4
  let c := regSetFld c (rHST 0x030) 3 0 n
  if n = 9 then c
  else
    let c := { (regClr c (rHST 0x030) 0x10) with ptp := { c.ptp with good := 0 } }
    if lock then pulse c 979 else c

/-- The rate the servo sets, clamped to ±500 ppm (R508). -/
def ptpRate (c : Chip) (r : Word) : Chip :=
  let m : Int := 549755814
  if m < sgn r then regPut (regOr c (rHST 0x028) 2) (rHST 0x018) (wi m)
  else if sgn r < -m then regPut (regOr c (rHST 0x028) 2) (rHST 0x018) (wi (-m))
  else regPut c (rHST 0x018) r

/-- A Sync message has been processed with an offset (R513). -/
def ptpSync (c : Chip) (ofs dly : Word) : Chip :=
  let c := regPut (regPut (regWrap c (rHST 0x030) 31 16 1) (rHST 0x034) ofs) (rHST 0x038) dly
  let good := if (sgn ofs).natAbs ≤ 1000 then Nat.min 16 (c.ptp.good + 1) else 0
  let c := { c with ptp := { c.ptp with good := good } }
  let was := bit (regVal c (rHST 0x030)) 4
  let now := decide (regFld c (rHST 0x030) 3 0 = 9) && decide (16 ≤ good)
  let c := regSetFld c (rHST 0x030) 4 4 (b1 now)
  if was = now then c else pulse c 979

/-- The stamp of an event message whose start-of-frame delimiter passes the connector's side of the port at time base `sfd`: at
1000BASE-T less PTPLAT.INGRESS, or plus PTPLAT.EGRESS (R507, R513). -/
def ptpStamp (c : Chip) (sent : Bool) (sfd : Nat) : Nat :=
  if regFld c (ethReg (ptpPort c) 4) 2 1 ≠ 3 then sfd
  else if sent then sfd + regFld c (rHST 0x03C) 31 16
  else sfd - regFld c (rHST 0x03C) 15 0

/-- The port stamps an event message, received or sent (R507). -/
def ptpStamped (c : Chip) (e : PtpEvent) : Chip :=
  if e.ev = 1 then { c with ptp := { c.ptp with rxStamp := ptpStamp c false e.sfd } }
  else if e.ev = 2 then { c with ptp := { c.ptp with txStamp := ptpStamp c true e.sfd } }
  else c

/-- PTP_MESSAGE: a message is taken in and processed; the operands carry what IEEE 1588 makes of it: the port state, whether it completes
a Sync with its offset and delay, the servo's rate, and a step it asks for, 0 none; an event message is stamped (R506 to R509). -/
def xPtpMessage (c : Chip) (state : Nat) (sync : Bool) (ofs dly rate : Word) (step : BitVec 64) (answer : PtpEvent) : Chip :=
  if ptpRuns c ∧ ptpAllowed c state then
    let c := ptpPstate (ptpStamped (regWrap c (ethReg (ptpPort c) 0x14) 31 0 1) answer) state
    let c := if sync then ptpSync c ofs dly else c
    let c := if answer.bytes.isEmpty then c else emit c (.datagram (ptpPort c) 0 answer.bytes)
    if state = 9 ∧ bit (regVal c (rHST 0x024)) 0 then
      let c := if sync then ptpRate c rate else c
      if step.toInt = 0 then c else tbStep c step.toInt
    else c
  else c

/-- The command PTP_MESSAGE. -/
def execPtpMessage (state : Nat) (sync : Bool) (ofs dly rate : Word) (step : BitVec 64) (answer : PtpEvent)
    (s : State) : Host.Outcome State Fault Refusal :=
  onUnit (isStampKind answer.ev) s (fun c => xPtpMessage c state sync ofs dly rate step answer)

/-- PTP_MESSAGE_INTERVAL: a timer runs out: periodic messages are sent, or a receipt timeout gives a new port state (R506). -/
def xPtpMessageInterval (c : Chip) (state : Nat) (sent : PtpEvent) : Chip :=
  if ptpRuns c ∧ ptpAllowed c state then
    let c := ptpPstate (ptpStamped c sent) state
    if sent.bytes.isEmpty then c else emit c (.datagram (ptpPort c) 0 sent.bytes)
  else c

/-- The command PTP_MESSAGE_INTERVAL. -/
def execPtpMessageInterval (state : Nat) (sent : PtpEvent) (s : State) : Host.Outcome State Fault Refusal :=
  onUnit (isStampKind sent.ev) s (fun c => xPtpMessageInterval c state sent)

/-- A write of PTPCTL (R506, R513). -/
def ptpCtl (c : Chip) (w : Word) : Chip :=
  let was := bit (regVal c (rHST 0x02C)) 0
  let c := regPut c (rHST 0x02C) (w &&& 0x0FFFFFFF)
  if bit w 0 ∧ was = false then regSetFld { c with ptp := { c.ptp with ctl := w, good := 0 } } (rHST 0x030) 3 0 (if onPll c then 4 else 1)
  else if bit w 0 = false then ptpPstate c 0
  else c

/-! ### The HST block (R510 to R515) -/

/-- CFGERR of the HST block. -/
def hstCfgErr (c : Chip) : Chip := regOr c (rHST 0x000) 0x8000

/-- A read of an HST register. -/
def hstRead (c : Chip) (o : Nat) : Chip × Word :=
  let v := regVal c (rHST o)
  if o = 0x008 then (regPut c (rHST o) 0, v)
  else if o = 0x010 then tbloRead c
  else if 0x02C ≤ o ∧ o < 0x080 then
    if !Config.optE then (c, 0)
    else
      let k := (o - 0x040) / 0x20
      if o < 0x040 then (c, v)
      else if o % 0x20 = 0x0C then (c, wd (macNat k))
      else if o % 0x20 = 0x10 then (c, wd (macNat k / 2 ^ 32 % 65536))
      else if o % 0x20 = 0x18 ∨ o % 0x20 = 0x1C then (regPut c (rHST o) 0, v)
      else (c, v)
  else (c, v)

/-- A write of an HST register. -/
def hstWrite (c : Chip) (o : Nat) (w : Word) : Chip :=
  if o = 0x000 then regClr c (rHST o) (w &&& 0x8000).toNat
  else if o = 0x004 then regClr c (rHST o) (w &&& 0x3F).toNat
  else if o = 0x018 then
    (if bit (regVal c (rHST 0x024)) 0 then c
     else if (sgn w).natAbs ≤ 549755814 then regPut c (rHST o) w else hstCfgErr (regPut c (rHST o) 0))
  else if o = 0x01C ∨ o = 0x020 then regPut c (rHST o) w
  else if o = 0x024 then tbctlWrite c w
  else if o = 0x028 then regClr c (rHST o) (w &&& 3).toNat
  else if 0x02C ≤ o ∧ o < 0x080 then
    if !Config.optE then c
    else if o = 0x02C then ptpCtl c w
    else if o = 0x03C then regPut c (rHST o) w
    else if o < 0x040 then c
    else if o % 0x20 = 0x00 then ethCtl c ((o - 0x040) / 0x20) w
    else if o % 0x20 = 0x08 then regPut c (rHST o) w
    else c
  else if 0x080 ≤ o ∧ o < 0x180 then
    (if o % 16 = 0 then regPut c (rHST o) (w &&& 0xFFFFF000)
     else if o % 16 = 4 then regPut c (rHST o) w
     else if o % 16 = 8 then
       (if bits w 16 0 ≤ 0x10000 then regPut c (rHST o) (w &&& 0x1FFFF) else hstCfgErr (regPut c (rHST o) 0))
     else regPut c (rHST o) (w &&& 3))
  else c

end Sys2Proof.Machine
end

