-- ==== Sys2Proof/Machine/Traps.lean ====
section
/-! DEFINITION. What comes about at a word boundary beside the words themselves: iterations of a repetition, traps due,
interrupts, the deadline of a WAIT, the loss of an old reservation (R103, R106, R108 to R110, R147, R171 to R176, R182,
R188 to R191, R217, R226, R306, R574). -/

namespace Sys2Proof.Machine

open Sys2Proof

/-! ### Any word -/

/-- Executes a word by its operation; `rep` inside a repetition. -/
def runOp (c : Chip) (k : Nat) (rep : Bool) : CoreOp → Chip
  | .pair a b => xPair c k rep a b
  | .lit f => xLit c k rep f
  | .litx x => xLitx c k x
  | .lithi x => xLithi c k x
  | .addi f => xAddi c k rep f
  | .shli n => xShli c k rep n
  | .shri n => xShri c k rep n
  | .sari n => xSari c k rep n
  | .roli n => xRoli c k rep n
  | .pick n => xPick c k rep n
  | .br f => xBr c k f
  | .bz f => xBz c k f
  | .bnz f => xBnz c k f
  | .brx x => xBrx c k x
  | .bzx x => xBzx c k x
  | .bnzx x => xBnzx c k x
  | .call x => xCall c k x
  | .calli => xCalli c k
  | .ret => xRet c k
  | .jmpi => xJmpi c k
  | .tor => xTor c k
  | .fromr => xFromr c k
  | .rget => xRget c k
  | .rdrop => xRdrop c k
  | .rep f => xRep c k f
  | .repi f => xRepi c k f
  | .ldr s z g => xLdr c k rep s z g
  | .str z => xStr c k rep z 0
  | .tas s => xTas c k rep s
  | .lr s => xLr c k rep s
  | .sc s => xSc c k rep s
  | .agree s z g => xAgree c k rep s z g
  | .mul s u => xMul c k rep s u
  | .div s u => xDiv c k rep s u
  | .land s => xLand c k rep s
  | .putl s => xPutl c k rep s
  | .waitl m => xWaitl c k rep m
  | .send => xSend c k rep
  | .recv => xRecv c k rep
  | .sendt => xSendt c k rep
  | .recvt => xRecvt c k rep
  | .wait t => xWait c k t
  | .sleep => xSleep c k
  | .ckpt => xCkpt c k
  | .fence => xFence c k
  | .sync => xSync c k
  | .ifence => xIfence c k
  | .csrr i =>
    if i = 0x20 then xCsrrTblo c k rep
    else if i = 0x22 then xCsrrDpos c k rep
    else if i = 0x1A then xCsrrClaim c k rep
    else xCsrr c k rep i
  | .csrw i =>
    if isDeferred i.toNat then xCsrwDeferred c k rep i
    else if i = 0x0A then xCsrwSptr c k rep
    else if i = 0x22 then xCsrwDpos c k rep
    else if i = 0x1B then xCsrwComplete c k rep
    else if i = 0x19 then xCsrwCpl c k rep
    else xCsrw c k rep i
  | .trap f => xTrap c k f
  | .rett => xRett c k
  | .cp op s t =>
    match op.toNat with
    | 0 => xCpwr c k rep s t
    | 1 => xCprd c k rep s t
    | 2 => xCamev c k rep s t
    | 3 => xCamev2 c k rep s t
    | 4 => xCamevd c k rep s t
    | 5 => xCamofs c k rep s t
    | 6 => xCamld c k rep s t
    | _ => xCpsync c k rep s t

/-- REP_ITERATION: one iteration of the stored word (R171 to R174). -/
def xRepIteration (c : Chip) (k : Nat) : Chip :=
  match (coreOf c k).rep with
  | none => c
  | some q =>
    match decodeWord (decide (courseNo k = luthierCourse)) q.word 0 with
    | none => c
    | some op => runOp c k true op

/-- The command REP_ITERATION on a unit that exists. -/
def execRepIteration (k : Nat) (s : State) : Host.Outcome State Fault Refusal :=
  onUnit (isCore k) s (fun c => xRepIteration c k)

/-- The operation of the word a string is about to execute, none where it is undefined or cannot be fetched. -/
def nextOp (c : Chip) (k : Nat) : Option CoreOp :=
  let lu := decide (courseNo k = luthierCourse)
  match (coreOf c k).rep with
  | some q => decodeWord lu q.word 0
  | none =>
    let f := fetchInstr c k (coreOf c k).pc
    if f.refused.isSome then none
    else match decodeWord lu f.w f.x with
      | some (.rep g) => if repeatable lu f.x then some (.rep g) else none
      | some (.repi g) => if repeatable lu f.x then some (.repi g) else none
      | r => r

/-- Would the next word take a precise trap? Asked only while an interrupt is due, when a word does nothing else. -/
def nextTraps (c : Chip) (k : Nat) : Bool :=
  match nextOp c k with
  | none => true
  | some op => decide ((coreOf (runOp c k (coreOf c k).rep.isSome op) k).traps ≠ (coreOf c k).traps)

/-! ### Imprecise traps and interrupts (R106 to R110, R217, R306, R574) -/

/-- Stands the string of a live course at a boundary, running or halted (R30)? -/
def boundary (c : Chip) (k : Nat) : Bool :=
  let r := courseOf c (courseNo k)
  decide (k < 514) && courseOn c (courseNo k) && (coreOf c k).started && decide (r.check = 0) && !r.safe

/-- Is a replay in progress: kept entries not yet consumed (R226)? -/
def replayingNow (c : Chip) (k : Nat) : Bool := (replayNext c (courseNo k)).isSome

/-- String A's asynchronous entry after its present word (R217). -/
def logAsync (c : Chip) (k kind : Nat) (t : Option ITrap) : Chip :=
  let n := courseNo k
  if inUnison c n then
    updCourse c n (fun r =>
      { r with log := logAdd r.log ⟨kind, 0, 0, [], true, t, (coreOf c k).words, 0, rbkOf c n, true, false⟩ })
  else c

/-- Is there room in the read log for an asynchronous entry? -/
def asyncRoom (c : Chip) (k : Nat) : Bool :=
  !inUnison c (courseNo k) || decide ((courseOf c (courseNo k)).log.length < 32)

/-- Takes the oldest imprecise trap raised. A SEND or RECV that waits is withdrawn (R306). -/
def takeITrap (c : Chip) (k : Nat) : Chip :=
  match (coreOf c k).itraps with
  | [] => c
  | t :: rest =>
    if asyncRoom c k then
      let c := withdrawWait (updCore c k (fun r => { r with itraps := rest })) k
      trapEntry (logAsync c k 0x101 (some t)) k (itrapRec c k t)
    else callCkpt c (courseNo k)

/-- Two records of one trap: cause, issuing word, data address. -/
def sameTrap (a b : ITrap) : Bool :=
  decide (a.cause = b.cause) && decide (a.ipc = b.ipc) && decide (a.addr = b.addr) && decide (a.store = b.store)

/-- Have the string's long operations landed, those held in the compare buffer apart (R217, R419)? -/
def landed (c : Chip) (k : Nat) : Bool := (coreOf c k).flights.all (heldOp (courseOf c (courseNo k)))

/-- An asynchronous trap entry taken from the log, by string B or by a replay, once the string's own results have landed. -/
def takeLogged (c : Chip) (k : Nat) (e : LogEnt) : Chip :=
  let n := courseNo k
  match e.trap with
  | none => c
  | some t =>
    if !landed c k then c
    else
      let trails := inUnison c n && isB k
      if trails ∧ t.each ∧ (coreOf c k).itraps.any (sameTrap t) = false then mismatch c n 4 0
      else
        let c := withdrawWait (updCore c k (fun r => { r with itraps := r.itraps.filter (fun u => !sameTrap t u) })) k
        trapEntry (if trails then takeB c n else takeA c n) k (itrapRec c k t)

/-- UNDEF or IFETCH of the next word, found before it executes (R115, R137, R148, R153, R177); a poisoned fetch halts the
course (R256). -/
def fetchTrap (c : Chip) (k : Nat) : Chip :=
  let lu := decide (courseNo k = luthierCourse)
  let enter (c : Chip) (cause ipc addr : Nat) : Chip :=
    if orderTrap c k then
      trapEntry c k { cause := cause, retPc := resumePc c k, ipc := ipc, rpt := (coreOf c k).rep.isSome, addr := addr }
    else c
  match (coreOf c k).rep with
  | some q =>
    let o := (fetchWord c k q.at_).2.1.toNat / 256
    if (o = 0x1E ∨ o = 0x1F) ∧ fetchable (q.at_ + 2) = false then enter c 0x02 q.at_ (q.at_ + 2)
    else if repeatable lu q.word then c else enter c 0x01 q.at_ 0
  | none =>
    let pc := (coreOf c k).pc
    let f := fetchInstr c k pc
    match f.refused with
    | some a => enter f.c 0x02 pc a
    | none =>
      if f.poison then (if orderTrap c k then poisonHalt f.c (courseNo k) else c)
      else
        match decodeWord lu f.w f.x with
        | none => enter f.c 0x01 pc 0
        | some (.rep _) => if repeatable lu f.x then c else enter f.c 0x01 pc 0
        | some (.repi _) => if repeatable lu f.x then c else enter f.c 0x01 pc 0
        | some _ => c

/-- TRAP_ENTRY: the trap due at the boundary is entered: imprecise traps first, then UNDEF or IFETCH of the next word; the
other precise traps are entered by the word that meets them (R110, R190). String A takes none between words while a
checkpoint is called where it stands. -/
def xTrapEntry (c : Chip) (k : Nat) : Chip :=
  if !boundary c k ∨ heldInWord c k then c
  else if asyncMissed c k then asyncFails c k
  else
    match asyncNow c k with
    | some e => if e.kind = 0x101 then takeLogged c k e else c
    | none =>
      if itrapDue c k ∧ replayingNow c k = false ∧ orderRun c k ∧ (inUnison c (courseNo k) && isB k) = false then takeITrap c k
      else if atWord c k then fetchTrap c k
      else c

/-- The command TRAP_ENTRY on a unit that exists. -/
def execTrapEntry (k : Nat) (s : State) : Host.Outcome State Fault Refusal :=
  onUnit (isCore k) s (fun c => xTrapEntry c k)

/-- INTERRUPT (R574): taken at a boundary once no imprecise trap and no precise trap of the next word goes before it; a
waiting SEND or RECV is withdrawn (R306). String B takes it after the same word (R217). -/
def xInterrupt (c : Chip) (k : Nat) : Chip :=
  let n := courseNo k
  if !running c k ∨ heldInWord c k then c
  else if asyncMissed c k then asyncFails c k
  else
    match asyncNow c k with
    | some e =>
      if e.kind ≠ 0x100 then c
      else
        let c1 := withdrawWait c k
        trapEntry (if inUnison c n && isB k then takeB c1 n else takeA c1 n) k (intRec c k)
    | none =>
      if intDue c k ∧ itrapDue c k = false ∧ replayingNow c k = false ∧ orderRun c k ∧
          ((coreOf c k).wait.isSome ∨ nextTraps c k = false) then
        if asyncRoom c k then trapEntry (logAsync (withdrawWait c k) k 0x100 none) k (intRec c k)
        else callCkpt c n
      else c

/-- The command INTERRUPT on a unit that exists. -/
def execInterrupt (k : Nat) (s : State) : Host.Outcome State Fault Refusal :=
  onUnit (isCore k) s (fun c => xInterrupt c k)

/-- WAIT_TIMEOUT: the deadline of a WAIT with T = 1 is reached, and it pushes 0 (R147). -/
def xWaitTimeout (c : Chip) (k : Nat) : Chip :=
  match (coreOf c k).wait with
  | some w =>
    if running c k ∧ w.kind = 3 ∧ (wd c.tb - w.arg).toNat < 2 ^ 31 then
      completeWait (if inUnison c (courseNo k) then logRead c k false 0x38 0 0 0 [0] true none else c) k [0]
    else c
  | none => c

/-- The command WAIT_TIMEOUT on a unit that exists. -/
def execWaitTimeout (k : Nat) (s : State) : Host.Outcome State Fault Refusal :=
  onUnit (isCore k) s (fun c => xWaitTimeout c k)

/-- RESERVATION_EXPIRY: 64 words have been executed since the LR (R182). -/
def xReservationExpiry (c : Chip) (k : Nat) : Chip :=
  match (coreOf c k).resv with
  | some r => if 64 ≤ r.words then dropResv c k else c
  | none => c

/-- The command RESERVATION_EXPIRY on a unit that exists. -/
def execReservationExpiry (k : Nat) (s : State) : Host.Outcome State Fault Refusal :=
  onUnit (isCore k) s (fun c => xReservationExpiry c k)

end Sys2Proof.Machine
end

