-- ==== Sys2Proof/Machine/Power.lean ====
section
/-! DEFINITION. Power (R21 to R28, R55 to R57, R238, R253, R610 to R644): islands and peg domains, voltages, the entry
handshake, temperatures and supplies, watch mode, and the loss of the PER and LUT domains. -/

namespace Sys2Proof.Machine

open Sys2Proof

/-- PWR register. -/
def rPWR (o : Nat) : Nat := 0x60001000 + o

/-- ISLV of an island. -/
def rISLV (k : Nat) : Nat := rPWR (0x060 + 4 * k)

/-- ISTAT of an island. -/
def rISTAT (k : Nat) : Nat := rPWR (0x080 + 4 * k)

/-- RET register. -/
def rRET (o : Nat) : Nat := 0x60008000 + o

/-- An island's state. -/
def islOf (c : Chip) (k : Nat) : PegState := Tbl.get .off c.islands k

/-- Sets an island's state. -/
def setIsl (c : Chip) (k : Nat) (s : PegState) : Chip := { c with islands := Tbl.put .off c.islands k s }

/-- Sets a peg domain's state. -/
def setPeg (c : Chip) (p : Nat) (s : PegState) (clearing : Bool) : Chip := updPeg c p (fun _ => ⟨s, clearing⟩)

/-- The pegs of an island, in island-local order (R22, R24). -/
def pegsOfIsland (k : Nat) : List Nat := [0, 16, 32, 48].flatMap (fun j => [j + 2 * k, j + 2 * k + 1])

/-- The courses of a peg (R22). -/
def coursesOfPeg (p : Nat) : List Nat := [4 * p, 4 * p + 1, 4 * p + 2, 4 * p + 3]

/-- Is any island ON? -/
def anyIslandOn (c : Chip) : Bool := c.islands.any (fun e => decide (e.2 = .on) || decide (e.2 = .rising))

/-! ### Voltages (R55, R56, R613) -/

/-- The recorded voltage. -/
def recMv (c : Chip) (k : Nat) : Nat := regFld c (rISLV k) 10 0

/-- The applied voltage. -/
def applMv (c : Chip) (k : Nat) : Nat := regFld c (rISLV k) 26 16

/-- Is the cap of R55 in force? -/
def capOn (c : Chip) : Bool := bit (regVal c (rPWR 0x024)) 0

/-- The voltage an island that is ON works towards: the recorded one under the cap. -/
def goalMv (c : Chip) (k : Nat) : Nat := if capOn c ∧ 950 < recMv c k then 950 else recMv c k

/-- Is an island ON or on its way there? -/
def islLive (c : Chip) (k : Nat) : Bool := decide (islOf c k = .on) || decide (islOf c k = .rising)

/-- Sets CAPPED and SLEW after a change of the recorded voltage, the cap or the island's state. -/
def retarget (c : Chip) (k : Nat) : Chip :=
  let live := islLive c k
  let c := regSetFld c (rISTAT k) 18 18 (b1 (live && capOn c && decide (950 < recMv c k)))
  regSetFld c (rISTAT k) 19 19 (b1 (live && decide (applMv c k ≠ goalMv c k)))

/-- Every island after a change of the cap. -/
def retargetAll (c : Chip) : Chip := (List.range 8).foldl retarget c

/-- Records a voltage (R613). -/
def setMv (c : Chip) (k mv : Nat) : Chip := retarget (regSetFld c (rISLV k) 10 0 mv) k

/-- VOLTAGE_SLEW_STEP: a regulator that slews moves 5 mV towards its target (R55, R613). -/
def xVoltageSlewStep (c : Chip) (k : Nat) : Chip :=
  if k < 8 ∧ islLive c k ∧ applMv c k ≠ goalMv c k then
    let v := if applMv c k < goalMv c k then Nat.min (applMv c k + 5) (goalMv c k) else Nat.max (applMv c k - 5) (goalMv c k)
    retarget (regSetFld c (rISLV k) 26 16 v) k
  else c

/-- The command VOLTAGE_SLEW_STEP on a unit that exists. -/
def execVoltageSlewStep (k : Nat) (s : State) : Host.Outcome State Fault Refusal :=
  onUnit (isIsland k) s (fun c => xVoltageSlewStep c k)

/-! ### Courses halted and reset through their pegs (R30, R124, R237, R578) -/

/-- Asks a course's peg to halt it: its running strings are to stop. -/
def requestHalt (c : Chip) (n : Nat) : Chip :=
  [2 * n, 2 * n + 1].foldl (fun c k =>
    if (coreOf c k).halted then c else updCore c k (fun r => { r with haltReq := true })) c

/-- The running strings of a course. -/
def runningOf (c : Chip) (n : Nat) : List Nat := [2 * n, 2 * n + 1].filter (fun k => !(coreOf c k).halted)

/-- Does a string wait for nothing that it has placed outside itself? -/
def coreQuiet (c : Chip) (k : Nat) : Bool :=
  let r := coreOf c k
  !r.haltReq && r.flights.isEmpty && r.bus.all (fun q => decide (q.slot = 4)) && r.sbuf.isEmpty

/-- Is a course reported halted (R30, R237): both strings stopped, every response landed, no check and no hand-over? -/
def courseReported (c : Chip) (n : Nat) : Bool :=
  courseHalted c n && coreQuiet c (2 * n) && coreQuiet c (2 * n + 1) && decide ((courseOf c n).check = 0) &&
    (courseOf c n).hand.isNone

/-- Lets strings that were halted for a handshake go on; a course in its safe state stays halted (R623), and one that a reset
has stopped since waits for its start address (R124). -/
def releaseStrings (c : Chip) (l : List Nat) : Chip :=
  l.foldl (fun c k =>
    if (courseOf c (courseNo k)).safe ∨ (coreOf c k).started = false then updCore c k (fun r => { r with haltReq := false })
    else updCore c k (fun r => { r with halted := false, haltReq := false })) c

/-- Ends with FAULT what a course that loses its power leaves undone: a hand-over and a tuner test. -/
def dropCourseWork (c : Chip) (n : Nat) : Chip :=
  let r := courseOf c n
  let c := match r.hand with | some h => complete c h.reply stFAULT 0 | none => c
  match r.test with | some t => complete c t stFAULT 0 | none => c

/-- A course loses its power (R238, R578, R720): its strings and tuner buffers are gone, its CO registers keep their
values. Requests on the fabric are still performed (R30). -/
def offCourse (c : Chip) (n : Nat) : Chip :=
  let c := dropCourseWork (stopCourse c n) n
  let c := completeHeld (completeHeld c (2 * n)) (2 * n + 1)
  let c := updCore c (2 * n) (fun r => { bus := orphans (2 * n) r.bus })
  let c := updCore c (2 * n + 1) (fun r => { bus := orphans (2 * n + 1) r.bus })
  updCourse c n (fun r =>
    { r with log := [], snap := none, ckptAt := none, replaying := false, locked := false, test := none,
             mode := (match r.hand with | some h => if h.toUnison then 0 else 1 | none => r.mode), hand := none })

/-- A course reset (R124), with the completions on its behalf of R578. -/
def pegReset (c : Chip) (n : Nat) : Chip :=
  completeHeld (completeHeld (resetCourse (dropCourseWork c n) n) (2 * n)) (2 * n + 1)

/-! ### Peg domains (R28, R182, R323, R422) -/

/-- Reservations on granules in a peg's domain are lost (R182). -/
def dropResvIn (c : Chip) (p : Nat) : Chip :=
  { c with cores := c.cores.map (fun (e : Nat × Core) =>
      match e.2.resv with
      | some r => if (target none r.granule).peg = some p then (e.1, { e.2 with resv := none }) else e
      | none => e) }

/-- The gate of a domain closes: channels with their queue in it become BROKEN, and the engine of an upper peg ends. -/
def gateCloses (c : Chip) (p : Nat) (off : Bool) : Chip :=
  let c := breakChannels (dropResvIn c p) p
  if p % 2 = 1 then camGateClosed c (p / 2) off else c

/-- A peg's domain is switched off. -/
def pegOff (c : Chip) (p : Nat) : Chip :=
  if (pegOf c p).st = .off then c
  else
    let c := gateCloses c p true
    let c := (coursesOfPeg p).foldl offCourse (loseChannels c p)
    recheckAll (setPeg c p .off false)

/-- A peg's domain enters retention; its courses are halted (R238). -/
def pegRet (c : Chip) (p : Nat) : Chip :=
  if (pegOf c p).st = .on then recheckAll (setPeg (gateCloses c p false) p .ret false) else c

/-- The gate opens after a power-up from off: every course is halted and reset, the engine has lost its sets (R614, R422). -/
def pegUp (c : Chip) (p : Nat) : Chip :=
  let c := (coursesOfPeg p).foldl pegReset (setPeg c p .on false)
  if p % 2 = 1 then regOr (updCam c (p / 2) (fun _ => {})) (clReg (p / 2) 0x44) 0x10 else c

/-- The gate opens after retention, without clearing (R615, R323). -/
def pegBack (c : Chip) (p : Nat) : Chip := mendChannels (setPeg c p .on false) p

/-! ### Islands (R612 to R615) -/

/-- An island is switched off with all its pegs. -/
def islandOff (c : Chip) (k : Nat) : Chip :=
  let c := (pegsOfIsland k).foldl pegOff c
  retarget (regSetFld (setIsl c k .off) (rISLV k) 26 16 0) k

/-- An island enters retention: 0.50 V; its pegs that are ON enter retention. -/
def islandRet (c : Chip) (k : Nat) : Chip :=
  if islOf c k = .on then
    let c := (pegsOfIsland k).foldl pegRet c
    retarget (regSetFld (setIsl c k .ret) (rISLV k) 26 16 500) k
  else c

/-- An island is switched on from off: its regulator stands at 0.60 V, its pegs clear their memories (R614). -/
def islandUp (c : Chip) (k : Nat) : Chip :=
  let c := (pegsOfIsland k).foldl (fun c p => setPeg c p .rising true) c
  retarget (regSetFld (setIsl c k .rising) (rISLV k) 26 16 600) k

/-- An island begins to leave retention (R615). -/
def islandBack (c : Chip) (k : Nat) : Chip := retarget (setIsl c k .rising) k

/-- Every island and peg domain off. -/
def allOff (c : Chip) : Chip := (List.range 8).foldl islandOff c

/-! ### The power command (R544 to R546, R620 to R626) -/

/-- Changes the power command in progress. -/
def updPower (c : Chip) (f : PowerCmd → PowerCmd) : Chip := { c with sys := { c.sys with power := c.sys.power.map f } }

/-- Ends the power command with its completion. -/
def endPower (c : Chip) (status : Nat) (detail : Word) : Chip :=
  match c.sys.power with
  | none => c
  | some p => complete { c with sys := { c.sys with power := none } } p.reply status detail

/-- The islands of a list as a mask. -/
def maskOf (l : List Nat) : Nat := l.foldl (fun n k => n + 2 ^ k) 0

/-- DETAIL [7:0] of a completion: the islands handled. -/
def powerMask (p : PowerCmd) : Nat := if p.kind = 0 then maskOf p.handled else 0

/-- The count of mismatches and tuner faults of a unit's courses (R623). -/
def unitMark (c : Chip) (u : Nat) : Nat :=
  if u < 0x40 then 0
  else (coursesOfPeg (u - 0x40)).foldl (fun n m =>
    let r := courseOf c m
    n + r.miscnt + r.tfcnt + b1 (decide (r.check ≠ 0))) 0

/-- The unit whose answer is awaited: the first that has not accepted (R26). -/
def askedNow (p : PowerCmd) : Option Nat := (p.units.find? (fun a => decide (a.ans ≠ 1))).map (fun a => a.unit)

/-- The unit is asked; a peg asked for RETENTION or OFF halts its courses (R621). -/
def askNext (c : Chip) : Chip :=
  match c.sys.power with
  | none => c
  | some p =>
    match askedNow p with
    | some u =>
      if 0x40 ≤ u then
        let l := (coursesOfPeg (u - 0x40)).flatMap (fun n => if courseOn c n then runningOf c n else [])
        let c := l.foldl (fun c k => updCore c k (fun r => { r with haltReq := true })) c
        updPower c (fun p => { p with halted := p.halted ++ l })
      else c
    | none => c

/-- The entry handshake begins (R620); `target` as HSRES.TARGET. -/
def hsStart (c : Chip) (target : Nat) (units : List Nat) : Chip :=
  askNext (updPower c (fun p => { p with target := target, units := units.map (fun u => ⟨u, 0, 0, 0, 0⟩), halted := [] }))

/-- The registers and the pulse at the end of a handshake (R624). -/
def hsEnd (c : Chip) (p : PowerCmd) (committed : Bool) (u reason : Nat) : Chip :=
  let wait := p.units.foldl (fun n a => Nat.max n a.wait) 0
  let defers := (p.units.filter (fun a => decide (a.reason ≠ 0))).length
  let c := regPut c (rPWR 0x004) (wd (p.target + 16 * (if committed then 1 else 2) + 256 * u + 65536 * reason))
  let c := regPut c (rPWR 0x008) (wd (sat wait 0xFFFF + 65536 * sat defers 255))
  let c := if committed then regCount c (rPWR 0x05C) 15 0 1 else regCount c (rPWR 0x05C) 31 16 1
  pulse c 971

/-- The island of a unit. -/
def unitIsland (u : Nat) : Nat := if 0x40 ≤ u then islandOfPeg (u - 0x40) else u

/-- A unit refuses: the handshake ends at once, its units are released, and the command completes BUSY (R546, R623,
R624). -/
def hsRefuse (c : Chip) (p : PowerCmd) (u reason : Nat) : Chip :=
  let c := hsEnd (releaseStrings c p.halted) p false u reason
  let c := regOr c (rISTAT (unitIsland u)) 0x20000
  endPower c stBUSY (wd (powerMask p + 65536 * u + 2 ^ 24 * reason))

/-- An island or peg of the command is handled. -/
def handled (c : Chip) (k : Nat) : Chip :=
  updPower c (fun p => { p with todo := p.todo.drop 1, handled := p.handled ++ [k], target := 0, units := [], halted := [],
                                rising := none })

/-- An island left in its place ends the command with BUSY, reason 0x08, when a regulator fault is recorded (R616). -/
def islandRefused (c : Chip) (p : PowerCmd) (k : Nat) : Chip :=
  endPower c stBUSY (wd (powerMask p + 65536 * k + 2 ^ 24 * 8))

/-- Goes on with the power command: islands in ascending order, each complete before the next (R26, R544, R545); `n` is
fuel for the number of islands. -/
def powerGo (c : Chip) : Nat → Chip
  | 0 => c
  | n + 1 =>
    match c.sys.power with
    | none => c
    | some p =>
      match p.todo with
      | [] => endPower c stOK (wd (if p.kind = 0 then maskOf p.handled else p.handled.headD 0))
      | k :: _ =>
        if p.kind = 0 then
          let st := islOf c k
          if p.mode = 0 then
            let c1 := match p.vset with | some mv => setMv c k mv | none => c
            if st = .on ∨ st = .rising then powerGo (handled c1 k) n
            else if bit (regVal c (rISTAT k)) 16 then islandRefused c p k
            else updPower (if st = .ret then islandBack c1 k else islandUp c1 k) (fun p => { p with rising := some k })
          else if st = .off ∨ (st = .ret ∧ p.mode = 1) then powerGo (handled c k) n
          else hsStart c p.mode ((pegsOfIsland k).map (fun q => 0x40 + q) ++ [k])
        else
          let st := (pegOf c k).st
          if p.mode = 0 then
            if st = .off then updPower (setPeg c k .rising true) (fun p => { p with rising := some (0x40 + k) })
            else if st = .ret then updPower (setPeg c k .rising false) (fun p => { p with rising := some (0x40 + k) })
            else powerGo (handled c k) n
          else if st = .off ∨ (st = .ret ∧ p.mode = 1) then powerGo (handled c k) n
          else hsStart c (2 + p.mode) [0x40 + k]

/-- A unit that a power command waits for has come up. -/
def risen (c : Chip) (u : Nat) : Chip :=
  match c.sys.power with
  | some p => if p.rising = some u then powerGo (handled c (if 0x40 ≤ u then u - 0x40 else u)) 9 else c
  | none => c

/-- ISLAND_POWER_UP_DONE: the island has reached its voltage, its pegs have cleared their memories, and its gates open
(R614). -/
def xIslandPowerUpDone (c : Chip) (k : Nat) : Chip :=
  let pegs := pegsOfIsland k
  if k < 8 ∧ islOf c k = .rising ∧ applMv c k = goalMv c k ∧ pegs.all (fun p => decide ((pegOf c p).st = .rising) && !(pegOf c p).clearing) then
    risen (retarget (pegs.foldl pegUp (setIsl c k .on)) k) k
  else c

/-- The command ISLAND_POWER_UP_DONE on a unit that exists. -/
def execIslandPowerUpDone (k : Nat) (s : State) : Host.Outcome State Fault Refusal :=
  onUnit (isIsland k) s (fun c => xIslandPowerUpDone c k)

/-- MEMORY_CLEAR_DONE: a peg has written every word of its domain's memories to 0; in an island that is ON its gate opens
(R253, R615). -/
def xMemoryClearDone (c : Chip) (p : Nat) : Chip :=
  if p < 64 ∧ (pegOf c p).clearing then
    let bank := 0x10000000 + p / 2 * 0x100000 + p % 2 * 0x40000
    let c := (coursesOfPeg p).foldl (fun c n => clearRange c (0x20000000 + n * 0x10000) (0x20000000 + n * 0x10000 + 0x8000)) c
    let c := updPeg (clearRange c bank (bank + 0x40000)) p (fun r => { r with clearing := false })
    if islOf c (islandOfPeg p) = .on then risen (pegUp c p) (0x40 + p) else c
  else c

/-- The command MEMORY_CLEAR_DONE on a unit that exists. -/
def execMemoryClearDone (p : Nat) (s : State) : Host.Outcome State Fault Refusal :=
  onUnit (isPeg p) s (fun c => xMemoryClearDone c p)

/-- RETENTION_EXIT_DONE: an island (`u` below 8) or a peg domain (0x40 + p) has left RETENTION and its gates open without
clearing (R615). -/
def xRetentionExitDone (c : Chip) (u : Nat) : Chip :=
  if u < 8 then
    let pegs := pegsOfIsland u
    if islOf c u = .rising ∧ applMv c u = goalMv c u ∧ pegs.all (fun p => decide ((pegOf c p).st ≠ .rising)) then
      let c := pegs.foldl (fun c p => if (pegOf c p).st = .ret then pegBack c p else c) (setIsl c u .on)
      risen (retarget c u) u
    else c
  else
    let p := u - 0x40
    if 0x40 ≤ u ∧ p < 64 ∧ pegOf c p = ⟨.rising, false⟩ ∧ islOf c (islandOfPeg p) = .on then risen (pegBack c p) u else c

/-- The command RETENTION_EXIT_DONE on a unit that exists. -/
def execRetentionExitDone (u : Nat) (s : State) : Host.Outcome State Fault Refusal :=
  onUnit (isPowerUnit u) s (fun c => xRetentionExitDone c u)

/-! ### Answers (R621 to R624) -/

/-- A unit's answer. -/
inductive Answer where
  | accept
  | defer (reason : Nat)
  | refuse (reason : Nat)
  deriving DecidableEq, Repr

/-- Does a domain's store bank hold the queue of an open channel that is not empty (R622 code 0x05)? -/
def bankHolds (c : Chip) (p : Nat) : Bool :=
  (chansOfPeg c p).any (fun s => decide (chDepth (chanOf c s) ≠ 0) || decide ((chanOf c s).lead ≠ 0))

/-- The answer of a unit for a target (R621, R622). -/
def answerOf (c : Chip) (tgt u : Nat) : Answer :=
  if 0x40 ≤ u then
    let p := u - 0x40
    let l := coursesOfPeg p
    let m := camOf c (p / 2)
    if (pegOf c p).st ≠ .on then .accept
    else if l.any (fun n => decide ((courseOf c n).check ≠ 0) || (courseOf c n).test.isSome) then .defer 1
    else if l.any (fun n => (courseOf c n).hand.isSome) then .defer 2
    else if l.any (fun n => !courseReported c n) then .defer 3
    else if p % 2 = 1 ∧ (m.staging ∨ m.copy.isSome) then .defer 4
    else if (tgt = 2 ∨ tgt = 4) ∧ bankHolds c p then .refuse 5
    else .accept
  else if bit (regVal c (rISTAT u)) 16 then .refuse 8
  else if 5 ≤ tgt ∧ islOf c u = .ret then .refuse 6
  else .accept

/-- CRC-32 of a retention bank of 64 KiB. -/
def bankCrc (c : Chip) (b : Nat) : Nat := (crc32 (bytesAt c (0x50000000 + b * 0x10000) 0x10000)).toNat

/-- The banks kept in WATCH and HIBERNATE. -/
def keptBanks (c : Chip) : List Nat := (List.range 16).filter (fun b => bit (regVal c (rPWR 0x03C)) b)

/-- Every unit asked has accepted: the entry is committed (R624, R626 steps 2 to 4). -/
def hsCommit (c : Chip) (p : PowerCmd) : Chip :=
  match p.units.find? (fun a => decide (unitMark c a.unit ≠ a.mark)) with
  | some a => hsRefuse c p a.unit 7
  | none =>
    let k := p.todo.headD 0
    if p.target = 1 then powerGo (handled (hsEnd (islandRet c k) p true 0 0) k) 9
    else if p.target = 2 then powerGo (handled (hsEnd (islandOff c k) p true 0 0) k) 9
    else if p.target = 3 then powerGo (handled (hsEnd (pegRet c k) p true 0 0) k) 9
    else if p.target = 4 then powerGo (handled (hsEnd (pegOff c k) p true 0 0) k) 9
    else
      let c := hsEnd c p true 0 0
      let crcs := (keptBanks c).map (fun b => (b, bankCrc c b))
      let c := complete c p.reply stOK 0
      { c with sys := { c.sys with crcs := crcs, perOffDue := true,
                                   power := some { p with target := 0, units := [], step := 1 } } }

/-- HANDSHAKE_ANSWER: an asked unit answers, `waited` being the 10 µs units it had been deferred; a unit that has accepted
refuses when a mismatch or tuner fault has arisen since (R621 to R623). -/
def xHandshakeAnswer (c : Chip) (u waited : Nat) : Chip :=
  match c.sys.power with
  | none => c
  | some p =>
    match p.units.find? (fun a => decide (a.unit = u)) with
    | none => c
    | some a =>
      if a.ans = 1 then (if unitMark c u ≠ a.mark then hsRefuse c p u 7 else c)
      else if askedNow p ≠ some u then c
      else
        let set (f : Asked → Asked) : PowerCmd :=
          { p with units := p.units.map (fun x => if x.unit = u then f x else x) }
        let waits (x : Asked) : Nat := if x.ans = 2 then Nat.min waited 1000 else x.wait
        match answerOf c p.target u with
        | .defer r =>
          if a.ans = 0 then { c with sys := { c.sys with power := some (set (fun x => { x with ans := 2, reason := r })) } } else c
        | .refuse r => hsRefuse c (set (fun x => { x with wait := waits x })) u r
        | .accept =>
          let p := set (fun x => { x with ans := 1, wait := waits x, mark := unitMark c u })
          let c := { c with sys := { c.sys with power := some p } }
          if (askedNow p).isNone then hsCommit c p else askNext c

/-- The command HANDSHAKE_ANSWER. -/
def execHandshakeAnswer (u waited : Nat) (s : State) : Host.Outcome State Fault Refusal :=
  onChip s (fun c => xHandshakeAnswer c u waited)

/-- DEFERRAL_LIMIT: a unit's deferral passes 10 ms: it is taken as refusing with reason 0x0F (R621). -/
def xDeferralLimit (c : Chip) : Chip :=
  match c.sys.power with
  | none => c
  | some p =>
    match p.units.find? (fun a => decide (a.ans = 2)) with
    | some a =>
      hsRefuse c { p with units := p.units.map (fun x => if x.unit = a.unit then { x with wait := 1000 } else x) } a.unit 0x0F
    | none => c

/-- The command DEFERRAL_LIMIT. -/
def execDeferralLimit (s : State) : Host.Outcome State Fault Refusal :=
  onChip s (fun c => xDeferralLimit c)

/-- Is a course held by the handshake that runs (R623)? -/
def hsHolds (c : Chip) (n : Nat) : Bool :=
  match c.sys.power with
  | some p => p.units.any (fun a => decide (a.unit = 0x40 + pegOfCourse n) && decide (a.ans ≠ 0))
  | none => false

/-! ### Faults, temperatures and supplies (R54 to R57, R616, R617, R637, R638) -/

/-- REGULATOR_FAULT: the island is shut at once; a power command that brings it up completes BUSY; with REGESC 1 the fault
is fatal (R616, R651). -/
def xRegulatorFault (c : Chip) (k : Nat) : Chip :=
  if k < 8 ∧ islOf c k ≠ .off then
    let c := regOr (islandOff c k) (rISTAT k) 0x10000
    let c := match c.sys.power with
      | some p => if p.kind = 0 ∧ p.rising = some k then islandRefused c p k
        else match p.rising with
          | some u => if 0x40 ≤ u ∧ islandOfPeg (u - 0x40) = k then endPower c stBUSY (wd (65536 * k + 2 ^ 24 * 8)) else c
          | none => c
      | none => c
    if bit (regVal c (rRET 0x010)) 1 then fatal c 6 (wd k) else c
  else c

/-- The command REGULATOR_FAULT on a unit that exists. -/
def execRegulatorFault (k : Nat) (s : State) : Host.Outcome State Fault Refusal :=
  onUnit (isIsland k) s (fun c => xRegulatorFault c k)

/-- The sensors above their limit of R57 in the last sample, in the order of R652's detail: 0xFF the baseplate, then the islands. -/
def hotSensors (c : Chip) : List Nat :=
  (if 1300 < sgn (sext 16 (regVal c (rPWR 0x020))) then [0xFF] else []) ++
    (List.range 8).filter (fun k => decide (1450 < sgn (sext 16 (regVal c (rISTAT k)))))

/-- The temperature of a sensor as last sampled. -/
def sensorTemp (c : Chip) (k : Nat) : Nat := if k = 0xFF then regFld c (rPWR 0x020) 15 0 else regFld c (rISTAT k) 15 0

/-- The shutdown of R57: every island off, every field output floats, FAULTED. -/
def overTemp (c : Chip) (temp who : Nat) : Chip :=
  let c := regOr c (rPWR 0x024) 2
  allOff (fatal (dropAllDrives c) 2 (wd (temp % 65536 + 65536 * who)))

/-- TEMPERATURE_SAMPLE: the baseplate and the islands are sampled, in units of 0.1 °C; the cap of R55 comes or goes, and
the shutdown of R57 takes place where a sensor newly exceeds its limit, or one exceeds it and the device is not in FAULTED
(R617). -/
def xTemperatureSample (c : Chip) (base : BitVec 16) (isl : List (BitVec 16)) : Chip :=
  if !c.lut then c
  else
    let before := hotSensors c
    let peak := (regVal c (rPWR 0x020)).toNat / 65536
    let t := base.toInt
    let top := if (BitVec.ofNat 16 peak).toInt < t then base.toNat else peak
    let c := regPut c (rPWR 0x020) (wd (base.toNat + 65536 * top))
    let c := (List.range 8).foldl (fun c k => regSetFld c (rISTAT k) 15 0 (isl.getD k 0).toNat) c
    let c :=
      if 1050 < t ∧ !capOn c then
        retargetAll (pulse (regWrap (regOr c (rPWR 0x024) 1) (rPWR 0x024) 31 16 1) 970)
      else if t < 1000 ∧ capOn c then retargetAll (pulse (regClr c (rPWR 0x024) 1) 970)
      else c
    match (hotSensors c).find? (fun k => decide (c.dev ≠ .faulted) || !decide (k ∈ before)) with
    | some k => overTemp c (sensorTemp c k) k
    | none => c

/-- The command TEMPERATURE_SAMPLE. -/
def execTemperatureSample (base : BitVec 16) (isl : List (BitVec 16)) (s : State) :
    Host.Outcome State Fault Refusal :=
  onChip s (fun c => xTemperatureSample c base isl)

/-- VIN_SAMPLE: VIN_24 in units of 10 mV (R641). -/
def xVinSample (c : Chip) (v : BitVec 16) : Chip :=
  if c.sys.aon then
    let low := (regVal c (rPWR 0x02C)).toNat / 65536
    regPut c (rPWR 0x02C) (wd (v.toNat + 65536 * Nat.min low v.toNat))
  else c

/-- The command VIN_SAMPLE. -/
def execVinSample (v : BitVec 16) (s : State) : Host.Outcome State Fault Refusal :=
  onChip s (fun c => xVinSample c v)

/-- SUPPLY_LIMIT: the port supply limits its current; every port with DRVEN 1 has it cleared, and ILIM and HELD set (R54,
R435, R638). -/
def xSupplyLimit (c : Chip) : Chip :=
  if c.sys.per ∧ c.sys.psupLim = false then
    let hit := (List.range 128).filter (fun p => bit (regVal c (fpReg p 0x00)) 9)
    let c := hit.foldl (fun c p => updPort (dropDrive c p) p (fun r => { r with ilim := true })) c
    let c := regCount (regOr c (rPWR 0x028) 1) (rPWR 0x028) 31 16 1
    { c with sys := { c.sys with psupLim := true } }
  else c

/-- The command SUPPLY_LIMIT. -/
def execSupplyLimit (s : State) : Host.Outcome State Fault Refusal :=
  onChip s (fun c => xSupplyLimit c)

/-- SUPPLY_LIMIT_END: LIM returns to 0 and LIMEND is set (R638). -/
def xSupplyLimitEnd (c : Chip) : Chip :=
  if c.sys.psupLim then
    let c := regOr (regClr c (rPWR 0x028) 1) (rPWR 0x028) 2
    { c with sys := { c.sys with psupLim := false } }
  else c

/-- The command SUPPLY_LIMIT_END. -/
def execSupplyLimitEnd (s : State) : Host.Outcome State Fault Refusal :=
  onChip s (fun c => xSupplyLimitEnd c)

/-! ### The loss of PER and of LUT (R329, R585, R591, R619, R694) -/

/-- Is a register's value held in PER (R694)? -/
def perHeld (a : Nat) : Bool :=
  let b := a / 0x1000
  let o := a % 0x1000
  if b = 0x60000 ∨ b = 0x60008 then false
  else if b = 0x60001 then !((decide (0x020 ≤ o) && decide (o < 0x060)) || decide (0x0C0 ≤ o))
  else true

/-- PER is switched off: everything it holds is lost, commands without completion with it, and the mesh with its counts, its scrub
positions and what it still carried (R15, R718). -/
def perOff (c : Chip) : Chip :=
  let c := clearRange c 0x40000000 0x41000000
  let sys := { c.sys with per := false, perOffDue := false, psupLim := false, power := none, halts := [], flash := none, flashWait := [] }
  { c with regs := c.regs.filter (fun (e : Nat × Word) => !perHeld e.1), tb := 0, frac := 0, chans := [], tab := {}, ports := [],
           links := [], drones := [], stopped := [], srcs := [], hostList := [], flushing := [], pcie := { perst := c.pcie.perst }, keys := [], ptp := {},
           queues := [], accepted := [], cur := none, lastQueue := 5, banks := [], scrubs := [], flits := [], stalls := [],
           cores := c.cores.map (fun (e : Nat × Core) => if e.1 < 512 then (e.1, { e.2 with bus := [] }) else e), sys := sys }

/-- PER is switched on with everything at its reset values; CLK.CTL.AUTO and the IP addresses come from the configuration
record (R66 step 9, R501, R589, R678). -/
def perOn (c : Chip) : Chip :=
  let c := { c with pcie := { perst := c.pcie.perst, masked := allVectors }, sys := { c.sys with per := true } }
  let c := regPut c (rCLK 0x000) (if c.sys.clkAuto then 4 else 0)
  if Config.optE then regPut (regPut c (ethReg 0 0x008) c.sys.ip0) (ethReg 1 0x008) c.sys.ip1 else c

/-- LUT loses its power: the courses' CO registers, the luthier's own strings and its SRAM are gone (R720). Whether fixed unison was
in force stays in AON, in the identity record (R676). -/
def lutOff (c : Chip) : Chip :=
  let c := clearRange c 0x21000000 0x21080000
  { c with lut := false, cores := [], courses := [], memResv := [],
           sys := { c.sys with lutRet := false, boot := .none, waking := false, detach := none, attachReq := false } }

/-- A change of the attach status (R64). -/
def setAttach (c : Chip) (a : Attach) : Chip :=
  if c.sys.attach = a then c
  else
    let c := { c with sys := { c.sys with attach := a } }
    if c.sys.per then pulse c 975 else c

/-! ### Watch and hibernation (R626 to R637) -/

/-- The luthier or the attach controller is woken: the cause is recorded (R630). A cause that arises while the entry is
still under way is held (R626). -/
def wake (c : Chip) (src slot : Nat) : Chip :=
  if c.dev = .watch ∨ c.dev = .hibernate then
    if c.sys.waking then c
    else
      let c := regPut c (rPWR 0x038) (wd (src + 16 * slot + 256 * devCode c.dev))
      { c with sys := { c.sys with waking := true } }
  else if c.sys.perOffDue ∧ c.sys.power.isSome ∧ c.sys.wakeHeld.isNone then
    { c with sys := { c.sys with wakeHeld := some (src, slot) } }
  else c

/-- Steps 5 and 6 of R626: PER and the converters go off, banks that are not kept lose their contents, and the device
enters WATCH or HIBERNATE. -/
def enterLow (c : Chip) (hibernate : Bool) : Chip :=
  let lost := (List.range 16).filter (fun b => !bit (regVal c (rPWR 0x03C)) b)
  let c := lost.foldl (fun c b => clearRange c (0x50000000 + b * 0x10000) (0x50010000 + b * 0x10000)) (perOff c)
  let c := setAttach c .unattached
  let c :=
    if hibernate then setDev (lutOff c) .hibernate 0
    else
      let c := regPut (regPut c (rPWR 0x050) 0) (rPWR 0x054) 0
      setDev { c with lut := false, sys := { c.sys with lutRet := true, debounce := 0 } } .watch 0
  match c.sys.wakeHeld with
  | some (src, slot) => wake { c with sys := { c.sys with wakeHeld := none } } src slot
  | none => c

/-- Watch slot `n`. -/
def wslot (c : Chip) (n : Nat) : Word := regVal c (rPWR (0x0C0 + 4 * n))

/-- Does a slot's sample mismatch (R628)? `prev` is the sample of the period before, none in the first period. -/
def slotMismatch (c : Chip) (n : Nat) (s : BitVec 2) (prev : Option Nat) : Bool :=
  let w := wslot c n
  let mask := bits w 11 10
  if !bit w 7 then false
  else if bit w 12 then
    match prev with
    | some q => decide (Nat.land (Nat.xor s.toNat q) mask ≠ 0)
    | none => false
  else decide (Nat.land (Nat.xor s.toNat (bits w 9 8)) mask ≠ 0)

/-- WATCH_PERIOD: a period of the watch sequencer ends with the samples of the slots, pair A in bit 0 (R627 to R629), under the
settings POWER_MODE took (R625). A
receiver that is not powered gives no sample; such bits read 0. -/
def xWatchPeriod (c : Chip) (samples : List (BitVec 2)) : Chip :=
  if c.dev ≠ .watch ∨ c.sys.waking ∨ c.sys.lutRet = false then c
  else
    let old := (regVal c (rPWR 0x04C)).toNat
    let first := regVal c (rPWR 0x050) = 0
    let take (n : Nat) : BitVec 2 :=
      if bit (wslot c n) 7 then samples.getD n 0 &&& BitVec.ofNat 2 (bits (wslot c n) 11 10) else 0
    let miss := (List.range 16).filter (fun n =>
      slotMismatch c n (take n) (if first then none else some (old / 4 ^ n % 4)))
    let c := regPut c (rPWR 0x04C) (wd ((List.range 16).foldl (fun v n => v + (take n).toNat * 4 ^ n) 0))
    let c := regCount (regPut c (rPWR 0x054) (wd (maskOf miss))) (rPWR 0x050) 31 0 1
    let run := if miss.isEmpty then 0 else c.sys.debounce + 1
    let c := { c with sys := { c.sys with debounce := run } }
    let timer := c.sys.wtimer
    if bits c.sys.wctl 19 16 ≤ run ∧ run ≠ 0 then wake c 2 (miss.headD 0)
    else if timer ≠ 0 ∧ timer = regVal c (rPWR 0x050) then wake c 3 0
    else c

/-- The command WATCH_PERIOD. -/
def execWatchPeriod (samples : List (BitVec 2)) (s : State) : Host.Outcome State Fault Refusal :=
  onChip s (fun c => xWatchPeriod c samples)

/-- BROWN_OUT: the standby output fell below 3.0 V; latched, and in WATCH or HIBERNATE a wake (R637). -/
def xBrownOut (c : Chip) : Chip :=
  if c.sys.aon then wake (regCount (regOr c (rPWR 0x030) 1) (rPWR 0x030) 31 16 1) 5 0 else c

/-- The command BROWN_OUT. -/
def execBrownOut (s : State) : Host.Outcome State Fault Refusal :=
  onChip s (fun c => xBrownOut c)

/-- The dump area of the retention store: its global address and its size (R658, R669). -/
def dumpArea (c : Chip) : Nat × Nat :=
  (0x50000000 + regFld c (rRET 0x000) 3 0 * 0x10000, (regFld c (rRET 0x000) 7 4 + 1) * 0x10000)

/-- Does a bank lie in the dump area? -/
def bankInDump (c : Chip) (b : Nat) : Bool :=
  decide ((dumpArea c).1 ≤ 0x50000000 + b * 0x10000) && decide (0x50000000 + b * 0x10000 < (dumpArea c).1 + (dumpArea c).2)

/-- The retention check at a wake (R634); a bank that fails inside the dump area clears DSTAT.VALID (R667). -/
def retentionCheck (c : Chip) : Chip :=
  let bad := c.sys.crcs.filter (fun (e : Nat × Nat) => decide (bankCrc c e.1 ≠ e.2))
  let c := if bad.any (fun e => bankInDump c e.1) then regClr c (rRET 0x004) 1 else c
  let fail := maskOf (bad.map Prod.fst)
  let chk := maskOf (c.sys.crcs.map Prod.fst)
  regPut { c with sys := { c.sys with crcs := [] } } (rPWR 0x040) (wd (fail + 65536 * chk))

/-- The next reply on each queue tells of a wake (R518, R635). -/
def markWake (c : Chip) : Chip :=
  let fail := decide (regFld c (rPWR 0x040) 15 0 ≠ 0)
  (List.range 6).foldl (fun c q => updQueue c q (fun r => { r with wake := true, wakeFail := fail })) c

end Sys2Proof.Machine
end

