-- ==== Sys2Proof/Machine/Boot.lean ====
section
/-! DEFINITION. Insertion, boot, attach, detach and removal (R36 to R82, R673 to R685, R688 to R691). -/

namespace Sys2Proof.Machine

open Sys2Proof

/-- GLB register. -/
def rGLB (o : Nat) : Nat := 0x60000000 + o

/-- The global address of an offset in the flash array. -/
def flashGa (o : Nat) : Nat := 0x70000000 + o

/-! ### What a module carries (R674 to R676, R690) -/

/-- SVNMIN: as shipped, or as raised since (R675, R682). -/
def svnMinOf (c : Chip) : Nat := match c.sys.svnMin with | some n => n | none => Config.svnMin % 64

/-- `n` bytes of a list, filled with zeros. -/
def fixLen (n : Nat) (l : List Byte) : List Byte := (l ++ List.replicate n 0).take n

/-- The identity record without its CRC (R676). -/
def identBody (c : Chip) : List Byte :=
  leBytes 2 1 ++ leBytes 2 0x5128 ++ fixLen 6 Config.lot ++ leBytes 1 Config.wafer.toNat ++ [Config.dieX, Config.dieY, Config.bin] ++
    leBytes 1 Config.speed.toNat ++ leBytes 1 Config.dieRev.toNat ++ fixLen 16 Config.serial ++ bytesOfWord Config.asmDate ++
    leBytes 2 Config.boardRev.toNat ++ leBytes 1 (b1 Config.optE + 2 * b1 Config.fuFuse + 4 * b1 c.fixedUnison) ++
    leBytes 1 (c.sys.slot + 32 * Config.pgrp.toNat) ++ fixLen 6 (if Config.optE then Config.mac0 else []) ++ leBytes 2 0 ++
    bytesOfWord (regVal c (rGLB 0x024)) ++ leBytes 4 Config.romVer ++ leBytes 4 0

/-- The identity record (R676). -/
def identRecord (c : Chip) : List Byte := let b := identBody c; b ++ bytesOfWord (crc32 b)

/-! ### Status lights (R46, R60, R64) -/

/-- What a status light shows: flash and blink as R46 gives them. -/
inductive Light where
  | off | on
  | flash (hz : Nat)
  | blink
  deriving DecidableEq, Repr

/-- The four status lights. -/
structure Lights where
  pwr : Light
  run : Light
  flt : Light
  att : Light
  deriving DecidableEq, Repr

/-- All four lights alike. -/
def allLights (l : Light) : Lights := ⟨l, l, l, l⟩

/-- Is any course reported degraded, or does one carry a recorded tuner fault (R46)? -/
def courseAlarm (c : Chip) : Bool := c.courses.any (fun e => e.2.degraded || e.2.tflt)

/-- FLT. -/
def lightFlt (c : Chip) : Light :=
  if c.dev = .faulted then .on
  else if c.dev = .halted then .flash 1
  else if c.dev = .boot then .off
  else if courseAlarm c then .flash 4
  else .off

/-- RUN. -/
def lightRun (c : Chip) : Light :=
  match c.dev with
  | .armed => .flash 1
  | .running => .on
  | .changeover => .flash 4
  | _ => .off

/-- ATT follows the attach status (R64). -/
def lightAtt (c : Chip) : Light :=
  match c.sys.attach with
  | .attached => .on
  | .detaching => .flash 2
  | .unattached => .off
  | .removed => .off

/-- The status lights `ms` milliseconds after the device state was entered: dark while AON is off and in HIBERNATE, all lit for the first
200 ms of BOOT, else by the device state and the attach status (R46, R60, R64, R66 step 6). -/
def lights (c : Chip) (ms : Nat) : Lights :=
  if !c.sys.aon ∨ c.dev = .hibernate then allLights .off
  else if c.dev = .watch then { allLights .off with pwr := .blink }
  else if !c.lut then allLights .off
  else if c.dev = .boot ∧ ms < 200 then allLights .on
  else ⟨.on, lightRun c, lightFlt c, lightAtt c⟩

/-- Is a light lit at a moment: a flash has equal on and off times, a blink lasts 10 ms every 2 s (R46)? -/
def lit (l : Light) (ms : Nat) : Bool :=
  match l with
  | .off => false
  | .on => true
  | .flash hz => decide (2 * hz * ms / 1000 % 2 = 0)
  | .blink => decide (ms % 2000 < 10)

/-! ### Firmware slots and the configuration record (R678 to R682) -/

/-- Where a firmware slot begins (R677). -/
def fwSlot (b : Bool) : Nat := if b then 0x90000 else 0x10000

/-- A field of a slot's image header. -/
def fwF (c : Chip) (b : Bool) (o n : Nat) : Nat := leNat c (flashGa (fwSlot b + o)) n

/-- Check 1 of R680: MAGIC, VERSION, HDRLEN, BODYLEN, ENTRY and reserved fields. -/
def fwHeaderOk (c : Chip) (b : Bool) : Bool :=
  let len := fwF c b 0x08 4
  decide (fwF c b 0x00 4 = 0x4E524F47) && decide (fwF c b 0x04 2 = 1) && decide (fwF c b 0x06 2 = 256) &&
    decide (16 ≤ len) && decide (len ≤ 458752) && decide (len % 16 = 0) &&
    decide (fwF c b 0x0C 4 < len) && decide (fwF c b 0x0C 4 % 2 = 0) && decide (fwF c b 0x14 4 ≤ 63) &&
    decide (fwF c b 0x18 4 ≤ 1) && decide (fwF c b 0x1C 4 = 0) && decide (fwF c b 0xC0 64 = 0)

/-- The code of the first failing check of a slot's header, 0 when all hold; `bad` says that the flash read met an
uncorrectable error (R680, checks 1, 6, 3, 4 and 5). -/
def fwJudge (c : Chip) (b bad : Bool) : Nat :=
  let at_ (o n : Nat) : List Byte := bytesAt c (flashGa (fwSlot b + o)) n
  if !fwHeaderOk c b then 1
  else if bad then 6
  else if Config.sha256 (at_ 0x40 64) ≠ Config.keyHash then 3
  else if Config.ecdsaOk (at_ 0x40 64) (Config.sha256 (at_ 0 0x80)) (at_ 0x80 64) = false then 4
  else if fwF c b 0x14 4 < svnMinOf c then 5
  else 0

/-- The result code recorded for a slot. -/
def fwRes (c : Chip) (b : Bool) : Nat := if b then regFld c (rGLB 0x020) 6 4 else regFld c (rGLB 0x020) 3 1

/-- The slot chosen among the valid ones: the higher SVN, then the higher FWVER, ties to A (R681). -/
def fwChoose (c : Chip) : Option Bool :=
  if fwRes c false = 0 ∧ fwRes c true = 0 then
    let s (b : Bool) : Nat := fwF c b 0x14 4
    let v (b : Bool) : Nat := fwF c b 0x10 4
    some (decide (s false < s true) || (decide (s false = s true) && decide (v false < v true)))
  else if fwRes c false = 0 then some false
  else if fwRes c true = 0 then some true
  else none

/-- Is a copy of the configuration record valid (R678)? -/
def cfgValid (c : Chip) (i : Nat) : Bool :=
  let l := bytesAt c (flashGa (i * 0x4000)) 64
  decide (fieldAt l 0 4 = 0x47464E43) && decide (fieldAt l 4 2 = 1) && decide (fieldAt l 6 2 = 64) && decide (fieldAt l 0x0C 1 ≤ 1) &&
    decide (fieldAt l 0x0D 1 ≤ 1) && decide (fieldAt l 0x0E 2 = 0) && decide (fieldAt l 0x18 36 = 0) &&
    decide (fieldAt l 0x3C 4 = (crc32 (l.take 0x3C)).toNat)

/-- The copy of the configuration record used: the valid one of the higher SEQ (R678). -/
def cfgCopy (c : Chip) : Option Nat :=
  let seq (i : Nat) : Nat := leNat c (flashGa (i * 0x4000 + 8)) 4
  if cfgValid c 0 ∧ cfgValid c 1 then some (if seq 0 < seq 1 then 1 else 0)
  else if cfgValid c 0 then some 0
  else if cfgValid c 1 then some 1
  else none

/-- Reads the configuration record (R678). -/
def loadConfig (c : Chip) : Chip :=
  match cfgCopy c with
  | some i =>
    let l := bytesAt c (flashGa (i * 0x4000)) 64
    let sys := { c.sys with rack := decide (fieldAt l 0x0C 1 = 1), clkAuto := decide (fieldAt l 0x0D 1 = 1),
                            ip0 := wd (fieldAt l 0x10 4), ip1 := wd (fieldAt l 0x14 4) }
    regOr { c with sys := sys } (rGLB 0x004) 4
  | none => { c with sys := { c.sys with rack := false, clkAuto := true, ip0 := 0, ip1 := 0 } }

/-! ### Removal records (R80, R81) -/

/-- The place in flash of a removal-record slot. -/
def recSlot (i : Nat) : Nat := 0x110000 + 512 * i

/-- The removal-record slot the next record goes to. -/
def recNext (c : Chip) : Nat := c.sys.recSeq % 64

/-- Is a sector of the removal-record area wholly erased? -/
def sectorErased (c : Chip) (i : Nat) : Bool :=
  !c.mem.any (fun e => decide (flashGa (recSlot (32 * i)) ≤ e.1) && decide (e.1 < flashGa (recSlot (32 * i + 32))))

/-- The erase a boot finds owed: the last record has filled its sector, and the other is not erased. -/
def owedAtBoot (c : Chip) : Option Nat :=
  if c.sys.recSeq ≠ 0 ∧ recNext c % 32 = 0 ∧ sectorErased c (recNext c / 32) = false then some (recNext c / 32) else none

/-- OWED_ERASE: the luthier erases the removal-record sector it owes: UNATTACHED in STANDBY, or during BOOT once Gorene or the
ROM runs (R80). -/
def xOwedErase (c : Chip) : Chip :=
  let ready := decide (c.sys.boot = .gorene) || decide (c.sys.boot = .rescue) ||
    (decide (c.dev = .standby) && decide (c.sys.attach = .unattached))
  match c.sys.owedErase with
  | some i =>
    if c.lut && ready then
      { (clearRange c (flashGa (recSlot (32 * i))) (flashGa (recSlot (32 * i + 32)))) with sys := { c.sys with owedErase := none } }
    else c
  | none => c

/-- The command OWED_ERASE. -/
def execOwedErase (s : State) : Host.Outcome State Fault Refusal :=
  onChip s (fun c => xOwedErase c)

/-- A bit per course, as UNISON of R81. -/
def courseBits (f : Nat → Bool) : List Byte :=
  (List.range 32).map (fun i => BitVec.ofNat 8 ((List.range 8).foldl (fun n j => n + 2 ^ j * b1 (f (8 * i + j))) 0))

/-- Items of a channel left undelivered (ITEMS of R81). -/
def itemsOf (c : Chip) (s : Nat) : Nat :=
  let h := chanOf c s
  let unacked := if isLinkQ h then
      (match streamNo c (partyNo h.cons) s with
       | some k => (streamOf c (partyNo h.cons) k).frames.foldl (fun n f => n + f.words.length) 0
       | none => 0)
    else 0
  if h.fmt = 0 then chDepth h + unacked
  else chRecords c s + b1 (decide (h.lead ≠ 0)) + b1 (decide (h.rem ≠ 0)) + unacked

/-- Is an open channel drained: its queue empty, and every frame of a link queue acknowledged (R71 step 3)? -/
def isDrained (c : Chip) (s : Nat) : Bool :=
  let h := chanOf c s
  decide (chDepth h = 0) &&
    (!isLinkQ h || match streamNo c (partyNo h.cons) s with
      | some k => (streamOf c (partyNo h.cons) k).frames.isEmpty && (streamOf c (partyNo h.cons) k).banks.isEmpty
      | none => true)

/-- The open channels. -/
def openChans (c : Chip) : List Nat := (c.chans.filter (fun (e : Nat × Chan) => e.2.opened)).map Prod.fst

/-- The fields STATE to CHOPEN of a removal record at recognition (R81). -/
def recFields (c : Chip) (state chgov : Nat) : List Byte :=
  let chgpos := match c.tab.arm with | some a => a.p | none => 0
  leBytes 1 state ++ leBytes 1 0 ++ leBytes 8 c.tb ++ bytesOf ((List.range 16).map (fun d => dronePos c d)) ++
    leBytes 1 (match c.tab.active with | some b => b | none => 0) ++ leBytes 1 chgov ++ leBytes 2 0 ++
    bytesOfWord (if chgov = 0 then 0 else chgpos) ++
    courseBits (fun n => inUnison c n) ++ courseBits (fun n => (courseOf c n).degraded) ++ courseBits (fun n => (courseOf c n).tflt) ++
    (List.range 8).flatMap (fun k => leBytes 2 (applMv c k)) ++ leBytes 2 (regFld c (rPWR 0x020) 15 0) ++
    leBytes 2 (regFld c (rPWR 0x02C) 15 0) ++
    (List.range 16).map (fun i => BitVec.ofNat 8 ((List.range 8).foldl (fun n j => n + 2 ^ j * b1 (driving c (8 * i + j))) 0)) ++
    leBytes 2 (openChans c).length

/-- Does the arming stand that a record gives as CHGOV (R81)? -/
def chgArmed (c : Chip) : Bool := c.tab.arm.isSome

/-- Is a removal record due, or being written? -/
def recordDue (c : Chip) : Bool := (c.sys.removal.map (fun r => r.due)).getD false

/-- Adds flags to the record to come. -/
def recFlags (c : Chip) (m : Nat) : Chip :=
  { c with sys := { c.sys with removal := c.sys.removal.map (fun r => { r with flags := Nat.lor r.flags m }) } }

/-- A surprise removal or an input loss is recognised (R76 to R79): the record's fields are taken, everything in flight is
discarded, the islands and PER go off, and the record is due. A record being written is completed first: it takes the flags of the
second event (R50, R79). STATE is DETACHING during an ordered detach (R81). A failed luthier writes no record (R76, R655). -/
def removalBegin (c : Chip) (cause flags : Nat) : Chip :=
  if c.sys.attach = .removed ∨ recordDue c then recFlags c flags
  else
    let det := decide (c.sys.attach = .detaching)
    let left := (openChans c).filter (fun s => !isDrained c s)
    let items := (openChans c).foldl (fun n s => n + itemsOf c s) 0
    let fl := flags + 16 * b1 det + 32 * b1 (c.sys.dumped || c.sys.dumpDue)
    let r : Removal := ⟨cause, fl, true, recFields c (if det then devCode .detaching else devCode c.dev) (b1 (chgArmed c)), left.length, items, c.accepted.length⟩
    let failed := (courseOf c luthierCourse).safe
    let c := perOff (allOff c)
    { c with sys := { c.sys with attach := .removed, detach := none, removal := if failed then none else some r, wakeHeld := none } }

/-- PRES_LATE_LOSS: contact 1f (bit 0) or 16f (bit 1) is lost for more than 200 ns (R42, R76, R78); the second contact's loss before the
record is written adds its flag (R81). In HIBERNATE presence is
not sensed (R618). -/
def xPresLateLoss (c : Chip) (which : BitVec 2) : Chip :=
  if !c.sys.aon ∨ which = 0 then c
  else if c.sys.contacts = false then (if recordDue c then recFlags c which.toNat else c)
  else
    let c := { c with sys := { c.sys with contacts := false } }
    if c.dev = .hibernate ∧ c.sys.woken = false then c
    else if c.sys.attach = .unattached then lutOff c
    else removalBegin c 1 which.toNat

/-- The command PRES_LATE_LOSS. -/
def execPresLateLoss (which : BitVec 2) (s : State) : Host.Outcome State Fault Refusal :=
  onChip s (fun c => xPresLateLoss c which)

/-- The input is lost: recorded as a removal when attached; UNATTACHED it writes no record (R50, R78, R79). -/
def inputLost (c : Chip) (flags : Nat) : Chip :=
  let c := { c with sys := { c.sys with vin := false } }
  if c.sys.attach = .unattached then lutOff c else removalBegin c 2 flags

/-- INPUT_LOSS: VIN_24 falls below the input-loss threshold; after an overvoltage disconnect the fall lets the module take
power again later (R50, R51). -/
def xInputLoss (c : Chip) : Chip :=
  if c.sys.ovp then recFlags { c with sys := { c.sys with ovp := false } } 4
  else if c.sys.vin then inputLost c 4
  else c

/-- The command INPUT_LOSS. -/
def execInputLoss (s : State) : Host.Outcome State Fault Refusal :=
  onChip s (fun c => xInputLoss c)

/-- OVERVOLTAGE: VIN_24 exceeds the disconnect; it counts as an input loss (R51). -/
def xOvervoltage (c : Chip) : Chip :=
  if c.sys.vin then inputLost { c with sys := { c.sys with ovp := true } } 12 else c

/-- The command OVERVOLTAGE. -/
def execOvervoltage (s : State) : Host.Outcome State Fault Refusal :=
  onChip s (fun c => xOvervoltage c)

/-! ### Insertion and boot (R49, R66, R673, R683, R701) -/

/-- BANK_CHARGED: VIN_24 stands above the turn-on threshold and the bank is charged; AON comes up from no supply (R66
step 3, R630). -/
def xBankCharged (c : Chip) : Chip :=
  if c.sys.vin ∨ c.sys.ovp then c else { c with sys := { c.sys with vin := true, aon := true, bus := {} } }

/-- The command BANK_CHARGED. -/
def execBankCharged (s : State) : Host.Outcome State Fault Refusal :=
  onChip s (fun c => xBankCharged c)

/-- HOLD_UP_EXHAUSTED: AON and LUT lose power; what stays is flash and the one-time area (R76 step 7). -/
def xHoldUpExhausted (c : Chip) : Chip :=
  let due := match c.sys.removal with | some r => r.due | none => false
  if c.sys.aon ∧ c.sys.vin = false ∧ due = false then
    let sys : Sys := { contacts := c.sys.contacts, ovp := c.sys.ovp, svnMin := c.sys.svnMin, dumpSeq := c.sys.dumpSeq, recSeq := c.sys.recSeq }
    let keep (a : Nat) : Bool := decide (0x70000000 ≤ a)
    { mem := c.mem.filter (fun (e : Host.Cell) => keep e.1), poison := c.poison.filter keep, sbe := c.sbe.filter keep,
      free := c.free, out := c.out, sys := sys, pcie := { perst := c.pcie.perst } }
  else c

/-- The command HOLD_UP_EXHAUSTED. -/
def execHoldUpExhausted (s : State) : Host.Outcome State Fault Refusal :=
  onChip s (fun c => xHoldUpExhausted c)

/-- LUT is powered and the device enters BOOT (R66 step 6, R683 step 1, R701). -/
def bootStart (c : Chip) : Chip :=
  let wasReq := c.sys.attachReq
  let c := lutOff c
  let c := regPut (regClr (regUpd c (rGLB 0x020) (fun _ => wd 0x7E)) (rGLB 0x004) 7) (rGLB 0x024) 0
  let c := [0, 1, 2, 3, 4, 5, 6, 7].foldl (fun c i => regPut c (rGLB (0x080 + 4 * i)) 0) (regPut c (rGLB 0x030) 0)
  let c := regWrap c (rGLB 0x02C) 15 0 1
  let c := regClr c (rRET 0x004) 6
  let c := { c with fixedUnison := false }
  let sys := { c.sys with boot := .lutOn, identBuilt := true, attachReq := wasReq, attach := .unattached, removal := none,
                          owedErase := none, dumpErase := none, dumpDue := false, waking := false, gone := [] }
  setDev { c with lut := true, sys := sys } .boot 0

/-- Every domain but AON is reset, and insertion resumes at the presence count (R79, R684, R691). -/
def resetAllButAon (c : Chip) : Chip :=
  let c := lutOff (perOff (allOff c))
  let sys := { c.sys with attach := .unattached, removal := none, owedErase := none, dumpErase := none, dumpDue := false, woken := false,
                          crcs := [] }
  setDev { c with sys := sys } .boot 0

/-- PRESENCE_DEBOUNCE: both PRES_LATE contacts have been made for 20 ms with VIN_24 present: LUT is powered (R66 steps 5
and 6), unless LUT is powered already or a record is still being written (R79). -/
def xPresenceDebounce (c : Chip) : Chip :=
  let c := { c with sys := { c.sys with contacts := true } }
  if !c.sys.aon ∨ c.sys.vin = false then c
  else if c.dev = .hibernate ∧ c.sys.woken = false then c
  else if c.sys.attach = .removed then (if c.sys.removal.isSome then c else bootStart (resetAllButAon c))
  else if c.lut ∨ c.sys.lutRet ∨ c.sys.attach ≠ .unattached then c
  else bootStart c

/-- The command PRESENCE_DEBOUNCE. -/
def execPresenceDebounce (s : State) : Host.Outcome State Fault Refusal :=
  onChip s (fun c => xPresenceDebounce c)

/-- STRAP_SAMPLE: the straps are sampled, the peg-bus address is latched and fixed unison decided (R5, R673, R676,
R683). -/
def xStrapSample (c : Chip) (slot : BitVec 5) (fu : Bool) : Chip :=
  if c.sys.boot = .lutOn then
    let sys := { c.sys with slot := slot.toNat, bootFu := fu, pegAddr := some (Config.pgrp.toNat * 32 + slot.toNat), boot := .strapped }
    { c with sys := sys, fixedUnison := fu || Config.fuFuse }
  else c

/-- The command STRAP_SAMPLE. -/
def execStrapSample (slot : BitVec 5) (fu : Bool) (s : State) : Host.Outcome State Fault Refusal :=
  onChip s (fun c => xStrapSample c slot fu)

/-- The ROM enters rescue mode (R684). -/
def rescue (c : Chip) : Chip :=
  let c := loadConfig (regOr c (rGLB 0x004) 1)
  { c with sys := { c.sys with boot := .rescue, owedErase := owedAtBoot c } }

/-- FIRMWARE_CHECK: the ROM loader has checked both slot headers; bit 0 and bit 1 of `bad` say that the flash read of slot A
or B met an uncorrectable error (R680, R681, R683). -/
def xFirmwareCheck (c : Chip) (bad : BitVec 2) : Chip :=
  if c.sys.boot = .strapped then
    let c := regSetFld c (rGLB 0x020) 3 1 (fwJudge c false (bad.getLsbD 0))
    let c := regSetFld c (rGLB 0x020) 6 4 (fwJudge c true (bad.getLsbD 1))
    match fwChoose c with
    | some b => { c with sys := { c.sys with boot := .copying b } }
    | none => rescue c
  else c

/-- The command FIRMWARE_CHECK. -/
def execFirmwareCheck (bad : BitVec 2) (s : State) : Host.Outcome State Fault Refusal :=
  onChip s (fun c => xFirmwareCheck c bad)

/-- Gorene starts (R683 step 5): the strings of the luthier's course run from ENTRY. -/
def goreneStart (c : Chip) (b : Bool) : Chip :=
  let c := regPut (regSetFld c (rGLB 0x020) 0 0 (b1 b)) (rGLB 0x024) (wd (fwF c b 0x10 4))
  let c := (List.range 8).foldl (fun c i => regPut c (rGLB (0x080 + 4 * i)) (wordAt c (flashGa (fwSlot b + 0x20 + 4 * i)))) c
  let run (c : Chip) (k : Nat) : Chip := updCore c k (fun r => { r with pc := fwF c b 0x0C 4, halted := false, started := true })
  let c := loadConfig (takeSnap (run (run c 512) 513) luthierCourse)
  { c with sys := { c.sys with boot := .gorene, owedErase := owedAtBoot c } }

/-- BODY_COPY_DONE: the chosen body has been copied into the luthier's SRAM and hashed; it starts, or its slot is marked and
the other one is tried (R680, R681, R683). -/
def xBodyCopyDone (c : Chip) : Chip :=
  match c.sys.boot with
  | .copying b =>
    let l := bytesAt c (flashGa (fwSlot b + 0x100)) (fwF c b 0x08 4)
    let c := putBytes c 0x21000000 l
    if Config.sha256 l = bytesAt c (flashGa (fwSlot b + 0x20)) 32 then goreneStart c b
    else
      let c := if b then regSetFld c (rGLB 0x020) 6 4 2 else regSetFld c (rGLB 0x020) 3 1 2
      match fwChoose c with
      | some b => { c with sys := { c.sys with boot := .copying b } }
      | none => rescue c
  | _ => c

/-- The command BODY_COPY_DONE. -/
def execBodyCopyDone (s : State) : Host.Outcome State Fault Refusal :=
  onChip s (fun c => xBodyCopyDone c)

/-- The offset in flash of a dump slot (R664, R677). -/
def dumpSlot (i : Nat) : Nat := if i = 0 then 0x120000 else 0x220000

/-- Is a dump valid at a global address: MAGIC, HCRC and DCRC all hold (R660, R667)? A LENGTH that does not fit the area
fails. -/
def dumpValid (c : Chip) (ga size : Nat) : Bool :=
  let len := leNat c (ga + 0x08) 4
  decide (leNat c ga 4 = 0x504D5544) && decide (wordAt c (ga + 0xFC) = crc32 (bytesAt c ga 0xFC)) &&
    decide (256 ≤ len) && decide (len ≤ size) && decide (wordAt c (ga + 0xF8) = crc32 (bytesAt c (ga + 256) (len - 256)))

/-- Is a flash dump slot erased? -/
def dumpErased (c : Chip) (i : Nat) : Bool :=
  !c.mem.any (fun e => decide (flashGa (dumpSlot i) ≤ e.1) && decide (e.1 < flashGa (dumpSlot i + 0x100000)))

/-- The dump slot that stands erased is the next one; where neither does, the one that does not hold the latest dump is erased
(R664). -/
def dumpSlots (c : Chip) : Chip :=
  let seq (i : Nat) : Nat := leNat c (flashGa (dumpSlot i) + 0x0C) 4
  let ok (i : Nat) : Bool := dumpValid c (flashGa (dumpSlot i)) 0x100000
  if dumpErased c 0 then regSetFld c (rRET 0x02C) 0 0 0
  else if dumpErased c 1 then regSetFld c (rRET 0x02C) 0 0 1
  else
    let i := if ok 0 && (!ok 1 || decide (seq 1 ≤ seq 0)) then 1 else 0
    { (regSetFld c (rRET 0x02C) 0 0 i) with sys := { c.sys with dumpErase := some i } }

/-- The firmware's registers over its flash areas at the end of BOOT: the next removal-record and dump slots, the SEQ of the
last record (R664, R671). -/
def slotRegs (c : Chip) : Chip :=
  let c := regSetFld (dumpSlots c) (rRET 0x030) 5 0 (recNext c)
  if c.sys.recSeq = 0 then c else regPut c (rRET 0x034) (wd (c.sys.recSeq - 1))

/-- Attach begins by itself under the policy AUTO (R65, R66 step 8). -/
def autoAttach (c : Chip) : Chip :=
  { c with sys := { c.sys with attachReq := c.sys.attachReq || !c.sys.rack } }

/-- BOOT_COMPLETE: the device enters STANDBY, UNATTACHED; `us` is the time since LUT came on (R66 step 7, R682, R683). After a
wake from HIBERNATE the retention check has run (R632). -/
def xBootComplete (c : Chip) (us : Word) : Chip :=
  if (c.sys.boot = .gorene ∨ c.sys.boot = .rescue) ∧ c.sys.owedErase.isNone then
    let b := bit (regVal c (rGLB 0x020)) 0
    let svn := fwF c b 0x14 4
    let raise := decide (c.sys.boot = .gorene) && decide (fwF c b 0x18 4 % 2 = 1) && decide (svnMinOf c < svn)
    let c := slotRegs (regPut c (rGLB 0x030) us)
    let c := if c.sys.woken then markWake (retentionCheck c) else c
    let sys := { c.sys with boot := .none, woken := false, svnMin := if raise then some svn else c.sys.svnMin }
    autoAttach (setDev { c with sys := sys } .standby 0)
  else c

/-- The command BOOT_COMPLETE. -/
def execBootComplete (us : Word) (s : State) : Host.Outcome State Fault Refusal :=
  onChip s (fun c => xBootComplete c us)

/-- PER_POWERED: attach is complete (R66 step 9); an owed erase comes first (R80). -/
def xPerPowered (c : Chip) : Chip :=
  if c.sys.attachReq ∧ c.sys.attach = .unattached ∧ c.dev = .standby ∧ c.lut ∧ c.sys.per = false ∧ c.sys.owedErase = none then
    let c := perOn c
    setAttach { c with sys := { c.sys with attachReq := false, dumped := false } } .attached
  else c

/-- The command PER_POWERED. -/
def execPerPowered (s : State) : Host.Outcome State Fault Refusal :=
  onChip s (fun c => xPerPowered c)

/-! ### Ordered detach (R69 to R75) -/

/-- May a detach be accepted (R70)? -/
def detachLegal (c : Chip) : Bool :=
  decide (c.sys.attach = .attached) &&
    (decide (c.dev = .standby) || decide (c.dev = .configured) || decide (c.dev = .armed) || decide (c.dev = .running) ||
      decide (c.dev = .halted) || decide (c.dev = .faulted))

/-- The detach is accepted (R71 steps 1 and 2). -/
def detachBegin (c : Chip) (r : Option ReplyTo) (at_ : Bool) (stop : Word) (limit : Nat) : Chip :=
  let fields := recFields c (devCode c.dev) (2 * b1 (chgArmed c))
  let waits := at_ && decide (c.dev = .running) &&
    (match c.tab.active with | some b => decide (0 < sgn (stop - dronePos c (imDrone c b))) | none => false)
  let behind := decide (sgn (stop - servedH c) ≤ 0)
  let c := pulse (setAttach (setDev (endArm c 2) .detaching 0) .detaching) 976
  let sys := { c.sys with detach := some ⟨r, some stop, waits && behind, limit, false, false, false⟩,
                          removal := some ⟨3, 0, false, fields, 0, 0, 0⟩ }
  let c := { c with sys := sys }
  if waits then stopIfLast c else tabStop c

/-- Steps 4 to 6 of R71 once every course is reported halted: what is left when the channels stop is counted, the islands go off, the
completion is posted (R72, R73, R81). -/
def detachFinish (c : Chip) (d : Detach) : Chip :=
  let left := ((openChans c).filter (fun s => !isDrained c s)).length
  let items := (openChans c).foldl (fun n s => n + itemsOf c s) 0
  let others := c.accepted.filter (fun r => decide (some r ≠ d.reply))
  let c := others.foldl (fun c r => complete c r stSTATE 2) (allOff c)
  let c := { c with sys := { c.sys with power := none, halts := [], flash := none, flashWait := [] } }
  let c := match d.reply with
    | some r => complete c r (if d.fault then stFAULT else stOK) (wd left)
    | none => c
  let fl := 32 * b1 (c.sys.dumped || c.sys.dumpDue)
  let sys := { c.sys with detach := some { d with drain := false, halting := false }, perOffDue := true,
                          removal := c.sys.removal.map (fun r => { r with left := left, items := items, flags := fl }) }
  { c with sys := sys }

/-- Goes on with step 4 of R71 when the last course is reported halted. -/
def detachTry (c : Chip) : Chip :=
  match c.sys.detach with
  | some d =>
    if d.halting ∧ (liveCourses c).all (fun n => !courseOn c n || courseReported c n) then detachFinish c d else c
  | none => c

/-- Step 4 of R71 begins: every course is halted through its peg. -/
def detachHalt (c : Chip) : Chip :=
  let c := (liveCourses c).foldl requestHalt c
  detachTry { c with sys := { c.sys with detach := c.sys.detach.map (fun d => { d with drain := false, halting := true }) } }

/-- Does the drain of R71 step 3 run? -/
def draining (c : Chip) : Bool := match c.sys.detach with | some d => d.drain | none => false

/-- DRAIN_COMPLETE: every channel is drained (R71 step 3). -/
def xDrainComplete (c : Chip) : Chip :=
  if draining c ∧ (openChans c).all (isDrained c) then detachHalt c else c

/-- The command DRAIN_COMPLETE. -/
def execDrainComplete (s : State) : Host.Outcome State Fault Refusal :=
  onChip s (fun c => xDrainComplete c)

/-- DRAIN_LIMIT: the drain limit expires (R71 step 3). -/
def xDrainLimit (c : Chip) : Chip := if draining c then detachHalt c else c

/-- The command DRAIN_LIMIT. -/
def execDrainLimit (s : State) : Host.Outcome State Fault Refusal :=
  onChip s (fun c => xDrainLimit c)

/-- PER_SWITCH_OFF: the completion has been popped, or 10 ms have passed: PER is switched off, and in an entry into WATCH or
HIBERNATE the device enters it (R71 steps 7 and 8, R626 steps 5 and 6). -/
def xPerSwitchOff (c : Chip) : Chip :=
  if !c.sys.perOffDue then c
  else
    match c.sys.power with
    | some p => enterLow c (decide (p.mode = 2))
    | none =>
      let c := perOff c
      { c with sys := { c.sys with removal := c.sys.removal.map (fun r => { r with due := true }) } }

/-- The command PER_SWITCH_OFF. -/
def execPerSwitchOff (s : State) : Host.Outcome State Fault Refusal :=
  onChip s (fun c => xPerSwitchOff c)

/-- The 512 bytes of a removal record (R81). -/
def recBytes (c : Chip) (r : Removal) : List Byte :=
  let body := leBytes 4 0x31564D52 ++ leBytes 2 1 ++ leBytes 2 512 ++ leBytes 4 c.sys.recSeq ++ leBytes 1 r.cause ++ leBytes 1 r.flags ++
    r.bytes ++ leBytes 2 r.left ++ leBytes 4 r.items ++ leBytes 2 r.cmdopen ++ leBytes 2 0 ++ fixLen 16 Config.serial ++
    List.replicate 252 0
  body ++ bytesOfWord (crc32 body)

/-- REMOVAL_RECORD_WRITTEN: the record stands in flash (R71 step 9, R76 step 6, R79, R80). After an ordered detach the module is
UNATTACHED, and a loss of presence or input in the meantime switches LUT off (R78). -/
def xRemovalRecordWritten (c : Chip) : Chip :=
  match c.sys.removal with
  | none => c
  | some r =>
    if !r.due then c
    else
      let i := recNext c
      let c := putBytes c (flashGa (recSlot i)) (recBytes c r)
      let c := regPut c (rRET 0x034) (wd c.sys.recSeq)
      let c := regWrap (regSetFld c (rRET 0x030) 5 0 ((i + 1) % 64)) (rRET 0x030) 31 16 1
      let owed := if i % 32 = 31 then some (1 - i / 32) else c.sys.owedErase
      let c := { c with sys := { c.sys with recSeq := c.sys.recSeq + 1, removal := none, owedErase := owed } }
      if r.cause = 3 then
        let c := setDev (setAttach { c with sys := { c.sys with detach := none } } .unattached) .standby 0
        if !c.sys.contacts || !c.sys.vin then lutOff c
        else if bit (regVal c (rGLB 0x004)) 0 then resetAllButAon c
        else c
      else c

/-- The command REMOVAL_RECORD_WRITTEN. -/
def execRemovalRecordWritten (s : State) : Host.Outcome State Fault Refusal :=
  onChip s (fun c => xRemovalRecordWritten c)

/-! ### Wakes (R630 to R635) -/

/-- WAKE_FROM_WATCH: the converters run, LUT leaves retention, the retention check is made, and the device enters STANDBY,
UNATTACHED (R631). -/
def xWakeFromWatch (c : Chip) : Chip :=
  if c.dev = .watch ∧ c.sys.waking ∧ c.sys.lutRet then
    let c := markWake (retentionCheck { c with lut := true, sys := { c.sys with lutRet := false, waking := false } })
    autoAttach (pulse (setDev { c with sys := { c.sys with bus := {} } } .standby 0) 975)
  else c

/-- The command WAKE_FROM_WATCH. -/
def execWakeFromWatch (s : State) : Host.Outcome State Fault Refusal :=
  onChip s (fun c => xWakeFromWatch c)

/-- WAKE_FROM_HIBERNATE: STRAP_3V3, the lights, presence sensing and the converters are back; insertion goes on from the
presence count (R632). -/
def xWakeFromHibernate (c : Chip) : Chip :=
  if c.dev = .hibernate ∧ c.sys.waking then { c with sys := { c.sys with waking := false, woken := true, bus := {} } } else c

/-- The command WAKE_FROM_HIBERNATE. -/
def execWakeFromHibernate (s : State) : Host.Outcome State Fault Refusal :=
  onChip s (fun c => xWakeFromHibernate c)

/-! ### The peg bus (R688 to R691) -/

/-- Sends a reply frame: STATUS, LEN, data and CRC (R690). -/
def pegReply (c : Chip) (status : Nat) (data : List Byte) : Chip :=
  let b := leBytes 1 status ++ leBytes 1 data.length ++ data
  emit c (.peg ((b ++ [crc8 b]).flatMap byteToks))

/-- Tokens of the peg bus come in (R689, R690). A frame whose CRC fails is counted and gets no answer; one addressed to the
module, which has an address, is counted; a CMD outside the table is answered OPCODE (R691). `cmd` is the frame that is acted
on. -/
def pegFrame (c : Chip) (cmd : Byte) (tokens : List PegSym) (f : Chip → Byte → Chip) : Chip :=
  if !c.sys.aon then c
  else
    let (b, frame) := pegFeed c.sys.bus tokens
    let c := { c with sys := { c.sys with bus := b } }
    match frame, c.sys.pegAddr with
    | some [addr, k, param, crc], some own =>
      if crc8 [addr, k, param] ≠ crc then regCount c (rGLB 0x03C) 23 16 1
      else if addr.toNat ≠ own then c
      else if k = 0 ∨ 6 < k.toNat then pegReply (regWrap c (rGLB 0x03C) 15 0 1) stOPCODE []
      else if k = cmd then f (regWrap c (rGLB 0x03C) 15 0 1) param
      else c
    | _, _ => c

/-- The code of the attach status. -/
def attachCode : Attach → Nat
  | .unattached => 0 | .attached => 1 | .detaching => 2 | .removed => 3

/-- PEG_STATUS. -/
def xPegStatus (c : Chip) (tokens : List PegSym) : Chip :=
  pegFrame c 0x01 tokens (fun c param =>
    if param ≠ 0 then pegReply c stPARAM []
    else
      let fl := b1 (bit (regVal c (rGLB 0x004)) 0) + 2 * b1 c.fixedUnison + 4 * b1 (bit (regVal c (rRET 0x028)) 3)
      pegReply c stOK (leBytes 1 (devCode c.dev) ++ leBytes 1 (attachCode c.sys.attach) ++ leBytes 1 (regFld c (rRET 0x014) 7 0) ++
        leBytes 1 fl))

/-- The command PEG_STATUS. -/
def execPegStatus (first : PegSym) (rest : List PegSym) (s : State) : Host.Outcome State Fault Refusal :=
  onChip s (fun c => xPegStatus c (first :: rest))

/-- PEG_IDENT. -/
def xPegIdent (c : Chip) (tokens : List PegSym) : Chip :=
  pegFrame c 0x02 tokens (fun c param =>
    if param.toNat % 16 ≠ 0 ∨ 0x30 < param.toNat then pegReply c stPARAM []
    else pegReply c stOK (((identRecord c).drop param.toNat).take 16))

/-- The command PEG_IDENT. -/
def execPegIdent (first : PegSym) (rest : List PegSym) (s : State) : Host.Outcome State Fault Refusal :=
  onChip s (fun c => xPegIdent c (first :: rest))

/-- PEG_ATTACH (R66 step 8, R636). -/
def xPegAttach (c : Chip) (tokens : List PegSym) : Chip :=
  pegFrame c 0x03 tokens (fun c param =>
    if param ≠ 0 then pegReply c stPARAM []
    else if c.dev = .watch ∨ c.dev = .hibernate then
      wake (pegReply { c with sys := { c.sys with attachReq := true } } stOK []) 4 0
    else if c.dev = .boot ∨ c.sys.attach = .detaching ∨ c.sys.attach = .removed then pegReply c stSTATE []
    else if c.sys.attach = .attached then wake (pegReply c stOK []) 4 0
    else pegReply { c with sys := { c.sys with attachReq := true } } stOK [])

/-- The command PEG_ATTACH. -/
def execPegAttach (first : PegSym) (rest : List PegSym) (s : State) : Host.Outcome State Fault Refusal :=
  onChip s (fun c => xPegAttach c (first :: rest))

/-- PEG_DETACH: as DETACH with AT_POSITION 0 and 100 ms; during the wait for a stop position it ends the wait (R69,
R70). A failed luthier answers nothing (R655). -/
def xPegDetach (c : Chip) (tokens : List PegSym) : Chip :=
  pegFrame c 0x04 tokens (fun c param =>
    if param ≠ 0 then pegReply c stPARAM []
    else if (courseOf c luthierCourse).safe then c
    else if (stopPos c).isSome then tabStop (pegReply c stOK [])
    else if detachLegal c then detachBegin (pegReply c stOK []) none false 0 100
    else pegReply c stSTATE [])

/-- The command PEG_DETACH. -/
def execPegDetach (first : PegSym) (rest : List PegSym) (s : State) : Host.Outcome State Fault Refusal :=
  onChip s (fun c => xPegDetach c (first :: rest))

/-- PEG_WAKE. -/
def xPegWake (c : Chip) (tokens : List PegSym) : Chip :=
  pegFrame c 0x05 tokens (fun c param => if param ≠ 0 then pegReply c stPARAM [] else wake (pegReply c stOK []) 4 0)

/-- The command PEG_WAKE. -/
def execPegWake (first : PegSym) (rest : List PegSym) (s : State) : Host.Outcome State Fault Refusal :=
  onChip s (fun c => xPegWake c (first :: rest))

/-- PEG_RESET: after the reply every domain but AON is reset, and insertion resumes at the presence count. -/
def xPegReset (c : Chip) (tokens : List PegSym) : Chip :=
  pegFrame c 0x06 tokens (fun c param => if param ≠ 0x5A then pegReply c stPARAM [] else resetAllButAon (pegReply c stOK []))

/-- The command PEG_RESET. -/
def execPegReset (first : PegSym) (rest : List PegSym) (s : State) : Host.Outcome State Fault Refusal :=
  onChip s (fun c => xPegReset c (first :: rest))

end Sys2Proof.Machine
end

