-- ==== Sys2Proof/Machine/Regs.lean ====
section
/-! DEFINITION. Reads and writes of the register space by any requester (R9 to R12, R241 to R250, R277 to R286, R557 to R561,
R583 to R588, R640 to R644, R669 to R672, R692 to R720). -/

namespace Sys2Proof.Machine

open Sys2Proof

/-! ### GLB (R692, R693, R700) -/

/-- A word of an identity, key or lot byte string. -/
def wordOfBytes (l : List Byte) (n : Nat) : Word := wd (fieldAt l (4 * n) 4)

/-- A read of a GLB register. -/
def glbRead (c : Chip) (o : Nat) : Chip × Word :=
  let v := regVal c (rGLB o)
  if o = 0x004 then (c, setBits v 1 1 (b1 c.fixedUnison))
  else if o = 0x008 then (c, wd (c.sys.slot + 32 * b1 c.sys.bootFu))
  else if o = 0x00C then (c, match c.sys.pegAddr with | some n => wd n | none => 0)
  else if o = 0x010 then (c, wd (Config.wafer.toNat + 256 * Config.dieX.toNat + 65536 * Config.dieY.toNat))
  else if o = 0x014 then
    (c, wd (Config.bin.toNat + 256 * Config.speed.toNat + 4096 * Config.dieRev.toNat + 65536 * b1 Config.fuFuse + 131072 * b1 Config.optE))
  else if o = 0x018 ∨ o = 0x01C then (c, wordOfBytes (fixLen 6 Config.lot) ((o - 0x018) / 4))
  else if o = 0x020 then (c, setBits v 13 8 (svnMinOf c))
  else if o = 0x03C then (regSetFld c (rGLB o) 23 16 0, v)
  else if 0x040 ≤ o ∧ o < 0x080 then (c, wordOfBytes (identRecord c) ((o - 0x040) / 4))
  else if 0x0A0 ≤ o ∧ o < 0x0C0 then (c, wordOfBytes (fixLen 32 Config.keyHash) ((o - 0x0A0) / 4))
  else (c, v)

/-- A write of a GLB register. -/
def glbWrite (c : Chip) (o : Nat) (w : Word) : Chip := if o = 0x004 then regClr c (rGLB o) (w &&& 0x8000).toNat else c

/-! ### PWR (R640 to R644, R702) -/

/-- HS: a handshake is asking. -/
def hsAsking (c : Chip) : Bool := match c.sys.power with | some p => decide (p.target ≠ 0) | none => false

/-- Bit b: peg 32i + b is in a state. -/
def pegBits (c : Chip) (i : Nat) (s : PegState) : Word :=
  wd (maskOf ((List.range 32).filter (fun b => decide ((pegOf c (32 * i + b)).st = s))))

/-- Bit k: island k is in a state. -/
def islBits (c : Chip) (s : PegState) : Nat := maskOf ((List.range 8).filter (fun k => decide (islOf c k = s)))

/-- A read of a PWR register. The current of the standby regulator is not modelled: AONCUR reads an open value. -/
def pwrRead (c : Chip) (o : Nat) : Chip × Word :=
  let v := regVal c (rPWR o)
  if o = 0x000 then (c, setBits v 1 0 (b1 (hsAsking c)))
  else if o = 0x00C then (c, wd (islBits c .on + 256 * islBits c .ret))
  else if o = 0x010 ∨ o = 0x014 then (c, pegBits c ((o - 0x010) / 4) .on)
  else if o = 0x018 ∨ o = 0x01C then (c, pegBits c ((o - 0x018) / 4) .ret)
  else if o = 0x020 ∨ o = 0x028 ∨ o = 0x030 then (regSetFld c (rPWR o) 31 16 0, v)
  else if o = 0x02C then (regSetFld c (rPWR o) 31 16 0xFFFF, v)
  else if o = 0x034 then
    let (c, f) := fresh c
    (c, f &&& 0xFFFF)
  else if o = 0x05C ∨ (0x0A0 ≤ o ∧ o < 0x0C0) then (regPut c (rPWR o) 0, v)
  else (c, v)

/-- CFGERR of the PWR block. -/
def pwrCfgErr (c : Chip) : Chip := regOr c (rPWR 0x000) 0x8000

/-- A write of a PWR register. -/
def pwrWrite (c : Chip) (o : Nat) (w : Word) : Chip :=
  let w1c (m : Word) : Chip := regClr c (rPWR o) (w &&& m).toNat
  if o = 0x000 then w1c 0x8000
  else if o = 0x024 ∨ o = 0x028 then w1c 2
  else if o = 0x030 then w1c 1
  else if o = 0x03C then regPut c (rPWR o) (w &&& 0xFFFF)
  else if o = 0x040 then w1c 0xFFFF
  else if o = 0x044 then
    let v := w &&& 0xFFFFF
    let v1 := if bits v 15 0 = 0 then setBits v 15 0 0x3E8 else v
    let v2 := if bits v 19 16 = 0 then setBits v1 19 16 1 else v1
    regPut (if v2 = v then c else pwrCfgErr c) (rPWR o) v2
  else if o = 0x048 then regPut c (rPWR o) w
  else if o = 0x058 then regPut c (rPWR o) (w &&& 0x7FF)
  else if 0x080 ≤ o ∧ o < 0x0A0 then w1c 0x30000
  else if 0x0C0 ≤ o ∧ o < 0x100 then regPut c (rPWR o) (w &&& 0x1FFF)
  else c

/-! ### RET (R668 to R672, R709) -/

/-- LSTAT (R671). -/
def luthierStat (c : Chip) : Word :=
  let r := courseOf c luthierCourse
  setBits (setBits (regVal c (rRET 0x028)) 1 0 (if r.degraded then 2 else 1)) 2 2 (b1 (r.degraded && r.survB))

/-- A read of a RET register. DSTAT.VALID is 1 only while the dump written to the dump area is valid (R667). -/
def retRead (c : Chip) (o : Nat) : Chip × Word :=
  let v := regVal c (rRET o)
  if o = 0x04 then (c, setBits v 0 0 (b1 (bit v 0 && dumpValid c (dumpArea c).1 (dumpArea c).2)))
  else if o = 0x24 then (regSetFld c (rRET o) 31 16 0, v)
  else if o = 0x28 then (c, luthierStat c)
  else if o = 0x2C then
    let f (i : Nat) : Nat := b1 (dumpValid c (flashGa (dumpSlot i)) 0x100000)
    (c, wd (bits v 0 0 + 2 * f 0 + 4 * f 1 + 8 * b1 c.sys.dumpErase.isSome))
  else if o = 0x38 then (regPut c (rRET o) 0, v)
  else if o = 0x3C then (c, 0)
  else (c, v)

/-- A write of FORCE (R672): a fatal error with cause 10, ignored in FAULTED and where no command is legal. -/
def retForce (c : Chip) : Chip := if c.dev = .faulted ∨ hostStates c = false then c else fatal c 10 0

/-- A write of a RET register. -/
def retWrite (c : Chip) (o : Nat) (w : Word) : Chip :=
  if o = 0x00 then
    if bit (regVal c (rRET 0x04)) 1 then c
    else if 15 < bits w 3 0 + bits w 7 4 then regOr (regPut c (rRET o) 0x1F0) (rRET 0x04) 0x8000
    else regPut c (rRET o) (w &&& 0x1FF)
  else if o = 0x04 then regClr c (rRET o) (w &&& 0x8020).toNat
  else if o = 0x10 then regPut c (rRET o) (w &&& 3)
  else if o = 0x3C then (if bit w 0 then retForce c else c)
  else c

/-! ### CMD (R522 to R530, R557 to R561, R705) -/

/-- RPEEK: the oldest reply word, or NOT_READY. -/
def rpeek (c : Chip) (q : Nat) : Word := (queueOf c q).replies.headD 0xFF

/-- A read of RPOP (R530). -/
def rpop (c : Chip) (q : Nat) : Chip × Word := (updQueue c q (fun r => { r with replies := r.replies.drop 1 }), rpeek c q)

/-- A read of a CMD register. -/
def cmdRead (c : Chip) (o : Nat) : Chip × Word :=
  let q := o / 0x20
  let r := o % 0x20
  let v := regVal c (rCMD q r)
  if r = 0x08 then (c, setBits v 31 16 (queueOf c q).head)
  else if r = 0x0C then (c, wd (queueOf c q).tail)
  else if r = 0x10 then rpop c q
  else if r = 0x14 then (c, rpeek c q)
  else (c, v)

/-- CFGERR of the CMD block. -/
def cmdCfgErr (c : Chip) : Chip := regOr c (rCMD 0 0x08) 0x8000

/-- Is a queue enabled? -/
def queueEn (c : Chip) (q : Nat) : Bool := bit (regVal c (rCMD q 0x08)) 4

/-- A write of CCTL (R524, R531, R559): EN from 0 to 1 starts the ring and the sequence numbers afresh. -/
def cctlWrite (c : Chip) (q : Nat) (w : Word) : Chip :=
  let old := regVal c (rCMD q 0x08)
  let was := bit old 4
  let c := regClr c (rCMD q 0x08) (w &&& (if q = 0 then 0x8100 else 0x100)).toNat
  let c :=
    if was then c
    else if 2 ≤ bits w 3 0 ∧ bits w 3 0 ≤ 12 then regSetFld c (rCMD q 0x08) 3 0 (bits w 3 0)
    else cmdCfgErr (regSetFld c (rCMD q 0x08) 3 0 4)
  let c := regSetFld c (rCMD q 0x08) 4 4 (b1 (bit w 4))
  if bit w 4 ∧ was = false then updQueue c q (fun r => { r with head := 0, tail := 0, expect := none }) else c

/-- A write of CDB (R524, R560). -/
def cdbWrite (c : Chip) (q : Nat) (w : Word) : Chip :=
  if queueEn c q = false then c
  else if 2 ^ regFld c (rCMD q 0x08) 3 0 ≤ bits w 15 0 then cmdCfgErr (updQueue c q (fun r => { r with tail := 0 }))
  else updQueue c q (fun r => { r with tail := bits w 15 0 })

/-- A write of a CMD register. -/
def cmdWrite (c : Chip) (o : Nat) (w : Word) : Chip :=
  let q := o / 0x20
  let r := o % 0x20
  if r = 0x00 then (if queueEn c q then c else regPut c (rCMD q r) (w &&& 0xFFFFF000))
  else if r = 0x04 then (if queueEn c q then c else regPut c (rCMD q r) w)
  else if r = 0x08 then cctlWrite c q w
  else if r = 0x0C then cdbWrite c q w
  else c

/-! ### EDG (R583, R587, R708) -/

/-- EDG register. -/
def rEDG (o : Nat) : Nat := 0x60007000 + o

/-- Is an EDG register read-clear? -/
def edgRc (o : Nat) : Bool :=
  o = 0x008 || (decide (0x028 ≤ o) && decide (o ≤ 0x034)) || o = 0x03C || (decide (0x044 ≤ o) && decide (o < 0x080))

/-- A read of an EDG register. -/
def edgRead (c : Chip) (o : Nat) : Chip × Word :=
  let v := regVal c (rEDG o)
  if edgRc o then (regPut c (rEDG o) 0, v)
  else if o = 0x010 then (c, srcStat c (regFld c (rEDG 0x00C) 9 0))
  else if o = 0x014 ∨ o = 0x01C then (c, 0)
  else if o = 0x018 then hpop c
  else if o = 0x020 then (c, actSum c)
  else (c, v)

/-- A write of an EDG register. -/
def edgWrite (c : Chip) (o : Nat) (w : Word) : Chip :=
  if o = 0x000 then edgCtl c w
  else if o = 0x004 then regClr c (rEDG o) (w &&& 0x8007).toNat
  else if o = 0x00C then regPut c (rEDG o) (w &&& 0x3FF)
  else if o = 0x014 then edgRaise c w
  else if o = 0x01C then completeBy c 0x3FF w
  else c

/-! ### CL (R277 to R286, R588, R717, R718) -/

/-- The cores 16k to 16k + 15 of a cluster whose domain is on, as bits (R718). -/
def slBits (c : Chip) (k : Nat) (f : Nat → Bool) : Nat :=
  maskOf ((List.range 16).filter (fun i => courseOn c (courseNo (16 * k + i)) && f (16 * k + i)))

/-- CPL of eight cores from `a`, a nibble each (R588). -/
def cplWord (c : Chip) (a : Nat) : Word :=
  wd ((List.range 8).foldl (fun n i =>
    n + 16 ^ i * (if courseOn c (courseNo (a + i)) then bits (csrVal c (a + i) 0x19) 3 0 else 0)) 0)

/-- Is a core in SLEEP? -/
def inSleep (c : Chip) (k : Nat) : Bool := match (coreOf c k).wait with | some w => decide (w.kind = 1) | none => false

/-- A read of RSTALL: of the flits the router has sent since the last read an open number waited for want of a credit (R281). -/
def stallRead (c : Chip) (k : Nat) : Chip × Word :=
  let sent := Tbl.get 0 c.flits k
  let (n, seen) := Tbl.get (0, 0) c.stalls k
  if sent = seen then (c, n)
  else
    let (c, v) := fresh c
    let n := n + v % (sent - seen + 1)
    ({ c with stalls := Tbl.put (0, 0) c.stalls k (n, sent) }, n)

/-- A read of a CL register. -/
def clRead (c : Chip) (k o : Nat) : Chip × Word :=
  let v := regVal c (clReg k o)
  if o = 0x08 then (c, Tbl.get 0 c.flits k)
  else if o = 0x0C then stallRead c k
  else if o = 0x18 then (regPut c (clReg k o) 0, v)
  else if 0x40 ≤ o ∧ o < 0x60 then camRegRead c k ((o - 0x40) / 4)
  else if o = 0x88 then (c, wd (slBits c k (reqUp c) + 65536 * slBits c k (inSleep c)))
  else if o = 0x8C then (c, cplWord c (16 * k))
  else if o = 0x90 then (c, cplWord c (16 * k + 8))
  else if o = 0x94 then (regSetFld c (clReg k o) 31 16 0, v)
  else (c, v)

/-- CFGERR of a CL block. -/
def clCfgErr (c : Chip) (k : Nat) : Chip := regOr c (clReg k 0x04) 0x8000

/-- The input ports of a cluster's router: the gateway's on four clusters only (R280). -/
def linkMask (k : Nat) : Word := if k = 0 ∨ k = 11 ∨ k = 20 ∨ k = 31 then 0x3F else 0x1F

/-- A write of ECCSTAT: USRC, UCORE and the address return to 0 with UE and UEL (R283, R285). -/
def eccStatWrite (c : Chip) (k : Nat) (w : Word) : Chip :=
  let c := regClr c (clReg k 0x14) (w &&& 0x1F).toNat
  if regFld c (clReg k 0x14) 2 1 = 0 then regPut (regClr c (clReg k 0x14) 0xF700) (clReg k 0x1C) 0 else c

/-- A write of ECCINJ (R286). -/
def eccInjWrite (c : Chip) (k : Nat) (w : Word) : Chip :=
  let v := w &&& 0x3F3F
  let v1 := if bits v 1 0 = 3 then setBits v 1 0 0 else v
  let v2 := if 38 < bits v 13 8 then setBits v1 13 8 0 else v1
  regPut (if v2 = v then c else clCfgErr c k) (clReg k 0x24) v2

/-- A change of a spread group's mask: target sets are judged afresh (R573, R588). -/
def groupWrite (c : Chip) (k o : Nat) (w : Word) : Chip := recheckAll (regPut c (clReg k o) w)

/-- A write of a CL register. -/
def clWrite (c : Chip) (k o : Nat) (w : Word) : Chip :=
  if o = 0x00 then
    let v := w &&& 0x303
    if bits v 9 8 = 3 then clCfgErr (regPut c (clReg k o) (setBits v 9 8 1)) k else regPut c (clReg k o) v
  else if o = 0x04 then regClr c (clReg k o) (w &&& (0x8340 ||| linkMask k)).toNat
  else if o = 0x10 then
    let v := w &&& 0xFF03
    if bits v 15 8 = 0 then clCfgErr (regPut c (clReg k o) (setBits v 15 8 0x10)) k else regPut c (clReg k o) v
  else if o = 0x14 then eccStatWrite c k w
  else if o = 0x24 then eccInjWrite c k w
  else if 0x40 ≤ o ∧ o < 0x60 then camRegWrite c k ((o - 0x40) / 4) w
  else if o = 0x80 ∨ o = 0x84 then groupWrite c k o w
  else c

/-! ### CO (R241 to R247, R719, R720) -/

/-- STAT of a course (R243, R720). -/
def coStat (c : Chip) (n : Nat) : Word :=
  let r := courseOf c n
  wd ((if c.fixedUnison then 3 else r.mode) + 4 * b1 (courseHalted c n) + 8 * b1 (decide (r.check ≠ 0)) + 16 * b1 r.degraded +
    32 * b1 r.safe + 64 * b1 (r.degraded && r.survB) + 256 * b1 r.tflt + 512 * b1 r.badA + 1024 * b1 r.badB + 2048 * b1 r.dtrap +
    8192 * b1 r.mism + 16384 * b1 r.replay)

/-- SKEW of a course (R245). -/
def coSkew (c : Chip) (n : Nat) : Word :=
  let r := courseOf c n
  let lead := if inUnison c n then (coreOf c (2 * n)).words - (coreOf c (2 * n + 1)).words else 0
  let rlog := if r.mcause = 7 ∧ r.safe then (r.log.filter (fun e => !e.aTook)).length else r.log.length
  wd (sat lead 0xFFFF + 65536 * sat (r.pairs.length + r.bHalves.length) 64 + 16777216 * sat rlog 32)

/-- A read of a CO register. -/
def coRead (c : Chip) (n o : Nat) : Word :=
  let r := courseOf c n
  if o = 0x00 then (match r.ctlPend with | some w => w | none => r.ctl)
  else if o = 0x04 then coStat c n
  else if o = 0x08 then
    wd (r.mcause + 16 * r.verdict + 256 * r.dtcause + 65536 * (r.entry % 64) + 4194304 * b1 r.dtstrB)
  else if o = 0x0C then coSkew c n
  else if o = 0x10 then wd (r.ckpts % 65536 + 65536 * r.miscnt + 16777216 * r.tfcnt)
  else if o = 0x14 then r.safeReg
  else 0

/-- A write of CO.CTL: at the next checkpoint, or at once outside unison or while the domain is OFF; in RETENTION it waits for
the checkpoint too (R242, R720). -/
def coCtl (c : Chip) (n : Nat) (w : Word) : Chip :=
  if inUnison c n && decide ((pegOf c (pegOfCourse n)).st ≠ .off) then updCourse c n (fun r => { r with ctlPend := some (w &&& 3) })
  else updCourse c n (fun r => { r with ctl := w &&& 3, ctlPend := none })

/-- A write of a CO register. -/
def coWrite (c : Chip) (n o : Nat) (w : Word) : Chip :=
  if o = 0x00 then coCtl c n w
  else if o = 0x04 then
    updCourse c n (fun r =>
      { r with dtrap := r.dtrap && !bit w 11, mism := r.mism && !bit w 13, replay := r.replay && !bit w 14 })
  else if o = 0x14 then updCourse c n (fun r => { r with safeReg := w &&& 0xFFFF })
  else c

/-! ### The register space (R694, R710, R711) -/

/-- A read of a register by its address; where no register lies it reads 0 (R250, R711). -/
def regRead (c : Chip) (a : Nat) : Chip × Word :=
  if !regPopulated a then (c, 0)
  else
    let o := a % 0x1000
    match a / 0x1000 with
    | 0x60000 => glbRead c o
    | 0x60001 => pwrRead c o
    | 0x60002 => clkRead c o
    | 0x60003 => hstRead c o
    | 0x60004 => cmdRead c o
    | 0x60005 => tabRead c o
    | 0x60006 => (c, drnRead c (o / 0x20) (o % 0x20))
    | 0x60007 => edgRead c o
    | 0x60008 => retRead c o
    | 0x60010 => (c, regVal c a)
    | _ =>
      if a < 0x60200000 then fpRead c ((a - 0x60100000) / 0x40) (a % 0x40)
      else if a < 0x60300000 then clRead c ((a - 0x60200000) / 0x100) (a % 0x100)
      else (c, coRead c ((a - 0x60300000) / 0x20) (a % 0x20))

/-- A write of a register by its address; answers whether it takes the error response (R437). -/
def regWrite (c : Chip) (a : Nat) (w : Word) : Chip × Bool :=
  if !regPopulated a then (c, false)
  else
    let o := a % 0x1000
    match a / 0x1000 with
    | 0x60000 => (glbWrite c o w, false)
    | 0x60001 => (pwrWrite c o w, false)
    | 0x60002 => (clkWrite c o w, false)
    | 0x60003 => (hstWrite c o w, false)
    | 0x60004 => (cmdWrite c o w, false)
    | 0x60005 => (tabWrite c o w, false)
    | 0x60006 => (drnWrite c (o / 0x20) (o % 0x20) w, false)
    | 0x60007 => (edgWrite c o w, false)
    | 0x60008 => (retWrite c o w, false)
    | 0x60010 => (edsWrite c ((a - 0x60010000) / 4) w, false)
    | _ =>
      if a < 0x60200000 then fpWriteAny c ((a - 0x60100000) / 0x40) (a % 0x40) w
      else if a < 0x60300000 then (clWrite c ((a - 0x60200000) / 0x100) (a % 0x100) w, false)
      else (coWrite c ((a - 0x60300000) / 0x20) (a % 0x20) w, false)

/-- Is a register reached without PER: the luthier's own port (R696)? -/
def lutPort (a : Nat) : Bool := !perHeld a && decide (a < 0x60009000)

/-- Can a register-space access of a requester be performed: PER on, or the luthier's own port (R696)? -/
def regReach (c : Chip) (luthier : Bool) (a : Nat) : Bool := c.sys.per || (luthier && c.lut && lutPort a)

end Sys2Proof.Machine
end

