-- ==== Sys2Proof/Machine/Async.lean ====
section
/-! DEFINITION. What the data fabric and the memories do with the requests of the strings: accesses performed, results landed,
stores drained and acknowledged, patrol scrubbing, flit errors (R23, R99 to R113, R179 to R186, R200, R201, R249 to R272,
R286). -/

namespace Sys2Proof.Machine

open Sys2Proof

/-! ### Accesses performed (R28, R112, R179 to R186, R249 to R258, R268 to R270) -/

/-- The target of an address of a string. -/
def tgtOf (k a : Nat) : Tgt := target (some (courseNo k)) a

/-- A bank whose clear runs is already 0 up to a point that is not promised: an open part of it is cleared (R352). -/
def clearSome (c : Chip) (b : Nat) : Chip :=
  if (if b = 0 then c.tab.clearA.isSome else c.tab.clearB.isSome) then
    let (c, f) := fresh c
    clearRange c (tabGa b 0) (tabGa b 0 + f.toNat % 0x800001)
  else c

/-- Is an access to the periphery beside the register space possible: PER on, or the luthier's own path? -/
def perReach (c : Chip) (k : Nat) : Bool := c.sys.per || decide (512 ≤ k)

/-- A read of a register by a string (R9, R113): one that is not an aligned word has no stated result, and whether its side
effects happen is open. -/
def regLoad (c : Chip) (k a size : Nat) : Chip × Acc :=
  if !regReach c (decide (512 ≤ k)) a then (c, .off)
  else if size = 4 ∧ a % 4 = 0 then
    let (c, w) := regRead c a
    (c, .good w false)
  else
    let (c, f) := fresh c
    let (c, w) := fresh c
    ((if bit f 0 then (regRead c (a / 4 * 4)).1 else c), .good w false)

/-- A write of a register by a string (R9, R437): one that is not an aligned word has no stated effect: an open value is
written, or none. -/
def regStore (c : Chip) (k a size : Nat) (w : Word) : Chip × Acc :=
  if !regReach c (decide (512 ≤ k)) a then (c, .off)
  else if size = 4 ∧ a % 4 = 0 then
    let (c, err) := regWrite c a w
    (c, if err then .err else .good 0 false)
  else
    let (c, f) := fresh c
    let (c, v) := fresh c
    ((if bit f 0 then (regWrite c (a / 4 * 4) v).1 else c), .good 0 false)

/-- Reads the word that holds an address of a string; `size` matters in the register space alone. -/
def readTgt (c : Chip) (k a size : Nat) : Chip × Acc :=
  match tgtOf k a with
  | .sram n o =>
    if courseOn c n then
      let (c, w, p) := readWord c (Tgt.sram n o).ga 3 k
      (c, .good w p)
    else (countOff c (pegOfCourse n), .off)
  | .store j o =>
    let p := 2 * j + o / 0x40000
    if gateOpen c p then
      let (c, w, q) := readWord c (Tgt.store j o).ga 3 k
      (c, .good w q)
    else (countOff c p, .off)
  | .tab b o =>
    if perReach c k then
      let c := clearSome c b
      let (c, w, p) := readWord c (tabGa b o) 3 k
      (c, .good w p)
    else (c, .off)
  | .ret o => if perReach c k then (c, .good (wordAt c (0x50000000 + o / 4 * 4)) false) else (c, .off)
  | .reg r => regLoad c k r size
  | .flash o => if perReach c k then (c, .good (wordAt c (flashGa (o / 4 * 4))) false) else (c, .off)
  | .rom o => (c, .good (Config.romWord (o / 4)) false)
  | .nowhere => (c, .unpop)

/-- Is an offset of the retention store in the dump area while a dump is written (R658)? -/
def inDumpArea (c : Chip) (o : Nat) : Bool :=
  let d := regVal c (rRET 0x00)
  bit (regVal c (rRET 0x04)) 1 && decide (bits d 3 0 * 0x10000 ≤ o) && decide (o < (bits d 3 0 + bits d 7 4 + 1) * 0x10000)

/-- Does a bank accept stores: OPEN and not being cleared (R350, R352)? -/
def bankTakes (c : Chip) (b : Nat) : Bool :=
  decide (bankState c b = 1) && !(if b = 0 then c.tab.clearA.isSome else c.tab.clearB.isSome)

/-- Writes bytes of a word without check bits. -/
def plainStore (c : Chip) (ga size : Nat) (w : Word) : Chip := putLe c ga size w.toNat

/-- Performs a store of string `k` (R208, R209, R256, R257, R267 to R270, R350, R658). -/
def storeTgt (c : Chip) (k a size : Nat) (w : Word) (psn : Bool) : Chip × Acc :=
  let t := tgtOf k a
  match t with
  | .sram n _ =>
    if !courseOn c n then (countOff c (pegOfCourse n), .off)
    else if n ≠ courseNo k ∧ rejectsWrites c n then (c, .deny)
    else (writeMem c t.ga size w psn (some k), .good 0 false)
  | .store j o =>
    let p := 2 * j + o / 0x40000
    if gateOpen c p then (writeMem c t.ga size w psn (some k), .good 0 false) else (countOff c p, .off)
  | .tab b o =>
    if !perReach c k then (c, .off)
    else if bankTakes c b then (writeMem c (tabGa b o) size w psn (some k), .good 0 false)
    else (c, .err)
  | .ret o =>
    if !perReach c k then (c, .off)
    else if inDumpArea c o then (c, .err)
    else (plainStore c (0x50000000 + o) size w, .good 0 false)
  | .reg r => regStore c k r size w
  | _ => (c, .unpop)

/-- The sticky bits of the issuing cluster's router: OFFRSP and UNMAP (R269, R280). -/
def noteAcc (c : Chip) (k : Nat) (r : Acc) : Chip :=
  if 512 ≤ k then c
  else
    let a := clReg (clusterOf (courseNo k)) 0x04
    match r with
    | .off => regOr c a 0x200
    | .unpop => regOr c a 0x100
    | _ => c

/-- The trap of an access that ends otherwise than well: BUSOFF, BUSDENY or POISON. -/
def accTrap : Acc → Nat
  | .good _ p => if p then 0x14 else 0
  | .deny => 0x11
  | _ => 0x10

/-- LDR, AGREE or LR is performed (R179, R181, R256, R268). -/
def doLoad (c : Chip) (k : Nat) (q : BusReq) : Chip :=
  let t := tgtOf k q.addr
  let (c, r) := readTgt c k q.addr q.size
  let c := noteAcc c k r
  match r with
  | .good w p =>
    let c := if q.kind = 3 ∧ p = false ∧ t.bank.isSome then placeResv c k t q.data.toNat else c
    fillFlight c k q.slot (landBytes q.addr w) (if p then 0x14 else 0)
  | r => fillFlight c k q.slot (fun _ => 0xFFFFFFFF) (accTrap r)

/-- TAS is performed (R179, R180, R256, R268, R270). -/
def doTas (c : Chip) (k : Nat) (q : BusReq) : Chip :=
  let t := tgtOf k q.addr
  let denied := match t with | .sram n _ => decide (n ≠ courseNo k) && courseOn c n && rejectsWrites c n | _ => false
  if denied then fillFlight c k q.slot (fun _ => 1) 0x11
  else if t.bank.isNone ∧ t ≠ .nowhere then fillFlight c k q.slot (fun _ => 1) 0
  else
    let (c, r) := readTgt c k q.addr 4
    let c := noteAcc c k r
    match r with
    | .good w p =>
      let c := if p then c else writeWord c t.ga 1 false (some k)
      fillFlight c k q.slot (fun _ => w) (if p then 0x14 else 0)
    | r => fillFlight c k q.slot (fun _ => 0xFFFFFFFF) (accTrap r)

/-- SC, the string's request `i`, is performed; the string then holds no reservation, one of an earlier LR still on its way
included (R179, R182, R184, R256, R268, R270). One whose string has been reset since holds none. -/
def doSc (c : Chip) (k i : Nat) (q : BusReq) : Chip :=
  let t := tgtOf k q.addr
  let holds := resvCovers c k t && decide (q.slot < 4)
  let c := if q.slot < 4 then
      updCore c k (fun r => { r with resv := none, bus := (r.bus.take i).map loseReq ++ r.bus.drop i })
    else c
  let denied := match t with | .sram n _ => decide (n ≠ courseNo k) && courseOn c n && rejectsWrites c n | _ => false
  if denied then fillFlight c k q.slot (fun _ => 0) 0x11
  else if t.bank.isNone ∧ t ≠ .nowhere then fillFlight c k q.slot (fun _ => 0) 0
  else
    let (c, r) := readTgt c k q.addr 4
    let c := noteAcc c k r
    match r with
    | .good _ p =>
      let ok := holds && !p
      let c := if ok then writeWord c t.ga q.data q.psn (some k) else c
      fillFlight c k q.slot (fun _ => if ok then 1 else 0) 0
    | r => fillFlight c k q.slot (fun _ => 0) (accTrap r)

/-- Drops a request that has been performed and leaves nothing to acknowledge; a store waits for its acknowledgement. -/
def dropReq (c : Chip) (k i : Nat) : Chip := updCore c k (fun r => { r with bus := r.bus.take i ++ r.bus.drop (i + 1) })

/-- How an acknowledgement answers: 0 done, 1 error, 2 rejection. -/
def accResp : Acc → Nat
  | .good _ _ => 0
  | .deny => 2
  | _ => 1

/-- Performs request `i` of a string; the store of one that has been reset since waits for no acknowledgement. -/
def performReq (c : Chip) (k i : Nat) (q : BusReq) : Chip :=
  let c := accessFlits c k q.kind (tgtOf k q.addr)
  if q.kind = 1 then
    let (c, r) := storeTgt c k q.addr q.size q.data q.psn
    if q.slot = 4 then dropReq (noteAcc c k r) k i
    else updCore (noteAcc c k r) k (fun x => { x with bus := x.bus.set i { q with done := true, resp := accResp r } })
  else
    let c := dropReq c k i
    if q.kind = 2 then doTas c k q else if q.kind = 4 then doSc c k i q else doLoad c k q

/-- The requests of a string with their places. -/
def reqs (c : Chip) (k : Nat) : List (Nat × BusReq) := ((coreOf c k).bus.zipIdx).map (fun x => (x.2, x.1))

/-- Is request `i` the first one of its target unit that has not been performed (R200, R201, R251, R266), and does it reach its
target? -/
def mayPerform (c : Chip) (k i : Nat) (q : BusReq) : Bool :=
  let u := (tgtOf k q.addr).unit
  !q.done && !((coreOf c k).bus.take i).any (fun x => !x.done && decide ((tgtOf k x.addr).unit = u)) &&
    !heldUp c k (tgtOf k q.addr) false && !(match tgtOf k q.addr with | .reg r => camBusy c r | _ => false)

/-- A waiting barrier of a string whose course goes on. -/
def barrierGo (c : Chip) (k : Nat) : Chip := if running c k then barrierCheck c k else c

/-- The next request of string `k` that bank `b` can perform. -/
def bankReq (c : Chip) (b k : Nat) : Option (Nat × BusReq) :=
  (reqs c k).find? (fun x => mayPerform c k x.1 x.2 && decide ((tgtOf k x.2.addr).bank = some b))

/-- The input port at which a string's requests reach a bank: of a cluster store 0 the local port and 1 the mesh, of an SRAM its
strings 0 and 1, fetch 2 and the remote port 3 (R252). -/
def bankPort (b k : Nat) : Nat :=
  if b < 300 then (if courseNo k = b then k % 2 else 3)
  else if k < 512 ∧ clusterOf (courseNo k) = (b - 300) / 2 then 0 else 1

/-- The cluster whose record of the gather in progress is to be read from a bank, and has not been. -/
def gatherRead (c : Chip) (b : Nat) : Option (Nat × Gather) :=
  match c.tab.gather with
  | some g =>
    let k := (b - 300) / 2
    if 300 ≤ b ∧ g.mask.testBit k ∧ b = 300 + 2 * k + g.off / 0x40000 ∧ hasRecord g k = false then some (k, g) else none
  | none => none

/-- The requesters that wait at a bank, behind those that already do those that `arrived` names. -/
def bankWaits (c : Chip) (b : Nat) (arrived : List Nat) : List Nat :=
  ((Tbl.get {} c.banks b).waiting ++ arrived).eraseDups.filter (fun k =>
    if k = 1024 then (gatherRead c b).isSome else (bankReq c b k).isSome)

/-- The request the arbiter serves next: round the input ports from the one behind the last, the first to arrive at its port
(R252). -/
def bankNext (b last : Nat) (l : List Nat) : Option Nat :=
  ([1, 2, 3, 4].filterMap (fun i => l.find? (fun k => decide (bankPort b k = (last + i) % 4)))).head?

/-- MEMORY_ACCESS: the arbiter of bank `b` performs one access: a gather read ahead of every other, then round its input ports;
`arrived` names the requesters whose requests have come in by now, in their order, 1024 the gather (R251, R252, R254). -/
def xMemoryAccess (c : Chip) (b : Nat) (arrived : List Nat) : Chip :=
  let l := bankWaits c b arrived
  let last := (Tbl.get {} c.banks b).last
  let put (c : Chip) (l : List Nat) (p : Nat) : Chip := { c with banks := Tbl.put {} c.banks b ⟨l, p⟩ }
  match (if 1024 ∈ l then gatherRead c b else none) with
  | some (k, g) =>
    let (c, g) := readGather c g k
    put { c with tab := { c.tab with gather := some g } } (l.filter (· ≠ 1024)) last
  | none =>
    match bankNext b last l with
    | some k =>
      (match bankReq c b k with
      | some (i, q) => performReq (put c (l.filter (· ≠ k)) (bankPort b k)) k i q
      | none => c)
    | none => c

/-- The command MEMORY_ACCESS on units that exist. -/
def execMemoryAccess (b : Nat) (arrived : List Nat) (s : State) : Host.Outcome State Fault Refusal :=
  onUnit (areRequesters arrived) s (fun c => xMemoryAccess c b arrived)

/-! ### Landing (R100, R105, R106, R108, R213, R217) -/

/-- Does each string of a course in unison raise the trap of a flight for itself: DIVZ, a word of its own SRAM, and in fixed
unison the reads that each makes for itself (R217, R239)? -/
def eachRaises (c : Chip) (k : Nat) (f : Flight) : Bool :=
  decide (f.op = 0x27) || ((decide (f.op = 0x20) || decide (f.op = 0x25)) && ownSram k f.addr) ||
    (c.fixedUnison && ((decide (f.op = 0x20) && !inRegs f.addr) || (decide (0x71 ≤ f.op) && decide (f.op ≤ 0x77) && decide (f.op ≠ 0x75) &&
      decide (f.op ≠ 0x76))))

/-- The trap a flight raises as it lands (R108, R194, R196). -/
def flightTrap (c : Chip) (k : Nat) (f : Flight) : ITrap := ⟨f.trap, false, f.slot, f.code, f.ipc, f.taddr, eachRaises c k f⟩

/-- The entry of string A's read receives its values, and the trap it raises, which a replay raises again (R226). -/
def fillLog (c : Chip) (k : Nat) (f : Flight) : Chip :=
  let t := if f.trap = 0 then none else some (flightTrap c k f)
  updCourse c (courseNo k) (fun r =>
    { r with log := logTrim (r.log.map (fun e =>
        if e.ready = false ∧ e.slot = f.slot ∧ e.kind = f.op then
          { e with ready := true, vals := if f.wide then [f.lo, f.hi] else [f.lo], trap := t } else e)) })

/-- A formed result lands. -/
def landNow (c : Chip) (k : Nat) (f : Flight) : Chip :=
  let c := putSlot c k f.slot f.lo
  let c := if f.wide then putSlot c k (f.slot + 1) f.hi else c
  let fl := csrVal c k 0x01
  let fl := if f.setV then setBits fl 1 1 1 else fl
  let fl := if f.setDZ then setBits fl 2 2 1 else fl
  let c := csrPut c k 0x01 fl
  let c := updCore c k (fun r => { r with flights := r.flights.filter (fun x => decide (x.slot ≠ f.slot)) })
  let uni := inUnison c (courseNo k)
  let c := if uni && !isB k then fillLog c k f else c
  let c := if f.trap ≠ 0 ∧ (uni = false ∨ isB k = false ∨ eachRaises c k f) then raiseTrap c k (flightTrap c k f) else c
  barrierGo c k

/-- Does a flight's answer travel from a target, and is it held up? -/
def answerHeld (c : Chip) (k : Nat) (f : Flight) : Bool := decide (f.op < 0x26) && heldUp c k (tgtOf k f.addr) true

/-- Does an answer of the same source to the same string travel before that of a flight (R262)? Answered flights stand in the
order in which they were performed. -/
def answerBehind (c : Chip) (k : Nat) (f : Flight) : Bool :=
  let src (g : Flight) : Option (Nat × Nat) := if g.op < 0x26 then farEnd k (tgtOf k g.addr) else none
  ((coreOf c k).flights.takeWhile (fun g => decide (g.slot ≠ f.slot))).any (fun g =>
    g.ready && (src g).isSome && decide (src g = src f))

/-- LANDING: the result in flight for slot `s` lands. A read of the periphery is performed now, in its order. -/
def xLanding (c : Chip) (k s : Nat) : Chip :=
  match (coreOf c k).flights.find? (fun f => decide (f.slot = s)) with
  | none => c
  | some f =>
    if answerHeld c k f then c
    else if f.ready then (if answerBehind c k f then c else landNow c k f)
    else
      match (reqs c k).find? (fun x => decide (x.2.kind ≠ 1) && decide (x.2.slot = s)) with
      | some (i, q) =>
        if (tgtOf k q.addr).bank.isNone ∧ mayPerform c k i q then
          let c := performReq c k i q
          match (coreOf c k).flights.find? (fun f => decide (f.slot = s)) with
          | some f => if f.ready ∧ answerBehind c k f = false then landNow c k f else c
          | none => c
        else c
      | none => c

/-- The command LANDING on a unit that exists. -/
def execLanding (k slot : Nat) (s : State) : Host.Outcome State Fault Refusal :=
  onUnit (isCore k && isSlot slot) s (fun c => xLanding c k slot)

/-! ### Stores (R111, R186, R267) -/

/-- STORE_DRAIN: the oldest store of a string's buffer is written to its own SRAM, or enters the data fabric while fewer than
eight of its stores are unacknowledged. A course in its safe state lets nothing leave (R229). -/
def xStoreDrain (c : Chip) (k : Nat) : Chip :=
  if !courseOn c (courseNo k) ∨ (courseOf c (courseNo k)).safe then c
  else match drainOne c k with
    | some d => barrierGo d k
    | none => c

/-- The command STORE_DRAIN on a unit that exists. -/
def execStoreDrain (k : Nat) (s : State) : Host.Outcome State Fault Refusal :=
  onUnit (isCore k) s (fun c => xStoreDrain c k)

/-- STORE_ACK: the acknowledgement of the store at place `i` of a string's requests arrives. A store to the periphery is
performed now, in its order; so is any request of a string that has been reset since, whose answer goes nowhere. -/
def xStoreAck (c : Chip) (k i : Nat) : Chip :=
  match (coreOf c k).bus[i]? with
  | none => c
  | some q =>
    let due := decide (q.kind = 1 ∨ q.slot = 4) && (tgtOf k q.addr).bank.isNone && mayPerform c k i q
    let c := if due then performReq c k i q else c
    if q.slot = 4 then c else
    match (coreOf c k).bus[i]? with
    | none => c
    | some q =>
      let before := ((coreOf c k).bus.take i).any (fun x =>
        decide (x.kind = 1) && x.done && decide ((tgtOf k x.addr).unit = (tgtOf k q.addr).unit))
      if q.kind = 1 ∧ q.done ∧ before = false ∧ heldUp c k (tgtOf k q.addr) true = false then
        let c := dropReq c k i
        let c := if q.resp = 0 then c
          else raiseTrap c k ⟨if q.resp = 2 then 0x11 else 0x10, true, 0, 0, q.ipc, q.addr, false⟩
        barrierGo c k
      else c

/-- The command STORE_ACK on a unit that exists. -/
def execStoreAck (k ix : Nat) (s : State) : Host.Outcome State Fault Refusal :=
  onUnit (isCore k) s (fun c => xStoreAck c k ix)

/-! ### Scrubbing, flit errors, injection (R259, R271, R272, R286) -/

/-- The global address of the `w`-th word a cluster's scrubber visits: its store, then its eight SRAMs. -/
def scrubGa (k w : Nat) : Nat :=
  if w < 0x20000 then 0x10000000 + k * 0x100000 + 4 * w
  else 0x20000000 + (8 * k + (w - 0x20000) / 0x2000) * 0x10000 + 4 * ((w - 0x20000) % 0x2000)

/-- Is a word the scrubber would visit in a domain that is on? -/
def scrubOn (c : Chip) (k w : Nat) : Bool :=
  match (target none (scrubGa k w)).peg with | some p => gateOpen c p | none => false

/-- The next word a scrubber visits, at or behind a place: words of a domain that is off or in retention are passed over, a bank
or an SRAM at a time. The first argument is fuel. -/
def scrubNext (c : Chip) (k : Nat) : Nat → Nat → Option Nat
  | 0, _ => none
  | n + 1, w =>
    if scrubOn c k w then some w
    else if w < 0x10000 then scrubNext c k n 0x10000
    else scrubNext c k n ((w / 0x2000 + 1) % 24 * 0x2000)

/-- SINT of a cluster's scrubber in ns. -/
def scrubNs (c : Chip) (k : Nat) : Nat := 1000 * regFld c (clReg k 0x10) 15 8

/-- SCRUB: SINT µs after its last visit the patrol scrubber of cluster `k` reads the next word, which is its `w`-th, and corrects
it; it visits the store's words, then those of the eight SRAMs, in turn. A time base that has been set back holds it up no longer
than that. -/
def xScrub (c : Chip) (k w : Nat) : Chip :=
  let r : Scrub := Tbl.get {} c.scrubs k
  if k < 32 ∧ c.sys.per ∧ bit (regVal c (clReg k 0x10)) 1 ∧ (r.at_ + scrubNs c k ≤ c.tb ∨ c.tb < r.at_) then
    if scrubNext c k 48 r.pos = some w then
      (readWord { c with scrubs := Tbl.put {} c.scrubs k ⟨(w + 1) % 0x30000, c.tb⟩ } (scrubGa k w) 4 0).1
    else c
  else c

/-- The command SCRUB on a unit that exists. -/
def execScrub (k w : Nat) (s : State) : Host.Outcome State Fault Refusal :=
  onUnit (isCluster k) s (fun c => xScrub c k w)

/-- The word of a note in flight that a flit error has met, at place `i` of its destination in SRAM or cluster store. -/
def hitNote (c : Chip) (lane i : Nat) : Chip :=
  match (laneOf c lane).fl.find? (fun j => decide (j.st = 1)) with
  | none => c
  | some j =>
    if epKind j.w2 < 2 ∧ 4 * i < j.moved then
      let (c, v) := fresh c
      writeWord c (epGa j.bank j.w2 + 4 * i) v true none
    else c

/-- The word of an item on its way into the queue of channel `s`, `i` words before the last: it reaches the queue poisoned. -/
def hitItem (c : Chip) (s i : Nat) (v : Word) : Chip :=
  let h := chanOf c s
  if chDepth h ≤ i then c
  else if isLinkQ h then updChan c s (fun h => { h with lq := h.lq.set (h.lq.length - 1 - i) ⟨v, true⟩ })
  else writeWord c (chWordGa s h (h.depth - 1 - i)) v true none

/-- Word `i` of the record of cluster `k` on its way to the collector. -/
def hitRecord (c : Chip) (k i : Nat) (v : Word) : Chip :=
  { c with tab := { c.tab with gather := c.tab.gather.map (fun g =>
      { g with read := g.read.map (fun e => if e.1 = k then (e.1, e.2.1.set i ⟨v, true⟩, e.2.2) else e) }) } }

/-- DATA_FLIT_ERROR: a data flit fails parity at input port `p` of the router of cluster `k`: `what` 0 is the answer on its
way to slot `i` of core `who`, 1 the request at place `i` of core `who`, 2 word `i` of the note in flight on lane `who`, 3 the
word `i` before the last of channel `who`, 4 word `i` of the gather record of cluster `who`, 5 word `i` of the data of the
command in hand. Its data are an open value and carry the poison bit (R271). -/
def xDataFlitError (c : Chip) (k p what who i : Nat) : Chip :=
  if !c.sys.per ∨ 32 ≤ k ∨ (linkMask k).getLsbD p = false then c
  else
    let c := regOr c (clReg k 0x04) (2 ^ p)
    let (c, v) := fresh c
    if what = 0 then
      updCore c who (fun r =>
        { r with flights := r.flights.map (fun f =>
            if f.slot = i ∧ f.ready ∧ f.op < 0x26 ∧ f.trap = 0 then { f with lo := v, trap := 0x14 } else f) })
    else if what = 1 then
      updCore c who (fun r =>
        match r.bus[i]? with
        | some q => if q.done = false ∧ (q.kind = 1 ∨ q.kind = 4) then { r with bus := r.bus.set i { q with data := v, psn := true } } else r
        | none => r)
    else if what = 2 then hitNote c who i
    else if what = 3 then hitItem c who i v
    else if what = 4 then hitRecord c who i v
    else { c with cur := c.cur.map (fun q => { q with hurt := q.hurt ++ [i] }) }

/-- The command DATA_FLIT_ERROR on a unit that exists. -/
def execDataFlitError (k p what who ix : Nat) (s : State) : Host.Outcome State Fault Refusal :=
  onUnit (isCluster k && isInput p) s (fun c => xDataFlitError c k p what who ix)

/-- HEAD_FLIT_ERROR: a head flit that cannot be corrected stops input port `p` of the router of cluster `k`; a fatal fabric
error (R272, R652 cause 4). -/
def xHeadFlitError (c : Chip) (k p : Nat) : Chip :=
  if !c.sys.per ∨ 32 ≤ k ∨ (linkMask k).getLsbD p = false then c
  else
    let c := regOr c (clReg k 0x04) 0x40
    let c := if 6 * k + p ∈ c.stopped then c else { c with stopped := (6 * k + p) :: c.stopped }
    fatal c 4 (wd (k + 256 * p))

/-- The command HEAD_FLIT_ERROR on a unit that exists. -/
def execHeadFlitError (k p : Nat) (s : State) : Host.Outcome State Fault Refusal :=
  onUnit (isCluster k && isInput p) s (fun c => xHeadFlitError c k p)

/-- ECCINJ_WRITE: a write of CL.ECCINJ (R286). -/
def xEccinjWrite (c : Chip) (k : Nat) (w : Word) : Chip := if k < 32 ∧ c.sys.per then eccInjWrite c k w else c

/-- The command ECCINJ_WRITE on a unit that exists. -/
def execEccinjWrite (k : Nat) (w : Word) (s : State) : Host.Outcome State Fault Refusal :=
  onUnit (isCluster k) s (fun c => xEccinjWrite c k w)

end Sys2Proof.Machine
end

