-- ==== Sys2Proof/Machine/Tuner.lean ====
section
/-! DEFINITION. The tuner of a course: halts, checkpoints and their release, mismatches and verdicts, resumption from the
snapshot, hand-overs and the tuner test (R30, R204 to R247, R720). -/

namespace Sys2Proof.Machine

open Sys2Proof

/-- The tuner event source of a course (R225); the luthier's course has none. -/
def tunerPulse (c : Chip) (n : Nat) : Chip := if n < 256 then pulse c (705 + n) else c

/-! ### Halts through the peg (R30, R123, R237) -/

/-- Is a string asked to halt? -/
def haltAsked (c : Chip) (n : Nat) : Bool := (coreOf c (2 * n)).haltReq || (coreOf c (2 * n + 1)).haltReq

/-- A string asked to halt stops at its boundary; a barrier completes first. -/
def haltString (c : Chip) (k : Nat) : Chip :=
  if (coreOf c k).haltReq && !inBarrier c k then haltCore c k else c

/-- PEG_HALT: fetch stops at the next word boundary; a course in unison halts at a checkpoint called there. A halt asked for
during a hand-over takes effect after it (R236). -/
def xPegHalt (c : Chip) (n : Nat) : Chip :=
  let r := courseOf c n
  if r.hand.isSome ∨ r.check ≠ 0 ∨ r.safe ∨ haltAsked c n = false then c
  else if inUnison c n then callCkpt c n
  else haltString (haltString c (2 * n)) (2 * n + 1)

/-- The command PEG_HALT on a unit that exists. -/
def execPegHalt (n : Nat) (s : State) : Host.Outcome State Fault Refusal :=
  onUnit (isCourse n) s (fun c => xPegHalt c n)

/-- COURSE_HALTED: the peg reports the course halted; the COURSE HALT commands that wait for no other course complete, and a
detach that halts courses goes on. -/
def xCourseHalted (c : Chip) (n : Nat) : Chip :=
  if courseReported c n then
    let l := c.sys.halts.map (fun h => { h with todo := h.todo.filter (· ≠ n) })
    let c := { c with sys := { c.sys with halts := l.filter (fun h => !h.todo.isEmpty) } }
    let c := (l.filter (fun h => h.todo.isEmpty)).foldl (fun c h => complete c h.reply stOK 0) c
    detachTry c
  else c

/-- The command COURSE_HALTED on a unit that exists. -/
def execCourseHalted (n : Nat) (s : State) : Host.Outcome State Fault Refusal :=
  onUnit (isCourse n) s (fun c => xCourseHalted c n)

/-! ### The architectural state of a string (R222) -/

/-- The CSRs of the signature and the snapshot. -/
def archCsrs : List Nat :=
  [0x00, 0x01, 0x08, 0x09, 0x0A, 0x0B, 0x10, 0x11, 0x12, 0x13, 0x14, 0x18, 0x19, 0x28, 0x30, 0x31, 0x32, 0x33]

/-- Is the state that the signature covers the same in two strings? -/
def sigEqual (c : Chip) (k j : Nat) : Bool :=
  let a := coreOf c k
  let b := coreOf c j
  decide (wordPc c k = wordPc c j) && decide (a.stk = b.stk) && decide (a.rsFile = b.rsFile) && decide (a.rsPtr = b.rsPtr) &&
    decide (a.rsDepth = b.rsDepth) && decide (a.pend = b.pend) && decide (a.dpos = b.dpos) && decide (a.tbhi = b.tbhi) &&
    archCsrs.all (fun i => decide (csrVal c k i = csrVal c j i))

/-- String A's architectural state and slots are copied into string B, whose halted state is its own. -/
def copyToB (c : Chip) (n : Nat) : Chip :=
  let a := coreOf c (2 * n)
  let c := updCore c (2 * n + 1) (fun b =>
    { (snapOf a) with csr := [], halted := b.halted, dhalt := b.dhalt, haltReq := b.haltReq, started := b.started, mskPend := false })
  archCsrs.foldl (fun c' i => csrPut c' (2 * n + 1) i (csrVal c (2 * n) i)) c

/-- Both strings take the state of the snapshot (R226); one that a double trap had halted runs again. -/
def restoreSnap (c : Chip) (n : Nat) : Chip :=
  match (courseOf c n).snap with
  | none => c
  | some s =>
    let c := updCore c (2 * n) (fun r =>
      { s with halted := r.halted && !r.dhalt, dhalt := false, haltReq := r.haltReq, started := r.started, mskPend := r.mskPend })
    copyToB (updCore c (2 * n + 1) (fun r => { r with halted := r.halted && !r.dhalt, dhalt := false })) n

/-- The entries of the read log that are kept stand to be replayed (R226). -/
def replayLog (l : List LogEnt) : List LogEnt := (l.filter (fun e => e.kept)).map (fun e => { e with aTook := false, bTook := false })

/-! ### Release (R208, R211, R217, R268) -/

/-- An error response to a performed pair, raised in both strings by way of string A. -/
def releaseTrap (c : Chip) (n cause ipc addr : Nat) : Chip :=
  if cause = 0 then c else raiseTrap c (2 * n) ⟨cause, true, 0, 0, ipc, addr, false⟩

/-- A send is performed: in its reserved place; discarded where the channel has been closed; lost where it is BROKEN, or was when
the send was made. A credit whose word is not pushed is returned (R308). -/
def releaseSend (c : Chip) (n : Nat) (e : Entry) : Chip :=
  match slotOfHandle c e.addr with
  | none => c
  | some s =>
    let lost := (chanOf c s).broken || !e.place
    let c := if e.place then
        updChan c s (fun h =>
          { h with reserved := h.reserved - 1, credit := if lost ∧ h.kind = 1 then h.credit + 1 else h.credit })
      else c
    if lost then
      releaseTrap (updChan (if (chanOf c s).broken then chMet c s (2 * n) else c) s (fun h => { h with lost := sat (h.lost + 1) 0xFFFFFFFF })) n 0x10 e.ipc (chBank0 c s)
    else chPushWord (itemSent c (2 * n) s) s e.data false

/-- An engine operation is issued: it is offered to the engine, which accepts it in its turn (R401, R419). -/
def releaseEngine (c : Chip) (n : Nat) (e : Entry) : Chip :=
  let k := camOfCore (2 * n)
  let o : CamOp := ⟨0, 2 * n, e.sel, e.slot, e.addr, e.data.toNat, e.data2.toNat, 1⟩
  if camOn c k then camAdmitAll (updCam c k (fun m => { m with offers := m.offers ++ [o] })) k
  else
    let (c, a) := fresh (offMet c (2 * n) (2 * k + 1))
    landOp c o 0xFFFFFFFF 0xFFFFFFFF 0x10 0 a

/-- A pair is performed, string A's half supplying the data. -/
def performPair (c : Chip) (n : Nat) (e : Entry) : Chip :=
  if e.kind = 0 then
    if e.priv then performPriv c n e
    else
      let (c, r) := storeTgt (accessFlits c (2 * n) 1 (tgtOf (2 * n) e.addr)) (2 * n) e.addr e.size e.data false
      releaseTrap (noteAcc c (2 * n) r) n (accTrap r) e.ipc e.addr
  else if e.kind = 1 then releaseSend c n e
  else if e.kind = 2 then completeBy c (eventId c (2 * n)) e.data
  else releaseEngine c n e

/-- Every output of a course is performed, in pair order. -/
def release (c : Chip) (n : Nat) : Chip :=
  let l := (courseOf c n).pairs
  l.foldl (fun c p => performPair c n p.a) (updCourse c n (fun r => { r with pairs := [], bHalves := [] }))

/-! ### Checkpoints (R210, R220 to R223) -/

/-- CHECKPOINT_WORD_LIMIT: string A has executed 4,096 words since the last checkpoint. -/
def xCheckpointWordLimit (c : Chip) (n : Nat) : Chip :=
  if inUnison c n ∧ 4096 ≤ (coreOf c (2 * n)).words then callCkpt c n else c

/-- The command CHECKPOINT_WORD_LIMIT on a unit that exists. -/
def execCheckpointWordLimit (n : Nat) (s : State) : Host.Outcome State Fault Refusal :=
  onUnit (isCourse n) s (fun c => xCheckpointWordLimit c n)

/-- Does a stopped input port hold an output that a checkpoint of a course would release (R272)? -/
def releaseHeld (c : Chip) (n : Nat) : Bool :=
  (courseOf c n).pairs.any (fun p =>
    if p.a.kind = 0 then heldUp c (2 * n) (tgtOf (2 * n) p.a.addr) false
    else if p.a.kind = 1 then itemHeld c (2 * n) (p.a.addr % 4096) else false)

/-- Have both strings reached the word of the checkpoint called, with nothing still to do there and no result in flight but those
of held engine operations? -/
def ckptReady (c : Chip) (n : Nat) : Bool :=
  let r := courseOf c n
  let a := coreOf c (2 * n)
  let b := coreOf c (2 * n + 1)
  n ≤ 256 && courseOn c n && inUnison c n && decide (r.check = 0) && decide (r.ckptAt = some a.words) && decide (b.words = a.words) &&
    landed c (2 * n) && landed c (2 * n + 1) && (asyncNow c (2 * n + 1)).isNone &&
    (decide (a.traps ≤ b.traps) || !nextTraps c (2 * n + 1)) && !releaseHeld c n

/-- The index of the first entry that one string has placed and the other has not (R221). -/
def unmatched (r : Course) : Option Nat :=
  match r.pairs.find? (fun p => !p.compared) with
  | some p => some p.no
  | none => if r.bHalves.isEmpty then none else some r.pairNo

/-- Are the traps that each string has raised for itself and not taken the same (R217)? -/
def eachEqual (c : Chip) (n : Nat) : Bool :=
  let l (k : Nat) := (coreOf c k).itraps.filter (fun t => t.each)
  (l (2 * n)).all (fun t => (l (2 * n + 1)).any (sameTrap t)) && (l (2 * n + 1)).all (fun t => (l (2 * n)).any (sameTrap t))

/-- The read log after an equal checkpoint: kept entries are freed once taken; the words of the others count from here. -/
def logAfter (w : Nat) (l : List LogEnt) : List LogEnt :=
  logTrim (l.map (fun e => { e with word := e.word - w, kept := e.kept && !(e.aTook && e.bTook) }))

/-- A hand-over to split ends (R235 step 4): string B starts at its address with the state of the checkpoint. -/
def splitNow (c : Chip) (n : Nat) (h : Hand) : Chip :=
  let a := coreOf c (2 * n)
  let c := updCourse c n (fun r => { r with mode := 0, hand := none, locked := false, log := [], snap := none })
  let c := updCore c (2 * n) (fun r => { r with resv := none, halted := h.wasHalted })
  let c := updCore c (2 * n + 1) (fun r =>
    { r with resv := none, wait := none, rep := none, pc := h.start, halted := h.wasHalted, started := true, itraps := a.itraps })
  tunerPulse (complete c h.reply stOK 0) n

/-- An equal checkpoint: the outputs are released, the snapshot taken, the log freed (R221), a write of CO.CTL applied (R242);
a hand-over to split or a halt takes effect, behind a barrier that string A stands in at its next boundary. A barrier whose
checkpoint this is may complete. -/
def ckptEqual (c : Chip) (n : Nat) : Chip :=
  let c := release c n
  let w := (coreOf c (2 * n)).words
  let c := updCore c (2 * n) (fun r => { r with words := 0, traps := 0, ownCkpt := if r.ownCkpt = 0 then 0 else 2 })
  let c := updCore c (2 * n + 1) (fun r => { r with words := 0, traps := 0 })
  let s := snapOf (coreOf c (2 * n))
  let c := updCourse c n (fun r =>
    { r with snap := some s, log := logAfter w r.log, ckpts := (r.ckpts + 1) % 65536, ckptAt := none,
             ctl := r.ctlPend.getD r.ctl, ctlPend := none })
  if inBarrier c (2 * n) then
    let c := barrierCheck c (2 * n)
    if (courseOf c n).hand.isSome ∨ haltAsked c n then callCkpt c n else c
  else match (courseOf c n).hand with
  | some h => splitNow c n h
  | none => if haltAsked c n then haltCore (haltCore c (2 * n)) (2 * n + 1) else c

/-- CHECKPOINT: the strings stand at the same word; entry counts, comparators and signatures are judged (R221). `fault` is 5
where a comparator fails its test, 6 where parity fails (R230). Unequal signatures can collide (R222). -/
def xCheckpoint (c : Chip) (n fault : Nat) : Chip :=
  if !ckptReady c n then c
  else if fault = 6 then tunerFault c n 6 0
  else
    match unmatched (courseOf c n) with
    | some no => mismatch c n 1 no
    | none =>
      if fault = 5 then tunerFault c n 5 0
      else if !eachEqual c n then mismatch c n 4 0
      else if sigEqual c (2 * n) (2 * n + 1) then ckptEqual c n
      else if Config.sigCollides c.free then ckptEqual (fresh c).1 n
      else mismatch (fresh c).1 n 2 0

/-- The command CHECKPOINT on a unit that exists. -/
def execCheckpoint (n fault : Nat) (s : State) : Host.Outcome State Fault Refusal :=
  onUnit (isCourse n && isFlaw fault) s (fun c => xCheckpoint c n fault)

/-! ### Skew (R224) -/

/-- Does the next word of a string wait on a busy slot, for a landing by WAITL, or, a load, for stores that cover it in part
(R101, R103, R112)? -/
def wordWaits (c : Chip) (k : Nat) : Bool :=
  let top (n : Nat) : Nat := ((topWords c k (n + 1)).getD n 0).toNat
  let part (a size : Nat) : Bool := decide (forward k (pendStores c k) a size = .wait)
  match nextOp c k with
  | some (.waitl m) => maskBusy c k m
  | some (.putl s) => slotBusy c k s.toNat
  | some (.mul s _) => slotsBusy c k s.toNat true
  | some (.div s _) => slotsBusy c k s.toNat true
  | some (.tas s) => slotBusy c k s.toNat
  | some (.sc s) => slotBusy c k s.toNat
  | some (.lr s) => slotBusy c k s.toNat || part (top 0) 4
  | some (.ldr s z _) => slotBusy c k s.toNat || part (top 0) (sizeOf_ z)
  | some (.agree s z _) => slotBusy c k s.toNat || part (top 0) (sizeOf_ z)
  | some (.cp op s _) => slotsBusy c k s.toNat (decide (op.toNat = 3) || decide (op.toNat = 4))
  | some (.pair a b) =>
    (isShortLoad a.toNat && part (top 0) (shortSize a.toNat)) ||
      (isShortLoad b.toNat && part (top (shortEffect a.toNat).1) (shortSize b.toNat))
  | _ => false

/-- Does a string execute no word and wait on nothing named in R122: SLEEP, WAIT, a RECV on an empty queue, WAITL, a busy slot,
a partly covered load, a halt? -/
def stuck (c : Chip) (k : Nat) : Bool :=
  let r := coreOf c k
  let waits := match r.wait with | some w => decide (w.kind ≤ 3) || decide (w.kind = 6) | none => false
  !waits && !r.halted && !wordWaits c k

/-- SKEW_TIMEOUT: for 1 ms one string has stood at a checkpoint or at the trailing limit while the other did nothing. -/
def xSkewTimeout (c : Chip) (n : Nat) : Chip :=
  let r := courseOf c n
  let a := coreOf c (2 * n)
  let b := coreOf c (2 * n + 1)
  let aStands := decide (r.ckptAt = some a.words) || decide (64 ≤ r.pairs.length)
  if n ≤ 256 ∧ courseOn c n ∧ inUnison c n ∧ r.check = 0 ∧
      ((aStands && decide (b.words < a.words) && stuck c (2 * n + 1)) ||
        (decide (b.words = a.words) && r.ckptAt.isNone && decide (r.pairs.length < 64) && stuck c (2 * n))) then
    mismatch c n 3 0
  else c

/-- The command SKEW_TIMEOUT on a unit that exists. -/
def execSkewTimeout (n : Nat) (s : State) : Host.Outcome State Fault Refusal :=
  onUnit (isCourse n) s (fun c => xSkewTimeout c n)

/-! ### Verdicts and resumption (R225, R226, R228) -/

/-- The verdict is reached: CAUSE.VERDICT, MISM, MISCNT. -/
def verdict (c : Chip) (n v : Nat) : Chip :=
  let c := updCourse c n (fun r => { r with verdict := v, mism := true, miscnt := sat (r.miscnt + 1) 255, check := 0 })
  if n = luthierCourse then regCount c 0x60008028 15 8 1 else c

/-- Both strings resume in unison from the snapshot. -/
def resumeBoth (c : Chip) (n : Nat) : Chip := updCourse (restoreSnap c n) n (fun r => { r with log := replayLog r.log, ckptAt := none })

/-- One string resumes alone from the snapshot; the other stays halted (R228). -/
def resumeAlone (c : Chip) (n : Nat) (b : Bool) : Chip :=
  let c := updCourse (restoreSnap c n) n (fun r =>
    { r with log := replayLog r.log, ckptAt := none, degraded := true, survB := b })
  updCore c (2 * n + 1 - b1 b) (fun r => { r with halted := true, haltReq := false })

/-- LBIST_VERDICT: LBIST ends with its result for each string. -/
def xLbistVerdict (c : Chip) (n : Nat) (passA passB : Bool) : Chip :=
  let r := courseOf c n
  if r.check ≠ 1 ∨ r.test.isSome ∨ (coreOf c (2 * n)).flights.isEmpty = false then c
  else
    let c := updCourse c n (fun r => { r with badA := !passA, badB := !passB })
    if passA ∧ passB then updCourse c n (fun r => { r with check := 2 })
    else
      let c := tunerPulse (verdict c n (if passA then 1 else if passB then 2 else 5)) n
      if (passA ∨ passB) ∧ rbkOf c n ∧ degrunOf c n then resumeAlone c n passB else enterSafe c n

/-- The command LBIST_VERDICT on a unit that exists. -/
def execLbistVerdict (n : Nat) (passA passB : Bool) (s : State) : Host.Outcome State Fault Refusal :=
  onUnit (isCourse n) s (fun c => xLbistVerdict c n passA passB)

/-- TUNER_SELF_TEST_DONE: the self-test after a double pass ends; `cause` is 0 for a pass, else 5 or 6 as found (R230). -/
def xTunerSelfTestDone (c : Chip) (n cause : Nat) : Chip :=
  if (courseOf c n).check ≠ 2 then c
  else if cause = 0 then
    let c := tunerPulse (verdict c n 3) n
    if rbkOf c n then resumeBoth c n else enterSafe c n
  else tunerFault (verdict c n 4) n (if cause = 6 then 6 else 5) 4

/-- The command TUNER_SELF_TEST_DONE on a unit that exists. -/
def execTunerSelfTestDone (n cause : Nat) (s : State) : Host.Outcome State Fault Refusal :=
  onUnit (isCourse n && isFlaw cause) s (fun c => xTunerSelfTestDone c n cause)

/-! ### Hand-overs (R233 to R236) -/

/-- Has a string quiesced: no result in flight, its store buffer and its requests drained? -/
def quiesced (c : Chip) (k : Nat) : Bool :=
  let r := coreOf c k
  r.flights.isEmpty && r.sbuf.isEmpty && r.bus.all (fun q => decide (q.slot = 4))

/-- Is a hand-over to unison in progress? -/
def toUnisonNow (c : Chip) (n : Nat) : Option Hand := ((courseOf c n).hand).filter (fun h => h.toUnison)

/-- HANDOVER_QUIESCED: steps 3 to 5 of R234. -/
def xHandoverQuiesced (c : Chip) (n : Nat) : Chip :=
  match toUnisonNow c n with
  | none => c
  | some h =>
    if quiesced c (2 * n) && quiesced c (2 * n + 1) then
      let c := dropResv (dropResv (withdrawWait (withdrawWait c (2 * n)) (2 * n + 1)) (2 * n)) (2 * n + 1)
      let c := completeHeld (withdrawAll c (2 * n + 1)) (2 * n + 1)
      let c := updCore c (2 * n) (fun r => { r with words := 0, traps := 0, lines := [], ownCkpt := 0 })
      let c := copyToB c n
      let a := coreOf c (2 * n)
      let c := updCore c (2 * n + 1) (fun r => { r with halted := a.halted, haltReq := a.haltReq, started := a.started })
      let c := updCourse c n (fun r =>
        { r with mode := 1, hand := none, locked := false, snap := some (snapOf a), pairs := [], bHalves := [], log := [], ckptAt := none })
      tunerPulse (complete c h.reply stOK 0) n
    else c

/-- The command HANDOVER_QUIESCED on a unit that exists. -/
def execHandoverQuiesced (n : Nat) (s : State) : Host.Outcome State Fault Refusal :=
  onUnit (isCourse n) s (fun c => xHandoverQuiesced c n)

/-- HANDOVER_TIMEOUT: the strings have not quiesced within 100 µs and go on in split. -/
def xHandoverTimeout (c : Chip) (n : Nat) : Chip :=
  match toUnisonNow c n with
  | none => c
  | some h => complete (updCourse c n (fun r => { r with mode := 0, hand := none, locked := false })) h.reply stTIMEOUT 0

/-- The command HANDOVER_TIMEOUT on a unit that exists. -/
def execHandoverTimeout (n : Nat) (s : State) : Host.Outcome State Fault Refusal :=
  onUnit (isCourse n) s (fun c => xHandoverTimeout c n)

/-! ### TUNER_TEST and CO.CTL (R231, R232, R242) -/

/-- TUNER_TEST_DONE: `passA`, `passB` and `tuner` (0 pass, else the fault) are what the test finds; the completion names what
passed (R549). -/
def xTunerTestDone (c : Chip) (n : Nat) (passA passB : Bool) (tuner : Nat) : Chip :=
  match (courseOf c n).test with
  | none => c
  | some r =>
    let c := updCourse c n (fun x =>
      { x with badA := !passA, badB := !passB, tflt := decide (tuner ≠ 0), check := 0, test := none })
    complete c r stOK (wd (b1 passA + 2 * b1 passB + 4 * b1 (decide (tuner = 0))))

/-- The command TUNER_TEST_DONE on a unit that exists. -/
def execTunerTestDone (n : Nat) (passA passB : Bool) (tuner : Nat) (s : State) : Host.Outcome State Fault Refusal :=
  onUnit (isCourse n && isFlaw tuner) s (fun c => xTunerTestDone c n passA passB tuner)

/-- CO_CTL_WRITE: a write of CO.CTL. -/
def xCoCtlWrite (c : Chip) (n : Nat) (w : Word) : Chip := if n < 256 ∧ c.sys.per then coCtl c n w else c

/-- The command CO_CTL_WRITE on a unit that exists. -/
def execCoCtlWrite (n : Nat) (w : Word) (s : State) : Host.Outcome State Fault Refusal :=
  onUnit (isCourse n) s (fun c => xCoCtlWrite c n w)

end Sys2Proof.Machine
end

