-- ==== Sys2Proof/Machine/Dump.lean ====
section
/-! DEFINITION. The fatal-error dump: its sections, its copies in flash, a forced fatal error, the peg-ring fault, and the
erases and writes of flash a host commands (R27, R556, R653 to R672, R677, R685). -/

namespace Sys2Proof.Machine

open Sys2Proof

/-! ### Registers read without their side effects (R661) -/

/-- A register as a read shows it; a read-clear field is not cleared. -/
def peekReg (c : Chip) (a : Nat) : Chip × Word :=
  let (d, w) := regRead c a
  ({ c with free := d.free }, w)

/-- `n` registers in offset order, as little-endian bytes. -/
def peekRegs (c : Chip) (a n : Nat) : Chip × List Byte :=
  (List.range n).foldl (fun (x : Chip × List Byte) i =>
    let (c, w) := peekReg x.1 (a + 4 * i)
    (c, x.2 ++ bytesOfWord w)) (c, [])

/-- Register blocks of a list of start addresses, one behind the other. -/
def peekBlocks (c : Chip) (l : List Nat) (n : Nat) : Chip × List Byte :=
  l.foldl (fun (x : Chip × List Byte) a =>
    let (c, b) := peekRegs x.1 a n
    (c, x.2 ++ b)) (c, [])

/-- `n` bytes of 0. -/
def zeros (n : Nat) : List Byte := List.replicate n 0

/-! ### The sections (R661 to R663) -/

/-- Is an island one that the peg ring has not reached (R27, R654)? -/
def islandAbsent (c : Chip) (k : Nat) : Bool := c.sys.gone.any (fun u => decide (unitIsland u = k))

/-- Section ISLAND. -/
def secIsland (c : Chip) : List Byte :=
  (List.range 8).flatMap (fun k =>
    if islandAbsent c k then zeros 12 ++ [1] ++ zeros 51
    else
      let mask (s : PegState) : Nat := maskOf (((pegsOfIsland k).zipIdx.filter (fun x => decide ((pegOf c x.1).st = s))).map Prod.snd)
      bytesOf [regVal c (rISLV k), regVal c (rISTAT k), regVal c (rPWR (0x0A0 + 4 * k))] ++
        [0, BitVec.ofNat 8 (mask .on), BitVec.ofNat 8 (mask .ret), 0] ++ zeros 48)

/-- The peg domain state of a course as the dump gives it. -/
def domCode (c : Chip) (n : Nat) : Nat :=
  match (pegOf c (pegOfCourse n)).st with
  | .on => 1
  | .ret => 2
  | _ => 0

/-- Section COURSE. -/
def secCourse (c : Chip) : List Byte :=
  (List.range 256).flatMap (fun n =>
    if islandAbsent c (islandOfPeg (pegOfCourse n)) then zeros 26 ++ [3] ++ zeros 5
    else
      bytesOf ([0x00, 0x04, 0x08, 0x0C, 0x10, 0x14].map (coRead c n)) ++ leBytes 2 (courseOf c n).discarded ++
        [BitVec.ofNat 8 (domCode c n)] ++ zeros 5)

/-- A CSR as the state scan reads it: CLAIM and COMPLETE as 0, without claiming. -/
def scanCsr (c : Chip) (k i : Nat) : Word :=
  if i = 0x20 then wd c.tb else if i = 0x22 then dronePos c (coreOf c k).dpos else csrRead c k i

/-- The 24 CSRs in ascending index order (R155). -/
def allCsrs : List Nat :=
  [0x00, 0x01, 0x02, 0x08, 0x09, 0x0A, 0x0B, 0x10, 0x11, 0x12, 0x13, 0x14, 0x18, 0x19, 0x1A, 0x1B, 0x20, 0x21, 0x22, 0x28,
    0x30, 0x31, 0x32, 0x33]

/-- A STRING record (R662); the return stack with the deepest entry first. -/
def stringRec (c : Chip) (k : Nat) : List Byte :=
  let r := coreOf c k
  let q := courseOf c (courseNo k)
  let flags := b1 r.halted + 2 * b1 r.dhalt + 4 * b1 (if isB k then q.badB else q.badA)
  let stk := (List.range 8).map (fun i => r.stk.getD i 0)
  let rs := (List.range 16).map (fun i => Tbl.get 0 r.rsFile ((r.rsPtr + 16 - r.rsDepth + i) % 16))
  let pend := [0x08, 0x09, 0x0B, 0x10, 0x18]
  let pbits := maskOf ((List.range 5).filter (fun i => r.pend.any (fun e => decide (e.1 = pend.getD i 0))))
  let resv := match r.resv with | some x => wd x.granule | none => 0xFFFFFFFF
  bytesOf ([wd k, wd flags, wd r.pc] ++ stk ++ rs ++ allCsrs.map (scanCsr c k) ++
    (List.range 4).map (slotVal c k) ++ [resv] ++ pend.map (fun i => Tbl.get 0 r.pend i) ++ [wd pbits, 0, 0])

/-- Section STRING: the strings whose peg domain is ON. -/
def secString (c : Chip) : List Byte :=
  (List.range 512).flatMap (fun k =>
    if courseOn c (courseNo k) ∧ islandAbsent c (islandOfPeg (pegOfCourse (courseNo k))) = false then stringRec c k else [])

/-- A compare-buffer entry of a TUNER record. -/
def tunerPair (c : Chip) (n : Nat) (e : Entry) (a b compared : Bool) (no : Nat) : List Byte :=
  let size := if e.size = 1 then 0 else if e.size = 2 then 1 else 2
  bytesOf [wd (e.kind + 1 + 16 * b1 a + 32 * b1 b + 64 * b1 compared + 128 * b1 (isOutput c n e) + 256 * size + 65536 * no),
    wd (if e.kind = 2 then e.data.toNat else e.addr), if a then e.data else 0, if b then e.data else 0]

/-- Is an entry of the read log that of a logged read (R214)? -/
def isLogged (e : LogEnt) : Bool :=
  e.kind = 0x31 || e.kind = 0x33 || (decide (e.kind = 0x40) && decide (e.addr = 0x1A)) || e.kind = 0x22 || e.kind = 0x23 ||
    e.kind = 0x24 || ((decide (e.kind = 0x20) || decide (e.kind = 0x25)) && inRegs e.addr)

/-- A read-log entry of a TUNER record. -/
def tunerLog (e : LogEnt) (i : Nat) : List Byte :=
  let kind := if isAsync e then 10 else if isLogged e then 9 else 8
  let cause := match e.trap with | some t => t.cause | none => 0x20
  bytesOf [wd (kind + 16 * b1 e.kept + 32 * b1 e.bTook + 65536 * (i % 32)), wd (if isAsync e then e.word else e.addr),
    if isAsync e then wd cause else e.vals.headD 0, 0]

/-- A TUNER record (R663). -/
def tunerRec (c : Chip) (n : Nat) : List Byte :=
  let r := courseOf c n
  bytesOf [wd n, wd (r.pairs.length + r.bHalves.length + 256 * r.log.length), coSkew c n, 0] ++
    r.pairs.flatMap (fun p => tunerPair c n p.a true p.compared p.compared p.no) ++
    (r.bHalves.zipIdx).flatMap (fun x => tunerPair c n x.1 false true false ((r.pairNo + x.2) % 64)) ++
    (r.log.zipIdx).flatMap (fun x => tunerLog x.1 x.2)

/-- Section TUNER: the courses in unison or degraded, or with MISM or REPLAY set. -/
def secTuner (c : Chip) : List Byte :=
  (List.range 256).flatMap (fun n =>
    let r := courseOf c n
    if (inUnison c n || r.degraded || r.mism || r.replay) && !islandAbsent c (islandOfPeg (pegOfCourse n)) then tunerRec c n
    else [])

/-- Section EVENT. -/
def secEvent (c : Chip) : Chip × List Byte :=
  let eds := bytesOf ((List.range 1024).map (fun s => regVal c (edsAddr s)))
  let st := bytesOf ((List.range 1024).map (srcStat c))
  let (c, edg) := peekRegs c 0x60007000 32
  (c, eds ++ st ++ edg ++ bytesOf (c.hostList.map (fun d => wd (d.src + 65536 * d.prio + 16777216 * d.vector))))

/-- Section CHANNEL. -/
def secChannel (c : Chip) : List Byte :=
  (List.range 4096).flatMap (fun s =>
    if (chanOf c s).opened then bytesOf (wd (handleOf c s) :: 0 :: chImage c s) else [])

/-- Section TABLATURE. -/
def secTab (c : Chip) : Chip × List Byte :=
  let (c, l) := peekRegs c 0x60005000 80
  let hdr (b : Nat) : List Byte := if bankState c b < 2 then zeros 128 else bytesAt c (tabGa b 0) 128
  (c, l ++ hdr 0 ++ hdr 1)

/-- Section LUTHIER. The place and content of Gorene's event log are its own: its 64 last entries are open values. -/
def secLuthier (c : Chip) : Chip × List Byte :=
  let (c, l) := (List.range 256).foldl (fun (x : Chip × List Byte) _ =>
    let (c, w) := fresh x.1
    (c, x.2 ++ bytesOfWord w)) (c, [])
  (c, stringRec c 512 ++ stringRec c 513 ++ l)

/-- The sections 0 to 11, in order. -/
def sections (c : Chip) : Chip × List (List Byte) :=
  let (c, ev) := secEvent c
  let (c, tab) := secTab c
  let (c, drn) := peekBlocks c ((List.range 16).map (fun d => drnReg d 0)) 8
  let (c, fp) := peekBlocks c ((List.range 128).map (fun p => fpReg p 0)) 16
  let (c, cl) := peekBlocks c ((List.range 32).map (fun k => clReg k 0)) 64
  let (c, lu) := secLuthier c
  let (c, pw) := peekRegs c 0x60001000 64
  let (c, ck) := peekRegs c 0x60002000 32
  (c, [secIsland c, secCourse c, secString c, secTuner c, ev, secChannel c, tab, drn, fp, cl, lu, pw ++ ck])

/-! ### The dump (R653 step 5, R658 to R660) -/

/-- Places the sections from offset `o` on in an area of `size` bytes: the directory as offsets and lengths, the bytes from
there on, the end of the dump, and whether it was truncated (R659). -/
def layout (size : Nat) : Nat → List (List Byte) → List (Nat × Nat) × List Byte × Nat × Bool
  | o, [] => ([], [], o, false)
  | o, s :: t =>
    let at_ := (o + 15) / 16 * 16
    let n := Nat.min s.length (size - at_)
    if n = 0 then
      let (d, b, e, tr) := layout size o t
      ((0, 0) :: d, b, e, tr || !s.isEmpty)
    else
      let (d, b, e, tr) := layout size (at_ + n) t
      ((at_, n) :: d, zeros (at_ - o) ++ s.take n ++ b, e, tr || decide (n < s.length))

/-- DUMP_WRITTEN: the dump is collected and written, the detach of a device that was DETACHING goes on, and a copy to flash
begins where DCTL.FLASH is 1 (R74, R653 steps 5 and 6). A removal record goes first (R654). -/
def xDumpWritten (c : Chip) : Chip :=
  let busy := (c.sys.removal.map (fun r => r.due)).getD false
  if c.sys.dumpDue = false ∨ busy = true then c
  else
    let (c, secs) := sections c
    let (ga, size) := dumpArea c
    let (dir, body, len, trunc) := layout size 256 secs
    let cause := regFld c (rRET 0x014) 7 0
    let absent := maskOf ((List.range 8).filter (islandAbsent c))
    let flags := b1 trunc + 2 * b1 c.sys.second + 4 * b1 (decide (c.sys.dumpState = devCode .detaching))
    let dirW := dir ++ List.replicate (16 - dir.length) (0, 0)
    let head := leBytes 4 0x504D5544 ++ leBytes 2 1 ++ leBytes 2 256 ++ leBytes 4 len ++ leBytes 4 c.sys.dumpSeq ++
      leBytes 1 cause ++ leBytes 1 c.sys.dumpState ++ leBytes 1 flags ++ leBytes 1 absent ++
      bytesOf [regVal c (rRET 0x018), regVal c (rRET 0x01C), regVal c (rRET 0x020)] ++ leBytes 8 c.tb ++
      (Config.serial ++ zeros 16).take 16 ++ zeros 8 ++ dirW.flatMap (fun e => leBytes 4 e.1 ++ leBytes 4 e.2) ++ zeros 56 ++
      bytesOfWord (crc32 body)
    let c := putBytes c ga (head ++ bytesOfWord (crc32 head) ++ body)
    let st := regVal c (rRET 0x004)
    let flash := bit (regVal c (rRET 0x000)) 8
    let st := setBits (setBits (setBits (setBits st 23 16 cause) 4 4 (b1 trunc)) 3 3 0) 2 0 (1 + 4 * b1 flash)
    let c := regPut (regPut (regPut c (rRET 0x004) st) (rRET 0x008) (wd len)) (rRET 0x00C) (wd c.sys.dumpSeq)
    let c := { c with sys := { c.sys with dumpDue := false, dumped := true, dumpSeq := c.sys.dumpSeq + 1 } }
    match c.sys.detach with
    | some d => if d.fault then detachHalt c else c
    | none => c

/-- The command DUMP_WRITTEN. -/
def execDumpWritten (s : State) : Host.Outcome State Fault Refusal :=
  onChip s (fun c => xDumpWritten c)

/-! ### Flash (R556, R664, R677, R685) -/

/-- Programs bytes of flash: an erased byte, or one that holds the value already, takes it; what another byte then reads is not
stated, and is an open value. -/
def flashProg (c : Chip) (a : Nat) : List Byte → Chip
  | [] => c
  | b :: t =>
    let old := byteAt c a
    let c :=
      if old = 0xFF ∨ old = b then putByte c a b
      else
        let (c, w) := fresh c
        putByte c a (w.setWidth 8)
    flashProg c (a + 1) t

/-- DUMP_FLASH_COPY_DONE: the dump has been copied into the slot named by FLSLOT.NEXT, once no background erase runs and the
luthier has not failed (R655); NEXT names the other slot, whose erase begins (R664). -/
def xDumpFlashCopyDone (c : Chip) : Chip :=
  if bit (regVal c (rRET 0x004)) 2 = false ∨ c.sys.dumpErase.isSome ∨ (courseOf c luthierCourse).safe then c
  else
    let i := regFld c (rRET 0x02C) 0 0
    let l := bytesAt c (dumpArea c).1 (regVal c (rRET 0x008)).toNat
    let ga := flashGa (dumpSlot i)
    let c := flashProg c ga l
    let ok := decide (bytesAt c ga l.length = l)
    let c := regOr (regClr c (rRET 0x004) 4) (rRET 0x004) (if ok then 8 else 0x20)
    { (regSetFld c (rRET 0x02C) 0 0 (1 - i)) with sys := { c.sys with dumpErase := some (1 - i) } }

/-- The command DUMP_FLASH_COPY_DONE. -/
def execDumpFlashCopyDone (s : State) : Host.Outcome State Fault Refusal :=
  onChip s (fun c => xDumpFlashCopyDone c)

/-- DUMP_SLOT_ERASE_DONE: the background erase of a dump slot ends. -/
def xDumpSlotEraseDone (c : Chip) : Chip :=
  match c.sys.dumpErase with
  | none => c
  | some i =>
    let c := clearRange c (flashGa (dumpSlot i)) (flashGa (dumpSlot i + 0x100000))
    { c with sys := { c.sys with dumpErase := none } }

/-- The command DUMP_SLOT_ERASE_DONE. -/
def execDumpSlotEraseDone (s : State) : Host.Outcome State Fault Refusal :=
  onChip s (fun c => xDumpSlotEraseDone c)

/-- May a host's command reach the sector of a flash offset (R677, R685)? -/
def flashWritable (c : Chip) (o : Nat) : Bool :=
  let rescue := bit (regVal c (rGLB 0x004)) 0
  let slotB := bit (regVal c (rGLB 0x020)) 0
  if o < 0x8000 then true
  else if 0x10000 ≤ o ∧ o < 0x90000 then rescue || slotB
  else if 0x90000 ≤ o ∧ o < 0x110000 then rescue || !slotB
  else decide (0x400000 ≤ o) && decide (o < 0x10000000)

/-- FLASH_OP_DONE: the flash erase or write at work ends with its completion, and the next one begins. -/
def xFlashOpDone (c : Chip) : Chip :=
  match c.sys.flash with
  | none => c
  | some op =>
    let ga := flashGa op.addr
    let c1 := if op.erase then clearRange c ga (ga + 0x4000) else flashProg c ga op.bytes
    let ok := op.erase || decide (bytesAt c1 ga op.bytes.length = op.bytes)
    let next := c.sys.flashWait.head?
    complete { c1 with sys := { c1.sys with flash := next, flashWait := c.sys.flashWait.drop 1 } } op.reply (if ok then stOK else stFAULT) 0

/-- The command FLASH_OP_DONE. -/
def execFlashOpDone (s : State) : Host.Outcome State Fault Refusal :=
  onChip s (fun c => xFlashOpDone c)

/-! ### Forced and peg-ring faults (R27, R672) -/

/-- RET_TEST_FORCE: FORCE is written 1. -/
def xRetTestForce (c : Chip) : Chip := if c.sys.per ∨ c.lut then retForce c else c

/-- The command RET_TEST_FORCE. -/
def execRetTestForce (s : State) : Host.Outcome State Fault Refusal :=
  onChip s (fun c => xRetTestForce c)

/-- PEG_RING_TIMEOUT: a peg or island controller, coded as in R546, has not acknowledged within 1 ms: it is recorded as unreachable,
also while another fatal error is handled (R27, R654). -/
def xPegRingTimeout (c : Chip) (u : Nat) : Chip :=
  if u < 8 ∨ (0x40 ≤ u ∧ u < 0x80) then
    fatal { c with sys := { c.sys with gone := u :: c.sys.gone.filter (· ≠ u) } } 1 (wd u)
  else c

/-- The command PEG_RING_TIMEOUT on a unit that exists. -/
def execPegRingTimeout (u : Nat) (s : State) : Host.Outcome State Fault Refusal :=
  onUnit (isPowerUnit u) s (fun c => xPegRingTimeout c u)

end Sys2Proof.Machine
end

