-- ==== Sys2Proof/Machine/ChanRows.lean ====
section
/-! DEFINITION. What channel engines do of themselves (R302 to R305, R312, R315): mailbox SENDs arriving and parked, parked
RECVs, credits returned, tail timers, and the end of a close. -/

namespace Sys2Proof.Machine

open Sys2Proof

/-! ### Mailboxes (R292, R304, R306, R323) -/

/-- A SEND waits in the home engine: it is parked behind those already there. -/
def parkSend (c : Chip) (s k : Nat) : Chip :=
  let c := updChan c s (fun h => { h with sends := h.sends ++ [k] })
  updCore c k (fun r => { r with wait := r.wait.map (fun w => { w with parked := true }) })

/-- The word of a waiting SEND or SENDT is taken: it is pushed, in unison placed as an entry, and the string's word completes; a
header that cannot fit is refused (R292). -/
def takeSend (c : Chip) (s k : Nat) (w : Wait) : Chip :=
  if inUnison c (courseNo k) then completeWait (sendPlaced c s k w.arg w.val) k []
  else if (chanOf c s).kind = 1 then completeWait (sendStream c s k w.val) k []
  else if badHeader (chanOf c s) [] w.val then badWait c k
  else completeWait (chPushWord (itemSent c k s) s w.val false) k (if w.kind = 5 then [1] else [])

/-- A mailbox item reaches its home engine (R304). One whose channel has been closed meanwhile, or is closing, traps
BADHANDLE. -/
def arriveSend (c : Chip) (k : Nat) (w : Wait) : Chip :=
  let s := w.arg.toNat % 4096
  let h := chanOf c s
  if itemHeld c k s then c
  else if slotOfHandle c w.arg.toNat = none ∨ h.closing.isSome then badWait c k
  else if h.broken then sendEnds c s k
  else if chFree h ≠ 0 ∧ h.sends = [] then takeSend c s k w
  else if w.kind = 5 then completeWait c k [0]
  else parkSend c s k

/-- MAILBOX_SEND_ARRIVAL. -/
def xMailboxSendArrival (c : Chip) (k : Nat) : Chip :=
  match (coreOf c k).wait with
  | some w => if (w.kind = 4 ∨ w.kind = 5) ∧ w.parked = false then arriveSend c k w else c
  | none => c

/-- The command MAILBOX_SEND_ARRIVAL on a unit that exists. -/
def execMailboxSendArrival (k : Nat) (s : State) : Host.Outcome State Fault Refusal :=
  onUnit (isCore k) s (fun c => xMailboxSendArrival c k)

/-- The oldest waiting SEND is taken where there is a place or credit for it. -/
def takeOldest (c : Chip) (s : Nat) : Chip :=
  match (chanOf c s).sends with
  | [] => c
  | k :: rest =>
    match (coreOf c k).wait with
    | some w => if placeFree c s then takeSend (updChan c s (fun h => { h with sends := rest })) s k w else c
    | none => c

/-- PARKED_SEND_PUSH: the oldest parked SEND of a mailbox is pushed. -/
def xParkedSendPush (c : Chip) (s : Nat) : Chip := if (chanOf c s).kind = 2 then takeOldest c s else c

/-- The command PARKED_SEND_PUSH on a unit that exists. -/
def execParkedSendPush (ch : Nat) (s : State) : Host.Outcome State Fault Refusal :=
  onUnit (isChan ch) s (fun c => xParkedSendPush c ch)

/-! ### Parked RECVs (R305) -/

/-- PARKED_RECV_COMPLETE: the oldest parked RECV receives the next item. In unison the word is entered in the read log. -/
def xParkedRecvComplete (c : Chip) (s : Nat) : Chip :=
  let h := chanOf c s
  match h.recvs with
  | [] => c
  | k :: rest =>
    if !chReady h ∨ popHeld c k s then c
    else
      let hd := waitHandle c k
      let ipc := wordPc c k
      let (c, w, p) := chTake (updChan (itemGiven c k s) s (fun h => { h with recvs := rest })) s
      let c := logWait c k 0x31 hd [w] (if p then some ⟨0x14, false, 0, 0, 0, hd, false⟩ else none)
      let c := completeWait c k [w]
      if p then recvPoison c k ipc hd else c

/-- The command PARKED_RECV_COMPLETE on a unit that exists. -/
def execParkedRecvComplete (ch : Nat) (s : State) : Host.Outcome State Fault Refusal :=
  onUnit (isChan ch) s (fun c => xParkedRecvComplete c ch)

/-! ### Credits and tail timers (R312, R315) -/

/-- CREDIT_RETURN. SENDs that wait for credit are accepted, in order; a port goes on with the records it holds. -/
def xCreditReturn (c : Chip) (s : Nat) : Chip :=
  if !creditDue (chanOf c s) then c
  else
    let c := creditReturn c s
    let h := chanOf c s
    if partyClass h.prod = 4 then portDrain c (partyNo h.prod) 5
    else h.sends.foldl (fun c _ => takeOldest c s) c

/-- The command CREDIT_RETURN on a unit that exists. -/
def execCreditReturn (ch : Nat) (s : State) : Host.Outcome State Fault Refusal :=
  onUnit (isChan ch) s (fun c => xCreditReturn c ch)

/-- Has the tail timer run out? -/
def tailDue (c : Chip) (h : Chan) : Bool :=
  h.opened && decide (h.tailto ≠ 0) && h.tailRun && decide (chDepth h ≠ 0) && decide (h.tailAt + 1000 * h.tailto ≤ c.tb)

/-- TAIL_TIMER_EXPIRY: TAILF is set; a link queue's partly filled bank is closed and sent, which clears TAILF again where the
port takes it. -/
def xTailTimerExpiry (c : Chip) (s : Nat) : Chip :=
  let h := chanOf c s
  if !tailDue c h then c
  else
    let c := updChan c s (fun h => { h with tailf := true, tailRun := false })
    if isLinkQ h then (closeBank c (partyNo h.cons) s none 9 0).1 else c

/-- The command TAIL_TIMER_EXPIRY on a unit that exists. -/
def execTailTimerExpiry (ch : Nat) (s : State) : Host.Outcome State Fault Refusal :=
  onUnit (isChan ch) s (fun c => xTailTimerExpiry c ch)

/-! ### Closes (R302) -/

/-- A link queue leaves its port: frames and banks not acknowledged are words left, and the notes that wait for them are
complete; the stream keeps its next SEQ (R485). Answers the words left in frames. -/
def unbindLink (c : Chip) (s : Nat) : Chip × Nat :=
  let p := partyNo (chanOf c s).cons
  match (if isLinkQ (chanOf c s) then streamNo c p s else none) with
  | none => (c, 0)
  | some k =>
    let st := streamOf c p k
    let n := st.frames.foldl (fun n f => n + f.words.length) 0
    let c := st.frames.foldl (fun c f => if f.lane < 4 then noteDone c f.lane f.job else c) c
    let c := st.banks.foldl (fun c b => if b.lane < 4 then noteDone c b.lane b.job else c) c
    (updStream c p k (fun st => { next := st.next }), n)

/-- The end of a close: the words left are counted into LOST and the slot is freed. Answers the words left. -/
def closeChan (c : Chip) (s : Nat) : Chip × Nat :=
  let (c, n) := unbindLink c s
  let c := updChan c s (fun h => { h with lost := sat (h.lost + n) 0xFFFFFFFF })
  let (c, left) := closeSlot c s
  (c, left + n)

/-- A close ends with its completion. -/
def endClose (c : Chip) (s : Nat) (r : ReplyTo) : Chip :=
  let (c, left) := closeChan c s
  complete c r stOK (wd left)

/-- Has a draining queue nothing left: no word queued, and for a link queue every frame acknowledged? -/
def drainedChan (c : Chip) (s : Nat) : Bool :=
  let h := chanOf c s
  decide (chDepth h = 0) &&
    match (if isLinkQ h then streamNo c (partyNo h.cons) s else none) with
    | some k => (streamOf c (partyNo h.cons) k).frames.isEmpty
    | none => true

/-- CLOSE_DRAIN_END. -/
def xCloseDrainEnd (c : Chip) (s : Nat) : Chip :=
  match (chanOf c s).closing with
  | some q => if q.drain ∧ drainedChan c s then endClose c s q.reply else c
  | none => c

/-- The command CLOSE_DRAIN_END on a unit that exists. -/
def execCloseDrainEnd (ch : Nat) (s : State) : Host.Outcome State Fault Refusal :=
  onUnit (isChan ch) s (fun c => xCloseDrainEnd c ch)

/-- CLOSE_DRAIN_LIMIT. -/
def xCloseDrainLimit (c : Chip) (s : Nat) : Chip :=
  match (chanOf c s).closing with
  | some q => if q.drain then endClose c s q.reply else c
  | none => c

/-- The command CLOSE_DRAIN_LIMIT on a unit that exists. -/
def execCloseDrainLimit (ch : Nat) (s : State) : Host.Outcome State Fault Refusal :=
  onUnit (isChan ch) s (fun c => xCloseDrainLimit c ch)

end Sys2Proof.Machine
end

