-- ==== Sys2Proof/Machine/Commands.lean ====
section
/-! DEFINITION. The command path (R516 to R542): taking a command and the checks of R521, and what the commands of device
state, power, courses, memory, registers, drones, links, keys, dumps and flash do (R542 to R556, R657, R665, R726). -/

namespace Sys2Proof.Machine

open Sys2Proof

/-! ### The checks that every command passes (R517, R521) -/

/-- The opcodes defined (R541). -/
def opcodes : List Nat :=
  [0x01, 0x02, 0x03, 0x04, 0x05, 0x06, 0x07, 0x08, 0x09, 0x10, 0x11, 0x12, 0x13, 0x14, 0x15, 0x16, 0x17, 0x18, 0x19, 0x20, 0x21,
    0x22, 0x28, 0x29, 0x2A, 0x2B, 0x2C, 0x2D, 0x30, 0x38, 0x40, 0x48, 0x49]

/-- Is an opcode defined on this build option (R3, R541)? -/
def cmdDefined (op : Nat) : Bool := decide (op ∈ opcodes) && (decide (op ≠ 0x38) || Config.optE)

/-- Does a LENGTH fit the command? -/
def lenOk (p : Packet) : Bool :=
  let n := p.length
  let fits :=
    if p.opcode = 0x12 then decide (n = 32 * (p.flags % 2))
    else if p.opcode = 0x16 ∨ p.opcode = 0x29 ∨ p.opcode = 0x49 then decide (4 ≤ n) && decide (n ≤ 4096) && decide (n % 4 = 0)
    else if p.opcode = 0x20 then decide (n = 32)
    else if p.opcode = 0x38 then decide (n = 0) || decide (n = 32)
    else decide (n = 0)
  fits && decide (p.payload.length = n)

/-! ### The records DUMP_READ selects (R82, R553, R665) -/

/-- Is a removal record valid (R82)? -/
def recValid (c : Chip) (i : Nat) : Bool :=
  let ga := flashGa (recSlot i)
  decide (leNat c ga 4 = 0x31564D52) && decide (crc32 (bytesAt c ga 0x1FC) = wordAt c (ga + 0x1FC))

/-- The valid removal record of the highest SEQ. -/
def latestRec (c : Chip) : Option Nat :=
  ((List.range 64).filter (recValid c)).foldl (fun best i =>
    match best with
    | some j => if leNat c (flashGa (recSlot j) + 8) 4 < leNat c (flashGa (recSlot i) + 8) 4 then some i else best
    | none => some i) none

/-- A dump's place, length and validity; an invalid one is taken as 1 MiB long, as far as its store reaches. -/
def dumpRecord (c : Chip) (ga size : Nat) : Nat × Nat × Bool :=
  if dumpValid c ga size then (ga, leNat c (ga + 8) 4, true) else (ga, 0x100000 - ga % 0x100000 * b1 (decide (ga < 0x60000000)), false)

/-- The record a selector names; none where no valid removal record exists. -/
def dumpSel (c : Chip) (sel : Nat) : Option (Nat × Nat × Bool) :=
  let next := regFld c (rRET 0x02C) 0 0
  if sel = 0 then some (dumpRecord c (dumpArea c).1 (dumpArea c).2)
  else if sel = 0x10 then some (dumpRecord c (flashGa (dumpSlot (1 - next))) 0x100000)
  else if sel = 0x11 then some (dumpRecord c (flashGa (dumpSlot next)) 0x100000)
  else if sel = 0x140 then (latestRec c).map (fun i => (flashGa (recSlot i), 512, true))
  else some (flashGa (recSlot (sel - 0x100)), 512, recValid c (sel - 0x100))

/-- The bytes a DUMP_READ sends: the words asked for, as far as the record selected reaches (R553). -/
def dumpBytes (c : Chip) (p : Packet) : Nat :=
  match dumpSel c (bits p.p2 15 0) with
  | some (_, len, _) => 4 * Nat.min (bits p.p2 31 16) ((len - p.p3.toNat) / 4)
  | none => 0

/-- Do the payload and the reply of a command fit the datagrams of an Ethernet queue (R505)? -/
def replyFits (c : Chip) (p : Packet) : Bool :=
  p.queue < 4 || decide (p.length ≤ 1942) &&
    (if p.opcode = 0x15 then decide (p.p3.toNat ≤ 1412) else if p.opcode = 0x40 then decide (dumpBytes c p ≤ 1412) else true)

/-- Is a command legal in a device state (R540)? -/
def legalIn (op : Nat) (d : DevState) : Bool :=
  let any (l : List DevState) : Bool := decide (d ∈ l)
  if op ∈ [0x01, 0x02, 0x03, 0x15, 0x17, 0x18, 0x22, 0x2D, 0x40] then
    any [.standby, .configured, .armed, .running, .changeover, .halted, .faulted, .detaching]
  else if op = 0x04 ∨ op = 0x09 then any [.standby, .configured]
  else if op = 0x05 then any [.armed, .running, .changeover]
  else if op = 0x06 then any [.halted]
  else if op = 0x07 then any [.faulted]
  else if op = 0x08 then any [.standby, .configured, .armed, .running, .halted, .faulted]
  else if op ∈ [0x10, 0x11, 0x12, 0x13, 0x14, 0x16, 0x19, 0x30, 0x20] then any [.configured, .armed, .running, .changeover, .halted]
  else if op = 0x21 then any [.configured, .armed, .running, .changeover, .halted, .faulted]
  else if op ∈ [0x28, 0x29, 0x2A] then any [.standby, .configured, .running, .halted]
  else if op = 0x2B then any [.configured, .running]
  else if op = 0x2C then any [.armed, .changeover]
  else if op = 0x38 then any [.standby, .configured, .halted, .faulted]
  else any [.standby]

/-- Rescue mode executes these alone (R684). -/
def inRescue (c : Chip) : Bool := bit (regVal c (rGLB 0x004)) 0

/-- Does the device state allow a command (R521 check 5)? -/
def stateOk (c : Chip) (op : Nat) : Bool :=
  legalIn op c.dev && (!inRescue c || decide (op ∈ [0x01, 0x02, 0x03, 0x08, 0x17, 0x18, 0x40, 0x48, 0x49]))

/-- The range of R248 that holds an address a memory command may reach. -/
def memRange (a : Nat) : Option Nat :=
  match target none a with
  | .sram n _ => some n
  | .store k _ => some (300 + k)
  | .tab b _ => some (400 + b)
  | .ret _ => some 410
  | .flash _ => some 411
  | _ => none

/-- Does an extent of `n` bytes lie in one populated range (R550)? -/
def extentOk (a n : Nat) : Bool := (memRange a).isSome && decide (memRange a = memRange (a + n - 1))

/-- Is a word 0 but for the bits of a mask? -/
def only (w m : Word) : Bool := decide (w &&& ~~~ m = 0)

/-- The courses a COURSE command names (R547). -/
def namedCourses (p : Packet) : List Nat :=
  if p.flags % 2 = 1 then (List.range 256).filter (fun n => ((p.payload.getD (n / 8) 0).toNat).testBit (n % 8))
  else [bits p.p2 7 0]

/-- Is a start address even and below 0x8000? -/
def startOk (a : Nat) : Bool := decide (a < 0x8000) && decide (a % 2 = 0)

/-- The parameters of COURSE. String B's start address is ignored in unison. -/
def courseParams (c : Chip) (p : Packet) : Bool :=
  let act := bits p.p2 19 16
  let b := bits p.p3 31 16
  only p.p2 (if p.flags % 2 = 1 then 0xF0000 else 0xF00FF) && decide (1 ≤ act) && decide (act ≤ 4) &&
    (if act = 4 then
      startOk (bits p.p3 15 0) &&
        (decide (b = 0xFFFF) || startOk b || (namedCourses p).all (fun n => inUnison c n))
     else decide (p.p3 = 0))

/-- The descriptor image of CHAN_OPEN: word `i`. -/
def descW (p : Packet) (i : Nat) : Word := (wordsOf p.payload).getD i 0

/-- Is a party code one of R288? -/
def partyOk (n : Nat) : Bool :=
  let i := partyNo n
  match partyClass n with
  | 0 => decide (i = 0)
  | 1 => decide (i < 512)
  | 2 => decide (i < 256)
  | 3 => decide (i = 0)
  | 4 => decide (i < 128)
  | 5 => decide (i = 0)
  | _ => false

/-- Is the descriptor's consumer a LINK port: class 4 in format WORD (R289)? -/
def descLink (p : Packet) : Bool := decide (partyClass (bits (descW p 1) 31 16) = 4) && !bit (descW p 0) 2

/-- The values of the descriptor that are not reserved (R301). -/
def descOk (p : Packet) : Bool :=
  let ctl := descW p 0
  let evt := descW p 3
  let k := bits ctl 7 4
  let src := bits evt 9 0
  decide (bits ctl 1 0 ≠ 3) && only ctl 0xF7F7 && decide (2 ≤ k) && decide (k ≤ 10) && (!descLink p || decide (k ≤ 5)) &&
    decide (bits ctl 10 8 ≤ 3) && partyOk (bits (descW p 1) 15 0) && partyOk (bits (descW p 1) 31 16) &&
    (descLink p || only (descW p 2) 0x7FFFF) && only evt 0xFFF3FF && (decide (src = 0) || (decide (257 ≤ src) && decide (src ≤ 512))) &&
    decide (1 ≤ bits evt 23 12) && decide (bits evt 23 12 ≤ 2 ^ (k + 1)) && only (descW p 4) 0xFFFF

/-- Is a selector of DUMP_READ one of R665? -/
def selOk (s : Nat) : Bool := decide (s ∈ [0x0000, 0x0010, 0x0011, 0x0140]) || (decide (0x0100 ≤ s) && decide (s < 0x0140))

/-- Reserved bits and ranges of PARAM2, PARAM3 and the payload (R517, R521 check 7). -/
def paramsOk (c : Chip) (p : Packet) : Bool :=
  let a := p.p2.toNat
  let n := p.p3.toNat
  let p3z := decide (p.p3 = 0)
  match p.opcode with
  | 0x04 => only p.p2 1 && p3z
  | 0x06 => only p.p2 1 && p3z
  | 0x08 => (decide (p.flags % 2 = 1) || decide (p.p2 = 0)) && decide (n ≤ 1000)
  | 0x09 => (decide (a = 1) || decide (a = 2)) && p3z
  | 0x10 =>
    only p.p2 0x7FF && decide (bits p.p2 7 0 ≠ 0) && decide (bits p.p2 9 8 ≠ 3) &&
      (if bits p.p2 9 8 = 0 ∧ bit p.p2 10 then decide (600 ≤ n) && decide (n ≤ 1150) && decide (n % 5 = 0) else p3z)
  | 0x11 => only p.p2 0x33F && decide (bits p.p2 9 8 ≠ 3) && p3z
  | 0x12 => courseParams c p
  | 0x13 => only p.p2 0x1FF && (if bit p.p2 8 then p3z else startOk n)
  | 0x14 => only p.p2 0xFF && p3z
  | 0x15 => decide (a % 4 = 0) && decide (4 ≤ n) && decide (n ≤ 4096) && decide (n % 4 = 0) && extentOk a n
  | 0x16 => decide (a % 4 = 0) && p3z && extentOk a p.length && decide (a < 0x70000000)
  | 0x17 => decide (0x60000000 ≤ a) && decide (a < 0x61000000) && decide (a % 4 = 0) && p3z
  | 0x18 => decide (0x60000000 ≤ a) && decide (a < 0x61000000) && decide (a % 4 = 0)
  | 0x19 => only p.p2 0xF
  | 0x20 => only p.p2 0x1F && p3z && descOk p
  | 0x21 => only p.p2 1 && decide (n ≤ 1000)
  | 0x28 => only p.p2 3 && p3z
  | 0x29 => only p.p2 0xFFFFFF && p3z && decide (a % 4 = 0) && decide (a % 0x800000 + p.length ≤ 0x800000)
  | 0x2A => only p.p2 1 && p3z
  | 0x2B => only p.p3 3
  | 0x30 =>
    only p.p2 0xFF0FFF && decide (1 ≤ bits p.p2 11 8) && decide (bits p.p2 11 8 ≤ 8) && decide (bits p.p2 23 16 % 4 = 0) &&
      (bit p.p2 7 || p3z)
  | 0x38 => only p.p2 3 && p3z
  | 0x40 => selOk (bits p.p2 15 0) && decide (1 ≤ bits p.p2 31 16) && decide (bits p.p2 31 16 ≤ 1024) && decide (n % 4 = 0)
  | 0x48 => decide (a % 0x4000 = 0) && decide (a < 0x10000000) && p3z && flashWritable c a
  | 0x49 => decide (a % 4 = 0) && decide (a < 0x10000000) && p3z && decide (a % 0x4000 + p.length ≤ 0x4000) && flashWritable c a
  | _ => decide (p.p2 = 0) && p3z

/-- The bits of FLAGS a command uses. -/
def flagMask (op : Nat) : Nat := if op = 0x08 ∨ op = 0x12 ∨ op = 0x22 then 1 else 0

/-- Does the command's reply carry a payload (R525)? -/
def paysReply (op : Nat) : Bool := decide (op ∈ [0x02, 0x03, 0x15, 0x22, 0x2D, 0x40])

/-- Does the command name a channel? -/
def namesChan (op : Nat) : Bool := op = 0x21 || op = 0x22

/-- The checks 2 to 7 of R521, in their order: the status of the first that fails. -/
def chkCommand (c : Chip) (p : Packet) : Option Nat :=
  if !cmdDefined p.opcode then some stOPCODE
  else if !lenOk p ∨ !replyFits c p then some stLENGTH
  else if p.opcode = 0x38 ∧ 4 ≤ p.queue then some stAUTH
  else if !stateOk c p.opcode then some stSTATE
  else if namesChan p.opcode ∧ slotOfHandle c p.handle = none then some stHANDLE
  else if p.resv ≠ 0 ∨ p.flags / (flagMask p.opcode + 1) ≠ 0 ∨ (namesChan p.opcode = false ∧ p.handle ≠ 0) ∨ !paramsOk c p ∨
      (paysReply p.opcode ∧ p.queue < 4 ∧ p.raddr = 0) then some stPARAM
  else none

/-! ### Taking a command (R524 to R528, R533) -/

/-- Does a queue have a command that can be taken: an entry of an enabled ring with room for the answers, or a datagram? -/
def queueReady (c : Chip) (q : Nat) : Bool :=
  if q < 4 then
    let owed := (c.accepted.filter (fun r => decide (r.queue = q))).length
    queueEn c q && canWriteHost c && decide ((queueOf c q).head ≠ (queueOf c q).tail) &&
      decide ((queueOf c q).replies.length + owed + 2 ≤ 64)
  else !(queueOf c q).packets.isEmpty

/-- The next queue in turn that has a command. -/
def nextQueue (c : Chip) : Option Nat :=
  ((List.range 6).map (fun i => (c.lastQueue + 1 + i) % 6)).find? (queueReady c)

/-- Can the luthier take a command: the host interfaces up, none in hand, no entry into WATCH or HIBERNATE past its
completion? -/
def canTake (c : Chip) : Bool :=
  gorene c && c.sys.per && hostStates c && c.cur.isNone &&
    !(match c.sys.power with | some p => decide (p.step = 1) | none => false)

/-- A command is read: its SEQ is checked, and then the checks that every command passes (R521, R533). -/
def takePacket (c : Chip) (q : Nat) (p : Packet) : Chip :=
  let c := { c with lastQueue := q }
  let exp := (queueOf c q).expect.getD p.seq
  if p.seq ≠ exp then post c (replyTo p) false stPARAM (wd (0x5E000000 + exp)) [] p.handle false
  else
    let c := updQueue c q (fun r => { r with expect := some ((p.seq + 1) % 65536) })
    match chkCommand c p with
    | some st => reply c (replyTo p) st 0
    | none => { c with cur := some p }

/-- COMMAND_TAKE: the next command round-robin. For a ring, `hdr` is the header of the entry, `payload` what PADDR holds and
`raddr` its RADDR as read from host memory; `bad` says that a read failed (R526). -/
def xCommandTake (c : Chip) (hdr payload : List Byte) (raddr : Nat) (bad : Bool) : Chip :=
  if !canTake c then c
  else
    match nextQueue c with
    | none => c
    | some q =>
      if q < 4 then
        if bad then { (regClr (regOr c (rCMD q 0x08) 0x100) (rCMD q 0x08) 0x10) with lastQueue := q }
        else
          let size := 2 ^ regFld c (rCMD q 0x08) 3 0
          let c := updQueue c q (fun r => { r with head := (r.head + 1) % size })
          takePacket c q (packetOf q hdr payload raddr 0 0)
      else
        match (queueOf c q).packets with
        | [] => c
        | p :: t => takePacket (updQueue c q (fun r => { r with packets := t })) q p

/-- The command COMMAND_TAKE. -/
def execCommandTake (hdr payload : List Byte) (raddr : Nat) (bad : Bool) (s : State) :
    Host.Outcome State Fault Refusal :=
  onChip s (fun c => xCommandTake c hdr payload raddr bad)

/-- The commands that POWER_MODE leaves executable until its completion (R625). -/
def duringPowerMode : List Nat := [0x01, 0x02, 0x03, 0x2D, 0x22, 0x15, 0x40]

/-- Executes the command in hand where it has the opcode: the checks are judged in the device state of this moment (R538), and
during POWER_MODE most commands are answered BUSY (R625). -/
def withCmd (c : Chip) (op : Nat) (f : Chip → Packet → Chip) : Chip :=
  match c.cur with
  | none => c
  | some p =>
    if p.opcode ≠ op then c
    else
      let c := { c with cur := none }
      let busy := match c.sys.power with | some w => decide (w.kind = 2) && !decide (op ∈ duringPowerMode) | none => false
      match chkCommand c p with
      | some st => reply c (replyTo p) st 0
      | none => if busy then reply c (replyTo p) stBUSY 0 else f c p

/-- The reply OK with a detail. -/
def okReply (c : Chip) (p : Packet) (detail : Word) : Chip := reply c (replyTo p) stOK detail

/-- A refusal. -/
def refuse (c : Chip) (p : Packet) (status : Nat) (detail : Word) : Chip := reply c (replyTo p) status detail

/-- The reply ACCEPTED and what begins with it; BUSY where 16 commands stand accepted (R529). -/
def begins (c : Chip) (p : Packet) (f : Chip → Chip) : Chip :=
  if 16 ≤ c.accepted.length then refuse c p stBUSY 0 else f (accept c (replyTo p))

/-! ### Device state and identity (R542, R543, R657) -/

/-- NOP_COMMAND. -/
def xNopCommand (c : Chip) : Chip := withCmd c 0x01 (fun c p => okReply c p 0)

/-- The command NOP_COMMAND. -/
def execNopCommand (s : State) : Host.Outcome State Fault Refusal :=
  onChip s (fun c => xNopCommand c)

/-- IDENT. -/
def xIdent (c : Chip) : Chip := withCmd c 0x02 (fun c p => replyData c (replyTo p) (identRecord c))

/-- The command IDENT. -/
def execIdent (s : State) : Host.Outcome State Fault Refusal :=
  onChip s (fun c => xIdent c)

/-- The islands in a state, as a mask. -/
def islMask (c : Chip) (s : PegState) : Nat := maskOf ((List.range 8).filter (fun k => decide (islOf c k = s)))

/-- DEV_STAT. -/
def xDevStat (c : Chip) : Chip :=
  withCmd c 0x03 (fun c p =>
    let st := regVal c 0x60000000
    replyData c (replyTo p)
      ([devCode c.dev, attachCode c.sys.attach, bits st 15 8, bits st 23 16, islMask c .on, islMask c .ret, 0, 0].map (BitVec.ofNat 8) ++
        bytesOf [regVal c (rGLB 0x034), regVal c (rGLB 0x038)]))

/-- The command DEV_STAT. -/
def execDevStat (s : State) : Host.Outcome State Fault Refusal :=
  onChip s (fun c => xDevStat c)

/-- Is an island ON or coming up? -/
def islandOn (c : Chip) : Bool := (List.range 8).any (islLive c)

/-- CONFIGURE. -/
def xConfigure (c : Chip) : Chip :=
  withCmd c 0x04 (fun c p =>
    if bit p.p2 0 then
      if c.dev ≠ .standby then refuse c p stSTATE 0
      else if !onPll c then refuse c p stSTATE 1
      else okReply (setDev c .configured 0) p 0
    else if c.dev ≠ .configured then refuse c p stSTATE 0
    else if islandOn c ∨ (openChans c).isEmpty = false then refuse c p stSTATE 2
    else okReply (setDev c .standby 0) p 0)

/-- The command CONFIGURE. -/
def execConfigure (s : State) : Host.Outcome State Fault Refusal :=
  onChip s (fun c => xConfigure c)

/-- HALT. -/
def xHalt (c : Chip) : Chip := withCmd c 0x05 (fun c p => okReply (enterHalted c 1) p 0)

/-- The command HALT. -/
def execHalt (s : State) : Host.Outcome State Fault Refusal :=
  onChip s (fun c => xHalt c)

/-- RESUME. -/
def xResume (c : Chip) : Chip :=
  withCmd c 0x06 (fun c p =>
    let c := if bit p.p2 0 then tabEndActive c else tabResume c
    let c := { c with tab := { c.tab with stopped := false } }
    okReply (setDev c (if c.tab.active.isSome then .running else .configured) 0) p 0)

/-- The command RESUME. -/
def execResume (s : State) : Host.Outcome State Fault Refusal :=
  onChip s (fun c => xResume c)

/-- Closes every open channel as with DRAIN 0 (R657 step 2). -/
def closeAll (c : Chip) : Chip := (openChans c).foldl (fun c s => (closeChan c s).1) c

/-- The work of RECOVER (R657); `ring` says whether every unit answers after the reset of the peg ring. -/
def recoverWork (c : Chip) (r : ReplyTo) (ring : Bool) : Chip :=
  let cause := regFld c (rRET 0x014) 7 0
  let c := allOff ((liveCourses c).foldl pegReset c)
  let c := closeAll c
  let c := (List.range 128).foldl (fun c p => reconfigure c p 0) c
  if cause = 1 ∧ ring = false then complete c r stFAULT 0
  else
    let c := (List.range 128).foldl (fun c p => portDrain c p 5) { c with stopped := [] }
    let c := if ring then { c with sys := { c.sys with gone := [] } } else c
    let c := tabEndActive c
    let c := { c with tab := { c.tab with stopped := false } }
    complete (setDev c .standby 0) r stOK 0

/-- RECOVER. A dump still owed is written first, and is kept. -/
def xRecover (c : Chip) (ring : Bool) : Chip :=
  withCmd c 0x07 (fun c p =>
    let cause := regFld c (rRET 0x014) 7 0
    let hot := decide (cause = 2) && decide (1000 ≤ sgn (sext 16 (regVal c (rPWR 0x020) &&& 0xFFFF)))
    if hot ∨ cause = 5 then refuse c p stSTATE (wd cause)
    else begins c p (fun c => recoverWork (xDumpWritten c) (replyTo p) ring))

/-- The command RECOVER. -/
def execRecover (ring : Bool) (s : State) : Host.Outcome State Fault Refusal :=
  onChip s (fun c => xRecover c ring)

/-- DETACH (R69, R70). -/
def xDetach (c : Chip) : Chip :=
  withCmd c 0x08 (fun c p =>
    if !detachLegal c then refuse c p stSTATE 0
    else
      begins c p (fun c =>
        detachBegin c (some (replyTo p)) (decide (p.flags % 2 = 1)) p.p2 (if p.p3 = 0 then 100 else p.p3.toNat)))

/-- The command DETACH. -/
def execDetach (s : State) : Host.Outcome State Fault Refusal :=
  onChip s (fun c => xDetach c)

/-! ### Power (R542, R544, R545, R625, R726) -/

/-- Does the mode of a port in ENC or CAP use a pair, 0 for A (R430)? -/
def pairUsed (c : Chip) (p j : Nat) : Bool :=
  let r := portOf c p
  decide (r.mode = 3) || (decide (r.mode = 5) && (decide (j = 0) || decide (r.sub = 1)))

/-- Does an enabled watch slot name a port that cannot be watched, or compare a pair its mode leaves unused (R625)? -/
def badWatch (c : Chip) : Bool :=
  (List.range 16).any (fun i =>
    let w := regVal c (rPWR (0x0C0 + 4 * i))
    let p := bits w 6 0
    let ok := decide ((portOf c p).mode = 3) || decide ((portOf c p).mode = 5)
    bit w 7 && (!ok || (List.range 2).any (fun j => bit w (10 + j) && !pairUsed c p j)))

/-- The begin of a power command: one runs at a time (R726). -/
def powerBegin (c : Chip) (p : Packet) (cmd : PowerCmd) (go : Chip → Chip) : Chip :=
  if c.sys.power.isSome then refuse c p stBUSY 0
  else begins c p (fun c => go { c with sys := { c.sys with power := some cmd } })

/-- POWER_MODE: WCTL and WTIMER are taken as they stand (R625). -/
def xPowerMode (c : Chip) : Chip :=
  withCmd c 0x09 (fun c p =>
    let mode := bits p.p2 1 0
    if islandOn c ∨ (openChans c).isEmpty = false then refuse c p stSTATE 2
    else if badWatch c then refuse c p stSTATE 3
    else
      powerBegin c p ⟨2, mode, [], [], none, replyTo p, 0, [], [], 0, none⟩ (fun c =>
        hsStart { c with sys := { c.sys with wctl := regVal c (rPWR 0x044), wtimer := regVal c (rPWR 0x048) } } (4 + mode)
          (List.range 8)))

/-- The command POWER_MODE. -/
def execPowerMode (s : State) : Host.Outcome State Fault Refusal :=
  onChip s (fun c => xPowerMode c)

/-- ISLAND. -/
def xIsland (c : Chip) : Chip :=
  withCmd c 0x10 (fun c p =>
    let l := (List.range 8).filter (fun k => bit p.p2 k)
    let v := if bits p.p2 9 8 = 0 ∧ bit p.p2 10 then some p.p3.toNat else none
    powerBegin c p ⟨0, bits p.p2 9 8, l, [], v, replyTo p, 0, [], [], 0, none⟩ (fun c => powerGo c 9))

/-- The command ISLAND. -/
def execIsland (s : State) : Host.Outcome State Fault Refusal :=
  onChip s (fun c => xIsland c)

/-- DOMAIN. -/
def xDomain (c : Chip) : Chip :=
  withCmd c 0x11 (fun c p =>
    let g := bits p.p2 5 0
    if islOf c (islandOfPeg g) ≠ .on then refuse c p stDOMAINOFF 0
    else powerBegin c p ⟨1, bits p.p2 9 8, [g], [], none, replyTo p, 0, [], [], 0, none⟩ (fun c => powerGo c 9))

/-- The command DOMAIN. -/
def execDomain (s : State) : Host.Outcome State Fault Refusal :=
  onChip s (fun c => xDomain c)

/-! ### Courses (R233, R547 to R549, R623) -/

/-- A halted string goes on where it stopped; one halted by a double trap stays halted. -/
def resumeString (c : Chip) (k : Nat) : Chip :=
  let r := coreOf c k
  if r.halted && r.started && !r.dhalt then updCore c k (fun r => { r with halted := false, haltReq := false }) else c

/-- COURSE RESUME of one course. -/
def resumeCourse (c : Chip) (n : Nat) : Chip :=
  let r := courseOf c n
  if r.safe then c
  else if r.degraded then resumeString c (2 * n + b1 r.survB)
  else if inUnison c n && ((coreOf c (2 * n)).dhalt || (coreOf c (2 * n + 1)).dhalt) then c
  else resumeString (resumeString c (2 * n)) (2 * n + 1)

/-- A string begins at an address. -/
def startString (c : Chip) (k a : Nat) : Chip := updCore c k (fun r => { r with pc := a, halted := false, started := true })

/-- COURSE START of one course. -/
def startCourse (c : Chip) (p : Packet) (n : Nat) : Chip :=
  let a := bits p.p3 15 0
  let b := bits p.p3 31 16
  let c := startString c (2 * n) a
  if inUnison c n then takeSnap (startString c (2 * n + 1) a) n
  else if b = 0xFFFF then c
  else startString c (2 * n + 1) b

/-- May a START begin a course: halted and not started since its reset; no string with a failed LBIST (R547)? -/
def startable (c : Chip) (p : Packet) (n : Nat) : Bool :=
  let r := courseOf c n
  let usesB := inUnison c n || decide (bits p.p3 31 16 ≠ 0xFFFF)
  courseHalted c n && !(coreOf c (2 * n)).started && !(coreOf c (2 * n + 1)).started && !r.badA && !(r.badB && usesB)

/-- COURSE HALT: the peg halts the courses; those not reported halted at once are waited for. -/
def haltCourses (c : Chip) (r : ReplyTo) (l : List Nat) : Chip :=
  let c := l.foldl requestHalt c
  let todo := l.filter (fun n => !courseReported c n)
  if todo.isEmpty then complete c r stOK 0
  else { c with sys := { c.sys with halts := c.sys.halts ++ [⟨r, todo⟩] } }

/-- COURSE. -/
def xCourse (c : Chip) : Chip :=
  withCmd c 0x12 (fun c p =>
    let l := namedCourses p
    let act := bits p.p2 19 16
    if l.any (fun n => !courseOn c n) then refuse c p stDOMAINOFF 0
    else if l.any (fun n => decide ((courseOf c n).check ≠ 0)) then refuse c p stSTATE 0
    else if act = 1 then begins c p (fun c => haltCourses c (replyTo p) l)
    else if act = 2 then okReply (l.foldl resumeCourse c) p 0
    else if act = 3 then okReply (l.foldl pegReset c) p 0
    else if l.any (hsHolds c) then refuse c p stBUSY 0
    else if l.any (fun n => !startable c p n) then refuse c p stSTATE 0
    else okReply (l.foldl (fun c n => startCourse c p n) c) p 0)

/-- The command COURSE. -/
def execCourse (s : State) : Host.Outcome State Fault Refusal :=
  onChip s (fun c => xCourse c)

/-- Is a course in split? -/
def inSplit (c : Chip) (n : Nat) : Bool := decide ((courseOf c n).mode = 0) && !c.fixedUnison

/-- HANDOVER (R233 to R236). -/
def xHandover (c : Chip) : Chip :=
  withCmd c 0x13 (fun c p =>
    let n := bits p.p2 7 0
    let uni := bit p.p2 8
    let r := courseOf c n
    if !courseOn c n then refuse c p stDOMAINOFF 0
    else if r.hand.isSome ∨ hsHolds c n then refuse c p stBUSY 0
    else if c.fixedUnison ∨ r.mode = b1 uni ∨ r.check ≠ 0 ∨ r.degraded ∨ r.safe ∨ (uni ∧ (r.tflt ∨ r.badA ∨ r.badB)) then
      refuse c p stSTATE 0
    else
      begins c p (fun c =>
        let h : Hand := ⟨uni, p.p3.toNat, replyTo p, courseHalted c n⟩
        let c := updCourse c n (fun r => { r with mode := 2, locked := !uni, hand := some h })
        if uni then c else callCkpt c n))

/-- The command HANDOVER. -/
def execHandover (s : State) : Host.Outcome State Fault Refusal :=
  onChip s (fun c => xHandover c)

/-- TUNER_TEST. -/
def xTunerTest (c : Chip) : Chip :=
  withCmd c 0x14 (fun c p =>
    let n := bits p.p2 7 0
    if !courseOn c n then refuse c p stDOMAINOFF 0
    else if (courseOf c n).test.isSome then refuse c p stBUSY 0
    else if !(inSplit c n && courseHalted c n) then refuse c p stSTATE 0
    else if hsHolds c n then refuse c p stBUSY 0
    else begins c p (fun c => updCourse c n (fun r => { r with check := 1, test := some (replyTo p) })))

/-- The command TUNER_TEST. -/
def execTunerTest (s : State) : Host.Outcome State Fault Refusal :=
  onChip s (fun c => xTunerTest c)

/-! ### Memory, registers, drones (R550 to R552) -/

/-- Reads `n` words in ascending order; the status of the word that ends the command, if any. Words `hurt` names, counted on from
`i`, arrive poisoned (R271). -/
def readWords (c : Chip) (a i : Nat) (hurt : List Nat) : Nat → Chip × List Word × Option Nat
  | 0 => (c, [], none)
  | n + 1 =>
    match readTgt (accessFlits c 512 0 (tgtOf 512 a)) 512 a 4 with
    | (c, .good w false) =>
      if i ∈ hurt then (c, [], some stFAULT)
      else
        let (c, l, e) := readWords c (a + 4) (i + 1) hurt n
        (c, w :: l, e)
    | (c, .good _ true) => (c, [], some stFAULT)
    | (c, _) => (c, [], some stDOMAINOFF)

/-- MEM_READ. -/
def xMemRead (c : Chip) : Chip :=
  withCmd c 0x15 (fun c p =>
    match readWords c p.p2.toNat 0 p.hurt (p.p3.toNat / 4) with
    | (c, l, none) => replyData c (replyTo p) (bytesOf l)
    | (c, _, some st) => refuse c p st 0)

/-- The command MEM_READ. -/
def execMemRead (s : State) : Host.Outcome State Fault Refusal :=
  onChip s (fun c => xMemRead c)

/-- Writes words in ascending order; the status of the word refused, if any, and the bytes written before it. Words `hurt` names
land as an open value with its poison tag (R271). -/
def writeWords (c : Chip) (a done : Nat) (hurt : List Nat) : List Word → Chip × Option Nat × Nat
  | [] => (c, none, done)
  | w :: t =>
    let bad := decide (done / 4 ∈ hurt)
    let (c, w) := if bad then fresh c else (c, w)
    match storeTgt (accessFlits c 512 1 (tgtOf 512 a)) 512 a 4 w bad with
    | (c, .good _ _) => writeWords c (a + 4) (done + 4) hurt t
    | (c, .off) => (c, some stDOMAINOFF, done)
    | (c, _) => (c, some stSTATE, done)

/-- MEM_WRITE. -/
def xMemWrite (c : Chip) : Chip :=
  withCmd c 0x16 (fun c p =>
    match writeWords c p.p2.toNat 0 p.hurt (wordsOf p.payload) with
    | (c, none, _) => okReply c p 0
    | (c, some st, n) => refuse c p st (wd n))

/-- The command MEM_WRITE. -/
def execMemWrite (s : State) : Host.Outcome State Fault Refusal :=
  onChip s (fun c => xMemWrite c)

/-- REG_READ. One of a cam and profile engine's register waits for its turn (R423). -/
def xRegRead (c : Chip) : Chip :=
  withCmd c 0x17 (fun c p =>
    if camBusy c p.p2.toNat then { c with cur := some p }
    else
      let (c, w) := regRead c p.p2.toNat
      okReply c p w)

/-- The command REG_READ. -/
def execRegRead (s : State) : Host.Outcome State Fault Refusal :=
  onChip s (fun c => xRegRead c)

/-- REG_WRITE. A write that a port refuses is dropped, as one of the host through BAR0 (R437, R551); one of a cam and profile
engine's register waits for its turn (R423). -/
def xRegWrite (c : Chip) : Chip :=
  withCmd c 0x18 (fun c p =>
    if camBusy c p.p2.toNat then { c with cur := some p } else okReply (regWrite c p.p2.toNat p.p3).1 p 0)

/-- The command REG_WRITE. -/
def execRegWrite (s : State) : Host.Outcome State Fault Refusal :=
  onChip s (fun c => xRegWrite c)

/-- DRONE_SET: DETAIL says whether the write was a jump that halted the device. -/
def xDroneSet (c : Chip) : Chip :=
  withCmd c 0x19 (fun c p =>
    let old := c.dev
    let c := setDrone c (bits p.p2 3 0) p.p3
    okReply c p (wd (b1 (decide (c.dev = .halted) && decide (old ≠ .halted)))))

/-- The command DRONE_SET. -/
def execDroneSet (s : State) : Host.Outcome State Fault Refusal :=
  onChip s (fun c => xDroneSet c)

/-! ### Firos nodes, keys (R554, R555) -/

/-- LINK_NODE. -/
def xLinkNode (c : Chip) : Chip :=
  withCmd c 0x30 (fun c p =>
    let port := bits p.p2 6 0
    let node := bits p.p2 11 8
    let l := linkOf c port
    if !(inLink c port && decide (l.lstate = 2)) then refuse c p stSTATE 0
    else if l.nodes < node then refuse c p stPARAM 0
    else
      begins c p (fun c =>
        let w0 := bits p.p2 23 16 + 256 * b1 (bit p.p2 7) + 65536 * p.seq
        updLink c port (fun l => { l with mgmt := l.mgmt ++ [⟨node, w0, p.p3, false, some (replyTo p)⟩] })))

/-- The command LINK_NODE. -/
def execLinkNode (s : State) : Host.Outcome State Fault Refusal :=
  onChip s (fun c => xLinkNode c)

/-- KEY_SET: installs or removes a key; an Ethernet queue takes its next SEQ afresh (R503, R533). -/
def xKeySet (c : Chip) : Chip :=
  withCmd c 0x38 (fun c p =>
    let c := updKey c (bits p.p2 1 0) (fun _ => { key := p.payload, host := 0, dev := 1 })
    let fresh (c : Chip) (q : Nat) : Chip := if p.length = 0 then c else updQueue c q (fun r => { r with expect := none })
    okReply (fresh (fresh c 4) 5) p 0)

/-- The command KEY_SET. -/
def execKeySet (s : State) : Host.Outcome State Fault Refusal :=
  onChip s (fun c => xKeySet c)

/-! ### Dumps and flash (R553, R556, R665 to R667) -/

/-- DUMP_READ. -/
def xDumpRead (c : Chip) : Chip :=
  withCmd c 0x40 (fun c p =>
    let sel := bits p.p2 15 0
    if sel = 0 ∧ bit (regVal c (rRET 0x004)) 1 then refuse c p stBUSY 0
    else
      match dumpSel c sel with
      | none => refuse c p stSTATE 0
      | some (ga, len, ok) =>
        let off := p.p3.toNat
        if len ≤ off then refuse c p stPARAM 0
        else
          post c (replyTo p) false stOK (wd (b1 (!ok))) (bytesAt c (ga + off) (4 * Nat.min (bits p.p2 31 16) ((len - off) / 4)))
            p.handle true)

/-- The command DUMP_READ. -/
def execDumpRead (s : State) : Host.Outcome State Fault Refusal :=
  onChip s (fun c => xDumpRead c)

/-- A flash operation is begun, or waits behind the one at work. -/
def flashBegin (c : Chip) (op : FlashOp) : Chip :=
  match c.sys.flash with
  | none => { c with sys := { c.sys with flash := some op } }
  | some _ => { c with sys := { c.sys with flashWait := c.sys.flashWait ++ [op] } }

/-- FLASH_ERASE. -/
def xFlashErase (c : Chip) : Chip :=
  withCmd c 0x48 (fun c p => begins c p (fun c => flashBegin c ⟨true, p.p2.toNat, [], replyTo p⟩))

/-- The command FLASH_ERASE. -/
def execFlashErase (s : State) : Host.Outcome State Fault Refusal :=
  onChip s (fun c => xFlashErase c)

/-- FLASH_WRITE. -/
def xFlashWrite (c : Chip) : Chip :=
  withCmd c 0x49 (fun c p => begins c p (fun c => flashBegin c ⟨false, p.p2.toNat, p.payload, replyTo p⟩))

/-- The command FLASH_WRITE. -/
def execFlashWrite (s : State) : Host.Outcome State Fault Refusal :=
  onChip s (fun c => xFlashWrite c)

end Sys2Proof.Machine
end

