-- ==== Sys2Proof/Machine/HostCmd.lean ====
section
/-! DEFINITION. The commands of channels and of the tablature (R287 to R303, R349 to R363). -/

namespace Sys2Proof.Machine

open Sys2Proof

/-! ### CHAN_OPEN (R287 to R301, R314) -/

/-- A descriptor image as CHAN_OPEN carries it: KIND, FMT, K, CRB, parties, QBASE, event and tail fields. -/
def descChan (p : Packet) : Chan :=
  let ctl := descW p 0
  let evt := descW p 3
  { kind := bits ctl 1 0, fmt := bits ctl 2 2, k := bits ctl 7 4, crb := bits ctl 10 8, prod := bits (descW p 1) 15 0,
    cons := bits (descW p 1) 31 16, qbase := bits (descW p 2) 18 0, evsrc := bits evt 9 0, evth := bits evt 23 12,
    tailto := bits (descW p 4) 15 0 }

/-- Do the parties and the format fit the kind (R287 to R289)? A consumer port in LINK uses WORD; every other channel that is
scheduled or has a port or the host as a party uses RECORD. -/
def partiesFit (c : Chip) (h : Chan) : Bool :=
  let pc := partyClass h.prod
  let cc := partyClass h.cons
  let parties :=
    if h.kind = 0 then decide (pc ∈ [3, 4]) && decide (cc ∈ [1, 2, 3, 4, 5])
    else if h.kind = 1 then decide (pc ∈ [1, 2, 4, 5]) && decide (cc ∈ [1, 2, 4, 5])
    else decide (pc ∈ [0, 1, 2]) && decide (cc ∈ [1, 2])
  let wants := decide (h.kind = 0) || decide (4 ≤ pc) || decide (4 ≤ cc)
  parties &&
    (if cc = 4 ∧ inLink c (partyNo h.cons) then decide (h.fmt = 0) else !wants || decide (h.fmt = 1))

/-- The open link queues of a port. -/
def linkQueues (c : Chip) (p : Nat) : List (Nat × Chan) :=
  c.chans.filter (fun (e : Nat × Chan) => e.2.opened && isLinkQ e.2 && decide (partyNo e.2.cons = p))

/-- Has a port no place for one more link queue (R299)? -/
def linkFull (c : Chip) (h : Chan) : Bool :=
  let l := linkQueues c (partyNo h.cons)
  isLinkQ h && (decide (4 ≤ l.length) || decide (256 < l.foldl (fun n e => n + chCap e.2) (chCap h)))

/-- The lowest free slot of a cluster. -/
def freeSlot (c : Chip) (k : Nat) : Option Nat :=
  ((List.range 128).map (fun i => 128 * k + i)).find? (fun s => !(chanOf c s).opened)

/-- Is a queue area misaligned, or does it overlap that of another open channel of the cluster (R300)? -/
def badArea (c : Chip) (k : Nat) (h : Chan) : Bool :=
  !isLinkQ h &&
    (decide (h.qbase % 2 ^ (h.k + 3) ≠ 0) ||
      c.chans.any (fun (e : Nat × Chan) => e.2.opened && !isLinkQ e.2 && decide (e.1 / 128 = k) &&
        decide (h.qbase < e.2.qbase + 4 * chCap e.2) && decide (e.2.qbase < h.qbase + 4 * chCap h)))

/-- The lowest stream of a port without a queue. -/
def freeStream (c : Chip) (p : Nat) : Option Nat := (List.range 4).find? (fun k => decide ((streamOf c p k).chan = none))

/-- Opens a slot in its next generation (R293); a stream producer holds credits for the whole queue (R314), and a link queue
takes the lowest free stream of its port, whose first frame carries FRESH (R485). -/
def openSlot (c : Chip) (s : Nat) (h : Chan) : Chip :=
  let gen := (chanOf c s).gen % 15 + 1
  let c := updChan c s (fun _ => { h with opened := true, gen := gen, credit := if h.kind = 1 then chCap h else 0 })
  if isLinkQ h then
    match freeStream c (partyNo h.cons) with
    | some k => updStream c (partyNo h.cons) k (fun st => { chan := some s, next := st.next, fresh := true })
    | none => c
  else c

/-- CHAN_OPEN. -/
def xChanOpen (c : Chip) : Chip :=
  withCmd c 0x20 (fun c p =>
    let k := bits p.p2 4 0
    let h := descChan p
    match freeSlot c k with
    | none => refuse c p stNORESOURCE 0
    | some s =>
      if linkFull c h then refuse c p stNORESOURCE 0
      else if badArea c k h ∨ !partiesFit c h then refuse c p stPARAM 0
      else if !isLinkQ h && !gateOpen c (chPeg s h) then refuse c p stDOMAINOFF 0
      else
        let c := openSlot c s h
        post c (replyTo p) false stOK 0 [] (handleOf c s) true)

/-- The command CHAN_OPEN. -/
def execChanOpen (s : State) : Host.Outcome State Fault Refusal :=
  onChip s (fun c => xChanOpen c)

/-! ### CHAN_CLOSE and CHAN_STAT (R302, R303) -/

/-- CHAN_CLOSE. -/
def xChanClose (c : Chip) : Chip :=
  withCmd c 0x21 (fun c p =>
    let s := p.handle % 4096
    if (chanOf c s).closing.isSome then refuse c p stBUSY 0
    else
      begins c p (fun c =>
        let drain := bit p.p2 0
        let limit := if p.p3 = 0 then 100 else p.p3.toNat
        let c := updChan c s (fun h => { h with closing := some ⟨replyTo p, drain, limit⟩ })
        if drain then c else endClose c s (replyTo p)))

/-- The command CHAN_CLOSE. -/
def execChanClose (s : State) : Host.Outcome State Fault Refusal :=
  onChip s (fun c => xChanClose c)

/-- CHAN_STAT. -/
def xChanStat (c : Chip) : Chip :=
  withCmd c 0x22 (fun c p =>
    let s := p.handle % 4096
    let image := bytesOf (chImage c s)
    let c := if p.flags % 2 = 1 then updChan c s (fun h => { h with lost := 0, psn := 0, gaps := 0 }) else c
    replyData c (replyTo p) image)

/-- The command CHAN_STAT. -/
def execChanStat (s : State) : Host.Outcome State Fault Refusal :=
  onChip s (fun c => xChanStat c)

/-! ### Banks (R349 to R354) -/

/-- Does a clear of a bank run? -/
def clearing (c : Chip) (b : Nat) : Bool := if b = 0 then c.tab.clearA.isSome else c.tab.clearB.isSome

/-- TAB_OPEN. -/
def xTabOpen (c : Chip) : Chip :=
  withCmd c 0x28 (fun c p =>
    let b := bits p.p2 0 0
    let st := bankState c b
    if clearing c b then refuse c p stBUSY 0
    else if st = 2 ∨ 4 ≤ st then refuse c p stSTATE 0
    else if bit p.p2 1 then
      begins c p (fun c =>
        let c := setBank c b 1
        { c with tab := if b = 0 then { c.tab with clearA := some (replyTo p) } else { c.tab with clearB := some (replyTo p) } })
    else okReply (setBank c b 1) p 0)

/-- The command TAB_OPEN. -/
def execTabOpen (s : State) : Host.Outcome State Fault Refusal :=
  onChip s (fun c => xTabOpen c)

/-- TAB_WRITE. -/
def xTabWrite (c : Chip) : Chip :=
  withCmd c 0x29 (fun c p =>
    let b := bits p.p2 23 23
    if clearing c b then refuse c p stBUSY 0
    else if bankState c b ≠ 1 then refuse c p stSTATE 0
    else okReply (writeWords c (tabGa b (bits p.p2 22 0)) 0 [] (wordsOf p.payload)).1 p 0)

/-- The command TAB_WRITE. -/
def execTabWrite (s : State) : Host.Outcome State Fault Refusal :=
  onChip s (fun c => xTabWrite c)

/-- TAB_VERIFY. -/
def xTabVerify (c : Chip) : Chip :=
  withCmd c 0x2A (fun c p =>
    let b := bits p.p2 0 0
    if clearing c b then refuse c p stBUSY 0
    else if bankState c b ≠ 1 then refuse c p stSTATE 0
    else
      begins c p (fun c =>
        let c := setBank c b 2
        { c with tab := if b = 0 then { c.tab with verA := some (replyTo p) } else { c.tab with verB := some (replyTo p) } }))

/-- The command TAB_VERIFY. -/
def execTabVerify (s : State) : Host.Outcome State Fault Refusal :=
  onChip s (fun c => xTabVerify c)

/-! ### Arming (R356 to R362) -/

/-- An arming begins: the bank is STAGING, the engines its directory names take their copies, and the device enters ARMED or
CHANGEOVER. With NOW, P is known only at the end of the staging. -/
def armBegin (c : Chip) (p : Packet) (b : Nat) : Chip :=
  let now := bit p.p3 1
  let run := decide (c.dev = .running)
  let mask := camMask c b
  let c := ((List.range 32).filter mask.testBit).foldl (fun c k => updCam c k (fun m => { m with staging := true })) (setBank c b 4)
  let c := { c with tab := { c.tab with arm := some ⟨if now then 0 else p.p2, mask, now, b, replyTo p, run, false⟩ } }
  setDev c (if run then .changeover else .armed) 0

/-- TAB_ARM. -/
def xTabArm (c : Chip) : Chip :=
  withCmd c 0x2B (fun c p =>
    let b := bits p.p3 0 0
    if bankState c b ≠ 3 ∨ c.tab.arm.isSome then refuse c p stSTATE 0
    else
      match armChk c b (decide (c.dev = .running)) with
      | some (code, st, off) =>
        let w := wd (off % 0x1000000 + 0x1000000 * code)
        refuse { c with tab := { c.tab with lasterr := w } } p st w
      | none => begins c p (fun c => armBegin c p b))

/-- The command TAB_ARM. -/
def execTabArm (s : State) : Host.Outcome State Fault Refusal :=
  onChip s (fun c => xTabArm c)

/-- TAB_CANCEL. -/
def xTabCancel (c : Chip) : Chip :=
  withCmd c 0x2C (fun c p =>
    let run := match c.tab.arm with | some a => a.running | none => decide (c.dev = .changeover)
    okReply (setDev (endArm c 1) (if run = true then .running else .configured) 0) p 0)

/-- The command TAB_CANCEL. -/
def execTabCancel (s : State) : Host.Outcome State Fault Refusal :=
  onChip s (fun c => xTabCancel c)

/-- The 32-byte payload of TAB_STAT. -/
def tabImage (c : Chip) : List Byte :=
  let num (o : Option Nat) : Nat := o.getD 0xFF
  leBytes 1 c.tab.stA ++ leBytes 1 c.tab.stB ++ leBytes 1 (num c.tab.active) ++ leBytes 1 (num (followed c)) ++
    leBytes 4 (match armReady c with | some a => a.p.toNat | none => 0) ++ leBytes 4 (recipeOf c 0) ++ leBytes 4 (recipeOf c 1) ++
    leBytes 4 c.tab.lasterr.toNat ++ leBytes 12 0

/-- TAB_STAT. -/
def xTabStat (c : Chip) : Chip := withCmd c 0x2D (fun c p => replyData c (replyTo p) (tabImage c))

/-- The command TAB_STAT. -/
def execTabStat (s : State) : Host.Outcome State Fault Refusal :=
  onChip s (fun c => xTabStat c)

end Sys2Proof.Machine
end

