-- ==== Sys2Proof/Machine/EventRows.lean ====
section
/-! DEFINITION. The event distributor at work and single accesses of registers (R9, R10, R524, R530, R565 to R588, R727). -/

namespace Sys2Proof.Machine

open Sys2Proof

/-! ### The distributor (R566, R571, R727) -/

/-- SOURCE_ASSERT: what the input of a source does reaches the distributor. -/
def xSourceAssert (c : Chip) (s : Nat) : Chip := if c.sys.per ∧ srcMoved c s then srcSample c s else c

/-- The command SOURCE_ASSERT on a unit that exists. -/
def execSourceAssert (src : Nat) (s : State) : Host.Outcome State Fault Refusal :=
  onUnit (isSource src) s (fun c => xSourceAssert c src)

/-- PRESENTATION: a pending source is decided, if no other of its target set goes before it. -/
def xPresentation (c : Chip) (s : Nat) : Chip := if c.sys.per ∧ decidable c s ∧ goesBefore c s = false then decideSrc c s else c

/-- The command PRESENTATION on a unit that exists. -/
def execPresentation (src : Nat) (s : State) : Host.Outcome State Fault Refusal :=
  onUnit (isSource src) s (fun c => xPresentation c src)

/-- Gorene claims a source presented to the luthier; an edge source it completes at once. -/
def luthierTakes (c : Chip) (s : Nat) : Chip :=
  let c := updSrc c s (fun r => { r with st := 3, notgt := false })
  let p := srcPrio c s
  let c := if p = 0 then c else regMax c (0x60007040 + 4 * p) 31 0 (c.tb - (srcOf c s).since)
  if isLevelSense (srcSense c s) then c else completeSrc c s

/-- The level sources in service with the luthier whose input is no longer active. -/
def luthierEnded (c : Chip) : List Nat :=
  (c.srcs.filter (fun (e : Nat × Src) => decide (e.2.st = 3) && decide (e.2.holder = 512) && isLevelSense (srcSense c e.1) &&
    !srcActive c e.1)).map Prod.fst

/-- LUTHIER_EVENT_SAMPLE: Gorene claims what is presented to it and completes the level sources whose input has ended. -/
def xLuthierEventSample (c : Chip) : Chip :=
  if gorene c ∧ c.sys.per then
    let c := (luthierEnded c).foldl completeSrc c
    (presentedTo c 512).foldl luthierTakes c
  else c

/-- The command LUTHIER_EVENT_SAMPLE. -/
def execLuthierEventSample (s : State) : Host.Outcome State Fault Refusal :=
  onChip s (fun c => xLuthierEventSample c)

/-! ### Registers of the distributor written and read (R568, R573, R583, R586, R588) -/

/-- EDS_WRITE. -/
def xEdsWrite (c : Chip) (s : Nat) (w : Word) : Chip := if c.sys.per ∧ srcValid s then edsWrite c s w else c

/-- The command EDS_WRITE on a unit that exists. -/
def execEdsWrite (src : Nat) (w : Word) (s : State) : Host.Outcome State Fault Refusal :=
  onUnit (isSource src) s (fun c => xEdsWrite c src w)

/-- EDG_RAISE. -/
def xEdgRaise (c : Chip) (w : Word) : Chip := if c.sys.per then edgRaise c w else c

/-- The command EDG_RAISE. -/
def execEdgRaise (w : Word) (s : State) : Host.Outcome State Fault Refusal :=
  onChip s (fun c => xEdgRaise c w)

/-- EDG_CTL_WRITE. -/
def xEdgCtlWrite (c : Chip) (w : Word) : Chip := if c.sys.per then edgCtl c w else c

/-- The command EDG_CTL_WRITE. -/
def execEdgCtlWrite (w : Word) (s : State) : Host.Outcome State Fault Refusal :=
  onChip s (fun c => xEdgCtlWrite c w)

/-- A read of a register whose read has an effect; its value leaves the device. -/
def readOut (c : Chip) (a : Nat) (f : Chip → Chip × Word) : Chip :=
  if c.sys.per then
    let (c, w) := f c
    emit c (.read a w)
  else c

/-- HPOP_READ. -/
def xHpopRead (c : Chip) : Chip := readOut c (rEDG 0x018) hpop

/-- The command HPOP_READ. -/
def execHpopRead (s : State) : Host.Outcome State Fault Refusal :=
  onChip s (fun c => xHpopRead c)

/-- HCOMPLETE_WRITE. -/
def xHcompleteWrite (c : Chip) (w : Word) : Chip := if c.sys.per then completeBy c 0x3FF w else c

/-- The command HCOMPLETE_WRITE. -/
def execHcompleteWrite (w : Word) (s : State) : Host.Outcome State Fault Refusal :=
  onChip s (fun c => xHcompleteWrite c w)

/-- GROUP_MASK_WRITE: `hi` names GRP23. -/
def xGroupMaskWrite (c : Chip) (k : Nat) (hi : Bool) (w : Word) : Chip :=
  if c.sys.per ∧ k < 32 then groupWrite c k (if hi then 0x84 else 0x80) w else c

/-- The command GROUP_MASK_WRITE on a unit that exists. -/
def execGroupMaskWrite (k : Nat) (hi : Bool) (w : Word) (s : State) : Host.Outcome State Fault Refusal :=
  onUnit (isCluster k) s (fun c => xGroupMaskWrite c k hi w)

/-! ### Command queues (R524, R530) -/

/-- CCTL_ENABLE: a write of CCTL that sets EN. -/
def xCctlEnable (c : Chip) (q : Nat) (w : Word) : Chip :=
  if c.sys.per ∧ q < 4 ∧ bit w 4 ∧ queueEn c q = false then cctlWrite c q w else c

/-- The command CCTL_ENABLE on a unit that exists. -/
def execCctlEnable (q : Nat) (w : Word) (s : State) : Host.Outcome State Fault Refusal :=
  onUnit (isRing q) s (fun c => xCctlEnable c q w)

/-- COMMAND_DOORBELL: a write of CDB. -/
def xCommandDoorbell (c : Chip) (q : Nat) (w : Word) : Chip := if c.sys.per ∧ q < 4 then cdbWrite c q w else c

/-- The command COMMAND_DOORBELL on a unit that exists. -/
def execCommandDoorbell (q : Nat) (w : Word) (s : State) : Host.Outcome State Fault Refusal :=
  onUnit (isRing q) s (fun c => xCommandDoorbell c q w)

/-- RPOP_READ. -/
def xRpopRead (c : Chip) (q : Nat) : Chip := if q < 4 then readOut c (rCMD q 0x10) (fun c => rpop c q) else c

/-- The command RPOP_READ on a unit that exists. -/
def execRpopRead (q : Nat) (s : State) : Host.Outcome State Fault Refusal :=
  onUnit (isRing q) s (fun c => xRpopRead c q)

/-! ### Any register (R9, R10) -/

/-- REGISTER_WRITE: a doubleword written to a register of a unit that answers, with its byte enables: one that does not set all
is not performed and sets PCIERR.BE (R494). A port may refuse it; that of a cam and profile engine takes its place in the engine's
order (R423). -/
def xRegisterWrite (c : Chip) (a : Nat) (w : HostWord) : Chip :=
  if w.be ≠ 15 then (if c.sys.per then regOr c (rHST 0x004) 0x10 else c)
  else if a % 4 = 0 ∧ inRegs a ∧ regReach c false a ∧ camBusy c a = false then (regWrite c a w.data).1
  else c

/-- The command REGISTER_WRITE on a unit that exists. -/
def execRegisterWrite (a : Nat) (w : HostWord) (s : State) : Host.Outcome State Fault Refusal :=
  onUnit (isRegister a && isEnables w.be) s (fun c => xRegisterWrite c a w)

end Sys2Proof.Machine
end

