-- ==== Sys2Proof/Machine/Dispatch.lean ====
section
/-! DEFINITION. What each command does: one arm for each constructor, each a direct call of its meaning. -/

namespace Sys2Proof.Machine

open Sys2Proof

/-- The effect of a command on everything but the queue. -/
def exec (i : Instr) (s : State) : Host.Outcome State Fault Refusal :=
  match i with
  | .pair k rep a b => Sys2Proof.Machine.execPair k rep a b s
  | .lit k rep f => Sys2Proof.Machine.execLit k rep f s
  | .litx k x => Sys2Proof.Machine.execLitx k x s
  | .lithi k x => Sys2Proof.Machine.execLithi k x s
  | .addi k rep f => Sys2Proof.Machine.execAddi k rep f s
  | .shli k rep n => Sys2Proof.Machine.execShli k rep n s
  | .shri k rep n => Sys2Proof.Machine.execShri k rep n s
  | .sari k rep n => Sys2Proof.Machine.execSari k rep n s
  | .roli k rep n => Sys2Proof.Machine.execRoli k rep n s
  | .pick k rep n => Sys2Proof.Machine.execPick k rep n s
  | .br k f => Sys2Proof.Machine.execBr k f s
  | .bz k f => Sys2Proof.Machine.execBz k f s
  | .bnz k f => Sys2Proof.Machine.execBnz k f s
  | .brx k x => Sys2Proof.Machine.execBrx k x s
  | .bzx k x => Sys2Proof.Machine.execBzx k x s
  | .bnzx k x => Sys2Proof.Machine.execBnzx k x s
  | .call k x => Sys2Proof.Machine.execCall k x s
  | .calli k => Sys2Proof.Machine.execCalli k s
  | .ret k => Sys2Proof.Machine.execRet k s
  | .jmpi k => Sys2Proof.Machine.execJmpi k s
  | .tor k => Sys2Proof.Machine.execTor k s
  | .fromr k => Sys2Proof.Machine.execFromr k s
  | .rget k => Sys2Proof.Machine.execRget k s
  | .rdrop k => Sys2Proof.Machine.execRdrop k s
  | .rep k f => Sys2Proof.Machine.execRep k f s
  | .repi k f => Sys2Proof.Machine.execRepi k f s
  | .repIteration k => Sys2Proof.Machine.execRepIteration k s
  | .ldr k rep slot size sg => Sys2Proof.Machine.execLdr k rep slot size sg s
  | .str k rep size tflt => Sys2Proof.Machine.execStr k rep size tflt s
  | .tas k rep slot => Sys2Proof.Machine.execTas k rep slot s
  | .lr k rep slot => Sys2Proof.Machine.execLr k rep slot s
  | .sc k rep slot => Sys2Proof.Machine.execSc k rep slot s
  | .agree k rep slot size sg => Sys2Proof.Machine.execAgree k rep slot size sg s
  | .mul k rep slot uns => Sys2Proof.Machine.execMul k rep slot uns s
  | .div k rep slot uns => Sys2Proof.Machine.execDiv k rep slot uns s
  | .land k rep slot => Sys2Proof.Machine.execLand k rep slot s
  | .putl k rep slot => Sys2Proof.Machine.execPutl k rep slot s
  | .waitl k rep m => Sys2Proof.Machine.execWaitl k rep m s
  | .send k rep => Sys2Proof.Machine.execSend k rep s
  | .recv k rep => Sys2Proof.Machine.execRecv k rep s
  | .sendt k rep => Sys2Proof.Machine.execSendt k rep s
  | .recvt k rep => Sys2Proof.Machine.execRecvt k rep s
  | .wait k t => Sys2Proof.Machine.execWait k t s
  | .sleep k => Sys2Proof.Machine.execSleep k s
  | .ckpt k => Sys2Proof.Machine.execCkpt k s
  | .fence k => Sys2Proof.Machine.execFence k s
  | .sync k => Sys2Proof.Machine.execSync k s
  | .ifence k => Sys2Proof.Machine.execIfence k s
  | .csrr k rep ix => Sys2Proof.Machine.execCsrr k rep ix s
  | .csrw k rep ix => Sys2Proof.Machine.execCsrw k rep ix s
  | .csrwDeferred k rep ix => Sys2Proof.Machine.execCsrwDeferred k rep ix s
  | .csrwSptr k rep => Sys2Proof.Machine.execCsrwSptr k rep s
  | .csrrTblo k rep => Sys2Proof.Machine.execCsrrTblo k rep s
  | .csrrDpos k rep => Sys2Proof.Machine.execCsrrDpos k rep s
  | .csrwDpos k rep => Sys2Proof.Machine.execCsrwDpos k rep s
  | .csrrClaim k rep => Sys2Proof.Machine.execCsrrClaim k rep s
  | .csrwComplete k rep => Sys2Proof.Machine.execCsrwComplete k rep s
  | .csrwCpl k rep => Sys2Proof.Machine.execCsrwCpl k rep s
  | .trap k f => Sys2Proof.Machine.execTrap k f s
  | .rett k => Sys2Proof.Machine.execRett k s
  | .cpwr k rep slot sel => Sys2Proof.Machine.execCpwr k rep slot sel s
  | .cprd k rep slot sel => Sys2Proof.Machine.execCprd k rep slot sel s
  | .camev k rep slot sel => Sys2Proof.Machine.execCamev k rep slot sel s
  | .camev2 k rep slot sel => Sys2Proof.Machine.execCamev2 k rep slot sel s
  | .camevd k rep slot sel => Sys2Proof.Machine.execCamevd k rep slot sel s
  | .camofs k rep slot sel => Sys2Proof.Machine.execCamofs k rep slot sel s
  | .camld k rep slot sel => Sys2Proof.Machine.execCamld k rep slot sel s
  | .cpsync k rep slot sel => Sys2Proof.Machine.execCpsync k rep slot sel s
  | .landing k slot => Sys2Proof.Machine.execLanding k slot s
  | .storeDrain k => Sys2Proof.Machine.execStoreDrain k s
  | .storeAck k ix => Sys2Proof.Machine.execStoreAck k ix s
  | .trapEntry k => Sys2Proof.Machine.execTrapEntry k s
  | .interrupt k => Sys2Proof.Machine.execInterrupt k s
  | .waitTimeout k => Sys2Proof.Machine.execWaitTimeout k s
  | .reservationExpiry k => Sys2Proof.Machine.execReservationExpiry k s
  | .pegHalt n => Sys2Proof.Machine.execPegHalt n s
  | .courseHalted n => Sys2Proof.Machine.execCourseHalted n s
  | .checkpointWordLimit n => Sys2Proof.Machine.execCheckpointWordLimit n s
  | .checkpoint n fault => Sys2Proof.Machine.execCheckpoint n fault s
  | .skewTimeout n => Sys2Proof.Machine.execSkewTimeout n s
  | .lbistVerdict n passA passB => Sys2Proof.Machine.execLbistVerdict n passA passB s
  | .tunerSelfTestDone n cause => Sys2Proof.Machine.execTunerSelfTestDone n cause s
  | .handoverQuiesced n => Sys2Proof.Machine.execHandoverQuiesced n s
  | .handoverTimeout n => Sys2Proof.Machine.execHandoverTimeout n s
  | .tunerTestDone n passA passB tuner => Sys2Proof.Machine.execTunerTestDone n passA passB tuner s
  | .coCtlWrite n w => Sys2Proof.Machine.execCoCtlWrite n w s
  | .memoryAccess b arrived => Sys2Proof.Machine.execMemoryAccess b arrived s
  | .scrub k w => Sys2Proof.Machine.execScrub k w s
  | .memoryClearDone p => Sys2Proof.Machine.execMemoryClearDone p s
  | .dataFlitError k p what who ix => Sys2Proof.Machine.execDataFlitError k p what who ix s
  | .headFlitError k p => Sys2Proof.Machine.execHeadFlitError k p s
  | .gatherRecord arrived => Sys2Proof.Machine.execGatherRecord arrived s
  | .gatherComplete => Sys2Proof.Machine.execGatherComplete s
  | .eccinjWrite k w => Sys2Proof.Machine.execEccinjWrite k w s
  | .mailboxSendArrival k => Sys2Proof.Machine.execMailboxSendArrival k s
  | .parkedSendPush ch => Sys2Proof.Machine.execParkedSendPush ch s
  | .parkedRecvComplete ch => Sys2Proof.Machine.execParkedRecvComplete ch s
  | .creditReturn ch => Sys2Proof.Machine.execCreditReturn ch s
  | .tailTimerExpiry ch => Sys2Proof.Machine.execTailTimerExpiry ch s
  | .closeDrainEnd ch => Sys2Proof.Machine.execCloseDrainEnd ch s
  | .closeDrainLimit ch => Sys2Proof.Machine.execCloseDrainLimit ch s
  | .droneStep d => Sys2Proof.Machine.execDroneStep d s
  | .frameStart => Sys2Proof.Machine.execFrameStart s
  | .timeNoteDue => Sys2Proof.Machine.execTimeNoteDue s
  | .noteFetch time n => Sys2Proof.Machine.execNoteFetch time n s
  | .noteIssue bad => Sys2Proof.Machine.execNoteIssue bad s
  | .noteStart lane hs data ep => Sys2Proof.Machine.execNoteStart lane hs data ep s
  | .signal lane => Sys2Proof.Machine.execSignal lane s
  | .noteComplete lane no => Sys2Proof.Machine.execNoteComplete lane no s
  | .speedWindow => Sys2Proof.Machine.execSpeedWindow s
  | .tabClearDone b => Sys2Proof.Machine.execTabClearDone b s
  | .tabVerifyDone b => Sys2Proof.Machine.execTabVerifyDone b s
  | .stagingEnd => Sys2Proof.Machine.execStagingEnd s
  | .camPerform e ecc at_ => Sys2Proof.Machine.execCamPerform e ecc at_ s
  | .camldCopyEnd e ecc at_ => Sys2Proof.Machine.execCamldCopyEnd e ecc at_ s
  | .camtofsWrite e w => Sys2Proof.Machine.execCamtofsWrite e w s
  | .portReconfigure p w => Sys2Proof.Machine.execPortReconfigure p w s
  | .portReady p => Sys2Proof.Machine.execPortReady p s
  | .portLevelChange p => Sys2Proof.Machine.execPortLevelChange p s
  | .portDriveEnable p w => Sys2Proof.Machine.execPortDriveEnable p w s
  | .supplyLimit => Sys2Proof.Machine.execSupplyLimit s
  | .supplyLimitEnd => Sys2Proof.Machine.execSupplyLimitEnd s
  | .encCount p up both => Sys2Proof.Machine.execEncCount p up both s
  | .encPreset p w => Sys2Proof.Machine.execEncPreset p w s
  | .encCompareWrite p w => Sys2Proof.Machine.execEncCompareWrite p w s
  | .ssiFrameStart p w => Sys2Proof.Machine.execSsiFrameStart p w s
  | .ssiFrameEnd p raw good => Sys2Proof.Machine.execSsiFrameEnd p raw good s
  | .stepTargetWrite p w => Sys2Proof.Machine.execStepTargetWrite p w s
  | .stepPulse p => Sys2Proof.Machine.execStepPulse p s
  | .stepStop p w => Sys2Proof.Machine.execStepStop p w s
  | .capture p pairB fall stamp => Sys2Proof.Machine.execCapture p pairB fall stamp s
  | .serCharacter p b frame parity brk => Sys2Proof.Machine.execSerCharacter p b frame parity brk s
  | .serRecordClose p => Sys2Proof.Machine.execSerRecordClose p s
  | .serTransmit p => Sys2Proof.Machine.execSerTransmit p s
  | .drnSetWrite d w => Sys2Proof.Machine.execDrnSetWrite d w s
  | .droneCtlWrite d w => Sys2Proof.Machine.execDroneCtlWrite d w s
  | .rateStep d => Sys2Proof.Machine.execRateStep d s
  | .linkTrained p => Sys2Proof.Machine.execLinkTrained p s
  | .startupEnum p => Sys2Proof.Machine.execStartupEnum p s
  | .enumReturn p count err => Sys2Proof.Machine.execEnumReturn p count err s
  | .enumTimeout p => Sys2Proof.Machine.execEnumTimeout p s
  | .echoReply p t ident => Sys2Proof.Machine.execEchoReply p t ident s
  | .linkCycleStart p => Sys2Proof.Machine.execLinkCycleStart p s
  | .dataFrameSend p => Sys2Proof.Machine.execDataFrameSend p s
  | .ackReceived p nak seen bytes => Sys2Proof.Machine.execAckReceived p nak seen bytes s
  | .ackTimeout p k => Sys2Proof.Machine.execAckTimeout p k s
  | .lockLoss p => Sys2Proof.Machine.execLockLoss p s
  | .statusFrameReceived p n seq words good => Sys2Proof.Machine.execStatusFrameReceived p n seq words good s
  | .mgmtReply p node word0 err data => Sys2Proof.Machine.execMgmtReply p node word0 err data s
  | .mgmtTimeout p => Sys2Proof.Machine.execMgmtTimeout p s
  | .linkRestart p w => Sys2Proof.Machine.execLinkRestart p w s
  | .perstRelease => Sys2Proof.Machine.execPerstRelease s
  | .pcieFunctionReset kind => Sys2Proof.Machine.execPcieFunctionReset kind s
  | .msixMessage v => Sys2Proof.Machine.execMsixMessage v s
  | .ethFrameReceived k kind ret data => Sys2Proof.Machine.execEthFrameReceived k kind ret data s
  | .ethLinkLoss k => Sys2Proof.Machine.execEthLinkLoss k s
  | .ptpMessage state sync ofs dly rate step answer => Sys2Proof.Machine.execPtpMessage state sync ofs dly rate step answer s
  | .timeBaseStep w => Sys2Proof.Machine.execTimeBaseStep w s
  | .tbloRead => Sys2Proof.Machine.execTbloRead s
  | .commandDoorbell q w => Sys2Proof.Machine.execCommandDoorbell q w s
  | .cctlEnable q w => Sys2Proof.Machine.execCctlEnable q w s
  | .commandTake hdr payload raddr bad => Sys2Proof.Machine.execCommandTake hdr payload raddr bad s
  | .rpopRead q => Sys2Proof.Machine.execRpopRead q s
  | .nopCommand => Sys2Proof.Machine.execNopCommand s
  | .ident => Sys2Proof.Machine.execIdent s
  | .devStat => Sys2Proof.Machine.execDevStat s
  | .configure => Sys2Proof.Machine.execConfigure s
  | .halt => Sys2Proof.Machine.execHalt s
  | .resume => Sys2Proof.Machine.execResume s
  | .recover ring => Sys2Proof.Machine.execRecover ring s
  | .detach => Sys2Proof.Machine.execDetach s
  | .powerMode => Sys2Proof.Machine.execPowerMode s
  | .island => Sys2Proof.Machine.execIsland s
  | .domain => Sys2Proof.Machine.execDomain s
  | .course => Sys2Proof.Machine.execCourse s
  | .handover => Sys2Proof.Machine.execHandover s
  | .tunerTest => Sys2Proof.Machine.execTunerTest s
  | .memRead => Sys2Proof.Machine.execMemRead s
  | .memWrite => Sys2Proof.Machine.execMemWrite s
  | .regRead => Sys2Proof.Machine.execRegRead s
  | .regWrite => Sys2Proof.Machine.execRegWrite s
  | .droneSet => Sys2Proof.Machine.execDroneSet s
  | .chanOpen => Sys2Proof.Machine.execChanOpen s
  | .chanClose => Sys2Proof.Machine.execChanClose s
  | .chanStat => Sys2Proof.Machine.execChanStat s
  | .tabOpen => Sys2Proof.Machine.execTabOpen s
  | .tabWrite => Sys2Proof.Machine.execTabWrite s
  | .tabVerify => Sys2Proof.Machine.execTabVerify s
  | .tabArm => Sys2Proof.Machine.execTabArm s
  | .tabCancel => Sys2Proof.Machine.execTabCancel s
  | .tabStat => Sys2Proof.Machine.execTabStat s
  | .linkNode => Sys2Proof.Machine.execLinkNode s
  | .keySet => Sys2Proof.Machine.execKeySet s
  | .dumpRead => Sys2Proof.Machine.execDumpRead s
  | .flashErase => Sys2Proof.Machine.execFlashErase s
  | .flashWrite => Sys2Proof.Machine.execFlashWrite s
  | .flashOpDone => Sys2Proof.Machine.execFlashOpDone s
  | .sourceAssert src => Sys2Proof.Machine.execSourceAssert src s
  | .presentation src => Sys2Proof.Machine.execPresentation src s
  | .edsWrite src w => Sys2Proof.Machine.execEdsWrite src w s
  | .edgRaise w => Sys2Proof.Machine.execEdgRaise w s
  | .edgCtlWrite w => Sys2Proof.Machine.execEdgCtlWrite w s
  | .hpopRead => Sys2Proof.Machine.execHpopRead s
  | .hcompleteWrite w => Sys2Proof.Machine.execHcompleteWrite w s
  | .groupMaskWrite k hi w => Sys2Proof.Machine.execGroupMaskWrite k hi w s
  | .luthierEventSample => Sys2Proof.Machine.execLuthierEventSample s
  | .tcxoStart khz => Sys2Proof.Machine.execTcxoStart khz s
  | .clkPllenWrite w => Sys2Proof.Machine.execClkPllenWrite w s
  | .pllLock ix => Sys2Proof.Machine.execPllLock ix s
  | .clockSwitch w => Sys2Proof.Machine.execClockSwitch w s
  | .switchComplete => Sys2Proof.Machine.execSwitchComplete s
  | .autoSwitch => Sys2Proof.Machine.execAutoSwitch s
  | .clockSourceFault ix => Sys2Proof.Machine.execClockSourceFault ix s
  | .flushAck u => Sys2Proof.Machine.execFlushAck u s
  | .handshakeAnswer u waited => Sys2Proof.Machine.execHandshakeAnswer u waited s
  | .deferralLimit => Sys2Proof.Machine.execDeferralLimit s
  | .islandPowerUpDone k => Sys2Proof.Machine.execIslandPowerUpDone k s
  | .retentionExitDone u => Sys2Proof.Machine.execRetentionExitDone u s
  | .regulatorFault k => Sys2Proof.Machine.execRegulatorFault k s
  | .voltageSlewStep k => Sys2Proof.Machine.execVoltageSlewStep k s
  | .temperatureSample base isl => Sys2Proof.Machine.execTemperatureSample base isl s
  | .perSwitchOff => Sys2Proof.Machine.execPerSwitchOff s
  | .watchPeriod samples => Sys2Proof.Machine.execWatchPeriod samples s
  | .wakeFromWatch => Sys2Proof.Machine.execWakeFromWatch s
  | .wakeFromHibernate => Sys2Proof.Machine.execWakeFromHibernate s
  | .brownOut => Sys2Proof.Machine.execBrownOut s
  | .bankCharged => Sys2Proof.Machine.execBankCharged s
  | .presenceDebounce => Sys2Proof.Machine.execPresenceDebounce s
  | .strapSample slot fu => Sys2Proof.Machine.execStrapSample slot fu s
  | .firmwareCheck bad => Sys2Proof.Machine.execFirmwareCheck bad s
  | .bodyCopyDone => Sys2Proof.Machine.execBodyCopyDone s
  | .bootComplete us => Sys2Proof.Machine.execBootComplete us s
  | .perPowered => Sys2Proof.Machine.execPerPowered s
  | .presLateLoss which => Sys2Proof.Machine.execPresLateLoss which s
  | .inputLoss => Sys2Proof.Machine.execInputLoss s
  | .overvoltage => Sys2Proof.Machine.execOvervoltage s
  | .removalRecordWritten => Sys2Proof.Machine.execRemovalRecordWritten s
  | .holdUpExhausted => Sys2Proof.Machine.execHoldUpExhausted s
  | .owedErase => Sys2Proof.Machine.execOwedErase s
  | .drainComplete => Sys2Proof.Machine.execDrainComplete s
  | .drainLimit => Sys2Proof.Machine.execDrainLimit s
  | .pegRingTimeout u => Sys2Proof.Machine.execPegRingTimeout u s
  | .dumpWritten => Sys2Proof.Machine.execDumpWritten s
  | .dumpFlashCopyDone => Sys2Proof.Machine.execDumpFlashCopyDone s
  | .dumpSlotEraseDone => Sys2Proof.Machine.execDumpSlotEraseDone s
  | .retTestForce => Sys2Proof.Machine.execRetTestForce s
  | .pegStatus first rest => Sys2Proof.Machine.execPegStatus first rest s
  | .pegIdent first rest => Sys2Proof.Machine.execPegIdent first rest s
  | .pegAttach first rest => Sys2Proof.Machine.execPegAttach first rest s
  | .pegDetach first rest => Sys2Proof.Machine.execPegDetach first rest s
  | .pegWake first rest => Sys2Proof.Machine.execPegWake first rest s
  | .pegReset first rest => Sys2Proof.Machine.execPegReset first rest s
  | .registerWrite a w => Sys2Proof.Machine.execRegisterWrite a w s
  | .pcieLinkUp speed width => Sys2Proof.Machine.execPcieLinkUp speed width s
  | .pcieConfigWrite field v w => Sys2Proof.Machine.execPcieConfigWrite field v w s
  | .ethLinkUp k rate => Sys2Proof.Machine.execEthLinkUp k rate s
  | .ptpMessageInterval state sent => Sys2Proof.Machine.execPtpMessageInterval state sent s
  | .encRateWindow p => Sys2Proof.Machine.execEncRateWindow p s
  | .vinSample v => Sys2Proof.Machine.execVinSample v s

end Sys2Proof.Machine
end

