-- ==== Sys2Proof/Machine/Step.lean ====
section
/-! DEFINITION. One step: the oldest waiting command, or a tick of the time base when none waits. -/

namespace Sys2Proof.Machine

open Sys2Proof

/-- The command at the front of the queue is executed on the state with the rest of the queue. With no command waiting, a
period of the time base's clock passes (DESIGN CHOICE: the table has no row for it). -/
def step (s : State) : Host.Outcome State Fault Refusal :=
  match s.pending with
  | i :: rest => exec i { s with pending := rest }
  | [] => .next { s with chip := tick s.chip }

/-- The state with the command that a table word spells in front of its queue; no word spells one. -/
def State.withFetchWord (s : State) (nbits w : Nat) : State :=
  match decodeTableWord nbits w with
  | some i => { s with pending := i :: s.pending }
  | none => s

end Sys2Proof.Machine
end

