-- ==== Sys2Proof/Safety.lean ====
section
/-! DEFINITION. What counts as a safe state and a safe step, and the terms the statements use for what a word of a string
leaves. -/

namespace Sys2Proof.Safety

open Sys2Proof Sys2Proof.Machine

/-- Is memory in its one canonical form: addresses rising, no byte listed that reads as blank? Equal memories are then
equal data. -/
def memOk (s : State) : Bool := Memory.wf s.chip.mem

/-- Does every waiting command name units the device has? -/
def queueOk (s : State) : Bool := s.pending.all Instr.wf

/-- A safe step: neither a fault nor a refusal. -/
def completes (s : State) : Prop := ∃ t, step s = .next t

/-- A command executed on a state answers a next state with the same queue, and the device then has a property. -/
def leaves (i : Instr) (s : State) (P : Chip → Prop) : Prop :=
  ∃ t, exec i s = .next t ∧ t.pending = s.pending ∧ P t.chip

/-! ### Words of a string -/

/-- Nothing differs between two devices but the line buffers of string `k` and what a corrected single-bit error leaves
in registers and check bits (R116, R255). -/
structure JustFetched (c d : Chip) (k : Nat) : Prop where
  core : ∃ l, coreOf d k = { coreOf c k with lines := l }
  others : ∀ j, j ≠ k → coreOf d j = coreOf c j
  rest : ∃ cs r b, d = { c with cores := cs, regs := r, sbe := b }

/-- The stack of a word's end before its spills: its results above what its operands leave of the filled stack (R88). -/
def stackEnd (g : Fills) (n : Nat) (res : List Word) : List Word := res ++ g.stk.drop n

/-- SPTR after the fills and spills of a word (R88). -/
def sptrEnd (c : Chip) (k : Nat) (g : Fills) (n : Nat) (res : List Word) : Word :=
  let sp := if g.n = 0 then csrVal c k 0x0A else wd ((csrVal c k 0x0A).toNat - 4 * g.n)
  if (stackEnd g n res).length ≤ 8 then sp else wd (sp.toNat + 4 * ((stackEnd g n res).length - 8))

/-- SPTR before the spills of a word. -/
def sptrMid (c : Chip) (k : Nat) (g : Fills) : Nat :=
  if g.n = 0 then (csrVal c k 0x0A).toNat else (wd ((csrVal c k 0x0A).toNat - 4 * g.n)).toNat

/-- Where a string goes on after a word: at `pc`, or inside a repetition with the count one less, and behind the repeated
word after the last iteration (R171, R173). -/
def goesOn (c d : Chip) (k pc : Nat) : Prop :=
  match (coreOf c k).rep with
  | none => (coreOf d k).pc = pc ∧ (coreOf d k).rep = none ∧ csrVal d k 0x28 = csrVal c k 0x28
  | some q =>
    csrVal d k 0x28 = csrVal c k 0x28 - 1 ∧
      if csrVal c k 0x28 - 1 = 0 then (coreOf d k).pc = q.at_ + 4 ∧ (coreOf d k).rep = none
      else (coreOf d k).pc = (coreOf c k).pc ∧ (coreOf d k).rep = some q

/-- The core state no word of these families writes beside what is stated of it: run state, trap state, selections. -/
structure KeepsCore (c d : Chip) (k : Nat) : Prop where
  halted : (coreOf d k).halted = (coreOf c k).halted
  pend : (coreOf d k).pend = (coreOf c k).pend
  dpos : (coreOf d k).dpos = (coreOf c k).dpos
  tbhi : (coreOf d k).tbhi = (coreOf c k).tbhi
  itraps : (coreOf d k).itraps = (coreOf c k).itraps
  csrs : ∀ i, i ≠ 0x00 → i ≠ 0x01 → i ≠ 0x0A → i ≠ 0x28 → csrVal d k i = csrVal c k i

/-- The landing state: slots, results in flight. -/
def KeepsSlots (c d : Chip) (k : Nat) : Prop :=
  (coreOf d k).slots = (coreOf c k).slots ∧ (coreOf d k).flights = (coreOf c k).flights

/-- The return stack. -/
def KeepsRs (c d : Chip) (k : Nat) : Prop :=
  (coreOf d k).rsFile = (coreOf c k).rsFile ∧ (coreOf d k).rsPtr = (coreOf c k).rsPtr ∧
    (coreOf d k).rsDepth = (coreOf c k).rsDepth

/-- A word of string `k` has executed and touched nothing but the string: the stack with its spills in the store buffer
behind the word's own stores, SPTR, where it goes on, one word counted (R83, R88, R89, R111, R172). Every other string,
all memory and every other unit is as before; `regs` and `sbe` may record a single-bit error corrected on the way. -/
structure WordDone (c d : Chip) (k : Nat) (g : Fills) (n : Nat) (res : List Word) (stores : List Store) (pc : Nat) :
    Prop where
  stack : (coreOf d k).stk = (stackEnd g n res).take 8
  sptr : csrVal d k 0x0A = sptrEnd c k g n res
  sbuf : (coreOf d k).sbuf = (coreOf c k).sbuf ++ stores ++
    spillStores (wordPc c k) (sptrMid c k g) ((stackEnd g n res).drop 8).reverse
  next : goesOn c d k pc
  words : (coreOf d k).words = (coreOf c k).words + 1
  idle : (coreOf d k).wait = none
  keeps : KeepsCore c d k
  others : ∀ j, j ≠ k → coreOf d j = coreOf c j
  rest : ∃ cs r b, d = { c with cores := cs, regs := r, sbe := b }

/-- A string's stores go into its store buffer: its course is neither in unison nor degraded nor stopped by its tuner (R111, R205,
R228). -/
def buffers (c : Chip) (k : Nat) : Prop :=
  inUnison c (courseNo k) = false ∧ (courseOf c (courseNo k)).degraded = false ∧ placesNone c (courseNo k) = false

/-- A word's spills stay with its string: they go into its store buffer, or nothing spills. -/
def ownSpills (c : Chip) (k : Nat) (g : Fills) (n : Nat) (res : List Word) : Prop :=
  buffers c k ∨ (stackEnd g n res).length ≤ 8

/-- FLAGS after a word: bit 0 (C) written where a carry is given, bit 1 (V) set where a condition holds and never cleared,
every other bit kept (R158, R159). -/
structure FlagsEnd (c d : Chip) (k : Nat) (cf : Option Bool) (v : Bool) : Prop where
  carry : bit (csrVal d k 0x01) 0 = cf.getD (bit (csrVal c k 0x01) 0)
  overflow : bit (csrVal d k 0x01) 1 = (bit (csrVal c k 0x01) 1 || v)
  rest : ∀ i, 2 ≤ i → bit (csrVal d k 0x01) i = bit (csrVal c k 0x01) i

/-- CSTAT's sticky bits are as before. -/
def KeepsCstat (c d : Chip) (k : Nat) : Prop := csrVal d k 0x00 = csrVal c k 0x00

/-- A word of operation `op` of string `k` executes, but for a trap that depends on its operands: it is at hand, the stack
tests pass, its fills are read, no trap and no interrupt goes before it, there is room for `n` stores beside its spills
(R84, R89, R98, R110, R154). `d` is the device after the fetch, `g` the stack with the fills, `ops` the operands, top
first. -/
def starts (c : Chip) (k : Nat) (rep : Bool) (op : CoreOp) (n : Nat) (d : Chip) (g : Fills) (ops : List Word) : Prop :=
  begin_ c k rep op n (fun _ => none) = .go d g ops

/-- A word that has touched nothing but operand stack, PC and, with a single-bit error, the error records. -/
structure PlainDone (c d : Chip) (k : Nat) (g : Fills) (n : Nat) (res : List Word) (pc : Nat) : Prop where
  done : WordDone c d k g n res [] pc
  flags : csrVal d k 0x01 = csrVal c k 0x01
  cstat : csrVal d k 0x00 = csrVal c k 0x00
  slots : KeepsSlots c d k
  rs : KeepsRs c d k

/-- A word that has written flags too. -/
structure FlagDone (c d : Chip) (k : Nat) (g : Fills) (n : Nat) (res : List Word) (cf : Option Bool) (v : Bool) (pc : Nat) :
    Prop where
  done : WordDone c d k g n res [] pc
  flags : FlagsEnd c d k cf v
  cstat : csrVal d k 0x00 = csrVal c k 0x00
  slots : KeepsSlots c d k
  rs : KeepsRs c d k

/-- A word that has changed the return stack: file, pointer and depth become the given ones. -/
structure RsDone (c d : Chip) (k : Nat) (g : Fills) (n : Nat) (res : List Word) (file : Tbl Word) (ptr depth pc : Nat) :
    Prop where
  done : WordDone c d k g n res [] pc
  flags : csrVal d k 0x01 = csrVal c k 0x01
  cstat : csrVal d k 0x00 = csrVal c k 0x00
  slots : KeepsSlots c d k
  file : (coreOf d k).rsFile = file
  ptr : (coreOf d k).rsPtr = ptr
  depth : (coreOf d k).rsDepth = depth

/-- A signed sum or difference outside -2^31 to 2^31 - 1. -/
def overflows (i : Int) : Bool := decide (i < -2147483648 ∨ 2147483647 < i)

/-- An address instructions can be fetched from: even, in the first 32 KiB (R115). -/
def usable (a : Nat) : Prop := a < 0x8000 ∧ a % 2 = 0

/-- The deferred CSR writes a string holds pending are to different CSRs, of those whose writes are deferred (R118). -/
def pendOk (c : Chip) (k : Nat) : Prop :=
  ((coreOf c k).pend.map Prod.fst).Nodup ∧ ∀ e ∈ (coreOf c k).pend, isDeferred e.1 = true

/-- Where a trap of a cause goes: the vector table at TRAPVEC, as a pending write leaves it, 4 bytes for each vector; precise
traps 0, SWTRAP 1, imprecise traps 2, interrupts 3 (R188, R190). -/
def vectorAt (c : Chip) (k cause : Nat) : Nat :=
  bits (((coreOf c k).pend.lookup 0x10).getD (csrVal c k 0x10)) 14 4 * 16 +
    4 * (if cause = 0x20 then 3 else if 0x10 ≤ cause then 2 else if cause = 0x0A then 1 else 0)

/-- A valid channel handle: 16 bits, naming an open slot in its present generation, which is not 0 (R146, R293). -/
def validHandle (c : Chip) (h : Nat) : Prop :=
  h < 65536 ∧ (chanOf c (h % 4096)).opened = true ∧ h / 4096 = (chanOf c (h % 4096)).gen ∧ h / 4096 ≠ 0

/-- What a word leaves of the string that also acts on another unit: stack, PC and the word counted. -/
def WordDone' (c d : Chip) (k : Nat) (g : Fills) (n : Nat) (res : List Word) (pc : Nat) : Prop :=
  (coreOf d k).stk = (stackEnd g n res).take 8 ∧ goesOn c d k pc ∧ (coreOf d k).words = (coreOf c k).words + 1

/-! ### Courses in unison -/

/-- String A of a course in unison, whose read log is empty and to which no half of string B is ahead (R205, R213). -/
structure Leads (c : Chip) (k : Nat) : Prop where
  unison : inUnison c (courseNo k) = true
  first : k % 2 = 0
  log : (courseOf c (courseNo k)).log = []
  ahead : (courseOf c (courseNo k)).bHalves = []
  stack : (coreOf c k).stk.length ≤ 8

/-- String B of a course in unison. -/
structure Seconds (c : Chip) (k : Nat) : Prop where
  unison : inUnison c (courseNo k) = true
  second : k % 2 = 1
  stack : (coreOf c k).stk.length ≤ 8

/-- String B of a course in unison, where the log entry it takes next is the read it makes and has its values (R213). -/
structure Follows (c : Chip) (k : Nat) (e : LogEnt) (kind addr size : Nat) : Prop where
  unison : inUnison c (courseNo k) = true
  second : k % 2 = 1
  next : bNext c (courseNo k) = some e
  ready : e.ready = true
  same : matches_ e kind addr size = true
  stack : (coreOf c k).stk.length ≤ 8

/-- String A has placed an entry in the compare buffer (R205). -/
def Placed (c d : Chip) (k : Nat) (e : Entry) : Prop :=
  (courseOf d (courseNo k)).pairs = (courseOf c (courseNo k)).pairs ++ [⟨e, false, (courseOf c (courseNo k)).pairNo⟩]

/-- String B has placed an entry: an equal output of string A that waits for it is compared (R206). -/
def Compared (c d : Chip) (k : Nat) (e : Entry) : Prop :=
  ∀ p ∈ (courseOf c (courseNo k)).pairs, (courseOf c (courseNo k)).pairs = [p] → p.compared = false → halvesEqual p.a e = true →
    isOutput c (courseNo k) p.a = true → (courseOf d (courseNo k)).pairs = [{ p with compared := true }]

/-- String A has made the read log's one entry (R213, R214). -/
def Logged (c d : Chip) (k kind addr size slot : Nat) (vals : List Word) (ready logged : Bool) : Prop :=
  (courseOf d (courseNo k)).log =
    [⟨kind, addr, size, vals, ready, none, (coreOf c k).words, slot, logged && rbkOf c (courseNo k), true, false⟩]

/-- A word of string A has called the checkpoint at itself and does not execute yet (R215, R218, R220). -/
structure CallsFirst (c d : Chip) (k : Nat) : Prop where
  called : (courseOf c (courseNo k)).ckptAt = none → (courseOf d (courseNo k)).ckptAt = some (coreOf c k).words
  string : coreOf d k = { coreOf c k with ownCkpt := 1 }
  others : ∀ j, j ≠ k → coreOf d j = coreOf c j
  mem : d.mem = c.mem
  chans : d.chans = c.chans

/-! ### The rest of the device -/

/-- Strings, courses and every byte of memory are as before. -/
structure KeepsWork (c d : Chip) : Prop where
  cores : d.cores = c.cores
  courses : d.courses = c.courses
  mem : d.mem = c.mem

/-- No register changes but those of a list. -/
def OnlyRegs (l : List Nat) (c d : Chip) : Prop := ∀ a, a ∉ l → regVal d a = regVal c a

/-- A reply or completion with a status has been posted: on a ring whose function can write to the host, its word 0 stands at
the tail of the reply register (R518, R530). -/
def Posted (c d : Chip) (r : ReplyTo) (comp : Bool) (status : Nat) : Prop :=
  r.queue < 4 → canWriteHost c = true →
    (queueOf d r.queue).replies = (queueOf c r.queue).replies ++ [replyWord0 r comp status]

/-- A command answered ACCEPTED has completed with a status. -/
def Completed (c d : Chip) (r : ReplyTo) (status : Nat) : Prop :=
  d.accepted = c.accepted.erase r ∧ (r ∈ c.accepted → Posted c d r true status)

/-- A command of an opcode is in hand, passes the checks that every command passes (R521), and no power command runs. -/
structure InHand (c : Chip) (p : Packet) (op : Nat) : Prop where
  cur : c.cur = some p
  opcode : p.opcode = op
  checks : chkCommand c p = none
  power : c.sys.power = none

/-- The command in hand is answered with a status, and nothing is in hand any more. -/
def Answers (c d : Chip) (p : Packet) (status : Nat) : Prop := d.cur = none ∧ Posted c d (replyTo p) false status

/-- The command in hand is answered ACCEPTED and stands among those that owe a completion (R519). -/
def Accepts (c d : Chip) (p : Packet) : Prop :=
  d.cur = none ∧ d.accepted = c.accepted ++ [replyTo p] ∧ Posted c d (replyTo p) false stACCEPTED

/-- The device with nothing in hand. -/
def emptied (c : Chip) : Chip := { c with cur := none }

end Sys2Proof.Safety
end

