-- ==== Sys2Proof/Certificates/Slice0/Obligations.lean ====
section
/-! DEFINITION. The statements for the provers. Each formalises what its docstring cites. In those about words of a string,
`starts c k rep op n d g ops` (Safety) says that the word stands ready: its fetch, stack tests, fills and room are settled,
nothing goes before it; `ops` are its operands, top first, `g` the stack with its fills. -/

open Sys2Proof Sys2Proof.Machine Sys2Proof.Safety

/-! ### Steps, words, encodings -/

/-- A step takes the command at the front of the queue and executes it on the state with the rest of the queue. With no
command waiting a period of the time base's clock passes (DESIGN CHOICE, log entry 3): 5 ns from the FIO; from a PLL 2 ns
where TBRATE is 0 and no fraction is held (R508, R591); no string, no course and no byte of memory changes. -/
def Obligations.StepTakesFront : Prop :=
  (∀ (s : State) (i : Instr) (rest : List Instr), s.pending = i :: rest → step s = exec i { s with pending := rest }) ∧
  (∀ s : State, s.pending = [] → ∃ t, step s = .next t ∧ t.pending = [] ∧ KeepsWork s.chip t.chip ∧
    (s.chip.sys.per = false → t = s) ∧
    (s.chip.sys.per = true → onPll s.chip = false → t.chip.tb = s.chip.tb + 5) ∧
    (s.chip.sys.per = true → onPll s.chip = true → regVal s.chip 0x60003018 = 0 → s.chip.frac = 0 →
      t.chip.tb = s.chip.tb + 2))

/-- Every step but the idle one takes exactly one command off the queue and adds none, and no step stops the machine:
the spec gives every command an effect. Model choices: log entries 1, 10. -/
def Obligations.StepsComplete : Prop :=
  ∀ s : State, ∃ t, step s = .next t ∧ t.pending = s.pending.tail

/-- Words of the long form and of the pair form, laid out bit by bit as R131, R141, R143, R144 and R149 give them, and
words R150 and R151 call undefined. -/
def Obligations.DecodedWords : Prop :=
  decodeWord false 0b1001000000000000 0 = some (.pair 0x10 0x00) ∧
  decodeWord false 0b1100010110000010 0 = some (.pair 0x45 0x41) ∧
  decodeWord false 0b0000000111111111 0 = some (.lit 0xFF) ∧
  decodeWord false 0b0000001000000000 0x8000 = some (.litx 0x8000) ∧
  decodeWord false 0b0010000000010110 0 = some (.ldr 2 1 true) ∧
  decodeWord false 0b0010000100001000 0 = some (.str 2) ∧
  decodeWord false 0b0010011100000111 0 = some (.div 3 true) ∧
  decodeWord false 0b0111010101111101 0 = some (.cp 5 1 31) ∧
  decodeWord false 0b0100000000100000 0 = some (.csrr 0x20) ∧
  decodeWord false 0b1000000000000001 0 = none ∧
  decodeWord false 0b0111100000000000 0 = none ∧
  decodeWord true 0b0111010101111101 0 = none ∧
  decodeWord false 0b0010000000011010 0 = none ∧
  decodeWord false 0b0010101000000000 0 = none

/-- Decoding the words of an instruction gives it back, with every operand at every value its word can spell. -/
def Obligations.DecodeOfEncode : Prop :=
  ∀ (lu : Bool) (op : CoreOp), op.wf lu = true →
    decodeWord lu (encodeWord op).1 (encodeWord op).2 = some op

/-- R151: what makes a word undefined — a pair with bit 0 set, a pair with an undefined short opcode in either half, an
undefined long opcode, a reserved field value, an unassigned CSR index; and a word that decodes decodes to an instruction
that its encoding spells. -/
def Obligations.UndefinedWords : Prop :=
  ∀ (lu : Bool) (w x : IWord),
    (0x8000 ≤ w.toNat → w.toNat % 2 = 1 → decodeWord lu w x = none) ∧
    (∀ a b : Nat, a < 128 → b < 128 → (shortDefined a = false ∨ shortDefined b = false) →
      decodeWord lu (BitVec.ofNat 16 (0x8000 + a * 256 + b * 2)) x = none) ∧
    (∀ o f : Nat, f < 256 → (o = 0x00 ∨ (0x0A ≤ o ∧ o ≤ 0x0F) ∨ (0x2B ≤ o ∧ o ≤ 0x2F) ∨ (0x34 ≤ o ∧ o ≤ 0x37) ∨ o = 0x3E ∨
        o = 0x3F ∨ (0x42 ≤ o ∧ o ≤ 0x47) ∨ (0x4A ≤ o ∧ o ≤ 0x6F) ∨ (0x78 ≤ o ∧ o ≤ 0x7F) ∨
        (lu = true ∧ 0x70 ≤ o ∧ o ≤ 0x7F)) →
      decodeWord lu (BitVec.ofNat 16 (o * 256 + f)) x = none) ∧
    (∀ i : Nat, i < 256 → csrAssigned i = false →
      decodeWord lu (BitVec.ofNat 16 (0x40 * 256 + i)) x = none ∧ decodeWord lu (BitVec.ofNat 16 (0x41 * 256 + i)) x = none) ∧
    (∀ op, decodeWord lu w x = some op → op.wf lu = true ∧ (encodeWord op).1 = w)

/-- When a word starts (R84, R89, R110, R116): a string of a course in split that runs, waits for nothing, has no trap and
no interrupt due and replays nothing stands at a one-word operation in a line buffer. If the stack holds the operands, the
results fit and SPTR lies between SBASE and SLIMIT, the word starts with the top entries as operands, whatever its check of
them is. Model readings: log entries 14, 16. -/
def Obligations.WordStarts : Prop :=
  ∀ (c : Chip) (k : Nat) (op : CoreOp) (l : Line) (n : Nat),
    running c k = true → inUnison c (courseNo k) = false → (coreOf c k).wait = none → (coreOf c k).rep = none →
    (coreOf c k).itraps = [] → reqUp c k = false → (courseOf c (courseNo k)).log = [] →
    usable (coreOf c k).pc →
    (coreOf c k).lines.find? (fun x => decide (x.base = (coreOf c k).pc / 16 * 16)) = some l →
    needsExt (l.words.getD ((coreOf c k).pc % 16 / 2) 0) = false →
    (∀ f, op ≠ .rep f ∧ op ≠ .repi f) →
    decodeWord (decide (courseNo k = luthierCourse)) (l.words.getD ((coreOf c k).pc % 16 / 2) 0) 0 = some op →
    (opEffect op).1 ≤ (coreOf c k).stk.length → (coreOf c k).stk.length - (opEffect op).1 + (opEffect op).2 ≤ 8 →
    (csrVal c k 0x08).toNat ≤ (csrVal c k 0x0A).toNat → (csrVal c k 0x0A).toNat ≤ (csrVal c k 0x09).toNat →
    rsTest c k op = none → storeRoom c k n = true →
    ∃ d, starts c k false op n d ⟨(coreOf c k).stk, 0⟩ ((coreOf c k).stk.take (opEffect op).1) ∧ JustFetched c d k

/-- The stack tests come before a word executes (R89): too little beneath the hardware entries traps STKUNF, too little room
above traps STKOVF, with TRAPADDR the value of SPTR, and the word changes nothing but what a trap entry changes: no operand
is removed. Here for LIT with a full hardware stack, and for ADDI with an empty one.
Model readings: log entries 14, 15, 16. -/
def Obligations.StackTraps : Prop :=
  ∀ (s : State) (k : Nat) (f : BitVec 8) (d : Chip), isCore k = true → atWord s.chip k = true →
    inUnison s.chip (courseNo k) = false →
    (atHand s.chip k false (.lit f) = some (d, false) → (coreOf s.chip k).stk.length = 8 →
      (csrVal s.chip k 0x08).toNat ≤ (csrVal s.chip k 0x0A).toNat →
      (csrVal s.chip k 0x09).toNat < (csrVal s.chip k 0x0A).toNat + 4 →
      exec (.lit k false f) s =
        .next { s with chip := trapEntry d k (preciseRec d k 0x04 false (csrVal s.chip k 0x0A).toNat) }) ∧
    (atHand s.chip k false (.addi f) = some (d, false) → (coreOf s.chip k).stk = [] →
      (csrVal s.chip k 0x0A).toNat < (csrVal s.chip k 0x08).toNat + 4 →
      exec (.addi k false f) s =
        .next { s with chip := trapEntry d k (preciseRec d k 0x03 false (csrVal s.chip k 0x0A).toNat) })

/-! ### Constants, arithmetic, pairs -/

/-- LIT, LITX, LITHI and PICK: what they push; ADDI, SHLI, SHRI, SARI and ROLI: result and flags (R143, R160, R162). -/
def Obligations.FieldWords : Prop :=
  ∀ (s : State) (k : Nat) (rep : Bool) (d : Chip) (g : Fills) (ops : List Word), isCore k = true →
    (∀ f, starts s.chip k rep (.lit f) 0 d g ops → ownSpills s.chip k g 0 [f.signExtend 32] →
      leaves (.lit k rep f) s (fun t => PlainDone s.chip t k g 0 [f.signExtend 32] ((coreOf s.chip k).pc + 2))) ∧
    (∀ x, starts s.chip k false (.litx x) 0 d g ops → ownSpills s.chip k g 0 [x.signExtend 32] →
      leaves (.litx k x) s (fun t => PlainDone s.chip t k g 0 [x.signExtend 32] ((coreOf s.chip k).pc + 4))) ∧
    (∀ x, starts s.chip k false (.lithi x) 0 d g ops → ownSpills s.chip k g 1 [0] →
      leaves (.lithi k x) s (fun t =>
        PlainDone s.chip t k g 1 [x ++ (ops.getD 0 0).extractLsb' 0 16] ((coreOf s.chip k).pc + 4))) ∧
    (∀ n, starts s.chip k rep (.pick n) 0 d g ops → ownSpills s.chip k g (n.toNat + 1) (ops.getD n.toNat 0 :: ops) →
      leaves (.pick k rep n) s (fun t =>
        PlainDone s.chip t k g (n.toNat + 1) (ops.getD n.toNat 0 :: ops) ((coreOf s.chip k).pc + 2))) ∧
    (∀ f : BitVec 8, starts s.chip k rep (.addi f) 0 d g ops → ownSpills s.chip k g 1 [0] →
      leaves (.addi k rep f) s (fun t =>
        FlagDone s.chip t k g 1 [ops.getD 0 0 + f.signExtend 32]
          (some (decide (2 ^ 32 ≤ (ops.getD 0 0).toNat + (f.signExtend 32).toNat)))
          (overflows ((ops.getD 0 0).toInt + f.toInt)) ((coreOf s.chip k).pc + 2))) ∧
    (∀ n : BitVec 5, starts s.chip k rep (.shli n) 0 d g ops → ownSpills s.chip k g 1 [0] →
      leaves (.shli k rep n) s (fun t => PlainDone s.chip t k g 1 [ops.getD 0 0 <<< n.toNat] ((coreOf s.chip k).pc + 2))) ∧
    (∀ n : BitVec 5, starts s.chip k rep (.shri n) 0 d g ops → ownSpills s.chip k g 1 [0] →
      leaves (.shri k rep n) s (fun t => PlainDone s.chip t k g 1 [ops.getD 0 0 >>> n.toNat] ((coreOf s.chip k).pc + 2))) ∧
    (∀ n : BitVec 5, starts s.chip k rep (.sari n) 0 d g ops → ownSpills s.chip k g 1 [0] →
      leaves (.sari k rep n) s (fun t =>
        PlainDone s.chip t k g 1 [(ops.getD 0 0).sshiftRight n.toNat] ((coreOf s.chip k).pc + 2))) ∧
    (∀ n : BitVec 5, starts s.chip k rep (.roli n) 0 d g ops → ownSpills s.chip k g 1 [0] →
      leaves (.roli k rep n) s (fun t =>
        PlainDone s.chip t k g 1 [(ops.getD 0 0).rotateLeft n.toNat] ((coreOf s.chip k).pc + 2)))

/-- The exact results and flags of every short operation that touches no memory, at every operand (R141, R160 to R162): C the
carry or borrow, V set for a signed result out of range, shifts by a whole 32-bit amount. Results stand top first; an operation
without a carry leaves C, one without V leaves V. -/
def Obligations.ShortOperations : Prop :=
  ∀ (a b z : Word) (cin : Bool),
    shortResult 0x00 [] cin = ([], none, false) ∧
    shortResult 0x01 [a] cin = ([a, a], none, false) ∧
    shortResult 0x02 [a] cin = ([], none, false) ∧
    shortResult 0x03 [b, a] cin = ([a, b], none, false) ∧
    shortResult 0x04 [b, a] cin = ([a, b, a], none, false) ∧
    shortResult 0x05 [b, a, z] cin = ([z, b, a], none, false) ∧
    shortResult 0x06 [b, a] cin = ([b], none, false) ∧
    shortResult 0x07 [b, a] cin = ([b, a, b], none, false) ∧
    shortResult 0x08 [] cin = ([0], none, false) ∧
    shortResult 0x09 [] cin = ([1], none, false) ∧
    shortResult 0x0A [] cin = ([0xFFFFFFFF], none, false) ∧
    shortResult 0x10 [b, a] cin = ([a + b], some (decide (2 ^ 32 ≤ a.toNat + b.toNat)), overflows (a.toInt + b.toInt)) ∧
    shortResult 0x11 [b, a] cin = ([a - b], some (decide (a.toNat < b.toNat)), overflows (a.toInt - b.toInt)) ∧
    shortResult 0x12 [b, a] cin = ([a + b + wd (b1 cin)], some (decide (2 ^ 32 ≤ a.toNat + b.toNat + b1 cin)),
      overflows (a.toInt + b.toInt + b1 cin)) ∧
    shortResult 0x13 [b, a] cin = ([a - b - wd (b1 cin)], some (decide (a.toNat < b.toNat + b1 cin)),
      overflows (a.toInt - b.toInt - b1 cin)) ∧
    shortResult 0x14 [a] cin = ([0 - a], none, decide (a = 0x80000000)) ∧
    shortResult 0x15 [a] cin = ([if a.toInt < 0 then 0 - a else a], none, decide (a = 0x80000000)) ∧
    shortResult 0x16 [a] cin = ([a + 1], none, false) ∧
    shortResult 0x17 [a] cin = ([a - 1], none, false) ∧
    shortResult 0x18 [b, a] cin = ([a &&& b], none, false) ∧
    shortResult 0x19 [b, a] cin = ([a ||| b], none, false) ∧
    shortResult 0x1A [b, a] cin = ([a ^^^ b], none, false) ∧
    shortResult 0x1B [a] cin = ([~~~a], none, false) ∧
    shortResult 0x1C [b, a] cin = ([a <<< b], none, false) ∧
    shortResult 0x1D [b, a] cin = ([a >>> b], none, false) ∧
    shortResult 0x1E [b, a] cin = ([a.sshiftRight b.toNat], none, false) ∧
    shortResult 0x1F [b, a] cin = ([a.rotateLeft (b.toNat % 32)], none, false) ∧
    shortResult 0x20 [b, a] cin = ([a.rotateRight (b.toNat % 32)], none, false) ∧
    shortResult 0x21 [b, a] cin = ([if a.slt b then a else b], none, false) ∧
    shortResult 0x22 [b, a] cin = ([if a.slt b then b else a], none, false) ∧
    shortResult 0x23 [b, a] cin = ([if a.ult b then a else b], none, false) ∧
    shortResult 0x24 [b, a] cin = ([if a.ult b then b else a], none, false) ∧
    shortResult 0x25 [a] cin = ([(a.extractLsb' 0 8).signExtend 32], none, false) ∧
    shortResult 0x26 [a] cin = ([(a.extractLsb' 0 16).signExtend 32], none, false) ∧
    shortResult 0x27 [a] cin = ([(a.extractLsb' 0 8).setWidth 32], none, false) ∧
    shortResult 0x28 [a] cin = ([(a.extractLsb' 0 16).setWidth 32], none, false) ∧
    (∃ n, n ≤ 32 ∧ shortResult 0x29 [a] cin = ([wd n], none, false) ∧ a.toNat < 2 ^ (32 - n) ∧ (n < 32 → 2 ^ (31 - n) ≤ a.toNat)) ∧
    shortResult 0x2A [b, a, z] cin = ([if b = 0 then a else z], none, false) ∧
    shortResult 0x30 [b, a] cin = ([if a = b then 1 else 0], none, false) ∧
    shortResult 0x31 [b, a] cin = ([if a = b then 0 else 1], none, false) ∧
    shortResult 0x32 [b, a] cin = ([if a.slt b then 1 else 0], none, false) ∧
    shortResult 0x33 [b, a] cin = ([if a.sle b then 1 else 0], none, false) ∧
    shortResult 0x34 [b, a] cin = ([if a.ult b then 1 else 0], none, false) ∧
    shortResult 0x35 [b, a] cin = ([if a.ule b then 1 else 0], none, false) ∧
    shortResult 0x36 [a] cin = ([if a = 0 then 1 else 0], none, false) ∧
    shortResult 0x37 [a] cin = ([if a.slt 0 then 1 else 0], none, false)

/-- A pair of operations that touch no memory (R132, R135): both read the stack and FLAGS as they stood before the word;
the results of B stand beneath those of A; C is B's where B writes it, else A's; V is set where either sets it. -/
def Obligations.PairWords : Prop :=
  ∀ (s : State) (k : Nat) (rep : Bool) (a b : BitVec 7) (d : Chip) (g : Fills) (ops : List Word), isCore k = true →
    (isShortLoad a.toNat || isShortStore a.toNat || isShortLoad b.toNat || isShortStore b.toNat) = false →
    starts s.chip k rep (.pair a b) 0 d g ops →
    let ra := shortResult a.toNat (ops.take (shortEffect a.toNat).1) (bit (csrVal s.chip k 0x01) 0)
    let rb := shortResult b.toNat (ops.drop (shortEffect a.toNat).1) (bit (csrVal s.chip k 0x01) 0)
    ownSpills s.chip k g ((shortEffect a.toNat).1 + (shortEffect b.toNat).1) (ra.1 ++ rb.1) →
    leaves (.pair k rep a b) s (fun t =>
      FlagDone s.chip t k g ((shortEffect a.toNat).1 + (shortEffect b.toNat).1) (ra.1 ++ rb.1)
        (if rb.2.1.isSome then rb.2.1 else ra.2.1) (ra.2.2 || rb.2.2) ((coreOf s.chip k).pc + 2))

/-- The loads and stores of a pair (R83, R112, R142), in half A beside a NOP or in half B: where no store of the string
waits, LDW, LDH, LDHU, LDB and LDBU give the bytes of the string's own SRAM, low byte first, extended as they say; a load of which
a store waiting in the buffer gives a part does not take place yet, and STW, STH and STB enter the store buffer, where the
string has one in use (in split; RemoteStores and UnisonStores say the other cases). An address that is
not aligned traps ALIGN, one whose bytes do not all lie in the first 32 KiB LADDR, with the half and, in TRAPADDR, the address,
and nothing else happens. Model readings: log entries 15, 17. -/
def Obligations.LocalMemoryWords : Prop :=
  ∀ (s : State) (k : Nat) (rep : Bool) (o : BitVec 7) (x y : BitVec 7) (d : Chip) (g : Fills) (ops : List Word), isCore k = true →
    ownAtomic s.chip k = false → (x = o ∧ y = 0) ∨ (x = 0 ∧ y = o) →
    let a := (ops.getD 0 0).toNat
    let ga := 0x20000000 + courseNo k * 0x10000 + a
    let byte (i : Nat) : Byte := byteAt s.chip (ga + i)
    let loads (op size : Nat) (w : Word) : Prop :=
      o.toNat = op → starts s.chip k rep (.pair x y) 0 d g ops → a % size = 0 → a + size ≤ 0x8000 → pendStores s.chip k = [] →
        ga / 4 * 4 ∉ s.chip.poison → ownSpills s.chip k g 1 [w] →
        leaves (.pair k rep x y) s (fun t => WordDone s.chip t k g 1 [w] [] ((coreOf s.chip k).pc + 2))
    loads 0x40 4 (byte 3 ++ byte 2 ++ byte 1 ++ byte 0) ∧
    loads 0x41 2 ((byte 1 ++ byte 0).signExtend 32) ∧
    loads 0x42 2 ((byte 1 ++ byte 0).setWidth 32) ∧
    loads 0x43 1 ((byte 0).signExtend 32) ∧
    loads 0x44 1 ((byte 0).setWidth 32) ∧
    (isShortLoad o.toNat = true → buffers s.chip k → starts s.chip k rep (.pair x y) 0 d g ops → a % shortSize o.toNat = 0 →
      a + shortSize o.toNat ≤ 0x8000 → forward k (coreOf s.chip k).sbuf a (shortSize o.toNat) = .wait →
      leaves (.pair k rep x y) s (fun t => t = d)) ∧
    (isShortStore o.toNat = true → buffers s.chip k → starts s.chip k rep (.pair x y) 1 d g ops → a % shortSize o.toNat = 0 →
      a + shortSize o.toNat ≤ 0x8000 →
      leaves (.pair k rep x y) s (fun t => WordDone s.chip t k g 2 []
        [⟨a, shortSize o.toNat, ops.getD 1 0, wordPc s.chip k⟩] ((coreOf s.chip k).pc + 2))) ∧
    (∀ n, (isShortLoad o.toNat || isShortStore o.toNat) = true → starts s.chip k rep (.pair x y) n d g ops →
      (a % shortSize o.toNat ≠ 0 →
        leaves (.pair k rep x y) s (fun t => t = trapEntry d k (preciseRec d k 0x07 (decide (x = 0)) a))) ∧
      (a % shortSize o.toNat = 0 → 0x8000 < a + shortSize o.toNat →
        leaves (.pair k rep x y) s (fun t => t = trapEntry d k (preciseRec d k 0x08 (decide (x = 0)) a))))
/-! ### Control flow -/

/-- BR, BZ, BNZ and their extended forms (R145, R168, R169): a branch taken goes to PC + 2 times the offset if
instructions can be fetched there and else traps IFETCH with the target in TRAPADDR; one not taken goes on behind itself,
whatever its target. That the word's own command takes its trap is the model's reading (log entry 15). -/
def Obligations.BranchWords : Prop :=
  ∀ (s : State) (k : Nat) (d : Chip) (g : Fills) (ops : List Word), isCore k = true →
    let pc := (coreOf s.chip k).pc
    let short (f : BitVec 8) : Nat := (wd pc + 2#32 * f.signExtend 32).toNat
    let long (x : IWord) : Nat := (wd pc + 2#32 * x.signExtend 32).toNat
    let traps (i : Instr) (target : Nat) : Prop :=
      ¬ usable target → leaves i s (fun t => t = trapEntry d k (preciseRec d k 0x02 false target))
    (∀ f, starts s.chip k false (.br f) 0 d g ops → ownSpills s.chip k g 0 [] →
      (usable (short f) → leaves (.br k f) s (fun t => PlainDone s.chip t k g 0 [] (short f))) ∧
      traps (.br k f) (short f)) ∧
    (∀ x, starts s.chip k false (.brx x) 0 d g ops → ownSpills s.chip k g 0 [] →
      (usable (long x) → leaves (.brx k x) s (fun t => PlainDone s.chip t k g 0 [] (long x))) ∧ traps (.brx k x) (long x)) ∧
    (∀ f, starts s.chip k false (.bz f) 0 d g ops → ownSpills s.chip k g 1 [] →
      (ops.getD 0 0 = 0 → usable (short f) → leaves (.bz k f) s (fun t => PlainDone s.chip t k g 1 [] (short f))) ∧
      (ops.getD 0 0 = 0 → traps (.bz k f) (short f)) ∧
      (ops.getD 0 0 ≠ 0 → leaves (.bz k f) s (fun t => PlainDone s.chip t k g 1 [] (pc + 2)))) ∧
    (∀ f, starts s.chip k false (.bnz f) 0 d g ops → ownSpills s.chip k g 1 [] →
      (ops.getD 0 0 ≠ 0 → usable (short f) → leaves (.bnz k f) s (fun t => PlainDone s.chip t k g 1 [] (short f))) ∧
      (ops.getD 0 0 ≠ 0 → traps (.bnz k f) (short f)) ∧
      (ops.getD 0 0 = 0 → leaves (.bnz k f) s (fun t => PlainDone s.chip t k g 1 [] (pc + 2)))) ∧
    (∀ x, starts s.chip k false (.bzx x) 0 d g ops → ownSpills s.chip k g 1 [] →
      (ops.getD 0 0 = 0 → usable (long x) → leaves (.bzx k x) s (fun t => PlainDone s.chip t k g 1 [] (long x))) ∧
      (ops.getD 0 0 = 0 → traps (.bzx k x) (long x)) ∧
      (ops.getD 0 0 ≠ 0 → leaves (.bzx k x) s (fun t => PlainDone s.chip t k g 1 [] (pc + 4)))) ∧
    (∀ x, starts s.chip k false (.bnzx x) 0 d g ops → ownSpills s.chip k g 1 [] →
      (ops.getD 0 0 ≠ 0 → usable (long x) → leaves (.bnzx k x) s (fun t => PlainDone s.chip t k g 1 [] (long x))) ∧
      (ops.getD 0 0 ≠ 0 → traps (.bnzx k x) (long x)) ∧
      (ops.getD 0 0 = 0 → leaves (.bnzx k x) s (fun t => PlainDone s.chip t k g 1 [] (pc + 4))))

/-- CALL, CALLI, RET, JMPI, TOR, FROMR, RGET and RDROP (R97, R145, R170): the return stack is a ring of 16 places with a
pointer; a push writes the place under the pointer and a pop reads the one beneath; the depth stays within 0 to 16. The
return address is PC + 4 for CALL and PC + 2 for CALLI. CALL, CALLI, RET and JMPI to a target that instructions cannot be
fetched from trap IFETCH with the target in TRAPADDR and change nothing (R169); that the word's own command takes its trap is
the model's reading (log entry 15). -/
def Obligations.ReturnStackWords : Prop :=
  ∀ (s : State) (k : Nat) (d : Chip) (g : Fills) (ops : List Word), isCore k = true →
    let r := coreOf s.chip k
    let top := Tbl.get 0 r.rsFile ((r.rsPtr + 15) % 16)
    let pushed (w : Word) (n : Nat) (res : List Word) (pc : Nat) (t : Chip) : Prop :=
      RsDone s.chip t k g n res (Tbl.put 0 r.rsFile r.rsPtr w) ((r.rsPtr + 1) % 16) (Nat.min (r.rsDepth + 1) 16) pc
    let popped (n : Nat) (res : List Word) (pc : Nat) (t : Chip) : Prop :=
      RsDone s.chip t k g n res r.rsFile ((r.rsPtr + 15) % 16) (r.rsDepth - 1) pc
    let traps (i : Instr) (target : Nat) : Prop :=
      ¬ usable target → leaves i s (fun t => t = trapEntry d k (preciseRec d k 0x02 false target))
    (∀ x, starts s.chip k false (.call x) 0 d g ops → ownSpills s.chip k g 0 [] →
      (usable x.toNat → leaves (.call k x) s (pushed (wd (r.pc + 4)) 0 [] x.toNat)) ∧ traps (.call k x) x.toNat) ∧
    (starts s.chip k false .calli 0 d g ops → ownSpills s.chip k g 1 [] →
      (usable (ops.getD 0 0).toNat → leaves (.calli k) s (pushed (wd (r.pc + 2)) 1 [] (ops.getD 0 0).toNat)) ∧
      traps (.calli k) (ops.getD 0 0).toNat) ∧
    (starts s.chip k false .ret 0 d g ops → ownSpills s.chip k g 0 [] →
      (usable top.toNat → leaves (.ret k) s (popped 0 [] top.toNat)) ∧ traps (.ret k) top.toNat) ∧
    (starts s.chip k false .jmpi 0 d g ops → ownSpills s.chip k g 1 [] →
      (usable (ops.getD 0 0).toNat → leaves (.jmpi k) s (fun t => PlainDone s.chip t k g 1 [] (ops.getD 0 0).toNat)) ∧
      traps (.jmpi k) (ops.getD 0 0).toNat) ∧
    (starts s.chip k false .tor 0 d g ops → ownSpills s.chip k g 1 [] →
      leaves (.tor k) s (pushed (ops.getD 0 0) 1 [] (r.pc + 2))) ∧
    (starts s.chip k false .fromr 0 d g ops → ownSpills s.chip k g 0 [top] →
      leaves (.fromr k) s (popped 0 [top] (r.pc + 2))) ∧
    (starts s.chip k false .rget 0 d g ops → ownSpills s.chip k g 0 [top] →
      leaves (.rget k) s (fun t => PlainDone s.chip t k g 0 [top] (r.pc + 2))) ∧
    (starts s.chip k false .rdrop 0 d g ops → ownSpills s.chip k g 0 [] →
      leaves (.rdrop k) s (popped 0 [] (r.pc + 2)))

/-- The limits of the return stack (R98). In trap mode (RSCTL bit 0) a push at depth 16 traps RSOVF and a pop at depth 0
RSUNF, precise, and the word does not execute; the string is in split and its operands are in hardware. In wrap mode
neither traps: the push writes the place under the pointer, which is the oldest entry's, and the depth stays 16; the pop moves
the pointer down one place and returns the entry there, 0 if never written, and the depth stays 0; no flag is set. A
write of RSMODE taking effect leaves contents and depth as they are.
That the word's own command takes its trap is the model's reading (log entry 15). -/
def Obligations.ReturnStackTest : Prop :=
  (∀ (s : State) (k : Nat) (x : IWord) (d : Chip), isCore k = true → atWord s.chip k = true → inUnison s.chip (courseNo k) = false →
    1 ≤ (coreOf s.chip k).stk.length → (coreOf s.chip k).stk.length ≤ 7 →
    (csrVal s.chip k 0x08).toNat ≤ (csrVal s.chip k 0x0A).toNat → (csrVal s.chip k 0x0A).toNat ≤ (csrVal s.chip k 0x09).toNat →
    bit (csrVal s.chip k 0x0B) 0 = true →
    let traps (i : Instr) (op : CoreOp) (cause : Nat) : Prop := atHand s.chip k false op = some (d, false) →
      exec i s = .next { s with chip := trapEntry d k (preciseRec d k cause false 0) }
    ((coreOf s.chip k).rsDepth = 16 →
      traps (.call k x) (.call x) 0x05 ∧ traps (.calli k) .calli 0x05 ∧ traps (.tor k) .tor 0x05) ∧
    ((coreOf s.chip k).rsDepth = 0 →
      traps (.ret k) .ret 0x06 ∧ traps (.fromr k) .fromr 0x06 ∧ traps (.rget k) .rget 0x06 ∧ traps (.rdrop k) .rdrop 0x06)) ∧
  (∀ (s : State) (k : Nat) (x : IWord) (d : Chip) (g : Fills) (ops : List Word), isCore k = true → bit (csrVal s.chip k 0x0B) 0 = false →
    let r := coreOf s.chip k
    let below := (r.rsPtr + 15) % 16
    let entry := Tbl.get 0 r.rsFile below
    (∀ op, rsTest s.chip k op = none) ∧
    (r.rsDepth = 16 →
      (starts s.chip k false (.call x) 0 d g ops → ownSpills s.chip k g 0 [] → usable x.toNat → leaves (.call k x) s (fun t =>
        RsDone s.chip t k g 0 [] (Tbl.put 0 r.rsFile r.rsPtr (wd (r.pc + 4))) ((r.rsPtr + 1) % 16) 16 x.toNat)) ∧
      (starts s.chip k false .calli 0 d g ops → ownSpills s.chip k g 1 [] → usable (ops.getD 0 0).toNat → leaves (.calli k) s (fun t =>
        RsDone s.chip t k g 1 [] (Tbl.put 0 r.rsFile r.rsPtr (wd (r.pc + 2))) ((r.rsPtr + 1) % 16) 16 (ops.getD 0 0).toNat)) ∧
      (starts s.chip k false .tor 0 d g ops → ownSpills s.chip k g 1 [] → leaves (.tor k) s (fun t =>
        RsDone s.chip t k g 1 [] (Tbl.put 0 r.rsFile r.rsPtr (ops.getD 0 0)) ((r.rsPtr + 1) % 16) 16 (r.pc + 2)))) ∧
    (r.rsDepth = 0 →
      (starts s.chip k false .ret 0 d g ops → ownSpills s.chip k g 0 [] → usable entry.toNat → leaves (.ret k) s (fun t =>
        RsDone s.chip t k g 0 [] r.rsFile below 0 entry.toNat)) ∧
      (starts s.chip k false .fromr 0 d g ops → ownSpills s.chip k g 0 [entry] → leaves (.fromr k) s (fun t =>
        RsDone s.chip t k g 0 [entry] r.rsFile below 0 (r.pc + 2))) ∧
      (starts s.chip k false .rdrop 0 d g ops → ownSpills s.chip k g 0 [] → leaves (.rdrop k) s (fun t =>
        RsDone s.chip t k g 0 [] r.rsFile below 0 (r.pc + 2))))) ∧
  (∀ (c : Chip) (k : Nat), KeepsRs c (applyPend c k) k)

/-- REP and REPI (R148, R171): the count is the field, or popped where the field is 0; a count of 0 goes on behind the
repeated word, any other enters the repetition at the word with REPCNT holding the count. An iteration executes the
stored word, after which REPCNT is one less, and after the last one the string goes on behind the repeated word. Model
readings and choices: log entry 113. -/
def Obligations.Repetition : Prop :=
  ∀ (s : State) (k : Nat) (d : Chip) (g : Fills) (ops : List Word), isCore k = true →
    let pc := (coreOf s.chip k).pc
    let lu := decide (courseNo k = luthierCourse)
    let w := (fetchWord d k (pc + 2)).2.1
    let begun (intr : Bool) (n : Nat) (t : Chip) : Prop :=
      csrVal t k 0x28 = wd n ∧ (coreOf t k).stk = (stackEnd g (ops.length) []).take 8 ∧
        (if n = 0 then (coreOf t k).rep = none ∧ (coreOf t k).pc = pc + 4
          else (coreOf t k).rep = some ⟨intr, w, pc⟩ ∧ (coreOf t k).pc = pc)
    (∀ f : BitVec 8, starts s.chip k false (.rep f) 0 d g ops → ownSpills s.chip k g ops.length [] →
      repeatable lu w = true →
      leaves (.rep k f) s (begun false (if f = 0 then (ops.getD 0 0).toNat else f.toNat))) ∧
    (∀ f : BitVec 8, starts s.chip k false (.repi f) 0 d g ops → ownSpills s.chip k g ops.length [] →
      repeatable lu w = true →
      leaves (.repi k f) s (begun true (if f = 0 then (ops.getD 0 0).toNat else f.toNat))) ∧
    (∀ (q : Rep) (f : BitVec 8), (coreOf s.chip k).rep = some q → decodeWord lu q.word 0 = some (.addi f) →
      starts s.chip k true (.addi f) 0 d g ops → ownSpills s.chip k g 1 [0] →
      leaves (.repIteration k) s (fun t =>
        (coreOf t k).stk = ((ops.getD 0 0 + f.signExtend 32) :: g.stk.drop 1).take 8 ∧
        csrVal t k 0x28 = csrVal s.chip k 0x28 - 1 ∧
        (csrVal s.chip k 0x28 = 1 → (coreOf t k).pc = q.at_ + 4 ∧ (coreOf t k).rep = none) ∧
        (csrVal s.chip k 0x28 ≠ 1 → (coreOf t k).pc = pc ∧ (coreOf t k).rep = some q)))

/-! ### Traps -/

/-- Trap entry (R190, R194 to R197): TRAPPC, TRAPCAUSE, TRAPINFO and TRAPADDR take the record, INH is set, the reservation
is lost and control goes to the vector of the cause in the table at TRAPVEC, 4 bytes apart; a pending write of TRAPVEC is
applied first (R118). FLAGS, REPCNT, the operand stack, the return stack and the landing slots stay as they stand, and so does
everything outside the string. -/
def Obligations.TrapEntryEffect : Prop :=
  ∀ (c : Chip) (k : Nat) (t : TrapRec), pendOk c k → inhOf c k = false → t.cause < 256 → t.slot < 4 → t.code < 256 →
    let d := trapEntry c k t
    csrVal d k 0x12 = wd (t.retPc % 65536 / 2 * 2) ∧
    bits (csrVal d k 0x11) 7 0 = t.cause ∧ bit (csrVal d k 0x11) 8 = t.imp ∧ bit (csrVal d k 0x11) 9 = t.store ∧
    bits (csrVal d k 0x11) 11 10 = t.slot ∧ bit (csrVal d k 0x11) 12 = t.halfB ∧ bits (csrVal d k 0x11) 23 16 = t.code ∧
    bits (csrVal d k 0x13) 15 0 = t.ipc % 65536 ∧ bit (csrVal d k 0x13) 16 = t.rpt ∧ bit (csrVal d k 0x13) 17 = true ∧
    csrVal d k 0x14 = wd t.addr ∧ (coreOf d k).pc = vectorAt c k t.cause ∧
    (coreOf d k).resv = none ∧ (coreOf d k).wait = none ∧ (coreOf d k).rep = none ∧ (coreOf d k).pend = [] ∧
    (coreOf d k).stk = (coreOf c k).stk ∧ csrVal d k 0x01 = csrVal c k 0x01 ∧ csrVal d k 0x28 = csrVal c k 0x28 ∧
    KeepsRs c d k ∧ KeepsSlots c d k ∧ (coreOf d k).sbuf = (coreOf c k).sbuf ∧
    (∀ j, j ≠ k → coreOf d j = coreOf c j) ∧ ∃ cs, d = { c with cores := cs }

/-- A trap while a handler runs is a double trap (R191): the string halts before the word, the trap CSRs keep the first
record, the course's status names cause and string, and the tuner source of the course is raised. -/
def Obligations.DoubleTrap : Prop :=
  ∀ (c : Chip) (k : Nat) (t : TrapRec), k < 512 → pendOk c k → inhOf c k = true →
    let d := trapEntry c k t
    (coreOf d k).halted = true ∧ (coreOf d k).pc = (coreOf c k).pc ∧
    csrVal d k 0x11 = csrVal c k 0x11 ∧ csrVal d k 0x12 = csrVal c k 0x12 ∧ csrVal d k 0x13 = csrVal c k 0x13 ∧
    csrVal d k 0x14 = csrVal c k 0x14 ∧ (courseOf d (k / 2)).dtrap = true ∧ (courseOf d (k / 2)).dtcause = t.cause ∧
    (courseOf d (k / 2)).dtstrB = decide (k % 2 = 1) ∧ (srcOf d (705 + k / 2)).pulseBusy = true

/-- TRAP and RETT (R145, R190, R193). TRAP completes, then its trap is taken with TRAPPC at the word after and the field in
CODE; while a handler runs it is a double trap and the string halts before it. RETT clears INH, applies the pending CSR
writes and goes to TRAPPC; with RPT 1 the REP or REPI there goes on at its next iteration with the count REPCNT holds, or
behind its word where that is 0 (R177); where TRAPPC is not usable, it traps IFETCH with TRAPPC its own address and TRAPADDR the
target. Model reading: log entry 15. -/
def Obligations.TrapWords : Prop :=
  ∀ (s : State) (k : Nat) (f : BitVec 8) (d : Chip) (g : Fills) (ops : List Word), isCore k = true → pendOk s.chip k →
    let pc := (coreOf s.chip k).pc
    let tp := (csrVal s.chip k 0x12).toNat
    (starts s.chip k false (.trap f) 0 d g ops → inhOf s.chip k = false →
      leaves (.trap k f) s (fun t =>
        csrVal t k 0x12 = wd (pc + 2) ∧ bits (csrVal t k 0x11) 7 0 = 0x0A ∧ bits (csrVal t k 0x11) 23 16 = f.toNat ∧
        bit (csrVal t k 0x11) 8 = false ∧ bits (csrVal t k 0x13) 15 0 = pc ∧ bit (csrVal t k 0x13) 17 = true ∧
        (coreOf t k).pc = vectorAt s.chip k 0x0A ∧ (coreOf t k).stk = g.stk.take 8)) ∧
    (starts s.chip k false (.trap f) 0 d g ops → k < 512 → inhOf s.chip k = true →
      leaves (.trap k f) s (fun t =>
        (coreOf t k).halted = true ∧ (coreOf t k).pc = pc ∧ (courseOf t (k / 2)).dtrap = true ∧
        csrVal t k 0x11 = csrVal s.chip k 0x11)) ∧
    (starts s.chip k false .rett 0 d g ops → usable tp →
      bit (csrVal s.chip k 0x13) 16 = false →
      leaves (.rett k) s (fun t =>
        (coreOf t k).pc = tp ∧ inhOf t k = false ∧ (coreOf t k).pend = [] ∧ (coreOf t k).stk = g.stk.take 8 ∧
        csrVal t k 0x18 = ((coreOf s.chip k).pend.lookup 0x18).getD (csrVal s.chip k 0x18) ∧
        csrVal t k 0x11 = csrVal s.chip k 0x11)) ∧
    (∀ intr : Bool, starts s.chip k false .rett 0 d g ops → usable tp → bit (csrVal s.chip k 0x13) 16 = true →
      let e := (fetchWord (trapReturn d k) k tp).1
      let w := (fetchWord e k (tp + 2)).2.1
      (fetchWord (trapReturn d k) k tp).2.1.toNat / 256 = (if intr then 0x1F else 0x1E) → fetchable (tp + 2) = true →
      (fetchWord (trapReturn d k) k tp).2.2 = false → (fetchWord e k (tp + 2)).2.2 = false →
      repeatable (decide (courseNo k = luthierCourse)) w = true →
      leaves (.rett k) s (fun t =>
        inhOf t k = false ∧ csrVal t k 0x28 = csrVal s.chip k 0x28 ∧ (coreOf t k).stk = g.stk.take 8 ∧
        (if csrVal s.chip k 0x28 = 0 then (coreOf t k).rep = none ∧ (coreOf t k).pc = tp + 4
          else (coreOf t k).rep = some ⟨intr, w, tp⟩ ∧ (coreOf t k).pc = tp))) ∧
    (starts s.chip k false .rett 0 d g ops → ¬ usable tp →
      leaves (.rett k) s (fun t =>
        bits (csrVal t k 0x11) 7 0 = 0x02 ∧ csrVal t k 0x12 = wd pc ∧ csrVal t k 0x14 = wd tp ∧
        (coreOf t k).pc = vectorAt s.chip k 0x02))

/-- Traps between words (R108, R110, R147, R182, R217, R574): an imprecise trap raised is entered at the boundary with
TRAPPC at the next word and IMP set; an interrupt that is due, with no trap before it, with cause 0x20 and IPC 0; both
withdraw a SEND or RECV that waits. In unison string A enters either while no checkpoint is called where it stands,
with its record in the read log; string B takes the log's entry after the same word and, of a trap each string raises
for itself, only where it has raised it too. The deadline of a WAIT ends it with 0 pushed. A reservation is lost after
64 words. Model readings and choices: log entries 15, 30, 107, 115, 117. -/
def Obligations.BoundaryEvents : Prop :=
  ∀ (s : State) (k : Nat), isCore k = true → pendOk s.chip k →
    let split := inUnison s.chip (courseNo k) = false ∧ (courseOf s.chip (courseNo k)).log = []
    let leads := Leads s.chip k ∧ orderRun s.chip k = true
    let trapped (t : ITrap) (d : Chip) : Prop :=
      bits (csrVal d k 0x11) 7 0 = t.cause ∧ bit (csrVal d k 0x11) 8 = true ∧
      bit (csrVal d k 0x11) 9 = t.store ∧ bits (csrVal d k 0x11) 23 16 = t.code ∧
      csrVal d k 0x12 = wd (resumePc s.chip k % 65536 / 2 * 2) ∧ bits (csrVal d k 0x13) 15 0 = t.ipc % 65536 ∧
      csrVal d k 0x14 = wd t.addr ∧ (coreOf d k).wait = none ∧ (coreOf d k).pc = vectorAt s.chip k t.cause
    let interrupted (d : Chip) : Prop :=
      bits (csrVal d k 0x11) 7 0 = 0x20 ∧ csrVal d k 0x12 = wd (resumePc s.chip k % 65536 / 2 * 2) ∧
      bits (csrVal d k 0x13) 15 0 = 0 ∧ bit (csrVal d k 0x13) 17 = true ∧ (coreOf d k).wait = none ∧
      (coreOf d k).pc = vectorAt s.chip k 0x20
    let entry (kind : Nat) (t : Option ITrap) (d : Chip) : Prop :=
      (courseOf d (courseNo k)).log =
        [⟨kind, 0, 0, [], true, t, (coreOf s.chip k).words, 0, rbkOf s.chip (courseNo k), true, false⟩]
    (∀ t rest, boundary s.chip k = true → heldInWord s.chip k = false → (coreOf s.chip k).itraps = t :: rest →
      inhOf s.chip k = false → inRep s.chip k = false → t.cause < 256 → t.slot < 4 → t.code < 256 →
      (split → leaves (.trapEntry k) s (fun d => (coreOf d k).itraps = rest ∧ trapped t d)) ∧
      (leads → leaves (.trapEntry k) s (fun d => (coreOf d k).itraps = rest ∧ trapped t d ∧ entry 0x101 (some t) d))) ∧
    (running s.chip k = true → intDue s.chip k = true → (coreOf s.chip k).itraps = [] →
      ((coreOf s.chip k).wait.isSome ∨ nextTraps s.chip k = false) →
      (split → leaves (.interrupt k) s interrupted) ∧
      (leads → heldInWord s.chip k = false → leaves (.interrupt k) s (fun d => interrupted d ∧ entry 0x100 none d))) ∧
    (∀ e, Seconds s.chip k → heldInWord s.chip k = false → bNext s.chip (courseNo k) = some e →
      asyncNext s.chip k = some e → e.word = (coreOf s.chip k).words → inhOf s.chip k = false →
      (running s.chip k = true → e.kind = 0x100 → leaves (.interrupt k) s interrupted) ∧
      (∀ t, boundary s.chip k = true → e.kind = 0x101 → e.trap = some t → t.cause < 256 → t.slot < 4 → t.code < 256 →
        (∀ w ∈ (coreOf s.chip k).flights, heldOp (courseOf s.chip (courseNo k)) w = true) →
        ((t.each = true → t ∈ (coreOf s.chip k).itraps) →
          leaves (.trapEntry k) s (fun d => t ∉ (coreOf d k).itraps ∧ trapped t d)) ∧
        (t.each = true → (coreOf s.chip k).itraps = [] →
          leaves (.trapEntry k) s (fun d => d = mismatch s.chip (courseNo k) 4 0)))) ∧
    (∀ w, split → running s.chip k = true → (coreOf s.chip k).wait = some w → w.kind = 3 →
      0 ≤ (wd s.chip.tb - w.arg).toInt → (coreOf s.chip k).rep = none →
      leaves (.waitTimeout k) s (fun d =>
        (coreOf d k).wait = none ∧ (coreOf d k).stk = 0 :: (coreOf s.chip k).stk.drop w.drop ∧
        (coreOf d k).pc = (coreOf s.chip k).pc + 2)) ∧
    (∀ r, (coreOf s.chip k).resv = some r → 64 ≤ r.words →
      leaves (.reservationExpiry k) s (fun d => coreOf d k = { coreOf s.chip k with resv := none } ∧
        (∀ j, j ≠ k → coreOf d j = coreOf s.chip j)))
/-! ### Landing slots, loads, stores -/

/-- LDR, AGREE and LR (R100, R101, R112, R142 to R144, R181, R201, R212 to R214, R239): a free slot and an aligned
address issue the request behind the string's earlier ones, with a result in flight; in unison string A issues it for
the course, with an entry of the read log that string B takes, but an LDR of the course's own SRAM, and in fixed
unison any LDR outside the register space, each string makes for itself. A load whose bytes wait in one store takes
them from it and lands at once; one that meets a store in another way, and one whose slot is busy, does not take place
yet. A misaligned address traps ALIGN. Model readings and choices: log entries 15, 17, 104, 111. -/
def Obligations.RemoteLoads : Prop :=
  ∀ (s : State) (k : Nat) (rep : Bool) (slot size : BitVec 2) (sg : Bool) (d : Chip) (g : Fills) (ops : List Word),
    isCore k = true →
    let r := courseOf s.chip (courseNo k)
    let uni := inUnison s.chip (courseNo k)
    let a := (ops.getD 0 0).toNat
    let n := if size = 0 then 1 else if size = 1 then 2 else 4
    let issued (op kind m : Nat) (sx : Bool) (t : Chip) : Prop :=
      (coreOf t k).stk = (stackEnd g 1 []).take 8 ∧ goesOn s.chip t k ((coreOf s.chip k).pc + 2) ∧
      (coreOf t k).slots = (coreOf s.chip k).slots ∧ t.mem = s.chip.mem ∧
      (coreOf t k).flights = (coreOf s.chip k).flights ++ [memFlight s.chip k op slot.toNat a m sx] ∧
      (coreOf t k).bus.length = (coreOf s.chip k).bus.length + 1 ∧
      ∃ q, (coreOf t k).bus.getLast? = some q ∧ q.kind = kind ∧ q.slot = slot.toNat ∧ q.addr = a ∧ q.size = m ∧ q.done = false
    let own (op kind m : Nat) (sx : Bool) (t : Chip) : Prop :=
      issued op kind m sx t ∧ WordDone s.chip t k g 1 [] [] ((coreOf s.chip k).pc + 2)
    let lead (op kind m : Nat) (sx : Bool) (logged : Bool) (t : Chip) : Prop :=
      issued op kind m sx t ∧ (courseOf t (courseNo k)).log =
        [⟨op, a, m + 8 * b1 sx, [], false, none, (coreOf s.chip k).words, slot.toNat,
          logged && rbkOf s.chip (courseNo k), true, false⟩]
    let ldr := Instr.ldr k rep slot size sg
    let agree := Instr.agree k rep slot size sg
    let lr := Instr.lr k rep slot
    let atLdr := starts s.chip k rep (.ldr slot size sg) 0 d g ops
    let atAgree := starts s.chip k rep (.agree slot size sg) 0 d g ops
    let atLr := starts s.chip k rep (.lr slot) 0 d g ops
    (slotBusy s.chip k slot.toNat = false → ownSpills s.chip k g 1 [] →
      (uni = false → r.log = [] →
        (forward k (coreOf s.chip k).sbuf a n = .mem → a % n = 0 →
          (atLdr → leaves ldr s (own 0x20 0 n sg)) ∧ (atAgree → leaves agree s (own 0x25 0 n sg))) ∧
        (forward k (coreOf s.chip k).sbuf a 4 = .mem → a % 4 = 0 → atLr → leaves lr s (own 0x23 3 4 false)) ∧
        (forward k (coreOf s.chip k).sbuf a n = .wait → a % n = 0 →
          (atLdr → exec ldr s = .next s) ∧ (atAgree → exec agree s = .next s)) ∧
        (forward k (coreOf s.chip k).sbuf a 4 = .wait → a % 4 = 0 → atLr → exec lr s = .next s) ∧
        (∀ v p, (coreOf s.chip k).sbuf = [⟨a, 4, v, p⟩] → inRegs a = false → size = 2 → a % 4 = 0 →
          let landed (t : Chip) : Prop := (coreOf t k).stk = (stackEnd g 1 []).take 8 ∧ goesOn s.chip t k ((coreOf s.chip k).pc + 2) ∧
            slotVal t k slot.toNat = v ∧ (coreOf t k).flights = (coreOf s.chip k).flights ∧ t.mem = s.chip.mem
          (atLdr → leaves ldr s landed) ∧ (atAgree → leaves agree s landed) ∧ (atLr → leaves lr s landed))) ∧
      (uni = true → k % 2 = 0 → pendStores s.chip k = [] → r.log = [] →
        (atLdr → a % n = 0 →
          (ownSram k a = true ∨ (s.chip.fixedUnison = true ∧ inRegs a = false) → leaves ldr s (own 0x20 0 n sg)) ∧
          (ownSram k a = false → (s.chip.fixedUnison = false ∨ inRegs a = true) → leaves ldr s (lead 0x20 0 n sg (inRegs a)))) ∧
        (atAgree → a % n = 0 → ownSram k a = false → leaves agree s (lead 0x25 0 n sg (inRegs a))) ∧
        (atLr → a % 4 = 0 → leaves lr s (lead 0x23 3 4 false true))) ∧
      (∀ e, uni = true → k % 2 = 1 → bNext s.chip (courseNo k) = some e → e.ready = true → pendStores s.chip k = [] →
        let given (op : Nat) (t : Chip) : Prop :=
          (coreOf t k).stk = (stackEnd g 1 []).take 8 ∧ goesOn s.chip t k ((coreOf s.chip k).pc + 2) ∧
          (coreOf t k).bus.length = (coreOf s.chip k).bus.length ∧ ∃ f, (coreOf t k).flights = (coreOf s.chip k).flights ++ [f] ∧
            f.op = op ∧ f.slot = slot.toNat ∧ f.ready = true ∧ f.lo = e.vals.getD 0 0
        (atLdr → a % n = 0 → ownSram k a = false → (s.chip.fixedUnison = false ∨ inRegs a = true) →
          matches_ e 0x20 a (n + 8 * b1 sg) = true → leaves ldr s (given 0x20)) ∧
        (atAgree → a % n = 0 → ownSram k a = false → matches_ e 0x25 a (n + 8 * b1 sg) = true → leaves agree s (given 0x25)) ∧
        (atLr → a % 4 = 0 → matches_ e 0x23 a 4 = true → leaves lr s (given 0x23)))) ∧
    (slotBusy s.chip k slot.toNat = true →
      (a % n = 0 → (atLdr → exec ldr s = .next s) ∧ (atAgree → exec agree s = .next s)) ∧
      (a % 4 = 0 → atLr → exec lr s = .next s)) ∧
    (a % n ≠ 0 →
      (atLdr → leaves ldr s (fun t => t = trapEntry d k (preciseRec d k 0x07 false a))) ∧
      (atAgree → leaves agree s (fun t => t = trapEntry d k (preciseRec d k 0x07 false a)))) ∧
    (a % 4 ≠ 0 → atLr → leaves lr s (fun t => t = trapEntry d k (preciseRec d k 0x07 false a)))

/-- STR, TAS and SC (R111, R142, R180, R184, R186, R215, R228): STR of a string in split places its value in the store
buffer whatever the failure its row names, which only a course in unison meets, and a degraded course's goes out at
once; TAS and SC wait for their slot and until the string's earlier stores have been accepted, and then issue. In
unison string A calls a checkpoint at the word, and goes on once string B stands at it with the same operands, the
request made once and logged for B; other operands are a mismatch. A misaligned address traps ALIGN. Model readings
and choices: log entries 29, 114. -/
def Obligations.RemoteStores : Prop :=
  ∀ (s : State) (k : Nat) (rep : Bool) (slot size : BitVec 2) (tflt : Nat) (d : Chip) (g : Fills) (ops : List Word),
    isCore k = true →
    let r := courseOf s.chip (courseNo k)
    let uni := inUnison s.chip (courseNo k)
    let a := (ops.getD 0 0).toNat
    let v := ops.getD 1 0
    let n := if size = 0 then 1 else if size = 1 then 2 else 4
    let accepted := (coreOf s.chip k).sbuf = [] ∧ ∀ q ∈ (coreOf s.chip k).bus, q.kind = 1 → q.done = true
    let atStr := starts s.chip k rep (.str size) 1 d g ops
    let atTas := starts s.chip k rep (.tas slot) 0 d g ops
    let atSc := starts s.chip k rep (.sc slot) 0 d g ops
    let tas := Instr.tas k rep slot
    let sc := Instr.sc k rep slot
    let issued (op kind m : Nat) (w : Word) (t : Chip) : Prop := WordDone' s.chip t k g m [] ((coreOf s.chip k).pc + 2) ∧
      (coreOf t k).flights = (coreOf s.chip k).flights ++ [memFlight s.chip k op slot.toNat a 4 false] ∧
      (coreOf t k).bus.getLast? = some ⟨kind, slot.toNat, a, 4, w, wordPc s.chip k, false, false, 0⟩ ∧ t.mem = s.chip.mem
    let given (e : LogEnt) (op m : Nat) (t : Chip) : Prop := WordDone' s.chip t k g m [] ((coreOf s.chip k).pc + 2) ∧
      (coreOf t k).bus = (coreOf s.chip k).bus ∧ ∃ f, (coreOf t k).flights = (coreOf s.chip k).flights ++ [f] ∧ f.op = op ∧
        f.slot = slot.toNat ∧ f.ready = true ∧ f.lo = e.vals.getD 0 0
    (atStr → uni = false → isFlaw tflt = true → a % n = 0 →
      (r.degraded = false → placesNone s.chip (courseNo k) = false → leaves (.str k rep size tflt) s (fun t =>
        WordDone s.chip t k g 2 [] [⟨a, n, v, wordPc s.chip k⟩] ((coreOf s.chip k).pc + 2))) ∧
      (r.degraded = true → placesNone s.chip (courseNo k) = false → (coreOf s.chip k).stk.length ≤ 8 → ownSram k a = false →
        leaves (.str k rep size tflt) s (fun t =>
          WordDone' s.chip t k g 2 [] ((coreOf s.chip k).pc + 2) ∧ (coreOf t k).sbuf = (coreOf s.chip k).sbuf ∧
          (coreOf t k).bus = (coreOf s.chip k).bus ++ [⟨1, 0, a, n, v, wordPc s.chip k, false, false, 0⟩]))) ∧
    (a % 4 = 0 → slotBusy s.chip k slot.toNat = false → (coreOf s.chip k).stk.length ≤ 8 →
      (uni = false → r.log = [] → accepted →
        (atTas → leaves tas s (issued 0x22 2 1 0)) ∧ (atSc → leaves sc s (issued 0x24 4 2 v))) ∧
      (uni = false → (coreOf s.chip k).sbuf ≠ [] → (atTas → exec tas s = .next s) ∧ (atSc → exec sc s = .next s)) ∧
      (Leads s.chip k →
        (ckptFirst s.chip k = true →
          (atTas → leaves tas s (fun t => CallsFirst s.chip t k)) ∧ (atSc → leaves sc s (fun t => CallsFirst s.chip t k))) ∧
        (ckptFirst s.chip k = false → accepted →
          (atTas → topWords s.chip (k + 1) 1 = ops → leaves tas s (fun t => issued 0x22 2 1 0 t ∧
            Logged s.chip t k 0x22 a 4 slot.toNat [] false true)) ∧
          (atSc → topWords s.chip (k + 1) 2 = ops → leaves sc s (fun t => issued 0x24 4 2 v t ∧
            Logged s.chip t k 0x24 a (4 + 8 * v.toNat) slot.toNat [] false true))) ∧
        (ckptFirst s.chip k = false → topWords s.chip (k + 1) 1 ≠ ops → atTas → k < 512 → leaves tas s (fun t =>
          (courseOf t (courseNo k)).check = 1 ∧ (courseOf t (courseNo k)).mcause = 1 ∧ t.mem = s.chip.mem))) ∧
      (∀ e, (Follows s.chip k e 0x22 a 4 → accepted → atTas → leaves tas s (given e 0x22 1)) ∧
        (Follows s.chip k e 0x24 a (4 + 8 * v.toNat) → accepted → atSc → leaves sc s (given e 0x24 2)))) ∧
    (a % 4 = 0 → slotBusy s.chip k slot.toNat = true → (atTas → exec tas s = .next s) ∧ (atSc → exec sc s = .next s)) ∧
    (a % n ≠ 0 → atStr → leaves (.str k rep size tflt) s (fun t => t = trapEntry d k (preciseRec d k 0x07 false a))) ∧
    (a % 4 ≠ 0 →
      (atTas → leaves tas s (fun t => t = trapEntry d k (preciseRec d k 0x07 false a))) ∧
      (atSc → leaves sc s (fun t => t = trapEntry d k (preciseRec d k 0x07 false a))))

/-- MUL forms the exact 64-bit product, low word for Ln and high word for the next slot, and writes no flag (R163). DIV forms
quotient and remainder; a division by zero gives 0 and the dividend and sets DZ, with DIVZ where DZTRAP is 1 at its issue;
0x8000_0000 by −1 gives 0x8000_0000 and 0 and sets V (R164 to R166). The result is in flight; no flag changes before it
lands (R167). -/
def Obligations.MultiplyDivide : Prop :=
  ∀ (s : State) (k : Nat) (rep : Bool) (slot : BitVec 2) (uns : Bool) (d : Chip) (g : Fills) (ops : List Word),
    isCore k = true → slotsBusy s.chip k slot.toNat true = false → ownSpills s.chip k g 2 [] →
    let a := ops.getD 1 0
    let b := ops.getD 0 0
    let flight (op : Nat) (lo hi : Word) (v dz : Bool) (trap : Nat) (t : Chip) : Prop :=
      WordDone s.chip t k g 2 [] [] ((coreOf s.chip k).pc + 2) ∧ csrVal t k 0x01 = csrVal s.chip k 0x01 ∧
      (coreOf t k).flights = (coreOf s.chip k).flights ++
        [⟨op, slot.toNat, true, wordPc s.chip k, 0, 4, false, true, lo, hi, v, dz, trap, 0, 0⟩]
    let p : BitVec 64 := if uns then a.setWidth 64 * b.setWidth 64 else a.signExtend 64 * b.signExtend 64
    (starts s.chip k rep (.mul slot uns) 0 d g ops →
      leaves (.mul k rep slot uns) s (flight 0x26 (p.extractLsb' 0 32) (p.extractLsb' 32 32) false false 0)) ∧
    (starts s.chip k rep (.div slot uns) 0 d g ops →
      (b = 0 → leaves (.div k rep slot uns) s
        (flight 0x27 0 a false true (if bit (csrVal s.chip k 0x01) 8 then 0x12 else 0))) ∧
      (b ≠ 0 → uns = true → leaves (.div k rep slot uns) s (flight 0x27 (a.udiv b) (a.umod b) false false 0)) ∧
      (b ≠ 0 → uns = false → a = 0x80000000 → b = 0xFFFFFFFF →
        leaves (.div k rep slot uns) s (flight 0x27 0x80000000 0 true false 0)) ∧
      (b ≠ 0 → uns = false → ¬ (a = 0x80000000 ∧ b = 0xFFFFFFFF) →
        leaves (.div k rep slot uns) s (flight 0x27 (a.sdiv b) (a.srem b) false false 0)))

/-- LAND pushes a slot without a hazard check and sets CSTAT.EARLY where a result is still in flight (R102); PUTL writes a
slot that is free and waits for one that is not (R104); WAITL goes on once none of its slots is in flight (R103).
Model reading: log entry 14. -/
def Obligations.SlotWords : Prop :=
  ∀ (s : State) (k : Nat) (rep : Bool) (slot : BitVec 2) (m : BitVec 4) (d : Chip) (g : Fills) (ops : List Word),
    isCore k = true → inUnison s.chip (courseNo k) = false →
    (starts s.chip k rep (.land slot) 0 d g ops → ownSpills s.chip k g 0 [0] →
      leaves (.land k rep slot) s (fun t =>
        WordDone s.chip t k g 0 [slotVal s.chip k slot.toNat] [] ((coreOf s.chip k).pc + 2) ∧ KeepsSlots s.chip t k ∧
        (slotBusy s.chip k slot.toNat = true → bit (csrVal t k 0x00) 0 = true) ∧
        (slotBusy s.chip k slot.toNat = false → csrVal t k 0x00 = csrVal s.chip k 0x00))) ∧
    (starts s.chip k rep (.putl slot) 0 d g ops →
      (slotBusy s.chip k slot.toNat = false → ownSpills s.chip k g 1 [] → leaves (.putl k rep slot) s (fun t =>
        WordDone s.chip t k g 1 [] [] ((coreOf s.chip k).pc + 2) ∧ slotVal t k slot.toNat = ops.getD 0 0 ∧
        (∀ j, j ≠ slot.toNat → slotVal t k j = slotVal s.chip k j) ∧ (coreOf t k).flights = (coreOf s.chip k).flights)) ∧
      (slotBusy s.chip k slot.toNat = true → exec (.putl k rep slot) s = .next s)) ∧
    (starts s.chip k rep (.waitl m) 0 d g ops → ownSpills s.chip k g 0 [] →
      ((∀ j, j < 4 → m.toNat.testBit j = true → slotBusy s.chip k j = false) → leaves (.waitl k rep m) s (fun t =>
        PlainDone s.chip t k g 0 [] ((coreOf s.chip k).pc + 2))) ∧
      (∀ j, j < 4 → m.toNat.testBit j = true → slotBusy s.chip k j = true → exec (.waitl k rep m) s = .next s))

/-- A landing (R100, R106, R108, R163 to R167): the first word enters its slot, the second of a two-word result the next
slot; V and DZ are set where the operation says so; its trap is raised and does not enter; the slot is free. The string is
in split and waits at no barrier. Model reading: log entry 21. -/
def Obligations.Landing : Prop :=
  ∀ (s : State) (k slot : Nat) (f : Flight), isCore k = true → slot < 4 → inUnison s.chip (courseNo k) = false →
    (∀ w, (coreOf s.chip k).wait = some w → w.kind ≠ 7) →
    (coreOf s.chip k).flights.find? (fun f => decide (f.slot = slot)) = some f → f.ready = true → 0x26 ≤ f.op →
    leaves (.landing k slot) s (fun t =>
      slotVal t k slot = f.lo ∧ (f.wide = true → slotVal t k ((slot + 1) % 4) = f.hi) ∧
      (∀ j, j < 4 → j ≠ slot → (f.wide = true → j ≠ (slot + 1) % 4) → slotVal t k j = slotVal s.chip k j) ∧
      (∀ x ∈ (coreOf t k).flights, x.slot ≠ slot) ∧
      bit (csrVal t k 0x01) 0 = bit (csrVal s.chip k 0x01) 0 ∧
      bit (csrVal t k 0x01) 1 = (bit (csrVal s.chip k 0x01) 1 || f.setV) ∧
      bit (csrVal t k 0x01) 2 = (bit (csrVal s.chip k 0x01) 2 || f.setDZ) ∧
      (f.trap = 0 → (coreOf t k).itraps = (coreOf s.chip k).itraps) ∧
      (f.trap ≠ 0 → ∃ b, (coreOf t k).itraps = (coreOf s.chip k).itraps ++ [⟨f.trap, false, slot, f.code, f.ipc, f.taddr, b⟩]) ∧
      (coreOf t k).stk = (coreOf s.chip k).stk ∧ (coreOf t k).pc = (coreOf s.chip k).pc ∧ t.mem = s.chip.mem ∧
      ∀ j, j ≠ k → coreOf t j = coreOf s.chip j)

/-- STORE_DRAIN (R111, R254, R267): the oldest store of a live string leaves its buffer. One to the string's own SRAM writes
exactly its bytes, little-endian, where no error injection waits for it and, for a part of a word, the word is not poisoned;
any other enters the fabric while fewer than eight stores of the string are unacknowledged, and waits otherwise.
A store performed in its memory, and its acknowledgement (R254, R267 to R270): a word store into a cluster store whose
peg's gate is open writes the word's four bytes and no other; one to another course's SRAM that runs in unison, or whose
domain is off, writes nothing and is answered by rejection or error. The acknowledgement removes the request, and raises
BUSDENY for a rejection and BUSOFF for an error, imprecise and marked as a store's. Model readings: log entries 17, 21. -/
def Obligations.StoreDrain : Prop :=
  (∀ (s : State) (k : Nat) (x : Store) (rest : List Store), isCore k = true → (coreOf s.chip k).sbuf = x :: rest →
    courseOn s.chip (courseNo k) = true → (courseOf s.chip (courseNo k)).safe = false →
    (ownSram k x.addr = true → ownAtomic s.chip k = false → x.size = 1 ∨ x.size = 2 ∨ x.size = 4 → x.addr % x.size = 0 →
      injHits s.chip (locOf k x.addr) = false → locOf k x.addr / 4 * 4 ∉ s.chip.poison →
      leaves (.storeDrain k) s (fun t => (coreOf t k).sbuf = rest ∧
        (∀ i, i < x.size → byteAt t (locOf k x.addr + i) = x.data.extractLsb' (8 * i) 8) ∧
        (∀ b, ¬ (locOf k x.addr ≤ b ∧ b < locOf k x.addr + x.size) → byteAt t b = byteAt s.chip b))) ∧
    (ownSram k x.addr = false → ((coreOf s.chip k).bus.filter (fun q => decide (q.kind = 1) && decide (q.slot < 4))).length < 8 →
      (∀ w, (coreOf s.chip k).wait = some w → w.kind ≠ 7) →
      leaves (.storeDrain k) s (fun t =>
        coreOf t k = { coreOf s.chip k with
          sbuf := rest, bus := (coreOf s.chip k).bus ++ [⟨1, 0, x.addr, x.size, x.data, x.ipc, false, false, 0⟩] } ∧
        t.mem = s.chip.mem ∧ ∀ j, j ≠ k → coreOf t j = coreOf s.chip j)) ∧
    (ownSram k x.addr = false → 8 ≤ ((coreOf s.chip k).bus.filter (fun q => decide (q.kind = 1) && decide (q.slot < 4))).length →
      exec (.storeDrain k) s = .next s)) ∧
  (∀ (s : State) (k i b : Nat) (q : BusReq) (pre post : List BusReq), isCore k = true →
    (coreOf s.chip k).bus = pre ++ q :: post → pre.length = i → q.kind = 1 → q.slot < 4 → s.chip.stopped = [] →
    (q.done = false → (∀ x ∈ pre, x.done = true) → (Tbl.get {} s.chip.banks b).waiting = [] → q.size = 4 → q.psn = false → q.addr % 4 = 0 →
      (∀ j o, tgtOf k q.addr = .store j o → b = 300 + 2 * j + o / 0x40000 → gateOpen s.chip (2 * j + o / 0x40000) = true →
        injHits s.chip (0x10000000 + j * 0x100000 + o) = false →
        leaves (.memoryAccess b [k]) s (fun t =>
          (coreOf t k).bus = pre ++ { q with done := true, resp := 0 } :: post ∧
          wordAt t (0x10000000 + j * 0x100000 + o) = q.data ∧
          (∀ a, ¬ (0x10000000 + j * 0x100000 + o ≤ a ∧ a < 0x10000000 + j * 0x100000 + o + 4) →
            byteAt t a = byteAt s.chip a))) ∧
      (∀ n o, tgtOf k q.addr = .sram n o → n ≠ courseNo k → b = n → courseOn s.chip n = true → rejectsWrites s.chip n = true →
        leaves (.memoryAccess b [k]) s (fun t =>
          (coreOf t k).bus = pre ++ { q with done := true, resp := 2 } :: post ∧ t.mem = s.chip.mem)) ∧
      (∀ n o, tgtOf k q.addr = .sram n o → n < 256 → b = n → courseOn s.chip n = false →
        leaves (.memoryAccess b [k]) s (fun t =>
          (coreOf t k).bus = pre ++ { q with done := true, resp := 1 } :: post ∧ t.mem = s.chip.mem))) ∧
    (q.done = true → (∀ x ∈ pre, x.done = false) → (∀ w, (coreOf s.chip k).wait = some w → w.kind ≠ 7) →
      leaves (.storeAck k i) s (fun t => (coreOf t k).bus = pre ++ post ∧ t.mem = s.chip.mem ∧
        (q.resp = 0 → (coreOf t k).itraps = (coreOf s.chip k).itraps) ∧
        (q.resp = 1 → (coreOf t k).itraps = (coreOf s.chip k).itraps ++ [⟨0x10, true, 0, 0, q.ipc, q.addr, false⟩]) ∧
        (q.resp = 2 → (coreOf t k).itraps = (coreOf s.chip k).itraps ++ [⟨0x11, true, 0, 0, q.ipc, q.addr, false⟩]))))

/-- The fabric's own events (R253, R259, R271, R272, R286). A scrub visit reads the next word of its cluster and corrects a single-bit error of
it, where the word's domain is on; a data flit error makes the data of the answer an open value and raises POISON with it; a head flit error stops the
input port, sets HDERR and is fatal, unless a fatal error is being handled; ECCINJ keeps MODE, MEM,
COURSE and BIT and reads a reserved MODE or BIT as its reset value.
Reads of a word with errors (R255, R256): a poisoned word is discovered as such and stays poisoned, a single-bit error is
corrected and gone, and neither changes a byte of memory. A whole-word write without injection makes the word good again.
Model readings: log entries 35, 36, 37. -/
def Obligations.FabricEvents : Prop :=
  (∀ (s : State) (k : Nat), k < 32 → s.chip.sys.per = true →
    (let r : Scrub := Tbl.get {} s.chip.scrubs k
     r.pos < 0x30000 → bit (regVal s.chip (clReg k 0x10)) 1 = true →
      r.at_ + scrubNs s.chip k ≤ s.chip.tb → scrubOn s.chip k r.pos = true →
      leaves (.scrub k r.pos) s (fun t => scrubGa k r.pos ∉ t.sbe ∧ t.mem = s.chip.mem ∧ t.poison = s.chip.poison ∧
        Tbl.get {} t.scrubs k = ⟨(r.pos + 1) % 0x30000, s.chip.tb⟩)) ∧
    (∀ p who i, isInput p = true → (linkMask k).getLsbD p = true →
      leaves (.dataFlitError k p 0 who i) s (fun t =>
        bit (regVal t (clReg k 0x04)) p = true ∧ t.mem = s.chip.mem ∧
        (coreOf t who).flights = (coreOf s.chip who).flights.map (fun f =>
          if f.slot = i ∧ f.ready ∧ f.op < 0x26 ∧ f.trap = 0 then { f with lo := Config.freeWord s.chip.free, trap := 0x14 }
          else f))) ∧
    (∀ p, isInput p = true → (linkMask k).getLsbD p = true →
      leaves (.headFlitError k p) s (fun t =>
        6 * k + p ∈ t.stopped ∧ bit (regVal t (clReg k 0x04)) 6 = true ∧
        (hostStates s.chip = true → faultHandled s.chip = false → t.dev = .faulted))) ∧
    (∀ w : Word, bits w 1 0 ≠ 3 → bits w 13 8 ≤ 38 →
      leaves (.eccinjWrite k w) s (fun t => regVal t (clReg k 0x24) = (w &&& 0x3F3F#32)))) ∧
  (∀ (c : Chip) (ga src core : Nat) (w : Word) (by_ : Option Nat),
    let a := ga / 4 * 4
    let r := readWord c ga src core
    (r.2.1 = wordAt c a ∧ r.2.2 = decide (a ∈ c.poison) ∧ r.1.poison = c.poison ∧ r.1.mem = c.mem ∧ a ∉ r.1.sbe) ∧
    (∀ x, x ≠ a → (x ∈ r.1.sbe ↔ x ∈ c.sbe)) ∧
    (injHits c a = false →
      let t := writeWord c ga w false by_
      a ∉ t.poison ∧ a ∉ t.sbe ∧ wordAt t a = w ∧ (∀ x, x ≠ a → (x ∈ t.poison ↔ x ∈ c.poison)) ∧
      ∀ b, ¬ (a ≤ b ∧ b < a + 4) → byteAt t b = byteAt c b) ∧
    (injHits c a = false → a ∈ (writeWord c ga w true by_).poison))
/-! ### Channels as strings meet them -/

/-- SEND and SENDT (R146, R211, R213, R218, R292, R304, R308, R314). On a stream channel with credit an item of a
string in split is accepted at once: it takes a credit and stands at the tail of the queue; without credit, or behind
a SEND that waits, SEND waits in order and SENDT pushes 0. On a mailbox the string waits in the word. In unison string
A reserves the place and places the entry that string B's half is compared with; where there is no place SEND calls a
checkpoint before it waits; the status of SENDT is an agreed read. A handle that is stale, or names a channel it may
not send on, traps BADHANDLE and nothing is sent. The queue is of words, in cluster store, unbroken, no error
injection waits for its tail, and no port is stopped. Model readings and choices: log entries 23, 114, 118. -/
def Obligations.SendWords : Prop :=
  ∀ (s : State) (k : Nat) (rep : Bool) (d : Chip) (g : Fills) (ops : List Word), isCore k = true →
    let h := (ops.getD 0 0).toNat
    let v := ops.getD 1 0
    let n := h % 4096
    let ch := chanOf s.chip n
    let uni := inUnison s.chip (courseNo k)
    let place := (if ch.kind = 1 then 0 < ch.credit else 0 < chFree ch) ∧ ch.sends = []
    let fits := validHandle s.chip h ∧ partyMatches s.chip k ch.prod = true ∧ ch.closing = none ∧ ch.fmt = 0 ∧
      ch.broken = false ∧ partyClass ch.cons ≠ 4 ∧ s.chip.stopped = []
    let atSend := starts s.chip k rep .send (entries s.chip k) d g ops
    let atSendt := starts s.chip k rep .sendt (entries s.chip k) d g ops
    let went (res : List Word) (t : Chip) : Prop :=
      (coreOf t k).stk = (stackEnd g 2 res).take 8 ∧ goesOn s.chip t k ((coreOf s.chip k).pc + 2)
    let sent (res : List Word) (t : Chip) : Prop := went res t ∧
      (chanOf t n).credit = ch.credit - 1 ∧ (chanOf t n).depth = ch.depth + 1 ∧ (chanOf t n).rd = ch.rd ∧
      wordAt t (chWordGa n ch ch.depth / 4 * 4) = v
    let waits (kind : Nat) (parked : Bool) (t : Chip) : Prop := (coreOf t k).wait = some ⟨kind, ops.getD 0 0, v, 2, parked⟩ ∧
      (coreOf t k).stk = g.stk ∧ (coreOf t k).pc = (coreOf s.chip k).pc ∧
      chanOf t n = (if parked then { ch with sends := ch.sends ++ [k] } else ch)
    let half (place : Bool) : Entry := ⟨1, h, 4, v, 0, 0, 0, wordPc s.chip k, false, place⟩
    let reserved (res : List Word) (t : Chip) : Prop := went res t ∧ Placed s.chip t k (half true) ∧ t.mem = s.chip.mem ∧
      chanOf t n = { ch with reserved := ch.reserved + 1, credit := if ch.kind = 1 then ch.credit - 1 else ch.credit }
    (uni = false → fits →
      (ch.kind = 1 →
        (place → injHits s.chip (chWordGa n ch ch.depth / 4 * 4) = false →
          (atSend → leaves (.send k rep) s (sent [])) ∧ (atSendt → leaves (.sendt k rep) s (sent [1]))) ∧
        (¬ place →
          (atSend → leaves (.send k rep) s (waits 4 true)) ∧
          (atSendt → leaves (.sendt k rep) s (fun t => went [0] t ∧ chanOf t n = ch)))) ∧
      (ch.kind = 2 →
        (atSend → leaves (.send k rep) s (waits 4 false)) ∧ (atSendt → leaves (.sendt k rep) s (waits 5 false)))) ∧
    (fits → ch.kind = 1 ∨ ch.kind = 2 → Leads s.chip k →
      (place → (atSend → leaves (.send k rep) s (reserved [])) ∧
        (atSendt → leaves (.sendt k rep) s (fun t => reserved [1] t ∧ Logged s.chip t k 0x32 h 4 0 [1] true false))) ∧
      (¬ place →
        (atSend → ckptFirst s.chip k = true → leaves (.send k rep) s (fun t => CallsFirst s.chip t k)) ∧
        (atSend → ckptFirst s.chip k = false → leaves (.send k rep) s (waits 4 true)) ∧
        (atSendt → leaves (.sendt k rep) s (fun t => went [0] t ∧ chanOf t n = ch ∧
          Logged s.chip t k 0x32 h 4 0 [0] true false)))) ∧
    (fits → ch.kind = 1 ∨ ch.kind = 2 → Seconds s.chip k → atSend → leaves (.send k rep) s (fun t =>
      went [] t ∧ chanOf t n = ch ∧ Compared s.chip t k (half false))) ∧
    (∀ e, fits → ch.kind = 1 ∨ ch.kind = 2 → Follows s.chip k e 0x32 h 4 → atSendt →
      leaves (.sendt k rep) s (fun t => went [e.vals.getD 0 0] t ∧ chanOf t n = ch ∧
        (e.vals.getD 0 0 = 1 → Compared s.chip t k (half false)))) ∧
    (¬ validHandle s.chip h ∨ ch.kind = 0 ∨ partyMatches s.chip k ch.prod = false →
      (atSend → leaves (.send k rep) s (fun t => t = trapEntry d k (preciseRec d k 0x09 false h))) ∧
      (atSendt → leaves (.sendt k rep) s (fun t => t = trapEntry d k (preciseRec d k 0x09 false h))))

/-- RECV and RECVT (R146, R213, R214, R218, R294, R305, R309): the oldest word is taken and pushed, for RECVT beneath
the status 1; with nothing to pop RECV is parked in the home engine and RECVT pushes 0 and 0. A poisoned word is taken
as its data and POISON entered behind the word, recorded as precise, with the handle in TRAPADDR. In unison string A
takes the item and logs it, a RECV about to wait calling a checkpoint first, and string B takes the log's word. The
queue is of words, in cluster store, unbroken, with no GAP pending, and no port is stopped. Model readings and
choices: log entries 109, 114. -/
def Obligations.ReceiveWords : Prop :=
  ∀ (s : State) (k : Nat) (rep : Bool) (d : Chip) (g : Fills) (ops : List Word), isCore k = true →
    let h := (ops.getD 0 0).toNat
    let n := h % 4096
    let ch := chanOf s.chip n
    let ga := chWordGa n ch 0 / 4 * 4
    let w := wordAt s.chip ga
    let uni := inUnison s.chip (courseNo k)
    let atRecv := starts s.chip k rep .recv 0 d g ops
    let atRecvt := starts s.chip k rep .recvt 0 d g ops
    let fits := validHandle s.chip h ∧ partyMatches s.chip k ch.cons = true ∧ partyClass ch.cons ≠ 0 ∧ partyClass ch.cons ≠ 4 ∧
      ch.fmt = 0 ∧ ch.broken = false ∧ ch.gapPend = false ∧ ch.lead = 0 ∧ s.chip.stopped = []
    let went (res : List Word) (t : Chip) : Prop :=
      (coreOf t k).stk = (stackEnd g 1 res).take 8 ∧ goesOn s.chip t k ((coreOf s.chip k).pc + 2)
    let taken (res : List Word) (t : Chip) : Prop := went res t ∧
      (chanOf t n).depth = ch.depth - 1 ∧ (chanOf t n).rd = (ch.rd + 1) % 2 ^ (ch.k + 1)
    let parks (t : Chip) : Prop := (coreOf t k).wait = some ⟨6, ops.getD 0 0, 0, 1, true⟩ ∧ (chanOf t n).recvs = ch.recvs ++ [k] ∧
      (coreOf t k).stk = g.stk ∧ (coreOf t k).pc = (coreOf s.chip k).pc
    (fits → uni = false → (courseOf s.chip (courseNo k)).log = [] →
      (ch.depth ≠ 0 → ch.recvs = [] → ga ∉ s.chip.poison →
        (atRecv → leaves (.recv k rep) s (taken [w])) ∧ (atRecvt → leaves (.recvt k rep) s (taken [1, w]))) ∧
      (atRecv → ch.depth ≠ 0 → ch.recvs = [] → ga ∈ s.chip.poison → pendOk s.chip k → inhOf s.chip k = false →
        (coreOf s.chip k).rep = none →
        leaves (.recv k rep) s (fun t => (coreOf t k).stk = (stackEnd g 1 [w]).take 8 ∧ (chanOf t n).depth = ch.depth - 1 ∧
          bits (csrVal t k 0x11) 7 0 = 0x14 ∧ bit (csrVal t k 0x11) 8 = false ∧ csrVal t k 0x14 = wd h ∧
          csrVal t k 0x12 = wd ((coreOf s.chip k).pc + 2) ∧ (coreOf t k).pc = vectorAt s.chip k 0x14)) ∧
      (ch.depth = 0 ∨ ch.recvs ≠ [] → (atRecv → leaves (.recv k rep) s parks) ∧
        (atRecvt → leaves (.recvt k rep) s (fun t => went [0, 0] t ∧ chanOf t n = ch)))) ∧
    (fits → Leads s.chip k →
      (ch.depth ≠ 0 → ch.recvs = [] → ga ∉ s.chip.poison →
        (atRecv → leaves (.recv k rep) s (fun t => taken [w] t ∧ Logged s.chip t k 0x31 h 0 0 [w] true true)) ∧
        (atRecvt → leaves (.recvt k rep) s (fun t => taken [1, w] t ∧ Logged s.chip t k 0x33 h 0 0 [w, 1] true true))) ∧
      (ch.depth = 0 ∨ ch.recvs ≠ [] →
        (atRecv → ckptFirst s.chip k = true → leaves (.recv k rep) s (fun t => CallsFirst s.chip t k)) ∧
        (atRecv → ckptFirst s.chip k = false → leaves (.recv k rep) s parks) ∧
        (atRecvt → leaves (.recvt k rep) s (fun t => went [0, 0] t ∧ chanOf t n = ch ∧
          Logged s.chip t k 0x33 h 0 0 [0, 0] true true)))) ∧
    (∀ e, e.trap = none →
      (Follows s.chip k e 0x31 h 0 → atRecv → leaves (.recv k rep) s (fun t =>
        went [e.vals.getD 0 0] t ∧ t.chans = s.chip.chans ∧ t.mem = s.chip.mem)) ∧
      (Follows s.chip k e 0x33 h 0 → atRecvt → leaves (.recvt k rep) s (fun t =>
        went [e.vals.getD 1 0, e.vals.getD 0 0] t ∧ t.chans = s.chip.chans))) ∧
    (¬ validHandle s.chip h ∨ partyClass ch.cons = 0 ∨ partyMatches s.chip k ch.cons = false → uni = false ∨ k % 2 = 0 →
      (atRecv → leaves (.recv k rep) s (fun t => t = trapEntry d k (preciseRec d k 0x09 false h))) ∧
      (atRecvt → leaves (.recvt k rep) s (fun t => t = trapEntry d k (preciseRec d k 0x09 false h))))

/-- Channel engines (R302, R304, R305, R308, R312, R315): a mailbox item is pushed when it finds room and no earlier
SEND parked, a SENDT finding none ends with 0, a SEND is parked behind those before it; parked SENDs and RECVs are
served oldest first; the oldest batch of credits returns, and with it the oldest SEND that waits for one is accepted;
the tail timer of a queue with items sets TAILF; a close counts what is left into LOST and frees the slot with its
generation kept. Queues are of words, in cluster store, unbroken, no error injection waits for their tail, and no port
is stopped. Model readings and choices: log entries 32, 42, 118. -/
def Obligations.ChannelEngines : Prop :=
  ∀ (s : State) (k n : Nat) (w : Wait), isCore k = true → n < 4096 → inUnison s.chip (courseNo k) = false →
    let ch := chanOf s.chip n
    let ga := chWordGa n ch ch.depth / 4 * 4
    let done (res : List Word) (t : Chip) : Prop :=
      (coreOf t k).wait = none ∧ (coreOf t k).stk = res ++ (coreOf s.chip k).stk.drop w.drop ∧
      (coreOf t k).pc = (coreOf s.chip k).pc + 2
    s.chip.stopped = [] → ch.fmt = 0 → partyClass ch.cons ≠ 4 → (coreOf s.chip k).rep = none → (coreOf s.chip k).wait = some w →
    (w.arg.toNat % 4096 = n → validHandle s.chip w.arg.toNat → ch.closing = none → ch.broken = false → w.parked = false →
      (w.kind = 4 → chFree ch ≠ 0 → ch.sends = [] → injHits s.chip ga = false →
        leaves (.mailboxSendArrival k) s (fun t => done [] t ∧ (chanOf t n).depth = ch.depth + 1 ∧ wordAt t ga = w.val)) ∧
      (w.kind = 5 → chFree ch ≠ 0 → ch.sends = [] → injHits s.chip ga = false →
        leaves (.mailboxSendArrival k) s (fun t => done [1] t ∧ (chanOf t n).depth = ch.depth + 1 ∧ wordAt t ga = w.val)) ∧
      (w.kind = 5 → chFree ch = 0 ∨ ch.sends ≠ [] → leaves (.mailboxSendArrival k) s (fun t => done [0] t ∧ chanOf t n = ch)) ∧
      (w.kind = 4 → chFree ch = 0 ∨ ch.sends ≠ [] → leaves (.mailboxSendArrival k) s (fun t =>
        (chanOf t n).sends = ch.sends ++ [k] ∧ (coreOf t k).wait = some { w with parked := true } ∧
        (coreOf t k).pc = (coreOf s.chip k).pc))) ∧
    (∀ rest, ch.sends = k :: rest → ch.kind = 2 → w.kind = 4 → ch.broken = false → chFree ch ≠ 0 → injHits s.chip ga = false →
      leaves (.parkedSendPush n) s (fun t =>
        done [] t ∧ (chanOf t n).sends = rest ∧ (chanOf t n).depth = ch.depth + 1 ∧ wordAt t ga = w.val)) ∧
    (∀ rest, ch.recvs = k :: rest → ch.depth ≠ 0 → ch.lead = 0 → ch.gapPend = false → chWordGa n ch 0 / 4 * 4 ∉ s.chip.poison →
      leaves (.parkedRecvComplete n) s (fun t =>
        done [wordAt s.chip (chWordGa n ch 0 / 4 * 4)] t ∧ (chanOf t n).recvs = rest ∧ (chanOf t n).depth = ch.depth - 1)) ∧
    (∀ b rest, ch.opened = true → ch.due = b :: rest → partyClass ch.prod ≠ 4 →
      (ch.sends = [] → leaves (.creditReturn n) s (fun t => chanOf t n = { ch with credit := ch.credit + b, due := rest })) ∧
      (ch.sends = [k] → ch.kind = 1 → w.kind = 4 → ch.broken = false → b ≠ 0 → injHits s.chip ga = false →
        leaves (.creditReturn n) s (fun t => done [] t ∧ (chanOf t n).sends = [] ∧ (chanOf t n).credit = ch.credit + b - 1 ∧
          (chanOf t n).depth = ch.depth + 1 ∧ wordAt t ga = w.val))) ∧
    (ch.opened = true → ch.tailto ≠ 0 → ch.tailRun = true → ch.tailAt + 1000 * ch.tailto ≤ s.chip.tb →
      (ch.depth ≠ 0 → leaves (.tailTimerExpiry n) s (fun t => chanOf t n = { ch with tailf := true, tailRun := false })) ∧
      (ch.depth = 0 → leaves (.tailTimerExpiry n) s (fun t => t = s.chip))) ∧
    (∀ q, ch.closing = some q → q.drain = true → ch.sends = [] → ch.recvs = [] →
      (ch.depth = 0 → leaves (.closeDrainEnd n) s (fun t =>
        chanOf t n = { gen := ch.gen, lost := sat (sat ch.lost 0xFFFFFFFF + ch.reserved) 0xFFFFFFFF })) ∧
      leaves (.closeDrainLimit n) s (fun t =>
        chanOf t n = { gen := ch.gen, lost := sat (sat ch.lost 0xFFFFFFFF + (ch.depth + ch.reserved)) 0xFFFFFFFF }))

/-! ### Events, checkpoints and barriers as strings meet them -/

/-- SLEEP, WAIT and CKPT (R123, R143, R147, R213, R216, R218, R220, R580): with a source presented the word completes
at once, WAIT with a deadline pushing 1; else the string waits in it. In unison string A calls a checkpoint before it
completes or waits and its outcome is carried to string B. CKPT has no effect in split and calls a checkpoint after
itself in unison. Model readings and choices: log entry 115. -/
def Obligations.EventWords : Prop :=
  ∀ (s : State) (k : Nat) (t : Bool) (d : Chip) (g : Fills) (ops : List Word), isCore k = true →
    let r := coreOf s.chip k
    let atSleep := starts s.chip k false .sleep 0 d g ops
    let atWait := starts s.chip k false (.wait t) 0 d g ops
    let waits (kind n : Nat) (v : Word) (u : Chip) : Prop := (coreOf u k).wait = some ⟨kind, v, 0, n, false⟩ ∧ (coreOf u k).pc = r.pc
    let went (n : Nat) (res : List Word) (u : Chip) : Prop := WordDone' s.chip u k g n res (r.pc + 2)
    let n := if t then 1 else 0
    let res : List Word := if t then [1] else []
    (inUnison s.chip (courseNo k) = false → (courseOf s.chip (courseNo k)).log = [] →
      (atSleep → ownSpills s.chip k g 0 [] →
        (reqUp s.chip k = true → leaves (.sleep k) s (fun u => PlainDone s.chip u k g 0 [] (r.pc + 2))) ∧
        (reqUp s.chip k = false → leaves (.sleep k) s (waits 1 0 (ops.getD 0 0)))) ∧
      (atWait → ownSpills s.chip k g n res →
        (reqUp s.chip k = true → leaves (.wait k t) s (fun u => PlainDone s.chip u k g n res (r.pc + 2))) ∧
        (reqUp s.chip k = false → leaves (.wait k t) s (waits (if t then 3 else 2) n (ops.getD 0 0))))) ∧
    (Leads s.chip k →
      (ckptFirst s.chip k = true →
        (atSleep → leaves (.sleep k) s (fun u => CallsFirst s.chip u k)) ∧
        (atWait → leaves (.wait k t) s (fun u => CallsFirst s.chip u k))) ∧
      (ckptFirst s.chip k = false → reqUp s.chip k = true →
        (atSleep → leaves (.sleep k) s (fun u => went 0 [] u ∧ Logged s.chip u k 0x39 0 0 0 [] true false)) ∧
        (atWait → leaves (.wait k t) s (fun u => went n res u ∧ Logged s.chip u k 0x38 0 0 0 res true false))) ∧
      (ckptFirst s.chip k = false → reqUp s.chip k = false →
        (atSleep → leaves (.sleep k) s (waits 1 0 (ops.getD 0 0))) ∧
        (atWait → leaves (.wait k t) s (waits (if t then 3 else 2) n (ops.getD 0 0))))) ∧
    (∀ e, (Follows s.chip k e 0x39 0 0 → atSleep → e.vals = [] → leaves (.sleep k) s (went 0 [])) ∧
      (Follows s.chip k e 0x38 0 0 → atWait → e.vals.length ≤ n → leaves (.wait k t) s (went n e.vals))) ∧
    (starts s.chip k false .ckpt 0 d g ops → ownSpills s.chip k g 0 [] →
      (inUnison s.chip (courseNo k) = false ∨ k % 2 = 1 →
        leaves (.ckpt k) s (fun u => PlainDone s.chip u k g 0 [] (r.pc + 2))) ∧
      (inUnison s.chip (courseNo k) = true → k % 2 = 0 → (courseOf s.chip (courseNo k)).ckptAt = none →
        leaves (.ckpt k) s (fun u => (coreOf u k).pc = r.pc + 2 ∧ (courseOf u (courseNo k)).ckptAt = some (r.words + 1))))

/-- FENCE, SYNC and IFENCE (R109, R117, R118, R121, R218): with nothing outstanding they complete at once, SYNC with
the pending CSR writes applied, SYNC and IFENCE with the line buffers empty; else the string waits, and the landing of
the last result completes a FENCE. In unison string A first calls a checkpoint at the word and waits in it: at FENCE
and SYNC, and at an IFENCE with stores held. Model readings and choices: log entries 114, 115. -/
def Obligations.BarrierWords : Prop :=
  ∀ (s : State) (k : Nat) (d : Chip) (g : Fills) (ops : List Word), isCore k = true →
    let r := coreOf s.chip k
    let quiet := r.flights = [] ∧ r.sbuf = [] ∧ ∀ q ∈ r.bus, q.kind ≠ 1
    let waits (kind : Nat) (u : Chip) : Prop := (coreOf u k).wait = some ⟨7, wd kind, 0, 0, false⟩ ∧ (coreOf u k).pc = r.pc
    let called (kind : Nat) (u : Chip) : Prop := waits kind u ∧
      ((courseOf s.chip (courseNo k)).ckptAt = none → (courseOf u (courseNo k)).ckptAt = some r.words)
    r.stk.length ≤ 8 →
    (starts s.chip k false .fence 0 d g ops →
      (ckptFirst s.chip k = true → leaves (.fence k) s (called 0)) ∧
      (ckptFirst s.chip k = false → quiet → leaves (.fence k) s (fun u => PlainDone s.chip u k g 0 [] (r.pc + 2))) ∧
      (ckptFirst s.chip k = false → r.flights ≠ [] ∨ r.sbuf ≠ [] → leaves (.fence k) s (waits 0))) ∧
    (starts s.chip k false .sync 0 d g ops → pendOk s.chip k →
      (ckptFirst s.chip k = true → leaves (.sync k) s (called 1)) ∧
      (ckptFirst s.chip k = false → quiet → leaves (.sync k) s (fun u => (coreOf u k).pc = r.pc + 2 ∧ (coreOf u k).pend = [] ∧
        (coreOf u k).lines = [] ∧ ∀ i, i ≠ 0x28 → csrVal u k i = (r.pend.lookup i).getD (csrVal s.chip k i))) ∧
      (ckptFirst s.chip k = false → r.flights ≠ [] ∨ r.sbuf ≠ [] → leaves (.sync k) s (waits 1))) ∧
    (starts s.chip k false .ifence 0 d g ops →
      (ckptFirst s.chip k = true → pendStores s.chip k ≠ [] → leaves (.ifence k) s (called 2)) ∧
      (ckptFirst s.chip k = false ∨ pendStores s.chip k = [] → r.sbuf = [] → leaves (.ifence k) s (fun u =>
        (coreOf u k).pc = r.pc + 2 ∧ (coreOf u k).lines = [] ∧ (coreOf u k).pend = r.pend ∧ (coreOf u k).flights = r.flights)) ∧
      (ckptFirst s.chip k = false → r.sbuf ≠ [] → leaves (.ifence k) s (waits 2))) ∧
    (∀ f, inUnison s.chip (courseNo k) = false → r.flights = [f] → f.ready = true → 0x26 ≤ f.op → f.slot < 4 → r.sbuf = [] →
      (∀ q ∈ r.bus, q.kind ≠ 1) → r.wait = some ⟨7, 0, 0, 0, false⟩ → r.rep = none → running s.chip k = true →
      leaves (.landing k f.slot) s (fun u => (coreOf u k).wait = none ∧ (coreOf u k).pc = r.pc + 2))

/-! ### CSRs -/

/-- What a CSRR of a CSR without a behaviour of its own gives (R99, R125, R126, R156, R173, R196): CSTAT and its
fields, the core's number, RSCTL with the present depth, TRAPINFO with MORE, 0 for COMPLETE, in REPCNT what remains of
a repetition in progress and 0 outside one (but where a handler holds one interrupted), and the stored value of every
other. Model readings and choices: log entries 108, 113. -/
def Obligations.CsrReads : Prop :=
  ∀ (c : Chip) (k : Nat), k < 514 → (coreOf c k).stk.length ≤ 8 → (coreOf c k).rsDepth ≤ 16 →
    (bits (csrRead c k 0x00) 1 0 = bits (csrVal c k 0x00) 1 0 ∧
      (∀ j, j < 4 → bit (csrRead c k 0x00) (4 + j) = slotBusy c k j) ∧
      bit (csrRead c k 0x00) 8 = !(coreOf c k).pend.isEmpty ∧ bit (csrRead c k 0x00) 9 = inUnison c (courseNo k) ∧
      bit (csrRead c k 0x00) 10 = c.fixedUnison ∧ bit (csrRead c k 0x00) 11 = decide (k % 2 = 1) ∧
      bits (csrRead c k 0x00) 19 16 = (coreOf c k).stk.length ∧ bits (csrRead c k 0x00) 31 20 = 0 ∧
      bits (csrRead c k 0x00) 15 12 = 0 ∧ bits (csrRead c k 0x00) 3 2 = 0) ∧
    csrRead c k 0x02 = wd k ∧
    (bit (csrRead c k 0x0B) 0 = bit (csrVal c k 0x0B) 0 ∧ bits (csrRead c k 0x0B) 12 8 = (coreOf c k).rsDepth ∧
      bits (csrRead c k 0x0B) 31 13 = 0) ∧
    (bits (csrRead c k 0x13) 17 0 = bits (csrVal c k 0x13) 17 0 ∧
      bit (csrRead c k 0x13) 18 = (reqUp c k || !(coreOf c k).itraps.isEmpty)) ∧
    csrRead c k 0x1B = 0 ∧
    ((coreOf c k).rep = none → bit (csrVal c k 0x13) 16 = false → csrRead c k 0x28 = 0) ∧
    ((coreOf c k).rep ≠ none → csrRead c k 0x28 = csrVal c k 0x28) ∧
    (∀ i, i ∈ [0x01, 0x08, 0x09, 0x0A, 0x10, 0x11, 0x12, 0x14, 0x18, 0x19, 0x30, 0x31, 0x32, 0x33] →
      csrRead c k i = csrVal c k i)

/-- CSRR and CSRW (R118, R120, R127, R128, R156): a plain CSRR pushes the CSR's value; a plain CSRW writes the
writable bits, and nothing to a read-only CSR; a write of SBASE, SLIMIT, RSCTL, TRAPVEC or IMASK is held pending, and
one of SPTR takes effect once the operand is popped, a value outside 0x4000 to 0x8000 setting CFGERR; TBLO captures
the upper half of the time base; DPOS selects a drone and reads its position. In unison the reads of TBLO, TBHI and
DPOS are string A's, with an entry of the read log that string B takes; in fixed unison each string makes its own.
Model readings and choices: log entry 104. -/
def Obligations.CsrWords : Prop :=
  ∀ (s : State) (k : Nat) (rep : Bool) (d : Chip) (g : Fills) (ops : List Word), isCore k = true →
    let pc := (coreOf s.chip k).pc
    let v := ops.getD 0 0
    let own := inUnison s.chip (courseNo k) = false ∨ s.chip.fixedUnison = true
    let kept (t : Chip) : Prop := (coreOf t k).stk = (stackEnd g 1 []).take 8 ∧ goesOn s.chip t k (pc + 2)
    let pushed (w : Word) (t : Chip) : Prop := (coreOf t k).stk = (stackEnd g 0 [w]).take 8 ∧ goesOn s.chip t k (pc + 2)
    let position := regVal s.chip (0x60006000 + (coreOf s.chip k).dpos * 0x20 + 4)
    (∀ i : BitVec 8, i ≠ 0x20 → i ≠ 0x21 → i ≠ 0x22 → i ≠ 0x1A → starts s.chip k rep (.csrr i) 0 d g ops →
      ownSpills s.chip k g 0 [0] →
      leaves (.csrr k rep i) s (fun t => PlainDone s.chip t k g 0 [csrRead s.chip k i.toNat] (pc + 2))) ∧
    (starts s.chip k rep (.csrr 0x20) 0 d g ops →
      (own → leaves (.csrrTblo k rep) s (fun t => pushed (wd s.chip.tb) t ∧ (coreOf t k).tbhi = wd (s.chip.tb / 2 ^ 32))) ∧
      (Leads s.chip k → s.chip.fixedUnison = false → leaves (.csrrTblo k rep) s (fun t => pushed (wd s.chip.tb) t ∧
        (coreOf t k).tbhi = wd (s.chip.tb / 2 ^ 32) ∧
        Logged s.chip t k 0x40 0x20 0 0 [wd s.chip.tb, wd (s.chip.tb / 2 ^ 32)] true false)) ∧
      (∀ e, Follows s.chip k e 0x40 0x20 0 → s.chip.fixedUnison = false → leaves (.csrrTblo k rep) s (fun t =>
        pushed (e.vals.getD 0 0) t ∧ (coreOf t k).tbhi = e.vals.getD 1 0))) ∧
    (starts s.chip k rep (.csrr 0x21) 0 d g ops →
      (own → leaves (.csrr k rep 0x21) s (pushed (coreOf s.chip k).tbhi)) ∧
      (Leads s.chip k → s.chip.fixedUnison = false → leaves (.csrr k rep 0x21) s (fun t => pushed (coreOf s.chip k).tbhi t ∧
        Logged s.chip t k 0x40 0x21 0 0 [(coreOf s.chip k).tbhi] true false)) ∧
      (∀ e, Follows s.chip k e 0x40 0x21 0 → s.chip.fixedUnison = false → leaves (.csrr k rep 0x21) s (pushed (e.vals.getD 0 0)))) ∧
    (starts s.chip k rep (.csrr 0x22) 0 d g ops → (coreOf s.chip k).dpos < 16 →
      (own → leaves (.csrrDpos k rep) s (pushed position)) ∧
      (Leads s.chip k → s.chip.fixedUnison = false → leaves (.csrrDpos k rep) s (fun t => pushed position t ∧
        Logged s.chip t k 0x40 0x22 0 0 [position] true false)) ∧
      (∀ e, Follows s.chip k e 0x40 0x22 0 → s.chip.fixedUnison = false → leaves (.csrrDpos k rep) s (pushed (e.vals.getD 0 0)))) ∧
    (starts s.chip k rep (.csrw 0x22) 0 d g ops → leaves (.csrwDpos k rep) s (fun t =>
      kept t ∧ (coreOf t k).dpos = v.toNat % 16)) ∧
    (∀ i : BitVec 8, 0x30 ≤ i.toNat → i.toNat ≤ 0x33 → starts s.chip k rep (.csrw i) 0 d g ops →
      leaves (.csrw k rep i) s (fun t => kept t ∧ csrVal t k i.toNat = v)) ∧
    (starts s.chip k rep (.csrw 0x00) 0 d g ops → leaves (.csrw k rep 0x00) s (fun t =>
      kept t ∧ csrVal t k 0x00 = (csrVal s.chip k 0x00 &&& ~~~ (v &&& 3)))) ∧
    (starts s.chip k rep (.csrw 0x02) 0 d g ops → ownSpills s.chip k g 1 [] → leaves (.csrw k rep 0x02) s (fun t =>
      PlainDone s.chip t k g 1 [] (pc + 2))) ∧
    (starts s.chip k rep (.csrw 0x18) 0 d g ops → leaves (.csrwDeferred k rep 0x18) s (fun t =>
      kept t ∧ (coreOf t k).pend.lookup 0x18 = some (v &&& 1) ∧ csrVal t k 0x18 = csrVal s.chip k 0x18)) ∧
    (starts s.chip k rep (.csrw 0x10) 0 d g ops → leaves (.csrwDeferred k rep 0x10) s (fun t =>
      kept t ∧ (coreOf t k).pend.lookup 0x10 = some (v &&& 0x7FF0) ∧ csrVal t k 0x10 = csrVal s.chip k 0x10)) ∧
    (starts s.chip k rep (.csrw 0x0A) 0 d g ops →
      let a := v.toNat % 65536 / 4 * 4
      leaves (.csrwSptr k rep) s (fun t => kept t ∧
        (0x4000 ≤ a → a ≤ 0x8000 → csrVal t k 0x0A = wd a ∧ csrVal t k 0x00 = csrVal s.chip k 0x00) ∧
        (a < 0x4000 ∨ 0x8000 < a → bit (csrVal t k 0x00) 1 = true)))

/-- CLAIM, COMPLETE and CPL (R205, R213, R575, R576, R584): CLAIM takes the one source presented, which is then in
service with the core; with none it returns 0; in unison string A claims, and string B takes the value from the read
log. COMPLETE of a source the core holds ends its service, an edge source that owes no further event becoming idle;
any other completion is stray and counted; in unison it is an entry of the compare buffer. A write of CPL keeps its
four bits. Model readings and choices: log entry 104. -/
def Obligations.ClaimWords : Prop :=
  ∀ (s : State) (k : Nat) (rep : Bool) (d : Chip) (g : Fills) (ops : List Word), isCore k = true →
    let pc := (coreOf s.chip k).pc
    let v := ops.getD 0 0
    let uni := inUnison s.chip (courseNo k)
    let pushed (w : Word) (t : Chip) : Prop := (coreOf t k).stk = (stackEnd g 0 [w]).take 8 ∧ goesOn s.chip t k (pc + 2)
    let claimed (w : Word) (t : Chip) : Prop := pushed w t ∧ (Leads s.chip k → Logged s.chip t k 0x40 0x1A 0 0 [w] true true)
    let half : Entry := ⟨2, 0, 4, v, 0, 0, 0, wordPc s.chip k, false, false⟩
    (starts s.chip k rep (.csrr 0x1A) 0 d g ops →
      ((uni = false ∧ (courseOf s.chip (courseNo k)).log = []) ∨ Leads s.chip k →
        (presentedTo s.chip (eventId s.chip k) = [] → leaves (.csrrClaim k rep) s (fun t => claimed 0 t ∧ t.srcs = s.chip.srcs)) ∧
        (∀ x, x ≤ 1000 → presentedTo s.chip (eventId s.chip k) = [x] → leaves (.csrrClaim k rep) s (fun t =>
          claimed (wd (x + 65536 * srcPrio s.chip x)) t ∧
          (srcOf t x).st = 3 ∧ (srcOf t x).holder = (srcOf s.chip x).holder ∧
          ∀ y, y ≠ x → srcOf t y = srcOf s.chip y))) ∧
      (∀ e, Follows s.chip k e 0x40 0x1A 0 → leaves (.csrrClaim k rep) s (fun t =>
        pushed (e.vals.getD 0 0) t ∧ t.srcs = s.chip.srcs))) ∧
    (starts s.chip k rep (.csrw 0x1B) (entries s.chip k) d g ops →
      (Leads s.chip k → leaves (.csrwComplete k rep) s (fun t => Placed s.chip t k half ∧ t.srcs = s.chip.srcs ∧
        (coreOf t k).stk = (stackEnd g 1 []).take 8 ∧ goesOn s.chip t k (pc + 2))) ∧
      (Seconds s.chip k → leaves (.csrwComplete k rep) s (fun t => Compared s.chip t k half ∧ t.srcs = s.chip.srcs))) ∧
    (starts s.chip k rep (.csrw 0x1B) (entries s.chip k) d g ops → uni = false →
      (1 ≤ v.toNat → v.toNat ≤ 1000 → (srcOf s.chip v.toNat).st = 3 → (srcOf s.chip v.toNat).holder = eventId s.chip k →
        isLevelSense (srcSense s.chip v.toNat) = false → (srcOf s.chip v.toNat).count = 0 →
        leaves (.csrwComplete k rep) s (fun t => (srcOf t v.toNat).st = 0 ∧ (coreOf t k).stk = (stackEnd g 1 []).take 8 ∧
          goesOn s.chip t k (pc + 2))) ∧
      ((v.toNat = 0 ∨ 1000 < v.toNat ∨ (srcOf s.chip v.toNat).st ≠ 3 ∨ (srcOf s.chip v.toNat).holder ≠ eventId s.chip k) →
        leaves (.csrwComplete k rep) s (fun t => t.srcs = s.chip.srcs ∧
          bits (regVal t 0x60007008) 31 0 = Nat.min (bits (regVal s.chip 0x60007008) 31 0 + 1) 0xFFFFFFFF))) ∧
    (starts s.chip k rep (.csrw 0x19) 0 d g ops → leaves (.csrwCpl k rep) s (fun t =>
      csrVal t k 0x19 = wd (bits v 3 0) ∧ (coreOf t k).stk = (stackEnd g 1 []).take 8 ∧ goesOn s.chip t k (pc + 2)))

/-! ### The coprocessor block -/

/-- The words 0x70 to 0x77 (R149, R205, R213, R401, R413, R414, R415, R419): with a free slot, the engine's domain on,
a place in its queue of eight and no other requester before it, the operation of a string in split stands at the end
of the queue and its result is in flight; with the queue full the string waits in execute; with the domain off every
slot it names lands 0xFFFF_FFFF and BUSOFF is raised. CAMLD waits for the string's stores and for an earlier copy. In
unison CPWR, CAMOFS and CAMLD are entries of the compare buffer, and the others agreed reads of string A that string B
takes from the log. Model readings and choices: log entries 23, 51. -/
def Obligations.CoprocessorWords : Prop :=
  ∀ (s : State) (k : Nat) (rep : Bool) (slot : BitVec 2) (sel : BitVec 5) (d : Chip) (g : Fills) (ops : List Word), k < 512 →
    let e := k / 16
    let m := camOf s.chip e
    let uni := inUnison s.chip (courseNo k)
    let a := (ops.getD 0 0).toNat
    let at_ (op n : Nat) : Prop := starts s.chip k rep (.cp (BitVec.ofNat 3 op) slot sel) n d g ops
    let gone (n op : Nat) (wide ready : Bool) (t : Chip) : Prop := WordDone' s.chip t k g n [] ((coreOf s.chip k).pc + 2) ∧
      ∃ f, (coreOf t k).flights = (coreOf s.chip k).flights ++ [f] ∧ f.op = 0x70 + op ∧ f.slot = slot.toNat ∧ f.wide = wide ∧
        f.ready = ready
    let queued (n op x y : Nat) (wide : Bool) (t : Chip) : Prop := gone n op wide false t ∧
      (camOf t e).queue = m.queue ++ [⟨0, k, op, slot.toNat, sel.toNat, x, y, 0⟩]
    let free := m.queue.length < 8 ∧ m.waits = [] ∧ m.offers = [] ∧ s.chip.cur = none
    slotsBusy s.chip k slot.toNat true = false → (coreOf s.chip k).stk.length ≤ 8 →
    (uni = false → gateOpen s.chip (2 * e + 1) = true → free →
      (at_ 0 (entries s.chip k) → leaves (.cpwr k rep slot sel) s (queued 1 0 a 0 false)) ∧
      (at_ 1 0 → leaves (.cprd k rep slot sel) s (queued 0 1 a 0 false)) ∧
      (at_ 2 0 → leaves (.camev k rep slot sel) s (queued 1 2 a 0 false)) ∧
      (at_ 3 0 → leaves (.camev2 k rep slot sel) s (queued 1 3 a 0 true)) ∧
      (at_ 4 0 → leaves (.camevd k rep slot sel) s (queued 0 4 a 0 true)) ∧
      (at_ 5 (entries s.chip k) → leaves (.camofs k rep slot sel) s (queued 1 5 a 0 false)) ∧
      (at_ 6 (entries s.chip k) → m.copy = none → (∀ o ∈ m.queue, o.op = 6 → o.kind ≠ 0) → (coreOf s.chip k).sbuf = [] →
        (∀ q ∈ (coreOf s.chip k).bus, q.kind = 1 → q.done = true) →
        leaves (.camld k rep slot sel) s (queued 2 6 (ops.getD 1 0).toNat a false)) ∧
      (at_ 7 0 → leaves (.cpsync k rep slot sel) s (queued 0 7 a 0 false))) ∧
    (uni = false → gateOpen s.chip (2 * e + 1) = true → 8 ≤ m.queue.length → at_ 2 0 →
      leaves (.camev k rep slot sel) s (fun t => t.cores = s.chip.cores ∧ (camOf t e).queue = m.queue ∧
        ∃ w, (camOf t e).waits.getLast? = some w ∧ w = ⟨false, k, (coreOf s.chip k).pc, false⟩)) ∧
    (uni = false → gateOpen s.chip (2 * e + 1) = false → at_ 3 0 →
      leaves (.camev2 k rep slot sel) s (fun t => gone 1 3 true true t ∧ camOf t e = m ∧
        ∃ f, (coreOf t k).flights = (coreOf s.chip k).flights ++ [f] ∧ f.lo = 0xFFFFFFFF ∧ f.hi = 0xFFFFFFFF ∧ f.trap = 0x10)) ∧
    (let half (op x y : Nat) : Entry := ⟨3, sel.toNat, 4, wd x, wd y, op, slot.toNat, wordPc s.chip k, false, false⟩
     let held (n op x y : Nat) (t : Chip) : Prop := camOf t e = m ∧
       (Leads s.chip k → gone n op false false t ∧ Placed s.chip t k (half op x y)) ∧
       (Seconds s.chip k → (∀ p ∈ (courseOf s.chip (courseNo k)).pairs, halvesEqual p.a (half op x y) = true) →
         gone n op false false t ∧ Compared s.chip t k (half op x y))
     Leads s.chip k ∨ Seconds s.chip k →
      (at_ 0 1 → leaves (.cpwr k rep slot sel) s (held 1 0 a 0)) ∧
      (at_ 5 1 → leaves (.camofs k rep slot sel) s (held 1 5 a 0)) ∧
      (at_ 6 1 → leaves (.camld k rep slot sel) s (held 2 6 (ops.getD 1 0).toNat a))) ∧
    (let asked (n op x : Nat) (wide : Bool) (t : Chip) : Prop := queued n op x 0 wide t ∧
       Logged s.chip t k (0x70 + op) (sel.toNat + 32 * slot.toNat) x slot.toNat [] false false
     Leads s.chip k → s.chip.fixedUnison = false → gateOpen s.chip (2 * e + 1) = true → free →
      (∀ p ∈ (courseOf s.chip (courseNo k)).pairs, p.a.kind ≠ 3) →
      (at_ 1 0 → leaves (.cprd k rep slot sel) s (asked 0 1 a false)) ∧
      (at_ 2 0 → leaves (.camev k rep slot sel) s (asked 1 2 a false)) ∧
      (at_ 3 0 → leaves (.camev2 k rep slot sel) s (asked 1 3 a true)) ∧
      (at_ 4 0 → leaves (.camevd k rep slot sel) s (asked 0 4 a true)) ∧
      (at_ 7 0 → leaves (.cpsync k rep slot sel) s (asked 0 7 a false))) ∧
    (∀ x : LogEnt,
      let given (n op : Nat) (wide : Bool) (t : Chip) : Prop := gone n op wide true t ∧ camOf t e = m
      let same (op : Nat) : Prop :=
        Follows s.chip k x (0x70 + op) (sel.toNat + 32 * slot.toNat) a ∧ s.chip.fixedUnison = false
      (same 1 → at_ 1 0 → leaves (.cprd k rep slot sel) s (given 0 1 false)) ∧
      (same 2 → at_ 2 0 → leaves (.camev k rep slot sel) s (given 1 2 false)) ∧
      (same 3 → at_ 3 0 → leaves (.camev2 k rep slot sel) s (given 1 3 true)) ∧
      (same 4 → at_ 4 0 → leaves (.camevd k rep slot sel) s (given 0 4 true)) ∧
      (same 7 → at_ 7 0 → leaves (.cpsync k rep slot sel) s (given 0 7 false)))
/-! ### Courses and tuners -/

/-- Stores of a course in unison (R205, R206, R230): a store of string A enters the compare buffer and no store buffer, with
the bytes it writes; a failure of the checker at that entry is a tuner fault. Model reading: log entry 15. -/
def Obligations.UnisonStores : Prop :=
  ∀ (s : State) (k : Nat) (rep : Bool) (size : BitVec 2) (tflt : Nat) (d : Chip) (g : Fills) (ops : List Word),
    isCore k = true → k % 2 = 0 → inUnison s.chip (k / 2) = true → (coreOf s.chip k).stk.length ≤ 8 →
    (courseOf s.chip (k / 2)).bHalves = [] →
    let a := (ops.getD 0 0).toNat
    let v := ops.getD 1 0
    let n := if size = 0 then 1 else if size = 1 then 2 else 4
    let r := courseOf s.chip (k / 2)
    starts s.chip k rep (.str size) 1 d g ops → a % n = 0 →
    (tflt = 0 → leaves (.str k rep size tflt) s (fun t =>
      (courseOf t (k / 2)).pairs = r.pairs ++
        [⟨⟨0, a, n, if n = 4 then v else wd (v.toNat % 2 ^ (8 * n)), 0, 0, 0, wordPc s.chip k, ownSram k a, false⟩, false, r.pairNo⟩] ∧
      (coreOf t k).sbuf = (coreOf s.chip k).sbuf ∧ (coreOf t k).stk = (stackEnd g 2 []).take 8 ∧
      goesOn s.chip t k ((coreOf s.chip k).pc + 2) ∧ t.mem = s.chip.mem)) ∧
    (k < 512 → tflt = 5 ∨ tflt = 6 → leaves (.str k rep size tflt) s (fun t =>
      (courseOf t (k / 2)).tflt = true ∧ (courseOf t (k / 2)).mcause = tflt ∧ (courseOf t (k / 2)).safe = true ∧
      (courseOf t (k / 2)).pairs = []))

/-- The comparison of string B's half with the oldest pair not compared (R206, R207, R224, R225): an equal half of an output
marks the pair compared and changes nothing else; an unequal one is a mismatch of cause 1 that names the pair, discards every
entry and begins the check. Model reading: log entry 28. -/
def Obligations.HalvesCompared : Prop :=
  ∀ (c : Chip) (n : Nat) (e : Entry) (p : Pair) (pre post : List Pair), n < 256 →
    (courseOf c n).pairs = pre ++ p :: post → (∀ q ∈ pre, q.compared = true) → p.compared = false →
    (∀ q ∈ pre ++ post, q.no ≠ p.no) →
    (halvesEqual p.a e = true → isOutput c n p.a = true →
      let d := compareB c n e
      (courseOf d n).pairs = pre ++ { p with compared := true } :: post ∧ d.mem = c.mem ∧
      (∀ j, coreOf d j = coreOf c j) ∧ ∀ m, m ≠ n → courseOf d m = courseOf c m) ∧
    (halvesEqual p.a e = false →
      let d := compareB c n e
      (courseOf d n).check = 1 ∧ (courseOf d n).mcause = 1 ∧ (courseOf d n).entry = p.no ∧ (courseOf d n).pairs = [] ∧
      (courseOf d n).ckptAt = none ∧ d.mem = c.mem)

/-- A course halted through its peg (R30, R182, R220, R237): in split each string asked to halt stops at its boundary
without a reservation, what was presented to it withdrawn; in unison a checkpoint is called. A course reported halted
completes the COURSE HALT that waits for it alone. Model readings and choices: log entry 115. -/
def Obligations.PegHalts : Prop :=
  ∀ (s : State) (n : Nat), n < 257 →
    let r := courseOf s.chip n
    (r.hand = none → r.check = 0 → r.safe = false → (coreOf s.chip (2 * n)).haltReq = true →
      (coreOf s.chip (2 * n + 1)).haltReq = true →
      (inUnison s.chip n = false → heldInWord s.chip (2 * n) = false → heldInWord s.chip (2 * n + 1) = false →
        leaves (.pegHalt n) s (fun t => (coreOf t (2 * n)).halted = true ∧ (coreOf t (2 * n + 1)).halted = true ∧
          (coreOf t (2 * n)).resv = none ∧ (coreOf t (2 * n)).haltReq = false ∧
          (coreOf t (2 * n)).pc = (coreOf s.chip (2 * n)).pc ∧ t.mem = s.chip.mem)) ∧
      (inUnison s.chip n = true → r.ckptAt = none → leaves (.pegHalt n) s (fun t =>
        (courseOf t n).ckptAt = some (coreOf s.chip (2 * n)).words))) ∧
    (∀ h, courseReported s.chip n = true → s.chip.sys.halts = [h] → h.todo = [n] → s.chip.sys.detach = none →
      leaves (.courseHalted n) s (fun t => t.sys.halts = [] ∧ t.accepted = s.chip.accepted.erase h.reply))

/-- Checkpoints (R220 to R224, R242): after 4,096 words one is called; where the strings stand at its word with equal
state and nothing held, the snapshot is taken, a write of CO.CTL applied and CKPTS counts; a pair that only one string
has placed is a mismatch of cause 1; different signatures are one of cause 2, but where the 64-bit signatures collide.
Model readings and choices: log entries 11, 23, 25, 26, 114. -/
def Obligations.Checkpoints : Prop :=
  ∀ (s : State) (n : Nat), n < 256 →
    let r := courseOf s.chip n
    let a := coreOf s.chip (2 * n)
    (inUnison s.chip n = true → 4096 ≤ a.words → r.ckptAt = none →
      leaves (.checkpointWordLimit n) s (fun t => (courseOf t n).ckptAt = some a.words)) ∧
    (ckptReady s.chip n = true → r.bHalves = [] → r.hand = none → haltAsked s.chip n = false →
      eachEqual s.chip n = true →
      (r.pairs = [] → sigEqual s.chip (2 * n) (2 * n + 1) = true → leaves (.checkpoint n 0) s (fun t =>
        (courseOf t n).snap = some (snapOf a) ∧ (courseOf t n).ckpts = (r.ckpts + 1) % 65536 ∧ (courseOf t n).ckptAt = none ∧
        (courseOf t n).ctl = r.ctlPend.getD r.ctl ∧ (coreOf t (2 * n)).words = 0 ∧ (coreOf t (2 * n + 1)).words = 0 ∧
        (coreOf t (2 * n)).pc = a.pc ∧ (coreOf t (2 * n)).stk = a.stk)) ∧
      (∀ e no, r.pairs = [⟨e, true, no⟩] → sigEqual s.chip (2 * n) (2 * n + 1) = true → e.kind = 0 → e.priv = true → e.size = 4 →
        locOf (2 * n) e.addr % 4 = 0 → injHits s.chip (locOf (2 * n) e.addr) = false →
        leaves (.checkpoint n 0) s (fun t => (courseOf t n).pairs = [] ∧ wordAt t (locOf (2 * n) e.addr) = e.data ∧
          ∀ b, ¬ (locOf (2 * n) e.addr ≤ b ∧ b < locOf (2 * n) e.addr + 4) → byteAt t b = byteAt s.chip b)) ∧
      (∀ e no, r.pairs = [⟨e, false, no⟩] → leaves (.checkpoint n 0) s (fun t =>
        (courseOf t n).check = 1 ∧ (courseOf t n).mcause = 1 ∧ (courseOf t n).entry = no ∧ (courseOf t n).snap = r.snap)) ∧
      (r.pairs = [] → sigEqual s.chip (2 * n) (2 * n + 1) = false → leaves (.checkpoint n 0) s (fun t =>
        Config.sigCollides s.chip.free = true ∨
          ((courseOf t n).check = 1 ∧ (courseOf t n).mcause = 2 ∧ (courseOf t n).snap = r.snap))))

/-- Skew and the verdicts (R224, R225, R228, R230): a string that stands while the other does nothing for 1 ms is a mismatch of
cause 3. Where LBIST passes one string the other is out and the survivor goes on degraded if rollback and degraded running
are enabled; where it fails both the course enters its safe state with verdict 5; where it passes both the tuner tests
itself, and goes on in unison with verdict 3 or has a tuner fault with verdict 4. Model readings: log entries 27, 29. -/
def Obligations.Verdicts : Prop :=
  ∀ (s : State) (n : Nat), n < 256 →
    let r := courseOf s.chip n
    (courseOn s.chip n = true → inUnison s.chip n = true → r.check = 0 → r.ckptAt = some (coreOf s.chip (2 * n)).words →
      (coreOf s.chip (2 * n + 1)).words < (coreOf s.chip (2 * n)).words → (coreOf s.chip (2 * n + 1)).wait = none →
      (coreOf s.chip (2 * n + 1)).flights = [] → (coreOf s.chip (2 * n + 1)).halted = false →
      leaves (.skewTimeout n) s (fun t => (courseOf t n).check = 1 ∧ (courseOf t n).mcause = 3 ∧ (courseOf t n).pairs = [])) ∧
    (r.check = 1 → r.test = none → (coreOf s.chip (2 * n)).flights = [] →
      leaves (.lbistVerdict n true true) s (fun t => (courseOf t n).check = 2 ∧ (courseOf t n).badA = false ∧
        (courseOf t n).badB = false) ∧
      (bit r.ctl 0 = true → bit r.ctl 1 = true → leaves (.lbistVerdict n true false) s (fun t =>
        (courseOf t n).verdict = 1 ∧ (courseOf t n).degraded = true ∧ (courseOf t n).survB = false ∧ (courseOf t n).badB = true ∧
        (coreOf t (2 * n + 1)).halted = true ∧ (courseOf t n).mism = true ∧
        (courseOf t n).miscnt = Nat.min (r.miscnt + 1) 255)) ∧
      leaves (.lbistVerdict n false false) s (fun t => (courseOf t n).verdict = 5 ∧ (courseOf t n).safe = true ∧
        (coreOf t (2 * n)).halted = true ∧ (coreOf t (2 * n + 1)).halted = true)) ∧
    (r.check = 2 →
      (bit r.ctl 0 = true → leaves (.tunerSelfTestDone n 0) s (fun t => (courseOf t n).verdict = 3 ∧ (courseOf t n).check = 0 ∧
        (courseOf t n).safe = r.safe ∧ (courseOf t n).mism = true)) ∧
      (bit r.ctl 0 = false → leaves (.tunerSelfTestDone n 0) s (fun t =>
        (courseOf t n).verdict = 3 ∧ (courseOf t n).safe = true)) ∧
      leaves (.tunerSelfTestDone n 6) s (fun t => (courseOf t n).verdict = 4 ∧ (courseOf t n).mcause = 6 ∧
        (courseOf t n).tflt = true ∧ (courseOf t n).safe = true))

/-- Hand-overs, the tuner test, CO.CTL (R232, R234, R242): once both strings are quiet a hand-over to unison makes string B
string A's equal, takes the snapshot and completes; after 100 µs it ends with the course in split; a tuner test ends with
what it found; CO.CTL keeps RBK and DEGRUN, at once in split and from the next checkpoint in unison.
Model readings: log entries 25, 98. -/
def Obligations.CourseEvents : Prop :=
  ∀ (s : State) (n : Nat), n < 256 →
    let r := courseOf s.chip n
    (∀ h, r.hand = some h → h.toUnison = true →
      (quiesced s.chip (2 * n) = true → quiesced s.chip (2 * n + 1) = true →
        leaves (.handoverQuiesced n) s (fun t => (courseOf t n).mode = 1 ∧ (courseOf t n).hand = none ∧
          (courseOf t n).snap.isSome = true ∧ (coreOf t (2 * n + 1)).stk = (coreOf s.chip (2 * n)).stk ∧
          (coreOf t (2 * n + 1)).pc = (coreOf s.chip (2 * n)).pc ∧ (coreOf t (2 * n)).words = 0 ∧
          t.accepted = s.chip.accepted.erase h.reply)) ∧
      leaves (.handoverTimeout n) s (fun t => (courseOf t n).mode = 0 ∧ (courseOf t n).hand = none ∧
        t.accepted = s.chip.accepted.erase h.reply ∧ ∀ k, coreOf t k = coreOf s.chip k)) ∧
    (∀ q a b x, r.test = some q → isFlaw x = true → leaves (.tunerTestDone n a b x) s (fun t =>
      (courseOf t n).badA = !a ∧ (courseOf t n).badB = !b ∧ (courseOf t n).tflt = decide (x ≠ 0) ∧ (courseOf t n).check = 0 ∧
      (courseOf t n).test = none ∧ t.accepted = s.chip.accepted.erase q)) ∧
    (∀ w : Word, s.chip.sys.per = true →
      (inUnison s.chip n = false → leaves (.coCtlWrite n w) s (fun t => courseOf t n = { r with ctl := w &&& 3, ctlPend := none })) ∧
      (inUnison s.chip n = true → courseOn s.chip n = true →
        leaves (.coCtlWrite n w) s (fun t => courseOf t n = { r with ctlPend := some (w &&& 3) })))

/-! ### The tablature -/

/-- The events of the tablature engine beside the drone's steps (R327, R352, R354, R358, R369, R370, R372, R373,
R378): a frame boundary reached begins the next frame of the time stave in force, or the first of the one that follows
it; the next time-stave note falls due at its moment, fetched notes are in hand up to 512, for the stave that runs and
for the one armed or still to be issued; the next due note goes to the tail of its lane's queue, or is dropped where
it is droppable, late and under overspeed; a window of 1,000 µs gives the speed and judges it; a staging ends with the
bank ARMED or with TIMEOUT, whatever table memory meets; a clear and a verification end. Model readings and choices: log entries 45, 121, 122, 141. -/
def Obligations.TablatureEvents : Prop :=
  ∀ s : State,
    let c := s.chip
    (let begins (b f : Nat) (t : Chip) : Prop :=
       t.tab.frame = some f ∧ t.tab.tIdx = 0 ∧ t.tab.tsBank = some b ∧ t.tab.tsQ = [] ∧ t.tab.dueT = c.tab.dueT ∧
       regVal t 0x60005044 = wd f ∧ regVal t 0x60005048 = wd (f / 2 ^ 32) ∧
       regVal t 0x60005108 = regVal c 0x60005108 + 1 ∧ KeepsWork c t ∧
       OnlyRegs [0x60005044, 0x60005048, 0x60005108, 0x6000510C, 0x60005038] c t
     (∀ b f, tabRuns c = true → c.tab.tsQ = [] → c.tab.tsBank = some b → c.tab.frame = some f → nextMoment c = none →
       f + imTper c b ≤ c.tb → leaves .frameStart s (begins b (f + imTper c b))) ∧
     (∀ b m, tabRuns c = true → c.tab.tsQ = [(b, m)] → c.tab.tsBank = none → imTscnt c b ≠ 0 → firstBoundary c b m ≤ c.tb →
       leaves .frameStart s (begins b (firstBoundary c b m)))) ∧
    (∀ b m, tabRuns c = true → nextMoment c = some (b, m) → m ≤ c.tb → inForce c m = true → dropEn c = false → leaves .timeNoteDue s (fun t =>
      t = { c with tab := { c.tab with dueT := c.tab.dueT ++ [⟨true, b, c.tab.tIdx, 0, m, true⟩], tIdx := c.tab.tIdx + 1 } })) ∧
    (∀ n, tabIssues c = true →
      leaves (.noteFetch true n) s (fun t => t.tab.fetchT = Nat.min 512 (c.tab.fetchT + n) ∧ t.tab.fetchP = c.tab.fetchP ∧
        t.tab.fetchT2 = (if fetchesOther c true then Nat.min 512 (c.tab.fetchT2 + n) else c.tab.fetchT2) ∧
        t.tab.lanes = c.tab.lanes ∧ KeepsWork c t ∧ OnlyRegs [] c t) ∧
      leaves (.noteFetch false n) s (fun t => t.tab.fetchP = Nat.min 512 (c.tab.fetchP + n) ∧ t.tab.fetchT = c.tab.fetchT ∧
        t.tab.fetchP2 = (if fetchesOther c false then Nat.min 512 (c.tab.fetchP2 + n) else c.tab.fetchP2) ∧
        t.tab.lanes = c.tab.lanes ∧ KeepsWork c t ∧ OnlyRegs [] c t)) ∧
    (∀ d bad, tabIssues c = true → stopReached c = false → nextDue c = some d →
      inHand c d ≠ 0 → 4 ≤ bad →
      (∀ i, i < 4 → tabGa d.bank (imF c d.bank (if d.time then 0x28 else 0x20) 4 + 16 * d.idx) + 4 * i ∉ c.poison) →
      let w := noteWord c d.bank d.time d.idx
      let lane := nLane (w 3)
      (dropEn c = false → (laneOf c lane).q.length < 32 → c.tb - d.stamp ≤ lateTh c → leaves (.noteIssue bad) s (fun t =>
        (laneOf t lane).q = (laneOf c lane).q ++ [⟨c.tab.issueNo + 1, d.time, d.bank, d.idx, d.pos, d.stamp, w 0, w 1, w 2, w 3,
          c.tab.chgDue && decide (c.tab.active = some d.bank) && bit (regVal c 0x60005000) 0, c.tb, 0, 0⟩] ∧
        (laneOf t lane).fl = (laneOf c lane).fl ∧ (∀ l, l ≠ lane → laneOf t l = laneOf c l) ∧
        t.tab.issueNo = c.tab.issueNo + 1 ∧ regVal t 0x6000504C = regVal c 0x6000504C + 1 ∧
        (d.time = true → t.tab.dueT = c.tab.dueT.drop 1 ∧ t.tab.dueP = c.tab.dueP) ∧
        (d.time = false → t.tab.dueT = c.tab.dueT) ∧ KeepsWork c t)) ∧
      (d.time = false → overspeed c = true → dropEn c = true → nDrop (w 0) = true → lateTh c < c.tb - d.stamp →
        leaves (.noteIssue bad) s (fun t => t.tab.lanes = c.tab.lanes ∧ t.tab.issueNo = c.tab.issueNo ∧
          regVal t 0x60005078 = recIdx d.idx false lane 0 ∧ KeepsWork c t ∧
          OnlyRegs [0x60005058, 0x60005078, 0x60005038] c t))) ∧
    (c.sys.per = true → c.tb / 1000000 ≠ c.tab.winIdx → leaves .speedWindow s (fun t =>
      t.tab.win = 0 ∧ t.tab.winIdx = c.tb / 1000000 ∧ regVal t 0x60005024 = wd (c.tab.win * 1000) ∧
      bit (regVal t 0x60005004) 3 = (match c.tab.active with
        | some b => decide (imMaxspd c b < c.tab.win * 1000)
        | none => false) ∧
      KeepsWork c t ∧ OnlyRegs [0x60005004, 0x60005024, 0x60005028, 0x60005038] c t)) ∧
    (∀ a, c.tab.arm = some a → a.staged = false →
      (∀ k, k < 32 → a.mask.testBit k = true → switchOwed c k = false) →
      let d := dronePos c (imDrone c a.bank)
      let p := if a.now then d + 1 else a.p
      (1 ≤ sgn (p - d) → leaves .stagingEnd s (fun t =>
        t.tab.arm = some { a with p := p, staged := true } ∧ bankState t a.bank = 5 ∧ t.dev = c.dev ∧ KeepsWork c t ∧
        OnlyRegs (((List.range 32).filter a.mask.testBit).flatMap (fun k => [camReg k 1, camReg k 7])) c t)) ∧
      (sgn (p - d) < 1 → leaves .stagingEnd s (fun t =>
        t.tab.arm = none ∧ bankState t a.bank = 3 ∧ t.tab.lasterr = d ∧
        t.dev = (if a.running then .running else .configured) ∧ t.accepted = c.accepted.erase a.reply ∧ KeepsWork c t))) ∧
    (∀ b r, b < 2 → (if b = 0 then c.tab.clearA else c.tab.clearB) = some r → leaves (.tabClearDone b) s (fun t =>
      (∀ a, byteAt t a = if tabGa b 0 ≤ a ∧ a < tabGa b 0x800000 then 0 else byteAt c a) ∧
      (if b = 0 then t.tab.clearA else t.tab.clearB) = none ∧ bankState t b = bankState c b ∧ Completed c t r stOK)) ∧
    (∀ b r, b < 2 → (if b = 0 then c.tab.verA else c.tab.verB) = some r →
      (verifyImage c b = .fault → leaves (.tabVerifyDone b) s (fun t =>
        bankState t b = 1 ∧ Completed c t r stFAULT ∧ KeepsWork c t)) ∧
      (verifyImage c b = .passes → leaves (.tabVerifyDone b) s (fun t =>
        bankState t b = 3 ∧ Completed c t r stOK ∧ KeepsWork c t)) ∧
      (∀ code off, verifyImage c b = .fails code off → leaves (.tabVerifyDone b) s (fun t =>
        bankState t b = 1 ∧ t.tab.lasterr = wd (off % 0x1000000 + 0x1000000 * code) ∧ Completed c t r stPARAM ∧
        KeepsWork c t)))

/-- Lanes (R273, R274, R275, R333, R338, R339, R374): the first note of a queue starts once its order allows; a FILL or a COPY
of one word into memory writes it and no other byte; a note whose destination cannot be written fails and is complete; a
complete note leaves its lane; a SIGNAL pulses its source; a gather takes the records that wait, an off cluster's as words
of ones and counted in OFFACC, and completes with its status word. Model choice: log entry 47. -/
def Obligations.LaneEvents : Prop :=
  ∀ s : State, s.chip.sys.per = true →
    let c := s.chip
    (∀ lane hs data ep j rest, lane < 4 → (laneOf c lane).q = j :: rest → (laneOf c lane).fl = [] → 0 < laneInfl c lane →
      fenceWaits c j = false → j.chg = false → nLen j.w3 = 4 →
      let dst := epGa 0 j.w2
      let one (v : Word) (t : Chip) : Prop :=
        (laneOf t lane).q = rest ∧ (laneOf t lane).fl = [{ j with st := 1, moved := 4 }] ∧ wordAt t dst = v ∧
        ∀ a, ¬ (dst ≤ a ∧ a < dst + 4) → byteAt t a = byteAt c a
      (epKind j.w2 < 2 → dst % 4 = 0 → dstCause c j.w2 4 = 0 → injHits c dst = false →
        (nOp j.w0 = 2 → leaves (.noteStart lane hs data ep) s (one j.w1)) ∧
        (nOp j.w0 = 1 → epKind j.w1 < 2 → epGa j.bank j.w1 % 4 = 0 → srcCause c j.bank j.w1 4 hs = 0 →
          epGa j.bank j.w1 ∉ c.poison → epGa j.bank j.w1 ∉ c.sbe →
          leaves (.noteStart lane hs data ep) s (one (wordAt c (epGa j.bank j.w1))))) ∧
      (nOp j.w0 = 2 → dstCause c j.w2 4 = 2 → nMiss j.w3 = 0 → nQuiet j.w0 = true →
        leaves (.noteStart lane hs data ep) s (fun t =>
          (laneOf t lane).q = rest ∧ (laneOf t lane).fl = [{ j with st := 2 }] ∧ KeepsWork c t ∧
          regVal t 0x60005070 = recIdx j.idx j.time lane 2))) ∧
    (∀ lane no j, lane < 4 → (laneOf c lane).fl = [j] → j.no = no → nOp j.w0 = 1 ∨ nOp j.w0 = 2 ∨ nOp j.w0 = 0x0F →
      leaves (.noteComplete lane no) s (fun t => (laneOf t lane).fl = [] ∧ (laneOf t lane).q = (laneOf c lane).q ∧
        regVal t (laneReg lane 0x08) = regVal c (laneReg lane 0x08) + 1 ∧
        regVal t (laneReg lane 0x0C) = regVal c (laneReg lane 0x0C) + wd j.moved ∧ KeepsWork c t ∧
        OnlyRegs [laneReg lane 0x08, laneReg lane 0x0C] c t)) ∧
    (∀ lane j, lane < 4 → (laneOf c lane).fl = [j] → nOp j.w0 = 3 → j.st = 1 → leaves (.signal lane) s (fun t =>
      (srcOf t j.w1.toNat).pulseBusy = true ∧ (laneOf t lane).fl = [{ j with st := 2 }] ∧
      regVal t 0x6000512C = regVal c 0x6000512C + 1 ∧ KeepsWork c t ∧
      OnlyRegs [0x6000512C, 0x60002014, 0x60002004] c t)) ∧
    (∀ g k, c.tab.gather = some g → k < 32 → g.mask.testBit k = true → g.recs = [] → g.taken = [] → g.ptr < 32 →
      (gateOpen c (2 * k + g.off / 0x40000) = false → leaves (.gatherRecord (BitVec.ofNat 32 (2 ^ k))) s (fun t =>
        t.tab.gather = some { g with recs := [(k, (List.replicate (g.b / 4) ⟨0xFFFFFFFF, false⟩, true))], taken := [k],
                                     ptr := (k + 1) % 32, replaced := g.replaced + 2 ^ k } ∧ KeepsWork c t ∧
        let off := 0x600010A0 + 4 * islandOfPeg (2 * k + g.off / 0x40000)
        regVal t off = (if regVal c off = 0xFFFFFFFF then 0xFFFFFFFF else regVal c off + 1) ∧ OnlyRegs [off] c t)) ∧
      (gateOpen c (2 * k + g.off / 0x40000) = true → leaves (.gatherRecord (BitVec.ofNat 32 (2 ^ k))) s (fun t =>
        ∃ l, t.tab.gather = some { g with recs := [(k, (l, false))], taken := [k], ptr := (k + 1) % 32 } ∧
          l.length = g.b / 4 ∧ KeepsWork c t))) ∧
    (∀ g j k l r, c.tab.gather = some g → (∀ i, i < 32 → g.mask.testBit i = decide (i = k)) → k < 32 → g.taken = [k] →
      g.recs = [(k, (l, r))] → g.lane < 4 → (laneOf c g.lane).fl = [j] → j.no = g.job → nOp j.w0 = 0x40 → epKind j.w2 = 1 → epUnit j.w2 < 32 →
      g.b = 8 → l.length = 2 → dstCause c j.w2 260 = 0 → injHits c (epGa 0 j.w2) = false → leaves .gatherComplete s (fun t =>
        t.tab.gather = none ∧ (laneOf t g.lane).fl = [{ j with st := 2, moved := 12 }] ∧
        wordAt t (epGa 0 j.w2 + 256) = wd g.replaced ∧ wordAt t (epGa 0 j.w2 + 8 * k) = (l.getD 0 ⟨0, false⟩).w ∧
        regVal t 0x60005134 = regVal c 0x60005134 + 1))

/-- The cam and profile engines (R401, R405, R406, R408, R411, R412, R414, R418, R423, R427): an engine performs the
operation at the head of its stream once its domain is on: CAMOFS sets an offset, a set switch makes the shadow set
active and empties the old one, the evaluation of a linear table gives the value and velocity of its segment, that of
a place without table fails; a CAMLD copy ends with its table in the active set; the host's write of CAMTOFS sets the
offset of TSEL. Model readings and choices: log entries 50, 51, 123, 124. -/
def Obligations.CamEvents : Prop :=
  ∀ (s : State) (e : Nat), e < 32 → camOn s.chip e = true →
    let c := s.chip
    let m := camOf c e
    (∀ o rest at_, m.queue = o :: rest → m.sw = none →
      (o.kind = 0 → o.op = 5 → inUnison c (courseNo o.who) = false → leaves (.camPerform e 0 at_) s (fun t =>
        camOf t e = { m with queue := rest, ofs := Tbl.put 0 m.ofs o.sel (o.a % 65536) } ∧ t.mem = c.mem ∧ OnlyRegs [] c t ∧
        (∀ f ∈ (coreOf t o.who).flights, f.op = 0x75 → f.slot = o.slot → f.ready = true) ∧
        ∀ k, k ≠ o.who → coreOf t k = coreOf c k)) ∧
      (o.kind = 2 → m.copy = none → leaves (.camPerform e 0 at_) s (fun t =>
        camActive (camOf t e) = camShadow m ∧ camShadow (camOf t e) = [] ∧ (camOf t e).queue = rest ∧
        (camOf t e).ofs = m.ofs ∧ KeepsWork c t ∧ OnlyRegs [] c t))) ∧
    (∀ sel p at_, sel < 32 → m.bad = [] → camCubic (camTable m sel) = false →
      (∀ y0 m0 y1 m1 h a i, camTable m sel ≠ [] → camSpot (camTable m sel) (Tbl.get 0 m.ofs sel) p = .seg y0 m0 y1 m1 h a i →
        (camEvaluate c e sel p 0 at_).2 =
          (0, wi (roundHalfUp (y0 * h + (y1 - y0) * a) h), wi (roundHalfUp ((y1 - y0) * 65536) h))) ∧
      (∀ y, camTable m sel ≠ [] → camSpot (camTable m sel) (Tbl.get 0 m.ofs sel) p = .outside y →
        (camEvaluate c e sel p 0 at_).2 = (0, wi y, 0) ∧ bit (regVal (camEvaluate c e sel p 0 at_).1 (camReg e 1)) 0 = true) ∧
      (camTable m sel = [] → (camEvaluate c e sel p 0 at_).2 = (0x10, 0x80000000, 0) ∧
        bit (regVal (camEvaluate c e sel p 0 at_).1 (camReg e 1)) 1 = true)) ∧
    (∀ y ecc at_, m.copy = some y → m.staging = false → isEcc ecc = true →
      (∀ d l, camldResult c e y ecc at_ = (d, 0, l) → leaves (.camldCopyEnd e ecc at_) s (fun t =>
        camTable (camOf t e) y.sel = l ∧ (camOf t e).copy = none ∧ camShadow (camOf t e) = camShadow m ∧ t.mem = c.mem)) ∧
      (unitsFree (camActive m) < (y.n + 7) / 8 → leaves (.camldCopyEnd e ecc at_) s (fun t =>
        camActive (camOf t e) = camActive m ∧ (camOf t e).copy = none ∧ bit (regVal t (camReg e 1)) 1 = true ∧
        bits (regVal t (camReg e 1)) 23 16 = 0x12 ∧ t.mem = c.mem))) ∧
    (∀ w : Word, c.sys.per = true → m.queue = [] → leaves (.camtofsWrite e w) s (fun t =>
      t = updCam c e (fun m => { m with ofs := Tbl.put 0 m.ofs (camTsel c e) (w.toNat % 65536) })))

/-! ### Drones and field ports -/

/-- Drones (R359, R364, R365, R367, R445, R447 to R450): an owed step moves the position by one, where the drone has a source
that serves it, and else stays owed; where the tablature follows the
drone its served position moves with it, the notes there fall due, and an armed changeover at that position takes place; a
written position more than 65,536 ahead is a jump that halts the tablature; the rate generator owes the steps its speed
gives; a count of the port a drone takes goes through SCALE; the end of a good SSI frame gives the position.
Model choice: log entry 56. -/
def Obligations.DroneEvents : Prop :=
  ∀ (s : State) (d : Nat), d < 16 → s.chip.sys.per = true →
    let c := s.chip
    let r := droneOf c d
    let follows := tabRuns c = true ∧ followed c = some d ∧ c.sys.detach = none
    let apart := c.tab.active = none ∧ c.tab.arm = none
    (droneMoves c d = false → leaves (.droneStep d) s (fun t => t = c)) ∧
    (r.backlog ≠ 0 → droneMoves c d = true → apart → leaves (.droneStep d) s (fun t =>
      dronePos t d = dronePos c d + (if 0 < r.backlog then 1 else -1) ∧
      droneOf t d = { r with backlog := if 0 < r.backlog then r.backlog - 1 else r.backlog + 1 } ∧ t.tab = c.tab ∧
      KeepsWork c t ∧ OnlyRegs [drnReg d 4] c t)) ∧
    (0 < r.backlog → droneMoves c d = true → follows → dronePos c d = servedH c →
      (∀ b, c.tab.active = some b → c.tab.arm = none → stampedHeld c.tab.dueP < 256 →
        (∀ q ∈ c.tab.dueP, q.stamped = true) → leaves (.droneStep d) s (fun t =>
        servedH t = servedH c + 1 ∧ dronePos t d = servedH c + 1 ∧ t.dev = c.dev ∧ KeepsWork c t ∧
        t.tab.dueP = c.tab.dueP ++ (notesAt c b (bits (servedH c + 1) 15 0)).map
          (fun i => ⟨false, b, i, (servedH c + 1).toNat, c.tb, true⟩))) ∧
      (∀ a b, armReady c = some a → c.dev = .changeover → c.tab.active = some b → a.bank < 2 → b < 2 → b ≠ a.bank →
        a.p = servedH c + 1 → leaves (.droneStep d) s (fun t =>
        t.tab.active = some a.bank ∧ bankState t a.bank = 6 ∧ bankState t b = 3 ∧ t.tab.arm = none ∧ t.dev = .running ∧
        servedH t = a.p ∧ regVal t 0x60005018 = a.p ∧ t.accepted = c.accepted.erase a.reply ∧ KeepsWork c t))) ∧
    (∀ w : Word,
      (apart → leaves (.drnSetWrite d w) s (fun t => dronePos t d = w ∧ t.drones = c.drones ∧ t.tab = c.tab ∧ KeepsWork c t ∧
        OnlyRegs [drnReg d 4] c t)) ∧
      (follows → c.tab.arm = none → c.dev = .running → 65536 < sgn (w - servedH c) →
        leaves (.drnSetWrite d w) s (fun t => t.dev = .halted ∧ servedH t = w ∧ dronePos t d = w ∧ t.tab.dueP = [] ∧
          t.tab.dueT = [] ∧ bit (regVal t 0x60005038) 8 = true ∧ KeepsWork c t))) ∧
    (drnKind c d = 2 → sgn (regVal c (drnReg d 0x14)) = sgn (regVal c (drnReg d 0x0C)) →
      let ph := r.phase + 2 * sgn (regVal c (drnReg d 0x14)) * ((c.tb - r.lastRamp : Nat) : Int)
      let n := ph.tdiv 512000000000
      (r.backlog + n).natAbs < 32768 → leaves (.rateStep d) s (fun t =>
        droneOf t d = { r with lastRamp := c.tb, phase := ph - n * 512000000000, backlog := r.backlog + n } ∧
        KeepsWork c t ∧ OnlyRegs [] c t)) ∧
    (∀ w : Word,
      (bits w 2 0 < 4 → bits w 2 0 ≠ 1 → leaves (.droneCtlWrite d w) s (fun t =>
        regVal t (drnReg d 0) = w &&& 0xFF7 ∧ KeepsWork c t ∧
        (drnKind c d ≠ 2 → OnlyRegs [drnReg d 0, drnReg d 0x14] c t ∧ (bits w 2 0 = 2 → drnKind c d ≠ 2 →
          regVal t (drnReg d 0x14) = if regVal c (drnReg d 0x10) = 0 then regVal c (drnReg d 0x0C) else 0)))) ∧
      (4 ≤ bits w 2 0 → leaves (.droneCtlWrite d w) s (fun t =>
        regVal t (drnReg d 0) = setBits w 2 0 0 &&& 0xFF7 ∧ bit (regVal t (drnReg d 0x1C)) 15 = true)) ∧
      (bits w 2 0 = 1 → sourceServes c (bits w 10 4) = false → leaves (.droneCtlWrite d w) s (fun t =>
        (droneOf t d).down = true)) ∧
      (drnKind c d = 2 → sgn (regVal c (drnReg d 0x14)) = sgn (regVal c (drnReg d 0x0C)) → c.tb = r.lastRamp → r.phase = 0 →
        r.backlog.natAbs < 32768 → (sgn w).natAbs ≤ 1024000000 → leaves (.registerWrite (drnReg d 0x0C) ⟨15, w⟩) s (fun t =>
          regVal t (drnReg d 0x0C) = w ∧ OnlyRegs [drnReg d 0x0C, drnReg d 0x14] c t ∧
          regVal t (drnReg d 0x14) = if regVal c (drnReg d 0x10) = 0 then w else regVal c (drnReg d 0x14)))) ∧
    (∀ p up, encOk c p = true →
      let v := if up != bit (regVal c (fpReg p 8)) 8 then 1 else -1
      leaves (.encCount p up true) s (fun t => regVal t (fpReg p 0x18) = regVal c (fpReg p 0x18) ∧ t.drones = c.drones) ∧
      (fedBy c p = [] → leaves (.encCount p up false) s (fun t =>
        regVal t (fpReg p 0x18) = regVal c (fpReg p 0x18) + wi v ∧ regVal t (fpReg p 0x1C) = wd c.tb ∧ t.drones = c.drones ∧
        KeepsWork c t ∧ OnlyRegs [fpReg p 0x18, fpReg p 0x1C, fpReg p 0x24, fpReg p 0x14] c t)) ∧
      (fedBy c p = [d] →
        let scale : Int := (regVal c (drnReg d 8)).toNat
        let acc := r.frac + (if bit (regVal c (drnReg d 0)) 11 then -(v * scale) else v * scale)
        (r.backlog + acc.tdiv 65536).natAbs < 32768 → leaves (.encCount p up false) s (fun t =>
          droneOf t d = { r with frac := acc - acc.tdiv 65536 * 65536, backlog := r.backlog + acc.tdiv 65536, down := false } ∧
          regVal t (fpReg p 0x18) = regVal c (fpReg p 0x18) + wi v))) ∧
    (∀ p raw, portOk c p = true → isSsi c p = true → (portOf c p).ssiBusy = true → regFld c (fpReg p 0x0C) 15 0 = 0 →
      fedBy c p = [] →
      leaves (.ssiFrameEnd p raw true) s (fun t => (portOf t p).ssiBusy = false ∧ regVal t (fpReg p 0x18) = ssiPos c p raw ∧
        regVal t (fpReg p 0x20) = regVal c (fpReg p 0x18) ∧ bit (regVal t (fpReg p 0x14)) 0 = true ∧ KeepsWork c t) ∧
      leaves (.ssiFrameEnd p raw false) s (fun t => (portOf t p).ssiBusy = false ∧
        regVal t (fpReg p 0x18) = regVal c (fpReg p 0x18) ∧ bit (regVal t (fpReg p 0x14)) 8 = true ∧ KeepsWork c t))

/-- Field ports (R431, R433 to R435, R437, R443, R445, R453, R455, R458, R459): a reconfiguration clears DRVEN, the
event and data registers and READY, and gives CFG its default; a port is ready once it has settled; DRVEN is kept from
being set while the supply limits; ENC presets, compares and rates; SSI frames; STEP targets, steps and stops;
captures with their dead time; serial characters, records and transmission, one character at a time. Model readings
and choices: log entries 54, 55, 60, 130, 131. -/
def Obligations.PortCommands : Prop :=
  ∀ (s : State) (p : Nat), portOk s.chip p = true →
    let c := s.chip
    let r := portOf c p
    let reg (t : Chip) (o : Nat) : Word := regVal t (fpReg p o)
    (∀ w, reconfigures c p w = true → reg c 0x0C = 0 → leaves (.portReconfigure p w) s (fun t =>
      (portOf t p).mode = bits (ctlStored w) 2 0 ∧ (portOf t p).sub = bits (ctlStored w) 4 3 ∧ (portOf t p).ready = false ∧
      reg t 0 = setBits (ctlStored w) 9 9 0 ∧ p ∈ t.flushing ∧
      reg t 8 = cfgDefault (bits (ctlStored w) 2 0) (bits (ctlStored w) 4 3) ∧
      (∀ o ∈ [0x14, 0x18, 0x1C, 0x20, 0x24, 0x28, 0x2C], reg t o = 0) ∧ t.mem = c.mem)) ∧
    (r.ready = false → r.mode ≠ 1 → p ∉ c.flushing → r.held = [] → leaves (.portReady p) s (fun t =>
      t = updPort c p (fun r => { r with ready := true, held := [], settleA := false, settleB := false }))) ∧
    (r.ready = true → (r.settleA || r.settleB) = true →
      (r.mode ≠ 1 → leaves (.portLevelChange p) s (fun t =>
        t = updPort c p (fun r => { r with settleA := false, settleB := false }))) ∧
      (r.mode = 1 → (linkOf c p).lstate = 0 → enabled c p = true → leaves (.portLevelChange p) s (fun t =>
        (portOf t p).settleA = false ∧ (portOf t p).settleB = false ∧
        (linkOf t p).lstate = (if (linkOf c p).locked then 1 else 0) ∧ KeepsWork c t ∧ OnlyRegs [] c t))) ∧
    (∀ w, reconfigures c p w = false → r.mode ≠ 1 →
      (bit (ctlStored w) 9 = true → c.sys.psupLim = false → c.dev ≠ .faulted → leaves (.portDriveEnable p w) s (fun t =>
        bit (reg t 0) 9 = true ∧ (portOf t p).ilim = false ∧ KeepsWork c t)) ∧
      (bit (ctlStored w) 9 = true → c.sys.psupLim = true → leaves (.portDriveEnable p w) s (fun t =>
        bit (reg t 0) 9 = bit (reg c 0) 9 ∧ (portOf t p).ilim = r.ilim ∧ KeepsWork c t)) ∧
      (bit (ctlStored w) 9 = false → leaves (.portDriveEnable p w) s (fun t => bit (reg t 0) 9 = false ∧ KeepsWork c t))) ∧
    (∀ w, r.mode = 3 → r.ready = true →
      leaves (.encPreset p w) s (fun t => reg t 0x18 = w ∧ KeepsWork c t ∧ OnlyRegs [fpReg p 0x18] c t) ∧
      leaves (.encCompareWrite p w) s (fun t => reg t 0x28 = w ∧ KeepsWork c t ∧ OnlyRegs [fpReg p 0x28] c t)) ∧
    (r.mode = 3 → r.rateWin ≠ c.tb / 1000000 → leaves (.encRateWindow p) s (fun t =>
      reg t 0x20 = r.rateCnt ∧ portOf t p = { r with rateCnt := 0, rateWin := c.tb / 1000000 } ∧ KeepsWork c t ∧
      OnlyRegs [fpReg p 0x20] c t)) ∧
    (∀ w, isSsi c p = true →
      (enabled c p = true → r.ssiBusy = false → r.ssiFree ≤ c.tb → leaves (.ssiFrameStart p w) s (fun t =>
        (portOf t p).ssiBusy = true ∧ t.out = c.out ++ (if driving c p then [.ssi p] else []) ∧ reg t 0x1C = wd c.tb ∧ KeepsWork c t ∧
        OnlyRegs [fpReg p 0x1C] c t)) ∧
      (enabled c p = false → leaves (.ssiFrameStart p w) s (fun t =>
        (portOf t p).ssiBusy = r.ssiBusy ∧ t.out = c.out ∧ bit (reg t 0x14) 10 = true ∧ KeepsWork c t))) ∧
    (∀ w : Word, r.mode = 4 →
      (enabled c p = true → w ≠ reg c 0x18 → leaves (.stepTargetWrite p w) s (fun t =>
        reg t 0x28 = w ∧ reg t 0x1C = w - reg c 0x18 ∧ (portOf t p).moving = true ∧ bit (reg t 0x24) 0 = true ∧
        reg t 0x18 = reg c 0x18 ∧ KeepsWork c t)) ∧
      (enabled c p = false → leaves (.stepTargetWrite p w) s (fun t =>
        reg t 0x28 = reg c 0x28 ∧ reg t 0x1C = reg c 0x1C ∧ portOf t p = r ∧ bit (reg t 0x14) 10 = true ∧ KeepsWork c t)) ∧
      (enabled c p = true → r.moving = true → leaves (.stepPulse p) s (fun t =>
        let pos := if 0 < sgn (reg c 0x1C) then reg c 0x18 + 1 else reg c 0x18 - 1
        reg t 0x18 = pos ∧ reg t 0x1C = reg c 0x28 - pos ∧ reg t 0x28 = reg c 0x28 ∧
        t.out = c.out ++ (if driving c p then [.step p (decide (0 < sgn (reg c 0x1C)))] else []) ∧
        (portOf t p).moving = decide (reg c 0x28 ≠ pos) ∧ KeepsWork c t)) ∧
      (r.ready = true → leaves (.stepStop p w) s (fun t =>
        reg t 0x18 = w ∧ reg t 0x28 = w ∧ reg t 0x1C = 0 ∧ (portOf t p).moving = false ∧ bit (reg t 0x24) 0 = false ∧
        KeepsWork c t))) ∧
    (∀ pairB fall stamp, r.mode = 5 → r.ready = true → (if pairB then r.settleB else r.settleA) = false →
      (pairB = true → r.sub = 1) → edgeSel c p pairB fall = true → stamp ≤ c.tb → reg c 0x0C = 0 →
      ((if pairB then r.deadB else r.deadA) ≤ stamp → leaves (.capture p pairB fall stamp) s (fun t =>
        reg t 0x18 = wd stamp ∧ reg t 0x1C = wd (stamp / 2 ^ 32) ∧ reg t 0x20 = dronePos c (bits (reg c 8) 7 4) ∧
        bit (reg t 0x14) 0 = true ∧ (if pairB then (portOf t p).rxb else (portOf t p).rxa) = !fall ∧ KeepsWork c t)) ∧
      (stamp < (if pairB then r.deadB else r.deadA) → leaves (.capture p pairB fall stamp) s (fun t =>
        reg t 0x18 = reg c 0x18 ∧ reg t 0x14 = reg c 0x14 ∧ KeepsWork c t ∧ OnlyRegs [fpReg p 0x2C] c t))) ∧
    (serOk c p = true →
      (∀ b, hears r = true → regFld c (fpReg p 0x0C) 15 0 ≠ 0 → r.rxBytes.length < 63 →
        leaves (.serCharacter p b false false false) s (fun t =>
          portOf t p = { r with rxBytes := r.rxBytes ++ [b], rxOpen := true } ∧ reg t 0x18 = reg c 0x18 + 1 ∧ KeepsWork c t ∧
          OnlyRegs [fpReg p 0x18, fpReg p 0x24] c t)) ∧
      (∀ b, hears r = false → leaves (.serCharacter p b false false false) s (fun t => t = c)) ∧
      (∀ x, r.rxOpen = true → r.wait = [] → c.stopped = [] → portRx c p = some x → (chanOf c x).kind = 2 → (chanOf c x).fmt = 1 →
        (wordsOf r.rxBytes).length + 1 ≤ chFree (chanOf c x) → leaves (.serRecordClose p) s (fun t =>
        (portOf t p).rxBytes = [] ∧ (portOf t p).rxOpen = false ∧ bit (reg t 0x14) 0 = true ∧
        (chanOf t x).depth = (chanOf c x).depth + (wordsOf r.rxBytes).length + 1 ∧
        (chanOf t x).seq = ((chanOf c x).seq + 1) % 256)) ∧
      (∀ b rest, canDrive c p = true → r.tx = b :: rest → leaves (.serTransmit p) s (fun t =>
        t.out = c.out ++ [.serial p [b]] ∧ (portOf t p).tx = rest ∧ reg t 0x1C = reg c 0x1C + 1 ∧
        (rest = [] → bit (reg t 0x24) 0 = false) ∧ KeepsWork c t ∧ OnlyRegs [fpReg p 0x1C, fpReg p 0x24] c t)) ∧
      (∀ x, canDrive c p = true → r.tx = [] → regFld c (fpReg p 0x0C) 31 16 ≠ 0 → portTx c p = some x →
        let h := chanOf c x
        let w (i : Nat) : Word := wordAt c (chWordGa x h i / 4 * 4)
        h.gapPend = false → h.rem = 0 → h.lead = 0 → 3 ≤ h.depth → bit (w 0) 12 = false → hdrLen (w 0) = 2 →
        1 ≤ (w 1).toNat → (w 1).toNat ≤ 4 → leaves (.serTransmit p) s (fun t =>
          (portOf t p).tx = (bytesOfWord (w 2)).take (w 1).toNat ∧ (chanOf t x).depth = h.depth - 3 ∧
          bit (reg t 0x24) 0 = true ∧ t.out = c.out ∧ reg t 0x1C = reg c 0x1C ∧ t.mem = c.mem)))

/-! ### Firos links -/

/-- Training, start-up and loss of a link (R469, R471 to R474, R478, R487): lock, by the criteria of R469 on the
symbols received, sets READY and begins start-up; ENUM is sent with ADDR 15 and count 0, its return gives the number
of nodes or sets TOPO, its absence repeats it; each node echoes, and once the delay of the last is written by MGMT the
link is UP; a loss of lock takes it DOWN with its frames kept; a restart begins again; a cycle begins at its moment.
Model readings and choices: log entries 57, 58, 103, 140. -/
def Obligations.LinkStartUp : Prop :=
  ∀ (s : State) (p : Nat), portOk s.chip p = true → inLink s.chip p = true →
    let c := s.chip
    let l := linkOf c p
    let r := portOf c p
    let line (body : List Byte) : List (BitVec 10) := (codeLine l.plus (frameSyms (body ++ bytesOfWord (crc32 body)))).1
    (∀ syms, onPll c = true → l.locked = false → p ∉ c.flushing → r.settleB = false →
      (rxFeed rxLocks l.rx syms).2 = false → leaves (.linkTrained ⟨p, syms⟩) s (fun t => (linkOf t p).locked = false ∧
        (linkOf t p).lstate = l.lstate ∧ t.ports = c.ports ∧ KeepsWork c t ∧ OnlyRegs [] c t)) ∧
    (∀ syms, onPll c = true → l.locked = false → p ∉ c.flushing → r.settleB = false → (rxFeed rxLocks l.rx syms).2 = true →
      r.ready = false → r.held = [] → r.ilim = false → r.safeh = false → l.lstate = 0 →
      leaves (.linkTrained ⟨p, syms⟩) s (fun t => (linkOf t p).locked = true ∧ (portOf t p).ready = true ∧ KeepsWork c t ∧ OnlyRegs [] c t ∧
        (linkOf t p).lstate = (if bit (regVal c (fpReg p 0)) 9 then 1 else 0))) ∧
    (linkOk c p = true → l.lstate = 1 →
      (l.locked = true → l.up = 3 → leaves (.startupEnum p) s (fun t =>
        linkOf t p = { l with up := 4, plus := (linkOf t p).plus } ∧ t.out = c.out ++ [.firos p 7 (line [7, 15, 0, 0, 0, 1, 0, 0, 0, 0, 0, 0])] ∧ KeepsWork c t ∧ OnlyRegs [] c t)) ∧
      (∀ n, l.up = 4 → 1 ≤ n → n ≤ 8 → leaves (.enumReturn p n false) s (fun t =>
        linkOf t p = { l with nodes := n, echo := 1, up := 5, idents := [] } ∧ KeepsWork c t ∧ OnlyRegs [] c t)) ∧
      (∀ n e, l.up = 4 → e = true ∨ 8 < n → leaves (.enumReturn p n e) s (fun t =>
        linkOf t p = { l with up := 0, topo := true } ∧ bit (regVal t (fpReg p 0x14)) 10 = true ∧ KeepsWork c t)) ∧
      (l.up = 4 → leaves (.enumTimeout p) s (fun t => t = updLink c p (fun l => { l with up := 3 }))) ∧
      (∀ x ident, l.up = 6 →
        (l.echo < l.nodes → leaves (.echoReply p x ident) s (fun t =>
          (linkOf t p).lstate = 1 ∧ (linkOf t p).echo = l.echo + 1 ∧ (linkOf t p).up = 5 ∧
          (linkOf t p).idents = l.idents ++ [ident] ∧
          (linkOf t p).mgmt = l.mgmt ++ [⟨l.echo, 0x118, wd (oneWay x), false, none⟩] ∧ KeepsWork c t)) ∧
        (l.echo = l.nodes → leaves (.echoReply p x ident) s (fun t =>
          (linkOf t p).lstate = 1 ∧ (linkOf t p).up = 7 ∧ (linkOf t p).rtt = (x + 2) / 4 ∧
          (linkOf t p).mgmt = l.mgmt ++ [⟨l.echo, 0x118, wd (oneWay x), false, none⟩] ∧ KeepsWork c t))) ∧
      (∀ w, l.up = 7 → l.mgmt = [⟨l.nodes, 0x118, w, false, none⟩] → leaves (.dataFrameSend p) s (fun t =>
        (linkOf t p).lstate = 2 ∧ (linkOf t p).mgmt = [] ∧ (linkOf t p).started = true ∧
        t.out = c.out ++ [.firos p 5 (line ([5, BitVec.ofNat 8 l.nodes, 0, 0, 0, 2, 0, 0] ++ bytesOfWord 0x118 ++ bytesOfWord w))] ∧
        KeepsWork c t))) ∧
    (∀ syms, l.locked = true → (rxFeed rxLoses l.rx syms).2 = false → leaves (.lockLoss ⟨p, syms⟩) s (fun t =>
      t = updLink c p (fun l => { l with rx := (rxFeed rxLoses l.rx syms).1 }))) ∧
    (∀ syms, l.locked = true → (rxFeed rxLoses l.rx syms).2 = true → l.mgmt = [] → leaves (.lockLoss ⟨p, syms⟩) s (fun t =>
      (linkOf t p).locked = false ∧ (linkOf t p).lstate = 0 ∧ (portOf t p).ready = r.ready ∧ KeepsWork c t ∧
      ∀ k, (streamOf t p k).frames = (streamOf c p k).frames)) ∧
    (∀ w : Word, bit w 0 = true → r.ready = true → driving c p = true → l.locked = true →
      leaves (.linkRestart p w) s (fun t => (linkOf t p).lstate = 1 ∧ (linkOf t p).up = 3 ∧ KeepsWork c t ∧ OnlyRegs [] c t)) ∧
    (let cfg := regVal c (fpReg p 8)
     let len := bits cfg 27 16 * 500
     bit cfg 12 = true → len ≠ 0 → l.cycle ≠ some (c.tb - c.tb % len) → leaves (.linkCycleStart p) s (fun t =>
      linkOf t p = { l with cycle := some (c.tb - c.tb % len), cycLen := len, syncDue := decide (l.lstate = 2) } ∧
      KeepsWork c t ∧ OnlyRegs [] c t))

/-- Traffic of a link that is UP (R467, R468, R475 to R483, R485, R486, R488, R489, R554): SYNC goes first, then a
stream that is sent again, then a new frame whose time has come, which ends the stream's FRESH; a frame goes out as
its header, the mask of its poisoned words, its words and their CRC, between SOF and EOF, 8b/10b coded, and sent again
it is the same but for REWIND. An acknowledgement frees what it covers, a NAK and a time-out send what stands
unacknowledged again; a good STATUS frame replaces its node's area, a bad one is counted; a management access
completes with the node's data, with PARAM where the node refuses it, or with TIMEOUT. Model readings and choices: log
entries 103, 132. -/
def Obligations.LinkTraffic : Prop :=
  ∀ (s : State) (p : Nat), portOk s.chip p = true → inLink s.chip p = true → (linkOf s.chip p).lstate = 2 →
    let c := s.chip
    let l := linkOf c p
    let line (body : List Byte) : List (BitVec 10) := (codeLine l.plus (frameSyms (body ++ bytesOfWord (crc32 body)))).1
    let dataFrame (k : Nat) (f : LFrame) (first : Bool) : List Byte :=
      let bad := f.words.any (fun q => q.p)
      [BitVec.ofNat 8 (1 + (if bad then 16 else 0) + (if first then 32 else 0)), BitVec.ofNat 8 (15 + 16 * k), BitVec.ofNat 8 f.slotNo,
        BitVec.ofNat 8 f.seq, BitVec.ofNat 8 f.seq, BitVec.ofNat 8 f.words.length, 0, 0] ++
      (if bad then bytesOfWord (wd (poisonMask 0 f.words)) else []) ++ bytesOf (f.words.map (fun q => q.w))
    let out (st : Stream) (f : LFrame) : LFrame := { f with sent := true, again := false, sentAt := c.tb, fresh := st.fresh || f.fresh }
    (linkOk c p = true →
      (l.syncDue = true → leaves (.dataFrameSend p) s (fun t =>
        linkOf t p = { l with syncDue := false, plus := (linkOf t p).plus } ∧ KeepsWork c t ∧ OnlyRegs [] c t ∧
        t.out = c.out ++ [.firos p 2 (line ([2, 15, 0, 0, 0, 4, 0, 0] ++ bytesOf [wd c.tb, wd (c.tb / 2 ^ 32),
          wd (bits (regVal c (fpReg p 8)) 11 0 * 40), wd l.cycLen]))])) ∧
      (∀ k st f, l.syncDue = false → l.streams = [(k, st)] → st.frames = [f] → f.words.length ≤ 32 →
        (f.sent = false → f.again = false → f.start ≤ c.tb → f.late = false → f.lane = 9 → leaves (.dataFrameSend p) s (fun t =>
          streamOf t p k = { st with fresh := false, frames := [out st f] } ∧
          t.out = c.out ++ [.firos p 1 (line (dataFrame k f (st.fresh || f.fresh)))] ∧ KeepsWork c t ∧ OnlyRegs [] c t)) ∧
        (f.again = true → leaves (.dataFrameSend p) s (fun t =>
          (streamOf t p k).frames = [out st f] ∧
          t.out = c.out ++ [.firos p 1 (line (dataFrame k f (st.fresh || f.fresh)))] ∧
          (linkOf t p).retx = l.retx + 1 ∧ KeepsWork c t ∧ OnlyRegs [] c t)))) ∧
    (∀ k st f, k < 4 → l.streams = [(k, st)] → st.frames = [f] → f.sent = true →
      (∀ nak b, st.chan = none → f.seq < 256 → bits b (8 * k + 7) (8 * k) = (f.seq + 1) % 256 →
        leaves (.ackReceived p nak (2 ^ k) b) s (fun t =>
          (streamOf t p k).frames = [] ∧ (streamOf t p k).retries = 0 ∧ bit (regVal t (fpReg p 0x14)) 1 = true ∧
          (nak = true → bit (regVal t (fpReg p 0x14)) 8 = true) ∧ KeepsWork c t)) ∧
      (∀ b, st.retries < regFld c (fpReg p 8) 31 28 → leaves (.ackReceived p true 0 b) s (fun t =>
        streamOf t p k = { st with retries := st.retries + 1, frames := [{ f with again := true }] } ∧
        (linkOf t p).lstate = 2 ∧ KeepsWork c t)) ∧
      (f.again = false → 4 * l.rtt + 12000 ≤ c.tb - f.sentAt →
        (st.retries < regFld c (fpReg p 8) 31 28 → leaves (.ackTimeout p k) s (fun t =>
          streamOf t p k = { st with retries := st.retries + 1, frames := [{ f with again := true }] } ∧ KeepsWork c t)) ∧
        (regFld c (fpReg p 8) 31 28 ≤ st.retries → l.mgmt = [] → leaves (.ackTimeout p k) s (fun t =>
          (linkOf t p).lstate = 0 ∧ (streamOf t p k).frames = [f] ∧ KeepsWork c t)))) ∧
    (∀ n q words, l.locked = true → 1 ≤ n → n ≤ 8 → words.length ≤ 60 →
      leaves (.statusFrameReceived p n q words true) s (fun t =>
        areaOf t p n = ⟨q % 256, words.length, true, c.tb, words⟩ ∧ (∀ m, m ≠ n → areaOf t p m = areaOf c p m) ∧
        bit (regVal t (fpReg p 0x14)) 0 = true ∧ KeepsWork c t ∧
        ((areaOf c p n).valid = true → (areaOf c p n).seq = 255 → q % 256 ≠ 0 →
          (linkOf t p).upmiss = l.upmiss + q % 256 ∧ bit (regVal t (fpReg p 0x14)) 9 = true)) ∧
      leaves (.statusFrameReceived p n q words false) s (fun t =>
        linkOf t p = { l with crcerr := l.crcerr + 1 } ∧ bit (regVal t (fpReg p 0x14)) 8 = true ∧ KeepsWork c t)) ∧
    (∀ m q, l.mgmt = [m] → m.reply = some q →
      (∀ data, m.sent = true → leaves (.mgmtReply p m.node m.word0 false data) s (fun t =>
        (linkOf t p).mgmt = [] ∧ Completed c t q stOK ∧ KeepsWork c t)) ∧
      (∀ data, m.sent = true → leaves (.mgmtReply p m.node m.word0 true data) s (fun t =>
        (linkOf t p).mgmt = [] ∧ Completed c t q stPARAM ∧ KeepsWork c t)) ∧
      leaves (.mgmtTimeout p) s (fun t => (linkOf t p).mgmt = [] ∧ Completed c t q stTIMEOUT ∧ KeepsWork c t))

/-! ### Host interfaces and commands -/

/-- The host interfaces and the time base (R66, R492, R495, R499, R500, R506, R507, R508, R509, R512, R603): the
release of PERST_N, the link with its speed and width, a reset of the function, its configuration with its BARs and
the MSI-X table, messages sent as the table has them; Ethernet links, ARP and echo answered, other frames and
datagrams of a wrong length dropped; PTP with its port state, lock and rate; steps and reads of the time base. What
build option -E brings depends on the option. Model readings and choices: log entries 61, 62, 63, 133, 134. -/
def Obligations.HostInterfaces : Prop :=
  ∀ s : State, s.chip.sys.per = true →
    let c := s.chip
    leaves .perstRelease s (fun t => t = { c with pcie := { c.pcie with perst := true } }) ∧
    (∀ v w, c.pcie.perst = true → 1 ≤ v → v ≤ 3 → w = 1 ∨ w = 2 ∨ w = 4 → (courseOf c luthierCourse).safe = false →
      leaves (.pcieLinkUp v w) s (fun t => regVal t 0x60003000 = ((regVal c 0x60003000 &&& 0x8040) ||| wd (1 + 2 * v + 8 * w)) ∧
        KeepsWork c t ∧ OnlyRegs [0x60003000] c t)) ∧
    (∀ k, k = 1 ∨ k = 2 → bit (regVal c 0x60003000) 0 = true → leaves (.pcieFunctionReset k) s (fun t =>
      bits (regVal t 0x60003000) 7 0 = 0 ∧ t.pcie.pend = [] ∧ t.pcie.masked = allVectors ∧ t.pcie.mps256 = false ∧
      bit (regVal t 0x60003004) 5 = true ∧ uPCIE ∈ t.flushing ∧
      ∀ q, q < 4 → (queueOf t q).replies = [] ∧ queueEn t q = false)) ∧
    (c.pcie.perst = true → leaves (.pcieFunctionReset 0) s (fun t =>
      t.pcie.perst = false ∧ bits (regVal t 0x60003000) 7 0 = 0 ∧ t.pcie.pend = [] ∧ bit (regVal t 0x60003004) 5 = true ∧
      uPCIE ∈ t.flushing ∧ t.cores = c.cores ∧ t.courses = c.courses)) ∧
    (bits (regVal c 0x60003000) 7 0 = 1 ∨ bits (regVal c 0x60003000) 7 0 = 65 → leaves (.pcieFunctionReset 3) s (fun t =>
      bits (regVal t 0x60003000) 7 0 = 0x81 ∧ t.pcie.pend = [] ∧ bit (regVal t 0x60003004) 5 = true ∧ uPCIE ∈ t.flushing ∧
      t.cores = c.cores ∧ t.courses = c.courses)) ∧
    (∀ v w, bit (regVal c 0x60003000) 0 = true →
      leaves (.pcieConfigWrite 0 0 w) s (fun t => bit (regVal t 0x60003000) 6 = bit w 0 ∧ KeepsWork c t ∧
        OnlyRegs [0x60003000] c t) ∧
      (v < 64 → leaves (.pcieConfigWrite 3 (16 * v + 12) w) s (fun t => (v ∈ t.pcie.masked ↔ bit w 0 = true) ∧
        (∀ u, u ≠ v → (u ∈ t.pcie.masked ↔ u ∈ c.pcie.masked)) ∧ t.pcie.table = c.pcie.table ∧ KeepsWork c t ∧ OnlyRegs [] c t)) ∧
      (v < 64 → ∀ j, j < 3 → leaves (.pcieConfigWrite 3 (16 * v + 4 * j) w) s (fun t =>
        bar2Word t (16 * v + 4 * j) = w ∧ (∀ o, o ≠ 16 * v + 4 * j → bar2Word t o = bar2Word c o) ∧ KeepsWork c t ∧
        OnlyRegs [] c t)) ∧
      (∀ f, f = 1 ∨ f = 2 → leaves (.pcieConfigWrite f 0 w) s (fun t => bit (regVal t 0x6000300C) (f - 1) = bit w 0 ∧
        KeepsWork c t ∧ OnlyRegs [0x6000300C] c t)) ∧
      leaves (.pcieConfigWrite 5 0 w) s (fun t => t = { c with pcie := { c.pcie with mps256 := bit w 0 } }) ∧
      (v < 4 → leaves (.pcieConfigWrite 6 v w) s (fun t =>
        barWord t v = ((if v = 0 then w &&& 0xFF000000 else if v = 2 then w &&& 0xFFFFE000 else w) ||| (if v % 2 = 0 then 4 else 0)) ∧
        (∀ u, u ≠ v → barWord t u = barWord c u) ∧ KeepsWork c t ∧ OnlyRegs [] c t))) ∧
    (∀ v, v < 64 → v ∈ c.pcie.pend → msixOpen c v = true → leaves (.msixMessage v) s (fun t =>
      t.out = c.out ++ [.msix v ((bar2Word c (16 * v + 4)).toNat * 2 ^ 32 + (bar2Word c (16 * v)).toNat) (bar2Word c (16 * v + 8))] ∧
      t.pcie.pend = c.pcie.pend.erase v ∧ KeepsWork c t ∧ OnlyRegs [0x6000300C] c t)) ∧
    (∀ k, k < 2 →
      (∀ r, 1 ≤ r → r ≤ 3 → onPll c = true → bit (regVal c (ethReg k 0)) 0 = true → leaves (.ethLinkUp k r) s (fun t =>
        (Config.optE = true → regVal t (ethReg k 4) = wd (1 + 2 * r) ∧ KeepsWork c t ∧ OnlyRegs [ethReg k 4] c t) ∧
        (Config.optE = false → t = c))) ∧
      (bit (regVal c (ethReg k 4)) 0 = true → leaves (.ethLinkLoss k) s (fun t =>
        bits (regVal t (ethReg k 4)) 2 0 = 0 ∧ uPCIE + 1 + k ∈ t.flushing ∧ KeepsWork c t)) ∧
      (∀ ret data, bit (regVal c (ethReg k 4)) 0 = true → bit (regVal c (ethReg k 0)) 0 = true → regVal c (ethReg k 8) ≠ 0 →
        uPCIE + 1 + k ∉ c.flushing → leaves (.ethFrameReceived k 0 ret data) s (fun t =>
        (Config.optE = true → t.out = c.out ++ [.datagram k ret (leBytes 6 (macNat k))] ∧ KeepsWork c t ∧
          OnlyRegs [ethReg k 0x14] c t) ∧
        (Config.optE = false → t = c)) ∧
        leaves (.ethFrameReceived k 1 ret data) s (fun t =>
          (Config.optE = true → bit (regVal c (ethReg k 0)) 3 = true → t.out = c.out ++ [.datagram k ret data] ∧ KeepsWork c t ∧
            OnlyRegs [ethReg k 0x14] c t) ∧
          (Config.optE = true → bit (regVal c (ethReg k 0)) 3 = false → t = ethDrop c k)) ∧
        leaves (.ethFrameReceived k 3 ret data) s (fun t => (Config.optE = true → t = ethDrop c k) ∧ (Config.optE = false → t = c)) ∧
        (data.length ≠ 16 + fieldAt data 6 2 + 44 → leaves (.ethFrameReceived k 2 ret data) s (fun t =>
          Config.optE = true → t.out = c.out ∧ t.queues = c.queues ∧ KeepsWork c t ∧ OnlyRegs [ethReg k 0x14, ethReg k 0x18] c t ∧
            ((regVal c (ethReg k 0x18)).toNat < 0xFFFFFFFF → regVal t (ethReg k 0x18) = regVal c (ethReg k 0x18) + 1))))) ∧
    (bit (regVal c 0x6000302C) 0 = true → onPll c = true → bit (regVal c (ethReg (bits c.ptp.ctl 1 1) 4)) 0 = true →
      regVal c (ethReg (bits c.ptp.ctl 1 1) 8) ≠ 0 → uPCIE + 1 + bits c.ptp.ctl 1 1 ∉ c.flushing →
      (∀ ofs dly rate sfd, (sgn ofs).natAbs ≤ 1000 → bit (regVal c 0x60003024) 0 = true → (sgn rate).natAbs ≤ 549755814 →
        leaves (.ptpMessage 9 true ofs dly rate 0 ⟨[], 1, sfd⟩) s (fun t =>
          (Config.optE = true → t.ptp.rxStamp =
              (if bits (regVal c (ethReg (bits c.ptp.ctl 1 1) 4)) 2 1 = 3 then sfd - bits (regVal c 0x6000303C) 15 0 else sfd) ∧
            bits (regVal t 0x60003030) 3 0 = 9 ∧ regVal t 0x60003034 = ofs ∧ regVal t 0x60003038 = dly ∧
            regVal t 0x60003018 = rate ∧
            regVal t (ethReg (bits c.ptp.ctl 1 1) 0x14) = regVal c (ethReg (bits c.ptp.ctl 1 1) 0x14) + 1 ∧ t.ptp.good = Nat.min 16 (c.ptp.good + 1) ∧
            bit (regVal t 0x60003030) 4 = decide (15 ≤ c.ptp.good) ∧ t.tb = c.tb ∧ KeepsWork c t) ∧
          (Config.optE = false → t = c))) ∧
      ∀ sfd, leaves (.ptpMessageInterval 4 ⟨[], 2, sfd⟩) s (fun t =>
        (Config.optE = true → t.ptp.txStamp =
            (if bits (regVal c (ethReg (bits c.ptp.ctl 1 1) 4)) 2 1 = 3 then sfd + bits (regVal c 0x6000303C) 31 16 else sfd) ∧
          bits (regVal t 0x60003030) 3 0 = 4 ∧ bit (regVal t 0x60003030) 4 = false ∧ KeepsWork c t) ∧
        (Config.optE = false → t = c))) ∧
    (∀ w : Word, bit w 1 = true → bit w 0 = false →
      (stepBarred c = false → 0 ≤ (c.tb : Int) + tbOfs c → leaves (.timeBaseStep w) s (fun t =>
        (t.tb : Int) = c.tb + tbOfs c ∧ (srcOf t 978).pulseBusy = true ∧ KeepsWork c t)) ∧
      (stepBarred c = true → leaves (.timeBaseStep w) s (fun t =>
        t.tb = c.tb ∧ bit (regVal t 0x60003028) 0 = true ∧ (srcOf t 978).pulseBusy = true ∧ KeepsWork c t))) ∧
    leaves .tbloRead s (fun t => t.out = c.out ++ [.read 0x60003010 (wd c.tb)] ∧ regVal t 0x60003014 = wd (c.tb / 2 ^ 32) ∧
      KeepsWork c t ∧ OnlyRegs [0x60003014] c t)

/-- Command queues (R521, R524, R526, R528, R530, R533, R538): a ring enabled starts empty with its SEQ afresh; CDB moves the tail,
and an entry beyond the ring is refused; a read of RPOP pops a reply word, or gives NOT_READY; the next command in turn is
read, its SEQ checked, and it is in hand where it passes the checks, answered where it does not.
Model reading: log entry 67. -/
def Obligations.CommandQueues : Prop :=
  ∀ (s : State) (q : Nat), q < 4 → s.chip.sys.per = true →
    let c := s.chip
    (∀ w : Word, queueEn c q = false → bit w 4 = true → 2 ≤ bits w 3 0 → bits w 3 0 ≤ 12 → leaves (.cctlEnable q w) s (fun t =>
      queueOf t q = { (queueOf c q) with head := 0, tail := 0, expect := none } ∧ queueEn t q = true ∧
      bits (regVal t (rCMD q 8)) 3 0 = bits w 3 0 ∧ KeepsWork c t ∧ OnlyRegs [rCMD q 8] c t)) ∧
    (∀ w : Word, queueEn c q = true →
      (bits w 15 0 < 2 ^ regFld c (rCMD q 8) 3 0 → leaves (.commandDoorbell q w) s (fun t =>
        queueOf t q = { (queueOf c q) with tail := bits w 15 0 } ∧ KeepsWork c t ∧ OnlyRegs [] c t)) ∧
      (2 ^ regFld c (rCMD q 8) 3 0 ≤ bits w 15 0 → leaves (.commandDoorbell q w) s (fun t =>
        (queueOf t q).tail = 0 ∧ bit (regVal t (rCMD 0 8)) 15 = true ∧ KeepsWork c t))) ∧
    leaves (.rpopRead q) s (fun t => t.out = c.out ++ [.read (rCMD q 0x10) ((queueOf c q).replies.headD 0xFF)] ∧
      queueOf t q = { (queueOf c q) with replies := (queueOf c q).replies.drop 1 } ∧ KeepsWork c t ∧ OnlyRegs [] c t) ∧
    (∀ hdr pay raddr, canTake c = true → nextQueue c = some q →
      let p := packetOf q hdr pay raddr 0 0
      let taken := ((queueOf c q).head + 1) % 2 ^ regFld c (rCMD q 8) 3 0
      leaves (.commandTake hdr pay raddr true) s (fun t =>
        bit (regVal t (rCMD q 8)) 8 = true ∧ queueEn t q = false ∧ t.cur = none ∧ t.queues = c.queues ∧ KeepsWork c t) ∧
      ((queueOf c q).expect.getD p.seq = p.seq → chkCommand c p = none → leaves (.commandTake hdr pay raddr false) s (fun t =>
        t.cur = some p ∧ (queueOf t q).head = taken ∧ (queueOf t q).expect = some ((p.seq + 1) % 65536) ∧ t.lastQueue = q ∧
        KeepsWork c t ∧ OnlyRegs [] c t)) ∧
      (∀ st, (queueOf c q).expect.getD p.seq = p.seq → chkCommand c p = some st →
        leaves (.commandTake hdr pay raddr false) s (fun t =>
          Answers c t p st ∧ (queueOf t q).head = taken ∧ (queueOf t q).expect = some ((p.seq + 1) % 65536) ∧ KeepsWork c t)) ∧
      (∀ e, (queueOf c q).expect = some e → p.seq ≠ e → leaves (.commandTake hdr pay raddr false) s (fun t =>
        Answers c t p stPARAM ∧ (queueOf t q).head = taken ∧ (queueOf t q).expect = some e ∧ KeepsWork c t)))

/-- Commands of the device, of power and of courses (R233, R234, R362, R368, R521, R542 to R549, R657, R726): NOP,
IDENT and DEV_STAT answer with their data; a command that no longer passes the checks is answered with their status;
CONFIGURE, HALT and RESUME change the device state; RECOVER leaves FAULTED for STANDBY; DETACH begins an ordered
detach; POWER_MODE begins the entry handshake; ISLAND and DOMAIN switch on; COURSE starts, halts, resumes and resets;
HANDOVER and TUNER_TEST begin. Model readings and choices: log entries 67, 68, 71, 73, 105. -/
def Obligations.StateCommands : Prop :=
  ∀ (s : State) (p : Packet),
    let c := s.chip
    let r := replyTo p
    (InHand c p 0x01 → leaves .nopCommand s (fun t => t = reply (emptied c) r stOK 0)) ∧
    (∀ st, c.cur = some p → p.opcode = 0x01 → chkCommand c p = some st →
      leaves .nopCommand s (fun t => t = reply (emptied c) r st 0)) ∧
    (InHand c p 0x02 → leaves .ident s (fun t => t = replyData (emptied c) r (identRecord c))) ∧
    (InHand c p 0x03 → leaves .devStat s (fun t => t = replyData (emptied c) r
      ([devCode c.dev, attachCode c.sys.attach, bits (regVal c 0x60000000) 15 8, bits (regVal c 0x60000000) 23 16,
          islMask c .on, islMask c .ret, 0, 0].map (BitVec.ofNat 8) ++
        bytesOf [regVal c 0x60000034, regVal c 0x60000038]))) ∧
    (InHand c p 0x04 →
      (bit p.p2 0 = true → c.dev = .standby → onPll c = true → leaves .configure s (fun t =>
        t.dev = .configured ∧ Answers c t p stOK ∧ KeepsWork c t)) ∧
      (bit p.p2 0 = true → c.dev = .standby → onPll c = false → leaves .configure s (fun t =>
        t.dev = .standby ∧ Answers c t p stSTATE ∧ KeepsWork c t)) ∧
      (bit p.p2 0 = false → c.dev = .configured → islandOn c = false → openChans c = [] → leaves .configure s (fun t =>
        t.dev = .standby ∧ Answers c t p stOK ∧ KeepsWork c t))) ∧
    (InHand c p 0x05 → c.dev = .running → c.tab.arm = none → c.sys.detach = none → leaves .halt s (fun t =>
      t.dev = .halted ∧ t.tab.dueP = [] ∧ t.tab.dueT = [] ∧ t.tab.active = c.tab.active ∧ Answers c t p stOK ∧ KeepsWork c t)) ∧
    (InHand c p 0x06 → c.dev = .halted →
      (∀ b, bit p.p2 0 = false → c.tab.active = some b → leaves .resume s (fun t =>
        t.dev = .running ∧ servedH t = dronePos c (imDrone c b) ∧ t.tab.active = some b ∧ Answers c t p stOK ∧ KeepsWork c t)) ∧
      (∀ b, bit p.p2 0 = true → c.tab.active = some b → leaves .resume s (fun t =>
        t.dev = .configured ∧ t.tab.active = none ∧ bankState t b = 3 ∧ Answers c t p stOK ∧ KeepsWork c t))) ∧
    (InHand c p 0x07 → c.accepted.length < 16 → regFld c 0x60008014 7 0 ≠ 2 → regFld c 0x60008014 7 0 ≠ 5 →
      c.sys.dumpDue = false →
      leaves (.recover true) s (fun t => t.cur = none ∧ t.dev = .standby ∧ t.tab.active = none ∧ ∀ k, k < 8 → islOf t k = .off) ∧
      (regFld c 0x60008014 7 0 = 1 → c.dev = .faulted → leaves (.recover false) s (fun t =>
        t.cur = none ∧ t.dev = .faulted ∧ ∀ k, k < 8 → islOf t k = .off))) ∧
    (InHand c p 0x08 → detachLegal c = true → c.accepted.length < 16 → p.flags % 2 = 0 → c.tab.arm = none →
      leaves .detach s (fun t => t.dev = .detaching ∧ t.sys.attach = .detaching ∧ draining t = true ∧ Accepts c t p ∧
        t.tab.dueP = [])) ∧
    (InHand c p 0x09 → islandOn c = false → openChans c = [] → badWatch c = false → c.accepted.length < 16 →
      leaves .powerMode s (fun t => Accepts c t p ∧ KeepsWork c t ∧ t.dev = c.dev ∧
        t.sys.power = some ⟨2, bits p.p2 1 0, [], [], none, r, 4 + bits p.p2 1 0,
          (List.range 8).map (fun u => ⟨u, 0, 0, 0, 0⟩), [], 0, none⟩)) ∧
    (∀ k, InHand c p 0x10 → c.accepted.length < 16 → bits p.p2 9 8 = 0 → bit p.p2 10 = false →
      (List.range 8).filter (fun j => bit p.p2 j) = [k] → bit (regVal c (rISTAT k)) 16 = false →
      (islOf c k = .off → leaves .island s (fun t => islOf t k = .rising ∧ applMv t k = 600 ∧
        (∀ g ∈ pegsOfIsland k, pegOf t g = ⟨.rising, true⟩) ∧ (∀ j, j ≠ k → islOf t j = islOf c j) ∧ Accepts c t p ∧
        KeepsWork c t)) ∧
      (islOf c k = .ret → leaves .island s (fun t => islOf t k = .rising ∧ t.pegs = c.pegs ∧ Accepts c t p ∧ KeepsWork c t))) ∧
    (InHand c p 0x11 → c.accepted.length < 16 → bits p.p2 9 8 = 0 → islOf c (islandOfPeg (bits p.p2 5 0)) = .on →
      (pegOf c (bits p.p2 5 0)).st = .off → leaves .domain s (fun t =>
        pegOf t (bits p.p2 5 0) = ⟨.rising, true⟩ ∧ (∀ g, g ≠ bits p.p2 5 0 → pegOf t g = pegOf c g) ∧ Accepts c t p ∧
        KeepsWork c t)) ∧
    (∀ n, InHand c p 0x12 → namedCourses p = [n] → n < 256 → courseOn c n = true → (courseOf c n).check = 0 →
      (bits p.p2 19 16 = 4 → startable c p n = true → inUnison c n = false → bits p.p3 31 16 = 0xFFFF →
        leaves .course s (fun t => coreOf t (2 * n) = { (coreOf c (2 * n)) with pc := bits p.p3 15 0, halted := false, started := true } ∧
          (∀ j, j ≠ 2 * n → coreOf t j = coreOf c j) ∧ Answers c t p stOK ∧ t.mem = c.mem)) ∧
      (bits p.p2 19 16 = 1 → c.accepted.length < 16 → (coreOf c (2 * n)).halted = false → leaves .course s (fun t =>
        (coreOf t (2 * n)).haltReq = true ∧ (coreOf t (2 * n)).halted = false ∧ (∃ h ∈ t.sys.halts, h.todo = [n]) ∧
        Accepts c t p ∧ t.mem = c.mem)) ∧
      (bits p.p2 19 16 = 2 → (courseOf c n).safe = false → (courseOf c n).degraded = false → inUnison c n = false →
        (coreOf c (2 * n)).halted = true → (coreOf c (2 * n)).started = true → (coreOf c (2 * n)).dhalt = false →
        leaves .course s (fun t => (coreOf t (2 * n)).halted = false ∧ (coreOf t (2 * n)).pc = (coreOf c (2 * n)).pc ∧
          Answers c t p stOK ∧ t.mem = c.mem)) ∧
      (bits p.p2 19 16 = 3 → (courseOf c n).hand = none → (courseOf c n).test = none → leaves .course s (fun t =>
        (coreOf t (2 * n)).halted = true ∧ (coreOf t (2 * n + 1)).halted = true ∧ (coreOf t (2 * n)).stk = [] ∧
        (courseOf t n).safe = false ∧ Answers c t p stOK ∧ t.mem = c.mem))) ∧
    (InHand c p 0x13 → c.accepted.length < 16 → bit p.p2 8 = true →
      let n := bits p.p2 7 0
      let q := courseOf c n
      courseOn c n = true → q.hand = none → c.fixedUnison = false → q.mode = 0 → q.check = 0 → q.degraded = false →
      q.safe = false → q.tflt = false → q.badA = false → q.badB = false → leaves .handover s (fun t =>
        courseOf t n = { q with mode := 2, locked := false, hand := some ⟨true, p.p3.toNat, r, courseHalted c n⟩ } ∧
        Accepts c t p ∧ t.cores = c.cores ∧ t.mem = c.mem)) ∧
    (InHand c p 0x14 → c.accepted.length < 16 →
      let n := bits p.p2 7 0
      let q := courseOf c n
      courseOn c n = true → q.test = none → inSplit c n = true → courseHalted c n = true → leaves .tunerTest s (fun t =>
        courseOf t n = { q with check := 1, test := some r } ∧ Accepts c t p ∧ t.cores = c.cores ∧ t.mem = c.mem))

/-- Commands of memory, registers, drones, channels, the tablature, Firos nodes, keys, dumps and flash (R287, R293, R301 to R303,
R349 to R363, R550 to R556, R665, R666): what each reads it answers with, what each writes stands there and nothing else
changes; what takes time is accepted and completes later, an operation of the flash with its bytes erased or programmed.
Model readings: log entries 39, 41, 45, 59, 72, 74, 76. -/
def Obligations.ResourceCommands : Prop :=
  ∀ (s : State) (p : Packet),
    let c := s.chip
    let r := replyTo p
    (InHand c p 0x15 → c.sys.per = true → (∃ o, target none p.p2.toNat = .ret o) → p.p2.toNat % 4 = 0 → p.p3 = 4 →
      leaves .memRead s (fun t => t = replyData (emptied c) r (bytesOf [wordAt c p.p2.toNat]))) ∧
    (∀ o v, InHand c p 0x16 → c.sys.per = true → target none p.p2.toNat = .ret o → inDumpArea c o = false →
      p.payload = bytesOfWord v → leaves .memWrite s (fun t =>
        Answers c t p stOK ∧ wordAt t p.p2.toNat = v ∧
        (∀ a, ¬ (p.p2.toNat ≤ a ∧ a < p.p2.toNat + 4) → byteAt t a = byteAt c a) ∧ t.cores = c.cores ∧ OnlyRegs [] c t)) ∧
    (InHand c p 0x17 → leaves .regRead s (fun t =>
      t = reply (regRead (emptied c) p.p2.toNat).1 r stOK (regRead (emptied c) p.p2.toNat).2)) ∧
    (InHand c p 0x18 → leaves .regWrite s (fun t => t = reply (regWrite (emptied c) p.p2.toNat p.p3).1 r stOK 0)) ∧
    (InHand c p 0x19 → c.tab.active = none → c.tab.arm = none → leaves .droneSet s (fun t =>
      dronePos t (bits p.p2 3 0) = p.p3 ∧ Answers c t p stOK ∧ KeepsWork c t ∧ OnlyRegs [drnReg (bits p.p2 3 0) 4] c t)) ∧
    (∀ x, InHand c p 0x20 → freeSlot c (bits p.p2 4 0) = some x → isLinkQ (descChan p) = false → partiesFit c (descChan p) = true →
      badArea c (bits p.p2 4 0) (descChan p) = false →
      (gateOpen c (chPeg x (descChan p)) = true → leaves .chanOpen s (fun t =>
        chanOf t x = { (descChan p) with opened := true, gen := (chanOf c x).gen % 15 + 1,
                                         credit := if (descChan p).kind = 1 then chCap (descChan p) else 0 } ∧
        (∀ y, y ≠ x → chanOf t y = chanOf c y) ∧ Answers c t p stOK ∧ KeepsWork c t ∧ OnlyRegs [] c t)) ∧
      (gateOpen c (chPeg x (descChan p)) = false → leaves .chanOpen s (fun t =>
        t.chans = c.chans ∧ Answers c t p stDOMAINOFF ∧ KeepsWork c t))) ∧
    (InHand c p 0x21 → c.accepted.length < 16 →
      let x := p.handle % 4096
      let h := chanOf c x
      h.closing = none →
      (bit p.p2 0 = true → leaves .chanClose s (fun t => Accepts c t p ∧ KeepsWork c t ∧
        chanOf t x = { h with closing := some ⟨r, true, if p.p3 = 0 then 100 else p.p3.toNat⟩ })) ∧
      (bit p.p2 0 = false → isLinkQ h = false → h.recvs = [] → h.sends = [] → leaves .chanClose s (fun t => KeepsWork c t ∧
        t.cur = none ∧ (r ∉ c.accepted → t.accepted = c.accepted) ∧
        chanOf t x = { gen := h.gen, lost := sat (sat h.lost 0xFFFFFFFF + (h.depth + h.reserved)) 0xFFFFFFFF }))) ∧
    (InHand c p 0x22 →
      let x := p.handle % 4096
      (p.flags % 2 = 0 → leaves .chanStat s (fun t => t = replyData (emptied c) r (bytesOf (chImage c x)))) ∧
      (p.flags % 2 = 1 → leaves .chanStat s (fun t => chanOf t x = { (chanOf c x) with lost := 0, psn := 0, gaps := 0 } ∧
        Answers c t p stOK ∧ KeepsWork c t))) ∧
    (InHand c p 0x28 →
      let b := bits p.p2 0 0
      clearing c b = false → bankState c b ≠ 2 → bankState c b < 4 →
      (bit p.p2 1 = false → leaves .tabOpen s (fun t => bankState t b = 1 ∧ Answers c t p stOK ∧ KeepsWork c t)) ∧
      (bit p.p2 1 = true → c.accepted.length < 16 → leaves .tabOpen s (fun t =>
        bankState t b = 1 ∧ clearing t b = true ∧ Accepts c t p ∧ KeepsWork c t))) ∧
    (∀ v, InHand c p 0x29 →
      let b := bits p.p2 23 23
      let ga := tabGa b (bits p.p2 22 0)
      clearing c b = false → p.payload = bytesOfWord v → ga % 4 = 0 →
      (bankState c b = 1 → leaves .tabWrite s (fun t => wordAt t ga = v ∧ Answers c t p stOK ∧
        ∀ a, ¬ (ga ≤ a ∧ a < ga + 4) → byteAt t a = byteAt c a)) ∧
      (bankState c b ≠ 1 → leaves .tabWrite s (fun t => Answers c t p stSTATE ∧ KeepsWork c t))) ∧
    (InHand c p 0x2A →
      let b := bits p.p2 0 0
      clearing c b = false → bankState c b = 1 → c.accepted.length < 16 → leaves .tabVerify s (fun t =>
        bankState t b = 2 ∧ (if b = 0 then t.tab.verA else t.tab.verB) = some r ∧ Accepts c t p ∧ KeepsWork c t)) ∧
    (InHand c p 0x2B →
      let b := bits p.p3 0 0
      bankState c b = 3 → c.tab.arm = none → armChk c b (decide (c.dev = .running)) = none → c.accepted.length < 16 →
      bit p.p3 1 = false → leaves .tabArm s (fun t =>
        bankState t b = 4 ∧ t.dev = (if c.dev = .running then .changeover else .armed) ∧ Accepts c t p ∧ KeepsWork c t ∧
        t.tab.arm = some ⟨p.p2, camMask c b, false, b, r, decide (c.dev = .running), false⟩)) ∧
    (∀ a, InHand c p 0x2C → c.tab.arm = some a → leaves .tabCancel s (fun t =>
      t.tab.arm = none ∧ bankState t a.bank = 3 ∧ t.dev = (if a.running then .running else .configured) ∧ t.cur = none ∧
      t.accepted = c.accepted.erase a.reply ∧ KeepsWork c t)) ∧
    (InHand c p 0x2D → leaves .tabStat s (fun t => t = replyData (emptied c) r (tabImage c))) ∧
    (InHand c p 0x30 → c.accepted.length < 16 →
      let q := bits p.p2 6 0
      let l := linkOf c q
      inLink c q = true → l.lstate = 2 → bits p.p2 11 8 ≤ l.nodes → leaves .linkNode s (fun t =>
        linkOf t q = { l with mgmt := l.mgmt ++ [⟨bits p.p2 11 8, bits p.p2 23 16 + 256 * b1 (bit p.p2 7) + 65536 * p.seq, p.p3,
          false, some r⟩] } ∧ Accepts c t p ∧ KeepsWork c t)) ∧
    (c.cur = some p → p.opcode = 0x38 → c.sys.power = none → leaves .keySet s (fun t =>
      t.cur = none ∧ KeepsWork c t ∧
      (chkCommand c p = none → p.queue < 4 → keyOf t (bits p.p2 1 0) = ⟨p.payload, 0, 1⟩ ∧ Answers c t p stOK) ∧
      (Config.optE = false → t = reply (emptied c) r stOPCODE 0))) ∧
    (∀ ga len ok, InHand c p 0x40 → bits p.p2 15 0 ≠ 0 → dumpSel c (bits p.p2 15 0) = some (ga, len, ok) → p.p3.toNat < len →
      leaves .dumpRead s (fun t => t = post (emptied c) r false stOK (wd (b1 (!ok)))
        (bytesAt c (ga + p.p3.toNat) (4 * Nat.min (bits p.p2 31 16) ((len - p.p3.toNat) / 4))) p.handle true)) ∧
    (c.accepted.length < 16 → c.sys.flash = none →
      (InHand c p 0x48 → leaves .flashErase s (fun t =>
        t.sys.flash = some ⟨true, p.p2.toNat, [], r⟩ ∧ Accepts c t p ∧ KeepsWork c t)) ∧
      (InHand c p 0x49 → leaves .flashWrite s (fun t =>
        t.sys.flash = some ⟨false, p.p2.toNat, p.payload, r⟩ ∧ Accepts c t p ∧ KeepsWork c t))) ∧
    (∀ f, c.sys.flash = some f → f.addr + 0x4000 ≤ 0x10000000 →
      (f.erase = true → leaves .flashOpDone s (fun t => Completed c t f.reply stOK ∧
        (∀ a, byteAt t a = if flashGa f.addr ≤ a ∧ a < flashGa f.addr + 0x4000 then 0xFF else byteAt c a) ∧
        t.sys.flash = c.sys.flashWait.head?)) ∧
      (f.erase = false → (∀ i, i < f.bytes.length → byteAt c (flashGa f.addr + i) = 0xFF) → leaves .flashOpDone s (fun t =>
        Completed c t f.reply stOK ∧ bytesAt t (flashGa f.addr) f.bytes.length = f.bytes ∧
        ∀ a, ¬ (flashGa f.addr ≤ a ∧ a < flashGa f.addr + f.bytes.length) → byteAt t a = byteAt c a)))

/-! ### Event sources, clocks -/

/-- The event distributor (R563, R566 to R568, R571, R573, R576, R580, R582, R583, R585, R586, R588): a pulse or a level makes
its source pending, an edge that meets a source not idle is counted; a pending source that none of its set goes before is presented to
the chosen target and completes its SLEEP, or goes to the host list; EDS keeps what is legal, a reserved SENSE reads 0 and
sets CFGERR; RAISE makes an edge; DELIVER 0 and a changed group withdraw; HPOP takes the oldest delivery, and 0 of none;
HCOMPLETE ends a service or is stray; Gorene claims what it is presented, and completes it when an edge, or a level that
has ended. Model readings: log entries 83, 84. -/
def Obligations.EventSources : Prop :=
  ∀ (s : State) (x : Nat), srcValid x = true → s.chip.sys.per = true →
    let c := s.chip
    let r := srcOf c x
    (srcSense c x = 3 → r.pulseBusy = true → r.again = false → srcKind c x ≠ 3 →
      leaves (.sourceAssert x) s (fun t => KeepsWork c t ∧ OnlyRegs [0x60007004, 0x6000703C] c t ∧ srcOf t x =
        if r.st = 0 then { r with input := srcLevel c x, pulseBusy := false, st := 1, holder := 0, since := c.tb, notgt := false }
        else if r.count < 255 then { r with input := srcLevel c x, pulseBusy := false, count := r.count + 1 }
        else { r with input := srcLevel c x, pulseBusy := false, sat := true })) ∧
    (srcSense c x = 1 → r.pulseBusy = false → srcLevel c x = true → r.st = 0 → srcKind c x ≠ 3 →
      leaves (.sourceAssert x) s (fun t => (srcOf t x).st = 1 ∧ (srcOf t x).since = c.tb ∧ KeepsWork c t ∧ OnlyRegs [] c t)) ∧
    (decidable c x = true → goesBefore c x = false →
      (∀ e, srcKind c x ≠ 3 → chooseTarget c x = some e → leaves (.presentation x) s (fun t =>
        srcOf t x = { r with st := 2, holder := e, notgt := false } ∧ t.mem = c.mem ∧
        (e < 512 → targetCore c e = e → inUnison c (courseNo e) = false → (coreOf c e).rep = none →
          (coreOf c e).wait = some ⟨1, 0, 0, 0, false⟩ →
          (coreOf t e).wait = none ∧ (coreOf t e).pc = (coreOf c e).pc + 2 ∧ (coreOf t e).stk = (coreOf c e).stk))) ∧
      (srcKind c x = 3 → leaves (.presentation x) s (fun t =>
        srcOf t x = { r with st := 3, holder := 0x3FF, notgt := false } ∧
        t.hostList = c.hostList ++ [⟨x, srcPrio c x, srcTsel c x⟩] ∧ KeepsWork c t ∧ OnlyRegs [0x60007024, 0x60007040] c t))) ∧
    (∀ w : Word,
      (bits w 2 0 ≤ 5 → (bits w 9 8 = 0 → bits w 15 10 ≤ 31) → (bits w 9 8 = 1 → bits w 15 10 ≤ 3) →
        (bits w 9 8 = 2 → bits w 15 10 = 0) → leaves (.edsWrite x w) s (fun t =>
        regVal t (edsAddr x) = (w &&& 0xFFFFFFF7) ∧ KeepsWork c t ∧
        OnlyRegs [edsAddr x, 0x60007024, 0x60007028, 0x60007040] c t)) ∧
      (5 < bits w 2 0 → leaves (.edsWrite x w) s (fun t =>
        bits (regVal t (edsAddr x)) 2 0 = 0 ∧ bit (regVal t 0x60007004) 15 = true ∧ KeepsWork c t))) ∧
    (∀ w : Word, bits w 9 0 = x →
      (3 ≤ srcSense c x → r.st = 0 → srcKind c x ≠ 3 → leaves (.edgRaise w) s (fun t =>
        (srcOf t x).st = 1 ∧ (srcOf t x).since = c.tb ∧ KeepsWork c t ∧ OnlyRegs [] c t)) ∧
      (srcSense c x < 3 → leaves (.edgRaise w) s (fun t =>
        regVal t 0x60007004 = (regVal c 0x60007004 ||| 1) ∧ t.srcs = c.srcs ∧ KeepsWork c t ∧ OnlyRegs [0x60007004] c t))) ∧
    (∀ w : Word, leaves (.edgCtlWrite w) s (fun t => regVal t 0x60007000 = wd (bits w 0 0) ∧ KeepsWork c t ∧
      OnlyRegs [0x60007000, 0x60007028] c t ∧ (bit w 0 = true → t.srcs = c.srcs) ∧
      (bit w 0 = false → ∀ y, (srcOf t y).st ≠ 2))) ∧
    leaves .hpopRead s (fun t => KeepsWork c t ∧ OnlyRegs [] c t ∧ t.hostList = c.hostList.drop 1 ∧
      t.out = c.out ++ [.read 0x60007018 (match c.hostList with
        | [] => 0
        | d :: _ => wd (d.src + 65536 * d.prio + 16777216 * d.vector))]) ∧
    (∀ w : Word, w.toNat = x →
      (r.st = 3 → r.holder = 0x3FF → isLevelSense (srcSense c x) = false → r.count = 0 →
        leaves (.hcompleteWrite w) s (fun t => srcOf t x = { r with st := 0, holder := 0, sat := false, notgt := false } ∧
          KeepsWork c t ∧ OnlyRegs [] c t)) ∧
      (r.st ≠ 3 ∨ r.holder ≠ 0x3FF → regVal c 0x60007008 ≠ 0xFFFFFFFF → leaves (.hcompleteWrite w) s (fun t =>
        regVal t 0x60007008 = regVal c 0x60007008 + 1 ∧ t.srcs = c.srcs ∧ KeepsWork c t ∧ OnlyRegs [0x60007008] c t))) ∧
    (∀ k hi w, k < 32 → leaves (.groupMaskWrite k hi w) s (fun t =>
      regVal t (clReg k (if hi then 0x84 else 0x80)) = w ∧ (∀ y, (srcOf t y).st = 2 → stillFits t y = true) ∧ KeepsWork c t ∧
      OnlyRegs [clReg k (if hi then 0x84 else 0x80), 0x60007028] c t)) ∧
    (gorene c = true →
      (luthierEnded c = [] → presentedTo c 512 = [x] → r.count = 0 → leaves .luthierEventSample s (fun t =>
        (srcOf t x).st = (if isLevelSense (srcSense c x) then 3 else 0) ∧ KeepsWork c t)) ∧
      (luthierEnded c = [x] → presentedTo c 512 = [] → leaves .luthierEventSample s (fun t =>
        (srcOf t x).st = 0 ∧ KeepsWork c t ∧ OnlyRegs [] c t)))

/-- The clock domains (R589, R593 to R596, R602, R603, R606): the TCXO starts, PLLEN is set, a PLL locks, a switch begins where every
PLL is locked and none is under way and is refused otherwise with nothing changed, completes, is written by the luthier under AUTO; a source
fault falls back to the FIO with every link down, a PLL that loses lock while none is in use is no fault; a flushed crossing takes traffic again.
Model readings: log entries 65, 85. -/
def Obligations.ClockDomains : Prop :=
  ∀ s : State, s.chip.sys.per = true →
    let c := s.chip
    let ctl := regVal c 0x60002000
    let st := regVal c 0x60002004
    (∀ khz, bit st 1 = false → leaves (.tcxoStart khz) s (fun t =>
      regVal t 0x60002004 = (st ||| 2) ∧ regVal t 0x60002008 = khz.setWidth 32 ∧ KeepsWork c t ∧
      OnlyRegs [0x60002004, 0x60002008] c t)) ∧
    (∀ w : Word, bit w 1 = false → leaves (.clkPllenWrite w) s (fun t =>
      bit (regVal t 0x60002000) 0 = (bit w 0 || bit st 0) ∧ bit (regVal t 0x60002000) 2 = bit w 2 ∧
      (bit w 0 = false → bit st 0 = false → bits (regVal t 0x60002004) 5 2 = 0) ∧ KeepsWork c t ∧
      OnlyRegs [0x60002000, 0x60002004] c t)) ∧
    (∀ i, i < 4 → bit ctl 0 = true → bit st 1 = true → leaves (.pllLock i) s (fun t =>
      regVal t 0x60002004 = (st ||| wd (2 ^ (2 + i))) ∧ KeepsWork c t ∧ OnlyRegs [0x60002004] c t)) ∧
    (∀ w : Word, bit w 0 = true → bit w 1 = true → leaves (.clockSwitch w) s (fun t =>
      let begins := allLocked c = true ∧ bit st 0 = false ∧ bit st 6 = false
      regVal t 0x60002004 = (st ||| (if begins then 0x40 else 0x200)) ∧
      regVal t 0x60002000 = (if begins then wd (1 + 4 * b1 (bit w 2)) else ctl) ∧ KeepsWork c t ∧ OnlyRegs [0x60002000, 0x60002004] c t)) ∧
    (bit st 6 = true → leaves .switchComplete s (fun t =>
      bit (regVal t 0x60002004) 0 = true ∧ bit (regVal t 0x60002004) 6 = false ∧ KeepsWork c t ∧
      OnlyRegs [0x60002004, 0x60002014, 0x60003030] c t)) ∧
    (gorene c = true → bit ctl 2 = true → bit st 0 = false → bit st 6 = false →
      (bit ctl 0 = false → leaves .autoSwitch s (fun t => bit (regVal t 0x60002000) 0 = true ∧
        bit (regVal t 0x60002000) 2 = true ∧ KeepsWork c t ∧ OnlyRegs [0x60002000, 0x60002004] c t)) ∧
      (bit ctl 0 = true → allLocked c = true → leaves .autoSwitch s (fun t =>
        bit (regVal t 0x60002004) 6 = true ∧ KeepsWork c t ∧ OnlyRegs [0x60002000, 0x60002004] c t))) ∧
    (∀ i, i ≤ 4 → (if i = 4 then bit st 1 else bit st 0 && bit st (2 + i)) = true → leaves (.clockSourceFault i) s (fun t =>
      bit (regVal t 0x60002000) 0 = false ∧ (∀ b ∈ [0, 2, 3, 4, 5, 6], bit (regVal t 0x60002004) b = false) ∧
      bit (regVal t 0x60002004) 8 = true ∧ (i = 4 → bit (regVal t 0x60002004) 1 = false ∧ regVal t 0x60002008 = 0) ∧
      (∀ p, (portOf c p).mode = 1 → (linkOf t p).lstate = 0) ∧ KeepsWork c t)) ∧
    (∀ i, i < 4 → bit st 0 = false → bit st (2 + i) = true → leaves (.clockSourceFault i) s (fun t =>
      bit (regVal t 0x60002004) (2 + i) = false ∧ bit (regVal t 0x60002004) 8 = bit st 8 ∧ KeepsWork c t ∧
      OnlyRegs [0x60002004, 0x60002020 + 4 * i] c t)) ∧
    (∀ u, isCrossing u = true → leaves (.flushAck u) s (fun t => t = { c with flushing := c.flushing.filter (· ≠ u) }))
/-! ### Power, boot, removal, fatal errors -/

/-- Power (R28, R54 to R57, R238, R253, R435, R544 to R546, R613 to R617, R620 to R626, R628 to R631, R634, R637,
R638, R641): a cleared domain reads 0 and its gate opens; the port supply's limit clears every drive; the handshake's
answers defer, refuse with BUSY and the reason, or commit the entry; an island comes up with its pegs, from off or
from retention; a regulator fault switches it off, and is fatal with REGESC; a regulator steps 5 mV; temperatures are
recorded, the cap comes and goes, the shutdown switches every island off; PER is lost; watch slots, wakes, brown-out
and input voltage. Model readings and choices: log entries 86, 87, 88, 89, 91, 92, 94, 142. -/
def Obligations.PowerStates : Prop :=
  ∀ (s : State) (k : Nat), k < 8 →
    let c := s.chip
    (∀ p, p < 64 → (pegOf c p).clearing = true → c.sys.power = none →
      let cleared (a : Nat) : Prop := (∃ n ∈ coursesOfPeg p, 0x20000000 + n * 0x10000 ≤ a ∧ a < 0x20000000 + n * 0x10000 + 0x8000) ∨
        (0x10000000 + p / 2 * 0x100000 + p % 2 * 0x40000 ≤ a ∧ a < 0x10000000 + p / 2 * 0x100000 + p % 2 * 0x40000 + 0x40000)
      leaves (.memoryClearDone p) s (fun t => (pegOf t p).clearing = false ∧ (∀ a, cleared a → byteAt t a = 0) ∧
        (∀ a, ¬ cleared a → byteAt t a = byteAt c a) ∧
        (islOf c (islandOfPeg p) ≠ .on → (pegOf t p).st = (pegOf c p).st) ∧
        (islOf c (islandOfPeg p) = .on → (pegOf t p).st = .on))) ∧
    (c.sys.per = true → c.sys.psupLim = false → leaves .supplyLimit s (fun t =>
      t.sys.psupLim = true ∧ bit (regVal t 0x60001028) 0 = true ∧ KeepsWork c t ∧
      ∀ p, p < 128 → bit (regVal c (fpReg p 0)) 9 = true →
        bit (regVal t (fpReg p 0)) 9 = false ∧ (portOf t p).ilim = true ∧ bit (regVal t (fpReg p 0x14)) 11 = true)) ∧
    (c.sys.psupLim = true → leaves .supplyLimitEnd s (fun t => t.sys.psupLim = false ∧ bit (regVal t 0x60001028) 0 = false ∧
      bit (regVal t 0x60001028) 1 = true ∧ KeepsWork c t ∧ OnlyRegs [0x60001028] c t)) ∧
    (∀ pw a n, c.sys.power = some pw → pw.units = [a] → a.ans ≠ 1 →
      (∀ rs, answerOf c pw.target a.unit = .defer rs → a.ans = 0 → leaves (.handshakeAnswer a.unit n) s (fun t =>
        t = { c with sys := { c.sys with power := some { pw with units := [{ a with ans := 2, reason := rs }] } } })) ∧
      (∀ rs, answerOf c pw.target a.unit = .refuse rs → leaves (.handshakeAnswer a.unit n) s (fun t =>
        t.sys.power = none ∧ regVal t 0x60001004 = wd (pw.target + 32 + 256 * a.unit + 65536 * rs) ∧
        bit (regVal t (rISTAT (unitIsland a.unit))) 17 = true ∧ Completed c t pw.reply stBUSY ∧ t.mem = c.mem)) ∧
      (answerOf c pw.target a.unit = .accept → 5 ≤ pw.target → leaves (.handshakeAnswer a.unit n) s (fun t =>
        t.sys.perOffDue = true ∧ t.sys.power.map (fun q => q.step) = some 1 ∧ Completed c t pw.reply stOK ∧ KeepsWork c t)) ∧
      (a.ans = 2 → leaves .deferralLimit s (fun t => t.sys.power = none ∧
        regVal t 0x60001004 = wd (pw.target + 32 + 256 * a.unit + 65536 * 0x0F) ∧ Completed c t pw.reply stBUSY ∧ t.mem = c.mem))) ∧
    (islOf c k = .rising → applMv c k = goalMv c k → c.sys.power = none →
      ((∀ p ∈ pegsOfIsland k, pegOf c p = ⟨.rising, false⟩) → leaves (.islandPowerUpDone k) s (fun t =>
        islOf t k = .on ∧ (∀ p ∈ pegsOfIsland k, (pegOf t p).st = .on) ∧ t.mem = c.mem)) ∧
      ((∀ p ∈ pegsOfIsland k, (pegOf c p).st = .ret) → leaves (.retentionExitDone k) s (fun t =>
        islOf t k = .on ∧ (∀ p ∈ pegsOfIsland k, (pegOf t p).st = .on) ∧ KeepsWork c t))) ∧
    (∀ p, p < 64 → pegOf c p = ⟨.rising, false⟩ → islOf c (islandOfPeg p) = .on → c.sys.power = none →
      leaves (.retentionExitDone (0x40 + p)) s (fun t => (pegOf t p).st = .on ∧ KeepsWork c t)) ∧
    (islOf c k ≠ .off → c.sys.power = none → leaves (.regulatorFault k) s (fun t =>
      islOf t k = .off ∧ applMv t k = 0 ∧ (∀ p ∈ pegsOfIsland k, (pegOf t p).st = .off) ∧ bit (regVal t (rISTAT k)) 16 = true ∧
      (bit (regVal c 0x60008010) 1 = false → t.dev = c.dev) ∧
      (bit (regVal c 0x60008010) 1 = true → hostStates c = true → faultHandled c = false →
        t.dev = .faulted ∧ bits (regVal t 0x60008014) 7 0 = 6 ∧ regVal t 0x60008018 = wd k))) ∧
    (islLive c k = true → applMv c k ≠ goalMv c k → leaves (.voltageSlewStep k) s (fun t =>
      applMv t k = (if applMv c k < goalMv c k then Nat.min (applMv c k + 5) (goalMv c k)
        else Nat.max (applMv c k - 5) (goalMv c k)) ∧
      recMv t k = recMv c k ∧ bit (regVal t (rISTAT k)) 19 = decide (applMv t k ≠ goalMv c k) ∧ KeepsWork c t ∧
      OnlyRegs [rISLV k, rISTAT k] c t)) ∧
    (∀ (base : BitVec 16) (isl : List (BitVec 16)), c.lut = true → (∀ j, j < 8 → (isl.getD j 0).toInt ≤ 1450) →
      (base.toInt ≤ 1300 → leaves (.temperatureSample base isl) s (fun t => bits (regVal t 0x60001020) 15 0 = base.toNat ∧
        bits (regVal t (rISTAT k)) 15 0 = (isl.getD k 0).toNat ∧ t.dev = c.dev ∧ KeepsWork c t ∧
        capOn t = (if 1050 < base.toInt then true else if base.toInt < 1000 then false else capOn c))) ∧
      (1300 < base.toInt → c.dev ≠ .faulted → hostStates c = true → faultHandled c = false →
        leaves (.temperatureSample base isl) s (fun t => t.dev = .faulted ∧ islOf t k = .off ∧
          bits (regVal t 0x60008014) 7 0 = 2))) ∧
    (c.sys.perOffDue = true →
      (c.sys.power = none → leaves .perSwitchOff s (fun t => t.sys.per = false ∧ t.tb = 0 ∧ t.chans = [] ∧ t.queues = [] ∧
        (∀ j, coreOf t j = if j < 512 then { coreOf c j with bus := [] } else coreOf c j) ∧ t.courses = c.courses ∧
        t.flits = [] ∧ t.stalls = [] ∧ t.scrubs = [] ∧ (∀ a, perHeld a = true → regVal t a = regReset a) ∧
        (∀ a, perHeld a = false → regVal t a = regVal c a) ∧
        ∀ a, byteAt t a = if 0x40000000 ≤ a ∧ a < 0x41000000 then 0 else byteAt c a)) ∧
      (∀ pw, c.sys.power = some pw → c.sys.wakeHeld = none → leaves .perSwitchOff s (fun t =>
        t.sys.per = false ∧ t.lut = false ∧ t.sys.attach = .unattached ∧
        (pw.mode = 2 → t.dev = .hibernate ∧ t.cores = []) ∧
        (pw.mode ≠ 2 → t.dev = .watch ∧ t.sys.lutRet = true ∧
          ∀ j, coreOf t j = if j < 512 then { coreOf c j with bus := [] } else coreOf c j)))) ∧
    (∀ (n : Nat) (l : List (BitVec 2)), c.dev = .watch → c.sys.waking = false → c.sys.lutRet = true → n < 16 →
      (∀ j, j < 16 → j ≠ n → bit (wslot c j) 7 = false) → bit (wslot c n) 7 = true → bit (wslot c n) 12 = false →
      bits (wslot c n) 11 10 = 3 → bits c.sys.wctl 19 16 = 1 →
      ((l.getD n 0).toNat ≠ bits (wslot c n) 9 8 → leaves (.watchPeriod l) s (fun t => t.sys.waking = true ∧
        regVal t 0x60001038 = wd (2 + 16 * n + 256 * 9) ∧ regVal t 0x60001054 = wd (2 ^ n) ∧ t.dev = .watch ∧ KeepsWork c t)) ∧
      ((l.getD n 0).toNat = bits (wslot c n) 9 8 → c.sys.wtimer = 0 → leaves (.watchPeriod l) s (fun t =>
        t.sys.waking = false ∧ t.sys.debounce = 0 ∧ regVal t 0x60001054 = 0 ∧ KeepsWork c t))) ∧
    (c.dev = .watch → c.sys.waking = true → c.sys.lutRet = true → leaves .wakeFromWatch s (fun t =>
      t.dev = .standby ∧ t.lut = true ∧ t.sys.lutRet = false ∧ t.sys.waking = false ∧
      t.sys.attachReq = (c.sys.attachReq || !c.sys.rack) ∧ (c.sys.crcs = [] → regVal t 0x60001040 = 0) ∧ KeepsWork c t)) ∧
    (c.dev = .hibernate → c.sys.waking = true → leaves .wakeFromHibernate s (fun t =>
      t = { c with sys := { c.sys with waking := false, woken := true, bus := {} } })) ∧
    (c.sys.aon = true →
      leaves .brownOut s (fun t => bit (regVal t 0x60001030) 0 = true ∧ KeepsWork c t ∧
        (c.dev = .watch → c.sys.waking = false → t.sys.waking = true ∧ regVal t 0x60001038 = wd (5 + 256 * 9))) ∧
      ∀ v, leaves (.vinSample v) s (fun t => bits (regVal t 0x6000102C) 15 0 = v.toNat ∧
        bits (regVal t 0x6000102C) 31 16 = Nat.min (bits (regVal c 0x6000102C) 31 16) v.toNat ∧ KeepsWork c t ∧
        OnlyRegs [0x6000102C] c t))

/-- Insertion, boot, attach and removal (R49 to R51, R65, R66, R71, R76 to R81, R676, R678, R680 to R684, R701): the
bank charges, presence powers LUT and BOOT begins with every string at reset, the straps latch address and mode, the
slots' headers are judged, the body is copied and starts or the next slot or rescue follows, the owed erase, the end
of BOOT, PER powered; a lost contact, a lost input and an overvoltage become a removal with its record, which a failed
luthier does not write, and a further one adds its flag to a record not yet written; the record is written; the
hold-up ends; the drain ends. What SHA-256 and the signature make of an image is open, and both outcomes are stated.
Model readings and choices: log entries 78, 79, 90, 92, 95, 139. -/
def Obligations.BootAndRemoval : Prop :=
  ∀ s : State,
    let c := s.chip
    let noted (cause flags : Nat) (t : Chip) : Prop :=
      if (courseOf c luthierCourse).safe then t.sys.removal = none
      else ∃ r, t.sys.removal = some r ∧ r.cause = cause ∧ r.due = true ∧ r.flags % 16 = flags
    (c.sys.vin = false → c.sys.ovp = false → leaves .bankCharged s (fun t =>
      t = { c with sys := { c.sys with vin := true, aon := true, bus := {} } })) ∧
    (c.sys.aon = true → c.sys.vin = true → c.sys.attach = .unattached → c.lut = false → c.sys.lutRet = false → c.dev ≠ .hibernate →
      leaves .presenceDebounce s (fun t => t.lut = true ∧ t.dev = .boot ∧ t.sys.boot = .lutOn ∧ t.sys.contacts = true ∧
        t.cores = [] ∧ t.courses = [] ∧ regVal t 0x60000020 = 0x7E ∧ regVal t 0x60000024 = 0 ∧
        bits (regVal t 0x6000002C) 15 0 = (bits (regVal c 0x6000002C) 15 0 + 1) % 65536)) ∧
    (∀ slot fu, c.sys.boot = .lutOn → leaves (.strapSample slot fu) s (fun t =>
      t.sys.pegAddr = some (Config.pgrp.toNat * 32 + slot.toNat) ∧ t.sys.slot = slot.toNat ∧ t.sys.bootFu = fu ∧
      t.fixedUnison = (fu || Config.fuFuse) ∧ t.sys.boot = .strapped ∧ KeepsWork c t ∧ OnlyRegs [] c t)) ∧
    (∀ bad : BitVec 2, c.sys.boot = .strapped → leaves (.firmwareCheck bad) s (fun t =>
      fwRes t false = fwJudge c false (bad.getLsbD 0) ∧ fwRes t true = fwJudge c true (bad.getLsbD 1) ∧
      (fwHeaderOk c false = false → fwRes t false = 1) ∧ (fwHeaderOk c true = true → bad.getLsbD 1 = true → fwRes t true = 6) ∧
      (fwRes t false = 0 → fwRes t true ≠ 0 → t.sys.boot = .copying false) ∧
      (fwRes t false ≠ 0 → fwRes t true = 0 → t.sys.boot = .copying true) ∧
      (fwRes t false ≠ 0 → fwRes t true ≠ 0 → t.sys.boot = .rescue ∧ bit (regVal t 0x60000004) 0 = true) ∧ KeepsWork c t)) ∧
    (∀ b, c.sys.boot = .copying b → fwF c b 0x08 4 ≤ 458752 →
      let body := bytesAt c (flashGa (fwSlot b + 0x100)) (fwF c b 0x08 4)
      leaves .bodyCopyDone s (fun t =>
        (∀ i, i < body.length → byteAt t (0x21000000 + i) = body.getD i 0) ∧
        (Config.sha256 body = bytesAt c (flashGa (fwSlot b + 0x20)) 32 → t.sys.boot = .gorene ∧
          ∀ k, k = 512 ∨ k = 513 → (coreOf t k).pc = fwF c b 0x0C 4 ∧ (coreOf t k).halted = false) ∧
        (Config.sha256 body ≠ bytesAt c (flashGa (fwSlot b + 0x20)) 32 → fwRes t b = 2 ∧ t.cores = c.cores ∧
          t.sys.boot = if fwRes c (!b) = 0 then .copying (!b) else .rescue))) ∧
    (∀ i, c.lut = true → c.sys.boot = .gorene → c.sys.owedErase = some i → i < 2 → leaves .owedErase s (fun t =>
      t.sys.owedErase = none ∧ t.sys.boot = .gorene ∧ t.cores = c.cores ∧
      ∀ a, byteAt t a = if flashGa (recSlot (32 * i)) ≤ a ∧ a < flashGa (recSlot (32 * i + 32)) then 0xFF else byteAt c a)) ∧
    (∀ us, c.sys.boot = .gorene → c.sys.owedErase = none → leaves (.bootComplete us) s (fun t =>
      t.dev = .standby ∧ t.sys.boot = .none ∧ regVal t 0x60000030 = us ∧ t.sys.attachReq = (c.sys.attachReq || !c.sys.rack) ∧
      KeepsWork c t)) ∧
    (c.sys.attachReq = true → c.sys.attach = .unattached → c.dev = .standby → c.lut = true → c.sys.per = false →
      c.sys.owedErase = none → leaves .perPowered s (fun t => t.sys.per = true ∧ t.sys.attach = .attached ∧ t.sys.attachReq = false ∧
        regVal t 0x60002000 = (if c.sys.clkAuto then 4 else 0) ∧ KeepsWork c t)) ∧
    (∀ w : BitVec 2, c.sys.aon = true → c.sys.contacts = true → w ≠ 0 → c.dev ≠ .hibernate →
      (c.sys.attach = .attached → recordDue c = false → leaves (.presLateLoss w) s (fun t => t.sys.attach = .removed ∧
        t.sys.per = false ∧ t.sys.contacts = false ∧ (∀ k, k < 8 → islOf t k = .off) ∧ noted 1 w.toNat t)) ∧
      (c.sys.attach = .attached → recordDue c = true → leaves (.presLateLoss w) s (fun t => t.sys.contacts = false ∧
        t.sys.removal = c.sys.removal.map (fun r => { r with flags := Nat.lor r.flags w.toNat }) ∧ KeepsWork c t)) ∧
      (c.sys.attach = .unattached → leaves (.presLateLoss w) s (fun t => t.sys.contacts = false ∧ t.lut = false ∧ t.cores = []))) ∧
    (c.sys.vin = true → c.sys.attach = .attached → recordDue c = false →
      (c.sys.ovp = false → leaves .inputLoss s (fun t => t.sys.attach = .removed ∧ t.sys.per = false ∧ t.sys.vin = false ∧
        (∀ k, k < 8 → islOf t k = .off) ∧ noted 2 4 t)) ∧
      leaves .overvoltage s (fun t => t.sys.attach = .removed ∧ t.sys.per = false ∧ t.sys.vin = false ∧ t.sys.ovp = true ∧
        (∀ k, k < 8 → islOf t k = .off) ∧ noted 2 12 t)) ∧
    (∀ r, c.sys.removal = some r → r.due = true →
      let ga := flashGa (recSlot (c.sys.recSeq % 64))
      (r.cause ≠ 3 → leaves .removalRecordWritten s (fun t => t.sys.removal = none ∧ t.sys.recSeq = c.sys.recSeq + 1 ∧
        t.sys.attach = c.sys.attach ∧ t.dev = c.dev ∧ regVal t 0x60008034 = wd c.sys.recSeq ∧
        (∀ i, i < (recBytes c r).length → byteAt t (ga + i) = (recBytes c r).getD i 0) ∧
        ∀ a, ¬ (ga ≤ a ∧ a < ga + (recBytes c r).length) → byteAt t a = byteAt c a)) ∧
      (r.cause = 3 → bit (regVal c 0x60000004) 0 = false → leaves .removalRecordWritten s (fun t =>
        t.sys.removal = none ∧ t.sys.recSeq = c.sys.recSeq + 1 ∧ t.sys.attach = .unattached ∧ t.sys.detach = none ∧
        t.dev = .standby))) ∧
    (c.sys.aon = true → c.sys.vin = false → c.sys.removal = none → leaves .holdUpExhausted s (fun t =>
      t.sys.aon = false ∧ t.lut = false ∧ t.dev = .boot ∧ t.cores = [] ∧ t.courses = [] ∧ t.regs = [] ∧ t.sys.contacts = c.sys.contacts ∧
      ∀ a, byteAt t a = if 0x70000000 ≤ a then byteAt c a else 0)) ∧
    (∀ d i, c.sys.detach = some d → d.drain = true →
      (i = .drainComplete ∧ (openChans c).all (isDrained c) = true) ∨ i = .drainLimit →
      (liveCourses c = [] → leaves i s (fun t => t.sys.perOffDue = true ∧ (∀ k, k < 8 → islOf t k = .off) ∧
        t.sys.detach = some { d with drain := false, halting := false } ∧
        ∀ r, d.reply = some r → c.accepted = [r] → t.accepted = [])) ∧
      (∀ n, n ∈ liveCourses c → courseOn c n = true → (courseOf c n).degraded = false → (coreOf c (2 * n)).halted = false →
        leaves i s (fun t => t.sys.detach = some { d with drain := false, halting := true } ∧
          (coreOf t (2 * n)).haltReq = true ∧ t.islands = c.islands ∧ t.mem = c.mem)))

/-- The peg bus and single register writes (R9, R10, R69, R494, R636, R670, R688 to R691): the tokens of a frame, MARK
and the bits of ADDR, CMD, PARAM and CRC-8, give one frame. One of a good CRC that is addressed to the module is
counted and answered with its status, length and data under CRC-8; a bad one is counted and not answered, one
addressed to another module neither; a parameter a command does not take is answered PARAM, a DETACH by a failed
luthier not at all, a CMD outside the table OPCODE; STATUS and IDENT give their data; ATTACH asks for the attach,
DETACH begins an ordered detach, WAKE wakes from HIBERNATE, RESET resets every domain but AON. A write to a register
of the RET block is kept in its fields while PER is on, reaches nothing while it is off, and one without every byte
enabled is dropped. Model readings and choices: log entries 22, 92, 93, 138, 139. -/
def Obligations.PegBus : Prop :=
  ∀ s : State,
    let c := s.chip
    let sends (t : Chip) (status : Nat) (data : List Byte) : Prop :=
      let b := BitVec.ofNat 8 status :: BitVec.ofNat 8 data.length :: data
      t.out = c.out ++ [.peg ((b ++ [crc8 b]).flatMap byteToks)]
    let counted (t : Chip) : Prop :=
      bits (regVal t 0x6000003C) 15 0 = (bits (regVal c 0x6000003C) 15 0 + 1) % 65536
    let heard : Sys := { c.sys with bus := { joined := true, marked := false, bits := [] } }
    (∀ a : Byte, c.sys.aon = true → c.sys.pegAddr = some a.toNat →
      let frame (cmd param : Byte) : List PegSym := [a, cmd, param, crc8 [a, cmd, param]].flatMap byteToks
      (∀ b k p crc : Byte, let l := [b, k, p, crc].flatMap byteToks
        ∀ i ∈ [Instr.pegStatus .mark l, .pegIdent .mark l, .pegAttach .mark l, .pegDetach .mark l, .pegWake .mark l, .pegReset .mark l],
        (crc ≠ crc8 [b, k, p] → bits (regVal c 0x6000003C) 23 16 < 255 → leaves i s (fun t => t.out = c.out ∧
          bits (regVal t 0x6000003C) 23 16 = bits (regVal c 0x6000003C) 23 16 + 1 ∧ t.sys = heard ∧ KeepsWork c t ∧
          OnlyRegs [0x6000003C] c t)) ∧
        (crc = crc8 [b, k, p] → b ≠ a → leaves i s (fun t => t = { c with sys := heard })) ∧
        (crc = crc8 [b, k, p] → b = a → k = 0 ∨ 6 < k.toNat → leaves i s (fun t =>
          sends t stOPCODE [] ∧ counted t ∧ t.sys = heard ∧ KeepsWork c t ∧ OnlyRegs [0x6000003C] c t))) ∧
      (∀ p : Byte, p ≠ 0 → p ≠ 0x5A → p.toNat % 16 ≠ 0 →
        ∀ i ∈ [Instr.pegStatus .mark (frame 1 p), .pegIdent .mark (frame 2 p), .pegAttach .mark (frame 3 p), .pegDetach .mark (frame 4 p), .pegWake .mark (frame 5 p),
          .pegReset .mark (frame 6 p)],
        leaves i s (fun t => sends t stPARAM [] ∧ counted t ∧ t.sys = heard ∧ KeepsWork c t ∧ OnlyRegs [0x6000003C] c t)) ∧
      leaves (.pegStatus .mark (frame 1 0)) s (fun t => counted t ∧ t.sys = heard ∧ KeepsWork c t ∧ OnlyRegs [0x6000003C] c t ∧
        sends t stOK [BitVec.ofNat 8 (devCode c.dev), BitVec.ofNat 8 (attachCode c.sys.attach), (regVal c 0x60008014).extractLsb' 0 8,
          BitVec.ofNat 8 (b1 (bit (regVal c 0x60000004) 0) + 2 * b1 c.fixedUnison + 4 * b1 (bit (regVal c 0x60008028) 3))]) ∧
      (∀ n, n < 4 → leaves (.pegIdent .mark (frame 2 (BitVec.ofNat 8 (16 * n)))) s (fun t => counted t ∧ t.sys = heard ∧ KeepsWork c t ∧
        OnlyRegs [0x6000003C] c t ∧ sends t stOK (((identRecord c).drop (16 * n)).take 16))) ∧
      (c.dev = .standby → c.sys.attach = .unattached → leaves (.pegAttach .mark (frame 3 0)) s (fun t =>
        t.sys = { heard with attachReq := true } ∧ sends t stOK [] ∧ KeepsWork c t ∧ OnlyRegs [0x6000003C] c t)) ∧
      (c.dev = .boot ∨ c.sys.attach = .detaching ∨ c.sys.attach = .removed → c.dev ≠ .watch → c.dev ≠ .hibernate →
        leaves (.pegAttach .mark (frame 3 0)) s (fun t => t.sys = heard ∧ sends t stSTATE [] ∧ KeepsWork c t ∧ OnlyRegs [0x6000003C] c t)) ∧
      ((courseOf c luthierCourse).safe = true → leaves (.pegDetach .mark (frame 4 0)) s (fun t =>
        t.sys = heard ∧ t.out = c.out ∧ KeepsWork c t ∧ OnlyRegs [0x6000003C] c t)) ∧
      ((courseOf c luthierCourse).safe = false → stopPos c = none → (detachLegal c = true → leaves (.pegDetach .mark (frame 4 0)) s (fun t =>
          t.dev = .detaching ∧ t.sys.attach = .detaching ∧ draining t = true)) ∧
        (detachLegal c = false → leaves (.pegDetach .mark (frame 4 0)) s (fun t =>
          t.sys = heard ∧ sends t stSTATE [] ∧ KeepsWork c t ∧ OnlyRegs [0x6000003C] c t))) ∧
      (c.dev = .hibernate → c.sys.waking = false → leaves (.pegWake .mark (frame 5 0)) s (fun t => t.sys.waking = true ∧
        regVal t 0x60001038 = wd (4 + 256 * 10) ∧ sends t stOK [] ∧ KeepsWork c t)) ∧
      leaves (.pegReset .mark (frame 6 0x5A)) s (fun t => t.sys.per = false ∧ t.lut = false ∧ t.dev = .boot ∧ t.sys.attach = .unattached ∧
        t.cores = [] ∧ t.courses = [] ∧ (∀ k, k < 8 → islOf t k = .off) ∧ t.sys.pegAddr = c.sys.pegAddr)) ∧
    (∀ w : Word,
      (c.sys.per = true → leaves (.registerWrite 0x60008010 ⟨15, w⟩) s (fun t =>
        regVal t 0x60008010 = (w &&& 3) ∧ KeepsWork c t ∧ OnlyRegs [0x60008010] c t)) ∧
      (c.sys.per = true → leaves (.registerWrite 0x60001048 ⟨15, w⟩) s (fun t =>
        regVal t 0x60001048 = w ∧ KeepsWork c t ∧ OnlyRegs [0x60001048] c t)) ∧
      (∀ a be, c.sys.per = false → leaves (.registerWrite a ⟨be, w⟩) s (fun t => t = c)) ∧
      (∀ a be, be < 15 → c.sys.per = true → a < 0x400000 → a % 4 = 0 → leaves (.registerWrite (0x60000000 + a) ⟨be, w⟩) s (fun t =>
        bit (regVal t 0x60003004) 4 = true ∧ KeepsWork c t ∧ OnlyRegs [0x60003004] c t)))

/-- Fatal errors and their dump (R27, R539, R651 to R654, R660, R664, R670 to R672): a peg-ring timeout and FORCE
record their cause, enter FAULTED, clear every drive, halt every string of the courses, end every command answered
ACCEPTED but DETACH, and owe a dump; while one is handled a further one is only counted. The dump written stands in
its area and is valid; its flash copy holds the same bytes and names the other slot, whose erase leaves 0xFF. Model
readings and choices: log entries 69, 77, 137. -/
def Obligations.FatalErrors : Prop :=
  ∀ s : State,
    let c := s.chip
    let failed (cause : Nat) (detail : Word) (t : Chip) : Prop :=
      t.dev = .faulted ∧ bits (regVal t 0x60008014) 7 0 = cause ∧ regVal t 0x60008018 = detail ∧ regVal t 0x6000801C = wd c.tb ∧
      t.sys.dumpDue = true ∧ t.sys.power = none ∧ (∀ r ∈ t.accepted, r.opcode = 0x08) ∧ t.mem = c.mem ∧
      (∀ k, k < 512 → (coreOf t k).halted = true) ∧ ∀ p, p < 128 → bit (regVal t (fpReg p 0)) 9 = false
    (∀ u, isPowerUnit u = true → hostStates c = true →
      (faultHandled c = false → leaves (.pegRingTimeout u) s (failed 1 (wd u))) ∧
      (faultHandled c = true → leaves (.pegRingTimeout u) s (fun t =>
        t.dev = c.dev ∧ u ∈ t.sys.gone ∧ t.sys = { c.sys with second := true, gone := t.sys.gone } ∧ KeepsWork c t ∧
        OnlyRegs [0x60008024] c t))) ∧
    (c.sys.per = true ∨ c.lut = true → hostStates c = true →
      (faultHandled c = false → leaves .retTestForce s (failed 10 0)) ∧
      (c.dev = .faulted → leaves .retTestForce s (fun t => t = c))) ∧
    (c.sys.dumpDue = true → c.sys.removal = none → c.sys.detach = none → leaves .dumpWritten s (fun t =>
      t.sys.dumpDue = false ∧ t.sys.dumpSeq = c.sys.dumpSeq + 1 ∧ regVal t 0x6000800C = wd c.sys.dumpSeq ∧
      bits (regVal t 0x60008004) 1 0 = 1 ∧ bit (regVal t 0x60008004) 2 = bit (regVal c 0x60008000) 8 ∧
      leNat t (dumpArea c).1 4 = 0x504D5544 ∧ leNat t ((dumpArea c).1 + 0x0C) 4 = c.sys.dumpSeq % 2 ^ 32 ∧
      t.cores = c.cores ∧ t.courses = c.courses)) ∧
    (let n := (regVal c 0x60008008).toNat
     let i := regFld c 0x6000802C 0 0
     bit (regVal c 0x60008004) 2 = true → c.sys.dumpErase = none → (courseOf c luthierCourse).safe = false → n ≤ 0x100000 →
      (∀ j, j < n → byteAt c (flashGa (dumpSlot i) + j) = 0xFF) → leaves .dumpFlashCopyDone s (fun t =>
        bytesAt t (flashGa (dumpSlot i)) n = bytesAt c (dumpArea c).1 n ∧ bit (regVal t 0x60008004) 2 = false ∧
        bit (regVal t 0x60008004) 3 = true ∧ regFld t 0x6000802C 0 0 = 1 - i ∧ t.sys.dumpErase = some (1 - i))) ∧
    (∀ i, c.sys.dumpErase = some i → leaves .dumpSlotEraseDone s (fun t => t.sys.dumpErase = none ∧ t.cores = c.cores ∧
      ∀ a, byteAt t a = if flashGa (dumpSlot i) ≤ a ∧ a < flashGa (dumpSlot i + 0x100000) then 0xFF else byteAt c a))

/-! ### Memory and reset -/

/-- Every command keeps memory's one form: addresses rising, no byte listed that reads as blank; in any state, not only
those that a run reaches. The form is the model's (log entry 7). -/
def Obligations.MemoryCanonical : Prop := ∀ s t : State, step s = .next t → memOk s = true → memOk t = true

/-- Reset (R92, R124, R277, R536, R585, R700 to R709, R715, R717): the register values the reset tables give; the device in BOOT, UNATTACHED,
every domain off, every string halted with empty stacks, every channel closed, every source idle. That memory lists
nothing, and that registers without a stated reset value hold 0, are the model's choices (log entries 7 and 8). -/
def Obligations.ResetState : Prop :=
  let c := State.reset.chip
  State.reset.pending = [] ∧ memOk State.reset = true ∧ c.dev = .boot ∧ c.sys.attach = .unattached ∧ c.lut = false ∧
  c.sys.per = false ∧ c.tb = 0 ∧ regVal c 0x60000000 = 1 ∧ bits (regVal c 0x60000020) 7 0 = 0x7E ∧ regVal c 0x6000102C = 0xFFFF0000 ∧
  regVal c 0x6000103C = 0xFFFF ∧ regVal c 0x60001044 = 0x103E8 ∧ regVal c 0x60003000 = 0 ∧ regVal c 0x60005000 = 3 ∧
  regVal c 0x60007000 = 1 ∧ regVal c 0x60008000 = 0x1F0 ∧
  (∀ k, k < 8 → regVal c (0x60001060 + 4 * k) = 0x41A ∧ islOf c k = .off) ∧
  (∀ x, 1 ≤ x → x ≤ 1000 → regVal c (edsAddr x) = 0x210 ∧ (srcOf c x).st = 0) ∧
  (∀ p, p < 128 → regVal c (fpReg p 0x10) = 0xF00 ∧ regVal c (fpReg p 0) = 0) ∧
  (∀ k, k < 32 → regVal c (clReg k 0) = 0x103 ∧ regVal c (clReg k 0x10) = 0x1000) ∧
  (∀ k, k < 514 → (coreOf c k).halted = true ∧ (coreOf c k).stk = [] ∧ (coreOf c k).rsDepth = 0 ∧ (coreOf c k).pc = 0 ∧
    csrVal c k 0x01 = 0) ∧
  (∀ n, n < 4096 → (chanOf c n).opened = false)
end

