-- ==== Sys2Proof/Laws/Table.lean ====
section
/-! SUPPORT. The laws of sparse tables and of memory: what a read after a write gives, and that every operation keeps
memory's canonical form. -/

namespace Sys2Proof.Machine

open Sys2Proof

/-! ### Reads after writes -/

theorem Tbl.get_del_same {α : Type} (d : α) (t : Tbl α) (k : Nat) : Tbl.get d (Tbl.del t k) k = d := by
  induction t with
  | nil => rfl
  | cons e t ih =>
    obtain ⟨j, v⟩ := e
    by_cases h : j = k
    · simpa [Tbl.del, h] using ih
    · simpa [Tbl.del, Tbl.get, h] using ih

theorem Tbl.get_del_other {α : Type} (d : α) (t : Tbl α) {k j : Nat} (h : j ≠ k) :
    Tbl.get d (Tbl.del t k) j = Tbl.get d t j := by
  induction t with
  | nil => rfl
  | cons e t ih =>
    obtain ⟨i, v⟩ := e
    by_cases hi : i = k
    · subst hi
      simpa [Tbl.del, Tbl.get, Ne.symm h] using ih
    · by_cases hj : i = j
      · simp [Tbl.del, Tbl.get, hj, h]
      · simpa [Tbl.del, Tbl.get, hi, hj] using ih

theorem Tbl.get_ins_same {α : Type} (d : α) (t : Tbl α) (k : Nat) (x : α) : Tbl.get d (Tbl.ins t k x) k = x := by
  induction t with
  | nil => simp [Tbl.ins, Tbl.get]
  | cons e t ih =>
    obtain ⟨j, v⟩ := e
    simp only [Tbl.ins]
    split
    · simp [Tbl.get]
    · split
      · simp [Tbl.get]
      · rename_i h; simpa [Tbl.get, Ne.symm h] using ih

theorem Tbl.get_ins_other {α : Type} (d : α) (t : Tbl α) {k j : Nat} (x : α) (h : j ≠ k) :
    Tbl.get d (Tbl.ins t k x) j = Tbl.get d t j := by
  induction t with
  | nil => simp [Tbl.ins, Tbl.get, Ne.symm h]
  | cons e t ih =>
    obtain ⟨i, v⟩ := e
    simp only [Tbl.ins]
    split
    · simp [Tbl.get, Ne.symm h]
    · split
      · rename_i hk; subst hk; simp [Tbl.get, Ne.symm h]
      · by_cases hj : i = j
        · simp [Tbl.get, hj]
        · simpa [Tbl.get, hj] using ih

/-- What a write leaves at its own key. -/
@[simp] theorem Tbl.get_put_same {α : Type} [DecidableEq α] (d : α) (t : Tbl α) (k : Nat) (x : α) :
    Tbl.get d (Tbl.put d t k x) k = x := by
  unfold Tbl.put
  split
  · rename_i h; rw [Tbl.get_del_same, h]
  · exact Tbl.get_ins_same d t k x

/-- What a write leaves at every other key, whose default may be another one. -/
theorem Tbl.get_put_apart {α : Type} [DecidableEq α] (d e : α) (t : Tbl α) {k j : Nat} (x : α) (h : j ≠ k) :
    Tbl.get e (Tbl.put d t k x) j = Tbl.get e t j := by
  unfold Tbl.put
  split
  · exact Tbl.get_del_other e t h
  · exact Tbl.get_ins_other e t x h

/-- What a write leaves at every other key. -/
theorem Tbl.get_put_other {α : Type} [DecidableEq α] (d : α) (t : Tbl α) {k j : Nat} (x : α) (h : j ≠ k) :
    Tbl.get d (Tbl.put d t k x) j = Tbl.get d t j := Tbl.get_put_apart d d t x h

/-- A write and a read at any two keys. -/
theorem Tbl.get_put {α : Type} [DecidableEq α] (d : α) (t : Tbl α) (k j : Nat) (x : α) :
    Tbl.get d (Tbl.put d t k x) j = if j = k then x else Tbl.get d t j := by
  split
  · rename_i h; subst h; simp
  · rename_i h; exact Tbl.get_put_other d t x h

/-! ### Memory -/

theorem Memory.read_eq_get (m : List Host.Cell) (a : Nat) : Memory.read m a = Tbl.get (memBlank a) m a := by
  induction m with
  | nil => rfl
  | cons e t ih => obtain ⟨j, v⟩ := e; simp [Memory.read, Tbl.get, ih]

/-- A byte reads as what was last written. -/
@[simp] theorem Memory.read_write_same (m : List Host.Cell) (a : Nat) (v : Byte) :
    Memory.read (Memory.write m a v) a = v := by
  rw [Memory.read_eq_get]; exact Tbl.get_put_same (memBlank a) m a v

theorem Memory.read_del_other (m : List Host.Cell) {a b : Nat} (h : b ≠ a) :
    Memory.read (Tbl.del m a) b = Memory.read m b := by
  rw [Memory.read_eq_get, Memory.read_eq_get]; exact Tbl.get_del_other (memBlank b) m h

/-- A write leaves every other byte. -/
theorem Memory.read_write_other (m : List Host.Cell) {a b : Nat} (v : Byte) (h : b ≠ a) :
    Memory.read (Memory.write m a v) b = Memory.read m b := by
  unfold Memory.write Tbl.put
  split
  · exact Memory.read_del_other m h
  · rw [Memory.read_eq_get, Memory.read_eq_get]; exact Tbl.get_ins_other (memBlank b) m v h

/-! ### The canonical form -/

theorem Memory.okFrom_mono {n k : Nat} {m : List Host.Cell} (h : Memory.okFrom k m = true) (hk : n ≤ k) :
    Memory.okFrom n m = true := by
  cases m with
  | nil => rfl
  | cons e t =>
    obtain ⟨j, v⟩ := e
    simp only [Memory.okFrom, Bool.and_eq_true, decide_eq_true_eq] at h ⊢
    exact ⟨⟨by omega, h.1.2⟩, h.2⟩

theorem Memory.okFrom_del {n : Nat} {m : List Host.Cell} (a : Nat) (h : Memory.okFrom n m = true) :
    Memory.okFrom n (Tbl.del m a) = true := by
  induction m generalizing n with
  | nil => rfl
  | cons e t ih =>
    obtain ⟨j, v⟩ := e
    simp only [Memory.okFrom, Bool.and_eq_true, decide_eq_true_eq] at h
    simp only [Tbl.del]
    split
    · exact Memory.okFrom_mono (ih h.2) (by omega)
    · simp only [Memory.okFrom, Bool.and_eq_true, decide_eq_true_eq]
      exact ⟨h.1, ih h.2⟩

theorem Memory.okFrom_ins {n a : Nat} {v : Byte} {m : List Host.Cell} (h : Memory.okFrom n m = true) (hn : n ≤ a)
    (hv : v ≠ memBlank a) : Memory.okFrom n (Tbl.ins m a v) = true := by
  induction m generalizing n with
  | nil => simp [Tbl.ins, Memory.okFrom, hn, hv]
  | cons e t ih =>
    obtain ⟨j, w⟩ := e
    simp only [Memory.okFrom, Bool.and_eq_true, decide_eq_true_eq] at h
    simp only [Tbl.ins]
    split
    · simp only [Memory.okFrom, Bool.and_eq_true, decide_eq_true_eq]
      exact ⟨⟨hn, hv⟩, ⟨by omega, h.1.2⟩, h.2⟩
    · split
      · rename_i hj
        simp only [Memory.okFrom, Bool.and_eq_true, decide_eq_true_eq]
        exact ⟨⟨hn, hv⟩, by rw [hj]; exact h.2⟩
      · simp only [Memory.okFrom, Bool.and_eq_true, decide_eq_true_eq]
        exact ⟨h.1, ih h.2 (by omega)⟩

/-- A write keeps memory's canonical form. -/
theorem Memory.wf_write {m : List Host.Cell} (a : Nat) (v : Byte) (h : Memory.wf m = true) :
    Memory.wf (Memory.write m a v) = true := by
  unfold Memory.write Tbl.put
  split
  · exact Memory.okFrom_del a h
  · rename_i hv; exact Memory.okFrom_ins h (Nat.zero_le _) hv

theorem Memory.okFrom_filter {n : Nat} {m : List Host.Cell} (p : Host.Cell → Bool) (h : Memory.okFrom n m = true) :
    Memory.okFrom n (m.filter p) = true := by
  induction m generalizing n with
  | nil => rfl
  | cons e t ih =>
    obtain ⟨j, v⟩ := e
    simp only [Memory.okFrom, Bool.and_eq_true, decide_eq_true_eq] at h
    by_cases hp : p (j, v) = true
    · simp only [List.filter_cons, hp, if_true, Memory.okFrom, Bool.and_eq_true, decide_eq_true_eq]
      exact ⟨h.1, ih h.2⟩
    · simp only [List.filter_cons, hp]
      exact Memory.okFrom_mono (ih h.2) (by omega)

/-- Dropping cells keeps memory's canonical form. -/
theorem Memory.wf_filter {m : List Host.Cell} (p : Host.Cell → Bool) (h : Memory.wf m = true) :
    Memory.wf (m.filter p) = true := Memory.okFrom_filter p h

/-- Clearing a range keeps memory's canonical form. -/
theorem Memory.wf_clear {m : List Host.Cell} (lo hi : Nat) (h : Memory.wf m = true) :
    Memory.wf (Memory.clear m lo hi) = true := Memory.wf_filter _ h

/-- A byte of a cleared range reads as blank; every other byte keeps its value. -/
theorem Memory.read_clear (m : List Host.Cell) (lo hi a : Nat) :
    Memory.read (Memory.clear m lo hi) a = if lo ≤ a ∧ a < hi then memBlank a else Memory.read m a := by
  induction m with
  | nil => simp [Memory.clear, Memory.read]
  | cons e t ih =>
    obtain ⟨j, v⟩ := e
    unfold Memory.clear at ih ⊢
    by_cases hj : lo ≤ j ∧ j < hi
    · rw [List.filter_cons_of_neg (by simp [hj])]
      rw [ih]
      by_cases ha : lo ≤ a ∧ a < hi
      · simp [ha]
      · have : j ≠ a := by rintro rfl; exact ha hj
        simp [ha, Memory.read, this]
    · rw [List.filter_cons_of_pos (by simp only [Bool.not_eq_true', Bool.and_eq_false_iff, decide_eq_false_iff_not]; omega)]
      by_cases hja : j = a
      · subst hja; simp [Memory.read, hj]
      · simp only [Memory.read, hja, if_false]; exact ih

/-! ### The memory operations of the device keep the canonical form -/

theorem wf_putByte {c : Chip} (a : Nat) (v : Byte) (h : Memory.wf c.mem = true) : Memory.wf (putByte c a v).mem = true :=
  Memory.wf_write a v h

theorem wf_putLe {c : Chip} (a n v : Nat) (h : Memory.wf c.mem = true) : Memory.wf (putLe c a n v).mem = true := by
  induction n generalizing c a v with
  | zero => exact h
  | succ n ih => exact ih _ _ (wf_putByte a _ h)

theorem wf_putWord {c : Chip} (a : Nat) (w : Word) (h : Memory.wf c.mem = true) : Memory.wf (putWord c a w).mem = true :=
  wf_putLe a 4 w.toNat h

theorem wf_putBytes {c : Chip} (a : Nat) (l : List Byte) (h : Memory.wf c.mem = true) :
    Memory.wf (putBytes c a l).mem = true := by
  induction l generalizing c a with
  | nil => exact h
  | cons b t ih => exact ih _ (wf_putByte a b h)

theorem wf_clearRange {c : Chip} (lo hi : Nat) (h : Memory.wf c.mem = true) :
    Memory.wf (clearRange c lo hi).mem = true := Memory.wf_clear lo hi h

end Sys2Proof.Machine
end

