-- ==== Sys2Proof/Laws/State.lean ====
section
/-! SUPPORT. One lemma per field per update of the device's state, and per unit: what an update of one unit leaves to be
read of it and of every other. -/

namespace Sys2Proof.Machine

open Sys2Proof

variable (c : Chip)

/-! ### Fields an update leaves -/

@[simp] theorem updCore_mem (k : Nat) (f : Core → Core) : (updCore c k f).mem = c.mem := rfl
@[simp] theorem updCore_poison (k : Nat) (f : Core → Core) : (updCore c k f).poison = c.poison := rfl
@[simp] theorem updCore_sbe (k : Nat) (f : Core → Core) : (updCore c k f).sbe = c.sbe := rfl
@[simp] theorem updCore_regs (k : Nat) (f : Core → Core) : (updCore c k f).regs = c.regs := rfl
@[simp] theorem updCore_tb (k : Nat) (f : Core → Core) : (updCore c k f).tb = c.tb := rfl
@[simp] theorem updCore_frac (k : Nat) (f : Core → Core) : (updCore c k f).frac = c.frac := rfl
@[simp] theorem updCore_free (k : Nat) (f : Core → Core) : (updCore c k f).free = c.free := rfl
@[simp] theorem updCore_out (k : Nat) (f : Core → Core) : (updCore c k f).out = c.out := rfl
@[simp] theorem updCore_courses (k : Nat) (f : Core → Core) : (updCore c k f).courses = c.courses := rfl
@[simp] theorem updCore_memResv (k : Nat) (f : Core → Core) : (updCore c k f).memResv = c.memResv := rfl
@[simp] theorem updCore_chans (k : Nat) (f : Core → Core) : (updCore c k f).chans = c.chans := rfl
@[simp] theorem updCore_cams (k : Nat) (f : Core → Core) : (updCore c k f).cams = c.cams := rfl
@[simp] theorem updCore_tab (k : Nat) (f : Core → Core) : (updCore c k f).tab = c.tab := rfl
@[simp] theorem updCore_ports (k : Nat) (f : Core → Core) : (updCore c k f).ports = c.ports := rfl
@[simp] theorem updCore_links (k : Nat) (f : Core → Core) : (updCore c k f).links = c.links := rfl
@[simp] theorem updCore_drones (k : Nat) (f : Core → Core) : (updCore c k f).drones = c.drones := rfl
@[simp] theorem updCore_stopped (k : Nat) (f : Core → Core) : (updCore c k f).stopped = c.stopped := rfl
@[simp] theorem updCore_banks (k : Nat) (f : Core → Core) : (updCore c k f).banks = c.banks := rfl
@[simp] theorem updCore_scrubs (k : Nat) (f : Core → Core) : (updCore c k f).scrubs = c.scrubs := rfl
@[simp] theorem updCore_flits (k : Nat) (f : Core → Core) : (updCore c k f).flits = c.flits := rfl
@[simp] theorem updCore_stalls (k : Nat) (f : Core → Core) : (updCore c k f).stalls = c.stalls := rfl
@[simp] theorem updCore_pegs (k : Nat) (f : Core → Core) : (updCore c k f).pegs = c.pegs := rfl
@[simp] theorem updCore_islands (k : Nat) (f : Core → Core) : (updCore c k f).islands = c.islands := rfl
@[simp] theorem updCore_srcs (k : Nat) (f : Core → Core) : (updCore c k f).srcs = c.srcs := rfl
@[simp] theorem updCore_hostList (k : Nat) (f : Core → Core) : (updCore c k f).hostList = c.hostList := rfl
@[simp] theorem updCore_flushing (k : Nat) (f : Core → Core) : (updCore c k f).flushing = c.flushing := rfl
@[simp] theorem updCore_pcie (k : Nat) (f : Core → Core) : (updCore c k f).pcie = c.pcie := rfl
@[simp] theorem updCore_keys (k : Nat) (f : Core → Core) : (updCore c k f).keys = c.keys := rfl
@[simp] theorem updCore_ptp (k : Nat) (f : Core → Core) : (updCore c k f).ptp = c.ptp := rfl
@[simp] theorem updCore_dev (k : Nat) (f : Core → Core) : (updCore c k f).dev = c.dev := rfl
@[simp] theorem updCore_queues (k : Nat) (f : Core → Core) : (updCore c k f).queues = c.queues := rfl
@[simp] theorem updCore_accepted (k : Nat) (f : Core → Core) : (updCore c k f).accepted = c.accepted := rfl
@[simp] theorem updCore_cur (k : Nat) (f : Core → Core) : (updCore c k f).cur = c.cur := rfl
@[simp] theorem updCore_lastQueue (k : Nat) (f : Core → Core) : (updCore c k f).lastQueue = c.lastQueue := rfl
@[simp] theorem updCore_lut (k : Nat) (f : Core → Core) : (updCore c k f).lut = c.lut := rfl
@[simp] theorem updCore_fixedUnison (k : Nat) (f : Core → Core) : (updCore c k f).fixedUnison = c.fixedUnison := rfl
@[simp] theorem updCore_sys (k : Nat) (f : Core → Core) : (updCore c k f).sys = c.sys := rfl

@[simp] theorem updCourse_mem (k : Nat) (f : Course → Course) : (updCourse c k f).mem = c.mem := rfl
@[simp] theorem updCourse_poison (k : Nat) (f : Course → Course) : (updCourse c k f).poison = c.poison := rfl
@[simp] theorem updCourse_sbe (k : Nat) (f : Course → Course) : (updCourse c k f).sbe = c.sbe := rfl
@[simp] theorem updCourse_regs (k : Nat) (f : Course → Course) : (updCourse c k f).regs = c.regs := rfl
@[simp] theorem updCourse_tb (k : Nat) (f : Course → Course) : (updCourse c k f).tb = c.tb := rfl
@[simp] theorem updCourse_frac (k : Nat) (f : Course → Course) : (updCourse c k f).frac = c.frac := rfl
@[simp] theorem updCourse_free (k : Nat) (f : Course → Course) : (updCourse c k f).free = c.free := rfl
@[simp] theorem updCourse_out (k : Nat) (f : Course → Course) : (updCourse c k f).out = c.out := rfl
@[simp] theorem updCourse_cores (k : Nat) (f : Course → Course) : (updCourse c k f).cores = c.cores := rfl
@[simp] theorem updCourse_memResv (k : Nat) (f : Course → Course) : (updCourse c k f).memResv = c.memResv := rfl
@[simp] theorem updCourse_chans (k : Nat) (f : Course → Course) : (updCourse c k f).chans = c.chans := rfl
@[simp] theorem updCourse_cams (k : Nat) (f : Course → Course) : (updCourse c k f).cams = c.cams := rfl
@[simp] theorem updCourse_tab (k : Nat) (f : Course → Course) : (updCourse c k f).tab = c.tab := rfl
@[simp] theorem updCourse_ports (k : Nat) (f : Course → Course) : (updCourse c k f).ports = c.ports := rfl
@[simp] theorem updCourse_links (k : Nat) (f : Course → Course) : (updCourse c k f).links = c.links := rfl
@[simp] theorem updCourse_drones (k : Nat) (f : Course → Course) : (updCourse c k f).drones = c.drones := rfl
@[simp] theorem updCourse_stopped (k : Nat) (f : Course → Course) : (updCourse c k f).stopped = c.stopped := rfl
@[simp] theorem updCourse_banks (k : Nat) (f : Course → Course) : (updCourse c k f).banks = c.banks := rfl
@[simp] theorem updCourse_scrubs (k : Nat) (f : Course → Course) : (updCourse c k f).scrubs = c.scrubs := rfl
@[simp] theorem updCourse_flits (k : Nat) (f : Course → Course) : (updCourse c k f).flits = c.flits := rfl
@[simp] theorem updCourse_stalls (k : Nat) (f : Course → Course) : (updCourse c k f).stalls = c.stalls := rfl
@[simp] theorem updCourse_pegs (k : Nat) (f : Course → Course) : (updCourse c k f).pegs = c.pegs := rfl
@[simp] theorem updCourse_islands (k : Nat) (f : Course → Course) : (updCourse c k f).islands = c.islands := rfl
@[simp] theorem updCourse_srcs (k : Nat) (f : Course → Course) : (updCourse c k f).srcs = c.srcs := rfl
@[simp] theorem updCourse_hostList (k : Nat) (f : Course → Course) : (updCourse c k f).hostList = c.hostList := rfl
@[simp] theorem updCourse_flushing (k : Nat) (f : Course → Course) : (updCourse c k f).flushing = c.flushing := rfl
@[simp] theorem updCourse_pcie (k : Nat) (f : Course → Course) : (updCourse c k f).pcie = c.pcie := rfl
@[simp] theorem updCourse_keys (k : Nat) (f : Course → Course) : (updCourse c k f).keys = c.keys := rfl
@[simp] theorem updCourse_ptp (k : Nat) (f : Course → Course) : (updCourse c k f).ptp = c.ptp := rfl
@[simp] theorem updCourse_dev (k : Nat) (f : Course → Course) : (updCourse c k f).dev = c.dev := rfl
@[simp] theorem updCourse_queues (k : Nat) (f : Course → Course) : (updCourse c k f).queues = c.queues := rfl
@[simp] theorem updCourse_accepted (k : Nat) (f : Course → Course) : (updCourse c k f).accepted = c.accepted := rfl
@[simp] theorem updCourse_cur (k : Nat) (f : Course → Course) : (updCourse c k f).cur = c.cur := rfl
@[simp] theorem updCourse_lastQueue (k : Nat) (f : Course → Course) : (updCourse c k f).lastQueue = c.lastQueue := rfl
@[simp] theorem updCourse_lut (k : Nat) (f : Course → Course) : (updCourse c k f).lut = c.lut := rfl
@[simp] theorem updCourse_fixedUnison (k : Nat) (f : Course → Course) : (updCourse c k f).fixedUnison = c.fixedUnison := rfl
@[simp] theorem updCourse_sys (k : Nat) (f : Course → Course) : (updCourse c k f).sys = c.sys := rfl

@[simp] theorem updChan_mem (k : Nat) (f : Chan → Chan) : (updChan c k f).mem = c.mem := rfl
@[simp] theorem updChan_poison (k : Nat) (f : Chan → Chan) : (updChan c k f).poison = c.poison := rfl
@[simp] theorem updChan_sbe (k : Nat) (f : Chan → Chan) : (updChan c k f).sbe = c.sbe := rfl
@[simp] theorem updChan_regs (k : Nat) (f : Chan → Chan) : (updChan c k f).regs = c.regs := rfl
@[simp] theorem updChan_tb (k : Nat) (f : Chan → Chan) : (updChan c k f).tb = c.tb := rfl
@[simp] theorem updChan_frac (k : Nat) (f : Chan → Chan) : (updChan c k f).frac = c.frac := rfl
@[simp] theorem updChan_free (k : Nat) (f : Chan → Chan) : (updChan c k f).free = c.free := rfl
@[simp] theorem updChan_out (k : Nat) (f : Chan → Chan) : (updChan c k f).out = c.out := rfl
@[simp] theorem updChan_cores (k : Nat) (f : Chan → Chan) : (updChan c k f).cores = c.cores := rfl
@[simp] theorem updChan_courses (k : Nat) (f : Chan → Chan) : (updChan c k f).courses = c.courses := rfl
@[simp] theorem updChan_memResv (k : Nat) (f : Chan → Chan) : (updChan c k f).memResv = c.memResv := rfl
@[simp] theorem updChan_cams (k : Nat) (f : Chan → Chan) : (updChan c k f).cams = c.cams := rfl
@[simp] theorem updChan_tab (k : Nat) (f : Chan → Chan) : (updChan c k f).tab = c.tab := rfl
@[simp] theorem updChan_ports (k : Nat) (f : Chan → Chan) : (updChan c k f).ports = c.ports := rfl
@[simp] theorem updChan_links (k : Nat) (f : Chan → Chan) : (updChan c k f).links = c.links := rfl
@[simp] theorem updChan_drones (k : Nat) (f : Chan → Chan) : (updChan c k f).drones = c.drones := rfl
@[simp] theorem updChan_stopped (k : Nat) (f : Chan → Chan) : (updChan c k f).stopped = c.stopped := rfl
@[simp] theorem updChan_banks (k : Nat) (f : Chan → Chan) : (updChan c k f).banks = c.banks := rfl
@[simp] theorem updChan_scrubs (k : Nat) (f : Chan → Chan) : (updChan c k f).scrubs = c.scrubs := rfl
@[simp] theorem updChan_flits (k : Nat) (f : Chan → Chan) : (updChan c k f).flits = c.flits := rfl
@[simp] theorem updChan_stalls (k : Nat) (f : Chan → Chan) : (updChan c k f).stalls = c.stalls := rfl
@[simp] theorem updChan_pegs (k : Nat) (f : Chan → Chan) : (updChan c k f).pegs = c.pegs := rfl
@[simp] theorem updChan_islands (k : Nat) (f : Chan → Chan) : (updChan c k f).islands = c.islands := rfl
@[simp] theorem updChan_srcs (k : Nat) (f : Chan → Chan) : (updChan c k f).srcs = c.srcs := rfl
@[simp] theorem updChan_hostList (k : Nat) (f : Chan → Chan) : (updChan c k f).hostList = c.hostList := rfl
@[simp] theorem updChan_flushing (k : Nat) (f : Chan → Chan) : (updChan c k f).flushing = c.flushing := rfl
@[simp] theorem updChan_pcie (k : Nat) (f : Chan → Chan) : (updChan c k f).pcie = c.pcie := rfl
@[simp] theorem updChan_keys (k : Nat) (f : Chan → Chan) : (updChan c k f).keys = c.keys := rfl
@[simp] theorem updChan_ptp (k : Nat) (f : Chan → Chan) : (updChan c k f).ptp = c.ptp := rfl
@[simp] theorem updChan_dev (k : Nat) (f : Chan → Chan) : (updChan c k f).dev = c.dev := rfl
@[simp] theorem updChan_queues (k : Nat) (f : Chan → Chan) : (updChan c k f).queues = c.queues := rfl
@[simp] theorem updChan_accepted (k : Nat) (f : Chan → Chan) : (updChan c k f).accepted = c.accepted := rfl
@[simp] theorem updChan_cur (k : Nat) (f : Chan → Chan) : (updChan c k f).cur = c.cur := rfl
@[simp] theorem updChan_lastQueue (k : Nat) (f : Chan → Chan) : (updChan c k f).lastQueue = c.lastQueue := rfl
@[simp] theorem updChan_lut (k : Nat) (f : Chan → Chan) : (updChan c k f).lut = c.lut := rfl
@[simp] theorem updChan_fixedUnison (k : Nat) (f : Chan → Chan) : (updChan c k f).fixedUnison = c.fixedUnison := rfl
@[simp] theorem updChan_sys (k : Nat) (f : Chan → Chan) : (updChan c k f).sys = c.sys := rfl

@[simp] theorem updPort_mem (k : Nat) (f : Port → Port) : (updPort c k f).mem = c.mem := rfl
@[simp] theorem updPort_poison (k : Nat) (f : Port → Port) : (updPort c k f).poison = c.poison := rfl
@[simp] theorem updPort_sbe (k : Nat) (f : Port → Port) : (updPort c k f).sbe = c.sbe := rfl
@[simp] theorem updPort_regs (k : Nat) (f : Port → Port) : (updPort c k f).regs = c.regs := rfl
@[simp] theorem updPort_tb (k : Nat) (f : Port → Port) : (updPort c k f).tb = c.tb := rfl
@[simp] theorem updPort_frac (k : Nat) (f : Port → Port) : (updPort c k f).frac = c.frac := rfl
@[simp] theorem updPort_free (k : Nat) (f : Port → Port) : (updPort c k f).free = c.free := rfl
@[simp] theorem updPort_out (k : Nat) (f : Port → Port) : (updPort c k f).out = c.out := rfl
@[simp] theorem updPort_cores (k : Nat) (f : Port → Port) : (updPort c k f).cores = c.cores := rfl
@[simp] theorem updPort_courses (k : Nat) (f : Port → Port) : (updPort c k f).courses = c.courses := rfl
@[simp] theorem updPort_memResv (k : Nat) (f : Port → Port) : (updPort c k f).memResv = c.memResv := rfl
@[simp] theorem updPort_chans (k : Nat) (f : Port → Port) : (updPort c k f).chans = c.chans := rfl
@[simp] theorem updPort_cams (k : Nat) (f : Port → Port) : (updPort c k f).cams = c.cams := rfl
@[simp] theorem updPort_tab (k : Nat) (f : Port → Port) : (updPort c k f).tab = c.tab := rfl
@[simp] theorem updPort_links (k : Nat) (f : Port → Port) : (updPort c k f).links = c.links := rfl
@[simp] theorem updPort_drones (k : Nat) (f : Port → Port) : (updPort c k f).drones = c.drones := rfl
@[simp] theorem updPort_stopped (k : Nat) (f : Port → Port) : (updPort c k f).stopped = c.stopped := rfl
@[simp] theorem updPort_banks (k : Nat) (f : Port → Port) : (updPort c k f).banks = c.banks := rfl
@[simp] theorem updPort_scrubs (k : Nat) (f : Port → Port) : (updPort c k f).scrubs = c.scrubs := rfl
@[simp] theorem updPort_flits (k : Nat) (f : Port → Port) : (updPort c k f).flits = c.flits := rfl
@[simp] theorem updPort_stalls (k : Nat) (f : Port → Port) : (updPort c k f).stalls = c.stalls := rfl
@[simp] theorem updPort_pegs (k : Nat) (f : Port → Port) : (updPort c k f).pegs = c.pegs := rfl
@[simp] theorem updPort_islands (k : Nat) (f : Port → Port) : (updPort c k f).islands = c.islands := rfl
@[simp] theorem updPort_srcs (k : Nat) (f : Port → Port) : (updPort c k f).srcs = c.srcs := rfl
@[simp] theorem updPort_hostList (k : Nat) (f : Port → Port) : (updPort c k f).hostList = c.hostList := rfl
@[simp] theorem updPort_flushing (k : Nat) (f : Port → Port) : (updPort c k f).flushing = c.flushing := rfl
@[simp] theorem updPort_pcie (k : Nat) (f : Port → Port) : (updPort c k f).pcie = c.pcie := rfl
@[simp] theorem updPort_keys (k : Nat) (f : Port → Port) : (updPort c k f).keys = c.keys := rfl
@[simp] theorem updPort_ptp (k : Nat) (f : Port → Port) : (updPort c k f).ptp = c.ptp := rfl
@[simp] theorem updPort_dev (k : Nat) (f : Port → Port) : (updPort c k f).dev = c.dev := rfl
@[simp] theorem updPort_queues (k : Nat) (f : Port → Port) : (updPort c k f).queues = c.queues := rfl
@[simp] theorem updPort_accepted (k : Nat) (f : Port → Port) : (updPort c k f).accepted = c.accepted := rfl
@[simp] theorem updPort_cur (k : Nat) (f : Port → Port) : (updPort c k f).cur = c.cur := rfl
@[simp] theorem updPort_lastQueue (k : Nat) (f : Port → Port) : (updPort c k f).lastQueue = c.lastQueue := rfl
@[simp] theorem updPort_lut (k : Nat) (f : Port → Port) : (updPort c k f).lut = c.lut := rfl
@[simp] theorem updPort_fixedUnison (k : Nat) (f : Port → Port) : (updPort c k f).fixedUnison = c.fixedUnison := rfl
@[simp] theorem updPort_sys (k : Nat) (f : Port → Port) : (updPort c k f).sys = c.sys := rfl

@[simp] theorem updPeg_mem (k : Nat) (f : Peg → Peg) : (updPeg c k f).mem = c.mem := rfl
@[simp] theorem updPeg_poison (k : Nat) (f : Peg → Peg) : (updPeg c k f).poison = c.poison := rfl
@[simp] theorem updPeg_sbe (k : Nat) (f : Peg → Peg) : (updPeg c k f).sbe = c.sbe := rfl
@[simp] theorem updPeg_regs (k : Nat) (f : Peg → Peg) : (updPeg c k f).regs = c.regs := rfl
@[simp] theorem updPeg_tb (k : Nat) (f : Peg → Peg) : (updPeg c k f).tb = c.tb := rfl
@[simp] theorem updPeg_frac (k : Nat) (f : Peg → Peg) : (updPeg c k f).frac = c.frac := rfl
@[simp] theorem updPeg_free (k : Nat) (f : Peg → Peg) : (updPeg c k f).free = c.free := rfl
@[simp] theorem updPeg_out (k : Nat) (f : Peg → Peg) : (updPeg c k f).out = c.out := rfl
@[simp] theorem updPeg_cores (k : Nat) (f : Peg → Peg) : (updPeg c k f).cores = c.cores := rfl
@[simp] theorem updPeg_courses (k : Nat) (f : Peg → Peg) : (updPeg c k f).courses = c.courses := rfl
@[simp] theorem updPeg_memResv (k : Nat) (f : Peg → Peg) : (updPeg c k f).memResv = c.memResv := rfl
@[simp] theorem updPeg_chans (k : Nat) (f : Peg → Peg) : (updPeg c k f).chans = c.chans := rfl
@[simp] theorem updPeg_cams (k : Nat) (f : Peg → Peg) : (updPeg c k f).cams = c.cams := rfl
@[simp] theorem updPeg_tab (k : Nat) (f : Peg → Peg) : (updPeg c k f).tab = c.tab := rfl
@[simp] theorem updPeg_ports (k : Nat) (f : Peg → Peg) : (updPeg c k f).ports = c.ports := rfl
@[simp] theorem updPeg_links (k : Nat) (f : Peg → Peg) : (updPeg c k f).links = c.links := rfl
@[simp] theorem updPeg_drones (k : Nat) (f : Peg → Peg) : (updPeg c k f).drones = c.drones := rfl
@[simp] theorem updPeg_stopped (k : Nat) (f : Peg → Peg) : (updPeg c k f).stopped = c.stopped := rfl
@[simp] theorem updPeg_banks (k : Nat) (f : Peg → Peg) : (updPeg c k f).banks = c.banks := rfl
@[simp] theorem updPeg_scrubs (k : Nat) (f : Peg → Peg) : (updPeg c k f).scrubs = c.scrubs := rfl
@[simp] theorem updPeg_flits (k : Nat) (f : Peg → Peg) : (updPeg c k f).flits = c.flits := rfl
@[simp] theorem updPeg_stalls (k : Nat) (f : Peg → Peg) : (updPeg c k f).stalls = c.stalls := rfl
@[simp] theorem updPeg_islands (k : Nat) (f : Peg → Peg) : (updPeg c k f).islands = c.islands := rfl
@[simp] theorem updPeg_srcs (k : Nat) (f : Peg → Peg) : (updPeg c k f).srcs = c.srcs := rfl
@[simp] theorem updPeg_hostList (k : Nat) (f : Peg → Peg) : (updPeg c k f).hostList = c.hostList := rfl
@[simp] theorem updPeg_flushing (k : Nat) (f : Peg → Peg) : (updPeg c k f).flushing = c.flushing := rfl
@[simp] theorem updPeg_pcie (k : Nat) (f : Peg → Peg) : (updPeg c k f).pcie = c.pcie := rfl
@[simp] theorem updPeg_keys (k : Nat) (f : Peg → Peg) : (updPeg c k f).keys = c.keys := rfl
@[simp] theorem updPeg_ptp (k : Nat) (f : Peg → Peg) : (updPeg c k f).ptp = c.ptp := rfl
@[simp] theorem updPeg_dev (k : Nat) (f : Peg → Peg) : (updPeg c k f).dev = c.dev := rfl
@[simp] theorem updPeg_queues (k : Nat) (f : Peg → Peg) : (updPeg c k f).queues = c.queues := rfl
@[simp] theorem updPeg_accepted (k : Nat) (f : Peg → Peg) : (updPeg c k f).accepted = c.accepted := rfl
@[simp] theorem updPeg_cur (k : Nat) (f : Peg → Peg) : (updPeg c k f).cur = c.cur := rfl
@[simp] theorem updPeg_lastQueue (k : Nat) (f : Peg → Peg) : (updPeg c k f).lastQueue = c.lastQueue := rfl
@[simp] theorem updPeg_lut (k : Nat) (f : Peg → Peg) : (updPeg c k f).lut = c.lut := rfl
@[simp] theorem updPeg_fixedUnison (k : Nat) (f : Peg → Peg) : (updPeg c k f).fixedUnison = c.fixedUnison := rfl
@[simp] theorem updPeg_sys (k : Nat) (f : Peg → Peg) : (updPeg c k f).sys = c.sys := rfl

@[simp] theorem updSrc_mem (k : Nat) (f : Src → Src) : (updSrc c k f).mem = c.mem := rfl
@[simp] theorem updSrc_poison (k : Nat) (f : Src → Src) : (updSrc c k f).poison = c.poison := rfl
@[simp] theorem updSrc_sbe (k : Nat) (f : Src → Src) : (updSrc c k f).sbe = c.sbe := rfl
@[simp] theorem updSrc_regs (k : Nat) (f : Src → Src) : (updSrc c k f).regs = c.regs := rfl
@[simp] theorem updSrc_tb (k : Nat) (f : Src → Src) : (updSrc c k f).tb = c.tb := rfl
@[simp] theorem updSrc_frac (k : Nat) (f : Src → Src) : (updSrc c k f).frac = c.frac := rfl
@[simp] theorem updSrc_free (k : Nat) (f : Src → Src) : (updSrc c k f).free = c.free := rfl
@[simp] theorem updSrc_out (k : Nat) (f : Src → Src) : (updSrc c k f).out = c.out := rfl
@[simp] theorem updSrc_cores (k : Nat) (f : Src → Src) : (updSrc c k f).cores = c.cores := rfl
@[simp] theorem updSrc_courses (k : Nat) (f : Src → Src) : (updSrc c k f).courses = c.courses := rfl
@[simp] theorem updSrc_memResv (k : Nat) (f : Src → Src) : (updSrc c k f).memResv = c.memResv := rfl
@[simp] theorem updSrc_chans (k : Nat) (f : Src → Src) : (updSrc c k f).chans = c.chans := rfl
@[simp] theorem updSrc_cams (k : Nat) (f : Src → Src) : (updSrc c k f).cams = c.cams := rfl
@[simp] theorem updSrc_tab (k : Nat) (f : Src → Src) : (updSrc c k f).tab = c.tab := rfl
@[simp] theorem updSrc_ports (k : Nat) (f : Src → Src) : (updSrc c k f).ports = c.ports := rfl
@[simp] theorem updSrc_links (k : Nat) (f : Src → Src) : (updSrc c k f).links = c.links := rfl
@[simp] theorem updSrc_drones (k : Nat) (f : Src → Src) : (updSrc c k f).drones = c.drones := rfl
@[simp] theorem updSrc_stopped (k : Nat) (f : Src → Src) : (updSrc c k f).stopped = c.stopped := rfl
@[simp] theorem updSrc_banks (k : Nat) (f : Src → Src) : (updSrc c k f).banks = c.banks := rfl
@[simp] theorem updSrc_scrubs (k : Nat) (f : Src → Src) : (updSrc c k f).scrubs = c.scrubs := rfl
@[simp] theorem updSrc_flits (k : Nat) (f : Src → Src) : (updSrc c k f).flits = c.flits := rfl
@[simp] theorem updSrc_stalls (k : Nat) (f : Src → Src) : (updSrc c k f).stalls = c.stalls := rfl
@[simp] theorem updSrc_pegs (k : Nat) (f : Src → Src) : (updSrc c k f).pegs = c.pegs := rfl
@[simp] theorem updSrc_islands (k : Nat) (f : Src → Src) : (updSrc c k f).islands = c.islands := rfl
@[simp] theorem updSrc_hostList (k : Nat) (f : Src → Src) : (updSrc c k f).hostList = c.hostList := rfl
@[simp] theorem updSrc_flushing (k : Nat) (f : Src → Src) : (updSrc c k f).flushing = c.flushing := rfl
@[simp] theorem updSrc_pcie (k : Nat) (f : Src → Src) : (updSrc c k f).pcie = c.pcie := rfl
@[simp] theorem updSrc_keys (k : Nat) (f : Src → Src) : (updSrc c k f).keys = c.keys := rfl
@[simp] theorem updSrc_ptp (k : Nat) (f : Src → Src) : (updSrc c k f).ptp = c.ptp := rfl
@[simp] theorem updSrc_dev (k : Nat) (f : Src → Src) : (updSrc c k f).dev = c.dev := rfl
@[simp] theorem updSrc_queues (k : Nat) (f : Src → Src) : (updSrc c k f).queues = c.queues := rfl
@[simp] theorem updSrc_accepted (k : Nat) (f : Src → Src) : (updSrc c k f).accepted = c.accepted := rfl
@[simp] theorem updSrc_cur (k : Nat) (f : Src → Src) : (updSrc c k f).cur = c.cur := rfl
@[simp] theorem updSrc_lastQueue (k : Nat) (f : Src → Src) : (updSrc c k f).lastQueue = c.lastQueue := rfl
@[simp] theorem updSrc_lut (k : Nat) (f : Src → Src) : (updSrc c k f).lut = c.lut := rfl
@[simp] theorem updSrc_fixedUnison (k : Nat) (f : Src → Src) : (updSrc c k f).fixedUnison = c.fixedUnison := rfl
@[simp] theorem updSrc_sys (k : Nat) (f : Src → Src) : (updSrc c k f).sys = c.sys := rfl

@[simp] theorem updCam_mem (k : Nat) (f : Cam → Cam) : (updCam c k f).mem = c.mem := rfl
@[simp] theorem updCam_poison (k : Nat) (f : Cam → Cam) : (updCam c k f).poison = c.poison := rfl
@[simp] theorem updCam_sbe (k : Nat) (f : Cam → Cam) : (updCam c k f).sbe = c.sbe := rfl
@[simp] theorem updCam_regs (k : Nat) (f : Cam → Cam) : (updCam c k f).regs = c.regs := rfl
@[simp] theorem updCam_tb (k : Nat) (f : Cam → Cam) : (updCam c k f).tb = c.tb := rfl
@[simp] theorem updCam_frac (k : Nat) (f : Cam → Cam) : (updCam c k f).frac = c.frac := rfl
@[simp] theorem updCam_free (k : Nat) (f : Cam → Cam) : (updCam c k f).free = c.free := rfl
@[simp] theorem updCam_out (k : Nat) (f : Cam → Cam) : (updCam c k f).out = c.out := rfl
@[simp] theorem updCam_cores (k : Nat) (f : Cam → Cam) : (updCam c k f).cores = c.cores := rfl
@[simp] theorem updCam_courses (k : Nat) (f : Cam → Cam) : (updCam c k f).courses = c.courses := rfl
@[simp] theorem updCam_memResv (k : Nat) (f : Cam → Cam) : (updCam c k f).memResv = c.memResv := rfl
@[simp] theorem updCam_chans (k : Nat) (f : Cam → Cam) : (updCam c k f).chans = c.chans := rfl
@[simp] theorem updCam_tab (k : Nat) (f : Cam → Cam) : (updCam c k f).tab = c.tab := rfl
@[simp] theorem updCam_ports (k : Nat) (f : Cam → Cam) : (updCam c k f).ports = c.ports := rfl
@[simp] theorem updCam_links (k : Nat) (f : Cam → Cam) : (updCam c k f).links = c.links := rfl
@[simp] theorem updCam_drones (k : Nat) (f : Cam → Cam) : (updCam c k f).drones = c.drones := rfl
@[simp] theorem updCam_stopped (k : Nat) (f : Cam → Cam) : (updCam c k f).stopped = c.stopped := rfl
@[simp] theorem updCam_banks (k : Nat) (f : Cam → Cam) : (updCam c k f).banks = c.banks := rfl
@[simp] theorem updCam_scrubs (k : Nat) (f : Cam → Cam) : (updCam c k f).scrubs = c.scrubs := rfl
@[simp] theorem updCam_flits (k : Nat) (f : Cam → Cam) : (updCam c k f).flits = c.flits := rfl
@[simp] theorem updCam_stalls (k : Nat) (f : Cam → Cam) : (updCam c k f).stalls = c.stalls := rfl
@[simp] theorem updCam_pegs (k : Nat) (f : Cam → Cam) : (updCam c k f).pegs = c.pegs := rfl
@[simp] theorem updCam_islands (k : Nat) (f : Cam → Cam) : (updCam c k f).islands = c.islands := rfl
@[simp] theorem updCam_srcs (k : Nat) (f : Cam → Cam) : (updCam c k f).srcs = c.srcs := rfl
@[simp] theorem updCam_hostList (k : Nat) (f : Cam → Cam) : (updCam c k f).hostList = c.hostList := rfl
@[simp] theorem updCam_flushing (k : Nat) (f : Cam → Cam) : (updCam c k f).flushing = c.flushing := rfl
@[simp] theorem updCam_pcie (k : Nat) (f : Cam → Cam) : (updCam c k f).pcie = c.pcie := rfl
@[simp] theorem updCam_keys (k : Nat) (f : Cam → Cam) : (updCam c k f).keys = c.keys := rfl
@[simp] theorem updCam_ptp (k : Nat) (f : Cam → Cam) : (updCam c k f).ptp = c.ptp := rfl
@[simp] theorem updCam_dev (k : Nat) (f : Cam → Cam) : (updCam c k f).dev = c.dev := rfl
@[simp] theorem updCam_queues (k : Nat) (f : Cam → Cam) : (updCam c k f).queues = c.queues := rfl
@[simp] theorem updCam_accepted (k : Nat) (f : Cam → Cam) : (updCam c k f).accepted = c.accepted := rfl
@[simp] theorem updCam_cur (k : Nat) (f : Cam → Cam) : (updCam c k f).cur = c.cur := rfl
@[simp] theorem updCam_lastQueue (k : Nat) (f : Cam → Cam) : (updCam c k f).lastQueue = c.lastQueue := rfl
@[simp] theorem updCam_lut (k : Nat) (f : Cam → Cam) : (updCam c k f).lut = c.lut := rfl
@[simp] theorem updCam_fixedUnison (k : Nat) (f : Cam → Cam) : (updCam c k f).fixedUnison = c.fixedUnison := rfl
@[simp] theorem updCam_sys (k : Nat) (f : Cam → Cam) : (updCam c k f).sys = c.sys := rfl

@[simp] theorem updDrone_mem (k : Nat) (f : Drone → Drone) : (updDrone c k f).mem = c.mem := rfl
@[simp] theorem updDrone_poison (k : Nat) (f : Drone → Drone) : (updDrone c k f).poison = c.poison := rfl
@[simp] theorem updDrone_sbe (k : Nat) (f : Drone → Drone) : (updDrone c k f).sbe = c.sbe := rfl
@[simp] theorem updDrone_regs (k : Nat) (f : Drone → Drone) : (updDrone c k f).regs = c.regs := rfl
@[simp] theorem updDrone_tb (k : Nat) (f : Drone → Drone) : (updDrone c k f).tb = c.tb := rfl
@[simp] theorem updDrone_frac (k : Nat) (f : Drone → Drone) : (updDrone c k f).frac = c.frac := rfl
@[simp] theorem updDrone_free (k : Nat) (f : Drone → Drone) : (updDrone c k f).free = c.free := rfl
@[simp] theorem updDrone_out (k : Nat) (f : Drone → Drone) : (updDrone c k f).out = c.out := rfl
@[simp] theorem updDrone_cores (k : Nat) (f : Drone → Drone) : (updDrone c k f).cores = c.cores := rfl
@[simp] theorem updDrone_courses (k : Nat) (f : Drone → Drone) : (updDrone c k f).courses = c.courses := rfl
@[simp] theorem updDrone_memResv (k : Nat) (f : Drone → Drone) : (updDrone c k f).memResv = c.memResv := rfl
@[simp] theorem updDrone_chans (k : Nat) (f : Drone → Drone) : (updDrone c k f).chans = c.chans := rfl
@[simp] theorem updDrone_cams (k : Nat) (f : Drone → Drone) : (updDrone c k f).cams = c.cams := rfl
@[simp] theorem updDrone_tab (k : Nat) (f : Drone → Drone) : (updDrone c k f).tab = c.tab := rfl
@[simp] theorem updDrone_ports (k : Nat) (f : Drone → Drone) : (updDrone c k f).ports = c.ports := rfl
@[simp] theorem updDrone_links (k : Nat) (f : Drone → Drone) : (updDrone c k f).links = c.links := rfl
@[simp] theorem updDrone_stopped (k : Nat) (f : Drone → Drone) : (updDrone c k f).stopped = c.stopped := rfl
@[simp] theorem updDrone_banks (k : Nat) (f : Drone → Drone) : (updDrone c k f).banks = c.banks := rfl
@[simp] theorem updDrone_scrubs (k : Nat) (f : Drone → Drone) : (updDrone c k f).scrubs = c.scrubs := rfl
@[simp] theorem updDrone_flits (k : Nat) (f : Drone → Drone) : (updDrone c k f).flits = c.flits := rfl
@[simp] theorem updDrone_stalls (k : Nat) (f : Drone → Drone) : (updDrone c k f).stalls = c.stalls := rfl
@[simp] theorem updDrone_pegs (k : Nat) (f : Drone → Drone) : (updDrone c k f).pegs = c.pegs := rfl
@[simp] theorem updDrone_islands (k : Nat) (f : Drone → Drone) : (updDrone c k f).islands = c.islands := rfl
@[simp] theorem updDrone_srcs (k : Nat) (f : Drone → Drone) : (updDrone c k f).srcs = c.srcs := rfl
@[simp] theorem updDrone_hostList (k : Nat) (f : Drone → Drone) : (updDrone c k f).hostList = c.hostList := rfl
@[simp] theorem updDrone_flushing (k : Nat) (f : Drone → Drone) : (updDrone c k f).flushing = c.flushing := rfl
@[simp] theorem updDrone_pcie (k : Nat) (f : Drone → Drone) : (updDrone c k f).pcie = c.pcie := rfl
@[simp] theorem updDrone_keys (k : Nat) (f : Drone → Drone) : (updDrone c k f).keys = c.keys := rfl
@[simp] theorem updDrone_ptp (k : Nat) (f : Drone → Drone) : (updDrone c k f).ptp = c.ptp := rfl
@[simp] theorem updDrone_dev (k : Nat) (f : Drone → Drone) : (updDrone c k f).dev = c.dev := rfl
@[simp] theorem updDrone_queues (k : Nat) (f : Drone → Drone) : (updDrone c k f).queues = c.queues := rfl
@[simp] theorem updDrone_accepted (k : Nat) (f : Drone → Drone) : (updDrone c k f).accepted = c.accepted := rfl
@[simp] theorem updDrone_cur (k : Nat) (f : Drone → Drone) : (updDrone c k f).cur = c.cur := rfl
@[simp] theorem updDrone_lastQueue (k : Nat) (f : Drone → Drone) : (updDrone c k f).lastQueue = c.lastQueue := rfl
@[simp] theorem updDrone_lut (k : Nat) (f : Drone → Drone) : (updDrone c k f).lut = c.lut := rfl
@[simp] theorem updDrone_fixedUnison (k : Nat) (f : Drone → Drone) : (updDrone c k f).fixedUnison = c.fixedUnison := rfl
@[simp] theorem updDrone_sys (k : Nat) (f : Drone → Drone) : (updDrone c k f).sys = c.sys := rfl

@[simp] theorem updLink_mem (k : Nat) (f : Link → Link) : (updLink c k f).mem = c.mem := rfl
@[simp] theorem updLink_poison (k : Nat) (f : Link → Link) : (updLink c k f).poison = c.poison := rfl
@[simp] theorem updLink_sbe (k : Nat) (f : Link → Link) : (updLink c k f).sbe = c.sbe := rfl
@[simp] theorem updLink_regs (k : Nat) (f : Link → Link) : (updLink c k f).regs = c.regs := rfl
@[simp] theorem updLink_tb (k : Nat) (f : Link → Link) : (updLink c k f).tb = c.tb := rfl
@[simp] theorem updLink_frac (k : Nat) (f : Link → Link) : (updLink c k f).frac = c.frac := rfl
@[simp] theorem updLink_free (k : Nat) (f : Link → Link) : (updLink c k f).free = c.free := rfl
@[simp] theorem updLink_out (k : Nat) (f : Link → Link) : (updLink c k f).out = c.out := rfl
@[simp] theorem updLink_cores (k : Nat) (f : Link → Link) : (updLink c k f).cores = c.cores := rfl
@[simp] theorem updLink_courses (k : Nat) (f : Link → Link) : (updLink c k f).courses = c.courses := rfl
@[simp] theorem updLink_memResv (k : Nat) (f : Link → Link) : (updLink c k f).memResv = c.memResv := rfl
@[simp] theorem updLink_chans (k : Nat) (f : Link → Link) : (updLink c k f).chans = c.chans := rfl
@[simp] theorem updLink_cams (k : Nat) (f : Link → Link) : (updLink c k f).cams = c.cams := rfl
@[simp] theorem updLink_tab (k : Nat) (f : Link → Link) : (updLink c k f).tab = c.tab := rfl
@[simp] theorem updLink_ports (k : Nat) (f : Link → Link) : (updLink c k f).ports = c.ports := rfl
@[simp] theorem updLink_drones (k : Nat) (f : Link → Link) : (updLink c k f).drones = c.drones := rfl
@[simp] theorem updLink_stopped (k : Nat) (f : Link → Link) : (updLink c k f).stopped = c.stopped := rfl
@[simp] theorem updLink_banks (k : Nat) (f : Link → Link) : (updLink c k f).banks = c.banks := rfl
@[simp] theorem updLink_scrubs (k : Nat) (f : Link → Link) : (updLink c k f).scrubs = c.scrubs := rfl
@[simp] theorem updLink_flits (k : Nat) (f : Link → Link) : (updLink c k f).flits = c.flits := rfl
@[simp] theorem updLink_stalls (k : Nat) (f : Link → Link) : (updLink c k f).stalls = c.stalls := rfl
@[simp] theorem updLink_pegs (k : Nat) (f : Link → Link) : (updLink c k f).pegs = c.pegs := rfl
@[simp] theorem updLink_islands (k : Nat) (f : Link → Link) : (updLink c k f).islands = c.islands := rfl
@[simp] theorem updLink_srcs (k : Nat) (f : Link → Link) : (updLink c k f).srcs = c.srcs := rfl
@[simp] theorem updLink_hostList (k : Nat) (f : Link → Link) : (updLink c k f).hostList = c.hostList := rfl
@[simp] theorem updLink_flushing (k : Nat) (f : Link → Link) : (updLink c k f).flushing = c.flushing := rfl
@[simp] theorem updLink_pcie (k : Nat) (f : Link → Link) : (updLink c k f).pcie = c.pcie := rfl
@[simp] theorem updLink_keys (k : Nat) (f : Link → Link) : (updLink c k f).keys = c.keys := rfl
@[simp] theorem updLink_ptp (k : Nat) (f : Link → Link) : (updLink c k f).ptp = c.ptp := rfl
@[simp] theorem updLink_dev (k : Nat) (f : Link → Link) : (updLink c k f).dev = c.dev := rfl
@[simp] theorem updLink_queues (k : Nat) (f : Link → Link) : (updLink c k f).queues = c.queues := rfl
@[simp] theorem updLink_accepted (k : Nat) (f : Link → Link) : (updLink c k f).accepted = c.accepted := rfl
@[simp] theorem updLink_cur (k : Nat) (f : Link → Link) : (updLink c k f).cur = c.cur := rfl
@[simp] theorem updLink_lastQueue (k : Nat) (f : Link → Link) : (updLink c k f).lastQueue = c.lastQueue := rfl
@[simp] theorem updLink_lut (k : Nat) (f : Link → Link) : (updLink c k f).lut = c.lut := rfl
@[simp] theorem updLink_fixedUnison (k : Nat) (f : Link → Link) : (updLink c k f).fixedUnison = c.fixedUnison := rfl
@[simp] theorem updLink_sys (k : Nat) (f : Link → Link) : (updLink c k f).sys = c.sys := rfl

@[simp] theorem updQueue_mem (k : Nat) (f : Queue → Queue) : (updQueue c k f).mem = c.mem := rfl
@[simp] theorem updQueue_poison (k : Nat) (f : Queue → Queue) : (updQueue c k f).poison = c.poison := rfl
@[simp] theorem updQueue_sbe (k : Nat) (f : Queue → Queue) : (updQueue c k f).sbe = c.sbe := rfl
@[simp] theorem updQueue_regs (k : Nat) (f : Queue → Queue) : (updQueue c k f).regs = c.regs := rfl
@[simp] theorem updQueue_tb (k : Nat) (f : Queue → Queue) : (updQueue c k f).tb = c.tb := rfl
@[simp] theorem updQueue_frac (k : Nat) (f : Queue → Queue) : (updQueue c k f).frac = c.frac := rfl
@[simp] theorem updQueue_free (k : Nat) (f : Queue → Queue) : (updQueue c k f).free = c.free := rfl
@[simp] theorem updQueue_out (k : Nat) (f : Queue → Queue) : (updQueue c k f).out = c.out := rfl
@[simp] theorem updQueue_cores (k : Nat) (f : Queue → Queue) : (updQueue c k f).cores = c.cores := rfl
@[simp] theorem updQueue_courses (k : Nat) (f : Queue → Queue) : (updQueue c k f).courses = c.courses := rfl
@[simp] theorem updQueue_memResv (k : Nat) (f : Queue → Queue) : (updQueue c k f).memResv = c.memResv := rfl
@[simp] theorem updQueue_chans (k : Nat) (f : Queue → Queue) : (updQueue c k f).chans = c.chans := rfl
@[simp] theorem updQueue_cams (k : Nat) (f : Queue → Queue) : (updQueue c k f).cams = c.cams := rfl
@[simp] theorem updQueue_tab (k : Nat) (f : Queue → Queue) : (updQueue c k f).tab = c.tab := rfl
@[simp] theorem updQueue_ports (k : Nat) (f : Queue → Queue) : (updQueue c k f).ports = c.ports := rfl
@[simp] theorem updQueue_links (k : Nat) (f : Queue → Queue) : (updQueue c k f).links = c.links := rfl
@[simp] theorem updQueue_drones (k : Nat) (f : Queue → Queue) : (updQueue c k f).drones = c.drones := rfl
@[simp] theorem updQueue_stopped (k : Nat) (f : Queue → Queue) : (updQueue c k f).stopped = c.stopped := rfl
@[simp] theorem updQueue_banks (k : Nat) (f : Queue → Queue) : (updQueue c k f).banks = c.banks := rfl
@[simp] theorem updQueue_scrubs (k : Nat) (f : Queue → Queue) : (updQueue c k f).scrubs = c.scrubs := rfl
@[simp] theorem updQueue_flits (k : Nat) (f : Queue → Queue) : (updQueue c k f).flits = c.flits := rfl
@[simp] theorem updQueue_stalls (k : Nat) (f : Queue → Queue) : (updQueue c k f).stalls = c.stalls := rfl
@[simp] theorem updQueue_pegs (k : Nat) (f : Queue → Queue) : (updQueue c k f).pegs = c.pegs := rfl
@[simp] theorem updQueue_islands (k : Nat) (f : Queue → Queue) : (updQueue c k f).islands = c.islands := rfl
@[simp] theorem updQueue_srcs (k : Nat) (f : Queue → Queue) : (updQueue c k f).srcs = c.srcs := rfl
@[simp] theorem updQueue_hostList (k : Nat) (f : Queue → Queue) : (updQueue c k f).hostList = c.hostList := rfl
@[simp] theorem updQueue_flushing (k : Nat) (f : Queue → Queue) : (updQueue c k f).flushing = c.flushing := rfl
@[simp] theorem updQueue_pcie (k : Nat) (f : Queue → Queue) : (updQueue c k f).pcie = c.pcie := rfl
@[simp] theorem updQueue_keys (k : Nat) (f : Queue → Queue) : (updQueue c k f).keys = c.keys := rfl
@[simp] theorem updQueue_ptp (k : Nat) (f : Queue → Queue) : (updQueue c k f).ptp = c.ptp := rfl
@[simp] theorem updQueue_dev (k : Nat) (f : Queue → Queue) : (updQueue c k f).dev = c.dev := rfl
@[simp] theorem updQueue_accepted (k : Nat) (f : Queue → Queue) : (updQueue c k f).accepted = c.accepted := rfl
@[simp] theorem updQueue_cur (k : Nat) (f : Queue → Queue) : (updQueue c k f).cur = c.cur := rfl
@[simp] theorem updQueue_lastQueue (k : Nat) (f : Queue → Queue) : (updQueue c k f).lastQueue = c.lastQueue := rfl
@[simp] theorem updQueue_lut (k : Nat) (f : Queue → Queue) : (updQueue c k f).lut = c.lut := rfl
@[simp] theorem updQueue_fixedUnison (k : Nat) (f : Queue → Queue) : (updQueue c k f).fixedUnison = c.fixedUnison := rfl
@[simp] theorem updQueue_sys (k : Nat) (f : Queue → Queue) : (updQueue c k f).sys = c.sys := rfl

@[simp] theorem updKey_mem (k : Nat) (f : Key → Key) : (updKey c k f).mem = c.mem := rfl
@[simp] theorem updKey_poison (k : Nat) (f : Key → Key) : (updKey c k f).poison = c.poison := rfl
@[simp] theorem updKey_sbe (k : Nat) (f : Key → Key) : (updKey c k f).sbe = c.sbe := rfl
@[simp] theorem updKey_regs (k : Nat) (f : Key → Key) : (updKey c k f).regs = c.regs := rfl
@[simp] theorem updKey_tb (k : Nat) (f : Key → Key) : (updKey c k f).tb = c.tb := rfl
@[simp] theorem updKey_frac (k : Nat) (f : Key → Key) : (updKey c k f).frac = c.frac := rfl
@[simp] theorem updKey_free (k : Nat) (f : Key → Key) : (updKey c k f).free = c.free := rfl
@[simp] theorem updKey_out (k : Nat) (f : Key → Key) : (updKey c k f).out = c.out := rfl
@[simp] theorem updKey_cores (k : Nat) (f : Key → Key) : (updKey c k f).cores = c.cores := rfl
@[simp] theorem updKey_courses (k : Nat) (f : Key → Key) : (updKey c k f).courses = c.courses := rfl
@[simp] theorem updKey_memResv (k : Nat) (f : Key → Key) : (updKey c k f).memResv = c.memResv := rfl
@[simp] theorem updKey_chans (k : Nat) (f : Key → Key) : (updKey c k f).chans = c.chans := rfl
@[simp] theorem updKey_cams (k : Nat) (f : Key → Key) : (updKey c k f).cams = c.cams := rfl
@[simp] theorem updKey_tab (k : Nat) (f : Key → Key) : (updKey c k f).tab = c.tab := rfl
@[simp] theorem updKey_ports (k : Nat) (f : Key → Key) : (updKey c k f).ports = c.ports := rfl
@[simp] theorem updKey_links (k : Nat) (f : Key → Key) : (updKey c k f).links = c.links := rfl
@[simp] theorem updKey_drones (k : Nat) (f : Key → Key) : (updKey c k f).drones = c.drones := rfl
@[simp] theorem updKey_stopped (k : Nat) (f : Key → Key) : (updKey c k f).stopped = c.stopped := rfl
@[simp] theorem updKey_banks (k : Nat) (f : Key → Key) : (updKey c k f).banks = c.banks := rfl
@[simp] theorem updKey_scrubs (k : Nat) (f : Key → Key) : (updKey c k f).scrubs = c.scrubs := rfl
@[simp] theorem updKey_flits (k : Nat) (f : Key → Key) : (updKey c k f).flits = c.flits := rfl
@[simp] theorem updKey_stalls (k : Nat) (f : Key → Key) : (updKey c k f).stalls = c.stalls := rfl
@[simp] theorem updKey_pegs (k : Nat) (f : Key → Key) : (updKey c k f).pegs = c.pegs := rfl
@[simp] theorem updKey_islands (k : Nat) (f : Key → Key) : (updKey c k f).islands = c.islands := rfl
@[simp] theorem updKey_srcs (k : Nat) (f : Key → Key) : (updKey c k f).srcs = c.srcs := rfl
@[simp] theorem updKey_hostList (k : Nat) (f : Key → Key) : (updKey c k f).hostList = c.hostList := rfl
@[simp] theorem updKey_flushing (k : Nat) (f : Key → Key) : (updKey c k f).flushing = c.flushing := rfl
@[simp] theorem updKey_pcie (k : Nat) (f : Key → Key) : (updKey c k f).pcie = c.pcie := rfl
@[simp] theorem updKey_ptp (k : Nat) (f : Key → Key) : (updKey c k f).ptp = c.ptp := rfl
@[simp] theorem updKey_dev (k : Nat) (f : Key → Key) : (updKey c k f).dev = c.dev := rfl
@[simp] theorem updKey_queues (k : Nat) (f : Key → Key) : (updKey c k f).queues = c.queues := rfl
@[simp] theorem updKey_accepted (k : Nat) (f : Key → Key) : (updKey c k f).accepted = c.accepted := rfl
@[simp] theorem updKey_cur (k : Nat) (f : Key → Key) : (updKey c k f).cur = c.cur := rfl
@[simp] theorem updKey_lastQueue (k : Nat) (f : Key → Key) : (updKey c k f).lastQueue = c.lastQueue := rfl
@[simp] theorem updKey_lut (k : Nat) (f : Key → Key) : (updKey c k f).lut = c.lut := rfl
@[simp] theorem updKey_fixedUnison (k : Nat) (f : Key → Key) : (updKey c k f).fixedUnison = c.fixedUnison := rfl
@[simp] theorem updKey_sys (k : Nat) (f : Key → Key) : (updKey c k f).sys = c.sys := rfl

@[simp] theorem updLane_mem (k : Nat) (f : Lane → Lane) : (updLane c k f).mem = c.mem := rfl
@[simp] theorem updLane_poison (k : Nat) (f : Lane → Lane) : (updLane c k f).poison = c.poison := rfl
@[simp] theorem updLane_sbe (k : Nat) (f : Lane → Lane) : (updLane c k f).sbe = c.sbe := rfl
@[simp] theorem updLane_regs (k : Nat) (f : Lane → Lane) : (updLane c k f).regs = c.regs := rfl
@[simp] theorem updLane_tb (k : Nat) (f : Lane → Lane) : (updLane c k f).tb = c.tb := rfl
@[simp] theorem updLane_frac (k : Nat) (f : Lane → Lane) : (updLane c k f).frac = c.frac := rfl
@[simp] theorem updLane_free (k : Nat) (f : Lane → Lane) : (updLane c k f).free = c.free := rfl
@[simp] theorem updLane_out (k : Nat) (f : Lane → Lane) : (updLane c k f).out = c.out := rfl
@[simp] theorem updLane_cores (k : Nat) (f : Lane → Lane) : (updLane c k f).cores = c.cores := rfl
@[simp] theorem updLane_courses (k : Nat) (f : Lane → Lane) : (updLane c k f).courses = c.courses := rfl
@[simp] theorem updLane_memResv (k : Nat) (f : Lane → Lane) : (updLane c k f).memResv = c.memResv := rfl
@[simp] theorem updLane_chans (k : Nat) (f : Lane → Lane) : (updLane c k f).chans = c.chans := rfl
@[simp] theorem updLane_cams (k : Nat) (f : Lane → Lane) : (updLane c k f).cams = c.cams := rfl
@[simp] theorem updLane_ports (k : Nat) (f : Lane → Lane) : (updLane c k f).ports = c.ports := rfl
@[simp] theorem updLane_links (k : Nat) (f : Lane → Lane) : (updLane c k f).links = c.links := rfl
@[simp] theorem updLane_drones (k : Nat) (f : Lane → Lane) : (updLane c k f).drones = c.drones := rfl
@[simp] theorem updLane_stopped (k : Nat) (f : Lane → Lane) : (updLane c k f).stopped = c.stopped := rfl
@[simp] theorem updLane_banks (k : Nat) (f : Lane → Lane) : (updLane c k f).banks = c.banks := rfl
@[simp] theorem updLane_scrubs (k : Nat) (f : Lane → Lane) : (updLane c k f).scrubs = c.scrubs := rfl
@[simp] theorem updLane_flits (k : Nat) (f : Lane → Lane) : (updLane c k f).flits = c.flits := rfl
@[simp] theorem updLane_stalls (k : Nat) (f : Lane → Lane) : (updLane c k f).stalls = c.stalls := rfl
@[simp] theorem updLane_pegs (k : Nat) (f : Lane → Lane) : (updLane c k f).pegs = c.pegs := rfl
@[simp] theorem updLane_islands (k : Nat) (f : Lane → Lane) : (updLane c k f).islands = c.islands := rfl
@[simp] theorem updLane_srcs (k : Nat) (f : Lane → Lane) : (updLane c k f).srcs = c.srcs := rfl
@[simp] theorem updLane_hostList (k : Nat) (f : Lane → Lane) : (updLane c k f).hostList = c.hostList := rfl
@[simp] theorem updLane_flushing (k : Nat) (f : Lane → Lane) : (updLane c k f).flushing = c.flushing := rfl
@[simp] theorem updLane_pcie (k : Nat) (f : Lane → Lane) : (updLane c k f).pcie = c.pcie := rfl
@[simp] theorem updLane_keys (k : Nat) (f : Lane → Lane) : (updLane c k f).keys = c.keys := rfl
@[simp] theorem updLane_ptp (k : Nat) (f : Lane → Lane) : (updLane c k f).ptp = c.ptp := rfl
@[simp] theorem updLane_dev (k : Nat) (f : Lane → Lane) : (updLane c k f).dev = c.dev := rfl
@[simp] theorem updLane_queues (k : Nat) (f : Lane → Lane) : (updLane c k f).queues = c.queues := rfl
@[simp] theorem updLane_accepted (k : Nat) (f : Lane → Lane) : (updLane c k f).accepted = c.accepted := rfl
@[simp] theorem updLane_cur (k : Nat) (f : Lane → Lane) : (updLane c k f).cur = c.cur := rfl
@[simp] theorem updLane_lastQueue (k : Nat) (f : Lane → Lane) : (updLane c k f).lastQueue = c.lastQueue := rfl
@[simp] theorem updLane_lut (k : Nat) (f : Lane → Lane) : (updLane c k f).lut = c.lut := rfl
@[simp] theorem updLane_fixedUnison (k : Nat) (f : Lane → Lane) : (updLane c k f).fixedUnison = c.fixedUnison := rfl
@[simp] theorem updLane_sys (k : Nat) (f : Lane → Lane) : (updLane c k f).sys = c.sys := rfl

@[simp] theorem updPower_mem (f : PowerCmd → PowerCmd) : (updPower c f).mem = c.mem := rfl
@[simp] theorem updPower_poison (f : PowerCmd → PowerCmd) : (updPower c f).poison = c.poison := rfl
@[simp] theorem updPower_sbe (f : PowerCmd → PowerCmd) : (updPower c f).sbe = c.sbe := rfl
@[simp] theorem updPower_regs (f : PowerCmd → PowerCmd) : (updPower c f).regs = c.regs := rfl
@[simp] theorem updPower_tb (f : PowerCmd → PowerCmd) : (updPower c f).tb = c.tb := rfl
@[simp] theorem updPower_frac (f : PowerCmd → PowerCmd) : (updPower c f).frac = c.frac := rfl
@[simp] theorem updPower_free (f : PowerCmd → PowerCmd) : (updPower c f).free = c.free := rfl
@[simp] theorem updPower_out (f : PowerCmd → PowerCmd) : (updPower c f).out = c.out := rfl
@[simp] theorem updPower_cores (f : PowerCmd → PowerCmd) : (updPower c f).cores = c.cores := rfl
@[simp] theorem updPower_courses (f : PowerCmd → PowerCmd) : (updPower c f).courses = c.courses := rfl
@[simp] theorem updPower_memResv (f : PowerCmd → PowerCmd) : (updPower c f).memResv = c.memResv := rfl
@[simp] theorem updPower_chans (f : PowerCmd → PowerCmd) : (updPower c f).chans = c.chans := rfl
@[simp] theorem updPower_cams (f : PowerCmd → PowerCmd) : (updPower c f).cams = c.cams := rfl
@[simp] theorem updPower_tab (f : PowerCmd → PowerCmd) : (updPower c f).tab = c.tab := rfl
@[simp] theorem updPower_ports (f : PowerCmd → PowerCmd) : (updPower c f).ports = c.ports := rfl
@[simp] theorem updPower_links (f : PowerCmd → PowerCmd) : (updPower c f).links = c.links := rfl
@[simp] theorem updPower_drones (f : PowerCmd → PowerCmd) : (updPower c f).drones = c.drones := rfl
@[simp] theorem updPower_stopped (f : PowerCmd → PowerCmd) : (updPower c f).stopped = c.stopped := rfl
@[simp] theorem updPower_banks (f : PowerCmd → PowerCmd) : (updPower c f).banks = c.banks := rfl
@[simp] theorem updPower_scrubs (f : PowerCmd → PowerCmd) : (updPower c f).scrubs = c.scrubs := rfl
@[simp] theorem updPower_flits (f : PowerCmd → PowerCmd) : (updPower c f).flits = c.flits := rfl
@[simp] theorem updPower_stalls (f : PowerCmd → PowerCmd) : (updPower c f).stalls = c.stalls := rfl
@[simp] theorem updPower_pegs (f : PowerCmd → PowerCmd) : (updPower c f).pegs = c.pegs := rfl
@[simp] theorem updPower_islands (f : PowerCmd → PowerCmd) : (updPower c f).islands = c.islands := rfl
@[simp] theorem updPower_srcs (f : PowerCmd → PowerCmd) : (updPower c f).srcs = c.srcs := rfl
@[simp] theorem updPower_hostList (f : PowerCmd → PowerCmd) : (updPower c f).hostList = c.hostList := rfl
@[simp] theorem updPower_flushing (f : PowerCmd → PowerCmd) : (updPower c f).flushing = c.flushing := rfl
@[simp] theorem updPower_pcie (f : PowerCmd → PowerCmd) : (updPower c f).pcie = c.pcie := rfl
@[simp] theorem updPower_keys (f : PowerCmd → PowerCmd) : (updPower c f).keys = c.keys := rfl
@[simp] theorem updPower_ptp (f : PowerCmd → PowerCmd) : (updPower c f).ptp = c.ptp := rfl
@[simp] theorem updPower_dev (f : PowerCmd → PowerCmd) : (updPower c f).dev = c.dev := rfl
@[simp] theorem updPower_queues (f : PowerCmd → PowerCmd) : (updPower c f).queues = c.queues := rfl
@[simp] theorem updPower_accepted (f : PowerCmd → PowerCmd) : (updPower c f).accepted = c.accepted := rfl
@[simp] theorem updPower_cur (f : PowerCmd → PowerCmd) : (updPower c f).cur = c.cur := rfl
@[simp] theorem updPower_lastQueue (f : PowerCmd → PowerCmd) : (updPower c f).lastQueue = c.lastQueue := rfl
@[simp] theorem updPower_lut (f : PowerCmd → PowerCmd) : (updPower c f).lut = c.lut := rfl
@[simp] theorem updPower_fixedUnison (f : PowerCmd → PowerCmd) : (updPower c f).fixedUnison = c.fixedUnison := rfl

@[simp] theorem regPut_mem (a : Nat) (w : Word) : (regPut c a w).mem = c.mem := rfl
@[simp] theorem regPut_poison (a : Nat) (w : Word) : (regPut c a w).poison = c.poison := rfl
@[simp] theorem regPut_sbe (a : Nat) (w : Word) : (regPut c a w).sbe = c.sbe := rfl
@[simp] theorem regPut_tb (a : Nat) (w : Word) : (regPut c a w).tb = c.tb := rfl
@[simp] theorem regPut_frac (a : Nat) (w : Word) : (regPut c a w).frac = c.frac := rfl
@[simp] theorem regPut_free (a : Nat) (w : Word) : (regPut c a w).free = c.free := rfl
@[simp] theorem regPut_out (a : Nat) (w : Word) : (regPut c a w).out = c.out := rfl
@[simp] theorem regPut_cores (a : Nat) (w : Word) : (regPut c a w).cores = c.cores := rfl
@[simp] theorem regPut_courses (a : Nat) (w : Word) : (regPut c a w).courses = c.courses := rfl
@[simp] theorem regPut_memResv (a : Nat) (w : Word) : (regPut c a w).memResv = c.memResv := rfl
@[simp] theorem regPut_chans (a : Nat) (w : Word) : (regPut c a w).chans = c.chans := rfl
@[simp] theorem regPut_cams (a : Nat) (w : Word) : (regPut c a w).cams = c.cams := rfl
@[simp] theorem regPut_tab (a : Nat) (w : Word) : (regPut c a w).tab = c.tab := rfl
@[simp] theorem regPut_ports (a : Nat) (w : Word) : (regPut c a w).ports = c.ports := rfl
@[simp] theorem regPut_links (a : Nat) (w : Word) : (regPut c a w).links = c.links := rfl
@[simp] theorem regPut_drones (a : Nat) (w : Word) : (regPut c a w).drones = c.drones := rfl
@[simp] theorem regPut_stopped (a : Nat) (w : Word) : (regPut c a w).stopped = c.stopped := rfl
@[simp] theorem regPut_banks (a : Nat) (w : Word) : (regPut c a w).banks = c.banks := rfl
@[simp] theorem regPut_scrubs (a : Nat) (w : Word) : (regPut c a w).scrubs = c.scrubs := rfl
@[simp] theorem regPut_flits (a : Nat) (w : Word) : (regPut c a w).flits = c.flits := rfl
@[simp] theorem regPut_stalls (a : Nat) (w : Word) : (regPut c a w).stalls = c.stalls := rfl
@[simp] theorem regPut_pegs (a : Nat) (w : Word) : (regPut c a w).pegs = c.pegs := rfl
@[simp] theorem regPut_islands (a : Nat) (w : Word) : (regPut c a w).islands = c.islands := rfl
@[simp] theorem regPut_srcs (a : Nat) (w : Word) : (regPut c a w).srcs = c.srcs := rfl
@[simp] theorem regPut_hostList (a : Nat) (w : Word) : (regPut c a w).hostList = c.hostList := rfl
@[simp] theorem regPut_flushing (a : Nat) (w : Word) : (regPut c a w).flushing = c.flushing := rfl
@[simp] theorem regPut_pcie (a : Nat) (w : Word) : (regPut c a w).pcie = c.pcie := rfl
@[simp] theorem regPut_keys (a : Nat) (w : Word) : (regPut c a w).keys = c.keys := rfl
@[simp] theorem regPut_ptp (a : Nat) (w : Word) : (regPut c a w).ptp = c.ptp := rfl
@[simp] theorem regPut_dev (a : Nat) (w : Word) : (regPut c a w).dev = c.dev := rfl
@[simp] theorem regPut_queues (a : Nat) (w : Word) : (regPut c a w).queues = c.queues := rfl
@[simp] theorem regPut_accepted (a : Nat) (w : Word) : (regPut c a w).accepted = c.accepted := rfl
@[simp] theorem regPut_cur (a : Nat) (w : Word) : (regPut c a w).cur = c.cur := rfl
@[simp] theorem regPut_lastQueue (a : Nat) (w : Word) : (regPut c a w).lastQueue = c.lastQueue := rfl
@[simp] theorem regPut_lut (a : Nat) (w : Word) : (regPut c a w).lut = c.lut := rfl
@[simp] theorem regPut_fixedUnison (a : Nat) (w : Word) : (regPut c a w).fixedUnison = c.fixedUnison := rfl
@[simp] theorem regPut_sys (a : Nat) (w : Word) : (regPut c a w).sys = c.sys := rfl

@[simp] theorem regUpd_mem (a : Nat) (f : Word → Word) : (regUpd c a f).mem = c.mem := rfl
@[simp] theorem regUpd_poison (a : Nat) (f : Word → Word) : (regUpd c a f).poison = c.poison := rfl
@[simp] theorem regUpd_sbe (a : Nat) (f : Word → Word) : (regUpd c a f).sbe = c.sbe := rfl
@[simp] theorem regUpd_tb (a : Nat) (f : Word → Word) : (regUpd c a f).tb = c.tb := rfl
@[simp] theorem regUpd_frac (a : Nat) (f : Word → Word) : (regUpd c a f).frac = c.frac := rfl
@[simp] theorem regUpd_free (a : Nat) (f : Word → Word) : (regUpd c a f).free = c.free := rfl
@[simp] theorem regUpd_out (a : Nat) (f : Word → Word) : (regUpd c a f).out = c.out := rfl
@[simp] theorem regUpd_cores (a : Nat) (f : Word → Word) : (regUpd c a f).cores = c.cores := rfl
@[simp] theorem regUpd_courses (a : Nat) (f : Word → Word) : (regUpd c a f).courses = c.courses := rfl
@[simp] theorem regUpd_memResv (a : Nat) (f : Word → Word) : (regUpd c a f).memResv = c.memResv := rfl
@[simp] theorem regUpd_chans (a : Nat) (f : Word → Word) : (regUpd c a f).chans = c.chans := rfl
@[simp] theorem regUpd_cams (a : Nat) (f : Word → Word) : (regUpd c a f).cams = c.cams := rfl
@[simp] theorem regUpd_tab (a : Nat) (f : Word → Word) : (regUpd c a f).tab = c.tab := rfl
@[simp] theorem regUpd_ports (a : Nat) (f : Word → Word) : (regUpd c a f).ports = c.ports := rfl
@[simp] theorem regUpd_links (a : Nat) (f : Word → Word) : (regUpd c a f).links = c.links := rfl
@[simp] theorem regUpd_drones (a : Nat) (f : Word → Word) : (regUpd c a f).drones = c.drones := rfl
@[simp] theorem regUpd_stopped (a : Nat) (f : Word → Word) : (regUpd c a f).stopped = c.stopped := rfl
@[simp] theorem regUpd_banks (a : Nat) (f : Word → Word) : (regUpd c a f).banks = c.banks := rfl
@[simp] theorem regUpd_scrubs (a : Nat) (f : Word → Word) : (regUpd c a f).scrubs = c.scrubs := rfl
@[simp] theorem regUpd_flits (a : Nat) (f : Word → Word) : (regUpd c a f).flits = c.flits := rfl
@[simp] theorem regUpd_stalls (a : Nat) (f : Word → Word) : (regUpd c a f).stalls = c.stalls := rfl
@[simp] theorem regUpd_pegs (a : Nat) (f : Word → Word) : (regUpd c a f).pegs = c.pegs := rfl
@[simp] theorem regUpd_islands (a : Nat) (f : Word → Word) : (regUpd c a f).islands = c.islands := rfl
@[simp] theorem regUpd_srcs (a : Nat) (f : Word → Word) : (regUpd c a f).srcs = c.srcs := rfl
@[simp] theorem regUpd_hostList (a : Nat) (f : Word → Word) : (regUpd c a f).hostList = c.hostList := rfl
@[simp] theorem regUpd_flushing (a : Nat) (f : Word → Word) : (regUpd c a f).flushing = c.flushing := rfl
@[simp] theorem regUpd_pcie (a : Nat) (f : Word → Word) : (regUpd c a f).pcie = c.pcie := rfl
@[simp] theorem regUpd_keys (a : Nat) (f : Word → Word) : (regUpd c a f).keys = c.keys := rfl
@[simp] theorem regUpd_ptp (a : Nat) (f : Word → Word) : (regUpd c a f).ptp = c.ptp := rfl
@[simp] theorem regUpd_dev (a : Nat) (f : Word → Word) : (regUpd c a f).dev = c.dev := rfl
@[simp] theorem regUpd_queues (a : Nat) (f : Word → Word) : (regUpd c a f).queues = c.queues := rfl
@[simp] theorem regUpd_accepted (a : Nat) (f : Word → Word) : (regUpd c a f).accepted = c.accepted := rfl
@[simp] theorem regUpd_cur (a : Nat) (f : Word → Word) : (regUpd c a f).cur = c.cur := rfl
@[simp] theorem regUpd_lastQueue (a : Nat) (f : Word → Word) : (regUpd c a f).lastQueue = c.lastQueue := rfl
@[simp] theorem regUpd_lut (a : Nat) (f : Word → Word) : (regUpd c a f).lut = c.lut := rfl
@[simp] theorem regUpd_fixedUnison (a : Nat) (f : Word → Word) : (regUpd c a f).fixedUnison = c.fixedUnison := rfl
@[simp] theorem regUpd_sys (a : Nat) (f : Word → Word) : (regUpd c a f).sys = c.sys := rfl

@[simp] theorem regOr_mem (a m : Nat) : (regOr c a m).mem = c.mem := rfl
@[simp] theorem regOr_poison (a m : Nat) : (regOr c a m).poison = c.poison := rfl
@[simp] theorem regOr_sbe (a m : Nat) : (regOr c a m).sbe = c.sbe := rfl
@[simp] theorem regOr_tb (a m : Nat) : (regOr c a m).tb = c.tb := rfl
@[simp] theorem regOr_frac (a m : Nat) : (regOr c a m).frac = c.frac := rfl
@[simp] theorem regOr_free (a m : Nat) : (regOr c a m).free = c.free := rfl
@[simp] theorem regOr_out (a m : Nat) : (regOr c a m).out = c.out := rfl
@[simp] theorem regOr_cores (a m : Nat) : (regOr c a m).cores = c.cores := rfl
@[simp] theorem regOr_courses (a m : Nat) : (regOr c a m).courses = c.courses := rfl
@[simp] theorem regOr_memResv (a m : Nat) : (regOr c a m).memResv = c.memResv := rfl
@[simp] theorem regOr_chans (a m : Nat) : (regOr c a m).chans = c.chans := rfl
@[simp] theorem regOr_cams (a m : Nat) : (regOr c a m).cams = c.cams := rfl
@[simp] theorem regOr_tab (a m : Nat) : (regOr c a m).tab = c.tab := rfl
@[simp] theorem regOr_ports (a m : Nat) : (regOr c a m).ports = c.ports := rfl
@[simp] theorem regOr_links (a m : Nat) : (regOr c a m).links = c.links := rfl
@[simp] theorem regOr_drones (a m : Nat) : (regOr c a m).drones = c.drones := rfl
@[simp] theorem regOr_stopped (a m : Nat) : (regOr c a m).stopped = c.stopped := rfl
@[simp] theorem regOr_banks (a m : Nat) : (regOr c a m).banks = c.banks := rfl
@[simp] theorem regOr_scrubs (a m : Nat) : (regOr c a m).scrubs = c.scrubs := rfl
@[simp] theorem regOr_flits (a m : Nat) : (regOr c a m).flits = c.flits := rfl
@[simp] theorem regOr_stalls (a m : Nat) : (regOr c a m).stalls = c.stalls := rfl
@[simp] theorem regOr_pegs (a m : Nat) : (regOr c a m).pegs = c.pegs := rfl
@[simp] theorem regOr_islands (a m : Nat) : (regOr c a m).islands = c.islands := rfl
@[simp] theorem regOr_srcs (a m : Nat) : (regOr c a m).srcs = c.srcs := rfl
@[simp] theorem regOr_hostList (a m : Nat) : (regOr c a m).hostList = c.hostList := rfl
@[simp] theorem regOr_flushing (a m : Nat) : (regOr c a m).flushing = c.flushing := rfl
@[simp] theorem regOr_pcie (a m : Nat) : (regOr c a m).pcie = c.pcie := rfl
@[simp] theorem regOr_keys (a m : Nat) : (regOr c a m).keys = c.keys := rfl
@[simp] theorem regOr_ptp (a m : Nat) : (regOr c a m).ptp = c.ptp := rfl
@[simp] theorem regOr_dev (a m : Nat) : (regOr c a m).dev = c.dev := rfl
@[simp] theorem regOr_queues (a m : Nat) : (regOr c a m).queues = c.queues := rfl
@[simp] theorem regOr_accepted (a m : Nat) : (regOr c a m).accepted = c.accepted := rfl
@[simp] theorem regOr_cur (a m : Nat) : (regOr c a m).cur = c.cur := rfl
@[simp] theorem regOr_lastQueue (a m : Nat) : (regOr c a m).lastQueue = c.lastQueue := rfl
@[simp] theorem regOr_lut (a m : Nat) : (regOr c a m).lut = c.lut := rfl
@[simp] theorem regOr_fixedUnison (a m : Nat) : (regOr c a m).fixedUnison = c.fixedUnison := rfl
@[simp] theorem regOr_sys (a m : Nat) : (regOr c a m).sys = c.sys := rfl

@[simp] theorem regClr_mem (a m : Nat) : (regClr c a m).mem = c.mem := rfl
@[simp] theorem regClr_poison (a m : Nat) : (regClr c a m).poison = c.poison := rfl
@[simp] theorem regClr_sbe (a m : Nat) : (regClr c a m).sbe = c.sbe := rfl
@[simp] theorem regClr_tb (a m : Nat) : (regClr c a m).tb = c.tb := rfl
@[simp] theorem regClr_frac (a m : Nat) : (regClr c a m).frac = c.frac := rfl
@[simp] theorem regClr_free (a m : Nat) : (regClr c a m).free = c.free := rfl
@[simp] theorem regClr_out (a m : Nat) : (regClr c a m).out = c.out := rfl
@[simp] theorem regClr_cores (a m : Nat) : (regClr c a m).cores = c.cores := rfl
@[simp] theorem regClr_courses (a m : Nat) : (regClr c a m).courses = c.courses := rfl
@[simp] theorem regClr_memResv (a m : Nat) : (regClr c a m).memResv = c.memResv := rfl
@[simp] theorem regClr_chans (a m : Nat) : (regClr c a m).chans = c.chans := rfl
@[simp] theorem regClr_cams (a m : Nat) : (regClr c a m).cams = c.cams := rfl
@[simp] theorem regClr_tab (a m : Nat) : (regClr c a m).tab = c.tab := rfl
@[simp] theorem regClr_ports (a m : Nat) : (regClr c a m).ports = c.ports := rfl
@[simp] theorem regClr_links (a m : Nat) : (regClr c a m).links = c.links := rfl
@[simp] theorem regClr_drones (a m : Nat) : (regClr c a m).drones = c.drones := rfl
@[simp] theorem regClr_stopped (a m : Nat) : (regClr c a m).stopped = c.stopped := rfl
@[simp] theorem regClr_banks (a m : Nat) : (regClr c a m).banks = c.banks := rfl
@[simp] theorem regClr_scrubs (a m : Nat) : (regClr c a m).scrubs = c.scrubs := rfl
@[simp] theorem regClr_flits (a m : Nat) : (regClr c a m).flits = c.flits := rfl
@[simp] theorem regClr_stalls (a m : Nat) : (regClr c a m).stalls = c.stalls := rfl
@[simp] theorem regClr_pegs (a m : Nat) : (regClr c a m).pegs = c.pegs := rfl
@[simp] theorem regClr_islands (a m : Nat) : (regClr c a m).islands = c.islands := rfl
@[simp] theorem regClr_srcs (a m : Nat) : (regClr c a m).srcs = c.srcs := rfl
@[simp] theorem regClr_hostList (a m : Nat) : (regClr c a m).hostList = c.hostList := rfl
@[simp] theorem regClr_flushing (a m : Nat) : (regClr c a m).flushing = c.flushing := rfl
@[simp] theorem regClr_pcie (a m : Nat) : (regClr c a m).pcie = c.pcie := rfl
@[simp] theorem regClr_keys (a m : Nat) : (regClr c a m).keys = c.keys := rfl
@[simp] theorem regClr_ptp (a m : Nat) : (regClr c a m).ptp = c.ptp := rfl
@[simp] theorem regClr_dev (a m : Nat) : (regClr c a m).dev = c.dev := rfl
@[simp] theorem regClr_queues (a m : Nat) : (regClr c a m).queues = c.queues := rfl
@[simp] theorem regClr_accepted (a m : Nat) : (regClr c a m).accepted = c.accepted := rfl
@[simp] theorem regClr_cur (a m : Nat) : (regClr c a m).cur = c.cur := rfl
@[simp] theorem regClr_lastQueue (a m : Nat) : (regClr c a m).lastQueue = c.lastQueue := rfl
@[simp] theorem regClr_lut (a m : Nat) : (regClr c a m).lut = c.lut := rfl
@[simp] theorem regClr_fixedUnison (a m : Nat) : (regClr c a m).fixedUnison = c.fixedUnison := rfl
@[simp] theorem regClr_sys (a m : Nat) : (regClr c a m).sys = c.sys := rfl

@[simp] theorem regSetFld_mem (a h l v : Nat) : (regSetFld c a h l v).mem = c.mem := rfl
@[simp] theorem regSetFld_poison (a h l v : Nat) : (regSetFld c a h l v).poison = c.poison := rfl
@[simp] theorem regSetFld_sbe (a h l v : Nat) : (regSetFld c a h l v).sbe = c.sbe := rfl
@[simp] theorem regSetFld_tb (a h l v : Nat) : (regSetFld c a h l v).tb = c.tb := rfl
@[simp] theorem regSetFld_frac (a h l v : Nat) : (regSetFld c a h l v).frac = c.frac := rfl
@[simp] theorem regSetFld_free (a h l v : Nat) : (regSetFld c a h l v).free = c.free := rfl
@[simp] theorem regSetFld_out (a h l v : Nat) : (regSetFld c a h l v).out = c.out := rfl
@[simp] theorem regSetFld_cores (a h l v : Nat) : (regSetFld c a h l v).cores = c.cores := rfl
@[simp] theorem regSetFld_courses (a h l v : Nat) : (regSetFld c a h l v).courses = c.courses := rfl
@[simp] theorem regSetFld_memResv (a h l v : Nat) : (regSetFld c a h l v).memResv = c.memResv := rfl
@[simp] theorem regSetFld_chans (a h l v : Nat) : (regSetFld c a h l v).chans = c.chans := rfl
@[simp] theorem regSetFld_cams (a h l v : Nat) : (regSetFld c a h l v).cams = c.cams := rfl
@[simp] theorem regSetFld_tab (a h l v : Nat) : (regSetFld c a h l v).tab = c.tab := rfl
@[simp] theorem regSetFld_ports (a h l v : Nat) : (regSetFld c a h l v).ports = c.ports := rfl
@[simp] theorem regSetFld_links (a h l v : Nat) : (regSetFld c a h l v).links = c.links := rfl
@[simp] theorem regSetFld_drones (a h l v : Nat) : (regSetFld c a h l v).drones = c.drones := rfl
@[simp] theorem regSetFld_stopped (a h l v : Nat) : (regSetFld c a h l v).stopped = c.stopped := rfl
@[simp] theorem regSetFld_banks (a h l v : Nat) : (regSetFld c a h l v).banks = c.banks := rfl
@[simp] theorem regSetFld_scrubs (a h l v : Nat) : (regSetFld c a h l v).scrubs = c.scrubs := rfl
@[simp] theorem regSetFld_flits (a h l v : Nat) : (regSetFld c a h l v).flits = c.flits := rfl
@[simp] theorem regSetFld_stalls (a h l v : Nat) : (regSetFld c a h l v).stalls = c.stalls := rfl
@[simp] theorem regSetFld_pegs (a h l v : Nat) : (regSetFld c a h l v).pegs = c.pegs := rfl
@[simp] theorem regSetFld_islands (a h l v : Nat) : (regSetFld c a h l v).islands = c.islands := rfl
@[simp] theorem regSetFld_srcs (a h l v : Nat) : (regSetFld c a h l v).srcs = c.srcs := rfl
@[simp] theorem regSetFld_hostList (a h l v : Nat) : (regSetFld c a h l v).hostList = c.hostList := rfl
@[simp] theorem regSetFld_flushing (a h l v : Nat) : (regSetFld c a h l v).flushing = c.flushing := rfl
@[simp] theorem regSetFld_pcie (a h l v : Nat) : (regSetFld c a h l v).pcie = c.pcie := rfl
@[simp] theorem regSetFld_keys (a h l v : Nat) : (regSetFld c a h l v).keys = c.keys := rfl
@[simp] theorem regSetFld_ptp (a h l v : Nat) : (regSetFld c a h l v).ptp = c.ptp := rfl
@[simp] theorem regSetFld_dev (a h l v : Nat) : (regSetFld c a h l v).dev = c.dev := rfl
@[simp] theorem regSetFld_queues (a h l v : Nat) : (regSetFld c a h l v).queues = c.queues := rfl
@[simp] theorem regSetFld_accepted (a h l v : Nat) : (regSetFld c a h l v).accepted = c.accepted := rfl
@[simp] theorem regSetFld_cur (a h l v : Nat) : (regSetFld c a h l v).cur = c.cur := rfl
@[simp] theorem regSetFld_lastQueue (a h l v : Nat) : (regSetFld c a h l v).lastQueue = c.lastQueue := rfl
@[simp] theorem regSetFld_lut (a h l v : Nat) : (regSetFld c a h l v).lut = c.lut := rfl
@[simp] theorem regSetFld_fixedUnison (a h l v : Nat) : (regSetFld c a h l v).fixedUnison = c.fixedUnison := rfl
@[simp] theorem regSetFld_sys (a h l v : Nat) : (regSetFld c a h l v).sys = c.sys := rfl

@[simp] theorem regCount_mem (a h l v : Nat) : (regCount c a h l v).mem = c.mem := rfl
@[simp] theorem regCount_poison (a h l v : Nat) : (regCount c a h l v).poison = c.poison := rfl
@[simp] theorem regCount_sbe (a h l v : Nat) : (regCount c a h l v).sbe = c.sbe := rfl
@[simp] theorem regCount_tb (a h l v : Nat) : (regCount c a h l v).tb = c.tb := rfl
@[simp] theorem regCount_frac (a h l v : Nat) : (regCount c a h l v).frac = c.frac := rfl
@[simp] theorem regCount_free (a h l v : Nat) : (regCount c a h l v).free = c.free := rfl
@[simp] theorem regCount_out (a h l v : Nat) : (regCount c a h l v).out = c.out := rfl
@[simp] theorem regCount_cores (a h l v : Nat) : (regCount c a h l v).cores = c.cores := rfl
@[simp] theorem regCount_courses (a h l v : Nat) : (regCount c a h l v).courses = c.courses := rfl
@[simp] theorem regCount_memResv (a h l v : Nat) : (regCount c a h l v).memResv = c.memResv := rfl
@[simp] theorem regCount_chans (a h l v : Nat) : (regCount c a h l v).chans = c.chans := rfl
@[simp] theorem regCount_cams (a h l v : Nat) : (regCount c a h l v).cams = c.cams := rfl
@[simp] theorem regCount_tab (a h l v : Nat) : (regCount c a h l v).tab = c.tab := rfl
@[simp] theorem regCount_ports (a h l v : Nat) : (regCount c a h l v).ports = c.ports := rfl
@[simp] theorem regCount_links (a h l v : Nat) : (regCount c a h l v).links = c.links := rfl
@[simp] theorem regCount_drones (a h l v : Nat) : (regCount c a h l v).drones = c.drones := rfl
@[simp] theorem regCount_stopped (a h l v : Nat) : (regCount c a h l v).stopped = c.stopped := rfl
@[simp] theorem regCount_banks (a h l v : Nat) : (regCount c a h l v).banks = c.banks := rfl
@[simp] theorem regCount_scrubs (a h l v : Nat) : (regCount c a h l v).scrubs = c.scrubs := rfl
@[simp] theorem regCount_flits (a h l v : Nat) : (regCount c a h l v).flits = c.flits := rfl
@[simp] theorem regCount_stalls (a h l v : Nat) : (regCount c a h l v).stalls = c.stalls := rfl
@[simp] theorem regCount_pegs (a h l v : Nat) : (regCount c a h l v).pegs = c.pegs := rfl
@[simp] theorem regCount_islands (a h l v : Nat) : (regCount c a h l v).islands = c.islands := rfl
@[simp] theorem regCount_srcs (a h l v : Nat) : (regCount c a h l v).srcs = c.srcs := rfl
@[simp] theorem regCount_hostList (a h l v : Nat) : (regCount c a h l v).hostList = c.hostList := rfl
@[simp] theorem regCount_flushing (a h l v : Nat) : (regCount c a h l v).flushing = c.flushing := rfl
@[simp] theorem regCount_pcie (a h l v : Nat) : (regCount c a h l v).pcie = c.pcie := rfl
@[simp] theorem regCount_keys (a h l v : Nat) : (regCount c a h l v).keys = c.keys := rfl
@[simp] theorem regCount_ptp (a h l v : Nat) : (regCount c a h l v).ptp = c.ptp := rfl
@[simp] theorem regCount_dev (a h l v : Nat) : (regCount c a h l v).dev = c.dev := rfl
@[simp] theorem regCount_queues (a h l v : Nat) : (regCount c a h l v).queues = c.queues := rfl
@[simp] theorem regCount_accepted (a h l v : Nat) : (regCount c a h l v).accepted = c.accepted := rfl
@[simp] theorem regCount_cur (a h l v : Nat) : (regCount c a h l v).cur = c.cur := rfl
@[simp] theorem regCount_lastQueue (a h l v : Nat) : (regCount c a h l v).lastQueue = c.lastQueue := rfl
@[simp] theorem regCount_lut (a h l v : Nat) : (regCount c a h l v).lut = c.lut := rfl
@[simp] theorem regCount_fixedUnison (a h l v : Nat) : (regCount c a h l v).fixedUnison = c.fixedUnison := rfl
@[simp] theorem regCount_sys (a h l v : Nat) : (regCount c a h l v).sys = c.sys := rfl

@[simp] theorem regWrap_mem (a h l v : Nat) : (regWrap c a h l v).mem = c.mem := rfl
@[simp] theorem regWrap_poison (a h l v : Nat) : (regWrap c a h l v).poison = c.poison := rfl
@[simp] theorem regWrap_sbe (a h l v : Nat) : (regWrap c a h l v).sbe = c.sbe := rfl
@[simp] theorem regWrap_tb (a h l v : Nat) : (regWrap c a h l v).tb = c.tb := rfl
@[simp] theorem regWrap_frac (a h l v : Nat) : (regWrap c a h l v).frac = c.frac := rfl
@[simp] theorem regWrap_free (a h l v : Nat) : (regWrap c a h l v).free = c.free := rfl
@[simp] theorem regWrap_out (a h l v : Nat) : (regWrap c a h l v).out = c.out := rfl
@[simp] theorem regWrap_cores (a h l v : Nat) : (regWrap c a h l v).cores = c.cores := rfl
@[simp] theorem regWrap_courses (a h l v : Nat) : (regWrap c a h l v).courses = c.courses := rfl
@[simp] theorem regWrap_memResv (a h l v : Nat) : (regWrap c a h l v).memResv = c.memResv := rfl
@[simp] theorem regWrap_chans (a h l v : Nat) : (regWrap c a h l v).chans = c.chans := rfl
@[simp] theorem regWrap_cams (a h l v : Nat) : (regWrap c a h l v).cams = c.cams := rfl
@[simp] theorem regWrap_tab (a h l v : Nat) : (regWrap c a h l v).tab = c.tab := rfl
@[simp] theorem regWrap_ports (a h l v : Nat) : (regWrap c a h l v).ports = c.ports := rfl
@[simp] theorem regWrap_links (a h l v : Nat) : (regWrap c a h l v).links = c.links := rfl
@[simp] theorem regWrap_drones (a h l v : Nat) : (regWrap c a h l v).drones = c.drones := rfl
@[simp] theorem regWrap_stopped (a h l v : Nat) : (regWrap c a h l v).stopped = c.stopped := rfl
@[simp] theorem regWrap_banks (a h l v : Nat) : (regWrap c a h l v).banks = c.banks := rfl
@[simp] theorem regWrap_scrubs (a h l v : Nat) : (regWrap c a h l v).scrubs = c.scrubs := rfl
@[simp] theorem regWrap_flits (a h l v : Nat) : (regWrap c a h l v).flits = c.flits := rfl
@[simp] theorem regWrap_stalls (a h l v : Nat) : (regWrap c a h l v).stalls = c.stalls := rfl
@[simp] theorem regWrap_pegs (a h l v : Nat) : (regWrap c a h l v).pegs = c.pegs := rfl
@[simp] theorem regWrap_islands (a h l v : Nat) : (regWrap c a h l v).islands = c.islands := rfl
@[simp] theorem regWrap_srcs (a h l v : Nat) : (regWrap c a h l v).srcs = c.srcs := rfl
@[simp] theorem regWrap_hostList (a h l v : Nat) : (regWrap c a h l v).hostList = c.hostList := rfl
@[simp] theorem regWrap_flushing (a h l v : Nat) : (regWrap c a h l v).flushing = c.flushing := rfl
@[simp] theorem regWrap_pcie (a h l v : Nat) : (regWrap c a h l v).pcie = c.pcie := rfl
@[simp] theorem regWrap_keys (a h l v : Nat) : (regWrap c a h l v).keys = c.keys := rfl
@[simp] theorem regWrap_ptp (a h l v : Nat) : (regWrap c a h l v).ptp = c.ptp := rfl
@[simp] theorem regWrap_dev (a h l v : Nat) : (regWrap c a h l v).dev = c.dev := rfl
@[simp] theorem regWrap_queues (a h l v : Nat) : (regWrap c a h l v).queues = c.queues := rfl
@[simp] theorem regWrap_accepted (a h l v : Nat) : (regWrap c a h l v).accepted = c.accepted := rfl
@[simp] theorem regWrap_cur (a h l v : Nat) : (regWrap c a h l v).cur = c.cur := rfl
@[simp] theorem regWrap_lastQueue (a h l v : Nat) : (regWrap c a h l v).lastQueue = c.lastQueue := rfl
@[simp] theorem regWrap_lut (a h l v : Nat) : (regWrap c a h l v).lut = c.lut := rfl
@[simp] theorem regWrap_fixedUnison (a h l v : Nat) : (regWrap c a h l v).fixedUnison = c.fixedUnison := rfl
@[simp] theorem regWrap_sys (a h l v : Nat) : (regWrap c a h l v).sys = c.sys := rfl

@[simp] theorem regMax_mem (a h l v : Nat) : (regMax c a h l v).mem = c.mem := rfl
@[simp] theorem regMax_poison (a h l v : Nat) : (regMax c a h l v).poison = c.poison := rfl
@[simp] theorem regMax_sbe (a h l v : Nat) : (regMax c a h l v).sbe = c.sbe := rfl
@[simp] theorem regMax_tb (a h l v : Nat) : (regMax c a h l v).tb = c.tb := rfl
@[simp] theorem regMax_frac (a h l v : Nat) : (regMax c a h l v).frac = c.frac := rfl
@[simp] theorem regMax_free (a h l v : Nat) : (regMax c a h l v).free = c.free := rfl
@[simp] theorem regMax_out (a h l v : Nat) : (regMax c a h l v).out = c.out := rfl
@[simp] theorem regMax_cores (a h l v : Nat) : (regMax c a h l v).cores = c.cores := rfl
@[simp] theorem regMax_courses (a h l v : Nat) : (regMax c a h l v).courses = c.courses := rfl
@[simp] theorem regMax_memResv (a h l v : Nat) : (regMax c a h l v).memResv = c.memResv := rfl
@[simp] theorem regMax_chans (a h l v : Nat) : (regMax c a h l v).chans = c.chans := rfl
@[simp] theorem regMax_cams (a h l v : Nat) : (regMax c a h l v).cams = c.cams := rfl
@[simp] theorem regMax_tab (a h l v : Nat) : (regMax c a h l v).tab = c.tab := rfl
@[simp] theorem regMax_ports (a h l v : Nat) : (regMax c a h l v).ports = c.ports := rfl
@[simp] theorem regMax_links (a h l v : Nat) : (regMax c a h l v).links = c.links := rfl
@[simp] theorem regMax_drones (a h l v : Nat) : (regMax c a h l v).drones = c.drones := rfl
@[simp] theorem regMax_stopped (a h l v : Nat) : (regMax c a h l v).stopped = c.stopped := rfl
@[simp] theorem regMax_banks (a h l v : Nat) : (regMax c a h l v).banks = c.banks := rfl
@[simp] theorem regMax_scrubs (a h l v : Nat) : (regMax c a h l v).scrubs = c.scrubs := rfl
@[simp] theorem regMax_flits (a h l v : Nat) : (regMax c a h l v).flits = c.flits := rfl
@[simp] theorem regMax_stalls (a h l v : Nat) : (regMax c a h l v).stalls = c.stalls := rfl
@[simp] theorem regMax_pegs (a h l v : Nat) : (regMax c a h l v).pegs = c.pegs := rfl
@[simp] theorem regMax_islands (a h l v : Nat) : (regMax c a h l v).islands = c.islands := rfl
@[simp] theorem regMax_srcs (a h l v : Nat) : (regMax c a h l v).srcs = c.srcs := rfl
@[simp] theorem regMax_hostList (a h l v : Nat) : (regMax c a h l v).hostList = c.hostList := rfl
@[simp] theorem regMax_flushing (a h l v : Nat) : (regMax c a h l v).flushing = c.flushing := rfl
@[simp] theorem regMax_pcie (a h l v : Nat) : (regMax c a h l v).pcie = c.pcie := rfl
@[simp] theorem regMax_keys (a h l v : Nat) : (regMax c a h l v).keys = c.keys := rfl
@[simp] theorem regMax_ptp (a h l v : Nat) : (regMax c a h l v).ptp = c.ptp := rfl
@[simp] theorem regMax_dev (a h l v : Nat) : (regMax c a h l v).dev = c.dev := rfl
@[simp] theorem regMax_queues (a h l v : Nat) : (regMax c a h l v).queues = c.queues := rfl
@[simp] theorem regMax_accepted (a h l v : Nat) : (regMax c a h l v).accepted = c.accepted := rfl
@[simp] theorem regMax_cur (a h l v : Nat) : (regMax c a h l v).cur = c.cur := rfl
@[simp] theorem regMax_lastQueue (a h l v : Nat) : (regMax c a h l v).lastQueue = c.lastQueue := rfl
@[simp] theorem regMax_lut (a h l v : Nat) : (regMax c a h l v).lut = c.lut := rfl
@[simp] theorem regMax_fixedUnison (a h l v : Nat) : (regMax c a h l v).fixedUnison = c.fixedUnison := rfl
@[simp] theorem regMax_sys (a h l v : Nat) : (regMax c a h l v).sys = c.sys := rfl

@[simp] theorem emit_mem (o : Output) : (emit c o).mem = c.mem := rfl
@[simp] theorem emit_poison (o : Output) : (emit c o).poison = c.poison := rfl
@[simp] theorem emit_sbe (o : Output) : (emit c o).sbe = c.sbe := rfl
@[simp] theorem emit_regs (o : Output) : (emit c o).regs = c.regs := rfl
@[simp] theorem emit_tb (o : Output) : (emit c o).tb = c.tb := rfl
@[simp] theorem emit_frac (o : Output) : (emit c o).frac = c.frac := rfl
@[simp] theorem emit_free (o : Output) : (emit c o).free = c.free := rfl
@[simp] theorem emit_cores (o : Output) : (emit c o).cores = c.cores := rfl
@[simp] theorem emit_courses (o : Output) : (emit c o).courses = c.courses := rfl
@[simp] theorem emit_memResv (o : Output) : (emit c o).memResv = c.memResv := rfl
@[simp] theorem emit_chans (o : Output) : (emit c o).chans = c.chans := rfl
@[simp] theorem emit_cams (o : Output) : (emit c o).cams = c.cams := rfl
@[simp] theorem emit_tab (o : Output) : (emit c o).tab = c.tab := rfl
@[simp] theorem emit_ports (o : Output) : (emit c o).ports = c.ports := rfl
@[simp] theorem emit_links (o : Output) : (emit c o).links = c.links := rfl
@[simp] theorem emit_drones (o : Output) : (emit c o).drones = c.drones := rfl
@[simp] theorem emit_stopped (o : Output) : (emit c o).stopped = c.stopped := rfl
@[simp] theorem emit_banks (o : Output) : (emit c o).banks = c.banks := rfl
@[simp] theorem emit_scrubs (o : Output) : (emit c o).scrubs = c.scrubs := rfl
@[simp] theorem emit_flits (o : Output) : (emit c o).flits = c.flits := rfl
@[simp] theorem emit_stalls (o : Output) : (emit c o).stalls = c.stalls := rfl
@[simp] theorem emit_pegs (o : Output) : (emit c o).pegs = c.pegs := rfl
@[simp] theorem emit_islands (o : Output) : (emit c o).islands = c.islands := rfl
@[simp] theorem emit_srcs (o : Output) : (emit c o).srcs = c.srcs := rfl
@[simp] theorem emit_hostList (o : Output) : (emit c o).hostList = c.hostList := rfl
@[simp] theorem emit_flushing (o : Output) : (emit c o).flushing = c.flushing := rfl
@[simp] theorem emit_pcie (o : Output) : (emit c o).pcie = c.pcie := rfl
@[simp] theorem emit_keys (o : Output) : (emit c o).keys = c.keys := rfl
@[simp] theorem emit_ptp (o : Output) : (emit c o).ptp = c.ptp := rfl
@[simp] theorem emit_dev (o : Output) : (emit c o).dev = c.dev := rfl
@[simp] theorem emit_queues (o : Output) : (emit c o).queues = c.queues := rfl
@[simp] theorem emit_accepted (o : Output) : (emit c o).accepted = c.accepted := rfl
@[simp] theorem emit_cur (o : Output) : (emit c o).cur = c.cur := rfl
@[simp] theorem emit_lastQueue (o : Output) : (emit c o).lastQueue = c.lastQueue := rfl
@[simp] theorem emit_lut (o : Output) : (emit c o).lut = c.lut := rfl
@[simp] theorem emit_fixedUnison (o : Output) : (emit c o).fixedUnison = c.fixedUnison := rfl
@[simp] theorem emit_sys (o : Output) : (emit c o).sys = c.sys := rfl

@[simp] theorem putByte_poison (a : Nat) (v : Byte) : (putByte c a v).poison = c.poison := rfl
@[simp] theorem putByte_sbe (a : Nat) (v : Byte) : (putByte c a v).sbe = c.sbe := rfl
@[simp] theorem putByte_regs (a : Nat) (v : Byte) : (putByte c a v).regs = c.regs := rfl
@[simp] theorem putByte_tb (a : Nat) (v : Byte) : (putByte c a v).tb = c.tb := rfl
@[simp] theorem putByte_frac (a : Nat) (v : Byte) : (putByte c a v).frac = c.frac := rfl
@[simp] theorem putByte_free (a : Nat) (v : Byte) : (putByte c a v).free = c.free := rfl
@[simp] theorem putByte_out (a : Nat) (v : Byte) : (putByte c a v).out = c.out := rfl
@[simp] theorem putByte_cores (a : Nat) (v : Byte) : (putByte c a v).cores = c.cores := rfl
@[simp] theorem putByte_courses (a : Nat) (v : Byte) : (putByte c a v).courses = c.courses := rfl
@[simp] theorem putByte_memResv (a : Nat) (v : Byte) : (putByte c a v).memResv = c.memResv := rfl
@[simp] theorem putByte_chans (a : Nat) (v : Byte) : (putByte c a v).chans = c.chans := rfl
@[simp] theorem putByte_cams (a : Nat) (v : Byte) : (putByte c a v).cams = c.cams := rfl
@[simp] theorem putByte_tab (a : Nat) (v : Byte) : (putByte c a v).tab = c.tab := rfl
@[simp] theorem putByte_ports (a : Nat) (v : Byte) : (putByte c a v).ports = c.ports := rfl
@[simp] theorem putByte_links (a : Nat) (v : Byte) : (putByte c a v).links = c.links := rfl
@[simp] theorem putByte_drones (a : Nat) (v : Byte) : (putByte c a v).drones = c.drones := rfl
@[simp] theorem putByte_stopped (a : Nat) (v : Byte) : (putByte c a v).stopped = c.stopped := rfl
@[simp] theorem putByte_banks (a : Nat) (v : Byte) : (putByte c a v).banks = c.banks := rfl
@[simp] theorem putByte_scrubs (a : Nat) (v : Byte) : (putByte c a v).scrubs = c.scrubs := rfl
@[simp] theorem putByte_flits (a : Nat) (v : Byte) : (putByte c a v).flits = c.flits := rfl
@[simp] theorem putByte_stalls (a : Nat) (v : Byte) : (putByte c a v).stalls = c.stalls := rfl
@[simp] theorem putByte_pegs (a : Nat) (v : Byte) : (putByte c a v).pegs = c.pegs := rfl
@[simp] theorem putByte_islands (a : Nat) (v : Byte) : (putByte c a v).islands = c.islands := rfl
@[simp] theorem putByte_srcs (a : Nat) (v : Byte) : (putByte c a v).srcs = c.srcs := rfl
@[simp] theorem putByte_hostList (a : Nat) (v : Byte) : (putByte c a v).hostList = c.hostList := rfl
@[simp] theorem putByte_flushing (a : Nat) (v : Byte) : (putByte c a v).flushing = c.flushing := rfl
@[simp] theorem putByte_pcie (a : Nat) (v : Byte) : (putByte c a v).pcie = c.pcie := rfl
@[simp] theorem putByte_keys (a : Nat) (v : Byte) : (putByte c a v).keys = c.keys := rfl
@[simp] theorem putByte_ptp (a : Nat) (v : Byte) : (putByte c a v).ptp = c.ptp := rfl
@[simp] theorem putByte_dev (a : Nat) (v : Byte) : (putByte c a v).dev = c.dev := rfl
@[simp] theorem putByte_queues (a : Nat) (v : Byte) : (putByte c a v).queues = c.queues := rfl
@[simp] theorem putByte_accepted (a : Nat) (v : Byte) : (putByte c a v).accepted = c.accepted := rfl
@[simp] theorem putByte_cur (a : Nat) (v : Byte) : (putByte c a v).cur = c.cur := rfl
@[simp] theorem putByte_lastQueue (a : Nat) (v : Byte) : (putByte c a v).lastQueue = c.lastQueue := rfl
@[simp] theorem putByte_lut (a : Nat) (v : Byte) : (putByte c a v).lut = c.lut := rfl
@[simp] theorem putByte_fixedUnison (a : Nat) (v : Byte) : (putByte c a v).fixedUnison = c.fixedUnison := rfl
@[simp] theorem putByte_sys (a : Nat) (v : Byte) : (putByte c a v).sys = c.sys := rfl

/-! ### Units -/

@[simp] theorem coreOf_updCore_same (k : Nat) (f : Core → Core) : coreOf (updCore c k f) k = f (coreOf c k) := Tbl.get_put_same _ _ _ _

theorem coreOf_updCore_other {k j : Nat}  (f : Core → Core) (h : j ≠ k) : coreOf (updCore c k f) j = coreOf c j :=
  Tbl.get_put_other _ _ _ h

@[simp] theorem coreOf_updCourse (k : Nat) (f : Course → Course) (x : Nat) : coreOf (updCourse c k f) x = coreOf c x := rfl
@[simp] theorem coreOf_updChan (k : Nat) (f : Chan → Chan) (x : Nat) : coreOf (updChan c k f) x = coreOf c x := rfl
@[simp] theorem coreOf_updPort (k : Nat) (f : Port → Port) (x : Nat) : coreOf (updPort c k f) x = coreOf c x := rfl
@[simp] theorem coreOf_updPeg (k : Nat) (f : Peg → Peg) (x : Nat) : coreOf (updPeg c k f) x = coreOf c x := rfl
@[simp] theorem coreOf_updSrc (k : Nat) (f : Src → Src) (x : Nat) : coreOf (updSrc c k f) x = coreOf c x := rfl
@[simp] theorem coreOf_updCam (k : Nat) (f : Cam → Cam) (x : Nat) : coreOf (updCam c k f) x = coreOf c x := rfl
@[simp] theorem coreOf_updDrone (k : Nat) (f : Drone → Drone) (x : Nat) : coreOf (updDrone c k f) x = coreOf c x := rfl
@[simp] theorem coreOf_updLink (k : Nat) (f : Link → Link) (x : Nat) : coreOf (updLink c k f) x = coreOf c x := rfl
@[simp] theorem coreOf_updQueue (k : Nat) (f : Queue → Queue) (x : Nat) : coreOf (updQueue c k f) x = coreOf c x := rfl
@[simp] theorem coreOf_updKey (k : Nat) (f : Key → Key) (x : Nat) : coreOf (updKey c k f) x = coreOf c x := rfl
@[simp] theorem coreOf_updLane (k : Nat) (f : Lane → Lane) (x : Nat) : coreOf (updLane c k f) x = coreOf c x := rfl
@[simp] theorem coreOf_updPower (f : PowerCmd → PowerCmd) (x : Nat) : coreOf (updPower c f) x = coreOf c x := rfl
@[simp] theorem coreOf_regPut (a : Nat) (w : Word) (x : Nat) : coreOf (regPut c a w) x = coreOf c x := rfl
@[simp] theorem coreOf_regUpd (a : Nat) (f : Word → Word) (x : Nat) : coreOf (regUpd c a f) x = coreOf c x := rfl
@[simp] theorem coreOf_regOr (a m : Nat) (x : Nat) : coreOf (regOr c a m) x = coreOf c x := rfl
@[simp] theorem coreOf_regClr (a m : Nat) (x : Nat) : coreOf (regClr c a m) x = coreOf c x := rfl
@[simp] theorem coreOf_regSetFld (a h l v : Nat) (x : Nat) : coreOf (regSetFld c a h l v) x = coreOf c x := rfl
@[simp] theorem coreOf_regCount (a h l v : Nat) (x : Nat) : coreOf (regCount c a h l v) x = coreOf c x := rfl
@[simp] theorem coreOf_regWrap (a h l v : Nat) (x : Nat) : coreOf (regWrap c a h l v) x = coreOf c x := rfl
@[simp] theorem coreOf_regMax (a h l v : Nat) (x : Nat) : coreOf (regMax c a h l v) x = coreOf c x := rfl
@[simp] theorem coreOf_emit (o : Output) (x : Nat) : coreOf (emit c o) x = coreOf c x := rfl
@[simp] theorem coreOf_putByte (a : Nat) (v : Byte) (x : Nat) : coreOf (putByte c a v) x = coreOf c x := rfl

@[simp] theorem courseOf_updCourse_same (k : Nat) (f : Course → Course) : courseOf (updCourse c k f) k = f (courseOf c k) := Tbl.get_put_same _ _ _ _

theorem courseOf_updCourse_other {k j : Nat}  (f : Course → Course) (h : j ≠ k) : courseOf (updCourse c k f) j = courseOf c j :=
  Tbl.get_put_other _ _ _ h

@[simp] theorem courseOf_updCore (k : Nat) (f : Core → Core) (x : Nat) : courseOf (updCore c k f) x = courseOf c x := rfl
@[simp] theorem courseOf_updChan (k : Nat) (f : Chan → Chan) (x : Nat) : courseOf (updChan c k f) x = courseOf c x := rfl
@[simp] theorem courseOf_updPort (k : Nat) (f : Port → Port) (x : Nat) : courseOf (updPort c k f) x = courseOf c x := rfl
@[simp] theorem courseOf_updPeg (k : Nat) (f : Peg → Peg) (x : Nat) : courseOf (updPeg c k f) x = courseOf c x := rfl
@[simp] theorem courseOf_updSrc (k : Nat) (f : Src → Src) (x : Nat) : courseOf (updSrc c k f) x = courseOf c x := rfl
@[simp] theorem courseOf_updCam (k : Nat) (f : Cam → Cam) (x : Nat) : courseOf (updCam c k f) x = courseOf c x := rfl
@[simp] theorem courseOf_updDrone (k : Nat) (f : Drone → Drone) (x : Nat) : courseOf (updDrone c k f) x = courseOf c x := rfl
@[simp] theorem courseOf_updLink (k : Nat) (f : Link → Link) (x : Nat) : courseOf (updLink c k f) x = courseOf c x := rfl
@[simp] theorem courseOf_updQueue (k : Nat) (f : Queue → Queue) (x : Nat) : courseOf (updQueue c k f) x = courseOf c x := rfl
@[simp] theorem courseOf_updKey (k : Nat) (f : Key → Key) (x : Nat) : courseOf (updKey c k f) x = courseOf c x := rfl
@[simp] theorem courseOf_updLane (k : Nat) (f : Lane → Lane) (x : Nat) : courseOf (updLane c k f) x = courseOf c x := rfl
@[simp] theorem courseOf_updPower (f : PowerCmd → PowerCmd) (x : Nat) : courseOf (updPower c f) x = courseOf c x := rfl
@[simp] theorem courseOf_regPut (a : Nat) (w : Word) (x : Nat) : courseOf (regPut c a w) x = courseOf c x := rfl
@[simp] theorem courseOf_regUpd (a : Nat) (f : Word → Word) (x : Nat) : courseOf (regUpd c a f) x = courseOf c x := rfl
@[simp] theorem courseOf_regOr (a m : Nat) (x : Nat) : courseOf (regOr c a m) x = courseOf c x := rfl
@[simp] theorem courseOf_regClr (a m : Nat) (x : Nat) : courseOf (regClr c a m) x = courseOf c x := rfl
@[simp] theorem courseOf_regSetFld (a h l v : Nat) (x : Nat) : courseOf (regSetFld c a h l v) x = courseOf c x := rfl
@[simp] theorem courseOf_regCount (a h l v : Nat) (x : Nat) : courseOf (regCount c a h l v) x = courseOf c x := rfl
@[simp] theorem courseOf_regWrap (a h l v : Nat) (x : Nat) : courseOf (regWrap c a h l v) x = courseOf c x := rfl
@[simp] theorem courseOf_regMax (a h l v : Nat) (x : Nat) : courseOf (regMax c a h l v) x = courseOf c x := rfl
@[simp] theorem courseOf_emit (o : Output) (x : Nat) : courseOf (emit c o) x = courseOf c x := rfl
@[simp] theorem courseOf_putByte (a : Nat) (v : Byte) (x : Nat) : courseOf (putByte c a v) x = courseOf c x := rfl

@[simp] theorem chanOf_updChan_same (k : Nat) (f : Chan → Chan) : chanOf (updChan c k f) k = f (chanOf c k) := Tbl.get_put_same _ _ _ _

theorem chanOf_updChan_other {k j : Nat}  (f : Chan → Chan) (h : j ≠ k) : chanOf (updChan c k f) j = chanOf c j :=
  Tbl.get_put_other _ _ _ h

@[simp] theorem chanOf_updCore (k : Nat) (f : Core → Core) (x : Nat) : chanOf (updCore c k f) x = chanOf c x := rfl
@[simp] theorem chanOf_updCourse (k : Nat) (f : Course → Course) (x : Nat) : chanOf (updCourse c k f) x = chanOf c x := rfl
@[simp] theorem chanOf_updPort (k : Nat) (f : Port → Port) (x : Nat) : chanOf (updPort c k f) x = chanOf c x := rfl
@[simp] theorem chanOf_updPeg (k : Nat) (f : Peg → Peg) (x : Nat) : chanOf (updPeg c k f) x = chanOf c x := rfl
@[simp] theorem chanOf_updSrc (k : Nat) (f : Src → Src) (x : Nat) : chanOf (updSrc c k f) x = chanOf c x := rfl
@[simp] theorem chanOf_updCam (k : Nat) (f : Cam → Cam) (x : Nat) : chanOf (updCam c k f) x = chanOf c x := rfl
@[simp] theorem chanOf_updDrone (k : Nat) (f : Drone → Drone) (x : Nat) : chanOf (updDrone c k f) x = chanOf c x := rfl
@[simp] theorem chanOf_updLink (k : Nat) (f : Link → Link) (x : Nat) : chanOf (updLink c k f) x = chanOf c x := rfl
@[simp] theorem chanOf_updQueue (k : Nat) (f : Queue → Queue) (x : Nat) : chanOf (updQueue c k f) x = chanOf c x := rfl
@[simp] theorem chanOf_updKey (k : Nat) (f : Key → Key) (x : Nat) : chanOf (updKey c k f) x = chanOf c x := rfl
@[simp] theorem chanOf_updLane (k : Nat) (f : Lane → Lane) (x : Nat) : chanOf (updLane c k f) x = chanOf c x := rfl
@[simp] theorem chanOf_updPower (f : PowerCmd → PowerCmd) (x : Nat) : chanOf (updPower c f) x = chanOf c x := rfl
@[simp] theorem chanOf_regPut (a : Nat) (w : Word) (x : Nat) : chanOf (regPut c a w) x = chanOf c x := rfl
@[simp] theorem chanOf_regUpd (a : Nat) (f : Word → Word) (x : Nat) : chanOf (regUpd c a f) x = chanOf c x := rfl
@[simp] theorem chanOf_regOr (a m : Nat) (x : Nat) : chanOf (regOr c a m) x = chanOf c x := rfl
@[simp] theorem chanOf_regClr (a m : Nat) (x : Nat) : chanOf (regClr c a m) x = chanOf c x := rfl
@[simp] theorem chanOf_regSetFld (a h l v : Nat) (x : Nat) : chanOf (regSetFld c a h l v) x = chanOf c x := rfl
@[simp] theorem chanOf_regCount (a h l v : Nat) (x : Nat) : chanOf (regCount c a h l v) x = chanOf c x := rfl
@[simp] theorem chanOf_regWrap (a h l v : Nat) (x : Nat) : chanOf (regWrap c a h l v) x = chanOf c x := rfl
@[simp] theorem chanOf_regMax (a h l v : Nat) (x : Nat) : chanOf (regMax c a h l v) x = chanOf c x := rfl
@[simp] theorem chanOf_emit (o : Output) (x : Nat) : chanOf (emit c o) x = chanOf c x := rfl
@[simp] theorem chanOf_putByte (a : Nat) (v : Byte) (x : Nat) : chanOf (putByte c a v) x = chanOf c x := rfl

@[simp] theorem portOf_updPort_same (k : Nat) (f : Port → Port) : portOf (updPort c k f) k = f (portOf c k) := Tbl.get_put_same _ _ _ _

theorem portOf_updPort_other {k j : Nat}  (f : Port → Port) (h : j ≠ k) : portOf (updPort c k f) j = portOf c j :=
  Tbl.get_put_other _ _ _ h

@[simp] theorem portOf_updCore (k : Nat) (f : Core → Core) (x : Nat) : portOf (updCore c k f) x = portOf c x := rfl
@[simp] theorem portOf_updCourse (k : Nat) (f : Course → Course) (x : Nat) : portOf (updCourse c k f) x = portOf c x := rfl
@[simp] theorem portOf_updChan (k : Nat) (f : Chan → Chan) (x : Nat) : portOf (updChan c k f) x = portOf c x := rfl
@[simp] theorem portOf_updPeg (k : Nat) (f : Peg → Peg) (x : Nat) : portOf (updPeg c k f) x = portOf c x := rfl
@[simp] theorem portOf_updSrc (k : Nat) (f : Src → Src) (x : Nat) : portOf (updSrc c k f) x = portOf c x := rfl
@[simp] theorem portOf_updCam (k : Nat) (f : Cam → Cam) (x : Nat) : portOf (updCam c k f) x = portOf c x := rfl
@[simp] theorem portOf_updDrone (k : Nat) (f : Drone → Drone) (x : Nat) : portOf (updDrone c k f) x = portOf c x := rfl
@[simp] theorem portOf_updLink (k : Nat) (f : Link → Link) (x : Nat) : portOf (updLink c k f) x = portOf c x := rfl
@[simp] theorem portOf_updQueue (k : Nat) (f : Queue → Queue) (x : Nat) : portOf (updQueue c k f) x = portOf c x := rfl
@[simp] theorem portOf_updKey (k : Nat) (f : Key → Key) (x : Nat) : portOf (updKey c k f) x = portOf c x := rfl
@[simp] theorem portOf_updLane (k : Nat) (f : Lane → Lane) (x : Nat) : portOf (updLane c k f) x = portOf c x := rfl
@[simp] theorem portOf_updPower (f : PowerCmd → PowerCmd) (x : Nat) : portOf (updPower c f) x = portOf c x := rfl
@[simp] theorem portOf_regPut (a : Nat) (w : Word) (x : Nat) : portOf (regPut c a w) x = portOf c x := rfl
@[simp] theorem portOf_regUpd (a : Nat) (f : Word → Word) (x : Nat) : portOf (regUpd c a f) x = portOf c x := rfl
@[simp] theorem portOf_regOr (a m : Nat) (x : Nat) : portOf (regOr c a m) x = portOf c x := rfl
@[simp] theorem portOf_regClr (a m : Nat) (x : Nat) : portOf (regClr c a m) x = portOf c x := rfl
@[simp] theorem portOf_regSetFld (a h l v : Nat) (x : Nat) : portOf (regSetFld c a h l v) x = portOf c x := rfl
@[simp] theorem portOf_regCount (a h l v : Nat) (x : Nat) : portOf (regCount c a h l v) x = portOf c x := rfl
@[simp] theorem portOf_regWrap (a h l v : Nat) (x : Nat) : portOf (regWrap c a h l v) x = portOf c x := rfl
@[simp] theorem portOf_regMax (a h l v : Nat) (x : Nat) : portOf (regMax c a h l v) x = portOf c x := rfl
@[simp] theorem portOf_emit (o : Output) (x : Nat) : portOf (emit c o) x = portOf c x := rfl
@[simp] theorem portOf_putByte (a : Nat) (v : Byte) (x : Nat) : portOf (putByte c a v) x = portOf c x := rfl

@[simp] theorem pegOf_updPeg_same (k : Nat) (f : Peg → Peg) : pegOf (updPeg c k f) k = f (pegOf c k) := Tbl.get_put_same _ _ _ _

theorem pegOf_updPeg_other {k j : Nat}  (f : Peg → Peg) (h : j ≠ k) : pegOf (updPeg c k f) j = pegOf c j :=
  Tbl.get_put_other _ _ _ h

@[simp] theorem pegOf_updCore (k : Nat) (f : Core → Core) (x : Nat) : pegOf (updCore c k f) x = pegOf c x := rfl
@[simp] theorem pegOf_updCourse (k : Nat) (f : Course → Course) (x : Nat) : pegOf (updCourse c k f) x = pegOf c x := rfl
@[simp] theorem pegOf_updChan (k : Nat) (f : Chan → Chan) (x : Nat) : pegOf (updChan c k f) x = pegOf c x := rfl
@[simp] theorem pegOf_updPort (k : Nat) (f : Port → Port) (x : Nat) : pegOf (updPort c k f) x = pegOf c x := rfl
@[simp] theorem pegOf_updSrc (k : Nat) (f : Src → Src) (x : Nat) : pegOf (updSrc c k f) x = pegOf c x := rfl
@[simp] theorem pegOf_updCam (k : Nat) (f : Cam → Cam) (x : Nat) : pegOf (updCam c k f) x = pegOf c x := rfl
@[simp] theorem pegOf_updDrone (k : Nat) (f : Drone → Drone) (x : Nat) : pegOf (updDrone c k f) x = pegOf c x := rfl
@[simp] theorem pegOf_updLink (k : Nat) (f : Link → Link) (x : Nat) : pegOf (updLink c k f) x = pegOf c x := rfl
@[simp] theorem pegOf_updQueue (k : Nat) (f : Queue → Queue) (x : Nat) : pegOf (updQueue c k f) x = pegOf c x := rfl
@[simp] theorem pegOf_updKey (k : Nat) (f : Key → Key) (x : Nat) : pegOf (updKey c k f) x = pegOf c x := rfl
@[simp] theorem pegOf_updLane (k : Nat) (f : Lane → Lane) (x : Nat) : pegOf (updLane c k f) x = pegOf c x := rfl
@[simp] theorem pegOf_updPower (f : PowerCmd → PowerCmd) (x : Nat) : pegOf (updPower c f) x = pegOf c x := rfl
@[simp] theorem pegOf_regPut (a : Nat) (w : Word) (x : Nat) : pegOf (regPut c a w) x = pegOf c x := rfl
@[simp] theorem pegOf_regUpd (a : Nat) (f : Word → Word) (x : Nat) : pegOf (regUpd c a f) x = pegOf c x := rfl
@[simp] theorem pegOf_regOr (a m : Nat) (x : Nat) : pegOf (regOr c a m) x = pegOf c x := rfl
@[simp] theorem pegOf_regClr (a m : Nat) (x : Nat) : pegOf (regClr c a m) x = pegOf c x := rfl
@[simp] theorem pegOf_regSetFld (a h l v : Nat) (x : Nat) : pegOf (regSetFld c a h l v) x = pegOf c x := rfl
@[simp] theorem pegOf_regCount (a h l v : Nat) (x : Nat) : pegOf (regCount c a h l v) x = pegOf c x := rfl
@[simp] theorem pegOf_regWrap (a h l v : Nat) (x : Nat) : pegOf (regWrap c a h l v) x = pegOf c x := rfl
@[simp] theorem pegOf_regMax (a h l v : Nat) (x : Nat) : pegOf (regMax c a h l v) x = pegOf c x := rfl
@[simp] theorem pegOf_emit (o : Output) (x : Nat) : pegOf (emit c o) x = pegOf c x := rfl
@[simp] theorem pegOf_putByte (a : Nat) (v : Byte) (x : Nat) : pegOf (putByte c a v) x = pegOf c x := rfl

@[simp] theorem srcOf_updSrc_same (k : Nat) (f : Src → Src) : srcOf (updSrc c k f) k = f (srcOf c k) := Tbl.get_put_same _ _ _ _

theorem srcOf_updSrc_other {k j : Nat}  (f : Src → Src) (h : j ≠ k) : srcOf (updSrc c k f) j = srcOf c j :=
  Tbl.get_put_other _ _ _ h

@[simp] theorem srcOf_updCore (k : Nat) (f : Core → Core) (x : Nat) : srcOf (updCore c k f) x = srcOf c x := rfl
@[simp] theorem srcOf_updCourse (k : Nat) (f : Course → Course) (x : Nat) : srcOf (updCourse c k f) x = srcOf c x := rfl
@[simp] theorem srcOf_updChan (k : Nat) (f : Chan → Chan) (x : Nat) : srcOf (updChan c k f) x = srcOf c x := rfl
@[simp] theorem srcOf_updPort (k : Nat) (f : Port → Port) (x : Nat) : srcOf (updPort c k f) x = srcOf c x := rfl
@[simp] theorem srcOf_updPeg (k : Nat) (f : Peg → Peg) (x : Nat) : srcOf (updPeg c k f) x = srcOf c x := rfl
@[simp] theorem srcOf_updCam (k : Nat) (f : Cam → Cam) (x : Nat) : srcOf (updCam c k f) x = srcOf c x := rfl
@[simp] theorem srcOf_updDrone (k : Nat) (f : Drone → Drone) (x : Nat) : srcOf (updDrone c k f) x = srcOf c x := rfl
@[simp] theorem srcOf_updLink (k : Nat) (f : Link → Link) (x : Nat) : srcOf (updLink c k f) x = srcOf c x := rfl
@[simp] theorem srcOf_updQueue (k : Nat) (f : Queue → Queue) (x : Nat) : srcOf (updQueue c k f) x = srcOf c x := rfl
@[simp] theorem srcOf_updKey (k : Nat) (f : Key → Key) (x : Nat) : srcOf (updKey c k f) x = srcOf c x := rfl
@[simp] theorem srcOf_updLane (k : Nat) (f : Lane → Lane) (x : Nat) : srcOf (updLane c k f) x = srcOf c x := rfl
@[simp] theorem srcOf_updPower (f : PowerCmd → PowerCmd) (x : Nat) : srcOf (updPower c f) x = srcOf c x := rfl
@[simp] theorem srcOf_regPut (a : Nat) (w : Word) (x : Nat) : srcOf (regPut c a w) x = srcOf c x := rfl
@[simp] theorem srcOf_regUpd (a : Nat) (f : Word → Word) (x : Nat) : srcOf (regUpd c a f) x = srcOf c x := rfl
@[simp] theorem srcOf_regOr (a m : Nat) (x : Nat) : srcOf (regOr c a m) x = srcOf c x := rfl
@[simp] theorem srcOf_regClr (a m : Nat) (x : Nat) : srcOf (regClr c a m) x = srcOf c x := rfl
@[simp] theorem srcOf_regSetFld (a h l v : Nat) (x : Nat) : srcOf (regSetFld c a h l v) x = srcOf c x := rfl
@[simp] theorem srcOf_regCount (a h l v : Nat) (x : Nat) : srcOf (regCount c a h l v) x = srcOf c x := rfl
@[simp] theorem srcOf_regWrap (a h l v : Nat) (x : Nat) : srcOf (regWrap c a h l v) x = srcOf c x := rfl
@[simp] theorem srcOf_regMax (a h l v : Nat) (x : Nat) : srcOf (regMax c a h l v) x = srcOf c x := rfl
@[simp] theorem srcOf_emit (o : Output) (x : Nat) : srcOf (emit c o) x = srcOf c x := rfl
@[simp] theorem srcOf_putByte (a : Nat) (v : Byte) (x : Nat) : srcOf (putByte c a v) x = srcOf c x := rfl

@[simp] theorem camOf_updCam_same (k : Nat) (f : Cam → Cam) : camOf (updCam c k f) k = f (camOf c k) := Tbl.get_put_same _ _ _ _

theorem camOf_updCam_other {k j : Nat}  (f : Cam → Cam) (h : j ≠ k) : camOf (updCam c k f) j = camOf c j :=
  Tbl.get_put_other _ _ _ h

@[simp] theorem camOf_updCore (k : Nat) (f : Core → Core) (x : Nat) : camOf (updCore c k f) x = camOf c x := rfl
@[simp] theorem camOf_updCourse (k : Nat) (f : Course → Course) (x : Nat) : camOf (updCourse c k f) x = camOf c x := rfl
@[simp] theorem camOf_updChan (k : Nat) (f : Chan → Chan) (x : Nat) : camOf (updChan c k f) x = camOf c x := rfl
@[simp] theorem camOf_updPort (k : Nat) (f : Port → Port) (x : Nat) : camOf (updPort c k f) x = camOf c x := rfl
@[simp] theorem camOf_updPeg (k : Nat) (f : Peg → Peg) (x : Nat) : camOf (updPeg c k f) x = camOf c x := rfl
@[simp] theorem camOf_updSrc (k : Nat) (f : Src → Src) (x : Nat) : camOf (updSrc c k f) x = camOf c x := rfl
@[simp] theorem camOf_updDrone (k : Nat) (f : Drone → Drone) (x : Nat) : camOf (updDrone c k f) x = camOf c x := rfl
@[simp] theorem camOf_updLink (k : Nat) (f : Link → Link) (x : Nat) : camOf (updLink c k f) x = camOf c x := rfl
@[simp] theorem camOf_updQueue (k : Nat) (f : Queue → Queue) (x : Nat) : camOf (updQueue c k f) x = camOf c x := rfl
@[simp] theorem camOf_updKey (k : Nat) (f : Key → Key) (x : Nat) : camOf (updKey c k f) x = camOf c x := rfl
@[simp] theorem camOf_updLane (k : Nat) (f : Lane → Lane) (x : Nat) : camOf (updLane c k f) x = camOf c x := rfl
@[simp] theorem camOf_updPower (f : PowerCmd → PowerCmd) (x : Nat) : camOf (updPower c f) x = camOf c x := rfl
@[simp] theorem camOf_regPut (a : Nat) (w : Word) (x : Nat) : camOf (regPut c a w) x = camOf c x := rfl
@[simp] theorem camOf_regUpd (a : Nat) (f : Word → Word) (x : Nat) : camOf (regUpd c a f) x = camOf c x := rfl
@[simp] theorem camOf_regOr (a m : Nat) (x : Nat) : camOf (regOr c a m) x = camOf c x := rfl
@[simp] theorem camOf_regClr (a m : Nat) (x : Nat) : camOf (regClr c a m) x = camOf c x := rfl
@[simp] theorem camOf_regSetFld (a h l v : Nat) (x : Nat) : camOf (regSetFld c a h l v) x = camOf c x := rfl
@[simp] theorem camOf_regCount (a h l v : Nat) (x : Nat) : camOf (regCount c a h l v) x = camOf c x := rfl
@[simp] theorem camOf_regWrap (a h l v : Nat) (x : Nat) : camOf (regWrap c a h l v) x = camOf c x := rfl
@[simp] theorem camOf_regMax (a h l v : Nat) (x : Nat) : camOf (regMax c a h l v) x = camOf c x := rfl
@[simp] theorem camOf_emit (o : Output) (x : Nat) : camOf (emit c o) x = camOf c x := rfl
@[simp] theorem camOf_putByte (a : Nat) (v : Byte) (x : Nat) : camOf (putByte c a v) x = camOf c x := rfl

@[simp] theorem droneOf_updDrone_same (k : Nat) (f : Drone → Drone) : droneOf (updDrone c k f) k = f (droneOf c k) := Tbl.get_put_same _ _ _ _

theorem droneOf_updDrone_other {k j : Nat}  (f : Drone → Drone) (h : j ≠ k) : droneOf (updDrone c k f) j = droneOf c j :=
  Tbl.get_put_other _ _ _ h

@[simp] theorem droneOf_updCore (k : Nat) (f : Core → Core) (x : Nat) : droneOf (updCore c k f) x = droneOf c x := rfl
@[simp] theorem droneOf_updCourse (k : Nat) (f : Course → Course) (x : Nat) : droneOf (updCourse c k f) x = droneOf c x := rfl
@[simp] theorem droneOf_updChan (k : Nat) (f : Chan → Chan) (x : Nat) : droneOf (updChan c k f) x = droneOf c x := rfl
@[simp] theorem droneOf_updPort (k : Nat) (f : Port → Port) (x : Nat) : droneOf (updPort c k f) x = droneOf c x := rfl
@[simp] theorem droneOf_updPeg (k : Nat) (f : Peg → Peg) (x : Nat) : droneOf (updPeg c k f) x = droneOf c x := rfl
@[simp] theorem droneOf_updSrc (k : Nat) (f : Src → Src) (x : Nat) : droneOf (updSrc c k f) x = droneOf c x := rfl
@[simp] theorem droneOf_updCam (k : Nat) (f : Cam → Cam) (x : Nat) : droneOf (updCam c k f) x = droneOf c x := rfl
@[simp] theorem droneOf_updLink (k : Nat) (f : Link → Link) (x : Nat) : droneOf (updLink c k f) x = droneOf c x := rfl
@[simp] theorem droneOf_updQueue (k : Nat) (f : Queue → Queue) (x : Nat) : droneOf (updQueue c k f) x = droneOf c x := rfl
@[simp] theorem droneOf_updKey (k : Nat) (f : Key → Key) (x : Nat) : droneOf (updKey c k f) x = droneOf c x := rfl
@[simp] theorem droneOf_updLane (k : Nat) (f : Lane → Lane) (x : Nat) : droneOf (updLane c k f) x = droneOf c x := rfl
@[simp] theorem droneOf_updPower (f : PowerCmd → PowerCmd) (x : Nat) : droneOf (updPower c f) x = droneOf c x := rfl
@[simp] theorem droneOf_regPut (a : Nat) (w : Word) (x : Nat) : droneOf (regPut c a w) x = droneOf c x := rfl
@[simp] theorem droneOf_regUpd (a : Nat) (f : Word → Word) (x : Nat) : droneOf (regUpd c a f) x = droneOf c x := rfl
@[simp] theorem droneOf_regOr (a m : Nat) (x : Nat) : droneOf (regOr c a m) x = droneOf c x := rfl
@[simp] theorem droneOf_regClr (a m : Nat) (x : Nat) : droneOf (regClr c a m) x = droneOf c x := rfl
@[simp] theorem droneOf_regSetFld (a h l v : Nat) (x : Nat) : droneOf (regSetFld c a h l v) x = droneOf c x := rfl
@[simp] theorem droneOf_regCount (a h l v : Nat) (x : Nat) : droneOf (regCount c a h l v) x = droneOf c x := rfl
@[simp] theorem droneOf_regWrap (a h l v : Nat) (x : Nat) : droneOf (regWrap c a h l v) x = droneOf c x := rfl
@[simp] theorem droneOf_regMax (a h l v : Nat) (x : Nat) : droneOf (regMax c a h l v) x = droneOf c x := rfl
@[simp] theorem droneOf_emit (o : Output) (x : Nat) : droneOf (emit c o) x = droneOf c x := rfl
@[simp] theorem droneOf_putByte (a : Nat) (v : Byte) (x : Nat) : droneOf (putByte c a v) x = droneOf c x := rfl

@[simp] theorem linkOf_updLink_same (k : Nat) (f : Link → Link) : linkOf (updLink c k f) k = f (linkOf c k) := Tbl.get_put_same _ _ _ _

theorem linkOf_updLink_other {k j : Nat}  (f : Link → Link) (h : j ≠ k) : linkOf (updLink c k f) j = linkOf c j :=
  Tbl.get_put_other _ _ _ h

@[simp] theorem linkOf_updCore (k : Nat) (f : Core → Core) (x : Nat) : linkOf (updCore c k f) x = linkOf c x := rfl
@[simp] theorem linkOf_updCourse (k : Nat) (f : Course → Course) (x : Nat) : linkOf (updCourse c k f) x = linkOf c x := rfl
@[simp] theorem linkOf_updChan (k : Nat) (f : Chan → Chan) (x : Nat) : linkOf (updChan c k f) x = linkOf c x := rfl
@[simp] theorem linkOf_updPort (k : Nat) (f : Port → Port) (x : Nat) : linkOf (updPort c k f) x = linkOf c x := rfl
@[simp] theorem linkOf_updPeg (k : Nat) (f : Peg → Peg) (x : Nat) : linkOf (updPeg c k f) x = linkOf c x := rfl
@[simp] theorem linkOf_updSrc (k : Nat) (f : Src → Src) (x : Nat) : linkOf (updSrc c k f) x = linkOf c x := rfl
@[simp] theorem linkOf_updCam (k : Nat) (f : Cam → Cam) (x : Nat) : linkOf (updCam c k f) x = linkOf c x := rfl
@[simp] theorem linkOf_updDrone (k : Nat) (f : Drone → Drone) (x : Nat) : linkOf (updDrone c k f) x = linkOf c x := rfl
@[simp] theorem linkOf_updQueue (k : Nat) (f : Queue → Queue) (x : Nat) : linkOf (updQueue c k f) x = linkOf c x := rfl
@[simp] theorem linkOf_updKey (k : Nat) (f : Key → Key) (x : Nat) : linkOf (updKey c k f) x = linkOf c x := rfl
@[simp] theorem linkOf_updLane (k : Nat) (f : Lane → Lane) (x : Nat) : linkOf (updLane c k f) x = linkOf c x := rfl
@[simp] theorem linkOf_updPower (f : PowerCmd → PowerCmd) (x : Nat) : linkOf (updPower c f) x = linkOf c x := rfl
@[simp] theorem linkOf_regPut (a : Nat) (w : Word) (x : Nat) : linkOf (regPut c a w) x = linkOf c x := rfl
@[simp] theorem linkOf_regUpd (a : Nat) (f : Word → Word) (x : Nat) : linkOf (regUpd c a f) x = linkOf c x := rfl
@[simp] theorem linkOf_regOr (a m : Nat) (x : Nat) : linkOf (regOr c a m) x = linkOf c x := rfl
@[simp] theorem linkOf_regClr (a m : Nat) (x : Nat) : linkOf (regClr c a m) x = linkOf c x := rfl
@[simp] theorem linkOf_regSetFld (a h l v : Nat) (x : Nat) : linkOf (regSetFld c a h l v) x = linkOf c x := rfl
@[simp] theorem linkOf_regCount (a h l v : Nat) (x : Nat) : linkOf (regCount c a h l v) x = linkOf c x := rfl
@[simp] theorem linkOf_regWrap (a h l v : Nat) (x : Nat) : linkOf (regWrap c a h l v) x = linkOf c x := rfl
@[simp] theorem linkOf_regMax (a h l v : Nat) (x : Nat) : linkOf (regMax c a h l v) x = linkOf c x := rfl
@[simp] theorem linkOf_emit (o : Output) (x : Nat) : linkOf (emit c o) x = linkOf c x := rfl
@[simp] theorem linkOf_putByte (a : Nat) (v : Byte) (x : Nat) : linkOf (putByte c a v) x = linkOf c x := rfl

@[simp] theorem queueOf_updQueue_same (k : Nat) (f : Queue → Queue) : queueOf (updQueue c k f) k = f (queueOf c k) := Tbl.get_put_same _ _ _ _

theorem queueOf_updQueue_other {k j : Nat}  (f : Queue → Queue) (h : j ≠ k) : queueOf (updQueue c k f) j = queueOf c j :=
  Tbl.get_put_other _ _ _ h

@[simp] theorem queueOf_updCore (k : Nat) (f : Core → Core) (x : Nat) : queueOf (updCore c k f) x = queueOf c x := rfl
@[simp] theorem queueOf_updCourse (k : Nat) (f : Course → Course) (x : Nat) : queueOf (updCourse c k f) x = queueOf c x := rfl
@[simp] theorem queueOf_updChan (k : Nat) (f : Chan → Chan) (x : Nat) : queueOf (updChan c k f) x = queueOf c x := rfl
@[simp] theorem queueOf_updPort (k : Nat) (f : Port → Port) (x : Nat) : queueOf (updPort c k f) x = queueOf c x := rfl
@[simp] theorem queueOf_updPeg (k : Nat) (f : Peg → Peg) (x : Nat) : queueOf (updPeg c k f) x = queueOf c x := rfl
@[simp] theorem queueOf_updSrc (k : Nat) (f : Src → Src) (x : Nat) : queueOf (updSrc c k f) x = queueOf c x := rfl
@[simp] theorem queueOf_updCam (k : Nat) (f : Cam → Cam) (x : Nat) : queueOf (updCam c k f) x = queueOf c x := rfl
@[simp] theorem queueOf_updDrone (k : Nat) (f : Drone → Drone) (x : Nat) : queueOf (updDrone c k f) x = queueOf c x := rfl
@[simp] theorem queueOf_updLink (k : Nat) (f : Link → Link) (x : Nat) : queueOf (updLink c k f) x = queueOf c x := rfl
@[simp] theorem queueOf_updKey (k : Nat) (f : Key → Key) (x : Nat) : queueOf (updKey c k f) x = queueOf c x := rfl
@[simp] theorem queueOf_updLane (k : Nat) (f : Lane → Lane) (x : Nat) : queueOf (updLane c k f) x = queueOf c x := rfl
@[simp] theorem queueOf_updPower (f : PowerCmd → PowerCmd) (x : Nat) : queueOf (updPower c f) x = queueOf c x := rfl
@[simp] theorem queueOf_regPut (a : Nat) (w : Word) (x : Nat) : queueOf (regPut c a w) x = queueOf c x := rfl
@[simp] theorem queueOf_regUpd (a : Nat) (f : Word → Word) (x : Nat) : queueOf (regUpd c a f) x = queueOf c x := rfl
@[simp] theorem queueOf_regOr (a m : Nat) (x : Nat) : queueOf (regOr c a m) x = queueOf c x := rfl
@[simp] theorem queueOf_regClr (a m : Nat) (x : Nat) : queueOf (regClr c a m) x = queueOf c x := rfl
@[simp] theorem queueOf_regSetFld (a h l v : Nat) (x : Nat) : queueOf (regSetFld c a h l v) x = queueOf c x := rfl
@[simp] theorem queueOf_regCount (a h l v : Nat) (x : Nat) : queueOf (regCount c a h l v) x = queueOf c x := rfl
@[simp] theorem queueOf_regWrap (a h l v : Nat) (x : Nat) : queueOf (regWrap c a h l v) x = queueOf c x := rfl
@[simp] theorem queueOf_regMax (a h l v : Nat) (x : Nat) : queueOf (regMax c a h l v) x = queueOf c x := rfl
@[simp] theorem queueOf_emit (o : Output) (x : Nat) : queueOf (emit c o) x = queueOf c x := rfl
@[simp] theorem queueOf_putByte (a : Nat) (v : Byte) (x : Nat) : queueOf (putByte c a v) x = queueOf c x := rfl

@[simp] theorem keyOf_updKey_same (k : Nat) (f : Key → Key) : keyOf (updKey c k f) k = f (keyOf c k) := Tbl.get_put_same _ _ _ _

theorem keyOf_updKey_other {k j : Nat}  (f : Key → Key) (h : j ≠ k) : keyOf (updKey c k f) j = keyOf c j :=
  Tbl.get_put_other _ _ _ h

@[simp] theorem keyOf_updCore (k : Nat) (f : Core → Core) (x : Nat) : keyOf (updCore c k f) x = keyOf c x := rfl
@[simp] theorem keyOf_updCourse (k : Nat) (f : Course → Course) (x : Nat) : keyOf (updCourse c k f) x = keyOf c x := rfl
@[simp] theorem keyOf_updChan (k : Nat) (f : Chan → Chan) (x : Nat) : keyOf (updChan c k f) x = keyOf c x := rfl
@[simp] theorem keyOf_updPort (k : Nat) (f : Port → Port) (x : Nat) : keyOf (updPort c k f) x = keyOf c x := rfl
@[simp] theorem keyOf_updPeg (k : Nat) (f : Peg → Peg) (x : Nat) : keyOf (updPeg c k f) x = keyOf c x := rfl
@[simp] theorem keyOf_updSrc (k : Nat) (f : Src → Src) (x : Nat) : keyOf (updSrc c k f) x = keyOf c x := rfl
@[simp] theorem keyOf_updCam (k : Nat) (f : Cam → Cam) (x : Nat) : keyOf (updCam c k f) x = keyOf c x := rfl
@[simp] theorem keyOf_updDrone (k : Nat) (f : Drone → Drone) (x : Nat) : keyOf (updDrone c k f) x = keyOf c x := rfl
@[simp] theorem keyOf_updLink (k : Nat) (f : Link → Link) (x : Nat) : keyOf (updLink c k f) x = keyOf c x := rfl
@[simp] theorem keyOf_updQueue (k : Nat) (f : Queue → Queue) (x : Nat) : keyOf (updQueue c k f) x = keyOf c x := rfl
@[simp] theorem keyOf_updLane (k : Nat) (f : Lane → Lane) (x : Nat) : keyOf (updLane c k f) x = keyOf c x := rfl
@[simp] theorem keyOf_updPower (f : PowerCmd → PowerCmd) (x : Nat) : keyOf (updPower c f) x = keyOf c x := rfl
@[simp] theorem keyOf_regPut (a : Nat) (w : Word) (x : Nat) : keyOf (regPut c a w) x = keyOf c x := rfl
@[simp] theorem keyOf_regUpd (a : Nat) (f : Word → Word) (x : Nat) : keyOf (regUpd c a f) x = keyOf c x := rfl
@[simp] theorem keyOf_regOr (a m : Nat) (x : Nat) : keyOf (regOr c a m) x = keyOf c x := rfl
@[simp] theorem keyOf_regClr (a m : Nat) (x : Nat) : keyOf (regClr c a m) x = keyOf c x := rfl
@[simp] theorem keyOf_regSetFld (a h l v : Nat) (x : Nat) : keyOf (regSetFld c a h l v) x = keyOf c x := rfl
@[simp] theorem keyOf_regCount (a h l v : Nat) (x : Nat) : keyOf (regCount c a h l v) x = keyOf c x := rfl
@[simp] theorem keyOf_regWrap (a h l v : Nat) (x : Nat) : keyOf (regWrap c a h l v) x = keyOf c x := rfl
@[simp] theorem keyOf_regMax (a h l v : Nat) (x : Nat) : keyOf (regMax c a h l v) x = keyOf c x := rfl
@[simp] theorem keyOf_emit (o : Output) (x : Nat) : keyOf (emit c o) x = keyOf c x := rfl
@[simp] theorem keyOf_putByte (a : Nat) (v : Byte) (x : Nat) : keyOf (putByte c a v) x = keyOf c x := rfl

/-! ### Registers and memory -/

@[simp] theorem regVal_regPut_same (a : Nat) (w : Word) : regVal (regPut c a w) a = w := by
  unfold regVal regPut; exact Tbl.get_put_same _ _ _ _

theorem regVal_regPut_other {a b : Nat} (w : Word) (h : b ≠ a) : regVal (regPut c a w) b = regVal c b := by
  unfold regVal regPut; exact Tbl.get_put_apart _ _ _ _ h

@[simp] theorem regVal_regUpd_same (a : Nat) (f : Word → Word) : regVal (regUpd c a f) a = f (regVal c a) :=
  regVal_regPut_same c a _

theorem regVal_regUpd_other {a b : Nat} (f : Word → Word) (h : b ≠ a) : regVal (regUpd c a f) b = regVal c b :=
  regVal_regPut_other c _ h

@[simp] theorem byteAt_putByte_same (a : Nat) (v : Byte) : byteAt (putByte c a v) a = v := Memory.read_write_same _ _ _

theorem byteAt_putByte_other {a b : Nat} (v : Byte) (h : b ≠ a) : byteAt (putByte c a v) b = byteAt c b :=
  Memory.read_write_other _ v h

@[simp] theorem regVal_updCore (k : Nat) (f : Core → Core) (x : Nat) : regVal (updCore c k f) x = regVal c x := rfl
@[simp] theorem byteAt_updCore (k : Nat) (f : Core → Core) (x : Nat) : byteAt (updCore c k f) x = byteAt c x := rfl
@[simp] theorem regVal_updCourse (k : Nat) (f : Course → Course) (x : Nat) : regVal (updCourse c k f) x = regVal c x := rfl
@[simp] theorem byteAt_updCourse (k : Nat) (f : Course → Course) (x : Nat) : byteAt (updCourse c k f) x = byteAt c x := rfl
@[simp] theorem regVal_updChan (k : Nat) (f : Chan → Chan) (x : Nat) : regVal (updChan c k f) x = regVal c x := rfl
@[simp] theorem byteAt_updChan (k : Nat) (f : Chan → Chan) (x : Nat) : byteAt (updChan c k f) x = byteAt c x := rfl
@[simp] theorem regVal_updPort (k : Nat) (f : Port → Port) (x : Nat) : regVal (updPort c k f) x = regVal c x := rfl
@[simp] theorem byteAt_updPort (k : Nat) (f : Port → Port) (x : Nat) : byteAt (updPort c k f) x = byteAt c x := rfl
@[simp] theorem regVal_updPeg (k : Nat) (f : Peg → Peg) (x : Nat) : regVal (updPeg c k f) x = regVal c x := rfl
@[simp] theorem byteAt_updPeg (k : Nat) (f : Peg → Peg) (x : Nat) : byteAt (updPeg c k f) x = byteAt c x := rfl
@[simp] theorem regVal_updSrc (k : Nat) (f : Src → Src) (x : Nat) : regVal (updSrc c k f) x = regVal c x := rfl
@[simp] theorem byteAt_updSrc (k : Nat) (f : Src → Src) (x : Nat) : byteAt (updSrc c k f) x = byteAt c x := rfl
@[simp] theorem regVal_updCam (k : Nat) (f : Cam → Cam) (x : Nat) : regVal (updCam c k f) x = regVal c x := rfl
@[simp] theorem byteAt_updCam (k : Nat) (f : Cam → Cam) (x : Nat) : byteAt (updCam c k f) x = byteAt c x := rfl
@[simp] theorem regVal_updDrone (k : Nat) (f : Drone → Drone) (x : Nat) : regVal (updDrone c k f) x = regVal c x := rfl
@[simp] theorem byteAt_updDrone (k : Nat) (f : Drone → Drone) (x : Nat) : byteAt (updDrone c k f) x = byteAt c x := rfl
@[simp] theorem regVal_updLink (k : Nat) (f : Link → Link) (x : Nat) : regVal (updLink c k f) x = regVal c x := rfl
@[simp] theorem byteAt_updLink (k : Nat) (f : Link → Link) (x : Nat) : byteAt (updLink c k f) x = byteAt c x := rfl
@[simp] theorem regVal_updQueue (k : Nat) (f : Queue → Queue) (x : Nat) : regVal (updQueue c k f) x = regVal c x := rfl
@[simp] theorem byteAt_updQueue (k : Nat) (f : Queue → Queue) (x : Nat) : byteAt (updQueue c k f) x = byteAt c x := rfl
@[simp] theorem regVal_updKey (k : Nat) (f : Key → Key) (x : Nat) : regVal (updKey c k f) x = regVal c x := rfl
@[simp] theorem byteAt_updKey (k : Nat) (f : Key → Key) (x : Nat) : byteAt (updKey c k f) x = byteAt c x := rfl
@[simp] theorem regVal_updLane (k : Nat) (f : Lane → Lane) (x : Nat) : regVal (updLane c k f) x = regVal c x := rfl
@[simp] theorem byteAt_updLane (k : Nat) (f : Lane → Lane) (x : Nat) : byteAt (updLane c k f) x = byteAt c x := rfl
@[simp] theorem regVal_updPower (f : PowerCmd → PowerCmd) (x : Nat) : regVal (updPower c f) x = regVal c x := rfl
@[simp] theorem byteAt_updPower (f : PowerCmd → PowerCmd) (x : Nat) : byteAt (updPower c f) x = byteAt c x := rfl
@[simp] theorem byteAt_regPut (a : Nat) (w : Word) (x : Nat) : byteAt (regPut c a w) x = byteAt c x := rfl
@[simp] theorem byteAt_regUpd (a : Nat) (f : Word → Word) (x : Nat) : byteAt (regUpd c a f) x = byteAt c x := rfl
@[simp] theorem byteAt_regOr (a m : Nat) (x : Nat) : byteAt (regOr c a m) x = byteAt c x := rfl
@[simp] theorem byteAt_regClr (a m : Nat) (x : Nat) : byteAt (regClr c a m) x = byteAt c x := rfl
@[simp] theorem byteAt_regSetFld (a h l v : Nat) (x : Nat) : byteAt (regSetFld c a h l v) x = byteAt c x := rfl
@[simp] theorem byteAt_regCount (a h l v : Nat) (x : Nat) : byteAt (regCount c a h l v) x = byteAt c x := rfl
@[simp] theorem byteAt_regWrap (a h l v : Nat) (x : Nat) : byteAt (regWrap c a h l v) x = byteAt c x := rfl
@[simp] theorem byteAt_regMax (a h l v : Nat) (x : Nat) : byteAt (regMax c a h l v) x = byteAt c x := rfl
@[simp] theorem regVal_emit (o : Output) (x : Nat) : regVal (emit c o) x = regVal c x := rfl
@[simp] theorem byteAt_emit (o : Output) (x : Nat) : byteAt (emit c o) x = byteAt c x := rfl
@[simp] theorem regVal_putByte (r : Nat) (v : Byte) (x : Nat) : regVal (putByte c r v) x = regVal c x := rfl

/-! ### Commands and the queue -/

variable (s : State)

@[simp] theorem onChip_eq (f : Chip → Chip) : onChip s f = .next { s with chip := f s.chip } := rfl

@[simp] theorem onUnit_true (f : Chip → Chip) : onUnit true s f = .next { s with chip := f s.chip } := rfl

@[simp] theorem onUnit_false (f : Chip → Chip) : onUnit false s f = .next s := rfl

/-- Whatever the unit, a command answers a next state. -/
theorem onUnit_next (ok : Bool) (f : Chip → Chip) : ∃ t, onUnit ok s f = .next t ∧ t.pending = s.pending := by
  cases ok <;> exact ⟨_, rfl, rfl⟩

@[simp] theorem fresh_fst_free : (fresh c).1.free = c.free + 1 := rfl

@[simp] theorem fresh_snd : (fresh c).2 = Config.freeWord c.free := rfl

end Sys2Proof.Machine
end

