-- ==== Sys2Proof/Laws/Words.lean ====
section
/-! SUPPORT. What the stages of a word can do: its fetch and its fills, its end. -/

namespace Sys2Proof.Machine

open Sys2Proof Sys2Proof.Safety

theorem noteCorrected_only (c : Chip) (ga : Nat) : ∃ r, noteCorrected c ga = { c with regs := r } := by
  unfold noteCorrected
  dsimp only
  split
  · exact ⟨_, rfl⟩
  · split <;> exact ⟨_, rfl⟩

theorem noteUncorrectable_only (c : Chip) (ga s k : Nat) : ∃ r, noteUncorrectable c ga s k = { c with regs := r } := by
  unfold noteUncorrectable
  dsimp only
  split
  · exact ⟨_, rfl⟩
  · split <;> split <;> exact ⟨_, rfl⟩

theorem wordAt_regs (c : Chip) (r : Tbl Word) (b : List Nat) (a : Nat) :
    wordAt { c with regs := r, sbe := b } a = wordAt c a := rfl

/-- A read of a word changes nothing but the record of errors, and answers the word in memory. -/
theorem readWord_only (c : Chip) (ga s k : Nat) :
    ∃ r b, readWord c ga s k = ({ c with regs := r, sbe := b }, wordAt c (ga / 4 * 4), decide (ga / 4 * 4 ∈ c.poison)) := by
  unfold readWord
  dsimp only
  by_cases h1 : ga / 4 * 4 ∈ c.sbe
  · obtain ⟨r, hr⟩ := noteCorrected_only { c with sbe := c.sbe.filter (· ≠ ga / 4 * 4) } (ga / 4 * 4)
    simp only [h1, if_true, hr]
    by_cases h2 : ga / 4 * 4 ∈ c.poison
    · obtain ⟨r', hr'⟩ := noteUncorrectable_only { c with sbe := c.sbe.filter (· ≠ ga / 4 * 4), regs := r } (ga / 4 * 4) s k
      simp only [h2, if_true, hr']
      exact ⟨r', _, rfl⟩
    · simp only [h2, if_false]
      exact ⟨r, _, rfl⟩
  · simp only [h1, if_false]
    by_cases h2 : ga / 4 * 4 ∈ c.poison
    · obtain ⟨r', hr'⟩ := noteUncorrectable_only c (ga / 4 * 4) s k
      simp only [h2, if_true, hr']
      exact ⟨r', c.sbe, rfl⟩
    · simp only [h2, if_false]
      exact ⟨c.regs, c.sbe, rfl⟩

/-! ### Fetch -/

theorem justFetched_refl (c : Chip) (k : Nat) : JustFetched c c k := ⟨⟨_, rfl⟩, fun _ _ => rfl, ⟨_, _, _, rfl⟩⟩

theorem justFetched_trans {c d e : Chip} {k : Nat} (h : JustFetched c d k) (h' : JustFetched d e k) : JustFetched c e k := by
  obtain ⟨⟨l, hl⟩, ho, ⟨cs, r, b, hr⟩⟩ := h
  obtain ⟨⟨l', hl'⟩, ho', ⟨cs', r', b', hr'⟩⟩ := h'
  refine ⟨⟨l', by rw [hl', hl]⟩, fun j hj => by rw [ho' j hj, ho j hj], ⟨cs', r', b', by rw [hr', hr]⟩⟩

theorem justFetched_of_regs (c : Chip) (k : Nat) (r : Tbl Word) (b : List Nat) :
    JustFetched c { c with regs := r, sbe := b } k := ⟨⟨_, rfl⟩, fun _ _ => rfl, ⟨_, _, _, rfl⟩⟩

theorem justFetched_of_lines (c : Chip) (k : Nat) (f : List Line → List Line) :
    JustFetched c (updCore c k (fun r => { r with lines := f r.lines })) k :=
  ⟨⟨_, coreOf_updCore_same c k _⟩, fun _ hj => coreOf_updCore_other c _ hj, ⟨_, _, _, rfl⟩⟩

theorem readLine_only (c : Chip) (k base : Nat) : ∃ r b, (readLine c k base).1 = { c with regs := r, sbe := b } := by
  have key : ∀ (l : List Nat) (acc : Chip × List IWord × Bool), (∃ r b, acc.1 = { c with regs := r, sbe := b }) →
      ∃ r b, (l.foldl (fun (acc : Chip × List IWord × Bool) (i : Nat) =>
        let (c, l, p) := acc
        let (c, w, q) := readWord c ((Tgt.sram (courseNo k) base).ga + 4 * i) 2 k
        (c, l ++ [BitVec.ofNat 16 w.toNat, BitVec.ofNat 16 (w.toNat / 65536)], p || q)) acc).1 =
          { c with regs := r, sbe := b } := by
    intro l
    induction l with
    | nil => intro acc h; exact h
    | cons i t ih =>
      intro acc h
      apply ih
      obtain ⟨r, b, hb⟩ := h
      obtain ⟨r', b', h'⟩ := readWord_only acc.1 ((Tgt.sram (courseNo k) base).ga + 4 * i) 2 k
      refine ⟨r', b', ?_⟩
      dsimp only
      rw [h', hb]
  exact key _ _ ⟨_, _, rfl⟩

theorem fetchWord_only (c : Chip) (k a : Nat) : JustFetched c (fetchWord c k a).1 k := by
  unfold fetchWord
  dsimp only
  split
  · rename_i l _
    exact justFetched_of_lines c k (fun x => l :: x.filter (fun x => decide (x.base ≠ l.base)))
  · obtain ⟨r, b, h⟩ := readLine_only c k (a / 16 * 16)
    have h1 := justFetched_of_regs c k r b
    rw [← h] at h1
    exact justFetched_trans h1
      (justFetched_of_lines _ k (fun l => ⟨a / 16 * 16, (readLine c k (a / 16 * 16)).2.1⟩ :: l.take 1))

theorem fetchInstr_only (c : Chip) (k a : Nat) : JustFetched c (fetchInstr c k a).c k := by
  unfold fetchInstr
  dsimp only
  split
  · exact justFetched_refl c k
  · split
    · split
      · exact fetchWord_only c k a
      · exact justFetched_trans (fetchWord_only c k a) (fetchWord_only _ k (a + 2))
    · exact fetchWord_only c k a

theorem atHand_only {c d : Chip} {k : Nat} {rep p : Bool} {op : CoreOp} (h : atHand c k rep op = some (d, p)) :
    JustFetched c d k := by
  unfold atHand at h
  dsimp only at h
  split at h
  · split at h
    · cases h; exact justFetched_refl c k
    · cases h
  · split at h
    · cases h
    · split at h
      · cases h; exact fetchInstr_only c k _
      · cases h

/-! ### Fills -/

theorem loadLocal_got {c d : Chip} {k a size : Nat} {st : List Store} {w : Word} (h : loadLocal c k st a size = .got d w) :
    JustFetched c d k := by
  unfold loadLocal at h
  split at h
  · cases h; exact justFetched_refl c k
  · cases h
  · obtain ⟨r, b, hr⟩ := readWord_only c (Tgt.sram (courseNo k) a).ga 1 k
    rw [hr] at h
    split at h
    · cases h
    · dsimp only at h
      split at h
      · cases h
      · cases h; exact justFetched_of_regs c k r b

theorem readFills_succ (c : Chip) (k : Nat) (st : List Store) (n sp : Nat) (l : List Word) :
    readFills c k st (n + 1) sp l =
      match loadLocal c k st (beneath sp) 4 with
      | .got c w => readFills c k st n (beneath sp) (l ++ [w])
      | r => (r, l) := rfl

theorem readFills_got {c d : Chip} {k n sp : Nat} {st : List Store} {w : Word} {l v : List Word}
    (h : readFills c k st n sp l = (.got d w, v)) : JustFetched c d k ∧ ∃ x, v = l ++ x ∧ x.length = n := by
  induction n generalizing c sp l with
  | zero =>
    have h' : (LoadRes.got c 0, l) = (LoadRes.got d w, v) := h
    cases h'
    exact ⟨justFetched_refl _ k, [], by simp⟩
  | succ n ih =>
    rw [readFills_succ] at h
    generalize hb : beneath sp = q at h
    generalize hL : loadLocal c k st q 4 = L at h
    split at h
    · rename_i e u
      obtain ⟨h1, x, h2, h3⟩ := ih h
      exact ⟨justFetched_trans (loadLocal_got hL) h1, u :: x, by simp [h2], by simp [h3]⟩
    · rename_i hx
      simp only [Prod.mk.injEq] at h
      exact absurd h.1 (hx _ _)

/-! ### A word that executes -/

/-- What stands when a word executes: only line buffers and error records have changed; the filled stack is the string's
own with `f.n` entries from beneath, its operands are the top of it; no check has stopped it. -/
theorem begin_go {c d : Chip} {k stores : Nat} {rep : Bool} {op : CoreOp} {check : List Word → Option (Nat × Bool × Nat)}
    {f : Fills} {ops : List Word} (h : begin_ c k rep op stores check = .go d f ops) :
    atWord c k = true ∧ JustFetched c d k ∧ ops = f.stk.take (opEffect op).1 ∧
      (∃ v, f.stk = (coreOf c k).stk ++ v ∧ v.length = f.n) ∧ f.n = (opEffect op).1 - (coreOf c k).stk.length ∧
      check ops = none ∧ intDue d k = false ∧ orderRun d k = true := by
  unfold begin_ at h
  split at h
  · cases h
  rename_i h0
  split at h
  · cases h
  rename_i e p he
  have hF := atHand_only he
  obtain ⟨ln, hl⟩ := hF.core
  have hs : (coreOf e k).stk = (coreOf c k).stk := by rw [hl]
  split at h
  · split at h <;> cases h
  dsimp only at h
  split at h
  · unfold preciseStop at h; split at h <;> cases h
  split at h
  · unfold preciseStop at h; split at h <;> cases h
  split at h
  · cases h
  · cases h
  rename_i e' w vals hv
  obtain ⟨hF2, v, hv1, hv2⟩ := readFills_got hv
  split at h
  · unfold preciseStop at h; split at h <;> cases h
  rename_i hc
  split at h
  · cases h
  rename_i hi
  split at h
  · cases h
  cases h
  simp only [List.nil_append] at hv1
  subst hv1
  refine ⟨by simpa using h0, justFetched_trans hF hF2, rfl, ⟨_, by rw [hs], hv2⟩, by rw [hs], hc, ?_, ?_⟩
  · rcases Bool.eq_false_or_eq_true (intDue d k) with hh | hh
    · exact absurd (Or.inl hh) hi
    · exact hh
  · rcases Bool.eq_false_or_eq_true (orderRun d k) with hh | hh
    · exact hh
    · exact absurd (Or.inr hh) hi

/-- A word whose operands raise no trap starts whatever its check is. -/
theorem begin_check {c d : Chip} {k stores : Nat} {rep : Bool} {op : CoreOp} {check : List Word → Option (Nat × Bool × Nat)}
    {f : Fills} {ops : List Word} (h : starts c k rep op stores d f ops) (hc : check ops = none) :
    begin_ c k rep op stores check = .go d f ops := by
  unfold starts begin_ at h
  unfold begin_
  dsimp only at h ⊢
  split at h
  · cases h
  rename_i h0
  rw [if_neg h0]
  split at h
  · cases h
  rename_i e p he
  split at h
  · split at h <;> cases h
  rename_i hp
  rw [if_neg hp]
  split at h
  · unfold preciseStop at h; split at h <;> cases h
  split at h
  · unfold preciseStop at h; split at h <;> cases h
  split at h
  · cases h
  · cases h
  split at h
  · cases h
  rename_i hi
  split at h
  · cases h
  rename_i hs
  cases h
  simp only [hc, hi, if_false]
  rw [if_neg hs]

/-- A word whose operands raise a trap ends in that trap (R154, R190). -/
theorem begin_trap {c d : Chip} {k stores : Nat} {rep : Bool} {op : CoreOp} {check : List Word → Option (Nat × Bool × Nat)}
    {f : Fills} {ops : List Word} {cause addr : Nat} {hb : Bool} (h : starts c k rep op stores d f ops)
    (hc : check ops = some (cause, hb, addr)) :
    begin_ c k rep op stores check = .stop (trapEntry d k (preciseRec d k cause hb addr)) := by
  have ho : orderTrap d k = true := by
    unfold orderTrap; rw [(begin_go h).2.2.2.2.2.2.2]; rfl
  unfold starts begin_ at h
  unfold begin_
  dsimp only at h ⊢
  split at h
  · cases h
  rename_i h0
  rw [if_neg h0]
  split at h
  · cases h
  rename_i e p he
  split at h
  · split at h <;> cases h
  rename_i hp
  rw [if_neg hp]
  split at h
  · unfold preciseStop at h; split at h <;> cases h
  split at h
  · unfold preciseStop at h; split at h <;> cases h
  split at h
  · cases h
  · cases h
  split at h
  · cases h
  split at h
  · cases h
  cases h
  simp only [hc]
  unfold preciseStop
  rw [if_pos ho]

/-! ### CSRs -/

@[simp] theorem csrReset_updCore (c : Chip) (j : Nat) (f : Core → Core) (k i : Nat) :
    csrReset (updCore c j f) k i = csrReset c k i := rfl

@[simp] theorem csrReset_csrPut (c : Chip) (j i' : Nat) (w : Word) (k i : Nat) :
    csrReset (csrPut c j i' w) k i = csrReset c k i := rfl

@[simp] theorem csrVal_csrPut_same (c : Chip) (k i : Nat) (w : Word) : csrVal (csrPut c k i w) k i = w := by
  unfold csrVal
  rw [csrReset_csrPut]
  unfold csrPut
  rw [coreOf_updCore_same]
  exact Tbl.get_put_same _ _ _ _

theorem csrVal_csrPut_other (c : Chip) (k : Nat) {i j : Nat} (w : Word) (h : j ≠ i) :
    csrVal (csrPut c k i w) k j = csrVal c k j := by
  unfold csrVal
  rw [csrReset_csrPut]
  unfold csrPut
  rw [coreOf_updCore_same]
  exact Tbl.get_put_apart _ _ _ _ h

/-- An update of a core that leaves its CSRs leaves their values. -/
theorem csrVal_updCore (c : Chip) (k i : Nat) (f : Core → Core) (h : (f (coreOf c k)).csr = (coreOf c k).csr) :
    csrVal (updCore c k f) k i = csrVal c k i := by
  unfold csrVal
  rw [csrReset_updCore, coreOf_updCore_same, h]

@[simp] theorem coreOf_csrPut_same (c : Chip) (k i : Nat) (w : Word) :
    coreOf (csrPut c k i w) k = { coreOf c k with csr := Tbl.put (csrReset c k i) (coreOf c k).csr i w } :=
  coreOf_updCore_same c k _

theorem coreOf_csrPut_other (c : Chip) {k j : Nat} (i : Nat) (w : Word) (h : j ≠ k) :
    coreOf (csrPut c k i w) j = coreOf c j := coreOf_updCore_other c _ h

/-! ### What changes one core alone -/

/-- Nothing but core `k` differs. -/
def OneCore (c d : Chip) (k : Nat) : Prop := (∃ cs, d = { c with cores := cs }) ∧ ∀ j, j ≠ k → coreOf d j = coreOf c j

theorem oneCore_refl (c : Chip) (k : Nat) : OneCore c c k := ⟨⟨_, rfl⟩, fun _ _ => rfl⟩

theorem oneCore_trans {c d e : Chip} {k : Nat} (h : OneCore c d k) (h' : OneCore d e k) : OneCore c e k := by
  obtain ⟨⟨cs, hc⟩, ho⟩ := h
  obtain ⟨⟨cs', hc'⟩, ho'⟩ := h'
  exact ⟨⟨cs', by rw [hc', hc]⟩, fun j hj => by rw [ho' j hj, ho j hj]⟩

theorem oneCore_updCore (c : Chip) (k : Nat) (f : Core → Core) : OneCore c (updCore c k f) k :=
  ⟨⟨_, rfl⟩, fun _ hj => coreOf_updCore_other c f hj⟩

theorem oneCore_csrPut (c : Chip) (k i : Nat) (w : Word) : OneCore c (csrPut c k i w) k := oneCore_updCore c k _

theorem buffers_oneCore {c d : Chip} {k j : Nat} (h : OneCore c d k) (hb : buffers c j) : buffers d j := by
  obtain ⟨⟨cs, hc⟩, _⟩ := h
  rw [hc]; exact hb

/-! ### The end of a word -/

/-- Stores that the string buffers go to its store buffer, in order. -/
theorem placeStores_split (c : Chip) (k : Nat) (l : List Store) (h : buffers c k) :
    OneCore c (l.foldl (fun c s => placeStore c k s) c) k ∧
      coreOf (l.foldl (fun c s => placeStore c k s) c) k = { coreOf c k with sbuf := (coreOf c k).sbuf ++ l } := by
  induction l generalizing c with
  | nil => exact ⟨oneCore_refl c k, by simp⟩
  | cons s t ih =>
    have h1 : placeStore c k s = updCore c k (fun r => { r with sbuf := r.sbuf ++ [s] }) := by
      obtain ⟨h1, h2, h3⟩ := h
      unfold placeStore; rw [h3, h1, h2]; rfl
    simp only [List.foldl_cons, h1]
    have h2 := oneCore_updCore c k (fun r => { r with sbuf := r.sbuf ++ [s] })
    obtain ⟨a, b⟩ := ih (updCore c k (fun r => { r with sbuf := r.sbuf ++ [s] })) (buffers_oneCore h2 h)
    refine ⟨oneCore_trans h2 a, ?_⟩
    rw [b, coreOf_updCore_same]
    simp

/-- The core after its fills. -/
theorem fillUp_core (c : Chip) (k : Nat) (f : Fills) :
    OneCore c (fillUp c k f) k ∧ coreOf (fillUp c k f) k = { coreOf c k with stk := f.stk, csr := (coreOf (fillUp c k f) k).csr } ∧
      csrVal (fillUp c k f) k 0x0A = (if f.n = 0 then csrVal c k 0x0A else wd ((csrVal c k 0x0A).toNat - 4 * f.n)) ∧
      ∀ i, i ≠ 0x0A → csrVal (fillUp c k f) k i = csrVal c k i := by
  have h0 := oneCore_updCore c k (fun r => { r with stk := f.stk })
  have hv : ∀ i, csrVal (updCore c k (fun r => { r with stk := f.stk })) k i = csrVal c k i :=
    fun i => csrVal_updCore c k i _ rfl
  unfold fillUp
  dsimp only
  split
  · exact ⟨h0, by simp, hv _, fun i _ => hv i⟩
  · refine ⟨oneCore_trans h0 (oneCore_csrPut _ k _ _), by simp, ?_, fun i hi => ?_⟩
    · rw [csrVal_csrPut_same]; unfold sptrOf; rw [hv]
    · rw [csrVal_csrPut_other _ _ _ hi, hv]

/-- A word's retirement: one word counted, the wait over, and where the string goes on. -/
theorem retire_core (c : Chip) (k pc : Nat) :
    OneCore c (retire c k pc) k ∧ goesOn c (retire c k pc) k pc ∧ (coreOf (retire c k pc) k).wait = none ∧
      (coreOf (retire c k pc) k).words = (coreOf c k).words + 1 ∧
      (∀ i, i ≠ 0x28 → csrVal (retire c k pc) k i = csrVal c k i) ∧
      ∃ x y z u v w, coreOf (retire c k pc) k =
        { coreOf c k with words := x, bus := y, resv := z, wait := none, ownCkpt := 0, resumed := false, pc := u, rep := v, csr := w } := by
  unfold retire
  dsimp only
  have e1 : ∃ y z, coreOf (updCore (countWord c k) k (fun r => { r with wait := none })) k =
      { coreOf c k with words := (coreOf c k).words + 1, bus := y, resv := z, wait := none, ownCkpt := 0, resumed := false } := by
    unfold countWord
    rw [coreOf_updCore_same, coreOf_updCore_same]
    exact ⟨_, _, rfl⟩
  obtain ⟨y, z, e1⟩ := e1
  have o1 : OneCore c (updCore (countWord c k) k (fun r => { r with wait := none })) k :=
    oneCore_trans (oneCore_updCore c k _) (oneCore_updCore _ k _)
  have v1 : ∀ i, csrVal (updCore (countWord c k) k (fun r => { r with wait := none })) k i = csrVal c k i := by
    intro i
    rw [csrVal_updCore _ _ _ _ rfl]
    unfold countWord
    rw [csrVal_updCore _ _ _ _ rfl]
  revert e1 o1 v1
  generalize updCore (countWord c k) k (fun r => { r with wait := none }) = d
  intro e1 o1 v1
  have hrep : (coreOf d k).rep = (coreOf c k).rep := by rw [e1]
  rcases hr : (coreOf c k).rep with _ | q
  · rw [hrep, hr]
    dsimp only
    refine ⟨oneCore_trans o1 (oneCore_updCore d k _), ?_, ?_, ?_, fun i _ => ?_, ?_⟩
    · unfold goesOn; rw [hr]; dsimp only
      rw [csrVal_updCore _ _ _ _ rfl, v1]
      simp [e1, hr]
    · simp [e1]
    · simp [e1]
    · rw [csrVal_updCore _ _ _ _ rfl, v1]
    · exact ⟨_, _, _, _, _, _, by rw [coreOf_updCore_same, e1]⟩
  · rw [hrep, hr]
    dsimp only
    rw [v1]
    have hg : ∀ e : Chip, csrVal e k 0x28 = csrVal c k 0x28 - 1 →
        (if csrVal c k 0x28 - 1 = 0 then (coreOf e k).pc = q.at_ + 4 ∧ (coreOf e k).rep = none
          else (coreOf e k).pc = (coreOf c k).pc ∧ (coreOf e k).rep = some q) → goesOn c e k pc := by
      intro e h1 h2
      unfold goesOn; rw [hr]; exact ⟨h1, h2⟩
    have o2 := oneCore_trans o1 (oneCore_csrPut d k 0x28 (csrVal c k 0x28 - 1))
    by_cases hz : csrVal c k 0x28 - 1 = 0
    · rw [if_pos hz]
      refine ⟨oneCore_trans o2 (oneCore_updCore _ k _), hg _ ?_ ?_, ?_, ?_, fun i hi => ?_, ?_⟩
      · rw [csrVal_updCore _ _ _ _ rfl, csrVal_csrPut_same]
      · rw [if_pos hz]; simp
      · simp [e1]
      · simp [e1]
      · rw [csrVal_updCore _ _ _ _ rfl, csrVal_csrPut_other _ _ _ hi, v1]
      · exact ⟨_, _, _, _, _, _, by rw [coreOf_updCore_same, coreOf_csrPut_same, e1]⟩
    · rw [if_neg hz]
      refine ⟨o2, hg _ ?_ ?_, ?_, ?_, fun i hi => ?_, ?_⟩
      · rw [csrVal_csrPut_same]
      · rw [if_neg hz]; simp [e1, hr]
      · simp [e1]
      · simp [e1]
      · rw [csrVal_csrPut_other _ _ _ hi, v1]
      · exact ⟨_, _, _, _, (coreOf c k).rep, _, by rw [coreOf_csrPut_same, e1]⟩

theorem goesOn_congr {c d e : Chip} {k pc : Nat} (h : goesOn d e k pc) (hp : (coreOf d k).pc = (coreOf c k).pc)
    (hr : (coreOf d k).rep = (coreOf c k).rep) (hv : csrVal d k 0x28 = csrVal c k 0x28) : goesOn c e k pc := by
  unfold goesOn at h ⊢
  rw [hr, hp, hv] at h
  exact h

/-- The end of a word of a string in split, or of one that neither stores nor spills. -/
theorem endWord_core (c : Chip) (k : Nat) (f : Fills) (n : Nat) (res : List Word) (stores : List Store) (pc : Nat)
    (h : buffers c k ∨ (stores = [] ∧ (stackEnd f n res).length ≤ 8)) :
    OneCore c (endWord c k f n res stores pc) k ∧
      (coreOf (endWord c k f n res stores pc) k).stk = (stackEnd f n res).take 8 ∧
      csrVal (endWord c k f n res stores pc) k 0x0A = sptrEnd c k f n res ∧
      (coreOf (endWord c k f n res stores pc) k).sbuf = (coreOf c k).sbuf ++ stores ++
        spillStores (wordPc c k) (sptrMid c k f) ((stackEnd f n res).drop 8).reverse ∧
      goesOn c (endWord c k f n res stores pc) k pc ∧ (coreOf (endWord c k f n res stores pc) k).wait = none ∧
      (coreOf (endWord c k f n res stores pc) k).words = (coreOf c k).words + 1 ∧
      (∀ i, i ≠ 0x0A → i ≠ 0x28 → csrVal (endWord c k f n res stores pc) k i = csrVal c k i) ∧
      ∃ a b x y z u v w, coreOf (endWord c k f n res stores pc) k =
        { coreOf c k with stk := a, sbuf := b, words := x, bus := y, resv := z, wait := none, ownCkpt := 0, resumed := false, pc := u, rep := v, csr := w } := by
  obtain ⟨o1, e1, s1, v1⟩ := fillUp_core c k f
  unfold endWord
  dsimp only
  have hst : (coreOf (fillUp c k f) k).stk = f.stk := by rw [e1]
  rw [hst]
  have hse : res ++ f.stk.drop n = stackEnd f n res := rfl
  rw [hse]
  have hm : sptrOf (fillUp c k f) k = sptrMid c k f := by
    unfold sptrOf sptrMid; rw [s1]; split <;> rfl
  rw [hm]
  generalize hE : stackEnd f n res = E at *
  -- the stack
  have o2 := oneCore_trans o1 (oneCore_updCore (fillUp c k f) k (fun r => { r with stk := E.take 8 }))
  have e2 : coreOf (updCore (fillUp c k f) k (fun r => { r with stk := E.take 8 })) k =
      { coreOf c k with stk := E.take 8, csr := (coreOf (fillUp c k f) k).csr } := by
    rw [coreOf_updCore_same, e1]
  have v2 : ∀ i, csrVal (updCore (fillUp c k f) k (fun r => { r with stk := E.take 8 })) k i = csrVal (fillUp c k f) k i :=
    fun i => csrVal_updCore _ k i _ rfl
  revert o2 e2 v2
  generalize updCore (fillUp c k f) k (fun r => { r with stk := E.take 8 }) = d
  intro o2 e2 v2
  -- SPTR
  have h3 : ∃ g, (if (E.drop 8).reverse.isEmpty = true then d
      else csrPut d k 0x0A (wd (sptrMid c k f + 4 * (E.drop 8).reverse.length))) = g ∧ OneCore c g k ∧
      (∃ w, coreOf g k = { coreOf c k with stk := E.take 8, csr := w }) ∧ csrVal g k 0x0A = sptrEnd c k f n res ∧
      ∀ i, i ≠ 0x0A → csrVal g k i = csrVal c k i := by
    refine ⟨_, rfl, ?_⟩
    unfold sptrEnd
    dsimp only
    rw [hE]
    by_cases hl : E.length ≤ 8
    · have : (E.drop 8).reverse.isEmpty = true := by simp [List.drop_eq_nil_of_le hl]
      rw [if_pos this, if_pos hl]
      exact ⟨o2, ⟨_, e2⟩, by rw [v2, s1], fun i hi => by rw [v2, v1 i hi]⟩
    · have : ¬ (E.drop 8).reverse.isEmpty = true := by
        simp only [List.isEmpty_reverse, List.isEmpty_iff, List.drop_eq_nil_iff]; omega
      rw [if_neg this, if_neg hl]
      refine ⟨oneCore_trans o2 (oneCore_csrPut d k _ _), ⟨_, by rw [coreOf_csrPut_same, e2]⟩, ?_, fun i hi => ?_⟩
      · rw [csrVal_csrPut_same]
        unfold sptrMid
        simp only [List.length_reverse, List.length_drop]
        split <;> rfl
      · rw [csrVal_csrPut_other _ _ _ hi, v2, v1 i hi]
  obtain ⟨g, hg, o3, ⟨w, e3⟩, s3, v3⟩ := h3
  rw [hg]
  clear hg
  -- the stores
  have h4 : ∃ p, (stores ++ spillStores (wordPc c k) (sptrMid c k f) (E.drop 8).reverse).foldl
        (fun c s => placeStore c k s) g = p ∧ OneCore g p k ∧ coreOf p k =
        { coreOf g k with sbuf := (coreOf g k).sbuf ++ (stores ++ spillStores (wordPc c k) (sptrMid c k f) (E.drop 8).reverse) } := by
    rcases h with h | ⟨hs, hl⟩
    · have := placeStores_split g k (stores ++ spillStores (wordPc c k) (sptrMid c k f) (E.drop 8).reverse)
        (buffers_oneCore o3 h)
      exact ⟨_, rfl, this⟩
    · have hd : E.drop 8 = [] := List.drop_eq_nil_of_le hl
      refine ⟨g, by simp [hs, hd, spillStores], oneCore_refl g k, by simp [hs, hd, spillStores]⟩
  obtain ⟨p, hp, o4, e4⟩ := h4
  rw [hp]
  clear hp
  have vp : ∀ i, csrVal p k i = csrVal g k i := by
    intro i
    unfold csrVal
    rw [e4]
    obtain ⟨⟨cs, hc⟩, _⟩ := o4
    rw [hc]; rfl
  obtain ⟨o5, g5, w5, n5, v5, x, y, z, u, v, w', e5⟩ := retire_core p k pc
  have hb : (coreOf (retire p k pc) k).sbuf = (coreOf p k).sbuf := by rw [e5]
  have ht : (coreOf (retire p k pc) k).stk = (coreOf p k).stk := by rw [e5]
  refine ⟨oneCore_trans o3 (oneCore_trans o4 o5), ?_, ?_, ?_, ?_, w5, ?_, ?_, ?_⟩
  · rw [ht, e4, e3]
  · rw [v5 _ (by decide), vp, s3]
  · rw [hb, e4, e3]; simp [List.append_assoc]
  · refine goesOn_congr g5 ?_ ?_ ?_
    · rw [e4, e3]
    · rw [e4, e3]
    · rw [vp, v3 _ (by decide)]
  · rw [n5, e4, e3]
  · intro i h1 h2
    rw [v5 i h2, vp, v3 i h1]
  · exact ⟨_, _, _, _, _, _, _, _, by rw [e5, e4, e3]⟩

/-! ### What a fetch leaves to be read -/

theorem fetched_csrVal {c d : Chip} {k : Nat} (h : JustFetched c d k) (i : Nat) : csrVal d k i = csrVal c k i := by
  obtain ⟨⟨l, hl⟩, _, ⟨cs, r, b, hr⟩⟩ := h
  unfold csrVal
  rw [hl, hr]; rfl

theorem fetched_buffers {c d : Chip} {k j : Nat} (h : JustFetched c d k) (hb : buffers c j) : buffers d j := by
  obtain ⟨_, _, ⟨cs, r, b, hr⟩⟩ := h
  rw [hr]; exact hb

/-- A device on which a word's end can begin: only the string has changed, by its fetch and its own effect on flags, slots or the
return stack. -/
structure WordReady (c e : Chip) (k : Nat) : Prop where
  core : ∃ l a b x y z w, coreOf e k =
    { coreOf c k with lines := l, csr := a, slots := b, flights := x, rsFile := y, rsPtr := z, rsDepth := w }
  csrs : ∀ i, i ≠ 0x00 → i ≠ 0x01 → csrVal e k i = csrVal c k i
  others : ∀ j, j ≠ k → coreOf e j = coreOf c j
  rest : ∃ cs r b, e = { c with cores := cs, regs := r, sbe := b }

theorem wordReady_of {c d e : Chip} {k : Nat} (hF : JustFetched c d k) (hO : OneCore d e k)
    (hc : ∃ a b x y z w, coreOf e k =
      { coreOf d k with csr := a, slots := b, flights := x, rsFile := y, rsPtr := z, rsDepth := w })
    (hv : ∀ i, i ≠ 0x00 → i ≠ 0x01 → csrVal e k i = csrVal d k i) : WordReady c e k := by
  obtain ⟨l, hl⟩ := hF.core
  obtain ⟨a, b, x, y, z, w, he⟩ := hc
  obtain ⟨cs, r, s, hr⟩ := hF.rest
  obtain ⟨⟨cs1, h1⟩, ho⟩ := hO
  exact ⟨⟨l, a, b, x, y, z, w, by rw [he, hl]⟩, fun i h0 h1 => by rw [hv i h0 h1, fetched_csrVal hF],
    fun j hj => by rw [ho j hj, hF.others j hj], ⟨cs1, r, s, by rw [h1, hr]⟩⟩

theorem wordReady_fetched {c e e' : Chip} {k : Nat} (h : WordReady c e k) (hF : JustFetched e e' k) : WordReady c e' k := by
  obtain ⟨l, a, b, x, y, z, w, he⟩ := h.core
  obtain ⟨l', hl⟩ := hF.core
  obtain ⟨cs, r, s, hr⟩ := h.rest
  obtain ⟨cs', r', s', hr'⟩ := hF.rest
  exact ⟨⟨l', a, b, x, y, z, w, by rw [hl, he]⟩, fun i h0 h1 => by rw [fetched_csrVal hF, h.csrs i h0 h1],
    fun j hj => by rw [hF.others j hj, h.others j hj], ⟨cs', r', s', by rw [hr', hr]⟩⟩

theorem wordReady_buffers {c e : Chip} {k j : Nat} (h : WordReady c e k) (hb : buffers c j) : buffers e j := by
  obtain ⟨cs, r, s, hr⟩ := h.rest
  rw [hr]; exact hb

/-- A word's end gives `WordDone`. -/
theorem wordDone_endWord {c e : Chip} {k : Nat} {g : Fills} {n : Nat} {res : List Word} {stores : List Store} {pc : Nat}
    (hR : WordReady c e k) (h : buffers c k ∨ (stores = [] ∧ (stackEnd g n res).length ≤ 8)) :
    WordDone c (endWord e k g n res stores pc) k g n res stores pc := by
  obtain ⟨l, a, b, x, y, z, w, he⟩ := hR.core
  have hve := hR.csrs
  obtain ⟨o, hs, hp, hb, hg, hw, hn, hr, a', b', x', y', z', u', v', w', hE⟩ := endWord_core e k g n res stores pc
    (h.imp (fun h => wordReady_buffers hR h) id)
  have hwp : wordPc e k = wordPc c k := by unfold wordPc; rw [he]
  have hm : sptrMid e k g = sptrMid c k g := by unfold sptrMid; rw [hve 0x0A (by decide) (by decide)]
  refine ⟨hs, ?_, ?_, ?_, ?_, hw, ⟨?_, ?_, ?_, ?_, ?_, ?_⟩, ?_, ?_⟩
  · rw [hp]; unfold sptrEnd; rw [hve 0x0A (by decide) (by decide)]
  · rw [hb, hwp, hm, he]
  · exact goesOn_congr hg (by rw [he]) (by rw [he]) (hve _ (by decide) (by decide))
  · rw [hn, he]
  · rw [hE, he]
  · rw [hE, he]
  · rw [hE, he]
  · rw [hE, he]
  · rw [hE, he]
  · intro i h0 h1 h2 h3
    rw [hr i h2 h3, hve i h0 h1]
  · intro j hj
    rw [o.2 j hj, hR.others j hj]
  · obtain ⟨cs, r, s, hr⟩ := hR.rest
    obtain ⟨⟨cs2, h2⟩, _⟩ := o
    exact ⟨cs2, r, s, by rw [h2, hr]⟩

theorem fetchAhead_only (c : Chip) (k pc : Nat) : JustFetched c (fetchAhead c k pc) k := by
  unfold fetchAhead
  split
  · exact justFetched_refl c k
  · dsimp only
    split
    · exact justFetched_refl c k
    · exact fetchInstr_only c k _

/-- A word's end gives `WordDone`, with the fetch of the following word before its stores. -/
theorem wordDone_finish {c d e : Chip} {k : Nat} {g : Fills} {n : Nat} {res : List Word} {stores : List Store} {pc : Nat}
    (hF : JustFetched c d k) (hO : OneCore d e k)
    (hc : ∃ a b x y z w, coreOf e k =
      { coreOf d k with csr := a, slots := b, flights := x, rsFile := y, rsPtr := z, rsDepth := w })
    (hv : ∀ i, i ≠ 0x00 → i ≠ 0x01 → csrVal e k i = csrVal d k i)
    (h : buffers c k ∨ (stores = [] ∧ (stackEnd g n res).length ≤ 8)) :
    WordDone c (finish e k g n res stores pc) k g n res stores pc := by
  have hR := wordReady_of hF hO hc hv
  unfold finish
  dsimp only
  split
  · exact wordDone_endWord hR h
  · exact wordDone_endWord (wordReady_fetched hR (fetchAhead_only _ k pc)) h

end Sys2Proof.Machine
end

