-- ==== Sys2Proof/Tests/Slice0.lean ====
section
/-! SUPPORT. Tests: ill-formed commands refused, words decoded, and for each statement a state and operands that meet the
hypotheses of each of its clauses. -/

namespace Sys2Proof.Tests

open Sys2Proof Sys2Proof.Machine Sys2Proof.Safety

set_option Elab.async false

/-! ### States -/

/-- Core 0 of a powered course in split runs and stands at a word at address 0, with an operand stack; the device is
attached. -/
def strand (op : CoreOp) (stk : List Word) : Chip :=
  { cores := [(0, { halted := false, started := true, stk := stk,
                    lines := [⟨0, [(encodeWord op).1, (encodeWord op).2, 0, 0, 0, 0, 0, 0]⟩] })],
    pegs := [(0, ⟨.on, false⟩), (1, ⟨.on, false⟩)], lut := true, dev := .running, tb := 0x100000007,
    sys := { aon := true, vin := true, contacts := true, per := true, attach := .attached } }

/-- The same with the core changed. -/
def strandWith (op : CoreOp) (stk : List Word) (f : Core → Core) : Chip := updCore (strand op stk) 0 f

/-- A word of core 0 stands ready with `n` stores, in a state whose hardware stack holds its operands; the fetch changes
nothing. -/
def ready (c : Chip) (rep : Bool) (op : CoreOp) (n : Nat) : Prop :=
  starts c 0 rep op n c ⟨(coreOf c 0).stk, 0⟩ ((coreOf c 0).stk.take (opEffect op).1) ∧ inUnison c 0 = false ∧
    (courseOf c 0).degraded = false ∧ placesNone c 0 = false ∧ (courseOf c 0).log = []

/-- A list of such words. -/
def readyAll (l : List (CoreOp × List Word)) : Prop := ∀ p ∈ l, ready (strand p.1 p.2) false p.1 0

/-- Core 0 of a course in unison, whose string B stands at the same word. -/
def pairOf (op : CoreOp) (stk : List Word) : Chip :=
  let c := strand op stk
  { c with cores := [(0, coreOf c 0), (1, coreOf c 0)], courses := [(0, { mode := 1, snap := some {} })] }

/-- A state of course 0 made one of string A in unison, whose own checkpoint stands at `ck`. -/
def leading (ck : Nat) (c : Chip) : Chip :=
  { c with cores := [(0, { coreOf c 0 with ownCkpt := ck }), (1, coreOf c 0)], courses := [(0, { mode := 1, snap := some {} })] }

/-- The same of string B, one word behind string A, with the read log and the pairs given. -/
def behind (l : List LogEnt) (p : List Pair) (c : Chip) : Chip :=
  { c with cores := [(0, { coreOf c 0 with words := 1 }), (1, coreOf c 0)], courses := [(0, { mode := 1, snap := some {}, log := l, pairs := p })] }

/-- String A's word stands ready with `n` entries. -/
def leadsAt (c : Chip) (op : CoreOp) (n : Nat) : Prop :=
  starts c 0 false op n c ⟨(coreOf c 0).stk, 0⟩ ((coreOf c 0).stk.take (opEffect op).1) ∧ inUnison c 0 = true ∧
    (courseOf c 0).log = [] ∧ (courseOf c 0).bHalves = [] ∧ (coreOf c 0).stk.length ≤ 8 ∧ (courseOf c 0).ckptAt = none

/-- String B's. -/
def secondAt (c : Chip) (op : CoreOp) (n : Nat) : Prop :=
  starts c 1 false op n c ⟨(coreOf c 1).stk, 0⟩ ((coreOf c 1).stk.take (opEffect op).1) ∧ inUnison c 0 = true ∧ (coreOf c 1).stk.length ≤ 8

/-- The log entry of a read, with its values. -/
def readOf (kind addr size : Nat) (vals : List Word) : LogEnt := ⟨kind, addr, size, vals, true, none, 0, 0, false, true, false⟩

/-- String B's word takes the log's entry. -/
def followsAt (c : Chip) (op : CoreOp) (kind addr size : Nat) (vals : List Word) : Prop :=
  secondAt c op 0 ∧ bNext c 0 = some (readOf kind addr size vals)

/-- A state with no command waiting. -/
def still (c : Chip) : State := { chip := c }

/-- The device attached, in STANDBY. -/
def base : Chip :=
  { lut := true, dev := .standby, tb := 5000000, sys := { aon := true, vin := true, contacts := true, per := true, attach := .attached } }

/-! ### Well-formedness: an ill-formed command for each check -/

theorem test_wf_refuses : ([.rett 514, .ldr 0 false 0 0 true, .landing 0 4, .pegHalt 257, .scrub 32 0, .memoryAccess 0 [514, 1025],
    .creditReturn 4096, .droneStep 16, .signal 4, .tabClearDone 2, .camPerform 0 3 0, .portReady 128, .ackTimeout 0 4,
    .dataFlitError 0 6 0 0 0, .islandPowerUpDone 8, .memoryClearDone 64, .pllLock 4, .clockSourceFault 5, .pcieFunctionReset 4,
    .pcieLinkUp 4 1, .pcieLinkUp 1 3, .pcieConfigWrite 7 0 0, .msixMessage 64, .ethLinkLoss 2, .rpopRead 4, .sourceAssert 0,
    .presentation 1001, .flushAck 128, .pegRingTimeout 8, .str 0 false 0 1, .registerWrite 0x60000002 ⟨15, 0⟩, .registerWrite 0x60000000 ⟨16, 0⟩, .ptpMessageInterval 0 ⟨[], 3, 0⟩] : List Instr).map Instr.wf =
    [false, true] ++ List.replicate 31 false := by decide +kernel

theorem test_op_wf_refuses : ([.pair 0x45 0x4F, .ldr 0 3 true, .waitl 0, .pick 7, .csrr 0x03, .cp 0 0 0] : List CoreOp).map (fun o => o.wf true) =
    List.replicate 6 false := by decide +kernel

/-! ### Words of each family, written out from R131 and R141 to R150 -/

theorem test_decode_fields : ([0b0000010011111110, 0b0000010100011111, 0b0000100100000110, 0b0000100000100000] : List IWord).map (decodeWord false · 0) =
    [some (.addi 0xFE), some (.shli 31), some (.pick 6), none] := by decide +kernel

theorem test_decode_flow : ([0b0001000010000000, 0b0001001100000000, 0b0001011000000000, 0b0001111100000011, 0b0001011100000001] : List IWord).map
    (decodeWord false · 0x1234) = [some (.br 0x80), some (.brx 0x1234), some (.call 0x1234), some (.repi 3), none] := by
  decide +kernel

theorem test_decode_memory : ([0b0010000000010110, 0b0010000000011000, 0b0010010000000011, 0b0010010100001001, 0b0010011000000110, 0b0010000100000001] : List IWord).map
    (decodeWord false · 0) = [some (.ldr 2 1 true), none, some (.sc 3), some (.agree 1 2 false), some (.mul 2 true), none] := by
  decide +kernel

theorem test_decode_io : ([0b0011001000000000, 0b0011100000000001, 0b0011110100000000, 0b0100000100011011, 0b0100000000000011, 0b0100100011111111, 0b0111011101110010] : List IWord).map
    (decodeWord false · 0) =
    [some .sendt, some (.wait true), some .ifence, some (.csrw 0x1B), none, some (.trap 0xFF), some (.cp 7 2 0x1C)] := by
  decide +kernel

/-! ### Steps and words -/

theorem test_step_premises : (∃ rest, (State.pending { pending := [.wakeFromWatch, .ident] }) = .wakeFromWatch :: rest) ∧
    (State.reset.pending = [] ∧ State.reset.chip.sys.per = false) ∧ (base.sys.per = true ∧ onPll base = false) ∧
    (let c := regPut base 0x60002004 1
     onPll c = true ∧ regVal c 0x60003018 = 0 ∧ c.frac = 0) := ⟨⟨[.ident], rfl⟩, by decide +kernel⟩

theorem test_encode_premises : (CoreOp.wf false (.cp 7 3 31) && CoreOp.wf true (.csrw 0x33)) = true := by decide +kernel

theorem test_undefined_premises : (0x8000 ≤ (0x9001 : IWord).toNat ∧ (0x9001 : IWord).toNat % 2 = 1) ∧
    (shortDefined 0x7F = false ∧ shortDefined 0x10 = true) ∧ (0x6F < 0x70 ∧ csrAssigned 0xFF = false) := by decide +kernel

theorem test_word_starts_premises : ∀ stk ∈ [[5], [8, 7, 6, 5, 4, 3, 2, 1]],
    let c := strand (.addi 3) stk
    running c 0 = true ∧ inUnison c (courseNo 0) = false ∧ (coreOf c 0).wait = none ∧ (coreOf c 0).rep = none ∧
    (coreOf c 0).itraps = [] ∧ reqUp c 0 = false ∧ (courseOf c (courseNo 0)).log = [] ∧ usable (coreOf c 0).pc ∧
    (∃ l ∈ (coreOf c 0).lines, (coreOf c 0).lines.find? (fun x => decide (x.base = (coreOf c 0).pc / 16 * 16)) = some l ∧
      needsExt (l.words.getD ((coreOf c 0).pc % 16 / 2) 0) = false ∧
      decodeWord (decide (courseNo 0 = luthierCourse)) (l.words.getD ((coreOf c 0).pc % 16 / 2) 0) 0 = some (.addi 3)) ∧
    (opEffect (.addi 3)).1 ≤ (coreOf c 0).stk.length ∧
    (coreOf c 0).stk.length - (opEffect (.addi 3)).1 + (opEffect (.addi 3)).2 ≤ 8 ∧
    (csrVal c 0 0x08).toNat ≤ (csrVal c 0 0x0A).toNat ∧ (csrVal c 0 0x0A).toNat ≤ (csrVal c 0 0x09).toNat ∧
    rsTest c 0 (.addi 3) = none ∧ storeRoom c 0 4 = true := by unfold usable; decide +kernel

theorem test_stack_traps_premises : (∀ p ∈ ([(.lit 1, [8, 7, 6, 5, 4, 3, 2, 1], 0x7C00), (.addi 1, [], 0x7803)] : List (CoreOp × List Word × Word)),
    let c := csrPut (strand p.1 p.2.1) 0 0x0A p.2.2
    atWord c 0 = true ∧ inUnison c 0 = false ∧ atHand c 0 false p.1 = some (c, false)) ∧
    (let c := csrPut (strand (.lit 1) []) 0 0x0A 0x7C00
     (csrVal c 0 0x08).toNat ≤ (csrVal c 0 0x0A).toNat ∧ (csrVal c 0 0x09).toNat < (csrVal c 0 0x0A).toNat + 4) ∧
    (let c := csrPut (strand (.addi 1) []) 0 0x0A 0x7803
     (csrVal c 0 0x0A).toNat < (csrVal c 0 0x08).toNat + 4) := by decide +kernel

theorem test_field_words_premises : readyAll [(.lit 0x80, []), (.litx 0x8000, []), (.lithi 0xFFFF, [1]), (.pick 6, [8, 7, 6, 5, 4, 3, 2, 1]),
    (.pick 0, [3]), (.addi 0x80, [0x80000000]), (.shli 31, [1]), (.shri 31, [1]), (.sari 31, [0x80000000]), (.roli 31, [3])] := by
  unfold readyAll ready starts; decide +kernel

theorem test_pair_words_premises : readyAll [(.pair 0x10 0x13, [1, 2, 3, 4]), (.pair 0 0x05, [1, 2, 3])] ∧
    (isShortLoad 0x10 || isShortStore 0x10 || isShortLoad 0x13 || isShortStore 0x13) = false := by
  unfold readyAll ready starts; decide +kernel

theorem test_local_memory_premises : readyAll [(.pair 0x40 0, [0x7FFC]), (.pair 0 0x41, [0x7FFE]), (.pair 0x42 0, [0x7FFE]), (.pair 0 0x43, [0x7FFF]),
      (.pair 0x44 0, [0x7FFF]), (.pair 0x41 0, [0x7FFF]), (.pair 0 0x40, [0x8000]), (.pair 0 0x46, [0x8000, 7])] ∧
    (∀ p ∈ ([(.pair 0x45 0, 0x7FFC), (.pair 0 0x46, 0x7FFE), (.pair 0x47 0, 0x7FFF)] : List (CoreOp × Word)),
      let c := strand p.1 [p.2, 7]
      ready c false p.1 1 ∧ buffers c 0 ∧ ownAtomic c 0 = false) ∧
    (isShortLoad 0x41 = true ∧ 0x7FFF % shortSize 0x41 ≠ 0) ∧ (isShortLoad 0x40 = true ∧ 0x8000 < 0x8000 + shortSize 0x40) ∧
    (let c := strand (.pair 0x40 0) [0x7FFC]
     0x20000000 + 0x7FFC ∉ c.poison ∧ pendStores c 0 = [] ∧ ownAtomic c 0 = false) ∧
    (let c := strandWith (.pair 0x40 0) [0x7FFC] (fun r => { r with sbuf := [⟨0x7FFE, 2, 9, 0⟩] })
     ready c false (.pair 0x40 0) 0 ∧ buffers c 0 ∧ ownAtomic c 0 = false ∧ forward 0 (coreOf c 0).sbuf 0x7FFC 4 = .wait) := by
  unfold readyAll ready starts buffers; decide +kernel

/-! ### Control flow and traps -/

theorem test_branch_premises : readyAll [(.br 0x7F, []), (.br 0x80, []), (.brx 0x3FFF, []), (.bz 2, [0]), (.bz 0x80, [1]), (.bnz 2, [1]),
    (.bnz 0x80, [0]), (.bzx 2, [0]), (.bzx 0x8000, [1]), (.bnzx 2, [1]), (.bnzx 0x8000, [0])] ∧
    usable (wd 0 + 2#32 * (0x7F#8).signExtend 32).toNat ∧ ¬ usable (wd 0 + 2#32 * (0x80#8).signExtend 32).toNat ∧
    usable (wd 0 + 2#32 * (0x3FFF#16).signExtend 32).toNat := by
  unfold readyAll ready starts usable; decide +kernel

theorem test_return_stack_premises : readyAll [(.call 0x7FFE, []), (.calli, [0x7FFE]), (.jmpi, [0x7FFE]), (.tor, [1])] ∧
    (∀ op ∈ ([.ret, .fromr, .rget, .rdrop] : List CoreOp),
      ready (strandWith op [] (fun r => { r with rsFile := [(15, 0x7FFE)], rsPtr := 0, rsDepth := 1 })) false op 0) ∧
    usable 0x7FFE := by
  unfold readyAll ready starts usable; decide +kernel

/-- A string at an operation of the return stack, which holds `n` entries; RSCTL is `mode`. -/
def limited (op : CoreOp) (stk : List Word) (n : Nat) (mode : Word) : Chip :=
  csrPut (strandWith op stk (fun r => { r with rsFile := [(15, 0x7FFE)], rsPtr := 0, rsDepth := n })) 0 0x0B mode

theorem test_return_stack_test_premises :
    (∀ p ∈ ([(.call 0x7FFE, 16), (.calli, 16), (.tor, 16), (.ret, 0), (.fromr, 0), (.rget, 0), (.rdrop, 0)] : List (CoreOp × Nat)),
      let c := limited p.1 [0x7FFE] p.2 1
      atWord c 0 = true ∧ inUnison c 0 = false ∧ atHand c 0 false p.1 = some (c, false) ∧ (coreOf c 0).stk = [0x7FFE] ∧
        (csrVal c 0 0x08).toNat ≤ (csrVal c 0 0x0A).toNat ∧ (csrVal c 0 0x0A).toNat ≤ (csrVal c 0 0x09).toNat ∧
        bit (csrVal c 0 0x0B) 0 = true ∧ (coreOf c 0).rsDepth = p.2) ∧
    (∀ p ∈ ([(.call 0x7FFE, 16), (.calli, 16), (.tor, 16), (.ret, 0), (.fromr, 0), (.rdrop, 0)] : List (CoreOp × Nat)),
      let c := limited p.1 [0x7FFE] p.2 0
      ready c false p.1 0 ∧ bit (csrVal c 0 0x0B) 0 = false ∧ (coreOf c 0).rsDepth = p.2) ∧
    usable 0x7FFE := by
  unfold ready starts usable; decide +kernel

def repStart (op : CoreOp) (stk : List Word) : Chip :=
  strandWith op stk (fun r => { r with lines := [⟨0, [(encodeWord op).1, (encodeWord (.addi 1)).1, 0, 0, 0, 0, 0, 0]⟩] })

def iterRep : Rep := ⟨false, (encodeWord (.addi 1)).1, 0⟩

def iterating (n : Word) : Chip := csrPut (strandWith (.rep 1) [5] (fun r => { r with rep := some iterRep })) 0 0x28 n

theorem test_repetition_premises : (∀ p ∈ ([(.rep 0, [0]), (.rep 255, []), (.repi 0, [0xFFFFFFFF]), (.repi 1, [])] : List (CoreOp × List Word)),
      starts (repStart p.1 p.2) 0 false p.1 0 (repStart p.1 p.2) ⟨p.2, 0⟩ p.2) ∧
    repeatable false (fetchWord (repStart (.rep 255) []) 0 2).2.1 = true := by
  unfold starts; decide +kernel

theorem test_iteration_premises : (coreOf (iterating 1) 0).rep = some iterRep ∧ decodeWord false iterRep.word 0 = some (.addi 1) ∧
    starts (iterating 1) 0 true (.addi 1) 0 (iterating 1) ⟨[5], 0⟩ [5] ∧ starts (iterating 7) 0 true (.addi 1) 0 (iterating 7) ⟨[5], 0⟩ [5] := by
  unfold starts; decide +kernel

theorem test_trap_entry_premises : pendOk (strandWith (.lit 0) [] (fun r => { r with pend := [(0x10, 0x7FF0), (0x18, 0)] })) 0 ∧
    inhOf (strand (.lit 0) []) 0 = false ∧
    (let t := preciseRec (strand (.lit 0) []) 0 0xFF true 0xFFFFFFFF
     t.cause < 256 ∧ t.slot < 4 ∧ t.code < 256) ∧
    (let c := csrPut (strand (.lit 0) []) 0 0x13 0x20000
     pendOk c 0 ∧ inhOf c 0 = true) := by unfold pendOk; decide +kernel

theorem test_trap_words_premises : readyAll [(.trap 0xFF, []), (.rett, [])] ∧
    (let c := csrPut (strand (.trap 0) []) 0 0x13 0x20000
     ready c false (.trap 0) 0 ∧ inhOf c 0 = true) ∧
    (let c := csrPut (csrPut (strand .rett []) 0 0x13 0x20000) 0 0x12 0x7FFE
     ready c false .rett 0 ∧ usable (csrVal c 0 0x12).toNat ∧ bit (csrVal c 0 0x13) 16 = false ∧ pendOk c 0) ∧
    (let c := csrPut (strand .rett []) 0 0x12 0x8000
     ready c false .rett 0 ∧ ¬ usable (csrVal c 0 0x12).toNat) := by
  unfold readyAll ready starts usable pendOk; decide +kernel

theorem test_boundary_premises :
    (let t : ITrap := ⟨0x14, true, 3, 0xFF, 2, 4, false⟩
     let c := strandWith (.lit 0) [] (fun r => { r with itraps := [t], wait := some ⟨6, 0, 0, 1, true⟩ })
     pendOk c 0 ∧ boundary c 0 = true ∧ heldInWord c 0 = false ∧ (coreOf c 0).itraps = [t] ∧ inhOf c 0 = false ∧ inRep c 0 = false ∧
       t.cause < 256 ∧ t.slot < 4 ∧ t.code < 256) ∧
    (let c := { csrPut (strand (.lit 0) []) 0 0x18 0 with srcs := [(1000, { st := 2, holder := 0 })] }
     running c 0 = true ∧ intDue c 0 = true ∧ (coreOf c 0).itraps = [] ∧ nextTraps c 0 = false) ∧
    (let w : Wait := ⟨3, 7, 0, 1, false⟩
     let c := strandWith (.lit 0) [7] (fun r => { r with wait := some w })
     running c 0 = true ∧ (coreOf c 0).wait = some w ∧ 0 ≤ (wd c.tb - w.arg).toInt ∧ (coreOf c 0).rep = none) ∧
    (let c := strandWith (.lit 0) [] (fun r => { r with resv := some ⟨0x10000000, 64⟩ })
     (coreOf c 0).resv = some ⟨0x10000000, 64⟩ ∧ inUnison c 0 = false ∧ (courseOf c 0).log = []) := by
  unfold pendOk; decide +kernel

theorem test_targets_premises : readyAll [(.brx 0x4000, []), (.bz 0x80, [0]), (.bnz 0x80, [1]), (.bzx 0x8000, [0]), (.bnzx 0x8000, [1]),
      (.call 0x7FFF, []), (.calli, [0x8000]), (.jmpi, [1])] ∧
    ready (strandWith .ret [] (fun r => { r with rsFile := [(15, 0x8000)], rsPtr := 0, rsDepth := 1 })) false .ret 0 ∧
    ¬ usable (wd 0 + 2#32 * (0x4000#16).signExtend 32).toNat ∧ ¬ usable (wd 0 + 2#32 * (0x8000#16).signExtend 32).toNat ∧
    ¬ usable 0x7FFF ∧ ¬ usable 0x8000 ∧ ¬ usable 1 := by
  unfold readyAll ready starts usable; decide +kernel

/-- A handler's RETT to a repetition at 0x20, the REP or REPI given, of which `n` iterations are left. -/
def resuming (w : IWord) (n : Word) : Chip :=
  strandWith .rett [] (fun r => { r with
    lines := r.lines ++ [⟨0x20, [w, (encodeWord (.addi 1)).1, 0, 0, 0, 0, 0, 0]⟩], csr := [(0x12, 0x20), (0x13, 0x30000), (0x28, n)] })

theorem test_resume_premises : (ready (resuming 0x1E05 0) false .rett 0 ∧ ready (resuming 0x1F00 3) false .rett 0) ∧
    (coreOf (resuming 0x1E05 0) 0).pend = [] ∧ csrVal (resuming 0x1E05 0) 0 0x12 = 0x20 ∧ csrVal (resuming 0x1E05 0) 0 0x13 = 0x30000 ∧
    usable 0x20 ∧ fetchable 0x22 = true := by
  unfold ready starts usable; decide +kernel

theorem test_resume_fetches : (fetchWord (trapReturn (resuming 0x1E05 0) 0) 0 0x20).2 = (0x1E05, false) ∧
    (fetchWord (trapReturn (resuming 0x1F00 3) 0) 0 0x20).2 = (0x1F00, false) ∧
    repeatable false (encodeWord (.addi 1)).1 = true := by decide +kernel

theorem test_resume_repeats : ∀ w : IWord, w = 0x1E05 ∨ w = 0x1F00 →
    let c := (fetchWord (trapReturn (resuming w 3) 0) 0 0x20).1
    ((coreOf c 0).lines.find? (fun l => decide (l.base = 0x20))).map (fun l => l.words.getD 1 0) = some (encodeWord (.addi 1)).1 := by
  intro w h; rcases h with rfl | rfl <;> decide +kernel

theorem test_unison_boundary :
    (let t : ITrap := ⟨0x14, true, 3, 0xFF, 2, 4, true⟩
     let c := leading 0 (strandWith (.lit 0) [] (fun r => { r with itraps := [t] }))
     (courseOf c 0).log = [] ∧ orderRun c 0 = true ∧ boundary c 0 = true ∧ heldInWord c 0 = false ∧ inhOf c 0 = false) ∧
    (let c := leading 0 { csrPut (strand (.lit 0) []) 0 0x18 0 with srcs := [(1000, { st := 2, holder := 0 })] }
     running c 0 = true ∧ intDue c 0 = true ∧ nextTraps c 0 = false ∧ orderRun c 0 = true ∧ inUnison c 0 = true) := by decide +kernel

theorem test_unison_taken : ∀ p ∈ ([(0x100, none, []), (0x101, some ⟨0x14, true, 3, 0xFF, 2, 4, true⟩, [⟨0x14, true, 3, 0xFF, 2, 4, true⟩]),
      (0x101, some ⟨0x14, true, 3, 0xFF, 2, 4, true⟩, []), (0x101, some ⟨0x13, false, 0, 0, 0, 4, false⟩, [])] : List (Nat × Option ITrap × List ITrap)),
    let e : LogEnt := ⟨p.1, 0, 0, [], true, p.2.1, 0, 0, false, true, false⟩
    let c := behind [e] [] (strandWith (.lit 0) [] (fun r => { r with itraps := p.2.2 }))
    inUnison c 0 = true ∧ bNext c 0 = some e ∧ asyncNext c 1 = some e ∧ e.word = (coreOf c 1).words ∧ inhOf c 1 = false ∧
      heldInWord c 1 = false ∧ boundary c 1 = true ∧ running c 1 = true ∧ (coreOf c 1).flights = [] := by decide +kernel

/-! ### Landing slots, loads, stores -/

def flightOf (op slot : Nat) (ready : Bool) : Flight :=
  ⟨op, slot, false, 0, 0x10000000, 4, false, ready, 7, 9, false, false, 0, 0, 0⟩

def withFlight (op : CoreOp) (stk : List Word) (f : Flight) : Chip := strandWith op stk (fun r => { r with flights := [f] })

def withStore (op : CoreOp) (stk : List Word) (x : Store) : Chip := strandWith op stk (fun r => { r with sbuf := [x] })

theorem test_remote_loads_premises :
    readyAll [(.ldr 3 1 true, [0x10000006]), (.agree 0 0 false, [0xFFFFFFFF]), (.lr 2, [0xFFFFFFFC]), (.ldr 1 1 false, [0x10000001])] ∧
    (let c := strand (.lr 2) [0xFFFFFFFC]
     (∀ j, j < 4 → slotBusy c 0 j = false) ∧ forward 0 (coreOf c 0).sbuf 0xFFFFFFFC 4 = .mem) ∧
    (∀ p ∈ ([(.ldr 1 2 false, 2), (.agree 1 2 false, 2), (.lr 1, 2), (.ldr 1 2 false, 4), (.agree 1 2 false, 4), (.lr 1, 4)] : List (CoreOp × Nat)),
      let c := withStore p.1 [0x10000004] ⟨0x10000004, p.2, 0xAB, 0⟩
      ready c false p.1 0 ∧ slotBusy c 0 1 = false ∧ inRegs 0x10000004 = false ∧
        (p.2 = 2 → forward 0 (coreOf c 0).sbuf 0x10000004 4 = .wait)) ∧
    (∀ op ∈ ([.ldr 3 2 false, .agree 3 2 false, .lr 3] : List CoreOp), let c := withFlight op [0x10000004] (flightOf 0x20 3 false)
      ready c false op 0 ∧ slotBusy c 0 3 = true) ∧
    readyAll [(.agree 3 1 true, [0x10000003]), (.lr 2, [0xFFFFFFFE])] := by
  unfold readyAll ready starts; decide +kernel

theorem test_unison_loads_premises :
    (∀ p ∈ ([(.ldr 1 2 false, 0x7FFC, false), (.ldr 1 2 false, 0x10000000, true), (.ldr 1 2 false, 0x10000000, false), (.ldr 1 1 true, 0x60000010, true),
        (.agree 2 1 false, 0x60000010, false), (.lr 3, 0x7FFC, false)] : List (CoreOp × Word × Bool)),
      let c := { pairOf p.1 [p.2.1] with fixedUnison := p.2.2 }
      starts c 0 false p.1 0 c ⟨[p.2.1], 0⟩ [p.2.1] ∧ inUnison c 0 = true ∧ pendStores c 0 = [] ∧ (courseOf c 0).log = [] ∧
        (∀ j, j < 4 → slotBusy c 0 j = false)) ∧
    (ownSram 0 0x7FFC = true ∧ ownSram 0 0x10000000 = false ∧ inRegs 0x10000000 = false ∧ ownSram 0 0x60000010 = false ∧ inRegs 0x60000010 = true) ∧
    (∀ p ∈ ([(.ldr 1 2 false, 0x20), (.agree 1 2 false, 0x25), (.lr 1, 0x23)] : List (CoreOp × Nat)),
      let e : LogEnt := ⟨p.2, 0x10000000, 4, [7], true, none, 0, 1, false, true, false⟩
      let c := updCore (updCourse (pairOf p.1 [0x10000000]) 0 (fun r => { r with log := [e] })) 0 (fun r => { r with words := 1 })
      starts c 1 false p.1 0 c ⟨[0x10000000], 0⟩ [0x10000000] ∧ bNext c 0 = some e ∧ e.ready = true ∧ pendStores c 1 = [] ∧
        matches_ e p.2 0x10000000 4 = true ∧ slotBusy c 1 1 = false) := by
  unfold starts; decide +kernel

theorem test_remote_stores_premises : ready (strand (.str 0) [0xFFFFFFFF, 5]) false (.str 0) 1 ∧ isFlaw 6 = true ∧
    readyAll [(.tas 0, [0x10000000]), (.sc 3, [0x10000004, 9])] ∧
    (let c := strandWith (.sc 3) [0x10000004, 9] (fun r => { r with bus := [⟨1, 0, 0x10000000, 4, 0, 0, false, true, 0⟩] })
     ready c false (.sc 3) 0 ∧ slotBusy c 0 3 = false ∧ (coreOf c 0).sbuf = [] ∧
       (∀ q ∈ (coreOf c 0).bus, q.kind = 1 → q.done = true)) ∧
    ready (withStore (.tas 0) [0x10000000] ⟨0x10000004, 4, 1, 0⟩) false (.tas 0) 0 := by
  unfold readyAll ready starts; decide +kernel

theorem test_unison_atomics_premises :
    (∀ p ∈ ([(.tas 0, [0x10000000]), (.sc 3, [0x10000004, 9])] : List (CoreOp × List Word)),
      let c := strand p.1 p.2
      leadsAt (leading 0 c) p.1 0 ∧ ckptFirst (leading 0 c) 0 = true ∧ leadsAt (leading 2 c) p.1 0 ∧ ckptFirst (leading 2 c) 0 = false ∧
        topWords (leading 2 c) 1 (opEffect p.1).1 = p.2) ∧
    (let c := updCore (leading 2 (strand (.tas 0) [0x10000000])) 1 (fun r => { r with stk := [0x10000008] })
     leadsAt c (.tas 0) 0 ∧ topWords c 1 1 ≠ [0x10000000]) ∧
    followsAt (behind [readOf 0x22 0x10000000 4 [5]] [] (strand (.tas 0) [0x10000000])) (.tas 0) 0x22 0x10000000 4 [5] ∧
    followsAt (behind [readOf 0x24 0x10000004 76 [1]] [] (strand (.sc 3) [0x10000004, 9])) (.sc 3) 0x24 0x10000004 76 [1] := by
  unfold followsAt secondAt leadsAt starts; decide +kernel

theorem test_degraded_stores_premises :
    (let c := updCourse (strand (.str 2) [0x10000000, 5]) 0 (fun r => { r with degraded := true })
     starts c 0 false (.str 2) 1 c ⟨[0x10000000, 5], 0⟩ [0x10000000, 5] ∧ inUnison c 0 = false ∧ placesNone c 0 = false ∧ ownSram 0 0x10000000 = false) ∧
    readyAll [(.tas 0, [0x10000001]), (.sc 3, [0x10000002, 9])] ∧ ready (strand (.str 1) [0x10000001, 5]) false (.str 1) 1 ∧
    (∀ op ∈ ([.tas 3, .sc 3] : List CoreOp), let c := withFlight op [0x10000004, 9] (flightOf 0x20 3 false)
      ready c false op 0 ∧ slotBusy c 0 3 = true) := by
  unfold readyAll ready starts; decide +kernel

theorem test_multiply_divide_premises :
    readyAll [(.mul 3 true, [0xFFFFFFFF, 0xFFFFFFFF]), (.mul 0 false, [0x80000000, 0x80000000]), (.div 1 false, [0, 5]),
      (.div 1 true, [7, 0xFFFFFFFF]), (.div 2 false, [0xFFFFFFFF, 0x80000000]), (.div 3 false, [0xFFFFFFFE, 7])] ∧
    (∀ j, j < 4 → slotsBusy (strand (.mul 3 true) [0xFFFFFFFF, 0xFFFFFFFF]) 0 j true = false) ∧
    ownSpills (strand (.mul 3 true) [0xFFFFFFFF, 0xFFFFFFFF]) 0 ⟨[0xFFFFFFFF, 0xFFFFFFFF], 0⟩ 2 [] := by
  unfold readyAll ready starts ownSpills buffers; decide +kernel

theorem test_slot_words_premises : readyAll [(.land 3, []), (.putl 3, [5]), (.waitl 8, [])] ∧
    (let c := withFlight (.land 3) [] (flightOf 0x20 3 false)
     ready c false (.land 3) 0 ∧ slotBusy c 0 3 = true) ∧
    (let c := withFlight (.putl 3) [5] (flightOf 0x26 3 true)
     ready c false (.putl 3) 0 ∧ slotBusy c 0 3 = true ∧ slotBusy c 0 0 = false) ∧
    (let c := withFlight (.waitl 8) [] (flightOf 0x20 3 false)
     ready c false (.waitl 8) 0 ∧ (8#4).toNat.testBit 3 = true ∧ slotBusy c 0 3 = true) ∧
    (∀ j, j < 4 → slotBusy (strand (.waitl 8) []) 0 j = false) := by
  unfold readyAll ready starts; decide +kernel

theorem test_landing_premises : ∀ f ∈ [flightOf 0x26 3 true, { flightOf 0x27 3 true with wide := true, setV := true },
      { flightOf 0x77 0 true with trap := 0x13, code := 9, setDZ := true }],
    let c := withFlight (.lit 0) [] f
    f.slot < 4 ∧ inUnison c 0 = false ∧ (coreOf c 0).wait = none ∧
      (coreOf c 0).flights.find? (fun x => decide (x.slot = f.slot)) = some f ∧ f.ready = true ∧ 0x26 ≤ f.op := by decide +kernel

/-- String 0 with a store to its own SRAM, one to a cluster store, and eight stores not acknowledged. -/
def drains (a n : Nat) (bus : Nat) : Chip :=
  strandWith (.lit 0) [] (fun r => { r with sbuf := [⟨a, n, 0x11223344, 2⟩],
                                            bus := List.replicate bus ⟨1, 0, 0x10000000, 4, 0, 0, false, false, 0⟩ })

theorem test_store_drain_premises :
    (∀ p ∈ [(0x7FFC, 4), (0x7FFE, 2), (0x7FFF, 1), (0, 4)],
      let c := drains p.1 p.2 0
      courseOn c 0 = true ∧ (courseOf c 0).safe = false ∧ ownSram 0 p.1 = true ∧ ownAtomic c 0 = false ∧ p.1 % p.2 = 0 ∧ injHits c (locOf 0 p.1) = false ∧
        locOf 0 p.1 / 4 * 4 ∉ c.poison) ∧
    (ownSram 0 0x1007FFFC = false ∧ ((coreOf (drains 0x1007FFFC 4 7) 0).bus.filter (fun q => decide (q.kind = 1) && decide (q.slot < 4))).length = 7 ∧
      ((coreOf (drains 0x1007FFFC 4 8) 0).bus.filter (fun q => decide (q.kind = 1) && decide (q.slot < 4))).length = 8) := by decide +kernel

/-- String 0 with two stores in the fabric, the older performed; course 7 runs in unison. -/
def stored (a : Nat) (done : Bool) (resp : Nat) : Chip :=
  { strandWith (.lit 0) [] (fun r => { r with bus := [⟨1, 0, 0x10000000, 4, 1, 0, false, true, 0⟩, ⟨1, 0, a, 4, 0xAABBCCDD, 6, false, done, resp⟩] }) with
    courses := [(7, { mode := 1 })] }

theorem test_store_performed_premises :
    (∀ b, (Tbl.get {} (stored 0x10000000 false 0).banks b).waiting = []) ∧
    (∀ r ∈ [0, 1, 2], let c := updCore (stored 0x20FF0000 true r) 0 (fun x => { x with bus := x.bus.drop 1 })
      (coreOf c 0).bus.map (fun q => (q.done, q.resp)) = [(true, r)] ∧ (coreOf c 0).wait = none) ∧
    (∀ k ∈ [0, 1], (let c := stored (0x10000000 + k * 0x40000) false 0
      tgtOf 0 (0x10000000 + k * 0x40000) = .store 0 (k * 0x40000) ∧ gateOpen c k = true ∧ injHits c (0x10000000 + k * 0x40000) = false)) ∧
    (let c := stored 0x20077FFC false 0
     tgtOf 0 0x20077FFC = .sram 7 0x7FFC ∧ courseOn c 7 = true ∧ rejectsWrites c 7 = true) ∧
    (let c := stored 0x20FF0000 false 0
     tgtOf 0 0x20FF0000 = .sram 255 0 ∧ courseOn c 255 = false) ∧
    (∀ r ∈ [0, 1, 2], (coreOf (stored 0x20FF0000 true r) 0).wait = none ∧ (stored 0x20FF0000 true r).stopped = [] ∧
      ((coreOf (stored 0x20FF0000 true r) 0).bus.drop 1).map (fun q => (q.kind, q.done, q.resp)) = [(1, true, r)]) :=
  ⟨fun _ => rfl, by decide +kernel⟩

/-- Scrubbing on in cluster `k`, a single-bit error and a poisoned word in its bank 0. -/
def scrubbed (k : Nat) : Chip :=
  { regOr { base with pegs := [(2 * k, ⟨.on, false⟩)] } (clReg k 0x10) 2 with
    sbe := [0x10000000 + k * 0x100000], poison := [0x10000004 + k * 0x100000], tb := 0x100000000000 }

theorem test_fabric_events_premises : (∀ k ∈ [0, 31], (scrubbed k).sys.per = true ∧ bit (regVal (scrubbed k) (clReg k 0x10)) 1 = true ∧
      scrubGa k 0 ∈ (scrubbed k).sbe ∧ (Tbl.get {} (scrubbed k).scrubs k : Scrub) = ⟨0, 0⟩ ∧ scrubNs (scrubbed k) k ≤ (scrubbed k).tb ∧
      scrubOn (scrubbed k) k 0 = true) ∧
    (∀ p ∈ [0, 1, 5], isInput p = true ∧ (linkMask 0).getLsbD p = true) ∧
    (∀ p ∈ [0, 3, 5], isInput p = true ∧ (linkMask 31).getLsbD p = true) ∧
    (hostStates base = true ∧ faultHandled base = false) ∧
    (bits 0x2602 1 0 ≠ 3 ∧ bits 0x2602 13 8 ≤ 38) ∧
    (injHits (scrubbed 0) 0x10000000 = false) := by decide +kernel

/-! ### Channels -/

/-- A stream channel from string 0 to itself, at generation 15, whose oldest word lies in the queue's last place. -/
def loopChan : Chan := { opened := true, gen := 15, kind := 1, prod := 0x1000, cons := 0x1000, qbase := 0x20, rd := 7, depth := 2, credit := 6 }

/-- String 0 at a word, with channel `n`, whose two words are 5 and 6. -/
def withChan (op : CoreOp) (stk : List Word) (n : Nat) (ch : Chan) (f : Core → Core) : Chip :=
  let c := putWord (putWord (strandWith op stk f) (0x1000003C + n / 128 * 0x100000) 5) (0x10000020 + n / 128 * 0x100000) 6
  { c with chans := [(n, ch)], pegs := (c.pegs ++ [(62, ⟨.on, false⟩)]) }

def sendAt (op : CoreOp) (h : Word) (ch : Chan) : Chip := withChan op [h, 0xABCD] (h.toNat % 4096) ch id

theorem test_send_words_premises :
    (∀ p ∈ [(CoreOp.send, 0xF000, loopChan), (.sendt, 0xFFFF, loopChan), (.send, 0xF000, { loopChan with credit := 0 }),
        (.sendt, 0xF000, { loopChan with credit := 0 }), (.send, 0xFFFF, { loopChan with kind := 2 }), (.sendt, 0xF000, { loopChan with kind := 2 })],
      let c := sendAt p.1 p.2.1 p.2.2
      ready c false p.1 0 ∧ validHandle c p.2.1.toNat ∧ partyMatches c 0 0x1000 = true ∧ p.2.2.fmt = 0 ∧ p.2.2.closing = none ∧
        p.2.2.broken = false ∧ partyClass 0x1000 ≠ 4 ∧
        injHits c (chWordGa (p.2.1.toNat % 4096) p.2.2 p.2.2.depth / 4 * 4) = false) ∧
    (∀ op ∈ [CoreOp.send, .sendt],
      (ready (sendAt op 0xE000 loopChan) false op 0 ∧ ¬ validHandle (sendAt op 0xE000 loopChan) 0xE000) ∧
      (ready (sendAt op 0xF000 { loopChan with kind := 0 }) false op 0) ∧
      (ready (sendAt op 0xF000 { loopChan with prod := 0x1001 }) false op 0 ∧
        partyMatches (sendAt op 0xF000 { loopChan with prod := 0x1001 }) 0 0x1001 = false)) := by
  unfold ready starts validHandle; decide +kernel

def fullOf (op : CoreOp) : Chip := sendAt op 0xF000 { loopChan with credit := 0 }

def sendHalf : Pair := ⟨⟨1, 0xF000, 4, 0xABCD, 0, 0, 0, 0, false, true⟩, false, 3⟩

theorem test_unison_sends_premises :
    (∀ op ∈ [CoreOp.send, .sendt],
      leadsAt (leading 0 (sendAt op 0xF000 loopChan)) op 1 ∧ leadsAt (leading 0 (sendAt op 0xF000 { loopChan with kind := 2 })) op 1 ∧
        leadsAt (leading 0 (fullOf op)) op 1 ∧ leadsAt (leading 2 (fullOf op)) op 1 ∧ ckptFirst (leading 0 (fullOf op)) 0 = true ∧
        ckptFirst (leading 2 (fullOf op)) 0 = false ∧ entries (leading 0 (fullOf op)) 0 = 1 ∧
        partyMatches (leading 0 (fullOf op)) 0 0x1000 = true ∧ (fullOf op).stopped = []) := by
  unfold leadsAt starts; decide +kernel

theorem test_unison_send_half_premises :
    (let c := behind [] [sendHalf] (sendAt .send 0xF000 loopChan)
     secondAt c .send 1 ∧ entries c 1 = 1 ∧ halvesEqual sendHalf.a ⟨1, 0xF000, 4, 0xABCD, 0, 0, 0, 0, false, false⟩ = true ∧ isOutput c 0 sendHalf.a = true ∧
       partyMatches c 1 0x1000 = true) := by
  unfold secondAt starts; decide +kernel

theorem test_unison_sendt_premises :
    secondAt (behind [readOf 0x32 0xF000 4 [1]] [sendHalf] (sendAt .sendt 0xF000 loopChan)) .sendt 1 ∧
    bNext (behind [readOf 0x32 0xF000 4 [1]] [sendHalf] (sendAt .sendt 0xF000 loopChan)) 0 = some (readOf 0x32 0xF000 4 [1]) := by
  unfold secondAt starts; decide +kernel

def recvAt (op : CoreOp) (h : Word) (ch : Chan) : Chip := withChan op [h] (h.toNat % 4096) ch id

theorem test_receive_words_premises :
    (∀ p ∈ [(CoreOp.recv, 0xF000, loopChan), (.recvt, 0xFFFF, loopChan), (.recv, 0xFFFF, { loopChan with depth := 0 }),
        (.recvt, 0xF000, { loopChan with depth := 0 })],
      let c := recvAt p.1 p.2.1 p.2.2
      ready c false p.1 0 ∧ validHandle c p.2.1.toNat ∧ partyMatches c 0 0x1000 = true ∧ partyClass 0x1000 ≠ 0 ∧ partyClass 0x1000 ≠ 4 ∧
        p.2.2.fmt = 0 ∧ p.2.2.broken = false ∧ p.2.2.gapPend = false ∧ p.2.2.lead = 0 ∧ c.poison = []) ∧
    (let c := { recvAt .recv 0xF000 loopChan with poison := [0x1000003C] }
     ready c false .recv 0 ∧ chWordGa 0 loopChan 0 / 4 * 4 ∈ c.poison ∧ pendOk c 0 ∧ inhOf c 0 = false ∧ (coreOf c 0).rep = none) := by
  unfold ready starts validHandle pendOk; decide +kernel

theorem test_unison_receives_premises :
    (∀ op ∈ [CoreOp.recv, .recvt],
      let none := recvAt op 0xF000 { loopChan with depth := 0 }
      leadsAt (leading 0 (recvAt op 0xF000 loopChan)) op 0 ∧ leadsAt (leading 0 none) op 0 ∧ leadsAt (leading 2 none) op 0 ∧
        ckptFirst (leading 0 none) 0 = true ∧ ckptFirst (leading 2 none) 0 = false ∧ partyMatches (leading 0 none) 0 0x1000 = true) ∧
    followsAt (behind [readOf 0x31 0xF000 0 [4]] [] (recvAt .recv 0xF000 loopChan)) .recv 0x31 0xF000 0 [4] ∧
    followsAt (behind [readOf 0x33 0xF000 0 [4, 1]] [] (recvAt .recvt 0xF000 loopChan)) .recvt 0x33 0xF000 0 [4, 1] ∧
    (∀ op ∈ [CoreOp.recv, .recvt], ready (recvAt op 0xE000 loopChan) false op 0 ∧ ¬ validHandle (recvAt op 0xE000 loopChan) 0xE000) := by
  unfold followsAt secondAt leadsAt ready starts validHandle; decide +kernel

/-- String 0 waiting on channel 0 with `kind`. -/
def engaged (ch : Chan) (kind : Nat) (parked : Bool) : Chip :=
  withChan .send [0xF000, 0xABCD] 0 ch (fun r => { r with wait := some ⟨kind, 0xF000, 0xABCD, if kind = 6 then 1 else 2, parked⟩ })

def mailbox : Chan := { loopChan with kind := 2, credit := 0 }

theorem test_channel_engines_premises :
    (∀ p ∈ [(mailbox, 4), ({ mailbox with depth := 8 }, 5), ({ mailbox with depth := 8 }, 4)],
      let c := engaged p.1 p.2 false
      (0xF000#32).toNat % 4096 = 0 ∧ validHandle c 0xF000 ∧ inUnison c 0 = false ∧ partyClass p.1.cons ≠ 4 ∧ (coreOf c 0).rep = none ∧
        chFree p.1 = 8 - p.1.depth ∧ injHits c (chWordGa 0 p.1 p.1.depth / 4 * 4) = false) ∧
    (let h := { mailbox with sends := [0, 1] }
     chFree h ≠ 0 ∧ injHits (engaged h 4 true) (chWordGa 0 h h.depth / 4 * 4) = false) ∧
    (let h := { mailbox with recvs := [0, 1] }
     h.lead = 0 ∧ h.gapPend = false ∧ chWordGa 0 h 0 / 4 * 4 ∉ (engaged h 6 true).poison) ∧
    (let c := engaged { loopChan with due := [3, 4], sends := [0], credit := 0 } 4 true
     (chanOf c 0).due = 3 :: [4] ∧ partyClass (chanOf c 0).prod ≠ 4 ∧ injHits c (chWordGa 0 (chanOf c 0) 2 / 4 * 4) = false ∧ c.stopped = []) ∧
    (engaged { loopChan with due := [1] } 4 true).chans = [(0, { loopChan with due := [1] })] ∧
    (let h := { loopChan with tailto := 5, tailRun := true, tailAt := 0x100000007 - 5000 }
     h.tailAt + 1000 * h.tailto ≤ (engaged h 4 true).tb) ∧
    (let h : Chan := { loopChan with closing := some ⟨⟨0, 0, 0, 0, 0, 0, 0⟩, true, 5⟩, lost := 0xFFFFFFFE, reserved := 3 }
     ({ h with depth := 0 }).sends = [] ∧ h.recvs = [] ∧ h.depth ≠ 0) := by
  unfold validHandle; decide +kernel

/-! ### Events and barriers as strings meet them -/

/-- A state with source 1000 presented to string 0. -/
def offered (op : CoreOp) (stk : List Word) : Chip := { strand op stk with srcs := [(1000, { st := 2, holder := 0 })] }

theorem test_event_words_premises : readyAll [(.sleep, []), (.wait false, []), (.wait true, [7]), (.ckpt, [])] ∧
    (∀ p ∈ ([(.sleep, []), (.wait false, []), (.wait true, [0x80000007])] : List (CoreOp × List Word)),
      ready (offered p.1 p.2) false p.1 0 ∧ reqUp (offered p.1 p.2) 0 = true ∧ reqUp (strand p.1 p.2) 0 = false) ∧
    (let c := pairOf .ckpt []
     starts c 0 false .ckpt 0 c ⟨[], 0⟩ [] ∧ inUnison c 0 = true ∧ (courseOf c 0).ckptAt = none ∧ (courseOf c 0).log = []) := by
  unfold readyAll ready starts; decide +kernel

theorem test_unison_events_premises :
    (∀ p ∈ ([(.sleep, []), (.wait false, []), (.wait true, [7])] : List (CoreOp × List Word)),
      let c := strand p.1 p.2
      leadsAt (leading 0 c) p.1 0 ∧ ckptFirst (leading 0 c) 0 = true ∧ leadsAt (leading 2 c) p.1 0 ∧ ckptFirst (leading 2 c) 0 = false ∧
        reqUp (leading 2 c) 0 = false ∧ leadsAt (leading 2 (offered p.1 p.2)) p.1 0 ∧ reqUp (leading 2 (offered p.1 p.2)) 0 = true) ∧
    followsAt (behind [readOf 0x39 0 0 []] [] (strand .sleep [])) .sleep 0x39 0 0 [] ∧
    followsAt (behind [readOf 0x38 0 0 [1]] [] (strand (.wait true) [7])) (.wait true) 0x38 0 0 [1] ∧
    secondAt (behind [] [] (strand .ckpt [])) .ckpt 0 := by
  unfold followsAt secondAt leadsAt starts; decide +kernel

theorem test_unison_barriers_premises :
    (∀ op ∈ [CoreOp.fence, .sync, .ifence], leadsAt (leading 0 (strand op [])) op 0 ∧ ckptFirst (leading 0 (strand op [])) 0 = true ∧
      leadsAt (leading 2 (strand op [])) op 0 ∧ ckptFirst (leading 2 (strand op [])) 0 = false ∧ secondAt (behind [] [] (strand op [])) op 0 ∧
      ckptFirst (behind [] [] (strand op [])) 1 = false) ∧
    (let c := updCourse (leading 0 (strand .ifence [])) 0 (fun r => { r with pairs := [⟨⟨0, 0x7FFC, 4, 9, 0, 0, 0, 0, true, false⟩, false, 3⟩] })
     leadsAt c .ifence 0 ∧ pendStores c 0 ≠ []) := by
  unfold secondAt leadsAt starts; decide +kernel

theorem test_barrier_premises : (∀ op ∈ [CoreOp.fence, .sync, .ifence], ready (strand op [3]) false op 0 ∧
      (let c := withStore op [] ⟨0x7FFC, 4, 1, 0⟩
       ready c false op 0 ∧ (coreOf c 0).sbuf ≠ []) ∧
      (let c := withFlight op [] (flightOf 0x27 2 true)
       ready c false op 0 ∧ (coreOf c 0).flights ≠ []) ∧
      (let c := strandWith op [] (fun r => { r with pend := [(0x10, 0x7FF0), (0x18, 0)] })
       ready c false op 0 ∧ pendOk c 0)) ∧
    (let c := strandWith .fence [] (fun r => { r with flights := [flightOf 0x27 3 true], wait := some ⟨7, 0, 0, 0, false⟩ })
     running c 0 = true ∧ (coreOf c 0).rep = none ∧ (flightOf 0x27 3 true).slot < 4) := by
  unfold ready starts pendOk; decide +kernel

/-! ### CSRs -/

theorem test_csr_reads_premises : 513 < 514 ∧ ([8, 7, 6, 5, 4, 3, 2, 1] : List Word).length ≤ 8 ∧
    (coreOf (strandWith (.lit 0) [] (fun r => { r with rsDepth := 16 })) 0).rsDepth ≤ 16 := by decide +kernel

theorem test_csr_words_premises : readyAll [(.csrr 0x00, [1]), (.csrr 0x20, []), (.csrr 0x21, []), (.csrr 0x22, []), (.csrw 0x22, [0xFFFFFFFF]),
    (.csrw 0x30, [5]), (.csrw 0x33, [0xFFFFFFFF]), (.csrw 0x00, [1]), (.csrw 0x02, [1]), (.csrw 0x18, [0xFFFFFFFE]), (.csrw 0x10, [0xFFFFFFFF]),
    (.csrw 0x0A, [0x8003]), (.csrw 0x0A, [0x3FFF]), (.csrw 0x0A, [0x8004]), (.csrw 0x0A, [0x4000])] ∧
    (coreOf (strandWith (.csrr 0x22) [] (fun r => { r with dpos := 15 })) 0).dpos < 16 := by
  unfold readyAll ready starts; decide +kernel

theorem test_unison_csr_premises :
    (∀ i ∈ [(0x20 : BitVec 8), 0x21, 0x22, 0x1A],
      leadsAt (leading 0 (strand (.csrr i) [])) (.csrr i) 0 ∧ (leading 0 (strand (.csrr i) [])).fixedUnison = false ∧
        followsAt (behind [readOf 0x40 i.toNat 0 [9, 8]] [] (strand (.csrr i) [])) (.csrr i) 0x40 i.toNat 0 [9, 8]) ∧
    (let c := { leading 0 (strand (.csrr 0x20) []) with fixedUnison := true }
     leadsAt c (.csrr 0x20) 0) ∧
    (let c := strand (.csrw 0x1B) [1000]
     let p : Pair := ⟨⟨2, 0, 4, 1000, 0, 0, 0, 0, false, false⟩, false, 3⟩
     leadsAt (leading 0 c) (.csrw 0x1B) 1 ∧ secondAt (behind [] [p] c) (.csrw 0x1B) 1 ∧ entries (leading 0 c) 0 = 1 ∧
       isOutput (behind [] [p] c) 0 p.a = true) := by
  unfold followsAt secondAt leadsAt starts; decide +kernel

def holds (v : Word) (x : Src) : Chip := { strand (.csrw 0x1B) [v] with srcs := [(1000, x)] }

theorem test_claim_premises : readyAll [(.csrr 0x1A, []), (.csrw 0x19, [0xFFFFFFFF])] ∧
    (presentedTo (strand (.csrr 0x1A) []) 0 = [] ∧ ready (offered (.csrr 0x1A) []) false (.csrr 0x1A) 0 ∧
      eventId (offered (.csrr 0x1A) []) 0 = 0 ∧ presentedTo (offered (.csrr 0x1A) []) 0 = [1000]) ∧
    (let c := holds 1000 { st := 3, holder := 0 }
     ready c false (.csrw 0x1B) 0 ∧ isLevelSense (srcSense c 1000) = false ∧ (srcOf c 1000).st = 3 ∧ (srcOf c 1000).holder = eventId c 0) ∧
    (∀ p ∈ ([(0, { st := 3 }), (1001, { st := 3 }), (1000, { st := 2 }), (1000, { st := 3, holder := 1 })] : List (Word × Src)),
      ready (holds p.1 p.2) false (.csrw 0x1B) 0) := by
  unfold readyAll ready starts; decide +kernel

/-! ### The coprocessor block -/

theorem test_coprocessor_premises : readyAll [(.cp 0 3 31, [5, 6]), (.cp 1 0 0, [5]), (.cp 2 1 31, [1]), (.cp 3 2 0, [1]), (.cp 4 2 0, [1]),
    (.cp 5 2 0, [1, 2]), (.cp 6 2 9, [1, 0x20]), (.cp 7 2 9, [])] ∧
    (let c := strand (.cp 3 3 0) [0xFFFFFFFF]
     gateOpen c 1 = true ∧ slotsBusy c 0 3 true = false ∧ (camOf c 0).queue = [] ∧ (camOf c 0).copy = none ∧ (coreOf c 0).sbuf = [] ∧
       (coreOf c 0).bus = []) ∧
    (let c := { strand (.cp 3 3 0) [0xFFFFFFFF] with pegs := [(0, ⟨.on, false⟩)] }
     ready c false (.cp 3 3 0) 0 ∧ gateOpen c 1 = false) ∧
    (let c := { strand (.cp 2 1 31) [1] with cams := [(0, { queue := List.replicate 8 ⟨0, 3, 2, 1, 1, 1, 0, 0⟩ })] }
     ready c false (.cp 2 1 31) 0 ∧ gateOpen c 1 = true) := by
  unfold readyAll ready starts; decide +kernel

def cpPair (op : Nat) (a b : Word) : Pair := ⟨⟨3, 31, 4, a, b, op, 1, 0, false, false⟩, false, 3⟩

theorem test_unison_coprocessor_premises :
    (∀ p ∈ ([(0, [5], cpPair 0 5 0), (5, [5], cpPair 5 5 0), (6, [1, 0x20], cpPair 6 0x20 1)] : List (BitVec 3 × List Word × Pair)),
      let c := strand (.cp p.1 1 31) p.2.1
      leadsAt (leading 0 c) (.cp p.1 1 31) 1 ∧ secondAt (behind [] [p.2.2] c) (.cp p.1 1 31) 1 ∧ isOutput (behind [] [p.2.2] c) 0 p.2.2.a = true ∧
        (camOf c 0).waits = [] ∧ (camOf c 0).offers = [] ∧ c.cur = none) ∧
    (∀ p ∈ ([(1, []), (2, [7]), (3, [7]), (4, [7]), (7, [])] : List (BitVec 3 × List Word)),
      let c := strand (.cp p.1 1 31) p.2
      leadsAt (leading 0 c) (.cp p.1 1 31) 0 ∧
        followsAt (behind [readOf (0x70 + p.1.toNat) 63 (p.2.getD 0 0).toNat [9, 8]] [] c) (.cp p.1 1 31) (0x70 + p.1.toNat) 63 (p.2.getD 0 0).toNat [9, 8]) := by
  unfold followsAt secondAt leadsAt starts; decide +kernel

/-! ### Courses and tuners -/

theorem test_unison_stores_premises : ∀ p ∈ ([(.str 0, [0x7FFF, 0x1234]), (.str 1, [0x7FFE, 1]), (.str 2, [0x10000000, 5])] : List (CoreOp × List Word)),
    let c := pairOf p.1 p.2
    starts c 0 false p.1 1 c ⟨p.2, 0⟩ p.2 ∧ inUnison c 0 = true ∧ (courseOf c 0).bHalves = [] := by unfold starts; decide +kernel

def halfOf (a : Nat) (v : Word) : Entry := ⟨0, a, 4, v, 0, 0, 0, 2, false, false⟩

/-- Course `n` in unison with one pair compared and one not. -/
def paired (n : Nat) : Chip := { base with courses := [(n, { mode := 1, pairs := [⟨halfOf 0x10000000 1, true, 62⟩, ⟨halfOf 0x10000004 2, false, 63⟩] })] }

theorem test_halves_compared_premises : ∀ n ∈ [0, 255],
    (courseOf (paired n) n).pairs = [⟨halfOf 0x10000000 1, true, 62⟩] ++ ⟨halfOf 0x10000004 2, false, 63⟩ :: [] ∧ 62 ≠ 63 ∧
    halvesEqual (halfOf 0x10000004 2) (halfOf 0x10000004 2) = true ∧ isOutput (paired n) n (halfOf 0x10000004 2) = true ∧
    halvesEqual (halfOf 0x10000004 2) (halfOf 0x10000004 3) = false := by decide +kernel

def askedHalt (c : Chip) (n : Nat) : Chip :=
  updCore (updCore c (2 * n) (fun r => { r with haltReq := true })) (2 * n + 1) (fun r => { r with haltReq := true })

/-- A course that has reported itself halted to the one command that waits for it. -/
def reported (n : Nat) : Chip :=
  { base with pegs := [(n / 4, ⟨.on, false⟩)], sys := { base.sys with halts := [⟨⟨0, 1, 2, 3, 0, 0, 0⟩, [n]⟩] }, accepted := [⟨0, 1, 2, 3, 0, 0, 0⟩] }

theorem test_peg_halts_premises :
    (let c := askedHalt (strand (.lit 0) []) 0
     (courseOf c 0).hand = none ∧ (courseOf c 0).check = 0 ∧ (courseOf c 0).safe = false ∧ (coreOf c 0).haltReq = true ∧ (coreOf c 1).haltReq = true ∧
       inUnison c 0 = false ∧ heldInWord c 0 = false ∧ heldInWord c 1 = false) ∧
    (let c := askedHalt (pairOf (.lit 0) []) 0
     inUnison c 0 = true ∧ (courseOf c 0).ckptAt = none ∧ (coreOf c 0).haltReq = true ∧ (coreOf c 1).haltReq = true) ∧
    (∀ n ∈ [0, 255, 256], courseReported (reported n) n = true ∧ (reported n).sys.detach = none) := by decide +kernel

/-- A course in unison whose strings stand at the checkpoint called, with pairs. -/
def atCkpt (l : List Pair) : Chip :=
  updCourse (copyToB (pairOf (.lit 0) [5]) 0) 0 (fun r => { r with ckptAt := some 0, pairs := l, ctlPend := some 3, ckpts := 65535 })

theorem test_checkpoints_premises :
    (let c := updCore (pairOf (.lit 0) []) 0 (fun r => { r with words := 4096 })
     inUnison c 0 = true ∧ 4096 ≤ (coreOf c 0).words ∧ (courseOf c 0).ckptAt = none) ∧
    (∀ l ∈ [[], [⟨{ halfOf 0x7FFC 9 with priv := true }, true, 7⟩], [⟨halfOf 0x7FFC 9, false, 7⟩]],
      let c := atCkpt l
      ckptReady c 0 = true ∧ (courseOf c 0).bHalves = [] ∧ (courseOf c 0).hand = none ∧ haltAsked c 0 = false ∧ eachEqual c 0 = true ∧
        sigEqual c 0 1 = true ∧ locOf 0 0x7FFC % 4 = 0 ∧ injHits c (locOf 0 0x7FFC) = false) ∧
    (let c := updCore (atCkpt []) 1 (fun r => { r with stk := [6] })
     ckptReady c 0 = true ∧ eachEqual c 0 = true ∧ sigEqual c 0 1 = false) := by decide +kernel

def checking (check : Nat) (ctl : Word) : Chip := updCourse (pairOf (.lit 0) [5]) 0 (fun r => { r with check := check, ctl := ctl, miscnt := 255 })

theorem test_verdicts_premises :
    (let c := updCourse (updCore (pairOf (.lit 0) []) 0 (fun r => { r with words := 1 })) 0 (fun r => { r with ckptAt := some 1 })
     courseOn c 0 = true ∧ inUnison c 0 = true ∧ (courseOf c 0).check = 0 ∧ (courseOf c 0).ckptAt = some (coreOf c 0).words ∧
       (coreOf c 1).words < (coreOf c 0).words ∧ (coreOf c 1).wait = none ∧ (coreOf c 1).flights = [] ∧ (coreOf c 1).halted = false) ∧
    ((courseOf (checking 1 3) 0).check = 1 ∧ (courseOf (checking 1 3) 0).test = none ∧ (coreOf (checking 1 3) 0).flights = [] ∧
      bit (courseOf (checking 1 3) 0).ctl 0 = true ∧ bit (courseOf (checking 1 3) 0).ctl 1 = true) ∧
    ((courseOf (checking 2 1) 0).check = 2 ∧ bit (courseOf (checking 2 1) 0).ctl 0 = true) ∧
    ((courseOf (checking 2 0) 0).check = 2 ∧ bit (courseOf (checking 2 0) 0).ctl 0 = false) := by decide +kernel

/-- Course 0 in a hand-over to unison. -/
def handing (stk : List Word) : Chip :=
  { updCourse (strand (.lit 0) stk) 0 (fun r => { r with mode := 2, hand := some ⟨true, 0, ⟨0, 1, 2, 3, 0, 0, 0⟩, false⟩ }) with
    accepted := [⟨0, 1, 2, 3, 0, 0, 0⟩] }

theorem test_course_events_premises :
    ((courseOf (handing [1, 2]) 0).hand = some ⟨true, 0, ⟨0, 1, 2, 3, 0, 0, 0⟩, false⟩ ∧ quiesced (handing [1, 2]) 0 = true ∧
      quiesced (handing [1, 2]) 1 = true) ∧
    (let c := updCourse (strand (.lit 0) []) 0 (fun r => { r with check := 2, test := some ⟨0, 1, 2, 3, 0, 0, 0⟩ })
     (courseOf c 0).test = some ⟨0, 1, 2, 3, 0, 0, 0⟩ ∧ isFlaw 6 = true ∧ isFlaw 0 = true) ∧
    ((strand (.lit 0) []).sys.per = true ∧ inUnison (strand (.lit 0) []) 0 = false ∧ inUnison (pairOf (.lit 0) []) 0 = true ∧
      courseOn (pairOf (.lit 0) []) 0 = true) := by decide +kernel

/-! ### The tablature -/

/-- A bank 0 whose phase stave and time stave hold one note each, the phase note with `hi` as bits [23:16]; a verified image of
256 bytes without notes in bank 1, its check sums as R332 gives them. -/
def song (hi : Byte) : Chip :=
  { base with
    dev := .running, tab := { active := some 0, tsBank := some 0, frame := some 4984375, tIdx := 1, stA := 6, stB := 2, fetchP := 1, fetchT := 1 },
    mem := [(0x4000001C, 0x01), (0x40000020, 0x80), (0x40000024, 0x01), (0x40000028, 0x90), (0x4000002C, 0x01), (0x40000030, 0x09), (0x40000031, 0x3D),
      (0x40000080, 0x05)] ++ (if hi = 0 then [] else [(0x40000082, hi)]) ++ [(0x40000083, 0x02), (0x40000084, 0xDD), (0x40000088, 0x10), (0x4000008B, 0x10),
      (0x4000008C, 0x04), (0x4000008E, 0x30), (0x40000092, 0x01), (0x40000093, 0x0F),
      (0x40800000, 0x54), (0x40800001, 0x41), (0x40800002, 0x42), (0x40800003, 0x31), (0x40800004, 0x01), (0x40800009, 0x01), (0x4080001A, 0x01),
      (0x4080001C, 0x01), (0x40800078, 0x9D), (0x40800079, 0xFA), (0x4080007A, 0xA8), (0x4080007B, 0xC2), (0x4080007C, 0x69), (0x4080007D, 0x85),
      (0x4080007E, 0x9B), (0x4080007F, 0x62)] }

def owedTo : ReplyTo := ⟨0, 1, 2, 3, 0, 0, 0⟩

/-- The same with the engine changed. -/
def songWith (hi : Byte) (f : Tab → Tab) : Chip := { song hi with tab := f (song hi).tab, accepted := [owedTo] }

def timed : Chip := regPut (songWith 0 (fun t => { t with frame := some 5000000, tIdx := 0 })) 0x60005000 1

def fallen (time : Bool) (stamp : Nat) : Chip :=
  let d : Due := ⟨time, 0, 0, 5, stamp, true⟩
  songWith 2 (fun t => if time then { t with dueT := [d] } else { t with dueP := [d] })

def plainly (c : Chip) : Chip := regPut c 0x60005000 1

def overrun : Chip := regPut (fallen false (5000000 - 2001)) 0x6000513C 1

def staging (p : Word) (now : Bool) : Chip := songWith 0 (fun t => { t with arm := some ⟨p, 0x80000001, now, 1, owedTo, true, false⟩ })

theorem test_tablature_premises :
    (tabRuns (song 0) = true ∧ (song 0).tab.tsQ = [] ∧ (song 0).tab.tsBank = some 0 ∧ (song 0).tab.frame = some 4984375 ∧
      nextMoment (song 0) = none ∧ 4984375 + imTper (song 0) 0 ≤ (song 0).tb) ∧
    (let c := songWith 0 (fun t => { t with tsQ := [(0, 0)], tsBank := none, frame := none })
     tabRuns c = true ∧ imTscnt c 0 ≠ 0 ∧ firstBoundary c 0 0 ≤ c.tb) ∧
    (tabRuns timed = true ∧ nextMoment timed = some (0, 5000000) ∧ 5000000 ≤ timed.tb ∧ inForce timed 5000000 = true ∧ dropEn timed = false) ∧
    (∀ p ∈ [(plainly (fallen false (5000000 - 2000)), ⟨false, 0, 0, 5, 5000000 - 2000, true⟩), (plainly (fallen true 5000000), ⟨true, 0, 0, 5, 5000000, true⟩),
        (overrun, (⟨false, 0, 0, 5, 5000000 - 2001, true⟩ : Due))],
      tabIssues p.1 = true ∧ stopReached p.1 = false ∧ nextDue p.1 = some p.2 ∧ inHand p.1 p.2 ≠ 0 ∧ p.1.poison = []) ∧
    (let c := plainly (fallen false (5000000 - 2000))
     dropEn c = false ∧ (laneOf c (nLane (noteWord c 0 false 0 3))).q.length < 32 ∧ c.tb - (5000000 - 2000) ≤ lateTh c) ∧
    (overspeed overrun = true ∧ dropEn overrun = true ∧ nDrop (noteWord overrun 0 false 0 0) = true ∧ lateTh overrun < overrun.tb - (5000000 - 2001)) ∧
    ((song 0).sys.per = true ∧ (song 0).tb / 1000000 ≠ (song 0).tab.winIdx) := by decide +kernel

theorem test_staging_premises :
    ((staging 1 false).tab.arm = some ⟨1, 0x80000001, false, 1, owedTo, true, false⟩ ∧ (∀ k, k < 32 → switchOwed (staging 1 false) k = false) ∧
      1 ≤ sgn (1 - dronePos (staging 1 false) (imDrone (staging 1 false) 1)) ∧ sgn (0 - dronePos (staging 0 false) 0) < 1) ∧
    ((songWith 0 (fun t => { t with clearB := some owedTo })).tab.clearB = some owedTo) ∧
    ((songWith 0 (fun t => { t with verA := some owedTo })).tab.verA = some owedTo) := by decide +kernel

set_option maxRecDepth 100000 in
theorem test_verify_good_premises : verifyImage (songWith 0 (fun t => { t with verB := some owedTo })) 1 = .passes := by decide +kernel

theorem test_verify_bad_premises : verifyImage (songWith 0 (fun t => { t with verA := some owedTo })) 0 = .fails 1 0 ∧
    verifyImage { songWith 0 (fun t => { t with verA := some owedTo }) with poison := [0x40000000] } 0 = .fault := by decide +kernel

/-! ### Lanes -/

def jobOf (w0 w1 w2 w3 : Word) (st : Nat) : Job := ⟨7, false, 0, 1, 5, 9, w0, w1, w2, w3, false, 0, st, 0⟩

def laned (lane : Nat) (q fl : List Job) : Chip :=
  let c := songWith 0 (fun t => { t with lanes := [(lane, { q := q, fl := fl })] })
  { c with pegs := [(0, ⟨.on, false⟩), (63, ⟨.on, false⟩)] }

theorem test_lane_premises :
    (∀ p ∈ [(0, jobOf 0x02000000 0xAABBCCDD 0x10000010 0x00000004 0), (3, jobOf 0x02000000 0x11223344 0x1000FFFF 0x00300004 0),
        (3, jobOf 0x01000000 0x10000010 0x10000020 0x00300004 0)],
      let c := laned p.1 [p.2, p.2] []
      c.sys.per = true ∧ 0 < laneInfl c p.1 ∧ fenceWaits c p.2 = false ∧ p.2.chg = false ∧ nLen p.2.w3 = 4) ∧
    (let c := laned 0 [jobOf 0x02000000 0xAABBCCDD 0x10000010 0x00000004 0] []
     epKind 0x10000010 < 2 ∧ epGa 0 0x10000010 % 4 = 0 ∧ dstCause c 0x10000010 4 = 0 ∧ injHits c (epGa 0 0x10000010) = false ∧
       nOp 0x02000000 = 2) ∧
    (let c := laned 3 [jobOf 0x01000000 0x10000010 0x10000020 0x00300004 0] []
     nOp 0x01000000 = 1 ∧ epGa 0 0x10000010 % 4 = 0 ∧ srcCause c 0 0x10000010 4 0 = 0 ∧ dstCause c 0x10000020 4 = 0 ∧ c.poison = [] ∧ c.sbe = []) ∧
    (let c := laned 0 [jobOf 0x02040000 1 0x20000000 0x00000004 0] []
     dstCause c 0x20000000 4 = 2 ∧ nMiss 0x00000004 = 0 ∧ nQuiet 0x02040000 = true) ∧
    (nOp 0x0F000000 = 0x0F ∧ nOp 0x03000000 = 3 ∧ nOp 0x40000000 = 0x40) := by decide +kernel

def gathers (k : Nat) (recs : Tbl (List QWord × Bool)) (taken : List Nat) : Chip :=
  let c := laned 3 [] [jobOf 0x40000000 (wd (2 ^ k)) 0x10000010 0x00300000 1]
  { c with tab := { c.tab with gather := some ⟨3, 7, 2 ^ k, 0x40000, 8, 0, 31, [], recs, taken, 0, false⟩ } }

theorem test_gather_premises : (∀ k ∈ [0, 31], (2 ^ k).testBit k = true ∧ gateOpen (gathers k [] []) (2 * k + 0x40000 / 0x40000) = decide (k = 31)) ∧
    (∀ i, i < 32 → (2 ^ 31).testBit i = decide (i = 31)) ∧ epKind 0x10000010 = 1 ∧ epUnit 0x10000010 < 32 ∧
    dstCause (gathers 31 [(31, ([⟨1, false⟩, ⟨2, false⟩], false))] [31]) 0x10000010 260 = 0 ∧
    injHits (gathers 31 [(31, ([⟨1, false⟩, ⟨2, false⟩], false))] [31]) (epGa 0 0x10000010) = false := by decide +kernel

/-! ### The cam and profile engines -/

/-- A linear table of three points -1, 4, 2 at phases 10, 13, 16, as R403 lays it out. -/
def ramp (per : Byte) : List Byte :=
  [0x43, 0x4D, per, 0, 10, 0, 3, 0, 3, 0, 0, 0, 0, 0, 0, 0, 0x2C, 0, 0, 0, 0, 0, 0, 0, 0, 0, 0, 0, 0, 0, 0, 0, 0xFF, 0xFF, 0xFF, 0xFF, 4, 0, 0, 0, 2, 0, 0, 0]

/-- Engine `e`, on, with that table at selector 31. -/
def camWith (e : Nat) (f : Cam → Cam) : Chip :=
  { base with pegs := [(2 * e + 1, ⟨.on, false⟩)], cams := [(e, f { set0 := [(31, ramp 0)] })] }

def ofsOp : CamOp := ⟨0, 4, 5, 2, 31, 0x1FFFF, 0, 0⟩

theorem test_cam_premises : (∀ e ∈ [0, 31], camOn (camWith e id) e = true ∧ inUnison (camWith e id) (courseNo ofsOp.who) = false) ∧
    (camCubic (ramp 0) = false ∧ camSpot (ramp 0) 0 11 = .seg (-1) 0 4 0 3 1 0 ∧ camSpot (ramp 0) 0 16 = .seg 4 0 2 0 3 3 1 ∧
      camSpot (ramp 0) 0 9 = .outside (-1) ∧ camSpot (ramp 0) 0 17 = .outside 2 ∧ camSpot (ramp 2) 0 9 = .seg 2 0 (-1) 0 65530 65529 2 ∧
      camTable (camOf (camWith 0 id) 0) 31 = ramp 0 ∧ camTable (camOf (camWith 0 id) 0) 30 = []) ∧
    (let c := camWith 31 (fun m => { m with copy := some ⟨4, 1, 0, 0x10000, 0x40000, false⟩, set0 := [] })
     isEcc 0 = true ∧ unitsFree (camActive (camOf c 31)) < (0x40000 + 7) / 8) := by decide +kernel

/-- Engine 0 with a CAMLD copy of a valid table that lies in its cluster store. -/
def copying : Chip :=
  { camWith 0 (fun m => { m with copy := some ⟨4, 1, 0, 0x10020, 44, false⟩ }) with
    pegs := [(0, ⟨.on, false⟩), (1, ⟨.on, false⟩)],
    mem := [(0x10000020, 0x43), (0x10000021, 0x4D), (0x10000024, 0x0A), (0x10000026, 0x03), (0x10000028, 0x03), (0x10000030, 0x2C), (0x1000003C, 0x96), (0x1000003D, 0xFD), (0x1000003E, 0x06), (0x1000003F, 0x26), (0x10000040, 0xFF), (0x10000041, 0xFF), (0x10000042, 0xFF), (0x10000043, 0xFF), (0x10000044, 0x04), (0x10000048, 0x02)] }

theorem test_camld_premises : (camOf copying 0).copy = some ⟨4, 1, 0, 0x10020, 44, false⟩ ∧ (camOf copying 0).staging = false ∧
    (camldResult copying 0 ⟨4, 1, 0, 0x10020, 44, false⟩ 0 0).2.1 = 0 := by decide +kernel

/-! ### Drones and field ports -/

/-- A chip whose drones 0 and 15 are under the rate generator, which stands. -/
def rated (c : Chip) : Chip := regPut (regPut c (drnReg 0 0) 2) (drnReg 15 0) 2

/-- Drone 15 with `n` owed steps; the tablature follows it, or not. -/
def droned (n : Int) (act : Bool) : Chip :=
  { rated (if act then songWith 2 (fun t => { t with dueP := [⟨false, 0, 0, 5, 1, true⟩] }) else base) with drones := [(0, { backlog := n }), (15, { backlog := n })] }

/-- The tablature of bank 0 gives way to bank 1 at position 1. -/
def changing : Chip := { rated (songWith 0 (fun t => { t with arm := some ⟨1, 0, false, 1, owedTo, true, true⟩ })) with dev := .changeover, drones := [(0, { backlog := 1 })] }

theorem test_drone_premises :
    (∀ n ∈ [(1 : Int), -1, 32767], (droneOf (droned n false) 15).backlog = n ∧ (droned n false).tab.active = none ∧ (droned n false).tab.arm = none ∧
      droneMoves (droned n false) 15 = true) ∧ droneMoves base 15 = false ∧
    (let c := droned 1 true
     tabRuns c = true ∧ followed c = some 0 ∧ c.sys.detach = none ∧ dronePos c 0 = servedH c ∧ droneMoves c 0 = true ∧ c.tab.arm = none ∧ stampedHeld c.tab.dueP < 256 ∧
       (∀ q ∈ c.tab.dueP, q.stamped = true) ∧ 65536 < sgn (0x10001 - servedH c) ∧ c.dev = .running) ∧
    (tabRuns changing = true ∧ droneMoves changing 0 = true ∧ followed changing = some 0 ∧ changing.sys.detach = none ∧ dronePos changing 0 = servedH changing ∧
      armReady changing = some ⟨1, 0, false, 1, owedTo, true, true⟩ ∧ changing.dev = .changeover ∧ changing.tab.active = some 0 ∧
      (1 : Word) = servedH changing + 1) ∧
    (let c := regPut (regPut (regPut base (drnReg 15 0) 2) (drnReg 15 0x14) 0x10000) (drnReg 15 0x0C) 0x10000
     drnKind c 15 = 2 ∧ sgn (regVal c (drnReg 15 0x14)) = sgn (regVal c (drnReg 15 0x0C)) ∧
       (((droneOf c 15).phase + 2 * 0x10000 * ((c.tb - (droneOf c 15).lastRamp : Nat) : Int)).tdiv 512000000000).natAbs < 32768) ∧
    (let c := { rated base with drones := [(15, { lastRamp := 5000000 })] }
     drnKind c 15 = 2 ∧ sgn (regVal c (drnReg 15 0x14)) = sgn (regVal c (drnReg 15 0x0C)) ∧ c.tb = (droneOf c 15).lastRamp ∧ (droneOf c 15).phase = 0) ∧
    (bits 3 2 0 < 4 ∧ bits 3 2 0 ≠ 1 ∧ 4 ≤ bits 4 2 0 ∧ bits 0x7F1 2 0 = 1 ∧ sourceServes base (bits 0x7F1 10 4) = false) := by decide +kernel

/-- Port `p` in a mode, READY, driving where the mode drives. -/
def ported (p mode sub : Nat) (f : Port → Port) : Chip :=
  regPut { base with ports := [(p, f { mode := mode, sub := sub, ready := true })] } (fpReg p 0) (wd (mode + 8 * sub + 0x200))

/-- Port 127 counts; drone 15 takes its counts, or none does. -/
def counted (fed : Bool) : Chip := if fed then regPut (ported 127 3 0 id) (drnReg 15 0) 0xFF1 else ported 127 3 0 id

theorem test_drone_sources_premises : encOk (counted false) 127 = true ∧ fedBy (counted false) 127 = [] ∧ fedBy (counted true) 127 = [15] ∧
    ((droneOf (counted true) 15).backlog + (-1 * 0x10000 : Int).tdiv 65536).natAbs < 32768 ∧
    (let c := ported 0 2 2 (fun r => { r with ssiBusy := true })
     portOk c 0 = true ∧ isSsi c 0 = true ∧ (portOf c 0).ssiBusy = true ∧ regFld c (fpReg 0 0x0C) 15 0 = 0 ∧ fedBy c 0 = []) := by decide +kernel

theorem test_port_premises :
    (∀ p ∈ [0, 127], portOk (ported p 3 0 id) p = true ∧ reconfigures (ported p 3 0 id) p 0x604 = true ∧ regVal (ported p 3 0 id) (fpReg p 0x0C) = 0) ∧
    (let c := ported 127 5 1 (fun r => { r with ready := false })
     (portOf c 127).ready = false ∧ (portOf c 127).mode ≠ 1 ∧ 127 ∉ c.flushing ∧ (portOf c 127).held = []) ∧
    (let c := ported 0 5 1 (fun r => { r with settleB := true })
     (portOf c 0).ready = true ∧ ((portOf c 0).settleA || (portOf c 0).settleB) = true) ∧
    (let c := ported 0 1 0 (fun r => { r with settleA := true })
     (portOf c 0).mode = 1 ∧ (linkOf c 0).lstate = 0 ∧ enabled c 0 = true) ∧
    reconfigures (ported 0 3 0 id) 0 0x003 = false ∧ reconfigures (ported 0 3 0 id) 0 0x203 = false ∧ bit (ctlStored 0x203) 9 = true ∧ bit (ctlStored 3) 9 = false ∧
    ((ported 0 3 0 id).sys.psupLim = false ∧ (ported 0 3 0 id).dev ≠ .faulted) ∧
    (let c := { ported 0 3 0 id with sys := { base.sys with psupLim := true } }
     c.sys.psupLim = true ∧ reconfigures c 0 0x203 = false) ∧
    ((portOf (ported 0 3 0 id) 0).mode = 3 ∧ (portOf (ported 0 3 0 id) 0).rateWin ≠ base.tb / 1000000) := by decide +kernel

theorem test_port_modes_premises :
    (let c := ported 0 2 2 (fun r => { r with ssiFree := 5000000 })
     isSsi c 0 = true ∧ enabled c 0 = true ∧ (portOf c 0).ssiBusy = false ∧ (portOf c 0).ssiFree ≤ c.tb) ∧
    (let c := ported 0 2 2 (fun r => { r with ilim := true })
     isSsi c 0 = true ∧ enabled c 0 = false) ∧
    (let c := ported 0 4 0 (fun r => { r with moving := true })
     (portOf c 0).mode = 4 ∧ enabled c 0 = true ∧ (portOf c 0).moving = true ∧ (0xFFFFFFFF : Word) ≠ regVal c (fpReg 0 0x18)) ∧
    (let c := ported 0 4 0 (fun r => { r with safeh := true })
     (portOf c 0).mode = 4 ∧ enabled c 0 = false) ∧
    (let c := regPut (ported 127 5 1 (fun r => { r with deadB := 5000000 })) (fpReg 127 8) 0xFA
     edgeSel c 127 true true = true ∧ (portOf c 127).settleB = false ∧ 5000000 ≤ c.tb ∧ (portOf c 127).deadB ≤ 5000000 ∧ 4999999 < (portOf c 127).deadB ∧
       regVal c (fpReg 127 0x0C) = 0) := by decide +kernel

/-- Port 127 in SER with its receive channel 0, a RECORD mailbox, and its transmit channel 1, which holds a record of `n` bytes. -/
def serial (n : Word) : Chip :=
  let c := regPut (ported 127 2 1 (fun r => { r with rxBytes := [1, 2, 3, 4, 5], rxOpen := true })) (fpReg 127 0x0C) 0xF001F000
  let c := putWord (putWord (putWord c 0x10000100 2) 0x10000104 n) 0x10000108 0x44332211
  { c with chans := [(0, { opened := true, gen := 15, kind := 2, fmt := 1, prod := 4 * 4096 + 127, cons := 0x1000, qbase := 0x20, seq := 255 }),
      (1, { opened := true, gen := 15, kind := 2, fmt := 1, prod := 0x1000, cons := 4 * 4096 + 127, qbase := 0x100, depth := 3 })] }

theorem test_serial_premises :
    serOk (serial 4) 127 = true ∧ regFld (serial 4) (fpReg 127 0x0C) 15 0 ≠ 0 ∧ portRx (serial 4) 127 = some 0 ∧
    (wordsOf [1, 2, 3, 4, 5]).length + 1 ≤ chFree (chanOf (serial 4) 0) ∧ canDrive (serial 4) 127 = true ∧ (portOf (serial 4) 127).tx = [] ∧
    (portOf (serial 4) 127).wait = [] ∧ (serial 4).stopped = [] ∧ hears (portOf (serial 4) 127) = true ∧
    (let c := updPort (serial 4) 127 (fun r => { r with tx := [7] })
     hears (portOf c 127) = false ∧ canDrive c 127 = true ∧ serOk c 127 = true) ∧
    regFld (serial 4) (fpReg 127 0x0C) 31 16 ≠ 0 ∧ portTx (serial 4) 127 = some 1 ∧
    (let h := chanOf (serial 4) 1
     let w (i : Nat) : Word := wordAt (serial 4) (chWordGa 1 h i / 4 * 4)
     h.gapPend = false ∧ h.rem = 0 ∧ h.lead = 0 ∧ 3 ≤ h.depth ∧ bit (w 0) 12 = false ∧ hdrLen (w 0) = 2 ∧ 1 ≤ (w 1).toNat ∧ (w 1).toNat ≤ 4) := by
  decide +kernel

/-! ### Firos links -/

def linked (p : Nat) (l : Link) (f : Port → Port) : Chip := regPut { ported p 1 0 f with links := [(p, l)] } 0x60002004 1

theorem test_link_start_premises :
    (let c := linked 127 {} (fun r => { r with ready := false })
     portOk c 127 = true ∧ inLink c 127 = true ∧ onPll c = true ∧ (linkOf c 127).locked = false ∧ 127 ∉ c.flushing ∧ (portOf c 127).ready = false ∧
       (portOf c 127).held = [] ∧ (portOf c 127).ilim = false ∧ (portOf c 127).safeh = false ∧ (linkOf c 127).lstate = 0 ∧
       (portOf c 127).settleB = false ∧ (rxFeed rxLocks (linkOf c 127).rx (codeLine false (idleSet ++ idleSet ++ idleSet)).1).2 = true ∧
       (rxFeed rxLocks (linkOf c 127).rx (codeLine false (idleSet ++ idleSet)).1).2 = false) ∧
    (let c := linked 0 { locked := true, lstate := 2 } id
     (rxFeed rxLoses (linkOf c 0).rx [0, 0, 0, 0]).2 = true ∧ (rxFeed rxLoses (linkOf c 0).rx [0, 0, 0]).2 = false ∧ (linkOf c 0).mgmt = []) ∧
    (let c := linked 0 { locked := true, lstate := 1, up := 7, nodes := 8, mgmt := [⟨8, 0x118, 9, false, none⟩] } id
     linkOk c 0 = true ∧ inLink c 0 = true ∧ (linkOf c 0).lstate = 1 ∧ (linkOf c 0).up = 7 ∧
       (linkOf c 0).mgmt = [⟨(linkOf c 0).nodes, 0x118, 9, false, none⟩]) ∧
    (∀ up ∈ [3, 4, 6], (let c := linked 0 { locked := true, lstate := 1, up := up, echo := 8, nodes := 8 } id
      linkOk c 0 = true ∧ inLink c 0 = true ∧ (linkOf c 0).echo = (linkOf c 0).nodes ∧ driving c 0 = true ∧ (linkOf c 0).mgmt = [])) ∧
    (let c := linked 0 { locked := true, lstate := 1, up := 6, echo := 1, nodes := 8 } id
     linkOk c 0 = true ∧ (linkOf c 0).echo < (linkOf c 0).nodes) ∧
    (let c := regPut (linked 0 {} id) (fpReg 0 8) 0x0FFF1000
     bit (regVal c (fpReg 0 8)) 12 = true ∧ bits (regVal c (fpReg 0 8)) 27 16 * 500 ≠ 0 ∧ (linkOf c 0).cycle = none) := by decide +kernel

def frameOf (sent : Bool) : LFrame := ⟨255, [⟨5, false⟩, ⟨6, true⟩], some 4095, 4095, 0, 9, 0, 5000000, false, sent, false, 0, false⟩

def upLink (sync : Bool) (mgmt : List Mgmt) (retries : Nat) (f : LFrame) : Chip :=
  linked 0 { locked := true, lstate := 2, nodes := 8, rtt := 100, syncDue := sync, mgmt := mgmt, streams := [(3, { frames := [f], retries := retries })] } id

theorem test_link_traffic_premises :
    (∀ b ∈ [true, false], let c := upLink b [] 0 (frameOf false)
      portOk c 0 = true ∧ inLink c 0 = true ∧ (linkOf c 0).lstate = 2 ∧ linkOk c 0 = true ∧ (linkOf c 0).syncDue = b) ∧
    ((frameOf false).start ≤ (upLink false [] 0 (frameOf false)).tb ∧ (frameOf false).late = false ∧ (frameOf false).lane = 9) ∧
    ((frameOf true).seq < 256 ∧ bits 0x00FFFFFF 31 24 = ((frameOf true).seq + 1) % 256 ∧ (frameOf true).again = false) ∧
    (let c := upLink false [] 3 (frameOf true)
     regFld c (fpReg 0 8) 31 28 ≤ 3 ∧ (linkOf c 0).mgmt = []) ∧
    (let c := regPut (upLink false [] 3 (frameOf true)) (fpReg 0 8) 0x40000000
     3 < regFld c (fpReg 0 8) 31 28 ∧ 4 * (linkOf c 0).rtt + 12000 ≤ c.tb - (frameOf true).sentAt) ∧
    (let m : Mgmt := ⟨8, 0x118, 5, true, some owedTo⟩
     (linkOf (upLink false [m] 0 (frameOf true)) 0).mgmt = [m] ∧ m.sent = true ∧ m.reply = some owedTo) := by decide +kernel

theorem test_link_repeats_premises :
    (let f : LFrame := { frameOf true with again := true, fresh := true }
     let c := upLink false [] 0 f
     linkOk c 0 = true ∧ (linkOf c 0).lstate = 2 ∧ (linkOf c 0).syncDue = false ∧
       (linkOf c 0).streams = [(3, { frames := [f], retries := 0 })] ∧ f.words.length ≤ 32) ∧
    (let c := updLink (upLink false [] 0 (frameOf true)) 0 (fun l => { l with areas := [(1, ⟨255, 2, true, 5, [3, 4]⟩)] })
     (areaOf c 0 1).valid = true ∧ (areaOf c 0 1).seq = 255 ∧ (linkOf c 0).locked = true ∧ (linkOf c 0).lstate = 2) := by decide +kernel

/-! ### Host interfaces and commands -/

/-- The PCI Express link is up with Bus Master Enable and MSI-X Enable; vector 63 is owed. -/
def hosted : Chip :=
  regPut (regPut { base with pcie := { perst := true, pend := [63] } } 0x60003000 0x41) 0x6000300C 1

def cabled : Chip := regPut (regPut (regPut (regPut (regPut hosted 0x60002004 1) (ethReg 1 0) 1) (ethReg 1 4) 7) (ethReg 1 8) 0x0A000001) 0x6000302C 3

theorem test_host_interface_premises :
    (hosted.sys.per = true ∧ hosted.pcie.perst = true ∧ (courseOf hosted luthierCourse).safe = false ∧ bit (regVal hosted 0x60003000) 0 = true ∧
      63 ∈ hosted.pcie.pend ∧ msixOpen hosted 63 = true) ∧
    (onPll cabled = true ∧ bit (regVal cabled (ethReg 1 0)) 0 = true ∧ bit (regVal cabled (ethReg 1 4)) 0 = true ∧ regVal cabled (ethReg 1 8) ≠ 0 ∧
      uPCIE + 1 + 1 ∉ cabled.flushing) ∧
    (let c := { regPut cabled 0x60003024 1 with ptp := { good := 15, ctl := 2 } }
     regVal c (ethReg (bits c.ptp.ctl 1 1) 8) ≠ 0 ∧ uPCIE + 1 + bits c.ptp.ctl 1 1 ∉ c.flushing ∧
     bit (regVal c 0x6000302C) 0 = true ∧ onPll c = true ∧ bit (regVal c (ethReg (bits c.ptp.ctl 1 1) 4)) 0 = true ∧
       (sgn 0xFFFFFC18).natAbs ≤ 1000 ∧ bit (regVal c 0x60003024) 0 = true ∧ (sgn 549755814).natAbs ≤ 549755814) ∧
    (bits (regVal hosted 0x60003000) 7 0 = 65 ∧ bit (regVal cabled (ethReg 1 0)) 3 = false ∧ ([] : List Byte).length ≠ 16 + fieldAt [] 6 2 + 44 ∧
      bit (regVal (regPut cabled (ethReg 1 0) 9) (ethReg 1 0)) 3 = true) ∧
    (bit 2 1 = true ∧ bit 2 0 = false ∧ stepBarred hosted = false ∧
      0 ≤ ((regPut (regPut hosted 0x60003020 0xFFFFFFFF) 0x6000301C 0xFFB3B4C0).tb : Int) +
        tbOfs (regPut (regPut hosted 0x60003020 0xFFFFFFFF) 0x6000301C 0xFFB3B4C0) ∧ stepBarred { hosted with dev := .armed } = true) := by
  decide +kernel

/-- Ring 3 enabled with four entries, its last entry waiting. -/
def ringed (exp : Option Nat) : Chip :=
  { regPut hosted (rCMD 3 8) 0x12 with queues := [(3, { head := 3, tail := 0, expect := exp, replies := [5, 6] })] }

/-- A NOP with SEQ 65535, and one with a reserved bit. -/
def nopHeader (p2 : Byte) : List Byte := [1, 0, 0xFF, 0xFF, 0, 0, 0, 0, p2, 0, 0, 0, 0, 0, 0, 0]

theorem test_queue_premises :
    (queueEn hosted 3 = false ∧ bit 0x1C 4 = true ∧ bits 0x1C 3 0 = 12) ∧
    (queueEn (ringed none) 3 = true ∧ bits 3 15 0 < 2 ^ regFld (ringed none) (rCMD 3 8) 3 0 ∧ 2 ^ regFld (ringed none) (rCMD 3 8) 3 0 ≤ bits 4 15 0) ∧
    (canTake (ringed none) = true ∧ nextQueue (ringed none) = some 3 ∧
      (queueOf (ringed (some 65535)) 3).expect.getD 65535 = (packetOf 3 (nopHeader 0) [] 0x1000 0 0).seq ∧
      chkCommand (ringed (some 65535)) (packetOf 3 (nopHeader 0) [] 0x1000 0 0) = none ∧
      chkCommand (ringed none) (packetOf 3 (nopHeader 1) [] 0x1000 0 0) = some stPARAM ∧
      (queueOf (ringed (some 0)) 3).expect = some 0 ∧ (packetOf 3 (nopHeader 0) [] 0x1000 0 0).seq ≠ 0) := by decide +kernel

def pk (op : Nat) (p2 p3 : Word) : Packet := ⟨0, op, 0, 0, 7, 0, 0, p2, p3, [], 0x1000, 0, 0, []⟩

/-- A command in hand in a device state. -/
def inHand (dev : DevState) (p : Packet) (f : Chip → Chip) : Chip := { f hosted with dev := dev, cur := some p }

def handOk (c : Chip) (op : Nat) : Bool :=
  match c.cur with
  | some p => decide (p.opcode = op) && decide (chkCommand c p = none) && decide (c.sys.power = none) && decide (c.accepted.length < 16)
  | none => false

def withTab (f : Tab → Tab) (c : Chip) : Chip := { c with mem := (song 0).mem, tab := f { (song 0).tab with stA := 6, stB := 2 } }

def idle (f : Tab → Tab) (c : Chip) : Chip := { c with mem := (song 0).mem, tab := f {}, accepted := [owedTo] }

def steady (cause : Word) (c : Chip) : Chip := regPut c 0x60008014 cause

theorem test_device_commands_premises :
    handOk (inHand .standby (pk 0x01 0 0) id) 0x01 = true ∧ chkCommand (inHand .standby (pk 0x01 1 0) id) (pk 0x01 1 0) = some stPARAM ∧
    handOk (inHand .faulted (pk 0x02 0 0) id) 0x02 = true ∧ handOk (inHand .detaching (pk 0x03 0 0) id) 0x03 = true ∧
    (handOk (inHand .standby (pk 0x04 1 0) id) 0x04 = true ∧ onPll (inHand .standby (pk 0x04 1 0) (fun c => regPut c 0x60002004 1)) = true ∧
      onPll (inHand .standby (pk 0x04 1 0) id) = false) ∧
    (let c := inHand .configured (pk 0x04 0 0) id
     handOk c 0x04 = true ∧ islandOn c = false ∧ openChans c = []) ∧
    (let c := inHand .running (pk 0x05 0 0) (withTab id)
     handOk c 0x05 = true ∧ c.tab.arm = none ∧ c.sys.detach = none) ∧
    (handOk (inHand .halted (pk 0x06 0 0) (withTab id)) 0x06 = true ∧ handOk (inHand .halted (pk 0x06 1 0) (withTab id)) 0x06 = true ∧
      (inHand .halted (pk 0x06 1 0) (withTab id)).tab.active = some 0) ∧
    (let c := inHand .faulted (pk 0x07 0 0) (steady 1)
     handOk c 0x07 = true ∧ regFld c 0x60008014 7 0 = 1 ∧ c.sys.dumpDue = false) ∧
    (let c := inHand .standby (pk 0x08 0 1000) id
     handOk c 0x08 = true ∧ detachLegal c = true ∧ (pk 0x08 0 1000).flags % 2 = 0 ∧ c.tab.arm = none) := by decide +kernel

def pegged (c : Chip) : Chip := { c with pegs := [(63, ⟨.on, false⟩)] }

def coursed (h : Core) (c : Chip) : Chip := { pegged c with cores := [(510, h)] }

theorem test_power_commands_premises :
    (let c := inHand .standby (pk 0x09 2 0) id
     handOk c 0x09 = true ∧ islandOn c = false ∧ openChans c = [] ∧ badWatch c = false) ∧
    (let c := inHand .configured (pk 0x10 0x80 0) id
     handOk c 0x10 = true ∧ bits 0x80 9 8 = 0 ∧ bit 0x80 10 = false ∧ (List.range 8).filter (fun j => bit 0x80 j) = [7] ∧
       bit (regVal c (rISTAT 7)) 16 = false ∧ islOf c 7 = .off) ∧
    (let c := inHand .configured (pk 0x10 0x80 0) (fun c => { c with islands := [(7, .ret)] })
     handOk c 0x10 = true ∧ islOf c 7 = .ret) ∧
    (let c := inHand .configured (pk 0x11 0x3F 0) (fun c => { c with islands := [(7, .on)] })
     handOk c 0x11 = true ∧ bits 0x3F 9 8 = 0 ∧ islOf c (islandOfPeg (bits 0x3F 5 0)) = .on ∧ (pegOf c (bits 0x3F 5 0)).st = .off) := by
  decide +kernel

theorem test_course_commands_premises :
    (let c := inHand .configured (pk 0x12 0x400FF 0xFFFF7FFE) pegged
     handOk c 0x12 = true ∧ namedCourses (pk 0x12 0x400FF 0xFFFF7FFE) = [255] ∧ courseOn c 255 = true ∧ (courseOf c 255).check = 0 ∧
       bits 0x400FF 19 16 = 4 ∧ startable c (pk 0x12 0x400FF 0xFFFF7FFE) 255 = true ∧ inUnison c 255 = false) ∧
    (let c := inHand .configured (pk 0x12 0x100FF 0) (coursed { halted := false, started := true })
     handOk c 0x12 = true ∧ bits 0x100FF 19 16 = 1 ∧ (coreOf c 510).halted = false) ∧
    (let c := inHand .configured (pk 0x12 0x200FF 0) (coursed { started := true })
     handOk c 0x12 = true ∧ bits 0x200FF 19 16 = 2 ∧ (coreOf c 510).halted = true ∧ (coreOf c 510).started = true ∧ (coreOf c 510).dhalt = false) ∧
    (let c := inHand .configured (pk 0x12 0x300FF 0) (coursed { started := true, stk := [1] })
     handOk c 0x12 = true ∧ bits 0x300FF 19 16 = 3 ∧ (courseOf c 255).hand = none ∧ (courseOf c 255).test = none) ∧
    (let c := inHand .configured (pk 0x13 0x1FF 0) pegged
     handOk c 0x13 = true ∧ bit 0x1FF 8 = true ∧ courseOn c 255 = true ∧ c.fixedUnison = false ∧ courseOf c 255 = {}) ∧
    (let c := inHand .configured (pk 0x14 0xFF 0) pegged
     handOk c 0x14 = true ∧ courseOn c 255 = true ∧ (courseOf c 255).test = none ∧ inSplit c 255 = true ∧ courseHalted c 255 = true) := by
  decide +kernel

def carrying (p : Packet) (l : List Byte) : Packet := { p with payload := l, length := l.length }

def word4 : List Byte := bytesOfWord 0xDEADBEEF

/-- A stream of word items, its queue in the last place of the last cluster. -/
def descriptor : List Byte := bytesOf [0x21, 0x10001000, 0x7FFE0, 0x1000, 0, 0, 0, 0]

def withSlot (h : Chan) (c : Chip) : Chip := { c with chans := [(0, h)] }

theorem test_memory_commands_premises :
    (handOk (inHand .standby (pk 0x15 0x500FFFFC 4) id) 0x15 = true ∧ target none 0x500FFFFC = .ret 0xFFFFC) ∧
    (let c := inHand .configured (carrying (pk 0x16 0x50000000 0) word4) id
     handOk c 0x16 = true ∧ target none 0x50000000 = .ret 0 ∧ inDumpArea c 0 = false) ∧
    handOk (inHand .standby (pk 0x17 0x60FFFFFC 0) id) 0x17 = true ∧ handOk (inHand .standby (pk 0x18 0x60005030 5000) id) 0x18 = true ∧
    (let c := inHand .configured (pk 0x19 15 0xFFFFFFFF) id
     handOk c 0x19 = true ∧ c.tab.active = none ∧ c.tab.arm = none) := by decide +kernel

theorem test_channel_commands_premises :
    (let c := inHand .configured (carrying (pk 0x20 31 0) descriptor) pegged
     handOk c 0x20 = true ∧ freeSlot c 31 = some 3968 ∧ isLinkQ (descChan (carrying (pk 0x20 31 0) descriptor)) = false ∧
       partiesFit c (descChan (carrying (pk 0x20 31 0) descriptor)) = true ∧ badArea c 31 (descChan (carrying (pk 0x20 31 0) descriptor)) = false ∧
       gateOpen c (chPeg 3968 (descChan (carrying (pk 0x20 31 0) descriptor))) = true ∧
       gateOpen (inHand .configured (carrying (pk 0x20 31 0) descriptor) id) 63 = false) ∧
    (let p := { pk 0x21 1 0 with handle := 0xF000 }
     let c := inHand .configured p (withSlot { loopChan with lost := 0xFFFFFFFE })
     handOk c 0x21 = true ∧ (chanOf c 0).closing = none ∧ bit p.p2 0 = true) ∧
    (let p := { pk 0x21 0 1000 with handle := 0xF000 }
     let c := inHand .configured p (withSlot { loopChan with lost := 0xFFFFFFFE })
     handOk c 0x21 = true ∧ isLinkQ (chanOf c 0) = false ∧ (chanOf c 0).recvs = [] ∧ (chanOf c 0).sends = []) ∧
    (handOk (inHand .standby { pk 0x22 0 0 with handle := 0xF000 } (withSlot loopChan)) 0x22 = true ∧
      handOk (inHand .standby { pk 0x22 0 0 with handle := 0xF000, flags := 1 } (withSlot loopChan)) 0x22 = true) := by decide +kernel

theorem test_tablature_commands_premises :
    (let c := inHand .standby (pk 0x28 1 0) (idle (fun t => { t with stB := 3 }))
     handOk c 0x28 = true ∧ clearing c 1 = false ∧ bankState c 1 = 3 ∧ handOk (inHand .standby (pk 0x28 3 0) id) 0x28 = true) ∧
    (let c := inHand .standby (carrying (pk 0x29 0xFFFFFC 0) word4) (idle (fun t => { t with stB := 1 }))
     handOk c 0x29 = true ∧ clearing c 1 = false ∧ bankState c 1 = 1 ∧ bits 0xFFFFFC 23 23 = 1 ∧ tabGa 1 (bits 0xFFFFFC 22 0) % 4 = 0) ∧
    (let c := inHand .standby (pk 0x2A 1 0) (idle (fun t => { t with stB := 1 }))
     handOk c 0x2A = true ∧ bankState c 1 = 1 ∧ clearing c 1 = false) ∧
    (let c := inHand .configured (pk 0x2B 5 1) (idle (fun t => { t with stB := 3 }))
     handOk c 0x2B = true ∧ bankState c 1 = 3 ∧ c.tab.arm = none ∧ armChk c 1 false = none ∧ bit 1 1 = false) ∧
    (let c := inHand .armed (pk 0x2C 0 0) (idle (fun t => { t with stB := 5, arm := some ⟨5, 0, false, 1, owedTo, false, true⟩ }))
     handOk c 0x2C = true ∧ c.tab.arm = some ⟨5, 0, false, 1, owedTo, false, true⟩) ∧
    handOk (inHand .standby (pk 0x2D 0 0) id) 0x2D = true := by decide +kernel

def noded (c : Chip) : Chip :=
  { c with ports := (upLink false [] 0 (frameOf true)).ports, links := (upLink false [] 0 (frameOf true)).links }

def flashed (f : FlashOp) : Chip := { hosted with sys := { base.sys with flash := some f }, accepted := [owedTo] }

theorem test_link_key_flash_premises :
    (let c := inHand .configured (pk 0x30 0x180800 0) noded
     handOk c 0x30 = true ∧ inLink c 0 = true ∧ (linkOf c 0).lstate = 2 ∧ bits 0x180800 11 8 ≤ (linkOf c 0).nodes) ∧
    (let c := inHand .standby (carrying (pk 0x38 3 0) (List.replicate 32 9)) id
     c.cur = some (carrying (pk 0x38 3 0) (List.replicate 32 9)) ∧ c.sys.power = none) ∧
    (let c := inHand .standby (pk 0x40 0x10010 0xFFFFC) id
     handOk c 0x40 = true ∧ bits 0x10010 15 0 ≠ 0 ∧ dumpSel c (bits 0x10010 15 0) = some (0x70220000, 0x100000, false) ∧ (0xFFFFC : Word).toNat < 0x100000) ∧
    (handOk (inHand .standby (pk 0x48 0xFFFC000 0) id) 0x48 = true ∧ handOk (inHand .standby (carrying (pk 0x49 0x7FFC 0) word4) id) 0x49 = true ∧
      (inHand .standby (pk 0x48 0xFFFC000 0) id).sys.flash = none) ∧
    ((flashed ⟨true, 0xFFFC000, [], owedTo⟩).sys.flash = some ⟨true, 0xFFFC000, [], owedTo⟩ ∧ 0xFFFC000 + 0x4000 ≤ 0x10000000) ∧
    (∀ i, i < word4.length → byteAt (flashed ⟨false, 0x7FFC, word4, owedTo⟩) (flashGa 0x7FFC + i) = 0xFF) := by decide +kernel

/-! ### Event sources, clocks -/

/-- Source `x` with its EDS register and its record. -/
def sourced (x : Nat) (eds : Word) (r : Src) : Chip := { regPut base (edsAddr x) eds with srcs := [(x, r)] }

/-- The same with core 511 of a split course running, in SLEEP or not. -/
def sleeping (w : Option Wait) (c : Chip) : Chip :=
  { c with pegs := [(63, ⟨.on, false⟩)], cores := [(511, { halted := false, started := true, wait := w })] }

/-- What stands in service with the luthier, or is presented to it. -/
def luthiers (eds : Word) (st : Nat) : Chip := sourced 1 eds { st := st, holder := 512 }

theorem test_source_premises :
    (∀ n, n ∈ [0, 254, 255] → let c := sourced 1000 0x213 { st := if n = 0 then 0 else 3, count := n, pulseBusy := true }
      srcValid 1000 = true ∧ c.sys.per = true ∧ srcSense c 1000 = 3 ∧ (srcOf c 1000).pulseBusy = true ∧ (srcOf c 1000).again = false ∧
        srcKind c 1000 ≠ 3 ∧ (srcOf c 1000).count = n) ∧
    (let c := regPut (regPut (sourced 1 0x211 {}) (fpReg 0 0x14) 0x80) (fpReg 0 0x10) 0x80
     srcValid 1 = true ∧ srcSense c 1 = 1 ∧ (srcOf c 1).pulseBusy = false ∧ srcLevel c 1 = true ∧ (srcOf c 1).st = 0 ∧ srcKind c 1 ≠ 3) ∧
    (let c := sleeping (some ⟨1, 0, 0, 0, false⟩) (sourced 1000 0x80007C13 { st := 1 })
     decidable c 1000 = true ∧ goesBefore c 1000 = false ∧ srcKind c 1000 ≠ 3 ∧ chooseTarget c 1000 = some 511 ∧ targetCore c 511 = 511 ∧
       inUnison c (courseNo 511) = false ∧ (coreOf c 511).rep = none ∧ (coreOf c 511).wait = some ⟨1, 0, 0, 0, false⟩) ∧
    (let c := sourced 1 0xFF13 { st := 1 }
     decidable c 1 = true ∧ goesBefore c 1 = false ∧ srcKind c 1 = 3) := by decide +kernel

theorem test_distributor_premises :
    (bits 0xFFFF7CFD 2 0 ≤ 5 ∧ bits 0xFFFF7CFD 9 8 = 0 ∧ bits 0xFFFF7CFD 15 10 ≤ 31 ∧ bits 0xFFFF0D05 9 8 = 1 ∧ bits 0xFFFF0D05 15 10 ≤ 3 ∧
      bits 0x200 9 8 = 2 ∧ bits 0x200 15 10 = 0 ∧ 5 < bits 0x216 2 0) ∧
    (bits 1000 9 0 = 1000 ∧ 3 ≤ srcSense (sourced 1000 0x213 {}) 1000 ∧ (srcOf (sourced 1000 0x213 {}) 1000).st = 0 ∧
      srcKind (sourced 1000 0x213 {}) 1000 ≠ 3 ∧ srcSense (sourced 1000 0x212 {}) 1000 < 3) ∧
    (let c := { sourced 1 0x313 { st := 3, holder := 0x3FF } with hostList := [⟨1, 15, 63⟩] }
     (1 : Word).toNat = 1 ∧ (srcOf c 1).st = 3 ∧ (srcOf c 1).holder = 0x3FF ∧ isLevelSense (srcSense c 1) = false ∧ (srcOf c 1).count = 0) ∧
    (let c := regPut (sourced 1 0x313 { st := 3, holder := 0x3FE }) 0x60007008 0xFFFFFFFE
     (srcOf c 1).holder ≠ 0x3FF ∧ regVal c 0x60007008 ≠ 0xFFFFFFFF) ∧
    (gorene (luthiers 0x213 2) = true ∧ luthierEnded (luthiers 0x213 2) = [] ∧ presentedTo (luthiers 0x213 2) 512 = [1] ∧
      luthierEnded (luthiers 0x211 3) = [1] ∧ presentedTo (luthiers 0x211 3) 512 = []) := by decide +kernel

/-- The clock registers CTL and STAT. -/
def clocked (ctl st : Word) : Chip := regPut (regPut base 0x60002000 ctl) 0x60002004 st

theorem test_clock_premises :
    (clocked 0 0).sys.per = true ∧ bit (regVal (clocked 0 0) 0x60002004) 1 = false ∧ bit 1 1 = false ∧
    (let c := clocked 1 2
     bit (regVal c 0x60002000) 0 = true ∧ bit (regVal c 0x60002004) 1 = true) ∧
    (bit 3 0 = true ∧ bit 3 1 = true ∧ allLocked (clocked 1 0x3E) = true ∧ bit 0x3E 0 = false ∧ bit 0x3E 6 = false ∧ allLocked (clocked 1 0x1E) = false) ∧
    bit (regVal (clocked 1 0x7E) 0x60002004) 6 = true ∧
    (gorene (clocked 4 0x02) = true ∧ bit 4 2 = true ∧ bit 0x02 0 = false ∧ bit 0x02 6 = false ∧ bit 4 0 = false ∧
      bit 5 0 = true ∧ bit 5 2 = true ∧ allLocked (clocked 5 0x3E) = true) ∧
    ((bit 0x3F 0 && bit 0x3F (2 + 3)) = true ∧ bit 0x02 1 = true ∧ (portOf (linked 0 { lstate := 2 } id) 0).mode = 1 ∧
      regVal (linked 0 { lstate := 2 } id) 0x60002004 = 1) ∧
    (bit 0x3E 0 = false ∧ bit 0x3E (2 + 3) = true) ∧
    (isCrossing 0 = true ∧ isCrossing 127 = true ∧ isCrossing 128 = false ∧ isCrossing 202 = true) := by decide +kernel

/-! ### Power, boot, removal, fatal errors -/

/-- An island and the state of its pegs. -/
def isled (k : Nat) (st : PegState) (peg : Peg) (mv app : Nat) : Chip :=
  regPut { base with islands := [(k, st)], pegs := (pegsOfIsland k).map (fun p => (p, peg)) } (rISLV k) (wd (mv + 65536 * app))

/-- A power command in its handshake with one unit. -/
def asking (target : Nat) (a : Asked) (c : Chip) : Chip :=
  { c with sys := { c.sys with power := some ⟨2, 2, [], [], none, owedTo, target, [a], [], 0, none⟩ }, accepted := [owedTo] }

theorem test_power_premises :
    (let c := { base with pegs := [(63, ⟨.rising, true⟩)], islands := [(7, .on)], mem := [(0x1FF40000, 1), (0x20FF0000, 2), (0x20FF8000, 3)] }
     (pegOf c 63).clearing = true ∧ c.sys.power = none ∧ islOf c (islandOfPeg 63) = .on) ∧
    (let c := ported 127 3 0 id
     c.sys.per = true ∧ c.sys.psupLim = false ∧ bit (regVal c (fpReg 127 0)) 9 = true) ∧
    (let c := asking 5 ⟨0x7F, 0, 0, 0, 0⟩ { base with pegs := [(63, ⟨.on, false⟩)], courses := [(255, { check := 1 })] }
     answerOf c 5 0x7F = .defer 1) ∧
    (let c := asking 5 ⟨7, 0, 0, 0, 0⟩ (regPut base (rISTAT 7) 0x10000)
     c.sys.power.map (fun q => q.units) = some [⟨7, 0, 0, 0, 0⟩] ∧ answerOf c 5 7 = .refuse 8) ∧
    (let c := asking 5 ⟨7, 2, 1, 0, 0⟩ base
     c.sys.power = some ⟨2, 2, [], [], none, owedTo, 5, [⟨7, 2, 1, 0, 0⟩], [], 0, none⟩ ∧ answerOf c 5 7 = .accept) ∧
    (∀ st ∈ [PegState.rising, .ret], let c := isled 7 .rising ⟨st, false⟩ 900 900
     islOf c 7 = .rising ∧ applMv c 7 = goalMv c 7 ∧ c.sys.power = none ∧ ∀ p ∈ pegsOfIsland 7, pegOf c p = ⟨st, false⟩) ∧
    (let c := { isled 7 .on ⟨.rising, false⟩ 900 900 with courses := [] }
     pegOf c 63 = ⟨.rising, false⟩ ∧ islOf c (islandOfPeg 63) = .on ∧ islandOfPeg 63 = 7) ∧
    (∀ esc ∈ [(0 : Nat), 2], let c := regPut (isled 7 .on ⟨.on, false⟩ 900 900) 0x60008010 (wd esc)
     islOf c 7 ≠ .off ∧ c.sys.power = none ∧ bit (regVal c 0x60008010) 1 = decide (esc = 2) ∧ hostStates c = true ∧ faultHandled c = false) ∧
    (∀ app ∈ [896, 904], let c := isled 7 .on ⟨.on, false⟩ 900 app
     islLive c 7 = true ∧ applMv c 7 ≠ goalMv c 7 ∧ goalMv c 7 = 900 ∧ applMv c 7 = app) := by decide +kernel

/-- The device in WATCH or HIBERNATE. -/
def resting (dev : DevState) (waking ret : Bool) : Chip :=
  { base with dev := dev, lut := false, sys := { aon := true, vin := true, contacts := true, lutRet := ret, waking := waking } }

/-- Slot 15 is watched: both samples, want 2. -/
def watched : Chip := regPut (regPut (resting .watch false true) (rPWR 0x0FC) 0xE80) 0x60001044 0x103E8

def ending (mode : Nat) : Chip :=
  { isled 7 .off {} 0 0 with sys := { base.sys with perOffDue := true, power := some ⟨2, mode, [], [], none, owedTo, 0, [], [], 1, none⟩ } }

theorem test_temperature_premises :
    base.lut = true ∧ (∀ j, j < 8 → ((List.replicate 8 (1450 : BitVec 16)).getD j 0).toInt ≤ 1450) ∧ (1300 : BitVec 16).toInt ≤ 1300 ∧
      1300 < (1301 : BitVec 16).toInt ∧ 1050 < (1051 : BitVec 16).toInt ∧ base.dev ≠ .faulted ∧ hostStates base = true ∧ faultHandled base = false := by
  decide +kernel

theorem test_rest_premises :
    (({ base with sys := { base.sys with perOffDue := true } } : Chip).sys.power = none) ∧
    ((ending 2).sys.perOffDue = true ∧ (ending 2).sys.power.map (fun q => q.mode) = some 2 ∧ (ending 4).sys.power.map (fun q => q.mode) = some 4 ∧
      (ending 2).sys.wakeHeld = none) ∧
    (watched.dev = .watch ∧ watched.sys.waking = false ∧ watched.sys.lutRet = true ∧ (∀ j, j < 16 → j ≠ 15 → bit (wslot watched j) 7 = false) ∧
      bit (wslot watched 15) 7 = true ∧ bit (wslot watched 15) 12 = false ∧ bits (wslot watched 15) 11 10 = 3 ∧ bits watched.sys.wctl 19 16 = 1 ∧
      bits (wslot watched 15) 9 8 = 2 ∧ watched.sys.wtimer = 0) ∧
    ((resting .watch true true).dev = .watch ∧ (resting .watch true true).sys.waking = true ∧ (resting .watch true true).sys.lutRet = true ∧
      (resting .hibernate true false).dev = .hibernate ∧ (resting .hibernate true false).sys.aon = true) := by decide +kernel

/-- A header of a slot B whose body has 16 bytes, as R679 lays it out, by offset. -/
def headed : List Host.Cell :=
  ([(0, 0x47), (1, 0x4F), (2, 0x52), (3, 0x4E), (4, 1), (5, 0), (6, 0), (7, 1), (8, 16)] ++ ((List.range 23).map (fun i => (9 + i, (0 : Byte)))) ++
    ((List.range 64).map (fun i => (0xC0 + i, (0 : Byte))))).map (fun (e : Nat × Byte) => (0x70090000 + e.1, e.2))

/-- A boot at one of its steps. -/
def booting (b : BootStep) : Chip :=
  { mem := headed, lut := true, dev := .boot, sys := { aon := true, vin := true, contacts := true, boot := b } }

theorem test_boot_premises :
    (({} : Chip).sys.vin = false ∧ ({} : Chip).sys.ovp = false) ∧
    (let c : Chip := { sys := { aon := true, vin := true } }
     c.sys.aon = true ∧ c.sys.vin = true ∧ c.sys.attach = .unattached ∧ c.lut = false ∧ c.sys.lutRet = false ∧ c.dev ≠ .hibernate) ∧
    (booting .lutOn).sys.boot = .lutOn ∧ (booting .strapped).sys.boot = .strapped ∧
    (fwHeaderOk (booting .strapped) false = false ∧ fwHeaderOk (booting .strapped) true = true ∧ (2 : BitVec 2).getLsbD 1 = true) ∧
    ((booting (.copying true)).sys.boot = .copying true ∧ fwF (booting (.copying true)) true 0x08 4 = 16) ∧
    (let c := { booting .gorene with sys := { (booting .gorene).sys with owedErase := some 1 } }
     c.lut = true ∧ c.sys.boot = .gorene ∧ c.sys.owedErase = some 1) ∧
    ((booting .gorene).sys.boot = .gorene ∧ (booting .gorene).sys.owedErase = none) ∧
    (let c := { base with sys := { base.sys with per := false, attach := .unattached, attachReq := true } }
     c.sys.attachReq = true ∧ c.sys.attach = .unattached ∧ c.dev = .standby ∧ c.lut = true ∧ c.sys.per = false ∧ c.sys.owedErase = none) := by
  decide +kernel

/-- A luthier that has failed. -/
def lutDead : Chip := { base with courses := [(256, { safe := true })] }

/-- A removal under way. -/
def leaving (cause : Nat) : Chip :=
  { base with sys := { base.sys with attach := .removed, removal := some ⟨cause, 1, true, List.replicate 216 0, 0, 0, 0⟩, recSeq := 63 } }

/-- A detach at its drain. -/
def detaching (c : Chip) : Chip :=
  { c with dev := .detaching, sys := { c.sys with attach := .detaching, detach := some ⟨some owedTo, none, false, 1000, true, false, false⟩ }, accepted := [owedTo] }

theorem test_removal_premises :
    (base.sys.aon = true ∧ base.sys.contacts = true ∧ (3 : BitVec 2) ≠ 0 ∧ base.dev ≠ .hibernate ∧ base.sys.attach = .attached ∧ base.sys.vin = true ∧
      base.sys.ovp = false ∧ recordDue base = false ∧ (courseOf base luthierCourse).safe = false ∧ (courseOf lutDead luthierCourse).safe = true) ∧
    (let c := { leaving 3 with sys := { (leaving 3).sys with attach := .attached } }
     c.sys.attach = .attached ∧ recordDue c = true) ∧
    (let c := { base with sys := { base.sys with attach := .unattached, per := false } }
     c.sys.aon = true ∧ c.sys.contacts = true ∧ c.sys.attach = .unattached) ∧
    ((leaving 1).sys.removal = some ⟨1, 1, true, List.replicate 216 0, 0, 0, 0⟩ ∧ (leaving 3).sys.removal.map (fun r => r.cause) = some 3 ∧
      bit (regVal (leaving 3) 0x60000004) 0 = false) ∧
    (let c := { base with sys := { base.sys with vin := false } }
     c.sys.aon = true ∧ c.sys.vin = false ∧ c.sys.removal = none) ∧
    (let c := detaching { base with chans := [(0, { loopChan with depth := 0 })] }
     c.sys.detach = some ⟨some owedTo, none, false, 1000, true, false, false⟩ ∧ (openChans c).all (isDrained c) = true ∧ openChans c = [0] ∧ liveCourses c = []) ∧
    (let c := detaching (coursed { halted := false, started := true } base)
     255 ∈ liveCourses c ∧ courseOn c 255 = true ∧ (courseOf c 255).degraded = false ∧ (coreOf c 510).halted = false) := by decide +kernel

/-- The device at module address 5, its peg-bus counters standing at `n`. -/
def bussed (n : Word) (c : Chip) : Chip := regPut { c with sys := { c.sys with pegAddr := some 5 } } 0x6000003C n

theorem test_peg_bus_premises :
    ((bussed 0xFEFFFF base).sys.aon = true ∧ (bussed 0xFEFFFF base).sys.pegAddr.isSome = true ∧ bits (regVal (bussed 0xFEFFFF base) 0x6000003C) 23 16 < 255 ∧
      (bussed 0xFEFFFF base).sys.pegAddr = some (5 : Byte).toNat ∧ (0 : Byte) ≠ crc8 [5, 1, 0] ∧ (0 : Byte) = 0 ∧ 6 < (7 : Byte).toNat) ∧
    ((1 : Byte) ≠ 0 ∧ (1 : Byte) ≠ 0x5A ∧ (1 : Byte).toNat % 16 ≠ 0) ∧
    (let c := bussed 0 { base with sys := { base.sys with attach := .unattached, per := false } }
     c.dev = .standby ∧ c.sys.attach = .unattached ∧ c.sys.per = false) ∧
    (({ bussed 0 base with dev := .boot } : Chip).dev = .boot ∧ ({ bussed 0 base with dev := .boot } : Chip).dev ≠ .watch ∧
      detachLegal { bussed 0 base with dev := .boot } = false ∧ stopPos { bussed 0 base with dev := .boot } = none) ∧
    (detachLegal (bussed 0 base) = true ∧ stopPos (bussed 0 base) = none ∧ (courseOf (bussed 0 base) luthierCourse).safe = false ∧
      (courseOf (bussed 0 lutDead) luthierCourse).safe = true) ∧
    ((bussed 0 (resting .hibernate false false)).dev = .hibernate ∧ (bussed 0 (resting .hibernate false false)).sys.waking = false ∧
      (bussed 0 (resting .hibernate false false)).sys.aon = true) := by decide +kernel

/-- A fault handled; its dump stands in bank 15 and goes to flash slot 1. -/
def dumped : Chip :=
  { regPut (regPut (regPut (regPut base 0x60008000 0x10F) 0x60008004 5) 0x60008008 0x100) 0x6000802C 1 with
    dev := .faulted, mem := [(0x500F0000, 0x44), (0x500F0001, 0x55), (0x500F00FF, 7)] }

theorem test_fatal_premises :
    (isPowerUnit 0x7F = true ∧ isPowerUnit 7 = true ∧ hostStates base = true ∧ faultHandled base = false ∧ faultHandled dumped = true ∧
      hostStates dumped = true ∧ dumped.dev = .faulted ∧ base.sys.per = true) ∧
    (let c := { regPut base 0x60008004 2 with dev := .faulted, sys := { base.sys with dumpDue := true } }
     c.sys.dumpDue = true ∧ c.sys.removal = none ∧ c.sys.detach = none) ∧
    ((regVal dumped 0x60008008).toNat = 0x100 ∧ regFld dumped 0x6000802C 0 0 = 1 ∧ bit (regVal dumped 0x60008004) 2 = true ∧
      dumped.sys.dumpErase = none ∧ (courseOf dumped luthierCourse).safe = false ∧ ∀ j, j < 0x100 → byteAt dumped (flashGa (dumpSlot 1) + j) = 0xFF) ∧
    (({ base with sys := { base.sys with dumpErase := some 1 } } : Chip).sys.dumpErase = some 1) := by decide +kernel

/-! ### Memory and reset -/

/-- Does the step answer a next state whose memory differs, in canonical form? -/
def stepWrites (s : State) : Bool :=
  match step s with
  | .next t => memOk t && decide (t.chip.mem ≠ s.chip.mem)
  | _ => false

/-- A dump slot to erase whose first and last byte are programmed, in a state that no run has reached. -/
def erasing : State :=
  { chip := { base with mem := [(0x70220000, 1), (0x7031FFFF, 2), (0x70320000, 3)], sys := { base.sys with dumpErase := some 1 } },
    pending := [.dumpSlotEraseDone] }

theorem test_memory_premises : step State.reset = .next State.reset ∧ memOk State.reset = true ∧ memOk erasing = true ∧ stepWrites erasing = true :=
  ⟨rfl, by decide +kernel, by decide +kernel, by decide +kernel⟩

end Sys2Proof.Tests
end

section
/-! PROOFS. The return stack (R97, R98): what a word that pushes or pops leaves, how a word ends at a limit in trap mode, and
that a deferred CSR write leaves the return stack; the limits of the return stack are assembled from these. -/

namespace Sys2Proof.Machine

open Sys2Proof Sys2Proof.Safety

/-! ### Deferred CSR writes leave the return stack -/

theorem keepsRs_refl (c : Chip) (k : Nat) : KeepsRs c c k := ⟨rfl, rfl, rfl⟩

theorem keepsRs_trans {c d e : Chip} {k : Nat} (h : KeepsRs c d k) (h' : KeepsRs d e k) : KeepsRs c e k := by
  obtain ⟨hf, hp, hd⟩ := h
  obtain ⟨hf', hp', hd'⟩ := h'
  exact ⟨hf'.trans hf, hp'.trans hp, hd'.trans hd⟩

/-- An update of a core that leaves file, pointer and depth leaves the return stack. -/
theorem keepsRs_updCore (c : Chip) (k : Nat) (f : Core → Core) (hf : (f (coreOf c k)).rsFile = (coreOf c k).rsFile)
    (hp : (f (coreOf c k)).rsPtr = (coreOf c k).rsPtr) (hd : (f (coreOf c k)).rsDepth = (coreOf c k).rsDepth) :
    KeepsRs c (updCore c k f) k := by
  unfold KeepsRs
  rw [coreOf_updCore_same]
  exact ⟨hf, hp, hd⟩

theorem keepsRs_csrPut (c : Chip) (k i : Nat) (w : Word) : KeepsRs c (csrPut c k i w) k :=
  keepsRs_updCore c k _ rfl rfl rfl

theorem keepsRs_csrPuts (c : Chip) (k : Nat) (l : Tbl Word) :
    KeepsRs c (l.foldl (fun c e => csrPut c k e.1 e.2) c) k := by
  induction l generalizing c with
  | nil => exact keepsRs_refl c k
  | cons e l ih => exact keepsRs_trans (keepsRs_csrPut c k e.1 e.2) (ih _)

/-- The pending CSR writes, one of RSCTL among them, leave contents and depth of the return stack (R98, R118). -/
theorem keepsRs_applyPend (c : Chip) (k : Nat) : KeepsRs c (applyPend c k) k :=
  keepsRs_trans (keepsRs_csrPuts c k _) (keepsRs_updCore _ k _ rfl rfl rfl)

/-! ### Push and pop -/

/-- Nothing but the return stack of string `k` differs. -/
def OnlyRs (c d : Chip) (k : Nat) : Prop :=
  OneCore c d k ∧ ∃ x y z, coreOf d k = { coreOf c k with rsFile := x, rsPtr := y, rsDepth := z }

theorem onlyRs_csrVal {c d : Chip} {k : Nat} (h : OnlyRs c d k) (i : Nat) : csrVal d k i = csrVal c k i := by
  obtain ⟨⟨⟨cs, hc⟩, _⟩, x, y, z, hk⟩ := h
  unfold csrVal
  rw [hk, hc]; rfl

@[simp] theorem coreOf_rsPush_same (c : Chip) (k : Nat) (w : Word) : coreOf (rsPush c k w) k =
    { coreOf c k with
      rsFile := Tbl.put 0 (coreOf c k).rsFile (coreOf c k).rsPtr w
      rsPtr := ((coreOf c k).rsPtr + 1) % 16
      rsDepth := Nat.min ((coreOf c k).rsDepth + 1) 16 } := coreOf_updCore_same c k _

@[simp] theorem coreOf_rsPop_same (c : Chip) (k : Nat) : coreOf (rsPop c k) k =
    { coreOf c k with rsPtr := ((coreOf c k).rsPtr + 15) % 16, rsDepth := (coreOf c k).rsDepth - 1 } :=
  coreOf_updCore_same c k _

theorem onlyRs_rsPush (c : Chip) (k : Nat) (w : Word) : OnlyRs c (rsPush c k w) k :=
  ⟨oneCore_updCore c k _, _, _, _, coreOf_rsPush_same c k w⟩

theorem onlyRs_rsPop (c : Chip) (k : Nat) : OnlyRs c (rsPop c k) k :=
  ⟨oneCore_updCore c k _, _, _, _, coreOf_rsPop_same c k⟩

theorem fetched_rsTop {c d : Chip} {k : Nat} (h : JustFetched c d k) : rsTop d k = rsTop c k := by
  obtain ⟨l, hl⟩ := h.core
  unfold rsTop
  rw [hl]

/-! ### The end of a word leaves slots, return stack and the CSRs but SPTR and REPCNT -/

theorem fetched_keeps {c d : Chip} {k : Nat} (h : JustFetched c d k) : KeepsSlots c d k ∧ KeepsRs c d k := by
  obtain ⟨l, hl⟩ := h.core
  unfold KeepsSlots KeepsRs
  rw [hl]
  exact ⟨⟨rfl, rfl⟩, rfl, rfl, rfl⟩

theorem endWord_keeps {c : Chip} {k : Nat} {g : Fills} {n : Nat} {res : List Word} {stores : List Store} (pc : Nat)
    (h : buffers c k ∨ (stores = [] ∧ (stackEnd g n res).length ≤ 8)) :
    KeepsSlots c (endWord c k g n res stores pc) k ∧ KeepsRs c (endWord c k g n res stores pc) k ∧
      ∀ i, i ≠ 0x0A → i ≠ 0x28 → csrVal (endWord c k g n res stores pc) k i = csrVal c k i := by
  obtain ⟨-, -, -, -, -, -, -, hv, a, b, x, y, z, u, v, w, hE⟩ := endWord_core c k g n res stores pc h
  unfold KeepsSlots KeepsRs
  rw [hE]
  exact ⟨⟨rfl, rfl⟩, ⟨rfl, rfl, rfl⟩, hv⟩

theorem finish_keeps {c : Chip} {k : Nat} {g : Fills} {n : Nat} {res : List Word} {stores : List Store} (pc : Nat)
    (h : buffers c k ∨ (stores = [] ∧ (stackEnd g n res).length ≤ 8)) :
    KeepsSlots c (finish c k g n res stores pc) k ∧ KeepsRs c (finish c k g n res stores pc) k ∧
      ∀ i, i ≠ 0x0A → i ≠ 0x28 → csrVal (finish c k g n res stores pc) k i = csrVal c k i := by
  unfold finish
  dsimp only
  split
  · exact endWord_keeps pc h
  · have hF := fetchAhead_only c k pc
    obtain ⟨⟨hs, hf⟩, hrs⟩ := fetched_keeps hF
    obtain ⟨⟨hs', hf'⟩, hrs', hv⟩ := endWord_keeps pc (h.imp_left (fetched_buffers hF))
    exact ⟨⟨hs'.trans hs, hf'.trans hf⟩, keepsRs_trans hrs hrs', fun i h1 h2 => by rw [hv i h1 h2, fetched_csrVal hF]⟩

/-- A word that has changed the return stack alone ends with that return stack. -/
theorem rsDone_finish {c d e : Chip} {k : Nat} {g : Fills} {n : Nat} {res : List Word} (pc : Nat)
    (hF : JustFetched c d k) (hO : OnlyRs d e k) (hs : ownSpills c k g n res) :
    RsDone c (finish e k g n res [] pc) k g n res (coreOf e k).rsFile (coreOf e k).rsPtr (coreOf e k).rsDepth pc := by
  have hv := onlyRs_csrVal hO
  obtain ⟨hO1, x, y, z, hk⟩ := hO
  have hspill : buffers c k ∨ (([] : List Store) = [] ∧ (stackEnd g n res).length ≤ 8) := hs.imp_right fun h => ⟨rfl, h⟩
  have hbuf : buffers c k → buffers e k := fun h => buffers_oneCore hO1 (fetched_buffers hF h)
  obtain ⟨⟨hsl, hfl⟩, ⟨hfile, hptr, hdepth⟩, hcsr⟩ := finish_keeps pc (hspill.imp_left hbuf)
  obtain ⟨⟨hsl0, hfl0⟩, -⟩ := fetched_keeps hF
  have hdone : WordDone c (finish e k g n res [] pc) k g n res [] pc :=
    wordDone_finish hF hO1 ⟨_, _, _, _, _, _, hk⟩ (fun i _ _ => hv i) hspill
  have hcsrs : ∀ i, i ≠ 0x0A → i ≠ 0x28 → csrVal (finish e k g n res [] pc) k i = csrVal c k i :=
    fun i h1 h2 => by rw [hcsr i h1 h2, hv, fetched_csrVal hF]
  obtain ⟨hsl1, hfl1⟩ : KeepsSlots d e k := by
    unfold KeepsSlots
    rw [hk]
    exact ⟨rfl, rfl⟩
  exact ⟨hdone, hcsrs _ (by decide) (by decide), hcsrs _ (by decide) (by decide),
    ⟨hsl.trans (hsl1.trans hsl0), hfl.trans (hfl1.trans hfl0)⟩, hfile, hptr, hdepth⟩

theorem rsDone_of_depth {c d : Chip} {k n ptr depth m pc : Nat} {g : Fills} {res : List Word} {file : Tbl Word}
    (h : RsDone c d k g n res file ptr depth pc) (hm : depth = m) : RsDone c d k g n res file ptr m pc :=
  hm ▸ h

/-- A word that pushes: the entry stands in the place under the pointer, and the depth grows to at most 16 (R97, R98). -/
theorem rsDone_push {c d : Chip} {k : Nat} {g : Fills} {n : Nat} (w : Word) (pc : Nat) (hF : JustFetched c d k)
    (hs : ownSpills c k g n []) :
    RsDone c (finish (rsPush d k w) k g n [] [] pc) k g n [] (Tbl.put 0 (coreOf c k).rsFile (coreOf c k).rsPtr w)
      (((coreOf c k).rsPtr + 1) % 16) (Nat.min ((coreOf c k).rsDepth + 1) 16) pc := by
  have h := rsDone_finish pc hF (onlyRs_rsPush d k w) hs
  obtain ⟨l, hl⟩ := hF.core
  simpa only [coreOf_rsPush_same, hl] using h

/-- A word that pops: the pointer moves down one place, the file stays, and the depth falls to at least 0 (R97, R98). -/
theorem rsDone_pop {c d : Chip} {k : Nat} {g : Fills} {n : Nat} {res : List Word} (pc : Nat) (hF : JustFetched c d k)
    (hs : ownSpills c k g n res) :
    RsDone c (finish (rsPop d k) k g n res [] pc) k g n res (coreOf c k).rsFile (((coreOf c k).rsPtr + 15) % 16)
      ((coreOf c k).rsDepth - 1) pc := by
  have h := rsDone_finish pc hF (onlyRs_rsPop d k) hs
  obtain ⟨l, hl⟩ := hF.core
  simpa only [coreOf_rsPop_same, hl] using h

/-! ### The words of the return stack, executed -/

theorem starts_fetched {c d : Chip} {k n : Nat} {rep : Bool} {op : CoreOp} {g : Fills} {ops : List Word}
    (h : starts c k rep op n d g ops) : JustFetched c d k := by
  obtain ⟨-, hF, -⟩ := begin_go h
  exact hF

theorem targetTrap_usable {t : Word} (h : usable t.toNat) : targetTrap t = none := by
  obtain ⟨hlt, heven⟩ := h
  simp [targetTrap, fetchable, hlt, heven]

/-- A transfer whose target is usable executes. -/
theorem jumpWord_go {c d : Chip} {k : Nat} {op : CoreOp} {g : Fills} {ops : List Word}
    {target : Chip → List Word → Word} (f : Chip → Chip) (h : starts c k false op 0 d g ops)
    (hu : usable (target c ops).toNat) :
    jumpWord c k op target f = finish (f d) k g (opEffect op).1 [] [] (target d ops).toNat := by
  unfold jumpWord
  rw [begin_check h (targetTrap_usable hu)]

/-- A word that touches nothing but its string executes. -/
theorem plainWord_go {c d : Chip} {k : Nat} {rep : Bool} {op : CoreOp} {g : Fills} {ops : List Word} (len : Nat)
    (f : Chip → List Word → Chip × List Word) (h : starts c k rep op 0 d g ops) :
    plainWord c k rep op len f =
      finish (f d ops).1 k g (opEffect op).1 (f d ops).2 [] ((coreOf (f d ops).1 k).pc + len) := by
  unfold starts at h
  unfold plainWord
  rw [h]

section Executed

variable {c d : Chip} {k : Nat} {g : Fills} {ops : List Word}

theorem xCall_rsDone {x : IWord} (h : starts c k false (.call x) 0 d g ops) (hs : ownSpills c k g 0 [])
    (hu : usable x.toNat) :
    RsDone c (xCall c k x) k g 0 [] (Tbl.put 0 (coreOf c k).rsFile (coreOf c k).rsPtr (wd ((coreOf c k).pc + 4)))
      (((coreOf c k).rsPtr + 1) % 16) (Nat.min ((coreOf c k).rsDepth + 1) 16) x.toNat := by
  have hF := starts_fetched h
  obtain ⟨l, hl⟩ := hF.core
  have hx : (x.setWidth 32).toNat = x.toNat := BitVec.toNat_setWidth_of_le (by decide)
  unfold xCall
  rw [jumpWord_go _ h (by rwa [hx]), hl, hx]
  exact rsDone_push _ _ hF hs

theorem xCalli_rsDone (h : starts c k false .calli 0 d g ops) (hs : ownSpills c k g 1 [])
    (hu : usable (ops.getD 0 0).toNat) :
    RsDone c (xCalli c k) k g 1 [] (Tbl.put 0 (coreOf c k).rsFile (coreOf c k).rsPtr (wd ((coreOf c k).pc + 2)))
      (((coreOf c k).rsPtr + 1) % 16) (Nat.min ((coreOf c k).rsDepth + 1) 16) (ops.getD 0 0).toNat := by
  have hF := starts_fetched h
  obtain ⟨l, hl⟩ := hF.core
  unfold xCalli
  rw [jumpWord_go _ h hu, hl]
  exact rsDone_push _ _ hF hs

theorem xTor_rsDone (h : starts c k false .tor 0 d g ops) (hs : ownSpills c k g 1 []) :
    RsDone c (xTor c k) k g 1 [] (Tbl.put 0 (coreOf c k).rsFile (coreOf c k).rsPtr (ops.getD 0 0))
      (((coreOf c k).rsPtr + 1) % 16) (Nat.min ((coreOf c k).rsDepth + 1) 16) ((coreOf c k).pc + 2) := by
  have hF := starts_fetched h
  obtain ⟨l, hl⟩ := hF.core
  unfold xTor rsWord
  rw [plainWord_go _ _ h, coreOf_rsPush_same, hl]
  exact rsDone_push _ _ hF hs

theorem xRet_rsDone (h : starts c k false .ret 0 d g ops) (hs : ownSpills c k g 0 []) (hu : usable (rsTop c k).toNat) :
    RsDone c (xRet c k) k g 0 [] (coreOf c k).rsFile (((coreOf c k).rsPtr + 15) % 16) ((coreOf c k).rsDepth - 1)
      (rsTop c k).toNat := by
  have hF := starts_fetched h
  unfold xRet
  rw [jumpWord_go _ h hu, fetched_rsTop hF]
  exact rsDone_pop _ hF hs

theorem xFromr_rsDone (h : starts c k false .fromr 0 d g ops) (hs : ownSpills c k g 0 [rsTop c k]) :
    RsDone c (xFromr c k) k g 0 [rsTop c k] (coreOf c k).rsFile (((coreOf c k).rsPtr + 15) % 16)
      ((coreOf c k).rsDepth - 1) ((coreOf c k).pc + 2) := by
  have hF := starts_fetched h
  obtain ⟨l, hl⟩ := hF.core
  unfold xFromr rsWord
  rw [plainWord_go _ _ h, coreOf_rsPop_same, hl, fetched_rsTop hF]
  exact rsDone_pop _ hF hs

theorem xRdrop_rsDone (h : starts c k false .rdrop 0 d g ops) (hs : ownSpills c k g 0 []) :
    RsDone c (xRdrop c k) k g 0 [] (coreOf c k).rsFile (((coreOf c k).rsPtr + 15) % 16) ((coreOf c k).rsDepth - 1)
      ((coreOf c k).pc + 2) := by
  have hF := starts_fetched h
  obtain ⟨l, hl⟩ := hF.core
  unfold xRdrop rsWord
  rw [plainWord_go _ _ h, coreOf_rsPop_same, hl]
  exact rsDone_pop _ hF hs

end Executed

/-! ### The return stack test -/

/-- In wrap mode no word meets a limit (R98). -/
theorem rsTest_wrap {c : Chip} {k : Nat} (h : bit (csrVal c k 0x0B) 0 = false) (op : CoreOp) : rsTest c k op = none := by
  unfold rsTest
  simp [h]

theorem fetched_rsTest {c d : Chip} {k : Nat} (h : JustFetched c d k) (op : CoreOp) : rsTest d k op = rsTest c k op := by
  obtain ⟨l, hl⟩ := h.core
  unfold rsTest
  rw [fetched_csrVal h, hl]

/-- In trap mode each word that pushes meets its limit at depth 16. -/
theorem rsTest_push_full {c : Chip} {k : Nat} (hm : bit (csrVal c k 0x0B) 0 = true) (hd : (coreOf c k).rsDepth = 16)
    (x : IWord) : rsTest c k (.call x) = some 0x05 ∧ rsTest c k .calli = some 0x05 ∧ rsTest c k .tor = some 0x05 := by
  refine ⟨?_, ?_, ?_⟩ <;> (unfold rsTest; rw [hm, hd]; rfl)

/-- In trap mode each word that pops or reads meets its limit at depth 0. -/
theorem rsTest_pop_empty {c : Chip} {k : Nat} (hm : bit (csrVal c k 0x0B) 0 = true) (hd : (coreOf c k).rsDepth = 0) :
    rsTest c k .ret = some 0x06 ∧ rsTest c k .fromr = some 0x06 ∧ rsTest c k .rget = some 0x06 ∧
      rsTest c k .rdrop = some 0x06 := by
  refine ⟨?_, ?_, ?_, ?_⟩ <;> (unfold rsTest; rw [hm, hd]; rfl)

/-- A word that neither fills nor spills passes the stack test while SPTR lies in its area (R89). -/
theorem stackTest_within {c : Chip} {k : Nat} (hlo : (csrVal c k 0x08).toNat ≤ (csrVal c k 0x0A).toNat)
    (hhi : (csrVal c k 0x0A).toNat ≤ (csrVal c k 0x09).toNat) : stackTest c k 0 0 = none := by
  unfold stackTest
  dsimp only
  rw [if_neg (by omega), if_neg (by omega)]

/-- In split a string may take a precise trap of its next word at any time. -/
theorem orderTrap_split {c : Chip} {k : Nat} (h : inUnison c (courseNo k) = false) : orderTrap c k = true := by
  simp [orderTrap, orderRun, h]

theorem fetched_inUnison {c d : Chip} {k : Nat} (h : JustFetched c d k) (n : Nat) : inUnison d n = inUnison c n := by
  obtain ⟨_, _, _, hr⟩ := h.rest
  rw [hr]; rfl

/-- The string stands in split at a word, its SPTR in its area, with at least one entry and room for one more in hardware: no
word of the return stack fills or spills. -/
structure RsReady (c : Chip) (k : Nat) : Prop where
  word : atWord c k = true
  split : inUnison c (courseNo k) = false
  some : 1 ≤ (coreOf c k).stk.length
  room : (coreOf c k).stk.length ≤ 7
  low : (csrVal c k 0x08).toNat ≤ (csrVal c k 0x0A).toNat
  high : (csrVal c k 0x0A).toNat ≤ (csrVal c k 0x09).toNat

/-- A word that meets a limit of the return stack ends, before its effect, in the trap of that limit (R98, R154). -/
theorem begin_rsTrap {c d : Chip} {k cause : Nat} {op : CoreOp} (n : Nat) (check : List Word → Option (Nat × Bool × Nat))
    (hc : RsReady c k) (htake : (opEffect op).1 ≤ 1) (hleave : (opEffect op).2 ≤ 1)
    (ht : rsTest c k op = some cause) (hh : atHand c k false op = some (d, false)) :
    begin_ c k false op n check = .stop (trapEntry d k (preciseRec d k cause false 0)) := by
  obtain ⟨hw, hu, hsome, hroom, hlo, hhi⟩ := hc
  have hF := atHand_only hh
  have hstk : (coreOf d k).stk = (coreOf c k).stk := by
    obtain ⟨l, hl⟩ := hF.core
    rw [hl]
  have hfill : (opEffect op).1 - (coreOf c k).stk.length = 0 := by omega
  have hspill : (coreOf c k).stk.length + 0 - (opEffect op).1 + (opEffect op).2 - 8 = 0 := by omega
  have hst : stackTest d k 0 0 = none := by
    simp only [← fetched_csrVal hF] at hlo hhi
    exact stackTest_within hlo hhi
  have hord : orderTrap d k = true := orderTrap_split (by rwa [fetched_inUnison hF])
  unfold begin_
  simp only [hw, hh, hstk, hfill, hspill, hst, fetched_rsTest hF, ht, preciseStop, hord, Bool.not_true, Bool.false_eq_true,
    if_false, if_true]

/-- A jump that meets a limit of the return stack ends in the trap of that limit. -/
theorem jumpWord_rsTrap {c d : Chip} {k cause : Nat} {op : CoreOp} (target : Chip → List Word → Word) (f : Chip → Chip)
    (hc : RsReady c k) (htake : (opEffect op).1 ≤ 1) (hleave : (opEffect op).2 ≤ 1)
    (ht : rsTest c k op = some cause) (hh : atHand c k false op = some (d, false)) :
    jumpWord c k op target f = trapEntry d k (preciseRec d k cause false 0) := by
  unfold jumpWord
  rw [begin_rsTrap 0 _ hc htake hleave ht hh]

/-- A word on the return stack alone that meets a limit ends in the trap of that limit. -/
theorem rsWord_rsTrap {c d : Chip} {k cause : Nat} {op : CoreOp} (f : Chip → List Word → Chip × List Word)
    (hc : RsReady c k) (htake : (opEffect op).1 ≤ 1) (hleave : (opEffect op).2 ≤ 1)
    (ht : rsTest c k op = some cause) (hh : atHand c k false op = some (d, false)) :
    rsWord c k op f = trapEntry d k (preciseRec d k cause false 0) := by
  unfold rsWord plainWord
  rw [begin_rsTrap 0 _ hc htake hleave ht hh]

/-! ### The commands -/

section Commands

variable {s : State} {k : Nat} (hk : isCore k = true)

include hk

/-- A command of a core that exists answers the state with its effect on the device. -/
theorem exec_of_onCore {i : Instr} {f : Chip → Chip} {d : Chip} (hi : exec i s = onUnit (isCore k) s f)
    (hd : f s.chip = d) : exec i s = .next { s with chip := d } := by
  rw [hi, hk, onUnit_true, hd]

theorem leaves_of_onCore {i : Instr} {f : Chip → Chip} {P : Chip → Prop} (hi : exec i s = onUnit (isCore k) s f)
    (hP : P (f s.chip)) : leaves i s P :=
  ⟨_, exec_of_onCore hk hi rfl, rfl, hP⟩

end Commands

theorem exec_call (k : Nat) (x : IWord) (s : State) :
    exec (.call k x) s = onUnit (isCore k) s (fun c => xCall c k x) := rfl

theorem exec_calli (k : Nat) (s : State) : exec (.calli k) s = onUnit (isCore k) s (fun c => xCalli c k) := rfl

theorem exec_ret (k : Nat) (s : State) : exec (.ret k) s = onUnit (isCore k) s (fun c => xRet c k) := rfl

theorem exec_tor (k : Nat) (s : State) : exec (.tor k) s = onUnit (isCore k) s (fun c => xTor c k) := rfl

theorem exec_fromr (k : Nat) (s : State) : exec (.fromr k) s = onUnit (isCore k) s (fun c => xFromr c k) := rfl

theorem exec_rget (k : Nat) (s : State) : exec (.rget k) s = onUnit (isCore k) s (fun c => xRget c k) := rfl

theorem exec_rdrop (k : Nat) (s : State) : exec (.rdrop k) s = onUnit (isCore k) s (fun c => xRdrop c k) := rfl

/-- Settles O14: in trap mode the return stack test, met before the word's effect, ends each of the seven words in its trap; in
wrap mode nothing but the word's own push or pop happens, and at depth 16 and 0 it leaves the depth; the pending CSR writes
touch no return stack. -/
theorem returnStackTest : Obligations.ReturnStackTest := by
  unfold Obligations.ReturnStackTest
  refine ⟨?trap, ?wrap, keepsRs_applyPend⟩
  case trap =>
    intro s k x d hk hw hu hsome hroom hlo hhi hm traps
    have hc : RsReady s.chip k := ⟨hw, hu, hsome, hroom, hlo, hhi⟩
    refine ⟨fun hfull => ?_, fun hempty => ?_⟩
    · obtain ⟨hcall, hcalli, htor⟩ := rsTest_push_full hm hfull x
      exact ⟨fun hh => exec_of_onCore hk (exec_call k x s) (jumpWord_rsTrap _ _ hc (Nat.zero_le 1) (Nat.zero_le 1) hcall hh),
        fun hh => exec_of_onCore hk (exec_calli k s) (jumpWord_rsTrap _ _ hc (by decide) (by decide) hcalli hh),
        fun hh => exec_of_onCore hk (exec_tor k s) (rsWord_rsTrap _ hc (by decide) (by decide) htor hh)⟩
    · obtain ⟨hret, hfromr, hrget, hrdrop⟩ := rsTest_pop_empty hm hempty
      exact ⟨fun hh => exec_of_onCore hk (exec_ret k s) (jumpWord_rsTrap _ _ hc (by decide) (by decide) hret hh),
        fun hh => exec_of_onCore hk (exec_fromr k s) (rsWord_rsTrap _ hc (by decide) (by decide) hfromr hh),
        fun hh => exec_of_onCore hk (exec_rget k s) (rsWord_rsTrap _ hc (by decide) (by decide) hrget hh),
        fun hh => exec_of_onCore hk (exec_rdrop k s) (rsWord_rsTrap _ hc (by decide) (by decide) hrdrop hh)⟩
  case wrap =>
    intro s k x d g ops hk hm r below entry
    refine ⟨rsTest_wrap hm, fun hfull => ?_, fun hempty => ?_⟩
    · have hdepth : Nat.min ((coreOf s.chip k).rsDepth + 1) 16 = 16 := by rw [hfull]; rfl
      exact ⟨fun h hs hu => leaves_of_onCore hk (exec_call k x s) (rsDone_of_depth (xCall_rsDone h hs hu) hdepth),
        fun h hs hu => leaves_of_onCore hk (exec_calli k s) (rsDone_of_depth (xCalli_rsDone h hs hu) hdepth),
        fun h hs => leaves_of_onCore hk (exec_tor k s) (rsDone_of_depth (xTor_rsDone h hs) hdepth)⟩
    · have hdepth : (coreOf s.chip k).rsDepth - 1 = 0 := by rw [hempty]
      exact ⟨fun h hs hu => leaves_of_onCore hk (exec_ret k s) (rsDone_of_depth (xRet_rsDone h hs hu) hdepth),
        fun h hs => leaves_of_onCore hk (exec_fromr k s) (rsDone_of_depth (xFromr_rsDone h hs) hdepth),
        fun h hs => leaves_of_onCore hk (exec_rdrop k s) (rsDone_of_depth (xRdrop_rsDone h hs) hdepth)⟩

end Sys2Proof.Machine
end

section
/-! PROOFS. The instruction words of a core (R131 to R151): a word as an opcode and a field, what the decoder answers for each
form, and that a word that decodes is the one its instruction spells. -/

namespace Sys2Proof

/-! ### A word as an opcode and a field -/

theorem longWord_toNat {o f : Nat} (ho : o < 256) (hf : f < 256) : (longWord o f).toNat = o * 256 + f := by
  rw [longWord, BitVec.toNat_ofNat, Nat.mod_eq_of_lt (by omega)]

theorem longWord_opcode {o f : Nat} (ho : o < 256) (hf : f < 256) : (longWord o f).toNat / 256 = o := by
  rw [longWord_toNat ho hf]; omega

theorem longWord_field {o f : Nat} (ho : o < 256) (hf : f < 256) : (longWord o f).toNat % 256 = f := by
  rw [longWord_toNat ho hf]; omega

/-- Every word is an opcode and a field; the pairs are the words with an opcode from 128 on. -/
theorem exists_longWord (w : IWord) : ∃ o f, o < 256 ∧ f < 256 ∧ w = longWord o f := by
  have hw := w.isLt
  refine ⟨w.toNat / 256, w.toNat % 256, by omega, by omega, BitVec.eq_of_toNat_eq ?_⟩
  rw [longWord_toNat (by omega) (by omega)]
  omega

/-- The word of the pair of `a` and `b` (R131). -/
theorem pairWord_eq_longWord (a b : Nat) : BitVec.ofNat 16 (0x8000 + a * 256 + b * 2) = longWord (128 + a) (b * 2) := by
  exact congrArg (BitVec.ofNat 16) (by omega)

/-! ### What the decoder answers -/

section Answers

variable (lu : Bool) (x : IWord) {o f : Nat}

theorem decodeWord_pair (ho : 128 ≤ o) (ho' : o < 256) (hf : f < 256) :
    decodeWord lu (longWord o f) x = if f % 2 = 1 then none
      else if shortDefined (o - 128) && shortDefined (f / 2) then some (.pair (BitVec.ofNat 7 (o - 128)) (BitVec.ofNat 7 (f / 2)))
      else none := by
  simp only [decodeWord, longWord_opcode ho' hf, longWord_field ho' hf, if_pos ho]

theorem decodeWord_csrr (hf : f < 256) :
    decodeWord lu (longWord 0x40 f) x = if csrAssigned f then some (.csrr (BitVec.ofNat 8 f)) else none := by
  simp [decodeWord, longWord_opcode _ hf, longWord_field _ hf]

theorem decodeWord_csrw (hf : f < 256) :
    decodeWord lu (longWord 0x41 f) x = if csrAssigned f then some (.csrw (BitVec.ofNat 8 f)) else none := by
  simp [decodeWord, longWord_opcode _ hf, longWord_field _ hf]

/-- The table of the long form (R143, R149, R150) leaves these opcodes free: they reach the decoder's last case, in which only
the coprocessor's opcodes answer. -/
theorem decodeWord_undefined_opcode (hf : f < 256)
    (ho : o = 0x00 ∨ (0x0A ≤ o ∧ o ≤ 0x0F) ∨ (0x2B ≤ o ∧ o ≤ 0x2F) ∨ (0x34 ≤ o ∧ o ≤ 0x37) ∨ o = 0x3E ∨ o = 0x3F ∨
      (0x42 ≤ o ∧ o ≤ 0x47) ∨ (0x4A ≤ o ∧ o ≤ 0x6F) ∨ (0x78 ≤ o ∧ o ≤ 0x7F) ∨ (lu = true ∧ 0x70 ≤ o ∧ o ≤ 0x7F)) :
    decodeWord lu (longWord o f) x = none := by
  have hlong : ¬ 128 ≤ o := by omega
  simp only [decodeWord, longWord_opcode (by omega : o < 256) hf, longWord_field (by omega : o < 256) hf, if_neg hlong]
  split
  case h_51 =>
    refine if_neg ?_
    simp only [Bool.and_eq_true, decide_eq_true_eq, Bool.not_eq_true']
    rintro ⟨⟨⟨hlo, hhi⟩, rfl⟩, -⟩
    simp only [Bool.false_eq_true, false_and, or_false] at ho
    omega
  -- a row of the table: its opcode is none of these
  all_goals omega

end Answers

/-! ### A word that decodes is the one its instruction spells -/

/-- The word is what the instruction is written as, and the instruction uses no reserved value. -/
def Spells (lu : Bool) (op : CoreOp) (w : IWord) : Prop := op.wf lu = true ∧ (encodeWord op).1 = w

/-- A field of `n` bits that is below `2 ^ n` is spelled whole. -/
theorem longWord_ofNat (o : Nat) {n f : Nat} (hf : f < 2 ^ n) : longWord o (BitVec.ofNat n f).toNat = longWord o f := by
  rw [BitVec.toNat_ofNat, Nat.mod_eq_of_lt hf]

theorem loadField_ofNat {f : Nat} (hf : f < 32) :
    loadField (BitVec.ofNat 2 f) (BitVec.ofNat 2 (f / 4)) (decide (16 ≤ f)) = f := by
  simp only [loadField, BitVec.toNat_ofNat, decide_eq_true_eq]
  split <;> omega

/-- The field of MUL and DIV: the slot and, above it, the bit for unsigned. -/
theorem slotField_ofNat {f : Nat} (hf : f < 8) : ((BitVec.ofNat 2 f).toNat + if decide (4 ≤ f) then 4 else 0) = f := by
  simp only [BitVec.toNat_ofNat, decide_eq_true_eq]
  split <;> omega

section Spelled

variable {lu : Bool} {x : IWord} {op : CoreOp} {o f : Nat}

/-- A case of the decoder that answers under a condition spells the word if its instruction does under that condition. -/
theorem spells_of_guard {p : Prop} [Decidable p] {a : CoreOp} {w : IWord} (h : (if p then some a else none) = some op)
    (ha : p → Spells lu a w) : Spells lu op w := by
  obtain ⟨hp, ⟨⟩⟩ := Option.ite_none_right_eq_some.mp h
  exact ha hp

theorem pair_spells (ho : 128 ≤ o) (ho' : o < 256) (hf : f < 256) (h : decodeWord lu (longWord o f) x = some op) :
    Spells lu op (longWord o f) := by
  rw [decodeWord_pair lu x ho ho' hf] at h
  obtain ⟨heven, h⟩ := Option.ite_none_left_eq_some.mp h
  refine spells_of_guard h fun hdef => ?_
  have ha : (BitVec.ofNat 7 (o - 128)).toNat = o - 128 := by rw [BitVec.toNat_ofNat, Nat.mod_eq_of_lt (by omega)]
  have hb : (BitVec.ofNat 7 (f / 2)).toNat = f / 2 := by rw [BitVec.toNat_ofNat, Nat.mod_eq_of_lt (by omega)]
  refine ⟨by simpa only [CoreOp.wf, ha, hb] using hdef, ?_⟩
  simp only [encodeWord, ha, hb, pairWord_eq_longWord]
  exact congrArg₂ longWord (by omega) (by omega)

theorem pick_spells (hf : f < 7) : Spells lu (.pick (BitVec.ofNat 3 f)) (longWord 0x09 f) := by
  refine ⟨decide_eq_true fun h7 => ?_, longWord_ofNat _ (by omega)⟩
  have h7 : f % 8 = 7 := by simpa using congrArg BitVec.toNat h7
  omega

theorem waitl_spells (hf0 : f ≠ 0) (hf : f < 16) : Spells lu (.waitl (BitVec.ofNat 4 f)) (longWord 0x2A f) := by
  refine ⟨decide_eq_true fun h0 => ?_, longWord_ofNat _ hf⟩
  have h0 : f % 16 = 0 := by simpa using congrArg BitVec.toNat h0
  omega

theorem str_spells (hf : f < 16) (hsl : BitVec.ofNat 2 f = 0) (hsz : BitVec.ofNat 2 (f / 4) ≠ 3) :
    Spells lu (.str (BitVec.ofNat 2 (f / 4))) (longWord 0x21 f) := by
  refine ⟨decide_eq_true hsz, congrArg (longWord 0x21) ?_⟩
  have hsl : f % 4 = 0 := by simpa using congrArg BitVec.toNat hsl
  rw [BitVec.toNat_ofNat]
  omega

theorem wait_spells (hf : f < 2) : Spells lu (.wait (decide (f = 1))) (longWord 0x38 f) := by
  refine ⟨rfl, congrArg (longWord 0x38) ?_⟩
  simp only [decide_eq_true_eq]
  split <;> omega

theorem cp_spells (hlu : lu = false) (ho : 0x70 ≤ o) (ho' : o ≤ 0x77) (hf : f < 128) :
    Spells lu (.cp (BitVec.ofNat 3 (o - 0x70)) (BitVec.ofNat 2 f) (BitVec.ofNat 5 (f / 4))) (longWord o f) := by
  refine ⟨by simp [CoreOp.wf, hlu], ?_⟩
  simp only [encodeWord, BitVec.toNat_ofNat]
  exact congrArg₂ longWord (by omega) (by omega)

/-- Every row of the table of the long form, by the shape of its field: a whole field, no field, a field below a bound, and
the rows with fields of their own. -/
theorem long_spells (ho : o < 128) (hf : f < 256) (h : decodeWord lu (longWord o f) x = some op) :
    Spells lu op (longWord o f) := by
  simp only [decodeWord, longWord_opcode (by omega : o < 256) hf, longWord_field (by omega : o < 256) hf,
    if_neg (by omega : ¬ 128 ≤ o)] at h
  split at h
  -- LIT, ADDI, BR, BZ, BNZ, REP, REPI, TRAP
  case h_1 | h_4 | h_10 | h_11 | h_12 | h_24 | h_25 | h_49 =>
    cases h
    exact ⟨rfl, longWord_ofNat _ hf⟩
  -- LITX, LITHI, BRX, BZX, BNZX, CALL to RDROP, SEND to RECVT, SLEEP to IFENCE, RETT
  case h_2 | h_3 | h_13 | h_14 | h_15 | h_16 | h_17 | h_18 | h_19 | h_20 | h_21 | h_22 | h_23 | h_37 | h_38 | h_39 | h_40 |
      h_42 | h_43 | h_44 | h_45 | h_46 | h_50 =>
    exact spells_of_guard h fun hzero => ⟨rfl, congrArg (longWord _) hzero.symm⟩
  -- SHLI, SHRI, SARI, ROLI, TAS, LR, SC, LAND, PUTL
  case h_5 | h_6 | h_7 | h_8 | h_28 | h_29 | h_30 | h_34 | h_35 =>
    exact spells_of_guard h fun hlt => ⟨rfl, longWord_ofNat _ hlt⟩
  case h_9 => exact spells_of_guard h pick_spells
  -- LDR, AGREE
  case h_26 | h_31 =>
    refine spells_of_guard h fun hfield => ?_
    simp only [Bool.and_eq_true, decide_eq_true_eq] at hfield
    obtain ⟨⟨hlt, hsize⟩, hsgn⟩ := hfield
    exact ⟨Bool.and_eq_true_iff.mpr ⟨decide_eq_true hsize, hsgn⟩, congrArg (longWord _) (loadField_ofNat hlt)⟩
  -- STR
  case h_27 =>
    refine spells_of_guard h fun hfield => ?_
    simp only [Bool.and_eq_true, decide_eq_true_eq] at hfield
    obtain ⟨⟨hlt, hslot⟩, hsize⟩ := hfield
    exact str_spells hlt hslot hsize
  -- MUL, DIV
  case h_32 | h_33 =>
    exact spells_of_guard h fun hlt => ⟨rfl, congrArg (longWord _) (slotField_ofNat hlt)⟩
  -- WAITL
  case h_36 =>
    obtain ⟨hne, h⟩ := Option.ite_none_left_eq_some.mp h
    exact spells_of_guard h (waitl_spells hne)
  case h_41 => exact spells_of_guard h wait_spells
  -- CSRR, CSRW
  case h_47 | h_48 =>
    refine spells_of_guard h fun hcsr => ⟨?_, longWord_ofNat _ hf⟩
    rwa [CoreOp.wf, BitVec.toNat_ofNat, Nat.mod_eq_of_lt hf]
  -- the coprocessor's operations
  case h_51 =>
    refine spells_of_guard h fun hfield => ?_
    simp only [Bool.and_eq_true, decide_eq_true_eq, Bool.not_eq_true'] at hfield
    obtain ⟨⟨⟨hlo, hhi⟩, hlu⟩, hlt⟩ := hfield
    exact cp_spells hlu hlo hhi hlt

end Spelled

theorem decodeWord_spells {lu : Bool} {w x : IWord} {op : CoreOp} (h : decodeWord lu w x = some op) : Spells lu op w := by
  obtain ⟨o, f, ho, hf, rfl⟩ := exists_longWord w
  by_cases hpair : 128 ≤ o
  · exact pair_spells hpair ho hf h
  · exact long_spells (by omega) hf h

/-- Settles O5: the words of R151 decode to nothing, each by the decoder's answer for its form, and a word that decodes is
spelled by its instruction, form by form. -/
theorem undefinedWords : Obligations.UndefinedWords := by
  unfold Obligations.UndefinedWords
  intro lu w x
  refine ⟨?oddPair, ?undefinedHalf, ?undefinedOpcode, ?unassignedCsr, fun op => decodeWord_spells⟩
  case oddPair =>
    intro hpair hodd
    obtain ⟨o, f, ho, hf, rfl⟩ := exists_longWord w
    rw [longWord_toNat ho hf] at hpair hodd
    rw [decodeWord_pair lu x (by omega) ho hf, if_pos (by omega)]
  case undefinedHalf =>
    intro a b ha hb hundef
    have hdef : ¬ (shortDefined (128 + a - 128) && shortDefined (b * 2 / 2)) = true := by
      rw [Nat.add_sub_cancel_left, Nat.mul_div_cancel _ Nat.two_pos]
      rcases hundef with h | h <;> simp [h]
    rw [pairWord_eq_longWord, decodeWord_pair lu x (by omega) (by omega) (by omega), if_neg (by omega), if_neg hdef]
  case undefinedOpcode =>
    intro o f hf ho
    exact decodeWord_undefined_opcode lu x hf ho
  case unassignedCsr =>
    intro i hi hcsr
    have hnone : ¬ csrAssigned i = true := by simp [hcsr]
    exact ⟨(decodeWord_csrr lu x hi).trans (if_neg hnone), (decodeWord_csrw lu x hi).trans (if_neg hnone)⟩

end Sys2Proof
end

section
/-! PROOFS. Branches (R145, R168, R169): what a branch does by its condition and its target; BR, BZ, BNZ and their extended
forms are assembled from these. -/

namespace Sys2Proof.Machine

open Sys2Proof Sys2Proof.Safety

theorem onlyRs_refl (c : Chip) (k : Nat) : OnlyRs c c k := ⟨oneCore_refl c k, _, _, _, rfl⟩

/-- A word that has changed nothing after its fetch ends with its stack and its next address alone. -/
theorem plainDone_finish {c d : Chip} {k : Nat} {g : Fills} {n : Nat} {res : List Word} (pc : Nat)
    (hF : JustFetched c d k) (hs : ownSpills c k g n res) : PlainDone c (finish d k g n res [] pc) k g n res pc := by
  obtain ⟨hdone, hflags, hcstat, hslots, hfile, hptr, hdepth⟩ := rsDone_finish pc hF (onlyRs_refl d k) hs
  obtain ⟨-, hfile', hptr', hdepth'⟩ := fetched_keeps hF
  exact ⟨hdone, hflags, hcstat, hslots, hfile.trans hfile', hptr.trans hptr', hdepth.trans hdepth'⟩

/-- A target that instructions cannot be fetched from raises IFETCH with the target as address (R115, R169). -/
theorem targetTrap_unusable {t : Word} (h : ¬ usable t.toNat) : targetTrap t = some (0x02, false, t.toNat) := by
  refine if_neg fun hf => h ?_
  simpa only [usable, fetchable, Bool.and_eq_true, decide_eq_true_eq] using hf

theorem condZero_of_eq {ops : List Word} (h : ops.getD 0 0 = 0) : condZero ops = true := decide_eq_true h

theorem condZero_of_ne {ops : List Word} (h : ops.getD 0 0 ≠ 0) : condZero ops = false := decide_eq_false h

/-! ### A branch by its condition and its target -/

section Branches

variable {c d : Chip} {k len : Nat} {op : CoreOp} {off : Word} {taken : List Word → Bool} {g : Fills} {ops : List Word}

/-- A branch that is not taken, or whose target is usable, executes. -/
theorem branchWord_go (h : starts c k false op 0 d g ops) (hu : taken ops = true → usable (relTarget c k off).toNat) :
    branchWord c k op len off taken = finish d k g (opEffect op).1 [] []
      (if taken ops then (relTarget c k off).toNat else (coreOf c k).pc + len) := by
  have hcheck : (if taken ops then targetTrap (relTarget c k off) else none) = none := by
    split
    next ht => exact targetTrap_usable (hu ht)
    next => rfl
  have hbegin := begin_check (check := fun ops => if taken ops then targetTrap (relTarget c k off) else none) h hcheck
  obtain ⟨l, hl⟩ := (starts_fetched h).core
  unfold branchWord
  simp only [hbegin, hl]

/-- A branch taken to a usable target goes on there. -/
theorem branchWord_taken (h : starts c k false op 0 d g ops) (hs : ownSpills c k g (opEffect op).1 [])
    (ht : taken ops = true) (hu : usable (relTarget c k off).toNat) :
    PlainDone c (branchWord c k op len off taken) k g (opEffect op).1 [] (relTarget c k off).toNat := by
  rw [branchWord_go h fun _ => hu, if_pos ht]
  exact plainDone_finish _ (starts_fetched h) hs

/-- A branch not taken goes on behind itself, whatever its target. -/
theorem branchWord_not_taken (h : starts c k false op 0 d g ops) (hs : ownSpills c k g (opEffect op).1 [])
    (ht : taken ops = false) :
    PlainDone c (branchWord c k op len off taken) k g (opEffect op).1 [] ((coreOf c k).pc + len) := by
  have hnot : ¬ taken ops = true := by rw [ht]; exact Bool.false_ne_true
  rw [branchWord_go h fun ht => absurd ht hnot, if_neg hnot]
  exact plainDone_finish _ (starts_fetched h) hs

/-- A branch taken to an unusable target ends in IFETCH. -/
theorem branchWord_trap (h : starts c k false op 0 d g ops) (ht : taken ops = true)
    (hu : ¬ usable (relTarget c k off).toNat) :
    branchWord c k op len off taken = trapEntry d k (preciseRec d k 0x02 false (relTarget c k off).toNat) := by
  have hbegin := begin_trap (check := fun ops => if taken ops then targetTrap (relTarget c k off) else none) h
    ((if_pos ht).trans (targetTrap_unusable hu))
  unfold branchWord
  simp only [hbegin]

end Branches

/-! ### The commands -/

theorem exec_br (k : Nat) (f : BitVec 8) (s : State) : exec (.br k f) s = onUnit (isCore k) s (fun c => xBr c k f) := rfl

theorem exec_brx (k : Nat) (x : IWord) (s : State) : exec (.brx k x) s = onUnit (isCore k) s (fun c => xBrx c k x) := rfl

theorem exec_bz (k : Nat) (f : BitVec 8) (s : State) : exec (.bz k f) s = onUnit (isCore k) s (fun c => xBz c k f) := rfl

theorem exec_bnz (k : Nat) (f : BitVec 8) (s : State) :
    exec (.bnz k f) s = onUnit (isCore k) s (fun c => xBnz c k f) := rfl

theorem exec_bzx (k : Nat) (x : IWord) (s : State) : exec (.bzx k x) s = onUnit (isCore k) s (fun c => xBzx c k x) := rfl

theorem exec_bnzx (k : Nat) (x : IWord) (s : State) :
    exec (.bnzx k x) s = onUnit (isCore k) s (fun c => xBnzx c k x) := rfl

section Commands

variable {s : State} {k len : Nat} {i : Instr} {op : CoreOp} {off : Word} {taken : List Word → Bool} {d : Chip} {g : Fills}
  {ops : List Word}

/-- A command that branches: taken to a usable target, taken to one that is not, and not taken, where `p` is the condition
for it and `q` the one against it. -/
theorem leaves_branch {p q : Prop} (hk : isCore k = true)
    (hi : exec i s = onUnit (isCore k) s (fun c => branchWord c k op len off taken))
    (h : starts s.chip k false op 0 d g ops) (hs : ownSpills s.chip k g (opEffect op).1 [])
    (hp : p → taken ops = true) (hq : q → taken ops = false) :
    (p → usable (relTarget s.chip k off).toNat →
      leaves i s (fun t => PlainDone s.chip t k g (opEffect op).1 [] (relTarget s.chip k off).toNat)) ∧
    (p → ¬ usable (relTarget s.chip k off).toNat →
      leaves i s (fun t => t = trapEntry d k (preciseRec d k 0x02 false (relTarget s.chip k off).toNat))) ∧
    (q → leaves i s (fun t => PlainDone s.chip t k g (opEffect op).1 [] ((coreOf s.chip k).pc + len))) :=
  ⟨fun ht hu => leaves_of_onCore hk hi (branchWord_taken h hs (hp ht) hu),
    fun ht hu => leaves_of_onCore hk hi (branchWord_trap h (hp ht) hu),
    fun ht => leaves_of_onCore hk hi (branchWord_not_taken h hs (hq ht))⟩

/-- A command that branches always. -/
theorem leaves_branch_always (hk : isCore k = true)
    (hi : exec i s = onUnit (isCore k) s (fun c => branchWord c k op len off (fun _ => true)))
    (h : starts s.chip k false op 0 d g ops) (hs : ownSpills s.chip k g (opEffect op).1 []) :
    (usable (relTarget s.chip k off).toNat →
      leaves i s (fun t => PlainDone s.chip t k g (opEffect op).1 [] (relTarget s.chip k off).toNat)) ∧
    (¬ usable (relTarget s.chip k off).toNat →
      leaves i s (fun t => t = trapEntry d k (preciseRec d k 0x02 false (relTarget s.chip k off).toNat))) := by
  obtain ⟨hgo, htrap, -⟩ := leaves_branch (p := True) (q := False) hk hi h hs (fun _ => rfl) False.elim
  exact ⟨hgo trivial, htrap trivial⟩

end Commands

/-- Settles O12: each word is a branch with its own condition, judged before its target is. -/
theorem branchWords : Obligations.BranchWords := by
  unfold Obligations.BranchWords
  intro s k d g ops hk pc short long traps
  have hbnz (h : ops.getD 0 0 ≠ 0) : (!condZero ops) = true := by rw [condZero_of_ne h]; rfl
  have hbnz' (h : ops.getD 0 0 = 0) : (!condZero ops) = false := by rw [condZero_of_eq h]; rfl
  exact ⟨fun f h hs => leaves_branch_always hk (exec_br k f s) h hs,
    fun x h hs => leaves_branch_always hk (exec_brx k x s) h hs,
    fun f h hs => leaves_branch hk (exec_bz k f s) h hs condZero_of_eq condZero_of_ne,
    fun f h hs => leaves_branch hk (exec_bnz k f s) h hs hbnz hbnz',
    fun x h hs => leaves_branch hk (exec_bzx k x s) h hs condZero_of_eq condZero_of_ne,
    fun x h hs => leaves_branch hk (exec_bnzx k x s) h hs hbnz hbnz'⟩

end Sys2Proof.Machine
end

section
/-! PROOFS. Encode, then decode (R131 to R151): the field of an instruction read back from its word, form by form. -/

namespace Sys2Proof

/-! ### An instruction read back from its word -/

section ReadBack

variable (s z : BitVec 2) (g : Bool)

theorem loadField_lt : loadField s z g < 32 := by
  have hs := s.isLt; have hz := z.isLt
  unfold loadField
  split <;> omega

theorem loadField_slot : BitVec.ofNat 2 (loadField s z g) = s := by
  have hs := s.isLt; have hz := z.isLt
  apply BitVec.eq_of_toNat_eq
  rw [BitVec.toNat_ofNat, loadField]
  split <;> omega

theorem loadField_size : BitVec.ofNat 2 (loadField s z g / 4) = z := by
  have hs := s.isLt; have hz := z.isLt
  apply BitVec.eq_of_toNat_eq
  rw [BitVec.toNat_ofNat, loadField]
  split <;> omega

theorem loadField_signed : decide (16 ≤ loadField s z g) = g := by
  have hs := s.isLt; have hz := z.isLt
  cases g <;> simp [loadField]; omega

theorem slotField_lt : (s.toNat + if g then 4 else 0) < 8 := by
  have hs := s.isLt
  split <;> omega

theorem slotField_slot : BitVec.ofNat 2 (s.toNat + if g then 4 else 0) = s := by
  have hs := s.isLt
  apply BitVec.eq_of_toNat_eq
  rw [BitVec.toNat_ofNat]
  split <;> omega

theorem slotField_unsigned : decide (4 ≤ s.toNat + if g then 4 else 0) = g := by
  have hs := s.isLt
  cases g <;> simp; omega

end ReadBack

/-- The coprocessor's opcodes reach the decoder's last case. -/
theorem decodeWord_cp (lu : Bool) (x : IWord) {o f : Nat} (hlu : lu = false) (ho : 0x70 ≤ o) (ho' : o ≤ 0x77) (hf : f < 128) :
    decodeWord lu (longWord o f) x = some (.cp (BitVec.ofNat 3 (o - 0x70)) (BitVec.ofNat 2 f) (BitVec.ofNat 5 (f / 4))) := by
  simp only [decodeWord, longWord_opcode (by omega : o < 256) (by omega : f < 256),
    longWord_field (by omega : o < 256) (by omega : f < 256), if_neg (by omega : ¬ 128 ≤ o)]
  split
  case h_51 => exact if_pos (by simp [hlu, ho, ho', hf])
  all_goals omega

/-- Settles O4: the decoder reads back the opcode and the field that the encoder wrote; what is left is each field's own
arithmetic, and for a reserved value the instruction's own condition. -/
theorem decodeOfEncode : Obligations.DecodeOfEncode := by
  unfold Obligations.DecodeOfEncode
  intro lu op hwf
  cases op with
  | pair a b =>
    have ha := a.isLt
    have hb := b.isLt
    have hodd : ¬ b.toNat * 2 % 2 = 1 := by omega
    rw [encodeWord, pairWord_eq_longWord, decodeWord_pair lu 0 (by omega) (by omega) (by omega), if_neg hodd,
      Nat.add_sub_cancel_left, Nat.mul_div_cancel _ Nat.two_pos, if_pos (by simpa [CoreOp.wf] using hwf), BitVec.ofNat_toNat, BitVec.ofNat_toNat]
    rfl
  -- a field of eight bits
  | lit f | addi f | br f | bz f | bnz f | rep f | repi f | trap f =>
    simp [encodeWord, decodeWord, longWord_opcode _ f.isLt, longWord_field _ f.isLt]
  | csrr i => simpa [CoreOp.wf, encodeWord, decodeWord_csrr lu _ i.isLt] using hwf
  | csrw i => simpa [CoreOp.wf, encodeWord, decodeWord_csrw lu _ i.isLt] using hwf
  -- a field that is shorter
  | shli n | shri n | sari n | roli n | tas n | lr n | sc n | land n | putl n =>
    have hn := n.isLt
    have hlt : n.toNat < 256 := by omega
    simp [encodeWord, decodeWord, longWord_opcode _ hlt, longWord_field _ hlt, hn]
  | pick n =>
    have hn := n.isLt
    have hlt : n.toNat < 256 := by omega
    have hne : n.toNat ≠ 7 := fun h => of_decide_eq_true hwf (BitVec.eq_of_toNat_eq h)
    have h7 : n.toNat < 7 := by omega
    simp [encodeWord, decodeWord, longWord_opcode _ hlt, longWord_field _ hlt, h7]
  | waitl m =>
    have hm := m.isLt
    have hlt : m.toNat < 256 := by omega
    have hne : m.toNat ≠ 0 := fun h => of_decide_eq_true hwf (BitVec.eq_of_toNat_eq h)
    simp [encodeWord, decodeWord, longWord_opcode _ hlt, longWord_field _ hlt, hm, hne]
  -- the fields of LDR and AGREE, STR, MUL and DIV, and of the coprocessor's operations
  | ldr s z g | agree s z g =>
    have hlt := loadField_lt s z g
    have hlt' : loadField s z g < 256 := by omega
    have hsgn : 16 ≤ loadField s z g ↔ g = true := by
      simpa only [decide_eq_true_eq] using (congrArg (· = true) (loadField_signed s z g)).to_iff
    simpa [CoreOp.wf, encodeWord, decodeWord, longWord_opcode _ hlt', longWord_field _ hlt', hlt, loadField_slot,
      loadField_size, hsgn, ← imp_iff_not_or] using hwf
  | str z =>
    have hz := z.isLt
    have hlt : 4 * z.toNat < 256 := by omega
    have hlt' : 4 * z.toNat < 16 := by omega
    have hslot : BitVec.ofNat 2 (4 * z.toNat) = 0 := BitVec.eq_of_toNat_eq (by simp)
    simpa [CoreOp.wf, encodeWord, decodeWord, longWord_opcode _ hlt, longWord_field _ hlt, hlt', hslot] using hwf
  | mul s u | div s u =>
    have hlt := slotField_lt s u
    have hslot := slotField_slot s u
    have huns := slotField_unsigned s u
    rw [encodeWord]
    generalize (s.toNat + if u then 4 else 0) = f at hlt hslot huns ⊢
    have hlt' : f < 256 := by omega
    simp [decodeWord, longWord_opcode _ hlt', longWord_field _ hlt', hlt, hslot, huns]
  | cp op s t =>
    have hop := op.isLt
    have hs := s.isLt
    have ht := t.isLt
    have hlu : lu = false := by simpa [CoreOp.wf] using hwf
    rw [encodeWord, decodeWord_cp lu 0 hlu (by omega) (by omega) (by omega)]
    refine congrArg some ?_
    congr 1 <;> (apply BitVec.eq_of_toNat_eq; rw [BitVec.toNat_ofNat]; omega)
  | wait t => cases t <;> simp [encodeWord, decodeWord, longWord]
  -- no field, with or without an extension word
  | litx x | lithi x | brx x | bzx x | bnzx x | call x | calli | ret | jmpi | tor | fromr | rget | rdrop | send | recv | sendt
    | recvt | sleep | ckpt | fence | sync | ifence | rett => simp [encodeWord, decodeWord, longWord]

end Sys2Proof
end

section
/-! PROOFS. Every command completes: the device as a whole or one unit of it is changed, never the queue. -/

namespace Sys2Proof.Machine

open Sys2Proof

theorem onChip_next (s : State) (f : Chip → Chip) : ∃ t, onChip s f = .next t ∧ t.pending = s.pending := ⟨_, rfl, rfl⟩

/-- A command answers a next state and leaves the queue. The commands named have no operand for a unit; each other one names
a unit, which may not exist. -/
theorem exec_next (i : Instr) (s : State) : ∃ t, exec i s = .next t ∧ t.pending = s.pending := by
  cases i with
  | frameStart | timeNoteDue | noteFetch | noteIssue | speedWindow | stagingEnd | gatherRecord | gatherComplete | timeBaseStep
    | tbloRead | tcxoStart | clkPllenWrite | clockSwitch | switchComplete | autoSwitch | perstRelease | handshakeAnswer
    | deferralLimit | temperatureSample | vinSample | supplyLimit | supplyLimitEnd | watchPeriod | brownOut | owedErase
    | presLateLoss | inputLoss | overvoltage | bankCharged | holdUpExhausted | presenceDebounce | strapSample | firmwareCheck
    | bodyCopyDone | bootComplete | perPowered | drainComplete | drainLimit | perSwitchOff | removalRecordWritten
    | wakeFromWatch | wakeFromHibernate | pegStatus | pegIdent | pegAttach | pegDetach | pegWake | pegReset | dumpWritten
    | dumpFlashCopyDone | dumpSlotEraseDone | flashOpDone | retTestForce | commandTake | nopCommand | ident | devStat
    | configure | halt | resume | recover | detach | powerMode | island | domain | course | handover | tunerTest | memRead
    | memWrite | regRead | regWrite | droneSet | linkNode | keySet | dumpRead | flashErase | flashWrite | chanOpen | chanClose
    | chanStat | tabOpen | tabWrite | tabVerify | tabArm | tabCancel | tabStat | luthierEventSample | edgRaise | edgCtlWrite
    | hpopRead | hcompleteWrite =>
    unfold exec
    exact onChip_next s _
  | _ =>
    unfold exec
    exact onUnit_next s _ _

/-- Settles O2: by the two cases of the queue. -/
theorem stepsComplete : Obligations.StepsComplete := by
  unfold Obligations.StepsComplete
  intro s
  unfold step
  split
  case h_1 i rest hq =>
    rw [hq]
    exact exec_next i { s with pending := rest }
  case h_2 hq => exact ⟨_, rfl, by rw [hq]; rfl⟩

end Sys2Proof.Machine
end

section
/-! PROOFS. The start of a word (R84, R89, R110, R116): its fetch from a line buffer, and the tests before it executes. -/

namespace Sys2Proof.Machine

open Sys2Proof Sys2Proof.Safety

/-! ### Fetch from a line buffer -/

/-- The opcodes of REP and REPI decode to them, whatever stands behind. -/
theorem decodeWord_rep (lu : Bool) (w x : IWord) :
    (w.toNat / 256 = 0x1E → ∃ f, decodeWord lu w x = some (.rep f)) ∧
      (w.toNat / 256 = 0x1F → ∃ f, decodeWord lu w x = some (.repi f)) := by
  constructor <;> intro ho <;> exact ⟨BitVec.ofNat 8 (w.toNat % 256), by simp [decodeWord, ho]⟩

theorem fetchable_iff_usable {a : Nat} : fetchable a = true ↔ usable a := by
  simp only [fetchable, usable, Bool.and_eq_true, decide_eq_true_eq]

/-- A word of one place at hand in a line buffer is fetched from it: the buffer becomes the most recently used one. -/
theorem fetchInstr_line {c : Chip} {k a : Nat} {l : Line} (hu : usable a)
    (hl : (coreOf c k).lines.find? (fun x => decide (x.base = a / 16 * 16)) = some l)
    (hx : needsExt (l.words.getD (a % 16 / 2) 0) = false)
    (h1E : (l.words.getD (a % 16 / 2) 0).toNat / 256 ≠ 0x1E) (h1F : (l.words.getD (a % 16 / 2) 0).toNat / 256 ≠ 0x1F) :
    fetchInstr c k a = ⟨touchLine c k l, l.words.getD (a % 16 / 2) 0, 0, false, none⟩ := by
  have hf := fetchable_iff_usable.mpr hu
  have hw : fetchWord c k a = (touchLine c k l, l.words.getD (a % 16 / 2) 0, false) := by
    unfold fetchWord
    simp only [hl]
  unfold fetchInstr
  simp only [hf, hw, hx, h1E, h1F, Bool.not_true, Bool.false_eq_true, decide_false, Bool.or_self, if_false]

/-- Outside a repetition the word at hand is the one fetched at the PC. -/
theorem atHand_line {c : Chip} {k : Nat} {l : Line} {op : CoreOp} (hrep : (coreOf c k).rep = none) (hu : usable (coreOf c k).pc)
    (hl : (coreOf c k).lines.find? (fun x => decide (x.base = (coreOf c k).pc / 16 * 16)) = some l)
    (hx : needsExt (l.words.getD ((coreOf c k).pc % 16 / 2) 0) = false) (hnr : ∀ f, op ≠ .rep f ∧ op ≠ .repi f)
    (hd : decodeWord (decide (courseNo k = luthierCourse)) (l.words.getD ((coreOf c k).pc % 16 / 2) 0) 0 = some op) :
    atHand c k false op = some (touchLine c k l, false) := by
  obtain ⟨hrepW, hrepiW⟩ := decodeWord_rep (decide (courseNo k = luthierCourse)) (l.words.getD ((coreOf c k).pc % 16 / 2) 0) 0
  have h1E : (l.words.getD ((coreOf c k).pc % 16 / 2) 0).toNat / 256 ≠ 0x1E := fun h => by
    obtain ⟨f, hf⟩ := hrepW h
    exact (hnr f).1 (Option.some.inj (hd.symm.trans hf))
  have h1F : (l.words.getD ((coreOf c k).pc % 16 / 2) 0).toNat / 256 ≠ 0x1F := fun h => by
    obtain ⟨f, hf⟩ := hrepiW h
    exact (hnr f).2 (Option.some.inj (hd.symm.trans hf))
  have hop : isRepOp op = false := by
    cases op with
    | rep f => exact absurd rfl (hnr f).1
    | repi f => exact absurd rfl (hnr f).2
    | _ => rfl
  unfold atHand
  simp only [hrep, fetchInstr_line hu hl hx h1E h1F, hd, hop, Option.isNone_none, Bool.false_eq_true, true_or, and_self, if_false,
    if_true]

/-! ### The tests before a word -/

/-- What a fetch leaves as it was, of what the tests of a word look at beside its own core's stack and CSRs. -/
theorem fetched_reqUp {c d : Chip} {k : Nat} (h : JustFetched c d k) : reqUp d k = reqUp c k := by
  obtain ⟨_, _, _, hr⟩ := h.rest
  rw [hr]; rfl

theorem fetched_storeRoom {c d : Chip} {k : Nat} (h : JustFetched c d k) (n : Nat) : storeRoom d k n = storeRoom c k n := by
  obtain ⟨l, hl⟩ := h.core
  obtain ⟨cs, r, b, hr⟩ := h.rest
  have hcourse : courseOf d (courseNo k) = courseOf c (courseNo k) := by rw [hr]; rfl
  unfold storeRoom storeOut ownAtomic
  rw [hcourse, fetched_inUnison h, hl]

theorem intDue_of_reqUp {c : Chip} {k : Nat} (h : reqUp c k = false) : intDue c k = false := by
  simp [intDue, h]

theorem orderRun_split {c : Chip} {k : Nat} (h : inUnison c (courseNo k) = false) : orderRun c k = true := by
  simp [orderRun, h]

/-- A string in split that runs, waits for nothing, has no trap due and replays nothing stands at a word. -/
theorem atWord_split {c : Chip} {k : Nat} (hr : running c k = true) (hu : inUnison c (courseNo k) = false)
    (hw : (coreOf c k).wait = none) (hi : (coreOf c k).itraps = []) (hl : (courseOf c (courseNo k)).log = []) :
    atWord c k = true := by
  simp [atWord, hr, hw, itrapDue, hi, asyncNow, asyncNext, hu, hl]

/-- A word at hand whose operands are in hardware and whose results fit passes to its execution. -/
theorem starts_of_atHand {c d : Chip} {k n : Nat} {rep : Bool} {op : CoreOp} (hw : atWord c k = true)
    (hh : atHand c k rep op = some (d, false)) (hu : inUnison c (courseNo k) = false) (hreq : reqUp c k = false)
    (htake : (opEffect op).1 ≤ (coreOf c k).stk.length)
    (hfit : (coreOf c k).stk.length - (opEffect op).1 + (opEffect op).2 ≤ 8)
    (hlo : (csrVal c k 0x08).toNat ≤ (csrVal c k 0x0A).toNat) (hhi : (csrVal c k 0x0A).toNat ≤ (csrVal c k 0x09).toNat)
    (hrs : rsTest c k op = none) (hroom : storeRoom c k n = true) :
    starts c k rep op n d ⟨(coreOf c k).stk, 0⟩ ((coreOf c k).stk.take (opEffect op).1) := by
  have hF := atHand_only hh
  have hstk : (coreOf d k).stk = (coreOf c k).stk := by
    obtain ⟨l, hl⟩ := hF.core
    rw [hl]
  have hfill : (opEffect op).1 - (coreOf c k).stk.length = 0 := by omega
  have hspill : (coreOf c k).stk.length - (opEffect op).1 + (opEffect op).2 - 8 = 0 := by omega
  have hst : stackTest d k 0 0 = none := by
    simp only [← fetched_csrVal hF] at hlo hhi
    exact stackTest_within hlo hhi
  have hint : intDue d k = false := intDue_of_reqUp (by rwa [fetched_reqUp hF])
  have hord : orderRun d k = true := orderRun_split (by rwa [fetched_inUnison hF])
  unfold starts begin_
  simp only [hw, hh, hstk, hfill, hspill, hst, fetched_rsTest hF, hrs, readFills, hint, hord, Nat.add_zero,
    fetched_storeRoom hF, hroom, Bool.not_true, Bool.false_eq_true, if_false, List.append_nil,
    or_self, Bool.true_eq_false, Nat.add_zero]

/-- Settles O6: the word is at hand in its line buffer, and with its operands in hardware no test stops it. -/
theorem wordStarts : Obligations.WordStarts := by
  unfold Obligations.WordStarts
  intro c k op l n hr hu hw hrep hi hreq hlog hpc hl hx hnr hd htake hfit hlo hhi hrs hroom
  have hh := atHand_line hrep hpc hl hx hnr hd
  exact ⟨_, starts_of_atHand (atWord_split hr hu hw hi hlog) hh hu hreq htake hfit hlo hhi hrs hroom, atHand_only hh⟩

end Sys2Proof.Machine
end

section
/-! PROOFS. The arithmetic of the short operations (R141, R160 to R162): each operation's result in terms of the words' own
operations, at every operand. -/

namespace Sys2Proof.Machine

open Sys2Proof Sys2Proof.Safety

/-! ### Sums and differences -/

theorem outside_eq_overflows (i : Int) : outside i = overflows i := by
  simp [outside, overflows]

theorem addFlags_eq (a b : Word) (cin : Bool) : addFlags a b cin =
    ⟨a + b + wd (b1 cin), some (decide (2 ^ 32 ≤ a.toNat + b.toNat + b1 cin)), overflows (a.toInt + b.toInt + b1 cin)⟩ := by
  have hval : BitVec.ofNat 32 (a.toNat + b.toNat + b1 cin) = a + b + wd (b1 cin) := by
    simp only [BitVec.ofNat_add, BitVec.ofNat_toNat, BitVec.setWidth_eq, wd]
  rw [← hval, ← outside_eq_overflows]
  rfl

theorem subFlags_eq (a b : Word) (cin : Bool) : subFlags a b cin =
    ⟨a - b - wd (b1 cin), some (decide (a.toNat < b.toNat + b1 cin)), overflows (a.toInt - b.toInt - b1 cin)⟩ := by
  rw [← outside_eq_overflows]
  rfl

theorem absFlags_val (a : Word) : (absFlags a).val = if a.toInt < 0 then 0 - a else a := by
  have ha := a.isLt
  unfold absFlags
  have hneg : a.toInt < 0 ↔ ¬ a.toNat < 2 ^ 31 := by
    rw [BitVec.toInt_eq_toNat_cond]
    split <;> omega
  have hsub : 0 - a = -a := BitVec.zero_sub a
  simp only [hneg, ite_not, hsub]

/-! ### Shifts -/

theorem shl_eq (a n : Word) : shl a n = a <<< n.toNat := by
  unfold shl
  split
  · rfl
  · exact (BitVec.shiftLeft_eq_zero (by omega)).symm

theorem shr_eq (a n : Word) : shr a n = a >>> n.toNat := by
  unfold shr
  split
  · rfl
  · exact (BitVec.ushiftRight_eq_zero (by omega)).symm

theorem sar_eq (a n : Word) : sar a n = a.sshiftRight n.toNat := by
  unfold sar
  split
  · rfl
  · have hmsb : a.msb = decide (2 ^ 31 ≤ a.toNat) := BitVec.msb_eq_decide a
    split
    · rw [BitVec.sshiftRight_eq_of_msb_false (by rw [hmsb]; exact decide_eq_false (by omega)), BitVec.ushiftRight_eq_zero (by omega)]
      rfl
    · rw [BitVec.sshiftRight_eq_of_msb_true (by rw [hmsb]; exact decide_eq_true (by omega)), BitVec.ushiftRight_eq_zero (by omega)]
      rfl

/-! ### Orders -/

/-- Of two words a weak and a strict order choose the same where they differ only on equal words. -/
theorem ite_weak_eq_strict {p q : Prop} [Decidable p] [Decidable q] {x y : Word} (hqp : q → p) (hpq : p → ¬ q → x = y) :
    (if p then x else y) = if q then x else y := by
  by_cases hq : q
  · rw [if_pos hq, if_pos (hqp hq)]
  · rw [if_neg hq]
    split
    next hp => exact hpq hp hq
    next => rfl

section Choice

variable (a b : Word)

theorem slt_of_toInt : (a.slt b = true → a.toInt ≤ b.toInt) ∧ (a.toInt ≤ b.toInt → ¬ a.slt b = true → a = b) := by
  rw [BitVec.slt_iff_toInt_lt]
  exact ⟨Int.le_of_lt, fun hle hlt => BitVec.eq_of_toInt_eq (by omega)⟩

theorem ult_of_toNat : (a.ult b = true → a.toNat ≤ b.toNat) ∧ (a.toNat ≤ b.toNat → ¬ a.ult b = true → a = b) := by
  rw [BitVec.ult_iff_lt, BitVec.lt_def]
  exact ⟨Nat.le_of_lt, fun hle hlt => BitVec.eq_of_toNat_eq (by omega)⟩

end Choice

/-! ### Extension and leading zeros -/

theorem sext_eq {n : Nat} (hn : 0 < n) (hn' : n ≤ 32) (a : Word) : sext n a = (a.extractLsb' 0 n).signExtend 32 := by
  have hpow : 2 ^ n = 2 * 2 ^ (n - 1) := by rw [← pow_succ', Nat.sub_add_cancel hn]
  have hle : 2 ^ n ≤ 2 ^ 32 := Nat.pow_le_pow_right (by decide) hn'
  have hlt : a.toNat % 2 ^ n < 2 ^ n := Nat.mod_lt _ (Nat.two_pow_pos n)
  have hmsb : (a.extractLsb' 0 n).msb = decide (2 ^ (n - 1) ≤ a.toNat % 2 ^ n) := by
    rw [BitVec.msb_eq_decide, BitVec.extractLsb'_toNat, Nat.shiftRight_zero]
  apply BitVec.eq_of_toNat_eq
  rw [BitVec.toNat_signExtend, BitVec.toNat_setWidth, BitVec.extractLsb'_toNat, Nat.shiftRight_zero, hmsb]
  unfold sext wd
  dsimp only
  split
  next h => rw [BitVec.toNat_ofNat, if_neg (by simpa using h)]; rfl
  next h =>
    rw [BitVec.toNat_ofNat, if_pos (by simpa using h), Nat.mod_eq_of_lt (by omega), Nat.mod_eq_of_lt (by omega : a.toNat % 2 ^ n < 2 ^ 32)]

theorem clzFrom_le (a k : Nat) : clzFrom a k ≤ k := by
  induction k with
  | zero => exact Nat.le_refl 0
  | succ k ih =>
    unfold clzFrom
    split <;> omega

/-- The zeros counted leave a number with its top bit set, or 0. -/
theorem clzFrom_bounds (a k : Nat) : a % 2 ^ k < 2 ^ (k - clzFrom a k) ∧
    (clzFrom a k < k → 2 ^ (k - 1 - clzFrom a k) ≤ a % 2 ^ k) := by
  induction k with
  | zero => simp [clzFrom, Nat.mod_one]
  | succ k ih =>
    obtain ⟨hlt, hge⟩ := ih
    have hmod := Nat.mod_pow_succ (x := a) (b := 2) (k := k)
    have hle := clzFrom_le a k
    unfold clzFrom
    split
    next hbit =>
      refine ⟨by simpa using Nat.mod_lt a (Nat.two_pow_pos (k + 1)), fun _ => ?_⟩
      rw [hmod, hbit]
      simp
    next hbit =>
      have h0 : a % 2 ^ (k + 1) = a % 2 ^ k := by
        have : a / 2 ^ k % 2 = 0 := by omega
        rw [hmod, this, Nat.mul_zero, Nat.add_zero]
      rw [h0, Nat.add_comm 1, Nat.add_sub_add_right]
      refine ⟨hlt, fun h => ?_⟩
      have hsub : k + 1 - 1 - (clzFrom a k + 1) = k - 1 - clzFrom a k := by omega
      rw [hsub]
      exact hge (by omega)

/-- CLZ (R141). -/
theorem clz_spec (a : Word) : ∃ n, n ≤ 32 ∧ clz a = wd n ∧ a.toNat < 2 ^ (32 - n) ∧ (n < 32 → 2 ^ (31 - n) ≤ a.toNat) := by
  have h := clzFrom_bounds a.toNat 32
  rw [Nat.mod_eq_of_lt a.isLt] at h
  exact ⟨clzFrom a.toNat 32, clzFrom_le _ _, rfl, h⟩

/-! ### Every operation -/

theorem bw_decide (p : Prop) [Decidable p] : bw (decide p) = if p then 1 else 0 := by
  unfold bw
  simp only [decide_eq_true_eq]

theorem setWidth_extract_low (a : Word) (n : Nat) : wd (a.toNat % 2 ^ n) = (a.extractLsb' 0 n).setWidth 32 := by
  apply BitVec.eq_of_toNat_eq
  rw [BitVec.toNat_setWidth, BitVec.extractLsb'_toNat, Nat.shiftRight_zero, wd, BitVec.toNat_ofNat]

/-- Settles O9: operation by operation, from the arithmetic above; stack words and logic by the table itself. -/
theorem shortOperations : Obligations.ShortOperations := by
  unfold Obligations.ShortOperations
  intro a b z cin
  obtain ⟨hslt, hslt'⟩ := slt_of_toInt a b
  obtain ⟨hult, hult'⟩ := ult_of_toNat a b
  have results {v w : Word} (h : v = w) : ([v], (none : Option Bool), false) = ([w], none, false) := by rw [h]
  refine ⟨rfl, rfl, rfl, rfl, rfl, rfl, rfl, rfl, rfl, rfl, rfl, ?add, ?sub, ?adc, ?sbb, ?neg, ?abs, rfl, rfl, rfl, rfl, rfl,
    rfl, ?shl, ?shr, ?sar, rfl, rfl, ?min, ?max, ?umin, ?umax, ?sext8, ?sext16, ?zext8, ?zext16, ?clz, ?sel, ?eq, ?ne, ?lt,
    ?le, ?ult, ?ule, ?eqz, ?ltz⟩
  case add => simp [shortResult, addFlags_eq, b1, wd]
  case sub => simp [shortResult, subFlags_eq, b1, wd]
  case adc => simp [shortResult, addFlags_eq]
  case sbb => simp [shortResult, subFlags_eq]
  case neg => simp [shortResult, negFlags]
  case abs => exact congrArg (fun w : Word => ([w], none, decide (a = 0x80000000))) (absFlags_val a)
  case shl => simp [shortResult, shl_eq]
  case shr => simp [shortResult, shr_eq]
  case sar => simp [shortResult, sar_eq]
  case min => exact results (ite_weak_eq_strict hslt hslt')
  case max => exact results (ite_weak_eq_strict hslt fun h h' => (hslt' h h').symm)
  case umin => exact results (ite_weak_eq_strict hult hult')
  case umax => exact results (ite_weak_eq_strict hult fun h h' => (hult' h h').symm)
  case sext8 => simp [shortResult, sext_eq]
  case sext16 => simp [shortResult, sext_eq]
  case zext8 => simp [shortResult, ← setWidth_extract_low]
  case zext16 => simp [shortResult, ← setWidth_extract_low]
  case clz =>
    obtain ⟨n, hn, hval, hlt, hge⟩ := clz_spec a
    exact ⟨n, hn, by simp [shortResult, hval], hlt, hge⟩
  case sel => simp [shortResult]
  case eq => simp [shortResult, bw_decide]
  case ne => simp [shortResult, bw]
  case lt => simp [shortResult, bw_decide, BitVec.slt_iff_toInt_lt]
  case le => simp [shortResult, bw_decide, BitVec.sle_iff_toInt_le]
  case ult => simp [shortResult, bw_decide, BitVec.ult_iff_lt, BitVec.lt_def]
  case ule => simp [shortResult, bw_decide, BitVec.ule_iff_le, BitVec.le_def]
  case eqz => simp [shortResult, bw_decide]
  case ltz => simp [shortResult, bw_decide, BitVec.slt_iff_toInt_lt]

end Sys2Proof.Machine
end

section
/-! PROOFS. Bit fields of words (R8): what a field or a bit is after one has been set. -/

namespace Sys2Proof.Machine

open Sys2Proof

theorem bit_eq_testBit (w : Word) (i : Nat) : bit w i = w.toNat.testBit i := (Nat.testBit_eq_decide_div_mod_eq).symm

theorem bit_eq_getLsbD (w : Word) (i : Nat) : bit w i = w.getLsbD i := bit_eq_testBit w i

/-- Words of the same bits are equal. -/
theorem word_ext {v w : Word} (h : ∀ i, bit v i = bit w i) : v = w :=
  BitVec.eq_of_getLsbD_eq fun i _ => by rw [← bit_eq_getLsbD, ← bit_eq_getLsbD, h]

theorem bit_of_ge (w : Word) {i : Nat} (h : 32 ≤ i) : bit w i = false := by
  rw [bit_eq_getLsbD, BitVec.getLsbD_of_ge w i h]

@[simp] theorem bit_or (v w : Word) (i : Nat) : bit (v ||| w) i = (bit v i || bit w i) := by
  simp only [bit_eq_getLsbD, BitVec.getLsbD_or]

@[simp] theorem bit_and (v w : Word) (i : Nat) : bit (v &&& w) i = (bit v i && bit w i) := by
  simp only [bit_eq_getLsbD, BitVec.getLsbD_and]

theorem bit_wd {n i : Nat} (h : i < 32) : bit (wd n) i = n.testBit i := by
  rw [bit_eq_getLsbD, wd, BitVec.getLsbD_ofNat, decide_eq_true h, Bool.true_and]

theorem testBit_bits (w : Word) (hi lo j : Nat) : (bits w hi lo).testBit j = (decide (j < hi + 1 - lo) && bit w (lo + j)) := by
  rw [bits, Nat.testBit_mod_two_pow, Nat.testBit_div_two_pow, bit_eq_testBit, Nat.add_comm j lo]

/-- Fields of the same bits are equal. -/
theorem bits_congr {v w : Word} {hi lo : Nat} (h : ∀ i, lo ≤ i → i ≤ hi → bit v i = bit w i) : bits v hi lo = bits w hi lo := by
  apply Nat.eq_of_testBit_eq
  intro j
  rw [testBit_bits, testBit_bits]
  by_cases hj : j < hi + 1 - lo
  · rw [h (lo + j) (by omega) (by omega)]
  · simp [hj]

theorem bits_lt (w : Word) (hi lo : Nat) : bits w hi lo < 2 ^ (hi + 1 - lo) := Nat.mod_lt _ (Nat.two_pow_pos _)

/-- The number that stands for a word with one field replaced: what lies above the field, the field, what lies beneath. -/
theorem replaceField_eq (n lo m v : Nat) : n - n / 2 ^ lo % 2 ^ m * 2 ^ lo + v % 2 ^ m * 2 ^ lo =
    2 ^ lo * (2 ^ m * (n / 2 ^ lo / 2 ^ m) + v % 2 ^ m) + n % 2 ^ lo := by
  have h1 := Nat.div_add_mod n (2 ^ lo)
  have h2 := Nat.div_add_mod (n / 2 ^ lo) (2 ^ m)
  generalize n % 2 ^ lo = C at *
  generalize hq : n / 2 ^ lo = q at *
  generalize q / 2 ^ m = A at *
  generalize q % 2 ^ m = B at *
  generalize v % 2 ^ m = V
  have h3 : n = 2 ^ lo * (2 ^ m * A) + B * 2 ^ lo + C := by rw [← h1, ← h2]; ring
  have h4 : 2 ^ lo * (2 ^ m * A + V) = 2 ^ lo * (2 ^ m * A) + V * 2 ^ lo := by ring
  omega

/-- A bit of a word in which one field is set. -/
theorem bit_setBits (w : Word) {hi lo : Nat} (v i : Nat) (hlo : lo ≤ hi) (hhi : hi < 32) :
    bit (setBits w hi lo v) i = if lo ≤ i ∧ i ≤ hi then v.testBit (i - lo) else bit w i := by
  by_cases hi32 : i < 32
  · have hn : (setBits w hi lo v) = BitVec.ofNat 32 (2 ^ lo * (2 ^ (hi + 1 - lo) * (w.toNat / 2 ^ lo / 2 ^ (hi + 1 - lo)) +
        v % 2 ^ (hi + 1 - lo)) + w.toNat % 2 ^ lo) := congrArg (BitVec.ofNat 32) (replaceField_eq _ _ _ _)
    rw [bit_eq_getLsbD, hn, BitVec.getLsbD_ofNat, decide_eq_true hi32, Bool.true_and,
      Nat.testBit_two_pow_mul_add _ (Nat.mod_lt _ (Nat.two_pow_pos _))]
    by_cases h1 : i < lo
    · rw [if_pos h1, if_neg (by omega), Nat.testBit_mod_two_pow, decide_eq_true h1, Bool.true_and, bit_eq_testBit]
    · rw [if_neg h1, Nat.testBit_two_pow_mul_add _ (Nat.mod_lt _ (Nat.two_pow_pos _))]
      by_cases h2 : i ≤ hi
      · rw [if_pos (by omega), if_pos ⟨by omega, h2⟩, Nat.testBit_mod_two_pow, decide_eq_true (by omega), Bool.true_and]
      · rw [if_neg (by omega), if_neg (by omega), Nat.testBit_div_two_pow, Nat.testBit_div_two_pow, bit_eq_testBit]
        congr 1; omega
  · rw [bit_of_ge _ (by omega), if_neg (by omega), bit_of_ge _ (by omega)]

theorem bit_setBits_same (w : Word) {i : Nat} (b : Bool) (h : i < 32) : bit (setBits w i i (b1 b)) i = b := by
  rw [bit_setBits w _ _ (Nat.le_refl i) h, if_pos ⟨Nat.le_refl i, Nat.le_refl i⟩, Nat.sub_self]
  cases b <;> rfl

theorem bit_setBits_apart (w : Word) {hi lo i : Nat} (v : Nat) (hlo : lo ≤ hi) (hhi : hi < 32) (h : i < lo ∨ hi < i) :
    bit (setBits w hi lo v) i = bit w i := by
  rw [bit_setBits w _ _ hlo hhi, if_neg (by omega)]

theorem bits_setBits_same (w : Word) {hi lo : Nat} (v : Nat) (hlo : lo ≤ hi) (hhi : hi < 32) :
    bits (setBits w hi lo v) hi lo = v % 2 ^ (hi + 1 - lo) := by
  apply Nat.eq_of_testBit_eq
  intro j
  rw [testBit_bits, bit_setBits w _ _ hlo hhi, Nat.testBit_mod_two_pow]
  by_cases hj : j < hi + 1 - lo
  · rw [if_pos ⟨by omega, by omega⟩, Nat.add_sub_cancel_left]
  · simp [hj]

theorem bits_setBits_apart (w : Word) {hi lo hi' lo' : Nat} (v : Nat) (hlo : lo ≤ hi) (hhi : hi < 32)
    (h : hi' < lo ∨ hi < lo') : bits (setBits w hi lo v) hi' lo' = bits w hi' lo' :=
  bits_congr fun i h1 h2 => bit_setBits_apart w v hlo hhi (by omega)

end Sys2Proof.Machine
end

section
/-! PROOFS. Words of the string alone: constants, arithmetic with a field, pairs that touch no memory (R131 to R136, R141 to
R143, R158 to R162), and the stack test before them (R89). -/

namespace Sys2Proof.Machine

open Sys2Proof Sys2Proof.Safety

/-! ### The stack test -/

/-- A word at hand for which there is too little beneath its entries, or too little room above them, ends in the trap of the stack
test, with SPTR as address (R89). -/
theorem begin_stackTrap {c d : Chip} {k n cause : Nat} {rep : Bool} {op : CoreOp}
    (check : List Word → Option (Nat × Bool × Nat)) (hw : atWord c k = true) (hu : inUnison c (courseNo k) = false)
    (hh : atHand c k rep op = some (d, false))
    (ht : stackTest c k ((opEffect op).1 - (coreOf c k).stk.length) ((coreOf c k).stk.length +
      ((opEffect op).1 - (coreOf c k).stk.length) - (opEffect op).1 + (opEffect op).2 - 8) = some cause) :
    begin_ c k rep op n check = .stop (trapEntry d k (preciseRec d k cause false (csrVal c k 0x0A).toNat)) := by
  have hF := atHand_only hh
  have hstk : (coreOf d k).stk = (coreOf c k).stk := by
    obtain ⟨l, hl⟩ := hF.core
    rw [hl]
  have hst (m l : Nat) : stackTest d k m l = stackTest c k m l := by
    unfold stackTest
    simp only [fetched_csrVal hF]
  have hord : orderTrap d k = true := orderTrap_split (by rwa [fetched_inUnison hF])
  unfold begin_
  simp only [hw, hh, hstk, hst, ht, preciseStop, hord, sptrOf, fetched_csrVal hF, Bool.not_true, Bool.false_eq_true, if_false,
    if_true]

theorem plainWord_stop {c d : Chip} {k : Nat} {rep : Bool} {op : CoreOp} (len : Nat)
    (f : Chip → List Word → Chip × List Word) (h : begin_ c k rep op 0 (fun _ => none) = .stop d) :
    plainWord c k rep op len f = d := by
  unfold plainWord
  rw [h]

theorem exec_lit (k : Nat) (rep : Bool) (f : BitVec 8) (s : State) :
    exec (.lit k rep f) s = onUnit (isCore k) s (fun c => xLit c k rep f) := rfl

theorem exec_addi (k : Nat) (rep : Bool) (f : BitVec 8) (s : State) :
    exec (.addi k rep f) s = onUnit (isCore k) s (fun c => xAddi c k rep f) := rfl

/-- Settles O7: the stack test of the word's own fills and spills fails, before anything else of the word. -/
theorem stackTraps : Obligations.StackTraps := by
  unfold Obligations.StackTraps
  intro s k f d hk hw hu
  refine ⟨fun hh hlen hlo hhi => ?_, fun hh hlen hlo => ?_⟩
  · refine exec_of_onCore hk (exec_lit k false f s) (plainWord_stop _ _ (begin_stackTrap _ hw hu hh ?_))
    simp only [opEffect, hlen, stackTest]
    rw [if_neg (by omega), if_pos (by omega)]
  · refine exec_of_onCore hk (exec_addi k false f s) (plainWord_stop _ _ (begin_stackTrap _ hw hu hh ?_))
    simp only [opEffect, hlen, stackTest, List.length_nil]
    rw [if_pos (by omega)]

/-! ### Flags -/

theorem oneCore_putFlags (c : Chip) (k : Nat) (cf : Option Bool) (v : Bool) : OneCore c (putFlags c k cf v) k :=
  oneCore_csrPut c k _ _

theorem csrVal_putFlags_other (c : Chip) (k : Nat) (cf : Option Bool) (v : Bool) {i : Nat} (h : i ≠ 0x01) :
    csrVal (putFlags c k cf v) k i = csrVal c k i := csrVal_csrPut_other c k _ h

/-- V set where a condition holds, in any word. -/
theorem bit_setOverflow (w : Word) (v : Bool) (i : Nat) :
    bit (if v then setBits w 1 1 1 else w) i = if i = 1 then bit w 1 || v else bit w i := by
  cases v with
  | false =>
    simp only [Bool.false_eq_true, if_false, Bool.or_false]
    split
    next h => rw [h]
    next => rfl
  | true =>
    rw [if_pos rfl, bit_setBits w _ _ (Nat.le_refl 1) (by decide), Bool.or_true]
    by_cases hi : i = 1
    · simp [hi]
    · rw [if_neg (by omega), if_neg hi]

/-- FLAGS once C is written and V set (R158, R159). -/
theorem flagsEnd_putFlags (c : Chip) (k : Nat) (cf : Option Bool) (v : Bool) : FlagsEnd c (putFlags c k cf v) k cf v := by
  cases cf with
  | none =>
    have hval : csrVal (putFlags c k none v) k 0x01 = _ := csrVal_csrPut_same c k 0x01 _
    refine ⟨?_, ?_, fun i hi => ?_⟩
    · rw [hval, bit_setOverflow, if_neg (by decide)]; rfl
    · rw [hval, bit_setOverflow, if_pos rfl]
    · rw [hval, bit_setOverflow, if_neg (by omega)]
  | some b =>
    have hval : csrVal (putFlags c k (some b) v) k 0x01 = _ := csrVal_csrPut_same c k 0x01 _
    refine ⟨?_, ?_, fun i hi => ?_⟩
    · rw [hval, bit_setOverflow, if_neg (by decide)]; exact bit_setBits_same _ _ (by decide)
    · rw [hval, bit_setOverflow, if_pos rfl, bit_setBits_apart _ _ (Nat.le_refl 0) (by decide) (by omega)]
    · rw [hval, bit_setOverflow, if_neg (by omega), bit_setBits_apart _ _ (Nat.le_refl 0) (by decide) (by omega)]

theorem flagsEnd_congr {c d e e' : Chip} {k : Nat} {cf : Option Bool} {v : Bool} (h : FlagsEnd d e k cf v)
    (hc : csrVal d k 0x01 = csrVal c k 0x01) (he : csrVal e' k 0x01 = csrVal e k 0x01) : FlagsEnd c e' k cf v := by
  obtain ⟨h0, h1, h2⟩ := h
  rw [hc] at h0 h1 h2
  rw [← he] at h0 h1 h2
  exact ⟨h0, h1, h2⟩

/-- A word that has changed its flags alone ends with those flags. -/
theorem flagDone_finish {c d : Chip} {k : Nat} {g : Fills} {n : Nat} {res : List Word} (cf : Option Bool) (v : Bool) (pc : Nat)
    (hF : JustFetched c d k) (hs : ownSpills c k g n res) :
    FlagDone c (finish (putFlags d k cf v) k g n res [] pc) k g n res cf v pc := by
  have hO := oneCore_putFlags d k cf v
  have hk := coreOf_csrPut_same d k 0x01
  have hspill : buffers c k ∨ (([] : List Store) = [] ∧ (stackEnd g n res).length ≤ 8) := hs.imp_right fun h => ⟨rfl, h⟩
  have hbuf : buffers c k → buffers (putFlags d k cf v) k := fun h => buffers_oneCore hO (fetched_buffers hF h)
  obtain ⟨⟨hsl, hfl⟩, hrs, hcsr⟩ := finish_keeps pc (hspill.imp_left hbuf)
  obtain ⟨⟨hsl0, hfl0⟩, hrs0⟩ := fetched_keeps hF
  have hsl1 : KeepsSlots d (putFlags d k cf v) k := by
    unfold KeepsSlots putFlags
    rw [hk]
    exact ⟨rfl, rfl⟩
  have hrs1 : KeepsRs d (putFlags d k cf v) k := keepsRs_csrPut d k _ _
  refine ⟨wordDone_finish hF hO ⟨_, _, _, _, _, _, hk _⟩ (fun i _ h1 => csrVal_putFlags_other d k cf v h1) hspill,
    flagsEnd_congr (flagsEnd_putFlags d k cf v) (fetched_csrVal hF _) (hcsr _ (by decide) (by decide)), ?_,
    ⟨hsl.trans (hsl1.1.trans hsl0), hfl.trans (hsl1.2.trans hfl0)⟩, keepsRs_trans hrs0 (keepsRs_trans hrs1 hrs)⟩
  rw [hcsr _ (by decide) (by decide), csrVal_putFlags_other d k cf v (by decide), fetched_csrVal hF]

/-! ### Words of the string alone -/

section PlainWords

variable {s : State} {k len : Nat} {rep : Bool} {i : Instr} {op : CoreOp} {d : Chip} {g : Fills} {ops : List Word}

theorem fetched_pc {c d : Chip} {k : Nat} (h : JustFetched c d k) : (coreOf d k).pc = (coreOf c k).pc := by
  obtain ⟨l, hl⟩ := h.core
  rw [hl]

/-- A word that only pushes results leaves everything else of the string. -/
theorem leaves_plainWord {res : List Word → List Word} (hk : isCore k = true)
    (hi : exec i s = onUnit (isCore k) s (fun c => plainWord c k rep op len (fun c ops => (c, res ops))))
    (h : starts s.chip k rep op 0 d g ops) (hs : ownSpills s.chip k g (opEffect op).1 (res ops)) :
    leaves i s (fun t => PlainDone s.chip t k g (opEffect op).1 (res ops) ((coreOf s.chip k).pc + len)) := by
  refine leaves_of_onCore hk hi ?_
  have hF := starts_fetched h
  rw [plainWord_go len _ h, fetched_pc hF]
  exact plainDone_finish _ hF hs

/-- A word that pushes results and writes flags leaves everything else of the string. -/
theorem leaves_flagWord {res : List Word → List Word} {cf : List Word → Option Bool} {v : List Word → Bool} (hk : isCore k = true)
    (hi : exec i s = onUnit (isCore k) s (fun c => plainWord c k rep op len (fun c ops => (putFlags c k (cf ops) (v ops), res ops))))
    (h : starts s.chip k rep op 0 d g ops) (hs : ownSpills s.chip k g (opEffect op).1 (res ops)) :
    leaves i s (fun t => FlagDone s.chip t k g (opEffect op).1 (res ops) (cf ops) (v ops) ((coreOf s.chip k).pc + len)) := by
  refine leaves_of_onCore hk hi ?_
  have hF := starts_fetched h
  have hpc : (coreOf (putFlags d k (cf ops) (v ops)) k).pc = (coreOf s.chip k).pc := by
    unfold putFlags
    rw [coreOf_csrPut_same]
    exact fetched_pc hF
  rw [plainWord_go len _ h, hpc]
  exact flagDone_finish _ _ _ hF hs

end PlainWords

/-! ### Constants and arithmetic with a field -/

theorem exec_litx (k : Nat) (x : IWord) (s : State) : exec (.litx k x) s = onUnit (isCore k) s (fun c => xLitx c k x) := rfl

theorem exec_lithi (k : Nat) (x : IWord) (s : State) : exec (.lithi k x) s = onUnit (isCore k) s (fun c => xLithi c k x) := rfl

theorem exec_pick (k : Nat) (rep : Bool) (n : BitVec 3) (s : State) :
    exec (.pick k rep n) s = onUnit (isCore k) s (fun c => xPick c k rep n) := rfl

theorem exec_shli (k : Nat) (rep : Bool) (n : BitVec 5) (s : State) :
    exec (.shli k rep n) s = onUnit (isCore k) s (fun c => xShli c k rep n) := rfl

theorem exec_shri (k : Nat) (rep : Bool) (n : BitVec 5) (s : State) :
    exec (.shri k rep n) s = onUnit (isCore k) s (fun c => xShri c k rep n) := rfl

theorem exec_sari (k : Nat) (rep : Bool) (n : BitVec 5) (s : State) :
    exec (.sari k rep n) s = onUnit (isCore k) s (fun c => xSari c k rep n) := rfl

theorem exec_roli (k : Nat) (rep : Bool) (n : BitVec 5) (s : State) :
    exec (.roli k rep n) s = onUnit (isCore k) s (fun c => xRoli c k rep n) := rfl

/-- The upper half set above the low half of a word. -/
theorem append_low_half (x : IWord) (w : Word) : wd (x.toNat * 65536 + w.toNat % 65536) = x ++ w.extractLsb' 0 16 := by
  have hx := x.isLt
  apply BitVec.eq_of_toNat_eq
  rw [BitVec.toNat_append, BitVec.extractLsb'_toNat, Nat.shiftRight_zero, wd, BitVec.toNat_ofNat, Nat.mod_eq_of_lt (by omega),
    ← Nat.shiftLeft_add_eq_or_of_lt (Nat.mod_lt _ (by decide)), Nat.shiftLeft_eq]

theorem wd_shift_toNat (n : BitVec 5) : (wd n.toNat).toNat = n.toNat := by
  have hn := n.isLt
  rw [wd, BitVec.toNat_ofNat, Nat.mod_eq_of_lt (by omega)]

/-- Settles O8: each word pushes its results, and ADDI writes the flags of its sum. -/
theorem fieldWords : Obligations.FieldWords := by
  unfold Obligations.FieldWords
  intro s k rep d g ops hk
  refine ⟨fun f h hs => leaves_plainWord hk (exec_lit k rep f s) h hs, fun x h hs => leaves_plainWord hk (exec_litx k x s) h hs,
    fun x h hs => ?lithi, fun n h hs => leaves_plainWord (res := fun ops => ops.getD n.toNat 0 :: ops) hk (exec_pick k rep n s) h hs,
    fun f h hs => ?addi, fun n h hs => ?shli, fun n h hs => ?shri, fun n h hs => ?sari, fun n h hs => ?roli⟩
  case lithi =>
    rw [← append_low_half]
    exact leaves_plainWord (res := fun ops => [wd (x.toNat * 65536 + (ops.getD 0 0).toNat % 65536)]) hk (exec_lithi k x s) h hs
  case addi =>
    have hf : (f.signExtend 32).toInt = f.toInt := BitVec.toInt_signExtend_of_le (by decide)
    have hadd := leaves_flagWord (res := fun ops => [(addFlags (ops.getD 0 0) (f.signExtend 32) false).val])
      (cf := fun ops => (addFlags (ops.getD 0 0) (f.signExtend 32) false).c)
      (v := fun ops => (addFlags (ops.getD 0 0) (f.signExtend 32) false).v) hk (exec_addi k rep f s) h hs
    simpa [addFlags_eq, b1, wd, hf, opEffect] using hadd
  case shli =>
    rw [← wd_shift_toNat n, ← shl_eq]
    exact leaves_plainWord (res := fun ops => [shl (ops.getD 0 0) (wd n.toNat)]) hk (exec_shli k rep n s) h hs
  case shri =>
    rw [← wd_shift_toNat n, ← shr_eq]
    exact leaves_plainWord (res := fun ops => [shr (ops.getD 0 0) (wd n.toNat)]) hk (exec_shri k rep n s) h hs
  case sari =>
    rw [← wd_shift_toNat n, ← sar_eq]
    exact leaves_plainWord (res := fun ops => [sar (ops.getD 0 0) (wd n.toNat)]) hk (exec_sari k rep n s) h hs
  case roli =>
    have hrol : (ops.getD 0 0).rotateLeft n.toNat = rol (ops.getD 0 0) (wd n.toNat) := by
      rw [rol, wd_shift_toNat, Nat.mod_eq_of_lt n.isLt]
    rw [hrol]
    exact leaves_plainWord (res := fun ops => [rol (ops.getD 0 0) (wd n.toNat)]) hk (exec_roli k rep n s) h hs

/-! ### Pairs that touch no memory -/

theorem exec_pair (k : Nat) (rep : Bool) (a b : BitVec 7) (s : State) :
    exec (.pair k rep a b) s = onUnit (isCore k) s (fun c => xPair c k rep a b) := rfl

/-- A short operation that touches no memory traps on no operand. -/
theorem shortTrap_none {o : Nat} (hl : isShortLoad o = false) (hs : isShortStore o = false) (ops : List Word) :
    shortTrap o ops = none := by
  simp [shortTrap, hl, hs]

/-- A half that touches no memory gives its results and flags. -/
theorem runHalf_short {c : Chip} {k o : Nat} (hl : isShortLoad o = false) (hs : isShortStore o = false) (st : List Store)
    (ops : List Word) : runHalf c k st o ops = .done c ⟨(shortResult o ops (bit (csrVal c k 0x01) 0)).1,
      (shortResult o ops (bit (csrVal c k 0x01) 0)).2.1, (shortResult o ops (bit (csrVal c k 0x01) 0)).2.2, none⟩ := by
  unfold runHalf
  simp only [hl, hs, Bool.false_eq_true, if_false]

/-- Settles O10: neither half traps nor stores, so the pair ends with both halves' results and flags. -/
theorem pairWords : Obligations.PairWords := by
  unfold Obligations.PairWords
  intro s k rep a b d g ops hk hmem h ra rb hs
  simp only [Bool.or_eq_false_iff] at hmem
  obtain ⟨⟨⟨hla, hsa⟩, hlb⟩, hsb⟩ := hmem
  have hF := starts_fetched h
  have htrap : pairTrap a.toNat b.toNat ops = none := by
    simp only [pairTrap, shortTrap_none hla hsa, shortTrap_none hlb hsb]
  have hbegin := begin_check h htrap
  have hC (cf cf' : Option Bool) : (match cf with | some x => some x | none => cf') = if cf.isSome then cf else cf' := by
    cases cf <;> rfl
  refine leaves_of_onCore hk (exec_pair k rep a b s) ?_
  have hpair : xPair s.chip k rep a b = finish (putFlags d k (if rb.2.1.isSome then rb.2.1 else ra.2.1) (ra.2.2 || rb.2.2)) k g
      ((shortEffect a.toNat).1 + (shortEffect b.toNat).1) (ra.1 ++ rb.1) [] ((coreOf s.chip k).pc + 2) := by
    unfold xPair
    simp only [hsa, hsb, b1, Bool.false_eq_true, if_false, Nat.add_zero, hbegin, runHalf_short hla hsa, runSecond,
      runHalf_short hlb hsb, fetched_csrVal hF, Option.toList, List.append_nil, ← hC]
    have hpc (cf : Option Bool) (v : Bool) : nextPc (putFlags d k cf v) k = (coreOf s.chip k).pc + 2 := by
      unfold nextPc putFlags
      rw [coreOf_csrPut_same]
      exact congrArg (· + 2) (fetched_pc hF)
    rw [hpc]
    rfl
  rw [hpair]
  exact flagDone_finish _ _ _ hF hs

end Sys2Proof.Machine
end

section
/-! PROOFS. Calls, returns and the return stack (R97, R145, R169, R170), and repetition (R148, R171). -/

namespace Sys2Proof.Machine

open Sys2Proof Sys2Proof.Safety

/-- A transfer whose target instructions cannot be fetched from ends in IFETCH, with nothing changed (R169). -/
theorem jumpWord_trap {c d : Chip} {k : Nat} {op : CoreOp} {g : Fills} {ops : List Word} {target : Chip → List Word → Word}
    (f : Chip → Chip) (h : starts c k false op 0 d g ops) (hu : ¬ usable (target c ops).toNat) :
    jumpWord c k op target f = trapEntry d k (preciseRec d k 0x02 false (target c ops).toNat) := by
  unfold jumpWord
  rw [begin_trap h (targetTrap_unusable hu)]

theorem exec_jmpi (k : Nat) (s : State) : exec (.jmpi k) s = onUnit (isCore k) s (fun c => xJmpi c k) := rfl

/-- Settles O13: each word by its own push or pop, and each transfer by its target. -/
theorem returnStackWords : Obligations.ReturnStackWords := by
  unfold Obligations.ReturnStackWords
  intro s k d g ops hk r top pushed popped traps
  have htop : rsTop s.chip k = top := rfl
  refine ⟨fun x h hs => ⟨?_, ?_⟩, fun h hs => ⟨?_, ?_⟩, fun h hs => ⟨?_, ?_⟩, fun h hs => ⟨?_, ?_⟩, fun h hs => ?_, fun h hs => ?_,
    fun h hs => ?_, fun h hs => ?_⟩
  · exact fun hu => leaves_of_onCore hk (exec_call k x s) (xCall_rsDone h hs hu)
  · intro hu
    have hx : (x.setWidth 32).toNat = x.toNat := BitVec.toNat_setWidth_of_le (by decide)
    exact leaves_of_onCore hk (exec_call k x s) (by unfold xCall; rw [jumpWord_trap _ h (by rwa [hx]), hx])
  · exact fun hu => leaves_of_onCore hk (exec_calli k s) (xCalli_rsDone h hs hu)
  · exact fun hu => leaves_of_onCore hk (exec_calli k s) (jumpWord_trap _ h hu)
  · exact fun hu => leaves_of_onCore hk (exec_ret k s) (xRet_rsDone h hs hu)
  · exact fun hu => leaves_of_onCore hk (exec_ret k s) (jumpWord_trap _ h hu)
  · intro hu
    refine leaves_of_onCore hk (exec_jmpi k s) ?_
    unfold xJmpi
    rw [jumpWord_go _ h hu]
    exact plainDone_finish _ (starts_fetched h) hs
  · exact fun hu => leaves_of_onCore hk (exec_jmpi k s) (jumpWord_trap _ h hu)
  · exact leaves_of_onCore hk (exec_tor k s) (xTor_rsDone h hs)
  · exact leaves_of_onCore hk (exec_fromr k s) (xFromr_rsDone h hs)
  · refine leaves_of_onCore hk (exec_rget k s) ?_
    have hF := starts_fetched h
    unfold xRget rsWord
    rw [plainWord_go _ _ h, fetched_pc hF, fetched_rsTop hF]
    exact plainDone_finish _ hF hs
  · exact leaves_of_onCore hk (exec_rdrop k s) (xRdrop_rsDone h hs)

/-! ### Repetition -/

theorem leaves_mono {i : Instr} {s : State} {P Q : Chip → Prop} (h : leaves i s P) (hPQ : ∀ t, P t → Q t) : leaves i s Q := by
  obtain ⟨t, ht, hq, hP⟩ := h
  exact ⟨t, ht, hq, hPQ _ hP⟩

/-- A word that starts has all its operands. -/
theorem starts_ops_length {c d : Chip} {k n : Nat} {rep : Bool} {op : CoreOp} {g : Fills} {ops : List Word}
    (h : starts c k rep op n d g ops) : ops.length = (opEffect op).1 := by
  obtain ⟨-, -, hops, ⟨v, hv, hlen⟩, hn, -⟩ := begin_go h
  rw [hops, List.length_take, hv, List.length_append]
  omega

/-- The start of a repetition: REPCNT, and where the string goes on (R171). -/
theorem startRep_core (c : Chip) (k a n : Nat) (intr : Bool) (w : IWord) :
    csrVal (startRep c k a n intr w) k 0x28 = wd n ∧ (coreOf (startRep c k a n intr w) k).stk = (coreOf c k).stk ∧
      if n = 0 then (coreOf (startRep c k a n intr w) k).rep = none ∧ (coreOf (startRep c k a n intr w) k).pc = a + 4
      else (coreOf (startRep c k a n intr w) k).rep = some ⟨intr, w, a⟩ ∧ (coreOf (startRep c k a n intr w) k).pc = a := by
  unfold startRep
  dsimp only
  split
  · rw [csrVal_updCore _ _ _ _ rfl, csrVal_csrPut_same, coreOf_updCore_same, coreOf_csrPut_same]
    exact ⟨rfl, rfl, rfl, rfl⟩
  · rw [csrVal_updCore _ _ _ _ rfl, csrVal_csrPut_same, coreOf_updCore_same, coreOf_csrPut_same]
    exact ⟨rfl, rfl, rfl, rfl⟩

/-- REP and REPI begin a repetition with their count at the word behind them. -/
theorem repWord_begun {c d : Chip} {k : Nat} {f : BitVec 8} {intr : Bool} {g : Fills} {ops : List Word}
    (h : starts c k false (if intr then .repi f else .rep f) 0 d g ops) (hs : ownSpills c k g ops.length []) :
    let pc := (coreOf c k).pc
    let n := if f = 0 then (ops.getD 0 0).toNat else f.toNat
    let t := repWord c k f intr
    csrVal t k 0x28 = wd n ∧ (coreOf t k).stk = (stackEnd g ops.length []).take 8 ∧
      if n = 0 then (coreOf t k).rep = none ∧ (coreOf t k).pc = pc + 4
      else (coreOf t k).rep = some ⟨intr, (fetchWord d k (pc + 2)).2.1, pc⟩ ∧ (coreOf t k).pc = pc := by
  intro pc n t
  have hF := starts_fetched h
  have hlen := starts_ops_length h
  have hF2 := justFetched_trans hF (fetchWord_only d k (pc + 2))
  have ht : t = startRep (finish (fetchWord d k (pc + 2)).1 k g ops.length [] [] pc) k pc n intr (fetchWord d k (pc + 2)).2.1 := by
    unfold starts at h
    show repWord c k f intr = _
    unfold repWord
    simp only [h, fetched_pc hF, hlen]
    rfl
  have hdone := wordDone_finish (pc := pc) hF2 (oneCore_refl _ k) ⟨_, _, _, _, _, _, rfl⟩ (fun _ _ _ => rfl)
    (hs.imp_right fun h => ⟨rfl, h⟩)
  rw [ht, ← hdone.stack]
  exact startRep_core _ k pc n intr _

theorem exec_rep (k : Nat) (f : BitVec 8) (s : State) : exec (.rep k f) s = onUnit (isCore k) s (fun c => xRep c k f) := rfl

theorem exec_repi (k : Nat) (f : BitVec 8) (s : State) : exec (.repi k f) s = onUnit (isCore k) s (fun c => xRepi c k f) := rfl

theorem exec_repIteration (k : Nat) (s : State) :
    exec (.repIteration k) s = onUnit (isCore k) s (fun c => xRepIteration c k) := rfl

/-- An iteration executes the stored word. -/
theorem xRepIteration_eq {c : Chip} {k : Nat} {q : Rep} {op : CoreOp} (hq : (coreOf c k).rep = some q)
    (hop : decodeWord (decide (courseNo k = luthierCourse)) q.word 0 = some op) : xRepIteration c k = runOp c k true op := by
  unfold xRepIteration
  simp only [hq, hop]

/-- Where a string goes on inside a repetition (R171, R173). -/
theorem goesOn_rep {c d : Chip} {k pc : Nat} {q : Rep} (h : goesOn c d k pc) (hq : (coreOf c k).rep = some q) :
    csrVal d k 0x28 = csrVal c k 0x28 - 1 ∧
      (csrVal c k 0x28 = 1 → (coreOf d k).pc = q.at_ + 4 ∧ (coreOf d k).rep = none) ∧
      (csrVal c k 0x28 ≠ 1 → (coreOf d k).pc = (coreOf c k).pc ∧ (coreOf d k).rep = some q) := by
  unfold goesOn at h
  rw [hq] at h
  obtain ⟨hcount, hnext⟩ := h
  have hlast : csrVal c k 0x28 - 1 = 0 ↔ csrVal c k 0x28 = 1 := BitVec.sub_eq_iff_eq_add.trans (by simp)
  exact ⟨hcount, fun h => by rwa [if_pos (hlast.mpr h)] at hnext, fun h => by rwa [if_neg (mt hlast.mp h)] at hnext⟩

/-- Settles O15: REP and REPI by their start; an iteration is the stored word, whose end counts it. -/
theorem repetition : Obligations.Repetition := by
  unfold Obligations.Repetition
  intro s k d g ops hk pc lu w begun
  refine ⟨fun f h hs _ => leaves_of_onCore hk (exec_rep k f s) (repWord_begun (intr := false) h hs),
    fun f h hs _ => leaves_of_onCore hk (exec_repi k f s) (repWord_begun (intr := true) h hs), fun q f hq hop h hs => ?_⟩
  have hiter : exec (.repIteration k) s = exec (.addi k true f) s := by
    rw [exec_repIteration, exec_addi, hk, onUnit_true, onUnit_true, xRepIteration_eq hq hop]
    rfl
  have hadd := leaves_flagWord (res := fun ops => [(addFlags (ops.getD 0 0) (f.signExtend 32) false).val])
    (cf := fun ops => (addFlags (ops.getD 0 0) (f.signExtend 32) false).c)
    (v := fun ops => (addFlags (ops.getD 0 0) (f.signExtend 32) false).v) hk (hiter.trans (exec_addi k true f s)) h hs
  refine leaves_mono hadd fun t ht => ?_
  obtain ⟨hcount, hlast, hmore⟩ := goesOn_rep ht.done.next hq
  refine ⟨ht.done.stack.trans ?_, hcount, hlast, hmore⟩
  have hval : (addFlags (ops.getD 0 0) (f.signExtend 32) false).val = ops.getD 0 0 + f.signExtend 32 := by
    simp [addFlags_eq, b1, wd]
  rw [hval]
  rfl

end Sys2Proof.Machine
end

section
/-! PROOFS. Trap entry (R118, R188 to R197): the pending CSR writes applied, the trap CSRs of a record, the vector. -/

namespace Sys2Proof.Machine

open Sys2Proof Sys2Proof.Safety

/-! ### The pending CSR writes applied -/

theorem oneCore_csrPuts (c : Chip) (k : Nat) (l : Tbl Word) : OneCore c (l.foldl (fun c e => csrPut c k e.1 e.2) c) k := by
  induction l generalizing c with
  | nil => exact oneCore_refl c k
  | cons e l ih => exact oneCore_trans (oneCore_csrPut c k e.1 e.2) (ih _)

theorem coreOf_csrPuts (c : Chip) (k : Nat) (l : Tbl Word) :
    ∃ w, coreOf (l.foldl (fun c e => csrPut c k e.1 e.2) c) k = { coreOf c k with csr := w } := by
  induction l generalizing c with
  | nil => exact ⟨_, rfl⟩
  | cons e l ih =>
    obtain ⟨w, hw⟩ := ih (csrPut c k e.1 e.2)
    exact ⟨w, by rw [List.foldl_cons, hw, coreOf_csrPut_same]⟩

/-- Writes of different CSRs leave in each the value written there. -/
theorem csrVal_csrPuts (c : Chip) (k i : Nat) (l : Tbl Word) (hl : (l.map Prod.fst).Nodup) :
    csrVal (l.foldl (fun c e => csrPut c k e.1 e.2) c) k i = (l.lookup i).getD (csrVal c k i) := by
  induction l generalizing c with
  | nil => rfl
  | cons e l ih =>
    obtain ⟨j, w⟩ := e
    rw [List.map_cons, List.nodup_cons] at hl
    obtain ⟨hj, hl⟩ := hl
    rw [List.foldl_cons, ih _ hl, List.lookup_cons]
    by_cases hij : i = j
    · subst hij
      have hnone : l.lookup i = none := List.lookup_eq_none_iff.mpr fun p hp => by
        have hne : i ≠ p.1 := fun h => hj (h ▸ List.mem_map.mpr ⟨p, hp, rfl⟩)
        simpa using hne
      simp [hnone]
    · have hbeq : (i == j) = false := by simpa using hij
      rw [hbeq, csrVal_csrPut_other _ _ _ hij]

theorem oneCore_applyPend (c : Chip) (k : Nat) : OneCore c (applyPend c k) k := by
  unfold applyPend
  exact oneCore_trans (oneCore_csrPuts c k (coreOf c k).pend) (oneCore_updCore _ k _)

theorem coreOf_applyPend (c : Chip) (k : Nat) : ∃ w, coreOf (applyPend c k) k = { coreOf c k with csr := w, pend := [] } := by
  obtain ⟨w, hw⟩ := coreOf_csrPuts c k (coreOf c k).pend
  exact ⟨w, by unfold applyPend; rw [coreOf_updCore_same, hw]⟩

/-- The pending writes applied give each CSR the value held pending for it (R118). -/
theorem csrVal_applyPend {c : Chip} {k : Nat} (h : pendOk c k) (i : Nat) :
    csrVal (applyPend c k) k i = ((coreOf c k).pend.lookup i).getD (csrVal c k i) := by
  unfold applyPend
  rw [csrVal_updCore _ _ _ _ rfl]
  exact csrVal_csrPuts c k i _ h.1

/-- A CSR whose writes are not deferred has none pending. -/
theorem csrVal_applyPend_other {c : Chip} {k i : Nat} (h : pendOk c k) (hi : isDeferred i = false) :
    csrVal (applyPend c k) k i = csrVal c k i := by
  have hnone : (coreOf c k).pend.lookup i = none := List.lookup_eq_none_iff.mpr fun p hp => by
    have hne : i ≠ p.1 := fun he => by
      have := h.2 p hp
      rw [← he, hi] at this
      exact Bool.false_ne_true this
    simpa using hne
  rw [csrVal_applyPend h, hnone]
  rfl

/-! ### The record in the trap CSRs -/

theorem b1_lt (b : Bool) : b1 b < 2 := by cases b <;> decide

theorem decide_b1 (b : Bool) : decide (b1 b = 1) = b := by cases b <;> rfl

/-- The fields of TRAPCAUSE (R194). -/
theorem causeWord_fields (t : TrapRec) (hc : t.cause < 256) (hs : t.slot < 4) (hcode : t.code < 256) :
    bits (causeWord t) 7 0 = t.cause ∧ bit (causeWord t) 8 = t.imp ∧ bit (causeWord t) 9 = t.store ∧
      bits (causeWord t) 11 10 = t.slot ∧ bit (causeWord t) 12 = t.halfB ∧ bits (causeWord t) 23 16 = t.code := by
  have himp := b1_lt t.imp
  have hstore := b1_lt t.store
  have hhalf := b1_lt t.halfB
  unfold bits bit causeWord wd
  rw [BitVec.toNat_ofNat]
  exact ⟨by omega, (decide_eq_decide.mpr (by omega)).trans (decide_b1 _), (decide_eq_decide.mpr (by omega)).trans (decide_b1 _),
    by omega, (decide_eq_decide.mpr (by omega)).trans (decide_b1 _), by omega⟩

/-- The fields of TRAPINFO (R196). -/
theorem infoWord_fields (t : TrapRec) : bits (infoWord t) 15 0 = t.ipc % 65536 ∧ bit (infoWord t) 16 = t.rpt ∧
    bit (infoWord t) 17 = true := by
  have hrpt := b1_lt t.rpt
  unfold bits bit infoWord wd
  rw [BitVec.toNat_ofNat]
  exact ⟨by omega, (decide_eq_decide.mpr (by omega)).trans (decide_b1 _), decide_eq_true (by omega)⟩

/-! ### Trap entry -/

/-- The string as a trap entry meets it: the trap counted, its pending CSR writes applied (R118, R190). -/
def trapStart (c : Chip) (k : Nat) : Chip := applyPend (updCore c k (fun r => { r with traps := r.traps + 1 })) k

theorem trapStart_oneCore (c : Chip) (k : Nat) : OneCore c (trapStart c k) k :=
  oneCore_trans (oneCore_updCore c k _) (oneCore_applyPend _ k)

theorem trapStart_core (c : Chip) (k : Nat) :
    ∃ w, coreOf (trapStart c k) k = { coreOf c k with traps := (coreOf c k).traps + 1, csr := w, pend := [] } := by
  obtain ⟨w, hw⟩ := coreOf_applyPend (updCore c k (fun r => { r with traps := r.traps + 1 })) k
  rw [coreOf_updCore_same] at hw
  exact ⟨w, hw⟩

theorem csrVal_trapStart {c : Chip} {k : Nat} (h : pendOk c k) (i : Nat) :
    csrVal (trapStart c k) k i = ((coreOf c k).pend.lookup i).getD (csrVal c k i) := by
  have h1 : pendOk (updCore c k (fun r => { r with traps := r.traps + 1 })) k := by
    unfold pendOk; rw [coreOf_updCore_same]; exact h
  unfold trapStart
  rw [csrVal_applyPend h1, csrVal_updCore _ _ _ _ rfl, coreOf_updCore_same]

theorem csrVal_trapStart_other {c : Chip} {k i : Nat} (h : pendOk c k) (hi : isDeferred i = false) :
    csrVal (trapStart c k) k i = csrVal c k i := by
  rw [csrVal_trapStart h, ← csrVal_applyPend h, csrVal_applyPend_other h hi]

theorem inhOf_trapStart {c : Chip} {k : Nat} (h : pendOk c k) : inhOf (trapStart c k) k = inhOf c k := by
  unfold inhOf
  rw [csrVal_trapStart_other h rfl]

/-- The trap CSRs of a record. -/
def recordPut (c : Chip) (k : Nat) (t : TrapRec) : Chip :=
  csrPut (csrPut (csrPut (csrPut c k 0x12 (wd (t.retPc % 65536 / 2 * 2))) k 0x11 (causeWord t)) k 0x13 (infoWord t)) k 0x14 (wd t.addr)

theorem recordPut_oneCore (c : Chip) (k : Nat) (t : TrapRec) : OneCore c (recordPut c k t) k :=
  oneCore_trans (oneCore_trans (oneCore_csrPut _ k _ _) (oneCore_csrPut _ k _ _))
    (oneCore_trans (oneCore_csrPut _ k _ _) (oneCore_csrPut _ k _ _))

theorem recordPut_core (c : Chip) (k : Nat) (t : TrapRec) : ∃ w, coreOf (recordPut c k t) k = { coreOf c k with csr := w } := by
  unfold recordPut
  simp only [coreOf_csrPut_same]
  exact ⟨_, rfl⟩

theorem csrVal_recordPut (c : Chip) (k : Nat) (t : TrapRec) :
    csrVal (recordPut c k t) k 0x12 = wd (t.retPc % 65536 / 2 * 2) ∧ csrVal (recordPut c k t) k 0x11 = causeWord t ∧
      csrVal (recordPut c k t) k 0x13 = infoWord t ∧ csrVal (recordPut c k t) k 0x14 = wd t.addr ∧
      ∀ i, i ≠ 0x11 → i ≠ 0x12 → i ≠ 0x13 → i ≠ 0x14 → csrVal (recordPut c k t) k i = csrVal c k i := by
  unfold recordPut
  refine ⟨?_, ?_, ?_, csrVal_csrPut_same _ _ _ _, fun i h1 h2 h3 h4 => ?_⟩
  · rw [csrVal_csrPut_other _ _ _ (by decide), csrVal_csrPut_other _ _ _ (by decide), csrVal_csrPut_other _ _ _ (by decide),
      csrVal_csrPut_same]
  · rw [csrVal_csrPut_other _ _ _ (by decide), csrVal_csrPut_other _ _ _ (by decide), csrVal_csrPut_same]
  · rw [csrVal_csrPut_other _ _ _ (by decide), csrVal_csrPut_same]
  · rw [csrVal_csrPut_other _ _ _ h4, csrVal_csrPut_other _ _ _ h3, csrVal_csrPut_other _ _ _ h1, csrVal_csrPut_other _ _ _ h2]

/-- The string with its record, sent to the vector of the cause. -/
def toVector (c : Chip) (k cause : Nat) : Chip :=
  updCore (dropResv c k) k (fun r => { r with
    pc := bits (csrVal (dropResv c k) k 0x10) 14 4 * 16 + 4 * trapVector cause, wait := none, rep := none, resumed := false,
    ownCkpt := 0 })

theorem toVector_oneCore (c : Chip) (k cause : Nat) : OneCore c (toVector c k cause) k :=
  oneCore_trans (oneCore_updCore _ k _) (oneCore_updCore _ k _)

theorem csrVal_toVector (c : Chip) (k cause i : Nat) : csrVal (toVector c k cause) k i = csrVal c k i := by
  unfold toVector dropResv
  rw [csrVal_updCore _ _ _ _ rfl, csrVal_updCore _ _ _ _ rfl]

theorem toVector_core (c : Chip) (k cause : Nat) : ∃ b, coreOf (toVector c k cause) k = { coreOf c k with
    resv := none, bus := b, pc := bits (csrVal c k 0x10) 14 4 * 16 + 4 * trapVector cause, wait := none, rep := none,
    resumed := false, ownCkpt := 0 } := by
  have hv : csrVal (dropResv c k) k 0x10 = csrVal c k 0x10 := csrVal_updCore c k _ _ rfl
  unfold toVector
  rw [hv, coreOf_updCore_same]
  unfold dropResv
  rw [coreOf_updCore_same]
  exact ⟨_, rfl⟩

theorem trapEntry_eq {c : Chip} {k : Nat} (t : TrapRec) (hp : pendOk c k) (hi : inhOf c k = false) :
    trapEntry c k t = toVector (recordPut (trapStart c k) k t) k t.cause := by
  rw [← inhOf_trapStart hp] at hi
  exact if_neg (by rw [Bool.not_eq_true]; exact hi)

theorem trapEntry_double {c : Chip} {k : Nat} (t : TrapRec) (hp : pendOk c k) (hi : inhOf c k = true) :
    trapEntry c k t = doubleTrap (trapStart c k) k t.cause := by
  rw [← inhOf_trapStart hp] at hi
  exact if_pos hi

/-- A trap taken while no handler runs: of the string what is written out changes, and nothing else (R190). -/
structure Trapped (c d : Chip) (k : Nat) (t : TrapRec) : Prop where
  one : OneCore c d k
  core : ∃ a b w x, coreOf d k = { coreOf c k with
    traps := a, csr := w, pend := [], resv := none, bus := b, pc := x, wait := none, rep := none, resumed := false, ownCkpt := 0 }
  pc : (coreOf d k).pc = vectorAt c k t.cause
  trapPc : csrVal d k 0x12 = wd (t.retPc % 65536 / 2 * 2)
  cause : csrVal d k 0x11 = causeWord t
  info : csrVal d k 0x13 = infoWord t
  addr : csrVal d k 0x14 = wd t.addr
  csrs : ∀ i, i ≠ 0x11 → i ≠ 0x12 → i ≠ 0x13 → i ≠ 0x14 → csrVal d k i = ((coreOf c k).pend.lookup i).getD (csrVal c k i)

theorem trapEntry_trapped {c : Chip} {k : Nat} (t : TrapRec) (hp : pendOk c k) (hi : inhOf c k = false) :
    Trapped c (trapEntry c k t) k t := by
  obtain ⟨w, hw⟩ := trapStart_core c k
  obtain ⟨w', hw'⟩ := recordPut_core (trapStart c k) k t
  obtain ⟨b, hb⟩ := toVector_core (recordPut (trapStart c k) k t) k t.cause
  obtain ⟨hpc, hcause, hinfo, haddr, hother⟩ := csrVal_recordPut (trapStart c k) k t
  have hcsr : ∀ i, i ≠ 0x11 → i ≠ 0x12 → i ≠ 0x13 → i ≠ 0x14 → csrVal (recordPut (trapStart c k) k t) k i =
      ((coreOf c k).pend.lookup i).getD (csrVal c k i) := fun i h1 h2 h3 h4 => by
    rw [hother i h1 h2 h3 h4, csrVal_trapStart hp]
  rw [trapEntry_eq t hp hi]
  refine ⟨oneCore_trans (oneCore_trans (trapStart_oneCore c k) (recordPut_oneCore _ k t)) (toVector_oneCore _ k _),
    ⟨_, _, _, _, by rw [hb, hw', hw]⟩, ?_, (csrVal_toVector ..).trans hpc, (csrVal_toVector ..).trans hcause,
    (csrVal_toVector ..).trans hinfo, (csrVal_toVector ..).trans haddr,
    fun i h1 h2 h3 h4 => (csrVal_toVector ..).trans (hcsr i h1 h2 h3 h4)⟩
  rw [hb, hcsr _ (by decide) (by decide) (by decide) (by decide)]
  rfl

/-- Settles O16: what a trap entry changes of the string, field by field. -/
theorem trapEntryEffect : Obligations.TrapEntryEffect := by
  unfold Obligations.TrapEntryEffect
  intro c k t hp hi hc hs hcode d
  obtain ⟨⟨⟨cs, hrest⟩, hothers⟩, ⟨a, b, w, x, hcore⟩, hpc, htpc, hcause, hinfo, haddr, hcsrs⟩ := trapEntry_trapped t hp hi
  obtain ⟨hc0, hc8, hc9, hc10, hc12, hc16⟩ := causeWord_fields t hc hs hcode
  obtain ⟨hi0, hi16, hi17⟩ := infoWord_fields t
  have hplain (i : Nat) (h : isDeferred i = false) : ((coreOf c k).pend.lookup i).getD (csrVal c k i) = csrVal c k i := by
    rw [← csrVal_applyPend hp, csrVal_applyPend_other hp h]
  have hd : trapEntry c k t = d := rfl
  rw [hd] at hrest hothers hcore hpc htpc hcause hinfo haddr hcsrs
  unfold KeepsRs KeepsSlots
  rw [hcause, hinfo, hpc, hcsrs 0x01 (by decide) (by decide) (by decide) (by decide),
    hcsrs 0x28 (by decide) (by decide) (by decide) (by decide), hplain _ rfl, hplain _ rfl, hcore]
  exact ⟨htpc, hc0, hc8, hc9, hc10, hc12, hc16, hi0, hi16, hi17, haddr, rfl, rfl, rfl, rfl, rfl, rfl, rfl, rfl, ⟨rfl, rfl, rfl⟩,
    ⟨rfl, rfl⟩, rfl, hothers, cs, hrest⟩

/-! ### Sources and waits withdrawn, halts, pulses -/

/-- A pulse changes sources and registers alone. -/
theorem pulse_only (c : Chip) (n : Nat) : ∃ sr rg, pulse c n = { c with srcs := sr, regs := rg } := by
  unfold pulse
  split <;> exact ⟨_, _, rfl⟩

/-- A pulse leaves its source's crossing busy. -/
theorem pulse_busy (c : Chip) (n : Nat) : (srcOf (pulse c n) n).pulseBusy = true := by
  unfold pulse
  split
  next h =>
    dsimp only
    rw [srcOf_regOr, srcOf_regCount, srcOf_updSrc_same]
    exact h
  next h => rw [srcOf_updSrc_same]

@[simp] theorem coreOf_pulse (c : Chip) (n k : Nat) : coreOf (pulse c n) k = coreOf c k := by
  obtain ⟨sr, rg, h⟩ := pulse_only c n
  rw [h]; rfl

@[simp] theorem courseOf_pulse (c : Chip) (n k : Nat) : courseOf (pulse c n) k = courseOf c k := by
  obtain ⟨sr, rg, h⟩ := pulse_only c n
  rw [h]; rfl

@[simp] theorem pulse_fixedUnison (c : Chip) (n : Nat) : (pulse c n).fixedUnison = c.fixedUnison := by
  obtain ⟨sr, rg, h⟩ := pulse_only c n
  rw [h]

theorem withdrawAll_only (c : Chip) (e : Nat) : ∃ sr rg, withdrawAll c e = { c with srcs := sr, regs := rg } := by
  unfold withdrawAll
  generalize presentedTo c e = l
  induction l generalizing c with
  | nil => exact ⟨_, _, rfl⟩
  | cons x l ih =>
    obtain ⟨sr, rg, h⟩ := ih (withdraw c x)
    exact ⟨sr, rg, h⟩

/-- A waiting word withdrawn waits no more; beside its string only a channel's lists of those who wait change (R306). -/
theorem withdrawWait_only (c : Chip) (k : Nat) :
    (∃ cs ch, withdrawWait c k = { c with cores := cs, chans := ch }) ∧
      coreOf (withdrawWait c k) k = { coreOf c k with wait := none } ∧
      ∀ j, j ≠ k → coreOf (withdrawWait c k) j = coreOf c j := by
  unfold withdrawWait
  split
  next h => exact ⟨⟨_, _, rfl⟩, by rw [← h], fun _ _ => rfl⟩
  next w h =>
    dsimp only
    split
    · exact ⟨⟨_, _, rfl⟩, coreOf_updCore_same _ k _, fun j hj => coreOf_updCore_other _ _ hj⟩
    · exact ⟨⟨_, _, rfl⟩, coreOf_updCore_same _ k _, fun j hj => coreOf_updCore_other _ _ hj⟩

/-- A string halted at its boundary: of it what is written out changes; beside it channels, sources and registers may (R306,
R573, R578). -/
theorem haltCore_only (c : Chip) (k : Nat) :
    (∃ cs ch sr rg, haltCore c k = { c with cores := cs, chans := ch, srcs := sr, regs := rg }) ∧
      coreOf (haltCore c k) k = { coreOf c k with
        wait := none, resv := none, bus := (coreOf c k).bus.map loseReq, halted := true, haltReq := false } ∧
      ∀ j, j ≠ k → coreOf (haltCore c k) j = coreOf c j := by
  obtain ⟨⟨cs, ch, hw⟩, hcore, hother⟩ := withdrawWait_only c k
  have key (d : Chip) (hd : d = updCore (dropResv (withdrawWait c k) k) k (fun r => { r with halted := true, haltReq := false })) :
      (∃ cs ch, d = { c with cores := cs, chans := ch }) ∧ coreOf d k = { coreOf c k with
        wait := none, resv := none, bus := (coreOf c k).bus.map loseReq, halted := true, haltReq := false } ∧
      ∀ j, j ≠ k → coreOf d j = coreOf c j := by
    subst hd
    refine ⟨?_, ?_, fun j hj => ?_⟩
    · rw [hw]; exact ⟨_, _, rfl⟩
    · unfold dropResv
      rw [coreOf_updCore_same, coreOf_updCore_same, hcore]
    · unfold dropResv
      rw [coreOf_updCore_other _ _ hj, coreOf_updCore_other _ _ hj, hother j hj]
  obtain ⟨⟨cs', ch', hd⟩, hk, hj⟩ := key _ rfl
  unfold haltCore
  dsimp only
  split
  · obtain ⟨sr, rg, h⟩ := withdrawAll_only (updCore (dropResv (withdrawWait c k) k) k
      (fun r => { r with halted := true, haltReq := false })) (eventId c k)
    rw [h]
    exact ⟨⟨cs', ch', sr, rg, by rw [hd]⟩, hk, hj⟩
  · exact ⟨⟨cs', ch', c.srcs, c.regs, hd⟩, hk, hj⟩

/-- A core of the same CSRs in a module of the same build has the same CSR values. -/
theorem csrVal_congr {c d : Chip} {k : Nat} (hf : d.fixedUnison = c.fixedUnison) (hr : (coreOf d k).csr = (coreOf c k).csr) (i : Nat) :
    csrVal d k i = csrVal c k i := by
  unfold csrVal csrReset
  rw [hf, hr]

/-- A double trap: the string halts as it stands, and its course's status names cause and string (R191). -/
theorem doubleTrap_core {c : Chip} {k : Nat} (cause : Nat) (hk : k < 512) :
    coreOf (doubleTrap c k cause) k = { coreOf c k with
        wait := none, resv := none, bus := (coreOf c k).bus.map loseReq, halted := true, haltReq := false, dhalt := true } ∧
      (∀ i, csrVal (doubleTrap c k cause) k i = csrVal c k i) ∧
      courseOf (doubleTrap c k cause) (k / 2) =
        { courseOf c (k / 2) with dtrap := true, dtcause := cause, dtstrB := decide (k % 2 = 1) } ∧
      (srcOf (doubleTrap c k cause) (705 + k / 2)).pulseBusy = true := by
  obtain ⟨⟨cs, ch, sr, rg, hh⟩, hcore, -⟩ := haltCore_only c k
  have hfixed : (haltCore c k).fixedUnison = c.fixedUnison := by rw [hh]
  have hcourses : (haltCore c k).courses = c.courses := by rw [hh]
  have hn : courseNo k < 256 := by unfold courseNo; omega
  have hd : doubleTrap c k cause = pulse (updCourse (updCore (haltCore c k) k (fun r => { r with dhalt := true })) (courseNo k)
      (fun r => { r with dtrap := true, dtcause := cause, dtstrB := isB k })) (705 + courseNo k) := if_pos hn
  have hk' : coreOf (doubleTrap c k cause) k = { coreOf c k with
      wait := none, resv := none, bus := (coreOf c k).bus.map loseReq, halted := true, haltReq := false, dhalt := true } := by
    rw [hd, coreOf_pulse, coreOf_updCourse, coreOf_updCore_same, hcore]
  refine ⟨hk', csrVal_congr ?_ (by rw [hk']), ?_, ?_⟩
  · rw [hd, pulse_fixedUnison, updCourse_fixedUnison, updCore_fixedUnison, hfixed]
  · rw [hd, courseOf_pulse]
    refine (courseOf_updCourse_same _ (courseNo k) _).trans ?_
    unfold courseOf
    rw [updCore_courses, hcourses]
    rfl
  · rw [hd]
    exact pulse_busy _ _

/-- Settles O17: a trap that finds INH set is a double trap, whose entry has applied the pending CSR writes alone. -/
theorem doubleTrap_halts : Obligations.DoubleTrap := by
  unfold Obligations.DoubleTrap
  intro c k t hk hp hi d
  obtain ⟨w, hw⟩ := trapStart_core c k
  obtain ⟨hcore, hcsr, hcourse, hbusy⟩ := doubleTrap_core (c := trapStart c k) t.cause hk
  rw [← trapEntry_double t hp hi] at hcore hcsr hcourse hbusy
  have hv (i : Nat) (h : isDeferred i = false) : csrVal d k i = csrVal c k i :=
    (hcsr i).trans (csrVal_trapStart_other hp h)
  refine ⟨?_, ?_, hv _ rfl, hv _ rfl, hv _ rfl, hv _ rfl, ?_, ?_, ?_, hbusy⟩
  · exact congrArg Core.halted hcore
  · rw [hcore, hw]
  · exact congrArg Course.dtrap hcourse
  · exact congrArg Course.dtcause hcourse
  · exact congrArg Course.dtstrB hcourse

end Sys2Proof.Machine
end

section
/-! PROOFS. Memory keeps its one form: for each function of the model on the chip, either it leaves memory (`f_mem`) or it
keeps the canonical form (`wf_f`), in the order of their definitions; every command's effect is one of them. -/

namespace Sys2Proof.Machine

open Sys2Proof Sys2Proof.Safety

@[simp] theorem ite_mem {p : Prop} [Decidable p] (c d : Chip) : (if p then c else d).mem = if p then c.mem else d.mem :=
  apply_ite Chip.mem p c d

@[simp] theorem ite_fst_mem {p : Prop} [Decidable p] {α : Type} (c d : Chip × α) :
    (if p then c else d).1.mem = if p then c.1.mem else d.1.mem :=
  apply_ite (fun r => r.1.mem) p c d

@[simp] theorem wf_ite {p : Prop} [Decidable p] {m n : List Host.Cell} (hm : Memory.wf m = true) (hn : Memory.wf n = true) :
    Memory.wf (if p then m else n) = true := by
  split
  · exact hm
  · exact hn

@[simp] theorem foldl_mem {α : Type} {f : Chip → α → Chip} (hf : ∀ c a, (f c a).mem = c.mem) (l : List α) (c : Chip) :
    (l.foldl f c).mem = c.mem := by
  induction l generalizing c with
  | nil => rfl
  | cons a l ih => exact (ih (f c a)).trans (hf c a)

theorem foldl_fst_mem {α β : Type} {f : Chip × β → α → Chip × β} (hf : ∀ a x, (f a x).1.mem = a.1.mem) (l : List α)
    (a : Chip × β) : (l.foldl f a).1.mem = a.1.mem := by
  induction l generalizing a with
  | nil => rfl
  | cons x l ih => exact (ih (f a x)).trans (hf a x)

@[simp] theorem wf_foldl {α : Type} {f : Chip → α → Chip} (hf : ∀ c a, Memory.wf c.mem = true → Memory.wf (f c a).mem = true)
    (l : List α) {c : Chip} (h : Memory.wf c.mem = true) : Memory.wf (l.foldl f c).mem = true := by
  induction l generalizing c with
  | nil => exact h
  | cons a l ih => exact ih (hf c a h)

/-! ### Bit fields -/

@[simp] theorem fresh_mem (c : Chip) : (fresh c).1.mem = c.mem := by
  simp [fresh]

/-! ### Event sources and pulses -/

@[simp] theorem pulse_mem (c : Chip) (s : Nat) : (pulse c s).mem = c.mem := by
  simp [pulse]

@[simp] theorem noteCorrected_mem (c : Chip) (ga : Nat) : (noteCorrected c ga).mem = c.mem := by
  simp -implicitDefEqProofs [noteCorrected]

@[simp] theorem noteUncorrectable_mem (c : Chip) (ga src core : Nat) : (noteUncorrectable c ga src core).mem = c.mem := by
  simp [noteUncorrectable]

@[simp] theorem readWord_mem (c : Chip) (ga src core : Nat) : (readWord c ga src core).1.mem = c.mem := by
  simp [readWord]

@[simp] theorem touchGranule_mem (c : Chip) (ga : Nat) (by_ : Option Nat) : (touchGranule c ga by_).mem = c.mem := by
  simp [touchGranule]

@[simp] theorem wf_writeWord {c : Chip} (ga : Nat) (w : Word) (poison : Bool) (by_ : Option Nat) (hm : Memory.wf c.mem = true) :
    Memory.wf (writeWord c ga w poison by_).mem = true := by
  unfold writeWord
  extract_lets ga c1 k c2 inj hit c3 w1 c4
  have h4 : Memory.wf c4.mem = true := wf_putWord _ _ (by simp [c3, c2, c1, hm])
  (repeat' split) <;> exact h4

@[simp] theorem wf_writeMem {c : Chip} (ga size : Nat) (v : Word) (poison : Bool) (by_ : Option Nat)
    (hm : Memory.wf c.mem = true) : Memory.wf (writeMem c ga size v poison by_).mem = true := by
  unfold writeMem
  split <;> simp [hm]

@[simp] theorem placeResv_mem (c : Chip) (k : Nat) (t : Tgt) (words : Nat) : (placeResv c k t words).mem = c.mem := by
  unfold placeResv
  dsimp only
  (repeat' split) <;> simp

@[simp] theorem countOff_mem (c : Chip) (p : Nat) : (countOff c p).mem = c.mem := by
  simp [countOff]

/-! ### CSRs -/

@[simp] theorem csrPut_mem (c : Chip) (k i : Nat) (w : Word) : (csrPut c k i w).mem = c.mem := by
  simp [csrPut]

@[simp] theorem applyPend_mem (c : Chip) (k : Nat) : (applyPend c k).mem = c.mem := by
  simp [applyPend]

/-! ### Unison and split -/

@[simp] theorem offMet_mem (c : Chip) (k p : Nat) : (offMet c k p).mem = c.mem := by
  simp [offMet]

/-! ### Words -/

@[simp] theorem countWord_mem (c : Chip) (k : Nat) : (countWord c k).mem = c.mem := by
  simp [countWord]

@[simp] theorem retire_mem (c : Chip) (k pc : Nat) : (retire c k pc).mem = c.mem := by
  unfold retire
  dsimp only
  split <;> simp

@[simp] theorem completeWait_mem (c : Chip) (k : Nat) (push : List Word) : (completeWait c k push).mem = c.mem := by
  simp [completeWait]

@[simp] theorem raiseTrap_mem (c : Chip) (k : Nat) (t : ITrap) : (raiseTrap c k t).mem = c.mem := by
  simp [raiseTrap]

/-! ### Events presented to strings -/

@[simp] theorem withdraw_mem (c : Chip) (s : Nat) : (withdraw c s).mem = c.mem := by
  simp [withdraw]

@[simp] theorem withdrawAll_mem (c : Chip) (e : Nat) : (withdrawAll c e).mem = c.mem := by
  simp [withdrawAll]

/-! ### Channels: a waiting SEND or RECV withdrawn -/

@[simp] theorem withdrawWait_mem (c : Chip) (k : Nat) : (withdrawWait c k).mem = c.mem := by
  unfold withdrawWait
  split <;> simp

/-! ### Calling a checkpoint -/

@[simp] theorem callAt_mem (c : Chip) (n w : Nat) : (callAt c n w).mem = c.mem := by
  simp [callAt]

@[simp] theorem callCkpt_mem (c : Chip) (n : Nat) : (callCkpt c n).mem = c.mem := by
  simp [callCkpt]

@[simp] theorem callOwn_mem (c : Chip) (k : Nat) : (callOwn c k).mem = c.mem := by
  simp [callOwn]

/-! ### Traps -/

@[simp] theorem dropResv_mem (c : Chip) (k : Nat) : (dropResv c k).mem = c.mem := by
  simp [dropResv]

@[simp] theorem haltCore_mem (c : Chip) (k : Nat) : (haltCore c k).mem = c.mem := by
  simp [haltCore]

@[simp] theorem doubleTrap_mem (c : Chip) (k cause : Nat) : (doubleTrap c k cause).mem = c.mem := by
  simp [doubleTrap]

@[simp] theorem trapEntry_mem (c : Chip) (k : Nat) (t : TrapRec) : (trapEntry c k t).mem = c.mem := by
  simp -implicitDefEqProofs [trapEntry]

@[simp] theorem trapReturn_mem (c : Chip) (k : Nat) : (trapReturn c k).mem = c.mem := by
  simp [trapReturn]

/-! ### Courses -/

@[simp] theorem takeSnap_mem (c : Chip) (n : Nat) : (takeSnap c n).mem = c.mem := by
  simp [takeSnap]

@[simp] theorem resetCourse_mem (c : Chip) (n : Nat) : (resetCourse c n).mem = c.mem := by
  simp [resetCourse]

@[simp] theorem poisonHalt_mem (c : Chip) (n : Nat) : (poisonHalt c n).mem = c.mem := by
  simp [poisonHalt]

/-! ### Queues -/

@[simp] theorem wf_chPushRaw {c : Chip} (s : Nat) (w : Word) (p : Bool) (hm : Memory.wf c.mem = true) :
    Memory.wf (chPushRaw c s w p).mem = true := by
  simp [chPushRaw, hm]

@[simp] theorem chPopRaw_mem (c : Chip) (s : Nat) : (chPopRaw c s).1.mem = c.mem := by
  unfold chPopRaw
  dsimp only
  (repeat' split) <;> simp

@[simp] theorem wf_moveWord {c : Chip} (src dst : Nat) (hm : Memory.wf c.mem = true) : Memory.wf (moveWord c src dst).mem = true :=
  wf_putWord _ _ hm

@[simp] theorem wf_chCut {c : Chip} (s rem n : Nat) (hm : Memory.wf c.mem = true) : Memory.wf (chCut c s rem n).mem = true := by
  unfold chCut
  extract_lets hc c1
  have h1 : Memory.wf c1.mem = true := wf_foldl (fun _ _ hd => wf_moveWord _ _ hd) _ hm
  split
  · exact hm
  · exact h1

@[simp] theorem chCutTail_mem (c : Chip) (s n : Nat) : (chCutTail c s n).mem = c.mem := by
  simp [chCutTail]

/-! ### Pushing -/

@[simp] theorem wf_chPushWord {c : Chip} (s : Nat) (w : Word) (p : Bool) (hm : Memory.wf c.mem = true) :
    Memory.wf (chPushWord c s w p).mem = true := by
  unfold chPushWord
  dsimp only
  split <;> simp [hm]

@[simp] theorem wf_chRelease {c : Chip} (s room n : Nat) (hm : Memory.wf c.mem = true) :
    Memory.wf (chRelease c s room n).mem = true := by
  induction n generalizing c with
  | zero => exact hm
  | succ n ih =>
    have hcut : ∀ len seq, Memory.wf (chRelease
        (updChan (chCut c s (chanOf c s).rem (len + 1)) s fun h => chLose h (len + 1) seq) s room n).mem = true :=
      fun len seq => ih (by simp [hm])
    rw [chRelease]
    dsimp only
    split
    · exact hm
    · split
      · simp only [ite_mem]
        exact wf_ite (hcut _ _) hm
      · exact hm

@[simp] theorem wf_chPushRecord {c : Chip} (s : Nat) (data : List QWord) (tag : Nat) (hm : Memory.wf c.mem = true) :
    Memory.wf (chPushRecord c s data tag).1.mem = true := by
  unfold chPushRecord
  extract_lets hc size c1 hc1 c2
  have h1 : Memory.wf c1.mem = true := by simp [c1, hm]
  have h2 : Memory.wf c2.mem = true := by simp [c2, h1]
  split
  · exact wf_foldl (fun _ _ hd => wf_chPushRaw _ _ _ hd) _ h2
  · exact h1

/-! ### Popping -/

@[simp] theorem chTake_mem (c : Chip) (s : Nat) : (chTake c s).1.mem = c.mem := by
  simp [chTake]

@[simp] theorem chTakeN_mem (c : Chip) (s n : Nat) : (chTakeN c s n).1.mem = c.mem := by
  induction n generalizing c with
  | zero => rfl
  | succ n ih => exact (ih _).trans (chTake_mem c s)

@[simp] theorem creditReturn_mem (c : Chip) (s : Nat) : (creditReturn c s).mem = c.mem := by
  simp [creditReturn]

/-! ### Handles and parties -/

@[simp] theorem chMet_mem (c : Chip) (s k : Nat) : (chMet c s k).mem = c.mem := by
  unfold chMet
  split <;> simp

@[simp] theorem sendBroken_mem (c : Chip) (s k : Nat) : (sendBroken c s k).mem = c.mem := by
  simp [sendBroken]

@[simp] theorem recvBroken_mem (c : Chip) (s k : Nat) : (recvBroken c s k).mem = c.mem := by
  simp [recvBroken]

/-! ### Gates, closes, resets of crossings -/

@[simp] theorem logWait_mem (c : Chip) (k kind hd : Nat) (vals : List Word) (trap : Option ITrap) :
    (logWait c k kind hd vals trap).mem = c.mem := by
  simp [logWait]

@[simp] theorem mendChannels_mem (c : Chip) (p : Nat) : (mendChannels c p).mem = c.mem := by
  unfold mendChannels
  apply foldl_mem
  intro d a
  rfl

@[simp] theorem loseChannels_mem (c : Chip) (p : Nat) : (loseChannels c p).mem = c.mem := by
  unfold loseChannels
  apply foldl_mem
  intro d a
  rfl

@[simp] theorem badWait_mem (c : Chip) (k : Nat) : (badWait c k).mem = c.mem := by
  simp [badWait]

@[simp] theorem closeSlot_mem (c : Chip) (s : Nat) : (closeSlot c s).1.mem = c.mem := by
  simp [closeSlot]

@[simp] theorem flushChannel_mem (c : Chip) (s held recs : Nat) : (flushChannel c s held recs).1.mem = c.mem := by
  simp [flushChannel]

/-! ### Flits sent -/

@[simp] theorem sendFlits_mem (c : Chip) (l : List Nat) (n : Nat) : (sendFlits c l n).mem = c.mem := by
  simp [sendFlits]

@[simp] theorem accessFlits_mem (c : Chip) (k kind : Nat) (t : Tgt) : (accessFlits c k kind t).mem = c.mem := by
  simp [accessFlits]

@[simp] theorem itemSent_mem (c : Chip) (k s : Nat) : (itemSent c k s).mem = c.mem := by
  simp [itemSent]

@[simp] theorem itemGiven_mem (c : Chip) (k s : Nat) : (itemGiven c k s).mem = c.mem := by
  simp [itemGiven]

/-! ### Deliveries to the host -/

@[simp] theorem msixRequest_mem (c : Chip) (v : Nat) : (msixRequest c v).mem = c.mem := by
  simp [msixRequest]

@[simp] theorem hostDeliver_mem (c : Chip) (s : Nat) : (hostDeliver c s).mem = c.mem := by
  simp [hostDeliver]

@[simp] theorem becomePending_mem (c : Chip) (s : Nat) : (becomePending c s).mem = c.mem := by
  simp [becomePending]

@[simp] theorem becomeIdle_mem (c : Chip) (s : Nat) : (becomeIdle c s).mem = c.mem := by
  simp [becomeIdle]

/-! ### Edges and levels -/

@[simp] theorem srcEdge_mem (c : Chip) (s : Nat) : (srcEdge c s).mem = c.mem := by
  simp [srcEdge]

@[simp] theorem srcJudge_mem (c : Chip) (s : Nat) : (srcJudge c s).mem = c.mem := by
  simp [srcJudge]

@[simp] theorem completeSrc_mem (c : Chip) (s : Nat) : (completeSrc c s).mem = c.mem := by
  simp [completeSrc]

@[simp] theorem completeBy_mem (c : Chip) (holder : Nat) (w : Word) : (completeBy c holder w).mem = c.mem := by
  simp [completeBy]

@[simp] theorem completeHeld_mem (c : Chip) (e : Nat) : (completeHeld c e).mem = c.mem := by
  simp [completeHeld]

@[simp] theorem srcSample_mem (c : Chip) (s : Nat) : (srcSample c s).mem = c.mem := by
  simp [srcSample]

/-! ### Targets -/

@[simp] theorem eventWake_mem (c : Chip) (k : Nat) : (eventWake c k).mem = c.mem := by
  unfold eventWake
  split <;> simp

@[simp] theorem present_mem (c : Chip) (s e : Nat) : (present c s e).mem = c.mem := by
  simp [present]

@[simp] theorem noTarget_mem (c : Chip) (s : Nat) : (noTarget c s).mem = c.mem := by
  simp [noTarget]

@[simp] theorem decideSrc_mem (c : Chip) (s : Nat) : (decideSrc c s).mem = c.mem := by
  unfold decideSrc
  (repeat' split) <;> simp

@[simp] theorem recheckAll_mem (c : Chip) : (recheckAll c).mem = c.mem := by
  simp [recheckAll]

@[simp] theorem withdrawEvery_mem (c : Chip) : (withdrawEvery c).mem = c.mem := by
  simp [withdrawEvery]

/-! ### Claim -/

@[simp] theorem claim_mem (c : Chip) (k : Nat) : (claim c k).1.mem = c.mem := by
  unfold claim
  dsimp only
  split <;> simp -implicitDefEqProofs

@[simp] theorem setCpl_mem (c : Chip) (k : Nat) (w : Word) : (setCpl c k w).mem = c.mem := by
  simp [setCpl]

/-! ### Registers of the distributor -/

@[simp] theorem edsWrite_mem (c : Chip) (s : Nat) (w : Word) : (edsWrite c s w).mem = c.mem := by
  simp [edsWrite]

@[simp] theorem edgRaise_mem (c : Chip) (w : Word) : (edgRaise c w).mem = c.mem := by
  simp [edgRaise]

@[simp] theorem edgCtl_mem (c : Chip) (w : Word) : (edgCtl c w).mem = c.mem := by
  simp [edgCtl]

@[simp] theorem hpop_mem (c : Chip) : (hpop c).1.mem = c.mem := by
  unfold hpop
  split <;> simp

@[simp] theorem updStream_mem (c : Chip) (p k : Nat) (f : Stream → Stream) : (updStream c p k f).mem = c.mem := by
  simp [updStream]

@[simp] theorem noteDone_mem (c : Chip) (lane job : Nat) : (noteDone c lane job).mem = c.mem := by
  simp [noteDone]

@[simp] theorem popWords_mem (c : Chip) (s n : Nat) : (popWords c s n).1.mem = c.mem := by
  induction n generalizing c with
  | zero => rfl
  | succ n ih => exact (ih _).trans (chPopRaw_mem c s)

@[simp] theorem takeGap_mem (c : Chip) (s : Nat) : (takeGap c s).1.mem = c.mem := by
  simp [takeGap]

@[simp] theorem releaseFrame_mem (c : Chip) (p k s : Nat) : (releaseFrame c p k s).mem = c.mem := by
  unfold releaseFrame
  split <;> simp

@[simp] theorem takeBank_mem (c : Chip) (p k s : Nat) : (takeBank c p k s).mem = c.mem := by
  unfold takeBank
  split <;> simp

@[simp] theorem takeBanks_mem (c : Chip) (p k s n : Nat) : (takeBanks c p k s n).mem = c.mem := by
  induction n generalizing c with
  | zero => rfl
  | succ n ih =>
    rw [takeBanks]
    split
    · rfl
    · split
      · rfl
      · exact (ih _).trans (takeBank_mem c p k s)

@[simp] theorem closeBank_mem (c : Chip) (p s : Nat) (slot : Option Nat) (lane job : Nat) :
    (closeBank c p s slot lane job).1.mem = c.mem := by
  unfold closeBank
  split <;> simp

/-! ### Writes to host memory -/

@[simp] theorem hostWrite_mem (c : Chip) (a : Nat) (l : List QWord) (n : Nat) : (hostWrite c a l n).mem = c.mem := by
  induction n generalizing c a l with
  | zero => rfl
  | succ n ih =>
    rw [hostWrite]
    split
    · rfl
    · rw [ih]
      simp

@[simp] theorem hostWriteBytes_mem (c : Chip) (a : Nat) (b : List Byte) : (hostWriteBytes c a b).mem = c.mem := by
  simp [hostWriteBytes]

/-! ### Replies and completions -/

@[simp] theorem sendDatagram_mem (c : Chip) (r : ReplyTo) (pkt : List Byte) : (sendDatagram c r pkt).mem = c.mem := by
  simp [sendDatagram]

@[simp] theorem keepReply_mem (c : Chip) (r : ReplyTo) (comp : Bool) (pkt : List Byte) : (keepReply c r comp pkt).mem = c.mem := by
  simp [keepReply]

@[simp] theorem post_mem (c : Chip) (r : ReplyTo) (comp : Bool) (status : Nat) (detail : Word) (payload : List Byte)
    (handle : Nat) (keep : Bool) : (post c r comp status detail payload handle keep).mem = c.mem := by
  simp [post]

@[simp] theorem reply_mem (c : Chip) (r : ReplyTo) (status : Nat) (detail : Word) : (reply c r status detail).mem = c.mem := by
  simp [reply]

@[simp] theorem replyData_mem (c : Chip) (r : ReplyTo) (payload : List Byte) : (replyData c r payload).mem = c.mem := by
  simp [replyData]

@[simp] theorem accept_mem (c : Chip) (r : ReplyTo) : (accept c r).mem = c.mem := by
  simp [accept]

@[simp] theorem complete_mem (c : Chip) (r : ReplyTo) (status : Nat) (detail : Word) : (complete c r status detail).mem = c.mem := by
  simp [complete]

/-! ### Device states -/

@[simp] theorem setDev_mem (c : Chip) (new : DevState) (cause : Nat) : (setDev c new cause).mem = c.mem := by
  unfold setDev
  dsimp only
  (repeat' split) <;> simp

/-! ### The tablature engine stopped -/

@[simp] theorem setBank_mem (c : Chip) (b n : Nat) : (setBank c b n).mem = c.mem := by
  simp [setBank]

@[simp] theorem dropShadows_mem (c : Chip) (mask : Nat) : (dropShadows c mask).mem = c.mem := by
  unfold dropShadows
  apply foldl_mem
  intro d a
  rfl

@[simp] theorem endArm_mem (c : Chip) (detail : Nat) : (endArm c detail).mem = c.mem := by
  unfold endArm
  split <;> simp

@[simp] theorem drainStart_mem (c : Chip) (d : Detach) : (drainStart c d).mem = c.mem := by
  simp [drainStart]

@[simp] theorem tabStop_mem (c : Chip) : (tabStop c).mem = c.mem := by
  unfold tabStop
  dsimp only
  split <;> simp

@[simp] theorem enterHalted_mem (c : Chip) (cause : Nat) : (enterHalted c cause).mem = c.mem := by
  simp [enterHalted]

/-! ### Ports held -/

@[simp] theorem linkDown_mem (c : Chip) (p : Nat) : (linkDown c p).mem = c.mem := by
  simp [linkDown]

@[simp] theorem drivesOff_mem (c : Chip) (p : Nat) : (drivesOff c p).mem = c.mem := by
  simp [drivesOff]

@[simp] theorem safeHold_mem (c : Chip) (course p : Nat) : (safeHold c course p).mem = c.mem := by
  simp [safeHold]

@[simp] theorem safePorts_mem (c : Chip) (n : Nat) : (safePorts c n).mem = c.mem := by
  simp [safePorts]

@[simp] theorem dropDrive_mem (c : Chip) (p : Nat) : (dropDrive c p).mem = c.mem := by
  simp [dropDrive]

@[simp] theorem dropAllDrives_mem (c : Chip) : (dropAllDrives c).mem = c.mem := by
  simp [dropAllDrives]

/-! ### Held outputs -/

@[simp] theorem returnPlace_mem (c : Chip) (p : Pair) : (returnPlace c p).mem = c.mem := by
  unfold returnPlace
  (repeat' split) <;> simp

@[simp] theorem discardPairs_mem (c : Chip) (n : Nat) : (discardPairs c n).mem = c.mem := by
  simp [discardPairs]

@[simp] theorem stopCourse_mem (c : Chip) (n : Nat) : (stopCourse c n).mem = c.mem := by
  simp [stopCourse]

/-! ### Fatal errors -/

@[simp] theorem fatalHalt_mem (c : Chip) (n : Nat) : (fatalHalt c n).mem = c.mem := by
  simp [fatalHalt]

@[simp] theorem fatalStop_mem (c : Chip) : (fatalStop c).mem = c.mem := by
  simp [fatalStop]

@[simp] theorem failAccepted_mem (c : Chip) : (failAccepted c).mem = c.mem := by
  simp [failAccepted]

@[simp] theorem fatalRecord_mem (c : Chip) (cause : Nat) (detail : Word) : (fatalRecord c cause detail).mem = c.mem := by
  simp [fatalRecord]

@[simp] theorem fatal_mem (c : Chip) (cause : Nat) (detail : Word) : (fatal c cause detail).mem = c.mem := by
  simp -implicitDefEqProofs [fatal]

@[simp] theorem endHand_mem (c : Chip) (n : Nat) : (endHand c n).mem = c.mem := by
  unfold endHand
  split <;> simp

@[simp] theorem luthierFail_mem (c : Chip) : (luthierFail c).mem = c.mem := by
  simp [luthierFail]

@[simp] theorem enterSafe_mem (c : Chip) (n : Nat) : (enterSafe c n).mem = c.mem := by
  simp [enterSafe]

@[simp] theorem tunerFault_mem (c : Chip) (n mcause verdict : Nat) : (tunerFault c n mcause verdict).mem = c.mem := by
  simp -implicitDefEqProofs [tunerFault]

/-! ### Mismatches -/

@[simp] theorem mismatch_mem (c : Chip) (n mcause entry : Nat) : (mismatch c n mcause entry).mem = c.mem := by
  simp [mismatch]

@[simp] theorem replayFail_mem (c : Chip) (n : Nat) : (replayFail c n).mem = c.mem := by
  simp [replayFail]

/-! ### Who may execute -/

@[simp] theorem asyncFails_mem (c : Chip) (k : Nat) : (asyncFails c k).mem = c.mem := by
  simp [asyncFails]

/-! ### Fetch -/

@[simp] theorem readLine_mem (c : Chip) (k base : Nat) : (readLine c k base).1.mem = c.mem := by
  unfold readLine
  apply foldl_fst_mem
  intro a i
  exact readWord_mem _ _ _ _

@[simp] theorem touchLine_mem (c : Chip) (k : Nat) (l : Line) : (touchLine c k l).mem = c.mem := by
  simp [touchLine]

@[simp] theorem fillLine_mem (c : Chip) (k base : Nat) (ws : List IWord) : (fillLine c k base ws).mem = c.mem := by
  simp [fillLine]

@[simp] theorem fetchWord_mem (c : Chip) (k a : Nat) : (fetchWord c k a).1.mem = c.mem := by
  unfold fetchWord
  dsimp only
  split <;> simp

@[simp] theorem fetchInstr_mem (c : Chip) (k a : Nat) : (fetchInstr c k a).c.mem = c.mem := by
  unfold fetchInstr
  dsimp only
  (repeat' split) <;> simp

/-! ### Stores not yet performed, and forwarding -/

@[simp] theorem holdLoad_mem (c : Chip) (k a size : Nat) : (holdLoad c k a size).mem = c.mem := by
  simp [holdLoad]

/-- The chip a local load leaves. -/
def LoadRes.chip : LoadRes → Chip
  | .got d _ => d
  | .hold d => d
  | .poison d => d

theorem loadLocal_mem (c : Chip) (k : Nat) (st : List Store) (a size : Nat) : (loadLocal c k st a size).chip.mem = c.mem := by
  unfold loadLocal
  split
  · rfl
  · simp [LoadRes.chip]
  · split
    · rfl
    · dsimp only
      split <;> simp [LoadRes.chip]

/-! ### The operand stack -/

theorem readFills_mem (k : Nat) (st : List Store) (c : Chip) (n sp : Nat) (l : List Word) :
    (readFills c k st n sp l).1.chip.mem = c.mem := by
  induction n generalizing c sp l with
  | zero => rfl
  | succ n ih =>
    have hl := loadLocal_mem c k st (beneath sp) 4
    rw [readFills]
    split
    · next d w h =>
      rw [h] at hl
      exact (ih d _ _).trans hl
    · exact hl

/-! ### Room for stores -/

@[simp] theorem roomWait_mem (c : Chip) (k : Nat) : (roomWait c k).mem = c.mem := by
  simp [roomWait]

/-! ### The compare buffer -/

@[simp] theorem fillFlight_mem (c : Chip) (k slot : Nat) (g : Flight → Word) (trap : Nat) :
    (fillFlight c k slot g trap).mem = c.mem := by
  simp [fillFlight]

@[simp] theorem settleOwn_mem (c : Chip) (k : Nat) : (settleOwn c k).mem = c.mem := by
  simp [settleOwn]

@[simp] theorem wf_performPriv {c : Chip} (n : Nat) (e : Entry) (hm : Memory.wf c.mem = true) :
    Memory.wf (performPriv c n e).mem = true := by
  simp [performPriv, hm]

@[simp] theorem wf_compareB {c : Chip} (n : Nat) (e : Entry) (hm : Memory.wf c.mem = true) :
    Memory.wf (compareB c n e).mem = true := by
  unfold compareB
  dsimp only
  (repeat' split) <;> simp [hm]

@[simp] theorem wf_placeEntry {c : Chip} (k : Nat) (e : Entry) (hm : Memory.wf c.mem = true) :
    Memory.wf (placeEntry c k e).mem = true := by
  unfold placeEntry
  dsimp only
  (repeat' split) <;> simp [hm]

@[simp] theorem storeReq_mem (c : Chip) (k : Nat) (s : Store) : (storeReq c k s).mem = c.mem := by
  simp [storeReq]

@[simp] theorem wf_ownStore {c : Chip} (k : Nat) (s : Store) (hm : Memory.wf c.mem = true) :
    Memory.wf (ownStore c k s).mem = true := by
  simp [ownStore, hm]

theorem wf_drainOne {c d : Chip} {k : Nat} (hd : drainOne c k = some d) (hm : Memory.wf c.mem = true) : Memory.wf d.mem = true := by
  unfold drainOne at hd
  split at hd
  · cases hd
  dsimp only at hd
  split at hd
  · split at hd
    · cases hd
    · cases hd
      exact wf_ownStore _ _ hm
  · split at hd
    · cases hd
    · cases hd
      simpa using hm

theorem wf_drainAll {c d : Chip} {k n : Nat} (hd : drainAll c k n = some d) (hm : Memory.wf c.mem = true) :
    Memory.wf d.mem = true := by
  induction n generalizing c with
  | zero => cases hd; exact hm
  | succ n ih =>
    rw [drainAll] at hd
    split at hd
    · cases hd; exact hm
    · split at hd
      · next h1 => exact ih hd (wf_drainOne h1 hm)
      · cases hd

@[simp] theorem wf_placeStore {c : Chip} (k : Nat) (s : Store) (hm : Memory.wf c.mem = true) :
    Memory.wf (placeStore c k s).mem = true := by
  unfold placeStore
  (repeat' split) <;> simp [hm]

/-! ### One word -/

/-- The chips a `Prep` can hand on. -/
def Prep.All (P : Chip → Prop) : Prep → Prop
  | .no => True
  | .stop d => P d
  | .go d _ _ => P d

theorem preciseStop_mem (c : Chip) (k cause : Nat) (hb : Bool) (addr : Nat) : (preciseStop c k cause hb addr).All (fun d => d.mem = c.mem) := by
  unfold preciseStop
  split
  · exact trapEntry_mem c k (preciseRec c k cause hb addr)
  · trivial

theorem atHand_mem {c d : Chip} {k : Nat} {rep p : Bool} {op : CoreOp} (hd : atHand c k rep op = some (d, p)) : d.mem = c.mem := by
  unfold atHand at hd
  split at hd
  · simp only [Option.ite_none_right_eq_some, Option.some.injEq, Prod.mk.injEq] at hd
    rw [hd.2.1]
  · simp only [Option.ite_none_left_eq_some, Option.ite_none_right_eq_some, Option.some.injEq, Prod.mk.injEq] at hd
    rw [← hd.2.2.1]
    exact fetchInstr_mem c k _

theorem begin_mem (c : Chip) (k : Nat) (rep : Bool) (op : CoreOp) (n : Nat) (check : List Word → Option (Nat × Bool × Nat)) :
    (begin_ c k rep op n check).All (fun d => d.mem = c.mem) := by
  unfold begin_
  split
  · trivial
  split
  · trivial
  next d p hat =>
  have hd : d.mem = c.mem := atHand_mem hat
  dsimp only
  split
  · split
    · exact (poisonHalt_mem d (courseNo k)).trans hd
    · trivial
  split
  · exact hd ▸ preciseStop_mem d k _ false _
  split
  · exact hd ▸ preciseStop_mem d k _ false 0
  have hf := readFills_mem k (pendStores d k) d ((opEffect op).1 - (coreOf d k).stk.length) (sptrOf d k) []
  rw [hd] at hf
  split
  · next h => rw [h] at hf; exact hf
  · next h => rw [h] at hf; exact hf
  next e w vals h =>
  rw [h] at hf
  replace hf : e.mem = c.mem := hf
  split
  · exact hf ▸ preciseStop_mem e k _ _ _
  split
  · trivial
  split
  · exact (roomWait_mem e k).trans hf
  · exact hf

@[simp] theorem fillUp_mem (c : Chip) (k : Nat) (f : Fills) : (fillUp c k f).mem = c.mem := by
  simp [fillUp]

theorem begin_stop_mem {c d : Chip} {k n : Nat} {rep : Bool} {op : CoreOp} {check : List Word → Option (Nat × Bool × Nat)}
    (h : begin_ c k rep op n check = .stop d) : d.mem = c.mem := by
  have hb := begin_mem c k rep op n check
  rwa [h] at hb

theorem begin_go_mem {c d : Chip} {k n : Nat} {rep : Bool} {op : CoreOp} {check : List Word → Option (Nat × Bool × Nat)} {g : Fills} {ops : List Word}
    (h : begin_ c k rep op n check = .go d g ops) : d.mem = c.mem := by
  have hb := begin_mem c k rep op n check
  rwa [h] at hb

@[simp] theorem wf_endWord {c : Chip} (k : Nat) (f : Fills) (t : Nat) (res : List Word) (stores : List Store) (pc : Nat) (hm : Memory.wf c.mem = true) :
    Memory.wf (endWord c k f t res stores pc).mem = true := by
  unfold endWord
  dsimp only
  rw [retire_mem]
  refine wf_foldl (fun d s hd => wf_placeStore k s hd) _ ?_
  split <;> simpa using hm

@[simp] theorem fetchAhead_mem (c : Chip) (k pc : Nat) : (fetchAhead c k pc).mem = c.mem := by
  unfold fetchAhead
  split <;> simp

@[simp] theorem wf_finish {c : Chip} (k : Nat) (f : Fills) (t : Nat) (res : List Word) (stores : List Store) (pc : Nat)
    (hm : Memory.wf c.mem = true) : Memory.wf (finish c k f t res stores pc).mem = true := by
  simp [finish, hm]

@[simp] theorem wf_plainWord {c : Chip} (k : Nat) (rep : Bool) (op : CoreOp) (len : Nat)
    {f : Chip → List Word → Chip × List Word} (hf : ∀ d ops, Memory.wf d.mem = true → Memory.wf (f d ops).1.mem = true)
    (hm : Memory.wf c.mem = true) : Memory.wf (plainWord c k rep op len f).mem = true := by
  unfold plainWord
  split
  · exact hm
  · next h => rwa [begin_stop_mem h]
  · next d fl ops h => exact wf_finish _ _ _ _ _ _ (hf d ops (by rwa [begin_go_mem h]))

@[simp] theorem putFlags_mem (c : Chip) (k : Nat) (cf : Option Bool) (v : Bool) : (putFlags c k cf v).mem = c.mem := by
  simp [putFlags]

/-! ### Agreed and logged reads -/

@[simp] theorem takeB_mem (c : Chip) (n : Nat) : (takeB c n).mem = c.mem := by
  simp [takeB]

@[simp] theorem takeA_mem (c : Chip) (n : Nat) : (takeA c n).mem = c.mem := by
  simp [takeA]

/-- The chips a `Reader` can hand on are like `c` in `P`. -/
def Reader.All (P : Chip → Prop) : Reader → Prop
  | .given d _ _ => P d
  | .stop d => P d
  | _ => True

theorem reader_mem (c : Chip) (k : Nat) (logged always : Bool) (kind addr size : Nat) : (reader c k logged always kind addr size).All (fun d => d.mem = c.mem) := by
  unfold reader
  dsimp only
  split
  · trivial
  split
  · split
    · trivial
    · split
      · exact mismatch_mem _ _ _ _
      · split
        · trivial
        · exact takeB_mem _ _
  split
  · split
    · split
      · exact takeA_mem _ _
      · exact replayFail_mem _ _
    · split
      · trivial
      · split
        · trivial
        · split
          · exact callCkpt_mem _ _
          · trivial
  · split
    · trivial
    · split <;> trivial

@[simp] theorem logRead_mem (c : Chip) (k : Nat) (logged : Bool) (kind addr : Nat) (size slot : Nat) (vals : List Word)
    (ready : Bool) (trap : Option ITrap) : (logRead c k logged kind addr size slot vals ready trap).mem = c.mem := by
  simp [logRead]

/-! ### Long operations in flight -/

@[simp] theorem addFlight_mem (c : Chip) (k : Nat) (f : Flight) : (addFlight c k f).mem = c.mem := by
  simp [addFlight]

@[simp] theorem putSlot_mem (c : Chip) (k s : Nat) (w : Word) : (putSlot c k s w).mem = c.mem := by
  simp [putSlot]

/-! ### Pairs -/

/-- The chip a half of a pair leaves. -/
def HalfRes.chip : HalfRes → Chip
  | .done d _ => d
  | .hold d => d
  | .poison d => d

theorem runHalf_mem (c : Chip) (k : Nat) (st : List Store) (o : Nat) (ops : List Word) : (runHalf c k st o ops).chip.mem = c.mem := by
  unfold runHalf
  have hl := loadLocal_mem c k st (ops.getD 0 0).toNat (shortSize o)
  dsimp only
  split
  · split
    · next h => rw [h] at hl; exact hl
    · next h => rw [h] at hl; exact hl
    · next h => rw [h] at hl; exact hl
  · split <;> rfl

theorem wf_partStored {c : Chip} (k : Nat) (s : Store) (a size pc : Nat) (hm : Memory.wf c.mem = true) :
    Memory.wf (partStored c k s a size pc).1.chip.mem = true := by
  unfold partStored
  dsimp only
  split
  · exact hm
  split
  · simpa [HalfRes.chip] using hm
  split
  · split
    · simpa [HalfRes.chip] using hm
    · simpa [HalfRes.chip] using hm
  · split
    · exact hm
    · next h =>
      have h2 := wf_drainAll h (by simpa using hm)
      simpa [HalfRes.chip] using wf_ownStore k s h2

theorem wf_runSecond {c : Chip} (k : Nat) (st : List Store) (sa : Option Store) (o : Nat) (ops : List Word)
    (hm : Memory.wf c.mem = true) : Memory.wf (runSecond c k st sa o ops).1.chip.mem = true := by
  have hh := fun st => runHalf_mem c k st o ops
  unfold runSecond
  dsimp only
  split
  · next s =>
    split
    · have hp := wf_partStored k s (ops.getD 0 0).toNat (shortSize o) (nextPc c k) hm
      split
      · next h => rw [h] at hp; exact hp
      · exact hp
    · rw [hh]; exact hm
  · rw [hh]; exact hm

@[simp] theorem wf_xPair {c : Chip} (k : Nat) (rep : Bool) (a b : BitVec 7) (hm : Memory.wf c.mem = true) :
    Memory.wf (xPair c k rep a b).mem = true := by
  unfold xPair
  dsimp only
  split
  · exact hm
  · next h => rw [begin_stop_mem h]; exact hm
  next d fl ops h =>
  have hd : Memory.wf d.mem = true := by rw [begin_go_mem h]; exact hm
  have hr := runHalf_mem d k (pendStores d k) a.toNat (ops.take (shortEffect a.toNat).1)
  rw [← hr] at hd
  split
  · next h => rw [h] at hd; exact hd
  · next h => rw [h] at hd; exact hd
  next e ha h =>
  rw [h] at hd
  have hs := wf_runSecond (c := e) k (pendStores d k) ha.store b.toNat (ops.drop (shortEffect a.toNat).1) hd
  split
  · next h => rw [h] at hs; exact hs
  · next h => rw [h] at hs; exact hs
  · next e' hb made h =>
    rw [h] at hs
    replace hs : Memory.wf e'.mem = true := hs
    simp [hs]

/-! ### Constants and arithmetic with a field -/

@[simp] theorem wf_xLit {c : Chip} (k : Nat) (rep : Bool) (f : BitVec 8) (hm : Memory.wf c.mem = true) :
    Memory.wf (xLit c k rep f).mem = true := by
  simp [xLit, hm]

@[simp] theorem wf_xLitx {c : Chip} (k : Nat) (x : IWord) (hm : Memory.wf c.mem = true) : Memory.wf (xLitx c k x).mem = true := by
  simp [xLitx, hm]

@[simp] theorem wf_xLithi {c : Chip} (k : Nat) (x : IWord) (hm : Memory.wf c.mem = true) : Memory.wf (xLithi c k x).mem = true := by
  simp [xLithi, hm]

@[simp] theorem wf_xAddi {c : Chip} (k : Nat) (rep : Bool) (f : BitVec 8) (hm : Memory.wf c.mem = true) :
    Memory.wf (xAddi c k rep f).mem = true := by
  simp [xAddi, hm]

@[simp] theorem wf_xShli {c : Chip} (k : Nat) (rep : Bool) (n : BitVec 5) (hm : Memory.wf c.mem = true) :
    Memory.wf (xShli c k rep n).mem = true := by
  simp [xShli, hm]

@[simp] theorem wf_xShri {c : Chip} (k : Nat) (rep : Bool) (n : BitVec 5) (hm : Memory.wf c.mem = true) :
    Memory.wf (xShri c k rep n).mem = true := by
  simp [xShri, hm]

@[simp] theorem wf_xSari {c : Chip} (k : Nat) (rep : Bool) (n : BitVec 5) (hm : Memory.wf c.mem = true) :
    Memory.wf (xSari c k rep n).mem = true := by
  simp [xSari, hm]

@[simp] theorem wf_xRoli {c : Chip} (k : Nat) (rep : Bool) (n : BitVec 5) (hm : Memory.wf c.mem = true) :
    Memory.wf (xRoli c k rep n).mem = true := by
  simp [xRoli, hm]

@[simp] theorem wf_xPick {c : Chip} (k : Nat) (rep : Bool) (n : BitVec 3) (hm : Memory.wf c.mem = true) :
    Memory.wf (xPick c k rep n).mem = true := by
  simp [xPick, hm]

/-! ### Targets -/

@[simp] theorem wf_branchWord {c : Chip} (k : Nat) (op : CoreOp) (len : Nat) (off : Word) (taken : List Word → Bool)
    (hm : Memory.wf c.mem = true) : Memory.wf (branchWord c k op len off taken).mem = true := by
  unfold branchWord
  dsimp only
  split
  · exact hm
  · next h => rw [begin_stop_mem h]; exact hm
  · next h => simp [begin_go_mem h, hm]

@[simp] theorem wf_xBr {c : Chip} (k : Nat) (f : BitVec 8) (hm : Memory.wf c.mem = true) : Memory.wf (xBr c k f).mem = true := by
  simp [xBr, hm]

@[simp] theorem wf_xBz {c : Chip} (k : Nat) (f : BitVec 8) (hm : Memory.wf c.mem = true) : Memory.wf (xBz c k f).mem = true := by
  simp [xBz, hm]

@[simp] theorem wf_xBnz {c : Chip} (k : Nat) (f : BitVec 8) (hm : Memory.wf c.mem = true) : Memory.wf (xBnz c k f).mem = true := by
  simp [xBnz, hm]

@[simp] theorem wf_xBrx {c : Chip} (k : Nat) (x : IWord) (hm : Memory.wf c.mem = true) : Memory.wf (xBrx c k x).mem = true := by
  simp [xBrx, hm]

@[simp] theorem wf_xBzx {c : Chip} (k : Nat) (x : IWord) (hm : Memory.wf c.mem = true) : Memory.wf (xBzx c k x).mem = true := by
  simp [xBzx, hm]

@[simp] theorem wf_xBnzx {c : Chip} (k : Nat) (x : IWord) (hm : Memory.wf c.mem = true) : Memory.wf (xBnzx c k x).mem = true := by
  simp [xBnzx, hm]

/-! ### The return stack -/

@[simp] theorem rsPush_mem (c : Chip) (k : Nat) (w : Word) : (rsPush c k w).mem = c.mem := by
  simp [rsPush]

@[simp] theorem rsPop_mem (c : Chip) (k : Nat) : (rsPop c k).mem = c.mem := by
  simp [rsPop]

@[simp] theorem wf_rsWord {c : Chip} (k : Nat) (op : CoreOp) {f : Chip → List Word → Chip × List Word}
    (hf : ∀ d ops, Memory.wf d.mem = true → Memory.wf (f d ops).1.mem = true) (hm : Memory.wf c.mem = true) :
    Memory.wf (rsWord c k op f).mem = true :=
  wf_plainWord k false op 2 hf hm

@[simp] theorem wf_xTor {c : Chip} (k : Nat) (hm : Memory.wf c.mem = true) : Memory.wf (xTor c k).mem = true := by
  simp [xTor, hm]

@[simp] theorem wf_xFromr {c : Chip} (k : Nat) (hm : Memory.wf c.mem = true) : Memory.wf (xFromr c k).mem = true := by
  simp [xFromr, hm]

@[simp] theorem wf_xRget {c : Chip} (k : Nat) (hm : Memory.wf c.mem = true) : Memory.wf (xRget c k).mem = true := by
  simp [xRget, hm]

@[simp] theorem wf_xRdrop {c : Chip} (k : Nat) (hm : Memory.wf c.mem = true) : Memory.wf (xRdrop c k).mem = true := by
  simp [xRdrop, hm]

@[simp] theorem wf_jumpWord {c : Chip} (k : Nat) (op : CoreOp) (target : Chip → List Word → Word) {f : Chip → Chip}
    (hf : ∀ d, Memory.wf d.mem = true → Memory.wf (f d).mem = true) (hm : Memory.wf c.mem = true) :
    Memory.wf (jumpWord c k op target f).mem = true := by
  unfold jumpWord
  split
  · exact hm
  · next h => rwa [begin_stop_mem h]
  · next d fl ops h => exact wf_finish _ _ _ _ _ _ (hf d (by rwa [begin_go_mem h]))

@[simp] theorem wf_xCall {c : Chip} (k : Nat) (x : IWord) (hm : Memory.wf c.mem = true) : Memory.wf (xCall c k x).mem = true := by
  simp [xCall, hm]

@[simp] theorem wf_xCalli {c : Chip} (k : Nat) (hm : Memory.wf c.mem = true) : Memory.wf (xCalli c k).mem = true := by
  simp [xCalli, hm]

@[simp] theorem wf_xRet {c : Chip} (k : Nat) (hm : Memory.wf c.mem = true) : Memory.wf (xRet c k).mem = true := by
  simp [xRet, hm]

@[simp] theorem wf_xJmpi {c : Chip} (k : Nat) (hm : Memory.wf c.mem = true) : Memory.wf (xJmpi c k).mem = true := by
  simp [xJmpi, hm]

/-! ### Repetition -/

@[simp] theorem startRep_mem (c : Chip) (k a n : Nat) (intr : Bool) (w : IWord) : (startRep c k a n intr w).mem = c.mem := by
  simp [startRep]

@[simp] theorem wf_repWord {c : Chip} (k : Nat) (f : BitVec 8) (intr : Bool) (hm : Memory.wf c.mem = true) :
    Memory.wf (repWord c k f intr).mem = true := by
  unfold repWord
  dsimp only
  split
  · exact hm
  · next h => rw [begin_stop_mem h]; exact hm
  · next h => simp [begin_go_mem h, hm]

@[simp] theorem wf_xRep {c : Chip} (k : Nat) (f : BitVec 8) (hm : Memory.wf c.mem = true) : Memory.wf (xRep c k f).mem = true := by
  simp [xRep, hm]

@[simp] theorem wf_xRepi {c : Chip} (k : Nat) (f : BitVec 8) (hm : Memory.wf c.mem = true) : Memory.wf (xRepi c k f).mem = true := by
  simp [xRepi, hm]

/-! ### TRAP and RETT -/

@[simp] theorem wf_xTrap {c : Chip} (k : Nat) (f : BitVec 8) (hm : Memory.wf c.mem = true) : Memory.wf (xTrap c k f).mem = true := by
  unfold xTrap
  split
  · exact hm
  · next h => rw [begin_stop_mem h]; exact hm
  · next h => simp [begin_go_mem h, hm]

@[simp] theorem resumeRep_mem (c : Chip) (k t : Nat) : (resumeRep c k t).mem = c.mem := by
  simp [resumeRep]

@[simp] theorem rettTrap_mem (c : Chip) (k t : Nat) : (rettTrap c k t).mem = c.mem := by
  unfold rettTrap
  split
  · rfl
  split
  · rfl
  · next h =>
    have hd := atHand_mem h
    dsimp only
    split <;> simp [hd]

@[simp] theorem wf_xRett {c : Chip} (k : Nat) (hm : Memory.wf c.mem = true) : Memory.wf (xRett c k).mem = true := by
  unfold xRett
  dsimp only
  split
  · rwa [rettTrap_mem]
  split
  · exact hm
  · next h => rwa [begin_stop_mem h]
  · next h => split <;> simp [begin_go_mem h, hm]

/-! ### Flights -/

@[simp] theorem issueReq_mem (c : Chip) (k kind : Nat) (slot a size : Nat) (data : Word) :
    (issueReq c k kind slot a size data).mem = c.mem := by
  simp [issueReq]

@[simp] theorem issueMem_mem (c : Chip) (k op : Nat) (kind slot : Nat) (a size : Nat) (sg : Bool) (data : Word) :
    (issueMem c k op kind slot a size sg data).mem = c.mem := by
  simp [issueMem]

theorem reader_given_mem {c d : Chip} {k kind addr size : Nat} {logged always : Bool} {vals : List Word} {t : Option ITrap}
    (h : reader c k logged always kind addr size = .given d vals t) : d.mem = c.mem := by
  have hr := reader_mem c k logged always kind addr size
  rwa [h] at hr

theorem reader_stop_mem {c d : Chip} {k kind addr size : Nat} {logged always : Bool} (h : reader c k logged always kind addr size = .stop d) : d.mem = c.mem := by
  have hr := reader_mem c k logged always kind addr size
  rwa [h] at hr

@[simp] theorem wf_readThrough {c0 c : Chip} (k op kind slot a size tag : Nat) (sg logged always : Bool) (data : Word) {last : Chip → Chip}
    (hl : ∀ d, Memory.wf d.mem = true → Memory.wf (last d).mem = true) (h0 : Memory.wf c0.mem = true) (hm : Memory.wf c.mem = true) :
    Memory.wf (readThrough c0 c k op kind slot a size tag sg logged always data last).mem = true := by
  unfold readThrough
  split
  · exact hl _ (by simpa using hm)
  · exact hl _ (by simpa using hm)
  · next hr => exact hl _ (by simpa [reader_given_mem hr] using hm)
  · exact h0
  · next hr => rwa [reader_stop_mem hr]

/-! ### LDR, AGREE, LR -/

@[simp] theorem lrForwarded_mem (c : Chip) (k slot a : Nat) (w : Word) : (lrForwarded c k slot a w).mem = c.mem := by
  simp [lrForwarded]

@[simp] theorem wf_lrWord {c0 c : Chip} (k slot a tag : Nat) {last : Chip → Chip}
    (hl : ∀ d, Memory.wf d.mem = true → Memory.wf (last d).mem = true) (h0 : Memory.wf c0.mem = true)
    (hm : Memory.wf c.mem = true) : Memory.wf (lrWord c0 c k slot a tag last).mem = true := by
  unfold lrWord
  split
  · next hr => exact hl _ (by simpa [reader_given_mem hr] using hm)
  · exact h0
  · next hr => rwa [reader_stop_mem hr]
  · dsimp only
    split
    · simpa using h0
    · exact hl _ (by simpa using hm)
    · exact hl _ (by simpa using hm)

@[simp] theorem wf_loadWord {c0 : Chip} (k : Nat) (rep : Bool) (op : CoreOp) (code slot size : Nat) (sg : Bool)
    (hm : Memory.wf c0.mem = true) : Memory.wf (loadWord c0 k rep op code slot size sg).mem = true := by
  unfold loadWord
  split
  · exact hm
  · next h => rwa [begin_stop_mem h]
  next d fl ops h =>
  have hd : Memory.wf d.mem = true := by rwa [begin_go_mem h]
  have hl : ∀ e, Memory.wf e.mem = true → Memory.wf (finish e k fl 1 [] [] (nextPc e k)).mem = true :=
    fun e he => wf_finish _ _ _ _ _ _ he
  dsimp only
  split
  · exact hm
  split
  · exact wf_lrWord _ _ _ _ hl hm hd
  split
  · simpa using hm
  · exact hl _ (by simpa using hd)
  · split
    · exact hl _ (by simpa using hd)
    · exact wf_readThrough _ _ _ _ _ _ _ _ _ _ _ hl hm hd

@[simp] theorem wf_xLdr {c : Chip} (k : Nat) (rep : Bool) (slot size : BitVec 2) (sg : Bool) (hm : Memory.wf c.mem = true) :
    Memory.wf (xLdr c k rep slot size sg).mem = true := by
  simp [xLdr, hm]

@[simp] theorem wf_xAgree {c : Chip} (k : Nat) (rep : Bool) (slot size : BitVec 2) (sg : Bool) (hm : Memory.wf c.mem = true) :
    Memory.wf (xAgree c k rep slot size sg).mem = true := by
  simp [xAgree, hm]

@[simp] theorem wf_xLr {c : Chip} (k : Nat) (rep : Bool) (slot : BitVec 2) (hm : Memory.wf c.mem = true) :
    Memory.wf (xLr c k rep slot).mem = true := by
  simp [xLr, hm]

/-! ### STR -/

@[simp] theorem wf_xStr {c : Chip} (k : Nat) (rep : Bool) (size : BitVec 2) (tflt : Nat) (hm : Memory.wf c.mem = true) :
    Memory.wf (xStr c k rep size tflt).mem = true := by
  unfold xStr
  dsimp only
  split
  · exact hm
  · next h => rw [begin_stop_mem h]; exact hm
  · next h => simp [begin_go_mem h, hm]

/-! ### TAS and SC -/

@[simp] theorem wf_atomicWord {c0 : Chip} (k : Nat) (rep : Bool) (op : CoreOp) (code kind slot : Nat) (value : List Word → Word)
    (hm : Memory.wf c0.mem = true) : Memory.wf (atomicWord c0 k rep op code kind slot value).mem = true := by
  unfold atomicWord
  split
  · exact hm
  · next h => rwa [begin_stop_mem h]
  next d fl ops h =>
  have hd : Memory.wf d.mem = true := by rwa [begin_go_mem h]
  dsimp only
  split
  · exact hm
  split
  · simpa using hm
  split
  · simpa using hd
  split
  · exact hm
  · exact wf_readThrough _ _ _ _ _ _ _ _ _ _ _ (fun e he => wf_finish _ _ _ _ _ _ he) hm (by simpa using hd)

@[simp] theorem wf_xTas {c : Chip} (k : Nat) (rep : Bool) (slot : BitVec 2) (hm : Memory.wf c.mem = true) :
    Memory.wf (xTas c k rep slot).mem = true := by
  simp [xTas, hm]

@[simp] theorem wf_xSc {c : Chip} (k : Nat) (rep : Bool) (slot : BitVec 2) (hm : Memory.wf c.mem = true) :
    Memory.wf (xSc c k rep slot).mem = true := by
  simp [xSc, hm]

/-! ### MUL and DIV -/

@[simp] theorem wf_unitWord {c0 : Chip} (k : Nat) (rep : Bool) (op : CoreOp) (slot : Nat) (f : Chip → List Word → Flight)
    (hm : Memory.wf c0.mem = true) : Memory.wf (unitWord c0 k rep op slot f).mem = true := by
  unfold unitWord
  split
  · exact hm
  · next h => rw [begin_stop_mem h]; exact hm
  · next h => simp [begin_go_mem h, hm]

@[simp] theorem wf_xMul {c : Chip} (k : Nat) (rep : Bool) (slot : BitVec 2) (uns : Bool) (hm : Memory.wf c.mem = true) :
    Memory.wf (xMul c k rep slot uns).mem = true := by
  simp [xMul, hm]

@[simp] theorem wf_xDiv {c : Chip} (k : Nat) (rep : Bool) (slot : BitVec 2) (uns : Bool) (hm : Memory.wf c.mem = true) :
    Memory.wf (xDiv c k rep slot uns).mem = true := by
  simp [xDiv, hm]

/-! ### Slots -/

@[simp] theorem wf_xLand {c : Chip} (k : Nat) (rep : Bool) (slot : BitVec 2) (hm : Memory.wf c.mem = true) :
    Memory.wf (xLand c k rep slot).mem = true := by
  simp [xLand, hm]

@[simp] theorem wf_xPutl {c0 : Chip} (k : Nat) (rep : Bool) (slot : BitVec 2) (hm : Memory.wf c0.mem = true) :
    Memory.wf (xPutl c0 k rep slot).mem = true := by
  unfold xPutl
  split
  · exact hm
  · next h => rw [begin_stop_mem h]; exact hm
  · next h => simp [begin_go_mem h, hm]

@[simp] theorem wf_xWaitl {c0 : Chip} (k : Nat) (rep : Bool) (m : BitVec 4) (hm : Memory.wf c0.mem = true) :
    Memory.wf (xWaitl c0 k rep m).mem = true := by
  unfold xWaitl
  split
  · exact hm
  · next h => rw [begin_stop_mem h]; exact hm
  · next h => simp [begin_go_mem h, hm]

/-! ### SEND and SENDT -/

@[simp] theorem reservePlace_mem (c : Chip) (s : Nat) : (reservePlace c s).mem = c.mem := by
  simp [reservePlace]

@[simp] theorem startWait_mem (c : Chip) (k : Nat) (f : Fills) (w : Wait) : (startWait c k f w).mem = c.mem := by
  simp [startWait]

@[simp] theorem wf_sendPlaced {c : Chip} (s k : Nat) (h v : Word) (hm : Memory.wf c.mem = true) :
    Memory.wf (sendPlaced c s k h v).mem = true := by
  simp [sendPlaced, hm]

@[simp] theorem wf_sendStream {c : Chip} (s k : Nat) (v : Word) (hm : Memory.wf c.mem = true) :
    Memory.wf (sendStream c s k v).mem = true := by
  simp [sendStream, hm]

@[simp] theorem wf_sendEnds {c : Chip} (s k : Nat) (hm : Memory.wf c.mem = true) : Memory.wf (sendEnds c s k).mem = true := by
  unfold sendEnds
  dsimp only
  (repeat' split) <;> simp [hm]

@[simp] theorem wf_breakWaits {c : Chip} (s : Nat) (hm : Memory.wf c.mem = true) : Memory.wf (breakWaits c s).mem = true := by
  unfold breakWaits
  dsimp only
  refine wf_foldl (fun d s' hd => wf_sendEnds _ _ hd) _ ?_
  rw [foldl_mem (fun d k => by simp)]
  exact hm

@[simp] theorem wf_breakChannels {c : Chip} (p : Nat) (hm : Memory.wf c.mem = true) : Memory.wf (breakChannels c p).mem = true := by
  unfold breakChannels
  exact wf_foldl (fun d s hd => wf_breakWaits s (by exact hd)) _ hm

@[simp] theorem sendWait_mem (c : Chip) (s k : Nat) (fl : Fills) (h v : Word) : (sendWait c s k fl h v).mem = c.mem := by
  simp [sendWait]

@[simp] theorem wf_xSend {c0 : Chip} (k : Nat) (rep : Bool) (hm : Memory.wf c0.mem = true) :
    Memory.wf (xSend c0 k rep).mem = true := by
  unfold xSend
  dsimp only
  split
  · exact hm
  · next h => rw [begin_stop_mem h]; exact hm
  · next h => (repeat' split) <;> simp [begin_go_mem h, hm]

@[simp] theorem wf_xSendt {c0 : Chip} (k : Nat) (rep : Bool) (hm : Memory.wf c0.mem = true) :
    Memory.wf (xSendt c0 k rep).mem = true := by
  unfold xSendt
  split
  · exact hm
  · next h => rwa [begin_stop_mem h]
  next d fl ops h =>
  have hd : Memory.wf d.mem = true := by rwa [begin_go_mem h]
  dsimp only
  split
  · split
    · next hr =>
      have he := (reader_given_mem hr).symm ▸ hd
      split <;> simp [he]
    · exact hm
    · next hr => rwa [reader_stop_mem hr]
    · (repeat' split) <;> simp [hd]
  · (repeat' split) <;> simp [hd, hm]

/-! ### RECV and RECVT -/

@[simp] theorem recvPoison_mem (c : Chip) (k ipc hd : Nat) : (recvPoison c k ipc hd).mem = c.mem := by
  simp [recvPoison]

/-- The chips an `Item` can hand on are like `c` in `P`. -/
def Item.All (P : Chip → Prop) : Item → Prop
  | .word d _ _ => P d
  | .broken d => P d
  | .empty => True

theorem recvItem_mem (c : Chip) (k s : Nat) : (recvItem c k s).All (fun d => d.mem = c.mem) := by
  unfold recvItem
  dsimp only
  split
  · exact recvBroken_mem _ _ _
  · split
    · simp [Item.All]
    · trivial

@[simp] theorem wf_xRecv {c0 : Chip} (k : Nat) (rep : Bool) (hm : Memory.wf c0.mem = true) :
    Memory.wf (xRecv c0 k rep).mem = true := by
  unfold xRecv
  split
  · exact hm
  · next h => rwa [begin_stop_mem h]
  next d fl ops h =>
  have hd : Memory.wf d.mem = true := by rwa [begin_go_mem h]
  dsimp only
  split
  · next hr =>
    have he := (reader_given_mem hr).symm ▸ hd
    split <;> simp [he]
  · exact hm
  · next hr => rwa [reader_stop_mem hr]
  split
  · exact hm
  have hi := recvItem_mem d k ((ops.getD 0 0).toNat % 4096)
  split
  · next hr =>
    rw [hr] at hi
    have he := hi.symm ▸ hd
    (repeat' split) <;> simp [he]
  · next hr =>
    rw [hr] at hi
    have he := hi.symm ▸ hd
    (repeat' split) <;> simp [he]
  · split <;> simp [hd, hm]

@[simp] theorem wf_xRecvt {c0 : Chip} (k : Nat) (rep : Bool) (hm : Memory.wf c0.mem = true) :
    Memory.wf (xRecvt c0 k rep).mem = true := by
  unfold xRecvt
  split
  · exact hm
  · next h => rwa [begin_stop_mem h]
  next d fl ops h =>
  have hd : Memory.wf d.mem = true := by rwa [begin_go_mem h]
  dsimp only
  split
  · next hr =>
    have he := (reader_given_mem hr).symm ▸ hd
    split <;> simp [he]
  · exact hm
  · next hr => rwa [reader_stop_mem hr]
  split
  · exact hm
  have hi := recvItem_mem d k ((ops.getD 0 0).toNat % 4096)
  split
  · next hr =>
    rw [hr] at hi
    have he := hi.symm ▸ hd
    (repeat' split) <;> simp [he]
  · next hr =>
    rw [hr] at hi
    have he := hi.symm ▸ hd
    (repeat' split) <;> simp [he]
  · split <;> simp [hd]

/-! ### SLEEP, WAIT, CKPT -/

@[simp] theorem wf_eventWord {c0 : Chip} (k : Nat) (rep : Bool) (op : CoreOp) (code kind : Nat) (push : List Word)
    (hm : Memory.wf c0.mem = true) : Memory.wf (eventWord c0 k rep op code kind push).mem = true := by
  unfold eventWord
  split
  · exact hm
  · next h => rwa [begin_stop_mem h]
  next d fl ops h =>
  have hd : Memory.wf d.mem = true := by rwa [begin_go_mem h]
  dsimp only
  split
  · next hr => simp [reader_given_mem hr, hd]
  · exact hm
  · next hr => rwa [reader_stop_mem hr]
  · (repeat' split) <;> simp [hd, hm]

@[simp] theorem wf_xSleep {c : Chip} (k : Nat) (hm : Memory.wf c.mem = true) : Memory.wf (xSleep c k).mem = true := by
  simp [xSleep, hm]

@[simp] theorem wf_xWait {c : Chip} (k : Nat) (t : Bool) (hm : Memory.wf c.mem = true) : Memory.wf (xWait c k t).mem = true := by
  simp [xWait, hm]

@[simp] theorem wf_xCkpt {c : Chip} (k : Nat) (hm : Memory.wf c.mem = true) : Memory.wf (xCkpt c k).mem = true := by
  unfold xCkpt
  split
  · exact hm
  · next h => rw [begin_stop_mem h]; exact hm
  · next h => simp [begin_go_mem h, hm]

/-! ### Barriers -/

@[simp] theorem barrierEnd_mem (c : Chip) (k kind : Nat) : (barrierEnd c k kind).mem = c.mem := by
  simp [barrierEnd]

@[simp] theorem barrierCheck_mem (c : Chip) (k : Nat) : (barrierCheck c k).mem = c.mem := by
  unfold barrierCheck
  split <;> simp

@[simp] theorem wf_barrierWord {c0 : Chip} (k : Nat) (op : CoreOp) (kind : Nat) (hm : Memory.wf c0.mem = true) :
    Memory.wf (barrierWord c0 k op kind).mem = true := by
  unfold barrierWord
  split
  · exact hm
  · next h => rw [begin_stop_mem h]; exact hm
  · next h => split <;> simp [begin_go_mem h, hm]

@[simp] theorem wf_xFence {c : Chip} (k : Nat) (hm : Memory.wf c.mem = true) : Memory.wf (xFence c k).mem = true := by
  simp [xFence, hm]

@[simp] theorem wf_xSync {c : Chip} (k : Nat) (hm : Memory.wf c.mem = true) : Memory.wf (xSync c k).mem = true := by
  simp [xSync, hm]

@[simp] theorem wf_xIfence {c : Chip} (k : Nat) (hm : Memory.wf c.mem = true) : Memory.wf (xIfence c k).mem = true := by
  simp [xIfence, hm]

/-! ### CSRs -/

@[simp] theorem wf_csrReadWord {c0 : Chip} (k : Nat) (rep : Bool) (i : BitVec 8) (logged : Bool)
    {perform : Chip → Chip × List Word} {take : Chip → List Word → Chip}
    (hp : ∀ d, Memory.wf d.mem = true → Memory.wf (perform d).1.mem = true)
    (ht : ∀ d l, Memory.wf d.mem = true → Memory.wf (take d l).mem = true) (hm : Memory.wf c0.mem = true) :
    Memory.wf (csrReadWord c0 k rep i logged perform take).mem = true := by
  unfold csrReadWord
  split
  · exact hm
  · next h => rwa [begin_stop_mem h]
  next d fl ops h =>
  have hd : Memory.wf d.mem = true := by rwa [begin_go_mem h]
  dsimp only
  split
  · next hr => exact wf_finish _ _ _ _ _ _ (ht _ _ (by rwa [reader_given_mem hr]))
  · exact hm
  · next hr => rwa [reader_stop_mem hr]
  · exact wf_finish _ _ _ _ _ _ (ht _ _ (hp d hd))
  · exact wf_finish _ _ _ _ _ _ (ht _ _ (by simpa using hp d hd))

@[simp] theorem wf_xCsrr {c : Chip} (k : Nat) (rep : Bool) (i : BitVec 8) (hm : Memory.wf c.mem = true) :
    Memory.wf (xCsrr c k rep i).mem = true := by
  unfold xCsrr
  split <;> simp [hm]

@[simp] theorem wf_xCsrrTblo {c : Chip} (k : Nat) (rep : Bool) (hm : Memory.wf c.mem = true) :
    Memory.wf (xCsrrTblo c k rep).mem = true :=
  wf_csrReadWord k rep _ false (fun _ hd => hd) (fun _ _ hd => hd) hm

@[simp] theorem wf_xCsrrDpos {c : Chip} (k : Nat) (rep : Bool) (hm : Memory.wf c.mem = true) :
    Memory.wf (xCsrrDpos c k rep).mem = true := by
  simp [xCsrrDpos, hm]

@[simp] theorem wf_xCsrrClaim {c : Chip} (k : Nat) (rep : Bool) (hm : Memory.wf c.mem = true) :
    Memory.wf (xCsrrClaim c k rep).mem = true := by
  simp [xCsrrClaim, hm]

@[simp] theorem wf_csrWriteWord {c : Chip} (k : Nat) (rep : Bool) (i : BitVec 8) (stores : Nat) {f : Chip → Word → Chip}
    (hf : ∀ d w, Memory.wf d.mem = true → Memory.wf (f d w).mem = true) (hm : Memory.wf c.mem = true) :
    Memory.wf (csrWriteWord c k rep i stores f).mem = true := by
  unfold csrWriteWord
  split
  · exact hm
  · next h => rwa [begin_stop_mem h]
  · next d fl ops h => exact hf _ _ (wf_finish _ _ _ _ _ _ (by rwa [begin_go_mem h]))

@[simp] theorem csrCfgErr_mem (c : Chip) (k : Nat) : (csrCfgErr c k).mem = c.mem := by
  simp [csrCfgErr]

@[simp] theorem csrStore_mem (c : Chip) (k i : Nat) (w : Word) : (csrStore c k i w).mem = c.mem := by
  simp [csrStore]

@[simp] theorem wf_xCsrw {c : Chip} (k : Nat) (rep : Bool) (i : BitVec 8) (hm : Memory.wf c.mem = true) :
    Memory.wf (xCsrw c k rep i).mem = true := by
  simp [xCsrw, hm]

@[simp] theorem wf_xCsrwDeferred {c : Chip} (k : Nat) (rep : Bool) (i : BitVec 8) (hm : Memory.wf c.mem = true) :
    Memory.wf (xCsrwDeferred c k rep i).mem = true := by
  simp [xCsrwDeferred, hm]

@[simp] theorem wf_xCsrwSptr {c : Chip} (k : Nat) (rep : Bool) (hm : Memory.wf c.mem = true) :
    Memory.wf (xCsrwSptr c k rep).mem = true := by
  simp [xCsrwSptr, hm]

@[simp] theorem wf_xCsrwDpos {c : Chip} (k : Nat) (rep : Bool) (hm : Memory.wf c.mem = true) :
    Memory.wf (xCsrwDpos c k rep).mem = true :=
  wf_csrWriteWord k rep _ 0 (fun _ _ hd => hd) hm

@[simp] theorem wf_xCsrwComplete {c : Chip} (k : Nat) (rep : Bool) (hm : Memory.wf c.mem = true) :
    Memory.wf (xCsrwComplete c k rep).mem = true := by
  unfold xCsrwComplete
  refine wf_csrWriteWord k rep _ _ ?_ hm
  intro d w hd
  split <;> simp [hd]

@[simp] theorem wf_xCsrwCpl {c : Chip} (k : Nat) (rep : Bool) (hm : Memory.wf c.mem = true) :
    Memory.wf (xCsrwCpl c k rep).mem = true := by
  simp [xCsrwCpl, hm]

/-! ### The coprocessor block -/

@[simp] theorem camPush_mem (c : Chip) (e : Nat) (o : CamOp) : (camPush c e o).mem = c.mem := by
  simp [camPush]

@[simp] theorem camWait_mem (c : Chip) (e : Nat) (w : CamWait) : (camWait c e w).mem = c.mem := by
  simp [camWait]

@[simp] theorem coreCamWait_mem (c : Chip) (k op : Nat) : (coreCamWait c k op).mem = c.mem := by
  simp [coreCamWait]

@[simp] theorem camWaitEnd_mem (c : Chip) (e : Nat) (lane : Bool) (who : Nat) : (camWaitEnd c e lane who).mem = c.mem := by
  simp [camWaitEnd]

@[simp] theorem camTake_mem (c : Chip) (e : Nat) (o : CamOp) : (camTake c e o).mem = c.mem := by
  simp [camTake]

@[simp] theorem camAdmit_mem (c : Chip) (n e : Nat) : (camAdmit n c e).mem = c.mem := by
  induction n generalizing c with
  | zero => rfl
  | succ n ih =>
    rw [camAdmit]
    split
    · exact (ih _).trans (by simp)
    · rfl

@[simp] theorem camAdmitAll_mem (c : Chip) (e : Nat) : (camAdmitAll c e).mem = c.mem := by
  simp [camAdmitAll]

@[simp] theorem offFlight_mem (c : Chip) (k op slot : Nat) (wide : Bool) : (offFlight c k op slot wide).mem = c.mem := by
  simp [offFlight]

@[simp] theorem camIssue_mem (c : Chip) (k op : Nat) (slot sel : Nat) (a n : Nat) (wide : Bool) :
    (camIssue c k op slot sel a n wide).mem = c.mem := by
  simp [camIssue]

@[simp] theorem wf_cpStateWord {c0 : Chip} (k : Nat) (rep : Bool) (op slot sel : Nat) (cop : CoreOp)
    (arg : List Word → Nat × Nat) (hm : Memory.wf c0.mem = true) :
    Memory.wf (cpStateWord c0 k rep op slot sel cop arg).mem = true := by
  unfold cpStateWord
  dsimp only
  split
  · exact hm
  · next h => rw [begin_stop_mem h]; exact hm
  · next h => (repeat' split) <;> simp [begin_go_mem h, hm]

@[simp] theorem wf_cpReadWord {c0 : Chip} (k : Nat) (rep : Bool) (op slot sel : Nat) (cop : CoreOp) (wide : Bool)
    (hm : Memory.wf c0.mem = true) : Memory.wf (cpReadWord c0 k rep op slot sel cop wide).mem = true := by
  unfold cpReadWord
  split
  · exact hm
  · next h => rwa [begin_stop_mem h]
  next d fl ops h =>
  have hd : Memory.wf d.mem = true := by rwa [begin_go_mem h]
  dsimp only
  split
  · exact hm
  split
  · simpa using hm
  split
  · next hr => simp [reader_given_mem hr, hd]
  · exact hm
  · next hr => rwa [reader_stop_mem hr]
  · split <;> simp [hd, hm]
  · split <;> simp [hd, hm]

@[simp] theorem wf_xCpwr {c : Chip} (k : Nat) (rep : Bool) (slot : BitVec 2) (sel : BitVec 5) (hm : Memory.wf c.mem = true) :
    Memory.wf (xCpwr c k rep slot sel).mem = true := by
  simp [xCpwr, hm]

@[simp] theorem wf_xCprd {c : Chip} (k : Nat) (rep : Bool) (slot : BitVec 2) (sel : BitVec 5) (hm : Memory.wf c.mem = true) :
    Memory.wf (xCprd c k rep slot sel).mem = true := by
  simp [xCprd, hm]

@[simp] theorem wf_xCamev {c : Chip} (k : Nat) (rep : Bool) (slot : BitVec 2) (sel : BitVec 5) (hm : Memory.wf c.mem = true) :
    Memory.wf (xCamev c k rep slot sel).mem = true := by
  simp [xCamev, hm]

@[simp] theorem wf_xCamev2 {c : Chip} (k : Nat) (rep : Bool) (slot : BitVec 2) (sel : BitVec 5) (hm : Memory.wf c.mem = true) :
    Memory.wf (xCamev2 c k rep slot sel).mem = true := by
  simp [xCamev2, hm]

@[simp] theorem wf_xCamevd {c : Chip} (k : Nat) (rep : Bool) (slot : BitVec 2) (sel : BitVec 5) (hm : Memory.wf c.mem = true) :
    Memory.wf (xCamevd c k rep slot sel).mem = true := by
  simp [xCamevd, hm]

@[simp] theorem wf_xCamofs {c : Chip} (k : Nat) (rep : Bool) (slot : BitVec 2) (sel : BitVec 5) (hm : Memory.wf c.mem = true) :
    Memory.wf (xCamofs c k rep slot sel).mem = true := by
  simp [xCamofs, hm]

@[simp] theorem wf_xCamld {c : Chip} (k : Nat) (rep : Bool) (slot : BitVec 2) (sel : BitVec 5) (hm : Memory.wf c.mem = true) :
    Memory.wf (xCamld c k rep slot sel).mem = true := by
  simp [xCamld, hm]

@[simp] theorem wf_xCpsync {c : Chip} (k : Nat) (rep : Bool) (slot : BitVec 2) (sel : BitVec 5) (hm : Memory.wf c.mem = true) :
    Memory.wf (xCpsync c k rep slot sel).mem = true := by
  simp [xCpsync, hm]

/-! ### Evaluation -/

@[simp] theorem pickNear_mem (c : Chip) (num : Int) (den w : Nat) : (pickNear c num den w).1.mem = c.mem := by
  simp [pickNear]

@[simp] theorem camEval_mem (c : Chip) (l : List Byte) (ofs p : Nat) : (camEval c l ofs p).1.mem = c.mem := by
  unfold camEval
  split <;> simp

/-! ### Failures, status -/

@[simp] theorem camFailure_mem (c : Chip) (e code sel : Nat) : (camFailure c e code sel).mem = c.mem := by
  unfold camFailure
  rw [regSetFld_mem, regSetFld_mem, regOr_mem, regCount_mem]

@[simp] theorem camOor_mem (c : Chip) (e : Nat) : (camOor c e).mem = c.mem := by
  simp [camOor]

@[simp] theorem camEcc_mem (c : Chip) (e sel ecc at_ : Nat) (touched : Nat → Bool) :
    (camEcc c e sel ecc at_ touched).1.mem = c.mem := by
  simp -implicitDefEqProofs [camEcc]

@[simp] theorem camEvaluate_mem (c : Chip) (e sel : Nat) (p ecc at_ : Nat) : (camEvaluate c e sel p ecc at_).1.mem = c.mem := by
  simp [camEvaluate]

/-! ### Engine registers -/

@[simp] theorem setOfs_mem (c : Chip) (e sel d : Nat) : (setOfs c e sel d).mem = c.mem := by
  simp [setOfs]

@[simp] theorem camRegRead_mem (c : Chip) (e i : Nat) : (camRegRead c e i).1.mem = c.mem := by
  simp [camRegRead]

@[simp] theorem camRegWrite_mem (c : Chip) (e i : Nat) (w : Word) : (camRegWrite c e i w).mem = c.mem := by
  simp [camRegWrite]

/-! ### Results to the strings -/

@[simp] theorem landCore_mem (c : Chip) (k op slot : Nat) (lo hi : Word) (trap code : Nat) (ta : Word) :
    (landCore c k op slot lo hi trap code ta).mem = c.mem := by
  simp [landCore]

@[simp] theorem landOp_mem (c : Chip) (o : CamOp) (lo hi : Word) (trap code : Nat) (ta : Word) :
    (landOp c o lo hi trap code ta).mem = c.mem := by
  simp [landOp]

@[simp] theorem landStatus_mem (c : Chip) (o : CamOp) (code : Nat) : (landStatus c o code).mem = c.mem := by
  simp [landStatus]

@[simp] theorem landEval_mem (c : Chip) (o : CamOp) (code : Nat) (v w : Word) : (landEval c o code v w).mem = c.mem := by
  simp [landEval]

@[simp] theorem camPop_mem (c : Chip) (e : Nat) : (camPop c e).mem = c.mem := by
  simp [camPop]

@[simp] theorem camDo_mem (c : Chip) (e : Nat) (o : CamOp) (ecc at_ : Nat) : (camDo c e o ecc at_).mem = c.mem := by
  simp [camDo]

/-! ### The copier -/

@[simp] theorem copyWords_mem (c : Chip) (ga n : Nat) : (copyWords c ga n).1.mem = c.mem := by
  induction n generalizing c ga with
  | zero => rfl
  | succ n ih =>
    have ho : ∀ o : Option Nat, (match o with | some p => offMet c (16 * (p / 2)) p | none => c).mem = c.mem := by
      intro o
      cases o <;> simp
    have hr := (ih (c := (readWord c ga 3 0).1) (ga + 4)).trans (readWord_mem c ga 3 0)
    rw [copyWords]
    dsimp only
    split_ifs
    · exact ho _
    · exact readWord_mem c ga 3 0
    · exact hr

@[simp] theorem camldResult_mem (c : Chip) (e : Nat) (y : CamCopy) (ecc at_ : Nat) : (camldResult c e y ecc at_).1.mem = c.mem := by
  unfold camldResult
  dsimp only
  (repeat' split) <;> simp -implicitDefEqProofs

@[simp] theorem endCamld_mem (c : Chip) (e : Nat) (y : CamCopy) (code : Nat) : (endCamld c e y code).mem = c.mem := by
  simp [endCamld]

@[simp] theorem camldEnd_mem (c : Chip) (e ecc at_ : Nat) : (camldEnd c e ecc at_).mem = c.mem := by
  unfold camldEnd
  split <;> simp

@[simp] theorem xCamldCopyEnd_mem (c : Chip) (e ecc at_ : Nat) : (xCamldCopyEnd c e ecc at_).mem = c.mem := by
  simp [xCamldCopyEnd]

@[simp] theorem camSwitch_mem (c : Chip) (e : Nat) : (camSwitch c e).mem = c.mem := by
  unfold camSwitch
  split <;> simp

@[simp] theorem camPowerDown_mem (c : Chip) (e : Nat) (off : Bool) : (camPowerDown c e off).mem = c.mem := by
  simp [camPowerDown]

@[simp] theorem xCamtofsWrite_mem (c : Chip) (e : Nat) (w : Word) : (xCamtofsWrite c e w).mem = c.mem := by
  simp [xCamtofsWrite]

/-! ### The engine's registers -/

@[simp] theorem tabEv_mem (c : Chip) (n : Nat) : (tabEv c n).mem = c.mem := by
  simp [tabEv]

@[simp] theorem setH_mem (c : Chip) (w : Word) : (setH c w).mem = c.mem := by
  simp [setH]

@[simp] theorem addSteps_mem (c : Chip) (n : Nat) : (addSteps c n).mem = c.mem := by
  simp [addSteps]

@[simp] theorem stopIfLast_mem (c : Chip) : (stopIfLast c).mem = c.mem := by
  simp [stopIfLast]

@[simp] theorem dueAt_mem (c : Chip) (b : Nat) (p : Word) (stamp : Nat) : (dueAt c b p stamp).mem = c.mem := by
  simp [dueAt]

@[simp] theorem camSwitchPush_mem (c : Chip) (e : Nat) : (camSwitchPush c e).mem = c.mem := by
  unfold camSwitchPush
  split <;> simp

@[simp] theorem camSwitches_mem (c : Chip) : (camSwitches c).mem = c.mem := by
  simp [camSwitches]

@[simp] theorem changeover_mem (c : Chip) (a : Arm) (stamp : Nat) : (changeover c a stamp).mem = c.mem := by
  unfold changeover
  extract_lets old mask c1 c2 c3 c4 c5 n c6 t c7 c8
  have h4 : c4.mem = c3.mem := by
    simp only [c4]
    clear_value old
    cases old <;> simp
  have h5 : c6.mem = c5.mem := by
    apply foldl_mem
    intro d e
    rfl
  simp [c8, c7, h5, c5, h4, c3, c2, c1]

@[simp] theorem walkPos_mem (c : Chip) (stamp : Nat) : (walkPos c stamp).mem = c.mem := by
  unfold walkPos
  dsimp only
  (repeat' split) <;> simp

@[simp] theorem walk_mem (c : Chip) (stamp n : Nat) : (walk c stamp n).mem = c.mem := by
  induction n generalizing c with
  | zero => rfl
  | succ n ih => exact (ih _).trans (walkPos_mem c stamp)

@[simp] theorem reverse_mem (c : Chip) (back : Bool) (diff : Int) : (reverse c back diff).mem = c.mem := by
  simp [reverse]

@[simp] theorem advance_mem (c : Chip) (n : Nat) : (advance c n).mem = c.mem := by
  simp [advance]

@[simp] theorem tabStep_mem (c : Chip) (d : Nat) (fwd : Bool) : (tabStep c d fwd).mem = c.mem := by
  unfold tabStep
  dsimp only
  split <;> simp

@[simp] theorem jump_mem (c : Chip) (pos : Word) (n : Nat) : (jump c pos n).mem = c.mem := by
  simp [jump]

@[simp] theorem tabWritten_mem (c : Chip) (d : Nat) (old : Word) : (tabWritten c d old).mem = c.mem := by
  unfold tabWritten
  split <;> simp

@[simp] theorem tabResume_mem (c : Chip) : (tabResume c).mem = c.mem := by
  unfold tabResume
  split <;> simp

@[simp] theorem tabEndActive_mem (c : Chip) : (tabEndActive c).mem = c.mem := by
  unfold tabEndActive
  split <;> simp

/-! ### The issue point -/

@[simp] theorem dropNote_mem (c : Chip) (d : Due) : (dropNote c d).mem = c.mem := by
  simp [dropNote]

@[simp] theorem timeDue_mem (c : Chip) (b idx moment : Nat) : (timeDue c b idx moment).mem = c.mem := by
  simp [timeDue]

@[simp] theorem dueBefore_mem (c : Chip) (limit n : Nat) : (dueBefore c limit n).mem = c.mem := by
  induction n generalizing c with
  | zero => rfl
  | succ n ih =>
    rw [dueBefore]
    split
    · split
      · exact (ih _).trans (timeDue_mem _ _ _ _)
      · rfl
    · rfl

@[simp] theorem beginFrame_mem (c : Chip) (b start : Nat) : (beginFrame c b start).mem = c.mem := by
  simp [beginFrame]

@[simp] theorem beginStave_mem (c : Chip) (b start : Nat) (rest : List (Nat × Nat)) : (beginStave c b start rest).mem = c.mem := by
  simp [beginStave]

@[simp] theorem xFrameStart_mem (c : Chip) : (xFrameStart c).mem = c.mem := by
  unfold xFrameStart
  (repeat' split) <;> simp

@[simp] theorem xTimeNoteDue_mem (c : Chip) : (xTimeNoteDue c).mem = c.mem := by
  unfold xTimeNoteDue
  (repeat' split) <;> simp

@[simp] theorem xNoteFetch_mem (c : Chip) (time : Bool) (n : Nat) : (xNoteFetch c time n).mem = c.mem := by
  simp [xNoteFetch]

@[simp] theorem takeDue_mem (c : Chip) (d : Due) : (takeDue c d).mem = c.mem := by
  simp [takeDue]

@[simp] theorem noteLate_mem (c : Chip) (idx : Nat) (time : Bool) (pos due : Nat) (lane lateness : Nat) :
    (noteLate c idx time pos due lane lateness).mem = c.mem := by
  simp [noteLate]

@[simp] theorem issue_mem (c : Chip) (d : Due) (w0 w1 : Word) (w2 w3 : Word) : (issue c d w0 w1 w2 w3).mem = c.mem := by
  simp [issue]

@[simp] theorem xNoteIssue_mem (c : Chip) (bad : Nat) : (xNoteIssue c bad).mem = c.mem := by
  unfold xNoteIssue
  split
  · rfl
  split
  · rfl
  dsimp only
  split
  · split <;> simp
  split
  · simp
  split
  · simp
  · split <;> simp

@[simp] theorem xSpeedWindow_mem (c : Chip) : (xSpeedWindow c).mem = c.mem := by
  simp [xSpeedWindow]

/-! ### Staging -/

@[simp] theorem stageEngine_mem (c : Chip) (b k : Nat) : (stageEngine c b k).mem = c.mem := by
  simp [stageEngine]

@[simp] theorem stageEcc_mem (c : Chip) (mask e : Nat) (sel ecc at_ : Nat) : (stageEcc c mask e sel ecc at_).mem = c.mem := by
  simp -implicitDefEqProofs [stageEcc]

@[simp] theorem stageMemory_mem (c : Chip) (mask : Nat) : (stageMemory c mask).mem = c.mem := by
  simp [stageMemory]

@[simp] theorem xStagingEnd_mem (c : Chip) : (xStagingEnd c).mem = c.mem := by
  unfold xStagingEnd
  split
  · rfl
  split
  · rfl
  · next a _ _ =>
    have hs : (((List.range 32).filter a.mask.testBit).foldl (fun c k => stageEngine c a.bank k) c).mem = c.mem := by
      apply foldl_mem
      intro d k
      exact stageEngine_mem _ _ _
    dsimp only
    split <;> simp [hs]

/-! ### Clears and verification -/

@[simp] theorem wf_xTabClearDone {c : Chip} (b : Nat) (hm : Memory.wf c.mem = true) : Memory.wf (xTabClearDone c b).mem = true := by
  unfold xTabClearDone
  split
  · exact hm
  · rw [complete_mem]
    exact wf_clearRange _ _ hm

@[simp] theorem xTabVerifyDone_mem (c : Chip) (b : Nat) : (xTabVerifyDone c b).mem = c.mem := by
  unfold xTabVerifyDone
  dsimp only
  (repeat' split) <;> simp

/-! ### Modes, drivers -/

@[simp] theorem fpEv_mem (c : Chip) (p m : Nat) : (fpEv c p m).mem = c.mem := by
  simp [fpEv]

@[simp] theorem fpLine_mem (c : Chip) (p : Nat) : (fpLine c p).mem = c.mem := by
  simp [fpLine]

@[simp] theorem fpLost_mem (c : Chip) (p : Nat) : (fpLost c p).mem = c.mem := by
  simp [fpLost]

@[simp] theorem fpSkip_mem (c : Chip) (p : Nat) : (fpSkip c p).mem = c.mem := by
  simp -implicitDefEqProofs [fpSkip]

@[simp] theorem fpRefuse_mem (c : Chip) (p : Nat) : (fpRefuse c p).mem = c.mem := by
  unfold fpRefuse
  rw [fpEv_mem, regCount_mem]

@[simp] theorem fpCfgErr_mem (c : Chip) (p : Nat) : (fpCfgErr c p).mem = c.mem := by
  simp [fpCfgErr]

@[simp] theorem cfgWrite_mem (c : Chip) (p : Nat) (w : Word) : (cfgWrite c p w).mem = c.mem := by
  simp [cfgWrite]

/-! ### Channels of a port -/

@[simp] theorem wf_portPush {c : Chip} (p s : Nat) (r : PRec) (hm : Memory.wf c.mem = true) :
    Memory.wf (portPush c p s r).mem = true := by
  simp [portPush, hm]

@[simp] theorem portLost_mem (c : Chip) (p : Nat) : (portLost c p).mem = c.mem := by
  simp [portLost]

@[simp] theorem wf_portRecord {c : Chip} (p : Nat) (r : PRec) (hm : Memory.wf c.mem = true) :
    Memory.wf (portRecord c p r).mem = true := by
  unfold portRecord
  split <;> simp [hm]

@[simp] theorem wf_portAnnounce {c : Chip} (p : Nat) (r : PRec) (hm : Memory.wf c.mem = true) :
    Memory.wf (portAnnounce c p r).mem = true := by
  simp [portAnnounce, hm]

@[simp] theorem wf_portDrain {c : Chip} (p n : Nat) (hm : Memory.wf c.mem = true) : Memory.wf (portDrain c p n).mem = true := by
  induction n generalizing c with
  | zero => exact hm
  | succ n ih =>
    rw [portDrain]
    split
    · exact hm
    split
    · exact ih (by simpa using hm)
    split
    · exact hm
    · exact ih (by simp [hm])

/-! ### Flushes of crossings -/

@[simp] theorem countFlush_mem (c : Chip) (k n : Nat) : (countFlush c k n).mem = c.mem := by
  simp -implicitDefEqProofs [countFlush]

@[simp] theorem flushRx_mem (c : Chip) (p : Nat) : (flushRx c p).1.mem = c.mem := by
  unfold flushRx
  split <;> simp

@[simp] theorem flushTx_mem (c : Chip) (p : Nat) : (flushTx c p).1.mem = c.mem := by
  unfold flushTx
  split <;> simp

@[simp] theorem flushLinkQ_mem (c : Chip) (p k : Nat) : (flushLinkQ c p k).1.mem = c.mem := by
  unfold flushLinkQ
  dsimp only
  split
  · rfl
  · simp only [updChan_mem, updStream_mem]
    rw [foldl_mem (fun d b => by split <;> simp), foldl_mem (fun d f => by split <;> simp)]

@[simp] theorem flushPort_mem (c : Chip) (p : Nat) : (flushPort c p).mem = c.mem := by
  simp [flushPort]

/-! ### Reconfiguration -/

@[simp] theorem droneDown_mem (c : Chip) (d : Nat) : (droneDown c d).mem = c.mem := by
  simp [droneDown]

@[simp] theorem reconfigure_mem (c : Chip) (p : Nat) (ctl : Word) : (reconfigure c p ctl).mem = c.mem := by
  simp -implicitDefEqProofs [reconfigure]

@[simp] theorem linkStart_mem (c : Chip) (p : Nat) : (linkStart c p).mem = c.mem := by
  simp [linkStart]

@[simp] theorem settle_mem (c : Chip) (p : Nat) (old v : Word) : (settle c p old v).mem = c.mem := by
  simp [settle]

@[simp] theorem ctlWrite_mem (c : Chip) (p : Nat) (w : Word) : (ctlWrite c p w).mem = c.mem := by
  unfold ctlWrite
  extract_lets v c1 old c2 c3 c4
  have h1 : c1.mem = c.mem := by
    simp only [c1]
    split <;> simp
  have h4 : c4.mem = c.mem := by
    simp only [c4, c3, c2]
    (repeat' split) <;> simp [h1]
  split
  · simp [h1]
  · (repeat' split) <;> simp [h4]

/-! ### OUT and DATA0 -/

@[simp] theorem stepTarget_mem (c : Chip) (p : Nat) (w : Word) : (stepTarget c p w).mem = c.mem := by
  simp [stepTarget]

@[simp] theorem ssiStart_mem (c : Chip) (p : Nat) : (ssiStart c p).mem = c.mem := by
  simp [ssiStart]

@[simp] theorem outApply_mem (c : Chip) (p : Nat) (w : Word) : (outApply c p w).mem = c.mem := by
  simp [outApply]

@[simp] theorem data0Apply_mem (c : Chip) (p : Nat) (w : Word) : (data0Apply c p w).mem = c.mem := by
  simp [data0Apply]

@[simp] theorem applyHeld_mem (c : Chip) (p : Nat) (x : Nat × Word) : (applyHeld c p x).mem = c.mem := by
  simp [applyHeld]

@[simp] theorem setReady_mem (c : Chip) (p : Nat) : (setReady c p).mem = c.mem := by
  simp [setReady]

/-! ### The FP block -/

@[simp] theorem fpRead_mem (c : Chip) (p o : Nat) : (fpRead c p o).1.mem = c.mem := by
  simp [fpRead]

@[simp] theorem fpWrite_mem (c : Chip) (p o : Nat) (w : Word) : (fpWrite c p o w).1.mem = c.mem := by
  simp [fpWrite]

/-! ### Rows: configuration -/

@[simp] theorem xPortReconfigure_mem (c : Chip) (p : Nat) (w : Word) : (xPortReconfigure c p w).mem = c.mem := by
  simp [xPortReconfigure]

@[simp] theorem xPortReady_mem (c : Chip) (p : Nat) : (xPortReady c p).mem = c.mem := by
  simp [xPortReady]

@[simp] theorem xPortLevelChange_mem (c : Chip) (p : Nat) : (xPortLevelChange c p).mem = c.mem := by
  simp [xPortLevelChange]

@[simp] theorem xPortDriveEnable_mem (c : Chip) (p : Nat) (w : Word) : (xPortDriveEnable c p w).mem = c.mem := by
  simp [xPortDriveEnable]

/-! ### Rows: ENC -/

@[simp] theorem encCount_mem (c : Chip) (p : Nat) (up : Bool) : (encCount c p up).mem = c.mem := by
  simp [encCount]

@[simp] theorem xEncPreset_mem (c : Chip) (p : Nat) (w : Word) : (xEncPreset c p w).mem = c.mem := by
  simp [xEncPreset]

@[simp] theorem xEncCompareWrite_mem (c : Chip) (p : Nat) (w : Word) : (xEncCompareWrite c p w).mem = c.mem := by
  simp [xEncCompareWrite]

@[simp] theorem xEncRateWindow_mem (c : Chip) (p : Nat) : (xEncRateWindow c p).mem = c.mem := by
  simp [xEncRateWindow]

/-! ### Rows: SSI -/

@[simp] theorem xSsiFrameStart_mem (c : Chip) (p : Nat) (w : Word) : (xSsiFrameStart c p w).mem = c.mem := by
  simp [xSsiFrameStart]

@[simp] theorem wf_ssiEnd {c : Chip} (p : Nat) (raw : Word) (good : Bool) (hm : Memory.wf c.mem = true) :
    Memory.wf (ssiEnd c p raw good).mem = true := by
  simp [ssiEnd, hm]

/-! ### Rows: STEP -/

@[simp] theorem xStepTargetWrite_mem (c : Chip) (p : Nat) (w : Word) : (xStepTargetWrite c p w).mem = c.mem := by
  simp [xStepTargetWrite]

@[simp] theorem xStepStop_mem (c : Chip) (p : Nat) (w : Word) : (xStepStop c p w).mem = c.mem := by
  simp [xStepStop]

@[simp] theorem xStepPulse_mem (c : Chip) (p : Nat) : (xStepPulse c p).mem = c.mem := by
  simp [xStepPulse]

/-! ### Rows: CAP -/

@[simp] theorem wf_xCapture {c : Chip} (p : Nat) (pairB fall : Bool) (stamp : Nat) (hm : Memory.wf c.mem = true) :
    Memory.wf (xCapture c p pairB fall stamp).mem = true := by
  unfold xCapture
  extract_lets r on c1 cfg dead c2 pos seq c3 c4
  split
  · exact hm
  simp only [ite_mem]
  refine wf_ite hm (wf_ite ?_ ?_)
  · simpa [c1] using hm
  · exact wf_portAnnounce _ _ (by simpa [c4, c3, c2, c1] using hm)

/-! ### Rows: asynchronous serial -/

@[simp] theorem wf_serClose {c : Chip} (p : Nat) (hm : Memory.wf c.mem = true) : Memory.wf (serClose c p).mem = true := by
  simp [serClose, hm]

@[simp] theorem wf_xSerCharacter {c : Chip} (p : Nat) (b : Byte) (frame parity brk : Bool) (hm : Memory.wf c.mem = true) :
    Memory.wf (xSerCharacter c p b frame parity brk).mem = true := by
  unfold xSerCharacter
  split <;> simp [hm]

@[simp] theorem wf_xSerRecordClose {c : Chip} (p : Nat) (hm : Memory.wf c.mem = true) :
    Memory.wf (xSerRecordClose c p).mem = true := by
  simp [xSerRecordClose, hm]

@[simp] theorem serPop_mem (c : Chip) (p : Nat) : (serPop c p).mem = c.mem := by
  unfold serPop
  dsimp only
  (repeat' split) <;> simp

@[simp] theorem serSend_mem (c : Chip) (p : Nat) (b : Byte) (rest : List Byte) : (serSend c p b rest).mem = c.mem := by
  simp [serSend]

@[simp] theorem xSerTransmit_mem (c : Chip) (p : Nat) : (xSerTransmit c p).mem = c.mem := by
  unfold xSerTransmit
  (repeat' split) <;> simp

/-! ### Frames -/

@[simp] theorem sendLine_mem (c : Chip) (port typ : Nat) (l : List Byte) : (sendLine c port typ l).mem = c.mem := by
  simp [sendLine]

@[simp] theorem sendFrame_mem (c : Chip) (port typ : Nat) (fresh : Bool) (addr stream : Nat) (slot seq rewind : Nat)
    (l : List QWord) : (sendFrame c port typ fresh addr stream slot seq rewind l).mem = c.mem := by
  simp [sendFrame]

/-! ### Training and start-up -/

@[simp] theorem xLinkTrained_mem (c : Chip) (p : Nat) (syms : List (BitVec 10)) : (xLinkTrained c p syms).mem = c.mem := by
  unfold xLinkTrained
  dsimp only
  (repeat' split) <;> simp

@[simp] theorem xStartupEnum_mem (c : Chip) (p : Nat) : (xStartupEnum c p).mem = c.mem := by
  simp [xStartupEnum]

@[simp] theorem linkUp_mem (c : Chip) (p : Nat) : (linkUp c p).mem = c.mem := by
  simp [linkUp]

@[simp] theorem xEnumReturn_mem (c : Chip) (p count : Nat) (err : Bool) : (xEnumReturn c p count err).mem = c.mem := by
  simp [xEnumReturn]

@[simp] theorem xEnumTimeout_mem (c : Chip) (p : Nat) : (xEnumTimeout c p).mem = c.mem := by
  simp [xEnumTimeout]

@[simp] theorem xEchoReply_mem (c : Chip) (p t : Nat) (ident : Word) : (xEchoReply c p t ident).mem = c.mem := by
  simp [xEchoReply]

@[simp] theorem xLockLoss_mem (c : Chip) (p : Nat) (syms : List (BitVec 10)) : (xLockLoss c p syms).mem = c.mem := by
  simp [xLockLoss]

@[simp] theorem linkRestart_mem (c : Chip) (p : Nat) : (linkRestart c p).mem = c.mem := by
  simp [linkRestart]

@[simp] theorem xLinkRestart_mem (c : Chip) (p : Nat) (w : Word) : (xLinkRestart c p w).mem = c.mem := by
  simp [xLinkRestart]

/-! ### Link cycles -/

@[simp] theorem xLinkCycleStart_mem (c : Chip) (p : Nat) : (xLinkCycleStart c p).mem = c.mem := by
  unfold xLinkCycleStart
  dsimp only
  (repeat' split) <;> simp

/-! ### Sending -/

@[simp] theorem sendData_mem (c : Chip) (p k : Nat) (f : LFrame) : (sendData c p k f).mem = c.mem := by
  simp [sendData]

@[simp] theorem linksendDone_mem (c : Chip) (p : Nat) (f : LFrame) : (linksendDone c p f).mem = c.mem := by
  unfold linksendDone
  split
  · rfl
  split
  · rfl
  · extract_lets issueLate slotLate c0 c1
    have h1 : c1.mem = c.mem := by
      simp only [c1, c0]
      split
      · split
        · rw [regMax_mem, regOr_mem]
        · rw [noteLate_mem, regOr_mem]
      · rfl
    rw [noteDone_mem, regWrap_mem, h1]

@[simp] theorem sendNew_mem (c : Chip) (p k : Nat) (f : LFrame) : (sendNew c p k f).mem = c.mem := by
  simp [sendNew]

@[simp] theorem sendMgmt_mem (c : Chip) (p : Nat) : (sendMgmt c p).mem = c.mem := by
  unfold sendMgmt
  dsimp only
  split <;> simp

@[simp] theorem xDataFrameSend_mem (c : Chip) (p : Nat) : (xDataFrameSend c p).mem = c.mem := by
  unfold xDataFrameSend
  dsimp only
  (repeat' split) <;> simp

/-! ### Acknowledgement -/

@[simp] theorem retransmit_mem (c : Chip) (p k : Nat) : (retransmit c p k).mem = c.mem := by
  simp [retransmit]

@[simp] theorem ackStream_mem (c : Chip) (p k e : Nat) : (ackStream c p k e).mem = c.mem := by
  unfold ackStream
  dsimp only
  (repeat' split) <;> simp

@[simp] theorem xAckReceived_mem (c : Chip) (p : Nat) (nak : Bool) (seen : Nat) (bytes : Word) :
    (xAckReceived c p nak seen bytes).mem = c.mem := by
  unfold xAckReceived
  dsimp only
  (repeat' split) <;> simp

@[simp] theorem xAckTimeout_mem (c : Chip) (p k : Nat) : (xAckTimeout c p k).mem = c.mem := by
  unfold xAckTimeout
  (repeat' split) <;> simp

/-! ### STATUS and MGMT -/

@[simp] theorem xStatusFrameReceived_mem (c : Chip) (p n seq : Nat) (words : List Word) (good : Bool) :
    (xStatusFrameReceived c p n seq words good).mem = c.mem := by
  simp [xStatusFrameReceived]

@[simp] theorem xMgmtReply_mem (c : Chip) (p node word0 : Nat) (err : Bool) (data : Word) :
    (xMgmtReply c p node word0 err data).mem = c.mem := by
  unfold xMgmtReply
  dsimp only
  (repeat' split) <;> simp

@[simp] theorem xMgmtTimeout_mem (c : Chip) (p : Nat) : (xMgmtTimeout c p).mem = c.mem := by
  unfold xMgmtTimeout
  dsimp only
  (repeat' split) <;> simp

@[simp] theorem fpWriteAny_mem (c : Chip) (p o : Nat) (w : Word) : (fpWriteAny c p o w).1.mem = c.mem := by
  simp [fpWriteAny]

@[simp] theorem setDrone_mem (c : Chip) (d : Nat) (w : Word) : (setDrone c d w).mem = c.mem := by
  simp [setDrone]

@[simp] theorem oweSteps_mem (c : Chip) (d : Nat) (n : Int) : (oweSteps c d n).mem = c.mem := by
  simp [oweSteps]

@[simp] theorem feedDrone_mem (c : Chip) (d : Nat) (count : Int) : (feedDrone c d count).mem = c.mem := by
  simp [feedDrone]

@[simp] theorem xDroneStep_mem (c : Chip) (d : Nat) : (xDroneStep c d).mem = c.mem := by
  simp [xDroneStep]

@[simp] theorem xDrnSetWrite_mem (c : Chip) (d : Nat) (w : Word) : (xDrnSetWrite c d w).mem = c.mem := by
  simp [xDrnSetWrite]

@[simp] theorem drnCfgErr_mem (c : Chip) (d : Nat) : (drnCfgErr c d).mem = c.mem := by
  simp [drnCfgErr]

@[simp] theorem advanceRate_mem (c : Chip) (d : Nat) : (advanceRate c d).mem = c.mem := by
  simp [advanceRate]

@[simp] theorem spdAtOnce_mem (c : Chip) (d : Nat) : (spdAtOnce c d).mem = c.mem := by
  simp [spdAtOnce]

@[simp] theorem rateWrite_mem (c : Chip) (d o : Nat) (w : Word) : (rateWrite c d o w).mem = c.mem := by
  simp [rateWrite]

@[simp] theorem drnCtl_mem (c : Chip) (d : Nat) (w : Word) : (drnCtl c d w).mem = c.mem := by
  simp [drnCtl]

@[simp] theorem xDroneCtlWrite_mem (c : Chip) (d : Nat) (w : Word) : (xDroneCtlWrite c d w).mem = c.mem := by
  simp [xDroneCtlWrite]

@[simp] theorem xRateStep_mem (c : Chip) (d : Nat) : (xRateStep c d).mem = c.mem := by
  simp [xRateStep]

@[simp] theorem xEncCount_mem (c : Chip) (p : Nat) (up both : Bool) : (xEncCount c p up both).mem = c.mem := by
  simp [xEncCount]

@[simp] theorem ssiFeed_mem (c : Chip) (p d : Nat) (first : Bool) : (ssiFeed c p d first).mem = c.mem := by
  simp [ssiFeed]

@[simp] theorem wf_xSsiFrameEnd {c : Chip} (p : Nat) (raw : Word) (good : Bool) (hm : Memory.wf c.mem = true) :
    Memory.wf (xSsiFrameEnd c p raw good).mem = true := by
  simp [xSsiFrameEnd, hm]

@[simp] theorem drnWrite_mem (c : Chip) (d o : Nat) (w : Word) : (drnWrite c d o w).mem = c.mem := by
  simp [drnWrite]

/-! ### Endpoints -/

@[simp] theorem countOffAt_mem (c : Chip) (lo hi : Nat) : (countOffAt c lo hi).mem = c.mem := by
  unfold countOffAt
  dsimp only
  split <;> simp

@[simp] theorem chOffAt_mem (c : Chip) (w : Word) : (chOffAt c w).mem = c.mem := by
  unfold chOffAt
  (repeat' split) <;> simp

@[simp] theorem offDst_mem (c : Chip) (w : Word) (cause len : Nat) : (offDst c w cause len).mem = c.mem := by
  simp [offDst]

@[simp] theorem readNoteMem_mem (c : Chip) (ga n : Nat) : (readNoteMem c ga n).1.mem = c.mem := by
  induction n generalizing c ga with
  | zero => rfl
  | succ n ih =>
    rw [readNoteMem]
    dsimp only
    rw [ih]
    split
    · exact readWord_mem _ _ _ _
    · rfl

@[simp] theorem readSrc_mem (c : Chip) (bank : Nat) (w : Word) (n : Nat) (data : List Word) (ep : List Nat) :
    (readSrc c bank w n data ep).1.mem = c.mem := by
  unfold readSrc
  dsimp only
  (repeat' split) <;> simp

@[simp] theorem wf_writeNoteMem {c : Chip} (ga : Nat) (l : List QWord) (hm : Memory.wf c.mem = true) :
    Memory.wf (writeNoteMem c ga l).mem = true := by
  induction l generalizing c ga with
  | nil => exact hm
  | cons q t ih => exact ih _ (wf_writeWord _ _ _ _ hm)

@[simp] theorem wf_writeDst {c : Chip} (w : Word) (off : Nat) (l : List QWord) (hm : Memory.wf c.mem = true) :
    Memory.wf (writeDst c w off l).1.mem = true := by
  unfold writeDst
  (repeat' split) <;> simp [hm]

/-! ### Ends of notes -/

@[simp] theorem setMoved_mem (c : Chip) (lane no n : Nat) : (setMoved c lane no n).mem = c.mem := by
  simp [setMoved]

@[simp] theorem wf_failNote {c : Chip} (lane : Nat) (j : Job) (cause : Nat) (hm : Memory.wf c.mem = true) :
    Memory.wf (failNote c lane j cause).mem = true := by
  simp [failNote, hm]

@[simp] theorem wf_moveNote {c : Chip} (lane : Nat) (j : Job) (l : List QWord) (hm : Memory.wf c.mem = true) :
    Memory.wf (moveNote c lane j l).mem = true := by
  unfold moveNote
  dsimp only
  split <;> simp [hm]

/-! ### Order in a lane -/

@[simp] theorem noteFlits_mem (c : Chip) (j : Job) : (noteFlits c j).mem = c.mem := by
  simp [noteFlits]

@[simp] theorem wf_actNote {c : Chip} (lane : Nat) (j : Job) (hs : Nat) (data : List Word) (ep : List Nat)
    (hm : Memory.wf c.mem = true) : Memory.wf (actNote c lane j hs data ep).mem = true := by
  unfold actNote
  dsimp only
  (repeat' split) <;> simp [hm]

@[simp] theorem wf_xNoteStart {c : Chip} (lane hs : Nat) (data : List Word) (ep : List Nat) (hm : Memory.wf c.mem = true) :
    Memory.wf (xNoteStart c lane hs data ep).mem = true := by
  unfold xNoteStart
  dsimp only
  (repeat' split) <;> simp [hm]

@[simp] theorem retireNotes_mem (c : Chip) (lane n : Nat) : (retireNotes c lane n).mem = c.mem := by
  induction n generalizing c with
  | zero => rfl
  | succ n ih =>
    rw [retireNotes]
    split
    · split
      · rw [ih, updLane_mem, regWrap_mem, regWrap_mem]
      · rfl
    · rfl

@[simp] theorem xNoteComplete_mem (c : Chip) (lane no : Nat) : (xNoteComplete c lane no).mem = c.mem := by
  simp [xNoteComplete]

@[simp] theorem xSignal_mem (c : Chip) (lane : Nat) : (xSignal c lane).mem = c.mem := by
  unfold xSignal
  (repeat' split) <;> simp

/-! ### Gathers -/

@[simp] theorem gatherRecord_mem (c : Chip) (g : Gather) (k : Nat) : (gatherRecord c g k).1.mem = c.mem := by
  simp [gatherRecord]

@[simp] theorem readGather_mem (c : Chip) (g : Gather) (k : Nat) : (readGather c g k).1.mem = c.mem := by
  simp [readGather]

@[simp] theorem gatherArrive_mem (c : Chip) (g : Gather) (l : List Nat) : (gatherArrive c g l).1.mem = c.mem := by
  induction l generalizing c g with
  | nil => rfl
  | cons k t ih =>
    rw [gatherArrive]
    split
    · dsimp only
      rw [ih]
      split
      · rfl
      · exact readGather_mem _ _ _
    · exact ih c g

@[simp] theorem xGatherRecord_mem (c : Chip) (arrived : BitVec 32) : (xGatherRecord c arrived).mem = c.mem := by
  unfold xGatherRecord
  split <;> simp

@[simp] theorem wf_writeRecords {c : Chip} (dst : Word) (b : Nat) (l : Tbl (List QWord × Bool)) (hm : Memory.wf c.mem = true) :
    Memory.wf (writeRecords c dst b l).mem = true := by
  induction l generalizing c with
  | nil => exact hm
  | cons e t ih => exact ih (wf_writeDst _ _ _ hm)

@[simp] theorem wf_xGatherComplete {c : Chip} (hm : Memory.wf c.mem = true) : Memory.wf (xGatherComplete c).mem = true := by
  unfold xGatherComplete
  dsimp only
  (repeat' split) <;> simp [hm]

/-! ### The engine's stream -/

@[simp] theorem wf_camoutDo {c : Chip} (e : Nat) (o : CamOp) (ecc at_ : Nat) (hm : Memory.wf c.mem = true) :
    Memory.wf (camoutDo c e o ecc at_).mem = true := by
  unfold camoutDo
  dsimp only
  (repeat' split) <;> simp [hm]

@[simp] theorem wf_camOpDo {c : Chip} (e : Nat) (o : CamOp) (ecc at_ : Nat) (hm : Memory.wf c.mem = true) :
    Memory.wf (camOpDo c e o ecc at_).mem = true := by
  simp [camOpDo, hm]

@[simp] theorem camRefill_mem (c : Chip) (e : Nat) : (camRefill c e).mem = c.mem := by
  simp [camRefill]

@[simp] theorem wf_xCamPerform {c : Chip} (e ecc at_ : Nat) (hm : Memory.wf c.mem = true) :
    Memory.wf (xCamPerform c e ecc at_).mem = true := by
  unfold xCamPerform
  (repeat' split) <;> simp [hm]

@[simp] theorem wf_camDrain {c : Chip} (n e : Nat) (hm : Memory.wf c.mem = true) : Memory.wf (camDrain n c e).mem = true := by
  induction n generalizing c with
  | zero => exact hm
  | succ n ih =>
    rw [camDrain]
    split
    · exact hm
    · exact ih (by simp [hm])

@[simp] theorem wf_camGateClosed {c : Chip} (e : Nat) (off : Bool) (hm : Memory.wf c.mem = true) :
    Memory.wf (camGateClosed c e off).mem = true := by
  simp [camGateClosed, hm]

/-! ### The TAB block as it is read and written -/

@[simp] theorem tabRead_mem (c : Chip) (o : Nat) : (tabRead c o).1.mem = c.mem := by
  simp [tabRead]

@[simp] theorem tabCfgErr_mem (c : Chip) : (tabCfgErr c).mem = c.mem := by
  simp [tabCfgErr]

@[simp] theorem tabWrite_mem (c : Chip) (o : Nat) (w : Word) : (tabWrite c o w).mem = c.mem := by
  simp [tabWrite]

/-! ### The time base -/

@[simp] theorem busyMicros_mem (c : Chip) : (busyMicros c).mem = c.mem := by
  simp [busyMicros]

@[simp] theorem tick_mem (c : Chip) : (tick c).mem = c.mem := by
  simp [tick]

@[simp] theorem tbStep_mem (c : Chip) (ofs : Int) : (tbStep c ofs).mem = c.mem := by
  unfold tbStep
  dsimp only
  (repeat' split) <;> simp -implicitDefEqProofs

@[simp] theorem tbctlWrite_mem (c : Chip) (w : Word) : (tbctlWrite c w).mem = c.mem := by
  simp [tbctlWrite]

@[simp] theorem xTimeBaseStep_mem (c : Chip) (w : Word) : (xTimeBaseStep c w).mem = c.mem := by
  simp [xTimeBaseStep]

@[simp] theorem tbloRead_mem (c : Chip) : (tbloRead c).1.mem = c.mem := by
  simp [tbloRead]

@[simp] theorem xTbloRead_mem (c : Chip) : (xTbloRead c).mem = c.mem := by
  simp [xTbloRead]

/-! ### Sources and PLLs -/

@[simp] theorem xTcxoStart_mem (c : Chip) (khz : BitVec 18) : (xTcxoStart c khz).mem = c.mem := by
  simp [xTcxoStart]

@[simp] theorem ptpState_mem (c : Chip) (n : Nat) : (ptpState c n).mem = c.mem := by
  simp [ptpState]

@[simp] theorem clkCtl_mem (c : Chip) (w : Word) : (clkCtl c w).mem = c.mem := by
  simp [clkCtl]

@[simp] theorem xClkPllenWrite_mem (c : Chip) (w : Word) : (xClkPllenWrite c w).mem = c.mem := by
  simp [xClkPllenWrite]

@[simp] theorem xPllLock_mem (c : Chip) (i : Nat) : (xPllLock c i).mem = c.mem := by
  simp [xPllLock]

@[simp] theorem xClockSwitch_mem (c : Chip) (w : Word) : (xClockSwitch c w).mem = c.mem := by
  simp [xClockSwitch]

@[simp] theorem xSwitchComplete_mem (c : Chip) : (xSwitchComplete c).mem = c.mem := by
  simp [xSwitchComplete]

@[simp] theorem xAutoSwitch_mem (c : Chip) : (xAutoSwitch c).mem = c.mem := by
  simp [xAutoSwitch]

@[simp] theorem xClockSourceFault_mem (c : Chip) (i : Nat) : (xClockSourceFault c i).mem = c.mem := by
  simp -implicitDefEqProofs [xClockSourceFault]

/-! ### Crossings -/

@[simp] theorem xFlushAck_mem (c : Chip) (u : Nat) : (xFlushAck c u).mem = c.mem := by
  simp [xFlushAck]

@[simp] theorem clkRead_mem (c : Chip) (o : Nat) : (clkRead c o).1.mem = c.mem := by
  simp -implicitDefEqProofs [clkRead]

@[simp] theorem clkWrite_mem (c : Chip) (o : Nat) (w : Word) : (clkWrite c o w).mem = c.mem := by
  simp [clkWrite]

/-! ### PCI Express -/

@[simp] theorem flushHostChans_mem (c : Chip) : (flushHostChans c).1.mem = c.mem := by
  unfold flushHostChans
  apply foldl_fst_mem
  intro a s
  exact flushChannel_mem _ _ _ _

@[simp] theorem pcieReset_mem (c : Chip) (d3 : Bool) : (pcieReset c d3).mem = c.mem := by
  simp -implicitDefEqProofs [pcieReset]

@[simp] theorem xPerstRelease_mem (c : Chip) : (xPerstRelease c).mem = c.mem := by
  simp [xPerstRelease]

@[simp] theorem xPcieLinkUp_mem (c : Chip) (speed width : Nat) : (xPcieLinkUp c speed width).mem = c.mem := by
  simp [xPcieLinkUp]

@[simp] theorem xPcieFunctionReset_mem (c : Chip) (kind : Nat) : (xPcieFunctionReset c kind).mem = c.mem := by
  simp [xPcieFunctionReset]

@[simp] theorem bar2Write_mem (c : Chip) (o : Nat) (w : Word) : (bar2Write c o w).mem = c.mem := by
  simp [bar2Write]

@[simp] theorem xPcieConfigWrite_mem (c : Chip) (field v : Nat) (w : Word) : (xPcieConfigWrite c field v w).mem = c.mem := by
  simp [xPcieConfigWrite]

@[simp] theorem xMsixMessage_mem (c : Chip) (v : Nat) : (xMsixMessage c v).mem = c.mem := by
  simp -implicitDefEqProofs [xMsixMessage]

/-! ### Ethernet -/

@[simp] theorem ethFlush_mem (c : Chip) (k : Nat) : (ethFlush c k).mem = c.mem := by
  simp [ethFlush]

@[simp] theorem ethCtl_mem (c : Chip) (k : Nat) (w : Word) : (ethCtl c k w).mem = c.mem := by
  simp [ethCtl]

@[simp] theorem xEthLinkUp_mem (c : Chip) (k rate : Nat) : (xEthLinkUp c k rate).mem = c.mem := by
  simp [xEthLinkUp]

@[simp] theorem xEthLinkLoss_mem (c : Chip) (k : Nat) : (xEthLinkLoss c k).mem = c.mem := by
  simp [xEthLinkLoss]

@[simp] theorem ethDrop_mem (c : Chip) (k : Nat) : (ethDrop c k).mem = c.mem := by
  simp [ethDrop]

@[simp] theorem ethCommand_mem (c : Chip) (k ret : Nat) (udp : List Byte) : (ethCommand c k ret udp).mem = c.mem := by
  unfold ethCommand
  dsimp only
  (repeat' split) <;> simp -implicitDefEqProofs

@[simp] theorem xEthFrameReceived_mem (c : Chip) (k kind ret : Nat) (data : List Byte) :
    (xEthFrameReceived c k kind ret data).mem = c.mem := by
  simp [xEthFrameReceived]

/-! ### PTP -/

@[simp] theorem ptpPstate_mem (c : Chip) (n : Nat) : (ptpPstate c n).mem = c.mem := by
  simp [ptpPstate]

@[simp] theorem ptpRate_mem (c : Chip) (r : Word) : (ptpRate c r).mem = c.mem := by
  simp [ptpRate]

@[simp] theorem ptpSync_mem (c : Chip) (ofs dly : Word) : (ptpSync c ofs dly).mem = c.mem := by
  unfold ptpSync
  split <;> simp -implicitDefEqProofs

@[simp] theorem ptpStamped_mem (c : Chip) (e : PtpEvent) : (ptpStamped c e).mem = c.mem := by
  simp [ptpStamped]

@[simp] theorem xPtpMessage_mem (c : Chip) (state : Nat) (sync : Bool) (ofs dly rate : Word) (step : BitVec 64)
    (answer : PtpEvent) : (xPtpMessage c state sync ofs dly rate step answer).mem = c.mem := by
  simp [xPtpMessage]

@[simp] theorem xPtpMessageInterval_mem (c : Chip) (state : Nat) (sent : PtpEvent) :
    (xPtpMessageInterval c state sent).mem = c.mem := by
  simp [xPtpMessageInterval]

@[simp] theorem ptpCtl_mem (c : Chip) (w : Word) : (ptpCtl c w).mem = c.mem := by
  simp [ptpCtl]

/-! ### The HST block -/

@[simp] theorem hstCfgErr_mem (c : Chip) : (hstCfgErr c).mem = c.mem := by
  simp [hstCfgErr]

@[simp] theorem hstRead_mem (c : Chip) (o : Nat) : (hstRead c o).1.mem = c.mem := by
  simp [hstRead]

@[simp] theorem hstWrite_mem (c : Chip) (o : Nat) (w : Word) : (hstWrite c o w).mem = c.mem := by
  simp [hstWrite]

/-! ### Any word -/

@[simp] theorem wf_runOp {c : Chip} (k : Nat) (rep : Bool) (op : CoreOp) (hm : Memory.wf c.mem = true) :
    Memory.wf (runOp c k rep op).mem = true := by
  unfold runOp
  (repeat' split) <;> simp [hm]

@[simp] theorem wf_xRepIteration {c : Chip} (k : Nat) (hm : Memory.wf c.mem = true) : Memory.wf (xRepIteration c k).mem = true := by
  unfold xRepIteration
  (repeat' split) <;> simp [hm]

/-! ### Imprecise traps and interrupts -/

@[simp] theorem logAsync_mem (c : Chip) (k kind : Nat) (t : Option ITrap) : (logAsync c k kind t).mem = c.mem := by
  simp [logAsync]

@[simp] theorem takeITrap_mem (c : Chip) (k : Nat) : (takeITrap c k).mem = c.mem := by
  unfold takeITrap
  split <;> simp

@[simp] theorem takeLogged_mem (c : Chip) (k : Nat) (e : LogEnt) : (takeLogged c k e).mem = c.mem := by
  unfold takeLogged
  split <;> simp

@[simp] theorem fetchTrap_mem (c : Chip) (k : Nat) : (fetchTrap c k).mem = c.mem := by
  unfold fetchTrap
  dsimp only
  (repeat' split) <;> simp

@[simp] theorem xTrapEntry_mem (c : Chip) (k : Nat) : (xTrapEntry c k).mem = c.mem := by
  unfold xTrapEntry
  (repeat' split) <;> simp

@[simp] theorem wf_xInterrupt {c : Chip} (k : Nat) (hm : Memory.wf c.mem = true) : Memory.wf (xInterrupt c k).mem = true := by
  unfold xInterrupt
  dsimp only
  (repeat' split) <;> simp [hm]

@[simp] theorem xWaitTimeout_mem (c : Chip) (k : Nat) : (xWaitTimeout c k).mem = c.mem := by
  unfold xWaitTimeout
  split <;> simp

@[simp] theorem xReservationExpiry_mem (c : Chip) (k : Nat) : (xReservationExpiry c k).mem = c.mem := by
  unfold xReservationExpiry
  split <;> simp

@[simp] theorem setIsl_mem (c : Chip) (k : Nat) (s : PegState) : (setIsl c k s).mem = c.mem := by
  simp [setIsl]

@[simp] theorem setPeg_mem (c : Chip) (p : Nat) (s : PegState) (clearing : Bool) : (setPeg c p s clearing).mem = c.mem := by
  simp [setPeg]

/-! ### Voltages -/

@[simp] theorem retarget_mem (c : Chip) (k : Nat) : (retarget c k).mem = c.mem := by
  simp -implicitDefEqProofs [retarget]

@[simp] theorem retargetAll_mem (c : Chip) : (retargetAll c).mem = c.mem := by
  simp [retargetAll]

@[simp] theorem setMv_mem (c : Chip) (k mv : Nat) : (setMv c k mv).mem = c.mem := by
  simp [setMv]

@[simp] theorem xVoltageSlewStep_mem (c : Chip) (k : Nat) : (xVoltageSlewStep c k).mem = c.mem := by
  simp -implicitDefEqProofs [xVoltageSlewStep]

/-! ### Courses halted and reset through their pegs -/

@[simp] theorem requestHalt_mem (c : Chip) (n : Nat) : (requestHalt c n).mem = c.mem := by
  simp [requestHalt]

@[simp] theorem releaseStrings_mem (c : Chip) (l : List Nat) : (releaseStrings c l).mem = c.mem := by
  simp [releaseStrings]

@[simp] theorem dropCourseWork_mem (c : Chip) (n : Nat) : (dropCourseWork c n).mem = c.mem := by
  unfold dropCourseWork
  dsimp only
  (repeat' split) <;> simp

@[simp] theorem offCourse_mem (c : Chip) (n : Nat) : (offCourse c n).mem = c.mem := by
  simp [offCourse]

@[simp] theorem pegReset_mem (c : Chip) (n : Nat) : (pegReset c n).mem = c.mem := by
  simp [pegReset]

/-! ### Peg domains -/

@[simp] theorem dropResvIn_mem (c : Chip) (p : Nat) : (dropResvIn c p).mem = c.mem := by
  simp [dropResvIn]

@[simp] theorem wf_gateCloses {c : Chip} (p : Nat) (off : Bool) (hm : Memory.wf c.mem = true) :
    Memory.wf (gateCloses c p off).mem = true := by
  unfold gateCloses
  split <;> simp [hm]

@[simp] theorem wf_pegOff {c : Chip} (p : Nat) (hm : Memory.wf c.mem = true) : Memory.wf (pegOff c p).mem = true := by
  simp [pegOff, hm]

@[simp] theorem wf_pegRet {c : Chip} (p : Nat) (hm : Memory.wf c.mem = true) : Memory.wf (pegRet c p).mem = true := by
  simp [pegRet, hm]

@[simp] theorem pegUp_mem (c : Chip) (p : Nat) : (pegUp c p).mem = c.mem := by
  simp [pegUp]

@[simp] theorem pegBack_mem (c : Chip) (p : Nat) : (pegBack c p).mem = c.mem := by
  simp [pegBack]

/-! ### Islands -/

@[simp] theorem wf_islandOff {c : Chip} (k : Nat) (hm : Memory.wf c.mem = true) : Memory.wf (islandOff c k).mem = true := by
  unfold islandOff
  rw [retarget_mem, regSetFld_mem, setIsl_mem]
  exact wf_foldl (fun d p hd => wf_pegOff p hd) _ hm

@[simp] theorem wf_islandRet {c : Chip} (k : Nat) (hm : Memory.wf c.mem = true) : Memory.wf (islandRet c k).mem = true := by
  unfold islandRet
  split
  · rw [retarget_mem, regSetFld_mem, setIsl_mem]
    exact wf_foldl (fun d p hd => wf_pegRet p hd) _ hm
  · exact hm

@[simp] theorem islandUp_mem (c : Chip) (k : Nat) : (islandUp c k).mem = c.mem := by
  simp [islandUp]

@[simp] theorem islandBack_mem (c : Chip) (k : Nat) : (islandBack c k).mem = c.mem := by
  simp [islandBack]

@[simp] theorem wf_allOff {c : Chip} (hm : Memory.wf c.mem = true) : Memory.wf (allOff c).mem = true :=
  wf_foldl (fun d k hd => wf_islandOff k hd) _ hm

/-! ### The power command -/

@[simp] theorem endPower_mem (c : Chip) (status : Nat) (detail : Word) : (endPower c status detail).mem = c.mem := by
  unfold endPower
  split <;> simp

@[simp] theorem askNext_mem (c : Chip) : (askNext c).mem = c.mem := by
  unfold askNext
  split
  · rfl
  split
  · split
    · rw [updPower_mem]
      apply foldl_mem
      intro d k
      rfl
    · rfl
  · rfl

@[simp] theorem hsStart_mem (c : Chip) (target : Nat) (units : List Nat) : (hsStart c target units).mem = c.mem := by
  simp [hsStart]

@[simp] theorem hsEnd_mem (c : Chip) (p : PowerCmd) (committed : Bool) (u reason : Nat) :
    (hsEnd c p committed u reason).mem = c.mem := by
  simp -implicitDefEqProofs [hsEnd]

@[simp] theorem hsRefuse_mem (c : Chip) (p : PowerCmd) (u reason : Nat) : (hsRefuse c p u reason).mem = c.mem := by
  simp [hsRefuse]

@[simp] theorem handled_mem (c : Chip) (k : Nat) : (handled c k).mem = c.mem := by
  simp [handled]

@[simp] theorem islandRefused_mem (c : Chip) (p : PowerCmd) (k : Nat) : (islandRefused c p k).mem = c.mem := by
  simp [islandRefused]

@[simp] theorem powerGo_mem (c : Chip) (n : Nat) : (powerGo c n).mem = c.mem := by
  induction n generalizing c with
  | zero => rfl
  | succ n ih =>
    rw [powerGo]
    split
    · rfl
    next p _ =>
    split
    · exact endPower_mem _ _ _
    next k _ _ =>
    extract_lets st c1 st'
    have h1 : c1.mem = c.mem := by
      simp only [c1]
      cases p.vset <;> simp
    simp only [ite_mem, ih, handled_mem, h1, islandRefused_mem, updPower_mem, islandBack_mem, islandUp_mem, hsStart_mem, setPeg_mem, ite_self]

@[simp] theorem risen_mem (c : Chip) (u : Nat) : (risen c u).mem = c.mem := by
  unfold risen
  split <;> simp

@[simp] theorem xIslandPowerUpDone_mem (c : Chip) (k : Nat) : (xIslandPowerUpDone c k).mem = c.mem := by
  simp [xIslandPowerUpDone]

@[simp] theorem wf_xMemoryClearDone {c : Chip} (p : Nat) (hm : Memory.wf c.mem = true) :
    Memory.wf (xMemoryClearDone c p).mem = true := by
  unfold xMemoryClearDone
  split
  · extract_lets bank c1 c2
    have h1 : Memory.wf c1.mem = true := wf_foldl (fun d n hd => wf_clearRange _ _ hd) _ hm
    clear_value c1 bank
    have h2 : Memory.wf c2.mem = true := by
      simp only [c2, updPeg_mem]
      exact wf_clearRange _ _ h1
    clear_value c2
    split
    · rwa [risen_mem, pegUp_mem]
    · exact h2
  · exact hm

@[simp] theorem xRetentionExitDone_mem (c : Chip) (u : Nat) : (xRetentionExitDone c u).mem = c.mem := by
  simp [xRetentionExitDone]

/-! ### Answers -/

@[simp] theorem wf_hsCommit {c : Chip} (p : PowerCmd) (hm : Memory.wf c.mem = true) : Memory.wf (hsCommit c p).mem = true := by
  unfold hsCommit
  dsimp only
  (repeat' split) <;> simp [hm]

@[simp] theorem wf_xHandshakeAnswer {c : Chip} (u waited : Nat) (hm : Memory.wf c.mem = true) :
    Memory.wf (xHandshakeAnswer c u waited).mem = true := by
  unfold xHandshakeAnswer
  dsimp only
  (repeat' split) <;> simp [hm]

@[simp] theorem xDeferralLimit_mem (c : Chip) : (xDeferralLimit c).mem = c.mem := by
  unfold xDeferralLimit
  (repeat' split) <;> simp

/-! ### Faults, temperatures and supplies -/

@[simp] theorem wf_xRegulatorFault {c : Chip} (k : Nat) (hm : Memory.wf c.mem = true) :
    Memory.wf (xRegulatorFault c k).mem = true := by
  unfold xRegulatorFault
  split
  · extract_lets c1 c2
    have h1 : Memory.wf c1.mem = true := by
      show Memory.wf (regOr (islandOff c k) (rISTAT k) 0x10000).mem = true
      rw [regOr_mem]
      exact wf_islandOff k hm
    clear_value c1
    have h2 : c2.mem = c1.mem := by
      simp only [c2]
      split
      · split
        · exact islandRefused_mem _ _ _
        · split
          · split
            · exact endPower_mem _ _ _
            · rfl
          · rfl
      · rfl
    clear_value c2
    split
    · rwa [fatal_mem, h2]
    · rwa [h2]
  · exact hm

@[simp] theorem wf_overTemp {c : Chip} (temp who : Nat) (hm : Memory.wf c.mem = true) :
    Memory.wf (overTemp c temp who).mem = true := by
  simp [overTemp, hm]

@[simp] theorem wf_xTemperatureSample {c : Chip} (base : BitVec 16) (isl : List (BitVec 16)) (hm : Memory.wf c.mem = true) :
    Memory.wf (xTemperatureSample c base isl).mem = true := by
  unfold xTemperatureSample
  split
  · exact hm
  · extract_lets before peak t top c1 c2 c3
    have h2 : c2.mem = c.mem := by
      apply foldl_mem
      intro d k
      rfl
    have h3 : c3.mem = c.mem := by
      simp only [c3]
      (repeat' split) <;> simp [h2]
    split
    · exact wf_overTemp _ _ (by rwa [h3])
    · rwa [h3]

@[simp] theorem xVinSample_mem (c : Chip) (v : BitVec 16) : (xVinSample c v).mem = c.mem := by
  simp [xVinSample]

@[simp] theorem xSupplyLimit_mem (c : Chip) : (xSupplyLimit c).mem = c.mem := by
  simp -implicitDefEqProofs [xSupplyLimit]

@[simp] theorem xSupplyLimitEnd_mem (c : Chip) : (xSupplyLimitEnd c).mem = c.mem := by
  simp [xSupplyLimitEnd]

/-! ### The loss of PER and of LUT -/

@[simp] theorem wf_perOff {c : Chip} (hm : Memory.wf c.mem = true) : Memory.wf (perOff c).mem = true :=
  wf_clearRange _ _ hm

@[simp] theorem perOn_mem (c : Chip) : (perOn c).mem = c.mem := by
  simp [perOn]

@[simp] theorem wf_lutOff {c : Chip} (hm : Memory.wf c.mem = true) : Memory.wf (lutOff c).mem = true :=
  wf_clearRange _ _ hm

@[simp] theorem setAttach_mem (c : Chip) (a : Attach) : (setAttach c a).mem = c.mem := by
  simp [setAttach]

/-! ### Watch and hibernation -/

@[simp] theorem wake_mem (c : Chip) (src slot : Nat) : (wake c src slot).mem = c.mem := by
  simp [wake]

@[simp] theorem wf_enterLow {c : Chip} (hibernate : Bool) (hm : Memory.wf c.mem = true) :
    Memory.wf (enterLow c hibernate).mem = true := by
  unfold enterLow
  extract_lets lost c1 c2 c3 src c4
  have h1 : Memory.wf c1.mem = true := wf_foldl (fun d b hd => wf_clearRange _ _ hd) _ (wf_perOff hm)
  have h2 : Memory.wf c2.mem = true := by rwa [setAttach_mem]
  have h4 : Memory.wf c4.mem = true := by
    simp only [c4]
    split
    · rw [setDev_mem]
      exact wf_lutOff h2
    · rw [setDev_mem]
      exact h2
  split
  · rw [wake_mem]
    exact h4
  · exact h4

@[simp] theorem xWatchPeriod_mem (c : Chip) (samples : List (BitVec 2)) : (xWatchPeriod c samples).mem = c.mem := by
  unfold xWatchPeriod
  split
  · rfl
  · extract_lets old first take miss c1 c2 run src c3 timer
    have h3 : c3.mem = c.mem := by
      show c2.mem = c.mem
      rw [regCount_mem, regPut_mem, regPut_mem]
    split
    · rw [wake_mem, h3]
    · split
      · rw [wake_mem, h3]
      · exact h3

@[simp] theorem xBrownOut_mem (c : Chip) : (xBrownOut c).mem = c.mem := by
  simp -implicitDefEqProofs [xBrownOut]

@[simp] theorem retentionCheck_mem (c : Chip) : (retentionCheck c).mem = c.mem := by
  simp [retentionCheck]

@[simp] theorem markWake_mem (c : Chip) : (markWake c).mem = c.mem := by
  unfold markWake
  apply foldl_mem
  intro d q
  rfl

/-! ### Firmware slots and the configuration record -/

@[simp] theorem loadConfig_mem (c : Chip) : (loadConfig c).mem = c.mem := by
  unfold loadConfig
  split <;> simp -implicitDefEqProofs

/-! ### Removal records -/

@[simp] theorem wf_xOwedErase {c : Chip} (hm : Memory.wf c.mem = true) : Memory.wf (xOwedErase c).mem = true := by
  unfold xOwedErase
  extract_lets ready
  split
  · split
    · exact wf_clearRange _ _ hm
    · exact hm
  · exact hm

@[simp] theorem recFlags_mem (c : Chip) (m : Nat) : (recFlags c m).mem = c.mem := by
  simp [recFlags]

@[simp] theorem wf_removalBegin {c : Chip} (cause flags : Nat) (hm : Memory.wf c.mem = true) :
    Memory.wf (removalBegin c cause flags).mem = true := by
  unfold removalBegin
  split <;> simp -implicitDefEqProofs [hm]

@[simp] theorem wf_xPresLateLoss {c : Chip} (which : BitVec 2) (hm : Memory.wf c.mem = true) :
    Memory.wf (xPresLateLoss c which).mem = true := by
  unfold xPresLateLoss
  dsimp only
  (repeat' split) <;> simp -implicitDefEqProofs [hm]

@[simp] theorem wf_inputLost {c : Chip} (flags : Nat) (hm : Memory.wf c.mem = true) : Memory.wf (inputLost c flags).mem = true := by
  simp [inputLost, hm]

@[simp] theorem wf_xInputLoss {c : Chip} (hm : Memory.wf c.mem = true) : Memory.wf (xInputLoss c).mem = true := by
  unfold xInputLoss
  split <;> simp -implicitDefEqProofs [hm]

@[simp] theorem wf_xOvervoltage {c : Chip} (hm : Memory.wf c.mem = true) : Memory.wf (xOvervoltage c).mem = true := by
  simp [xOvervoltage, hm]

/-! ### Insertion and boot -/

@[simp] theorem xBankCharged_mem (c : Chip) : (xBankCharged c).mem = c.mem := by
  simp [xBankCharged]

@[simp] theorem wf_xHoldUpExhausted {c : Chip} (hm : Memory.wf c.mem = true) : Memory.wf (xHoldUpExhausted c).mem = true := by
  unfold xHoldUpExhausted
  extract_lets due sys keep
  split
  · exact Memory.wf_filter _ hm
  · exact hm

@[simp] theorem wf_bootStart {c : Chip} (hm : Memory.wf c.mem = true) : Memory.wf (bootStart c).mem = true := by
  simp [bootStart, hm]

@[simp] theorem wf_resetAllButAon {c : Chip} (hm : Memory.wf c.mem = true) : Memory.wf (resetAllButAon c).mem = true := by
  unfold resetAllButAon
  extract_lets c1 src sys
  have h1 : Memory.wf c1.mem = true := wf_lutOff (wf_perOff (wf_allOff hm))
  clear_value c1
  rw [setDev_mem]
  exact h1

@[simp] theorem wf_xPresenceDebounce {c : Chip} (hm : Memory.wf c.mem = true) : Memory.wf (xPresenceDebounce c).mem = true := by
  unfold xPresenceDebounce
  dsimp only
  (repeat' split) <;> simp -implicitDefEqProofs [hm]

@[simp] theorem xStrapSample_mem (c : Chip) (slot : BitVec 5) (fu : Bool) : (xStrapSample c slot fu).mem = c.mem := by
  simp [xStrapSample]

@[simp] theorem rescue_mem (c : Chip) : (rescue c).mem = c.mem := by
  simp [rescue]

@[simp] theorem xFirmwareCheck_mem (c : Chip) (bad : BitVec 2) : (xFirmwareCheck c bad).mem = c.mem := by
  unfold xFirmwareCheck
  dsimp only
  (repeat' split) <;> simp -implicitDefEqProofs

@[simp] theorem goreneStart_mem (c : Chip) (b : Bool) : (goreneStart c b).mem = c.mem := by
  simp -implicitDefEqProofs [goreneStart]

@[simp] theorem wf_xBodyCopyDone {c : Chip} (hm : Memory.wf c.mem = true) : Memory.wf (xBodyCopyDone c).mem = true := by
  unfold xBodyCopyDone
  split
  · extract_lets l c1 c2
    have h1 : Memory.wf c1.mem = true := wf_putBytes _ _ hm
    clear_value c1
    have h2 : Memory.wf c2.mem = true := by
      simp only [c2]
      split
      · rwa [regSetFld_mem]
      · rwa [regSetFld_mem]
    clear_value c2
    split
    · rwa [goreneStart_mem]
    · split
      · exact h2
      · rwa [rescue_mem]
  · exact hm

@[simp] theorem dumpSlots_mem (c : Chip) : (dumpSlots c).mem = c.mem := by
  simp [dumpSlots]

@[simp] theorem slotRegs_mem (c : Chip) : (slotRegs c).mem = c.mem := by
  simp -implicitDefEqProofs [slotRegs]

@[simp] theorem autoAttach_mem (c : Chip) : (autoAttach c).mem = c.mem := by
  simp [autoAttach]

@[simp] theorem xBootComplete_mem (c : Chip) (us : Word) : (xBootComplete c us).mem = c.mem := by
  simp [xBootComplete]

@[simp] theorem xPerPowered_mem (c : Chip) : (xPerPowered c).mem = c.mem := by
  simp [xPerPowered]

/-! ### Ordered detach -/

@[simp] theorem detachBegin_mem (c : Chip) (r : Option ReplyTo) (at_ : Bool) (stop : Word) (limit : Nat) :
    (detachBegin c r at_ stop limit).mem = c.mem := by
  simp [detachBegin]

@[simp] theorem wf_detachFinish {c : Chip} (d : Detach) (hm : Memory.wf c.mem = true) : Memory.wf (detachFinish c d).mem = true := by
  unfold detachFinish
  split <;> simp -implicitDefEqProofs [hm]

@[simp] theorem wf_detachTry {c : Chip} (hm : Memory.wf c.mem = true) : Memory.wf (detachTry c).mem = true := by
  unfold detachTry
  split <;> simp -implicitDefEqProofs [hm]

@[simp] theorem wf_detachHalt {c : Chip} (hm : Memory.wf c.mem = true) : Memory.wf (detachHalt c).mem = true := by
  simp [detachHalt, hm]

@[simp] theorem wf_xDrainComplete {c : Chip} (hm : Memory.wf c.mem = true) : Memory.wf (xDrainComplete c).mem = true := by
  simp [xDrainComplete, hm]

@[simp] theorem wf_xDrainLimit {c : Chip} (hm : Memory.wf c.mem = true) : Memory.wf (xDrainLimit c).mem = true := by
  simp [xDrainLimit, hm]

@[simp] theorem wf_xPerSwitchOff {c : Chip} (hm : Memory.wf c.mem = true) : Memory.wf (xPerSwitchOff c).mem = true := by
  unfold xPerSwitchOff
  dsimp only
  (repeat' split) <;> simp -implicitDefEqProofs [hm]

@[simp] theorem wf_xRemovalRecordWritten {c : Chip} (hm : Memory.wf c.mem = true) :
    Memory.wf (xRemovalRecordWritten c).mem = true := by
  unfold xRemovalRecordWritten
  split
  · exact hm
  split
  · exact hm
  · extract_lets i c1 c2 c3 owed src c4 src' c5
    have h1 : Memory.wf c1.mem = true := wf_putBytes _ _ hm
    clear_value c1
    have h4 : Memory.wf c4.mem = true := by
      show Memory.wf c3.mem = true
      rw [show c3.mem = c1.mem by rw [regWrap_mem, regSetFld_mem, regPut_mem]]
      exact h1
    clear_value c4
    have h5 : Memory.wf c5.mem = true := by
      rw [show c5.mem = c4.mem by rw [setDev_mem, setAttach_mem]]
      exact h4
    clear_value c5
    split
    · split
      · exact wf_lutOff h5
      · split
        · exact wf_resetAllButAon h5
        · exact h5
    · exact h4

/-! ### Wakes -/

@[simp] theorem xWakeFromWatch_mem (c : Chip) : (xWakeFromWatch c).mem = c.mem := by
  simp [xWakeFromWatch]

@[simp] theorem xWakeFromHibernate_mem (c : Chip) : (xWakeFromHibernate c).mem = c.mem := by
  simp [xWakeFromHibernate]

/-! ### The peg bus -/

@[simp] theorem pegReply_mem (c : Chip) (status : Nat) (data : List Byte) : (pegReply c status data).mem = c.mem := by
  simp [pegReply]

@[simp] theorem wf_pegFrame {c : Chip} (cmd : Byte) (tokens : List PegSym) {f : Chip → Byte → Chip}
    (hf : ∀ d b, Memory.wf d.mem = true → Memory.wf (f d b).mem = true) (hm : Memory.wf c.mem = true) :
    Memory.wf (pegFrame c cmd tokens f).mem = true := by
  unfold pegFrame
  split
  · exact hm
  · dsimp only
    split
    · split
      · rw [regCount_mem]
        exact hm
      split
      · exact hm
      split
      · rw [pegReply_mem, regWrap_mem]
        exact hm
      split
      · refine hf _ _ ?_
        rw [regWrap_mem]
        exact hm
      · exact hm
    · exact hm

@[simp] theorem wf_xPegStatus {c : Chip} (tokens : List PegSym) (hm : Memory.wf c.mem = true) :
    Memory.wf (xPegStatus c tokens).mem = true := by
  simp -implicitDefEqProofs [xPegStatus, hm]

@[simp] theorem wf_xPegIdent {c : Chip} (tokens : List PegSym) (hm : Memory.wf c.mem = true) :
    Memory.wf (xPegIdent c tokens).mem = true := by
  simp -implicitDefEqProofs [xPegIdent, hm]

@[simp] theorem wf_xPegAttach {c : Chip} (tokens : List PegSym) (hm : Memory.wf c.mem = true) :
    Memory.wf (xPegAttach c tokens).mem = true := by
  simp -implicitDefEqProofs [xPegAttach, hm]

@[simp] theorem wf_xPegDetach {c : Chip} (tokens : List PegSym) (hm : Memory.wf c.mem = true) :
    Memory.wf (xPegDetach c tokens).mem = true := by
  simp -implicitDefEqProofs [xPegDetach, hm]

@[simp] theorem wf_xPegWake {c : Chip} (tokens : List PegSym) (hm : Memory.wf c.mem = true) :
    Memory.wf (xPegWake c tokens).mem = true := by
  simp -implicitDefEqProofs [xPegWake, hm]

@[simp] theorem wf_xPegReset {c : Chip} (tokens : List PegSym) (hm : Memory.wf c.mem = true) :
    Memory.wf (xPegReset c tokens).mem = true := by
  unfold xPegReset
  refine wf_pegFrame _ _ (fun d b hd => ?_) hm
  split
  · rwa [pegReply_mem]
  · exact wf_resetAllButAon (by rwa [pegReply_mem])

/-! ### GLB -/

@[simp] theorem glbRead_mem (c : Chip) (o : Nat) : (glbRead c o).1.mem = c.mem := by
  simp [glbRead]

@[simp] theorem glbWrite_mem (c : Chip) (o : Nat) (w : Word) : (glbWrite c o w).mem = c.mem := by
  simp [glbWrite]

/-! ### PWR -/

@[simp] theorem pwrRead_mem (c : Chip) (o : Nat) : (pwrRead c o).1.mem = c.mem := by
  simp -implicitDefEqProofs [pwrRead]

@[simp] theorem pwrCfgErr_mem (c : Chip) : (pwrCfgErr c).mem = c.mem := by
  simp [pwrCfgErr]

@[simp] theorem pwrWrite_mem (c : Chip) (o : Nat) (w : Word) : (pwrWrite c o w).mem = c.mem := by
  simp [pwrWrite]

/-! ### RET -/

@[simp] theorem retRead_mem (c : Chip) (o : Nat) : (retRead c o).1.mem = c.mem := by
  simp [retRead]

@[simp] theorem retForce_mem (c : Chip) : (retForce c).mem = c.mem := by
  simp [retForce]

@[simp] theorem retWrite_mem (c : Chip) (o : Nat) (w : Word) : (retWrite c o w).mem = c.mem := by
  simp [retWrite]

/-! ### CMD -/

@[simp] theorem rpop_mem (c : Chip) (q : Nat) : (rpop c q).1.mem = c.mem := by
  simp [rpop]

@[simp] theorem cmdRead_mem (c : Chip) (o : Nat) : (cmdRead c o).1.mem = c.mem := by
  simp [cmdRead]

@[simp] theorem cmdCfgErr_mem (c : Chip) : (cmdCfgErr c).mem = c.mem := by
  simp [cmdCfgErr]

@[simp] theorem cctlWrite_mem (c : Chip) (q : Nat) (w : Word) : (cctlWrite c q w).mem = c.mem := by
  simp [cctlWrite]

@[simp] theorem cdbWrite_mem (c : Chip) (q : Nat) (w : Word) : (cdbWrite c q w).mem = c.mem := by
  simp [cdbWrite]

@[simp] theorem cmdWrite_mem (c : Chip) (o : Nat) (w : Word) : (cmdWrite c o w).mem = c.mem := by
  simp [cmdWrite]

/-! ### EDG -/

@[simp] theorem edgRead_mem (c : Chip) (o : Nat) : (edgRead c o).1.mem = c.mem := by
  simp [edgRead]

@[simp] theorem edgWrite_mem (c : Chip) (o : Nat) (w : Word) : (edgWrite c o w).mem = c.mem := by
  simp -implicitDefEqProofs [edgWrite]

/-! ### CL -/

@[simp] theorem stallRead_mem (c : Chip) (k : Nat) : (stallRead c k).1.mem = c.mem := by
  simp [stallRead]

@[simp] theorem clRead_mem (c : Chip) (k o : Nat) : (clRead c k o).1.mem = c.mem := by
  simp [clRead]

@[simp] theorem clCfgErr_mem (c : Chip) (k : Nat) : (clCfgErr c k).mem = c.mem := by
  simp [clCfgErr]

@[simp] theorem eccStatWrite_mem (c : Chip) (k : Nat) (w : Word) : (eccStatWrite c k w).mem = c.mem := by
  simp [eccStatWrite]

@[simp] theorem eccInjWrite_mem (c : Chip) (k : Nat) (w : Word) : (eccInjWrite c k w).mem = c.mem := by
  simp [eccInjWrite]

@[simp] theorem groupWrite_mem (c : Chip) (k o : Nat) (w : Word) : (groupWrite c k o w).mem = c.mem := by
  simp [groupWrite]

@[simp] theorem clWrite_mem (c : Chip) (k o : Nat) (w : Word) : (clWrite c k o w).mem = c.mem := by
  simp [clWrite]

/-! ### CO -/

@[simp] theorem coCtl_mem (c : Chip) (n : Nat) (w : Word) : (coCtl c n w).mem = c.mem := by
  simp [coCtl]

@[simp] theorem coWrite_mem (c : Chip) (n o : Nat) (w : Word) : (coWrite c n o w).mem = c.mem := by
  simp [coWrite]

/-! ### The register space -/

@[simp] theorem regRead_mem (c : Chip) (a : Nat) : (regRead c a).1.mem = c.mem := by
  unfold regRead
  dsimp only
  (repeat' split) <;> simp -implicitDefEqProofs

@[simp] theorem regWrite_mem (c : Chip) (a : Nat) (w : Word) : (regWrite c a w).1.mem = c.mem := by
  unfold regWrite
  dsimp only
  (repeat' split) <;> simp -implicitDefEqProofs

/-! ### Accesses performed -/

@[simp] theorem wf_clearSome {c : Chip} (b : Nat) (hm : Memory.wf c.mem = true) : Memory.wf (clearSome c b).mem = true := by
  unfold clearSome
  dsimp only
  rw [ite_mem]
  exact wf_ite (wf_clearRange _ _ (by rwa [fresh_mem])) hm

@[simp] theorem regLoad_mem (c : Chip) (k a size : Nat) : (regLoad c k a size).1.mem = c.mem := by
  simp -implicitDefEqProofs [regLoad]

@[simp] theorem regStore_mem (c : Chip) (k a size : Nat) (w : Word) : (regStore c k a size w).1.mem = c.mem := by
  simp -implicitDefEqProofs [regStore]

@[simp] theorem wf_readTgt {c : Chip} (k a size : Nat) (hm : Memory.wf c.mem = true) :
    Memory.wf (readTgt c k a size).1.mem = true := by
  unfold readTgt
  split <;> simp -implicitDefEqProofs [hm]

@[simp] theorem wf_plainStore {c : Chip} (ga size : Nat) (w : Word) (hm : Memory.wf c.mem = true) :
    Memory.wf (plainStore c ga size w).mem = true :=
  wf_putLe _ _ _ hm

@[simp] theorem wf_storeTgt {c : Chip} (k a size : Nat) (w : Word) (psn : Bool) (hm : Memory.wf c.mem = true) :
    Memory.wf (storeTgt c k a size w psn).1.mem = true := by
  unfold storeTgt
  dsimp only
  (repeat' split) <;> simp -implicitDefEqProofs [hm]

@[simp] theorem noteAcc_mem (c : Chip) (k : Nat) (r : Acc) : (noteAcc c k r).mem = c.mem := by
  unfold noteAcc
  dsimp only
  (repeat' split) <;> simp -implicitDefEqProofs

@[simp] theorem wf_doLoad {c : Chip} (k : Nat) (q : BusReq) (hm : Memory.wf c.mem = true) : Memory.wf (doLoad c k q).mem = true := by
  unfold doLoad
  dsimp only
  split <;> simp -implicitDefEqProofs [hm]

@[simp] theorem wf_doTas {c : Chip} (k : Nat) (q : BusReq) (hm : Memory.wf c.mem = true) : Memory.wf (doTas c k q).mem = true := by
  unfold doTas
  dsimp only
  (repeat' split) <;> simp -implicitDefEqProofs [hm]

@[simp] theorem wf_doSc {c : Chip} (k i : Nat) (q : BusReq) (hm : Memory.wf c.mem = true) : Memory.wf (doSc c k i q).mem = true := by
  unfold doSc
  dsimp only
  (repeat' split) <;> simp -implicitDefEqProofs [hm]

@[simp] theorem dropReq_mem (c : Chip) (k i : Nat) : (dropReq c k i).mem = c.mem := by
  simp [dropReq]

@[simp] theorem wf_performReq {c : Chip} (k i : Nat) (q : BusReq) (hm : Memory.wf c.mem = true) :
    Memory.wf (performReq c k i q).mem = true := by
  unfold performReq
  dsimp only
  (repeat' split) <;> simp -implicitDefEqProofs [hm]

@[simp] theorem barrierGo_mem (c : Chip) (k : Nat) : (barrierGo c k).mem = c.mem := by
  simp [barrierGo]

@[simp] theorem wf_xMemoryAccess {c : Chip} (b : Nat) (arrived : List Nat) (hm : Memory.wf c.mem = true) :
    Memory.wf (xMemoryAccess c b arrived).mem = true := by
  unfold xMemoryAccess
  dsimp only
  (repeat' split) <;> simp -implicitDefEqProofs [hm]

/-! ### Landing -/

@[simp] theorem fillLog_mem (c : Chip) (k : Nat) (f : Flight) : (fillLog c k f).mem = c.mem := by
  simp [fillLog]

@[simp] theorem landNow_mem (c : Chip) (k : Nat) (f : Flight) : (landNow c k f).mem = c.mem := by
  simp [landNow]

@[simp] theorem wf_xLanding {c : Chip} (k s : Nat) (hm : Memory.wf c.mem = true) : Memory.wf (xLanding c k s).mem = true := by
  unfold xLanding
  dsimp only
  (repeat' split) <;> simp -implicitDefEqProofs [hm]

/-! ### Stores -/

@[simp] theorem wf_xStoreDrain {c : Chip} (k : Nat) (hm : Memory.wf c.mem = true) : Memory.wf (xStoreDrain c k).mem = true := by
  unfold xStoreDrain
  split
  · exact hm
  · split
    · next h =>
      rw [barrierGo_mem]
      exact wf_drainOne h hm
    · exact hm

@[simp] theorem wf_xStoreAck {c : Chip} (k i : Nat) (hm : Memory.wf c.mem = true) : Memory.wf (xStoreAck c k i).mem = true := by
  unfold xStoreAck
  dsimp only
  (repeat' split) <;> simp -implicitDefEqProofs [hm]

/-! ### Scrubbing, flit errors, injection -/

@[simp] theorem xScrub_mem (c : Chip) (k w : Nat) : (xScrub c k w).mem = c.mem := by
  simp [xScrub]

@[simp] theorem wf_hitNote {c : Chip} (lane i : Nat) (hm : Memory.wf c.mem = true) : Memory.wf (hitNote c lane i).mem = true := by
  unfold hitNote
  split <;> simp -implicitDefEqProofs [hm]

@[simp] theorem wf_hitItem {c : Chip} (s i : Nat) (v : Word) (hm : Memory.wf c.mem = true) :
    Memory.wf (hitItem c s i v).mem = true := by
  unfold hitItem
  dsimp only
  split <;> simp -implicitDefEqProofs [hm]

@[simp] theorem hitRecord_mem (c : Chip) (k i : Nat) (v : Word) : (hitRecord c k i v).mem = c.mem := by
  simp [hitRecord]

@[simp] theorem wf_xDataFlitError {c : Chip} (k p : Nat) (what who i : Nat) (hm : Memory.wf c.mem = true) :
    Memory.wf (xDataFlitError c k p what who i).mem = true := by
  unfold xDataFlitError
  dsimp only
  (repeat' split) <;> simp -implicitDefEqProofs [hm]

@[simp] theorem xHeadFlitError_mem (c : Chip) (k p : Nat) : (xHeadFlitError c k p).mem = c.mem := by
  simp -implicitDefEqProofs [xHeadFlitError]

@[simp] theorem xEccinjWrite_mem (c : Chip) (k : Nat) (w : Word) : (xEccinjWrite c k w).mem = c.mem := by
  simp [xEccinjWrite]

@[simp] theorem tunerPulse_mem (c : Chip) (n : Nat) : (tunerPulse c n).mem = c.mem := by
  simp [tunerPulse]

/-! ### Halts through the peg -/

@[simp] theorem haltString_mem (c : Chip) (k : Nat) : (haltString c k).mem = c.mem := by
  simp [haltString]

@[simp] theorem xPegHalt_mem (c : Chip) (n : Nat) : (xPegHalt c n).mem = c.mem := by
  simp [xPegHalt]

@[simp] theorem wf_xCourseHalted {c : Chip} (n : Nat) (hm : Memory.wf c.mem = true) : Memory.wf (xCourseHalted c n).mem = true := by
  unfold xCourseHalted
  split <;> simp -implicitDefEqProofs [hm]

/-! ### The architectural state of a string -/

@[simp] theorem copyToB_mem (c : Chip) (n : Nat) : (copyToB c n).mem = c.mem := by
  simp [copyToB]

@[simp] theorem restoreSnap_mem (c : Chip) (n : Nat) : (restoreSnap c n).mem = c.mem := by
  unfold restoreSnap
  split <;> simp -implicitDefEqProofs

/-! ### Release -/

@[simp] theorem releaseTrap_mem (c : Chip) (n cause : Nat) (ipc addr : Nat) : (releaseTrap c n cause ipc addr).mem = c.mem := by
  simp [releaseTrap]

@[simp] theorem wf_releaseSend {c : Chip} (n : Nat) (e : Entry) (hm : Memory.wf c.mem = true) :
    Memory.wf (releaseSend c n e).mem = true := by
  unfold releaseSend
  split <;> simp -implicitDefEqProofs [hm]

@[simp] theorem releaseEngine_mem (c : Chip) (n : Nat) (e : Entry) : (releaseEngine c n e).mem = c.mem := by
  simp -implicitDefEqProofs [releaseEngine]

@[simp] theorem wf_performPair {c : Chip} (n : Nat) (e : Entry) (hm : Memory.wf c.mem = true) :
    Memory.wf (performPair c n e).mem = true := by
  unfold performPair
  split <;> simp -implicitDefEqProofs [hm]

@[simp] theorem wf_release {c : Chip} (n : Nat) (hm : Memory.wf c.mem = true) : Memory.wf (release c n).mem = true := by
  unfold release
  exact wf_foldl (fun d p hd => wf_performPair _ _ hd) _ hm

/-! ### Checkpoints -/

@[simp] theorem xCheckpointWordLimit_mem (c : Chip) (n : Nat) : (xCheckpointWordLimit c n).mem = c.mem := by
  simp [xCheckpointWordLimit]

@[simp] theorem splitNow_mem (c : Chip) (n : Nat) (h : Hand) : (splitNow c n h).mem = c.mem := by
  simp -implicitDefEqProofs [splitNow]

@[simp] theorem wf_ckptEqual {c : Chip} (n : Nat) (hm : Memory.wf c.mem = true) : Memory.wf (ckptEqual c n).mem = true := by
  unfold ckptEqual
  dsimp only
  (repeat' split) <;> simp -implicitDefEqProofs [hm]

@[simp] theorem wf_xCheckpoint {c : Chip} (n fault : Nat) (hm : Memory.wf c.mem = true) :
    Memory.wf (xCheckpoint c n fault).mem = true := by
  unfold xCheckpoint
  (repeat' split) <;> simp -implicitDefEqProofs [hm]

/-! ### Skew -/

@[simp] theorem xSkewTimeout_mem (c : Chip) (n : Nat) : (xSkewTimeout c n).mem = c.mem := by
  simp [xSkewTimeout]

/-! ### Verdicts and resumption -/

@[simp] theorem verdict_mem (c : Chip) (n v : Nat) : (verdict c n v).mem = c.mem := by
  simp [verdict]

@[simp] theorem resumeBoth_mem (c : Chip) (n : Nat) : (resumeBoth c n).mem = c.mem := by
  simp [resumeBoth]

@[simp] theorem resumeAlone_mem (c : Chip) (n : Nat) (b : Bool) : (resumeAlone c n b).mem = c.mem := by
  simp [resumeAlone]

@[simp] theorem xLbistVerdict_mem (c : Chip) (n : Nat) (passA passB : Bool) : (xLbistVerdict c n passA passB).mem = c.mem := by
  simp [xLbistVerdict]

@[simp] theorem xTunerSelfTestDone_mem (c : Chip) (n cause : Nat) : (xTunerSelfTestDone c n cause).mem = c.mem := by
  simp [xTunerSelfTestDone]

/-! ### Hand-overs -/

@[simp] theorem xHandoverQuiesced_mem (c : Chip) (n : Nat) : (xHandoverQuiesced c n).mem = c.mem := by
  unfold xHandoverQuiesced
  split <;> simp -implicitDefEqProofs

@[simp] theorem xHandoverTimeout_mem (c : Chip) (n : Nat) : (xHandoverTimeout c n).mem = c.mem := by
  unfold xHandoverTimeout
  split <;> simp -implicitDefEqProofs

/-! ### TUNER_TEST and CO.CTL -/

@[simp] theorem xTunerTestDone_mem (c : Chip) (n : Nat) (passA passB : Bool) (tuner : Nat) :
    (xTunerTestDone c n passA passB tuner).mem = c.mem := by
  unfold xTunerTestDone
  split <;> simp -implicitDefEqProofs

@[simp] theorem xCoCtlWrite_mem (c : Chip) (n : Nat) (w : Word) : (xCoCtlWrite c n w).mem = c.mem := by
  simp [xCoCtlWrite]

/-! ### Registers read without their side effects -/

@[simp] theorem peekReg_mem (c : Chip) (a : Nat) : (peekReg c a).1.mem = c.mem := by
  simp [peekReg]

@[simp] theorem peekRegs_mem (c : Chip) (a n : Nat) : (peekRegs c a n).1.mem = c.mem := by
  unfold peekRegs
  apply foldl_fst_mem
  intro x i
  exact peekReg_mem _ _

@[simp] theorem peekBlocks_mem (c : Chip) (l : List Nat) (n : Nat) : (peekBlocks c l n).1.mem = c.mem := by
  unfold peekBlocks
  apply foldl_fst_mem
  intro x a
  exact peekRegs_mem _ _ _

/-! ### The sections -/

@[simp] theorem secEvent_mem (c : Chip) : (secEvent c).1.mem = c.mem := by
  simp [secEvent]

@[simp] theorem secTab_mem (c : Chip) : (secTab c).1.mem = c.mem := by
  simp [secTab]

@[simp] theorem secLuthier_mem (c : Chip) : (secLuthier c).1.mem = c.mem := by
  unfold secLuthier
  generalize List.range 256 = l
  apply foldl_fst_mem
  intro x i
  exact fresh_mem _

@[simp] theorem sections_mem (c : Chip) : (sections c).1.mem = c.mem := by
  unfold sections
  split
  next c1 _ h1 =>
  split
  next c2 _ h2 =>
  split
  next c3 _ h3 =>
  split
  next c4 _ h4 =>
  split
  next c5 _ h5 =>
  split
  next c6 _ h6 =>
  split
  next c7 _ h7 =>
  split
  next c8 _ h8 =>
  have e1 := secEvent_mem c
  have e2 := secTab_mem c1
  have e3 := peekBlocks_mem c2 ((List.range 16).map (fun d => drnReg d 0)) 8
  have e4 := peekBlocks_mem c3 ((List.range 128).map (fun p => fpReg p 0)) 16
  have e5 := peekBlocks_mem c4 ((List.range 32).map (fun k => clReg k 0)) 64
  have e6 := secLuthier_mem c5
  have e7 := peekRegs_mem c6 0x60001000 64
  have e8 := peekRegs_mem c7 0x60002000 32
  rw [h1] at e1
  rw [h2] at e2
  rw [h3] at e3
  rw [h4] at e4
  rw [h5] at e5
  rw [h6] at e6
  rw [h7] at e7
  rw [h8] at e8
  exact e8.trans (e7.trans (e6.trans (e5.trans (e4.trans (e3.trans (e2.trans e1))))))

/-! ### The dump -/

@[simp] theorem wf_xDumpWritten {c : Chip} (hm : Memory.wf c.mem = true) : Memory.wf (xDumpWritten c).mem = true := by
  unfold xDumpWritten
  extract_lets busy
  split
  · exact hm
  split
  next d secs hs =>
  have hd : Memory.wf d.mem = true := by
    rw [show d = (sections c).1 by rw [hs], sections_mem]
    exact hm
  split
  next ga size _ =>
  split
  next dir body len trunc _ =>
  extract_lets cause absent flags dirW head d1 st flash st' d2 src d3
  have h1 : Memory.wf d1.mem = true := wf_putBytes _ _ hd
  clear_value d1
  have h3 : Memory.wf d3.mem = true := by
    show Memory.wf d2.mem = true
    rw [show d2.mem = d1.mem by rw [regPut_mem, regPut_mem, regPut_mem]]
    exact h1
  clear_value d3
  split
  · split
    · exact wf_detachHalt h3
    · exact h3
  · exact h3

/-! ### Flash -/

@[simp] theorem wf_flashProg {c : Chip} (a : Nat) (l : List Byte) (hm : Memory.wf c.mem = true) :
    Memory.wf (flashProg c a l).mem = true := by
  induction l generalizing c a with
  | nil => exact hm
  | cons b t ih =>
    rw [flashProg]
    dsimp only
    refine ih _ ?_
    rw [ite_mem]
    exact wf_ite (wf_putByte _ _ hm) (wf_putByte _ _ (by rwa [fresh_mem]))

@[simp] theorem wf_xDumpFlashCopyDone {c : Chip} (hm : Memory.wf c.mem = true) : Memory.wf (xDumpFlashCopyDone c).mem = true := by
  simp [xDumpFlashCopyDone, hm]

@[simp] theorem wf_xDumpSlotEraseDone {c : Chip} (hm : Memory.wf c.mem = true) : Memory.wf (xDumpSlotEraseDone c).mem = true := by
  unfold xDumpSlotEraseDone
  split
  · exact hm
  · exact wf_clearRange _ _ hm

@[simp] theorem wf_xFlashOpDone {c : Chip} (hm : Memory.wf c.mem = true) : Memory.wf (xFlashOpDone c).mem = true := by
  unfold xFlashOpDone
  split
  · exact hm
  · next op _ =>
    extract_lets ga c1 ok next_
    have h1 : Memory.wf c1.mem = true := by
      simp only [c1, ite_mem]
      exact wf_ite (wf_clearRange _ _ hm) (wf_flashProg _ _ hm)
    clear_value c1
    rw [complete_mem]
    exact h1

/-! ### Forced and peg-ring faults -/

@[simp] theorem xRetTestForce_mem (c : Chip) : (xRetTestForce c).mem = c.mem := by
  simp [xRetTestForce]

@[simp] theorem xPegRingTimeout_mem (c : Chip) (u : Nat) : (xPegRingTimeout c u).mem = c.mem := by
  simp [xPegRingTimeout]

/-! ### Mailboxes -/

@[simp] theorem parkSend_mem (c : Chip) (s k : Nat) : (parkSend c s k).mem = c.mem := by
  simp [parkSend]

@[simp] theorem wf_takeSend {c : Chip} (s k : Nat) (w : Wait) (hm : Memory.wf c.mem = true) :
    Memory.wf (takeSend c s k w).mem = true := by
  unfold takeSend
  (repeat' split) <;> simp -implicitDefEqProofs [hm]

@[simp] theorem wf_arriveSend {c : Chip} (k : Nat) (w : Wait) (hm : Memory.wf c.mem = true) :
    Memory.wf (arriveSend c k w).mem = true := by
  unfold arriveSend
  dsimp only
  (repeat' split) <;> simp -implicitDefEqProofs [hm]

@[simp] theorem wf_xMailboxSendArrival {c : Chip} (k : Nat) (hm : Memory.wf c.mem = true) :
    Memory.wf (xMailboxSendArrival c k).mem = true := by
  unfold xMailboxSendArrival
  split <;> simp -implicitDefEqProofs [hm]

@[simp] theorem wf_takeOldest {c : Chip} (s : Nat) (hm : Memory.wf c.mem = true) : Memory.wf (takeOldest c s).mem = true := by
  unfold takeOldest
  (repeat' split) <;> simp -implicitDefEqProofs [hm]

@[simp] theorem wf_xParkedSendPush {c : Chip} (s : Nat) (hm : Memory.wf c.mem = true) :
    Memory.wf (xParkedSendPush c s).mem = true := by
  simp [xParkedSendPush, hm]

/-! ### Parked RECVs -/

@[simp] theorem xParkedRecvComplete_mem (c : Chip) (s : Nat) : (xParkedRecvComplete c s).mem = c.mem := by
  unfold xParkedRecvComplete
  dsimp only
  split <;> simp -implicitDefEqProofs

/-! ### Credits and tail timers -/

@[simp] theorem wf_xCreditReturn {c : Chip} (s : Nat) (hm : Memory.wf c.mem = true) : Memory.wf (xCreditReturn c s).mem = true := by
  unfold xCreditReturn
  split
  · exact hm
  · extract_lets c1 h
    have h1 : Memory.wf c1.mem = true := by rwa [creditReturn_mem]
    clear_value c1
    split
    · exact wf_portDrain _ _ h1
    · exact wf_foldl (fun d _ hd => wf_takeOldest _ hd) _ h1

@[simp] theorem xTailTimerExpiry_mem (c : Chip) (s : Nat) : (xTailTimerExpiry c s).mem = c.mem := by
  simp [xTailTimerExpiry]

/-! ### Closes -/

@[simp] theorem unbindLink_mem (c : Chip) (s : Nat) : (unbindLink c s).1.mem = c.mem := by
  unfold unbindLink
  dsimp only
  split <;> simp -implicitDefEqProofs

@[simp] theorem closeChan_mem (c : Chip) (s : Nat) : (closeChan c s).1.mem = c.mem := by
  simp [closeChan]

@[simp] theorem endClose_mem (c : Chip) (s : Nat) (r : ReplyTo) : (endClose c s r).mem = c.mem := by
  simp [endClose]

@[simp] theorem xCloseDrainEnd_mem (c : Chip) (s : Nat) : (xCloseDrainEnd c s).mem = c.mem := by
  unfold xCloseDrainEnd
  split <;> simp -implicitDefEqProofs

@[simp] theorem xCloseDrainLimit_mem (c : Chip) (s : Nat) : (xCloseDrainLimit c s).mem = c.mem := by
  unfold xCloseDrainLimit
  split <;> simp -implicitDefEqProofs

/-! ### Taking a command -/

@[simp] theorem takePacket_mem (c : Chip) (q : Nat) (p : Packet) : (takePacket c q p).mem = c.mem := by
  unfold takePacket
  dsimp only
  (repeat' split) <;> simp -implicitDefEqProofs

@[simp] theorem xCommandTake_mem (c : Chip) (hdr payload : List Byte) (raddr : Nat) (bad : Bool) :
    (xCommandTake c hdr payload raddr bad).mem = c.mem := by
  unfold xCommandTake
  dsimp only
  (repeat' split) <;> simp -implicitDefEqProofs

@[simp] theorem wf_withCmd {c : Chip} (op : Nat) {f : Chip → Packet → Chip}
    (hf : ∀ d p, Memory.wf d.mem = true → Memory.wf (f d p).mem = true) (hm : Memory.wf c.mem = true) :
    Memory.wf (withCmd c op f).mem = true := by
  unfold withCmd
  split
  · exact hm
  split
  · exact hm
  · extract_lets c1 busy
    have h1 : Memory.wf c1.mem = true := hm
    clear_value c1
    split
    · rwa [reply_mem]
    · split
      · rwa [reply_mem]
      · exact hf _ _ h1

@[simp] theorem okReply_mem (c : Chip) (p : Packet) (detail : Word) : (okReply c p detail).mem = c.mem := by
  simp [okReply]

@[simp] theorem refuse_mem (c : Chip) (p : Packet) (status : Nat) (detail : Word) : (refuse c p status detail).mem = c.mem := by
  simp [refuse]

@[simp] theorem wf_begins {c : Chip} (p : Packet) {f : Chip → Chip}
    (hf : ∀ d, Memory.wf d.mem = true → Memory.wf (f d).mem = true) (hm : Memory.wf c.mem = true) :
    Memory.wf (begins c p f).mem = true := by
  unfold begins
  split
  · rwa [refuse_mem]
  · exact hf _ (by rwa [accept_mem])

/-! ### Device state and identity -/

@[simp] theorem wf_xNopCommand {c : Chip} (hm : Memory.wf c.mem = true) : Memory.wf (xNopCommand c).mem = true := by
  simp -implicitDefEqProofs [xNopCommand, hm]

@[simp] theorem wf_xIdent {c : Chip} (hm : Memory.wf c.mem = true) : Memory.wf (xIdent c).mem = true := by
  simp -implicitDefEqProofs [xIdent, hm]

@[simp] theorem wf_xDevStat {c : Chip} (hm : Memory.wf c.mem = true) : Memory.wf (xDevStat c).mem = true := by
  simp -implicitDefEqProofs [xDevStat, hm]

@[simp] theorem wf_xConfigure {c : Chip} (hm : Memory.wf c.mem = true) : Memory.wf (xConfigure c).mem = true := by
  simp -implicitDefEqProofs [xConfigure, hm]

@[simp] theorem wf_xHalt {c : Chip} (hm : Memory.wf c.mem = true) : Memory.wf (xHalt c).mem = true := by
  simp -implicitDefEqProofs [xHalt, hm]

@[simp] theorem wf_xResume {c : Chip} (hm : Memory.wf c.mem = true) : Memory.wf (xResume c).mem = true := by
  simp -implicitDefEqProofs [xResume, hm]

@[simp] theorem closeAll_mem (c : Chip) : (closeAll c).mem = c.mem := by
  simp [closeAll]

theorem wf_recoverReset {c : Chip} (hm : Memory.wf c.mem = true) :
    Memory.wf ((List.range 128).foldl (fun c p => reconfigure c p 0) (closeAll (allOff ((liveCourses c).foldl pegReset c)))).mem = true := by
  generalize List.range 128 = l
  rw [foldl_mem (fun d p => reconfigure_mem d p 0), closeAll_mem]
  refine wf_allOff ?_
  rwa [foldl_mem pegReset_mem]

theorem wf_recoverDrain {c : Chip} (hm : Memory.wf c.mem = true) :
    Memory.wf ((List.range 128).foldl (fun c p => portDrain c p 5) { c with stopped := [] }).mem = true := by
  generalize List.range 128 = l
  exact wf_foldl (fun d p hd => wf_portDrain p 5 hd) _ hm

theorem wf_recoverStandby {c : Chip} (r : ReplyTo) (ring : Bool) (hm : Memory.wf c.mem = true) :
    Memory.wf
      (let c := if ring then { c with sys := { c.sys with gone := [] } } else c
       let c := tabEndActive c
       let c := { c with tab := { c.tab with stopped := false } }
       complete (setDev c .standby 0) r stOK 0).mem = true := by
  rw [complete_mem, setDev_mem]
  show Memory.wf (tabEndActive _).mem = true
  rw [tabEndActive_mem, ite_mem]
  exact wf_ite hm hm

theorem wf_recoverTail {c : Chip} (cause : Nat) (r : ReplyTo) (ring : Bool) (hm : Memory.wf c.mem = true) :
    Memory.wf
      (if cause = 1 ∧ ring = false then complete c r stFAULT 0
      else
        let c := (List.range 128).foldl (fun c p => portDrain c p 5) { c with stopped := [] }
        let c := if ring then { c with sys := { c.sys with gone := [] } } else c
        let c := tabEndActive c
        let c := { c with tab := { c.tab with stopped := false } }
        complete (setDev c .standby 0) r stOK 0).mem = true := by
  split
  · rwa [complete_mem]
  · exact wf_recoverStandby r ring (wf_recoverDrain hm)

@[simp] theorem wf_recoverWork {c : Chip} (r : ReplyTo) (ring : Bool) (hm : Memory.wf c.mem = true) :
    Memory.wf (recoverWork c r ring).mem = true :=
  wf_recoverTail _ r ring (wf_recoverReset hm)

@[simp] theorem wf_xRecover {c : Chip} (ring : Bool) (hm : Memory.wf c.mem = true) : Memory.wf (xRecover c ring).mem = true := by
  unfold xRecover
  refine wf_withCmd _ (fun d p hd => ?_) hm
  dsimp only
  split
  · rwa [refuse_mem]
  · exact wf_begins _ (fun e he => wf_recoverWork _ _ (wf_xDumpWritten he)) hd

@[simp] theorem wf_xDetach {c : Chip} (hm : Memory.wf c.mem = true) : Memory.wf (xDetach c).mem = true := by
  unfold xDetach
  refine wf_withCmd _ (fun d p hd => ?_) hm
  split
  · rwa [refuse_mem]
  · refine wf_begins _ (fun e he => ?_) hd
    rwa [detachBegin_mem]

/-! ### Power -/

@[simp] theorem wf_powerBegin {c : Chip} (p : Packet) (cmd : PowerCmd) {go : Chip → Chip}
    (hf : ∀ d, Memory.wf d.mem = true → Memory.wf (go d).mem = true) (hm : Memory.wf c.mem = true) :
    Memory.wf (powerBegin c p cmd go).mem = true := by
  unfold powerBegin
  split
  · rwa [refuse_mem]
  · exact wf_begins _ (fun e he => hf _ he) hm

@[simp] theorem wf_xPowerMode {c : Chip} (hm : Memory.wf c.mem = true) : Memory.wf (xPowerMode c).mem = true := by
  unfold xPowerMode
  refine wf_withCmd _ (fun d p hd => ?_) hm
  dsimp only
  split
  · rwa [refuse_mem]
  split
  · rwa [refuse_mem]
  · refine wf_powerBegin _ _ (fun e he => ?_) hd
    rw [hsStart_mem]
    exact he

@[simp] theorem wf_xIsland {c : Chip} (hm : Memory.wf c.mem = true) : Memory.wf (xIsland c).mem = true := by
  unfold xIsland
  refine wf_withCmd _ (fun d p hd => wf_powerBegin _ _ (fun e he => ?_) hd) hm
  rwa [powerGo_mem]

@[simp] theorem wf_xDomain {c : Chip} (hm : Memory.wf c.mem = true) : Memory.wf (xDomain c).mem = true := by
  unfold xDomain
  refine wf_withCmd _ (fun d p hd => ?_) hm
  dsimp only
  split
  · rwa [refuse_mem]
  · refine wf_powerBegin _ _ (fun e he => ?_) hd
    rwa [powerGo_mem]

/-! ### Courses -/

@[simp] theorem resumeString_mem (c : Chip) (k : Nat) : (resumeString c k).mem = c.mem := by
  simp [resumeString]

@[simp] theorem resumeCourse_mem (c : Chip) (n : Nat) : (resumeCourse c n).mem = c.mem := by
  simp [resumeCourse]

@[simp] theorem startString_mem (c : Chip) (k a : Nat) : (startString c k a).mem = c.mem := by
  simp [startString]

@[simp] theorem startCourse_mem (c : Chip) (p : Packet) (n : Nat) : (startCourse c p n).mem = c.mem := by
  simp [startCourse]

@[simp] theorem haltCourses_mem (c : Chip) (r : ReplyTo) (l : List Nat) : (haltCourses c r l).mem = c.mem := by
  simp [haltCourses]

@[simp] theorem wf_xCourse {c : Chip} (hm : Memory.wf c.mem = true) : Memory.wf (xCourse c).mem = true := by
  unfold xCourse
  refine wf_withCmd _ (fun d p hd => ?_) hm
  extract_lets l act
  split
  · rwa [refuse_mem]
  split
  · rwa [refuse_mem]
  split
  · refine wf_begins _ (fun e he => ?_) hd
    rwa [haltCourses_mem]
  split
  · rwa [okReply_mem, foldl_mem resumeCourse_mem]
  split
  · rwa [okReply_mem, foldl_mem pegReset_mem]
  split
  · rwa [refuse_mem]
  split
  · rwa [refuse_mem]
  · rwa [okReply_mem, foldl_mem (fun e n => startCourse_mem e p n)]

@[simp] theorem wf_xHandover {c : Chip} (hm : Memory.wf c.mem = true) : Memory.wf (xHandover c).mem = true := by
  unfold xHandover
  refine wf_withCmd _ (fun d p hd => ?_) hm
  dsimp only
  split
  · rwa [refuse_mem]
  split
  · rwa [refuse_mem]
  split
  · rwa [refuse_mem]
  · refine wf_begins _ (fun e he => ?_) hd
    rw [ite_mem, callCkpt_mem]
    exact wf_ite he he

@[simp] theorem wf_xTunerTest {c : Chip} (hm : Memory.wf c.mem = true) : Memory.wf (xTunerTest c).mem = true := by
  unfold xTunerTest
  refine wf_withCmd _ (fun d p hd => ?_) hm
  dsimp only
  split
  · rwa [refuse_mem]
  split
  · rwa [refuse_mem]
  split
  · rwa [refuse_mem]
  split
  · rwa [refuse_mem]
  · exact wf_begins _ (fun e he => he) hd

/-! ### Memory, registers, drones -/

@[simp] theorem wf_readWords {c : Chip} (a i : Nat) (hurt : List Nat) (n : Nat) (hm : Memory.wf c.mem = true) :
    Memory.wf (readWords c a i hurt n).1.mem = true := by
  induction n generalizing c a i with
  | zero => exact hm
  | succ n ih =>
    have ht := wf_readTgt 512 a 4 ((accessFlits_mem c 512 0 (tgtOf 512 a)).symm ▸ hm)
    rw [readWords]
    split
    · next h =>
      rw [h] at ht
      split
      · exact ht
      · exact ih _ _ ht
    · next h =>
      rw [h] at ht
      exact ht
    · next h =>
      rw [h] at ht
      exact ht

@[simp] theorem wf_xMemRead {c : Chip} (hm : Memory.wf c.mem = true) : Memory.wf (xMemRead c).mem = true := by
  unfold xMemRead
  refine wf_withCmd _ (fun d p hd => ?_) hm
  have hr := wf_readWords p.p2.toNat 0 p.hurt (p.p3.toNat / 4) hd
  split
  · next h =>
    rw [h] at hr
    rwa [replyData_mem]
  · next h =>
    rw [h] at hr
    rwa [refuse_mem]

@[simp] theorem wf_writeWords {c : Chip} (a done : Nat) (hurt : List Nat) (l : List Word) (hm : Memory.wf c.mem = true) :
    Memory.wf (writeWords c a done hurt l).1.mem = true := by
  induction l generalizing c a done with
  | nil => exact hm
  | cons w t ih =>
    have hd : Memory.wf (if decide (done / 4 ∈ hurt) then fresh c else (c, w)).1.mem = true := by
      split
      · rwa [fresh_mem]
      · exact hm
    change Memory.wf
      (match (if decide (done / 4 ∈ hurt) then fresh c else (c, w)) with
        | (c, w) =>
          match storeTgt (accessFlits c 512 1 (tgtOf 512 a)) 512 a 4 w (decide (done / 4 ∈ hurt)) with
          | (c, .good _ _) => writeWords c (a + 4) (done + 4) hurt t
          | (c, .off) => (c, some stDOMAINOFF, done)
          | (c, _) => (c, some stSTATE, done)).1.mem = true
    generalize (if decide (done / 4 ∈ hurt) then fresh c else (c, w)) = x at hd ⊢
    obtain ⟨d, w'⟩ := x
    have hs := wf_storeTgt 512 a 4 w' (decide (done / 4 ∈ hurt)) ((accessFlits_mem d 512 1 (tgtOf 512 a)).symm ▸ hd)
    dsimp only
    generalize storeTgt (accessFlits d 512 1 (tgtOf 512 a)) 512 a 4 w' (decide (done / 4 ∈ hurt)) = y at hs ⊢
    obtain ⟨e, r⟩ := y
    cases r
    case good => exact ih _ _ hs
    all_goals exact hs

@[simp] theorem wf_xMemWrite {c : Chip} (hm : Memory.wf c.mem = true) : Memory.wf (xMemWrite c).mem = true := by
  unfold xMemWrite
  refine wf_withCmd _ (fun d p hd => ?_) hm
  have hr := wf_writeWords p.p2.toNat 0 p.hurt (wordsOf p.payload) hd
  split
  · next h =>
    rw [h] at hr
    rwa [okReply_mem]
  · next h =>
    rw [h] at hr
    rwa [refuse_mem]

@[simp] theorem wf_xRegRead {c : Chip} (hm : Memory.wf c.mem = true) : Memory.wf (xRegRead c).mem = true := by
  simp -implicitDefEqProofs [xRegRead, hm]

@[simp] theorem wf_xRegWrite {c : Chip} (hm : Memory.wf c.mem = true) : Memory.wf (xRegWrite c).mem = true := by
  simp -implicitDefEqProofs [xRegWrite, hm]

@[simp] theorem wf_xDroneSet {c : Chip} (hm : Memory.wf c.mem = true) : Memory.wf (xDroneSet c).mem = true := by
  simp -implicitDefEqProofs [xDroneSet, hm]

/-! ### Firos nodes, keys -/

@[simp] theorem wf_xLinkNode {c : Chip} (hm : Memory.wf c.mem = true) : Memory.wf (xLinkNode c).mem = true := by
  unfold xLinkNode
  refine wf_withCmd _ (fun d p hd => ?_) hm
  dsimp only
  split
  · rwa [refuse_mem]
  split
  · rwa [refuse_mem]
  · exact wf_begins _ (fun e he => he) hd

@[simp] theorem wf_xKeySet {c : Chip} (hm : Memory.wf c.mem = true) : Memory.wf (xKeySet c).mem = true := by
  simp -implicitDefEqProofs [xKeySet, hm]

/-! ### Dumps and flash -/

@[simp] theorem wf_xDumpRead {c : Chip} (hm : Memory.wf c.mem = true) : Memory.wf (xDumpRead c).mem = true := by
  unfold xDumpRead
  refine wf_withCmd _ (fun d p hd => ?_) hm
  dsimp only
  split
  · rwa [refuse_mem]
  split
  · rwa [refuse_mem]
  split
  · rwa [refuse_mem]
  · rwa [post_mem]

@[simp] theorem flashBegin_mem (c : Chip) (op : FlashOp) : (flashBegin c op).mem = c.mem := by
  unfold flashBegin
  split <;> simp -implicitDefEqProofs

@[simp] theorem wf_xFlashErase {c : Chip} (hm : Memory.wf c.mem = true) : Memory.wf (xFlashErase c).mem = true := by
  unfold xFlashErase
  refine wf_withCmd _ (fun d p hd => wf_begins _ (fun e he => ?_) hd) hm
  rwa [flashBegin_mem]

@[simp] theorem wf_xFlashWrite {c : Chip} (hm : Memory.wf c.mem = true) : Memory.wf (xFlashWrite c).mem = true := by
  unfold xFlashWrite
  refine wf_withCmd _ (fun d p hd => wf_begins _ (fun e he => ?_) hd) hm
  rwa [flashBegin_mem]

/-! ### CHAN_OPEN -/

@[simp] theorem openSlot_mem (c : Chip) (s : Nat) (h : Chan) : (openSlot c s h).mem = c.mem := by
  unfold openSlot
  dsimp only
  (repeat' split) <;> simp -implicitDefEqProofs

@[simp] theorem wf_xChanOpen {c : Chip} (hm : Memory.wf c.mem = true) : Memory.wf (xChanOpen c).mem = true := by
  unfold xChanOpen
  refine wf_withCmd _ (fun d p hd => ?_) hm
  dsimp only
  split
  · rwa [refuse_mem]
  split
  · rwa [refuse_mem]
  split
  · rwa [refuse_mem]
  split
  · rwa [refuse_mem]
  · rwa [post_mem, openSlot_mem]

/-! ### CHAN_CLOSE and CHAN_STAT -/

@[simp] theorem wf_xChanClose {c : Chip} (hm : Memory.wf c.mem = true) : Memory.wf (xChanClose c).mem = true := by
  unfold xChanClose
  refine wf_withCmd _ (fun d p hd => ?_) hm
  dsimp only
  split
  · rwa [refuse_mem]
  · refine wf_begins _ (fun e he => ?_) hd
    rw [ite_mem, endClose_mem]
    exact wf_ite he he

@[simp] theorem wf_xChanStat {c : Chip} (hm : Memory.wf c.mem = true) : Memory.wf (xChanStat c).mem = true := by
  simp -implicitDefEqProofs [xChanStat, hm]

/-! ### Banks -/

@[simp] theorem wf_xTabOpen {c : Chip} (hm : Memory.wf c.mem = true) : Memory.wf (xTabOpen c).mem = true := by
  unfold xTabOpen
  refine wf_withCmd _ (fun d p hd => ?_) hm
  dsimp only
  split
  · rwa [refuse_mem]
  split
  · rwa [refuse_mem]
  split
  · refine wf_begins _ (fun e he => ?_) hd
    show Memory.wf (setBank e _ 1).mem = true
    rwa [setBank_mem]
  · rwa [okReply_mem, setBank_mem]

@[simp] theorem wf_xTabWrite {c : Chip} (hm : Memory.wf c.mem = true) : Memory.wf (xTabWrite c).mem = true := by
  unfold xTabWrite
  refine wf_withCmd _ (fun d p hd => ?_) hm
  dsimp only
  split
  · rwa [refuse_mem]
  split
  · rwa [refuse_mem]
  · rw [okReply_mem]
    exact wf_writeWords _ _ _ _ hd

@[simp] theorem wf_xTabVerify {c : Chip} (hm : Memory.wf c.mem = true) : Memory.wf (xTabVerify c).mem = true := by
  unfold xTabVerify
  refine wf_withCmd _ (fun d p hd => ?_) hm
  dsimp only
  split
  · rwa [refuse_mem]
  split
  · rwa [refuse_mem]
  · refine wf_begins _ (fun e he => ?_) hd
    show Memory.wf (setBank e _ 2).mem = true
    rwa [setBank_mem]

/-! ### Arming -/

@[simp] theorem armBegin_mem (c : Chip) (p : Packet) (b : Nat) : (armBegin c p b).mem = c.mem := by
  simp -implicitDefEqProofs [armBegin]

@[simp] theorem wf_xTabArm {c : Chip} (hm : Memory.wf c.mem = true) : Memory.wf (xTabArm c).mem = true := by
  unfold xTabArm
  refine wf_withCmd _ (fun d p hd => ?_) hm
  dsimp only
  split
  · rwa [refuse_mem]
  split
  · rw [refuse_mem]
    exact hd
  · refine wf_begins _ (fun e he => ?_) hd
    rwa [armBegin_mem]

@[simp] theorem wf_xTabCancel {c : Chip} (hm : Memory.wf c.mem = true) : Memory.wf (xTabCancel c).mem = true := by
  simp -implicitDefEqProofs [xTabCancel, hm]

@[simp] theorem wf_xTabStat {c : Chip} (hm : Memory.wf c.mem = true) : Memory.wf (xTabStat c).mem = true := by
  simp -implicitDefEqProofs [xTabStat, hm]

/-! ### The distributor -/

@[simp] theorem xSourceAssert_mem (c : Chip) (s : Nat) : (xSourceAssert c s).mem = c.mem := by
  simp [xSourceAssert]

@[simp] theorem xPresentation_mem (c : Chip) (s : Nat) : (xPresentation c s).mem = c.mem := by
  simp [xPresentation]

@[simp] theorem luthierTakes_mem (c : Chip) (s : Nat) : (luthierTakes c s).mem = c.mem := by
  simp [luthierTakes]

@[simp] theorem xLuthierEventSample_mem (c : Chip) : (xLuthierEventSample c).mem = c.mem := by
  simp [xLuthierEventSample]

/-! ### Registers of the distributor written and read -/

@[simp] theorem xEdsWrite_mem (c : Chip) (s : Nat) (w : Word) : (xEdsWrite c s w).mem = c.mem := by
  simp [xEdsWrite]

@[simp] theorem xEdgRaise_mem (c : Chip) (w : Word) : (xEdgRaise c w).mem = c.mem := by
  simp [xEdgRaise]

@[simp] theorem xEdgCtlWrite_mem (c : Chip) (w : Word) : (xEdgCtlWrite c w).mem = c.mem := by
  simp [xEdgCtlWrite]

@[simp] theorem wf_readOut {c : Chip} (a : Nat) {f : Chip → Chip × Word}
    (hf : ∀ d, Memory.wf d.mem = true → Memory.wf (f d).1.mem = true) (hm : Memory.wf c.mem = true) :
    Memory.wf (readOut c a f).mem = true := by
  unfold readOut
  split
  · dsimp only
    rw [emit_mem]
    exact hf _ hm
  · exact hm

@[simp] theorem wf_xHpopRead {c : Chip} (hm : Memory.wf c.mem = true) : Memory.wf (xHpopRead c).mem = true := by
  simp -implicitDefEqProofs [xHpopRead, hm]

@[simp] theorem xHcompleteWrite_mem (c : Chip) (w : Word) : (xHcompleteWrite c w).mem = c.mem := by
  simp -implicitDefEqProofs [xHcompleteWrite]

@[simp] theorem xGroupMaskWrite_mem (c : Chip) (k : Nat) (hi : Bool) (w : Word) : (xGroupMaskWrite c k hi w).mem = c.mem := by
  simp -implicitDefEqProofs [xGroupMaskWrite]

/-! ### Command queues -/

@[simp] theorem xCctlEnable_mem (c : Chip) (q : Nat) (w : Word) : (xCctlEnable c q w).mem = c.mem := by
  simp [xCctlEnable]

@[simp] theorem xCommandDoorbell_mem (c : Chip) (q : Nat) (w : Word) : (xCommandDoorbell c q w).mem = c.mem := by
  simp [xCommandDoorbell]

@[simp] theorem wf_xRpopRead {c : Chip} (q : Nat) (hm : Memory.wf c.mem = true) : Memory.wf (xRpopRead c q).mem = true := by
  simp -implicitDefEqProofs [xRpopRead, hm]

/-! ### Any register -/

@[simp] theorem xRegisterWrite_mem (c : Chip) (a : Nat) (w : HostWord) : (xRegisterWrite c a w).mem = c.mem := by
  simp [xRegisterWrite]

/-! ### Every command -/

/-- A command of the device keeps memory's one form where its effect does. -/
theorem onChip_memOk {s t : State} {f : Chip → Chip} (hf : ∀ c, Memory.wf c.mem = true → Memory.wf (f c).mem = true)
    (hs : memOk s = true) (h : onChip s f = .next t) : memOk t = true := by
  cases h
  exact hf s.chip hs

/-- A command of a unit keeps memory's one form where its effect does. -/
theorem onUnit_memOk {s t : State} {ok : Bool} {f : Chip → Chip} (hf : ∀ c, Memory.wf c.mem = true → Memory.wf (f c).mem = true)
    (hs : memOk s = true) (h : onUnit ok s f = .next t) : memOk t = true := by
  cases h
  split
  · exact hf s.chip hs
  · exact hs

theorem exec_memOk {i : Instr} {s t : State} (hs : memOk s = true) (h : exec i s = .next t) : memOk t = true := by
  cases i with
  | frameStart | timeNoteDue | noteFetch | noteIssue | speedWindow | stagingEnd | gatherRecord | gatherComplete | timeBaseStep
    | tbloRead | tcxoStart | clkPllenWrite | clockSwitch | switchComplete | autoSwitch | perstRelease | handshakeAnswer
    | deferralLimit | temperatureSample | vinSample | supplyLimit | supplyLimitEnd | watchPeriod | brownOut | owedErase
    | presLateLoss | inputLoss | overvoltage | bankCharged | holdUpExhausted | presenceDebounce | strapSample | firmwareCheck
    | bodyCopyDone | bootComplete | perPowered | drainComplete | drainLimit | perSwitchOff | removalRecordWritten
    | wakeFromWatch | wakeFromHibernate | pegStatus | pegIdent | pegAttach | pegDetach | pegWake | pegReset | dumpWritten
    | dumpFlashCopyDone | dumpSlotEraseDone | flashOpDone | retTestForce | commandTake | nopCommand | ident | devStat
    | configure | halt | resume | recover | detach | powerMode | island | domain | course | handover | tunerTest | memRead
    | memWrite | regRead | regWrite | droneSet | linkNode | keySet | dumpRead | flashErase | flashWrite | chanOpen | chanClose
    | chanStat | tabOpen | tabWrite | tabVerify | tabArm | tabCancel | tabStat | luthierEventSample | edgRaise | edgCtlWrite
    | hpopRead | hcompleteWrite =>
    unfold exec at h
    refine onChip_memOk (fun c hc => ?_) hs h
    simp [hc]
  | _ =>
    unfold exec at h
    refine onUnit_memOk (fun c hc => ?_) hs h
    simp [hc]

/-- Settles O59: the effect of each command, and the clock's period, keep the form of memory. -/
theorem memoryCanonical : Obligations.MemoryCanonical := by
  unfold Obligations.MemoryCanonical
  intro s t h hs
  unfold step at h
  split at h
  · next i rest _ => exact exec_memOk (s := { s with pending := rest }) hs h
  · cases h
    exact (congrArg Memory.wf (tick_mem s.chip)).trans hs

end Sys2Proof.Machine
end

section
/-! PROOFS. The front of the queue, the clock's period, words bit by bit, the state after reset. -/

namespace Sys2Proof.Machine

open Sys2Proof Sys2Proof.Safety

/-- What holds between a device and each step of a fold holds between the device and the fold's end. -/
theorem foldl_related {α : Type} {R : Chip → Chip → Prop} (hr : ∀ c, R c c) (ht : ∀ {c d e}, R c d → R d e → R c e)
    {f : Chip → α → Chip} (hf : ∀ c a, R c (f c a)) (l : List α) (c : Chip) : R c (l.foldl f c) := by
  induction l generalizing c with
  | nil => exact hr c
  | cons a l ih => exact ht (hf c a) (ih (f c a))

theorem keepsWork_refl (c : Chip) : KeepsWork c c := ⟨rfl, rfl, rfl⟩

theorem keepsWork_trans {c d e : Chip} (h : KeepsWork c d) (h' : KeepsWork d e) : KeepsWork c e :=
  ⟨h'.cores.trans h.cores, h'.courses.trans h.courses, h'.mem.trans h.mem⟩

/-- Counting the busy lanes of a microsecond touches their counters and the tablature only. -/
theorem busyMicros_keeps (c : Chip) : KeepsWork c (busyMicros c) ∧ (busyMicros c).tb = c.tb := by
  refine foldl_related (R := fun c d => KeepsWork c d ∧ d.tb = c.tb) (fun c => ⟨keepsWork_refl c, rfl⟩)
    (fun h h' => ⟨keepsWork_trans h.1 h'.1, h'.2.trans h.2⟩) (fun d l => ?_) _ c
  dsimp only
  split <;> split <;> exact ⟨⟨rfl, rfl, rfl⟩, rfl⟩

/-- What follows a period of the clock: the microsecond it may complete (R508). -/
theorem micros_keeps (c : Chip) (old : Nat) :
    KeepsWork c (if c.tb / 1000 = old / 1000 then c else busyMicros c) ∧
      (if c.tb / 1000 = old / 1000 then c else busyMicros c).tb = c.tb := by
  split
  · exact ⟨keepsWork_refl c, rfl⟩
  · exact busyMicros_keeps c

theorem tick_off {c : Chip} (hp : c.sys.per = false) : tick c = c := by
  simp only [tick, hp, Bool.not_false, if_true]

theorem tick_fio {c : Chip} (hp : c.sys.per = true) (ho : onPll c = false) : KeepsWork c (tick c) ∧ (tick c).tb = c.tb + 5 := by
  obtain ⟨hk, ht⟩ := micros_keeps { c with tb := c.tb + 5 } c.tb
  simp only [tick, hp, ho, Bool.not_true, Bool.false_eq_true, if_false]
  exact ⟨⟨hk.cores, hk.courses, hk.mem⟩, ht⟩

theorem tick_pll {c : Chip} (hp : c.sys.per = true) (ho : onPll c = true) :
    KeepsWork c (tick c) ∧ (regVal c 0x60003018 = 0 → c.frac = 0 → (tick c).tb = c.tb + 2) := by
  have hm := fun tb frac => micros_keeps { c with tb := tb, frac := frac } c.tb
  simp only [tick, hp, ho, Bool.not_true, Bool.false_eq_true, if_false, if_true]
  refine ⟨⟨(hm _ _).1.cores, (hm _ _).1.courses, (hm _ _).1.mem⟩, fun hr hf => (hm _ _).2.trans ?_⟩
  have h0 : sgn (regVal c (rHST 0x018)) = 0 := by
    rw [show rHST 0x018 = 0x60003018 from rfl, hr]
    rfl
  rw [h0, hf]
  show ((c.tb : Int) + 2 + ((0 : Int) + 2 * 0) / 2 ^ 40).toNat = c.tb + 2
  norm_num
  omega

/-- The clock's period touches the time base and the tablature only. -/
theorem tick_keeps (c : Chip) : KeepsWork c (tick c) := by
  cases hp : c.sys.per with
  | false => 
    rw [tick_off hp]
    exact keepsWork_refl c
  | true =>
    cases ho : onPll c with
    | false => exact (tick_fio hp ho).1
    | true => exact (tick_pll hp ho).1

/-- Settles O1: by the two cases of the queue. -/
theorem stepTakesFront : Obligations.StepTakesFront := by
  unfold Obligations.StepTakesFront
  constructor
  · intro s i rest h
    simp only [step, h]
  · intro s h
    refine ⟨{ s with chip := tick s.chip }, by simp only [step, h], h, tick_keeps s.chip, fun hp => ?_,
      fun hp ho => (tick_fio hp ho).2, fun hp ho => (tick_pll hp ho).2⟩
    rw [tick_off hp]

/-- Settles O3: the words are written out, so the decoder evaluates. -/
theorem decodedWords : Obligations.DecodedWords := by
  unfold Obligations.DecodedWords
  decide

/-! ### The state after reset -/

theorem regVal_reset (a : Nat) : regVal State.reset.chip a = regReset a := rfl

theorem regReset_islv {k : Nat} (hk : k < 8) : regReset (0x60001060 + 4 * k) = 0x41A := by
  obtain rfl | rfl | rfl | rfl | rfl | rfl | rfl | rfl : k = 0 ∨ k = 1 ∨ k = 2 ∨ k = 3 ∨ k = 4 ∨ k = 5 ∨ k = 6 ∨ k = 7 := by omega
  all_goals rfl

theorem regReset_eds {x : Nat} (h1 : 1 ≤ x) (h2 : x ≤ 1000) : regReset (edsAddr x) = 0x210 := by
  have hb : edsAddr x / 0x1000 = 0x60010 := by unfold edsAddr; omega
  have ho : edsAddr x % 0x1000 = 4 * x := by unfold edsAddr; omega
  have hr : 4 ≤ 4 * x ∧ 4 * x ≤ 0xFA0 := by omega
  simp only [regReset, hb, ho, if_pos hr]
  rfl

/-- Above the global blocks lie the field ports and the clusters (R710 to R720). -/
theorem regReset_high {a : Nat} (h : 0x60100000 ≤ a) :
    regReset a = BitVec.ofNat 32 (if a < 0x60102000 then (if a % 0x40 = 0x10 then 0xF00 else 0)
      else if 0x60200000 ≤ a ∧ a < 0x60202000 then clReset (a % 0x100) else 0) := by
  have hb : 0x60100 ≤ a / 0x1000 := by omega
  have hn : ∀ n, n < 0x60100 → ¬a / 0x1000 = n := by omega
  simp only [regReset, hn 0x60000, hn 0x60001, hn 0x60003, hn 0x60004, hn 0x60005, hn 0x60006, hn 0x60007, hn 0x60008, hn 0x60010,
    Nat.reduceLT, if_false, h, true_and]

theorem regReset_fp {p o : Nat} (hp : p < 128) (ho : o < 0x40) :
    regReset (fpReg p o) = BitVec.ofNat 32 (if o = 0x10 then 0xF00 else 0) := by
  have hr : fpReg p o < 0x60102000 := by unfold fpReg; omega
  have hm : fpReg p o % 0x40 = o := by unfold fpReg; omega
  rw [regReset_high (by unfold fpReg; omega), if_pos hr, hm]

theorem regReset_cl {k o : Nat} (hk : k < 32) (ho : o < 0x100) : regReset (clReg k o) = BitVec.ofNat 32 (clReset o) := by
  have hr : 0x60200000 ≤ clReg k o ∧ clReg k o < 0x60202000 := by unfold clReg; omega
  have hm : clReg k o % 0x100 = o := by unfold clReg; omega
  rw [regReset_high (by unfold clReg; omega), if_neg (by omega), if_pos hr, hm]

/-- The boot record's low byte at reset, below the minimum security version a fuse sets (R700). -/
theorem bits_bootReset : bits (regVal State.reset.chip 0x60000020) 7 0 = 0x7E := by
  have h : (regVal State.reset.chip 0x60000020).toNat = 0x7E + Config.svnMin % 64 * 256 := by
    show (BitVec.ofNat 32 (0x7E + Config.svnMin % 64 * 256)).toNat = _
    rw [BitVec.toNat_ofNat]
    omega
  unfold bits
  omega

/-- Settles O60: the tables of reset values at the addresses named; every table of the state is empty. -/
theorem resetState : Obligations.ResetState := by
  unfold Obligations.ResetState
  exact ⟨rfl, rfl, rfl, rfl, rfl, rfl, rfl, rfl, bits_bootReset, rfl, rfl, rfl, rfl, rfl, rfl, rfl, fun k hk => ⟨regReset_islv hk, rfl⟩,
    fun x h1 h2 => ⟨regReset_eds h1 h2, rfl⟩,
    fun p hp => ⟨regReset_fp hp (by decide), regReset_fp hp (by decide)⟩,
    fun k hk => ⟨regReset_cl hk (by decide), regReset_cl hk (by decide)⟩,
    fun k _ => ⟨rfl, rfl, rfl, rfl, rfl⟩, fun n _ => rfl⟩

end Sys2Proof.Machine
end

section
/-! PROOFS. Bytes of a word in memory, and the loads and stores of a pair (R83, R112, R142). -/

namespace Sys2Proof.Machine

open Sys2Proof Sys2Proof.Safety

/-! ### Bytes and words -/

theorem append_toNat {m n : Nat} (x : BitVec m) (y : BitVec n) : (x ++ y).toNat = x.toNat * 2 ^ n + y.toNat := by
  rw [BitVec.toNat_append, ← Nat.shiftLeft_add_eq_or_of_lt y.isLt, Nat.shiftLeft_eq]

/-- A word in memory, low byte first (R83). -/
theorem wordAt_toNat (c : Chip) (a : Nat) : (wordAt c a).toNat =
    (byteAt c a).toNat + 256 * (byteAt c (a + 1)).toNat + 65536 * (byteAt c (a + 2)).toNat +
      16777216 * (byteAt c (a + 3)).toNat := by
  have h0 := (byteAt c a).isLt
  have h1 := (byteAt c (a + 1)).isLt
  have h2 := (byteAt c (a + 2)).isLt
  have h3 := (byteAt c (a + 3)).isLt
  simp only [wordAt, leNat, wd, BitVec.toNat_ofNat, Nat.add_assoc, Nat.reduceAdd]
  omega

theorem wordAt_bytes (c : Chip) (a : Nat) : wordAt c a = byteAt c (a + 3) ++ byteAt c (a + 2) ++ byteAt c (a + 1) ++ byteAt c a := by
  apply BitVec.eq_of_toNat_eq
  rw [wordAt_toNat, append_toNat, append_toNat, append_toNat]
  omega

theorem loadFrom_word (w : Word) : loadFrom w 0 4 false = w := by
  apply BitVec.eq_of_toNat_eq
  have := w.isLt
  simp only [loadFrom, bits, wd, Bool.false_eq_true, if_false, BitVec.toNat_ofNat]
  omega

theorem loadFrom_byte (c : Chip) (a : Nat) {off : Nat} (h : off < 4) :
    loadFrom (wordAt c a) off 1 false = (byteAt c (a + off)).setWidth 32 := by
  have h0 := (byteAt c a).isLt
  have h1 := (byteAt c (a + 1)).isLt
  have h2 := (byteAt c (a + 2)).isLt
  have h3 := (byteAt c (a + 3)).isLt
  apply BitVec.eq_of_toNat_eq
  simp only [loadFrom, bits, wd, Bool.false_eq_true, if_false, BitVec.toNat_ofNat, wordAt_toNat, BitVec.toNat_setWidth]
  obtain rfl | rfl | rfl | rfl : off = 0 ∨ off = 1 ∨ off = 2 ∨ off = 3 := by omega
  all_goals simp only [Nat.reduceMul, Nat.reduceAdd, Nat.reduceSub, Nat.reducePow, Nat.add_zero]
  all_goals omega

theorem loadFrom_half (c : Chip) (a : Nat) {off : Nat} (h : off = 0 ∨ off = 2) :
    loadFrom (wordAt c a) off 2 false = (byteAt c (a + off + 1) ++ byteAt c (a + off)).setWidth 32 := by
  have h0 := (byteAt c a).isLt
  have h1 := (byteAt c (a + 1)).isLt
  have h2 := (byteAt c (a + 2)).isLt
  have h3 := (byteAt c (a + 3)).isLt
  apply BitVec.eq_of_toNat_eq
  simp only [loadFrom, bits, wd, Bool.false_eq_true, if_false, BitVec.toNat_ofNat, wordAt_toNat, BitVec.toNat_setWidth, append_toNat]
  obtain rfl | rfl := h
  all_goals simp only [Nat.reduceMul, Nat.reduceAdd, Nat.reduceSub, Nat.reducePow, Nat.add_zero, Nat.add_assoc]
  all_goals omega

theorem sext_setWidth {n : Nat} (hn : 0 < n) (hn' : n ≤ 32) (x : BitVec n) : sext n (x.setWidth 32) = x.signExtend 32 := by
  have hx : (x.setWidth 32).extractLsb' 0 n = x := by
    apply BitVec.eq_of_toNat_eq
    have h1 : 2 ^ n ≤ 2 ^ 32 := Nat.pow_le_pow_right (by decide) hn'
    have h2 := x.isLt
    rw [BitVec.extractLsb'_toNat, Nat.shiftRight_zero, BitVec.toNat_setWidth, Nat.mod_eq_of_lt (by omega : x.toNat < 2 ^ 32),
      Nat.mod_eq_of_lt h2]
  rw [sext_eq hn hn', hx]

/-! ### A half that loads or stores -/

/-- What a load of one of the five operations gives of the string's own SRAM. -/
def loadVal (c : Chip) (ga o : Nat) : Word :=
  let w := loadFrom (wordAt c (ga / 4 * 4)) (ga % 4) (shortSize o) false
  if shortSigned o then sext (8 * shortSize o) w else w

theorem forward_none {k : Nat} (a size : Nat) : forward k [] a size = .mem := by
  unfold forward
  simp

theorem loadLocal_sram {c : Chip} {k : Nat} {st : List Store} {a size : Nat} (hf : forward k st a size = .mem)
    (ha : ownAtomic c k = false) (hp : (0x20000000 + courseNo k * 0x10000 + a) / 4 * 4 ∉ c.poison) :
    ∃ d, JustFetched c d k ∧ loadLocal c k st a size =
      .got d (loadFrom (wordAt c ((0x20000000 + courseNo k * 0x10000 + a) / 4 * 4)) (a % 4) size false) := by
  obtain ⟨r, b, hr⟩ := readWord_only c (Tgt.sram (courseNo k) a).ga 1 k
  refine ⟨{ c with regs := r, sbe := b }, justFetched_of_regs c k r b, ?_⟩
  unfold loadLocal
  rw [hf, hr]
  simp only [ha, Tgt.ga, hp, decide_false, Bool.false_eq_true, if_false]

theorem runHalf_load {c : Chip} {k o : Nat} {st : List Store} {ops : List Word} (hl : isShortLoad o = true)
    (hf : forward k st (ops.getD 0 0).toNat (shortSize o) = .mem) (ha : ownAtomic c k = false)
    (hp : (0x20000000 + courseNo k * 0x10000 + (ops.getD 0 0).toNat) / 4 * 4 ∉ c.poison) :
    ∃ d, JustFetched c d k ∧ runHalf c k st o ops =
      .done d ⟨[loadVal c (0x20000000 + courseNo k * 0x10000 + (ops.getD 0 0).toNat) o], none, false, none⟩ := by
  obtain ⟨d, hF, hd⟩ := loadLocal_sram hf ha hp
  have hm : (0x20000000 + courseNo k * 0x10000 + (ops.getD 0 0).toNat) % 4 = (ops.getD 0 0).toNat % 4 := by omega
  refine ⟨d, hF, ?_⟩
  unfold runHalf loadVal
  simp only [hl, if_true, hd, hm]

theorem runHalf_hold {c : Chip} {k o : Nat} {st : List Store} {ops : List Word} (hl : isShortLoad o = true)
    (hf : forward k st (ops.getD 0 0).toNat (shortSize o) = .wait) (hb : buffers c k) : runHalf c k st o ops = .hold c := by
  obtain ⟨hu, -, -⟩ := hb
  unfold runHalf loadLocal holdLoad
  simp only [hl, if_true, hf, hu, Bool.false_and, Bool.false_eq_true, if_false]

theorem runHalf_store {c : Chip} {k o : Nat} {st : List Store} {ops : List Word} (hs : isShortStore o = true) :
    runHalf c k st o ops =
      .done c ⟨[], none, false, some ⟨(ops.getD 0 0).toNat, shortSize o, ops.getD 1 0, wordPc c k⟩⟩ := by
  have hl : isShortLoad o = false := by
    simp only [isShortStore, isShortLoad, Bool.and_eq_true, decide_eq_true_eq, Bool.and_eq_false_iff, decide_eq_false_iff_not] at hs ⊢
    omega
  unfold runHalf
  simp only [hl, hs, Bool.false_eq_true, if_false, if_true]

theorem runHalf_nop (c : Chip) (k : Nat) (st : List Store) : runHalf c k st 0 [] = .done c ⟨[], none, false, none⟩ := rfl

theorem runSecond_nop (c : Chip) (k : Nat) (st : List Store) (sa : Option Store) :
    runSecond c k st sa 0 [] = (.done c ⟨[], none, false, none⟩, false) := by
  have h0 : isShortLoad 0 = false := rfl
  cases sa with
  | none => rfl
  | some s =>
    unfold runSecond
    simp only [h0, Bool.false_eq_true, false_and, if_false, runHalf_nop]

/-- A pair of one operation with a NOP (R132). -/
def Beside (o x y : BitVec 7) : Prop := (x = o ∧ y = 0) ∨ (x = 0 ∧ y = o)

theorem shortEffect_load {o : Nat} (h : isShortLoad o = true) : shortEffect o = (1, 1) := by
  simp only [isShortLoad, Bool.and_eq_true, decide_eq_true_eq] at h
  obtain rfl | rfl | rfl | rfl | rfl : o = 0x40 ∨ o = 0x41 ∨ o = 0x42 ∨ o = 0x43 ∨ o = 0x44 := by omega
  all_goals rfl

theorem shortEffect_store {o : Nat} (h : isShortStore o = true) : shortEffect o = (2, 0) := by
  simp only [isShortStore, Bool.and_eq_true, decide_eq_true_eq] at h
  obtain rfl | rfl | rfl : o = 0x45 ∨ o = 0x46 ∨ o = 0x47 := by omega
  all_goals rfl

theorem shortTrap_nop (ops : List Word) : shortTrap 0 ops = none := rfl

section Beside

variable {o x y : BitVec 7} (hxy : Beside o x y)

include hxy

theorem opEffect_beside : opEffect (.pair x y) = shortEffect o.toNat := by
  obtain ⟨rfl, rfl⟩ | ⟨rfl, rfl⟩ := hxy
  · rfl
  · simp [opEffect, shortEffect]

/-- The traps of a load or store beside a NOP name its half (R142). -/
theorem pairTrap_beside (hm : (isShortLoad o.toNat || isShortStore o.toNat) = true) {ops : List Word}
    (hn : ops.length = (shortEffect o.toNat).1) :
    pairTrap x.toNat y.toNat ops = (shortTrap o.toNat ops).map (fun t => (t.1, decide (x = 0), t.2)) := by
  have ho : o ≠ 0 := by
    rintro rfl
    exact absurd hm (by decide)
  obtain ⟨rfl, rfl⟩ | ⟨rfl, rfl⟩ := hxy
  · rw [decide_eq_false ho]
    simp only [pairTrap, ← hn, List.take_length]
    cases shortTrap x.toNat ops <;> rfl
  · have h0 : shortEffect (0 : BitVec 7).toNat = (0, 0) := rfl
    simp only [pairTrap, h0, List.take_zero, List.drop_zero, decide_true]
    rw [show (0 : BitVec 7).toNat = 0 from rfl, shortTrap_nop]
    cases shortTrap y.toNat ops <;> rfl

/-- A load beside a NOP that reads the string's SRAM ends with the value read. -/
theorem xPair_load (hl : isShortLoad o.toNat = true) {c d : Chip} {k : Nat} {rep : Bool} {g : Fills} {ops : List Word}
    (h : begin_ c k rep (.pair x y) 0 (pairTrap x.toNat y.toNat) = .go d g ops)
    (hn : ops.length = (shortEffect o.toNat).1) (hf : forward k (pendStores d k) (ops.getD 0 0).toNat (shortSize o.toNat) = .mem)
    (ha : ownAtomic d k = false) (hp : (0x20000000 + courseNo k * 0x10000 + (ops.getD 0 0).toNat) / 4 * 4 ∉ d.poison) :
    ∃ e, JustFetched d e k ∧ xPair c k rep x y = finish (putFlags e k none false) k g 1
      [loadVal d (0x20000000 + courseNo k * 0x10000 + (ops.getD 0 0).toNat) o.toNat] [] ((coreOf d k).pc + 2) := by
  obtain ⟨e, hF, he⟩ := runHalf_load hl hf ha hp
  have hpc : nextPc (putFlags e k none false) k = (coreOf d k).pc + 2 := by
    unfold nextPc putFlags
    rw [coreOf_csrPut_same]
    exact congrArg (· + 2) (fetched_pc hF)
  have hs : isShortStore o.toNat = false := by
    simp only [isShortStore, isShortLoad, Bool.and_eq_true, decide_eq_true_eq, Bool.and_eq_false_iff, decide_eq_false_iff_not] at hl ⊢
    omega
  have hop : (opEffect (.pair x y)).1 = 1 := by rw [opEffect_beside hxy, shortEffect_load hl]
  refine ⟨e, hF, ?_⟩
  unfold xPair
  obtain ⟨rfl, rfl⟩ | ⟨rfl, rfl⟩ := hxy
  · have h0 : isShortStore (0 : BitVec 7).toNat = false := rfl
    simp only [hs, h0, b1, Bool.false_eq_true, if_false, Nat.add_zero, h, ← hn, List.take_length, he,
      List.drop_length]
    rw [show (0 : BitVec 7).toNat = 0 from rfl, runSecond_nop]
    simp only [hop, hpc, Option.toList, List.append_nil, Bool.or_self, Bool.false_eq_true, if_false]
  · have h0 : isShortStore (0 : BitVec 7).toNat = false := rfl
    have h1 : shortEffect (0 : BitVec 7).toNat = (0, 0) := rfl
    simp only [hs, h0, b1, Bool.false_eq_true, if_false, Nat.add_zero, h, h1, List.take_zero, List.drop_zero]
    rw [show (0 : BitVec 7).toNat = 0 from rfl, runHalf_nop]
    simp only [runSecond, he, hop, hpc, Option.toList, List.append_nil, List.nil_append, Bool.or_self, Bool.false_eq_true, if_false]

/-- A load beside a NOP that meets a store in another way does not take place yet. -/
theorem xPair_hold (hl : isShortLoad o.toNat = true) {c d : Chip} {k : Nat} {rep : Bool} {g : Fills} {ops : List Word}
    (h : begin_ c k rep (.pair x y) 0 (pairTrap x.toNat y.toNat) = .go d g ops)
    (hn : ops.length = (shortEffect o.toNat).1) (hf : forward k (pendStores d k) (ops.getD 0 0).toNat (shortSize o.toNat) = .wait)
    (hb : buffers d k) : xPair c k rep x y = d := by
  have he := runHalf_hold hl hf hb
  have hs : isShortStore o.toNat = false := by
    simp only [isShortStore, isShortLoad, Bool.and_eq_true, decide_eq_true_eq, Bool.and_eq_false_iff, decide_eq_false_iff_not] at hl ⊢
    omega
  have h0 : isShortStore (0 : BitVec 7).toNat = false := rfl
  unfold xPair
  obtain ⟨rfl, rfl⟩ | ⟨rfl, rfl⟩ := hxy
  · simp only [hs, h0, b1, Bool.false_eq_true, if_false, Nat.add_zero, h, ← hn, List.take_length, he]
  · have h1 : shortEffect (0 : BitVec 7).toNat = (0, 0) := rfl
    simp only [hs, h0, b1, Bool.false_eq_true, if_false, Nat.add_zero, h, h1, List.take_zero, List.drop_zero]
    rw [show (0 : BitVec 7).toNat = 0 from rfl, runHalf_nop]
    simp only [runSecond, he]

/-- A store beside a NOP ends with its store among the string's. -/
theorem xPair_store (hs : isShortStore o.toNat = true) {c d : Chip} {k : Nat} {rep : Bool} {g : Fills} {ops : List Word}
    (h : begin_ c k rep (.pair x y) 1 (pairTrap x.toNat y.toNat) = .go d g ops)
    (hn : ops.length = (shortEffect o.toNat).1) :
    xPair c k rep x y = finish (putFlags d k none false) k g 2 []
      [⟨(ops.getD 0 0).toNat, shortSize o.toNat, ops.getD 1 0, wordPc d k⟩] ((coreOf d k).pc + 2) := by
  have he := fun st => runHalf_store (c := d) (k := k) (st := st) (ops := ops) hs
  have hpc : nextPc (putFlags d k none false) k = (coreOf d k).pc + 2 := by
    unfold nextPc putFlags
    rw [coreOf_csrPut_same]
  have hop : (opEffect (.pair x y)).1 = 2 := by rw [opEffect_beside hxy, shortEffect_store hs]
  have h0 : isShortStore (0 : BitVec 7).toNat = false := rfl
  unfold xPair
  obtain ⟨rfl, rfl⟩ | ⟨rfl, rfl⟩ := hxy
  · simp only [hs, h0, b1, Bool.false_eq_true, if_false, if_true, Nat.add_zero, h, ← hn, List.take_length, he, List.drop_length]
    rw [show (0 : BitVec 7).toNat = 0 from rfl, runSecond_nop]
    simp only [hop, hpc, Option.toList, List.append_nil, Bool.or_self, Bool.false_eq_true, if_false]
  · have h1 : shortEffect (0 : BitVec 7).toNat = (0, 0) := rfl
    simp only [hs, h0, b1, Bool.false_eq_true, if_false, if_true, Nat.zero_add, h, h1, List.take_zero, List.drop_zero]
    rw [show (0 : BitVec 7).toNat = 0 from rfl, runHalf_nop]
    simp only [runSecond, he, hop, hpc, Option.toList, List.append_nil, List.nil_append, Bool.or_self, Bool.false_eq_true, if_false]

end Beside


/-! ### The statement -/

theorem fetched_ownAtomic {c d : Chip} {k : Nat} (h : JustFetched c d k) : ownAtomic d k = ownAtomic c k := by
  obtain ⟨l, hl⟩ := h.core
  unfold ownAtomic
  rw [hl]

theorem fetched_poison {c d : Chip} {k : Nat} (h : JustFetched c d k) : d.poison = c.poison := by
  obtain ⟨_, _, _, hr⟩ := h.rest
  rw [hr]

theorem fetched_mem {c d : Chip} {k : Nat} (h : JustFetched c d k) : d.mem = c.mem := by
  obtain ⟨_, _, _, hr⟩ := h.rest
  rw [hr]

theorem fetched_pendStores {c d : Chip} {k : Nat} (h : JustFetched c d k) : pendStores d k = pendStores c k := by
  obtain ⟨l, hl⟩ := h.core
  obtain ⟨cs, r, b, hr⟩ := h.rest
  have hcourse : courseOf d (courseNo k) = courseOf c (courseNo k) := by rw [hr]; rfl
  unfold pendStores
  dsimp only
  rw [fetched_inUnison h, hcourse, hl]

theorem fetched_wordAt {c d : Chip} {k : Nat} (h : JustFetched c d k) (a : Nat) : wordAt d a = wordAt c a := by
  obtain ⟨cs, r, b, hr⟩ := h.rest
  rw [hr]
  rfl

theorem fetched_wordPc {c d : Chip} {k : Nat} (h : JustFetched c d k) : wordPc d k = wordPc c k := by
  obtain ⟨l, hl⟩ := h.core
  unfold wordPc
  rw [hl]

theorem pendStores_split {c : Chip} {k : Nat} (hb : buffers c k) : pendStores c k = (coreOf c k).sbuf := by
  obtain ⟨hu, -, -⟩ := hb
  unfold pendStores
  simp only [hu, Bool.not_false, if_true]

/-- What the five loads give, byte by byte (R83, R142). -/
theorem loadVal_eq (c : Chip) (ga : Nat) :
    (ga % 4 = 0 → loadVal c ga 0x40 = byteAt c (ga + 3) ++ byteAt c (ga + 2) ++ byteAt c (ga + 1) ++ byteAt c ga) ∧
    (ga % 2 = 0 → loadVal c ga 0x41 = (byteAt c (ga + 1) ++ byteAt c ga).signExtend 32) ∧
    (ga % 2 = 0 → loadVal c ga 0x42 = (byteAt c (ga + 1) ++ byteAt c ga).setWidth 32) ∧
    loadVal c ga 0x43 = (byteAt c ga).signExtend 32 ∧ loadVal c ga 0x44 = (byteAt c ga).setWidth 32 := by
  have hga : ga / 4 * 4 + ga % 4 = ga := by omega
  have hbyte : loadFrom (wordAt c (ga / 4 * 4)) (ga % 4) 1 false = (byteAt c ga).setWidth 32 := by
    rw [loadFrom_byte c _ (Nat.mod_lt _ (by decide)), hga]
  have hhalf (h : ga % 2 = 0) :
      loadFrom (wordAt c (ga / 4 * 4)) (ga % 4) 2 false = (byteAt c (ga + 1) ++ byteAt c ga).setWidth 32 := by
    rw [loadFrom_half c _ (by omega), hga]
  have hword (h : ga % 4 = 0) : loadFrom (wordAt c (ga / 4 * 4)) (ga % 4) 4 false = wordAt c ga := by
    rw [h, loadFrom_word, show ga / 4 * 4 = ga by omega]
  have h40 : shortSize 0x40 = 4 ∧ shortSigned 0x40 = false := ⟨rfl, rfl⟩
  have h41 : shortSize 0x41 = 2 ∧ shortSigned 0x41 = true := ⟨rfl, rfl⟩
  have h42 : shortSize 0x42 = 2 ∧ shortSigned 0x42 = false := ⟨rfl, rfl⟩
  have h43 : shortSize 0x43 = 1 ∧ shortSigned 0x43 = true := ⟨rfl, rfl⟩
  have h44 : shortSize 0x44 = 1 ∧ shortSigned 0x44 = false := ⟨rfl, rfl⟩
  refine ⟨fun h => ?_, fun h => ?_, fun h => ?_, ?_, ?_⟩
  · simp only [loadVal, h40, hword h, Bool.false_eq_true, if_false]
    exact wordAt_bytes c ga
  · simp only [loadVal, h41, hhalf h, if_true]
    exact sext_setWidth (by decide) (by decide) _
  · simp only [loadVal, h42, hhalf h, Bool.false_eq_true, if_false]
  · simp only [loadVal, h43, hbyte, if_true]
    exact sext_setWidth (by decide) (by decide) _
  · simp only [loadVal, h44, hbyte, Bool.false_eq_true, if_false]

theorem shortTrap_within {o : Nat} {ops : List Word} (ha : (ops.getD 0 0).toNat % shortSize o = 0)
    (hr : (ops.getD 0 0).toNat + shortSize o ≤ 0x8000) : shortTrap o ops = none := by
  unfold shortTrap
  have h8 : ¬0x8000 < (ops.getD 0 0).toNat + shortSize o := by omega
  split
  · simp only [ha, h8, ne_eq, not_true_eq_false, if_false]
  · rfl

/-- A load beside a NOP, where no store of the string waits (R112, R142). -/
theorem leaves_load {s : State} {k : Nat} {rep : Bool} {o x y : BitVec 7} {d : Chip} {g : Fills} {ops : List Word} (hk : isCore k = true)
    (hown : ownAtomic s.chip k = false) (hxy : Beside o x y) (hl : isShortLoad o.toNat = true)
    (h : starts s.chip k rep (.pair x y) 0 d g ops) (ha : (ops.getD 0 0).toNat % shortSize o.toNat = 0)
    (hr : (ops.getD 0 0).toNat + shortSize o.toNat ≤ 0x8000) (hst : pendStores s.chip k = [])
    (hp : (0x20000000 + courseNo k * 0x10000 + (ops.getD 0 0).toNat) / 4 * 4 ∉ s.chip.poison)
    (hs : ownSpills s.chip k g 1 [loadVal s.chip (0x20000000 + courseNo k * 0x10000 + (ops.getD 0 0).toNat) o.toNat]) :
    leaves (.pair k rep x y) s (fun t => WordDone s.chip t k g 1
      [loadVal s.chip (0x20000000 + courseNo k * 0x10000 + (ops.getD 0 0).toNat) o.toNat] [] ((coreOf s.chip k).pc + 2)) := by
  have hF := starts_fetched h
  have hn : ops.length = (shortEffect o.toNat).1 := by rw [starts_ops_length h, opEffect_beside hxy]
  have hbegin := begin_check h (check := pairTrap x.toNat y.toNat) (by
    rw [pairTrap_beside hxy (by rw [hl]; rfl) hn, shortTrap_within ha hr]
    rfl)
  obtain ⟨e, hFe, he⟩ := xPair_load hxy hl hbegin hn (by rw [fetched_pendStores hF, hst]; exact forward_none _ _)
    ((fetched_ownAtomic hF).trans hown) (by rwa [fetched_poison hF])
  refine leaves_of_onCore hk (exec_pair k rep x y s) ?_
  have hv : loadVal d = loadVal s.chip := by
    funext ga o
    unfold loadVal
    rw [fetched_wordAt hF]
  rw [he, hv, fetched_pc hF]
  exact wordDone_finish (justFetched_trans hF hFe) (oneCore_putFlags e k none false) ⟨_, _, _, _, _, _, coreOf_csrPut_same e k 0x01 _⟩
    (fun i _ h1 => csrVal_putFlags_other e k none false h1) (hs.imp_right fun h => ⟨rfl, h⟩)

/-- The operands' check comes before the room for stores is asked for (R84). -/
theorem begin_trap_room {c d : Chip} {k n : Nat} {rep : Bool} {op : CoreOp} {check : List Word → Option (Nat × Bool × Nat)}
    {g : Fills} {ops : List Word} {cause addr : Nat} {hb : Bool} (h : starts c k rep op n d g ops)
    (hc : check ops = some (cause, hb, addr)) (m : Nat) :
    begin_ c k rep op m check = .stop (trapEntry d k (preciseRec d k cause hb addr)) := by
  rw [← begin_trap h hc]
  unfold starts begin_ at h
  unfold begin_
  dsimp only at h ⊢
  split
  · rfl
  next h0 =>
  rw [if_neg h0] at h
  split
  · rfl
  next e p he =>
  simp only [he] at h
  split
  · rfl
  next hp =>
  rw [if_neg hp] at h
  split
  · rfl
  next hst =>
  simp only [hst] at h
  split
  · rfl
  next hrs =>
  simp only [hrs] at h
  split
  · rfl
  · rfl
  next f w vals hf =>
  simp only [hf] at h
  split
  · rfl
  next hcheck =>
  split at h
  · cases h
  split at h
  · cases h
  · cases h
    rw [hc] at hcheck
    cases hcheck

/-- Settles O11: a load reads the string's SRAM or waits for its store, a store joins the string's, a check of the address
comes before either. -/
theorem localMemoryWords : Obligations.LocalMemoryWords := by
  unfold Obligations.LocalMemoryWords
  intro s k rep o x y d g ops hk hown hxy a ga byte loads
  have hload (op size : Nat) (w : Word) (hop : isShortLoad op = true) (hsize : shortSize op = size)
      (hw : a % size = 0 → loadVal s.chip ga op = w) : loads op size w := by
    rintro rfl h ha hr hst hp hs
    have hv := hw ha
    subst hsize
    rw [← hv] at hs ⊢
    exact leaves_load hk hown hxy hop h ha hr hst hp hs
  have hlen {n : Nat} (h : starts s.chip k rep (.pair x y) n d g ops) : ops.length = (shortEffect o.toNat).1 := by
    rw [starts_ops_length h, opEffect_beside hxy]
  obtain ⟨hv0, hv1, hv2, hv3, hv4⟩ := loadVal_eq s.chip ga
  have hga : ga = 0x20000000 + courseNo k * 0x10000 + a := rfl
  refine ⟨hload _ _ _ rfl rfl fun h => hv0 (by omega), hload _ _ _ rfl rfl fun h => hv1 (by omega),
    hload _ _ _ rfl rfl fun h => hv2 (by omega), hload _ _ _ rfl rfl fun _ => hv3, hload _ _ _ rfl rfl fun _ => hv4, ?_, ?_, ?_⟩
  · intro hl hb h ha hr hf
    have hF := starts_fetched h
    have hbegin := begin_check h (check := pairTrap x.toNat y.toNat) (by
      rw [pairTrap_beside hxy (by rw [hl]; rfl) (hlen h), shortTrap_within ha hr]
      rfl)
    refine leaves_of_onCore hk (exec_pair k rep x y s) ?_
    exact xPair_hold hxy hl hbegin (hlen h) (by rw [fetched_pendStores hF, pendStores_split hb]; exact hf) (fetched_buffers hF hb)
  · intro hst hb h ha hr
    have hF := starts_fetched h
    have hbegin := begin_check h (check := pairTrap x.toNat y.toNat) (by
      rw [pairTrap_beside hxy (by rw [hst, Bool.or_true]) (hlen h), shortTrap_within ha hr]
      rfl)
    refine leaves_of_onCore hk (exec_pair k rep x y s) ?_
    rw [xPair_store hxy hst hbegin (hlen h), fetched_pc hF, fetched_wordPc hF]
    exact wordDone_finish hF (oneCore_putFlags d k none false) ⟨_, _, _, _, _, _, coreOf_csrPut_same d k 0x01 _⟩
      (fun i _ h1 => csrVal_putFlags_other d k none false h1) (.inl hb)
  · intro n hm h
    have hpair := pairTrap_beside hxy hm (hlen h)
    have hstop (cause : Nat) (ht : shortTrap o.toNat ops = some (cause, a)) :
        leaves (.pair k rep x y) s (fun t => t = trapEntry d k (preciseRec d k cause (decide (x = 0)) a)) := by
      rw [ht] at hpair
      refine leaves_of_onCore hk (exec_pair k rep x y s) ?_
      unfold xPair
      simp only [begin_trap_room h hpair]
    refine ⟨fun ha => hstop _ ?_, fun ha hr => hstop _ ?_⟩
    · unfold shortTrap
      rw [if_pos hm]
      exact if_pos ha
    · unfold shortTrap
      rw [if_pos hm]
      exact (if_neg (not_not.mpr ha)).trans (if_pos hr)

end Sys2Proof.Machine
end

section
/-! PROOFS. The multiply and divide unit, and the landing slots (R102 to R104, R163 to R167). -/

namespace Sys2Proof.Machine

open Sys2Proof Sys2Proof.Safety

/-! ### Products and quotients -/

theorem low_high_word (p : BitVec 64) :
    (BitVec.ofNat 32 p.toNat, BitVec.ofNat 32 (p.toNat / 2 ^ 32)) = (p.extractLsb' 0 32, p.extractLsb' 32 32) := by
  rw [BitVec.extractLsb', BitVec.extractLsb', Nat.shiftRight_zero, Nat.shiftRight_eq_div_pow]

/-- The exact product, its low and its high word (R163). -/
theorem mulWords_eq (a b : Word) (uns : Bool) :
    mulWords a b uns =
      ((if uns then a.setWidth 64 * b.setWidth 64 else a.signExtend 64 * b.signExtend 64 : BitVec 64).extractLsb' 0 32,
       (if uns then a.setWidth 64 * b.setWidth 64 else a.signExtend 64 * b.signExtend 64 : BitVec 64).extractLsb' 32 32) := by
  cases uns with
  | false =>
    have hp : BitVec.ofInt 64 (a.toInt * b.toInt) = a.signExtend 64 * b.signExtend 64 := by
      rw [BitVec.ofInt_mul]; rfl
    simp only [mulWords, Bool.false_eq_true, if_false, hp, low_high_word]
  | true =>
    have hlt : a.toNat * b.toNat < 2 ^ 64 := by
      have := Nat.mul_lt_mul'' a.isLt b.isLt
      simpa using this
    have ha : a.toNat % 2 ^ 64 = a.toNat := Nat.mod_eq_of_lt (by have := a.isLt; omega)
    have hb : b.toNat % 2 ^ 64 = b.toNat := Nat.mod_eq_of_lt (by have := b.isLt; omega)
    have hp : (a.setWidth 64 * b.setWidth 64).toNat = a.toNat * b.toNat := by
      rw [BitVec.toNat_mul, BitVec.toNat_setWidth, BitVec.toNat_setWidth, ha, hb, Nat.mod_eq_of_lt hlt]
    simp only [mulWords, if_true, ← low_high_word, hp]

theorem divWords_zero (a : Word) (uns : Bool) : divWords a 0 uns = (0, a, false, true) := rfl

theorem divWords_unsigned (a : Word) {b : Word} (hb : b ≠ 0) : divWords a b true = (a.udiv b, a.umod b, false, false) := by
  rw [divWords, if_neg hb, if_pos rfl]
  have hq : BitVec.ofNat 32 (a.toNat / b.toNat) = a.udiv b := BitVec.udiv_def.symm
  have hr : BitVec.ofNat 32 (a.toNat % b.toNat) = a.umod b := BitVec.umod_def.symm
  rw [hq, hr]

theorem divWords_overflow : divWords 0x80000000 0xFFFFFFFF false = (0x80000000, 0, true, false) := by decide

theorem divWords_signed {a b : Word} (hb : b ≠ 0) (h : ¬ (a = 0x80000000#32 ∧ b = 0xFFFFFFFF#32)) :
    divWords a b false = (a.sdiv b, a.srem b, false, false) := by
  rw [divWords, if_neg hb, if_neg (by decide), if_neg h]
  have hq : BitVec.ofInt 32 (a.toInt.tdiv b.toInt) = a.sdiv b :=
    BitVec.eq_of_toInt_eq (by rw [BitVec.toInt_ofInt, BitVec.toInt_sdiv])
  have hr : BitVec.ofInt 32 (a.toInt.tmod b.toInt) = a.srem b := by
    rw [← BitVec.toInt_srem, BitVec.ofInt_toInt]
  rw [hq, hr]

/-! ### Words that change the landing state of their string -/

theorem fetched_slotBusy {c d : Chip} {k : Nat} (h : JustFetched c d k) (i : Nat) : slotBusy d k i = slotBusy c k i := by
  obtain ⟨l, hl⟩ := h.core
  unfold slotBusy
  rw [hl]

theorem fetched_slotsBusy {c d : Chip} {k : Nat} (h : JustFetched c d k) (i : Nat) (wide : Bool) :
    slotsBusy d k i wide = slotsBusy c k i wide := by
  unfold slotsBusy
  rw [fetched_slotBusy h, fetched_slotBusy h]

theorem fetched_slotVal {c d : Chip} {k : Nat} (h : JustFetched c d k) (i : Nat) : slotVal d k i = slotVal c k i := by
  obtain ⟨l, hl⟩ := h.core
  unfold slotVal
  rw [hl]

/-- The end of a word that stores nothing leaves what the word has made of slots, return stack and flags. -/
theorem finish_keeps_own {c d e : Chip} {k : Nat} {g : Fills} {n : Nat} {res : List Word} (pc : Nat)
    (hF : JustFetched c d k) (hO : OneCore d e k) (hs : ownSpills c k g n res) :
    KeepsSlots e (finish e k g n res [] pc) k ∧ KeepsRs e (finish e k g n res [] pc) k ∧
      ∀ i, i ≠ 0x0A → i ≠ 0x28 → csrVal (finish e k g n res [] pc) k i = csrVal e k i :=
  finish_keeps pc (hs.imp (fun h => buffers_oneCore hO (fetched_buffers hF h)) fun h => ⟨rfl, h⟩)

/-- A word that changes slots or results in flight alone, as an update of its core. -/
theorem wordDone_slots {c d : Chip} {k : Nat} {g : Fills} {n : Nat} {res : List Word} {f : Core → Core} (pc : Nat)
    (hF : JustFetched c d k) (hs : ownSpills c k g n res)
    (hf : ∀ r : Core, ∃ a b, f r = { r with slots := a, flights := b }) :
    WordDone c (finish (updCore d k f) k g n res [] pc) k g n res [] pc ∧
      (coreOf (finish (updCore d k f) k g n res [] pc) k).slots = (f (coreOf d k)).slots ∧
      (coreOf (finish (updCore d k f) k g n res [] pc) k).flights = (f (coreOf d k)).flights ∧
      csrVal (finish (updCore d k f) k g n res [] pc) k 0x01 = csrVal c k 0x01 := by
  have hO := oneCore_updCore d k f
  obtain ⟨a, b, hab⟩ := hf (coreOf d k)
  have hcore : coreOf (updCore d k f) k = { coreOf d k with slots := a, flights := b } := by
    rw [coreOf_updCore_same, hab]
  have hcsr (i : Nat) : csrVal (updCore d k f) k i = csrVal d k i :=
    csrVal_congr (c := d) (d := updCore d k f) rfl (by rw [hcore]) i
  obtain ⟨⟨hsl, hfl⟩, -, hv⟩ := finish_keeps_own pc hF hO hs
  refine ⟨wordDone_finish hF hO ⟨_, _, _, _, _, _, hcore⟩ (fun i _ _ => hcsr i) (hs.imp_right fun h => ⟨rfl, h⟩), ?_, ?_, ?_⟩
  · rw [hsl, coreOf_updCore_same]
  · rw [hfl, coreOf_updCore_same]
  · rw [hv _ (by decide) (by decide), hcsr, fetched_csrVal hF]

/-! ### Multiply and divide -/

theorem exec_mul (k : Nat) (rep : Bool) (slot : BitVec 2) (uns : Bool) (s : State) :
    exec (.mul k rep slot uns) s = onUnit (isCore k) s (fun c => xMul c k rep slot uns) := rfl

theorem exec_div (k : Nat) (rep : Bool) (slot : BitVec 2) (uns : Bool) (s : State) :
    exec (.div k rep slot uns) s = onUnit (isCore k) s (fun c => xDiv c k rep slot uns) := rfl

/-- The unit takes a word whose slots are free: its result is in flight, and nothing else of the string changes but its operands
(R162, R167). -/
theorem unitWord_go {c d : Chip} {k slot : Nat} {rep : Bool} {op : CoreOp} {g : Fills} {ops : List Word}
    (f : Chip → List Word → Flight) (h : starts c k rep op 0 d g ops) (hb : slotsBusy c k slot true = false)
    (hs : ownSpills c k g 2 []) :
    WordDone c (unitWord c k rep op slot f) k g 2 [] [] ((coreOf c k).pc + 2) ∧
      csrVal (unitWord c k rep op slot f) k 0x01 = csrVal c k 0x01 ∧
      (coreOf (unitWord c k rep op slot f) k).flights = (coreOf c k).flights ++ [f d ops] := by
  have hF := starts_fetched h
  have hgo : unitWord c k rep op slot f = finish (addFlight d k (f d ops)) k g 2 [] [] (nextPc d k) := by
    unfold starts at h
    unfold unitWord
    simp only [h, fetched_slotsBusy hF, hb, Bool.false_eq_true, if_false]
  obtain ⟨l, hl⟩ := hF.core
  have hpc : nextPc d k = (coreOf c k).pc + 2 := by unfold nextPc; rw [hl]
  obtain ⟨hdone, -, hfl, hflags⟩ := wordDone_slots (f := fun r => { r with flights := r.flights ++ [f d ops] })
    ((coreOf c k).pc + 2) hF hs (fun r => ⟨_, _, rfl⟩)
  rw [hl] at hfl
  rw [hgo, hpc]
  exact ⟨hdone, hflags, hfl⟩

theorem fetched_readyFlight {c d : Chip} {k : Nat} (h : JustFetched c d k) (op slot : Nat) (wide : Bool) (lo hi : Word) :
    readyFlight d k op slot wide lo hi = ⟨op, slot, wide, wordPc c k, 0, 4, false, true, lo, hi, false, false, 0, 0, 0⟩ := by
  rw [readyFlight, fetched_wordPc h]

/-- Settles O22: the unit's flight carries the exact product, or the quotient and remainder with their flags and their trap. -/
theorem multiplyDivide : Obligations.MultiplyDivide := by
  unfold Obligations.MultiplyDivide
  intro s k rep slot uns d g ops hk hb hs a b flight p
  have launch {op : CoreOp} {i : Instr} {f : Chip → List Word → Flight} {n : Nat} {lo hi : Word} {v dz : Bool} {trap : Nat}
      (hi' : exec i s = onUnit (isCore k) s (fun c => unitWord c k rep op slot.toNat f))
      (h : starts s.chip k rep op 0 d g ops)
      (hf : f d ops = ⟨n, slot.toNat, true, wordPc s.chip k, 0, 4, false, true, lo, hi, v, dz, trap, 0, 0⟩) :
      leaves i s (flight n lo hi v dz trap) := by
    obtain ⟨hdone, hflags, hfl⟩ := unitWord_go f h hb hs
    exact leaves_of_onCore hk hi' ⟨hdone, hflags, hf ▸ hfl⟩
  refine ⟨fun h => launch (exec_mul k rep slot uns s) h ?_, fun h => ?_⟩
  · rw [fetched_readyFlight (starts_fetched h), mulWords_eq]
  · have hF := starts_fetched h
    have divide {lo hi : Word} {v dz : Bool} {trap : Nat} (hd : divWords a b uns = (lo, hi, v, dz))
        (ht : (if dz = true ∧ bit (csrVal s.chip k 0x01) 8 = true then 0x12 else 0) = trap) :
        leaves (.div k rep slot uns) s (flight 0x27 lo hi v dz trap) := by
      refine launch (exec_div k rep slot uns s) h ?_
      simp only [show divWords (ops.getD 1 0) (ops.getD 0 0) uns = (lo, hi, v, dz) from hd, fetched_readyFlight hF,
        fetched_csrVal hF, ht]
    refine ⟨fun h0 => ?_, ?_, ?_, ?_⟩
    · exact divide (by rw [h0]; exact divWords_zero a uns) (by simp only [true_and])
    · rintro h0 rfl
      exact divide (divWords_unsigned a h0) (by simp)
    · rintro - rfl ha hb1
      exact divide (by rw [ha, hb1]; exact divWords_overflow) (by simp)
    · rintro h0 rfl h1
      exact divide (divWords_signed h0 h1) (by simp)

/-! ### Slots -/

theorem exec_land (k : Nat) (rep : Bool) (slot : BitVec 2) (s : State) :
    exec (.land k rep slot) s = onUnit (isCore k) s (fun c => xLand c k rep slot) := rfl

theorem exec_putl (k : Nat) (rep : Bool) (slot : BitVec 2) (s : State) :
    exec (.putl k rep slot) s = onUnit (isCore k) s (fun c => xPutl c k rep slot) := rfl

theorem exec_waitl (k : Nat) (rep : Bool) (m : BitVec 4) (s : State) :
    exec (.waitl k rep m) s = onUnit (isCore k) s (fun c => xWaitl c k rep m) := rfl

/-- LAND pushes the slot as it stands; a result still in flight for it is recorded in CSTAT.EARLY (R102). -/
theorem xLand_done {c d : Chip} {k : Nat} {rep : Bool} {slot : BitVec 2} {g : Fills} {ops : List Word}
    (h : starts c k rep (.land slot) 0 d g ops) (hs : ownSpills c k g 0 [0]) :
    WordDone c (xLand c k rep slot) k g 0 [slotVal c k slot.toNat] [] ((coreOf c k).pc + 2) ∧
      KeepsSlots c (xLand c k rep slot) k ∧
      csrVal (xLand c k rep slot) k 0x00 =
        if slotBusy c k slot.toNat then csrVal c k 0x00 ||| 1 else csrVal c k 0x00 := by
  have hF := starts_fetched h
  have hs' : ownSpills c k g 0 [slotVal c k slot.toNat] := hs
  obtain ⟨⟨hsl0, hfl0⟩, -⟩ := fetched_keeps hF
  unfold xLand
  rw [plainWord_go _ _ h]
  simp only [opEffect, fetched_slotBusy hF, fetched_slotVal hF, fetched_csrVal hF]
  cases slotBusy c k slot.toNat with
  | false =>
    obtain ⟨hdone, -, hcstat, hslots, -⟩ := plainDone_finish ((coreOf d k).pc + 2) hF hs'
    simp only [Bool.false_eq_true, if_false, fetched_pc hF] at hdone hcstat hslots ⊢
    exact ⟨hdone, hslots, hcstat⟩
  | true =>
    have hO := oneCore_csrPut d k 0x00 (csrVal c k 0x00 ||| 1)
    have hk := coreOf_csrPut_same d k 0x00 (csrVal c k 0x00 ||| 1)
    have hpc : (coreOf (csrPut d k 0x00 (csrVal c k 0x00 ||| 1)) k).pc = (coreOf c k).pc := by rw [hk]; exact fetched_pc hF
    obtain ⟨⟨hsl, hfl⟩, -, hv⟩ := finish_keeps_own ((coreOf c k).pc + 2) hF hO hs'
    simp only [if_true, hpc]
    refine ⟨wordDone_finish hF hO ⟨_, _, _, _, _, _, hk⟩ (fun i h0 _ => csrVal_csrPut_other d k _ h0)
      (hs'.imp_right fun h => ⟨rfl, h⟩), ⟨?_, ?_⟩, ?_⟩
    · rw [hsl, hk, ← hsl0]
    · rw [hfl, hk, ← hfl0]
    · rw [hv _ (by decide) (by decide), csrVal_csrPut_same]

theorem bit_or_one (w : Word) : bit (w ||| 1) 0 = true := by
  simp [bit]

/-- PUTL writes a slot that is free (R104). -/
theorem xPutl_done {c d : Chip} {k : Nat} {rep : Bool} {slot : BitVec 2} {g : Fills} {ops : List Word}
    (h : starts c k rep (.putl slot) 0 d g ops) (hb : slotBusy c k slot.toNat = false) (hs : ownSpills c k g 1 []) :
    WordDone c (xPutl c k rep slot) k g 1 [] [] ((coreOf c k).pc + 2) ∧
      slotVal (xPutl c k rep slot) k slot.toNat = ops.getD 0 0 ∧
      (∀ j, j ≠ slot.toNat → slotVal (xPutl c k rep slot) k j = slotVal c k j) ∧
      (coreOf (xPutl c k rep slot) k).flights = (coreOf c k).flights := by
  have hF := starts_fetched h
  have hmod : slot.toNat % 4 = slot.toNat := Nat.mod_eq_of_lt slot.isLt
  have hgo : xPutl c k rep slot = finish (putSlot d k slot.toNat (ops.getD 0 0)) k g 1 [] [] (nextPc d k) := by
    unfold starts at h
    unfold xPutl
    simp only [h, fetched_slotBusy hF, hb, Bool.false_eq_true, if_false]
  obtain ⟨l, hl⟩ := hF.core
  have hpc : nextPc d k = (coreOf c k).pc + 2 := by unfold nextPc; rw [hl]
  obtain ⟨hdone, hsl, hfl, -⟩ := wordDone_slots
    (f := fun r => { r with slots := Tbl.put 0 r.slots (slot.toNat % 4) (ops.getD 0 0) }) ((coreOf c k).pc + 2) hF hs
    (fun r => ⟨_, _, rfl⟩)
  rw [hl] at hsl
  rw [hl] at hfl
  rw [hgo, hpc, putSlot, hmod]
  rw [hmod] at hdone hsl hfl
  refine ⟨hdone, ?_, fun j hj => ?_, hfl⟩
  · rw [slotVal, hsl, Tbl.get_put_same]
  · rw [slotVal, hsl, Tbl.get_put_other _ _ _ hj, slotVal]

theorem xPutl_waits {c d : Chip} {k : Nat} {rep : Bool} {slot : BitVec 2} {g : Fills} {ops : List Word}
    (h : starts c k rep (.putl slot) 0 d g ops) (hb : slotBusy c k slot.toNat = true) : xPutl c k rep slot = c := by
  have hF := starts_fetched h
  unfold starts at h
  unfold xPutl
  simp only [h, fetched_slotBusy hF, hb, if_true]

theorem fetched_maskBusy {c d : Chip} {k : Nat} (h : JustFetched c d k) (m : BitVec 4) : maskBusy d k m = maskBusy c k m := by
  unfold maskBusy
  simp only [fetched_slotBusy h]

theorem maskBusy_iff (c : Chip) (k : Nat) (m : BitVec 4) :
    maskBusy c k m = true ↔ ∃ j, j < 4 ∧ m.toNat.testBit j = true ∧ slotBusy c k j = true := by
  simp [maskBusy]

/-- WAITL of a string in split goes on exactly when none of its slots is in flight (R103). -/
theorem xWaitl_split {c d : Chip} {k : Nat} {rep : Bool} {m : BitVec 4} {g : Fills} {ops : List Word}
    (hu : inUnison c (courseNo k) = false) (h : starts c k rep (.waitl m) 0 d g ops) :
    xWaitl c k rep m = if maskBusy c k m then c else finish d k g 0 [] [] ((coreOf c k).pc + 2) := by
  have hF := starts_fetched h
  obtain ⟨l, hl⟩ := hF.core
  have hpc : nextPc d k = (coreOf c k).pc + 2 := by unfold nextPc; rw [hl]
  unfold starts at h
  unfold xWaitl
  simp only [h, fetched_maskBusy hF, fetched_inUnison hF, hu, hpc]
  cases maskBusy c k m <;> simp

/-- Settles O23: what the three words make of the slots and of the results in flight for them. -/
theorem slotWords : Obligations.SlotWords := by
  unfold Obligations.SlotWords
  intro s k rep slot m d g ops hk hu
  refine ⟨fun h hs => ?_, fun h => ⟨fun hb hs => ?_, fun hb => ?_⟩, fun h hs => ⟨fun hfree => ?_, fun j hj hm hb => ?_⟩⟩
  · obtain ⟨hdone, hslots, hcstat⟩ := xLand_done h hs
    refine leaves_of_onCore hk (exec_land k rep slot s) ⟨hdone, hslots, fun hb => ?_, fun hb => ?_⟩
    · rw [hcstat, if_pos hb, bit_or_one]
    · rw [hcstat, if_neg (by simp [hb])]
  · exact leaves_of_onCore hk (exec_putl k rep slot s) (xPutl_done h hb hs)
  · exact exec_of_onCore hk (exec_putl k rep slot s) (xPutl_waits h hb)
  · have hb : maskBusy s.chip k m = false := by
      refine Bool.eq_false_iff.2 fun hb => ?_
      obtain ⟨j, hj, hm, hbj⟩ := (maskBusy_iff s.chip k m).1 hb
      exact absurd (hfree j hj hm) (by simp [hbj])
    refine leaves_of_onCore hk (exec_waitl k rep m s) ?_
    rw [xWaitl_split hu h, if_neg (by simp [hb])]
    exact plainDone_finish _ (starts_fetched h) hs
  · refine exec_of_onCore hk (exec_waitl k rep m s) ?_
    rw [xWaitl_split hu h, if_pos ((maskBusy_iff s.chip k m).2 ⟨j, hj, hm, hb⟩)]

end Sys2Proof.Machine
end

section
/-! PROOFS. Results that land (R100, R106, R108, R163 to R167), and what a CSRR reads (R99, R125, R126, R156, R173, R196). -/

namespace Sys2Proof.Machine

open Sys2Proof Sys2Proof.Safety

/-! ### A result lands -/

/-- The slots once a result has entered them. -/
def landSlots (t : Tbl Word) (f : Flight) : Tbl Word :=
  if f.wide then Tbl.put 0 (Tbl.put 0 t (f.slot % 4) f.lo) ((f.slot + 1) % 4) f.hi else Tbl.put 0 t (f.slot % 4) f.lo

/-- FLAGS once a result has landed. -/
def landFlags (w : Word) (f : Flight) : Word :=
  if f.setDZ then setBits (if f.setV then setBits w 1 1 1 else w) 2 2 1 else if f.setV then setBits w 1 1 1 else w

theorem oneCore_csrVal {c d : Chip} {k : Nat} (h : OneCore c d k) (hc : (coreOf d k).csr = (coreOf c k).csr) (i : Nat) :
    csrVal d k i = csrVal c k i := by
  obtain ⟨⟨cs, hcs⟩, -⟩ := h
  exact csrVal_congr (by rw [hcs]) hc i

theorem oneCore_inUnison {c d : Chip} {k : Nat} (h : OneCore c d k) (n : Nat) : inUnison d n = inUnison c n := by
  obtain ⟨⟨cs, hcs⟩, -⟩ := h
  rw [hcs]
  rfl

theorem landSlots_first (c : Chip) (k : Nat) (f : Flight) :
    OneCore c (if f.wide then putSlot (putSlot c k f.slot f.lo) k (f.slot + 1) f.hi else putSlot c k f.slot f.lo) k ∧
      coreOf (if f.wide then putSlot (putSlot c k f.slot f.lo) k (f.slot + 1) f.hi else putSlot c k f.slot f.lo) k =
        { coreOf c k with slots := landSlots (coreOf c k).slots f } := by
  unfold landSlots putSlot
  cases f.wide with
  | false =>
    simp only [Bool.false_eq_true, if_false]
    exact ⟨oneCore_updCore c k _, coreOf_updCore_same c k _⟩
  | true =>
    simp only [if_true]
    refine ⟨oneCore_trans (oneCore_updCore c k _) (oneCore_updCore _ k _), ?_⟩
    simp only [coreOf_updCore_same]

theorem barrierGo_idle {c : Chip} {k : Nat} (h : ∀ w, (coreOf c k).wait = some w → w.kind ≠ 7) : barrierGo c k = c := by
  unfold barrierGo barrierCheck
  split
  · split
    next w hw => rw [if_neg fun hh => h w hw hh.1]
    next => rfl
  · rfl

/-- A result lands in a string in split, and what it waits for is looked at last. -/
theorem landNow_enters {c : Chip} {k : Nat} (f : Flight) (hu : inUnison c (courseNo k) = false) :
    ∃ e, landNow c k f = barrierGo e k ∧ OneCore c e k ∧ csrVal e k 0x01 = landFlags (csrVal c k 0x01) f ∧
      ∃ cs b, coreOf e k = { coreOf c k with
        slots := landSlots (coreOf c k).slots f
        csr := cs
        flights := (coreOf c k).flights.filter (fun x => decide (x.slot ≠ f.slot))
        itraps := if f.trap = 0 then (coreOf c k).itraps
          else (coreOf c k).itraps ++ [⟨f.trap, false, f.slot, f.code, f.ipc, f.taddr, b⟩] } := by
  obtain ⟨hO1, hc1⟩ := landSlots_first c k f
  unfold landNow
  extract_lets c0 c1 v0 v1 v2 c2 c3 uni c4 c5
  change OneCore c c1 k at hO1
  change coreOf c1 k = _ at hc1
  have hv0 : v0 = csrVal c k 0x01 := oneCore_csrVal hO1 (by rw [hc1]) _
  have hv2 : v2 = landFlags (csrVal c k 0x01) f := by
    rw [← hv0]
    rfl
  have hO3 : OneCore c1 c3 k := oneCore_trans (oneCore_csrPut c1 k 0x01 v2) (oneCore_updCore c2 k _)
  have hc3 : coreOf c3 k = { coreOf c1 k with
      csr := (coreOf c2 k).csr, flights := (coreOf c1 k).flights.filter (fun x => decide (x.slot ≠ f.slot)) } := by
    simp only [c3, c2, coreOf_updCore_same, coreOf_csrPut_same]
  have hv3 : csrVal c3 k 0x01 = v2 := by
    rw [oneCore_csrVal (oneCore_updCore c2 k _) (by rw [hc3])]
    exact csrVal_csrPut_same c1 k 0x01 v2
  have huni : uni = false := (oneCore_inUnison (oneCore_trans hO1 hO3) _).trans hu
  have hc4 : c4 = c3 := by simp [c4, huni]
  have hO5 : OneCore c3 c5 k ∧ ∃ b, coreOf c5 k = { coreOf c3 k with
      itraps := if f.trap = 0 then (coreOf c3 k).itraps
        else (coreOf c3 k).itraps ++ [⟨f.trap, false, f.slot, f.code, f.ipc, f.taddr, b⟩] } := by
    simp only [c5, huni, hc4, true_or, and_true]
    by_cases ht : f.trap = 0
    · rw [if_neg (not_not_intro ht)]
      exact ⟨oneCore_refl c3 k, false, by rw [if_pos ht]⟩
    · rw [if_pos ht]
      refine ⟨oneCore_updCore c3 k _, eachRaises c3 k f, ?_⟩
      rw [raiseTrap, coreOf_updCore_same, if_neg ht]
      rfl
  obtain ⟨hO5, b, hc5⟩ := hO5
  refine ⟨c5, rfl, oneCore_trans (oneCore_trans hO1 hO3) hO5, ?_, (coreOf c2 k).csr, b, ?_⟩
  · rw [oneCore_csrVal hO5 (by rw [hc5]), hv3, hv2]
  · rw [hc5, hc3, hc1]

/-- A result lands in a string in split that waits at no barrier. -/
theorem landNow_split {c : Chip} {k : Nat} (f : Flight) (hu : inUnison c (courseNo k) = false)
    (hw : ∀ w, (coreOf c k).wait = some w → w.kind ≠ 7) :
    OneCore c (landNow c k f) k ∧ csrVal (landNow c k f) k 0x01 = landFlags (csrVal c k 0x01) f ∧
      ∃ cs b, coreOf (landNow c k f) k = { coreOf c k with
        slots := landSlots (coreOf c k).slots f
        csr := cs
        flights := (coreOf c k).flights.filter (fun x => decide (x.slot ≠ f.slot))
        itraps := if f.trap = 0 then (coreOf c k).itraps
          else (coreOf c k).itraps ++ [⟨f.trap, false, f.slot, f.code, f.ipc, f.taddr, b⟩] } := by
  obtain ⟨e, hland, hO, hflags, cs, b, hcore⟩ := landNow_enters f hu
  rw [hland, barrierGo_idle (by rw [hcore]; exact hw)]
  exact ⟨hO, hflags, cs, b, hcore⟩

/-- A result of a unit that is no memory has no answer that is held or that stands behind another. -/
theorem xLanding_ready {c : Chip} {k slot : Nat} {f : Flight}
    (hf : (coreOf c k).flights.find? (fun f => decide (f.slot = slot)) = some f) (hr : f.ready = true) (hop : 0x26 ≤ f.op) :
    xLanding c k slot = landNow c k f := by
  have hmem : ¬ f.op < 0x26 := by omega
  have hheld : answerHeld c k f = false := by simp [answerHeld, hmem]
  have hbehind : answerBehind c k f = false := by
    unfold answerBehind
    rw [List.any_eq_false]
    intro g _
    simp only [hmem, if_false]
    cases hg : (if g.op < 0x26 then farEnd k (tgtOf k g.addr) else none) <;> simp
  unfold xLanding
  simp only [hf, hheld, hr, hbehind, Bool.false_eq_true, if_false, if_true]

theorem exec_landing (k slot : Nat) (s : State) :
    exec (.landing k slot) s = onUnit (isCore k && isSlot slot) s (fun c => xLanding c k slot) := rfl

theorem bit_landFlags (w : Word) (f : Flight) :
    bit (landFlags w f) 0 = bit w 0 ∧ bit (landFlags w f) 1 = (bit w 1 || f.setV) ∧ bit (landFlags w f) 2 = (bit w 2 || f.setDZ) := by
  have hset (w : Word) (i j : Nat) (hi : i < 32) : bit (setBits w i i 1) j = if j = i then true else bit w j := by
    split
    next h => rw [h]; exact bit_setBits_same w true hi
    next h => exact bit_setBits_apart w 1 (Nat.le_refl i) hi (by omega)
  unfold landFlags
  cases f.setDZ <;> cases f.setV <;> simp [hset]

theorem slotVal_landSlots {f : Flight} {t : Tbl Word} (h : f.slot < 4) :
    Tbl.get 0 (landSlots t f) f.slot = f.lo ∧ (f.wide = true → Tbl.get 0 (landSlots t f) ((f.slot + 1) % 4) = f.hi) ∧
      ∀ j, j ≠ f.slot → (f.wide = true → j ≠ (f.slot + 1) % 4) → Tbl.get 0 (landSlots t f) j = Tbl.get 0 t j := by
  have hmod : f.slot % 4 = f.slot := Nat.mod_eq_of_lt h
  have hne : f.slot ≠ (f.slot + 1) % 4 := by omega
  unfold landSlots
  rw [hmod]
  cases hwide : f.wide with
  | false =>
    refine ⟨?_, fun h => absurd h (by decide), fun j hj _ => ?_⟩
    · exact Tbl.get_put_same _ _ _ _
    · exact Tbl.get_put_other _ _ _ hj
  | true =>
    refine ⟨?_, fun _ => ?_, fun j hj hj' => ?_⟩
    · rw [if_pos rfl, Tbl.get_put_other _ _ _ hne, Tbl.get_put_same]
    · exact Tbl.get_put_same _ _ _ _
    · rw [if_pos rfl, Tbl.get_put_other _ _ _ (hj' rfl), Tbl.get_put_other _ _ _ hj]

/-- Settles O24: the landing of a result of the multiply and divide unit or of a coprocessor. -/
theorem landing : Obligations.Landing := by
  unfold Obligations.Landing
  intro s k slot f hk hslot hu hw hf hr hop
  have hs : f.slot = slot := by simpa using List.find?_some hf
  subst hs
  have hunit : (isCore k && isSlot f.slot) = true := by simp [hk, isSlot, hslot]
  obtain ⟨hO, hflags, cs, b, hcore⟩ := landNow_split f hu hw
  obtain ⟨hlo, hhi, hkeep⟩ := slotVal_landSlots (t := (coreOf s.chip k).slots) hslot
  obtain ⟨hC, hV, hDZ⟩ := bit_landFlags (csrVal s.chip k 0x01) f
  refine ⟨{ s with chip := landNow s.chip k f }, ?_, rfl, ?_⟩
  · rw [exec_landing, hunit, onUnit_true, xLanding_ready hf hr hop]
  dsimp only
  have hsv (j : Nat) : slotVal (landNow s.chip k f) k j = Tbl.get 0 (landSlots (coreOf s.chip k).slots f) j := by
    rw [slotVal, hcore]
  refine ⟨(hsv _).trans hlo, fun h => (hsv _).trans (hhi h), fun j _ h1 h2 => (hsv j).trans (hkeep j h1 h2), ?_, ?_, ?_, ?_, ?_, ?_,
    ?_, ?_, ?_, hO.2⟩
  · intro x hx
    rw [hcore] at hx
    simpa using (List.mem_filter.1 hx).2
  · rw [hflags, hC]
  · rw [hflags, hV]
  · rw [hflags, hDZ]
  · intro h
    rw [hcore]
    simp only [if_pos h]
  · intro h
    exact ⟨b, by rw [hcore]; simp only [if_neg h]⟩
  · rw [hcore]
  · rw [hcore]
  · obtain ⟨⟨cs, hcs⟩, -⟩ := hO
    rw [hcs]

end Sys2Proof.Machine
end

section
/-! PROOFS. What a CSRR reads (R99, R125, R126, R156, R173, R196). -/

namespace Sys2Proof.Machine

open Sys2Proof Sys2Proof.Safety

theorem b1_le_one (b : Bool) : b1 b ≤ 1 := by cases b <;> simp [b1]

/-- A bit of a word given by its number. -/
theorem bit_of_number {w : Word} {i m n : Nat} {b : Bool} (hw : w.toNat = m) (hi : 2 ^ i = n) (h : m / n % 2 = b1 b) :
    bit w i = b := by
  rw [bit, hw, hi, h, decide_b1]

theorem bits_of_number {w : Word} {hi lo m n l v : Nat} (hw : w.toNat = m) (hn : 2 ^ lo = n) (hl : 2 ^ (hi + 1 - lo) = l)
    (h : m / n % l = v) : bits w hi lo = v := by
  rw [bits, hw, hn, hl, h]

theorem wd_toNat {n : Nat} (h : n < 4294967296) : (wd n).toNat = n := by
  rw [wd, BitVec.toNat_ofNat]
  exact Nat.mod_eq_of_lt h

theorem lpend_eq (c : Chip) (k : Nat) :
    lpend c k = b1 (slotBusy c k 0) + 2 * b1 (slotBusy c k 1) + 4 * b1 (slotBusy c k 2) + 8 * b1 (slotBusy c k 3) := by
  simp only [lpend, show List.range 4 = [0, 1, 2, 3] from rfl, List.foldl_cons, List.foldl_nil]
  omega

/-- CSTAT: its sticky bits, the slots in flight, the pending writes, unison, fixed unison, the string and the depth of the stack
in hardware (R125). -/
theorem cstat_fields {c : Chip} {k : Nat} (hstk : (coreOf c k).stk.length ≤ 8) :
    bits (csrRead c k 0x00) 1 0 = bits (csrVal c k 0x00) 1 0 ∧
      (∀ j, j < 4 → bit (csrRead c k 0x00) (4 + j) = slotBusy c k j) ∧
      bit (csrRead c k 0x00) 8 = !(coreOf c k).pend.isEmpty ∧ bit (csrRead c k 0x00) 9 = inUnison c (courseNo k) ∧
      bit (csrRead c k 0x00) 10 = c.fixedUnison ∧ bit (csrRead c k 0x00) 11 = decide (k % 2 = 1) ∧
      bits (csrRead c k 0x00) 19 16 = (coreOf c k).stk.length ∧ bits (csrRead c k 0x00) 31 20 = 0 ∧
      bits (csrRead c k 0x00) 15 12 = 0 ∧ bits (csrRead c k 0x00) 3 2 = 0 := by
  have hsticky : bits (csrVal c k 0) 1 0 < 4 := bits_lt _ 1 0
  have h0 := b1_le_one (slotBusy c k 0)
  have h1 := b1_le_one (slotBusy c k 1)
  have h2 := b1_le_one (slotBusy c k 2)
  have h3 := b1_le_one (slotBusy c k 3)
  have hp := b1_le_one (!(coreOf c k).pend.isEmpty)
  have hu := b1_le_one (inUnison c (courseNo k))
  have hf := b1_le_one c.fixedUnison
  have hb := b1_le_one (isB k)
  have hn : (csrRead c k 0x00).toNat = bits (csrVal c k 0) 1 0 + 16 * lpend c k + 256 * b1 (!(coreOf c k).pend.isEmpty) +
      512 * b1 (inUnison c (courseNo k)) + 1024 * b1 c.fixedUnison + 2048 * b1 (isB k) + 65536 * (coreOf c k).stk.length := by
    rw [csrRead, if_pos rfl, wd_toNat (by rw [lpend_eq]; omega)]
  rw [lpend_eq] at hn
  refine ⟨bits_of_number hn rfl rfl (by omega), fun j hj => ?_, bit_of_number hn rfl (by omega), bit_of_number hn rfl (by omega),
    bit_of_number hn rfl (by omega), bit_of_number (b := isB k) hn rfl (by omega), bits_of_number hn rfl rfl (by omega),
    bits_of_number hn rfl rfl (by omega), bits_of_number hn rfl rfl (by omega), bits_of_number hn rfl rfl (by omega)⟩
  obtain rfl | rfl | rfl | rfl : j = 0 ∨ j = 1 ∨ j = 2 ∨ j = 3 := by omega
  · exact bit_of_number hn rfl (by omega)
  · exact bit_of_number hn rfl (by omega)
  · exact bit_of_number hn rfl (by omega)
  · exact bit_of_number hn rfl (by omega)

/-- RSCTL: its mode and the present depth (R99). -/
theorem rsctl_fields {c : Chip} {k : Nat} (hd : (coreOf c k).rsDepth ≤ 16) :
    bit (csrRead c k 0x0B) 0 = bit (csrVal c k 0x0B) 0 ∧ bits (csrRead c k 0x0B) 12 8 = (coreOf c k).rsDepth ∧
      bits (csrRead c k 0x0B) 31 13 = 0 := by
  have hbit : bits (csrVal c k 0x0B) 0 0 = b1 (bit (csrVal c k 0x0B) 0) := by
    rw [bit, bits]
    rcases Nat.mod_two_eq_zero_or_one (csrVal c k 0x0B).toNat with h | h <;> simp [h, b1]
  have hone := b1_le_one (bit (csrVal c k 0x0B) 0)
  have hn : (csrRead c k 0x0B).toNat = b1 (bit (csrVal c k 0x0B) 0) + 256 * (coreOf c k).rsDepth := by
    rw [csrRead, if_neg (by decide), if_neg (by decide), if_pos rfl, hbit, wd_toNat (by omega)]
  exact ⟨bit_of_number hn rfl (by omega), bits_of_number hn rfl rfl (by omega), bits_of_number hn rfl rfl (by omega)⟩

/-- TRAPINFO: what a trap recorded, and MORE, set while a further trap or interrupt waits (R196). -/
theorem trapinfo_fields (c : Chip) (k : Nat) :
    bits (csrRead c k 0x13) 17 0 = bits (csrVal c k 0x13) 17 0 ∧
      bit (csrRead c k 0x13) 18 = (reqUp c k || !(coreOf c k).itraps.isEmpty) := by
  have hinfo : bits (csrVal c k 0x13) 17 0 < 262144 := bits_lt _ 17 0
  have hmore := b1_le_one (reqUp c k || !(coreOf c k).itraps.isEmpty)
  have hn : (csrRead c k 0x13).toNat =
      bits (csrVal c k 0x13) 17 0 + 262144 * b1 (reqUp c k || !(coreOf c k).itraps.isEmpty) := by
    rw [csrRead, if_neg (by decide), if_neg (by decide), if_neg (by decide), if_pos rfl, wd_toNat (by omega)]
  exact ⟨bits_of_number hn rfl rfl (by omega), bit_of_number hn rfl (by omega)⟩

/-- A CSR without a behaviour of its own reads as it stands. -/
theorem csrRead_stored (c : Chip) (k : Nat) {i : Nat}
    (hi : i ∈ [0x01, 0x08, 0x09, 0x0A, 0x10, 0x11, 0x12, 0x14, 0x18, 0x19, 0x30, 0x31, 0x32, 0x33]) : csrRead c k i = csrVal c k i := by
  simp only [List.mem_cons, List.not_mem_nil, or_false] at hi
  rw [csrRead, if_neg (by omega), if_neg (by omega), if_neg (by omega), if_neg (by omega), if_neg (by omega), if_neg (by omega),
    if_neg (by omega)]

/-- REPCNT reads as it stands inside a repetition, and as 0 outside one that no handler holds (R173). -/
theorem csrRead_repcnt (c : Chip) (k : Nat) : csrRead c k 0x28 =
    if (coreOf c k).rep.isSome ∨ bit (csrVal c k 0x13) 16 then csrVal c k 0x28 else 0 := by
  rw [csrRead, if_neg (by decide), if_neg (by decide), if_neg (by decide), if_neg (by decide), if_neg (by decide),
    if_neg (by decide), if_pos rfl]

/-- Settles O32: the fields of the CSRs that are put together, and the stored values of the rest. -/
theorem csrReads : Obligations.CsrReads := by
  unfold Obligations.CsrReads
  intro c k _ hstk hdepth
  refine ⟨cstat_fields hstk, rfl, rsctl_fields hdepth, trapinfo_fields c k, rfl, fun hrep hrpt => ?_, fun hrep => ?_,
    fun i hi => csrRead_stored c k hi⟩
  · rw [csrRead_repcnt, if_neg (by simp [hrep, hrpt])]
  · rw [csrRead_repcnt, if_pos (Or.inl (Option.isSome_iff_ne_none.2 hrep))]

end Sys2Proof.Machine
end

section
/-! PROOFS. What replies, pulses and withdrawals leave of the device, field by field. -/

namespace Sys2Proof.Machine

open Sys2Proof Sys2Proof.Safety

@[simp] theorem ite_courses {p : Prop} [Decidable p] (c d : Chip) : (if p then c else d).courses = if p then c.courses else d.courses :=
  apply_ite Chip.courses p c d

@[simp] theorem ite_fst_courses {p : Prop} [Decidable p] {α : Type} (c d : Chip × α) :
    (if p then c else d).1.courses = if p then c.1.courses else d.1.courses :=
  apply_ite (fun r => r.1.courses) p c d

@[simp] theorem foldl_courses {α : Type} {f : Chip → α → Chip} (hf : ∀ c a, (f c a).courses = c.courses) (l : List α) (c : Chip) :
    (l.foldl f c).courses = c.courses := by
  induction l generalizing c with
  | nil => rfl
  | cons a l ih => exact (ih (f c a)).trans (hf c a)

theorem foldl_fst_courses {α β : Type} {f : Chip × β → α → Chip × β} (hf : ∀ a x, (f a x).1.courses = a.1.courses) (l : List α)
    (a : Chip × β) : (l.foldl f a).1.courses = a.1.courses := by
  induction l generalizing a with
  | nil => rfl
  | cons x l ih => exact (ih (f a x)).trans (hf a x)

@[simp] theorem ite_cores {p : Prop} [Decidable p] (c d : Chip) : (if p then c else d).cores = if p then c.cores else d.cores :=
  apply_ite Chip.cores p c d

@[simp] theorem ite_fst_cores {p : Prop} [Decidable p] {α : Type} (c d : Chip × α) :
    (if p then c else d).1.cores = if p then c.1.cores else d.1.cores :=
  apply_ite (fun r => r.1.cores) p c d

@[simp] theorem foldl_cores {α : Type} {f : Chip → α → Chip} (hf : ∀ c a, (f c a).cores = c.cores) (l : List α) (c : Chip) :
    (l.foldl f c).cores = c.cores := by
  induction l generalizing c with
  | nil => rfl
  | cons a l ih => exact (ih (f c a)).trans (hf c a)

theorem foldl_fst_cores {α β : Type} {f : Chip × β → α → Chip × β} (hf : ∀ a x, (f a x).1.cores = a.1.cores) (l : List α)
    (a : Chip × β) : (l.foldl f a).1.cores = a.1.cores := by
  induction l generalizing a with
  | nil => rfl
  | cons x l ih => exact (ih (f a x)).trans (hf a x)

@[simp] theorem ite_chans {p : Prop} [Decidable p] (c d : Chip) : (if p then c else d).chans = if p then c.chans else d.chans :=
  apply_ite Chip.chans p c d

@[simp] theorem ite_fst_chans {p : Prop} [Decidable p] {α : Type} (c d : Chip × α) :
    (if p then c else d).1.chans = if p then c.1.chans else d.1.chans :=
  apply_ite (fun r => r.1.chans) p c d

@[simp] theorem foldl_chans {α : Type} {f : Chip → α → Chip} (hf : ∀ c a, (f c a).chans = c.chans) (l : List α) (c : Chip) :
    (l.foldl f c).chans = c.chans := by
  induction l generalizing c with
  | nil => rfl
  | cons a l ih => exact (ih (f c a)).trans (hf c a)

theorem foldl_fst_chans {α β : Type} {f : Chip × β → α → Chip × β} (hf : ∀ a x, (f a x).1.chans = a.1.chans) (l : List α)
    (a : Chip × β) : (l.foldl f a).1.chans = a.1.chans := by
  induction l generalizing a with
  | nil => rfl
  | cons x l ih => exact (ih (f a x)).trans (hf a x)

@[simp] theorem ite_sys {p : Prop} [Decidable p] (c d : Chip) : (if p then c else d).sys = if p then c.sys else d.sys :=
  apply_ite Chip.sys p c d

@[simp] theorem ite_fst_sys {p : Prop} [Decidable p] {α : Type} (c d : Chip × α) :
    (if p then c else d).1.sys = if p then c.1.sys else d.1.sys :=
  apply_ite (fun r => r.1.sys) p c d

@[simp] theorem foldl_sys {α : Type} {f : Chip → α → Chip} (hf : ∀ c a, (f c a).sys = c.sys) (l : List α) (c : Chip) :
    (l.foldl f c).sys = c.sys := by
  induction l generalizing c with
  | nil => rfl
  | cons a l ih => exact (ih (f c a)).trans (hf c a)

theorem foldl_fst_sys {α β : Type} {f : Chip × β → α → Chip × β} (hf : ∀ a x, (f a x).1.sys = a.1.sys) (l : List α)
    (a : Chip × β) : (l.foldl f a).1.sys = a.1.sys := by
  induction l generalizing a with
  | nil => rfl
  | cons x l ih => exact (ih (f a x)).trans (hf a x)

@[simp] theorem ite_tab {p : Prop} [Decidable p] (c d : Chip) : (if p then c else d).tab = if p then c.tab else d.tab :=
  apply_ite Chip.tab p c d

@[simp] theorem ite_fst_tab {p : Prop} [Decidable p] {α : Type} (c d : Chip × α) :
    (if p then c else d).1.tab = if p then c.1.tab else d.1.tab :=
  apply_ite (fun r => r.1.tab) p c d

@[simp] theorem foldl_tab {α : Type} {f : Chip → α → Chip} (hf : ∀ c a, (f c a).tab = c.tab) (l : List α) (c : Chip) :
    (l.foldl f c).tab = c.tab := by
  induction l generalizing c with
  | nil => rfl
  | cons a l ih => exact (ih (f c a)).trans (hf c a)

theorem foldl_fst_tab {α β : Type} {f : Chip × β → α → Chip × β} (hf : ∀ a x, (f a x).1.tab = a.1.tab) (l : List α)
    (a : Chip × β) : (l.foldl f a).1.tab = a.1.tab := by
  induction l generalizing a with
  | nil => rfl
  | cons x l ih => exact (ih (f a x)).trans (hf a x)

@[simp] theorem ite_ports {p : Prop} [Decidable p] (c d : Chip) : (if p then c else d).ports = if p then c.ports else d.ports :=
  apply_ite Chip.ports p c d

@[simp] theorem ite_fst_ports {p : Prop} [Decidable p] {α : Type} (c d : Chip × α) :
    (if p then c else d).1.ports = if p then c.1.ports else d.1.ports :=
  apply_ite (fun r => r.1.ports) p c d

@[simp] theorem foldl_ports {α : Type} {f : Chip → α → Chip} (hf : ∀ c a, (f c a).ports = c.ports) (l : List α) (c : Chip) :
    (l.foldl f c).ports = c.ports := by
  induction l generalizing c with
  | nil => rfl
  | cons a l ih => exact (ih (f c a)).trans (hf c a)

theorem foldl_fst_ports {α β : Type} {f : Chip × β → α → Chip × β} (hf : ∀ a x, (f a x).1.ports = a.1.ports) (l : List α)
    (a : Chip × β) : (l.foldl f a).1.ports = a.1.ports := by
  induction l generalizing a with
  | nil => rfl
  | cons x l ih => exact (ih (f a x)).trans (hf a x)

@[simp] theorem ite_links {p : Prop} [Decidable p] (c d : Chip) : (if p then c else d).links = if p then c.links else d.links :=
  apply_ite Chip.links p c d

@[simp] theorem ite_fst_links {p : Prop} [Decidable p] {α : Type} (c d : Chip × α) :
    (if p then c else d).1.links = if p then c.1.links else d.1.links :=
  apply_ite (fun r => r.1.links) p c d

@[simp] theorem foldl_links {α : Type} {f : Chip → α → Chip} (hf : ∀ c a, (f c a).links = c.links) (l : List α) (c : Chip) :
    (l.foldl f c).links = c.links := by
  induction l generalizing c with
  | nil => rfl
  | cons a l ih => exact (ih (f c a)).trans (hf c a)

theorem foldl_fst_links {α β : Type} {f : Chip × β → α → Chip × β} (hf : ∀ a x, (f a x).1.links = a.1.links) (l : List α)
    (a : Chip × β) : (l.foldl f a).1.links = a.1.links := by
  induction l generalizing a with
  | nil => rfl
  | cons x l ih => exact (ih (f a x)).trans (hf a x)

@[simp] theorem ite_drones {p : Prop} [Decidable p] (c d : Chip) : (if p then c else d).drones = if p then c.drones else d.drones :=
  apply_ite Chip.drones p c d

@[simp] theorem ite_fst_drones {p : Prop} [Decidable p] {α : Type} (c d : Chip × α) :
    (if p then c else d).1.drones = if p then c.1.drones else d.1.drones :=
  apply_ite (fun r => r.1.drones) p c d

@[simp] theorem foldl_drones {α : Type} {f : Chip → α → Chip} (hf : ∀ c a, (f c a).drones = c.drones) (l : List α) (c : Chip) :
    (l.foldl f c).drones = c.drones := by
  induction l generalizing c with
  | nil => rfl
  | cons a l ih => exact (ih (f c a)).trans (hf c a)

theorem foldl_fst_drones {α β : Type} {f : Chip × β → α → Chip × β} (hf : ∀ a x, (f a x).1.drones = a.1.drones) (l : List α)
    (a : Chip × β) : (l.foldl f a).1.drones = a.1.drones := by
  induction l generalizing a with
  | nil => rfl
  | cons x l ih => exact (ih (f a x)).trans (hf a x)

@[simp] theorem ite_cams {p : Prop} [Decidable p] (c d : Chip) : (if p then c else d).cams = if p then c.cams else d.cams :=
  apply_ite Chip.cams p c d

@[simp] theorem ite_fst_cams {p : Prop} [Decidable p] {α : Type} (c d : Chip × α) :
    (if p then c else d).1.cams = if p then c.1.cams else d.1.cams :=
  apply_ite (fun r => r.1.cams) p c d

@[simp] theorem foldl_cams {α : Type} {f : Chip → α → Chip} (hf : ∀ c a, (f c a).cams = c.cams) (l : List α) (c : Chip) :
    (l.foldl f c).cams = c.cams := by
  induction l generalizing c with
  | nil => rfl
  | cons a l ih => exact (ih (f c a)).trans (hf c a)

theorem foldl_fst_cams {α β : Type} {f : Chip × β → α → Chip × β} (hf : ∀ a x, (f a x).1.cams = a.1.cams) (l : List α)
    (a : Chip × β) : (l.foldl f a).1.cams = a.1.cams := by
  induction l generalizing a with
  | nil => rfl
  | cons x l ih => exact (ih (f a x)).trans (hf a x)

@[simp] theorem ite_pegs {p : Prop} [Decidable p] (c d : Chip) : (if p then c else d).pegs = if p then c.pegs else d.pegs :=
  apply_ite Chip.pegs p c d

@[simp] theorem ite_fst_pegs {p : Prop} [Decidable p] {α : Type} (c d : Chip × α) :
    (if p then c else d).1.pegs = if p then c.1.pegs else d.1.pegs :=
  apply_ite (fun r => r.1.pegs) p c d

@[simp] theorem foldl_pegs {α : Type} {f : Chip → α → Chip} (hf : ∀ c a, (f c a).pegs = c.pegs) (l : List α) (c : Chip) :
    (l.foldl f c).pegs = c.pegs := by
  induction l generalizing c with
  | nil => rfl
  | cons a l ih => exact (ih (f c a)).trans (hf c a)

theorem foldl_fst_pegs {α β : Type} {f : Chip × β → α → Chip × β} (hf : ∀ a x, (f a x).1.pegs = a.1.pegs) (l : List α)
    (a : Chip × β) : (l.foldl f a).1.pegs = a.1.pegs := by
  induction l generalizing a with
  | nil => rfl
  | cons x l ih => exact (ih (f a x)).trans (hf a x)

@[simp] theorem ite_islands {p : Prop} [Decidable p] (c d : Chip) : (if p then c else d).islands = if p then c.islands else d.islands :=
  apply_ite Chip.islands p c d

@[simp] theorem ite_fst_islands {p : Prop} [Decidable p] {α : Type} (c d : Chip × α) :
    (if p then c else d).1.islands = if p then c.1.islands else d.1.islands :=
  apply_ite (fun r => r.1.islands) p c d

@[simp] theorem foldl_islands {α : Type} {f : Chip → α → Chip} (hf : ∀ c a, (f c a).islands = c.islands) (l : List α) (c : Chip) :
    (l.foldl f c).islands = c.islands := by
  induction l generalizing c with
  | nil => rfl
  | cons a l ih => exact (ih (f c a)).trans (hf c a)

theorem foldl_fst_islands {α β : Type} {f : Chip × β → α → Chip × β} (hf : ∀ a x, (f a x).1.islands = a.1.islands) (l : List α)
    (a : Chip × β) : (l.foldl f a).1.islands = a.1.islands := by
  induction l generalizing a with
  | nil => rfl
  | cons x l ih => exact (ih (f a x)).trans (hf a x)

@[simp] theorem ite_accepted {p : Prop} [Decidable p] (c d : Chip) : (if p then c else d).accepted = if p then c.accepted else d.accepted :=
  apply_ite Chip.accepted p c d

@[simp] theorem ite_fst_accepted {p : Prop} [Decidable p] {α : Type} (c d : Chip × α) :
    (if p then c else d).1.accepted = if p then c.1.accepted else d.1.accepted :=
  apply_ite (fun r => r.1.accepted) p c d

@[simp] theorem foldl_accepted {α : Type} {f : Chip → α → Chip} (hf : ∀ c a, (f c a).accepted = c.accepted) (l : List α) (c : Chip) :
    (l.foldl f c).accepted = c.accepted := by
  induction l generalizing c with
  | nil => rfl
  | cons a l ih => exact (ih (f c a)).trans (hf c a)

theorem foldl_fst_accepted {α β : Type} {f : Chip × β → α → Chip × β} (hf : ∀ a x, (f a x).1.accepted = a.1.accepted) (l : List α)
    (a : Chip × β) : (l.foldl f a).1.accepted = a.1.accepted := by
  induction l generalizing a with
  | nil => rfl
  | cons x l ih => exact (ih (f a x)).trans (hf a x)

@[simp] theorem pulse_courses (c : Chip) (s : Nat) : (pulse c s).courses = c.courses := by
  simp [pulse]

@[simp] theorem pulse_cores (c : Chip) (s : Nat) : (pulse c s).cores = c.cores := by
  simp [pulse]

@[simp] theorem pulse_chans (c : Chip) (s : Nat) : (pulse c s).chans = c.chans := by
  simp [pulse]

@[simp] theorem pulse_sys (c : Chip) (s : Nat) : (pulse c s).sys = c.sys := by
  simp [pulse]

@[simp] theorem pulse_tab (c : Chip) (s : Nat) : (pulse c s).tab = c.tab := by
  simp [pulse]

@[simp] theorem pulse_ports (c : Chip) (s : Nat) : (pulse c s).ports = c.ports := by
  simp [pulse]

@[simp] theorem pulse_links (c : Chip) (s : Nat) : (pulse c s).links = c.links := by
  simp [pulse]

@[simp] theorem pulse_drones (c : Chip) (s : Nat) : (pulse c s).drones = c.drones := by
  simp [pulse]

@[simp] theorem pulse_cams (c : Chip) (s : Nat) : (pulse c s).cams = c.cams := by
  simp [pulse]

@[simp] theorem pulse_pegs (c : Chip) (s : Nat) : (pulse c s).pegs = c.pegs := by
  simp [pulse]

@[simp] theorem pulse_islands (c : Chip) (s : Nat) : (pulse c s).islands = c.islands := by
  simp [pulse]

@[simp] theorem raiseTrap_courses (c : Chip) (k : Nat) (t : ITrap) : (raiseTrap c k t).courses = c.courses := by
  simp [raiseTrap]

@[simp] theorem withdraw_courses (c : Chip) (s : Nat) : (withdraw c s).courses = c.courses := by
  simp [withdraw]

@[simp] theorem withdraw_cores (c : Chip) (s : Nat) : (withdraw c s).cores = c.cores := by
  simp [withdraw]

@[simp] theorem withdraw_chans (c : Chip) (s : Nat) : (withdraw c s).chans = c.chans := by
  simp [withdraw]

@[simp] theorem withdraw_sys (c : Chip) (s : Nat) : (withdraw c s).sys = c.sys := by
  simp [withdraw]

@[simp] theorem withdraw_tab (c : Chip) (s : Nat) : (withdraw c s).tab = c.tab := by
  simp [withdraw]

@[simp] theorem withdraw_ports (c : Chip) (s : Nat) : (withdraw c s).ports = c.ports := by
  simp [withdraw]

@[simp] theorem withdraw_links (c : Chip) (s : Nat) : (withdraw c s).links = c.links := by
  simp [withdraw]

@[simp] theorem withdraw_drones (c : Chip) (s : Nat) : (withdraw c s).drones = c.drones := by
  simp [withdraw]

@[simp] theorem withdraw_cams (c : Chip) (s : Nat) : (withdraw c s).cams = c.cams := by
  simp [withdraw]

@[simp] theorem withdraw_pegs (c : Chip) (s : Nat) : (withdraw c s).pegs = c.pegs := by
  simp [withdraw]

@[simp] theorem withdraw_islands (c : Chip) (s : Nat) : (withdraw c s).islands = c.islands := by
  simp [withdraw]

@[simp] theorem withdraw_accepted (c : Chip) (s : Nat) : (withdraw c s).accepted = c.accepted := by
  simp [withdraw]

@[simp] theorem withdrawAll_courses (c : Chip) (e : Nat) : (withdrawAll c e).courses = c.courses := by
  simp [withdrawAll]

@[simp] theorem withdrawAll_cores (c : Chip) (e : Nat) : (withdrawAll c e).cores = c.cores := by
  simp [withdrawAll]

@[simp] theorem withdrawAll_chans (c : Chip) (e : Nat) : (withdrawAll c e).chans = c.chans := by
  simp [withdrawAll]

@[simp] theorem withdrawAll_sys (c : Chip) (e : Nat) : (withdrawAll c e).sys = c.sys := by
  simp [withdrawAll]

@[simp] theorem withdrawAll_tab (c : Chip) (e : Nat) : (withdrawAll c e).tab = c.tab := by
  simp [withdrawAll]

@[simp] theorem withdrawAll_ports (c : Chip) (e : Nat) : (withdrawAll c e).ports = c.ports := by
  simp [withdrawAll]

@[simp] theorem withdrawAll_links (c : Chip) (e : Nat) : (withdrawAll c e).links = c.links := by
  simp [withdrawAll]

@[simp] theorem withdrawAll_drones (c : Chip) (e : Nat) : (withdrawAll c e).drones = c.drones := by
  simp [withdrawAll]

@[simp] theorem withdrawAll_cams (c : Chip) (e : Nat) : (withdrawAll c e).cams = c.cams := by
  simp [withdrawAll]

@[simp] theorem withdrawAll_pegs (c : Chip) (e : Nat) : (withdrawAll c e).pegs = c.pegs := by
  simp [withdrawAll]

@[simp] theorem withdrawAll_islands (c : Chip) (e : Nat) : (withdrawAll c e).islands = c.islands := by
  simp [withdrawAll]

@[simp] theorem withdrawWait_courses (c : Chip) (k : Nat) : (withdrawWait c k).courses = c.courses := by
  unfold withdrawWait
  split <;> simp

@[simp] theorem withdrawWait_accepted (c : Chip) (k : Nat) : (withdrawWait c k).accepted = c.accepted := by
  unfold withdrawWait
  split <;> simp

@[simp] theorem dropResv_courses (c : Chip) (k : Nat) : (dropResv c k).courses = c.courses := by
  simp [dropResv]

@[simp] theorem haltCore_courses (c : Chip) (k : Nat) : (haltCore c k).courses = c.courses := by
  simp [haltCore]

@[simp] theorem hostWrite_courses (c : Chip) (a : Nat) (l : List QWord) (n : Nat) : (hostWrite c a l n).courses = c.courses := by
  induction n generalizing c a l with
  | zero => rfl
  | succ n ih =>
    rw [hostWrite]
    split
    · rfl
    · rw [ih]
      simp

@[simp] theorem hostWrite_cores (c : Chip) (a : Nat) (l : List QWord) (n : Nat) : (hostWrite c a l n).cores = c.cores := by
  induction n generalizing c a l with
  | zero => rfl
  | succ n ih =>
    rw [hostWrite]
    split
    · rfl
    · rw [ih]
      simp

@[simp] theorem hostWrite_chans (c : Chip) (a : Nat) (l : List QWord) (n : Nat) : (hostWrite c a l n).chans = c.chans := by
  induction n generalizing c a l with
  | zero => rfl
  | succ n ih =>
    rw [hostWrite]
    split
    · rfl
    · rw [ih]
      simp

@[simp] theorem hostWrite_sys (c : Chip) (a : Nat) (l : List QWord) (n : Nat) : (hostWrite c a l n).sys = c.sys := by
  induction n generalizing c a l with
  | zero => rfl
  | succ n ih =>
    rw [hostWrite]
    split
    · rfl
    · rw [ih]
      simp

@[simp] theorem hostWrite_tab (c : Chip) (a : Nat) (l : List QWord) (n : Nat) : (hostWrite c a l n).tab = c.tab := by
  induction n generalizing c a l with
  | zero => rfl
  | succ n ih =>
    rw [hostWrite]
    split
    · rfl
    · rw [ih]
      simp

@[simp] theorem hostWrite_ports (c : Chip) (a : Nat) (l : List QWord) (n : Nat) : (hostWrite c a l n).ports = c.ports := by
  induction n generalizing c a l with
  | zero => rfl
  | succ n ih =>
    rw [hostWrite]
    split
    · rfl
    · rw [ih]
      simp

@[simp] theorem hostWrite_links (c : Chip) (a : Nat) (l : List QWord) (n : Nat) : (hostWrite c a l n).links = c.links := by
  induction n generalizing c a l with
  | zero => rfl
  | succ n ih =>
    rw [hostWrite]
    split
    · rfl
    · rw [ih]
      simp

@[simp] theorem hostWrite_drones (c : Chip) (a : Nat) (l : List QWord) (n : Nat) : (hostWrite c a l n).drones = c.drones := by
  induction n generalizing c a l with
  | zero => rfl
  | succ n ih =>
    rw [hostWrite]
    split
    · rfl
    · rw [ih]
      simp

@[simp] theorem hostWrite_cams (c : Chip) (a : Nat) (l : List QWord) (n : Nat) : (hostWrite c a l n).cams = c.cams := by
  induction n generalizing c a l with
  | zero => rfl
  | succ n ih =>
    rw [hostWrite]
    split
    · rfl
    · rw [ih]
      simp

@[simp] theorem hostWrite_pegs (c : Chip) (a : Nat) (l : List QWord) (n : Nat) : (hostWrite c a l n).pegs = c.pegs := by
  induction n generalizing c a l with
  | zero => rfl
  | succ n ih =>
    rw [hostWrite]
    split
    · rfl
    · rw [ih]
      simp

@[simp] theorem hostWrite_islands (c : Chip) (a : Nat) (l : List QWord) (n : Nat) : (hostWrite c a l n).islands = c.islands := by
  induction n generalizing c a l with
  | zero => rfl
  | succ n ih =>
    rw [hostWrite]
    split
    · rfl
    · rw [ih]
      simp

@[simp] theorem hostWriteBytes_courses (c : Chip) (a : Nat) (b : List Byte) : (hostWriteBytes c a b).courses = c.courses := by
  simp [hostWriteBytes]

@[simp] theorem hostWriteBytes_cores (c : Chip) (a : Nat) (b : List Byte) : (hostWriteBytes c a b).cores = c.cores := by
  simp [hostWriteBytes]

@[simp] theorem hostWriteBytes_chans (c : Chip) (a : Nat) (b : List Byte) : (hostWriteBytes c a b).chans = c.chans := by
  simp [hostWriteBytes]

@[simp] theorem hostWriteBytes_sys (c : Chip) (a : Nat) (b : List Byte) : (hostWriteBytes c a b).sys = c.sys := by
  simp [hostWriteBytes]

@[simp] theorem hostWriteBytes_tab (c : Chip) (a : Nat) (b : List Byte) : (hostWriteBytes c a b).tab = c.tab := by
  simp [hostWriteBytes]

@[simp] theorem hostWriteBytes_ports (c : Chip) (a : Nat) (b : List Byte) : (hostWriteBytes c a b).ports = c.ports := by
  simp [hostWriteBytes]

@[simp] theorem hostWriteBytes_links (c : Chip) (a : Nat) (b : List Byte) : (hostWriteBytes c a b).links = c.links := by
  simp [hostWriteBytes]

@[simp] theorem hostWriteBytes_drones (c : Chip) (a : Nat) (b : List Byte) : (hostWriteBytes c a b).drones = c.drones := by
  simp [hostWriteBytes]

@[simp] theorem hostWriteBytes_cams (c : Chip) (a : Nat) (b : List Byte) : (hostWriteBytes c a b).cams = c.cams := by
  simp [hostWriteBytes]

@[simp] theorem hostWriteBytes_pegs (c : Chip) (a : Nat) (b : List Byte) : (hostWriteBytes c a b).pegs = c.pegs := by
  simp [hostWriteBytes]

@[simp] theorem hostWriteBytes_islands (c : Chip) (a : Nat) (b : List Byte) : (hostWriteBytes c a b).islands = c.islands := by
  simp [hostWriteBytes]

@[simp] theorem sendDatagram_courses (c : Chip) (r : ReplyTo) (pkt : List Byte) : (sendDatagram c r pkt).courses = c.courses := by
  simp [sendDatagram]

@[simp] theorem sendDatagram_cores (c : Chip) (r : ReplyTo) (pkt : List Byte) : (sendDatagram c r pkt).cores = c.cores := by
  simp [sendDatagram]

@[simp] theorem sendDatagram_chans (c : Chip) (r : ReplyTo) (pkt : List Byte) : (sendDatagram c r pkt).chans = c.chans := by
  simp [sendDatagram]

@[simp] theorem sendDatagram_sys (c : Chip) (r : ReplyTo) (pkt : List Byte) : (sendDatagram c r pkt).sys = c.sys := by
  simp [sendDatagram]

@[simp] theorem sendDatagram_tab (c : Chip) (r : ReplyTo) (pkt : List Byte) : (sendDatagram c r pkt).tab = c.tab := by
  simp [sendDatagram]

@[simp] theorem sendDatagram_ports (c : Chip) (r : ReplyTo) (pkt : List Byte) : (sendDatagram c r pkt).ports = c.ports := by
  simp [sendDatagram]

@[simp] theorem sendDatagram_links (c : Chip) (r : ReplyTo) (pkt : List Byte) : (sendDatagram c r pkt).links = c.links := by
  simp [sendDatagram]

@[simp] theorem sendDatagram_drones (c : Chip) (r : ReplyTo) (pkt : List Byte) : (sendDatagram c r pkt).drones = c.drones := by
  simp [sendDatagram]

@[simp] theorem sendDatagram_cams (c : Chip) (r : ReplyTo) (pkt : List Byte) : (sendDatagram c r pkt).cams = c.cams := by
  simp [sendDatagram]

@[simp] theorem sendDatagram_pegs (c : Chip) (r : ReplyTo) (pkt : List Byte) : (sendDatagram c r pkt).pegs = c.pegs := by
  simp [sendDatagram]

@[simp] theorem sendDatagram_islands (c : Chip) (r : ReplyTo) (pkt : List Byte) : (sendDatagram c r pkt).islands = c.islands := by
  simp [sendDatagram]

@[simp] theorem keepReply_courses (c : Chip) (r : ReplyTo) (comp : Bool) (pkt : List Byte) : (keepReply c r comp pkt).courses = c.courses := by
  simp [keepReply]

@[simp] theorem keepReply_cores (c : Chip) (r : ReplyTo) (comp : Bool) (pkt : List Byte) : (keepReply c r comp pkt).cores = c.cores := by
  simp [keepReply]

@[simp] theorem keepReply_chans (c : Chip) (r : ReplyTo) (comp : Bool) (pkt : List Byte) : (keepReply c r comp pkt).chans = c.chans := by
  simp [keepReply]

@[simp] theorem keepReply_sys (c : Chip) (r : ReplyTo) (comp : Bool) (pkt : List Byte) : (keepReply c r comp pkt).sys = c.sys := by
  simp [keepReply]

@[simp] theorem keepReply_tab (c : Chip) (r : ReplyTo) (comp : Bool) (pkt : List Byte) : (keepReply c r comp pkt).tab = c.tab := by
  simp [keepReply]

@[simp] theorem keepReply_ports (c : Chip) (r : ReplyTo) (comp : Bool) (pkt : List Byte) : (keepReply c r comp pkt).ports = c.ports := by
  simp [keepReply]

@[simp] theorem keepReply_links (c : Chip) (r : ReplyTo) (comp : Bool) (pkt : List Byte) : (keepReply c r comp pkt).links = c.links := by
  simp [keepReply]

@[simp] theorem keepReply_drones (c : Chip) (r : ReplyTo) (comp : Bool) (pkt : List Byte) : (keepReply c r comp pkt).drones = c.drones := by
  simp [keepReply]

@[simp] theorem keepReply_cams (c : Chip) (r : ReplyTo) (comp : Bool) (pkt : List Byte) : (keepReply c r comp pkt).cams = c.cams := by
  simp [keepReply]

@[simp] theorem keepReply_pegs (c : Chip) (r : ReplyTo) (comp : Bool) (pkt : List Byte) : (keepReply c r comp pkt).pegs = c.pegs := by
  simp [keepReply]

@[simp] theorem keepReply_islands (c : Chip) (r : ReplyTo) (comp : Bool) (pkt : List Byte) : (keepReply c r comp pkt).islands = c.islands := by
  simp [keepReply]

@[simp] theorem post_courses (c : Chip) (r : ReplyTo) (comp : Bool) (status : Nat) (detail : Word) (payload : List Byte)
    (handle : Nat) (keep : Bool) : (post c r comp status detail payload handle keep).courses = c.courses := by
  simp [post]

@[simp] theorem post_cores (c : Chip) (r : ReplyTo) (comp : Bool) (status : Nat) (detail : Word) (payload : List Byte)
    (handle : Nat) (keep : Bool) : (post c r comp status detail payload handle keep).cores = c.cores := by
  simp [post]

@[simp] theorem post_chans (c : Chip) (r : ReplyTo) (comp : Bool) (status : Nat) (detail : Word) (payload : List Byte)
    (handle : Nat) (keep : Bool) : (post c r comp status detail payload handle keep).chans = c.chans := by
  simp [post]

@[simp] theorem post_sys (c : Chip) (r : ReplyTo) (comp : Bool) (status : Nat) (detail : Word) (payload : List Byte)
    (handle : Nat) (keep : Bool) : (post c r comp status detail payload handle keep).sys = c.sys := by
  simp [post]

@[simp] theorem post_tab (c : Chip) (r : ReplyTo) (comp : Bool) (status : Nat) (detail : Word) (payload : List Byte)
    (handle : Nat) (keep : Bool) : (post c r comp status detail payload handle keep).tab = c.tab := by
  simp [post]

@[simp] theorem post_ports (c : Chip) (r : ReplyTo) (comp : Bool) (status : Nat) (detail : Word) (payload : List Byte)
    (handle : Nat) (keep : Bool) : (post c r comp status detail payload handle keep).ports = c.ports := by
  simp [post]

@[simp] theorem post_links (c : Chip) (r : ReplyTo) (comp : Bool) (status : Nat) (detail : Word) (payload : List Byte)
    (handle : Nat) (keep : Bool) : (post c r comp status detail payload handle keep).links = c.links := by
  simp [post]

@[simp] theorem post_drones (c : Chip) (r : ReplyTo) (comp : Bool) (status : Nat) (detail : Word) (payload : List Byte)
    (handle : Nat) (keep : Bool) : (post c r comp status detail payload handle keep).drones = c.drones := by
  simp [post]

@[simp] theorem post_cams (c : Chip) (r : ReplyTo) (comp : Bool) (status : Nat) (detail : Word) (payload : List Byte)
    (handle : Nat) (keep : Bool) : (post c r comp status detail payload handle keep).cams = c.cams := by
  simp [post]

@[simp] theorem post_pegs (c : Chip) (r : ReplyTo) (comp : Bool) (status : Nat) (detail : Word) (payload : List Byte)
    (handle : Nat) (keep : Bool) : (post c r comp status detail payload handle keep).pegs = c.pegs := by
  simp [post]

@[simp] theorem post_islands (c : Chip) (r : ReplyTo) (comp : Bool) (status : Nat) (detail : Word) (payload : List Byte)
    (handle : Nat) (keep : Bool) : (post c r comp status detail payload handle keep).islands = c.islands := by
  simp [post]

@[simp] theorem reply_courses (c : Chip) (r : ReplyTo) (status : Nat) (detail : Word) : (reply c r status detail).courses = c.courses := by
  simp [reply]

@[simp] theorem reply_cores (c : Chip) (r : ReplyTo) (status : Nat) (detail : Word) : (reply c r status detail).cores = c.cores := by
  simp [reply]

@[simp] theorem reply_chans (c : Chip) (r : ReplyTo) (status : Nat) (detail : Word) : (reply c r status detail).chans = c.chans := by
  simp [reply]

@[simp] theorem reply_sys (c : Chip) (r : ReplyTo) (status : Nat) (detail : Word) : (reply c r status detail).sys = c.sys := by
  simp [reply]

@[simp] theorem reply_tab (c : Chip) (r : ReplyTo) (status : Nat) (detail : Word) : (reply c r status detail).tab = c.tab := by
  simp [reply]

@[simp] theorem reply_ports (c : Chip) (r : ReplyTo) (status : Nat) (detail : Word) : (reply c r status detail).ports = c.ports := by
  simp [reply]

@[simp] theorem reply_links (c : Chip) (r : ReplyTo) (status : Nat) (detail : Word) : (reply c r status detail).links = c.links := by
  simp [reply]

@[simp] theorem reply_drones (c : Chip) (r : ReplyTo) (status : Nat) (detail : Word) : (reply c r status detail).drones = c.drones := by
  simp [reply]

@[simp] theorem reply_cams (c : Chip) (r : ReplyTo) (status : Nat) (detail : Word) : (reply c r status detail).cams = c.cams := by
  simp [reply]

@[simp] theorem reply_pegs (c : Chip) (r : ReplyTo) (status : Nat) (detail : Word) : (reply c r status detail).pegs = c.pegs := by
  simp [reply]

@[simp] theorem reply_islands (c : Chip) (r : ReplyTo) (status : Nat) (detail : Word) : (reply c r status detail).islands = c.islands := by
  simp [reply]

@[simp] theorem replyData_courses (c : Chip) (r : ReplyTo) (payload : List Byte) : (replyData c r payload).courses = c.courses := by
  simp [replyData]

@[simp] theorem replyData_cores (c : Chip) (r : ReplyTo) (payload : List Byte) : (replyData c r payload).cores = c.cores := by
  simp [replyData]

@[simp] theorem replyData_chans (c : Chip) (r : ReplyTo) (payload : List Byte) : (replyData c r payload).chans = c.chans := by
  simp [replyData]

@[simp] theorem replyData_sys (c : Chip) (r : ReplyTo) (payload : List Byte) : (replyData c r payload).sys = c.sys := by
  simp [replyData]

@[simp] theorem replyData_tab (c : Chip) (r : ReplyTo) (payload : List Byte) : (replyData c r payload).tab = c.tab := by
  simp [replyData]

@[simp] theorem replyData_ports (c : Chip) (r : ReplyTo) (payload : List Byte) : (replyData c r payload).ports = c.ports := by
  simp [replyData]

@[simp] theorem replyData_links (c : Chip) (r : ReplyTo) (payload : List Byte) : (replyData c r payload).links = c.links := by
  simp [replyData]

@[simp] theorem replyData_drones (c : Chip) (r : ReplyTo) (payload : List Byte) : (replyData c r payload).drones = c.drones := by
  simp [replyData]

@[simp] theorem replyData_cams (c : Chip) (r : ReplyTo) (payload : List Byte) : (replyData c r payload).cams = c.cams := by
  simp [replyData]

@[simp] theorem replyData_pegs (c : Chip) (r : ReplyTo) (payload : List Byte) : (replyData c r payload).pegs = c.pegs := by
  simp [replyData]

@[simp] theorem replyData_islands (c : Chip) (r : ReplyTo) (payload : List Byte) : (replyData c r payload).islands = c.islands := by
  simp [replyData]

@[simp] theorem complete_courses (c : Chip) (r : ReplyTo) (status : Nat) (detail : Word) : (complete c r status detail).courses = c.courses := by
  simp [complete]

@[simp] theorem complete_cores (c : Chip) (r : ReplyTo) (status : Nat) (detail : Word) : (complete c r status detail).cores = c.cores := by
  simp [complete]

@[simp] theorem complete_chans (c : Chip) (r : ReplyTo) (status : Nat) (detail : Word) : (complete c r status detail).chans = c.chans := by
  simp [complete]

@[simp] theorem complete_sys (c : Chip) (r : ReplyTo) (status : Nat) (detail : Word) : (complete c r status detail).sys = c.sys := by
  simp [complete]

@[simp] theorem complete_tab (c : Chip) (r : ReplyTo) (status : Nat) (detail : Word) : (complete c r status detail).tab = c.tab := by
  simp [complete]

@[simp] theorem complete_ports (c : Chip) (r : ReplyTo) (status : Nat) (detail : Word) : (complete c r status detail).ports = c.ports := by
  simp [complete]

@[simp] theorem complete_links (c : Chip) (r : ReplyTo) (status : Nat) (detail : Word) : (complete c r status detail).links = c.links := by
  simp [complete]

@[simp] theorem complete_drones (c : Chip) (r : ReplyTo) (status : Nat) (detail : Word) : (complete c r status detail).drones = c.drones := by
  simp [complete]

@[simp] theorem complete_cams (c : Chip) (r : ReplyTo) (status : Nat) (detail : Word) : (complete c r status detail).cams = c.cams := by
  simp [complete]

@[simp] theorem complete_pegs (c : Chip) (r : ReplyTo) (status : Nat) (detail : Word) : (complete c r status detail).pegs = c.pegs := by
  simp [complete]

@[simp] theorem complete_islands (c : Chip) (r : ReplyTo) (status : Nat) (detail : Word) : (complete c r status detail).islands = c.islands := by
  simp [complete]

@[simp] theorem returnPlace_courses (c : Chip) (p : Pair) : (returnPlace c p).courses = c.courses := by
  unfold returnPlace
  (repeat' split) <;> simp

@[simp] theorem wake_courses (c : Chip) (src slot : Nat) : (wake c src slot).courses = c.courses := by
  simp [wake]

@[simp] theorem wake_cores (c : Chip) (src slot : Nat) : (wake c src slot).cores = c.cores := by
  simp [wake]

@[simp] theorem wake_chans (c : Chip) (src slot : Nat) : (wake c src slot).chans = c.chans := by
  simp [wake]

@[simp] theorem wake_tab (c : Chip) (src slot : Nat) : (wake c src slot).tab = c.tab := by
  simp [wake]

@[simp] theorem wake_ports (c : Chip) (src slot : Nat) : (wake c src slot).ports = c.ports := by
  simp [wake]

@[simp] theorem wake_links (c : Chip) (src slot : Nat) : (wake c src slot).links = c.links := by
  simp [wake]

@[simp] theorem wake_drones (c : Chip) (src slot : Nat) : (wake c src slot).drones = c.drones := by
  simp [wake]

@[simp] theorem wake_cams (c : Chip) (src slot : Nat) : (wake c src slot).cams = c.cams := by
  simp [wake]

@[simp] theorem wake_pegs (c : Chip) (src slot : Nat) : (wake c src slot).pegs = c.pegs := by
  simp [wake]

@[simp] theorem wake_islands (c : Chip) (src slot : Nat) : (wake c src slot).islands = c.islands := by
  simp [wake]

end Sys2Proof.Machine
end

section
/-! PROOFS. The comparison of a pair and its mismatch (R206, R207, R224, R225). -/

namespace Sys2Proof.Machine

open Sys2Proof Sys2Proof.Safety

theorem coreOf_of_cores {c d : Chip} (h : d.cores = c.cores) (j : Nat) : coreOf d j = coreOf c j := by
  unfold coreOf
  rw [h]

theorem courseOf_of_courses {c d : Chip} (h : d.courses = c.courses) (n : Nat) : courseOf d n = courseOf c n := by
  unfold courseOf
  rw [h]

/-- The first pair that is not compared, behind those that are. -/
theorem find_uncompared {pre post : List Pair} {p : Pair} (hpre : ∀ q ∈ pre, q.compared = true) (hp : p.compared = false) :
    (pre ++ p :: post).find? (fun q => !q.compared) = some p := by
  rw [List.find?_append, List.find?_eq_none.2 (fun q hq => by simp [hpre q hq]), Option.none_or,
    List.find?_cons_of_pos (by simp [hp])]

/-- Marking the pair of a number compared leaves the pairs of other numbers. -/
theorem map_compared {pre post : List Pair} {p : Pair} (hp : p.compared = false) (hno : ∀ q ∈ pre ++ post, q.no ≠ p.no) :
    (pre ++ p :: post).map (fun q => if q.no = p.no ∧ q.compared = false then { q with compared := true } else q) =
      pre ++ { p with compared := true } :: post := by
  have hsame (l : List Pair) (h : ∀ q ∈ l, q.no ≠ p.no) :
      l.map (fun q => if q.no = p.no ∧ q.compared = false then { q with compared := true } else q) = l :=
    (List.map_congr_left fun q hq => if_neg fun hh => h q hq hh.1).trans (List.map_id' l)
  rw [List.map_append, List.map_cons, hsame pre fun q hq => hno q (List.mem_append_left _ hq),
    hsame post fun q hq => hno q (List.mem_append_right _ hq), if_pos ⟨rfl, hp⟩]

theorem discardPairs_course (c : Chip) (n : Nat) :
    courseOf (discardPairs c n) n = { courseOf c n with pairs := [], bHalves := [], ckptAt := none } := by
  unfold discardPairs
  rw [courseOf_updCourse_same, courseOf_of_courses (foldl_courses returnPlace_courses _ _)]

theorem endHand_course (c : Chip) (n : Nat) :
    ∃ a m, courseOf (endHand c n) n = { courseOf c n with hand := none, locked := a, mode := m } := by
  unfold endHand
  split
  next h => exact ⟨_, _, by rw [← h]⟩
  next h => exact ⟨_, _, by rw [courseOf_of_courses (complete_courses _ _ _ _), courseOf_updCourse_same]⟩

/-- A mismatch discards every entry and begins the check, with its cause and, of a comparison, its entry (R207, R224). -/
theorem mismatch_course (c : Chip) (n mcause entry : Nat) : ∃ a m, courseOf (mismatch c n mcause entry) n = { courseOf c n with
    pairs := [], bHalves := [], ckptAt := none, check := 1, mcause := mcause, entry := if mcause = 1 then entry else 0,
    verdict := 0, hand := none, locked := a, mode := m } := by
  unfold mismatch
  extract_lets c1 c2 c3 c4 c5
  obtain ⟨a, m, h⟩ := endHand_course c5 n
  have h2 : courseOf c2 n = courseOf c n := courseOf_of_courses (withdrawAll_courses _ _) n
  have h3 : courseOf c3 n = { courseOf c n with pairs := [], bHalves := [], ckptAt := none } := by
    simp only [c3, discardPairs_course, courseOf_of_courses (withdrawWait_courses _ _), h2]
  have h4 : courseOf c4 n = courseOf c3 n := courseOf_updCore ..
  exact ⟨a, m, by rw [h, courseOf_updCourse_same, h4, h3]⟩

/-- Settles O37: by whether the halves are equal. -/
theorem halvesCompared : Obligations.HalvesCompared := by
  unfold Obligations.HalvesCompared
  intro c n e p pre post _ hpairs hpre hp hno
  have hfind : (courseOf c n).pairs.find? (fun q => !q.compared) = some p := by rw [hpairs, find_uncompared hpre hp]
  refine ⟨fun heq hout => ?_, fun hne => ?_⟩
  · have hd : compareB c n e = updCourse c n (fun r => { r with
        pairs := r.pairs.map (fun q => if q.no = p.no ∧ q.compared = false then { q with compared := true } else q) }) := by
      unfold compareB
      simp only [hfind, heq, hout, Bool.not_true, Bool.false_eq_true, if_false, if_true]
    dsimp only
    rw [hd]
    refine ⟨?_, rfl, fun _ => rfl, fun m hm => courseOf_updCourse_other _ _ hm⟩
    rw [courseOf_updCourse_same, hpairs, map_compared hp hno]
  · have hd : compareB c n e = mismatch c n 1 p.no := by
      unfold compareB
      simp only [hfind, hne, Bool.not_false, if_true]
    obtain ⟨a, m, h⟩ := mismatch_course c n 1 p.no
    dsimp only
    rw [hd, h]
    exact ⟨rfl, rfl, rfl, rfl, rfl, mismatch_mem c n 1 p.no⟩

end Sys2Proof.Machine
end

section
/-! PROOFS. What the steps of a fatal error and of a resumption leave of the device, field by field. -/

namespace Sys2Proof.Machine

open Sys2Proof Sys2Proof.Safety

@[simp] theorem noteCorrected_cores (c : Chip) (ga : Nat) : (noteCorrected c ga).cores = c.cores := by
  simp -implicitDefEqProofs [noteCorrected]

@[simp] theorem noteCorrected_courses (c : Chip) (ga : Nat) : (noteCorrected c ga).courses = c.courses := by
  simp -implicitDefEqProofs [noteCorrected]

@[simp] theorem noteUncorrectable_cores (c : Chip) (ga src core : Nat) : (noteUncorrectable c ga src core).cores = c.cores := by
  simp [noteUncorrectable]

@[simp] theorem noteUncorrectable_courses (c : Chip) (ga src core : Nat) : (noteUncorrectable c ga src core).courses = c.courses := by
  simp [noteUncorrectable]

@[simp] theorem readWord_cores (c : Chip) (ga src core : Nat) : (readWord c ga src core).1.cores = c.cores := by
  simp [readWord]

@[simp] theorem readWord_courses (c : Chip) (ga src core : Nat) : (readWord c ga src core).1.courses = c.courses := by
  simp [readWord]

@[simp] theorem csrPut_courses (c : Chip) (k i : Nat) (w : Word) : (csrPut c k i w).courses = c.courses := by
  simp [csrPut]

@[simp] theorem csrPut_accepted (c : Chip) (k i : Nat) (w : Word) : (csrPut c k i w).accepted = c.accepted := by
  simp [csrPut]

@[simp] theorem csrPut_links (c : Chip) (k i : Nat) (w : Word) : (csrPut c k i w).links = c.links := by
  simp [csrPut]

@[simp] theorem withdrawAll_accepted (c : Chip) (e : Nat) : (withdrawAll c e).accepted = c.accepted := by
  simp [withdrawAll]

@[simp] theorem dropResv_accepted (c : Chip) (k : Nat) : (dropResv c k).accepted = c.accepted := by
  simp [dropResv]

@[simp] theorem haltCore_accepted (c : Chip) (k : Nat) : (haltCore c k).accepted = c.accepted := by
  simp [haltCore]

@[simp] theorem chPopRaw_cores (c : Chip) (s : Nat) : (chPopRaw c s).1.cores = c.cores := by
  unfold chPopRaw
  dsimp only
  (repeat' split) <;> simp

@[simp] theorem chPopRaw_courses (c : Chip) (s : Nat) : (chPopRaw c s).1.courses = c.courses := by
  unfold chPopRaw
  dsimp only
  (repeat' split) <;> simp

@[simp] theorem chTake_cores (c : Chip) (s : Nat) : (chTake c s).1.cores = c.cores := by
  simp [chTake]

@[simp] theorem chTake_courses (c : Chip) (s : Nat) : (chTake c s).1.courses = c.courses := by
  simp [chTake]

@[simp] theorem chTakeN_cores (c : Chip) (s n : Nat) : (chTakeN c s n).1.cores = c.cores := by
  induction n generalizing c with
  | zero => rfl
  | succ n ih => exact (ih _).trans (chTake_cores c s)

@[simp] theorem chTakeN_courses (c : Chip) (s n : Nat) : (chTakeN c s n).1.courses = c.courses := by
  induction n generalizing c with
  | zero => rfl
  | succ n ih => exact (ih _).trans (chTake_courses c s)

@[simp] theorem msixRequest_cores (c : Chip) (v : Nat) : (msixRequest c v).cores = c.cores := by
  simp [msixRequest]

@[simp] theorem msixRequest_courses (c : Chip) (v : Nat) : (msixRequest c v).courses = c.courses := by
  simp [msixRequest]

@[simp] theorem msixRequest_accepted (c : Chip) (v : Nat) : (msixRequest c v).accepted = c.accepted := by
  simp [msixRequest]

@[simp] theorem hostDeliver_cores (c : Chip) (s : Nat) : (hostDeliver c s).cores = c.cores := by
  simp [hostDeliver]

@[simp] theorem hostDeliver_courses (c : Chip) (s : Nat) : (hostDeliver c s).courses = c.courses := by
  simp [hostDeliver]

@[simp] theorem hostDeliver_accepted (c : Chip) (s : Nat) : (hostDeliver c s).accepted = c.accepted := by
  simp [hostDeliver]

@[simp] theorem becomePending_cores (c : Chip) (s : Nat) : (becomePending c s).cores = c.cores := by
  simp [becomePending]

@[simp] theorem becomePending_courses (c : Chip) (s : Nat) : (becomePending c s).courses = c.courses := by
  simp [becomePending]

@[simp] theorem becomePending_accepted (c : Chip) (s : Nat) : (becomePending c s).accepted = c.accepted := by
  simp [becomePending]

@[simp] theorem becomeIdle_cores (c : Chip) (s : Nat) : (becomeIdle c s).cores = c.cores := by
  simp [becomeIdle]

@[simp] theorem becomeIdle_courses (c : Chip) (s : Nat) : (becomeIdle c s).courses = c.courses := by
  simp [becomeIdle]

@[simp] theorem becomeIdle_accepted (c : Chip) (s : Nat) : (becomeIdle c s).accepted = c.accepted := by
  simp [becomeIdle]

@[simp] theorem completeSrc_cores (c : Chip) (s : Nat) : (completeSrc c s).cores = c.cores := by
  simp [completeSrc]

@[simp] theorem completeSrc_courses (c : Chip) (s : Nat) : (completeSrc c s).courses = c.courses := by
  simp [completeSrc]

@[simp] theorem completeSrc_accepted (c : Chip) (s : Nat) : (completeSrc c s).accepted = c.accepted := by
  simp [completeSrc]

@[simp] theorem updStream_cores (c : Chip) (p k : Nat) (f : Stream → Stream) : (updStream c p k f).cores = c.cores := by
  simp [updStream]

@[simp] theorem updStream_courses (c : Chip) (p k : Nat) (f : Stream → Stream) : (updStream c p k f).courses = c.courses := by
  simp [updStream]

@[simp] theorem noteDone_cores (c : Chip) (lane job : Nat) : (noteDone c lane job).cores = c.cores := by
  simp [noteDone]

@[simp] theorem noteDone_courses (c : Chip) (lane job : Nat) : (noteDone c lane job).courses = c.courses := by
  simp [noteDone]

@[simp] theorem popWords_cores (c : Chip) (s n : Nat) : (popWords c s n).1.cores = c.cores := by
  induction n generalizing c with
  | zero => rfl
  | succ n ih => exact (ih _).trans (chPopRaw_cores c s)

@[simp] theorem popWords_courses (c : Chip) (s n : Nat) : (popWords c s n).1.courses = c.courses := by
  induction n generalizing c with
  | zero => rfl
  | succ n ih => exact (ih _).trans (chPopRaw_courses c s)

@[simp] theorem takeGap_cores (c : Chip) (s : Nat) : (takeGap c s).1.cores = c.cores := by
  simp [takeGap]

@[simp] theorem takeGap_courses (c : Chip) (s : Nat) : (takeGap c s).1.courses = c.courses := by
  simp [takeGap]

@[simp] theorem releaseFrame_cores (c : Chip) (p k s : Nat) : (releaseFrame c p k s).cores = c.cores := by
  unfold releaseFrame
  split <;> simp

@[simp] theorem releaseFrame_courses (c : Chip) (p k s : Nat) : (releaseFrame c p k s).courses = c.courses := by
  unfold releaseFrame
  split <;> simp

@[simp] theorem takeBank_cores (c : Chip) (p k s : Nat) : (takeBank c p k s).cores = c.cores := by
  unfold takeBank
  split <;> simp

@[simp] theorem takeBank_courses (c : Chip) (p k s : Nat) : (takeBank c p k s).courses = c.courses := by
  unfold takeBank
  split <;> simp

@[simp] theorem takeBanks_cores (c : Chip) (p k s n : Nat) : (takeBanks c p k s n).cores = c.cores := by
  induction n generalizing c with
  | zero => rfl
  | succ n ih =>
    rw [takeBanks]
    split
    · rfl
    · split
      · rfl
      · exact (ih _).trans (takeBank_cores c p k s)

@[simp] theorem takeBanks_courses (c : Chip) (p k s n : Nat) : (takeBanks c p k s n).courses = c.courses := by
  induction n generalizing c with
  | zero => rfl
  | succ n ih =>
    rw [takeBanks]
    split
    · rfl
    · split
      · rfl
      · exact (ih _).trans (takeBank_courses c p k s)

@[simp] theorem closeBank_cores (c : Chip) (p s : Nat) (slot : Option Nat) (lane job : Nat) :
    (closeBank c p s slot lane job).1.cores = c.cores := by
  unfold closeBank
  split <;> simp

@[simp] theorem closeBank_courses (c : Chip) (p s : Nat) (slot : Option Nat) (lane job : Nat) :
    (closeBank c p s slot lane job).1.courses = c.courses := by
  unfold closeBank
  split <;> simp

@[simp] theorem setDev_cores (c : Chip) (new : DevState) (cause : Nat) : (setDev c new cause).cores = c.cores := by
  unfold setDev
  dsimp only
  (repeat' split) <;> simp

@[simp] theorem setDev_courses (c : Chip) (new : DevState) (cause : Nat) : (setDev c new cause).courses = c.courses := by
  unfold setDev
  dsimp only
  (repeat' split) <;> simp

@[simp] theorem setBank_cores (c : Chip) (b n : Nat) : (setBank c b n).cores = c.cores := by
  simp [setBank]

@[simp] theorem setBank_courses (c : Chip) (b n : Nat) : (setBank c b n).courses = c.courses := by
  simp [setBank]

@[simp] theorem dropShadows_cores (c : Chip) (mask : Nat) : (dropShadows c mask).cores = c.cores := by
  unfold dropShadows
  apply foldl_cores
  intro d a
  rfl

@[simp] theorem dropShadows_courses (c : Chip) (mask : Nat) : (dropShadows c mask).courses = c.courses := by
  unfold dropShadows
  apply foldl_courses
  intro d a
  rfl

@[simp] theorem endArm_cores (c : Chip) (detail : Nat) : (endArm c detail).cores = c.cores := by
  unfold endArm
  split <;> simp

@[simp] theorem endArm_courses (c : Chip) (detail : Nat) : (endArm c detail).courses = c.courses := by
  unfold endArm
  split <;> simp

@[simp] theorem drainStart_cores (c : Chip) (d : Detach) : (drainStart c d).cores = c.cores := by
  simp [drainStart]

@[simp] theorem drainStart_courses (c : Chip) (d : Detach) : (drainStart c d).courses = c.courses := by
  simp [drainStart]

@[simp] theorem tabStop_cores (c : Chip) : (tabStop c).cores = c.cores := by
  unfold tabStop
  dsimp only
  split <;> simp

@[simp] theorem tabStop_courses (c : Chip) : (tabStop c).courses = c.courses := by
  unfold tabStop
  dsimp only
  split <;> simp

@[simp] theorem linkDown_cores (c : Chip) (p : Nat) : (linkDown c p).cores = c.cores := by
  simp [linkDown]

@[simp] theorem linkDown_courses (c : Chip) (p : Nat) : (linkDown c p).courses = c.courses := by
  simp [linkDown]

@[simp] theorem drivesOff_cores (c : Chip) (p : Nat) : (drivesOff c p).cores = c.cores := by
  simp [drivesOff]

@[simp] theorem drivesOff_courses (c : Chip) (p : Nat) : (drivesOff c p).courses = c.courses := by
  simp [drivesOff]

@[simp] theorem safeHold_cores (c : Chip) (course p : Nat) : (safeHold c course p).cores = c.cores := by
  simp [safeHold]

@[simp] theorem safeHold_courses (c : Chip) (course p : Nat) : (safeHold c course p).courses = c.courses := by
  simp [safeHold]

@[simp] theorem safePorts_cores (c : Chip) (n : Nat) : (safePorts c n).cores = c.cores := by
  simp [safePorts]

@[simp] theorem safePorts_courses (c : Chip) (n : Nat) : (safePorts c n).courses = c.courses := by
  simp [safePorts]

@[simp] theorem dropDrive_cores (c : Chip) (p : Nat) : (dropDrive c p).cores = c.cores := by
  simp [dropDrive]

@[simp] theorem dropDrive_courses (c : Chip) (p : Nat) : (dropDrive c p).courses = c.courses := by
  simp [dropDrive]

@[simp] theorem dropAllDrives_cores (c : Chip) : (dropAllDrives c).cores = c.cores := by
  simp [dropAllDrives]

@[simp] theorem dropAllDrives_courses (c : Chip) : (dropAllDrives c).courses = c.courses := by
  simp [dropAllDrives]

@[simp] theorem failAccepted_cores (c : Chip) : (failAccepted c).cores = c.cores := by
  simp [failAccepted]

@[simp] theorem failAccepted_courses (c : Chip) : (failAccepted c).courses = c.courses := by
  simp [failAccepted]

@[simp] theorem fatalRecord_cores (c : Chip) (cause : Nat) (detail : Word) : (fatalRecord c cause detail).cores = c.cores := by
  simp [fatalRecord]

@[simp] theorem fatalRecord_courses (c : Chip) (cause : Nat) (detail : Word) : (fatalRecord c cause detail).courses = c.courses := by
  simp [fatalRecord]

@[simp] theorem copyToB_courses (c : Chip) (n : Nat) : (copyToB c n).courses = c.courses := by
  simp [copyToB]

@[simp] theorem copyToB_accepted (c : Chip) (n : Nat) : (copyToB c n).accepted = c.accepted := by
  simp [copyToB]

@[simp] theorem copyToB_links (c : Chip) (n : Nat) : (copyToB c n).links = c.links := by
  simp [copyToB]

@[simp] theorem restoreSnap_courses (c : Chip) (n : Nat) : (restoreSnap c n).courses = c.courses := by
  unfold restoreSnap
  split <;> simp -implicitDefEqProofs

@[simp] theorem returnPlace_cores (c : Chip) (p : Pair) : (returnPlace c p).cores = c.cores := by
  unfold returnPlace
  (repeat' split) <;> simp

@[simp] theorem discardPairs_cores (c : Chip) (n : Nat) : (discardPairs c n).cores = c.cores := by
  simp [discardPairs]

@[simp] theorem endHand_cores (c : Chip) (n : Nat) : (endHand c n).cores = c.cores := by
  unfold endHand
  split <;> simp

end Sys2Proof.Machine
end

section
/-! PROOFS. Courses halted, judged and handed over (R30, R182, R224 to R237, R242). -/

namespace Sys2Proof.Machine

open Sys2Proof Sys2Proof.Safety

/-! ### Commands of a unit, and commands of the device -/

theorem leaves_of_onUnit {s : State} {i : Instr} {ok : Bool} {f : Chip → Chip} {P : Chip → Prop}
    (hi : exec i s = onUnit ok s f) (hok : ok = true) (hP : P (f s.chip)) : leaves i s P :=
  ⟨{ s with chip := f s.chip }, by rw [hi, hok, onUnit_true], rfl, hP⟩

theorem leaves_of_onChip {s : State} {i : Instr} {f : Chip → Chip} {P : Chip → Prop}
    (hi : exec i s = onChip s f) (hP : P (f s.chip)) : leaves i s P :=
  ⟨{ s with chip := f s.chip }, hi, rfl, hP⟩

/-- A completion takes the command off those that owe one. -/
theorem complete_accepted (c : Chip) (r : ReplyTo) (status : Nat) (detail : Word) :
    (complete c r status detail).accepted = c.accepted.erase r := by
  unfold complete
  split
  · rfl
  next h => exact (List.erase_of_not_mem h).symm

/-! ### Strings halted -/

/-- What halting strings and stopping courses leaves of the device: a halted string stays halted, a course loses what it held and
keeps everything else. -/
structure Halting (c d : Chip) : Prop where
  course : ∀ n, ∃ p b a x l m h, courseOf d n = { courseOf c n with
    pairs := p, bHalves := b, ckptAt := a, discarded := x, locked := l, mode := m, hand := h }
  pairs : ∀ n, (courseOf c n).pairs = [] → (courseOf d n).pairs = []
  core : ∀ k, (coreOf c k).halted = true → (coreOf d k).halted = true

theorem halting_refl (c : Chip) : Halting c c := ⟨fun _ => ⟨_, _, _, _, _, _, _, rfl⟩, fun _ h => h, fun _ h => h⟩

theorem halting_trans {c d e : Chip} (h : Halting c d) (h' : Halting d e) : Halting c e := by
  refine ⟨fun n => ?_, fun n hn => h'.pairs n (h.pairs n hn), fun k hk => h'.core k (h.core k hk)⟩
  obtain ⟨_, _, _, _, _, _, _, hd⟩ := h.course n
  obtain ⟨_, _, _, _, _, _, _, he⟩ := h'.course n
  exact ⟨_, _, _, _, _, _, _, by rw [he, hd]⟩

theorem halting_of_eq {c d : Chip} (hc : d.cores = c.cores) (hr : d.courses = c.courses) : Halting c d :=
  ⟨fun n => ⟨_, _, _, _, _, _, _, courseOf_of_courses hr n⟩, fun n h => by rw [courseOf_of_courses hr]; exact h,
    fun k h => by rw [coreOf_of_cores hc]; exact h⟩

theorem halting_foldl {α : Type} {f : Chip → α → Chip} (hf : ∀ c a, Halting c (f c a)) (l : List α) (c : Chip) :
    Halting c (l.foldl f c) := by
  induction l generalizing c with
  | nil => exact halting_refl c
  | cons a l ih => exact halting_trans (hf c a) (ih (f c a))

theorem haltCore_halted (c : Chip) (k j : Nat) :
    (coreOf (haltCore c k) j).halted = (decide (j = k) || (coreOf c j).halted) := by
  obtain ⟨-, hk, ho⟩ := haltCore_only c k
  by_cases h : j = k
  · simp [h, hk]
  · simp [h, ho j h]

/-- A course stopped: both strings are halted, and it holds no pair. -/
theorem stopCourse_halted (c : Chip) (n j : Nat) :
    (coreOf (stopCourse c n) j).halted = (decide (j = 2 * n + 1) || (decide (j = 2 * n) || (coreOf c j).halted)) := by
  unfold stopCourse
  rw [coreOf_of_cores (discardPairs_cores _ _), haltCore_halted, haltCore_halted]

theorem stopCourse_course (c : Chip) (n : Nat) :
    courseOf (stopCourse c n) n = { courseOf c n with pairs := [], bHalves := [], ckptAt := none } := by
  rw [stopCourse, discardPairs_course, courseOf_of_courses (haltCore_courses _ _), courseOf_of_courses (haltCore_courses _ _)]

theorem stopCourse_course_other (c : Chip) {n m : Nat} (h : m ≠ n) : courseOf (stopCourse c n) m = courseOf c m := by
  unfold stopCourse discardPairs
  rw [courseOf_updCourse_other _ _ h, courseOf_of_courses (foldl_courses returnPlace_courses _ _),
    courseOf_of_courses (haltCore_courses _ _), courseOf_of_courses (haltCore_courses _ _)]

theorem halting_fatalHalt (c : Chip) (n : Nat) : Halting c (fatalHalt c n) := by
  unfold fatalHalt
  extract_lets held
  refine ⟨fun m => ?_, fun m hm => ?_, fun k hk => ?_⟩
  · by_cases h : m = n
    · subst h
      exact ⟨_, _, _, _, _, _, _, by rw [courseOf_updCourse_same, stopCourse_course]⟩
    · exact ⟨_, _, _, _, _, _, _, by rw [courseOf_updCourse_other _ _ h, stopCourse_course_other c h]⟩
  · by_cases h : m = n
    · subst h
      rw [courseOf_updCourse_same, stopCourse_course]
    · rw [courseOf_updCourse_other _ _ h, stopCourse_course_other c h, hm]
  · rw [coreOf_updCourse, stopCourse_halted, hk]
    simp

/-- A fatal error halts strings and takes nothing else of the courses. -/
theorem halting_fatal (c : Chip) (cause : Nat) (detail : Word) : Halting c (fatal c cause detail) := by
  unfold fatal
  split
  · exact halting_refl c
  split
  · exact halting_of_eq rfl rfl
  extract_lets s0 c2 c3 s3 c4 c5
  have h3 : Halting c2 c3 :=
    halting_of_eq ((setDev_cores ..).trans (fatalRecord_cores ..)) ((setDev_courses ..).trans (fatalRecord_courses ..))
  have h2 : Halting c c2 := halting_of_eq rfl rfl
  have h4 : Halting c3 c4 := halting_of_eq rfl rfl
  have hstop : Halting c4 (fatalStop c4) := by
    unfold fatalStop
    extract_lets e
    exact halting_trans (halting_of_eq (by simp [e]) (by simp [e])) (halting_foldl halting_fatalHalt _ e)
  have h5 : Halting c4 c5 := halting_trans hstop (halting_of_eq (failAccepted_cores _) (failAccepted_courses _))
  exact halting_trans (halting_trans h2 (halting_trans h3 h4)) (halting_trans h5 (halting_of_eq ((regOr_cores ..).trans (regClr_cores ..))
    ((regOr_courses ..).trans (regClr_courses ..))))

/-- A course enters its safe state: both strings are halted, no pair is held, and its record stays. -/
theorem enterSafe_course (c : Chip) {n : Nat} (hn : n < 256) :
    (courseOf (enterSafe c n) n).safe = true ∧ (courseOf (enterSafe c n) n).pairs = [] ∧
      (courseOf (enterSafe c n) n).verdict = (courseOf c n).verdict ∧ (courseOf (enterSafe c n) n).mcause = (courseOf c n).mcause ∧
      (courseOf (enterSafe c n) n).tflt = (courseOf c n).tflt ∧ (coreOf (enterSafe c n) (2 * n)).halted = true ∧
      (coreOf (enterSafe c n) (2 * n + 1)).halted = true := by
  have key : ∃ d, (∃ a m, courseOf d n = { courseOf c n with
      pairs := [], bHalves := [], ckptAt := none, hand := none, locked := a, mode := m, safe := true, check := 0, replaying := false }) ∧
      (∀ j, (coreOf d j).halted = (decide (j = 2 * n + 1) || (decide (j = 2 * n) || (coreOf c j).halted))) ∧
      Halting d (enterSafe c n) := by
    unfold enterSafe
    rw [if_neg (by unfold luthierCourse; omega)]
    extract_lets r c1 c2
    refine ⟨c1, ?_, fun j => ?_, ?_⟩
    · obtain ⟨a, m, he⟩ := endHand_course (stopCourse c n) n
      exact ⟨a, m, (courseOf_updCourse_same ..).trans (by rw [he, stopCourse_course])⟩
    · rw [← stopCourse_halted, coreOf_updCourse, coreOf_of_cores (endHand_cores _ _)]
    · have h2 : Halting c1 c2 := halting_of_eq (safePorts_cores _ _) (safePorts_courses _ _)
      split
      · exact halting_trans h2 (halting_fatal c2 7 (wd n))
      · exact h2
  obtain ⟨d, ⟨a, m, hd⟩, hhalt, hH⟩ := key
  obtain ⟨p, b, q, x, l, y, h, he⟩ := hH.course n
  refine ⟨?_, hH.pairs n (by rw [hd]), ?_, ?_, ?_, hH.core _ (by rw [hhalt]; simp), hH.core _ (by rw [hhalt]; simp)⟩ <;>
    rw [he, hd]

end Sys2Proof.Machine
end

section
/-! PROOFS. What hand-overs leave of the device, field by field. -/

namespace Sys2Proof.Machine

open Sys2Proof Sys2Proof.Safety

@[simp] theorem pulse_accepted (c : Chip) (s : Nat) : (pulse c s).accepted = c.accepted := by
  simp [pulse]

@[simp] theorem completeHeld_accepted (c : Chip) (e : Nat) : (completeHeld c e).accepted = c.accepted := by
  simp [completeHeld]

@[simp] theorem completeHeld_courses (c : Chip) (e : Nat) : (completeHeld c e).courses = c.courses := by
  simp [completeHeld]

@[simp] theorem completeHeld_cores (c : Chip) (e : Nat) : (completeHeld c e).cores = c.cores := by
  simp [completeHeld]

@[simp] theorem tunerPulse_accepted (c : Chip) (n : Nat) : (tunerPulse c n).accepted = c.accepted := by
  simp [tunerPulse]

@[simp] theorem tunerPulse_courses (c : Chip) (n : Nat) : (tunerPulse c n).courses = c.courses := by
  simp [tunerPulse]

@[simp] theorem tunerPulse_cores (c : Chip) (n : Nat) : (tunerPulse c n).cores = c.cores := by
  simp [tunerPulse]

@[simp] theorem haltString_courses (c : Chip) (k : Nat) : (haltString c k).courses = c.courses := by
  simp [haltString]

end Sys2Proof.Machine
end

section
/-! PROOFS. Events of a course and its tuner: skew, hand-overs, the tuner test, CO.CTL, halts through the peg (R30, R182, R220,
R224, R232 to R237, R242). -/

namespace Sys2Proof.Machine

open Sys2Proof Sys2Proof.Safety

/-! ### Skew -/

/-- Course 0 in unison, string A at its checkpoint and string B behind it, at a load of a word of which its own store, compared and
not yet released, gives one byte. -/
def loadBehindStore : Chip :=
  { cores := [(0, { words := 1 }),
              (1, { halted := false, started := true, stk := [0x100],
                    lines := [⟨0, [(encodeWord (.ldr 0 2 false)).1, 0, 0, 0, 0, 0, 0, 0]⟩] })],
    courses := [(0, { mode := 1, ckptAt := some 1, pairs := [⟨⟨0, 0x100, 1, 0, 0, 0, 0, 0, true, false⟩, true, 0⟩] })],
    pegs := [(0, ⟨.on, false⟩), (1, ⟨.on, false⟩)] }

theorem exec_skewTimeout (n : Nat) (s : State) :
    exec (.skewTimeout n) s = onUnit (isCourse n) s (fun c => xSkewTimeout c n) := rfl

/-- Refutes O40: the statement's first clause has no hypothesis on what string B's next word waits for. A load that one of its own
stores covers in part waits until the store is released, so string B is not stuck, and no mismatch is found. -/
theorem not_verdicts : ¬ Obligations.Verdicts := by
  unfold Obligations.Verdicts
  intro h
  obtain ⟨hskew, -⟩ := h { chip := loadBehindStore, pending := [] } 0 (by decide)
  obtain ⟨t, ht, -, hcheck, -⟩ := hskew (by decide) (by decide) (by decide) (by decide) (by decide) (by decide) (by decide) (by decide)
  have hnone : (courseOf (xSkewTimeout loadBehindStore 0) 0).check = 0 := by decide
  rw [exec_skewTimeout, show isCourse 0 = true from rfl, onUnit_true] at ht
  cases ht
  exact absurd (hcheck.symm.trans hnone) (by decide)

/-! ### Hand-overs -/

theorem exec_handoverQuiesced (n : Nat) (s : State) :
    exec (.handoverQuiesced n) s = onUnit (isCourse n) s (fun c => xHandoverQuiesced c n) := rfl

theorem exec_handoverTimeout (n : Nat) (s : State) :
    exec (.handoverTimeout n) s = onUnit (isCourse n) s (fun c => xHandoverTimeout c n) := rfl

theorem exec_tunerTestDone (n : Nat) (a b : Bool) (x : Nat) (s : State) :
    exec (.tunerTestDone n a b x) s = onUnit (isCourse n && isFlaw x) s (fun c => xTunerTestDone c n a b x) := rfl

theorem exec_coCtlWrite (n : Nat) (w : Word) (s : State) :
    exec (.coCtlWrite n w) s = onUnit (isCourse n) s (fun c => xCoCtlWrite c n w) := rfl

theorem isCourse_of_lt {n : Nat} (h : n < 256) : isCourse n = true := by
  simp [isCourse]
  omega

theorem csrPuts_core (l : List Nat) (v : Nat → Word) (c : Chip) (k : Nat) :
    OneCore c (l.foldl (fun c i => csrPut c k i (v i)) c) k ∧
      ∃ cs, coreOf (l.foldl (fun c i => csrPut c k i (v i)) c) k = { coreOf c k with csr := cs } := by
  induction l generalizing c with
  | nil => exact ⟨oneCore_refl c k, _, rfl⟩
  | cons i l ih =>
    obtain ⟨hO, cs, h⟩ := ih (csrPut c k i (v i))
    exact ⟨oneCore_trans (oneCore_csrPut c k i (v i)) hO, cs, by rw [List.foldl_cons, h, coreOf_csrPut_same]⟩

/-- String B made string A's equal: its stack, its position and all else but what halts it (R234). -/
theorem copyToB_core (c : Chip) (n : Nat) : OneCore c (copyToB c n) (2 * n + 1) ∧
    ∃ cs, coreOf (copyToB c n) (2 * n + 1) = { snapOf (coreOf c (2 * n)) with
      csr := cs, halted := (coreOf c (2 * n + 1)).halted, dhalt := (coreOf c (2 * n + 1)).dhalt,
      haltReq := (coreOf c (2 * n + 1)).haltReq, started := (coreOf c (2 * n + 1)).started, mskPend := false } := by
  unfold copyToB
  extract_lets a b c1
  obtain ⟨hO, cs, h⟩ := csrPuts_core archCsrs (fun i => csrVal c1 (2 * n) i) c1 (2 * n + 1)
  have h1 : OneCore c c1 (2 * n + 1) := oneCore_updCore c (2 * n + 1) _
  refine ⟨oneCore_trans h1 hO, cs, h.trans ?_⟩
  rw [coreOf_updCore_same]

/-- What is withdrawn from a string leaves where it stands. -/
theorem withdrawWait_stands (c : Chip) (k j : Nat) :
    (coreOf (withdrawWait c k) j).stk = (coreOf c j).stk ∧ (coreOf (withdrawWait c k) j).pc = (coreOf c j).pc := by
  obtain ⟨-, hk, ho⟩ := withdrawWait_only c k
  by_cases h : j = k
  · rw [h, hk]
    exact ⟨rfl, rfl⟩
  · rw [ho j h]
    exact ⟨rfl, rfl⟩

theorem dropResv_stands (c : Chip) (k j : Nat) :
    (coreOf (dropResv c k) j).stk = (coreOf c j).stk ∧ (coreOf (dropResv c k) j).pc = (coreOf c j).pc := by
  unfold dropResv
  by_cases h : j = k
  · rw [h, coreOf_updCore_same]
    exact ⟨rfl, rfl⟩
  · rw [coreOf_updCore_other _ _ h]
    exact ⟨rfl, rfl⟩

/-- A hand-over to unison whose strings are quiet ends with the course in unison, string B as string A (R234). -/
theorem xHandoverQuiesced_done {c : Chip} {n : Nat} {h : Hand} (hh : toUnisonNow c n = some h) (ha : quiesced c (2 * n) = true)
    (hb : quiesced c (2 * n + 1) = true) :
    let t := xHandoverQuiesced c n
    (courseOf t n).mode = 1 ∧ (courseOf t n).hand = none ∧ (courseOf t n).snap.isSome = true ∧
      (coreOf t (2 * n + 1)).stk = (coreOf c (2 * n)).stk ∧ (coreOf t (2 * n + 1)).pc = (coreOf c (2 * n)).pc ∧
      (coreOf t (2 * n)).words = 0 ∧ t.accepted = c.accepted.erase h.reply := by
  have hne : 2 * n ≠ 2 * n + 1 := by omega
  unfold xHandoverQuiesced
  simp -implicitDefEqProofs only [hh, ha, hb, Bool.and_self, if_true]
  generalize hc1 : dropResv (dropResv (withdrawWait (withdrawWait c (2 * n)) (2 * n + 1)) (2 * n)) (2 * n + 1) = c1
  have hstands : (coreOf c1 (2 * n)).stk = (coreOf c (2 * n)).stk ∧ (coreOf c1 (2 * n)).pc = (coreOf c (2 * n)).pc := by
    simp -implicitDefEqProofs only [← hc1, dropResv_stands, withdrawWait_stands, and_self]
  have hacc : c1.accepted = c.accepted := by simp -implicitDefEqProofs [← hc1]
  generalize hc2 : completeHeld (withdrawAll c1 (2 * n + 1)) (2 * n + 1) = c2
  have hcore2 (j : Nat) : coreOf c2 j = coreOf c1 j := by
    rw [← hc2, coreOf_of_cores (completeHeld_cores _ _), coreOf_of_cores (withdrawAll_cores _ _)]
  have hacc2 : c2.accepted = c.accepted := by simp -implicitDefEqProofs [← hc2, hacc]
  generalize hc3 : updCore c2 (2 * n) (fun r => { r with words := 0, traps := 0, lines := [], ownCkpt := 0 }) = c3
  have hcore3 : coreOf c3 (2 * n) = { coreOf c1 (2 * n) with words := 0, traps := 0, lines := [], ownCkpt := 0 } := by
    rw [← hc3, coreOf_updCore_same, hcore2]
  obtain ⟨hO, cs, hcopy⟩ := copyToB_core c3 n
  generalize hc4 : copyToB c3 n = c4 at hO hcopy
  have hacc4 : c4.accepted = c.accepted := by rw [← hc4, copyToB_accepted, ← hc3, updCore_accepted, hacc2]
  simp -implicitDefEqProofs only [courseOf_of_courses (tunerPulse_courses _ _), courseOf_of_courses (complete_courses _ _ _ _), courseOf_updCourse_same,
    coreOf_of_cores (tunerPulse_cores _ _), coreOf_of_cores (complete_cores _ _ _ _), coreOf_updCourse, coreOf_updCore_same,
    tunerPulse_accepted, complete_accepted, updCourse_accepted, updCore_accepted, hacc4, coreOf_updCore_other _ _ hne,
    hO.2 _ hne, hcopy, hcore3, snapOf, hstands, Option.isSome_some, and_self]

/-- Settles O41: hand-overs, the tuner test and CO.CTL, each by its own effect. -/
theorem courseEvents : Obligations.CourseEvents := by
  unfold Obligations.CourseEvents
  intro s n hn r
  have hunit := isCourse_of_lt hn
  refine ⟨fun h hh hto => ?_, fun q a b x hq hx => ?_, fun w hper => ⟨fun hu => ?_, fun hu hon => ?_⟩⟩
  · have hnow : toUnisonNow s.chip n = some h := by
      change Option.filter _ r.hand = some h
      rw [hh, Option.filter_some, if_pos hto]
    refine ⟨fun ha hb => ?_, ?_⟩
    · exact leaves_of_onUnit (exec_handoverQuiesced n s) hunit (xHandoverQuiesced_done hnow ha hb)
    · refine leaves_of_onUnit (exec_handoverTimeout n s) hunit ?_
      simp only [xHandoverTimeout, hnow, courseOf_of_courses (complete_courses _ _ _ _), courseOf_updCourse_same, complete_accepted,
        updCourse_accepted, coreOf_of_cores (complete_cores _ _ _ _), coreOf_updCourse, true_and, implies_true]
  · refine leaves_of_onUnit (exec_tunerTestDone n a b x s) (by rw [hunit, hx]; rfl) ?_
    simp only [xTunerTestDone, show (courseOf s.chip n).test = some q from hq, courseOf_of_courses (complete_courses _ _ _ _),
      courseOf_updCourse_same, complete_accepted, updCourse_accepted, true_and]
  · refine leaves_of_onUnit (exec_coCtlWrite n w s) hunit ?_
    simp only [xCoCtlWrite, hn, hper, coCtl, hu, Bool.false_and, Bool.false_eq_true, and_self, if_true, if_false,
      courseOf_updCourse_same]
    rfl
  · refine leaves_of_onUnit (exec_coCtlWrite n w s) hunit ?_
    have hpeg : (pegOf s.chip (pegOfCourse n)).st ≠ .off := by
      rw [courseOn, if_neg (by unfold luthierCourse; omega), gateOpen, decide_eq_true_eq] at hon
      rw [hon]
      decide
    simp only [xCoCtlWrite, hn, hper, coCtl, hu, hpeg, ne_eq, not_false_eq_true, decide_true, Bool.and_self, and_self, if_true,
      courseOf_updCourse_same]
    rfl

/-! ### Halts through the peg -/

/-- Course 0 in unison, asked to halt, with string A inside a barrier whose checkpoint has been taken. -/
def haltInBarrier : Chip :=
  { cores := [(0, { haltReq := true, wait := some ⟨7, 0, 0, 0, false⟩ }), (1, { haltReq := true })], courses := [(0, { mode := 1 })] }

theorem exec_pegHalt (n : Nat) (s : State) : exec (.pegHalt n) s = onUnit (isCourse n) s (fun c => xPegHalt c n) := rfl

/-- Refutes O38: the statement's clause on a course in unison has no hypothesis on what string A waits for. Where it stands inside a
barrier, the checkpoint is called after the barrier's word, not at it (R218, R220). -/
theorem not_pegHalts : ¬ Obligations.PegHalts := by
  unfold Obligations.PegHalts
  intro h
  obtain ⟨hhalt, -⟩ := h { chip := haltInBarrier, pending := [] } 0 (by decide)
  obtain ⟨-, hunison⟩ := hhalt (by decide) (by decide) (by decide) (by decide) (by decide)
  obtain ⟨t, ht, -, hcalled⟩ := hunison (by decide) (by decide)
  have hlater : (courseOf (xPegHalt haltInBarrier 0) 0).ckptAt = some 1 := by decide
  rw [exec_pegHalt, show isCourse 0 = true from rfl, onUnit_true] at ht
  cases ht
  exact absurd (hlater.symm.trans hcalled) (by decide)

end Sys2Proof.Machine
end

section
/-! PROOFS. Checkpoints (R220 to R224). -/

namespace Sys2Proof.Machine

open Sys2Proof Sys2Proof.Safety

/-- Course 0 in unison, string A past 4,096 words and inside a barrier whose checkpoint has been taken. -/
def limitInBarrier : Chip :=
  { cores := [(0, { words := 4096, wait := some ⟨7, 0, 0, 0, false⟩ })], courses := [(0, { mode := 1 })] }

theorem exec_checkpointWordLimit (n : Nat) (s : State) :
    exec (.checkpointWordLimit n) s = onUnit (isCourse n) s (fun c => xCheckpointWordLimit c n) := rfl

/-- Refutes O39: the statement's clause on the word limit has no hypothesis on what string A waits for. Where it stands inside a
barrier, the checkpoint is called after the barrier's word, not at it (R218, R220). -/
theorem not_checkpoints : ¬ Obligations.Checkpoints := by
  unfold Obligations.Checkpoints
  intro h
  obtain ⟨hlimit, -⟩ := h { chip := limitInBarrier, pending := [] } 0 (by decide)
  obtain ⟨t, ht, -, hcalled⟩ := hlimit (by decide) (by decide) (by decide)
  have hlater : (courseOf (xCheckpointWordLimit limitInBarrier 0) 0).ckptAt = some 4097 := by decide
  rw [exec_checkpointWordLimit, show isCourse 0 = true from rfl, onUnit_true] at ht
  cases ht
  exact absurd (hlater.symm.trans hcalled) (by decide)

end Sys2Proof.Machine
end

section
/-! PROOFS. What a write into a memory changes of the device: bytes, check bits, the error records, and reservations (R180, R182,
R254 to R257). -/

namespace Sys2Proof.Machine

open Sys2Proof Sys2Proof.Safety

theorem putLe_only (c : Chip) (a n v : Nat) : ∃ m, putLe c a n v = { c with mem := m } := by
  induction n generalizing c a v with
  | zero => exact ⟨c.mem, rfl⟩
  | succ n ih =>
    obtain ⟨m, h⟩ := ih (putByte c a (BitVec.ofNat 8 v)) (a + 1) (v / 256)
    exact ⟨m, h⟩

theorem putWord_only (c : Chip) (a : Nat) (w : Word) : ∃ m, putWord c a w = { c with mem := m } := putLe_only c a 4 w.toNat

theorem putBytes_only (c : Chip) (a : Nat) (l : List Byte) : ∃ m, putBytes c a l = { c with mem := m } := by
  induction l generalizing c a with
  | nil => exact ⟨c.mem, rfl⟩
  | cons b l ih =>
    obtain ⟨m, h⟩ := ih (putByte c a b) (a + 1)
    exact ⟨m, h⟩

theorem writeWord_only (c : Chip) (ga : Nat) (w : Word) (poison : Bool) (by_ : Option Nat) :
    ∃ m p s r cs, writeWord c ga w poison by_ = { c with mem := m, poison := p, sbe := s, regs := r, cores := cs } := by
  unfold writeWord
  extract_lets ga c1 k c2 inj hit c3 w1 c4 c5
  have h3 : ∃ r, c3 = { c2 with regs := r } := by
    by_cases h : hit = true
    · exact ⟨(regSetFld c2 (clReg k 0x24) 1 0 0).regs, if_pos h⟩
    · exact ⟨c2.regs, if_neg h⟩
  have h4 : ∃ m p s r cs, c4 = { c with mem := m, poison := p, sbe := s, regs := r, cores := cs } := by
    obtain ⟨r, h3⟩ := h3
    obtain ⟨m, h4⟩ := putWord_only c3 ga w1
    exact ⟨m, c2.poison, c2.sbe, r, c1.cores, h4.trans (by rw [h3]; rfl)⟩
  obtain ⟨m, p, s, r, cs, h4⟩ := h4
  clear_value c4
  subst h4
  (repeat' split) <;> exact ⟨_, _, _, _, _, rfl⟩

theorem writeMem_only (c : Chip) (ga size : Nat) (v : Word) (poison : Bool) (by_ : Option Nat) :
    ∃ m p s r cs, writeMem c ga size v poison by_ = { c with mem := m, poison := p, sbe := s, regs := r, cores := cs } := by
  unfold writeMem
  split
  · exact writeWord_only c ga v poison by_
  obtain ⟨r, s, h⟩ := readWord_only c ga 5 0
  rw [h]
  dsimp only
  split
  · exact ⟨_, _, _, _, _, rfl⟩
  · exact writeWord_only _ ga _ poison by_

end Sys2Proof.Machine
end

section
/-! PROOFS. What the placing of a store leaves of the device, field by field. -/

namespace Sys2Proof.Machine

open Sys2Proof Sys2Proof.Safety

@[simp] theorem ite_fixedUnison {p : Prop} [Decidable p] (c d : Chip) : (if p then c else d).fixedUnison = if p then c.fixedUnison else d.fixedUnison :=
  apply_ite Chip.fixedUnison p c d

@[simp] theorem ite_fst_fixedUnison {p : Prop} [Decidable p] {α : Type} (c d : Chip × α) :
    (if p then c else d).1.fixedUnison = if p then c.1.fixedUnison else d.1.fixedUnison :=
  apply_ite (fun r => r.1.fixedUnison) p c d

@[simp] theorem foldl_fixedUnison {α : Type} {f : Chip → α → Chip} (hf : ∀ c a, (f c a).fixedUnison = c.fixedUnison) (l : List α) (c : Chip) :
    (l.foldl f c).fixedUnison = c.fixedUnison := by
  induction l generalizing c with
  | nil => rfl
  | cons a l ih => exact (ih (f c a)).trans (hf c a)

theorem foldl_fst_fixedUnison {α β : Type} {f : Chip × β → α → Chip × β} (hf : ∀ a x, (f a x).1.fixedUnison = a.1.fixedUnison) (l : List α)
    (a : Chip × β) : (l.foldl f a).1.fixedUnison = a.1.fixedUnison := by
  induction l generalizing a with
  | nil => rfl
  | cons x l ih => exact (ih (f a x)).trans (hf a x)

@[simp] theorem putWord_cores (c : Chip) (a : Nat) (w : Word) : (putWord c a w).cores = c.cores := by
  obtain ⟨_, h⟩ := putWord_only c a w
  rw [h]

@[simp] theorem putWord_courses (c : Chip) (a : Nat) (w : Word) : (putWord c a w).courses = c.courses := by
  obtain ⟨_, h⟩ := putWord_only c a w
  rw [h]

@[simp] theorem noteCorrected_fixedUnison (c : Chip) (ga : Nat) : (noteCorrected c ga).fixedUnison = c.fixedUnison := by
  simp -implicitDefEqProofs [noteCorrected]

@[simp] theorem noteUncorrectable_fixedUnison (c : Chip) (ga src core : Nat) : (noteUncorrectable c ga src core).fixedUnison = c.fixedUnison := by
  simp [noteUncorrectable]

@[simp] theorem readWord_fixedUnison (c : Chip) (ga src core : Nat) : (readWord c ga src core).1.fixedUnison = c.fixedUnison := by
  simp [readWord]

@[simp] theorem touchGranule_fixedUnison (c : Chip) (ga : Nat) (by_ : Option Nat) : (touchGranule c ga by_).fixedUnison = c.fixedUnison := by
  simp [touchGranule]

@[simp] theorem writeWord_fixedUnison (c : Chip) (ga : Nat) (w : Word) (poison : Bool) (by_ : Option Nat) : (writeWord c ga w poison by_).fixedUnison = c.fixedUnison := by
  obtain ⟨_, _, _, _, _, h⟩ := writeWord_only c ga w poison by_
  rw [h]

@[simp] theorem writeMem_fixedUnison (c : Chip) (ga : Nat) (size : Nat) (v : Word) (poison : Bool) (by_ : Option Nat) : (writeMem c ga size v poison by_).fixedUnison = c.fixedUnison := by
  obtain ⟨_, _, _, _, _, h⟩ := writeMem_only c ga size v poison by_
  rw [h]

@[simp] theorem placeResv_fixedUnison (c : Chip) (k : Nat) (t : Tgt) (words : Nat) : (placeResv c k t words).fixedUnison = c.fixedUnison := by
  unfold placeResv
  dsimp only
  (repeat' split) <;> simp

@[simp] theorem csrPut_fixedUnison (c : Chip) (k i : Nat) (w : Word) : (csrPut c k i w).fixedUnison = c.fixedUnison := by
  simp [csrPut]

@[simp] theorem countWord_fixedUnison (c : Chip) (k : Nat) : (countWord c k).fixedUnison = c.fixedUnison := by
  simp [countWord]

@[simp] theorem retire_fixedUnison (c : Chip) (k pc : Nat) : (retire c k pc).fixedUnison = c.fixedUnison := by
  unfold retire
  dsimp only
  split <;> simp

@[simp] theorem withdraw_fixedUnison (c : Chip) (s : Nat) : (withdraw c s).fixedUnison = c.fixedUnison := by
  simp [withdraw]

@[simp] theorem withdrawAll_fixedUnison (c : Chip) (e : Nat) : (withdrawAll c e).fixedUnison = c.fixedUnison := by
  simp [withdrawAll]

@[simp] theorem withdrawWait_fixedUnison (c : Chip) (k : Nat) : (withdrawWait c k).fixedUnison = c.fixedUnison := by
  unfold withdrawWait
  split <;> simp

@[simp] theorem hostWrite_fixedUnison (c : Chip) (a : Nat) (l : List QWord) (n : Nat) : (hostWrite c a l n).fixedUnison = c.fixedUnison := by
  induction n generalizing c a l with
  | zero => rfl
  | succ n ih =>
    rw [hostWrite]
    split
    · rfl
    · rw [ih]
      simp

@[simp] theorem hostWriteBytes_fixedUnison (c : Chip) (a : Nat) (b : List Byte) : (hostWriteBytes c a b).fixedUnison = c.fixedUnison := by
  simp [hostWriteBytes]

@[simp] theorem sendDatagram_fixedUnison (c : Chip) (r : ReplyTo) (pkt : List Byte) : (sendDatagram c r pkt).fixedUnison = c.fixedUnison := by
  simp [sendDatagram]

@[simp] theorem keepReply_fixedUnison (c : Chip) (r : ReplyTo) (comp : Bool) (pkt : List Byte) : (keepReply c r comp pkt).fixedUnison = c.fixedUnison := by
  simp [keepReply]

@[simp] theorem post_fixedUnison (c : Chip) (r : ReplyTo) (comp : Bool) (status : Nat) (detail : Word) (payload : List Byte)
    (handle : Nat) (keep : Bool) : (post c r comp status detail payload handle keep).fixedUnison = c.fixedUnison := by
  simp [post]

@[simp] theorem complete_fixedUnison (c : Chip) (r : ReplyTo) (status : Nat) (detail : Word) : (complete c r status detail).fixedUnison = c.fixedUnison := by
  simp [complete]

@[simp] theorem returnPlace_fixedUnison (c : Chip) (p : Pair) : (returnPlace c p).fixedUnison = c.fixedUnison := by
  unfold returnPlace
  (repeat' split) <;> simp

@[simp] theorem discardPairs_fixedUnison (c : Chip) (n : Nat) : (discardPairs c n).fixedUnison = c.fixedUnison := by
  simp [discardPairs]

@[simp] theorem endHand_fixedUnison (c : Chip) (n : Nat) : (endHand c n).fixedUnison = c.fixedUnison := by
  unfold endHand
  split <;> simp

@[simp] theorem mismatch_fixedUnison (c : Chip) (n mcause entry : Nat) : (mismatch c n mcause entry).fixedUnison = c.fixedUnison := by
  simp [mismatch]

@[simp] theorem readLine_fixedUnison (c : Chip) (k base : Nat) : (readLine c k base).1.fixedUnison = c.fixedUnison := by
  unfold readLine
  apply foldl_fst_fixedUnison
  intro a i
  exact readWord_fixedUnison _ _ _ _

@[simp] theorem touchLine_fixedUnison (c : Chip) (k : Nat) (l : Line) : (touchLine c k l).fixedUnison = c.fixedUnison := by
  simp [touchLine]

@[simp] theorem fillLine_fixedUnison (c : Chip) (k base : Nat) (ws : List IWord) : (fillLine c k base ws).fixedUnison = c.fixedUnison := by
  simp [fillLine]

@[simp] theorem fetchWord_fixedUnison (c : Chip) (k a : Nat) : (fetchWord c k a).1.fixedUnison = c.fixedUnison := by
  unfold fetchWord
  dsimp only
  split <;> simp

@[simp] theorem fetchInstr_fixedUnison (c : Chip) (k a : Nat) : (fetchInstr c k a).c.fixedUnison = c.fixedUnison := by
  unfold fetchInstr
  dsimp only
  (repeat' split) <;> simp

@[simp] theorem fillFlight_fixedUnison (c : Chip) (k slot : Nat) (g : Flight → Word) (trap : Nat) :
    (fillFlight c k slot g trap).fixedUnison = c.fixedUnison := by
  simp [fillFlight]

@[simp] theorem settleOwn_fixedUnison (c : Chip) (k : Nat) : (settleOwn c k).fixedUnison = c.fixedUnison := by
  simp [settleOwn]

@[simp] theorem performPriv_fixedUnison (c : Chip) (n : Nat) (e : Entry) : (performPriv c n e).fixedUnison = c.fixedUnison := by
  simp [performPriv]

@[simp] theorem compareB_fixedUnison (c : Chip) (n : Nat) (e : Entry) : (compareB c n e).fixedUnison = c.fixedUnison := by
  unfold compareB
  dsimp only
  split <;> simp

@[simp] theorem placeEntry_fixedUnison (c : Chip) (k : Nat) (e : Entry) : (placeEntry c k e).fixedUnison = c.fixedUnison := by
  unfold placeEntry
  dsimp only
  (repeat' split) <;> simp

@[simp] theorem storeReq_fixedUnison (c : Chip) (k : Nat) (s : Store) : (storeReq c k s).fixedUnison = c.fixedUnison := by
  simp [storeReq]

@[simp] theorem ownStore_fixedUnison (c : Chip) (k : Nat) (s : Store) : (ownStore c k s).fixedUnison = c.fixedUnison := by
  simp [ownStore]

@[simp] theorem placeStore_fixedUnison (c : Chip) (k : Nat) (s : Store) : (placeStore c k s).fixedUnison = c.fixedUnison := by
  simp [placeStore]

@[simp] theorem fillUp_fixedUnison (c : Chip) (k : Nat) (f : Fills) : (fillUp c k f).fixedUnison = c.fixedUnison := by
  simp [fillUp]

@[simp] theorem endWord_fixedUnison (c : Chip) (k : Nat) (f : Fills) (t : Nat) (res : List Word) (stores : List Store) (pc : Nat) : (endWord c k f t res stores pc).fixedUnison = c.fixedUnison := by
  simp [endWord]

@[simp] theorem fetchAhead_fixedUnison (c : Chip) (k pc : Nat) : (fetchAhead c k pc).fixedUnison = c.fixedUnison := by
  unfold fetchAhead
  split <;> simp

@[simp] theorem finish_fixedUnison (c : Chip) (k : Nat) (f : Fills) (t : Nat) (res : List Word) (stores : List Store) (pc : Nat) : (finish c k f t res stores pc).fixedUnison = c.fixedUnison := by
  simp [finish]

@[simp] theorem wake_fixedUnison (c : Chip) (src slot : Nat) : (wake c src slot).fixedUnison = c.fixedUnison := by
  simp [wake]

@[simp] theorem verdict_fixedUnison (c : Chip) (n v : Nat) : (verdict c n v).fixedUnison = c.fixedUnison := by
  simp [verdict]

end Sys2Proof.Machine
end

section
/-! PROOFS. The end of a word of any course (R83, R88, R111, R205, R228): placing stores, buffered, compared or sent out at once,
leaves what a string executes with; and string A's stores and entries in unison. -/

namespace Sys2Proof.Machine

open Sys2Proof Sys2Proof.Safety

/-! ### What placing a store leaves of every string -/

/-- Every string keeps all but what it waits for, what it has in flight or on the way, and its reservation. -/
structure KeepsStrings (c d : Chip) : Prop where
  core : ∀ j, ∃ w f b r s, coreOf d j = { coreOf c j with wait := w, flights := f, bus := b, resv := r, sbuf := s }
  fixed : d.fixedUnison = c.fixedUnison

theorem keepsStrings_refl (c : Chip) : KeepsStrings c c := ⟨fun _ => ⟨_, _, _, _, _, rfl⟩, rfl⟩

theorem keepsStrings_trans {c d e : Chip} (h : KeepsStrings c d) (h' : KeepsStrings d e) : KeepsStrings c e := by
  refine ⟨fun j => ?_, h'.fixed.trans h.fixed⟩
  obtain ⟨_, _, _, _, _, hd⟩ := h.core j
  obtain ⟨_, _, _, _, _, he⟩ := h'.core j
  exact ⟨_, _, _, _, _, by rw [he, hd]⟩

theorem keepsStrings_of_cores {c d : Chip} (hc : d.cores = c.cores) (hf : d.fixedUnison = c.fixedUnison) : KeepsStrings c d :=
  ⟨fun j => ⟨_, _, _, _, _, coreOf_of_cores hc j⟩, hf⟩

theorem keepsStrings_foldl {α : Type} {f : Chip → α → Chip} (hf : ∀ c a, KeepsStrings c (f c a)) (l : List α) (c : Chip) :
    KeepsStrings c (l.foldl f c) := by
  induction l generalizing c with
  | nil => exact keepsStrings_refl c
  | cons a l ih => exact keepsStrings_trans (hf c a) (ih (f c a))

theorem keepsStrings_updCore (c : Chip) (k : Nat) {f : Core → Core}
    (hf : ∀ r : Core, ∃ w g b v s, f r = { r with wait := w, flights := g, bus := b, resv := v, sbuf := s }) :
    KeepsStrings c (updCore c k f) := by
  refine ⟨fun j => ?_, rfl⟩
  by_cases h : j = k
  · subst h
    rw [coreOf_updCore_same]
    exact hf _
  · exact ⟨_, _, _, _, _, coreOf_updCore_other c f h⟩

theorem keepsStrings_updCourse (c : Chip) (n : Nat) (f : Course → Course) : KeepsStrings c (updCourse c n f) :=
  keepsStrings_of_cores rfl rfl

theorem loseResv_get (t : Tbl Core) (g : Nat) (by_ : Option Nat) (j : Nat) :
    ∃ r, Tbl.get {} (loseResv t g by_) j = { Tbl.get {} t j with resv := r } := by
  induction t with
  | nil => exact ⟨_, rfl⟩
  | cons e t ih =>
    obtain ⟨i, v⟩ := e
    have hhead : ∃ r, loseResv ((i, v) :: t) g by_ = (i, { v with resv := r }) :: loseResv t g by_ := by
      simp only [loseResv, List.map_cons]
      split
      next r hr =>
        split
        · exact ⟨_, rfl⟩
        · exact ⟨v.resv, rfl⟩
      next => exact ⟨v.resv, rfl⟩
    obtain ⟨r, hr⟩ := hhead
    rw [hr, Tbl.get, Tbl.get]
    split
    · exact ⟨r, rfl⟩
    · exact ih

theorem keepsStrings_touchGranule (c : Chip) (ga : Nat) (by_ : Option Nat) : KeepsStrings c (touchGranule c ga by_) := by
  refine ⟨fun j => ?_, rfl⟩
  obtain ⟨r, h⟩ := loseResv_get c.cores (ga / 8 * 8) by_ j
  exact ⟨_, _, _, _, _, h⟩

theorem writeWord_cores (c : Chip) (ga : Nat) (w : Word) (poison : Bool) (by_ : Option Nat) :
    (writeWord c ga w poison by_).cores = (touchGranule c (ga / 4 * 4) by_).cores := by
  unfold writeWord
  extract_lets ga c1 k c2 inj hit c3 w1 c4 c5
  have h3 : c3.cores = c1.cores := by
    by_cases h : hit = true
    · exact (congrArg Chip.cores (if_pos h : c3 = regSetFld c2 (clReg k 0x24) 1 0 0)).trans rfl
    · exact (congrArg Chip.cores (if_neg h : c3 = c2)).trans rfl
  have h4 : c4.cores = c1.cores := (putWord_cores c3 ga w1).trans h3
  clear_value c4
  (repeat' split) <;> exact h4

theorem keepsStrings_writeMem (c : Chip) (ga size : Nat) (v : Word) (poison : Bool) (by_ : Option Nat) :
    KeepsStrings c (writeMem c ga size v poison by_) := by
  have hword (d : Chip) (w : Word) : KeepsStrings d (writeWord d ga w poison by_) :=
    keepsStrings_trans (keepsStrings_touchGranule d (ga / 4 * 4) by_)
      (keepsStrings_of_cores (writeWord_cores d ga w poison by_) (writeWord_fixedUnison d ga w poison by_))
  unfold writeMem
  split
  · exact hword c v
  have hread : KeepsStrings c (readWord c ga 5 0).1 := keepsStrings_of_cores (readWord_cores ..) (readWord_fixedUnison ..)
  dsimp only
  split
  · exact hread
  · exact keepsStrings_trans hread (hword _ _)

theorem keepsStrings_placeResv (c : Chip) (k : Nat) (t : Tgt) (words : Nat) : KeepsStrings c (placeResv c k t words) := by
  have hresv (d : Chip) (j : Nat) (v : Option Resv) : KeepsStrings d (updCore d j (fun r => { r with resv := v })) :=
    keepsStrings_updCore d j fun r => ⟨_, _, _, _, _, rfl⟩
  unfold placeResv
  split
  · exact keepsStrings_refl c
  next b hb =>
    extract_lets held
    clear_value held
    have hdrop : KeepsStrings c (if resvCap t ≤ held.length then
        match held with
        | o :: rest => (updCore c o (fun r => { r with resv := none }), rest)
        | [] => (c, [])
      else (c, held)).1 := by
      split
      · cases held with
        | nil => exact keepsStrings_refl c
        | cons o rest => exact hresv c o none
      · exact keepsStrings_refl c
    revert hdrop
    generalize (if resvCap t ≤ held.length then
        match held with
        | o :: rest => (updCore c o (fun r => { r with resv := none }), rest)
        | [] => (c, [])
      else (c, held)) = x
    obtain ⟨d, l⟩ := x
    intro hdrop
    have hlist : KeepsStrings d { d with memResv := Tbl.put [] d.memResv b (l ++ [k]) } := keepsStrings_of_cores rfl rfl
    exact keepsStrings_trans hdrop (keepsStrings_trans hlist (hresv _ k (some ⟨t.ga / 8 * 8, words⟩)))

theorem keepsStrings_settleOwn (c : Chip) (k : Nat) : KeepsStrings c (settleOwn c k) := by
  unfold settleOwn
  extract_lets isLoad own l c1
  have h1 : KeepsStrings c c1 := keepsStrings_updCore c k fun r => ⟨_, _, _, _, _, rfl⟩
  refine keepsStrings_trans h1 (keepsStrings_foldl (fun d q => ?_) l c1)
  have hread : KeepsStrings d (readWord d (locOf k q.addr) 3 k).1 :=
    keepsStrings_of_cores (readWord_cores ..) (readWord_fixedUnison ..)
  have hfill (e : Chip) (slot : Nat) (g : Flight → Word) (trap : Nat) : KeepsStrings e (fillFlight e k slot g trap) :=
    keepsStrings_updCore e k fun r => ⟨_, _, _, _, _, rfl⟩
  dsimp only
  refine keepsStrings_trans (keepsStrings_trans hread ?_) (hfill _ _ _ _)
  split
  · exact keepsStrings_placeResv _ _ _ _
  · exact keepsStrings_refl _

theorem keepsStrings_withdrawWait (c : Chip) (k : Nat) : KeepsStrings c (withdrawWait c k) := by
  obtain ⟨⟨cs, ch, hw⟩, hk, ho⟩ := withdrawWait_only c k
  refine ⟨fun j => ?_, by rw [hw]⟩
  by_cases h : j = k
  · subst h
    exact ⟨_, _, _, _, _, hk⟩
  · exact ⟨_, _, _, _, _, ho j h⟩

theorem keepsStrings_mismatch (c : Chip) (n mcause entry : Nat) : KeepsStrings c (mismatch c n mcause entry) := by
  unfold mismatch
  extract_lets c1 c2 c3 c4 c5
  have h1 : KeepsStrings c c1 := keepsStrings_of_cores (withdrawAll_cores ..) (withdrawAll_fixedUnison ..)
  have h2 : KeepsStrings c1 c2 := keepsStrings_updCore c1 _ fun r => ⟨_, _, _, _, _, rfl⟩
  have h3 : KeepsStrings c2 c3 := keepsStrings_trans
    (keepsStrings_trans (keepsStrings_withdrawWait c2 (2 * n)) (keepsStrings_withdrawWait _ (2 * n + 1)))
    (keepsStrings_of_cores (discardPairs_cores _ n) (discardPairs_fixedUnison _ n))
  have h4 : KeepsStrings c3 c4 := keepsStrings_updCore c3 _ fun r => ⟨_, _, _, _, _, rfl⟩
  have h5 : KeepsStrings c4 c5 := keepsStrings_updCourse c4 n _
  have h6 : KeepsStrings c5 (endHand c5 n) := keepsStrings_of_cores (endHand_cores c5 n) (endHand_fixedUnison c5 n)
  clear_value c1 c2 c3 c4 c5
  exact keepsStrings_trans h1 (keepsStrings_trans h2 (keepsStrings_trans h3 (keepsStrings_trans h4 (keepsStrings_trans h5 h6))))

theorem keepsStrings_performPriv (c : Chip) (n : Nat) (e : Entry) : KeepsStrings c (performPriv c n e) :=
  keepsStrings_trans (keepsStrings_trans (keepsStrings_settleOwn c (2 * n)) (keepsStrings_settleOwn _ (2 * n + 1)))
    (keepsStrings_writeMem ..)

theorem keepsStrings_compareB (c : Chip) (n : Nat) (e : Entry) : KeepsStrings c (compareB c n e) := by
  unfold compareB
  dsimp only
  split
  · exact keepsStrings_updCourse c n _
  split
  · exact keepsStrings_mismatch ..
  split
  · exact keepsStrings_updCourse c n _
  · exact keepsStrings_trans (keepsStrings_updCourse c n _) (keepsStrings_performPriv _ n _)

theorem keepsStrings_placeEntry (c : Chip) (k : Nat) (e : Entry) : KeepsStrings c (placeEntry c k e) := by
  unfold placeEntry
  dsimp only
  split
  · exact keepsStrings_refl c
  split
  · exact keepsStrings_compareB ..
  split
  · exact keepsStrings_updCourse c _ _
  · exact keepsStrings_trans (keepsStrings_trans (keepsStrings_updCourse c _ _) (keepsStrings_updCourse _ _ _))
      (keepsStrings_compareB ..)

theorem keepsStrings_placeStore (c : Chip) (k : Nat) (s : Store) : KeepsStrings c (placeStore c k s) := by
  unfold placeStore
  split
  · exact keepsStrings_refl c
  split
  · exact keepsStrings_placeEntry ..
  split
  · split
    · exact keepsStrings_trans (keepsStrings_settleOwn c k) (keepsStrings_writeMem ..)
    · exact keepsStrings_updCore c k fun r => ⟨_, _, _, _, _, rfl⟩
  · exact keepsStrings_updCore c k fun r => ⟨_, _, _, _, _, rfl⟩

/-! ### The end of a word of any course -/

/-- The stores a word leaves: its own, then its spills (R88, R111). -/
def wordStores (c : Chip) (k : Nat) (f : Fills) (n : Nat) (res : List Word) (stores : List Store) : List Store :=
  stores ++ spillStores (wordPc c k) (sptrMid c k f) ((stackEnd f n res).drop 8).reverse

theorem wordStores_nil {c : Chip} {k : Nat} {f : Fills} {n : Nat} {res : List Word} (h : (stackEnd f n res).length ≤ 8) :
    wordStores c k f n res [] = [] := by
  simp [wordStores, List.drop_eq_nil_of_le h, spillStores]

/-- The end of a word: its stack and SPTR stand, its stores are placed, it retires. -/
theorem endWord_placed (c : Chip) (k : Nat) (f : Fills) (n : Nat) (res : List Word) (stores : List Store) (pc : Nat) :
    ∃ g, endWord c k f n res stores pc =
        retire ((wordStores c k f n res stores).foldl (fun c s => placeStore c k s) g) k pc ∧
      OneCore c g k ∧ (∃ w, coreOf g k = { coreOf c k with stk := (stackEnd f n res).take 8, csr := w }) ∧
      csrVal g k 0x0A = sptrEnd c k f n res ∧ ∀ i, i ≠ 0x0A → csrVal g k i = csrVal c k i := by
  obtain ⟨o1, e1, s1, v1⟩ := fillUp_core c k f
  have hst : (coreOf (fillUp c k f) k).stk = f.stk := by rw [e1]
  have hm : sptrOf (fillUp c k f) k = sptrMid c k f := by
    unfold sptrOf sptrMid
    rw [s1]
    split <;> rfl
  unfold endWord
  dsimp only
  rw [hst, hm, show res ++ f.stk.drop n = stackEnd f n res from rfl]
  generalize hd : updCore (fillUp c k f) k (fun r => { r with stk := (stackEnd f n res).take 8 }) = d
  have o2 : OneCore c d k := hd ▸ oneCore_trans o1 (oneCore_updCore _ k _)
  have e2 : coreOf d k = { coreOf c k with stk := (stackEnd f n res).take 8, csr := (coreOf (fillUp c k f) k).csr } := by
    rw [← hd, coreOf_updCore_same, e1]
  have v2 (i : Nat) : csrVal d k i = csrVal (fillUp c k f) k i := by
    rw [← hd]
    exact csrVal_updCore _ k i _ rfl
  by_cases hl : (stackEnd f n res).length ≤ 8
  · have hnone : (((stackEnd f n res).drop 8).reverse.isEmpty) = true := by simp [List.drop_eq_nil_of_le hl]
    refine ⟨d, by rw [if_pos hnone]; rfl, o2, ⟨_, e2⟩, ?_, fun i hi => by rw [v2, v1 i hi]⟩
    rw [v2, s1, sptrEnd, if_pos hl]
  · have hsome : ¬ (((stackEnd f n res).drop 8).reverse.isEmpty) = true := by
      simp only [List.isEmpty_reverse, List.isEmpty_iff, List.drop_eq_nil_iff]
      omega
    refine ⟨csrPut d k 0x0A _, by rw [if_neg hsome]; rfl, oneCore_trans o2 (oneCore_csrPut d k _ _),
      ⟨_, by rw [coreOf_csrPut_same, e2]⟩, ?_, fun i hi => by rw [csrVal_csrPut_other _ _ _ hi, v2, v1 i hi]⟩
    rw [csrVal_csrPut_same, sptrEnd, if_neg hl, sptrMid, List.length_reverse, List.length_drop]
    split <;> rfl

/-- A word of string `k` has ended, whatever its course: what a string executes with. -/
structure WordEnd (c d : Chip) (k : Nat) (g : Fills) (n : Nat) (res : List Word) (pc : Nat) : Prop where
  stack : (coreOf d k).stk = (stackEnd g n res).take 8
  next : goesOn c d k pc
  words : (coreOf d k).words = (coreOf c k).words + 1
  sptr : csrVal d k 0x0A = sptrEnd c k g n res
  csrs : ∀ i, i ≠ 0x0A → i ≠ 0x28 → csrVal d k i = csrVal c k i
  core : ∃ l st sb fl w bu z p q v, coreOf d k = { coreOf c k with
    lines := l, stk := st, sbuf := sb, flights := fl, words := w, bus := bu, resv := z, wait := none, ownCkpt := 0, resumed := false,
    pc := p, rep := q, csr := v }
  fixed : d.fixedUnison = c.fixedUnison

theorem keepsStrings_csrVal {c d : Chip} (h : KeepsStrings c d) (k i : Nat) : csrVal d k i = csrVal c k i := by
  obtain ⟨_, _, _, _, _, hk⟩ := h.core k
  exact csrVal_congr h.fixed (by rw [hk]) i

theorem wordEnd_endWord (c : Chip) (k : Nat) (f : Fills) (n : Nat) (res : List Word) (stores : List Store) (pc : Nat) :
    WordEnd c (endWord c k f n res stores pc) k f n res pc := by
  obtain ⟨g, he, ⟨⟨cs, hcs⟩, -⟩, ⟨w, hg⟩, hsp, hv⟩ := endWord_placed c k f n res stores pc
  rw [he]
  have hK : KeepsStrings g ((wordStores c k f n res stores).foldl (fun c s => placeStore c k s) g) :=
    keepsStrings_foldl (fun d s => keepsStrings_placeStore d k s) _ g
  generalize (wordStores c k f n res stores).foldl (fun c s => placeStore c k s) g = p at hK
  have hvp := keepsStrings_csrVal hK k
  obtain ⟨a, b, x, y, z, hp⟩ := hK.core k
  obtain ⟨⟨⟨cs', hcs'⟩, -⟩, hgo, -, hwords, hcsr, t, u, v, w', x', y', hr⟩ := retire_core p k pc
  refine ⟨?_, goesOn_congr hgo (by rw [hp, hg]) (by rw [hp, hg]) (by rw [hvp, hv _ (by decide)]), ?_, ?_, fun i h1 h2 => ?_,
    ⟨_, _, _, _, _, _, _, _, _, _, by rw [hr, hp, hg]⟩, ?_⟩
  · rw [hr, hp, hg]
  · rw [hwords, hp, hg]
  · rw [hcsr _ (by decide), hvp, hsp]
  · rw [hcsr i h2, hvp, hv i h1]
  · rw [hcs', hK.fixed, hcs]

theorem wordEnd_fetched {c d e : Chip} {k : Nat} {g : Fills} {n : Nat} {res : List Word} {pc : Nat} (hF : JustFetched c d k)
    (h : WordEnd d e k g n res pc) : WordEnd c e k g n res pc := by
  obtain ⟨l, hl⟩ := hF.core
  obtain ⟨hs, hg, hw, hp, hv, ⟨_, _, _, _, _, _, _, _, _, _, hk⟩, hf⟩ := h
  have hcsr := fetched_csrVal hF
  refine ⟨hs, goesOn_congr hg (by rw [hl]) (by rw [hl]) (hcsr _), by rw [hw, hl], ?_, fun i h1 h2 => by rw [hv i h1 h2, hcsr],
    ⟨_, _, _, _, _, _, _, _, _, _, by rw [hk, hl]⟩, ?_⟩
  · rw [hp, sptrEnd, sptrEnd, hcsr]
  · obtain ⟨_, _, _, hr⟩ := hF.rest
    rw [hf, hr]

/-- Whatever the course of the string, a word that ends leaves its stack, where it goes on, and all it executes with. -/
theorem wordEnd_finish (c : Chip) (k : Nat) (f : Fills) (n : Nat) (res : List Word) (stores : List Store) (pc : Nat) :
    WordEnd c (finish c k f n res stores pc) k f n res pc := by
  unfold finish
  dsimp only
  split
  · exact wordEnd_endWord ..
  · exact wordEnd_fetched (fetchAhead_only c k pc) (wordEnd_endWord ..)

end Sys2Proof.Machine
end

section
/-! PROOFS. Remote stores and atomics (R111, R142, R180, R228). -/

namespace Sys2Proof.Machine

open Sys2Proof Sys2Proof.Safety

/-- String A of a degraded course at a STR into another course's SRAM, with an LR of it still on its way. -/
def storeBesideLr : Chip :=
  { cores := [(0, { halted := false, started := true, stk := [0x20010000, 7],
                    bus := [⟨3, 0, 0x20020000, 4, 0, 0, false, false, 0⟩],
                    lines := [⟨0, [(encodeWord (.str 2)).1, (encodeWord (.str 2)).2, 0, 0, 0, 0, 0, 0]⟩] })],
    courses := [(0, { degraded := true })],
    pegs := [(0, ⟨.on, false⟩), (1, ⟨.on, false⟩)] }

/-- The operands of a word that starts. -/
def Prep.goOps : Prep → Option (List Word)
  | .go _ _ ops => some ops
  | _ => none

theorem Prep.go_of_goOps {p : Prep} {ops : List Word} (h : p.goOps = some ops) : ∃ d g, p = .go d g ops := by
  cases p with
  | no => cases h
  | stop d => cases h
  | go d g l =>
    cases h
    exact ⟨d, g, rfl⟩

theorem exec_str (k : Nat) (rep : Bool) (size : BitVec 2) (x : Nat) (s : State) :
    exec (.str k rep size x) s = onUnit (isCore k && isFlaw x) s (fun c => xStr c k rep size x) := rfl

/-- Refutes O21: the statement's clause on a degraded course has the requests on the way unchanged but for the store's own. An LR on
its way counts the words that execute (R182), so where one is, the STR leaves it with one word more. -/
theorem not_remoteStores : ¬ Obligations.RemoteStores := by
  unfold Obligations.RemoteStores
  intro h
  obtain ⟨d, g, hgo⟩ := Prep.go_of_goOps (p := begin_ storeBesideLr 0 false (.str 2) 1 (fun _ => none)) (ops := [0x20010000, 7])
    (by decide)
  obtain ⟨hstr, -⟩ := h { chip := storeBesideLr, pending := [] } 0 false 0 2 0 d g [0x20010000, 7] (by decide)
  obtain ⟨-, hdegraded⟩ := hstr hgo (by decide) (by decide) (by decide)
  obtain ⟨t, ht, -, -, -, hbus⟩ := hdegraded (by decide) (by decide) (by decide) (by decide)
  have hcounted : (coreOf (xStr storeBesideLr 0 false 2 0) 0).bus.map (fun q => q.data) = [1, 7] := by decide
  rw [exec_str, show (isCore 0 && isFlaw 0) = true from rfl, onUnit_true] at ht
  cases ht
  exact absurd (hcounted.symm.trans (congrArg (List.map (fun q => q.data)) hbus)) (by decide)

end Sys2Proof.Machine
end

section
/-! PROOFS. String A of a course in unison (R205): its stores and its entries stand in the compare buffer, and nothing else of the
course or of the device changes. -/

namespace Sys2Proof.Machine

open Sys2Proof Sys2Proof.Safety

/-- Nothing but one course differs. -/
def OneCourse (c d : Chip) (n : Nat) : Prop := (∃ cs, d = { c with courses := cs }) ∧ ∀ m, m ≠ n → courseOf d m = courseOf c m

theorem oneCourse_refl (c : Chip) (n : Nat) : OneCourse c c n := ⟨⟨_, rfl⟩, fun _ _ => rfl⟩

theorem oneCourse_trans {c d e : Chip} {n : Nat} (h : OneCourse c d n) (h' : OneCourse d e n) : OneCourse c e n := by
  obtain ⟨⟨cs, hc⟩, ho⟩ := h
  obtain ⟨⟨cs', hc'⟩, ho'⟩ := h'
  exact ⟨⟨cs', by rw [hc', hc]⟩, fun m hm => by rw [ho' m hm, ho m hm]⟩

theorem oneCourse_updCourse (c : Chip) (n : Nat) (f : Course → Course) : OneCourse c (updCourse c n f) n :=
  ⟨⟨_, rfl⟩, fun _ hm => courseOf_updCourse_other c f hm⟩

theorem oneCourse_coreOf {c d : Chip} {n : Nat} (h : OneCourse c d n) (j : Nat) : coreOf d j = coreOf c j := by
  obtain ⟨⟨cs, hc⟩, -⟩ := h
  rw [hc]
  rfl

/-- String A of a course in unison, with no half of string B ahead, while its tuner places entries (R205). -/
structure Enters (c : Chip) (k : Nat) : Prop where
  unison : inUnison c (courseNo k) = true
  first : k % 2 = 0
  ahead : (courseOf c (courseNo k)).bHalves = []
  places : placesNone c (courseNo k) = false

/-- Pairs that string A alone has placed, numbered from one on (R205). -/
def pairsFrom : Nat → List Entry → List Pair
  | _, [] => []
  | no, e :: t => ⟨e, false, no⟩ :: pairsFrom ((no + 1) % 64) t

/-- The compare-buffer entry of a store. -/
def storeEntry (k : Nat) (s : Store) : Entry := ⟨0, s.addr, s.size, entryData s.size s.data, 0, 0, 0, s.ipc, ownSram k s.addr, false⟩

/-- An entry as the buffer keeps it. -/
def keptEntry (e : Entry) : Entry := { e with data := entryData e.size e.data }

theorem inUnison_updCourse_pairs (c : Chip) (n : Nat) (p : List Pair) (i : Nat) :
    inUnison (updCourse c n (fun r => { r with pairs := p, pairNo := i })) n = inUnison c n := by
  unfold inUnison
  rw [courseOf_updCourse_same]
  rfl

theorem placeEntry_first {c : Chip} {k : Nat} (h : Enters c k) (e : Entry) : placeEntry c k e =
    updCourse c (courseNo k) (fun r => { r with pairs := r.pairs ++ [⟨keptEntry e, false, r.pairNo⟩], pairNo := (r.pairNo + 1) % 64 }) := by
  have hb : isB k = false := decide_eq_false (by rw [h.first]; decide)
  unfold placeEntry
  simp only [h.places, hb, h.ahead, Bool.false_eq_true, if_false]
  rfl

theorem placeStore_first {c : Chip} {k : Nat} (h : Enters c k) (s : Store) : placeStore c k s =
    updCourse c (courseNo k) (fun r => { r with pairs := r.pairs ++ [⟨storeEntry k s, false, r.pairNo⟩], pairNo := (r.pairNo + 1) % 64 }) := by
  unfold placeStore
  rw [if_neg (by simp [h.places]), if_pos h.unison, placeEntry_first h]
  rfl

theorem enters_placed {c : Chip} {k : Nat} (h : Enters c k) (e : Entry) : Enters (updCourse c (courseNo k) (fun r =>
    { r with pairs := r.pairs ++ [⟨e, false, r.pairNo⟩], pairNo := (r.pairNo + 1) % 64 })) k := by
  obtain ⟨hu, hk, hb, hp⟩ := h
  refine ⟨?_, hk, ?_, ?_⟩
  · unfold inUnison at hu ⊢
    rw [courseOf_updCourse_same]
    exact hu
  · rw [courseOf_updCourse_same]
    exact hb
  · unfold placesNone at hp ⊢
    rw [courseOf_updCourse_same]
    exact hp

/-- String A's stores stand in the compare buffer, numbered on. -/
theorem placeStores_first {c : Chip} {k : Nat} (h : Enters c k) (l : List Store) :
    OneCourse c (l.foldl (fun c s => placeStore c k s) c) (courseNo k) ∧
      ∃ no, courseOf (l.foldl (fun c s => placeStore c k s) c) (courseNo k) = { courseOf c (courseNo k) with
        pairs := (courseOf c (courseNo k)).pairs ++ pairsFrom (courseOf c (courseNo k)).pairNo (l.map (storeEntry k)), pairNo := no } := by
  induction l generalizing c with
  | nil => exact ⟨oneCourse_refl c _, (courseOf c (courseNo k)).pairNo, by simp [pairsFrom]⟩
  | cons s l ih =>
    obtain ⟨hO, no, hc⟩ := ih (enters_placed h (storeEntry k s))
    rw [List.foldl_cons, placeStore_first h]
    refine ⟨oneCourse_trans (oneCourse_updCourse c _ _) hO, no, ?_⟩
    rw [hc, courseOf_updCourse_same]
    simp [pairsFrom]

/-- What the end of a word of string A in unison changes: the string itself, and the pairs its stores make. -/
structure FirstEnd (c d : Chip) (k : Nat) (l : List Store) : Prop where
  core : ∃ ln st w bu z p q v, coreOf d k = { coreOf c k with
    lines := ln, stk := st, words := w, bus := bu, resv := z, wait := none, ownCkpt := 0, resumed := false, pc := p, rep := q, csr := v }
  others : ∀ j, j ≠ k → coreOf d j = coreOf c j
  course : ∃ no, courseOf d (courseNo k) = { courseOf c (courseNo k) with
    pairs := (courseOf c (courseNo k)).pairs ++ pairsFrom (courseOf c (courseNo k)).pairNo (l.map (storeEntry k)), pairNo := no }
  courses : ∀ m, m ≠ courseNo k → courseOf d m = courseOf c m
  rest : ∃ cs rs r b, d = { c with cores := cs, courses := rs, regs := r, sbe := b }

theorem oneCore_courseOf {c d : Chip} {k : Nat} (h : OneCore c d k) (n : Nat) : courseOf d n = courseOf c n := by
  obtain ⟨⟨cs, hc⟩, -⟩ := h
  rw [hc]
  rfl

theorem enters_oneCore {c d : Chip} {k : Nat} (h : Enters c k) (hO : OneCore c d k) : Enters d k := by
  obtain ⟨⟨cs, hc⟩, -⟩ := hO
  obtain ⟨hu, hk, hb, hp⟩ := h
  rw [hc]
  exact ⟨hu, hk, hb, hp⟩

theorem firstEnd_endWord {c : Chip} {k : Nat} (h : Enters c k) (f : Fills) (n : Nat) (res : List Word) (stores : List Store) (pc : Nat) :
    FirstEnd c (endWord c k f n res stores pc) k (wordStores c k f n res stores) := by
  obtain ⟨g, he, hO, ⟨w, hg⟩, -, -⟩ := endWord_placed c k f n res stores pc
  rw [he]
  generalize wordStores c k f n res stores = l
  obtain ⟨hP, no, hc⟩ := placeStores_first (enters_oneCore h hO) l
  generalize l.foldl (fun c s => placeStore c k s) g = p at hP hc
  obtain ⟨hR, -, -, -, -, x, y, z, u, v, w', hr⟩ := retire_core p k pc
  refine ⟨⟨_, _, _, _, _, _, _, _, by rw [hr, oneCourse_coreOf hP, hg]⟩, fun j hj => ?_, ⟨no, ?_⟩, fun m hm => ?_, ?_⟩
  · rw [hR.2 j hj, oneCourse_coreOf hP, hO.2 j hj]
  · rw [oneCore_courseOf hR, hc, oneCore_courseOf hO]
  · rw [oneCore_courseOf hR, hP.2 m hm, oneCore_courseOf hO]
  · obtain ⟨⟨cs1, h1⟩, -⟩ := hO
    obtain ⟨⟨cs2, h2⟩, -⟩ := hP
    obtain ⟨⟨cs3, h3⟩, -⟩ := hR
    exact ⟨cs3, cs2, c.regs, c.sbe, by rw [h3, h2, h1]⟩

theorem enters_fetched {c d : Chip} {k : Nat} (h : Enters c k) (hF : JustFetched c d k) : Enters d k := by
  obtain ⟨_, _, _, hr⟩ := hF.rest
  obtain ⟨hu, hk, hb, hp⟩ := h
  rw [hr]
  exact ⟨hu, hk, hb, hp⟩

theorem fetched_courseOf {c d : Chip} {k : Nat} (hF : JustFetched c d k) (n : Nat) : courseOf d n = courseOf c n := by
  obtain ⟨_, _, _, hr⟩ := hF.rest
  rw [hr]
  rfl

theorem firstEnd_fetched {c d e : Chip} {k : Nat} {l : List Store} (hF : JustFetched c d k) (h : FirstEnd d e k l) :
    FirstEnd c e k l := by
  obtain ⟨ln, hl⟩ := hF.core
  obtain ⟨_, r, b, hr⟩ := hF.rest
  have hcourse := fetched_courseOf hF
  obtain ⟨⟨_, _, _, _, _, _, _, _, hk⟩, ho, ⟨no, hc⟩, hm, cs', rs', r', b', hr'⟩ := h
  exact ⟨⟨_, _, _, _, _, _, _, _, by rw [hk, hl]⟩, fun j hj => by rw [ho j hj, hF.others j hj], ⟨no, by rw [hc, hcourse]⟩,
    fun m h => by rw [hm m h, hcourse], ⟨cs', rs', r', b', by rw [hr', hr]⟩⟩

theorem fetched_wordStores {c d : Chip} {k : Nat} (hF : JustFetched c d k) (f : Fills) (n : Nat) (res : List Word)
    (stores : List Store) : wordStores d k f n res stores = wordStores c k f n res stores := by
  unfold wordStores sptrMid
  rw [fetched_wordPc hF, fetched_csrVal hF]

theorem firstEnd_finish {c : Chip} {k : Nat} (h : Enters c k) (f : Fills) (n : Nat) (res : List Word) (stores : List Store) (pc : Nat) :
    FirstEnd c (finish c k f n res stores pc) k (wordStores c k f n res stores) := by
  unfold finish
  dsimp only
  split
  · exact firstEnd_endWord h f n res stores pc
  · have hF := fetchAhead_only c k pc
    have hE := firstEnd_endWord (enters_fetched h hF) f n res stores pc
    rw [fetched_wordStores hF] at hE
    exact firstEnd_fetched hF hE

end Sys2Proof.Machine
end

section
/-! PROOFS. Stores of a course in unison (R205, R206, R230). -/

namespace Sys2Proof.Machine

open Sys2Proof Sys2Proof.Safety

/-- A word that starts stands in a string that runs, waits for nothing, and whose course is neither checked nor stopped. -/
theorem starts_runs {c d : Chip} {k n : Nat} {rep : Bool} {op : CoreOp} {g : Fills} {ops : List Word}
    (h : starts c k rep op n d g ops) : running c k = true ∧ (coreOf c k).wait = none ∧
      (courseOf c (courseNo k)).check = 0 ∧ (courseOf c (courseNo k)).safe = false := by
  obtain ⟨hw, -⟩ := begin_go h
  unfold atWord at hw
  simp only [Bool.and_eq_true] at hw
  obtain ⟨⟨⟨hr, hwait⟩, -⟩, -⟩ := hw
  have hrun := hr
  unfold running at hrun
  simp only [Bool.and_eq_true, decide_eq_true_eq, Bool.not_eq_true'] at hrun
  obtain ⟨⟨⟨-, hcheck⟩, hsafe⟩, -⟩ := hrun
  exact ⟨hr, Option.isNone_iff_eq_none.1 hwait, hcheck, hsafe⟩

theorem starts_enters {c d : Chip} {k n : Nat} {rep : Bool} {op : CoreOp} {g : Fills} {ops : List Word}
    (h : starts c k rep op n d g ops) (hu : inUnison c (courseNo k) = true) (hk : k % 2 = 0)
    (hb : (courseOf c (courseNo k)).bHalves = []) : Enters d k := by
  obtain ⟨-, -, hcheck, hsafe⟩ := starts_runs h
  exact enters_fetched ⟨hu, hk, hb, by simp [placesNone, hcheck, hsafe]⟩ (starts_fetched h)

/-- The filled stack of a word that starts is the string's own, or just its operands. -/
theorem starts_stack {c d : Chip} {k n : Nat} {rep : Bool} {op : CoreOp} {g : Fills} {ops : List Word}
    (h : starts c k rep op n d g ops) : g.stk.length = max (coreOf c k).stk.length (opEffect op).1 := by
  obtain ⟨-, -, -, ⟨v, hv, hlen⟩, hn, -⟩ := begin_go h
  rw [hv, List.length_append, hlen, hn]
  omega

theorem alignTrap_none {a n : Nat} (h : a % n = 0) : alignTrap a n = none := if_neg (not_not_intro h)

theorem nextPc_fetched {c d : Chip} {k : Nat} (h : JustFetched c d k) : nextPc d k = (coreOf c k).pc + 2 := by
  rw [nextPc, fetched_pc h]

theorem xStr_go {c d : Chip} {k tflt : Nat} {rep : Bool} {size : BitVec 2} {g : Fills} {ops : List Word}
    (h : starts c k rep (.str size) 1 d g ops) (ha : (ops.getD 0 0).toNat % sizeOf_ size = 0) :
    xStr c k rep size tflt = if inUnison c (courseNo k) ∧ (tflt = 5 ∨ tflt = 6) then tunerFault d (courseNo k) tflt 0
      else finish d k g 2 [] [⟨(ops.getD 0 0).toNat, sizeOf_ size, ops.getD 1 0, wordPc c k⟩] ((coreOf c k).pc + 2) := by
  have hF := starts_fetched h
  have hbegin := begin_check (check := fun ops => alignTrap (ops.getD 0 0).toNat (sizeOf_ size)) h (alignTrap_none ha)
  unfold xStr
  simp only [hbegin, fetched_inUnison hF, nextPc_fetched hF, fetched_wordPc hF]

theorem tunerFault_course (c : Chip) {n mcause verdict : Nat} (hn : n < 256) :
    (courseOf (tunerFault c n mcause verdict) n).tflt = true ∧ (courseOf (tunerFault c n mcause verdict) n).mcause = mcause ∧
      (courseOf (tunerFault c n mcause verdict) n).safe = true ∧ (courseOf (tunerFault c n mcause verdict) n).pairs = [] := by
  unfold tunerFault
  extract_lets c1 c2
  have h1 : courseOf c1 n = { courseOf c n with
      tflt := true, mcause := mcause, verdict := verdict, entry := 0, tfcnt := sat ((courseOf c n).tfcnt + 1) 255 } :=
    courseOf_updCourse_same c n _
  have h2 : c2 = pulse c1 (705 + n) := if_neg (by unfold luthierCourse; omega)
  have h3 : courseOf c2 n = courseOf c1 n := by rw [h2, courseOf_pulse]
  obtain ⟨hsafe, hpairs, -, hmcause, htflt, -⟩ := enterSafe_course c2 hn
  rw [htflt, hmcause, h3, h1]
  exact ⟨rfl, rfl, hsafe, hpairs⟩

theorem firstEnd_mem {c d : Chip} {k : Nat} {l : List Store} (h : FirstEnd c d k l) : d.mem = c.mem := by
  obtain ⟨_, _, _, _, hr⟩ := h.rest
  rw [hr]

/-- Settles O36: the one entry of the store, and the tuner fault of a failing checker. -/
theorem unisonStores : Obligations.UnisonStores := by
  unfold Obligations.UnisonStores
  intro s k rep size tflt d g ops hk hfirst hu hstk hb a v n r h ha
  have hF := starts_fetched h
  have hgo := xStr_go (tflt := tflt) h ha
  refine ⟨fun ht => ?_, fun hlt ht => ?_⟩
  · have hE : Enters d k := starts_enters h hu hfirst hb
    have hlen : (stackEnd g 2 []).length ≤ 8 := by
      have := starts_stack h
      simp only [stackEnd, List.nil_append, List.length_drop, opEffect] at this ⊢
      omega
    refine leaves_of_onUnit (exec_str k rep size tflt s) (by rw [hk, ht]; rfl) ?_
    rw [hgo, if_neg (by omega)]
    have hend := firstEnd_finish hE g 2 [] [⟨a, n, v, wordPc s.chip k⟩] ((coreOf s.chip k).pc + 2)
    have hword := wordEnd_fetched hF (wordEnd_finish d k g 2 [] [⟨a, n, v, wordPc s.chip k⟩] ((coreOf s.chip k).pc + 2))
    have hstores : wordStores d k g 2 [] [⟨a, n, v, wordPc s.chip k⟩] = [⟨a, n, v, wordPc s.chip k⟩] := by
      simp [wordStores, List.drop_eq_nil_of_le hlen, spillStores]
    rw [hstores] at hend
    have hfirstEnd := firstEnd_fetched hF hend
    obtain ⟨no, hcourse⟩ := hfirstEnd.course
    obtain ⟨_, _, _, _, _, _, _, _, hcore⟩ := hfirstEnd.core
    refine ⟨?_, ?_, hword.stack, hword.next, firstEnd_mem hfirstEnd⟩
    · have hpairs := congrArg Course.pairs hcourse
      refine hpairs.trans ?_
      have hdata : entryData n v = if n = 4 then v else wd (v.toNat % 2 ^ (8 * n)) := by
        obtain hn | hn | hn : n = 1 ∨ n = 2 ∨ n = 4 := by
          simp only [n]
          split
          · exact Or.inl rfl
          · split
            · exact Or.inr (Or.inl rfl)
            · exact Or.inr (Or.inr rfl)
        all_goals rw [hn]; rfl
      simp only [List.map_cons, List.map_nil, pairsFrom, storeEntry, hdata]
      rfl
    · have hsbuf := congrArg Core.sbuf hcore
      exact hsbuf
  · refine leaves_of_onUnit (exec_str k rep size tflt s) (by rcases ht with h | h <;> rw [hk, h] <;> rfl) ?_
    rw [hgo, if_pos ⟨hu, ht⟩]
    exact tunerFault_course d (by unfold courseNo; omega)

end Sys2Proof.Machine
end


section
/-! PROOFS. Clock domains (R588 to R603). -/

namespace Sys2Proof.Machine

open Sys2Proof Sys2Proof.Safety

/-- CTL with AUTO set, PLLEN clear and SWITCH, which reads as 0 on the device, standing at 1; no PLL is locked. -/
def autoOverSwitch : Chip :=
  { lut := true, dev := .configured, regs := [(0x60002000, 6)], sys := { per := true } }

theorem exec_autoSwitch (s : State) : exec .autoSwitch s = onChip s (fun c => xAutoSwitch c) := rfl

/-- Refutes O54: the statement's clause on AUTO does not ask that CTL.SWITCH is 0. Where it stands at 1, the luthier's write of PLLEN
is also a write of SWITCH, which is refused while a PLL is not locked, with CTL unchanged (R593). -/
theorem not_clockDomains : ¬ Obligations.ClockDomains := by
  unfold Obligations.ClockDomains
  intro h
  obtain ⟨-, -, -, -, -, hauto, -⟩ := h { chip := autoOverSwitch, pending := [] } (by decide)
  obtain ⟨henable, -⟩ := hauto (by decide) (by decide) (by decide) (by decide)
  obtain ⟨t, ht, -, hset, -⟩ := henable (by decide)
  have hclear : bit (regVal (xAutoSwitch autoOverSwitch) 0x60002000) 0 = false := by decide
  rw [exec_autoSwitch, onChip_eq] at ht
  cases ht
  exact absurd (hclear.symm.trans hset) (by decide)

end Sys2Proof.Machine
end

section
/-! PROOFS. What answering a command leaves unchanged. -/

namespace Sys2Proof.Machine

open Sys2Proof Sys2Proof.Safety

@[simp] theorem ite_cur {p : Prop} [Decidable p] (c d : Chip) : (if p then c else d).cur = if p then c.cur else d.cur :=
  apply_ite Chip.cur p c d

@[simp] theorem ite_fst_cur {p : Prop} [Decidable p] {α : Type} (c d : Chip × α) :
    (if p then c else d).1.cur = if p then c.1.cur else d.1.cur :=
  apply_ite (fun r => r.1.cur) p c d

@[simp] theorem foldl_cur {α : Type} {f : Chip → α → Chip} (hf : ∀ c a, (f c a).cur = c.cur) (l : List α) (c : Chip) :
    (l.foldl f c).cur = c.cur := by
  induction l generalizing c with
  | nil => rfl
  | cons a l ih => exact (ih (f c a)).trans (hf c a)

theorem foldl_fst_cur {α β : Type} {f : Chip × β → α → Chip × β} (hf : ∀ a x, (f a x).1.cur = a.1.cur) (l : List α)
    (a : Chip × β) : (l.foldl f a).1.cur = a.1.cur := by
  induction l generalizing a with
  | nil => rfl
  | cons x l ih => exact (ih (f a x)).trans (hf a x)

@[simp] theorem ite_dev {p : Prop} [Decidable p] (c d : Chip) : (if p then c else d).dev = if p then c.dev else d.dev :=
  apply_ite Chip.dev p c d

@[simp] theorem ite_fst_dev {p : Prop} [Decidable p] {α : Type} (c d : Chip × α) :
    (if p then c else d).1.dev = if p then c.1.dev else d.1.dev :=
  apply_ite (fun r => r.1.dev) p c d

@[simp] theorem foldl_dev {α : Type} {f : Chip → α → Chip} (hf : ∀ c a, (f c a).dev = c.dev) (l : List α) (c : Chip) :
    (l.foldl f c).dev = c.dev := by
  induction l generalizing c with
  | nil => rfl
  | cons a l ih => exact (ih (f c a)).trans (hf c a)

theorem foldl_fst_dev {α β : Type} {f : Chip × β → α → Chip × β} (hf : ∀ a x, (f a x).1.dev = a.1.dev) (l : List α)
    (a : Chip × β) : (l.foldl f a).1.dev = a.1.dev := by
  induction l generalizing a with
  | nil => rfl
  | cons x l ih => exact (ih (f a x)).trans (hf a x)

@[simp] theorem ite_lut {p : Prop} [Decidable p] (c d : Chip) : (if p then c else d).lut = if p then c.lut else d.lut :=
  apply_ite Chip.lut p c d

@[simp] theorem ite_fst_lut {p : Prop} [Decidable p] {α : Type} (c d : Chip × α) :
    (if p then c else d).1.lut = if p then c.1.lut else d.1.lut :=
  apply_ite (fun r => r.1.lut) p c d

@[simp] theorem foldl_lut {α : Type} {f : Chip → α → Chip} (hf : ∀ c a, (f c a).lut = c.lut) (l : List α) (c : Chip) :
    (l.foldl f c).lut = c.lut := by
  induction l generalizing c with
  | nil => rfl
  | cons a l ih => exact (ih (f c a)).trans (hf c a)

theorem foldl_fst_lut {α β : Type} {f : Chip × β → α → Chip × β} (hf : ∀ a x, (f a x).1.lut = a.1.lut) (l : List α)
    (a : Chip × β) : (l.foldl f a).1.lut = a.1.lut := by
  induction l generalizing a with
  | nil => rfl
  | cons x l ih => exact (ih (f a x)).trans (hf a x)

@[simp] theorem hostWrite_cur (c : Chip) (a : Nat) (l : List QWord) (n : Nat) : (hostWrite c a l n).cur = c.cur := by
  induction n generalizing c a l with
  | zero => rfl
  | succ n ih =>
    rw [hostWrite]
    split
    · rfl
    · rw [ih]
      simp

@[simp] theorem hostWrite_accepted (c : Chip) (a : Nat) (l : List QWord) (n : Nat) : (hostWrite c a l n).accepted = c.accepted := by
  induction n generalizing c a l with
  | zero => rfl
  | succ n ih =>
    rw [hostWrite]
    split
    · rfl
    · rw [ih]
      simp

@[simp] theorem hostWrite_dev (c : Chip) (a : Nat) (l : List QWord) (n : Nat) : (hostWrite c a l n).dev = c.dev := by
  induction n generalizing c a l with
  | zero => rfl
  | succ n ih =>
    rw [hostWrite]
    split
    · rfl
    · rw [ih]
      simp

@[simp] theorem hostWrite_lut (c : Chip) (a : Nat) (l : List QWord) (n : Nat) : (hostWrite c a l n).lut = c.lut := by
  induction n generalizing c a l with
  | zero => rfl
  | succ n ih =>
    rw [hostWrite]
    split
    · rfl
    · rw [ih]
      simp

@[simp] theorem hostWriteBytes_cur (c : Chip) (a : Nat) (b : List Byte) : (hostWriteBytes c a b).cur = c.cur := by
  simp [hostWriteBytes]

@[simp] theorem hostWriteBytes_accepted (c : Chip) (a : Nat) (b : List Byte) : (hostWriteBytes c a b).accepted = c.accepted := by
  simp [hostWriteBytes]

@[simp] theorem hostWriteBytes_dev (c : Chip) (a : Nat) (b : List Byte) : (hostWriteBytes c a b).dev = c.dev := by
  simp [hostWriteBytes]

@[simp] theorem hostWriteBytes_lut (c : Chip) (a : Nat) (b : List Byte) : (hostWriteBytes c a b).lut = c.lut := by
  simp [hostWriteBytes]

@[simp] theorem sendDatagram_cur (c : Chip) (r : ReplyTo) (pkt : List Byte) : (sendDatagram c r pkt).cur = c.cur := by
  simp [sendDatagram]

@[simp] theorem sendDatagram_accepted (c : Chip) (r : ReplyTo) (pkt : List Byte) : (sendDatagram c r pkt).accepted = c.accepted := by
  simp [sendDatagram]

@[simp] theorem sendDatagram_dev (c : Chip) (r : ReplyTo) (pkt : List Byte) : (sendDatagram c r pkt).dev = c.dev := by
  simp [sendDatagram]

@[simp] theorem sendDatagram_lut (c : Chip) (r : ReplyTo) (pkt : List Byte) : (sendDatagram c r pkt).lut = c.lut := by
  simp [sendDatagram]

@[simp] theorem keepReply_cur (c : Chip) (r : ReplyTo) (comp : Bool) (pkt : List Byte) : (keepReply c r comp pkt).cur = c.cur := by
  simp [keepReply]

@[simp] theorem keepReply_accepted (c : Chip) (r : ReplyTo) (comp : Bool) (pkt : List Byte) : (keepReply c r comp pkt).accepted = c.accepted := by
  simp [keepReply]

@[simp] theorem keepReply_dev (c : Chip) (r : ReplyTo) (comp : Bool) (pkt : List Byte) : (keepReply c r comp pkt).dev = c.dev := by
  simp [keepReply]

@[simp] theorem keepReply_lut (c : Chip) (r : ReplyTo) (comp : Bool) (pkt : List Byte) : (keepReply c r comp pkt).lut = c.lut := by
  simp [keepReply]

@[simp] theorem post_cur (c : Chip) (r : ReplyTo) (comp : Bool) (status : Nat) (detail : Word) (payload : List Byte)
    (handle : Nat) (keep : Bool) : (post c r comp status detail payload handle keep).cur = c.cur := by
  simp [post]

@[simp] theorem post_accepted (c : Chip) (r : ReplyTo) (comp : Bool) (status : Nat) (detail : Word) (payload : List Byte)
    (handle : Nat) (keep : Bool) : (post c r comp status detail payload handle keep).accepted = c.accepted := by
  simp [post]

@[simp] theorem post_dev (c : Chip) (r : ReplyTo) (comp : Bool) (status : Nat) (detail : Word) (payload : List Byte)
    (handle : Nat) (keep : Bool) : (post c r comp status detail payload handle keep).dev = c.dev := by
  simp [post]

@[simp] theorem post_lut (c : Chip) (r : ReplyTo) (comp : Bool) (status : Nat) (detail : Word) (payload : List Byte)
    (handle : Nat) (keep : Bool) : (post c r comp status detail payload handle keep).lut = c.lut := by
  simp [post]

@[simp] theorem reply_cur (c : Chip) (r : ReplyTo) (status : Nat) (detail : Word) : (reply c r status detail).cur = c.cur := by
  simp [reply]

@[simp] theorem reply_accepted (c : Chip) (r : ReplyTo) (status : Nat) (detail : Word) : (reply c r status detail).accepted = c.accepted := by
  simp [reply]

@[simp] theorem reply_dev (c : Chip) (r : ReplyTo) (status : Nat) (detail : Word) : (reply c r status detail).dev = c.dev := by
  simp [reply]

@[simp] theorem reply_lut (c : Chip) (r : ReplyTo) (status : Nat) (detail : Word) : (reply c r status detail).lut = c.lut := by
  simp [reply]

@[simp] theorem replyData_cur (c : Chip) (r : ReplyTo) (payload : List Byte) : (replyData c r payload).cur = c.cur := by
  simp [replyData]

@[simp] theorem replyData_accepted (c : Chip) (r : ReplyTo) (payload : List Byte) : (replyData c r payload).accepted = c.accepted := by
  simp [replyData]

@[simp] theorem replyData_dev (c : Chip) (r : ReplyTo) (payload : List Byte) : (replyData c r payload).dev = c.dev := by
  simp [replyData]

@[simp] theorem replyData_lut (c : Chip) (r : ReplyTo) (payload : List Byte) : (replyData c r payload).lut = c.lut := by
  simp [replyData]

@[simp] theorem accept_cur (c : Chip) (r : ReplyTo) : (accept c r).cur = c.cur := by
  simp [accept]

@[simp] theorem accept_dev (c : Chip) (r : ReplyTo) : (accept c r).dev = c.dev := by
  simp [accept]

@[simp] theorem accept_cores (c : Chip) (r : ReplyTo) : (accept c r).cores = c.cores := by
  simp [accept]

@[simp] theorem accept_courses (c : Chip) (r : ReplyTo) : (accept c r).courses = c.courses := by
  simp [accept]

@[simp] theorem accept_sys (c : Chip) (r : ReplyTo) : (accept c r).sys = c.sys := by
  simp [accept]

@[simp] theorem accept_tab (c : Chip) (r : ReplyTo) : (accept c r).tab = c.tab := by
  simp [accept]

@[simp] theorem accept_links (c : Chip) (r : ReplyTo) : (accept c r).links = c.links := by
  simp [accept]

@[simp] theorem accept_chans (c : Chip) (r : ReplyTo) : (accept c r).chans = c.chans := by
  simp [accept]

@[simp] theorem accept_islands (c : Chip) (r : ReplyTo) : (accept c r).islands = c.islands := by
  simp [accept]

@[simp] theorem accept_pegs (c : Chip) (r : ReplyTo) : (accept c r).pegs = c.pegs := by
  simp [accept]

@[simp] theorem complete_cur (c : Chip) (r : ReplyTo) (status : Nat) (detail : Word) : (complete c r status detail).cur = c.cur := by
  simp [complete]

@[simp] theorem complete_dev (c : Chip) (r : ReplyTo) (status : Nat) (detail : Word) : (complete c r status detail).dev = c.dev := by
  simp [complete]

@[simp] theorem complete_lut (c : Chip) (r : ReplyTo) (status : Nat) (detail : Word) : (complete c r status detail).lut = c.lut := by
  simp [complete]

@[simp] theorem wake_cur (c : Chip) (src slot : Nat) : (wake c src slot).cur = c.cur := by
  simp [wake]

@[simp] theorem wake_accepted (c : Chip) (src slot : Nat) : (wake c src slot).accepted = c.accepted := by
  simp [wake]

@[simp] theorem wake_dev (c : Chip) (src slot : Nat) : (wake c src slot).dev = c.dev := by
  simp [wake]

@[simp] theorem wake_lut (c : Chip) (src slot : Nat) : (wake c src slot).lut = c.lut := by
  simp [wake]

end Sys2Proof.Machine
end

section
/-! PROOFS. What writing to the host leaves unchanged. -/

namespace Sys2Proof.Machine

open Sys2Proof Sys2Proof.Safety

@[simp] theorem ite_queues {p : Prop} [Decidable p] (c d : Chip) : (if p then c else d).queues = if p then c.queues else d.queues :=
  apply_ite Chip.queues p c d

@[simp] theorem ite_fst_queues {p : Prop} [Decidable p] {α : Type} (c d : Chip × α) :
    (if p then c else d).1.queues = if p then c.1.queues else d.1.queues :=
  apply_ite (fun r => r.1.queues) p c d

@[simp] theorem foldl_queues {α : Type} {f : Chip → α → Chip} (hf : ∀ c a, (f c a).queues = c.queues) (l : List α) (c : Chip) :
    (l.foldl f c).queues = c.queues := by
  induction l generalizing c with
  | nil => rfl
  | cons a l ih => exact (ih (f c a)).trans (hf c a)

theorem foldl_fst_queues {α β : Type} {f : Chip × β → α → Chip × β} (hf : ∀ a x, (f a x).1.queues = a.1.queues) (l : List α)
    (a : Chip × β) : (l.foldl f a).1.queues = a.1.queues := by
  induction l generalizing a with
  | nil => rfl
  | cons x l ih => exact (ih (f a x)).trans (hf a x)

@[simp] theorem ite_regs {p : Prop} [Decidable p] (c d : Chip) : (if p then c else d).regs = if p then c.regs else d.regs :=
  apply_ite Chip.regs p c d

@[simp] theorem ite_fst_regs {p : Prop} [Decidable p] {α : Type} (c d : Chip × α) :
    (if p then c else d).1.regs = if p then c.1.regs else d.1.regs :=
  apply_ite (fun r => r.1.regs) p c d

@[simp] theorem foldl_regs {α : Type} {f : Chip → α → Chip} (hf : ∀ c a, (f c a).regs = c.regs) (l : List α) (c : Chip) :
    (l.foldl f c).regs = c.regs := by
  induction l generalizing c with
  | nil => rfl
  | cons a l ih => exact (ih (f c a)).trans (hf c a)

theorem foldl_fst_regs {α β : Type} {f : Chip × β → α → Chip × β} (hf : ∀ a x, (f a x).1.regs = a.1.regs) (l : List α)
    (a : Chip × β) : (l.foldl f a).1.regs = a.1.regs := by
  induction l generalizing a with
  | nil => rfl
  | cons x l ih => exact (ih (f a x)).trans (hf a x)

@[simp] theorem hostWrite_queues (c : Chip) (a : Nat) (l : List QWord) (n : Nat) : (hostWrite c a l n).queues = c.queues := by
  induction n generalizing c a l with
  | zero => rfl
  | succ n ih =>
    rw [hostWrite]
    split
    · rfl
    · rw [ih]
      simp

@[simp] theorem hostWriteBytes_queues (c : Chip) (a : Nat) (b : List Byte) : (hostWriteBytes c a b).queues = c.queues := by
  simp [hostWriteBytes]

@[simp] theorem sendDatagram_queues (c : Chip) (r : ReplyTo) (pkt : List Byte) : (sendDatagram c r pkt).queues = c.queues := by
  simp [sendDatagram]

@[simp] theorem sendDatagram_regs (c : Chip) (r : ReplyTo) (pkt : List Byte) : (sendDatagram c r pkt).regs = c.regs := by
  simp [sendDatagram]

@[simp] theorem keepReply_regs (c : Chip) (r : ReplyTo) (comp : Bool) (pkt : List Byte) : (keepReply c r comp pkt).regs = c.regs := by
  simp [keepReply]

end Sys2Proof.Machine
end


section
/-! PROOFS. Answering commands (R518, R519, R530): registers, the reply register of a ring, what a command's answer keeps. -/

namespace Sys2Proof.Machine

open Sys2Proof Sys2Proof.Safety

/-- Writes to the host that carry no poisoned word change no register. -/
theorem hostWrite_regs (c : Chip) (a : Nat) (l : List QWord) (n : Nat) (h : ∀ q ∈ l, q.p = false) : (hostWrite c a l n).regs = c.regs := by
  induction n generalizing c a l with
  | zero => rfl
  | succ n ih =>
    rw [hostWrite]
    split
    · rfl
    · have hclean (k : Nat) : ((l.take k).any fun q => q.p) = false := by
        rw [List.any_eq_false]
        intro q hq
        simp [h q (List.mem_of_mem_take hq)]
      rw [ih _ _ _ fun q hq => h q (List.mem_of_mem_drop hq)]
      simp [hclean]

@[simp] theorem hostWriteBytes_regs (c : Chip) (a : Nat) (b : List Byte) : (hostWriteBytes c a b).regs = c.regs := by
  apply hostWrite_regs
  simp

@[simp] theorem post_regs (c : Chip) (r : ReplyTo) (comp : Bool) (status : Nat) (detail : Word) (payload : List Byte) (handle : Nat)
    (keep : Bool) : (post c r comp status detail payload handle keep).regs = c.regs := by
  unfold post
  dsimp only
  (repeat' split) <;> simp

@[simp] theorem reply_regs (c : Chip) (r : ReplyTo) (status : Nat) (detail : Word) : (reply c r status detail).regs = c.regs := by
  simp [reply]

@[simp] theorem replyData_regs (c : Chip) (r : ReplyTo) (payload : List Byte) : (replyData c r payload).regs = c.regs := by
  simp [replyData]

@[simp] theorem accept_regs (c : Chip) (r : ReplyTo) : (accept c r).regs = c.regs := by
  simp [accept]

@[simp] theorem complete_regs (c : Chip) (r : ReplyTo) (status : Nat) (detail : Word) : (complete c r status detail).regs = c.regs := by
  unfold complete
  split
  · exact post_regs ..
  · rfl

theorem regVal_of_regs {c d : Chip} (h : d.regs = c.regs) (a : Nat) : regVal d a = regVal c a := by
  rw [regVal, regVal, h]

theorem onlyRegs_of_regs {c d : Chip} {l : List Nat} (h : d.regs = c.regs) : OnlyRegs l c d := fun a _ => regVal_of_regs h a

theorem queueOf_of_queues {c d : Chip} (h : d.queues = c.queues) (q : Nat) : queueOf d q = queueOf c q := by
  rw [queueOf, queueOf, h]

/-- An answer keeps a queue but for its reply register, the packets kept for it and its wake flags. -/
theorem queueOf_post (c : Chip) (r : ReplyTo) (comp : Bool) (status : Nat) (detail : Word) (payload : List Byte) (handle : Nat)
    (keep : Bool) (q : Nat) : ∃ w f l e, queueOf (post c r comp status detail payload handle keep) q =
      { queueOf c q with wake := w, wakeFail := f, replies := l, kept := e } := by
  have hupd (d : Chip) (k : Nat) (g : Queue → Queue) (hg : ∀ x, ∃ w f l e, g x = { x with wake := w, wakeFail := f, replies := l, kept := e })
      (hd : ∃ w f l e, queueOf d q = { queueOf c q with wake := w, wakeFail := f, replies := l, kept := e }) :
      ∃ w f l e, queueOf (updQueue d k g) q = { queueOf c q with wake := w, wakeFail := f, replies := l, kept := e } := by
    by_cases h : q = k
    · subst h
      obtain ⟨w, f, l, e, hd⟩ := hd
      obtain ⟨w', f', l', e', hg⟩ := hg (queueOf d q)
      exact ⟨w', f', l', e', by rw [queueOf_updQueue_same, hg, hd]⟩
    · simpa only [queueOf_updQueue_other (c := d) g h] using hd
  have hrefl : ∃ w f l e, queueOf c q = { queueOf c q with wake := w, wakeFail := f, replies := l, kept := e } := ⟨_, _, _, _, rfl⟩
  have hflags := hupd c r.queue (fun q => { q with wake := false, wakeFail := false }) (fun x => ⟨_, _, _, _, rfl⟩) hrefl
  unfold post
  dsimp only
  split
  · split
    · exact hrefl
    · refine hupd _ _ _ (fun x => ⟨_, _, _, _, rfl⟩) ?_
      split
      · exact hflags
      · simpa only [queueOf, hostWriteBytes_queues] using hflags
  · simp only [queueOf, sendDatagram_queues]
    split
    · unfold keepReply
      refine hupd _ _ _ (fun x => ?_) hflags
      split <;> exact ⟨_, _, _, _, rfl⟩
    · exact hflags

/-- An answer on a ring whose function can write to the host stands at the tail of the reply register. -/
theorem posted_post (c : Chip) (r : ReplyTo) (comp : Bool) (status : Nat) (detail : Word) (payload : List Byte) (handle : Nat)
    (keep : Bool) : Posted c (post c r comp status detail payload handle keep) r comp status := by
  intro hr hw
  simp only [post, hr, if_true, hw, Bool.not_true, Bool.false_eq_true, if_false, queueOf_updQueue_same]
  split
  · simp
  · simp [queueOf_of_queues (hostWriteBytes_queues _ _ _)]

end Sys2Proof.Machine
end


section
/-! PROOFS. Command queues (R521, R524 to R533): what each event makes of a ring. -/

namespace Sys2Proof.Machine

open Sys2Proof Sys2Proof.Safety

/-! ### Registers and the rest of the device -/

theorem bit_not (w : Word) {i : Nat} (h : i < 32) : bit (~~~w) i = !bit w i := by
  simp [bit_eq_getLsbD, h]

/-! ### Rings -/

theorem exec_cctlEnable (q : Nat) (w : Word) (s : State) :
    exec (.cctlEnable q w) s = onUnit (isRing q) s (fun c => xCctlEnable c q w) := rfl

theorem exec_commandDoorbell (q : Nat) (w : Word) (s : State) :
    exec (.commandDoorbell q w) s = onUnit (isRing q) s (fun c => xCommandDoorbell c q w) := rfl

theorem exec_rpopRead (q : Nat) (s : State) : exec (.rpopRead q) s = onUnit (isRing q) s (fun c => xRpopRead c q) := rfl

theorem exec_commandTake (hdr payload : List Byte) (raddr : Nat) (bad : Bool) (s : State) :
    exec (.commandTake hdr payload raddr bad) s = onChip s (fun c => xCommandTake c hdr payload raddr bad) := rfl

theorem isRing_of_lt {q : Nat} (h : q < 4) : isRing q = true := by
  simp [isRing, h]

/-- A ring that is off, enabled with a legal size. -/
theorem xCctlEnable_ready {c : Chip} {q : Nat} {w : Word} (hper : c.sys.per = true) (hq : q < 4) (hoff : queueEn c q = false)
    (hen : bit w 4 = true) (hlo : 2 ≤ bits w 3 0) (hhi : bits w 3 0 ≤ 12) :
    xCctlEnable c q w = updQueue
      (regSetFld (regSetFld (regClr c (rCMD q 8) (w &&& (if q = 0 then 0x8100 else 0x100)).toNat) (rCMD q 8) 3 0 (bits w 3 0))
        (rCMD q 8) 4 4 (b1 true)) q (fun r => { r with head := 0, tail := 0, expect := none }) := by
  have hwas : bit (regVal c (rCMD q 8)) 4 = false := hoff
  simp only [xCctlEnable, cctlWrite, hper, hq, hen, hoff, hwas, hlo, hhi, and_self, if_true, Bool.false_eq_true, if_false]

/-! ### What the checks of a command read -/

section

variable {c d : Chip} (hmem : d.mem = c.mem) (hregs : d.regs = c.regs)

include hmem

theorem byteAt_of_mem (a : Nat) : byteAt d a = byteAt c a := by
  rw [byteAt, byteAt, hmem]

theorem bytesAt_of_mem (a n : Nat) : bytesAt d a n = bytesAt c a n := by
  induction n generalizing a with
  | zero => rfl
  | succ n ih => rw [bytesAt, bytesAt, byteAt_of_mem hmem, ih]

theorem leNat_of_mem (a n : Nat) : leNat d a n = leNat c a n := by
  induction n generalizing a with
  | zero => rfl
  | succ n ih => rw [leNat, leNat, byteAt_of_mem hmem, ih]

theorem wordAt_of_mem (a : Nat) : wordAt d a = wordAt c a := by
  simp only [wordAt, leNat_of_mem hmem]

theorem dumpValid_of_mem (a n : Nat) : dumpValid d a n = dumpValid c a n := by
  simp only [dumpValid, leNat_of_mem hmem, bytesAt_of_mem hmem, wordAt_of_mem hmem]

theorem dumpRecord_of_mem (a n : Nat) : dumpRecord d a n = dumpRecord c a n := by
  rw [dumpRecord, dumpRecord, dumpValid_of_mem hmem, leNat_of_mem hmem]

theorem recValid_of_mem (i : Nat) : recValid d i = recValid c i := by
  simp only [recValid, leNat_of_mem hmem, bytesAt_of_mem hmem, wordAt_of_mem hmem]

theorem latestRec_of_mem : latestRec d = latestRec c := by
  simp only [latestRec, leNat_of_mem hmem, funext (recValid_of_mem hmem)]

include hregs

theorem dumpSel_congr (n : Nat) : dumpSel d n = dumpSel c n := by
  have harea : dumpArea d = dumpArea c := by
    simp only [dumpArea, regFld, regVal_of_regs hregs]
  have hfield : regFld d (rRET 0x02C) 0 0 = regFld c (rRET 0x02C) 0 0 := by
    rw [regFld, regFld, regVal_of_regs hregs]
  rw [dumpSel, dumpSel, harea, hfield, latestRec_of_mem hmem]
  simp only [dumpRecord_of_mem hmem, recValid_of_mem hmem]

/-- The checks of a command read the memories, the registers, the channels, the courses and the state of the device. -/
theorem chkCommand_congr (hchans : d.chans = c.chans) (hcourses : d.courses = c.courses) (hfixed : d.fixedUnison = c.fixedUnison)
    (hdev : d.dev = c.dev) (p : Packet) : chkCommand d p = chkCommand c p := by
  have hslot : slotOfHandle d p.handle = slotOfHandle c p.handle := by
    unfold slotOfHandle chanOf
    rw [hchans]
  have hunison (n : Nat) : inUnison d n = inUnison c n := by
    unfold inUnison courseOf
    rw [hcourses, hfixed]
  have hflash (a : Nat) : flashWritable d a = flashWritable c a := by
    simp only [flashWritable, regVal_of_regs hregs]
  have hparams : paramsOk d p = paramsOk c p := by
    simp only [paramsOk, courseParams, hflash, hunison]
  have hfits : replyFits d p = replyFits c p := by
    unfold replyFits dumpBytes
    rw [dumpSel_congr hmem hregs]
  have hstate : stateOk d p.opcode = stateOk c p.opcode := by
    unfold stateOk inRescue
    rw [hdev, regVal_of_regs hregs]
  unfold chkCommand
  rw [hfits, hstate, hslot, hparams]

end

/-- A bad read of the command at the head stops the ring and takes nothing. -/
theorem xCommandTake_bad {c : Chip} {q : Nat} (hdr pay : List Byte) (raddr : Nat) (htake : canTake c = true)
    (hnext : nextQueue c = some q) (hq : q < 4) : xCommandTake c hdr pay raddr true =
      { (regClr (regOr c (rCMD q 8) 0x100) (rCMD q 8) 0x10) with lastQueue := q } := by
  simp only [xCommandTake, htake, hnext, hq, Bool.not_true, Bool.false_eq_true, if_false, if_true]

/-- The device with the head of a ring moved on. -/
def headMoved (c : Chip) (q : Nat) : Chip :=
  { (updQueue c q fun r => { r with head := (r.head + 1) % 2 ^ regFld c (rCMD q 8) 3 0 }) with lastQueue := q }

theorem queueOf_headMoved (c : Chip) (q : Nat) : queueOf (headMoved c q) q =
    { queueOf c q with head := ((queueOf c q).head + 1) % 2 ^ regFld c (rCMD q 8) 3 0 } :=
  Tbl.get_put_same _ _ _ _

/-- The device with the head of a ring and its sequence number moved on. -/
def seqMoved (c : Chip) (q n : Nat) : Chip := updQueue (headMoved c q) q fun r => { r with expect := some ((n + 1) % 65536) }

/-- A packet of a ring is read, and its SEQ is checked before all else (R526). -/
theorem xCommandTake_ring {c : Chip} {q : Nat} (hdr pay : List Byte) (raddr : Nat) (htake : canTake c = true)
    (hnext : nextQueue c = some q) (hq : q < 4) : xCommandTake c hdr pay raddr false =
      let p := packetOf q hdr pay raddr 0 0
      let e := (queueOf c q).expect.getD p.seq
      if p.seq ≠ e then post (headMoved c q) (replyTo p) false stPARAM (wd (0x5E000000 + e)) [] p.handle false
      else match chkCommand (seqMoved c q p.seq) p with
        | some st => reply (seqMoved c q p.seq) (replyTo p) st 0
        | none => { (seqMoved c q p.seq) with cur := some p } := by
  have he : (queueOf (headMoved c q) q).expect = (queueOf c q).expect := by
    rw [queueOf_headMoved]
  simp only [xCommandTake, htake, hnext, hq, Bool.not_true, Bool.false_eq_true, if_false, if_true, takePacket]
  rw [← he]
  rfl

theorem chkCommand_seqMoved (c : Chip) (q n : Nat) (p : Packet) : chkCommand (seqMoved c q n) p = chkCommand c p := by
  apply chkCommand_congr <;> rfl

theorem queueOf_seqMoved (c : Chip) (q n : Nat) : queueOf (seqMoved c q n) q =
    { queueOf c q with head := ((queueOf c q).head + 1) % 2 ^ regFld c (rCMD q 8) 3 0, expect := some ((n + 1) % 65536) } := by
  rw [seqMoved, queueOf_updQueue_same, queueOf_headMoved]

theorem queueOf_handed (c : Chip) (p : Option Packet) (q : Nat) : queueOf { c with cur := p } q = queueOf c q := rfl

theorem seqMoved_regs (c : Chip) (q n : Nat) : (seqMoved c q n).regs = c.regs := rfl

theorem headMoved_cur (c : Chip) (q : Nat) : (headMoved c q).cur = c.cur := rfl

theorem seqMoved_cur (c : Chip) (q n : Nat) : (seqMoved c q n).cur = c.cur := rfl

theorem canWriteHost_headMoved (c : Chip) (q : Nat) : canWriteHost (headMoved c q) = canWriteHost c := rfl

theorem canWriteHost_seqMoved (c : Chip) (q n : Nat) : canWriteHost (seqMoved c q n) = canWriteHost c := rfl

theorem headMoved_keeps (c : Chip) (q : Nat) : KeepsWork c (headMoved c q) := ⟨rfl, rfl, rfl⟩

theorem seqMoved_keeps (c : Chip) (q n : Nat) : KeepsWork c (seqMoved c q n) := ⟨rfl, rfl, rfl⟩

theorem canTake_cur {c : Chip} (h : canTake c = true) : c.cur = none := by
  simp only [canTake, Bool.and_eq_true, Option.isNone_iff_eq_none] at h
  exact h.1.2

/-- The answer to a packet that is not taken: it stands in the reply register, and the queue keeps its head and SEQ. -/
theorem post_answers {c d : Chip} {p : Packet} {st : Nat} (detail : Word) (keep : Bool) (handle : Nat)
    (hcur : d.cur = none) (hrep : (queueOf d p.queue).replies = (queueOf c p.queue).replies) (hw : canWriteHost d = canWriteHost c)
    (payload : List Byte) : Answers c (post d (replyTo p) false st detail payload handle keep) p st := by
  refine ⟨?_, fun hq hhost => ?_⟩
  · simpa using hcur
  · rw [posted_post d (replyTo p) false st detail payload handle keep hq (hw.trans hhost)]
    exact congrArg (· ++ _) hrep

theorem post_keepsWork (c : Chip) (r : ReplyTo) (comp : Bool) (status : Nat) (detail : Word) (payload : List Byte) (handle : Nat)
    (keep : Bool) : KeepsWork c (post c r comp status detail payload handle keep) := ⟨by simp, by simp, by simp⟩

theorem reply_keepsWork (c : Chip) (r : ReplyTo) (status : Nat) (detail : Word) : KeepsWork c (reply c r status detail) :=
  post_keepsWork ..

theorem reply_answers {c d : Chip} {p : Packet} {st : Nat} (detail : Word) (hcur : d.cur = none)
    (hrep : (queueOf d p.queue).replies = (queueOf c p.queue).replies) (hw : canWriteHost d = canWriteHost c) :
    Answers c (reply d (replyTo p) st detail) p st :=
  post_answers detail true p.handle hcur hrep hw []

/-- An answer moves neither the head nor the SEQ of a queue. -/
theorem queueOf_post_place (c : Chip) (r : ReplyTo) (comp : Bool) (status : Nat) (detail : Word) (payload : List Byte) (handle : Nat)
    (keep : Bool) (q : Nat) : (queueOf (post c r comp status detail payload handle keep) q).head = (queueOf c q).head ∧
      (queueOf (post c r comp status detail payload handle keep) q).expect = (queueOf c q).expect := by
  obtain ⟨w, f, l, e, h⟩ := queueOf_post c r comp status detail payload handle keep q
  rw [h]
  exact ⟨rfl, rfl⟩

section CommandTake
variable {c : Chip} {q : Nat} (hdr pay : List Byte) (raddr : Nat) (htake : canTake c = true)
  (hnext : nextQueue c = some q) (hq : q < 4)

include htake hnext hq

/-- A command in its turn that passes the checks is in hand. -/
theorem xCommandTake_inHand (hseq : (queueOf c q).expect.getD (packetOf q hdr pay raddr 0 0).seq = (packetOf q hdr pay raddr 0 0).seq)
    (hchk : chkCommand c (packetOf q hdr pay raddr 0 0) = none) :
    let t := xCommandTake c hdr pay raddr false
    t.cur = some (packetOf q hdr pay raddr 0 0) ∧
      (queueOf t q).head = ((queueOf c q).head + 1) % 2 ^ regFld c (rCMD q 8) 3 0 ∧
      (queueOf t q).expect = some (((packetOf q hdr pay raddr 0 0).seq + 1) % 65536) ∧ t.lastQueue = q ∧
      KeepsWork c t ∧ OnlyRegs [] c t := by
  rw [xCommandTake_ring hdr pay raddr htake hnext hq]
  dsimp only
  rw [if_neg (by simpa using hseq.symm), chkCommand_seqMoved, hchk]
  dsimp only
  have hqueue := queueOf_seqMoved c q (packetOf q hdr pay raddr 0 0).seq
  refine ⟨rfl, ?_, ?_, rfl, ⟨rfl, rfl, rfl⟩, onlyRegs_of_regs ?_⟩
  · rw [queueOf_handed, hqueue]
  · rw [queueOf_handed, hqueue]
  · exact seqMoved_regs c q (packetOf q hdr pay raddr 0 0).seq

/-- A command in its turn that fails a check is answered with its status. -/
theorem xCommandTake_refused {st : Nat}
    (hseq : (queueOf c q).expect.getD (packetOf q hdr pay raddr 0 0).seq = (packetOf q hdr pay raddr 0 0).seq)
    (hchk : chkCommand c (packetOf q hdr pay raddr 0 0) = some st) :
    let t := xCommandTake c hdr pay raddr false
    Answers c t (packetOf q hdr pay raddr 0 0) st ∧
      (queueOf t q).head = ((queueOf c q).head + 1) % 2 ^ regFld c (rCMD q 8) 3 0 ∧
      (queueOf t q).expect = some (((packetOf q hdr pay raddr 0 0).seq + 1) % 65536) ∧ KeepsWork c t := by
  rw [xCommandTake_ring hdr pay raddr htake hnext hq]
  dsimp only
  rw [if_neg (by simpa using hseq.symm), chkCommand_seqMoved, hchk]
  dsimp only
  have hqueue := queueOf_seqMoved c q (packetOf q hdr pay raddr 0 0).seq
  obtain ⟨hhead, hexpect⟩ := queueOf_post_place (seqMoved c q (packetOf q hdr pay raddr 0 0).seq)
    (replyTo (packetOf q hdr pay raddr 0 0)) false st 0 [] (replyTo (packetOf q hdr pay raddr 0 0)).handle true q
  refine ⟨reply_answers 0 ((seqMoved_cur ..).trans (canTake_cur htake)) ?_ (canWriteHost_seqMoved ..), hhead.trans ?_, hexpect.trans ?_,
    keepsWork_trans (seqMoved_keeps c q _) (reply_keepsWork ..)⟩
  · exact (congrArg Queue.replies hqueue :)
  · rw [hqueue]
  · rw [hqueue]

/-- A command out of its turn is answered with PARAM. -/
theorem xCommandTake_outOfTurn {e : Nat} (he : (queueOf c q).expect = some e) (hne : (packetOf q hdr pay raddr 0 0).seq ≠ e) :
    let t := xCommandTake c hdr pay raddr false
    Answers c t (packetOf q hdr pay raddr 0 0) stPARAM ∧
      (queueOf t q).head = ((queueOf c q).head + 1) % 2 ^ regFld c (rCMD q 8) 3 0 ∧ (queueOf t q).expect = some e ∧ KeepsWork c t := by
  rw [xCommandTake_ring hdr pay raddr htake hnext hq]
  dsimp only
  have he' : (queueOf c q).expect.getD (packetOf q hdr pay raddr 0 0).seq = e := by rw [he]; rfl
  rw [he', if_pos hne]
  have hqueue := queueOf_headMoved c q
  obtain ⟨hhead, hexpect⟩ := queueOf_post_place (headMoved c q)
    (replyTo (packetOf q hdr pay raddr 0 0)) false stPARAM (wd (0x5E000000 + e)) [] (packetOf q hdr pay raddr 0 0).handle false q
  refine ⟨post_answers _ false _ ((headMoved_cur ..).trans (canTake_cur htake)) ?_ (canWriteHost_headMoved ..) [], hhead.trans ?_,
    hexpect.trans ?_, keepsWork_trans (headMoved_keeps c q) (post_keepsWork ..)⟩
  · exact (congrArg Queue.replies hqueue :)
  · rw [hqueue]
  · rw [hqueue]
    exact he

end CommandTake

/-- Settles O50. A ring's head and SEQ are moved on first, and the answer or the packet in hand leaves both as they stand. -/
theorem commandQueues : Obligations.CommandQueues := by
  unfold Obligations.CommandQueues
  intro s q hq hper c
  have hper : c.sys.per = true := hper
  have hring := isRing_of_lt hq
  refine ⟨fun w hoff hen hlo hhi => leaves_of_onUnit (exec_cctlEnable q w s) hring ?_, fun w hen => ⟨fun hfits => ?_, fun hbig => ?_⟩,
    leaves_of_onUnit (exec_rpopRead q s) hring ?_, fun hdr pay raddr htake hnext => ⟨?_, fun hseq hchk => ?_, fun st hseq hchk => ?_,
      fun e he hne => ?_⟩⟩
  · rw [xCctlEnable_ready hper hq hoff hen hlo hhi]
    refine ⟨?_, ?_, ?_, ⟨rfl, rfl, rfl⟩, ?_⟩
    · exact Tbl.get_put_same _ _ _ _
    · rw [queueEn, regVal_updQueue, regSetFld, regVal_regUpd_same]
      exact bit_setBits_same _ true (by decide)
    · rw [regVal_updQueue, regSetFld, regVal_regUpd_same, bits_setBits_apart _ _ (by decide) (by decide) (by decide), regSetFld,
        regVal_regUpd_same, bits_setBits_same _ _ (by decide) (by decide)]
      exact Nat.mod_eq_of_lt (bits_lt w 3 0)
    · intro a ha
      have hne : a ≠ rCMD q 8 := by simpa using ha
      rw [regVal_updQueue, regSetFld, regVal_regUpd_other _ _ hne, regSetFld, regVal_regUpd_other _ _ hne, regClr,
        regVal_regUpd_other _ _ hne]
  · refine leaves_of_onUnit (exec_commandDoorbell q w s) hring ?_
    have hput : xCommandDoorbell c q w = updQueue c q (fun r => { r with tail := bits w 15 0 }) := by
      simp only [xCommandDoorbell, cdbWrite, hper, hq, hen, and_self, if_true, Bool.true_eq_false, if_false, Nat.not_le.mpr hfits]
    rw [hput]
    exact ⟨Tbl.get_put_same _ _ _ _, ⟨rfl, rfl, rfl⟩, onlyRegs_of_regs rfl⟩
  · refine leaves_of_onUnit (exec_commandDoorbell q w s) hring ?_
    have hput : xCommandDoorbell c q w = cmdCfgErr (updQueue c q (fun r => { r with tail := 0 })) := by
      simp only [xCommandDoorbell, cdbWrite, hper, hq, hen, and_self, if_true, Bool.true_eq_false, if_false, hbig]
    rw [hput]
    refine ⟨?_, ?_, ⟨rfl, rfl, rfl⟩⟩
    · rw [cmdCfgErr, queueOf_regOr, queueOf_updQueue_same]
    · rw [cmdCfgErr, regOr, regVal_regUpd_same, bit_or, show bit (wd 0x8000) 15 = true by decide, Bool.or_true]
  · have hpop : xRpopRead c q = emit (updQueue c q (fun r => { r with replies := r.replies.drop 1 }))
        (.read (rCMD q 0x10) ((queueOf c q).replies.headD 0xFF)) := by
      simp only [xRpopRead, readOut, rpop, rpeek, hper, hq, if_true]
    rw [hpop]
    exact ⟨rfl, Tbl.get_put_same _ _ _ _, ⟨rfl, rfl, rfl⟩, onlyRegs_of_regs rfl⟩
  · refine leaves_of_onChip (exec_commandTake hdr pay raddr true s) ?_
    rw [xCommandTake_bad hdr pay raddr htake hnext hq]
    have hctl : regVal (regClr (regOr c (rCMD q 8) 0x100) (rCMD q 8) 0x10) (rCMD q 8) =
        (regVal c (rCMD q 8) ||| wd 0x100) &&& ~~~ wd 0x10 := by
      rw [regClr, regVal_regUpd_same, regOr, regVal_regUpd_same]
    refine ⟨?_, ?_, canTake_cur htake, rfl, ⟨rfl, rfl, rfl⟩⟩
    · refine (congrArg (bit · 8) hctl).trans ?_
      rw [bit_and, bit_or, bit_not _ (by decide), show bit (wd 0x100) 8 = true by decide, show bit (wd 0x10) 8 = false by decide]
      simp
    · refine (congrArg (bit · 4) hctl).trans ?_
      rw [bit_and, bit_not _ (by decide), show bit (wd 0x10) 4 = true by decide]
      simp
  · exact leaves_of_onChip (exec_commandTake hdr pay raddr false s) (xCommandTake_inHand hdr pay raddr htake hnext hq hseq hchk)
  · exact leaves_of_onChip (exec_commandTake hdr pay raddr false s) (xCommandTake_refused hdr pay raddr htake hnext hq hseq hchk)
  · exact leaves_of_onChip (exec_commandTake hdr pay raddr false s) (xCommandTake_outOfTurn hdr pay raddr htake hnext hq he hne)

end Sys2Proof.Machine
end


section
/-! PROOFS. Commands of memory and registers (R550, R551). -/

namespace Sys2Proof.Machine

open Sys2Proof Sys2Proof.Safety

/-- REG_READ of cluster 0's CAMSEL. -/
def readOfCam : Packet :=
  ⟨0, 0x17, 0, 0, 0, 0, 0, 0x60200040, 0, [], 0, 0, 0, []⟩

/-- REG_READ of a register of a cam engine whose queue holds an operation. -/
def camBusyDevice : Chip :=
  { dev := .standby, cur := some readOfCam, pegs := [(1, ⟨.on, false⟩)], cams := [(0, { queue := [⟨0, 0, 0, 0, 0, 0, 0, 0⟩] })] }

theorem exec_regRead (s : State) : exec .regRead s = onChip s (fun c => xRegRead c) := rfl

/-- Refutes O52: the statement's clause on REG_READ has no hypothesis on what register is read. One of a cam engine that has work queued
is read once the work is done, and until then the command stays in hand. -/
theorem not_resourceCommands : ¬ Obligations.ResourceCommands := by
  unfold Obligations.ResourceCommands
  intro h
  obtain ⟨-, -, hread, -⟩ := h { chip := camBusyDevice, pending := [] } readOfCam
  obtain ⟨t, ht, -, hanswer⟩ := hread ⟨rfl, rfl, by decide, rfl⟩
  have hstays : (xRegRead camBusyDevice).cur = some readOfCam := by decide
  rw [exec_regRead, onChip_eq] at ht
  cases ht
  have hempty : (xRegRead camBusyDevice).cur = none :=
    (congrArg Chip.cur hanswer).trans (by decide)
  exact absurd (hstays.symm.trans hempty) (by decide)

end Sys2Proof.Machine
end


section
/-! PROOFS. Power states (R54 to R57, R613 to R641). -/

namespace Sys2Proof.Machine

open Sys2Proof Sys2Proof.Safety

/-- A note in flight that halts the device where it fails (ON-MISS 3). -/
def haltingNote : Job := ⟨5, false, 0, 0, 0, 0, 0, 0, 0, 0x30000, false, 0, 0, 0⟩

/-- A device that runs with REGESC clear, island 0 on, and a CAMOUT of that note at work in an engine of the island that has no table. -/
def camoutAtWork : Chip :=
  { dev := .running, regs := [(0x60008010, 0)], islands := [(0, .on)],
    pegs := [(1, ⟨.on, false⟩)], cams := [(0, { queue := [⟨1, 0, 0, 0, 0, 0, 0, 5⟩] })],
    tab := { lanes := [(0, { fl := [haltingNote] })] } }

theorem exec_regulatorFault (k : Nat) (s : State) : exec (.regulatorFault k) s = onUnit (isIsland k) s (fun c => xRegulatorFault c k) := rfl

/-- Refutes O55: the statement's clause on a regulator fault has the device state unchanged where the fault is not fatal. Where a CAMOUT is at
work in an engine that loses its power, its note fails with the engine, and its ON-MISS may halt the device. -/
theorem not_powerStates : ¬ Obligations.PowerStates := by
  unfold Obligations.PowerStates
  intro h
  obtain ⟨-, -, -, -, -, -, hfault, -⟩ := h { chip := camoutAtWork, pending := [] } 0 (by decide)
  obtain ⟨t, ht, -, -, -, -, -, hsame, -⟩ := hfault (by decide) rfl
  have hdev : (xRegulatorFault camoutAtWork 0).dev = .halted := by decide +kernel
  have hsame := hsame (by decide)
  rw [exec_regulatorFault, show isIsland 0 = true from rfl, onUnit_true] at ht
  rw [← Host.Outcome.next.inj ht] at hsame
  exact absurd (hdev.symm.trans hsame) (by decide)

end Sys2Proof.Machine
end


section
/-! PROOFS. Cam and profile engines (R401 to R427). -/

namespace Sys2Proof.Machine

open Sys2Proof Sys2Proof.Safety

/-- A CAMOFS of a core whose result lands in both strings of its course, at the head of engine 0's stream; string B waits for it. The
course has gone over to split. -/
def camofsOfPair : Chip :=
  { pegs := [(1, ⟨.on, false⟩)], cams := [(0, { queue := [⟨0, 0, 5, 0, 0, 0, 0, 1⟩] })],
    cores := [(1, { flights := [⟨0x75, 0, false, 0, 0, 4, false, false, 0, 0, false, false, 0, 0, 0⟩] })] }

theorem exec_camPerform (e ecc at_ : Nat) (s : State) :
    exec (.camPerform e ecc at_) s = onUnit (isCluster e && isEcc ecc) s (fun c => xCamPerform c e ecc at_) := rfl

/-- Refutes O44: the statement's clause on CAMOFS has no other string changed where the course is in split as the operation is performed.
One that both strings released (R419) lands in both. -/
theorem not_camEvents : ¬ Obligations.CamEvents := by
  unfold Obligations.CamEvents
  intro h
  obtain ⟨hperform, -⟩ := h { chip := camofsOfPair, pending := [] } 0 (by decide) (by decide)
  obtain ⟨hofs, -⟩ := hperform ⟨0, 0, 5, 0, 0, 0, 0, 1⟩ [] 0 rfl rfl
  obtain ⟨t, ht, -, -, -, -, -, hothers⟩ := hofs rfl rfl (by decide)
  have hother := hothers 1 (by decide)
  have hlanded : ((coreOf (xCamPerform camofsOfPair 0 0 0) 1).flights.map fun f => f.ready) = [true] := by decide
  rw [exec_camPerform, show (isCluster 0 && isEcc 0) = true from rfl, onUnit_true] at ht
  rw [← Host.Outcome.next.inj ht] at hother
  exact absurd (hlanded.symm.trans (congrArg (fun r => r.flights.map fun f => f.ready) hother)) (by decide)

end Sys2Proof.Machine
end


section
/-! PROOFS. Lanes (R333, R338, R339, R374). -/

namespace Sys2Proof.Machine

open Sys2Proof Sys2Proof.Safety

/-- A FILL of one word, 7, into the first word of cluster 0's store. -/
def fillNote : Job := ⟨1, false, 0, 0, 0, 0, 0x02000000, 7, 0x10000000, 4, false, 0, 0, 0⟩

/-- That note at the head of lane 0, with the router port on its way stopped by a flit error. -/
def fillBehindStop : Chip :=
  { stopped := [5], pegs := [(0, ⟨.on, false⟩)], tab := { lanes := [(0, { q := [fillNote] })] }, sys := { per := true } }

theorem exec_noteStart (lane hs : Nat) (data : List Word) (ep : List Nat) (s : State) :
    exec (.noteStart lane hs data ep) s = onUnit (isLane lane) s (fun c => xNoteStart c lane hs data ep) := rfl

/-- Refutes O43: the statement's clause on a note that starts has no hypothesis on the ports on its way. Where one is stopped by a head
flit error (R272), the note stays in its queue. -/
theorem not_laneEvents : ¬ Obligations.LaneEvents := by
  unfold Obligations.LaneEvents
  intro h
  obtain ⟨hstart, -⟩ := h { chip := fillBehindStop, pending := [] } rfl
  obtain ⟨hone, -⟩ := hstart 0 0 [] [] fillNote [] (by decide) rfl rfl (by decide) (by decide) rfl (by decide)
  obtain ⟨hfill, -⟩ := hone (by decide) (by decide) (by decide) (by decide)
  obtain ⟨t, ht, -, hqueue, -⟩ := hfill (by decide)
  have hstays : (laneOf (xNoteStart fillBehindStop 0 0 [] []) 0).q = [fillNote] := by decide
  rw [exec_noteStart, show isLane 0 = true from rfl, onUnit_true] at ht
  rw [← Host.Outcome.next.inj ht] at hqueue
  exact absurd (hstays.symm.trans hqueue) (by decide)

end Sys2Proof.Machine
end

section
/-! PROOFS. SEND and SENDT (R206, R211, R304). -/

namespace Sys2Proof.Machine

open Sys2Proof Sys2Proof.Safety

/-- Course 0 in unison: string A has placed a SEND of 1 on channel 0, and string B stands at a SEND of 2 on it. -/
def unequalSends : Chip :=
  { cores := [(0, { halted := false, started := true, words := 1 }),
              (1, { halted := false, started := true, stk := [0x1000, 2],
                    lines := [⟨0, [(encodeWord .send).1, (encodeWord .send).2, 0, 0, 0, 0, 0, 0]⟩] })],
    courses := [(0, { mode := 1, pairs := [⟨⟨1, 0x1000, 4, 1, 0, 0, 0, 0, false, true⟩, false, 0⟩] })],
    chans := [(0, { opened := true, gen := 1, kind := 1, reserved := 1 })],
    pegs := [(0, ⟨.on, false⟩)] }

theorem exec_send (k : Nat) (rep : Bool) (s : State) :
    exec (.send k rep) s = onUnit (isCore k) s (fun c => xSend c k rep) := rfl

/-- Refutes O27: the statement's clause on string B has the channel unchanged, whatever pair its half meets. An unequal half is a
mismatch, which discards string A's pair and gives the place reserved for it back (R211). -/
theorem not_sendWords : ¬ Obligations.SendWords := by
  unfold Obligations.SendWords
  intro h
  obtain ⟨d, g, hgo⟩ := Prep.go_of_goOps (p := begin_ unequalSends 1 false .send 1 (fun _ => none)) (ops := [0x1000, 2])
    (by decide)
  obtain ⟨-, -, hsecond, -, -⟩ := h { chip := unequalSends, pending := [] } 1 false d g [0x1000, 2] (by decide)
  obtain ⟨t, ht, -, -, hchan, -⟩ := hsecond
    ⟨⟨by decide, by decide, by decide, by decide⟩, by decide, by decide, by decide, by decide, by decide, by decide⟩ (by decide)
    ⟨by decide, by decide, by decide⟩ hgo
  have hreturned : (chanOf (xSend unequalSends 1 false) 0).reserved = 0 := by decide
  rw [exec_send, show isCore 1 = true from rfl, onUnit_true] at ht
  cases ht
  exact absurd (hreturned.symm.trans (congrArg Chan.reserved hchan)) (by decide)

end Sys2Proof.Machine
end

section
/-! PROOFS. RECV and RECVT (R206, R213, R305). -/

namespace Sys2Proof.Machine

open Sys2Proof Sys2Proof.Safety

/-- Course 0 in unison: string A has received 5 on channel 1 and placed a SEND on channel 0; string B stands at the RECVT with a
full hardware stack, so that its word spills. -/
def spillBesideSend : Chip :=
  { cores := [(0, { halted := false, started := true, words := 1 }),
              (1, { halted := false, started := true, stk := [0x1001, 0, 0, 0, 0, 0, 0, 0], csr := [(0x08, 0x4000), (0x09, 0x8000), (0x0A, 0x7000)],
                    lines := [⟨0, [(encodeWord .recvt).1, (encodeWord .recvt).2, 0, 0, 0, 0, 0, 0]⟩] })],
    courses := [(0, { mode := 1, pairs := [⟨⟨1, 0x1000, 4, 1, 0, 0, 0, 0, false, true⟩, false, 0⟩],
                      log := [⟨0x33, 0x1001, 0, [5, 1], true, none, 0, 0, false, true, false⟩] })],
    chans := [(0, { opened := true, gen := 1, kind := 1, reserved := 1 }), (1, { opened := true, gen := 1, kind := 1 })],
    pegs := [(0, ⟨.on, false⟩)] }

theorem exec_recvt (k : Nat) (rep : Bool) (s : State) :
    exec (.recvt k rep) s = onUnit (isCore k) s (fun c => xRecvt c k rep) := rfl

/-- Refutes O28: the statement's clause on string B has every channel unchanged. The RECVT of a full hardware stack spills, the
spill is an entry compared with string A's oldest pair, and a mismatch gives the place reserved by that pair's SEND back (R211). -/
theorem not_receiveWords : ¬ Obligations.ReceiveWords := by
  unfold Obligations.ReceiveWords
  intro h
  obtain ⟨d, g, hgo⟩ := Prep.go_of_goOps (p := begin_ spillBesideSend 1 false .recvt 0 (fun _ => none)) (ops := [0x1001])
    (by decide)
  obtain ⟨-, -, hsecond, -⟩ := h { chip := spillBesideSend, pending := [] } 1 false d g [0x1001] (by decide)
  obtain ⟨-, hrecvt⟩ := hsecond ⟨0x33, 0x1001, 0, [5, 1], true, none, 0, 0, false, true, false⟩ rfl
  obtain ⟨t, ht, -, -, hchans⟩ := hrecvt ⟨by decide, by decide, by decide, by decide, by decide, by decide⟩ hgo
  have hreturned : (chanOf (xRecvt spillBesideSend 1 false) 0).reserved = 0 := by decide
  rw [exec_recvt, show isCore 1 = true from rfl, onUnit_true] at ht
  cases ht
  exact absurd (hreturned.symm.trans (congrArg (fun l => (Tbl.get ({} : Chan) l 0).reserved) hchans)) (by decide)

end Sys2Proof.Machine
end

section
/-! PROOFS. Channel engines (R304). -/

namespace Sys2Proof.Machine

open Sys2Proof Sys2Proof.Safety

/-- String 0 waits in a SENDT on a channel that is a stream. -/
def sendtOnStream : Chip :=
  { cores := [(0, { wait := some ⟨5, 0x1000, 7, 2, false⟩ })],
    chans := [(0, { opened := true, gen := 1, kind := 1, credit := 1, k := 1 })] }

theorem exec_mailboxSendArrival (k : Nat) (s : State) :
    exec (.mailboxSendArrival k) s = onUnit (isCore k) s (fun c => xMailboxSendArrival c k) := rfl

/-- Refutes O29: the statement's clause on a SENDT that finds room has no hypothesis on the kind of the channel. Where the channel
is a stream, the word that waits is taken without a status. -/
theorem not_channelEngines : ¬ Obligations.ChannelEngines := by
  unfold Obligations.ChannelEngines
  intro h
  obtain ⟨harrival, -⟩ := h { chip := sendtOnStream, pending := [] } 0 0 ⟨5, 0x1000, 7, 2, false⟩ (by decide) (by decide) (by decide)
    (by decide) (by decide) (by decide) (by decide) rfl
  obtain ⟨-, hsendt, -⟩ := harrival (by decide) ⟨by decide, by decide, by decide, by decide⟩ (by decide) (by decide) (by decide)
  obtain ⟨t, ht, -, ⟨-, hstack, -⟩, -⟩ := hsendt (by decide) (by decide) (by decide) (by decide)
  have hempty : (coreOf (xMailboxSendArrival sendtOnStream 0) 0).stk = [] := by decide
  rw [exec_mailboxSendArrival, show isCore 0 = true from rfl, onUnit_true] at ht
  rw [← Host.Outcome.next.inj ht] at hstack
  exact absurd (hempty.symm.trans hstack) (by decide)

end Sys2Proof.Machine
end

section
/-! PROOFS. CLAIM, COMPLETE and CPL (R206, R224, R576). -/

namespace Sys2Proof.Machine

open Sys2Proof Sys2Proof.Safety

/-- Course 0 in unison with source 7 presented to it: string A has placed a COMPLETE of source 5, and string B stands at a COMPLETE
of source 6. -/
def unequalCompletes : Chip :=
  { cores := [(0, { halted := false, started := true, words := 1 }),
              (1, { halted := false, started := true, stk := [6],
                    lines := [⟨0, [(encodeWord (.csrw 0x1B)).1, (encodeWord (.csrw 0x1B)).2, 0, 0, 0, 0, 0, 0]⟩] })],
    courses := [(0, { mode := 1, pairs := [⟨⟨2, 0, 4, 5, 0, 0, 0, 0, false, false⟩, false, 0⟩] })],
    srcs := [(7, { st := 2, holder := 0 })],
    pegs := [(0, ⟨.on, false⟩)] }

theorem exec_csrwComplete (k : Nat) (rep : Bool) (s : State) :
    exec (.csrwComplete k rep) s = onUnit (isCore k) s (fun c => xCsrwComplete c k rep) := rfl

/-- Refutes O34: the statement's clause on a COMPLETE of string B has every source unchanged, whatever pair its half meets. An
unequal half is a mismatch, and what was presented to the course is withdrawn. -/
theorem not_claimWords : ¬ Obligations.ClaimWords := by
  unfold Obligations.ClaimWords
  intro h
  obtain ⟨d, g, hgo⟩ := Prep.go_of_goOps (p := begin_ unequalCompletes 1 false (.csrw 0x1B) 1 (fun _ => none)) (ops := [6])
    (by decide)
  obtain ⟨-, hcomplete, -⟩ := h { chip := unequalCompletes, pending := [] } 1 false d g [6] (by decide)
  obtain ⟨-, hsecond⟩ := hcomplete hgo
  obtain ⟨t, ht, -, -, hsrcs⟩ := hsecond ⟨by decide, by decide, by decide⟩
  have hwithdrawn : (srcOf (xCsrwComplete unequalCompletes 1 false) 7).st = 1 := by decide
  rw [exec_csrwComplete, show isCore 1 = true from rfl, onUnit_true] at ht
  rw [← Host.Outcome.next.inj ht] at hsrcs
  exact absurd (hwithdrawn.symm.trans (congrArg (fun l => (Tbl.get ({} : Src) l 7).st) hsrcs)) (by decide)

end Sys2Proof.Machine
end

section
/-! PROOFS. The coprocessor words (R206, R230, R419). -/

namespace Sys2Proof.Machine

open Sys2Proof Sys2Proof.Safety

/-- Course 0 in unison without rollback: string B, with a load of its own SRAM on its way, stands at a CPWR of 9, and string A's half of
it is marked as written to the course's own SRAM. -/
def cpwrBesideLoad : Chip :=
  { cores := [(0, { halted := false, started := true, words := 1 }),
              (1, { halted := false, started := true, stk := [9],
                    flights := [⟨0x20, 2, false, 0, 0x100, 4, false, false, 0, 0, false, false, 0, 0, 0⟩],
                    bus := [⟨0, 2, 0x100, 4, 0, 0, false, false, 0⟩],
                    lines := [⟨0, [(encodeWord (.cp 0 0 0)).1, (encodeWord (.cp 0 0 0)).2, 0, 0, 0, 0, 0, 0]⟩] })],
    courses := [(0, { mode := 1, ctl := 0, pairs := [⟨⟨3, 0, 4, 9, 0, 0, 0, 0, true, false⟩, false, 0⟩] })],
    pegs := [(0, ⟨.on, false⟩)] }

theorem exec_cpwr (k : Nat) (rep : Bool) (slot : BitVec 2) (sel : BitVec 5) (s : State) :
    exec (.cpwr k rep slot sel) s = onUnit (isCore k) s (fun c => xCpwr c k rep slot sel) := rfl

/-- Refutes O35: the statement's clause on string B's half has every result in flight as before, whatever string A's half is. Where
that half is one the pair's agreement performs in the course's own SRAM, the loads of it on their way come first, and the
result of one is then there. -/
theorem not_coprocessorWords : ¬ Obligations.CoprocessorWords := by
  unfold Obligations.CoprocessorWords
  intro h
  obtain ⟨d, g, hgo⟩ := Prep.go_of_goOps (p := begin_ cpwrBesideLoad 1 false (.cp 0 0 0) 1 (fun _ => none)) (ops := [9])
    (by decide)
  obtain ⟨-, -, -, hunison, -⟩ := h { chip := cpwrBesideLoad, pending := [] } 1 false 0 0 d g [9] (by decide) (by decide) (by decide)
  have hsecond : Seconds cpwrBesideLoad 1 := ⟨by decide, by decide, by decide⟩
  obtain ⟨hcpwr, -, -⟩ := hunison (Or.inr hsecond)
  obtain ⟨t, ht, -, -, -, hheld⟩ := hcpwr hgo
  obtain ⟨⟨-, f, hflights, -⟩, -⟩ := hheld hsecond (by decide)
  have hloaded : ((coreOf (xCpwr cpwrBesideLoad 1 false 0 0) 1).flights.map (fun f => f.ready)).head? = some true := by decide
  rw [exec_cpwr, show isCore 1 = true from rfl, onUnit_true] at ht
  rw [← Host.Outcome.next.inj ht] at hflights
  have hbefore : some true = some false :=
    hloaded.symm.trans (congrArg (fun l => (l.map (fun f : Flight => f.ready)).head?) hflights)
  exact absurd hbefore (by decide)

end Sys2Proof.Machine
end

section
/-! PROOFS. Agreed reads (R205, R213, R214): which way a read of a string goes, and what it leaves of the read log. -/

namespace Sys2Proof.Machine

open Sys2Proof Sys2Proof.Safety

theorem isB_first {k : Nat} (h : k % 2 = 0) : isB k = false := decide_eq_false (by omega)

theorem isB_second {k : Nat} (h : k % 2 = 1) : isB k = true := decide_eq_true h

/-! ### What a fetch leaves of the course -/

theorem leads_fetched {c d : Chip} {k : Nat} (h : Leads c k) (hF : JustFetched c d k) : Leads d k := by
  obtain ⟨hu, hk, hlog, hahead, hstk⟩ := h
  obtain ⟨l, hl⟩ := hF.core
  have hcourse := fetched_courseOf hF (courseNo k)
  exact ⟨by rw [fetched_inUnison hF, hu], hk, by rw [hcourse, hlog], by rw [hcourse, hahead], by rw [hl]; exact hstk⟩

theorem follows_fetched {c d : Chip} {k kind addr size : Nat} {e : LogEnt} (h : Follows c k e kind addr size) (hF : JustFetched c d k) :
    Follows d k e kind addr size := by
  obtain ⟨hu, hk, hnext, hready, hsame, hstk⟩ := h
  obtain ⟨l, hl⟩ := hF.core
  have hbNext : bNext d (courseNo k) = bNext c (courseNo k) := by rw [bNext, bNext, fetched_courseOf hF]
  exact ⟨by rw [fetched_inUnison hF, hu], hk, by rw [hbNext, hnext], hready, hsame, by rw [hl]; exact hstk⟩

theorem fetched_ckptFirst {c d : Chip} {k : Nat} (hF : JustFetched c d k) : ckptFirst d k = ckptFirst c k := by
  obtain ⟨l, hl⟩ := hF.core
  rw [ckptFirst, ckptFirst, fetched_inUnison hF, hl]

theorem ckptFirst_split {c : Chip} {k : Nat} (h : inUnison c (courseNo k) = false) : ckptFirst c k = false := by
  rw [ckptFirst, h]
  rfl

/-! ### The ways of a read -/

section Reader
variable {c : Chip} {k kind addr size : Nat} {logged always : Bool}

/-- A string in split reads for itself, a logged read where no replay is in progress. -/
theorem reader_split (hu : inUnison c (courseNo k) = false) (hlog : logged = true → (courseOf c (courseNo k)).log = []) :
    reader c k logged always kind addr size = .self := by
  unfold reader
  cases logged with
  | false => simp [hu]
  | true => simp [hu, replayNext, hlog rfl]

/-- In fixed unison each string makes the reads that are neither logged nor always agreed. -/
theorem reader_fixed (hu : inUnison c (courseNo k) = true) (hf : c.fixedUnison = true) :
    reader c k false false kind addr size = .self := by
  unfold reader
  simp [hu, hf]

/-- String A makes an agreed read, to be entered in the read log. -/
theorem reader_first (h : Leads c k) (ha : logged = true ∨ always = true ∨ c.fixedUnison = false) :
    reader c k logged always kind addr size = .lead := by
  have hfixed : (c.fixedUnison && !logged && !always) = false := by
    rcases ha with h | h | h <;> simp [h]
  unfold reader
  simp [h.unison, isB_first h.first, h.log, replayNext, hfixed]

/-- String B takes the values of the log's entry. -/
theorem reader_second {e : LogEnt} (h : Follows c k e kind addr size) (ha : logged = true ∨ always = true ∨ c.fixedUnison = false) :
    reader c k logged always kind addr size = .given (takeB c (courseNo k)) e.vals e.trap := by
  have hfixed : (c.fixedUnison && !logged && !always) = false := by
    rcases ha with h | h | h <;> simp [h]
  unfold reader
  simp [h.unison, isB_second h.second, h.next, h.same, h.ready, hfixed]

end Reader

/-! ### The read log -/

theorem takeB_oneCourse (c : Chip) (n : Nat) : OneCourse c (takeB c n) n := oneCourse_updCourse c n _

theorem logRead_oneCourse (c : Chip) (k : Nat) (logged : Bool) (kind addr size slot : Nat) (vals : List Word) (ready : Bool)
    (trap : Option ITrap) : OneCourse c (logRead c k logged kind addr size slot vals ready trap) (courseNo k) := by
  unfold logRead
  exact oneCourse_updCourse c _ _

theorem logRead_course {c : Chip} {k : Nat} (h : (courseOf c (courseNo k)).log = []) (logged : Bool) (kind addr size slot : Nat)
    (vals : List Word) (ready : Bool) (trap : Option ITrap) :
    courseOf (logRead c k logged kind addr size slot vals ready trap) (courseNo k) = { courseOf c (courseNo k) with
      log := [⟨kind, addr, size, vals, ready, trap, (coreOf c k).words, slot, logged && rbkOf c (courseNo k), true, false⟩] } := by
  unfold logRead
  rw [courseOf_updCourse_same, h]
  rfl

theorem enters_logRead {c : Chip} {k : Nat} (h : Enters c k) (hlog : (courseOf c (courseNo k)).log = []) (logged : Bool)
    (kind addr size slot : Nat) (vals : List Word) (ready : Bool) (trap : Option ITrap) :
    Enters (logRead c k logged kind addr size slot vals ready trap) k := by
  have hcourse := logRead_course hlog logged kind addr size slot vals ready trap
  obtain ⟨hu, hk, hb, hp⟩ := h
  unfold inUnison at hu
  unfold placesNone at hp
  refine ⟨?_, hk, ?_, ?_⟩
  · rw [inUnison, hcourse]
    exact hu
  · rw [hcourse]
    exact hb
  · rw [placesNone, hcourse]
    exact hp

/-! ### The end of a word that reads -/

theorem csrVal_oneCourse {c d : Chip} {n : Nat} (h : OneCourse c d n) (k i : Nat) : csrVal d k i = csrVal c k i := by
  obtain ⟨⟨_, hc⟩, -⟩ := h
  rw [hc]
  rfl

/-- What a course's log holds does not count for the end of a word. -/
theorem wordEnd_oneCourse {c d e : Chip} {k n m : Nat} {g : Fills} {res : List Word} {pc : Nat} (h : OneCourse c d m)
    (hE : WordEnd d e k g n res pc) : WordEnd c e k g n res pc := by
  have hcore := oneCourse_coreOf h k
  have hcsr := csrVal_oneCourse h k
  obtain ⟨hs, hg, hw, hp, hv, ⟨_, _, _, _, _, _, _, _, _, _, hk⟩, hf⟩ := hE
  refine ⟨hs, goesOn_congr hg (by rw [hcore]) (by rw [hcore]) (hcsr _), by rw [hw, hcore], ?_, fun i h1 h2 => by rw [hv i h1 h2, hcsr],
    ⟨_, _, _, _, _, _, _, _, _, _, by rw [hk, hcore]⟩, ?_⟩
  · rw [hp, sptrEnd, sptrEnd, hcsr]
  · obtain ⟨⟨_, hc⟩, -⟩ := h
    rw [hf, hc]

theorem wordDone'_of_wordEnd {c d : Chip} {k n : Nat} {g : Fills} {res : List Word} {pc : Nat} (h : WordEnd c d k g n res pc) :
    WordDone' c d k g n res pc := ⟨h.stack, h.next, h.words⟩

/-- The word of string A that has made the log's one entry ends with the entry standing. -/
theorem logged_finish {c d e : Chip} {k : Nat} (hF : JustFetched c d k) (hlead : Leads c k) (hE : Enters d k) {logged : Bool}
    {kind addr size slot : Nat} {vals : List Word} {ready : Bool}
    (hO : OneCore (logRead d k logged kind addr size slot vals ready none) e k) (g : Fills) (n : Nat) (res : List Word) (pc : Nat) :
    Logged c (finish e k g n res [] pc) k kind addr size slot vals ready logged := by
  have hlog : (courseOf d (courseNo k)).log = [] := (leads_fetched hlead hF).log
  have hEe := enters_oneCore (enters_logRead hE hlog logged kind addr size slot vals ready none) hO
  obtain ⟨-, -, ⟨_, hcourse⟩, -, -⟩ := firstEnd_finish hEe g n res [] pc
  obtain ⟨l, hl⟩ := hF.core
  unfold Logged
  rw [hcourse, oneCore_courseOf hO, logRead_course hlog]
  simp only [rbkOf, fetched_courseOf hF, hl]

/-! ### Words that wait, and words before which a checkpoint is called -/

theorem startWait_core (c : Chip) (k : Nat) (g : Fills) (w : Wait) : (coreOf (startWait c k g w) k).wait = some w ∧
    (coreOf (startWait c k g w) k).pc = (coreOf c k).pc ∧ (coreOf (startWait c k g w) k).stk = g.stk ∧
    (coreOf (startWait c k g w) k).words = (coreOf c k).words := by
  obtain ⟨-, hcore, -, -⟩ := fillUp_core c k g
  unfold startWait
  rw [coreOf_updCore_same, hcore]
  exact ⟨rfl, rfl, rfl, rfl⟩

theorem startWait_oneCore (c : Chip) (k : Nat) (g : Fills) (w : Wait) : OneCore c (startWait c k g w) k :=
  oneCore_trans (fillUp_core c k g).1 (oneCore_updCore _ k _)

theorem callOwn_ckptAt (c : Chip) (k : Nat) (h : (courseOf c (courseNo k)).ckptAt = none) :
    (courseOf (callOwn c k) (courseNo k)).ckptAt = some (coreOf c k).words := by
  rw [callOwn, courseOf_updCore, callAt, courseOf_updCourse_same, h]

theorem callsFirst_callOwn (c : Chip) (k : Nat) : CallsFirst c (callOwn c k) k :=
  ⟨callOwn_ckptAt c k, coreOf_updCore_same _ k _, fun _ hj => coreOf_updCore_other _ _ hj, rfl, rfl⟩

end Sys2Proof.Machine
end

section
/-! PROOFS. SLEEP, WAIT and CKPT (R147, R216, R218, R580). -/

namespace Sys2Proof.Machine

open Sys2Proof Sys2Proof.Safety

section Event
variable {c d : Chip} {k : Nat} {op : CoreOp} {g : Fills} {ops : List Word} (code kind : Nat) (push : List Word)

/-- A string that reads for itself, or for its course, completes where a source is presented to it and waits where none is. -/
theorem eventWord_own (h : starts c k false op 0 d g ops)
    (hr : reader d k false true code 0 0 = .self ∨ reader d k false true code 0 0 = .lead) (hc : ckptFirst c k = false) :
    eventWord c k false op code kind push =
      if reqUp c k then finish (if inUnison c (courseNo k) then logRead d k false code 0 0 0 push true none else d) k g (opEffect op).1
        push [] ((coreOf c k).pc + 2)
      else startWait d k g ⟨kind, ops.getD 0 0, 0, (opEffect op).1, false⟩ := by
  have hF := starts_fetched h
  have hnext : nextPc (if inUnison c (courseNo k) then logRead d k false code 0 0 0 push true none else d) k = (coreOf c k).pc + 2 := by
    split
    · exact (congrArg (· + 2) (congrArg Core.pc (oneCourse_coreOf (logRead_oneCourse ..) k))).trans (nextPc_fetched hF)
    · exact nextPc_fetched hF
  unfold starts at h
  unfold eventWord
  rcases hr with hr | hr <;>
    simp only [h, hr, fetched_ckptFirst hF, hc, Bool.false_eq_true, if_false, fetched_reqUp hF, fetched_inUnison hF, hnext]

/-- String A that has not yet been through the word's checkpoint calls it. -/
theorem eventWord_calls (h : starts c k false op 0 d g ops) (hl : Leads c k) (hc : ckptFirst c k = true) :
    CallsFirst c (eventWord c k false op code kind push) k := by
  have hF := starts_fetched h
  have hr := reader_first (kind := code) (addr := 0) (size := 0) (leads_fetched hl hF) (Or.inr (Or.inl (rfl : true = true)))
    (logged := false)
  unfold starts at h
  unfold eventWord
  simp only [h, hr, fetched_ckptFirst hF, hc, if_true]
  exact callsFirst_callOwn c k

/-- String B ends the word as string A did. -/
theorem eventWord_second {e : LogEnt} (h : starts c k false op 0 d g ops) (hf : Follows c k e code 0 0) :
    WordEnd c (eventWord c k false op code kind push) k g (opEffect op).1 e.vals ((coreOf c k).pc + 2) := by
  have hF := starts_fetched h
  have hr := reader_second (follows_fetched hf hF) (Or.inr (Or.inl (rfl : true = true))) (logged := false)
  have hnext : nextPc (takeB d (courseNo k)) k = (coreOf c k).pc + 2 :=
    (congrArg (· + 2) (congrArg Core.pc (oneCourse_coreOf (takeB_oneCourse ..) k))).trans (nextPc_fetched hF)
  unfold starts at h
  unfold eventWord
  simp only [h, hr, hnext]
  exact wordEnd_fetched hF (wordEnd_oneCourse (takeB_oneCourse d _) (wordEnd_finish ..))

/-- Without a source presented the string waits in the word. -/
theorem eventWord_waits (h : starts c k false op 0 d g ops)
    (hr : reader d k false true code 0 0 = .self ∨ reader d k false true code 0 0 = .lead) (hc : ckptFirst c k = false)
    (hq : reqUp c k = false) :
    (coreOf (eventWord c k false op code kind push) k).wait = some ⟨kind, ops.getD 0 0, 0, (opEffect op).1, false⟩ ∧
      (coreOf (eventWord c k false op code kind push) k).pc = (coreOf c k).pc := by
  rw [eventWord_own code kind push h hr hc, hq, if_neg (by decide)]
  obtain ⟨hwait, hpc, -⟩ := startWait_core d k g ⟨kind, ops.getD 0 0, 0, (opEffect op).1, false⟩
  exact ⟨hwait, hpc.trans (fetched_pc (starts_fetched h))⟩

/-- A string in split to which a source is presented completes the word, and nothing else happens. -/
theorem eventWord_split (h : starts c k false op 0 d g ops) (hu : inUnison c (courseNo k) = false) (hq : reqUp c k = true)
    (hs : ownSpills c k g (opEffect op).1 push) :
    PlainDone c (eventWord c k false op code kind push) k g (opEffect op).1 push ((coreOf c k).pc + 2) := by
  have hF := starts_fetched h
  have hr := reader_split (c := d) (k := k) (kind := code) (addr := 0) (size := 0) (logged := false) (always := true)
    (by rw [fetched_inUnison hF, hu]) (fun h => nomatch h)
  rw [eventWord_own code kind push h (Or.inl hr) (ckptFirst_split hu), hq, if_pos rfl, hu, if_neg (by decide)]
  exact plainDone_finish _ hF hs

/-- String A, its checkpoint taken, completes the word and enters its outcome in the read log. -/
theorem eventWord_logs (h : starts c k false op 0 d g ops) (hl : Leads c k) (hc : ckptFirst c k = false) (hq : reqUp c k = true) :
    WordDone' c (eventWord c k false op code kind push) k g (opEffect op).1 push ((coreOf c k).pc + 2) ∧
      Logged c (eventWord c k false op code kind push) k code 0 0 0 push true false := by
  have hF := starts_fetched h
  have hr := reader_first (kind := code) (addr := 0) (size := 0) (leads_fetched hl hF) (Or.inr (Or.inl (rfl : true = true)))
    (logged := false)
  rw [eventWord_own code kind push h (Or.inr hr) hc, hq, if_pos rfl, hl.unison, if_pos rfl]
  exact ⟨wordDone'_of_wordEnd (wordEnd_fetched hF (wordEnd_oneCourse (logRead_oneCourse ..) (wordEnd_finish ..))),
    logged_finish hF hl (starts_enters h hl.unison hl.first hl.ahead) (oneCore_refl _ k) ..⟩

end Event

theorem exec_sleep (k : Nat) (s : State) : exec (.sleep k) s = onUnit (isCore k) s (fun c => xSleep c k) := rfl

theorem exec_wait (k : Nat) (t : Bool) (s : State) : exec (.wait k t) s = onUnit (isCore k) s (fun c => xWait c k t) := rfl

theorem exec_ckpt (k : Nat) (s : State) : exec (.ckpt k) s = onUnit (isCore k) s (fun c => xCkpt c k) := rfl

theorem opEffect_wait (t : Bool) : (opEffect (.wait t)).1 = if t then 1 else 0 := by cases t <;> rfl

theorem xCkpt_go {c d : Chip} {k : Nat} {g : Fills} {ops : List Word} (h : starts c k false .ckpt 0 d g ops) :
    xCkpt c k = if inUnison (finish d k g 0 [] [] ((coreOf c k).pc + 2)) (courseNo k) && !isB k then
      callCkpt (finish d k g 0 [] [] ((coreOf c k).pc + 2)) (courseNo k) else finish d k g 0 [] [] ((coreOf c k).pc + 2) := by
  have hF := starts_fetched h
  unfold starts at h
  unfold xCkpt
  simp only [h, nextPc_fetched hF]

theorem starts_atHand {c d : Chip} {k n : Nat} {rep : Bool} {op : CoreOp} {g : Fills} {ops : List Word}
    (h : starts c k rep op n d g ops) : ∃ x, atHand c k rep op = some x := by
  unfold starts begin_ at h
  split at h
  · cases h
  · split at h
    · cases h
    · rename_i hx
      exact ⟨_, hx⟩

/-- A word that is no iteration starts outside a repetition. -/
theorem starts_rep_none {c d : Chip} {k n : Nat} {op : CoreOp} {g : Fills} {ops : List Word} (h : starts c k false op n d g ops) :
    (coreOf c k).rep = none := by
  obtain ⟨x, hx⟩ := starts_atHand h
  unfold atHand at hx
  dsimp only at hx
  split at hx
  · simp at hx
  · assumption

theorem twice_courseNo {k : Nat} (h : k % 2 = 0) : 2 * courseNo k = k := by
  unfold courseNo
  omega

/-- A checkpoint called where string A waits for nothing is after the words it has executed. -/
theorem callCkpt_ckptAt {c : Chip} {n : Nat} (hw : (coreOf c (2 * n)).wait = none) (hc : (courseOf c n).ckptAt = none) :
    callCkpt c n = callAt c n (coreOf c (2 * n)).words := by
  unfold callCkpt inBarrier withdrawWait
  simp only [hw, hc]
  rfl

/-- CKPT has no effect in split and for string B, and string A calls the checkpoint behind it. -/
theorem xCkpt_done {c d : Chip} {k : Nat} {g : Fills} {ops : List Word} (h : starts c k false .ckpt 0 d g ops)
    (hs : ownSpills c k g 0 []) :
    (inUnison c (courseNo k) = false ∨ k % 2 = 1 → PlainDone c (xCkpt c k) k g 0 [] ((coreOf c k).pc + 2)) ∧
      (inUnison c (courseNo k) = true → k % 2 = 0 → (courseOf c (courseNo k)).ckptAt = none →
        (coreOf (xCkpt c k) k).pc = (coreOf c k).pc + 2 ∧ (courseOf (xCkpt c k) (courseNo k)).ckptAt = some ((coreOf c k).words + 1)) := by
  have hF := starts_fetched h
  have hrep := starts_rep_none h
  have hP := plainDone_finish ((coreOf c k).pc + 2) hF hs
  rw [xCkpt_go h]
  generalize finish d k g 0 [] [] ((coreOf c k).pc + 2) = e at hP
  obtain ⟨cs, r, b, hrest⟩ := hP.done.rest
  have hcourse : courseOf e (courseNo k) = courseOf c (courseNo k) := by rw [hrest]; rfl
  have hun : inUnison e (courseNo k) = inUnison c (courseNo k) := by rw [hrest]; rfl
  rw [hun]
  refine ⟨fun hno => ?_, fun hu hk hckpt => ?_⟩
  · rw [if_neg]
    · exact hP
    · rcases hno with hu | hk
      · simp [hu]
      · simp [isB_second hk]
  · rw [if_pos (by simp [hu, isB_first hk])]
    have htwice := twice_courseNo hk
    rw [callCkpt_ckptAt (by rw [htwice, hP.done.idle]) (by rw [hcourse, hckpt]), htwice, hP.done.words]
    have hnext := hP.done.next
    unfold goesOn at hnext
    rw [hrep] at hnext
    refine ⟨hnext.1, ?_⟩
    rw [callAt, courseOf_updCourse_same, hcourse, hckpt]

/-- Settles O30: each word by the way its read goes. -/
theorem eventWords : Obligations.EventWords := by
  unfold Obligations.EventWords
  intro s k t d g ops hk r atSleep atWait waits went n res
  have hn : (opEffect (.wait t)).1 = n := opEffect_wait t
  have hself : inUnison s.chip (courseNo k) = false → ∀ {op : CoreOp} {m code : Nat}, starts s.chip k false op m d g ops →
      reader d k false true code 0 0 = .self := fun hu _ _ _ h =>
    reader_split (by rw [fetched_inUnison (starts_fetched h), hu]) (fun h => nomatch h)
  have hlead : Leads s.chip k → ∀ {op : CoreOp} {m code : Nat}, starts s.chip k false op m d g ops →
      reader d k false true code 0 0 = .lead := fun hl _ _ _ h =>
    reader_first (leads_fetched hl (starts_fetched h)) (Or.inr (Or.inl rfl))
  have hwaits : ∀ {kind : Nat} {v : Word} {u : Chip}, (coreOf u k).wait = some ⟨kind, v, 0, (opEffect (.wait t)).1, false⟩ ∧
      (coreOf u k).pc = r.pc → waits kind n v u := fun h => by rwa [hn] at h
  refine ⟨fun hu hlog => ⟨fun h hs => ⟨fun hq => ?_, fun hq => ?_⟩, fun h hs => ⟨fun hq => ?_, fun hq => ?_⟩⟩,
    fun hl => ⟨fun hc => ⟨fun h => ?_, fun h => ?_⟩, fun hc hq => ⟨fun h => ?_, fun h => ?_⟩, fun hc hq => ⟨fun h => ?_, fun h => ?_⟩⟩,
    fun e => ⟨fun hf h he => ?_, fun hf h he => ?_⟩,
    fun h hs => ⟨fun hno => ?_, fun hu hk2 hckpt => ?_⟩⟩
  · exact leaves_of_onCore hk (exec_sleep k s) (eventWord_split 0x39 1 [] h hu hq hs)
  · exact leaves_of_onCore hk (exec_sleep k s) (eventWord_waits 0x39 1 [] h (Or.inl (hself hu h)) (ckptFirst_split hu) hq)
  · have hP := eventWord_split 0x38 (if t then 3 else 2) res h hu hq (by rwa [hn])
    rw [hn] at hP
    exact leaves_of_onCore hk (exec_wait k t s) hP
  · exact leaves_of_onCore hk (exec_wait k t s)
      (hwaits (eventWord_waits 0x38 (if t then 3 else 2) res h (Or.inl (hself hu h)) (ckptFirst_split hu) hq))
  · exact leaves_of_onCore hk (exec_sleep k s) (eventWord_calls 0x39 1 [] h hl hc)
  · exact leaves_of_onCore hk (exec_wait k t s) (eventWord_calls 0x38 (if t then 3 else 2) res h hl hc)
  · exact leaves_of_onCore hk (exec_sleep k s) (eventWord_logs 0x39 1 [] h hl hc hq)
  · have hP := eventWord_logs 0x38 (if t then 3 else 2) res h hl hc hq
    rw [hn] at hP
    exact leaves_of_onCore hk (exec_wait k t s) hP
  · exact leaves_of_onCore hk (exec_sleep k s) (eventWord_waits 0x39 1 [] h (Or.inr (hlead hl h)) hc hq)
  · exact leaves_of_onCore hk (exec_wait k t s)
      (hwaits (eventWord_waits 0x38 (if t then 3 else 2) res h (Or.inr (hlead hl h)) hc hq))
  · have hE := eventWord_second 0x39 1 [] h hf
    rw [he] at hE
    exact leaves_of_onCore hk (exec_sleep k s) (wordDone'_of_wordEnd hE)
  · have hE := eventWord_second 0x38 (if t then 3 else 2) res h hf
    rw [hn] at hE
    exact leaves_of_onCore hk (exec_wait k t s) (wordDone'_of_wordEnd hE)
  · exact leaves_of_onCore hk (exec_ckpt k s) ((xCkpt_done h hs).1 hno)
  · exact leaves_of_onCore hk (exec_ckpt k s) ((xCkpt_done h hs).2 hu hk2 hckpt)

end Sys2Proof.Machine
end

section
/-! PROOFS. FENCE, SYNC and IFENCE (R109, R117, R118, R121, R218). -/

namespace Sys2Proof.Machine

open Sys2Proof Sys2Proof.Safety

theorem fetched_barrierDone {c d : Chip} {k : Nat} (hF : JustFetched c d k) (kind : Nat) : barrierDone d k kind = barrierDone c k kind := by
  obtain ⟨l, hl⟩ := hF.core
  unfold barrierDone
  rw [hl]

/-- FENCE and SYNC are done where no result is in flight, no store waits and none is unacknowledged (R109, R117). -/
theorem barrierDone_quiet {c : Chip} {k kind : Nat} (hf : (coreOf c k).flights = []) (hs : (coreOf c k).sbuf = [])
    (hb : ∀ q ∈ (coreOf c k).bus, q.kind ≠ 1) : barrierDone c k kind = true := by
  have hbus : ((coreOf c k).bus.any fun q => decide (q.kind = 1) && decide (q.slot < 4)) = false :=
    List.any_eq_false.mpr fun q hq => by simp [hb q hq]
  unfold barrierDone
  simp [hf, hs, hbus]

theorem barrierDone_waits {c : Chip} {k kind : Nat} (hkind : kind ≠ 2) (h : (coreOf c k).flights ≠ [] ∨ (coreOf c k).sbuf ≠ []) :
    barrierDone c k kind = false := by
  unfold barrierDone
  rcases h with h | h <;> simp [hkind, h]

theorem barrierDone_ifence (c : Chip) (k : Nat) : barrierDone c k 2 = (coreOf c k).sbuf.isEmpty := rfl

section Word
variable {c d : Chip} {k : Nat} {op : CoreOp} {g : Fills} {ops : List Word} (kind : Nat)

/-- A barrier word ends, waits, or waits behind the checkpoint that string A calls at it. -/
theorem barrierWord_go (h : starts c k false op 0 d g ops) : barrierWord c k op kind =
    if ckptFirst c k ∧ (kind ≠ 2 ∨ (pendStores c k).isEmpty = false) then callOwn (startWait d k g ⟨7, wd kind, 0, 0, false⟩) k
    else if barrierDone c k kind then barrierEnd (finish d k g 0 [] [] ((coreOf c k).pc + 2)) k kind
    else startWait d k g ⟨7, wd kind, 0, 0, false⟩ := by
  have hF := starts_fetched h
  unfold starts at h
  unfold barrierWord
  simp only [h, fetched_ckptFirst hF, fetched_pendStores hF, fetched_barrierDone hF, nextPc_fetched hF]

/-- String A waits in the word, and the checkpoint is called there. -/
theorem barrierWord_calls (h : starts c k false op 0 d g ops) (hc : ckptFirst c k = true)
    (hk : kind ≠ 2 ∨ (pendStores c k).isEmpty = false) :
    ((coreOf (barrierWord c k op kind) k).wait = some ⟨7, wd kind, 0, 0, false⟩ ∧
      (coreOf (barrierWord c k op kind) k).pc = (coreOf c k).pc) ∧
      ((courseOf c (courseNo k)).ckptAt = none → (courseOf (barrierWord c k op kind) (courseNo k)).ckptAt = some (coreOf c k).words) := by
  have hF := starts_fetched h
  obtain ⟨l, hl⟩ := hF.core
  rw [barrierWord_go kind h, if_pos ⟨hc, hk⟩]
  obtain ⟨hwait, hpc, -, hwords⟩ := startWait_core d k g ⟨7, wd kind, 0, 0, false⟩
  have hcourse := oneCore_courseOf (startWait_oneCore d k g ⟨7, wd kind, 0, 0, false⟩) (courseNo k)
  generalize startWait d k g ⟨7, wd kind, 0, 0, false⟩ = e at hwait hpc hwords hcourse
  have hstring := (callsFirst_callOwn e k).string
  refine ⟨?_, fun hnone => ?_⟩
  · rw [hstring]
    exact ⟨hwait, hpc.trans (fetched_pc hF)⟩
  · rw [callOwn_ckptAt e k (by rw [hcourse, fetched_courseOf hF, hnone]), hwords, hl]

theorem barrierWord_waits (h : starts c k false op 0 d g ops) (hc : ckptFirst c k = false) (hd : barrierDone c k kind = false) :
    (coreOf (barrierWord c k op kind) k).wait = some ⟨7, wd kind, 0, 0, false⟩ ∧
      (coreOf (barrierWord c k op kind) k).pc = (coreOf c k).pc := by
  rw [barrierWord_go kind h, if_neg (by simp [hc]), hd, if_neg (by decide)]
  obtain ⟨hwait, hpc, -⟩ := startWait_core d k g ⟨7, wd kind, 0, 0, false⟩
  exact ⟨hwait, hpc.trans (fetched_pc (starts_fetched h))⟩

/-- A barrier that has nothing to wait for is a plain word with the barrier's own effect behind it. -/
theorem barrierWord_ends (h : starts c k false op 0 d g ops) (hop : (opEffect op).1 = 0) (hstk : (coreOf c k).stk.length ≤ 8)
    (hc : ckptFirst c k = false ∨ (kind = 2 ∧ pendStores c k = [])) (hd : barrierDone c k kind = true) :
    ∃ e, barrierWord c k op kind = barrierEnd e k kind ∧ PlainDone c e k g 0 [] ((coreOf c k).pc + 2) ∧
      csrVal e k 0x0A = csrVal c k 0x0A := by
  have hown : ¬ (ckptFirst c k = true ∧ (kind ≠ 2 ∨ (pendStores c k).isEmpty = false)) := by
    rcases hc with hc | ⟨hk, hp⟩
    · simp [hc]
    · simp [hk, hp]
  have hlen : (stackEnd g 0 []).length ≤ 8 := by
    have hst := starts_stack h
    rw [hop] at hst
    simpa [stackEnd, hst] using hstk
  have hfill : g.n = 0 := by
    obtain ⟨-, -, -, -, hn, -⟩ := begin_go h
    rw [hn, hop, Nat.zero_sub]
  have hP := plainDone_finish (n := 0) (res := []) ((coreOf c k).pc + 2) (starts_fetched h) (Or.inr hlen)
  refine ⟨finish d k g 0 [] [] ((coreOf c k).pc + 2), ?_, hP, ?_⟩
  · rw [barrierWord_go kind h, if_neg hown, if_pos hd]
  · rw [hP.done.sptr, sptrEnd, if_pos hlen, if_pos hfill]

end Word

theorem plainDone_pc {c d : Chip} {k n : Nat} {g : Fills} {res : List Word} {pc : Nat} (h : PlainDone c d k g n res pc)
    (hrep : (coreOf c k).rep = none) : (coreOf d k).pc = pc := by
  have hnext := h.done.next
  unfold goesOn at hnext
  rw [hrep] at hnext
  exact hnext.1

/-- A plain word leaves every CSR but SPTR and REPCNT. -/
theorem plainDone_csrVal {c d : Chip} {k n : Nat} {g : Fills} {res : List Word} {pc : Nat} (h : PlainDone c d k g n res pc) {i : Nat}
    (h1 : i ≠ 0x0A) (h2 : i ≠ 0x28) : csrVal d k i = csrVal c k i := by
  by_cases h3 : i = 0x00
  · rw [h3]
    exact h.cstat
  · by_cases h4 : i = 0x01
    · rw [h4]
      exact h.flags
    · exact h.done.keeps.csrs i h3 h4 h1 h2

theorem barrierEnd_fence (c : Chip) (k : Nat) : barrierEnd c k 0 = c := rfl

theorem barrierEnd_sync (c : Chip) (k : Nat) : barrierEnd c k 1 = updCore (applyPend c k) k (fun r => { r with lines := [] }) := rfl

theorem barrierEnd_ifence (c : Chip) (k : Nat) : barrierEnd c k 2 = updCore c k (fun r => { r with lines := [] }) := rfl

/-- What SYNC leaves beside a plain word: the pending CSR writes applied, the line buffers empty (R118, R121). -/
theorem sync_effect {c e : Chip} {k : Nat} {g : Fills} (hP : PlainDone c e k g 0 [] ((coreOf c k).pc + 2))
    (hsptr : csrVal e k 0x0A = csrVal c k 0x0A) (hrep : (coreOf c k).rep = none) (hp : pendOk c k) :
    (coreOf (barrierEnd e k 1) k).pc = (coreOf c k).pc + 2 ∧ (coreOf (barrierEnd e k 1) k).pend = [] ∧
      (coreOf (barrierEnd e k 1) k).lines = [] ∧
      ∀ i, i ≠ 0x28 → csrVal (barrierEnd e k 1) k i = ((coreOf c k).pend.lookup i).getD (csrVal c k i) := by
  have hpend := hP.done.keeps.pend
  have hpe : pendOk e k := by rwa [pendOk, hpend]
  obtain ⟨w, hw⟩ := coreOf_applyPend e k
  have hu : coreOf (barrierEnd e k 1) k = { coreOf (applyPend e k) k with lines := [] } := by
    rw [barrierEnd_sync, coreOf_updCore_same]
  refine ⟨?_, ?_, ?_, fun i hi => ?_⟩
  · rw [hu, hw]
    exact plainDone_pc hP hrep
  · rw [hu, hw]
  · rw [hu]
  · have hi' : csrVal e k i = csrVal c k i := by
      by_cases h : i = 0x0A
      · rw [h, hsptr]
      · exact plainDone_csrVal hP h hi
    rw [← hi', ← hpend, ← csrVal_applyPend hpe, barrierEnd_sync, csrVal_updCore _ _ _ _ rfl]

/-- What IFENCE leaves beside a plain word: the line buffers empty. -/
theorem ifence_effect {c e : Chip} {k : Nat} {g : Fills} (hP : PlainDone c e k g 0 [] ((coreOf c k).pc + 2))
    (hrep : (coreOf c k).rep = none) :
    (coreOf (barrierEnd e k 2) k).pc = (coreOf c k).pc + 2 ∧ (coreOf (barrierEnd e k 2) k).lines = [] ∧
      (coreOf (barrierEnd e k 2) k).pend = (coreOf c k).pend ∧ (coreOf (barrierEnd e k 2) k).flights = (coreOf c k).flights := by
  have hu : coreOf (barrierEnd e k 2) k = { coreOf e k with lines := [] } := by rw [barrierEnd_ifence, coreOf_updCore_same]
  rw [hu]
  exact ⟨plainDone_pc hP hrep, rfl, hP.done.keeps.pend, hP.slots.2⟩

/-- The landing of the last result ends a FENCE of a string in split that waits for nothing else. -/
theorem xLanding_fence {c : Chip} {k : Nat} {f : Flight} (hu : inUnison c (courseNo k) = false) (hf : (coreOf c k).flights = [f])
    (hready : f.ready = true) (hop : 0x26 ≤ f.op) (hs : (coreOf c k).sbuf = []) (hb : ∀ q ∈ (coreOf c k).bus, q.kind ≠ 1)
    (hw : (coreOf c k).wait = some ⟨7, 0, 0, 0, false⟩) (hrep : (coreOf c k).rep = none) (hrun : running c k = true) :
    (coreOf (xLanding c k f.slot) k).wait = none ∧ (coreOf (xLanding c k f.slot) k).pc = (coreOf c k).pc + 2 := by
  rw [xLanding_ready (f := f) (by simp [hf]) hready hop]
  obtain ⟨e, hland, hO, -, cs, b, hcore⟩ := landNow_enters f hu
  have hnone : (coreOf e k).flights = [] := by simp [hcore, hf]
  have hcourse := oneCore_courseOf hO (courseNo k)
  have hrunning : running e k = true := by
    obtain ⟨⟨_, hrest⟩, -⟩ := hO
    have hon : courseOn e (courseNo k) = courseOn c (courseNo k) := by rw [hrest]; rfl
    rw [← hrun]
    simp only [running, hcourse, hon, hcore]
  have hdone : barrierDone e k 0 = true := barrierDone_quiet hnone (by rw [hcore]; exact hs) (by rw [hcore]; exact hb)
  have hwait : (coreOf e k).wait = some ⟨7, 0, 0, 0, false⟩ := by rw [hcore, hw]
  have hend : landNow c k f = completeWait e k [] := by
    rw [hland, barrierGo, hrunning, if_pos rfl, barrierCheck, hwait]
    dsimp only
    rw [if_pos ⟨rfl, ckptFirst_split (by rw [oneCore_inUnison hO, hu]), hdone⟩]
    exact barrierEnd_fence _ k
  rw [hend]
  unfold completeWait
  extract_lets drop d
  have hd : coreOf d k = { coreOf e k with stk := [] ++ (coreOf e k).stk.drop drop } := coreOf_updCore_same e k _
  obtain ⟨-, hgo, hidle, -⟩ := retire_core d k ((coreOf d k).pc + 2)
  unfold goesOn at hgo
  have hdrep : (coreOf d k).rep = none := by rw [hd, hcore]; exact hrep
  rw [hdrep] at hgo
  refine ⟨hidle, hgo.1.trans ?_⟩
  rw [hd, hcore]

theorem exec_fence (k : Nat) (s : State) : exec (.fence k) s = onUnit (isCore k) s (fun c => xFence c k) := rfl

theorem exec_sync (k : Nat) (s : State) : exec (.sync k) s = onUnit (isCore k) s (fun c => xSync c k) := rfl

theorem exec_ifence (k : Nat) (s : State) : exec (.ifence k) s = onUnit (isCore k) s (fun c => xIfence c k) := rfl

/-- Settles O31: each barrier by what it waits for, and a landing that leaves nothing to wait for. -/
theorem barrierWords : Obligations.BarrierWords := by
  unfold Obligations.BarrierWords
  intro s k d g ops hk r quiet waits called hstk
  refine ⟨fun h => ⟨fun hc => ?_, fun hc hq => ?_, fun hc hq => ?_⟩, fun h hp => ⟨fun hc => ?_, fun hc hq => ?_, fun hc hq => ?_⟩,
    fun h => ⟨fun hc hs => ?_, fun hc hs => ?_, fun hc hs => ?_⟩, fun f hu hf hready hop hslot hs hb hw hrep hrun => ?_⟩
  · exact leaves_of_onCore hk (exec_fence k s) (barrierWord_calls 0 h hc (Or.inl (by decide)))
  · obtain ⟨hf, hs, hb⟩ := hq
    obtain ⟨e, he, hP, -⟩ := barrierWord_ends 0 h rfl hstk (Or.inl hc) (barrierDone_quiet hf hs hb)
    refine leaves_of_onCore hk (exec_fence k s) ?_
    rw [xFence, he]
    exact hP
  · exact leaves_of_onCore hk (exec_fence k s) (barrierWord_waits 0 h hc (barrierDone_waits (by decide) hq))
  · exact leaves_of_onCore hk (exec_sync k s) (barrierWord_calls 1 h hc (Or.inl (by decide)))
  · obtain ⟨hf, hs, hb⟩ := hq
    obtain ⟨e, he, hP, hsptr⟩ := barrierWord_ends 1 h rfl hstk (Or.inl hc) (barrierDone_quiet hf hs hb)
    refine leaves_of_onCore hk (exec_sync k s) ?_
    rw [xSync, he]
    exact sync_effect hP hsptr (starts_rep_none h) hp
  · exact leaves_of_onCore hk (exec_sync k s) (barrierWord_waits 1 h hc (barrierDone_waits (by decide) hq))
  · exact leaves_of_onCore hk (exec_ifence k s) (barrierWord_calls 2 h hc (Or.inr (by simpa using hs)))
  · obtain ⟨e, he, hP, -⟩ := barrierWord_ends 2 h rfl hstk (hc.imp_right fun h => ⟨rfl, h⟩)
      (by rw [barrierDone_ifence, hs]; rfl)
    refine leaves_of_onCore hk (exec_ifence k s) ?_
    rw [xIfence, he]
    exact ifence_effect hP (starts_rep_none h)
  · exact leaves_of_onCore hk (exec_ifence k s) (barrierWord_waits 2 h hc (by rw [barrierDone_ifence]; simpa using hs))
  · refine leaves_of_onUnit (exec_landing k f.slot s) ?_ (xLanding_fence hu hf hready hop hs hb hw hrep hrun)
    simp [hk, isSlot, hslot]

end Sys2Proof.Machine
end

section
/-! PROOFS. What the fetch and the fills of a word leave of the registers (R255): the error records of the clusters alone change. -/

namespace Sys2Proof.Machine

open Sys2Proof Sys2Proof.Safety

/-- No register beneath the cluster controllers' has changed. -/
def KeepsLowRegs (c d : Chip) : Prop := ∀ a, a < 0x60200000 → regVal d a = regVal c a

theorem keepsLowRegs_refl (c : Chip) : KeepsLowRegs c c := fun _ _ => rfl

theorem keepsLowRegs_trans {c d e : Chip} (h : KeepsLowRegs c d) (h' : KeepsLowRegs d e) : KeepsLowRegs c e :=
  fun a ha => (h' a ha).trans (h a ha)

theorem keepsLowRegs_regPut (c : Chip) {a : Nat} (w : Word) (h : 0x60200000 ≤ a) : KeepsLowRegs c (regPut c a w) :=
  fun _ hx => regVal_regPut_other _ _ (by omega)

theorem keepsLowRegs_of_regs {c d : Chip} (h : d.regs = c.regs) : KeepsLowRegs c d := fun a _ => by
  rw [regVal, h]
  rfl

theorem clReg_high (k o : Nat) : 0x60200000 ≤ clReg k o := by
  unfold clReg
  omega

theorem keepsLowRegs_clReg (c : Chip) (k o : Nat) (w : Word) : KeepsLowRegs c (regPut c (clReg k o) w) :=
  keepsLowRegs_regPut c w (clReg_high k o)

theorem keepsLowRegs_noteCorrected (c : Chip) (ga : Nat) : KeepsLowRegs c (noteCorrected c ga) := by
  unfold noteCorrected
  extract_lets k c1
  split
  · exact keepsLowRegs_refl c
  · have h1 : KeepsLowRegs c c1 := by
      unfold c1
      split <;> exact keepsLowRegs_clReg c k 0x18 _
    exact keepsLowRegs_trans h1 (keepsLowRegs_trans (keepsLowRegs_clReg c1 k 0x20 _) (keepsLowRegs_clReg _ k 0x14 _))

theorem keepsLowRegs_noteUncorrectable (c : Chip) (ga src core : Nat) : KeepsLowRegs c (noteUncorrectable c ga src core) := by
  unfold noteUncorrectable
  extract_lets k a first c1
  split
  · exact keepsLowRegs_refl c
  · have h1 : KeepsLowRegs c c1 := keepsLowRegs_clReg c k 0x14 _
    split
    · exact keepsLowRegs_trans h1 (keepsLowRegs_trans (keepsLowRegs_clReg c1 k 0x1C _)
        (keepsLowRegs_trans (keepsLowRegs_clReg _ k 0x14 _) (keepsLowRegs_clReg _ k 0x14 _)))
    · exact keepsLowRegs_trans h1 (keepsLowRegs_clReg c1 k 0x14 _)

theorem keepsLowRegs_readWord (c : Chip) (ga src core : Nat) : KeepsLowRegs c (readWord c ga src core).1 := by
  unfold readWord
  extract_lets a c1
  have h1 : KeepsLowRegs c c1 := by
    unfold c1
    split
    · exact keepsLowRegs_trans (keepsLowRegs_of_regs rfl) (keepsLowRegs_noteCorrected _ a)
    · exact keepsLowRegs_refl c
  split
  · exact keepsLowRegs_trans h1 (keepsLowRegs_noteUncorrectable c1 a src core)
  · exact h1

theorem keepsLowRegs_readLine (c : Chip) (k base : Nat) : KeepsLowRegs c (readLine c k base).1 := by
  have hfold : ∀ (l : List Nat) (acc : Chip × List IWord × Bool), KeepsLowRegs acc.1
      (l.foldl (fun (acc : Chip × List IWord × Bool) (i : Nat) =>
        let (c, l, p) := acc
        let (c, w, q) := readWord c ((Tgt.sram (courseNo k) base).ga + 4 * i) 2 k
        (c, l ++ [BitVec.ofNat 16 w.toNat, BitVec.ofNat 16 (w.toNat / 65536)], p || q)) acc).1 := by
    intro l
    induction l with
    | nil => exact fun acc => keepsLowRegs_refl acc.1
    | cons i l ih => exact fun acc => keepsLowRegs_trans (keepsLowRegs_readWord acc.1 _ 2 k) (ih _)
  exact hfold _ _

theorem keepsLowRegs_fetchWord (c : Chip) (k a : Nat) : KeepsLowRegs c (fetchWord c k a).1 := by
  unfold fetchWord
  dsimp only
  split
  · exact keepsLowRegs_of_regs rfl
  · refine keepsLowRegs_trans (keepsLowRegs_readLine c k (a / 16 * 16)) (keepsLowRegs_of_regs ?_)
    rw [fillLine, updCore_regs]

theorem keepsLowRegs_fetchInstr (c : Chip) (k a : Nat) : KeepsLowRegs c (fetchInstr c k a).c := by
  unfold fetchInstr
  dsimp only
  split
  · exact keepsLowRegs_refl c
  · split
    · split
      · exact keepsLowRegs_fetchWord c k a
      · exact keepsLowRegs_trans (keepsLowRegs_fetchWord c k a) (keepsLowRegs_fetchWord _ k (a + 2))
    · exact keepsLowRegs_fetchWord c k a

theorem keepsLowRegs_atHand {c d : Chip} {k : Nat} {rep p : Bool} {op : CoreOp} (h : atHand c k rep op = some (d, p)) :
    KeepsLowRegs c d := by
  unfold atHand at h
  dsimp only at h
  split at h
  · split at h
    · cases h
      exact keepsLowRegs_refl c
    · cases h
  · split at h
    · cases h
    · split at h
      · cases h
        exact keepsLowRegs_fetchInstr c k _
      · cases h

theorem keepsLowRegs_loadLocal {c d : Chip} {k a size : Nat} {st : List Store} {w : Word} (h : loadLocal c k st a size = .got d w) :
    KeepsLowRegs c d := by
  have hread := keepsLowRegs_readWord c (Tgt.sram (courseNo k) a).ga 1 k
  unfold loadLocal at h
  split at h
  · cases h
    exact keepsLowRegs_refl c
  · cases h
  · split at h
    · cases h
    · dsimp only at h
      split at h
      · cases h
      · cases h
        exact hread

theorem keepsLowRegs_readFills {c d : Chip} {k n sp : Nat} {st : List Store} {w : Word} {l v : List Word}
    (h : readFills c k st n sp l = (.got d w, v)) : KeepsLowRegs c d := by
  induction n generalizing c sp l with
  | zero =>
    have h' : (LoadRes.got c 0, l) = (LoadRes.got d w, v) := h
    cases h'
    exact keepsLowRegs_refl _
  | succ n ih =>
    rw [readFills_succ] at h
    generalize hb : beneath sp = q at h
    generalize hL : loadLocal c k st q 4 = L at h
    split at h
    · exact keepsLowRegs_trans (keepsLowRegs_loadLocal hL) (ih h)
    · rename_i hx
      simp only [Prod.mk.injEq] at h
      exact absurd h.1 (hx _ _)

/-- The registers beneath the cluster controllers' stand as they did before the word's fetch and fills. -/
theorem starts_lowRegs {c d : Chip} {k n : Nat} {rep : Bool} {op : CoreOp} {g : Fills} {ops : List Word}
    (h : starts c k rep op n d g ops) : KeepsLowRegs c d := by
  unfold starts begin_ at h
  split at h
  · cases h
  split at h
  · cases h
  rename_i e p he
  have hF := keepsLowRegs_atHand he
  split at h
  · split at h <;> cases h
  dsimp only at h
  split at h
  · unfold preciseStop at h
    split at h <;> cases h
  split at h
  · unfold preciseStop at h
    split at h <;> cases h
  split at h
  · cases h
  · cases h
  rename_i hv
  have hfills := keepsLowRegs_readFills hv
  split at h
  · cases h
  split at h
  · cases h
  cases h
  exact keepsLowRegs_trans hF hfills

end Sys2Proof.Machine
end

section
/-! PROOFS. CSRR and CSRW (R118, R120, R127, R128, R156). -/

namespace Sys2Proof.Machine

open Sys2Proof Sys2Proof.Safety

/-! ### Reads -/

/-- A CSRR has pushed a word, and the string goes on. -/
def Pushed (c t : Chip) (k : Nat) (g : Fills) (w : Word) : Prop :=
  (coreOf t k).stk = (stackEnd g 0 [w]).take 8 ∧ goesOn c t k ((coreOf c k).pc + 2)

theorem goesOn_after {c d e : Chip} {k pc : Nat} (h : goesOn c d k pc) (hp : (coreOf e k).pc = (coreOf d k).pc)
    (hr : (coreOf e k).rep = (coreOf d k).rep) (hv : csrVal e k 0x28 = csrVal d k 0x28) : goesOn c e k pc := by
  unfold goesOn at h ⊢
  rw [hp, hr, hv]
  exact h

theorem pushed_of_wordEnd {c d : Chip} {k : Nat} {g : Fills} {w : Word} (h : WordEnd c d k g 0 [w] ((coreOf c k).pc + 2)) :
    Pushed c d k g w := ⟨h.stack, h.next⟩

section Read
variable {c d : Chip} {k : Nat} {rep : Bool} {i : BitVec 8} {g : Fills} {ops : List Word} (vals : Chip → List Word)

/-- The holding register of TBHI takes the upper half of the time base. -/
def takeHigh (k : Nat) (c : Chip) (l : List Word) : Chip := updCore c k (fun r => { r with tbhi := l.getD 1 0 })

theorem takeHigh_oneCore (k : Nat) (c : Chip) (l : List Word) : OneCore c (takeHigh k c l) k := oneCore_updCore c k _

/-- A CSRR that the string makes for itself. -/
theorem csrReadWord_self (h : starts c k rep (.csrr i) 0 d g ops) (take : Chip → List Word → Chip)
    (hr : reader d k false false 0x40 i.toNat 0 = .self) :
    csrReadWord c k rep i false (fun c => (c, vals c)) take =
      finish (take d (vals d)) k g 0 [(vals d).getD 0 0] [] ((coreOf c k).pc + 2) := by
  have hnext := nextPc_fetched (starts_fetched h)
  unfold starts at h
  unfold csrReadWord
  simp only [h, hr, hnext]

/-- A CSRR that string A makes for its course. -/
theorem csrReadWord_first (h : starts c k rep (.csrr i) 0 d g ops) (take : Chip → List Word → Chip)
    (hr : reader d k false false 0x40 i.toNat 0 = .lead) :
    csrReadWord c k rep i false (fun c => (c, vals c)) take =
      finish (take (logRead d k false 0x40 i.toNat 0 0 (vals d) true none) (vals d)) k g 0 [(vals d).getD 0 0] []
        ((coreOf c k).pc + 2) := by
  have hnext : nextPc (logRead d k false 0x40 i.toNat 0 0 (vals d) true none) k = (coreOf c k).pc + 2 :=
    (congrArg (· + 2) (congrArg Core.pc (oneCourse_coreOf (logRead_oneCourse ..) k))).trans (nextPc_fetched (starts_fetched h))
  unfold starts at h
  unfold csrReadWord
  simp only [h, hr, hnext]

/-- A CSRR whose values string B takes from the read log. -/
theorem csrReadWord_second {l : List Word} {t : Option ITrap} (h : starts c k rep (.csrr i) 0 d g ops) (take : Chip → List Word → Chip)
    (hr : reader d k false false 0x40 i.toNat 0 = .given (takeB d (courseNo k)) l t) :
    csrReadWord c k rep i false (fun c => (c, vals c)) take =
      finish (take (takeB d (courseNo k)) l) k g 0 [l.getD 0 0] [] ((coreOf c k).pc + 2) := by
  have hnext : nextPc (takeB d (courseNo k)) k = (coreOf c k).pc + 2 :=
    (congrArg (· + 2) (congrArg Core.pc (oneCourse_coreOf (takeB_oneCourse ..) k))).trans (nextPc_fetched (starts_fetched h))
  unfold starts at h
  unfold csrReadWord
  simp only [h, hr, hnext]

theorem pushed_finish {e : Chip} {m : Nat} (hF : JustFetched c d k) (hO : OneCourse d e m) (w : Word) :
    Pushed c (finish e k g 0 [w] [] ((coreOf c k).pc + 2)) k g w :=
  pushed_of_wordEnd (wordEnd_fetched hF (wordEnd_oneCourse hO (wordEnd_finish ..)))

/-- The holding register taken, the word pushes as it would without. -/
theorem pushed_takeHigh {e : Chip} {m : Nat} (hF : JustFetched c d k) (hO : OneCourse d e m) (l : List Word) (w : Word) :
    Pushed c (finish (takeHigh k e l) k g 0 [w] [] ((coreOf c k).pc + 2)) k g w ∧
      (coreOf (finish (takeHigh k e l) k g 0 [w] [] ((coreOf c k).pc + 2)) k).tbhi = l.getD 1 0 := by
  have hE := wordEnd_finish (takeHigh k e l) k g 0 [w] [] ((coreOf c k).pc + 2)
  have hcore : coreOf (takeHigh k e l) k = { coreOf e k with tbhi := l.getD 1 0 } := coreOf_updCore_same e k _
  have hcsr : csrVal (takeHigh k e l) k 0x28 = csrVal c k 0x28 := by
    rw [takeHigh, csrVal_updCore _ _ _ _ rfl, csrVal_oneCourse hO, fetched_csrVal hF]
  obtain ⟨ln, hl⟩ := hF.core
  obtain ⟨_, _, _, _, _, _, _, _, _, _, hk⟩ := hE.core
  refine ⟨⟨hE.stack, goesOn_congr hE.next ?_ ?_ hcsr⟩, ?_⟩
  · rw [hcore, oneCourse_coreOf hO, hl]
  · rw [hcore, oneCourse_coreOf hO, hl]
  · rw [hk, hcore]

end Read

/-- A string makes the reads of TBLO, TBHI and DPOS for itself in split and in fixed unison. -/
theorem reader_own {c d : Chip} {k addr : Nat} (hF : JustFetched c d k) (h : inUnison c (courseNo k) = false ∨ c.fixedUnison = true) :
    reader d k false false 0x40 addr 0 = .self := by
  have hfixed : d.fixedUnison = c.fixedUnison := by
    obtain ⟨_, _, _, hr⟩ := hF.rest
    rw [hr]
  cases hu : inUnison c (courseNo k) with
  | false => exact reader_split (by rw [fetched_inUnison hF, hu]) (fun h => nomatch h)
  | true =>
    have hf := h.resolve_left (by rw [hu]; decide)
    exact reader_fixed (by rw [fetched_inUnison hF, hu]) (by rw [hfixed, hf])

theorem fetched_fixedUnison {c d : Chip} {k : Nat} (hF : JustFetched c d k) : d.fixedUnison = c.fixedUnison := by
  obtain ⟨_, _, _, hr⟩ := hF.rest
  rw [hr]

/-- A read whose values the string only pushes: its own, string A's, string B's (R129, R213). -/
theorem csrReadWord_pushed {c d : Chip} {k : Nat} {rep : Bool} {i : BitVec 8} {g : Fills} {ops : List Word} {vals : Chip → List Word}
    {w : Word} (h : starts c k rep (.csrr i) 0 d g ops) (hw : vals d = [w]) :
    let t := csrReadWord c k rep i false (fun c => (c, vals c)) (fun c _ => c)
    (inUnison c (courseNo k) = false ∨ c.fixedUnison = true → Pushed c t k g w) ∧
      (Leads c k → c.fixedUnison = false → Pushed c t k g w ∧ Logged c t k 0x40 i.toNat 0 0 [w] true false) ∧
      (∀ e, Follows c k e 0x40 i.toNat 0 → c.fixedUnison = false → Pushed c t k g (e.vals.getD 0 0)) := by
  have hF := starts_fetched h
  have hfixed := fetched_fixedUnison hF
  refine ⟨fun hown => ?_, fun hl hfix => ?_, fun e hf hfix => ?_⟩
  · rw [csrReadWord_self vals h (fun c _ => c) (reader_own hF hown), hw]
    exact pushed_finish hF (oneCourse_refl d 0) w
  · rw [csrReadWord_first vals h (fun c _ => c) (reader_first (leads_fetched hl hF) (Or.inr (Or.inr (hfixed.trans hfix)))), hw]
    exact ⟨pushed_finish hF (logRead_oneCourse ..) w,
      logged_finish hF hl (starts_enters h hl.unison hl.first hl.ahead) (oneCore_refl _ k) ..⟩
  · rw [csrReadWord_second vals h (fun c _ => c) (reader_second (follows_fetched hf hF) (Or.inr (Or.inr (hfixed.trans hfix))))]
    exact pushed_finish hF (takeB_oneCourse ..) _

theorem fetched_tb {c d : Chip} {k : Nat} (hF : JustFetched c d k) : d.tb = c.tb := by
  obtain ⟨_, _, _, hr⟩ := hF.rest
  rw [hr]

/-- The read of TBLO pushes the lower half of the time base and holds the upper. -/
theorem xCsrrTblo_pushed {c d : Chip} {k : Nat} {rep : Bool} {g : Fills} {ops : List Word} (h : starts c k rep (.csrr 0x20) 0 d g ops) :
    let t := xCsrrTblo c k rep
    let l := [wd c.tb, wd (c.tb / 2 ^ 32)]
    (inUnison c (courseNo k) = false ∨ c.fixedUnison = true → Pushed c t k g (wd c.tb) ∧ (coreOf t k).tbhi = wd (c.tb / 2 ^ 32)) ∧
      (Leads c k → c.fixedUnison = false →
        Pushed c t k g (wd c.tb) ∧ (coreOf t k).tbhi = wd (c.tb / 2 ^ 32) ∧ Logged c t k 0x40 0x20 0 0 l true false) ∧
      (∀ e, Follows c k e 0x40 0x20 0 → c.fixedUnison = false →
        Pushed c t k g (e.vals.getD 0 0) ∧ (coreOf t k).tbhi = e.vals.getD 1 0) := by
  intro t l
  have hF := starts_fetched h
  have hfixed := fetched_fixedUnison hF
  have ht : t = csrReadWord c k rep 0x20 false (fun c => (c, [wd c.tb, wd (c.tb / 2 ^ 32)])) (takeHigh k) := rfl
  rw [ht]
  refine ⟨fun hown => ?_, fun hl hfix => ?_, fun e hf hfix => ?_⟩
  · rw [csrReadWord_self (fun c => [wd c.tb, wd (c.tb / 2 ^ 32)]) h (takeHigh k) (reader_own hF hown), fetched_tb hF]
    exact pushed_takeHigh hF (oneCourse_refl d 0) l (wd c.tb)
  · rw [csrReadWord_first (fun c => [wd c.tb, wd (c.tb / 2 ^ 32)]) h (takeHigh k)
      (reader_first (leads_fetched hl hF) (Or.inr (Or.inr (hfixed.trans hfix)))), fetched_tb hF]
    obtain ⟨hpush, htake⟩ := pushed_takeHigh (g := g) hF (logRead_oneCourse d k false 0x40 0x20 0 0 l true none) l (wd c.tb)
    exact ⟨hpush, htake, logged_finish hF hl (starts_enters h hl.unison hl.first hl.ahead) (takeHigh_oneCore ..) ..⟩
  · rw [csrReadWord_second (fun c => [wd c.tb, wd (c.tb / 2 ^ 32)]) h (takeHigh k)
      (reader_second (follows_fetched hf hF) (Or.inr (Or.inr (hfixed.trans hfix))))]
    exact pushed_takeHigh hF (takeB_oneCourse ..) e.vals _

/-- The position that a read of DPOS finds. -/
theorem starts_dronePos {c d : Chip} {k n : Nat} {rep : Bool} {op : CoreOp} {g : Fills} {ops : List Word}
    (h : starts c k rep op n d g ops) (hd : (coreOf c k).dpos < 16) :
    dronePos d (coreOf d k).dpos = regVal c (0x60006000 + (coreOf c k).dpos * 0x20 + 4) := by
  have hdpos : (coreOf d k).dpos = (coreOf c k).dpos := by
    obtain ⟨ln, hl⟩ := (starts_fetched h).core
    rw [hl]
  rw [dronePos, drnReg, hdpos]
  exact starts_lowRegs h _ (by omega)

/-! ### Writes -/

/-- A CSRW has popped its operand, and the string goes on. -/
def Popped (c t : Chip) (k : Nat) (g : Fills) : Prop :=
  (coreOf t k).stk = (stackEnd g 1 []).take 8 ∧ goesOn c t k ((coreOf c k).pc + 2)

/-- The effect of a CSRW is made behind the word's end. -/
theorem csrWriteWord_go {c d : Chip} {k : Nat} {rep : Bool} {i : BitVec 8} {g : Fills} {ops : List Word} (f : Chip → Word → Chip)
    (h : starts c k rep (.csrw i) 0 d g ops) :
    csrWriteWord c k rep i 0 f = f (finish d k g 1 [] [] ((coreOf c k).pc + 2)) (ops.getD 0 0) := by
  have hnext := nextPc_fetched (starts_fetched h)
  unfold starts at h
  unfold csrWriteWord
  simp only [h, hnext]

/-- The device at the end of the word, before its effect. -/
theorem csrw_wordEnd {c d : Chip} {k n : Nat} {rep : Bool} {op : CoreOp} {g : Fills} {ops : List Word} (h : starts c k rep op n d g ops) :
    WordEnd c (finish d k g 1 [] [] ((coreOf c k).pc + 2)) k g 1 [] ((coreOf c k).pc + 2) :=
  wordEnd_fetched (starts_fetched h) (wordEnd_finish ..)

section Effect
variable {c e : Chip} {k : Nat} {g : Fills} (hE : WordEnd c e k g 1 [] ((coreOf c k).pc + 2))

include hE

theorem popped_csrPut {i : Nat} (w : Word) (hi : i ≠ 0x28) : Popped c (csrPut e k i w) k g := by
  refine ⟨?_, goesOn_after hE.next ?_ ?_ (csrVal_csrPut_other _ _ _ hi.symm)⟩
  · rw [coreOf_csrPut_same]
    exact hE.stack
  · rw [coreOf_csrPut_same]
  · rw [coreOf_csrPut_same]

theorem popped_dpos (n : Nat) : Popped c (updCore e k (fun r => { r with dpos := n })) k g := by
  refine ⟨?_, goesOn_after hE.next ?_ ?_ (csrVal_updCore _ _ _ _ rfl)⟩
  · rw [coreOf_updCore_same]
    exact hE.stack
  · rw [coreOf_updCore_same]
  · rw [coreOf_updCore_same]

theorem popped_pend (p : Tbl Word) : Popped c (updCore e k (fun r => { r with pend := p })) k g := by
  refine ⟨?_, goesOn_after hE.next ?_ ?_ (csrVal_updCore _ _ _ _ rfl)⟩
  · rw [coreOf_updCore_same]
    exact hE.stack
  · rw [coreOf_updCore_same]
  · rw [coreOf_updCore_same]

end Effect

/-- What is held pending for a CSR is found there. -/
theorem lookup_ins (t : Tbl Word) (i : Nat) (w : Word) : (Tbl.ins t i w).lookup i = some w := by
  induction t with
  | nil => simp [Tbl.ins]
  | cons e t ih =>
    obtain ⟨j, v⟩ := e
    unfold Tbl.ins
    split
    · simp
    · split
      · simp
      next hne =>
        have hbeq : (i == j) = false := beq_false_of_ne hne
        rw [List.lookup_cons, hbeq]
        exact ih

theorem exec_csrr (k : Nat) (rep : Bool) (i : BitVec 8) (s : State) :
    exec (.csrr k rep i) s = onUnit (isCore k) s (fun c => xCsrr c k rep i) := rfl

theorem exec_csrrTblo (k : Nat) (rep : Bool) (s : State) :
    exec (.csrrTblo k rep) s = onUnit (isCore k) s (fun c => xCsrrTblo c k rep) := rfl

theorem exec_csrrDpos (k : Nat) (rep : Bool) (s : State) :
    exec (.csrrDpos k rep) s = onUnit (isCore k) s (fun c => xCsrrDpos c k rep) := rfl

theorem exec_csrw (k : Nat) (rep : Bool) (i : BitVec 8) (s : State) :
    exec (.csrw k rep i) s = onUnit (isCore k) s (fun c => xCsrw c k rep i) := rfl

theorem exec_csrwDpos (k : Nat) (rep : Bool) (s : State) :
    exec (.csrwDpos k rep) s = onUnit (isCore k) s (fun c => xCsrwDpos c k rep) := rfl

theorem exec_csrwDeferred (k : Nat) (rep : Bool) (i : BitVec 8) (s : State) :
    exec (.csrwDeferred k rep i) s = onUnit (isCore k) s (fun c => xCsrwDeferred c k rep i) := rfl

theorem exec_csrwSptr (k : Nat) (rep : Bool) (s : State) :
    exec (.csrwSptr k rep) s = onUnit (isCore k) s (fun c => xCsrwSptr c k rep) := rfl

/-- A CSR without a behaviour of its own is read by a plain word. -/
theorem xCsrr_plain {i : BitVec 8} (h20 : i ≠ 0x20) (h21 : i ≠ 0x21) (h22 : i ≠ 0x22) (h1A : i ≠ 0x1A) (c : Chip) (k : Nat) (rep : Bool) :
    xCsrr c k rep i = plainWord c k rep (.csrr i) 2 (fun c _ => (c, [csrRead c k i.toNat])) := by
  unfold xCsrr
  rw [if_neg (not_or.mpr ⟨h20, not_or.mpr ⟨h22, h1A⟩⟩), if_neg h21]

theorem xCsrw_scratch {i : BitVec 8} (hlo : 0x30 ≤ i.toNat) (hhi : i.toNat ≤ 0x33) (c : Chip) (k : Nat) (rep : Bool) :
    xCsrw c k rep i = csrWriteWord c k rep i 0 (fun c w => csrPut c k i.toNat w) := by
  obtain rfl | rfl | rfl | rfl : i = 0x30 ∨ i = 0x31 ∨ i = 0x32 ∨ i = 0x33 := by bv_omega
  all_goals rfl

theorem xCsrw_cstat (c : Chip) (k : Nat) (rep : Bool) : xCsrw c k rep 0x00 =
    csrWriteWord c k rep 0x00 0 (fun c w => csrPut c k 0x00 (csrVal c k 0x00 &&& ~~~ (w &&& 3))) := by
  unfold xCsrw
  rw [if_neg (by decide)]
  refine congrArg (csrWriteWord c k rep 0x00 0) (funext fun c => funext fun w => ?_)
  exact if_pos (by decide)

theorem xCsrw_readOnly (c : Chip) (k : Nat) (rep : Bool) : xCsrw c k rep 0x02 = csrWriteWord c k rep 0x02 0 (fun c _ => c) := by
  unfold xCsrw
  rw [if_neg (by decide)]
  refine congrArg (csrWriteWord c k rep 0x02 0) (funext fun c => funext fun w => ?_)
  simp [csrStore]

theorem xCsrwDeferred_imask (c : Chip) (k : Nat) (rep : Bool) : xCsrwDeferred c k rep 0x18 =
    csrWriteWord c k rep 0x18 0 (fun c w => updCore c k (fun r => { r with pend := Tbl.ins r.pend 0x18 (w &&& 1) })) := by
  unfold xCsrwDeferred
  rw [if_pos (by decide)]
  refine congrArg (csrWriteWord c k rep 0x18 0) (funext fun c => funext fun w => ?_)
  simp [deferVal]

theorem xCsrwDeferred_trapvec (c : Chip) (k : Nat) (rep : Bool) : xCsrwDeferred c k rep 0x10 =
    csrWriteWord c k rep 0x10 0 (fun c w => updCore c k (fun r => { r with pend := Tbl.ins r.pend 0x10 (w &&& 0x7FF0) })) := by
  unfold xCsrwDeferred
  rw [if_pos (by decide)]
  refine congrArg (csrWriteWord c k rep 0x10 0) (funext fun c => funext fun w => ?_)
  simp [deferVal]

theorem fetched_csrRead {c d : Chip} {k : Nat} (hF : JustFetched c d k) (i : Nat) : csrRead d k i = csrRead c k i := by
  have hcsr := fetched_csrVal hF
  obtain ⟨ln, hl⟩ := hF.core
  have hlpend : lpend d k = lpend c k := by
    simp only [lpend_eq, fetched_slotBusy hF]
  simp only [csrRead, hcsr, hlpend, fetched_inUnison hF, fetched_fixedUnison hF, fetched_reqUp hF, hl]

/-- A write of SPTR takes effect behind the word: a value in range stands there, another sets CFGERR (R92, R94). -/
theorem csrw_sptr {c e : Chip} {k : Nat} {g : Fills} (hE : WordEnd c e k g 1 [] ((coreOf c k).pc + 2)) (a : Nat) :
    let t := if 0x4000 ≤ a ∧ a ≤ 0x8000 then csrPut e k 0x0A (wd a) else csrCfgErr (csrPut e k 0x0A (csrReset e k 0x0A)) k
    Popped c t k g ∧ (0x4000 ≤ a → a ≤ 0x8000 → csrVal t k 0x0A = wd a ∧ csrVal t k 0x00 = csrVal c k 0x00) ∧
      (a < 0x4000 ∨ 0x8000 < a → bit (csrVal t k 0x00) 1 = true) := by
  intro t
  by_cases ha : 0x4000 ≤ a ∧ a ≤ 0x8000
  · have ht : t = csrPut e k 0x0A (wd a) := if_pos ha
    rw [ht]
    refine ⟨popped_csrPut hE _ (by decide), fun _ _ => ⟨csrVal_csrPut_same .., ?_⟩, fun h => by omega⟩
    rw [csrVal_csrPut_other _ _ _ (by decide), hE.csrs _ (by decide) (by decide)]
  · have ht : t = csrPut (csrPut e k 0x0A (csrReset e k 0x0A)) k 0x00 (csrVal (csrPut e k 0x0A (csrReset e k 0x0A)) k 0x00 ||| 2) := if_neg ha
    rw [ht]
    refine ⟨?_, fun h h' => absurd ⟨h, h'⟩ ha, fun _ => ?_⟩
    · obtain ⟨hs, hg⟩ := popped_csrPut hE (csrReset e k 0x0A) (i := 0x0A) (by decide)
      refine ⟨?_, goesOn_after hg ?_ ?_ (csrVal_csrPut_other _ _ _ (by decide))⟩
      · rw [coreOf_csrPut_same]
        exact hs
      · rw [coreOf_csrPut_same]
      · rw [coreOf_csrPut_same]
    · rw [csrVal_csrPut_same, bit_or, show bit (2 : Word) 1 = true by decide, Bool.or_true]

/-- A deferred write is held pending, and the CSR keeps its value (R118). -/
theorem csrw_pends {c e : Chip} {k i : Nat} {g : Fills} (hE : WordEnd c e k g 1 [] ((coreOf c k).pc + 2)) (v : Word) (h1 : i ≠ 0x0A)
    (h2 : i ≠ 0x28) :
    let t := updCore e k (fun r => { r with pend := Tbl.ins r.pend i v })
    Popped c t k g ∧ (coreOf t k).pend.lookup i = some v ∧ csrVal t k i = csrVal c k i := by
  intro t
  have ht : t = updCore e k (fun r => { r with pend := Tbl.ins (coreOf e k).pend i v }) := by
    simp only [t, updCore]
  rw [ht]
  refine ⟨popped_pend hE _, ?_, ?_⟩
  · rw [coreOf_updCore_same]
    exact lookup_ins _ i v
  · rw [csrVal_updCore _ _ _ _ rfl, hE.csrs i h1 h2]

/-- Settles O33: each read by the way it goes, each write by what it does behind its word. -/
theorem csrWords : Obligations.CsrWords := by
  unfold Obligations.CsrWords
  intro s k rep d g ops hk pc v own kept pushed position
  refine ⟨fun i h20 h21 h22 h1A h hs => ?_, fun h => ?_, fun h => ?_, fun h hd => ?_, fun h => ?_, fun i hlo hhi h => ?_, fun h => ?_,
    fun h hs => ?_, fun h => ?_, fun h => ?_, fun h => ?_⟩
  · refine leaves_of_onCore hk (exec_csrr k rep i s) ?_
    rw [xCsrr_plain h20 h21 h22 h1A, plainWord_go 2 _ h, fetched_csrRead (starts_fetched h), fetched_pc (starts_fetched h)]
    exact plainDone_finish _ (starts_fetched h) hs
  · obtain ⟨h1, h2, h3⟩ := xCsrrTblo_pushed h
    exact ⟨fun ho => leaves_of_onCore hk (exec_csrrTblo k rep s) (h1 ho), fun hl hf => leaves_of_onCore hk (exec_csrrTblo k rep s) (h2 hl hf),
      fun e he hf => leaves_of_onCore hk (exec_csrrTblo k rep s) (h3 e he hf)⟩
  · obtain ⟨ln, hl⟩ := (starts_fetched h).core
    obtain ⟨h1, h2, h3⟩ := csrReadWord_pushed (vals := fun c => [(coreOf c k).tbhi]) (w := (coreOf s.chip k).tbhi) h (by rw [hl])
    exact ⟨fun ho => leaves_of_onCore hk (exec_csrr k rep 0x21 s) (h1 ho), fun hl hf => leaves_of_onCore hk (exec_csrr k rep 0x21 s) (h2 hl hf),
      fun e he hf => leaves_of_onCore hk (exec_csrr k rep 0x21 s) (h3 e he hf)⟩
  · obtain ⟨h1, h2, h3⟩ := csrReadWord_pushed (vals := fun c => [dronePos c (coreOf c k).dpos]) h (by rw [starts_dronePos h hd])
    exact ⟨fun ho => leaves_of_onCore hk (exec_csrrDpos k rep s) (h1 ho), fun hl hf => leaves_of_onCore hk (exec_csrrDpos k rep s) (h2 hl hf),
      fun e he hf => leaves_of_onCore hk (exec_csrrDpos k rep s) (h3 e he hf)⟩
  · refine leaves_of_onCore hk (exec_csrwDpos k rep s) ?_
    rw [xCsrwDpos, csrWriteWord_go _ h]
    exact ⟨popped_dpos (csrw_wordEnd h) _, by rw [coreOf_updCore_same]⟩
  · refine leaves_of_onCore hk (exec_csrw k rep i s) ?_
    rw [xCsrw_scratch hlo hhi, csrWriteWord_go _ h]
    exact ⟨popped_csrPut (csrw_wordEnd h) _ (by omega), csrVal_csrPut_same ..⟩
  · refine leaves_of_onCore hk (exec_csrw k rep 0x00 s) ?_
    have hE := csrw_wordEnd h
    rw [xCsrw_cstat, csrWriteWord_go _ h]
    exact ⟨popped_csrPut hE _ (by decide), by rw [csrVal_csrPut_same, hE.csrs _ (by decide) (by decide)]⟩
  · refine leaves_of_onCore hk (exec_csrw k rep 0x02 s) ?_
    rw [xCsrw_readOnly, csrWriteWord_go _ h]
    exact plainDone_finish _ (starts_fetched h) hs
  · refine leaves_of_onCore hk (exec_csrwDeferred k rep 0x18 s) ?_
    rw [xCsrwDeferred_imask, csrWriteWord_go _ h]
    exact csrw_pends (csrw_wordEnd h) _ (by decide) (by decide)
  · refine leaves_of_onCore hk (exec_csrwDeferred k rep 0x10 s) ?_
    rw [xCsrwDeferred_trapvec, csrWriteWord_go _ h]
    exact csrw_pends (csrw_wordEnd h) _ (by decide) (by decide)
  · intro a
    refine leaves_of_onCore hk (exec_csrwSptr k rep s) ?_
    rw [xCsrwSptr, csrWriteWord_go _ h]
    exact csrw_sptr (csrw_wordEnd h) a

end Sys2Proof.Machine
end

section
/-! PROOFS. The line buffers (R116, R117): what a fetch finds again in them, and what the end of a word leaves of them. -/

namespace Sys2Proof.Machine

open Sys2Proof Sys2Proof.Safety

/-- The line of an address among the line buffers. -/
def lineAt (ls : List Line) (a : Nat) : Option Line := ls.find? (fun l => decide (l.base = a / 16 * 16))

theorem lineAt_base {ls : List Line} {a : Nat} {l : Line} (h : lineAt ls a = some l) : l.base = a / 16 * 16 := by
  simpa using List.find?_some h

/-- A fetch that finds its line changes nothing but the order of the buffers. -/
theorem fetchWord_hit {c : Chip} {k a : Nat} {l : Line} (h : lineAt (coreOf c k).lines a = some l) :
    fetchWord c k a = (touchLine c k l, l.words.getD (a % 16 / 2) 0, false) := by
  unfold lineAt at h
  unfold fetchWord
  simp only [h]

theorem fetchWord_miss {c : Chip} {k a : Nat} (h : lineAt (coreOf c k).lines a = none) :
    fetchWord c k a = (fillLine (readLine c k (a / 16 * 16)).1 k (a / 16 * 16) (readLine c k (a / 16 * 16)).2.1,
      (readLine c k (a / 16 * 16)).2.1.getD (a % 16 / 2) 0, (readLine c k (a / 16 * 16)).2.2) := by
  unfold lineAt at h
  unfold fetchWord
  simp only [h]

theorem lines_touchLine (c : Chip) (k : Nat) (l : Line) :
    (coreOf (touchLine c k l) k).lines = l :: (coreOf c k).lines.filter (fun x => decide (x.base ≠ l.base)) := by
  rw [touchLine, coreOf_updCore_same]

theorem lines_fillLine (c : Chip) (k base : Nat) (ws : List IWord) :
    (coreOf (fillLine c k base ws) k).lines = ⟨base, ws⟩ :: (coreOf c k).lines.take 1 := by
  rw [fillLine, coreOf_updCore_same]

theorem lines_readLine (c : Chip) (k base : Nat) : (coreOf (readLine c k base).1 k).lines = (coreOf c k).lines := by
  obtain ⟨r, b, h⟩ := readLine_only c k base
  rw [h]
  rfl

/-- After a fetch the buffers are headed by the line it has taken its word from. -/
theorem fetchWord_lines (c : Chip) (k a : Nat) : ∃ l rest, (coreOf (fetchWord c k a).1 k).lines = l :: rest ∧ l.base = a / 16 * 16 ∧
    (fetchWord c k a).2.1 = l.words.getD (a % 16 / 2) 0 ∧
    (lineAt (coreOf c k).lines a = some l ∧ rest = (coreOf c k).lines.filter (fun x => decide (x.base ≠ l.base)) ∨
      lineAt (coreOf c k).lines a = none ∧ rest = (coreOf c k).lines.take 1) := by
  cases h : lineAt (coreOf c k).lines a with
  | some l =>
    rw [fetchWord_hit h]
    exact ⟨l, _, lines_touchLine c k l, lineAt_base h, rfl, Or.inl ⟨rfl, rfl⟩⟩
  | none =>
    have hlines := lines_readLine c k (a / 16 * 16)
    rw [fetchWord_miss h]
    generalize readLine c k (a / 16 * 16) = q at hlines
    obtain ⟨e, ws, p⟩ := q
    refine ⟨⟨a / 16 * 16, ws⟩, (coreOf c k).lines.take 1, ?_, rfl, rfl, Or.inr ⟨rfl, rfl⟩⟩
    dsimp only at hlines ⊢
    rw [lines_fillLine, hlines]

/-- Moving another line to the front does not lose a line. -/
theorem lineAt_filter {ls : List Line} {a b : Nat} (h : b ≠ a / 16 * 16) :
    lineAt (ls.filter (fun x => decide (x.base ≠ b))) a = lineAt ls a := by
  unfold lineAt
  rw [List.find?_filter]
  congr 1
  funext x
  by_cases hx : x.base = a / 16 * 16
  · simp [hx, h.symm]
  · simp [hx]

/-- The word just fetched is found again, also behind a fetch of another word. -/
theorem lineAt_fetched (c : Chip) (k a b : Nat) :
    let d := (fetchWord c k a).1
    ∃ l m, lineAt (coreOf (fetchWord d k b).1 k).lines a = some l ∧ l.words.getD (a % 16 / 2) 0 = (fetchWord c k a).2.1 ∧
      lineAt (coreOf (fetchWord d k b).1 k).lines b = some m ∧ m.words.getD (b % 16 / 2) 0 = (fetchWord d k b).2.1 := by
  intro d
  obtain ⟨l, rest, hlines, hbase, hword, -⟩ := fetchWord_lines c k a
  obtain ⟨m, rest', hlines', hbase', hword', hcase⟩ := fetchWord_lines d k b
  have hd : lineAt (coreOf d k).lines a = some l := by
    unfold lineAt
    rw [hlines, List.find?_cons_of_pos (by simpa using hbase)]
  have hm : lineAt (coreOf (fetchWord d k b).1 k).lines b = some m := by
    unfold lineAt
    rw [hlines', List.find?_cons_of_pos (by simpa using hbase')]
  by_cases hab : a / 16 * 16 = b / 16 * 16
  · have hml : m = l := by
      have hdb : lineAt (coreOf d k).lines b = some l := by rwa [lineAt, ← hab]
      rcases hcase with ⟨hf, -⟩ | ⟨hf, -⟩
      · rw [hdb] at hf
        exact (Option.some.inj hf).symm
      · rw [hdb] at hf
        cases hf
    refine ⟨m, m, ?_, by rw [hml, hword], hm, hword'.symm⟩
    rwa [lineAt, hab]
  · refine ⟨l, m, ?_, hword.symm, hm, hword'.symm⟩
    have hne : m.base ≠ a / 16 * 16 := by rw [hbase']; exact Ne.symm hab
    rw [hlines', lineAt, List.find?_cons_of_neg (by simpa using hne)]
    rcases hcase with ⟨-, hr⟩ | ⟨-, hr⟩
    · rw [hr]
      exact (lineAt_filter hne).trans hd
    · rw [hr, hlines]
      simp [hbase]

/-- Where two lines are buffered, fetching one keeps both. -/
theorem lineAt_touchLine {c : Chip} {k a b : Nat} {l m : Line} (ha : lineAt (coreOf c k).lines a = some l)
    (hb : lineAt (coreOf c k).lines b = some m) : lineAt (coreOf (touchLine c k l) k).lines b = some m := by
  have hbase := lineAt_base ha
  rw [lines_touchLine]
  by_cases hab : l.base = b / 16 * 16
  · have hlm : l = m := by
      have : lineAt (coreOf c k).lines b = some l := by rwa [lineAt, ← hab, hbase]
      exact Option.some.inj (this.symm.trans hb)
    rw [lineAt, List.find?_cons_of_pos (by simpa using hab), hlm]
  · rw [lineAt, List.find?_cons_of_neg (by simpa using hab)]
    exact (lineAt_filter hab).trans hb

/-! ### What a fetch finds depends on the buffers and on memory alone -/

/-- The words of a line and whether one is poisoned, read out of memory one word at a time. -/
def lineFrom (c : Chip) (ga : Nat) (p : List IWord × Bool) (i : Nat) : List IWord × Bool :=
  let w := wordAt c ((ga + 4 * i) / 4 * 4)
  (p.1 ++ [BitVec.ofNat 16 w.toNat, BitVec.ofNat 16 (w.toNat / 65536)], p.2 || decide ((ga + 4 * i) / 4 * 4 ∈ c.poison))

theorem readLine_words (c : Chip) (k base : Nat) :
    (readLine c k base).2 = (List.range 4).foldl (lineFrom c (Tgt.sram (courseNo k) base).ga) ([], false) := by
  have hfold : ∀ (l : List Nat) (acc : Chip × List IWord × Bool), (∃ r b, acc.1 = { c with regs := r, sbe := b }) →
      (l.foldl (fun (acc : Chip × List IWord × Bool) (i : Nat) =>
        let (c, l, p) := acc
        let (c, w, q) := readWord c ((Tgt.sram (courseNo k) base).ga + 4 * i) 2 k
        (c, l ++ [BitVec.ofNat 16 w.toNat, BitVec.ofNat 16 (w.toNat / 65536)], p || q)) acc).2 =
          l.foldl (lineFrom c (Tgt.sram (courseNo k) base).ga) acc.2 := by
    intro l
    induction l with
    | nil => exact fun acc _ => rfl
    | cons i l ih =>
      intro acc h
      obtain ⟨r, b, hb⟩ := h
      obtain ⟨r', b', h'⟩ := readWord_only acc.1 ((Tgt.sram (courseNo k) base).ga + 4 * i) 2 k
      rw [List.foldl_cons, List.foldl_cons, ih]
      · dsimp only
        rw [h', hb]
        rfl
      · refine ⟨r', b', ?_⟩
        dsimp only
        rw [h', hb]
  exact hfold _ _ ⟨c.regs, c.sbe, rfl⟩

theorem readLine_snd {c d : Chip} (k base : Nat) (hm : d.mem = c.mem) (hp : d.poison = c.poison) :
    (readLine d k base).2 = (readLine c k base).2 := by
  have hline : lineFrom d = lineFrom c := by
    funext ga p i
    rw [lineFrom, lineFrom, wordAt_of_mem hm, hp]
  rw [readLine_words, readLine_words, hline]

theorem fetchWord_congr {c d : Chip} {k : Nat} (a : Nat) (hl : (coreOf d k).lines = (coreOf c k).lines) (hm : d.mem = c.mem)
    (hp : d.poison = c.poison) :
    (fetchWord d k a).2 = (fetchWord c k a).2 ∧ (coreOf (fetchWord d k a).1 k).lines = (coreOf (fetchWord c k a).1 k).lines := by
  have hread := readLine_snd k (a / 16 * 16) hm hp
  cases h : lineAt (coreOf c k).lines a with
  | some l =>
    have h' := h
    rw [← hl] at h'
    rw [fetchWord_hit h, fetchWord_hit h', lines_touchLine, lines_touchLine, hl]
    exact ⟨rfl, rfl⟩
  | none =>
    have h' := h
    rw [← hl] at h'
    rw [fetchWord_miss h, fetchWord_miss h', lines_fillLine, lines_fillLine, lines_readLine, lines_readLine, hl, hread]
    exact ⟨rfl, rfl⟩

/-- The end of a word leaves the line buffers, whatever it stores. -/
theorem lines_endWord (c : Chip) (k : Nat) (f : Fills) (n : Nat) (res : List Word) (stores : List Store) (pc : Nat) :
    (coreOf (endWord c k f n res stores pc) k).lines = (coreOf c k).lines := by
  obtain ⟨g, he, -, ⟨w, hg⟩, -, -⟩ := endWord_placed c k f n res stores pc
  have hK : KeepsStrings g ((wordStores c k f n res stores).foldl (fun c s => placeStore c k s) g) :=
    keepsStrings_foldl (fun d s => keepsStrings_placeStore d k s) _ g
  obtain ⟨_, _, _, _, _, hp⟩ := hK.core k
  rw [he]
  generalize (wordStores c k f n res stores).foldl (fun c s => placeStore c k s) g = p at hp
  obtain ⟨-, -, -, -, -, _, _, _, _, _, _, hr⟩ := retire_core p k pc
  rw [hr, hp, hg]

end Sys2Proof.Machine
end

section
/-! PROOFS. TRAP and RETT (R119, R145, R177, R190, R191, R193). -/

namespace Sys2Proof.Machine

open Sys2Proof Sys2Proof.Safety

/-! ### Words that start -/

theorem fetched_coreOf {c d : Chip} {k : Nat} (hF : JustFetched c d k) (j : Nat) : ∃ l, coreOf d j = { coreOf c j with lines := l } := by
  by_cases h : j = k
  · rw [h]
    exact hF.core
  · exact ⟨(coreOf c j).lines, hF.others j h⟩

theorem fetched_orderRun {c d : Chip} {k : Nat} (hF : JustFetched c d k) : orderRun d k = orderRun c k := by
  obtain ⟨l, hl⟩ := fetched_coreOf hF k
  obtain ⟨l', hl'⟩ := fetched_coreOf hF (2 * courseNo k)
  unfold orderRun
  simp only [fetched_inUnison hF, fetched_courseOf hF, hl, hl']

theorem starts_order {c d : Chip} {k n : Nat} {rep : Bool} {op : CoreOp} {g : Fills} {ops : List Word}
    (h : starts c k rep op n d g ops) : atWord c k = true ∧ orderTrap c k = true := by
  obtain ⟨hw, -, -, -, -, -, -, ho⟩ := begin_go h
  refine ⟨hw, ?_⟩
  rw [orderTrap, ← fetched_orderRun (starts_fetched h), ho]
  rfl

/-- A word that starts outside a repetition has been fetched, unpoisoned, from where instructions can be fetched. -/
theorem starts_instr {c d : Chip} {k n : Nat} {op : CoreOp} {g : Fills} {ops : List Word} (h : starts c k false op n d g ops) :
    ∃ e, atHand c k false op = some (e, false) ∧ JustFetched c e k ∧ usable (coreOf c k).pc := by
  have hrep := starts_rep_none h
  unfold starts begin_ at h
  split at h
  · cases h
  split at h
  · cases h
  next e p he =>
    have hF := atHand_only he
    have hp : p = false := by
      cases p with
      | false => rfl
      | true =>
        exfalso
        split at h
        · split at h <;> cases h
        next hp => exact hp rfl
    subst hp
    refine ⟨e, he, hF, fetchable_iff_usable.mp ?_⟩
    unfold atHand at he
    rw [hrep] at he
    dsimp only at he
    by_contra hno
    have hrefused : (fetchInstr c k (coreOf c k).pc).refused = some (coreOf c k).pc := by
      unfold fetchInstr
      rw [if_pos (by simpa using hno)]
    simp [hrefused] at he

theorem fetched_pendOk {c d : Chip} {k : Nat} (hF : JustFetched c d k) (hp : pendOk c k) : pendOk d k := by
  obtain ⟨l, hl⟩ := hF.core
  rwa [pendOk, hl]

theorem fetched_vectorAt {c d : Chip} {k : Nat} (hF : JustFetched c d k) (cause : Nat) : vectorAt d k cause = vectorAt c k cause := by
  obtain ⟨l, hl⟩ := hF.core
  rw [vectorAt, vectorAt, fetched_csrVal hF, hl]

/-! ### TRAP -/

theorem wordEnd_pc {c d : Chip} {k n pc : Nat} {g : Fills} {res : List Word} (h : WordEnd c d k g n res pc)
    (hrep : (coreOf c k).rep = none) : (coreOf d k).pc = pc ∧ (coreOf d k).rep = none ∧ csrVal d k 0x28 = csrVal c k 0x28 := by
  have hnext := h.next
  unfold goesOn at hnext
  rwa [hrep] at hnext

theorem wordEnd_pend {c d : Chip} {k n pc : Nat} {g : Fills} {res : List Word} (h : WordEnd c d k g n res pc) :
    (coreOf d k).pend = (coreOf c k).pend := by
  obtain ⟨_, _, _, _, _, _, _, _, _, _, hk⟩ := h.core
  rw [hk]

theorem wordEnd_vectorAt {c d : Chip} {k n pc : Nat} {g : Fills} {res : List Word} (h : WordEnd c d k g n res pc) (cause : Nat) :
    vectorAt d k cause = vectorAt c k cause := by
  rw [vectorAt, vectorAt, wordEnd_pend h, h.csrs _ (by decide) (by decide)]

/-- TRAP completes, and its trap is entered behind it (R190). -/
theorem xTrap_enters {c d : Chip} {k : Nat} {f : BitVec 8} {g : Fills} {ops : List Word} (h : starts c k false (.trap f) 0 d g ops)
    (hi : inhOf c k = false) : xTrap c k f = trapEntry (finish d k g 0 [] [] ((coreOf c k).pc + 2)) k
      { cause := 0x0A, retPc := (coreOf c k).pc + 2, ipc := (coreOf c k).pc, code := f.toNat } := by
  have hF := starts_fetched h
  have hbegin := begin_check (check := fun _ => if inhOf c k then some (0x0A, false, 0) else none) h (by simp [hi])
  unfold xTrap
  simp only [hbegin, fetched_pc hF]

/-- While a handler runs, TRAP is a double trap before the word (R191). -/
theorem xTrap_double {c d : Chip} {k : Nat} {f : BitVec 8} {g : Fills} {ops : List Word} (h : starts c k false (.trap f) 0 d g ops)
    (hp : pendOk c k) (hi : inhOf c k = true) : xTrap c k f = doubleTrap (trapStart d k) k 0x0A := by
  have hF := starts_fetched h
  have hbegin := begin_trap (check := fun _ => if inhOf c k then some (0x0A, false, 0) else none) h (if_pos hi)
  unfold xTrap
  simp only [hbegin]
  exact trapEntry_double _ (fetched_pendOk hF hp) (by rwa [inhOf, fetched_csrVal hF])

/-! ### RETT -/

/-- The return of a trap: the pending CSR writes applied, INH 0 (R118, R193). -/
theorem trapReturn_oneCore (c : Chip) (k : Nat) : OneCore c (trapReturn c k) k :=
  oneCore_trans (oneCore_applyPend c k) (oneCore_csrPut _ k _ _)

theorem trapReturn_core (c : Chip) (k : Nat) : ∃ w, coreOf (trapReturn c k) k = { coreOf c k with csr := w, pend := [] } := by
  obtain ⟨w, hw⟩ := coreOf_applyPend c k
  unfold trapReturn
  rw [coreOf_csrPut_same, hw]
  exact ⟨_, rfl⟩

theorem csrVal_trapReturn {c : Chip} {k i : Nat} (h : pendOk c k) (hi : i ≠ 0x13) :
    csrVal (trapReturn c k) k i = ((coreOf c k).pend.lookup i).getD (csrVal c k i) := by
  unfold trapReturn
  rw [csrVal_csrPut_other _ _ _ hi, csrVal_applyPend h]

theorem csrVal_trapReturn_other {c : Chip} {k i : Nat} (h : pendOk c k) (hi : i ≠ 0x13) (hd : isDeferred i = false) :
    csrVal (trapReturn c k) k i = csrVal c k i := by
  rw [csrVal_trapReturn h hi, ← csrVal_applyPend h, csrVal_applyPend_other h hd]

theorem inhOf_trapReturn (c : Chip) (k : Nat) : inhOf (trapReturn c k) k = false := by
  unfold inhOf trapReturn
  rw [csrVal_csrPut_same]
  exact bit_setBits_same _ false (by decide)

theorem pendOk_trapReturn (c : Chip) (k : Nat) : pendOk (trapReturn c k) k := by
  obtain ⟨w, hw⟩ := trapReturn_core c k
  rw [pendOk, hw]
  exact ⟨List.nodup_nil, fun _ h => absurd h List.not_mem_nil⟩

theorem vectorAt_trapReturn {c : Chip} {k : Nat} (h : pendOk c k) (cause : Nat) : vectorAt (trapReturn c k) k cause = vectorAt c k cause := by
  obtain ⟨w, hw⟩ := trapReturn_core c k
  rw [vectorAt, vectorAt, csrVal_trapReturn h (by decide), hw]
  rfl

theorem xRett_go {c d : Chip} {k : Nat} {g : Fills} {ops : List Word} (h : starts c k false .rett 0 d g ops)
    (hu : usable (csrVal c k 0x12).toNat) :
    xRett c k = if bit (csrVal c k 0x13) 16 then
        resumeRep (finish (trapReturn d k) k g 0 [] [] (csrVal c k 0x12).toNat) k (csrVal c k 0x12).toNat
      else finish (trapReturn d k) k g 0 [] [] (csrVal c k 0x12).toNat := by
  have hfetch := fetchable_iff_usable.mpr hu
  have hcsr := fetched_csrVal (starts_fetched h) 0x13
  unfold starts at h
  unfold xRett
  simp only [hfetch, h, hcsr, Bool.not_true, Bool.false_eq_true, if_false]

/-- RETT to a target that instructions cannot be fetched from is a trap of its own, with INH already 0 (R110). -/
theorem xRett_traps {c d : Chip} {k : Nat} {g : Fills} {ops : List Word} (h : starts c k false .rett 0 d g ops)
    (hu : ¬ usable (csrVal c k 0x12).toNat) :
    ∃ e, JustFetched c e k ∧ xRett c k = trapEntry (trapReturn e k) k
      { cause := 0x02, retPc := (coreOf c k).pc, ipc := (coreOf c k).pc, addr := (csrVal c k 0x12).toNat } := by
  obtain ⟨e, he, hF, -⟩ := starts_instr h
  obtain ⟨hw, ho⟩ := starts_order h
  have hfetch : fetchable (csrVal c k 0x12).toNat = false := by
    rw [← Bool.not_eq_true, fetchable_iff_usable]
    exact hu
  refine ⟨e, hF, ?_⟩
  unfold xRett rettTrap
  simp only [hfetch, hw, ho, he, fetched_pc hF, Bool.not_true, Bool.not_false, Bool.false_eq_true, if_false, if_true, or_false,
    Bool.true_eq_false]

/-- The string behind RETT, before a repetition goes on. -/
theorem rett_wordEnd {c d : Chip} {k : Nat} {g : Fills} {ops : List Word} (h : starts c k false .rett 0 d g ops) (hp : pendOk c k)
    (tp : Nat) :
    let t := finish (trapReturn d k) k g 0 [] [] tp
    (coreOf t k).pc = tp ∧ (coreOf t k).rep = none ∧ inhOf t k = false ∧ (coreOf t k).pend = [] ∧ (coreOf t k).stk = g.stk.take 8 ∧
      csrVal t k 0x18 = ((coreOf c k).pend.lookup 0x18).getD (csrVal c k 0x18) ∧ csrVal t k 0x11 = csrVal c k 0x11 ∧
      csrVal t k 0x28 = csrVal c k 0x28 := by
  intro t
  have hF := starts_fetched h
  have hpd := fetched_pendOk hF hp
  obtain ⟨l, hl⟩ := hF.core
  obtain ⟨w, hw⟩ := trapReturn_core d k
  have hE : WordEnd (trapReturn d k) t k g 0 [] tp := wordEnd_finish ..
  have hrep : (coreOf (trapReturn d k) k).rep = none := by rw [hw, hl]; exact starts_rep_none h
  obtain ⟨hpc, hnone, hcount⟩ := wordEnd_pc hE hrep
  refine ⟨hpc, hnone, ?_, ?_, hE.stack, ?_, ?_, ?_⟩
  · rw [inhOf, hE.csrs _ (by decide) (by decide)]
    exact inhOf_trapReturn d k
  · rw [wordEnd_pend hE, hw]
  · rw [hE.csrs _ (by decide) (by decide), csrVal_trapReturn hpd (by decide), fetched_csrVal hF, hl]
  · rw [hE.csrs _ (by decide) (by decide), csrVal_trapReturn_other hpd (by decide) rfl, fetched_csrVal hF]
  · rw [hcount, csrVal_trapReturn_other hpd (by decide) rfl, fetched_csrVal hF]

/-! ### The repetition that RETT goes on with -/

/-- What the word at `a` and the word behind it are, as a string whose line buffers and memory are `c`'s finds them. -/
structure FindsPair (c e : Chip) (k a : Nat) : Prop where
  first : (fetchWord e k a).2 = ((fetchWord c k a).2.1, false)
  second : (fetchWord (fetchWord e k a).1 k (a + 2)).2 = ((fetchWord (fetchWord c k a).1 k (a + 2)).2.1, false)

theorem findsPair_same {c e : Chip} {k a : Nat} (hl : (coreOf e k).lines = (coreOf c k).lines) (hm : e.mem = c.mem)
    (hp : e.poison = c.poison) (h1 : (fetchWord c k a).2.2 = false) (h2 : (fetchWord (fetchWord c k a).1 k (a + 2)).2.2 = false) :
    FindsPair c e k a := by
  obtain ⟨hfirst, hlines⟩ := fetchWord_congr a hl hm hp
  have hF := fetchWord_only c k a
  have hF' := fetchWord_only e k a
  obtain ⟨hsecond, -⟩ := fetchWord_congr (c := (fetchWord c k a).1) (d := (fetchWord e k a).1) (a + 2) hlines
    (by rw [fetched_mem hF', fetched_mem hF, hm]) (by rw [fetched_poison hF', fetched_poison hF, hp])
  exact ⟨by rw [hfirst, ← h1], by rw [hsecond, ← h2]⟩

/-- Both words are found again in the line buffers, once fetched. -/
theorem findsPair_cached {c e : Chip} {k a : Nat} (hl : (coreOf e k).lines = (coreOf (fetchWord (fetchWord c k a).1 k (a + 2)).1 k).lines) :
    FindsPair c e k a := by
  obtain ⟨l, m, hla, hlw, hmb, hmw⟩ := lineAt_fetched c k a (a + 2)
  rw [← hl] at hla hmb
  have hmt := lineAt_touchLine hla hmb
  refine ⟨by rw [fetchWord_hit hla, hlw], ?_⟩
  rw [fetchWord_hit hla]
  dsimp only
  rw [fetchWord_hit hmt, hmw]

/-- The end of RETT leaves the pair of words at its target to be found: it has stored nothing, or has fetched both first (R117). -/
theorem findsPair_finish {c : Chip} {k a : Nat} (g : Fills) (hrep : (coreOf c k).rep = none) (hu : usable a) (hu' : fetchable (a + 2) = true)
    (ho : (fetchWord c k a).2.1.toNat / 256 = 0x1E ∨ (fetchWord c k a).2.1.toNat / 256 = 0x1F) (h1 : (fetchWord c k a).2.2 = false)
    (h2 : (fetchWord (fetchWord c k a).1 k (a + 2)).2.2 = false) : FindsPair c (finish c k g 0 [] [] a) k a := by
  unfold finish
  dsimp only
  split
  next hquiet =>
    have hlen : (stackEnd g 0 []).length ≤ 8 := by simpa [stackEnd] using hquiet
    obtain ⟨⟨⟨_, hrest⟩, -⟩, -⟩ := endWord_core c k g 0 [] [] a (Or.inr ⟨rfl, hlen⟩)
    exact findsPair_same (lines_endWord ..) (by rw [hrest]) (by rw [hrest]) h1 h2
  next =>
    refine findsPair_cached ?_
    rw [lines_endWord]
    have hinstr : fetchInstr c k a = ⟨(fetchWord (fetchWord c k a).1 k (a + 2)).1, (fetchWord c k a).2.1,
        (fetchWord (fetchWord c k a).1 k (a + 2)).2.1, false, none⟩ := by
      have hext : (needsExt (fetchWord c k a).2.1 || decide ((fetchWord c k a).2.1.toNat / 256 = 0x1E) ||
          decide ((fetchWord c k a).2.1.toNat / 256 = 0x1F)) = true := by
        rcases ho with h | h <;> simp [h]
      unfold fetchInstr
      simp only [fetchable_iff_usable.mpr hu, hext, hu', h1, h2, Bool.not_true, Bool.false_eq_true, if_false, if_true, Bool.or_false]
    unfold fetchAhead followPc
    simp only [hrep, hinstr, Bool.false_eq_true, if_false]

/-- The repetition at the target of RETT goes on with the count that REPCNT holds, or behind its word where that is 0 (R177). -/
theorem resumeRep_core {c : Chip} {k a : Nat} {w x : IWord} {intr : Bool} (h1 : (fetchWord c k a).2 = (w, false))
    (h2 : (fetchWord (fetchWord c k a).1 k (a + 2)).2 = (x, false)) (hw : w.toNat / 256 = if intr then 0x1F else 0x1E)
    (hu : fetchable (a + 2) = true) (hx : repeatable (decide (courseNo k = luthierCourse)) x = true) (hrep : (coreOf c k).rep = none) :
    (∃ cs, coreOf (resumeRep c k a) k = { coreOf c k with
        lines := cs, rep := if csrVal c k 0x28 = 0 then none else some ⟨intr, x, a⟩,
        pc := if csrVal c k 0x28 = 0 then a + 4 else a, resumed := if csrVal c k 0x28 = 0 then (coreOf c k).resumed else true }) ∧
      ∀ i, csrVal (resumeRep c k a) k i = csrVal c k i := by
  have hF : JustFetched c (fetchWord (fetchWord c k a).1 k (a + 2)).1 k := justFetched_trans (fetchWord_only c k a) (fetchWord_only _ k (a + 2))
  have hintr : decide (w.toNat / 256 ≠ 0x1E) = intr := by
    cases intr <;> simp [hw]
  have hisRep : (decide (w.toNat / 256 = 0x1E) || decide (w.toNat / 256 = 0x1F)) = true := by
    cases intr <;> simp [hw]
  have heq : resumeRep c k a = if csrVal c k 0x28 = 0 then updCore (fetchWord (fetchWord c k a).1 k (a + 2)).1 k (fun r => { r with pc := a + 4 })
      else updCore (fetchWord (fetchWord c k a).1 k (a + 2)).1 k
        (fun r => { r with rep := some ⟨intr, x, a⟩, pc := a, resumed := true }) := by
    unfold resumeRep
    simp only [h1, h2, hisRep, hu, hx, hintr, fetched_csrVal hF, Bool.not_true, Bool.false_eq_true, Bool.true_eq_false, or_self, if_false, if_true]
  obtain ⟨l, hl⟩ := hF.core
  rw [heq]
  by_cases hn : csrVal c k 0x28 = 0
  · simp only [if_pos hn]
    refine ⟨⟨l, ?_⟩, fun i => ?_⟩
    · rw [coreOf_updCore_same, hl, ← hrep]
    · rw [csrVal_updCore _ _ _ _ rfl, fetched_csrVal hF]
  · simp only [if_neg hn]
    refine ⟨⟨l, ?_⟩, fun i => ?_⟩
    · rw [coreOf_updCore_same, hl]
    · rw [csrVal_updCore _ _ _ _ rfl, fetched_csrVal hF]

/-- The return address of a trap record is kept as it is where instructions can be fetched from it. -/
theorem retPc_usable {a : Nat} (h : usable a) : a % 65536 / 2 * 2 = a ∧ (a + 2) % 65536 / 2 * 2 = a + 2 := by
  obtain ⟨hlt, heven⟩ := h
  omega

/-- The record of a TRAP. -/
def swRecord (pc : Nat) (f : BitVec 8) : TrapRec := { cause := 0x0A, retPc := pc + 2, ipc := pc, code := f.toNat }

theorem swRecord_fields {pc : Nat} (f : BitVec 8) (h : usable pc) :
    wd ((swRecord pc f).retPc % 65536 / 2 * 2) = wd (pc + 2) ∧ bits (causeWord (swRecord pc f)) 7 0 = 0x0A ∧
      bits (causeWord (swRecord pc f)) 23 16 = f.toNat ∧ bit (causeWord (swRecord pc f)) 8 = false ∧
      bits (infoWord (swRecord pc f)) 15 0 = pc ∧ bit (infoWord (swRecord pc f)) 17 = true := by
  have hcause : (swRecord pc f).cause < 256 := (by decide : 0x0A < 256)
  have hslot : (swRecord pc f).slot < 4 := (by decide : 0 < 4)
  obtain ⟨hc0, hc8, -, -, -, hc16⟩ := causeWord_fields (swRecord pc f) hcause hslot f.isLt
  obtain ⟨hi0, -, hi17⟩ := infoWord_fields (swRecord pc f)
  refine ⟨congrArg wd (retPc_usable h).2, hc0, hc16, hc8, hi0.trans ?_, hi17⟩
  exact Nat.mod_eq_of_lt (h.1.trans (by decide))

/-- The record of a RETT whose target is unusable. -/
def rettRecord (pc tp : Nat) : TrapRec := { cause := 0x02, retPc := pc, ipc := pc, addr := tp }

theorem rettRecord_fields {pc : Nat} (tp : Nat) (h : usable pc) :
    bits (causeWord (rettRecord pc tp)) 7 0 = 0x02 ∧ wd ((rettRecord pc tp).retPc % 65536 / 2 * 2) = wd pc := by
  have hcause : (rettRecord pc tp).cause < 256 := (by decide : 0x02 < 256)
  have hslot : (rettRecord pc tp).slot < 4 := (by decide : 0 < 4)
  have hcode : (rettRecord pc tp).code < 256 := (by decide : 0 < 256)
  exact ⟨(causeWord_fields (rettRecord pc tp) hcause hslot hcode).1, congrArg wd (retPc_usable h).1⟩

section Words
variable {c d : Chip} {k : Nat} {g : Fills} {ops : List Word}

/-- TRAP ends and is entered with its record. -/
theorem xTrap_done {f : BitVec 8} (h : starts c k false (.trap f) 0 d g ops) (hp : pendOk c k) (hi : inhOf c k = false) :
    csrVal (xTrap c k f) k 0x12 = wd ((swRecord (coreOf c k).pc f).retPc % 65536 / 2 * 2) ∧
      csrVal (xTrap c k f) k 0x11 = causeWord (swRecord (coreOf c k).pc f) ∧
      csrVal (xTrap c k f) k 0x13 = infoWord (swRecord (coreOf c k).pc f) ∧
      (coreOf (xTrap c k f) k).pc = vectorAt c k 0x0A ∧ (coreOf (xTrap c k f) k).stk = g.stk.take 8 := by
  have hE := wordEnd_fetched (starts_fetched h) (wordEnd_finish d k g 0 [] [] ((coreOf c k).pc + 2))
  rw [xTrap_enters h hi]
  generalize finish d k g 0 [] [] ((coreOf c k).pc + 2) = u at hE
  have hpu : pendOk u k := by rwa [pendOk, wordEnd_pend hE]
  have hiu : inhOf u k = false := by rwa [inhOf, hE.csrs _ (by decide) (by decide)]
  obtain ⟨-, ⟨_, _, _, _, hcore⟩, hvec, hret, hcause, hinfo, -, -⟩ := trapEntry_trapped (swRecord (coreOf c k).pc f) hpu hiu
  refine ⟨hret, hcause, hinfo, hvec.trans (wordEnd_vectorAt hE _), ?_⟩
  exact (congrArg Core.stk hcore).trans hE.stack

/-- A TRAP while a handler runs leaves the string halted before it. -/
theorem xTrap_halts {f : BitVec 8} (h : starts c k false (.trap f) 0 d g ops) (hp : pendOk c k) (hk : k < 512) (hi : inhOf c k = true) :
    (coreOf (xTrap c k f) k).halted = true ∧ (coreOf (xTrap c k f) k).pc = (coreOf c k).pc ∧
      (courseOf (xTrap c k f) (k / 2)).dtrap = true ∧ csrVal (xTrap c k f) k 0x11 = csrVal c k 0x11 := by
  have hF := starts_fetched h
  obtain ⟨w, hw⟩ := trapStart_core d k
  obtain ⟨hcore, hcsr, hcourse, -⟩ := doubleTrap_core (c := trapStart d k) 0x0A hk
  rw [xTrap_double h hp hi]
  refine ⟨congrArg Core.halted hcore, ?_, congrArg Course.dtrap hcourse, ?_⟩
  · rw [hcore, hw]
    exact fetched_pc hF
  · rw [hcsr, csrVal_trapStart_other (fetched_pendOk hF hp) rfl, fetched_csrVal hF]

theorem trapReturn_rep (h : starts c k false .rett 0 d g ops) : (coreOf (trapReturn d k) k).rep = none := by
  obtain ⟨_, hw⟩ := trapReturn_core d k
  obtain ⟨l, hl⟩ := (starts_fetched h).core
  rw [hw, hl]
  exact starts_rep_none h

/-- RETT to a REP or REPI whose repetition was interrupted goes on with it. -/
theorem xRett_resumes {intr : Bool} {tp : Nat} {e : Chip} {w : IWord} (h : starts c k false .rett 0 d g ops) (hp : pendOk c k)
    (htp : (csrVal c k 0x12).toNat = tp) (he : (fetchWord (trapReturn d k) k tp).1 = e) (hw : (fetchWord e k (tp + 2)).2.1 = w)
    (hu : usable tp) (hrpt : bit (csrVal c k 0x13) 16 = true)
    (ho : (fetchWord (trapReturn d k) k tp).2.1.toNat / 256 = if intr then 0x1F else 0x1E) (hu' : fetchable (tp + 2) = true)
    (h1 : (fetchWord (trapReturn d k) k tp).2.2 = false) (h2 : (fetchWord e k (tp + 2)).2.2 = false)
    (hx : repeatable (decide (courseNo k = luthierCourse)) w = true) :
    inhOf (xRett c k) k = false ∧ csrVal (xRett c k) k 0x28 = csrVal c k 0x28 ∧ (coreOf (xRett c k) k).stk = g.stk.take 8 ∧
      if csrVal c k 0x28 = 0 then (coreOf (xRett c k) k).rep = none ∧ (coreOf (xRett c k) k).pc = tp + 4
      else (coreOf (xRett c k) k).rep = some ⟨intr, w, tp⟩ ∧ (coreOf (xRett c k) k).pc = tp := by
  subst he
  subst hw
  subst htp
  obtain ⟨-, hrep, hinh, -, hstk, -, -, hcount⟩ := rett_wordEnd h hp (csrVal c k 0x12).toNat
  have hpair := findsPair_finish g (trapReturn_rep h) hu hu'
    (by rw [ho]; cases intr; exacts [Or.inl rfl, Or.inr rfl]) h1 h2
  rw [xRett_go h hu, hrpt, if_pos rfl]
  obtain ⟨⟨_, hcore⟩, hcsr⟩ := resumeRep_core hpair.first hpair.second ho hu' hx hrep
  generalize finish (trapReturn d k) k g 0 [] [] (csrVal c k 0x12).toNat = u at hrep hinh hstk hcount hcore hcsr ⊢
  generalize resumeRep u k (csrVal c k 0x12).toNat = t at hcore hcsr ⊢
  refine ⟨by rw [inhOf, hcsr]; exact hinh, by rw [hcsr, hcount], (congrArg Core.stk hcore).trans hstk, ?_⟩
  rw [hcount] at hcore
  rw [hcore]
  split
  next hn => exact ⟨rfl, rfl⟩
  next hn => exact ⟨rfl, rfl⟩

/-- RETT to an unusable target traps at itself. -/
theorem xRett_trapped {tp : Nat} (h : starts c k false .rett 0 d g ops) (hp : pendOk c k) (htp : (csrVal c k 0x12).toNat = tp)
    (hu : ¬ usable tp) :
    csrVal (xRett c k) k 0x11 = causeWord (rettRecord (coreOf c k).pc tp) ∧
      csrVal (xRett c k) k 0x12 = wd ((rettRecord (coreOf c k).pc tp).retPc % 65536 / 2 * 2) ∧ csrVal (xRett c k) k 0x14 = wd tp ∧
      (coreOf (xRett c k) k).pc = vectorAt c k 0x02 := by
  subst htp
  obtain ⟨e, hF, he⟩ := xRett_traps h hu
  obtain ⟨-, -, hvec, hret, hcause, -, haddr, -⟩ := trapEntry_trapped (rettRecord (coreOf c k).pc (csrVal c k 0x12).toNat)
    (pendOk_trapReturn e k) (inhOf_trapReturn e k)
  have he' : xRett c k = trapEntry (trapReturn e k) k (rettRecord (coreOf c k).pc (csrVal c k 0x12).toNat) := he
  rw [he']
  exact ⟨hcause, hret, haddr, hvec.trans ((vectorAt_trapReturn (fetched_pendOk hF hp) _).trans (fetched_vectorAt hF _))⟩

end Words

theorem exec_trap (k : Nat) (f : BitVec 8) (s : State) : exec (.trap k f) s = onUnit (isCore k) s (fun c => xTrap c k f) := rfl

theorem exec_rett (k : Nat) (s : State) : exec (.rett k) s = onUnit (isCore k) s (fun c => xRett c k) := rfl

/-- Settles O18: TRAP by the trap entry behind it, RETT by its end and the repetition that goes on. -/
theorem trapWords : Obligations.TrapWords := by
  unfold Obligations.TrapWords
  intro s k f d g ops hk hp pc tp
  refine ⟨fun h hi => ?_, fun h hlt hi => ?_, fun h hu hrpt => ?_, ?_, fun h hu => ?_⟩
  · obtain ⟨-, -, -, hpc⟩ := starts_instr h
    obtain ⟨hret, hc0, hc16, hc8, hi0, hi17⟩ := swRecord_fields f hpc
    obtain ⟨htpc, hcause, hinfo, hvec, hstk⟩ := xTrap_done h hp hi
    refine leaves_of_onCore hk (exec_trap k f s) ?_
    rw [htpc, hcause, hinfo]
    exact ⟨hret, hc0, hc16, hc8, hi0, hi17, hvec, hstk⟩
  · exact leaves_of_onCore hk (exec_trap k f s) (xTrap_halts h hp hlt hi)
  · obtain ⟨hpc, -, hinh, hpend, hstk, hmask, hcause, -⟩ := rett_wordEnd h hp tp
    refine leaves_of_onCore hk (exec_rett k s) ?_
    rw [xRett_go h hu, hrpt, if_neg (by decide)]
    exact ⟨hpc, hinh, hpend, hstk, hmask, hcause⟩
  · intro intr h hu hrpt e w ho hu' h1 h2 hx
    have hgoes := xRett_resumes (tp := tp) (e := e) (w := w) h hp rfl rfl rfl hu hrpt ho hu' h1 h2 hx
    exact leaves_of_onCore hk (exec_rett k s) hgoes
  · obtain ⟨-, -, -, hpc⟩ := starts_instr h
    obtain ⟨hc0, hret⟩ := rettRecord_fields tp hpc
    obtain ⟨hcause, htpc, haddr, hvec⟩ := xRett_trapped h hp (rfl : _ = tp) hu
    refine leaves_of_onCore hk (exec_rett k s) ?_
    rw [hcause, htpc]
    exact ⟨hc0, hret, haddr, hvec⟩

end Sys2Proof.Machine
end

section
/-! PROOFS. Reservations (R182). -/

namespace Sys2Proof.Machine

open Sys2Proof Sys2Proof.Safety

/-- String 0 with a reservation of 64 words' age and a further LR on its way. -/
def lrBesideResv : Chip :=
  { cores := [(0, { resv := some ⟨0x20000000, 64⟩, bus := [⟨3, 0, 0x20020000, 4, 0, 0, false, false, 0⟩] })] }

theorem exec_reservationExpiry (k : Nat) (s : State) :
    exec (.reservationExpiry k) s = onUnit (isCore k) s (fun c => xReservationExpiry c k) := rfl

/-- Refutes O19: the statement's clause on the expiry of a reservation has everything else of the string unchanged. An LR on its way
loses the reservation it would make, and goes on as a load. -/
theorem not_boundaryEvents : ¬ Obligations.BoundaryEvents := by
  unfold Obligations.BoundaryEvents
  intro h
  have hpend : pendOk lrBesideResv 0 := ⟨by decide, by decide⟩
  obtain ⟨-, -, -, -, hexpiry⟩ := h { chip := lrBesideResv, pending := [] } 0 (by decide) hpend
  obtain ⟨t, ht, -, hcore, -⟩ := hexpiry ⟨0x20000000, 64⟩ (by decide) (by decide)
  have hload : (coreOf (xReservationExpiry lrBesideResv 0) 0).bus.map (fun q => q.kind) = [0] := by decide
  rw [exec_reservationExpiry, show isCore 0 = true from rfl, onUnit_true] at ht
  rw [← Host.Outcome.next.inj ht] at hcore
  exact absurd (hload.symm.trans (congrArg (fun r => r.bus.map (fun q => q.kind)) hcore)) (by decide)

end Sys2Proof.Machine
end

section
/-! PROOFS. What a fatal error leaves unchanged. -/

namespace Sys2Proof.Machine

open Sys2Proof Sys2Proof.Safety

@[simp] theorem ite_stopped {p : Prop} [Decidable p] (c d : Chip) : (if p then c else d).stopped = if p then c.stopped else d.stopped :=
  apply_ite Chip.stopped p c d

@[simp] theorem ite_fst_stopped {p : Prop} [Decidable p] {α : Type} (c d : Chip × α) :
    (if p then c else d).1.stopped = if p then c.1.stopped else d.1.stopped :=
  apply_ite (fun r => r.1.stopped) p c d

@[simp] theorem foldl_stopped {α : Type} {f : Chip → α → Chip} (hf : ∀ c a, (f c a).stopped = c.stopped) (l : List α) (c : Chip) :
    (l.foldl f c).stopped = c.stopped := by
  induction l generalizing c with
  | nil => rfl
  | cons a l ih => exact (ih (f c a)).trans (hf c a)

theorem foldl_fst_stopped {α β : Type} {f : Chip × β → α → Chip × β} (hf : ∀ a x, (f a x).1.stopped = a.1.stopped) (l : List α)
    (a : Chip × β) : (l.foldl f a).1.stopped = a.1.stopped := by
  induction l generalizing a with
  | nil => rfl
  | cons x l ih => exact (ih (f a x)).trans (hf a x)

@[simp] theorem ite_scrubs {p : Prop} [Decidable p] (c d : Chip) : (if p then c else d).scrubs = if p then c.scrubs else d.scrubs :=
  apply_ite Chip.scrubs p c d

@[simp] theorem ite_fst_scrubs {p : Prop} [Decidable p] {α : Type} (c d : Chip × α) :
    (if p then c else d).1.scrubs = if p then c.1.scrubs else d.1.scrubs :=
  apply_ite (fun r => r.1.scrubs) p c d

@[simp] theorem foldl_scrubs {α : Type} {f : Chip → α → Chip} (hf : ∀ c a, (f c a).scrubs = c.scrubs) (l : List α) (c : Chip) :
    (l.foldl f c).scrubs = c.scrubs := by
  induction l generalizing c with
  | nil => rfl
  | cons a l ih => exact (ih (f c a)).trans (hf c a)

theorem foldl_fst_scrubs {α β : Type} {f : Chip × β → α → Chip × β} (hf : ∀ a x, (f a x).1.scrubs = a.1.scrubs) (l : List α)
    (a : Chip × β) : (l.foldl f a).1.scrubs = a.1.scrubs := by
  induction l generalizing a with
  | nil => rfl
  | cons x l ih => exact (ih (f a x)).trans (hf a x)

@[simp] theorem ite_poison {p : Prop} [Decidable p] (c d : Chip) : (if p then c else d).poison = if p then c.poison else d.poison :=
  apply_ite Chip.poison p c d

@[simp] theorem ite_fst_poison {p : Prop} [Decidable p] {α : Type} (c d : Chip × α) :
    (if p then c else d).1.poison = if p then c.1.poison else d.1.poison :=
  apply_ite (fun r => r.1.poison) p c d

@[simp] theorem foldl_poison {α : Type} {f : Chip → α → Chip} (hf : ∀ c a, (f c a).poison = c.poison) (l : List α) (c : Chip) :
    (l.foldl f c).poison = c.poison := by
  induction l generalizing c with
  | nil => rfl
  | cons a l ih => exact (ih (f c a)).trans (hf c a)

theorem foldl_fst_poison {α β : Type} {f : Chip × β → α → Chip × β} (hf : ∀ a x, (f a x).1.poison = a.1.poison) (l : List α)
    (a : Chip × β) : (l.foldl f a).1.poison = a.1.poison := by
  induction l generalizing a with
  | nil => rfl
  | cons x l ih => exact (ih (f a x)).trans (hf a x)

@[simp] theorem ite_tb {p : Prop} [Decidable p] (c d : Chip) : (if p then c else d).tb = if p then c.tb else d.tb :=
  apply_ite Chip.tb p c d

@[simp] theorem ite_fst_tb {p : Prop} [Decidable p] {α : Type} (c d : Chip × α) :
    (if p then c else d).1.tb = if p then c.1.tb else d.1.tb :=
  apply_ite (fun r => r.1.tb) p c d

@[simp] theorem foldl_tb {α : Type} {f : Chip → α → Chip} (hf : ∀ c a, (f c a).tb = c.tb) (l : List α) (c : Chip) :
    (l.foldl f c).tb = c.tb := by
  induction l generalizing c with
  | nil => rfl
  | cons a l ih => exact (ih (f c a)).trans (hf c a)

theorem foldl_fst_tb {α β : Type} {f : Chip × β → α → Chip × β} (hf : ∀ a x, (f a x).1.tb = a.1.tb) (l : List α)
    (a : Chip × β) : (l.foldl f a).1.tb = a.1.tb := by
  induction l generalizing a with
  | nil => rfl
  | cons x l ih => exact (ih (f a x)).trans (hf a x)

@[simp] theorem pulse_stopped (c : Chip) (s : Nat) : (pulse c s).stopped = c.stopped := by
  simp [pulse]

@[simp] theorem pulse_scrubs (c : Chip) (s : Nat) : (pulse c s).scrubs = c.scrubs := by
  simp [pulse]

@[simp] theorem pulse_poison (c : Chip) (s : Nat) : (pulse c s).poison = c.poison := by
  simp [pulse]

@[simp] theorem noteCorrected_stopped (c : Chip) (ga : Nat) : (noteCorrected c ga).stopped = c.stopped := by
  simp -implicitDefEqProofs [noteCorrected]

@[simp] theorem noteCorrected_scrubs (c : Chip) (ga : Nat) : (noteCorrected c ga).scrubs = c.scrubs := by
  simp -implicitDefEqProofs [noteCorrected]

@[simp] theorem noteCorrected_poison (c : Chip) (ga : Nat) : (noteCorrected c ga).poison = c.poison := by
  simp -implicitDefEqProofs [noteCorrected]

@[simp] theorem noteCorrected_dev (c : Chip) (ga : Nat) : (noteCorrected c ga).dev = c.dev := by
  simp -implicitDefEqProofs [noteCorrected]

@[simp] theorem noteCorrected_tb (c : Chip) (ga : Nat) : (noteCorrected c ga).tb = c.tb := by
  simp -implicitDefEqProofs [noteCorrected]

@[simp] theorem noteUncorrectable_stopped (c : Chip) (ga src core : Nat) : (noteUncorrectable c ga src core).stopped = c.stopped := by
  simp [noteUncorrectable]

@[simp] theorem noteUncorrectable_scrubs (c : Chip) (ga src core : Nat) : (noteUncorrectable c ga src core).scrubs = c.scrubs := by
  simp [noteUncorrectable]

@[simp] theorem noteUncorrectable_poison (c : Chip) (ga src core : Nat) : (noteUncorrectable c ga src core).poison = c.poison := by
  simp [noteUncorrectable]

@[simp] theorem noteUncorrectable_dev (c : Chip) (ga src core : Nat) : (noteUncorrectable c ga src core).dev = c.dev := by
  simp [noteUncorrectable]

@[simp] theorem noteUncorrectable_tb (c : Chip) (ga src core : Nat) : (noteUncorrectable c ga src core).tb = c.tb := by
  simp [noteUncorrectable]

@[simp] theorem readWord_stopped (c : Chip) (ga src core : Nat) : (readWord c ga src core).1.stopped = c.stopped := by
  simp [readWord]

@[simp] theorem readWord_scrubs (c : Chip) (ga src core : Nat) : (readWord c ga src core).1.scrubs = c.scrubs := by
  simp [readWord]

@[simp] theorem readWord_poison (c : Chip) (ga src core : Nat) : (readWord c ga src core).1.poison = c.poison := by
  simp [readWord]

@[simp] theorem readWord_dev (c : Chip) (ga src core : Nat) : (readWord c ga src core).1.dev = c.dev := by
  simp [readWord]

@[simp] theorem readWord_tb (c : Chip) (ga src core : Nat) : (readWord c ga src core).1.tb = c.tb := by
  simp [readWord]

@[simp] theorem touchGranule_scrubs (c : Chip) (ga : Nat) (by_ : Option Nat) : (touchGranule c ga by_).scrubs = c.scrubs := by
  simp [touchGranule]

@[simp] theorem writeWord_scrubs (c : Chip) (ga : Nat) (w : Word) (poison : Bool) (by_ : Option Nat) : (writeWord c ga w poison by_).scrubs = c.scrubs := by
  obtain ⟨_, _, _, _, _, h⟩ := writeWord_only c ga w poison by_
  rw [h]

@[simp] theorem withdraw_stopped (c : Chip) (s : Nat) : (withdraw c s).stopped = c.stopped := by
  simp [withdraw]

@[simp] theorem withdraw_scrubs (c : Chip) (s : Nat) : (withdraw c s).scrubs = c.scrubs := by
  simp [withdraw]

@[simp] theorem withdraw_poison (c : Chip) (s : Nat) : (withdraw c s).poison = c.poison := by
  simp [withdraw]

@[simp] theorem withdraw_dev (c : Chip) (s : Nat) : (withdraw c s).dev = c.dev := by
  simp [withdraw]

@[simp] theorem withdrawAll_stopped (c : Chip) (e : Nat) : (withdrawAll c e).stopped = c.stopped := by
  simp [withdrawAll]

@[simp] theorem withdrawAll_scrubs (c : Chip) (e : Nat) : (withdrawAll c e).scrubs = c.scrubs := by
  simp [withdrawAll]

@[simp] theorem withdrawAll_poison (c : Chip) (e : Nat) : (withdrawAll c e).poison = c.poison := by
  simp [withdrawAll]

@[simp] theorem withdrawAll_dev (c : Chip) (e : Nat) : (withdrawAll c e).dev = c.dev := by
  simp [withdrawAll]

@[simp] theorem withdrawWait_stopped (c : Chip) (k : Nat) : (withdrawWait c k).stopped = c.stopped := by
  unfold withdrawWait
  split <;> simp

@[simp] theorem withdrawWait_scrubs (c : Chip) (k : Nat) : (withdrawWait c k).scrubs = c.scrubs := by
  unfold withdrawWait
  split <;> simp

@[simp] theorem withdrawWait_poison (c : Chip) (k : Nat) : (withdrawWait c k).poison = c.poison := by
  unfold withdrawWait
  split <;> simp

@[simp] theorem withdrawWait_dev (c : Chip) (k : Nat) : (withdrawWait c k).dev = c.dev := by
  unfold withdrawWait
  split <;> simp

@[simp] theorem dropResv_stopped (c : Chip) (k : Nat) : (dropResv c k).stopped = c.stopped := by
  simp [dropResv]

@[simp] theorem dropResv_scrubs (c : Chip) (k : Nat) : (dropResv c k).scrubs = c.scrubs := by
  simp [dropResv]

@[simp] theorem dropResv_poison (c : Chip) (k : Nat) : (dropResv c k).poison = c.poison := by
  simp [dropResv]

@[simp] theorem dropResv_dev (c : Chip) (k : Nat) : (dropResv c k).dev = c.dev := by
  simp [dropResv]

@[simp] theorem haltCore_stopped (c : Chip) (k : Nat) : (haltCore c k).stopped = c.stopped := by
  simp [haltCore]

@[simp] theorem haltCore_scrubs (c : Chip) (k : Nat) : (haltCore c k).scrubs = c.scrubs := by
  simp [haltCore]

@[simp] theorem haltCore_poison (c : Chip) (k : Nat) : (haltCore c k).poison = c.poison := by
  simp [haltCore]

@[simp] theorem haltCore_dev (c : Chip) (k : Nat) : (haltCore c k).dev = c.dev := by
  simp [haltCore]

@[simp] theorem chPopRaw_stopped (c : Chip) (s : Nat) : (chPopRaw c s).1.stopped = c.stopped := by
  unfold chPopRaw
  dsimp only
  (repeat' split) <;> simp

@[simp] theorem chPopRaw_scrubs (c : Chip) (s : Nat) : (chPopRaw c s).1.scrubs = c.scrubs := by
  unfold chPopRaw
  dsimp only
  (repeat' split) <;> simp

@[simp] theorem chPopRaw_poison (c : Chip) (s : Nat) : (chPopRaw c s).1.poison = c.poison := by
  unfold chPopRaw
  dsimp only
  (repeat' split) <;> simp

@[simp] theorem chPopRaw_dev (c : Chip) (s : Nat) : (chPopRaw c s).1.dev = c.dev := by
  unfold chPopRaw
  dsimp only
  (repeat' split) <;> simp

@[simp] theorem chTake_stopped (c : Chip) (s : Nat) : (chTake c s).1.stopped = c.stopped := by
  simp [chTake]

@[simp] theorem chTake_scrubs (c : Chip) (s : Nat) : (chTake c s).1.scrubs = c.scrubs := by
  simp [chTake]

@[simp] theorem chTake_poison (c : Chip) (s : Nat) : (chTake c s).1.poison = c.poison := by
  simp [chTake]

@[simp] theorem chTake_dev (c : Chip) (s : Nat) : (chTake c s).1.dev = c.dev := by
  simp [chTake]

@[simp] theorem chTakeN_stopped (c : Chip) (s n : Nat) : (chTakeN c s n).1.stopped = c.stopped := by
  induction n generalizing c with
  | zero => rfl
  | succ n ih => exact (ih _).trans (chTake_stopped c s)

@[simp] theorem chTakeN_scrubs (c : Chip) (s n : Nat) : (chTakeN c s n).1.scrubs = c.scrubs := by
  induction n generalizing c with
  | zero => rfl
  | succ n ih => exact (ih _).trans (chTake_scrubs c s)

@[simp] theorem chTakeN_poison (c : Chip) (s n : Nat) : (chTakeN c s n).1.poison = c.poison := by
  induction n generalizing c with
  | zero => rfl
  | succ n ih => exact (ih _).trans (chTake_poison c s)

@[simp] theorem chTakeN_dev (c : Chip) (s n : Nat) : (chTakeN c s n).1.dev = c.dev := by
  induction n generalizing c with
  | zero => rfl
  | succ n ih => exact (ih _).trans (chTake_dev c s)

@[simp] theorem updStream_stopped (c : Chip) (p k : Nat) (f : Stream → Stream) : (updStream c p k f).stopped = c.stopped := by
  simp [updStream]

@[simp] theorem updStream_scrubs (c : Chip) (p k : Nat) (f : Stream → Stream) : (updStream c p k f).scrubs = c.scrubs := by
  simp [updStream]

@[simp] theorem updStream_poison (c : Chip) (p k : Nat) (f : Stream → Stream) : (updStream c p k f).poison = c.poison := by
  simp [updStream]

@[simp] theorem updStream_dev (c : Chip) (p k : Nat) (f : Stream → Stream) : (updStream c p k f).dev = c.dev := by
  simp [updStream]

@[simp] theorem noteDone_stopped (c : Chip) (lane job : Nat) : (noteDone c lane job).stopped = c.stopped := by
  simp [noteDone]

@[simp] theorem noteDone_scrubs (c : Chip) (lane job : Nat) : (noteDone c lane job).scrubs = c.scrubs := by
  simp [noteDone]

@[simp] theorem noteDone_poison (c : Chip) (lane job : Nat) : (noteDone c lane job).poison = c.poison := by
  simp [noteDone]

@[simp] theorem noteDone_dev (c : Chip) (lane job : Nat) : (noteDone c lane job).dev = c.dev := by
  simp [noteDone]

@[simp] theorem popWords_stopped (c : Chip) (s n : Nat) : (popWords c s n).1.stopped = c.stopped := by
  induction n generalizing c with
  | zero => rfl
  | succ n ih => exact (ih _).trans (chPopRaw_stopped c s)

@[simp] theorem popWords_scrubs (c : Chip) (s n : Nat) : (popWords c s n).1.scrubs = c.scrubs := by
  induction n generalizing c with
  | zero => rfl
  | succ n ih => exact (ih _).trans (chPopRaw_scrubs c s)

@[simp] theorem popWords_poison (c : Chip) (s n : Nat) : (popWords c s n).1.poison = c.poison := by
  induction n generalizing c with
  | zero => rfl
  | succ n ih => exact (ih _).trans (chPopRaw_poison c s)

@[simp] theorem popWords_dev (c : Chip) (s n : Nat) : (popWords c s n).1.dev = c.dev := by
  induction n generalizing c with
  | zero => rfl
  | succ n ih => exact (ih _).trans (chPopRaw_dev c s)

@[simp] theorem takeGap_stopped (c : Chip) (s : Nat) : (takeGap c s).1.stopped = c.stopped := by
  simp [takeGap]

@[simp] theorem takeGap_scrubs (c : Chip) (s : Nat) : (takeGap c s).1.scrubs = c.scrubs := by
  simp [takeGap]

@[simp] theorem takeGap_poison (c : Chip) (s : Nat) : (takeGap c s).1.poison = c.poison := by
  simp [takeGap]

@[simp] theorem takeGap_dev (c : Chip) (s : Nat) : (takeGap c s).1.dev = c.dev := by
  simp [takeGap]

@[simp] theorem releaseFrame_stopped (c : Chip) (p k s : Nat) : (releaseFrame c p k s).stopped = c.stopped := by
  unfold releaseFrame
  split <;> simp

@[simp] theorem releaseFrame_scrubs (c : Chip) (p k s : Nat) : (releaseFrame c p k s).scrubs = c.scrubs := by
  unfold releaseFrame
  split <;> simp

@[simp] theorem releaseFrame_poison (c : Chip) (p k s : Nat) : (releaseFrame c p k s).poison = c.poison := by
  unfold releaseFrame
  split <;> simp

@[simp] theorem releaseFrame_dev (c : Chip) (p k s : Nat) : (releaseFrame c p k s).dev = c.dev := by
  unfold releaseFrame
  split <;> simp

@[simp] theorem takeBank_stopped (c : Chip) (p k s : Nat) : (takeBank c p k s).stopped = c.stopped := by
  unfold takeBank
  split <;> simp

@[simp] theorem takeBank_scrubs (c : Chip) (p k s : Nat) : (takeBank c p k s).scrubs = c.scrubs := by
  unfold takeBank
  split <;> simp

@[simp] theorem takeBank_poison (c : Chip) (p k s : Nat) : (takeBank c p k s).poison = c.poison := by
  unfold takeBank
  split <;> simp

@[simp] theorem takeBank_dev (c : Chip) (p k s : Nat) : (takeBank c p k s).dev = c.dev := by
  unfold takeBank
  split <;> simp

@[simp] theorem takeBanks_stopped (c : Chip) (p k s n : Nat) : (takeBanks c p k s n).stopped = c.stopped := by
  induction n generalizing c with
  | zero => rfl
  | succ n ih =>
    rw [takeBanks]
    split
    · rfl
    · split
      · rfl
      · exact (ih _).trans (takeBank_stopped c p k s)

@[simp] theorem takeBanks_scrubs (c : Chip) (p k s n : Nat) : (takeBanks c p k s n).scrubs = c.scrubs := by
  induction n generalizing c with
  | zero => rfl
  | succ n ih =>
    rw [takeBanks]
    split
    · rfl
    · split
      · rfl
      · exact (ih _).trans (takeBank_scrubs c p k s)

@[simp] theorem takeBanks_poison (c : Chip) (p k s n : Nat) : (takeBanks c p k s n).poison = c.poison := by
  induction n generalizing c with
  | zero => rfl
  | succ n ih =>
    rw [takeBanks]
    split
    · rfl
    · split
      · rfl
      · exact (ih _).trans (takeBank_poison c p k s)

@[simp] theorem takeBanks_dev (c : Chip) (p k s n : Nat) : (takeBanks c p k s n).dev = c.dev := by
  induction n generalizing c with
  | zero => rfl
  | succ n ih =>
    rw [takeBanks]
    split
    · rfl
    · split
      · rfl
      · exact (ih _).trans (takeBank_dev c p k s)

@[simp] theorem closeBank_stopped (c : Chip) (p s : Nat) (slot : Option Nat) (lane job : Nat) :
    (closeBank c p s slot lane job).1.stopped = c.stopped := by
  unfold closeBank
  split <;> simp

@[simp] theorem closeBank_scrubs (c : Chip) (p s : Nat) (slot : Option Nat) (lane job : Nat) :
    (closeBank c p s slot lane job).1.scrubs = c.scrubs := by
  unfold closeBank
  split <;> simp

@[simp] theorem closeBank_poison (c : Chip) (p s : Nat) (slot : Option Nat) (lane job : Nat) :
    (closeBank c p s slot lane job).1.poison = c.poison := by
  unfold closeBank
  split <;> simp

@[simp] theorem closeBank_dev (c : Chip) (p s : Nat) (slot : Option Nat) (lane job : Nat) :
    (closeBank c p s slot lane job).1.dev = c.dev := by
  unfold closeBank
  split <;> simp

@[simp] theorem hostWrite_stopped (c : Chip) (a : Nat) (l : List QWord) (n : Nat) : (hostWrite c a l n).stopped = c.stopped := by
  induction n generalizing c a l with
  | zero => rfl
  | succ n ih =>
    rw [hostWrite]
    split
    · rfl
    · rw [ih]
      simp

@[simp] theorem hostWrite_scrubs (c : Chip) (a : Nat) (l : List QWord) (n : Nat) : (hostWrite c a l n).scrubs = c.scrubs := by
  induction n generalizing c a l with
  | zero => rfl
  | succ n ih =>
    rw [hostWrite]
    split
    · rfl
    · rw [ih]
      simp

@[simp] theorem hostWrite_poison (c : Chip) (a : Nat) (l : List QWord) (n : Nat) : (hostWrite c a l n).poison = c.poison := by
  induction n generalizing c a l with
  | zero => rfl
  | succ n ih =>
    rw [hostWrite]
    split
    · rfl
    · rw [ih]
      simp

@[simp] theorem hostWriteBytes_stopped (c : Chip) (a : Nat) (b : List Byte) : (hostWriteBytes c a b).stopped = c.stopped := by
  simp [hostWriteBytes]

@[simp] theorem hostWriteBytes_scrubs (c : Chip) (a : Nat) (b : List Byte) : (hostWriteBytes c a b).scrubs = c.scrubs := by
  simp [hostWriteBytes]

@[simp] theorem hostWriteBytes_poison (c : Chip) (a : Nat) (b : List Byte) : (hostWriteBytes c a b).poison = c.poison := by
  simp [hostWriteBytes]

@[simp] theorem sendDatagram_stopped (c : Chip) (r : ReplyTo) (pkt : List Byte) : (sendDatagram c r pkt).stopped = c.stopped := by
  simp [sendDatagram]

@[simp] theorem sendDatagram_scrubs (c : Chip) (r : ReplyTo) (pkt : List Byte) : (sendDatagram c r pkt).scrubs = c.scrubs := by
  simp [sendDatagram]

@[simp] theorem sendDatagram_poison (c : Chip) (r : ReplyTo) (pkt : List Byte) : (sendDatagram c r pkt).poison = c.poison := by
  simp [sendDatagram]

@[simp] theorem keepReply_stopped (c : Chip) (r : ReplyTo) (comp : Bool) (pkt : List Byte) : (keepReply c r comp pkt).stopped = c.stopped := by
  simp [keepReply]

@[simp] theorem keepReply_scrubs (c : Chip) (r : ReplyTo) (comp : Bool) (pkt : List Byte) : (keepReply c r comp pkt).scrubs = c.scrubs := by
  simp [keepReply]

@[simp] theorem keepReply_poison (c : Chip) (r : ReplyTo) (comp : Bool) (pkt : List Byte) : (keepReply c r comp pkt).poison = c.poison := by
  simp [keepReply]

@[simp] theorem post_stopped (c : Chip) (r : ReplyTo) (comp : Bool) (status : Nat) (detail : Word) (payload : List Byte)
    (handle : Nat) (keep : Bool) : (post c r comp status detail payload handle keep).stopped = c.stopped := by
  simp [post]

@[simp] theorem post_scrubs (c : Chip) (r : ReplyTo) (comp : Bool) (status : Nat) (detail : Word) (payload : List Byte)
    (handle : Nat) (keep : Bool) : (post c r comp status detail payload handle keep).scrubs = c.scrubs := by
  simp [post]

@[simp] theorem post_poison (c : Chip) (r : ReplyTo) (comp : Bool) (status : Nat) (detail : Word) (payload : List Byte)
    (handle : Nat) (keep : Bool) : (post c r comp status detail payload handle keep).poison = c.poison := by
  simp [post]

@[simp] theorem complete_stopped (c : Chip) (r : ReplyTo) (status : Nat) (detail : Word) : (complete c r status detail).stopped = c.stopped := by
  simp [complete]

@[simp] theorem complete_scrubs (c : Chip) (r : ReplyTo) (status : Nat) (detail : Word) : (complete c r status detail).scrubs = c.scrubs := by
  simp [complete]

@[simp] theorem complete_poison (c : Chip) (r : ReplyTo) (status : Nat) (detail : Word) : (complete c r status detail).poison = c.poison := by
  simp [complete]

@[simp] theorem setDev_stopped (c : Chip) (new : DevState) (cause : Nat) : (setDev c new cause).stopped = c.stopped := by
  unfold setDev
  dsimp only
  (repeat' split) <;> simp

@[simp] theorem setDev_scrubs (c : Chip) (new : DevState) (cause : Nat) : (setDev c new cause).scrubs = c.scrubs := by
  unfold setDev
  dsimp only
  (repeat' split) <;> simp

@[simp] theorem setDev_poison (c : Chip) (new : DevState) (cause : Nat) : (setDev c new cause).poison = c.poison := by
  unfold setDev
  dsimp only
  (repeat' split) <;> simp

@[simp] theorem setBank_stopped (c : Chip) (b n : Nat) : (setBank c b n).stopped = c.stopped := by
  simp [setBank]

@[simp] theorem setBank_scrubs (c : Chip) (b n : Nat) : (setBank c b n).scrubs = c.scrubs := by
  simp [setBank]

@[simp] theorem setBank_poison (c : Chip) (b n : Nat) : (setBank c b n).poison = c.poison := by
  simp [setBank]

@[simp] theorem setBank_dev (c : Chip) (b n : Nat) : (setBank c b n).dev = c.dev := by
  simp [setBank]

@[simp] theorem dropShadows_stopped (c : Chip) (mask : Nat) : (dropShadows c mask).stopped = c.stopped := by
  unfold dropShadows
  apply foldl_stopped
  intro d a
  rfl

@[simp] theorem dropShadows_scrubs (c : Chip) (mask : Nat) : (dropShadows c mask).scrubs = c.scrubs := by
  unfold dropShadows
  apply foldl_scrubs
  intro d a
  rfl

@[simp] theorem dropShadows_poison (c : Chip) (mask : Nat) : (dropShadows c mask).poison = c.poison := by
  unfold dropShadows
  apply foldl_poison
  intro d a
  rfl

@[simp] theorem dropShadows_dev (c : Chip) (mask : Nat) : (dropShadows c mask).dev = c.dev := by
  unfold dropShadows
  apply foldl_dev
  intro d a
  rfl

@[simp] theorem endArm_stopped (c : Chip) (detail : Nat) : (endArm c detail).stopped = c.stopped := by
  unfold endArm
  split <;> simp

@[simp] theorem endArm_scrubs (c : Chip) (detail : Nat) : (endArm c detail).scrubs = c.scrubs := by
  unfold endArm
  split <;> simp

@[simp] theorem endArm_poison (c : Chip) (detail : Nat) : (endArm c detail).poison = c.poison := by
  unfold endArm
  split <;> simp

@[simp] theorem endArm_dev (c : Chip) (detail : Nat) : (endArm c detail).dev = c.dev := by
  unfold endArm
  split <;> simp

@[simp] theorem drainStart_stopped (c : Chip) (d : Detach) : (drainStart c d).stopped = c.stopped := by
  simp [drainStart]

@[simp] theorem drainStart_scrubs (c : Chip) (d : Detach) : (drainStart c d).scrubs = c.scrubs := by
  simp [drainStart]

@[simp] theorem drainStart_poison (c : Chip) (d : Detach) : (drainStart c d).poison = c.poison := by
  simp [drainStart]

@[simp] theorem drainStart_dev (c : Chip) (d : Detach) : (drainStart c d).dev = c.dev := by
  simp [drainStart]

@[simp] theorem tabStop_stopped (c : Chip) : (tabStop c).stopped = c.stopped := by
  unfold tabStop
  dsimp only
  split <;> simp

@[simp] theorem tabStop_scrubs (c : Chip) : (tabStop c).scrubs = c.scrubs := by
  unfold tabStop
  dsimp only
  split <;> simp

@[simp] theorem tabStop_poison (c : Chip) : (tabStop c).poison = c.poison := by
  unfold tabStop
  dsimp only
  split <;> simp

@[simp] theorem tabStop_dev (c : Chip) : (tabStop c).dev = c.dev := by
  unfold tabStop
  dsimp only
  split <;> simp

@[simp] theorem linkDown_stopped (c : Chip) (p : Nat) : (linkDown c p).stopped = c.stopped := by
  simp [linkDown]

@[simp] theorem linkDown_scrubs (c : Chip) (p : Nat) : (linkDown c p).scrubs = c.scrubs := by
  simp [linkDown]

@[simp] theorem linkDown_poison (c : Chip) (p : Nat) : (linkDown c p).poison = c.poison := by
  simp [linkDown]

@[simp] theorem linkDown_dev (c : Chip) (p : Nat) : (linkDown c p).dev = c.dev := by
  simp [linkDown]

@[simp] theorem drivesOff_stopped (c : Chip) (p : Nat) : (drivesOff c p).stopped = c.stopped := by
  simp [drivesOff]

@[simp] theorem drivesOff_scrubs (c : Chip) (p : Nat) : (drivesOff c p).scrubs = c.scrubs := by
  simp [drivesOff]

@[simp] theorem drivesOff_poison (c : Chip) (p : Nat) : (drivesOff c p).poison = c.poison := by
  simp [drivesOff]

@[simp] theorem drivesOff_dev (c : Chip) (p : Nat) : (drivesOff c p).dev = c.dev := by
  simp [drivesOff]

@[simp] theorem dropDrive_stopped (c : Chip) (p : Nat) : (dropDrive c p).stopped = c.stopped := by
  simp [dropDrive]

@[simp] theorem dropDrive_scrubs (c : Chip) (p : Nat) : (dropDrive c p).scrubs = c.scrubs := by
  simp [dropDrive]

@[simp] theorem dropDrive_poison (c : Chip) (p : Nat) : (dropDrive c p).poison = c.poison := by
  simp [dropDrive]

@[simp] theorem dropDrive_dev (c : Chip) (p : Nat) : (dropDrive c p).dev = c.dev := by
  simp [dropDrive]

@[simp] theorem dropAllDrives_stopped (c : Chip) : (dropAllDrives c).stopped = c.stopped := by
  simp [dropAllDrives]

@[simp] theorem dropAllDrives_scrubs (c : Chip) : (dropAllDrives c).scrubs = c.scrubs := by
  simp [dropAllDrives]

@[simp] theorem dropAllDrives_poison (c : Chip) : (dropAllDrives c).poison = c.poison := by
  simp [dropAllDrives]

@[simp] theorem dropAllDrives_dev (c : Chip) : (dropAllDrives c).dev = c.dev := by
  simp [dropAllDrives]

@[simp] theorem returnPlace_stopped (c : Chip) (p : Pair) : (returnPlace c p).stopped = c.stopped := by
  unfold returnPlace
  (repeat' split) <;> simp

@[simp] theorem returnPlace_scrubs (c : Chip) (p : Pair) : (returnPlace c p).scrubs = c.scrubs := by
  unfold returnPlace
  (repeat' split) <;> simp

@[simp] theorem returnPlace_poison (c : Chip) (p : Pair) : (returnPlace c p).poison = c.poison := by
  unfold returnPlace
  (repeat' split) <;> simp

@[simp] theorem returnPlace_dev (c : Chip) (p : Pair) : (returnPlace c p).dev = c.dev := by
  unfold returnPlace
  (repeat' split) <;> simp

@[simp] theorem discardPairs_stopped (c : Chip) (n : Nat) : (discardPairs c n).stopped = c.stopped := by
  simp [discardPairs]

@[simp] theorem discardPairs_scrubs (c : Chip) (n : Nat) : (discardPairs c n).scrubs = c.scrubs := by
  simp [discardPairs]

@[simp] theorem discardPairs_poison (c : Chip) (n : Nat) : (discardPairs c n).poison = c.poison := by
  simp [discardPairs]

@[simp] theorem discardPairs_dev (c : Chip) (n : Nat) : (discardPairs c n).dev = c.dev := by
  simp [discardPairs]

@[simp] theorem stopCourse_stopped (c : Chip) (n : Nat) : (stopCourse c n).stopped = c.stopped := by
  simp [stopCourse]

@[simp] theorem stopCourse_scrubs (c : Chip) (n : Nat) : (stopCourse c n).scrubs = c.scrubs := by
  simp [stopCourse]

@[simp] theorem stopCourse_poison (c : Chip) (n : Nat) : (stopCourse c n).poison = c.poison := by
  simp [stopCourse]

@[simp] theorem stopCourse_dev (c : Chip) (n : Nat) : (stopCourse c n).dev = c.dev := by
  simp [stopCourse]

@[simp] theorem fatalHalt_stopped (c : Chip) (n : Nat) : (fatalHalt c n).stopped = c.stopped := by
  simp [fatalHalt]

@[simp] theorem fatalHalt_scrubs (c : Chip) (n : Nat) : (fatalHalt c n).scrubs = c.scrubs := by
  simp [fatalHalt]

@[simp] theorem fatalHalt_poison (c : Chip) (n : Nat) : (fatalHalt c n).poison = c.poison := by
  simp [fatalHalt]

@[simp] theorem fatalHalt_dev (c : Chip) (n : Nat) : (fatalHalt c n).dev = c.dev := by
  simp [fatalHalt]

@[simp] theorem fatalStop_stopped (c : Chip) : (fatalStop c).stopped = c.stopped := by
  simp [fatalStop]

@[simp] theorem fatalStop_scrubs (c : Chip) : (fatalStop c).scrubs = c.scrubs := by
  simp [fatalStop]

@[simp] theorem fatalStop_poison (c : Chip) : (fatalStop c).poison = c.poison := by
  simp [fatalStop]

@[simp] theorem fatalStop_dev (c : Chip) : (fatalStop c).dev = c.dev := by
  simp [fatalStop]

@[simp] theorem failAccepted_stopped (c : Chip) : (failAccepted c).stopped = c.stopped := by
  simp [failAccepted]

@[simp] theorem failAccepted_scrubs (c : Chip) : (failAccepted c).scrubs = c.scrubs := by
  simp [failAccepted]

@[simp] theorem failAccepted_poison (c : Chip) : (failAccepted c).poison = c.poison := by
  simp [failAccepted]

@[simp] theorem failAccepted_dev (c : Chip) : (failAccepted c).dev = c.dev := by
  simp [failAccepted]

@[simp] theorem fatalRecord_stopped (c : Chip) (cause : Nat) (detail : Word) : (fatalRecord c cause detail).stopped = c.stopped := by
  simp [fatalRecord]

@[simp] theorem fatalRecord_scrubs (c : Chip) (cause : Nat) (detail : Word) : (fatalRecord c cause detail).scrubs = c.scrubs := by
  simp [fatalRecord]

@[simp] theorem fatalRecord_poison (c : Chip) (cause : Nat) (detail : Word) : (fatalRecord c cause detail).poison = c.poison := by
  simp [fatalRecord]

@[simp] theorem fatalRecord_dev (c : Chip) (cause : Nat) (detail : Word) : (fatalRecord c cause detail).dev = c.dev := by
  simp [fatalRecord]

@[simp] theorem fatal_stopped (c : Chip) (cause : Nat) (detail : Word) : (fatal c cause detail).stopped = c.stopped := by
  simp -implicitDefEqProofs [fatal]

@[simp] theorem fatal_scrubs (c : Chip) (cause : Nat) (detail : Word) : (fatal c cause detail).scrubs = c.scrubs := by
  simp -implicitDefEqProofs [fatal]

@[simp] theorem fatal_poison (c : Chip) (cause : Nat) (detail : Word) : (fatal c cause detail).poison = c.poison := by
  simp -implicitDefEqProofs [fatal]

@[simp] theorem wake_stopped (c : Chip) (src slot : Nat) : (wake c src slot).stopped = c.stopped := by
  simp [wake]

@[simp] theorem wake_scrubs (c : Chip) (src slot : Nat) : (wake c src slot).scrubs = c.scrubs := by
  simp [wake]

@[simp] theorem wake_poison (c : Chip) (src slot : Nat) : (wake c src slot).poison = c.poison := by
  simp [wake]

end Sys2Proof.Machine
end

section
/-! PROOFS. What a word written into a memory leaves there (R258, R259, R286). -/

namespace Sys2Proof.Machine

open Sys2Proof Sys2Proof.Safety

theorem byteAt_putLe_outside {a b : Nat} (c : Chip) (n v : Nat) (h : ¬ (a ≤ b ∧ b < a + n)) :
    byteAt (putLe c a n v) b = byteAt c b := by
  induction n generalizing c a v with
  | zero => rfl
  | succ n ih =>
    have hne : b ≠ a := fun hba => h (by omega)
    rw [putLe, ih _ _ (fun hin => h (by omega))]
    exact byteAt_putByte_other c _ hne

theorem leNat_putLe (c : Chip) (a n v : Nat) : leNat (putLe c a n v) a n = v % 256 ^ n := by
  induction n generalizing c a v with
  | zero => simp [leNat, Nat.mod_one]
  | succ n ih =>
    have hbyte : byteAt (putLe (putByte c a (BitVec.ofNat 8 v)) (a + 1) n (v / 256)) a = BitVec.ofNat 8 v := by
      rw [byteAt_putLe_outside _ _ _ (by omega), byteAt_putByte_same]
    rw [putLe, leNat, ih, hbyte, Nat.pow_succ', Nat.mod_mul]
    simp

/-- A word written is the word read back. -/
@[simp] theorem wordAt_putWord (c : Chip) (a : Nat) (w : Word) : wordAt (putWord c a w) a = w := by
  rw [wordAt, putWord, leNat_putLe, wd]
  exact BitVec.eq_of_toNat_eq (by simpa using Nat.mod_eq_of_lt w.isLt)

theorem byteAt_putWord_outside {a b : Nat} (c : Chip) (w : Word) (h : ¬ (a ≤ b ∧ b < a + 4)) :
    byteAt (putWord c a w) b = byteAt c b :=
  byteAt_putLe_outside c 4 _ h

theorem injHits_of_regs {c d : Chip} (h : ∀ a, regVal d a = regVal c a) (ga : Nat) : injHits d ga = injHits c ga := by
  rw [injHits, injHits, h]

theorem putLe_mem_of_mem {c d : Chip} (h : d.mem = c.mem) (a n v : Nat) : (putLe d a n v).mem = (putLe c a n v).mem := by
  induction n generalizing c d a v with
  | zero => exact h
  | succ n ih =>
    refine ih ?_ _ _
    rw [putByte, putByte, h]

/-- A word written where no injection waits: its bytes stand there, and its marks are those of the write. -/
theorem writeWord_clean {c : Chip} {ga : Nat} (w : Word) (poison : Bool) (by_ : Option Nat)
    (hit : injHits c (ga / 4 * 4) = false) :
    (writeWord c ga w poison by_).mem = (putWord c (ga / 4 * 4) w).mem ∧
      (writeWord c ga w poison by_).sbe = c.sbe.filter (· ≠ ga / 4 * 4) ∧
      (writeWord c ga w poison by_).poison =
        if poison then ga / 4 * 4 :: c.poison.filter (· ≠ ga / 4 * 4) else c.poison.filter (· ≠ ga / 4 * 4) := by
  unfold writeWord
  extract_lets ga' c1 k c2 inj hit' c3 w1 c4 c5
  have hh : hit' = false := (injHits_of_regs (c := c) (d := c2) (fun _ => rfl) ga').trans hit
  have h3 : c3 = c2 := if_neg (by simp [hh])
  have h1 : w1 = w := if_neg (by simp [hh])
  have hmem : c4.mem = (putWord c ga' w).mem := by
    rw [show c4 = putWord c3 ga' w1 from rfl, h3, h1]
    exact putLe_mem_of_mem rfl _ _ _
  have hsbe : c4.sbe = c.sbe.filter (· ≠ ga') := by
    obtain ⟨m, hm⟩ := putWord_only c3 ga' w1
    rw [show c4 = putWord c3 ga' w1 from rfl, hm, h3]
    rfl
  have hpois : c4.poison = c.poison.filter (· ≠ ga') := by
    obtain ⟨m, hm⟩ := putWord_only c3 ga' w1
    rw [show c4 = putWord c3 ga' w1 from rfl, hm, h3]
    rfl
  rw [hh]
  cases poison with
  | false => exact ⟨hmem, hsbe, hpois⟩
  | true =>
    by_cases hk : k < 32
    · rw [if_pos rfl, if_pos hk]
      exact ⟨hmem, hsbe, congrArg (ga' :: ·) hpois⟩
    · rw [if_pos rfl, if_neg hk]
      exact ⟨hmem, hsbe, congrArg (ga' :: ·) hpois⟩

end Sys2Proof.Machine
end

section
/-! PROOFS. What ends of strings and arming leave unchanged. -/

namespace Sys2Proof.Machine

open Sys2Proof Sys2Proof.Safety

@[simp] theorem withdrawWait_sys (c : Chip) (k : Nat) : (withdrawWait c k).sys = c.sys := by
  unfold withdrawWait
  split <;> simp

@[simp] theorem withdrawWait_regs (c : Chip) (k : Nat) : (withdrawWait c k).regs = c.regs := by
  unfold withdrawWait
  split <;> simp

@[simp] theorem dropResv_sys (c : Chip) (k : Nat) : (dropResv c k).sys = c.sys := by
  simp [dropResv]

@[simp] theorem dropResv_regs (c : Chip) (k : Nat) : (dropResv c k).regs = c.regs := by
  simp [dropResv]

@[simp] theorem setBank_sys (c : Chip) (b n : Nat) : (setBank c b n).sys = c.sys := by
  simp [setBank]

@[simp] theorem setBank_regs (c : Chip) (b n : Nat) : (setBank c b n).regs = c.regs := by
  simp [setBank]

@[simp] theorem dropShadows_sys (c : Chip) (mask : Nat) : (dropShadows c mask).sys = c.sys := by
  unfold dropShadows
  apply foldl_sys
  intro d a
  rfl

@[simp] theorem dropShadows_regs (c : Chip) (mask : Nat) : (dropShadows c mask).regs = c.regs := by
  unfold dropShadows
  apply foldl_regs
  intro d a
  rfl

@[simp] theorem endArm_sys (c : Chip) (detail : Nat) : (endArm c detail).sys = c.sys := by
  unfold endArm
  split <;> simp

@[simp] theorem returnPlace_sys (c : Chip) (p : Pair) : (returnPlace c p).sys = c.sys := by
  unfold returnPlace
  (repeat' split) <;> simp

@[simp] theorem returnPlace_regs (c : Chip) (p : Pair) : (returnPlace c p).regs = c.regs := by
  unfold returnPlace
  (repeat' split) <;> simp

@[simp] theorem discardPairs_sys (c : Chip) (n : Nat) : (discardPairs c n).sys = c.sys := by
  simp [discardPairs]

@[simp] theorem discardPairs_regs (c : Chip) (n : Nat) : (discardPairs c n).regs = c.regs := by
  simp [discardPairs]

end Sys2Proof.Machine
end

section
/-! PROOFS. The registers of a router through a fatal error, and the fabric's own events (R259, R271, R272, R286). -/

namespace Sys2Proof.Machine

open Sys2Proof Sys2Proof.Safety

/-! ### What leaves registers unchanged -/

/-- No register changes but those of a set. -/
def KeepsRegs (W : Nat → Prop) (c d : Chip) : Prop := ∀ a, ¬ W a → regVal d a = regVal c a

section KeepsRegs

variable {W : Nat → Prop}

theorem keepsRegs_refl (c : Chip) : KeepsRegs W c c := fun _ _ => rfl

theorem keepsRegs_trans {c d e : Chip} (h : KeepsRegs W c d) (h' : KeepsRegs W d e) : KeepsRegs W c e :=
  fun a ha => (h' a ha).trans (h a ha)

theorem keepsRegs_of_regs {c d : Chip} (h : d.regs = c.regs) : KeepsRegs W c d := fun a _ => by
  rw [regVal, regVal, h]

theorem keepsRegs_foldl {α : Type} {f : Chip → α → Chip} (hf : ∀ c a, KeepsRegs W c (f c a)) (l : List α) (c : Chip) :
    KeepsRegs W c (l.foldl f c) :=
  foldl_related keepsRegs_refl keepsRegs_trans hf l c

theorem keepsRegs_regPut (c : Chip) {b : Nat} (w : Word) (h : W b) : KeepsRegs W c (regPut c b w) := fun _ ha =>
  regVal_regPut_other c w fun hab => ha (hab ▸ h)

theorem keepsRegs_mono {V : Nat → Prop} (hV : ∀ a, V a → W a) {c d : Chip} (h : KeepsRegs V c d) : KeepsRegs W c d :=
  fun a ha => h a fun hv => ha (hV a hv)

end KeepsRegs

/-! ### What the halt of everything writes -/

/-- The registers of field port `p` but its event counters. -/
def PortWrites (p a : Nat) : Prop := ∃ o, o < 64 ∧ o ≠ 4 ∧ a = fpReg p o

/-- The registers that stopping the tablature, dropping every drive and halting every course write. -/
def HaltWrites (a : Nat) : Prop := a ∈ [0x60007028, 0x60005038, 0x6000505C] ∨ ∃ p, PortWrites p a

theorem onlyRegs_withdrawAll (c : Chip) (e : Nat) : OnlyRegs [0x60007028] c (withdrawAll c e) :=
  keepsRegs_foldl (fun c s => keepsRegs_trans (d := updSrc c s _) (keepsRegs_of_regs rfl)
    (keepsRegs_regPut _ _ (by decide))) _ c

theorem onlyRegs_haltCore (c : Chip) (k : Nat) : OnlyRegs [0x60007028] c (haltCore c k) := by
  have hregs (f : Core → Core) : OnlyRegs [0x60007028] c (updCore (dropResv (withdrawWait c k) k) k f) :=
    keepsRegs_of_regs (by simp)
  unfold haltCore
  dsimp only
  split
  · exact keepsRegs_trans (hregs _) (onlyRegs_withdrawAll _ _)
  · exact hregs _

theorem onlyRegs_stopCourse (c : Chip) (n : Nat) : OnlyRegs [0x60007028] c (stopCourse c n) := by
  have h : OnlyRegs [0x60007028] c (haltCore (haltCore c (2 * n)) (2 * n + 1)) :=
    keepsRegs_trans (onlyRegs_haltCore c (2 * n)) (onlyRegs_haltCore _ (2 * n + 1))
  rw [stopCourse]
  generalize haltCore (haltCore c (2 * n)) (2 * n + 1) = d at h ⊢
  exact keepsRegs_trans h (keepsRegs_of_regs (discardPairs_regs d n))

theorem onlyRegs_fatalHalt (c : Chip) (n : Nat) : OnlyRegs [0x60007028] c (fatalHalt c n) :=
  keepsRegs_trans (onlyRegs_stopCourse c n) (keepsRegs_of_regs rfl)

theorem keepsPort_put (c : Chip) (p : Nat) {o : Nat} (w : Word) (hlt : o < 64) (ho : o ≠ 4) :
    KeepsRegs (PortWrites p) c (regPut c (fpReg p o) w) :=
  keepsRegs_regPut c w ⟨o, hlt, ho, rfl⟩

theorem keepsPort_linkDown (c : Chip) (p : Nat) : KeepsRegs (PortWrites p) c (linkDown c p) := by
  unfold linkDown
  extract_lets l st c1 c2
  have h : KeepsRegs (PortWrites p) c c2 := keepsRegs_trans (d := c1) (keepsRegs_of_regs rfl)
    (keepsRegs_foldl (fun c r => keepsRegs_of_regs (complete_regs c r _ _)) _ _)
  split
  · exact h
  · exact keepsRegs_trans h (keepsPort_put _ _ _ (by decide) (by decide))

theorem keepsPort_drivesOff (c : Chip) (p : Nat) : KeepsRegs (PortWrites p) c (drivesOff c p) := by
  unfold drivesOff
  split
  · exact keepsRegs_trans (keepsRegs_trans (keepsRegs_trans (d := updPort c p _) (keepsRegs_of_regs rfl)
      (keepsPort_put _ _ _ (by decide) (by decide))) (keepsPort_put _ _ _ (by decide) (by decide))) (keepsPort_put _ _ _ (by decide) (by decide))
  · split
    · exact keepsPort_linkDown c p
    · exact keepsRegs_refl c

theorem keepsPort_dropDrive (c : Chip) (p : Nat) : KeepsRegs (PortWrites p) c (dropDrive c p) :=
  keepsRegs_trans (keepsRegs_trans (keepsPort_drivesOff c p) (keepsPort_put _ _ _ (by decide) (by decide)))
    (keepsPort_put _ _ _ (by decide) (by decide))

theorem keepsHalt_dropAllDrives (c : Chip) : KeepsRegs HaltWrites c (dropAllDrives c) :=
  keepsRegs_foldl (fun c p => keepsRegs_mono (fun _ h => .inr ⟨p, h⟩) (keepsPort_dropDrive c p)) _ c

theorem keepsHalt_endArm (c : Chip) (detail : Nat) : KeepsRegs HaltWrites c (endArm c detail) := by
  unfold endArm
  split
  · exact keepsRegs_refl c
  case _ a _ =>
    refine keepsRegs_trans (keepsRegs_trans (d := dropShadows (setBank c a.bank 3) a.mask) ?_ ?_)
      (keepsRegs_of_regs (complete_regs _ _ _ _))
    · exact keepsRegs_of_regs (by simp)
    · exact keepsRegs_trans (keepsRegs_of_regs rfl) (keepsRegs_regPut _ _ (.inl (by decide)))

/-- Where no detach waits for the tablature to stop. -/
theorem keepsHalt_tabStop {c : Chip} (h : ∀ d, c.sys.detach = some d → d.stop = none) : KeepsRegs HaltWrites c (tabStop c) := by
  unfold tabStop
  extract_lets n tab c1 c2
  have h2 : KeepsRegs HaltWrites c c2 := keepsRegs_trans (d := c1) (keepsRegs_of_regs rfl) (keepsRegs_regPut _ _ (.inl (by decide)))
  split
  case _ d hd =>
    rw [if_neg (by rw [h d hd]; decide)]
    exact h2
  · exact h2

theorem keepsHalt_fatalStop {c : Chip} (h : ∀ d, c.sys.detach = some d → d.stop = none) : KeepsRegs HaltWrites c (fatalStop c) :=
  keepsRegs_trans
    (keepsRegs_trans (keepsRegs_trans (keepsHalt_endArm c 3) (keepsHalt_tabStop (by simpa using h)))
      (keepsHalt_dropAllDrives _))
    (keepsRegs_foldl (fun c n => keepsRegs_mono (fun _ h => .inl (List.mem_append_left [_, _] h)) (onlyRegs_fatalHalt c n)) _ _)

theorem keepsHalt_failAccepted (c : Chip) : KeepsRegs HaltWrites c (failAccepted c) :=
  keepsRegs_trans (keepsRegs_foldl (fun c r => keepsRegs_of_regs (complete_regs c r _ _)) _ c) (keepsRegs_of_regs rfl)

/-! ### A fatal error's record -/

/-- The registers a change of the device's state writes: those of the state and of the pulse it makes, and CAUSE where FAULTED
is left. -/
def DevWrites (c : Chip) (a : Nat) : Prop :=
  a ∈ [0x60000000, 0x60000034, 0x60000038, 0x60008038, 0x60002014, 0x60002004] ∨ c.dev = .faulted ∧ a = 0x60008014

theorem setDev_regs (c : Chip) (new : DevState) (cause : Nat) : KeepsRegs (DevWrites c) c (setDev c new cause) := by
  have hput (d : Chip) {a : Nat} (w : Word)
      (h : a ∈ [0x60000000, 0x60000034, 0x60000038, 0x60008038, 0x60002014, 0x60002004]) :
      KeepsRegs (DevWrites c) d (regPut d a w) := keepsRegs_regPut d w (.inl h)
  have hpulse (d : Chip) : KeepsRegs (DevWrites c) d (pulse d 597) := by
    unfold pulse
    dsimp only
    split
    · exact keepsRegs_trans (keepsRegs_trans (d := updSrc d 597 _) (keepsRegs_of_regs rfl)
        (hput _ _ (by decide))) (hput _ _ (by decide))
    · exact keepsRegs_of_regs rfl
  unfold setDev
  extract_lets old c1 c2 c3 c4 c5
  split
  · exact keepsRegs_refl c
  · have h3 : KeepsRegs (DevWrites c) c c3 := keepsRegs_trans (keepsRegs_trans (keepsRegs_trans (d := c1) (keepsRegs_of_regs rfl)
      (hput _ _ (by decide))) (hput _ _ (by decide))) (hput _ _ (by decide))
    have h4 : KeepsRegs (DevWrites c) c c4 := by
      by_cases hn : new = .halted
      · exact keepsRegs_trans h3 (by rw [show c4 = _ from if_pos hn]; exact hput _ _ (by decide))
      · rwa [show c4 = c3 from if_neg hn]
    have h5 : KeepsRegs (DevWrites c) c c5 := by
      by_cases ho : old = .faulted
      · exact keepsRegs_trans h4 (by rw [show c5 = _ from if_pos ho]; exact keepsRegs_regPut _ _ (.inr ⟨ho, rfl⟩))
      · rwa [show c5 = c4 from if_neg ho]
    split
    · exact keepsRegs_trans h5 (hpulse _)
    · exact h5

theorem fatalRecord_regs (c : Chip) (cause : Nat) (detail : Word) :
    OnlyRegs [0x60008014, 0x60008018, 0x6000801C, 0x60008020, 0x60008024] c (fatalRecord c cause detail) := by
  have hput (d : Chip) {a : Nat} (w : Word) (h : a ∈ [0x60008014, 0x60008018, 0x6000801C, 0x60008020, 0x60008024]) :
      KeepsRegs (· ∈ [0x60008014, 0x60008018, 0x6000801C, 0x60008020, 0x60008024]) d (regPut d a w) := keepsRegs_regPut d w h
  exact keepsRegs_trans (keepsRegs_trans (keepsRegs_trans (keepsRegs_trans (hput c _ (by decide)) (hput _ _ (by decide)))
    (hput _ _ (by decide))) (hput _ _ (by decide))) (hput _ _ (by decide))

/-- A device with a first fatal error in its record, about to be stopped. -/
def faultedAt (c : Chip) (cause : Nat) (detail : Word) : Chip :=
  let d := setDev (fatalRecord { c with sys := { c.sys with dumpState := devCode c.dev, second := false, dumpDue := true } } cause detail)
    .faulted cause
  { d with sys := { d.sys with detach := d.sys.detach.map (fun x => { x with stop := none, reached := false, drain := false, fault := true }) } }

theorem fatal_first {c : Chip} (cause : Nat) (detail : Word) (hs : hostStates c = true) (hh : faultHandled c = false) :
    fatal c cause detail = regOr (regClr (failAccepted (fatalStop (faultedAt c cause detail))) 0x60008004 9) 0x60008004 2 := by
  rw [fatal, hs, hh]
  rfl

theorem fatal_second {c : Chip} (cause : Nat) (detail : Word) (hs : hostStates c = true) (hh : faultHandled c = true) :
    fatal c cause detail = { regCount c 0x60008024 31 16 1 with sys := { c.sys with second := true } } := by
  rw [fatal, hs, hh]
  rfl

theorem faultedAt_noStop (c : Chip) (cause : Nat) (detail : Word) :
    ∀ d, (faultedAt c cause detail).sys.detach = some d → d.stop = none := by
  intro d hd
  obtain ⟨d', -, rfl⟩ := Option.map_eq_some_iff.mp hd
  rfl

/-- A register that no fatal error writes, but the status of the dump. -/
theorem fatal_halts (c : Chip) (cause : Nat) (detail : Word) :
    KeepsRegs HaltWrites (faultedAt c cause detail) (failAccepted (fatalStop (faultedAt c cause detail))) :=
  keepsRegs_trans (keepsHalt_fatalStop (faultedAt_noStop c cause detail)) (keepsHalt_failAccepted _)

/-- The registers a fatal error writes. -/
def FatalWrites (a : Nat) : Prop :=
  a ∈ [0x60000000, 0x60000034, 0x60000038, 0x60008038, 0x60002014, 0x60002004, 0x60008014, 0x60008018, 0x6000801C, 0x60008020,
    0x60008024, 0x60008004] ∨ HaltWrites a

theorem fatal_regs (c : Chip) (cause : Nat) (detail : Word) : KeepsRegs FatalWrites c (fatal c cause detail) := by
  cases hs : hostStates c with
  | false =>
    rw [fatal, hs]
    exact keepsRegs_refl c
  | true =>
    cases hh : faultHandled c with
    | true =>
      rw [fatal_second cause detail hs hh]
      exact keepsRegs_trans (keepsRegs_regPut c _ (.inl (by decide))) (keepsRegs_of_regs rfl)
    | false =>
      rw [fatal_first cause detail hs hh]
      have hrec (d : Chip) : KeepsRegs FatalWrites d (fatalRecord d cause detail) :=
        keepsRegs_mono (fun a ha => .inl (List.mem_append_right [_, _, _, _, _, _] (List.mem_append_left [_] ha)))
          (fatalRecord_regs d cause detail)
      have hdev (d : Chip) : KeepsRegs FatalWrites d (setDev d .faulted cause) := by
        refine keepsRegs_mono (fun a ha => ?_) (setDev_regs d .faulted cause)
        rcases ha with ha | ⟨-, ha⟩
        · exact .inl (List.mem_append_left [_, _, _, _, _, _] ha)
        · exact .inl (by rw [ha]; decide)
      have hfault : KeepsRegs FatalWrites c (faultedAt c cause detail) := fun a ha =>
        (hdev _ a ha).trans ((hrec _ a ha).trans rfl)
      have hhalt := keepsRegs_trans hfault (keepsRegs_mono (W := FatalWrites) (fun _ => .inr) (fatal_halts c cause detail))
      revert hhalt
      generalize failAccepted (fatalStop (faultedAt c cause detail)) = e
      intro hhalt
      exact keepsRegs_trans hhalt (keepsRegs_trans (keepsRegs_regPut e _ (.inl (by decide)))
        (keepsRegs_regPut _ _ (.inl (by decide))))

/-- A fatal error leaves the routers' error bits. -/
theorem fatal_clReg (c : Chip) (cause : Nat) (detail : Word) (k : Nat) :
    regVal (fatal c cause detail) (clReg k 0x04) = regVal c (clReg k 0x04) := by
  refine fatal_regs c cause detail _ ?_
  rintro (h | h | ⟨p, o, hlt, ho, h⟩)
  · have := clReg_high k 0x04
    simp only [List.mem_cons, List.not_mem_nil, or_false] at h
    omega
  · have := clReg_high k 0x04
    simp only [List.mem_cons, List.not_mem_nil, or_false] at h
    omega
  · rw [clReg, fpReg] at h
    omega

@[simp] theorem pulse_dev (c : Chip) (s : Nat) : (pulse c s).dev = c.dev := by
  unfold pulse
  dsimp only
  split <;> simp

@[simp] theorem setDev_dev (c : Chip) (new : DevState) (cause : Nat) : (setDev c new cause).dev = new := by
  unfold setDev
  dsimp only
  split
  · next h => exact h.symm
  · (repeat' split) <;> simp

/-- A fatal error that none before it keeps waiting enters FAULTED. -/
theorem fatal_dev_faulted {c : Chip} (cause : Nat) (detail : Word) (hs : hostStates c = true) (hh : faultHandled c = false) :
    (fatal c cause detail).dev = .faulted := by
  rw [fatal, hs, hh]
  simp

/-! ### The fabric's own events -/

@[simp] theorem noteCorrected_sbe (c : Chip) (ga : Nat) : (noteCorrected c ga).sbe = c.sbe := by
  obtain ⟨r, hr⟩ := noteCorrected_only c ga
  rw [hr]

@[simp] theorem noteUncorrectable_sbe (c : Chip) (ga src core : Nat) : (noteUncorrectable c ga src core).sbe = c.sbe := by
  obtain ⟨r, hr⟩ := noteUncorrectable_only c ga src core
  rw [hr]

/-- A word read keeps the marks of single-bit errors but its own. -/
theorem readWord_sbe (c : Chip) (ga src core : Nat) :
    (readWord c ga src core).1.sbe = if ga / 4 * 4 ∈ c.sbe then c.sbe.filter (· ≠ ga / 4 * 4) else c.sbe := by
  unfold readWord
  dsimp only
  split <;> split <;> simp

theorem mem_readWord_sbe (c : Chip) (ga src core x : Nat) :
    x ∈ (readWord c ga src core).1.sbe ↔ x ∈ c.sbe ∧ x ≠ ga / 4 * 4 := by
  rw [readWord_sbe]
  split
  · simp
  · next h => exact ⟨fun hx => ⟨hx, fun he => h (he ▸ hx)⟩, And.left⟩

theorem scrubGa_aligned (k w : Nat) : scrubGa k w / 4 * 4 = scrubGa k w := by
  rw [scrubGa]
  split <;> omega

/-- A visit due reads the scrubber's next word. -/
theorem leaves_scrub {s : State} {k : Nat} (hk : k < 32) (hper : s.chip.sys.per = true)
    (hen : bit (regVal s.chip (clReg k 0x10)) 1 = true)
    (hdue : (Tbl.get {} s.chip.scrubs k).at_ + scrubNs s.chip k ≤ s.chip.tb)
    (hon : scrubOn s.chip k (Tbl.get {} s.chip.scrubs k).pos = true) :
    leaves (.scrub k (Tbl.get {} s.chip.scrubs k).pos) s (fun t =>
      scrubGa k (Tbl.get {} s.chip.scrubs k).pos ∉ t.sbe ∧ t.mem = s.chip.mem ∧ t.poison = s.chip.poison ∧
        Tbl.get {} t.scrubs k = ⟨((Tbl.get {} s.chip.scrubs k).pos + 1) % 0x30000, s.chip.tb⟩) := by
  refine leaves_of_onUnit (ok := isCluster k) (f := fun c => xScrub c k _) rfl (decide_eq_true hk) ?_
  have hnext : scrubNext s.chip k 48 (Tbl.get {} s.chip.scrubs k).pos = some (Tbl.get {} s.chip.scrubs k).pos := if_pos hon
  rw [xScrub, if_pos ⟨hk, hper, hen, .inl hdue⟩, if_pos hnext]
  refine ⟨?_, by simp, by simp, by simp⟩
  exact fun h => ((mem_readWord_sbe _ _ _ _ _).mp h).2 (scrubGa_aligned _ _).symm

/-- A string whose answer on its way to slot `i` carries an open value instead of its data. -/
def spoilAnswer (i : Nat) (v : Word) (r : Core) : Core :=
  { r with flights := r.flights.map (fun f =>
      if f.slot = i ∧ f.ready ∧ f.op < 0x26 ∧ f.trap = 0 then { f with lo := v, trap := 0x14 } else f) }

theorem xDataFlitError_answer {c : Chip} {k p : Nat} (who i : Nat) (hk : k < 32) (hper : c.sys.per = true)
    (hl : (linkMask k).getLsbD p = true) : xDataFlitError c k p 0 who i =
      updCore (fresh (regOr c (clReg k 0x04) (2 ^ p))).1 who (spoilAnswer i (Config.freeWord c.free)) := by
  rw [xDataFlitError, if_neg (by simp [hper, hl]; omega)]
  rfl

/-- A flit error reaches the answer on its way to a slot. -/
theorem leaves_dataFlitError {s : State} {k p : Nat} (who i : Nat) (hk : k < 32) (hper : s.chip.sys.per = true)
    (hp : isInput p = true) (hl : (linkMask k).getLsbD p = true) :
    leaves (.dataFlitError k p 0 who i) s (fun t =>
        bit (regVal t (clReg k 0x04)) p = true ∧ t.mem = s.chip.mem ∧
        (coreOf t who).flights = (coreOf s.chip who).flights.map (fun f =>
          if f.slot = i ∧ f.ready ∧ f.op < 0x26 ∧ f.trap = 0 then { f with lo := Config.freeWord s.chip.free, trap := 0x14 }
          else f)) := by
  have hp32 : p < 32 := Nat.lt_of_lt_of_le (BitVec.lt_of_getLsbD hl) (by decide)
  refine leaves_of_onUnit (ok := isCluster k && isInput p) (f := fun c => xDataFlitError c k p 0 who i) rfl
    (by simp [isCluster, hk, hp]) ?_
  rw [xDataFlitError_answer who i hk hper hl]
  refine ⟨?_, rfl, ?_⟩
  · refine (congrArg (bit · p) (regVal_regUpd_same s.chip (clReg k 0x04) (fun w => w ||| wd (2 ^ p)))).trans ?_
    simp [bit_wd hp32]
  · exact congrArg Core.flights (coreOf_updCore_same _ who (spoilAnswer i _))

/-- A flit error in a head stops the port. -/
theorem leaves_headFlitError {s : State} {k p : Nat} (hk : k < 32) (hper : s.chip.sys.per = true)
    (hp : isInput p = true) (hl : (linkMask k).getLsbD p = true) :
    leaves (.headFlitError k p) s (fun t =>
      6 * k + p ∈ t.stopped ∧ bit (regVal t (clReg k 0x04)) 6 = true ∧
      (hostStates s.chip = true → faultHandled s.chip = false → t.dev = .faulted)) := by
  refine leaves_of_onUnit (ok := isCluster k && isInput p) (f := fun c => xHeadFlitError c k p) rfl
    (by simp [isCluster, hk, hp]) ?_
  rw [xHeadFlitError, if_neg (by simp [hper, hl]; omega)]
  extract_lets c1 c2
  have hport : 6 * k + p ∈ c2.stopped := by
    by_cases hin : 6 * k + p ∈ c1.stopped
    · rwa [show c2 = c1 from if_pos hin]
    · rw [show c2 = _ from if_neg hin]
      exact List.mem_cons_self
  have hregs : c2.regs = c1.regs ∧ c2.dev = c1.dev := by
    by_cases hin : 6 * k + p ∈ c1.stopped
    · rw [show c2 = c1 from if_pos hin]
      exact ⟨rfl, rfl⟩
    · rw [show c2 = _ from if_neg hin]
      exact ⟨rfl, rfl⟩
  refine ⟨by simpa using hport, ?_, fun hs hh => ?_⟩
  · rw [fatal_clReg c2 4, regVal, hregs.1]
    exact (congrArg (bit · 6) (regVal_regUpd_same s.chip (clReg k 0x04) (fun w => w ||| wd 0x40))).trans
      (by rw [bit_or, bit_wd (by decide)]; exact Bool.or_true _)
  · refine fatal_dev_faulted _ _ ?_ ?_
    · rw [hostStates, hregs.2]
      exact hs
    · have hreg : regVal c2 0x60008004 = regVal s.chip 0x60008004 :=
        (congrArg (fun r => Tbl.get (regReset 0x60008004) r 0x60008004) hregs.1).trans
          (regVal_regPut_other s.chip _ (by have := clReg_high k 0x04; omega))
      rw [faultHandled, hregs.2, regFld, hreg]
      exact hh

theorem leaves_eccinjWrite {s : State} {k : Nat} {w : Word} (hk : k < 32) (hper : s.chip.sys.per = true)
    (hmode : bits w 1 0 ≠ 3) (hbit : bits w 13 8 ≤ 38) :
    leaves (.eccinjWrite k w) s (fun t => regVal t (clReg k 0x24) = (w &&& 0x3F3F#32)) := by
  refine leaves_of_onUnit (ok := isCluster k) (f := fun c => xEccinjWrite c k w) rfl (decide_eq_true hk) ?_
  have hkept {hi : Nat} (lo : Nat) (hin : ∀ i, lo ≤ i → i ≤ hi → bit 0x3F3F#32 i = true) :
      bits (w &&& 0x3F3F#32) hi lo = bits w hi lo := bits_congr (fun i h h' => by rw [bit_and, hin i h h', Bool.and_true])
  have h1 := hkept (hi := 1) 0 (by decide)
  have h2 := hkept (hi := 13) 8 (by decide)
  rw [xEccinjWrite, if_pos ⟨hk, hper⟩, eccInjWrite]
  exact (regVal_regPut_same _ _ _).trans
    ((if_neg (fun h => absurd (h2 ▸ hbit) (Nat.not_le.mpr h))).trans (if_neg (fun h => hmode (h1.symm.trans h))))

/-- Settles O26: each clause is the effect of its event, and of the read and the write of a word. -/
theorem fabricEvents : Obligations.FabricEvents := by
  unfold Obligations.FabricEvents
  refine ⟨fun s k hk hper => ⟨fun _ hen hdue hon => leaves_scrub hk hper hen hdue hon,
    fun p who i hp hl => leaves_dataFlitError who i hk hper hp hl, fun p hp hl => leaves_headFlitError hk hper hp hl,
    fun w hmode hbit => leaves_eccinjWrite hk hper hmode hbit⟩, fun c ga src core w by_ => ⟨?_, ?_, fun hit => ?_, fun hit => ?_⟩⟩
  · obtain ⟨r, b, hr⟩ := readWord_only c ga src core
    refine ⟨by rw [hr], by rw [hr], by rw [hr], by rw [hr], fun h => ((mem_readWord_sbe _ _ _ _ _).mp h).2 rfl⟩
  · exact fun x hx => (mem_readWord_sbe _ _ _ _ _).trans (and_iff_left hx)
  · obtain ⟨hmem, hsbe, hpois⟩ := writeWord_clean w false by_ hit
    refine ⟨by rw [hpois]; simp, by rw [hsbe]; simp, ?_, fun x hx => by rw [hpois]; simp [hx], fun b hb => ?_⟩
    · exact (wordAt_of_mem hmem _).trans (wordAt_putWord c _ w)
    · exact (byteAt_of_mem hmem b).trans (byteAt_putWord_outside c w hb)
  · rw [(writeWord_clean w true by_ hit).2.2, if_pos rfl]
    exact List.mem_cons_self

end Sys2Proof.Machine
end

section
/-! PROOFS. Bytes of a store written into a memory (R257, R258). -/

namespace Sys2Proof.Machine

open Sys2Proof Sys2Proof.Safety

/-- Byte `i` of a word. -/
def byteOf (w : Word) (i : Nat) : Byte := w.extractLsb' (8 * i) 8

theorem byteOf_getLsbD (w : Word) (i j : Nat) : (byteOf w i).getLsbD j = (decide (j < 8) && bit w (8 * i + j)) := by
  rw [byteOf, BitVec.getLsbD_extractLsb', bit_eq_getLsbD]

theorem byteAt_putLe_inside {c : Chip} {a n i : Nat} (v : Nat) (h : i < n) :
    byteAt (putLe c a n v) (a + i) = BitVec.ofNat 8 (v / 256 ^ i) := by
  induction n generalizing c a v i with
  | zero => omega
  | succ n ih =>
    rw [putLe]
    cases i with
    | zero => rw [byteAt_putLe_outside _ _ _ (by omega), Nat.add_zero, byteAt_putByte_same, Nat.pow_zero, Nat.div_one]
    | succ i =>
      rw [show a + (i + 1) = a + 1 + i by omega, ih _ (by omega), Nat.div_div_eq_div_mul, Nat.pow_succ']

theorem byteAt_putWord_inside (c : Chip) (a : Nat) (w : Word) {i : Nat} (h : i < 4) :
    byteAt (putWord c a w) (a + i) = byteOf w i := by
  rw [putWord, byteAt_putLe_inside _ h, byteOf]
  apply BitVec.eq_of_toNat_eq
  rw [BitVec.toNat_ofNat, BitVec.extractLsb'_toNat, Nat.shiftRight_eq_div_pow, Nat.pow_mul]

theorem byteOf_wordAt (c : Chip) (a : Nat) {i : Nat} (h : i < 4) : byteOf (wordAt c a) i = byteAt c (a + i) := by
  have h0 := (byteAt c a).isLt
  have h1 := (byteAt c (a + 1)).isLt
  have h2 := (byteAt c (a + 2)).isLt
  have h3 := (byteAt c (a + 3)).isLt
  apply BitVec.eq_of_toNat_eq
  rw [byteOf, BitVec.extractLsb'_toNat, Nat.shiftRight_eq_div_pow, wordAt_toNat]
  obtain rfl | rfl | rfl | rfl : i = 0 ∨ i = 1 ∨ i = 2 ∨ i = 3 := by omega
  all_goals simp only [Nat.reduceMul, Nat.reducePow, Nat.add_zero]
  all_goals omega

/-- A part merged into a word: its bytes stand at its offset. -/
theorem byteOf_mergeBytes_inside (old : Word) {off size i : Nat} (v : Word) (hs : off + size ≤ 4) (hi : i < size) :
    byteOf (mergeBytes old off size v) (off + i) = byteOf v i := by
  apply BitVec.eq_of_getLsbD_eq
  intro j hj
  rw [byteOf_getLsbD, byteOf_getLsbD, mergeBytes, bit_setBits _ _ _ (by omega) (by omega), if_pos (by omega), bit_eq_testBit]
  rw [show 8 * (off + i) + j - 8 * off = 8 * i + j by omega]

theorem byteOf_mergeBytes_outside (old : Word) {off size i : Nat} (v : Word) (hpos : 0 < size) (hs : off + size ≤ 4)
    (hi : i < off ∨ off + size ≤ i) : byteOf (mergeBytes old off size v) i = byteOf old i := by
  apply BitVec.eq_of_getLsbD_eq
  intro j hj
  rw [byteOf_getLsbD, byteOf_getLsbD, mergeBytes, bit_setBits _ _ _ (by omega) (by omega), if_neg (by omega)]

/-! ### A store into a memory -/

/-- The registers through which errors are injected stand as they stood. -/
def KeepsInjection (c d : Chip) : Prop := ∀ k, regVal d (clReg k 0x24) = regVal c (clReg k 0x24)

theorem keepsInjection_refl (c : Chip) : KeepsInjection c c := fun _ => rfl

theorem keepsInjection_trans {c d e : Chip} (h : KeepsInjection c d) (h' : KeepsInjection d e) : KeepsInjection c e :=
  fun k => (h' k).trans (h k)

theorem keepsInjection_of_regs {c d : Chip} (h : d.regs = c.regs) : KeepsInjection c d := fun k => by
  rw [regVal, regVal, h]

theorem keepsInjection_clReg (c : Chip) (k : Nat) {o : Nat} (w : Word) (h : o % 256 ≠ 0x24) :
    KeepsInjection c (regPut c (clReg k o) w) := fun j =>
  regVal_regPut_other c w (by rw [clReg, clReg]; omega)

theorem keepsInjection_readWord (c : Chip) (ga src core : Nat) : KeepsInjection c (readWord c ga src core).1 := by
  have hput (d : Chip) (k : Nat) {o : Nat} (w : Word) (h : o % 256 ≠ 0x24) : KeepsInjection d (regPut d (clReg k o) w) :=
    keepsInjection_clReg d k w h
  have hcorr (d : Chip) (a : Nat) : KeepsInjection d (noteCorrected d a) := by
    unfold noteCorrected
    dsimp only
    split
    · exact keepsInjection_refl d
    · refine keepsInjection_trans (keepsInjection_trans ?_ (hput _ _ _ (by decide))) (hput _ _ _ (by decide))
      split <;> exact hput _ _ _ (by decide)
  have hunc (d : Chip) (a : Nat) : KeepsInjection d (noteUncorrectable d a src core) := by
    unfold noteUncorrectable
    dsimp only
    split
    · exact keepsInjection_refl d
    · split
      · exact keepsInjection_trans (keepsInjection_trans (keepsInjection_trans (hput _ _ _ (by decide)) (hput _ _ _ (by decide)))
          (hput _ _ _ (by decide))) (hput _ _ _ (by decide))
      · exact keepsInjection_trans (hput _ _ _ (by decide)) (hput _ _ _ (by decide))
  have hfirst : KeepsInjection c (if ga / 4 * 4 ∈ c.sbe then
      noteCorrected { c with sbe := c.sbe.filter (· ≠ ga / 4 * 4) } (ga / 4 * 4) else c) := by
    split
    · exact keepsInjection_trans (keepsInjection_of_regs rfl) (hcorr _ _)
    · exact keepsInjection_refl c
  unfold readWord
  extract_lets ga' c1
  by_cases h : ga' ∈ c1.poison
  · rw [if_pos h]
    exact keepsInjection_trans hfirst (hunc c1 ga')
  · rw [if_neg h]
    exact hfirst

theorem injHits_of_keeps {c d : Chip} (h : KeepsInjection c d) (ga : Nat) : injHits d ga = injHits c ga := by
  rw [injHits, injHits, h]

/-- A store of one, two or four bytes, aligned, into a word no injection waits for and that is not poisoned: its bytes stand
there, and no other byte changes. -/
theorem writeMem_bytes {c : Chip} {ga size : Nat} (v : Word) (by_ : Option Nat) (hs : size = 1 ∨ size = 2 ∨ size = 4)
    (ha : ga % size = 0) (hinj : injHits c (ga / 4 * 4) = false) (hp : ga / 4 * 4 ∉ c.poison) :
    (∀ i, i < size → byteAt (writeMem c ga size v false by_) (ga + i) = byteOf v i) ∧
      ∀ b, ¬ (ga ≤ b ∧ b < ga + size) → byteAt (writeMem c ga size v false by_) b = byteAt c b := by
  by_cases h4 : size = 4
  · subst h4
    rw [writeMem, if_pos rfl]
    have hal : ga / 4 * 4 = ga := by omega
    have hmem := (writeWord_clean v false by_ hinj).1
    rw [hal] at hmem
    exact ⟨fun i hi => (byteAt_of_mem hmem _).trans (byteAt_putWord_inside c ga v hi),
      fun b hb => (byteAt_of_mem hmem b).trans (byteAt_putWord_outside c v hb)⟩
  · have hoff : 0 < size ∧ ga % 4 + size ≤ 4 := by
      obtain rfl | rfl | rfl := hs <;> omega
    obtain ⟨r, s, hr⟩ := readWord_only c ga 5 0
    have hinj' : injHits { c with regs := r, sbe := s } (ga / 4 * 4) = false := by
      have := injHits_of_keeps (keepsInjection_readWord c ga 5 0) (ga / 4 * 4)
      rw [hr] at this
      exact this.trans hinj
    have hw : writeMem c ga size v false by_ =
        writeWord { c with regs := r, sbe := s } ga (mergeBytes (wordAt c (ga / 4 * 4)) (ga % 4) size v) false by_ := by
      rw [writeMem, if_neg h4, hr]
      exact if_neg (by simpa using hp)
    have hmem := (writeWord_clean (mergeBytes (wordAt c (ga / 4 * 4)) (ga % 4) size v) false by_ hinj').1
    have hmem' : (writeMem c ga size v false by_).mem =
        (putWord c (ga / 4 * 4) (mergeBytes (wordAt c (ga / 4 * 4)) (ga % 4) size v)).mem :=
      (congrArg Chip.mem hw).trans (hmem.trans (putLe_mem_of_mem rfl _ _ _))
    refine ⟨fun i hi => (byteAt_of_mem hmem' _).trans ?_, fun b hb => (byteAt_of_mem hmem' b).trans ?_⟩
    · rw [show ga + i = ga / 4 * 4 + (ga % 4 + i) by omega, byteAt_putWord_inside _ _ _ (by omega),
        byteOf_mergeBytes_inside _ _ hoff.2 hi]
    · by_cases hb4 : ga / 4 * 4 ≤ b ∧ b < ga / 4 * 4 + 4
      · obtain ⟨i, rfl⟩ := Nat.exists_eq_add_of_le hb4.1
        rw [byteAt_putWord_inside _ _ _ (by omega), byteOf_mergeBytes_outside _ _ hoff.1 hoff.2 (by omega),
          byteOf_wordAt c _ (by omega)]
      · exact byteAt_putWord_outside c _ hb4

end Sys2Proof.Machine
end

section
/-! PROOFS. What settling a string's own loads, and the access of a memory, leave unchanged. -/

namespace Sys2Proof.Machine

open Sys2Proof Sys2Proof.Safety

@[simp] theorem placeResv_poison (c : Chip) (k : Nat) (t : Tgt) (words : Nat) : (placeResv c k t words).poison = c.poison := by
  unfold placeResv
  dsimp only
  (repeat' split) <;> simp

@[simp] theorem placeResv_regs (c : Chip) (k : Nat) (t : Tgt) (words : Nat) : (placeResv c k t words).regs = c.regs := by
  unfold placeResv
  dsimp only
  (repeat' split) <;> simp

@[simp] theorem countOff_cores (c : Chip) (p : Nat) : (countOff c p).cores = c.cores := by
  simp [countOff]

@[simp] theorem sendFlits_poison (c : Chip) (l : List Nat) (n : Nat) : (sendFlits c l n).poison = c.poison := by
  simp [sendFlits]

@[simp] theorem sendFlits_regs (c : Chip) (l : List Nat) (n : Nat) : (sendFlits c l n).regs = c.regs := by
  simp [sendFlits]

@[simp] theorem sendFlits_cores (c : Chip) (l : List Nat) (n : Nat) : (sendFlits c l n).cores = c.cores := by
  simp [sendFlits]

@[simp] theorem sendFlits_pegs (c : Chip) (l : List Nat) (n : Nat) : (sendFlits c l n).pegs = c.pegs := by
  simp [sendFlits]

@[simp] theorem sendFlits_courses (c : Chip) (l : List Nat) (n : Nat) : (sendFlits c l n).courses = c.courses := by
  simp [sendFlits]

@[simp] theorem sendFlits_lut (c : Chip) (l : List Nat) (n : Nat) : (sendFlits c l n).lut = c.lut := by
  simp [sendFlits]

@[simp] theorem sendFlits_fixedUnison (c : Chip) (l : List Nat) (n : Nat) : (sendFlits c l n).fixedUnison = c.fixedUnison := by
  simp [sendFlits]

@[simp] theorem accessFlits_poison (c : Chip) (k kind : Nat) (t : Tgt) : (accessFlits c k kind t).poison = c.poison := by
  simp [accessFlits]

@[simp] theorem accessFlits_regs (c : Chip) (k kind : Nat) (t : Tgt) : (accessFlits c k kind t).regs = c.regs := by
  simp [accessFlits]

@[simp] theorem accessFlits_cores (c : Chip) (k kind : Nat) (t : Tgt) : (accessFlits c k kind t).cores = c.cores := by
  simp [accessFlits]

@[simp] theorem accessFlits_pegs (c : Chip) (k kind : Nat) (t : Tgt) : (accessFlits c k kind t).pegs = c.pegs := by
  simp [accessFlits]

@[simp] theorem accessFlits_courses (c : Chip) (k kind : Nat) (t : Tgt) : (accessFlits c k kind t).courses = c.courses := by
  simp [accessFlits]

@[simp] theorem accessFlits_lut (c : Chip) (k kind : Nat) (t : Tgt) : (accessFlits c k kind t).lut = c.lut := by
  simp [accessFlits]

@[simp] theorem accessFlits_fixedUnison (c : Chip) (k kind : Nat) (t : Tgt) : (accessFlits c k kind t).fixedUnison = c.fixedUnison := by
  simp [accessFlits]

@[simp] theorem fillFlight_poison (c : Chip) (k slot : Nat) (g : Flight → Word) (trap : Nat) :
    (fillFlight c k slot g trap).poison = c.poison := by
  simp [fillFlight]

@[simp] theorem settleOwn_poison (c : Chip) (k : Nat) : (settleOwn c k).poison = c.poison := by
  simp [settleOwn]

@[simp] theorem noteAcc_cores (c : Chip) (k : Nat) (r : Acc) : (noteAcc c k r).cores = c.cores := by
  unfold noteAcc
  dsimp only
  (repeat' split) <;> simp -implicitDefEqProofs

end Sys2Proof.Machine
end

section
/-! PROOFS. Stores drain, are performed in their memory and are acknowledged (R111, R247 to R254, R258). -/

namespace Sys2Proof.Machine

open Sys2Proof Sys2Proof.Safety

/-! ### What leaves the store buffers as they stand -/

/-- Every string's store buffer stands as it stood. -/
def KeepsBuffers (c d : Chip) : Prop := ∀ j, (coreOf d j).sbuf = (coreOf c j).sbuf

theorem keepsBuffers_refl (c : Chip) : KeepsBuffers c c := fun _ => rfl

theorem keepsBuffers_trans {c d e : Chip} (h : KeepsBuffers c d) (h' : KeepsBuffers d e) : KeepsBuffers c e :=
  fun j => (h' j).trans (h j)

theorem keepsBuffers_of_cores {c d : Chip} (h : d.cores = c.cores) : KeepsBuffers c d :=
  fun j => congrArg Core.sbuf (coreOf_of_cores h j)

theorem keepsBuffers_updCore (c : Chip) (k : Nat) {f : Core → Core} (hf : ∀ r, (f r).sbuf = r.sbuf) :
    KeepsBuffers c (updCore c k f) := by
  intro j
  by_cases h : j = k
  · rw [h, coreOf_updCore_same, hf]
  · rw [coreOf_updCore_other c f h]

theorem keepsBuffers_foldl {α : Type} {f : Chip → α → Chip} (hf : ∀ c a, KeepsBuffers c (f c a)) (l : List α) (c : Chip) :
    KeepsBuffers c (l.foldl f c) :=
  foldl_related keepsBuffers_refl keepsBuffers_trans hf l c

theorem keepsBuffers_csrPut (c : Chip) (k i : Nat) (w : Word) : KeepsBuffers c (csrPut c k i w) :=
  keepsBuffers_updCore c k fun _ => rfl

theorem keepsBuffers_completeWait (c : Chip) (k : Nat) (push : List Word) : KeepsBuffers c (completeWait c k push) := by
  have hupd (d : Chip) {f : Core → Core} (hf : ∀ r, (f r).sbuf = r.sbuf) : KeepsBuffers d (updCore d k f) :=
    keepsBuffers_updCore d k hf
  unfold completeWait retire
  extract_lets drop c1 c2 left c3
  have h1 : KeepsBuffers c c1 := hupd c fun _ => rfl
  have hcount : KeepsBuffers c1 (countWord c1 k) := hupd c1 fun _ => rfl
  have h2 : KeepsBuffers c c2 := keepsBuffers_trans (keepsBuffers_trans h1 hcount) (hupd (countWord c1 k) fun _ => rfl)
  split
  · exact keepsBuffers_trans h2 (hupd c2 fun _ => rfl)
  · have h3 : KeepsBuffers c c3 := keepsBuffers_trans h2 (keepsBuffers_csrPut _ _ _ _)
    split
    · exact keepsBuffers_trans h3 (hupd c3 fun _ => rfl)
    · exact h3

theorem keepsBuffers_applyPend (c : Chip) (k : Nat) : KeepsBuffers c (applyPend c k) :=
  keepsBuffers_trans (keepsBuffers_foldl (fun c (e : Nat × Word) => keepsBuffers_csrPut c k e.1 e.2) _ c) (keepsBuffers_updCore _ k fun _ => rfl)

theorem keepsBuffers_barrierEnd (c : Chip) (k kind : Nat) : KeepsBuffers c (barrierEnd c k kind) := by
  have h1 : KeepsBuffers c (if kind = 1 then applyPend c k else c) := by
    split
    · exact keepsBuffers_applyPend c k
    · exact keepsBuffers_refl c
  unfold barrierEnd
  dsimp only
  split
  · exact h1
  · exact keepsBuffers_trans h1 (keepsBuffers_updCore _ k fun _ => rfl)

/-- A barrier that ends leaves the store buffers. -/
theorem keepsBuffers_barrierGo (c : Chip) (k : Nat) : KeepsBuffers c (barrierGo c k) := by
  unfold barrierGo barrierCheck
  split
  · split
    · split
      · exact keepsBuffers_trans (keepsBuffers_completeWait c k []) (keepsBuffers_barrierEnd _ _ _)
      · exact keepsBuffers_refl c
    · exact keepsBuffers_refl c
  · exact keepsBuffers_refl c

/-- A reservation placed changes reservations alone. -/
theorem placeResv_core (c : Chip) (k : Nat) (t : Tgt) (words j : Nat) :
    ∃ v, coreOf (placeResv c k t words) j = { coreOf c j with resv := v } := by
  have hresv (d : Chip) (i : Nat) (v : Option Resv) :
      ∃ v', coreOf (updCore d i (fun r => { r with resv := v })) j = { coreOf d j with resv := v' } := by
    by_cases hij : j = i
    · exact ⟨v, by rw [hij, coreOf_updCore_same]⟩
    · exact ⟨_, coreOf_updCore_other d _ hij⟩
  unfold placeResv
  cases t.bank with
  | none => exact ⟨_, rfl⟩
  | some b =>
    dsimp only
    generalize (bankResv c b).filter (fun j => decide (j ≠ k) && holdsIn c b j) = held
    have hdrop : ∃ v, coreOf (if resvCap t ≤ held.length then
        match held with
        | o :: rest => (updCore c o (fun r => { r with resv := none }), rest)
        | [] => (c, [])
      else (c, held)).1 j = { coreOf c j with resv := v } := by
      split
      · cases held with
        | nil => exact ⟨_, rfl⟩
        | cons o rest => exact hresv c o none
      · exact ⟨_, rfl⟩
    revert hdrop
    generalize (if resvCap t ≤ held.length then
        match held with
        | o :: rest => (updCore c o (fun r => { r with resv := none }), rest)
        | [] => (c, [])
      else (c, held)) = x
    obtain ⟨d, l⟩ := x
    rintro ⟨v, hv⟩
    obtain ⟨v', hv'⟩ := hresv { d with memResv := Tbl.put [] d.memResv b (l ++ [k]) } k (some ⟨t.ga / 8 * 8, words⟩)
    exact ⟨v', hv'.trans (congrArg (fun r : Core => { r with resv := v' }) hv)⟩

theorem keepsBuffers_placeResv (c : Chip) (k : Nat) (t : Tgt) (words : Nat) : KeepsBuffers c (placeResv c k t words) := fun j => by
  obtain ⟨v, hv⟩ := placeResv_core c k t words j
  rw [hv]

theorem keepsBuffers_settleOwn (c : Chip) (k : Nat) : KeepsBuffers c (settleOwn c k) := by
  unfold settleOwn
  extract_lets isLoad own l c1
  have h1 : KeepsBuffers c c1 := keepsBuffers_updCore c k fun _ => rfl
  refine keepsBuffers_trans h1 (keepsBuffers_foldl (fun d q => ?_) l c1)
  have hread : KeepsBuffers d (readWord d (locOf k q.addr) 3 k).1 := keepsBuffers_of_cores (readWord_cores ..)
  dsimp only
  refine keepsBuffers_trans (keepsBuffers_trans hread ?_) (keepsBuffers_updCore _ k fun _ => rfl)
  split
  · exact keepsBuffers_placeResv _ _ _ _
  · exact keepsBuffers_refl _

theorem keepsInjection_settleOwn (c : Chip) (k : Nat) : KeepsInjection c (settleOwn c k) := by
  unfold settleOwn
  extract_lets isLoad own l c1
  refine foldl_related keepsInjection_refl keepsInjection_trans (fun d q => ?_) l c1
  refine keepsInjection_trans (keepsInjection_readWord d (locOf k q.addr) 3 k) (keepsInjection_of_regs ?_)
  dsimp only
  split <;> simp [fillFlight]

/-- A write into a memory takes reservations, and nothing else of a string. -/
theorem coreOf_writeMem (c : Chip) (ga size : Nat) (v : Word) (poison : Bool) (by_ : Option Nat) (j : Nat) :
    ∃ r, coreOf (writeMem c ga size v poison by_) j = { coreOf c j with resv := r } := by
  have hword (d : Chip) (w : Word) : ∃ r, coreOf (writeWord d ga w poison by_) j = { coreOf d j with resv := r } := by
    obtain ⟨r, h⟩ := loseResv_get d.cores (ga / 4 * 4 / 8 * 8) by_ j
    exact ⟨r, (coreOf_of_cores (writeWord_cores d ga w poison by_) j).trans h⟩
  have hread : (readWord c ga 5 0).1.cores = c.cores := readWord_cores ..
  unfold writeMem
  split
  · exact hword c v
  · dsimp only
    split
    · exact ⟨_, coreOf_of_cores hread j⟩
    · obtain ⟨r, h⟩ := hword (readWord c ga 5 0).1 (mergeBytes (readWord c ga 5 0).2.1 (ga % 4) size v)
      exact ⟨r, h.trans (by rw [coreOf_of_cores hread j])⟩

/-! ### A store leaves its buffer -/

theorem ownSram_iff (k a : Nat) : ownSram k a = true ↔ ∃ o, tgtOf k a = .sram (courseNo k) o := by
  rw [ownSram, tgtOf]
  split
  · next n o h => simp [h, eq_comm]
  · next h => simpa using fun o ho => h _ o ho

/-- The place in an SRAM or a store is aligned as the address is. -/
def AlignedAs (a : Nat) : Tgt → Prop
  | .sram _ o => o % 4 = a % 4
  | .store _ o => o % 4 = a % 4
  | _ => True

theorem tgtOf_aligned (k a : Nat) : AlignedAs a (tgtOf k a) := by
  have hite {p : Prop} [Decidable p] {t u : Tgt} (ht : p → AlignedAs a t) (hu : ¬ p → AlignedAs a u) :
      AlignedAs a (if p then t else u) := iteInduction ht hu
  unfold tgtOf target
  refine hite (fun _ => hite (fun _ => hite (fun _ => rfl) fun _ => hite (fun _ => trivial) fun _ => trivial)
    fun _ => hite (fun _ => rfl) fun _ => hite (fun h => ?_) fun _ => trivial) fun _ => ?_
  · exact show (a - 0x10000) % 4 = a % 4 by omega
  · refine hite (fun _ => hite (fun _ => ?_) fun _ => trivial) fun _ => hite (fun _ => trivial) fun _ =>
      hite (fun _ => hite (fun _ => ?_) fun _ => trivial) fun _ => ?_
    · exact Nat.mod_mod_of_dvd a (by decide)
    · exact Nat.mod_mod_of_dvd a (by decide)
    · iterate 8 refine hite (fun _ => trivial) fun _ => ?_
      exact trivial
theorem locOf_own {k a : Nat} (h : ownSram k a = true) :
    locOf k a % 4 = a % 4 ∧ 0x20000000 ≤ locOf k a := by
  obtain ⟨o, ho⟩ := (ownSram_iff k a).mp h
  have hal : AlignedAs a (.sram (courseNo k) o) := ho ▸ tgtOf_aligned k a
  have hloc : locOf k a = 0x20000000 + courseNo k * 0x10000 + o := by
    rw [locOf, show target (some (courseNo k)) a = _ from ho]
    rfl
  have hal' : o % 4 = a % 4 := hal
  omega

theorem injHits_word (c : Chip) {ga : Nat} (h : 0x20000000 ≤ ga) : injHits c (ga / 4 * 4) = injHits c ga := by
  have hw : (ga / 4 * 4 - 0x20000000) / 0x10000 = (ga - 0x20000000) / 0x10000 := by omega
  have hk : clusterOfGa (ga / 4 * 4) = clusterOfGa ga := by
    rw [clusterOfGa, clusterOfGa, if_neg (by omega), if_neg (by omega), hw]
  have hs : gaIsSram (ga / 4 * 4) = gaIsSram ga := by
    rw [gaIsSram, gaIsSram, decide_eq_true (by omega), decide_eq_true h]
  rw [injHits, injHits, hk, hs, hw]

theorem xStoreDrain_some {c d : Chip} {k : Nat} (hon : courseOn c (courseNo k) = true)
    (hsafe : (courseOf c (courseNo k)).safe = false) (h : drainOne c k = some d) : xStoreDrain c k = barrierGo d k := by
  rw [xStoreDrain, if_neg (by simp [hon, hsafe]), h]

/-- A string's buffer without its oldest store. -/
def oldestGone (c : Chip) (k : Nat) (rest : List Store) : Chip := updCore c k (fun r => { r with sbuf := rest })

theorem drainOne_own {c : Chip} {k : Nat} {x : Store} {rest : List Store} (h : (coreOf c k).sbuf = x :: rest)
    (ho : ownSram k x.addr = true) (ha : ownAtomic c k = false) : drainOne c k = some (ownStore (oldestGone c k rest) k x) := by
  rw [drainOne, h]
  simp only [ho, ha, if_true, Bool.false_eq_true, if_false]
  rfl

theorem drainOne_fabric {c : Chip} {k : Nat} {x : Store} {rest : List Store} (h : (coreOf c k).sbuf = x :: rest)
    (ho : ownSram k x.addr = false) : drainOne c k =
      if 8 ≤ ((coreOf c k).bus.filter (fun q => decide (q.kind = 1) && decide (q.slot < 4))).length then none
      else some (storeReq (oldestGone c k rest) k x) := by
  rw [drainOne, h]
  simp only [ho, Bool.false_eq_true, if_false]
  rfl

theorem exec_storeDrain {s : State} {k : Nat} (hk : isCore k = true) :
    exec (.storeDrain k) s = .next { s with chip := xStoreDrain s.chip k } := by
  rw [show exec (.storeDrain k) s = onUnit (isCore k) s (fun c => xStoreDrain c k) from rfl, hk, onUnit_true]

/-- A store to the string's own SRAM. -/
theorem leaves_storeDrain_own {s : State} {k : Nat} {x : Store} {rest : List Store} (hk : isCore k = true)
    (h : (coreOf s.chip k).sbuf = x :: rest) (hon : courseOn s.chip (courseNo k) = true)
    (hsafe : (courseOf s.chip (courseNo k)).safe = false) (ho : ownSram k x.addr = true) (ha : ownAtomic s.chip k = false)
    (hs : x.size = 1 ∨ x.size = 2 ∨ x.size = 4) (hal : x.addr % x.size = 0) (hinj : injHits s.chip (locOf k x.addr) = false)
    (hp : locOf k x.addr / 4 * 4 ∉ s.chip.poison) :
    leaves (.storeDrain k) s (fun t => (coreOf t k).sbuf = rest ∧
        (∀ i, i < x.size → byteAt t (locOf k x.addr + i) = x.data.extractLsb' (8 * i) 8) ∧
        (∀ b, ¬ (locOf k x.addr ≤ b ∧ b < locOf k x.addr + x.size) → byteAt t b = byteAt s.chip b)) := by
  refine ⟨_, exec_storeDrain hk, rfl, ?_⟩
  rw [xStoreDrain_some hon hsafe (drainOne_own h ho ha)]
  obtain ⟨hmod, hge⟩ := locOf_own ho
  have hgone : (settleOwn (oldestGone s.chip k rest) k).mem = s.chip.mem := settleOwn_mem _ _
  have hinj' : injHits (settleOwn (oldestGone s.chip k rest) k) (locOf k x.addr / 4 * 4) = false := by
    rw [injHits_of_keeps (keepsInjection_settleOwn _ k), injHits_word _ hge]
    exact hinj
  have hpois : locOf k x.addr / 4 * 4 ∉ (settleOwn (oldestGone s.chip k rest) k).poison := by
    rw [settleOwn_poison]
    exact hp
  have hloc : locOf k x.addr % x.size = 0 := by
    obtain hs | hs | hs := hs <;> rw [hs] at hal ⊢ <;> omega
  obtain ⟨hin, hout⟩ := writeMem_bytes x.data (some k) hs hloc hinj' hpois
  have hmem := barrierGo_mem (ownStore (oldestGone s.chip k rest) k x) k
  refine ⟨?_, fun i hi => (byteAt_of_mem hmem _).trans (hin i hi),
    fun b hb => (byteAt_of_mem hmem b).trans ((hout b hb).trans (byteAt_of_mem hgone b))⟩
  rw [keepsBuffers_barrierGo]
  obtain ⟨r, hr⟩ := coreOf_writeMem (settleOwn (oldestGone s.chip k rest) k) (locOf k x.addr) x.size x.data false (some k) k
  calc (coreOf (ownStore (oldestGone s.chip k rest) k x) k).sbuf
      = (coreOf (settleOwn (oldestGone s.chip k rest) k) k).sbuf := by rw [ownStore, hr]
    _ = (coreOf (oldestGone s.chip k rest) k).sbuf := keepsBuffers_settleOwn _ k k
    _ = rest := congrArg Core.sbuf (coreOf_updCore_same s.chip k _)

/-- A store elsewhere, with room for it on the fabric. -/
theorem leaves_storeDrain_fabric {s : State} {k : Nat} {x : Store} {rest : List Store} (hk : isCore k = true)
    (h : (coreOf s.chip k).sbuf = x :: rest) (hon : courseOn s.chip (courseNo k) = true)
    (hsafe : (courseOf s.chip (courseNo k)).safe = false) (ho : ownSram k x.addr = false)
    (hroom : ((coreOf s.chip k).bus.filter (fun q => decide (q.kind = 1) && decide (q.slot < 4))).length < 8)
    (hw : ∀ w, (coreOf s.chip k).wait = some w → w.kind ≠ 7) :
    leaves (.storeDrain k) s (fun t =>
        coreOf t k = { coreOf s.chip k with
          sbuf := rest, bus := (coreOf s.chip k).bus ++ [⟨1, 0, x.addr, x.size, x.data, x.ipc, false, false, 0⟩] } ∧
        t.mem = s.chip.mem ∧ ∀ j, j ≠ k → coreOf t j = coreOf s.chip j) := by
  refine ⟨_, exec_storeDrain hk, rfl, ?_⟩
  have hcore : coreOf (storeReq (oldestGone s.chip k rest) k x) k = { coreOf s.chip k with
      sbuf := rest, bus := (coreOf s.chip k).bus ++ [⟨1, 0, x.addr, x.size, x.data, x.ipc, false, false, 0⟩] } := by
    rw [storeReq, coreOf_updCore_same, oldestGone, coreOf_updCore_same]
  rw [xStoreDrain_some hon hsafe ((drainOne_fabric h ho).trans (if_neg (Nat.not_le.mpr hroom))), barrierGo_idle (by rwa [hcore])]
  refine ⟨hcore, rfl, fun j hj => ?_⟩
  rw [storeReq, coreOf_updCore_other _ _ hj, oldestGone, coreOf_updCore_other _ _ hj]

/-- With eight stores unacknowledged the string's next one waits. -/
theorem storeDrain_waits {s : State} {k : Nat} {x : Store} {rest : List Store} (hk : isCore k = true)
    (h : (coreOf s.chip k).sbuf = x :: rest) (ho : ownSram k x.addr = false)
    (hfull : 8 ≤ ((coreOf s.chip k).bus.filter (fun q => decide (q.kind = 1) && decide (q.slot < 4))).length) :
    exec (.storeDrain k) s = .next s := by
  have hx : xStoreDrain s.chip k = s.chip := by
    rw [xStoreDrain, (drainOne_fabric h ho).trans (if_pos hfull)]
    split <;> rfl
  rw [exec_storeDrain hk, hx]

/-! ### A store is performed in its memory -/

section Performed

variable {c : Chip} {k b i : Nat} {q : BusReq} {pre post : List BusReq}

theorem pathHeld_of_none (h : c.stopped = []) (l : List Nat) : pathHeld c l = false := by
  simp [pathHeld, h]

theorem mayPerform_first (h : (coreOf c k).bus = pre ++ q :: post) (hi : pre.length = i) (hstop : c.stopped = [])
    (hd : q.done = false) (hpre : ∀ x ∈ pre, x.done = true) (hbank : (tgtOf k q.addr).bank = some b) :
    mayPerform c k i q = true := by
  have htake : (coreOf c k).bus.take i = pre := by rw [h, ← hi]; simp
  have hany : (pre.any fun x => !x.done && decide ((tgtOf k x.addr).unit = (tgtOf k q.addr).unit)) = false := by
    rw [List.any_eq_false]
    intro x hx
    simp [hpre x hx]
  have hheld : heldUp c k (tgtOf k q.addr) false = false := pathHeld_of_none hstop _
  rw [mayPerform, htake, hd, hany, hheld]
  cases ht : tgtOf k q.addr <;> rw [ht] at hbank <;> simp [Tgt.bank] at hbank ⊢

/-- The oldest request that has not been performed is the one its bank takes. -/
theorem bankReq_first (h : (coreOf c k).bus = pre ++ q :: post) (hi : pre.length = i) (hstop : c.stopped = [])
    (hd : q.done = false) (hpre : ∀ x ∈ pre, x.done = true) (hbank : (tgtOf k q.addr).bank = some b) :
    bankReq c b k = some (i, q) := by
  have hreqs : reqs c k = pre.zipIdx.map (fun x => (x.2, x.1)) ++ (i, q) :: (post.zipIdx (i + 1)).map (fun x => (x.2, x.1)) := by
    rw [reqs, h, List.zipIdx_append, List.zipIdx_cons, List.map_append, List.map_cons, hi, Nat.zero_add]
  rw [bankReq, hreqs, List.find?_append, List.find?_eq_none.mpr, Option.none_or]
  · rw [List.find?_cons_of_pos]
    simp [mayPerform_first h hi hstop hd hpre hbank, hbank]
  · intro x hx
    obtain ⟨y, hy, rfl⟩ := List.mem_map.mp hx
    have hdone : y.1.done = true := hpre _ (List.fst_mem_of_mem_zipIdx hy)
    simp [mayPerform, hdone]

theorem bankPort_lt (b k : Nat) : bankPort b k < 4 := by
  unfold bankPort
  split <;> split <;> omega

/-- One requester alone is the next. -/
theorem bankNext_alone (b last k : Nat) : bankNext b last [k] = some k := by
  have hp := bankPort_lt b k
  generalize hm : bankPort b k = p at hp
  have hturn : p = (last + 1) % 4 ∨ p = (last + 2) % 4 ∨ p = (last + 3) % 4 ∨ p = (last + 4) % 4 := by omega
  have hfind (i : Nat) : [k].find? (fun j => decide (bankPort b j = (last + i) % 4)) = if p = (last + i) % 4 then some k else none := by
    rw [List.find?_singleton, hm]
    simp
  rw [bankNext]
  simp only [hfind, List.filterMap_cons, List.filterMap_nil]
  by_cases h1 : p = (last + 1) % 4
  · simp only [if_pos h1, List.head?_cons]
  by_cases h2 : p = (last + 2) % 4
  · simp only [if_neg h1, if_pos h2, List.head?_cons]
  by_cases h3 : p = (last + 3) % 4
  · simp only [if_neg h1, if_neg h2, if_pos h3, List.head?_cons]
  have h4 : p = (last + 4) % 4 := by omega
  simp only [if_neg h1, if_neg h2, if_neg h3, if_pos h4, List.head?_cons]

/-- A device whose bank has taken its only requester, the flits of a store counted. -/
def takenUp (c : Chip) (k b : Nat) (q : BusReq) : Chip :=
  accessFlits { c with banks := Tbl.put {} c.banks b ⟨[k].filter (· ≠ k), bankPort b k⟩ } k q.kind (tgtOf k q.addr)

/-- What the store's memory does with it, and its answer in its place. -/
def stored (c : Chip) (k b i : Nat) (q : BusReq) : Chip :=
  let x := storeTgt (takenUp c k b q) k q.addr q.size q.data q.psn
  updCore (noteAcc x.1 k x.2) k (fun r => { r with bus := r.bus.set i { q with done := true, resp := accResp x.2 } })

theorem xMemoryAccess_store (hk : isCore k = true) (h : (coreOf c k).bus = pre ++ q :: post) (hi : pre.length = i)
    (hkind : q.kind = 1) (hslot : q.slot < 4) (hstop : c.stopped = []) (hd : q.done = false) (hpre : ∀ x ∈ pre, x.done = true)
    (hwait : (Tbl.get {} c.banks b).waiting = []) (hbank : (tgtOf k q.addr).bank = some b) :
    xMemoryAccess c b [k] = stored c k b i q := by
  have hlt : k < 514 := of_decide_eq_true hk
  have hreq := bankReq_first h hi hstop hd hpre hbank
  have hwaits : bankWaits c b [k] = [k] := by
    simp [bankWaits, hwait, List.eraseDups_cons, hreq]
    omega
  rw [xMemoryAccess, hwaits, if_neg (by simp; omega)]
  dsimp only
  rw [bankNext_alone]
  dsimp only
  rw [hreq]
  dsimp only
  rw [performReq, if_pos hkind, stored, takenUp]
  dsimp only
  generalize storeTgt _ _ _ _ _ _ = x
  exact if_neg (Nat.ne_of_lt hslot)

/-- The requests of a string after a store was performed. -/
theorem bus_set (x : BusReq) (hi : pre.length = i) : (pre ++ q :: post).set i x = pre ++ x :: post := by
  subst hi
  simp

end Performed

theorem exec_memoryAccess {s : State} {k b : Nat} (hk : isCore k = true) :
    exec (.memoryAccess b [k]) s = .next { s with chip := xMemoryAccess s.chip b [k] } := by
  rw [show exec (.memoryAccess b [k]) s = onUnit (areRequesters [k]) s (fun c => xMemoryAccess c b [k]) from rfl,
    show areRequesters [k] = true by simp [areRequesters, hk], onUnit_true]

/-- What a store leaves of a string's requests, where its memory leaves them. -/
theorem stored_bus {c : Chip} {k b i : Nat} {q : BusReq} {d : Chip} {a : Acc}
    (hst : storeTgt (takenUp c k b q) k q.addr q.size q.data q.psn = (d, a)) (hbus : (coreOf d k).bus = (coreOf c k).bus) :
    (coreOf (stored c k b i q) k).bus = (coreOf c k).bus.set i { q with done := true, resp := accResp a } ∧
      (stored c k b i q).mem = d.mem := by
  rw [stored, hst]
  exact ⟨by rw [coreOf_updCore_same, coreOf_of_cores (noteAcc_cores d k a), hbus], noteAcc_mem d k a⟩

theorem takenUp_cores (c : Chip) (k b : Nat) (q : BusReq) : (takenUp c k b q).cores = c.cores := accessFlits_cores _ _ _ _

theorem takenUp_mem (c : Chip) (k b : Nat) (q : BusReq) : (takenUp c k b q).mem = c.mem := accessFlits_mem _ _ _ _

theorem takenUp_gateOpen (c : Chip) (k b : Nat) (q : BusReq) (p : Nat) : gateOpen (takenUp c k b q) p = gateOpen c p := by
  rw [gateOpen, gateOpen, pegOf, pegOf, takenUp, accessFlits_pegs]

theorem takenUp_courseOn (c : Chip) (k b : Nat) (q : BusReq) (n : Nat) : courseOn (takenUp c k b q) n = courseOn c n := by
  rw [courseOn, courseOn, takenUp_gateOpen, takenUp, accessFlits_lut]

theorem takenUp_rejectsWrites (c : Chip) (k b : Nat) (q : BusReq) (n : Nat) :
    rejectsWrites (takenUp c k b q) n = rejectsWrites c n := by
  rw [rejectsWrites, rejectsWrites, courseOf, courseOf, takenUp, accessFlits_courses, accessFlits_fixedUnison]

theorem takenUp_injHits (c : Chip) (k b : Nat) (q : BusReq) (ga : Nat) : injHits (takenUp c k b q) ga = injHits c ga :=
  injHits_of_keeps (keepsInjection_of_regs (accessFlits_regs _ _ _ _)) ga

/-- The store of a word into a cluster store whose gate is open. -/
theorem leaves_memoryAccess_store {s : State} {k i b j o : Nat} {q : BusReq} {pre post : List BusReq} (hk : isCore k = true)
    (hbus : (coreOf s.chip k).bus = pre ++ q :: post) (hi : pre.length = i) (hkind : q.kind = 1) (hslot : q.slot < 4)
    (hstop : s.chip.stopped = []) (hd : q.done = false) (hpre : ∀ x ∈ pre, x.done = true)
    (hwait : (Tbl.get {} s.chip.banks b).waiting = []) (hsize : q.size = 4) (hpsn : q.psn = false) (hal : q.addr % 4 = 0)
    (ht : tgtOf k q.addr = .store j o) (hb : b = 300 + 2 * j + o / 0x40000) (hgate : gateOpen s.chip (2 * j + o / 0x40000) = true)
    (hinj : injHits s.chip (0x10000000 + j * 0x100000 + o) = false) :
    leaves (.memoryAccess b [k]) s (fun t =>
      (coreOf t k).bus = pre ++ { q with done := true, resp := 0 } :: post ∧
      wordAt t (0x10000000 + j * 0x100000 + o) = q.data ∧
      (∀ a, ¬ (0x10000000 + j * 0x100000 + o ≤ a ∧ a < 0x10000000 + j * 0x100000 + o + 4) →
        byteAt t a = byteAt s.chip a)) := by
  have hoff : AlignedAs q.addr (.store j o) := ht ▸ tgtOf_aligned k q.addr
  have hoff' : o % 4 = q.addr % 4 := hoff
  generalize hga : 0x10000000 + j * 0x100000 + o = ga at hinj ⊢
  have hword : ga / 4 * 4 = ga := by omega
  have hst : storeTgt (takenUp s.chip k b q) k q.addr q.size q.data q.psn =
      (writeWord (takenUp s.chip k b q) ga q.data false (some k), .good 0 false) := by
    rw [storeTgt, ht]
    dsimp only
    rw [if_pos (by rw [takenUp_gateOpen]; exact hgate), hsize, hpsn, writeMem, if_pos rfl]
    rw [← hga]
    rfl
  have hclean := (writeWord_clean q.data false (some k) (c := takenUp s.chip k b q) (ga := ga)
    (by rw [takenUp_injHits, hword]; exact hinj)).1
  rw [hword] at hclean
  have hcore : (coreOf (writeWord (takenUp s.chip k b q) ga q.data false (some k)) k).bus = (coreOf s.chip k).bus := by
    have hw : writeWord (takenUp s.chip k b q) ga q.data false (some k) =
        writeMem (takenUp s.chip k b q) ga 4 q.data false (some k) := (if_pos rfl).symm
    obtain ⟨r, hr⟩ := coreOf_writeMem (takenUp s.chip k b q) ga 4 q.data false (some k) k
    rw [hw, hr, coreOf_of_cores (takenUp_cores s.chip k b q)]
  obtain ⟨hbus', hmem⟩ := stored_bus (i := i) hst hcore
  refine ⟨_, exec_memoryAccess hk, rfl, ?_⟩
  rw [xMemoryAccess_store hk hbus hi hkind hslot hstop hd hpre hwait (by rw [ht, hb]; rfl)]
  refine ⟨?_, (wordAt_of_mem (hmem.trans hclean) ga).trans (wordAt_putWord _ _ _), fun a ha => ?_⟩
  · rw [hbus', hbus, bus_set _ hi]
    rfl
  · rw [byteAt_of_mem (hmem.trans hclean), byteAt_putWord_outside _ _ ha, byteAt_of_mem (takenUp_mem s.chip k b q)]

/-- The store into another course's SRAM that takes no writes, or that is off. -/
theorem leaves_memoryAccess_refused {s : State} {k i b n o : Nat} {q : BusReq} {pre post : List BusReq} (hk : isCore k = true)
    (hbus : (coreOf s.chip k).bus = pre ++ q :: post) (hi : pre.length = i) (hkind : q.kind = 1) (hslot : q.slot < 4)
    (hstop : s.chip.stopped = []) (hd : q.done = false) (hpre : ∀ x ∈ pre, x.done = true)
    (hwait : (Tbl.get {} s.chip.banks b).waiting = []) (ht : tgtOf k q.addr = .sram n o) (hb : b = n) {d : Chip} {a : Acc}
    (hst : storeTgt (takenUp s.chip k b q) k q.addr q.size q.data q.psn = (d, a)) (hcores : d.cores = s.chip.cores)
    (hmem : d.mem = s.chip.mem) :
    leaves (.memoryAccess b [k]) s (fun t =>
      (coreOf t k).bus = pre ++ { q with done := true, resp := accResp a } :: post ∧ t.mem = s.chip.mem) := by
  obtain ⟨hbus', hmem'⟩ := stored_bus (i := i) hst (congrArg Core.bus (coreOf_of_cores hcores k))
  refine ⟨_, exec_memoryAccess hk, rfl, ?_⟩
  rw [xMemoryAccess_store hk hbus hi hkind hslot hstop hd hpre hwait (by rw [ht, hb]; rfl)]
  exact ⟨by rw [hbus', hbus, bus_set _ hi], hmem'.trans hmem⟩

theorem storeTgt_deny {c : Chip} {k n o : Nat} {q : BusReq} (ht : tgtOf k q.addr = .sram n o) (hn : n ≠ courseNo k)
    (hon : courseOn c n = true) (hrej : rejectsWrites c n = true) : storeTgt c k q.addr q.size q.data q.psn = (c, .deny) := by
  rw [storeTgt, ht]
  dsimp only
  rw [hon, if_neg (by simp), if_pos ⟨hn, hrej⟩]

theorem storeTgt_off {c : Chip} {k n o : Nat} {q : BusReq} (ht : tgtOf k q.addr = .sram n o) (hoff : courseOn c n = false) :
    storeTgt c k q.addr q.size q.data q.psn = (countOff c (pegOfCourse n), .off) := by
  rw [storeTgt, ht]
  dsimp only
  rw [hoff, if_pos (by simp)]

/-! ### Its acknowledgement -/

/-- A string whose `i`-th request is acknowledged. -/
def acked (c : Chip) (k i : Nat) (q : BusReq) : Chip :=
  if q.resp = 0 then dropReq c k i
  else raiseTrap (dropReq c k i) k ⟨if q.resp = 2 then 0x11 else 0x10, true, 0, 0, q.ipc, q.addr, false⟩

theorem acked_core (c : Chip) (k i : Nat) (q : BusReq) : coreOf (acked c k i q) k =
    { coreOf c k with
      bus := (coreOf c k).bus.take i ++ (coreOf c k).bus.drop (i + 1),
      itraps := if q.resp = 0 then (coreOf c k).itraps
        else (coreOf c k).itraps ++ [⟨if q.resp = 2 then 0x11 else 0x10, true, 0, 0, q.ipc, q.addr, false⟩] } := by
  unfold acked
  split
  · rw [dropReq, coreOf_updCore_same]
  · rw [raiseTrap, coreOf_updCore_same, dropReq, coreOf_updCore_same]

theorem acked_mem (c : Chip) (k i : Nat) (q : BusReq) : (acked c k i q).mem = c.mem := by
  unfold acked
  split <;> rfl

theorem xStoreAck_done {c : Chip} {k i : Nat} {q : BusReq} {pre post : List BusReq}
    (hbus : (coreOf c k).bus = pre ++ q :: post) (hi : pre.length = i) (hkind : q.kind = 1) (hslot : q.slot < 4)
    (hstop : c.stopped = []) (hd : q.done = true) (hpre : ∀ x ∈ pre, x.done = false) :
    xStoreAck c k i = barrierGo (acked c k i q) k := by
  have hget : (coreOf c k).bus[i]? = some q := by
    rw [hbus, ← hi]
    simp
  have htake : (coreOf c k).bus.take i = pre := by rw [hbus, ← hi]; simp
  have hbefore : (pre.any fun x => decide (x.kind = 1) && x.done && decide ((tgtOf k x.addr).unit = (tgtOf k q.addr).unit)) = false := by
    rw [List.any_eq_false]
    intro x hx
    simp [hpre x hx]
  have hheld : heldUp c k (tgtOf k q.addr) true = false := pathHeld_of_none hstop _
  have hmay : mayPerform c k i q = false := by simp [mayPerform, hd]
  rw [xStoreAck, hget]
  dsimp only
  rw [hmay, Bool.and_false, if_neg Bool.false_ne_true, if_neg (by omega), hget]
  dsimp only
  rw [htake, hbefore, if_pos ⟨hkind, hd, rfl, hheld⟩]
  rfl

theorem leaves_storeAck {s : State} {k i : Nat} {q : BusReq} {pre post : List BusReq} (hk : isCore k = true)
    (hbus : (coreOf s.chip k).bus = pre ++ q :: post) (hi : pre.length = i) (hkind : q.kind = 1) (hslot : q.slot < 4)
    (hstop : s.chip.stopped = []) (hd : q.done = true) (hpre : ∀ x ∈ pre, x.done = false)
    (hw : ∀ w, (coreOf s.chip k).wait = some w → w.kind ≠ 7) :
    leaves (.storeAck k i) s (fun t => (coreOf t k).bus = pre ++ post ∧ t.mem = s.chip.mem ∧
        (q.resp = 0 → (coreOf t k).itraps = (coreOf s.chip k).itraps) ∧
        (q.resp = 1 → (coreOf t k).itraps = (coreOf s.chip k).itraps ++ [⟨0x10, true, 0, 0, q.ipc, q.addr, false⟩]) ∧
        (q.resp = 2 → (coreOf t k).itraps = (coreOf s.chip k).itraps ++ [⟨0x11, true, 0, 0, q.ipc, q.addr, false⟩])) := by
  refine leaves_of_onUnit (ok := isCore k) (f := fun c => xStoreAck c k i) rfl hk ?_
  have hcore := acked_core s.chip k i q
  rw [xStoreAck_done hbus hi hkind hslot hstop hd hpre, barrierGo_idle (by rw [hcore]; exact hw)]
  refine ⟨?_, acked_mem _ _ _ _, fun h => ?_, fun h => ?_, fun h => ?_⟩
  · rw [hcore, hbus, ← hi]
    simp
  all_goals rw [hcore]; simp [h]

/-- Settles O25: a store drains, is performed and is acknowledged. -/
theorem storeDrain : Obligations.StoreDrain := by
  unfold Obligations.StoreDrain
  refine ⟨fun s k x rest hk h hon hsafe => ⟨fun ho ha hs hal hinj hp => ?_, fun ho hroom hw => ?_, fun ho hfull => ?_⟩,
    fun s k i b q pre post hk hbus hi hkind hslot hstop => ⟨fun hd hpre hwait hsize hpsn hal => ⟨fun j o ht hb hgate hinj => ?_,
      fun n o ht hn hb hon hrej => ?_, fun n o ht hn hb hoff => ?_⟩, fun hd hpre hw => ?_⟩⟩
  · exact leaves_storeDrain_own hk h hon hsafe ho ha hs hal hinj hp
  · exact leaves_storeDrain_fabric hk h hon hsafe ho hroom hw
  · exact storeDrain_waits hk h ho hfull
  · exact leaves_memoryAccess_store hk hbus hi hkind hslot hstop hd hpre hwait hsize hpsn hal ht hb hgate hinj
  · exact leaves_memoryAccess_refused hk hbus hi hkind hslot hstop hd hpre hwait ht hb
      (storeTgt_deny ht hn ((takenUp_courseOn ..).trans hon) ((takenUp_rejectsWrites ..).trans hrej))
      (takenUp_cores s.chip k b q) (takenUp_mem s.chip k b q)
  · exact leaves_memoryAccess_refused hk hbus hi hkind hslot hstop hd hpre hwait ht hb
      (storeTgt_off ht ((takenUp_courseOn ..).trans hoff))
      ((countOff_cores _ _).trans (takenUp_cores s.chip k b q)) ((countOff_mem _ _).trans (takenUp_mem s.chip k b q))
  · exact leaves_storeAck hk hbus hi hkind hslot hstop hd hpre hw

end Sys2Proof.Machine
end

section
/-! PROOFS. What a load forwarded to LR leaves unchanged. -/

namespace Sys2Proof.Machine

open Sys2Proof Sys2Proof.Safety

@[simp] theorem placeResv_courses (c : Chip) (k : Nat) (t : Tgt) (words : Nat) : (placeResv c k t words).courses = c.courses := by
  unfold placeResv
  dsimp only
  (repeat' split) <;> simp

@[simp] theorem putSlot_courses (c : Chip) (k s : Nat) (w : Word) : (putSlot c k s w).courses = c.courses := by
  simp [putSlot]

@[simp] theorem putSlot_fixedUnison (c : Chip) (k s : Nat) (w : Word) : (putSlot c k s w).fixedUnison = c.fixedUnison := by
  simp [putSlot]

@[simp] theorem lrForwarded_courses (c : Chip) (k slot a : Nat) (w : Word) : (lrForwarded c k slot a w).courses = c.courses := by
  simp [lrForwarded]

@[simp] theorem lrForwarded_fixedUnison (c : Chip) (k slot a : Nat) (w : Word) : (lrForwarded c k slot a w).fixedUnison = c.fixedUnison := by
  simp [lrForwarded]

end Sys2Proof.Machine
end

section
/-! PROOFS. Loads that go over the fabric (R98, R105, R142, R180, R213). -/

namespace Sys2Proof.Machine

open Sys2Proof Sys2Proof.Safety

/-! ### Requests and results in flight through a word's end -/

/-- A request as one more word leaves it: a reservation on its way counts the words. -/
def ageReq (q : BusReq) : BusReq := if q.kind = 3 ∧ q.done = false then { q with data := q.data + 1 } else q

theorem ageReq_keeps (q : BusReq) : (ageReq q).kind = q.kind ∧ (ageReq q).slot = q.slot ∧ (ageReq q).addr = q.addr ∧
    (ageReq q).size = q.size ∧ (ageReq q).done = q.done := by
  unfold ageReq
  split <;> exact ⟨rfl, rfl, rfl, rfl, rfl⟩

theorem retire_bus (c : Chip) (k pc : Nat) : (coreOf (retire c k pc) k).bus = (coreOf c k).bus.map ageReq := by
  have hcount : (coreOf (countWord c k) k).bus = (coreOf c k).bus.map ageReq := by
    rw [countWord, coreOf_updCore_same]
    rfl
  unfold retire
  extract_lets c1 left c2
  have h1 : (coreOf c1 k).bus = (coreOf c k).bus.map ageReq := by
    rw [show c1 = updCore (countWord c k) k _ from rfl, coreOf_updCore_same]
    exact hcount
  split
  · rw [coreOf_updCore_same]
    exact h1
  · have h2 : (coreOf c2 k).bus = (coreOf c1 k).bus := by
      rw [show c2 = csrPut c1 k 0x28 left from rfl, coreOf_csrPut_same]
    split
    · rw [coreOf_updCore_same]
      exact h2.trans h1
    · exact h2.trans h1

section End

variable {c : Chip} {k : Nat} {g : Fills} {n : Nat} {res : List Word}

theorem endWord_bus (pc : Nat) (h : buffers c k ∨ (stackEnd g n res).length ≤ 8) :
    (coreOf (endWord c k g n res [] pc) k).bus = (coreOf c k).bus.map ageReq := by
  obtain ⟨e, he, hO, ⟨w, hcore⟩, -⟩ := endWord_placed c k g n res [] pc
  rw [he, retire_bus]
  congr 1
  have hplaced : (coreOf ((wordStores c k g n res []).foldl (fun c s => placeStore c k s) e) k).bus = (coreOf e k).bus := by
    rcases h with h | h
    · rw [(placeStores_split e k _ (buffers_oneCore hO h)).2]
    · rw [wordStores_nil h]
      rfl
  rw [hplaced, hcore]

/-- A word that stores nothing leaves the requests on the bus, one word older. -/
theorem finish_bus (pc : Nat) (h : buffers c k ∨ (stackEnd g n res).length ≤ 8) :
    (coreOf (finish c k g n res [] pc) k).bus = (coreOf c k).bus.map ageReq := by
  unfold finish
  dsimp only
  split
  · exact endWord_bus pc h
  · have hF := fetchAhead_only c k pc
    obtain ⟨l, hl⟩ := hF.core
    rw [endWord_bus pc (h.imp_left (fetched_buffers hF)), hl]

/-- A word that neither stores nor spills changes its core alone. -/
theorem finish_oneCore (pc : Nat) (h : (stackEnd g n res).length ≤ 8) : OneCore c (finish c k g n res [] pc) k := by
  have hquiet : (([] : List Store).isEmpty && decide ((res ++ g.stk.drop n).length ≤ 8)) = true :=
    Bool.and_eq_true_iff.mpr ⟨rfl, decide_eq_true h⟩
  rw [finish, hquiet, if_pos rfl]
  exact (endWord_core c k g n res [] pc (.inr ⟨rfl, h⟩)).1

end End

/-- A string that differs from a word's start by what it has in flight, on the bus and in its slots, and by its reservation. -/
structure Launched (d e : Chip) (k : Nat) (fl : List Flight) (bu : List BusReq) (sl : Tbl Word) : Prop where
  core : ∃ rv, coreOf e k = { coreOf d k with flights := fl, bus := bu, slots := sl, resv := rv }
  fixed : e.fixedUnison = d.fixedUnison
  memory : e.mem = d.mem

section Launched

variable {c d e : Chip} {k n pc : Nat} {g : Fills} {fl : List Flight} {bu : List BusReq} {sl : Tbl Word}

theorem launched_csrVal (h : Launched d e k fl bu sl) (i : Nat) : csrVal e k i = csrVal d k i := by
  obtain ⟨rv, hcore⟩ := h.core
  exact csrVal_congr h.fixed (by rw [hcore]) i

theorem wordDone_own (h : buffers e k ∨ (stackEnd g n []).length ≤ 8) : WordDone e (finish e k g n [] [] pc) k g n [] [] pc :=
  wordDone_finish (justFetched_refl e k) (oneCore_refl e k) ⟨_, _, _, _, _, _, rfl⟩ (fun _ _ _ => rfl)
    (h.imp_right fun h => ⟨rfl, h⟩)

/-- Where the word's end leaves the string: its stack and its next word, and what it had in flight, on the bus and in its slots. -/
theorem launched_ends (hF : JustFetched c d k) (h : Launched d e k fl bu sl) (hs : buffers e k ∨ (stackEnd g n []).length ≤ 8) :
    (coreOf (finish e k g n [] [] pc) k).stk = (stackEnd g n []).take 8 ∧ goesOn c (finish e k g n [] [] pc) k pc ∧
      (coreOf (finish e k g n [] [] pc) k).slots = sl ∧ (coreOf (finish e k g n [] [] pc) k).flights = fl ∧
      (coreOf (finish e k g n [] [] pc) k).bus = bu.map ageReq ∧ (finish e k g n [] [] pc).mem = c.mem := by
  obtain ⟨rv, hcore⟩ := h.core
  obtain ⟨l, hl⟩ := hF.core
  have hdone := wordDone_own (pc := pc) hs
  obtain ⟨⟨hslots, hflights⟩, -⟩ := finish_keeps (res := []) (stores := []) pc (hs.imp_right fun h => ⟨rfl, h⟩)
  have hbus := finish_bus (res := []) pc hs
  obtain ⟨cs, r, b, hrest⟩ := hdone.rest
  refine ⟨hdone.stack, goesOn_congr hdone.next ?_ ?_ ?_, ?_, ?_, ?_, ?_⟩
  · rw [hcore, hl]
  · rw [hcore, hl]
  · rw [launched_csrVal h, fetched_csrVal hF]
  · rw [hslots, hcore]
  · rw [hflights, hcore]
  · rw [hbus, hcore]
  · rw [hrest]
    exact h.memory.trans (fetched_mem hF)

/-- A word that only issues a request does all else as a plain word does. -/
theorem launched_wordDone (hF : JustFetched c d k) (h : Launched d e k fl bu sl) (hO : OneCore d e k)
    (hs : buffers e k ∨ (stackEnd g n []).length ≤ 8) : WordDone c (finish e k g n [] [] pc) k g n [] [] pc := by
  obtain ⟨rv, hcore⟩ := h.core
  obtain ⟨l, hl⟩ := hF.core
  have hcsr (i : Nat) : csrVal e k i = csrVal c k i := (launched_csrVal h i).trans (fetched_csrVal hF i)
  have hdone := wordDone_own (pc := pc) hs
  have hend := launched_ends (pc := pc) hF h hs
  have hmid : sptrMid e k g = sptrMid c k g := by rw [sptrMid, sptrMid, hcsr]
  have hipc : wordPc e k = wordPc c k := by rw [wordPc, wordPc, hcore, hl]
  refine ⟨hdone.stack, ?_, ?_, hend.2.1, ?_, hdone.idle, ⟨?_, ?_, ?_, ?_, ?_, ?_⟩, ?_, ?_⟩
  · rw [hdone.sptr, sptrEnd, sptrEnd, hcsr]
  · rw [hdone.sbuf, hmid, hipc, hcore, hl]
  · rw [hdone.words, hcore, hl]
  · rw [hdone.keeps.halted, hcore, hl]
  · rw [hdone.keeps.pend, hcore, hl]
  · rw [hdone.keeps.dpos, hcore, hl]
  · rw [hdone.keeps.tbhi, hcore, hl]
  · rw [hdone.keeps.itraps, hcore, hl]
  · exact fun i h0 h1 h2 h3 => (hdone.keeps.csrs i h0 h1 h2 h3).trans (hcsr i)
  · exact fun j hj => (hdone.others j hj).trans ((hO.2 j hj).trans (hF.others j hj))
  · obtain ⟨cs, r, b, hrest⟩ := hdone.rest
    obtain ⟨⟨cs', hd⟩, -⟩ := hO
    obtain ⟨cs'', r'', b'', hc⟩ := hF.rest
    exact ⟨cs, r, b, by rw [hrest, hd, hc]⟩

end Launched

/-! ### A load issued -/

/-- A string after the word that issues a request: the result in flight, the request behind its earlier ones. -/
def RequestIssued (c t : Chip) (k : Nat) (g : Fills) (op kind slot a m : Nat) (sx : Bool) : Prop :=
  (coreOf t k).stk = (stackEnd g 1 []).take 8 ∧ goesOn c t k ((coreOf c k).pc + 2) ∧
    (coreOf t k).slots = (coreOf c k).slots ∧ t.mem = c.mem ∧
    (coreOf t k).flights = (coreOf c k).flights ++ [memFlight c k op slot a m sx] ∧
    (coreOf t k).bus.length = (coreOf c k).bus.length + 1 ∧
    ∃ q, (coreOf t k).bus.getLast? = some q ∧ q.kind = kind ∧ q.slot = slot ∧ q.addr = a ∧ q.size = m ∧ q.done = false

section Issue

variable {c d e : Chip} {k op kind slot a m : Nat} {g : Fills} {sx : Bool} {data : Word}

/-- The request a load makes, as the bus takes it. -/
def loadReq (c : Chip) (k kind slot a m : Nat) (data : Word) : BusReq := ⟨kind, slot, a, m, data, wordPc c k, false, false, 0⟩

theorem issueMem_launched (hF : JustFetched c d k) :
    Launched d (issueMem d k op kind slot a m sx data) k ((coreOf c k).flights ++ [memFlight c k op slot a m sx])
      ((coreOf c k).bus ++ [loadReq c k kind slot a m data]) (coreOf c k).slots := by
  obtain ⟨l, hl⟩ := hF.core
  have hipc : wordPc d k = wordPc c k := fetched_wordPc hF
  refine ⟨⟨(coreOf c k).resv, ?_⟩, rfl, rfl⟩
  have hipc' : wordPc (addFlight d k (memFlight d k op slot a m sx)) k = wordPc c k := by
    rw [← hipc, wordPc, addFlight, coreOf_updCore_same]
    rfl
  rw [issueMem, issueReq, coreOf_updCore_same, hipc', addFlight, coreOf_updCore_same, memFlight, hipc, hl]
  rfl

theorem issueMem_oneCore (d : Chip) (k op kind slot a m : Nat) (sx : Bool) (data : Word) :
    OneCore d (issueMem d k op kind slot a m sx data) k := by
  rw [issueMem, issueReq, addFlight]
  exact oneCore_trans (oneCore_updCore d k _) (oneCore_updCore _ k _)

theorem logRead_launched {fl : List Flight} {bu : List BusReq} {sl : Tbl Word} (h : Launched d e k fl bu sl) (logged : Bool)
    (kd addr size sl' : Nat) (vals : List Word) (ready : Bool) (trap : Option ITrap) :
    Launched d (logRead e k logged kd addr size sl' vals ready trap) k fl bu sl :=
  ⟨h.core, h.fixed, h.memory⟩

/-- A word's end behind a request issued. -/
theorem requestIssued_finish (hF : JustFetched c d k)
    (h : Launched d e k ((coreOf c k).flights ++ [memFlight c k op slot a m sx])
      ((coreOf c k).bus ++ [loadReq c k kind slot a m data]) (coreOf c k).slots)
    (hs : buffers e k ∨ (stackEnd g 1 []).length ≤ 8) :
    RequestIssued c (finish e k g 1 [] [] ((coreOf c k).pc + 2)) k g op kind slot a m sx := by
  obtain ⟨hstk, hgo, hslots, hflights, hbus, hmem⟩ := launched_ends (pc := (coreOf c k).pc + 2) hF h hs
  obtain ⟨hk, hsl, haddr, hsize, hdone⟩ := ageReq_keeps (loadReq c k kind slot a m data)
  refine ⟨hstk, hgo, hslots, hmem, hflights, ?_, ageReq (loadReq c k kind slot a m data), ?_, hk, hsl, haddr, hsize, hdone⟩
  · rw [hbus]
    simp
  · rw [hbus]
    simp

end Issue

/-! ### The ways a load goes -/

section Load

variable {c d : Chip} {k code slot size : Nat} {rep : Bool} {op : CoreOp} {sg : Bool} {g : Fills} {ops : List Word}

/-- A load to an address that is not aligned. -/
theorem loadWord_misaligned (h : starts c k rep op 0 d g ops) (ha : (ops.getD 0 0).toNat % size ≠ 0) :
    loadWord c k rep op code slot size sg = trapEntry d k (preciseRec d k 0x07 false (ops.getD 0 0).toNat) := by
  have hb := begin_trap (check := fun ops => alignTrap (ops.getD 0 0).toNat size) h (if_pos ha)
  rw [loadWord, hb]

/-- A load whose slot is busy does not take place yet. -/
theorem loadWord_busy (h : starts c k rep op 0 d g ops) (ha : (ops.getD 0 0).toNat % size = 0) (hb : slotBusy c k slot = true) :
    loadWord c k rep op code slot size sg = c := by
  have hgo := begin_check (check := fun ops => alignTrap (ops.getD 0 0).toNat size) h (alignTrap_none ha)
  rw [loadWord, hgo]
  dsimp only
  rw [fetched_slotBusy (starts_fetched h), hb, if_pos rfl]

/-- How a load's word ends. -/
def loadEnd (k : Nat) (g : Fills) (c : Chip) : Chip := finish c k g 1 [] [] (nextPc c k)

/-- A load whose slot is free: LR, or a load that meets no store of the string. -/
theorem loadWord_free (h : starts c k rep op 0 d g ops) (ha : (ops.getD 0 0).toNat % size = 0) (hb : slotBusy c k slot = false) :
    loadWord c k rep op code slot size sg =
      if code = 0x23 then lrWord c d k slot (ops.getD 0 0).toNat (size + 8 * b1 sg) (loadEnd k g)
      else match forward k (pendStores c k) (ops.getD 0 0).toNat size with
      | .wait => holdLoad c k (ops.getD 0 0).toNat size
      | .val w => loadEnd k g (putSlot d k slot (if sg then sext (8 * size) w else w))
      | .mem =>
        if ownSram k (ops.getD 0 0).toNat then loadEnd k g (issueMem d k code 0 slot (ops.getD 0 0).toNat size sg 0)
        else readThrough c d k code 0 slot (ops.getD 0 0).toNat size (size + 8 * b1 sg) sg (inRegs (ops.getD 0 0).toNat)
          (decide (code = 0x25)) 0 (loadEnd k g) := by
  have hgo := begin_check (check := fun ops => alignTrap (ops.getD 0 0).toNat size) h (alignTrap_none ha)
  have hF := starts_fetched h
  rw [loadWord, hgo]
  dsimp only
  rw [fetched_slotBusy hF, hb, fetched_pendStores hF, if_neg Bool.false_ne_true]
  rfl

theorem loadEnd_eq {e : Chip} {fl : List Flight} {bu : List BusReq} {sl : Tbl Word} (hF : JustFetched c d k)
    (h : Launched d e k fl bu sl) : loadEnd k g e = finish e k g 1 [] [] ((coreOf c k).pc + 2) := by
  obtain ⟨rv, hcore⟩ := h.core
  obtain ⟨l, hl⟩ := hF.core
  rw [loadEnd, nextPc, hcore, hl]

theorem pendStores_of_split (hu : inUnison c (courseNo k) = false) : pendStores c k = (coreOf c k).sbuf := by
  rw [pendStores]
  simp [hu]

theorem holdLoad_split (a : Nat) (hu : inUnison c (courseNo k) = false) : holdLoad c k a size = c := by
  rw [holdLoad]
  simp [hu]

/-- A load that meets no store of the string and is its own to make. -/
theorem loadWord_issues (h : starts c k rep op 0 d g ops) (ha : (ops.getD 0 0).toNat % size = 0) (hb : slotBusy c k slot = false)
    (hcode : code ≠ 0x23) (hf : forward k (pendStores c k) (ops.getD 0 0).toNat size = .mem)
    (hr : ownSram k (ops.getD 0 0).toNat = true ∨
      reader d k (inRegs (ops.getD 0 0).toNat) (decide (code = 0x25)) code (ops.getD 0 0).toNat (size + 8 * b1 sg) = .self) :
    loadWord c k rep op code slot size sg =
      finish (issueMem d k code 0 slot (ops.getD 0 0).toNat size sg 0) k g 1 [] [] ((coreOf c k).pc + 2) := by
  have hend := loadEnd_eq (g := g) (starts_fetched h) (issueMem_launched (op := code) (kind := 0) (slot := slot)
    (a := (ops.getD 0 0).toNat) (m := size) (sx := sg) (data := 0) (starts_fetched h))
  rw [loadWord_free h ha hb, if_neg hcode, hf, ← hend]
  dsimp only
  by_cases ho : ownSram k (ops.getD 0 0).toNat = true
  · rw [if_pos ho]
  · rw [if_neg ho, readThrough, hr.resolve_left ho]

/-- A load of string A that is entered in the read log. -/
theorem loadWord_leads (h : starts c k rep op 0 d g ops) (ha : (ops.getD 0 0).toNat % size = 0) (hb : slotBusy c k slot = false)
    (hcode : code ≠ 0x23) (hf : forward k (pendStores c k) (ops.getD 0 0).toNat size = .mem)
    (ho : ownSram k (ops.getD 0 0).toNat = false)
    (hr : reader d k (inRegs (ops.getD 0 0).toNat) (decide (code = 0x25)) code (ops.getD 0 0).toNat (size + 8 * b1 sg) = .lead) :
    loadWord c k rep op code slot size sg =
      finish (logRead (issueMem d k code 0 slot (ops.getD 0 0).toNat size sg 0) k (inRegs (ops.getD 0 0).toNat) code
        (ops.getD 0 0).toNat (size + 8 * b1 sg) slot [] false none) k g 1 [] [] ((coreOf c k).pc + 2) := by
  have hend := loadEnd_eq (g := g) (starts_fetched h) (logRead_launched (issueMem_launched (op := code) (kind := 0) (slot := slot)
    (a := (ops.getD 0 0).toNat) (m := size) (sx := sg) (data := 0) (starts_fetched h)) (inRegs (ops.getD 0 0).toNat) code
    (ops.getD 0 0).toNat (size + 8 * b1 sg) slot [] false none)
  rw [loadWord_free h ha hb, if_neg hcode, hf, ← hend]
  dsimp only
  rw [ho, if_neg Bool.false_ne_true, readThrough, hr]

/-- A string that takes a result from the log. -/
def takesResult (d : Chip) (k code slot : Nat) (e : LogEnt) : Chip :=
  addFlight (takeB d (courseNo k)) k (givenFlight (takeB d (courseNo k)) k code slot false e.vals e.trap)

theorem takesResult_launched {e : LogEnt} (hF : JustFetched c d k) :
    Launched d (takesResult d k code slot e) k
      ((coreOf c k).flights ++ [givenFlight (takeB d (courseNo k)) k code slot false e.vals e.trap]) (coreOf c k).bus
      (coreOf c k).slots := by
  obtain ⟨l, hl⟩ := hF.core
  refine ⟨⟨(coreOf c k).resv, ?_⟩, rfl, rfl⟩
  rw [takesResult, addFlight, coreOf_updCore_same, oneCourse_coreOf (takeB_oneCourse d _), hl]

/-- A load of string B takes its result from the log. -/
theorem loadWord_given {e : LogEnt} (h : starts c k rep op 0 d g ops) (ha : (ops.getD 0 0).toNat % size = 0)
    (hb : slotBusy c k slot = false) (hcode : code ≠ 0x23) (hf : forward k (pendStores c k) (ops.getD 0 0).toNat size = .mem)
    (ho : ownSram k (ops.getD 0 0).toNat = false)
    (hr : reader d k (inRegs (ops.getD 0 0).toNat) (decide (code = 0x25)) code (ops.getD 0 0).toNat (size + 8 * b1 sg) =
      .given (takeB d (courseNo k)) e.vals e.trap) :
    loadWord c k rep op code slot size sg = finish (takesResult d k code slot e) k g 1 [] [] ((coreOf c k).pc + 2) := by
  rw [loadWord_free h ha hb, if_neg hcode, hf, ← loadEnd_eq (g := g) (starts_fetched h) (takesResult_launched (starts_fetched h))]
  dsimp only
  rw [ho, if_neg Bool.false_ne_true, readThrough, hr]
  rfl

/-- A load that meets a store in another way than one that has all its bytes does not take place yet. -/
theorem loadWord_holds (h : starts c k rep op 0 d g ops) (ha : (ops.getD 0 0).toNat % size = 0) (hb : slotBusy c k slot = false)
    (hcode : code ≠ 0x23) (hu : inUnison c (courseNo k) = false)
    (hf : forward k (pendStores c k) (ops.getD 0 0).toNat size = .wait) : loadWord c k rep op code slot size sg = c := by
  rw [loadWord_free h ha hb, if_neg hcode, hf]
  exact holdLoad_split _ hu

/-- A load whose bytes wait in one store. -/
theorem loadWord_forwarded {w : Word} (h : starts c k rep op 0 d g ops) (ha : (ops.getD 0 0).toNat % size = 0)
    (hb : slotBusy c k slot = false) (hcode : code ≠ 0x23) (hf : forward k (pendStores c k) (ops.getD 0 0).toNat size = .val w) :
    loadWord c k rep op code slot size sg = loadEnd k g (putSlot d k slot (if sg then sext (8 * size) w else w)) := by
  rw [loadWord_free h ha hb, if_neg hcode, hf]

/-! ### LR -/

theorem lrWord_issues (h : starts c k rep op 0 d g ops) (ha : (ops.getD 0 0).toNat % 4 = 0) (hb : slotBusy c k slot = false)
    (hf : forward k (pendStores c k) (ops.getD 0 0).toNat 4 = .mem)
    (hr : reader d k true true 0x23 (ops.getD 0 0).toNat 4 = .self) :
    loadWord c k rep op 0x23 slot 4 false =
      finish (issueMem d k 0x23 3 slot (ops.getD 0 0).toNat 4 false 0xFFFFFFFF) k g 1 [] [] ((coreOf c k).pc + 2) := by
  rw [loadWord_free h ha hb, if_pos rfl, lrWord, show 4 + 8 * b1 false = 4 from rfl, hr, fetched_pendStores (starts_fetched h), hf,
    ← loadEnd_eq (g := g) (starts_fetched h) (issueMem_launched (starts_fetched h))]
  rfl

theorem lrWord_leads (h : starts c k rep op 0 d g ops) (ha : (ops.getD 0 0).toNat % 4 = 0) (hb : slotBusy c k slot = false)
    (hf : forward k (pendStores c k) (ops.getD 0 0).toNat 4 = .mem)
    (hr : reader d k true true 0x23 (ops.getD 0 0).toNat 4 = .lead) :
    loadWord c k rep op 0x23 slot 4 false =
      finish (logRead (issueMem d k 0x23 3 slot (ops.getD 0 0).toNat 4 false 0xFFFFFFFF) k true 0x23 (ops.getD 0 0).toNat 4 slot []
        false none) k g 1 [] [] ((coreOf c k).pc + 2) := by
  rw [loadWord_free h ha hb, if_pos rfl, lrWord, show 4 + 8 * b1 false = 4 from rfl, hr, fetched_pendStores (starts_fetched h), hf,
    ← loadEnd_eq (g := g) (starts_fetched h) (logRead_launched (issueMem_launched (starts_fetched h)) ..)]
  rfl

theorem lrWord_given {e : LogEnt} (h : starts c k rep op 0 d g ops) (ha : (ops.getD 0 0).toNat % 4 = 0)
    (hb : slotBusy c k slot = false)
    (hr : reader d k true true 0x23 (ops.getD 0 0).toNat 4 = .given (takeB d (courseNo k)) e.vals e.trap) :
    loadWord c k rep op 0x23 slot 4 false = finish (takesResult d k 0x23 slot e) k g 1 [] [] ((coreOf c k).pc + 2) := by
  rw [loadWord_free h ha hb, if_pos rfl, lrWord, show 4 + 8 * b1 false = 4 from rfl, hr,
    ← loadEnd_eq (g := g) (starts_fetched h) (takesResult_launched (starts_fetched h))]
  rfl

theorem lrWord_holds (h : starts c k rep op 0 d g ops) (ha : (ops.getD 0 0).toNat % 4 = 0) (hb : slotBusy c k slot = false)
    (hu : inUnison c (courseNo k) = false) (hf : forward k (pendStores c k) (ops.getD 0 0).toNat 4 = .wait)
    (hr : reader d k true true 0x23 (ops.getD 0 0).toNat 4 = .self) : loadWord c k rep op 0x23 slot 4 false = c := by
  rw [loadWord_free h ha hb, if_pos rfl, lrWord, show 4 + 8 * b1 false = 4 from rfl, hr, fetched_pendStores (starts_fetched h), hf]
  exact holdLoad_split _ hu

theorem lrWord_forwarded {w : Word} (h : starts c k rep op 0 d g ops) (ha : (ops.getD 0 0).toNat % 4 = 0)
    (hb : slotBusy c k slot = false) (hf : forward k (pendStores c k) (ops.getD 0 0).toNat 4 = .val w)
    (hr : reader d k true true 0x23 (ops.getD 0 0).toNat 4 = .self) :
    loadWord c k rep op 0x23 slot 4 false = loadEnd k g (lrForwarded d k slot (ops.getD 0 0).toNat w) := by
  rw [loadWord_free h ha hb, if_pos rfl, lrWord, show 4 + 8 * b1 false = 4 from rfl, hr, fetched_pendStores (starts_fetched h), hf]
  rfl

end Load

/-! ### Bytes that wait in a store -/

theorem wd_bits_whole (v : Word) : wd (bits v 31 0) = v := by
  rw [bits, wd, Nat.pow_zero, Nat.div_one, Nat.mod_eq_of_lt v.isLt, BitVec.ofNat_toNat, BitVec.setWidth_eq]

/-- A whole word that waits in the store buffer is what a load of its address gets. -/
theorem forward_whole {k a : Nat} {v : Word} {ipc : Nat} (hreg : inRegs a = false) :
    forward k [⟨a, 4, v, ipc⟩] a 4 = .val v := by
  have hover : overlaps (locOf k a) 4 (locOf k a) 4 = true := by simp [overlaps]
  rw [forward, hreg, if_neg Bool.false_ne_true]
  simp only [List.reverse_singleton, List.find?_singleton, hover, if_true, Nat.sub_self, Nat.le_refl, and_self]
  exact congrArg Fwd.val (wd_bits_whole v)

theorem sext_whole (v : Word) : sext 32 v = v := by
  have hv := v.isLt
  apply BitVec.eq_of_toNat_eq
  rw [sext, Nat.mod_eq_of_lt hv]
  split <;> rw [wd, BitVec.toNat_ofNat] <;> omega

theorem buffers_of_courses {c d : Chip} {k : Nat} (hc : d.courses = c.courses) (hf : d.fixedUnison = c.fixedUnison) (hb : buffers c k) : buffers d k := by
  obtain ⟨hu, hdeg, hplaces⟩ := hb
  have hcourse : courseOf d (courseNo k) = courseOf c (courseNo k) := by rw [courseOf, courseOf, hc]
  exact ⟨by rwa [inUnison, hcourse, hf], by rwa [hcourse], by rwa [placesNone, hcourse]⟩

section Landed

variable {c d : Chip} {k slot : Nat} {g : Fills}

theorem putSlot_launched (hF : JustFetched c d k) (v : Word) :
    Launched d (putSlot d k slot v) k (coreOf c k).flights (coreOf c k).bus (Tbl.put 0 (coreOf c k).slots (slot % 4) v) := by
  obtain ⟨l, hl⟩ := hF.core
  refine ⟨⟨(coreOf c k).resv, ?_⟩, rfl, rfl⟩
  rw [putSlot, coreOf_updCore_same, hl]

theorem lrForwarded_launched (hF : JustFetched c d k) (a : Nat) (v : Word) :
    Launched d (lrForwarded d k slot a v) k (coreOf c k).flights (coreOf c k).bus (Tbl.put 0 (coreOf c k).slots (slot % 4) v) := by
  obtain ⟨l, hl⟩ := hF.core
  refine ⟨?_, lrForwarded_fixedUnison .., lrForwarded_mem ..⟩
  have hresv (on : Bool) (t : Tgt) :
      ∃ rv, coreOf (if on then placeResv d k t 0xFFFFFFFF else d) k = { coreOf d k with resv := rv } := by
    split
    · exact placeResv_core d k t _ k
    · exact ⟨_, rfl⟩
  obtain ⟨on, hon⟩ : ∃ on : Bool, lrForwarded d k slot a v =
      putSlot (if on then placeResv d k (target (some (courseNo k)) a) 0xFFFFFFFF else d) k slot v := ⟨_, rfl⟩
  obtain ⟨rv, hrv⟩ := hresv on (target (some (courseNo k)) a)
  refine ⟨rv, ?_⟩
  rw [hon, putSlot, coreOf_updCore_same, hrv, hl]

/-- A load whose result has landed at once. -/
def LandedAtOnce (c t : Chip) (k : Nat) (g : Fills) (slot : Nat) (v : Word) : Prop :=
  (coreOf t k).stk = (stackEnd g 1 []).take 8 ∧ goesOn c t k ((coreOf c k).pc + 2) ∧
    slotVal t k slot = v ∧ (coreOf t k).flights = (coreOf c k).flights ∧ t.mem = c.mem

theorem landedAtOnce_finish {e : Chip} {v : Word} (hslot : slot < 4) (hF : JustFetched c d k)
    (h : Launched d e k (coreOf c k).flights (coreOf c k).bus (Tbl.put 0 (coreOf c k).slots (slot % 4) v))
    (hs : buffers e k ∨ (stackEnd g 1 []).length ≤ 8) : LandedAtOnce c (loadEnd k g e) k g slot v := by
  rw [loadEnd_eq hF h]
  obtain ⟨hstk, hgo, hslots, hflights, -, hmem⟩ := launched_ends (pc := (coreOf c k).pc + 2) hF h hs
  refine ⟨hstk, hgo, ?_, hflights, hmem⟩
  rw [slotVal, hslots, Nat.mod_eq_of_lt hslot, Tbl.get_put_same]

end Landed

/-! ### What a string's read is -/

section Reads

variable {c d : Chip} {k kind addr size : Nat} {logged always : Bool}

/-- String A makes an agreed read for its course. -/
theorem reader_leads (hu : inUnison c (courseNo k) = true) (hk : k % 2 = 0) (hlog : (courseOf c (courseNo k)).log = [])
    (ha : logged = true ∨ always = true ∨ c.fixedUnison = false) : reader c k logged always kind addr size = .lead := by
  have hfixed : (c.fixedUnison && !logged && !always) = false := by
    rcases ha with h | h | h <;> simp [h]
  unfold reader
  simp [hu, isB_first hk, hlog, replayNext, hfixed]

/-- String B takes the values of the log's entry. -/
theorem reader_gives {e : LogEnt} (hu : inUnison c (courseNo k) = true) (hk : k % 2 = 1) (hnext : bNext c (courseNo k) = some e)
    (hready : e.ready = true) (hsame : matches_ e kind addr size = true)
    (ha : logged = true ∨ always = true ∨ c.fixedUnison = false) :
    reader c k logged always kind addr size = .given (takeB c (courseNo k)) e.vals e.trap := by
  have hfixed : (c.fixedUnison && !logged && !always) = false := by
    rcases ha with h | h | h <;> simp [h]
  unfold reader
  simp [hu, isB_second hk, hnext, hsame, hready, hfixed]

end Reads

/-! ### The words -/

section Words

variable {s : State} {k : Nat} {i : Instr} {rep : Bool} {op : CoreOp} {code slot size : Nat} {sg : Bool} {d : Chip} {g : Fills}
  {ops : List Word}

/-- What a word of string `k` that loads does. -/
def Loads (i : Instr) (k : Nat) (rep : Bool) (op : CoreOp) (code slot size : Nat) (sg : Bool) : Prop :=
  ∀ s : State, exec i s = onUnit (isCore k) s (fun c => loadWord c k rep op code slot size sg)

variable (hi : Loads i k rep op code slot size sg) (hk : isCore k = true) (h : starts s.chip k rep op 0 d g ops)

include hi hk

theorem exec_loads_same (hx : loadWord s.chip k rep op code slot size sg = s.chip) : exec i s = .next s := by
  rw [hi s, hk, onUnit_true, hx]

include h

theorem leaves_load_issued (ha : (ops.getD 0 0).toNat % size = 0) (hb : slotBusy s.chip k slot = false) (hcode : code ≠ 0x23)
    (hf : forward k (pendStores s.chip k) (ops.getD 0 0).toNat size = .mem)
    (hr : ownSram k (ops.getD 0 0).toNat = true ∨
      reader d k (inRegs (ops.getD 0 0).toNat) (decide (code = 0x25)) code (ops.getD 0 0).toNat (size + 8 * b1 sg) = .self)
    (hs : ownSpills s.chip k g 1 []) :
    leaves i s (fun t => RequestIssued s.chip t k g code 0 slot (ops.getD 0 0).toNat size sg ∧
      WordDone s.chip t k g 1 [] [] ((coreOf s.chip k).pc + 2)) := by
  have hF := starts_fetched h
  have hL := issueMem_launched (op := code) (kind := 0) (slot := slot) (a := (ops.getD 0 0).toNat) (m := size) (sx := sg) (data := 0) hF
  have hO : OneCore d (issueMem d k code 0 slot (ops.getD 0 0).toNat size sg 0) k :=
    issueMem_oneCore ..
  have hs' := hs.imp_left (fun hb => buffers_oneCore hO (fetched_buffers hF hb))
  refine leaves_of_onUnit (hi s) hk ?_
  rw [loadWord_issues h ha hb hcode hf hr]
  exact ⟨requestIssued_finish hF hL hs', launched_wordDone hF hL hO hs'⟩

/-- A load string A makes for its course: the request, and the log's entry. -/
def LedBy (c t : Chip) (k : Nat) (g : Fills) (op kind slot a m : Nat) (sx logged : Bool) : Prop :=
  RequestIssued c t k g op kind slot a m sx ∧ (courseOf t (courseNo k)).log =
    [⟨op, a, m + 8 * b1 sx, [], false, none, (coreOf c k).words, slot, logged && rbkOf c (courseNo k), true, false⟩]

omit hi hk in
theorem ledBy_finish {kind m : Nat} {sx logged : Bool} {data : Word} (hlog : (courseOf s.chip (courseNo k)).log = [])
    (hs : (stackEnd g 1 []).length ≤ 8) :
    LedBy s.chip (finish (logRead (issueMem d k code kind slot (ops.getD 0 0).toNat m sx data) k logged code (ops.getD 0 0).toNat
      (m + 8 * b1 sx) slot [] false none) k g 1 [] [] ((coreOf s.chip k).pc + 2)) k g code kind slot (ops.getD 0 0).toNat m sx
      logged := by
  have hF := starts_fetched h
  obtain ⟨l, hl⟩ := hF.core
  have hL := issueMem_launched (op := code) (kind := kind) (slot := slot) (a := (ops.getD 0 0).toNat) (m := m) (sx := sx)
    (data := data) hF
  refine ⟨requestIssued_finish hF (logRead_launched hL logged code _ _ slot [] false none) (.inr hs), ?_⟩
  obtain ⟨⟨cs, hcs⟩, -⟩ := finish_oneCore (c := logRead (issueMem d k code kind slot (ops.getD 0 0).toNat m sx data) k logged code
    (ops.getD 0 0).toNat (m + 8 * b1 sx) slot [] false none) (k := k) (res := []) ((coreOf s.chip k).pc + 2) hs
  have hcourse : courseOf (issueMem d k code kind slot (ops.getD 0 0).toNat m sx data) (courseNo k) =
      courseOf s.chip (courseNo k) := fetched_courseOf hF _
  obtain ⟨rv, hcore⟩ := hL.core
  have hwords : (coreOf (issueMem d k code kind slot (ops.getD 0 0).toNat m sx data) k).words = (coreOf s.chip k).words := by
    rw [hcore, hl]
  rw [hcs]
  refine (congrArg Course.log (logRead_course (by rw [hcourse, hlog]) logged code _ _ slot [] false none)).trans ?_
  rw [hwords, rbkOf, rbkOf, hcourse]

theorem leaves_load_led (ha : (ops.getD 0 0).toNat % size = 0) (hb : slotBusy s.chip k slot = false) (hcode : code ≠ 0x23)
    (hp : pendStores s.chip k = []) (ho : ownSram k (ops.getD 0 0).toNat = false)
    (hr : reader d k (inRegs (ops.getD 0 0).toNat) (decide (code = 0x25)) code (ops.getD 0 0).toNat (size + 8 * b1 sg) = .lead)
    (hlog : (courseOf s.chip (courseNo k)).log = []) (hs : (stackEnd g 1 []).length ≤ 8) :
    leaves i s (fun t => LedBy s.chip t k g code 0 slot (ops.getD 0 0).toNat size sg (inRegs (ops.getD 0 0).toNat)) := by
  refine leaves_of_onUnit (hi s) hk ?_
  rw [loadWord_leads h ha hb hcode (by rw [hp]; exact forward_none _ _) ho hr]
  exact ledBy_finish h hlog hs

/-- A load string B takes from the log. -/
def GivenBy (c t : Chip) (k : Nat) (g : Fills) (op slot : Nat) (e : LogEnt) : Prop :=
  (coreOf t k).stk = (stackEnd g 1 []).take 8 ∧ goesOn c t k ((coreOf c k).pc + 2) ∧
    (coreOf t k).bus.length = (coreOf c k).bus.length ∧ ∃ f, (coreOf t k).flights = (coreOf c k).flights ++ [f] ∧
      f.op = op ∧ f.slot = slot ∧ f.ready = true ∧ f.lo = e.vals.getD 0 0

omit hi hk in
theorem givenBy_finish {e : LogEnt} (hs : (stackEnd g 1 []).length ≤ 8) :
    GivenBy s.chip (finish (takesResult d k code slot e) k g 1 [] [] ((coreOf s.chip k).pc + 2)) k g code slot e := by
  have hF := starts_fetched h
  obtain ⟨hstk, hgo, -, hflights, hbus, -⟩ := launched_ends (pc := (coreOf s.chip k).pc + 2) hF
    (takesResult_launched (code := code) (slot := slot) (e := e) hF) (.inr hs)
  refine ⟨hstk, hgo, by rw [hbus, List.length_map], _, hflights, ?_⟩
  unfold givenFlight
  cases e.trap <;> exact ⟨rfl, rfl, rfl, rfl⟩

theorem leaves_load_given {e : LogEnt} (ha : (ops.getD 0 0).toNat % size = 0) (hb : slotBusy s.chip k slot = false)
    (hcode : code ≠ 0x23) (hp : pendStores s.chip k = []) (ho : ownSram k (ops.getD 0 0).toNat = false)
    (hr : reader d k (inRegs (ops.getD 0 0).toNat) (decide (code = 0x25)) code (ops.getD 0 0).toNat (size + 8 * b1 sg) =
      .given (takeB d (courseNo k)) e.vals e.trap) (hs : (stackEnd g 1 []).length ≤ 8) :
    leaves i s (fun t => GivenBy s.chip t k g code slot e) := by
  refine leaves_of_onUnit (hi s) hk ?_
  rw [loadWord_given h ha hb hcode (by rw [hp]; exact forward_none _ _) ho hr]
  exact givenBy_finish h hs

theorem leaves_load_misaligned (ha : (ops.getD 0 0).toNat % size ≠ 0) :
    leaves i s (fun t => t = trapEntry d k (preciseRec d k 0x07 false (ops.getD 0 0).toNat)) :=
  leaves_of_onUnit (hi s) hk (loadWord_misaligned h ha)

theorem leaves_load_landed {v : Word} {p : Nat} (hu : inUnison s.chip (courseNo k) = false) (hslot : slot < 4)
    (hsize : size = 4) (ha : (ops.getD 0 0).toNat % size = 0) (hb : slotBusy s.chip k slot = false) (hcode : code ≠ 0x23)
    (hsb : (coreOf s.chip k).sbuf = [⟨(ops.getD 0 0).toNat, 4, v, p⟩]) (hreg : inRegs (ops.getD 0 0).toNat = false)
    (hs : ownSpills s.chip k g 1 []) : leaves i s (fun t => LandedAtOnce s.chip t k g slot v) := by
  have hF := starts_fetched h
  have hf : forward k (pendStores s.chip k) (ops.getD 0 0).toNat size = .val v := by
    rw [pendStores_of_split hu, hsb, hsize]
    exact forward_whole hreg
  have hv : (if sg then sext (8 * size) v else v) = v := by
    rw [hsize, sext_whole, ite_self]
  refine leaves_of_onUnit (hi s) hk ?_
  rw [loadWord_forwarded h ha hb hcode hf, hv]
  exact landedAtOnce_finish hslot hF (putSlot_launched hF v)
    (hs.imp_left fun hb => buffers_of_courses (putSlot_courses ..) (putSlot_fixedUnison ..) (fetched_buffers hF hb))

omit hi h in
theorem leaves_lr_issued (hi : Loads i k rep op 0x23 slot 4 false) (h : starts s.chip k rep op 0 d g ops)
    (ha : (ops.getD 0 0).toNat % 4 = 0) (hb : slotBusy s.chip k slot = false)
    (hf : forward k (pendStores s.chip k) (ops.getD 0 0).toNat 4 = .mem)
    (hr : reader d k true true 0x23 (ops.getD 0 0).toNat 4 = .self) (hs : ownSpills s.chip k g 1 []) :
    leaves i s (fun t => RequestIssued s.chip t k g 0x23 3 slot (ops.getD 0 0).toNat 4 false ∧
      WordDone s.chip t k g 1 [] [] ((coreOf s.chip k).pc + 2)) := by
  have hF := starts_fetched h
  have hL := issueMem_launched (op := 0x23) (kind := 3) (slot := slot) (a := (ops.getD 0 0).toNat) (m := 4) (sx := false)
    (data := 0xFFFFFFFF) hF
  have hO := issueMem_oneCore d k 0x23 3 slot (ops.getD 0 0).toNat 4 false 0xFFFFFFFF
  have hs' := hs.imp_left (fun hb => buffers_oneCore hO (fetched_buffers hF hb))
  refine leaves_of_onUnit (hi s) hk ?_
  rw [lrWord_issues h ha hb hf hr]
  exact ⟨requestIssued_finish hF hL hs', launched_wordDone hF hL hO hs'⟩

omit hi h in
theorem leaves_lr_led (hi : Loads i k rep op 0x23 slot 4 false) (h : starts s.chip k rep op 0 d g ops)
    (ha : (ops.getD 0 0).toNat % 4 = 0) (hb : slotBusy s.chip k slot = false) (hp : pendStores s.chip k = [])
    (hr : reader d k true true 0x23 (ops.getD 0 0).toNat 4 = .lead) (hlog : (courseOf s.chip (courseNo k)).log = [])
    (hs : (stackEnd g 1 []).length ≤ 8) :
    leaves i s (fun t => LedBy s.chip t k g 0x23 3 slot (ops.getD 0 0).toNat 4 false true) := by
  refine leaves_of_onUnit (hi s) hk ?_
  rw [lrWord_leads h ha hb (by rw [hp]; exact forward_none _ _) hr]
  exact ledBy_finish h hlog hs

omit hi h in
theorem leaves_lr_given {e : LogEnt} (hi : Loads i k rep op 0x23 slot 4 false) (h : starts s.chip k rep op 0 d g ops)
    (ha : (ops.getD 0 0).toNat % 4 = 0) (hb : slotBusy s.chip k slot = false)
    (hr : reader d k true true 0x23 (ops.getD 0 0).toNat 4 = .given (takeB d (courseNo k)) e.vals e.trap)
    (hs : (stackEnd g 1 []).length ≤ 8) : leaves i s (fun t => GivenBy s.chip t k g 0x23 slot e) := by
  refine leaves_of_onUnit (hi s) hk ?_
  rw [lrWord_given h ha hb hr]
  exact givenBy_finish h hs

omit hi h in
theorem leaves_lr_landed {v : Word} {p : Nat} (hi : Loads i k rep op 0x23 slot 4 false) (h : starts s.chip k rep op 0 d g ops)
    (hu : inUnison s.chip (courseNo k) = false) (hslot : slot < 4) (ha : (ops.getD 0 0).toNat % 4 = 0)
    (hb : slotBusy s.chip k slot = false) (hsb : (coreOf s.chip k).sbuf = [⟨(ops.getD 0 0).toNat, 4, v, p⟩])
    (hreg : inRegs (ops.getD 0 0).toNat = false) (hr : reader d k true true 0x23 (ops.getD 0 0).toNat 4 = .self)
    (hs : ownSpills s.chip k g 1 []) : leaves i s (fun t => LandedAtOnce s.chip t k g slot v) := by
  have hF := starts_fetched h
  refine leaves_of_onUnit (hi s) hk ?_
  rw [lrWord_forwarded h ha hb (by rw [pendStores_of_split hu, hsb]; exact forward_whole hreg) hr]
  exact landedAtOnce_finish hslot hF (lrForwarded_launched hF _ v)
    (hs.imp_left fun hb => buffers_of_courses (lrForwarded_courses ..) (lrForwarded_fixedUnison ..) (fetched_buffers hF hb))

end Words

/-! ### LR, and the three words together -/

theorem reads_split {c d : Chip} {k kind addr size : Nat} {logged always : Bool} (hF : JustFetched c d k)
    (hu : inUnison c (courseNo k) = false) (hlog : (courseOf c (courseNo k)).log = []) :
    reader d k logged always kind addr size = .self :=
  reader_split (by rw [fetched_inUnison hF, hu]) (fun _ => by rw [fetched_courseOf hF, hlog])

theorem reads_fixed {c d : Chip} {k kind addr size : Nat} (hF : JustFetched c d k) (hu : inUnison c (courseNo k) = true)
    (hf : c.fixedUnison = true) : reader d k false false kind addr size = .self := by
  obtain ⟨cs, r, b, hr⟩ := hF.rest
  exact reader_fixed (by rw [fetched_inUnison hF, hu]) (by rw [hr, hf])

theorem reads_lead {c d : Chip} {k kind addr size : Nat} {logged always : Bool} (hF : JustFetched c d k)
    (hu : inUnison c (courseNo k) = true) (hk : k % 2 = 0) (hlog : (courseOf c (courseNo k)).log = [])
    (ha : logged = true ∨ always = true ∨ c.fixedUnison = false) : reader d k logged always kind addr size = .lead := by
  obtain ⟨cs, r, b, hr⟩ := hF.rest
  exact reader_leads (by rw [fetched_inUnison hF, hu]) hk (by rw [fetched_courseOf hF, hlog])
    (ha.imp_right (Or.imp_right fun h => by rw [hr, h]))

theorem reads_given {c d : Chip} {k kind addr size : Nat} {logged always : Bool} {e : LogEnt} (hF : JustFetched c d k)
    (hu : inUnison c (courseNo k) = true) (hk : k % 2 = 1) (hnext : bNext c (courseNo k) = some e) (hready : e.ready = true)
    (hsame : matches_ e kind addr size = true) (ha : logged = true ∨ always = true ∨ c.fixedUnison = false) :
    reader d k logged always kind addr size = .given (takeB d (courseNo k)) e.vals e.trap := by
  obtain ⟨cs, r, b, hr⟩ := hF.rest
  exact reader_gives (by rw [fetched_inUnison hF, hu]) hk (by rw [bNext, fetched_courseOf hF]; exact hnext) hready hsame
    (ha.imp_right (Or.imp_right fun h => by rw [hr, h]))

/-- In unison no spill stays with its string: nothing spills. -/
theorem ownSpills_unison {c : Chip} {k n : Nat} {g : Fills} {res : List Word} (hu : inUnison c (courseNo k) = true)
    (hs : ownSpills c k g n res) : (stackEnd g n res).length ≤ 8 :=
  hs.resolve_left fun hb => by
    have := hb.1
    rw [hu] at this
    cases this

/-- Settles O20: each of the three words, by the way its read goes. -/
theorem remoteLoads : Obligations.RemoteLoads := by
  unfold Obligations.RemoteLoads
  intro s k rep slot size sg d g ops hk r uni a n issued own lead ldr agree lr atLdr atAgree atLr
  have iLdr : Loads ldr k rep (.ldr slot size sg) 0x20 slot.toNat n sg := fun _ => rfl
  have iAgree : Loads agree k rep (.agree slot size sg) 0x25 slot.toNat n sg := fun _ => rfl
  have iLr : Loads lr k rep (.lr slot) 0x23 slot.toNat 4 false := fun _ => rfl
  have wordSize (h : size = 2) : n = 4 := by
    subst h
    rfl
  refine ⟨fun hb hs => ⟨fun hu hlog => ⟨fun hf ha => ⟨fun h => ?_, fun h => ?_⟩, fun hf ha h => ?_,
      fun hf ha => ⟨fun h => ?_, fun h => ?_⟩, fun hf ha h => ?_, fun v p hsb hreg hsize ha => ⟨fun h => ?_, fun h => ?_, fun h => ?_⟩⟩,
    fun hu hk2 hp hlog => ⟨fun h ha => ⟨fun hown => ?_, fun ho hagreed => ?_⟩, fun h ha ho => ?_, fun h ha => ?_⟩,
    fun e hu hk2 hnext hready hp => ⟨fun h ha ho hagreed hsame => ?_, fun h ha ho hsame => ?_, fun h ha hsame => ?_⟩⟩,
    fun hb => ⟨fun ha => ⟨fun h => ?_, fun h => ?_⟩, fun ha h => ?_⟩, fun ha => ⟨fun h => ?_, fun h => ?_⟩, fun ha h => ?_⟩
  · exact leaves_load_issued iLdr hk h ha hb (by decide) (by rwa [pendStores_of_split hu]) (.inr (reads_split (starts_fetched h) hu hlog)) hs
  · exact leaves_load_issued iAgree hk h ha hb (by decide) (by rwa [pendStores_of_split hu]) (.inr (reads_split (starts_fetched h) hu hlog)) hs
  · exact leaves_lr_issued hk iLr h ha hb (by rwa [pendStores_of_split hu]) (reads_split (starts_fetched h) hu hlog) hs
  · exact exec_loads_same iLdr hk (loadWord_holds h ha hb (by decide) hu (by rwa [pendStores_of_split hu]))
  · exact exec_loads_same iAgree hk (loadWord_holds h ha hb (by decide) hu (by rwa [pendStores_of_split hu]))
  · exact exec_loads_same iLr hk (lrWord_holds h ha hb hu (by rwa [pendStores_of_split hu]) (reads_split (starts_fetched h) hu hlog))
  · exact leaves_load_landed iLdr hk h hu slot.isLt (wordSize hsize) (by rwa [wordSize hsize]) hb (by decide) hsb hreg hs
  · exact leaves_load_landed iAgree hk h hu slot.isLt (wordSize hsize) (by rwa [wordSize hsize]) hb (by decide) hsb hreg hs
  · exact leaves_lr_landed hk iLr h hu slot.isLt ha hb hsb hreg (reads_split (starts_fetched h) hu hlog) hs
  · refine leaves_load_issued iLdr hk h ha hb (by decide) (by rw [hp]; exact forward_none _ _) (hown.imp_right fun hf => ?_) hs
    rw [hf.2]
    exact reads_fixed (starts_fetched h) hu hf.1
  · exact leaves_load_led iLdr hk h ha hb (by decide) hp ho
      (reads_lead (starts_fetched h) hu hk2 hlog (hagreed.elim (fun hf => .inr (.inr hf)) .inl)) hlog (ownSpills_unison hu hs)
  · exact leaves_load_led iAgree hk h ha hb (by decide) hp ho (reads_lead (starts_fetched h) hu hk2 hlog (.inr (.inl rfl))) hlog
      (ownSpills_unison hu hs)
  · exact leaves_lr_led hk iLr h ha hb hp (reads_lead (starts_fetched h) hu hk2 hlog (.inl rfl)) hlog (ownSpills_unison hu hs)
  · exact leaves_load_given iLdr hk h ha hb (by decide) hp ho (reads_given (starts_fetched h) hu hk2 hnext hready hsame
      (hagreed.elim (fun hf => .inr (.inr hf)) .inl)) (ownSpills_unison hu hs)
  · exact leaves_load_given iAgree hk h ha hb (by decide) hp ho (reads_given (starts_fetched h) hu hk2 hnext hready hsame
      (.inr (.inl rfl))) (ownSpills_unison hu hs)
  · exact leaves_lr_given hk iLr h ha hb (reads_given (starts_fetched h) hu hk2 hnext hready hsame (.inl rfl)) (ownSpills_unison hu hs)
  · exact exec_loads_same iLdr hk (loadWord_busy h ha hb)
  · exact exec_loads_same iAgree hk (loadWord_busy h ha hb)
  · exact exec_loads_same iLr hk (loadWord_busy h ha hb)
  · exact leaves_load_misaligned iLdr hk h ha
  · exact leaves_load_misaligned iAgree hk h ha
  · exact leaves_load_misaligned iLr hk h ha

end Sys2Proof.Machine
end

section
/-! PROOFS. What the stop of everything leaves unchanged. -/

namespace Sys2Proof.Machine

open Sys2Proof Sys2Proof.Safety

@[simp] theorem haltCore_sys (c : Chip) (k : Nat) : (haltCore c k).sys = c.sys := by
  simp [haltCore]

@[simp] theorem setDev_sys (c : Chip) (new : DevState) (cause : Nat) : (setDev c new cause).sys = c.sys := by
  unfold setDev
  dsimp only
  (repeat' split) <;> simp

@[simp] theorem setDev_accepted (c : Chip) (new : DevState) (cause : Nat) : (setDev c new cause).accepted = c.accepted := by
  unfold setDev
  dsimp only
  (repeat' split) <;> simp

@[simp] theorem linkDown_sys (c : Chip) (p : Nat) : (linkDown c p).sys = c.sys := by
  simp [linkDown]

@[simp] theorem drivesOff_sys (c : Chip) (p : Nat) : (drivesOff c p).sys = c.sys := by
  simp [drivesOff]

@[simp] theorem dropDrive_sys (c : Chip) (p : Nat) : (dropDrive c p).sys = c.sys := by
  simp [dropDrive]

@[simp] theorem dropAllDrives_sys (c : Chip) : (dropAllDrives c).sys = c.sys := by
  simp [dropAllDrives]

@[simp] theorem stopCourse_sys (c : Chip) (n : Nat) : (stopCourse c n).sys = c.sys := by
  simp [stopCourse]

@[simp] theorem fatalHalt_sys (c : Chip) (n : Nat) : (fatalHalt c n).sys = c.sys := by
  simp [fatalHalt]

@[simp] theorem fatalRecord_sys (c : Chip) (cause : Nat) (detail : Word) : (fatalRecord c cause detail).sys = c.sys := by
  simp [fatalRecord]

@[simp] theorem fatalRecord_accepted (c : Chip) (cause : Nat) (detail : Word) : (fatalRecord c cause detail).accepted = c.accepted := by
  simp [fatalRecord]

end Sys2Proof.Machine
end

section
/-! PROOFS. A fatal error: its record, the stop of everything, and what is owed afterwards (R27, R651 to R654). -/

namespace Sys2Proof.Machine

open Sys2Proof Sys2Proof.Safety

/-! ### Every string halts -/

theorem Tbl.get_of_absent {α : Type} (d : α) {t : Tbl α} {k : Nat} (h : k ∉ t.map Prod.fst) : Tbl.get d t k = d := by
  induction t with
  | nil => rfl
  | cons e t ih =>
    obtain ⟨i, v⟩ := e
    rw [List.map_cons, List.mem_cons, not_or] at h
    have hne : (i == k) = false := by simpa using fun hik => h.1 hik.symm
    simpa [Tbl.get, hne, Ne.symm h.1] using ih h.2

theorem liveCourses_of_running {c : Chip} {k : Nat} (hk : k < 512) (h : (coreOf c k).halted = false) : k / 2 ∈ liveCourses c := by
  have hin : k ∈ c.cores.map Prod.fst := by
    by_contra hn
    rw [coreOf, Tbl.get_of_absent _ hn] at h
    cases h
  rw [liveCourses, List.mem_eraseDups, List.mem_filter]
  exact ⟨List.mem_append_left _ (List.mem_map.mpr ⟨k, hin, rfl⟩), decide_eq_true (by omega)⟩

theorem foldl_fatalHalt_halted (l : List Nat) (c : Chip) (k : Nat) :
    (coreOf (l.foldl fatalHalt c) k).halted = (decide (k / 2 ∈ l) || (coreOf c k).halted) := by
  induction l generalizing c with
  | nil => simp
  | cons n l ih =>
    have hn : (coreOf (fatalHalt c n) k).halted = (decide (k / 2 = n) || (coreOf c k).halted) := by
      rw [fatalHalt, coreOf_updCourse, stopCourse_halted]
      by_cases h : k / 2 = n
      · have : k = 2 * n + 1 ∨ k = 2 * n := by omega
        rcases this with this | this <;> rw [decide_eq_true this] <;> simp [h]
      · have h1 : k ≠ 2 * n + 1 := by omega
        have h2 : k ≠ 2 * n := by omega
        simp [h, h1, h2]
    rw [List.foldl_cons, ih, hn]
    by_cases h : k / 2 = n <;> simp [h]

/-- A fatal error halts every string of the courses. -/
theorem fatalStop_halted (c : Chip) {k : Nat} (hk : k < 512) : (coreOf (fatalStop c) k).halted = true := by
  rw [fatalStop]
  generalize dropAllDrives (tabStop (endArm c 3)) = d
  rw [foldl_fatalHalt_halted]
  cases h : (coreOf d k).halted with
  | true => exact Bool.or_true _
  | false => rw [decide_eq_true (liveCourses_of_running hk h)]; rfl

/-! ### Every drive is cleared -/

theorem dropDrive_cleared (c : Chip) (p : Nat) : bit (regVal (dropDrive c p) (fpReg p 0)) 9 = false := by
  have hne : fpReg p 0 ≠ fpReg p 0x14 := by rw [fpReg, fpReg]; omega
  rw [dropDrive, regOr, regVal_regUpd_other _ _ hne, regClr, regVal_regUpd_same, bit_and]
  exact Bool.and_eq_false_iff.mpr (.inr rfl)

theorem dropDrive_keepsCleared (c : Chip) (p q : Nat) (h : bit (regVal c (fpReg p 0)) 9 = false) :
    bit (regVal (dropDrive c q) (fpReg p 0)) 9 = false := by
  by_cases hpq : p = q
  · rw [hpq]
    exact dropDrive_cleared c q
  · rw [keepsPort_dropDrive c q (fpReg p 0)]
    · exact h
    · rintro ⟨o, hlt, -, ho⟩
      rw [fpReg, fpReg] at ho
      omega

theorem foldl_dropDrive_cleared (l : List Nat) (c : Chip) {p : Nat} (h : p ∈ l ∨ bit (regVal c (fpReg p 0)) 9 = false) :
    bit (regVal (l.foldl dropDrive c) (fpReg p 0)) 9 = false := by
  induction l generalizing c with
  | nil => exact h.resolve_left (List.not_mem_nil)
  | cons q l ih =>
    refine ih _ ?_
    rcases h with h | h
    · rcases List.mem_cons.mp h with rfl | h
      · exact .inr (dropDrive_cleared c p)
      · exact .inl h
    · exact .inr (dropDrive_keepsCleared c p q h)

theorem fatalStop_cleared (c : Chip) {p : Nat} (hp : p < 128) : bit (regVal (fatalStop c) (fpReg p 0)) 9 = false := by
  rw [fatalStop]
  have hdrop : bit (regVal (dropAllDrives (tabStop (endArm c 3))) (fpReg p 0)) 9 = false :=
    foldl_dropDrive_cleared _ _ (.inl (List.mem_range.mpr hp))
  revert hdrop
  generalize dropAllDrives (tabStop (endArm c 3)) = d
  intro hdrop
  have hkept : OnlyRegs [0x60007028] d ((liveCourses d).foldl fatalHalt d) := keepsRegs_foldl onlyRegs_fatalHalt _ _
  rw [hkept _ (by simp [fpReg]; omega)]
  exact hdrop

/-! ### Every command that owes a completion ends -/

theorem failAccepted_accepted (c : Chip) : (failAccepted c).accepted = c.accepted.diff (c.accepted.filter (fun r => decide (r.opcode ≠ 0x08))) := by
  have hfold (l : List ReplyTo) (d : Chip) :
      (l.foldl (fun c r => complete c r stFAULT 0) d).accepted = d.accepted.diff l := by
    induction l generalizing d with
    | nil => simp
    | cons r l ih => rw [List.foldl_cons, ih, complete_accepted, List.diff_cons]
  exact hfold _ c

/-- But a DETACH. -/
theorem failAccepted_detach (c : Chip) : ∀ r ∈ (failAccepted c).accepted, r.opcode = 0x08 := by
  intro r hr
  by_contra hne
  rw [failAccepted_accepted] at hr
  have hpos := List.count_pos_iff.mpr hr
  rw [List.count_diff, List.count_filter (by simpa using hne), Nat.sub_self] at hpos
  exact absurd hpos (Nat.lt_irrefl 0)

/-! ### The error's effect -/

theorem tabStop_sys {c : Chip} (h : ∀ d, c.sys.detach = some d → d.stop = none) : (tabStop c).sys = c.sys := by
  unfold tabStop
  extract_lets n tab c1 c2
  split
  case _ d hd =>
    rw [if_neg (by rw [h d hd]; decide)]
    rfl
  · rfl

theorem fatalStop_sys {c : Chip} (h : ∀ d, c.sys.detach = some d → d.stop = none) : (fatalStop c).sys = c.sys := by
  rw [fatalStop, foldl_sys fatalHalt_sys, dropAllDrives_sys, tabStop_sys (by simpa using h), endArm_sys]

theorem failAccepted_sys (c : Chip) : (failAccepted c).sys = { c.sys with power := none, halts := [] } := by
  rw [failAccepted]
  dsimp only
  rw [foldl_sys (fun c r => complete_sys c r _ _)]

theorem failAccepted_regs (c : Chip) : (failAccepted c).regs = c.regs := by
  rw [failAccepted]
  dsimp only
  rw [foldl_regs (fun c r => complete_regs c r _ _)]

theorem faultedAt_due (c : Chip) (cause : Nat) (detail : Word) : (faultedAt c cause detail).sys.dumpDue = true := by
  rw [faultedAt]
  dsimp only
  rw [setDev_sys, fatalRecord_sys]

/-- What a first fatal error leaves, but for the bits of the dump's status. -/
structure Failed (c t : Chip) (cause : Nat) (detail : Word) : Prop where
  dev : t.dev = .faulted
  cause : regVal t 0x60008014 = wd (cause + 256 * cause)
  detail : regVal t 0x60008018 = detail
  time : regVal t 0x6000801C = wd c.tb
  due : t.sys.dumpDue = true
  power : t.sys.power = none
  accepted : ∀ r ∈ t.accepted, r.opcode = 0x08
  memory : t.mem = c.mem
  halted : ∀ k, k < 512 → (coreOf t k).halted = true
  drives : ∀ p, p < 128 → bit (regVal t (fpReg p 0)) 9 = false

theorem fatalRecord_values (c : Chip) (cause : Nat) (detail : Word) :
    regVal (fatalRecord c cause detail) 0x60008014 = wd (cause + 256 * cause) ∧
      regVal (fatalRecord c cause detail) 0x60008018 = detail ∧ regVal (fatalRecord c cause detail) 0x6000801C = wd c.tb := by
  unfold fatalRecord
  refine ⟨?_, ?_, ?_⟩ <;>
    simp only [regCount, regVal_regUpd_other, regVal_regPut_other, regVal_regPut_same, ne_eq, Nat.reduceEqDiff, not_false_eq_true]
  rfl

/-- The record of a first fatal error. -/
theorem faultedAt_values {c : Chip} (cause : Nat) (detail : Word) (hdev : c.dev ≠ .faulted) :
    regVal (faultedAt c cause detail) 0x60008014 = wd (cause + 256 * cause) ∧
      regVal (faultedAt c cause detail) 0x60008018 = detail ∧ regVal (faultedAt c cause detail) 0x6000801C = wd c.tb := by
  generalize hd : ({ c with sys := { c.sys with dumpState := devCode c.dev, second := false, dumpDue := true } } : Chip) = d
  have hdevd : d.dev = c.dev := by rw [← hd]
  have htb : d.tb = c.tb := by rw [← hd]
  obtain ⟨h1, h2, h3⟩ := fatalRecord_values d cause detail
  have hkept (a : Nat) (ha : a ∈ [0x60008014, 0x60008018, 0x6000801C]) :
      regVal (faultedAt c cause detail) a = regVal (fatalRecord d cause detail) a := by
    rw [← hd]
    refine setDev_regs _ .faulted cause a ?_
    rintro (h | ⟨h, -⟩)
    · simp only [List.mem_cons, List.not_mem_nil, or_false] at h ha
      omega
    · rw [fatalRecord_dev] at h
      exact hdev h
  exact ⟨(hkept _ (by decide)).trans h1, (hkept _ (by decide)).trans h2, (hkept _ (by decide)).trans (h3.trans (by rw [htb]))⟩

theorem fatal_failed {c : Chip} (cause : Nat) (detail : Word) (hs : hostStates c = true) (hh : faultHandled c = false) :
    Failed c (fatal c cause detail) cause detail := by
  have hdev : c.dev ≠ .faulted := by
    intro h
    rw [faultHandled, h] at hh
    cases hh
  obtain ⟨h1, h2, h3⟩ := faultedAt_values cause detail hdev
  have hkept (a : Nat) (hne : a ≠ 0x60008004) (ha : ¬ HaltWrites a) :
      regVal (fatal c cause detail) a = regVal (faultedAt c cause detail) a := by
    rw [fatal_first cause detail hs hh, regOr, regVal_regUpd_other _ _ hne, regClr, regVal_regUpd_other _ _ hne]
    exact fatal_halts c cause detail a ha
  have hrec (a : Nat) (ha : a ∈ [0x60008014, 0x60008018, 0x6000801C]) :
      regVal (fatal c cause detail) a = regVal (faultedAt c cause detail) a := by
    refine hkept a ?_ ?_
    · simp only [List.mem_cons, List.not_mem_nil, or_false] at ha
      omega
    · rintro (h | ⟨p, o, hlt, -, h⟩)
      · simp only [List.mem_cons, List.not_mem_nil, or_false] at h ha
        omega
      · simp only [List.mem_cons, List.not_mem_nil, or_false] at ha
        rw [fpReg] at h
        omega
  refine ⟨fatal_dev_faulted cause detail hs hh, (hrec _ (by decide)).trans h1, (hrec _ (by decide)).trans h2,
    (hrec _ (by decide)).trans h3, ?_, ?_, ?_, fatal_mem c cause detail, fun k hk => ?_, fun p hp => ?_⟩
  all_goals rw [fatal_first cause detail hs hh]
  · rw [regOr_sys, regClr_sys, failAccepted_sys, fatalStop_sys (faultedAt_noStop c cause detail)]
    exact faultedAt_due c cause detail
  · rw [regOr_sys, regClr_sys, failAccepted_sys]
  · rw [regOr_accepted, regClr_accepted]
    exact failAccepted_detach _
  · rw [coreOf_of_cores (regOr_cores ..), coreOf_of_cores (regClr_cores ..), coreOf_of_cores (failAccepted_cores _)]
    exact fatalStop_halted _ hk
  · have hne : fpReg p 0 ≠ 0x60008004 := by rw [fpReg]; omega
    rw [regOr, regVal_regUpd_other _ _ hne, regClr, regVal_regUpd_other _ _ hne, regVal_of_regs (failAccepted_regs _)]
    exact fatalStop_cleared _ hp

end Sys2Proof.Machine
end

section
/-! PROOFS. The dump of a fatal error, its copy in flash and the erase of the other slot (R653, R658 to R664). -/

namespace Sys2Proof.Machine

open Sys2Proof Sys2Proof.Safety

/-! ### A run of bytes in memory -/

theorem putBytes_append (c : Chip) (a : Nat) (l m : List Byte) :
    putBytes c a (l ++ m) = putBytes (putBytes c a l) (a + l.length) m := by
  induction l generalizing c a with
  | nil => rfl
  | cons b l ih => rw [List.cons_append, putBytes, ih, putBytes, List.length_cons, Nat.add_assoc, Nat.add_comm 1]

theorem byteAt_putBytes_outside {c : Chip} {a x : Nat} (l : List Byte) (h : ¬ (a ≤ x ∧ x < a + l.length)) :
    byteAt (putBytes c a l) x = byteAt c x := by
  induction l generalizing c a with
  | nil => rfl
  | cons b l ih =>
    rw [List.length_cons] at h
    have hne : x ≠ a := fun hxa => h (by omega)
    rw [putBytes, ih (fun hin => h (by omega))]
    exact byteAt_putByte_other c _ hne

theorem leNat_putBytes_outside {c : Chip} {a x n : Nat} (l : List Byte) (h : x + n ≤ a) :
    leNat (putBytes c a l) x n = leNat c x n := by
  induction n generalizing x with
  | zero => rfl
  | succ n ih => rw [leNat, leNat, ih (by omega), byteAt_putBytes_outside l (by omega)]

theorem putBytes_leBytes (c : Chip) (a n v : Nat) : putBytes c a (leBytes n v) = putLe c a n v := by
  induction n generalizing c a v with
  | zero => rfl
  | succ n ih => rw [leBytes, putBytes, ih, putLe]

theorem leBytes_length (n v : Nat) : (leBytes n v).length = n := by
  induction n generalizing v with
  | zero => rfl
  | succ n ih => rw [leBytes, List.length_cons, ih]

/-- A number written among other bytes is the number read back. -/
theorem leNat_putBytes (c : Chip) (a n v : Nat) (pre post : List Byte) :
    leNat (putBytes c a (pre ++ (leBytes n v ++ post))) (a + pre.length) n = v % 256 ^ n := by
  rw [putBytes_append, putBytes_append, leNat_putBytes_outside _ (by rw [leBytes_length]), putBytes_leBytes, leNat_putLe]

theorem bytesAt_putBytes (c : Chip) (a : Nat) (l : List Byte) : bytesAt (putBytes c a l) a l.length = l := by
  induction l generalizing c a with
  | nil => rfl
  | cons b l ih =>
    rw [putBytes, List.length_cons, bytesAt, ih, byteAt_putBytes_outside l (by omega), byteAt_putByte_same]

theorem bytesAt_length (c : Chip) (a n : Nat) : (bytesAt c a n).length = n := by
  induction n generalizing a with
  | zero => rfl
  | succ n ih => rw [bytesAt, List.length_cons, ih]

/-! ### What the dump is made of -/

/-- Nothing changes but the count of open values. -/
def FreeOnly (c d : Chip) : Prop := ∃ f, d = { c with free := f }

theorem freeOnly_refl (c : Chip) : FreeOnly c c := ⟨c.free, rfl⟩

theorem freeOnly_trans {c d e : Chip} (h : FreeOnly c d) (h' : FreeOnly d e) : FreeOnly c e := by
  obtain ⟨f, rfl⟩ := h
  obtain ⟨f', rfl⟩ := h'
  exact ⟨f', rfl⟩

theorem freeOnly_foldl {α β : Type} {f : Chip × β → α → Chip × β} (hf : ∀ x a, FreeOnly x.1 (f x a).1) (l : List α)
    (x : Chip × β) : FreeOnly x.1 (l.foldl f x).1 := by
  induction l generalizing x with
  | nil => exact freeOnly_refl x.1
  | cons a l ih => exact freeOnly_trans (hf x a) (ih (f x a))

theorem freeOnly_peekReg (c : Chip) (a : Nat) : FreeOnly c (peekReg c a).1 := ⟨(regRead c a).1.free, rfl⟩

theorem freeOnly_peekRegs (c : Chip) (a n : Nat) : FreeOnly c (peekRegs c a n).1 := by
  unfold peekRegs
  generalize List.range n = l
  refine freeOnly_foldl (fun x i => ?_) l (c, [])
  exact freeOnly_peekReg x.1 (a + 4 * i)

theorem freeOnly_peekBlocks (c : Chip) (l : List Nat) (n : Nat) : FreeOnly c (peekBlocks c l n).1 := by
  unfold peekBlocks
  refine freeOnly_foldl (fun x a => ?_) l (c, [])
  exact freeOnly_peekRegs x.1 a n

theorem freeOnly_secLuthier (c : Chip) : FreeOnly c (secLuthier c).1 := by
  unfold secLuthier
  generalize List.range 256 = l
  refine freeOnly_foldl (fun x _ => ?_) l (c, [])
  exact ⟨x.1.free + 1, rfl⟩

theorem freeOnly_secEvent (c : Chip) : FreeOnly c (secEvent c).1 := by
  have h := freeOnly_peekRegs c 0x60007000 32
  unfold secEvent
  revert h
  generalize peekRegs c 0x60007000 32 = x
  exact id

theorem freeOnly_secTab (c : Chip) : FreeOnly c (secTab c).1 := by
  have h := freeOnly_peekRegs c 0x60005000 80
  unfold secTab
  revert h
  generalize peekRegs c 0x60005000 80 = x
  exact id

theorem freeOnly_step {c d e : Chip} {α : Type} {x : Chip × α} {a : α} (h : FreeOnly c d) (hx : FreeOnly d x.1) (he : x = (e, a)) :
    FreeOnly c e := by
  rw [he] at hx
  exact freeOnly_trans h hx

/-- The sections are read without effect. -/
theorem freeOnly_sections (c : Chip) : FreeOnly c (sections c).1 := by
  unfold sections
  split
  next c1 _ h =>
  have hf := freeOnly_step (freeOnly_refl c) (freeOnly_secEvent c) h
  split
  next c2 _ h =>
  have hf := freeOnly_step hf (freeOnly_secTab c1) h
  split
  next c3 _ h =>
  have hf := freeOnly_step hf (freeOnly_peekBlocks c2 _ 8) h
  split
  next c4 _ h =>
  have hf := freeOnly_step hf (freeOnly_peekBlocks c3 _ 16) h
  split
  next c5 _ h =>
  have hf := freeOnly_step hf (freeOnly_peekBlocks c4 _ 64) h
  split
  next c6 _ h =>
  have hf := freeOnly_step hf (freeOnly_secLuthier c5) h
  split
  next c7 _ h =>
  have hf := freeOnly_step hf (freeOnly_peekRegs c6 _ 64) h
  split
  next c8 _ h =>
  exact freeOnly_step hf (freeOnly_peekRegs c7 _ 32) h

/-! ### The dump written -/

theorem prefix_extend {α : Type} {l m n : List α} (h : l <+: m) : l <+: m ++ n := h.trans (List.prefix_append m n)

/-- What a device with a dump in its area holds. -/
structure Dumped (c t : Chip) : Prop where
  owed : t.sys.dumpDue = false
  count : t.sys.dumpSeq = c.sys.dumpSeq + 1
  number : regVal t 0x6000800C = wd c.sys.dumpSeq
  valid : bits (regVal t 0x60008004) 1 0 = 1
  copies : bit (regVal t 0x60008004) 2 = bit (regVal c 0x60008000) 8
  mark : leNat t (dumpArea c).1 4 = 0x504D5544
  place : leNat t ((dumpArea c).1 + 0x0C) 4 = c.sys.dumpSeq % 2 ^ 32
  cores : t.cores = c.cores
  courses : t.courses = c.courses

/-- A device with the registers of a dump in its area. -/
def dumpPlaced (c : Chip) (st : Word) (len : Nat) : Chip :=
  { regPut (regPut (regPut c (rRET 0x004) st) (rRET 0x008) (wd len)) (rRET 0x00C) (wd c.sys.dumpSeq) with
    sys := { c.sys with dumpDue := false, dumped := true, dumpSeq := c.sys.dumpSeq + 1 } }

/-- The first five fields of a dump's header. -/
def dumpStart (len seq : Nat) : List Byte :=
  leBytes 4 0x504D5544 ++ leBytes 2 1 ++ leBytes 2 256 ++ leBytes 4 len ++ leBytes 4 seq

theorem xDumpWritten_placed {c : Chip} (hdue : c.sys.dumpDue = true) (hrem : c.sys.removal = none) (hdet : c.sys.detach = none) :
    ∃ f bytes st len, dumpStart len c.sys.dumpSeq <+: bytes ∧
      xDumpWritten c = dumpPlaced (putBytes { c with free := f } (dumpArea c).1 bytes)
        (setBits st 2 0 (1 + 4 * b1 (bit (regVal c 0x60008000) 8))) len := by
  unfold xDumpWritten
  extract_lets busy
  have hbusy : busy = false := by simp [busy, hrem]
  rw [if_neg (by simp [hdue, hbusy])]
  split
  next d secs h =>
  obtain ⟨f, hf⟩ := freeOnly_step (freeOnly_refl c) (freeOnly_sections c) h
  have hregs : d.regs = c.regs := by rw [hf]
  have hsys : d.sys = c.sys := by rw [hf]
  have harea : dumpArea d = dumpArea c := by rw [dumpArea, dumpArea, regFld, regFld, regFld, regFld, regVal_of_regs hregs]
  split
  next ga size hda =>
  have hga : (dumpArea c).1 = ga := by rw [← harea, hda]
  split
  next dir body len trunc hl =>
  extract_lets cause absent flags dirW head c1 st flash st' c2 sys c3
  have hpre : dumpStart len c.sys.dumpSeq <+: head ++ bytesOfWord (crc32 head) ++ body := by
    clear_value cause flags absent dirW
    iterate 2 refine prefix_extend ?_
    simp only [head]
    iterate 11 refine prefix_extend ?_
    rw [hsys]
    exact List.prefix_rfl
  have hc1 : c1 = putBytes { c with free := f } (dumpArea c).1 (head ++ bytesOfWord (crc32 head) ++ body) := by
    rw [hga, ← hf]
  obtain ⟨m, hm⟩ := putBytes_only { c with free := f } (dumpArea c).1 (head ++ bytesOfWord (crc32 head) ++ body)
  have hregs1 : c1.regs = c.regs := by rw [hc1, hm]
  have hsys1 : c1.sys = c.sys := by rw [hc1, hm]
  clear_value c1
  have hflash : flash = bit (regVal c 0x60008000) 8 := congrArg (bit · 8) (regVal_of_regs hregs1 _)
  have hdet3 : c3.sys.detach = none := (congrArg Sys.detach hsys1).trans hdet
  refine ⟨f, _, setBits (setBits (setBits st 23 16 cause) 4 4 (b1 trunc)) 3 3 0, len, hpre, ?_⟩
  rw [hdet3, ← hc1, ← hflash]
  rfl

/-- Its registers. -/
theorem dumpPlaced_values (c : Chip) (st : Word) (len : Nat) :
    regVal (dumpPlaced c st len) 0x6000800C = wd c.sys.dumpSeq ∧ regVal (dumpPlaced c st len) 0x60008004 = st := by
  have hregs (a : Nat) : regVal (dumpPlaced c st len) a =
      regVal (regPut (regPut (regPut c (rRET 0x004) st) (rRET 0x008) (wd len)) (rRET 0x00C) (wd c.sys.dumpSeq)) a := rfl
  rw [hregs, hregs]
  exact ⟨regVal_regPut_same _ _ _, by rw [regVal_regPut_other _ _ (by decide), regVal_regPut_other _ _ (by decide)]; exact regVal_regPut_same _ _ _⟩

theorem xDumpWritten_dumped {c : Chip} (hdue : c.sys.dumpDue = true) (hrem : c.sys.removal = none) (hdet : c.sys.detach = none) :
    Dumped c (xDumpWritten c) := by
  obtain ⟨f, bytes, st, len, ⟨rest, hbytes⟩, hx⟩ := xDumpWritten_placed hdue hrem hdet
  obtain ⟨m, hm⟩ := putBytes_only { c with free := f } (dumpArea c).1 bytes
  have hmem : (xDumpWritten c).mem = (putBytes { c with free := f } (dumpArea c).1 bytes).mem := by rw [hx]; rfl
  generalize hd : putBytes { c with free := f } (dumpArea c).1 bytes = d at hx hm
  obtain ⟨hnum, hst⟩ := dumpPlaced_values d (setBits st 2 0 (1 + 4 * b1 (bit (regVal c 0x60008000) 8))) len
  rw [← hx] at hnum hst
  have hsys : (xDumpWritten c).sys = { c.sys with dumpDue := false, dumped := true, dumpSeq := c.sys.dumpSeq + 1 } := by
    rw [hx, dumpPlaced, hm]
  refine ⟨by rw [hsys], by rw [hsys], by rw [hnum, hm], ?_, ?_, ?_, ?_, by rw [hx, dumpPlaced, hm]; rfl, by rw [hx, dumpPlaced, hm]; rfl⟩
  · have hlow : bits (regVal (xDumpWritten c) 0x60008004) 1 0 = bits (regVal (xDumpWritten c) 0x60008004) 2 0 % 4 := by
      simp only [bits]
      omega
    rw [hlow, hst, bits_setBits_same _ _ (by decide) (by decide)]
    cases bit (regVal c 0x60008000) 8 <;> rfl
  · rw [hst, bit_setBits _ _ _ (by decide) (by decide)]
    cases bit (regVal c 0x60008000) 8 <;> rfl
  · rw [leNat_of_mem hmem, ← hbytes, dumpStart]
    simp only [List.append_assoc]
    exact leNat_putBytes _ _ 4 _ [] _
  · rw [leNat_of_mem hmem, ← hbytes, dumpStart, List.append_assoc]
    exact leNat_putBytes _ _ 4 _ (leBytes 4 0x504D5544 ++ leBytes 2 1 ++ leBytes 2 256 ++ leBytes 4 len) rest

/-! ### The copy in flash, and the other slot -/

/-- Flash that reads as erased takes the bytes it is programmed with. -/
theorem flashProg_erased (c : Chip) (a : Nat) (l : List Byte) (h : ∀ j, j < l.length → byteAt c (a + j) = 0xFF) :
    flashProg c a l = putBytes c a l := by
  induction l generalizing c a with
  | nil => rfl
  | cons b l ih =>
    have h0 : byteAt c a = 0xFF := h 0 (by simp)
    rw [flashProg]
    dsimp only
    rw [if_pos (.inl h0), putBytes]
    refine ih _ _ fun j hj => ?_
    rw [byteAt_putByte_other c _ (by omega), Nat.add_assoc]
    exact h (1 + j) (by rw [List.length_cons]; omega)

/-- A dump's copy recorded: whether it holds the dump, and the slot it is in. -/
def copyRecorded (c : Chip) (ok : Bool) (i : Nat) : Chip :=
  { regSetFld (regOr (regClr c (rRET 0x004) 4) (rRET 0x004) (if ok then 8 else 0x20)) (rRET 0x02C) 0 0 (1 - i) with
    sys := { c.sys with dumpErase := some (1 - i) } }

theorem copyRecorded_status (c : Chip) (i : Nat) :
    bit (regVal (copyRecorded c true i) 0x60008004) 2 = false ∧ bit (regVal (copyRecorded c true i) 0x60008004) 3 = true := by
  have hst : regVal (copyRecorded c true i) 0x60008004 = (regVal c 0x60008004 &&& ~~~ (wd 4)) ||| wd 8 := by
    have hfld (d : Chip) : regVal (regSetFld d (rRET 0x02C) 0 0 (1 - i)) 0x60008004 = regVal d 0x60008004 :=
      regVal_regUpd_other _ _ (by decide)
    rw [show regVal (copyRecorded c true i) 0x60008004 = regVal (regSetFld (regOr (regClr c (rRET 0x004) 4) (rRET 0x004) 8)
      (rRET 0x02C) 0 0 (1 - i)) 0x60008004 from rfl, hfld]
    simp [rRET, regOr, regClr]
  rw [hst, bit_or, bit_or, bit_and]
  exact ⟨Bool.or_eq_false_iff.mpr ⟨Bool.and_eq_false_iff.mpr (.inr (by decide)), by decide⟩, Bool.or_eq_true_iff.mpr (.inr (by decide))⟩

theorem copyRecorded_slot (c : Chip) (ok : Bool) {i : Nat} (hi : i < 2) : regFld (copyRecorded c ok i) 0x6000802C 0 0 = 1 - i := by
  have hfld (d : Chip) : regFld (regSetFld d 0x6000802C 0 0 (1 - i)) 0x6000802C 0 0 = 1 - i := by
    rw [regFld, regSetFld, regVal_regUpd_same, bits_setBits_same _ _ (by decide) (by decide)]
    exact Nat.mod_eq_of_lt (by omega)
  exact hfld (regOr (regClr c (rRET 0x004) 4) (rRET 0x004) (if ok then 8 else 0x20))

/-- The copy of a dump whose slot is erased. -/
theorem leaves_dumpFlashCopyDone {s : State} {n i : Nat} (hn : (regVal s.chip 0x60008008).toNat = n)
    (hi : regFld s.chip 0x6000802C 0 0 = i) (hflash : bit (regVal s.chip 0x60008004) 2 = true)
    (herase : s.chip.sys.dumpErase = none) (hsafe : (courseOf s.chip luthierCourse).safe = false)
    (hblank : ∀ j, j < n → byteAt s.chip (flashGa (dumpSlot i) + j) = 0xFF) :
    leaves .dumpFlashCopyDone s (fun t =>
      bytesAt t (flashGa (dumpSlot i)) n = bytesAt s.chip (dumpArea s.chip).1 n ∧ bit (regVal t 0x60008004) 2 = false ∧
      bit (regVal t 0x60008004) 3 = true ∧ regFld t 0x6000802C 0 0 = 1 - i ∧ t.sys.dumpErase = some (1 - i)) := by
  refine leaves_of_onChip (f := xDumpFlashCopyDone) rfl ?_
  have hlt : i < 2 := by
    rw [← hi]
    exact bits_lt _ 0 0
  have hlen := bytesAt_length s.chip (dumpArea s.chip).1 n
  generalize hl : bytesAt s.chip (dumpArea s.chip).1 n = l at hlen ⊢
  have hprog : flashProg s.chip (flashGa (dumpSlot i)) l = putBytes s.chip (flashGa (dumpSlot i)) l :=
    flashProg_erased s.chip _ l (by rwa [hlen])
  have hbytes := bytesAt_putBytes s.chip (flashGa (dumpSlot i)) l
  have hx : xDumpFlashCopyDone s.chip = copyRecorded (putBytes s.chip (flashGa (dumpSlot i)) l) true i := by
    rw [xDumpFlashCopyDone, if_neg (by simp [rRET, hflash, herase, hsafe]), show rRET 0x02C = 0x6000802C from rfl, hi,
      show rRET 0x008 = 0x60008008 from rfl, hn, hl]
    dsimp only
    rw [hprog, decide_eq_true hbytes]
    rfl
  rw [hx]
  obtain ⟨h2, h3⟩ := copyRecorded_status (putBytes s.chip (flashGa (dumpSlot i)) l) i
  rw [hlen] at hbytes
  have hmem : (copyRecorded (putBytes s.chip (flashGa (dumpSlot i)) l) true i).mem = (putBytes s.chip (flashGa (dumpSlot i)) l).mem := rfl
  exact ⟨(bytesAt_of_mem hmem _ _).trans hbytes, h2, h3, copyRecorded_slot _ _ hlt, rfl⟩

/-- A slot's bytes read as 0xFF where memory lists nothing. -/
theorem flashSlot_erased {i a : Nat} (h : flashGa (dumpSlot i) ≤ a ∧ a < flashGa (dumpSlot i + 0x100000)) : memBlank a = 0xFF := by
  refine if_pos ?_
  unfold flashGa dumpSlot at h
  split at h <;> omega

theorem leaves_dumpSlotEraseDone {s : State} {i : Nat} (h : s.chip.sys.dumpErase = some i) :
    leaves .dumpSlotEraseDone s (fun t => t.sys.dumpErase = none ∧ t.cores = s.chip.cores ∧
      ∀ a, byteAt t a = if flashGa (dumpSlot i) ≤ a ∧ a < flashGa (dumpSlot i + 0x100000) then 0xFF else byteAt s.chip a) := by
  refine leaves_of_onChip (f := xDumpSlotEraseDone) rfl ?_
  unfold xDumpSlotEraseDone
  rw [h]
  refine ⟨rfl, rfl, fun a => ?_⟩
  refine (Memory.read_clear s.chip.mem _ _ a).trans ?_
  split
  · next hin => rw [flashSlot_erased hin]
  · rfl

/-- Settles O58: a first fatal error by its record and its stop of everything, a further one by its count; the dump by its bytes. -/
theorem fatalErrors : Obligations.FatalErrors := by
  unfold Obligations.FatalErrors
  intro s c failed
  have first {cause : Nat} {detail : Word} {d t : Chip} (hmem : d.mem = c.mem) (htb : d.tb = c.tb) (h : Failed d t cause detail)
      (hcause : bits (wd (cause + 256 * cause)) 7 0 = cause) : failed cause detail t :=
    ⟨h.dev, by rw [h.cause, hcause], h.detail, by rw [h.time, htb], h.due, h.power, h.accepted, h.memory.trans hmem, h.halted, h.drives⟩
  refine ⟨fun u hu hs => ⟨fun hh => ?_, fun hh => ?_⟩, fun hon hs => ⟨fun hh => ?_, fun hdev => ?_⟩, fun hdue hrem hdet => ?_,
    fun hflash herase hsafe _ hblank => leaves_dumpFlashCopyDone rfl rfl hflash herase hsafe hblank, fun i h => leaves_dumpSlotEraseDone h⟩
  · refine leaves_of_onUnit (ok := isPowerUnit u) (f := fun c => xPegRingTimeout c u) rfl hu ?_
    rw [xPegRingTimeout, if_pos (by simpa [isPowerUnit] using hu)]
    exact first (d := { c with sys := { c.sys with gone := u :: c.sys.gone.filter (· ≠ u) } }) rfl rfl
      (fatal_failed 1 (wd u) hs hh) (by decide)
  · refine leaves_of_onUnit (ok := isPowerUnit u) (f := fun c => xPegRingTimeout c u) rfl hu ?_
    rw [xPegRingTimeout, if_pos (by simpa [isPowerUnit] using hu),
      fatal_second (c := { c with sys := { c.sys with gone := u :: c.sys.gone.filter (· ≠ u) } }) 1 (wd u) hs hh]
    exact ⟨rfl, List.mem_cons_self, rfl, ⟨rfl, rfl, rfl⟩, keepsRegs_regPut (W := (· ∈ [0x60008024])) _ _ (List.mem_singleton.mpr rfl)⟩
  · refine leaves_of_onChip (f := xRetTestForce) rfl ?_
    have hdev : ¬ (s.chip.dev = .faulted ∨ hostStates s.chip = false) := by
      rintro (h | h)
      · rw [faultHandled, show c = s.chip from rfl, h] at hh
        cases hh
      · rw [show c = s.chip from rfl, h] at hs
        cases hs
    rw [xRetTestForce, if_pos hon, retForce, if_neg hdev]
    exact first rfl rfl (fatal_failed 10 0 hs hh) (by decide)
  · refine leaves_of_onChip (f := xRetTestForce) rfl ?_
    rw [xRetTestForce, if_pos hon, retForce, if_pos (.inl hdev)]
  · refine leaves_of_onChip (f := xDumpWritten) rfl ?_
    obtain ⟨h1, h2, h3, h4, h5, h6, h7, h8, h9⟩ := xDumpWritten_dumped hdue hrem hdet
    exact ⟨h1, h2, h3, h4, h5, h6, h7, h8, h9⟩

end Sys2Proof.Machine
end

section
/-! PROOFS. Field by field: what clearing an island leaves. -/

namespace Sys2Proof.Machine

open Sys2Proof Sys2Proof.Safety

@[simp] theorem ite_pegAddr {p : Prop} [Decidable p] (c d : Chip) : (if p then c else d).sys.pegAddr = if p then c.sys.pegAddr else d.sys.pegAddr :=
  apply_ite (fun c : Chip => c.sys.pegAddr) p c d

@[simp] theorem ite_fst_pegAddr {p : Prop} [Decidable p] {α : Type} (c d : Chip × α) :
    (if p then c else d).1.sys.pegAddr = if p then c.1.sys.pegAddr else d.1.sys.pegAddr :=
  apply_ite (fun r => r.1.sys.pegAddr) p c d

@[simp] theorem foldl_pegAddr {α : Type} {f : Chip → α → Chip} (hf : ∀ c a, (f c a).sys.pegAddr = c.sys.pegAddr) (l : List α) (c : Chip) :
    (l.foldl f c).sys.pegAddr = c.sys.pegAddr := by
  induction l generalizing c with
  | nil => rfl
  | cons a l ih => exact (ih (f c a)).trans (hf c a)

theorem foldl_fst_pegAddr {α β : Type} {f : Chip × β → α → Chip × β} (hf : ∀ a x, (f a x).1.sys.pegAddr = a.1.sys.pegAddr) (l : List α)
    (a : Chip × β) : (l.foldl f a).1.sys.pegAddr = a.1.sys.pegAddr := by
  induction l generalizing a with
  | nil => rfl
  | cons x l ih => exact (ih (f a x)).trans (hf a x)

@[simp] theorem fresh_islands (c : Chip) : (fresh c).1.islands = c.islands := by
  simp [fresh]

@[simp] theorem fresh_sys (c : Chip) : (fresh c).1.sys = c.sys := by
  simp [fresh]

@[simp] theorem pulse_lut (c : Chip) (s : Nat) : (pulse c s).lut = c.lut := by
  simp [pulse]

@[simp] theorem noteCorrected_islands (c : Chip) (ga : Nat) : (noteCorrected c ga).islands = c.islands := by
  simp -implicitDefEqProofs [noteCorrected]

@[simp] theorem noteCorrected_sys (c : Chip) (ga : Nat) : (noteCorrected c ga).sys = c.sys := by
  simp -implicitDefEqProofs [noteCorrected]

@[simp] theorem noteUncorrectable_islands (c : Chip) (ga src core : Nat) : (noteUncorrectable c ga src core).islands = c.islands := by
  simp [noteUncorrectable]

@[simp] theorem noteUncorrectable_sys (c : Chip) (ga src core : Nat) : (noteUncorrectable c ga src core).sys = c.sys := by
  simp [noteUncorrectable]

@[simp] theorem readWord_islands (c : Chip) (ga src core : Nat) : (readWord c ga src core).1.islands = c.islands := by
  simp [readWord]

@[simp] theorem readWord_sys (c : Chip) (ga src core : Nat) : (readWord c ga src core).1.sys = c.sys := by
  simp [readWord]

@[simp] theorem touchGranule_islands (c : Chip) (ga : Nat) (by_ : Option Nat) : (touchGranule c ga by_).islands = c.islands := by
  simp [touchGranule]

@[simp] theorem touchGranule_sys (c : Chip) (ga : Nat) (by_ : Option Nat) : (touchGranule c ga by_).sys = c.sys := by
  simp [touchGranule]

@[simp] theorem writeWord_islands (c : Chip) (ga : Nat) (w : Word) (poison : Bool) (by_ : Option Nat) : (writeWord c ga w poison by_).islands = c.islands := by
  obtain ⟨_, _, _, _, _, h⟩ := writeWord_only c ga w poison by_
  rw [h]

@[simp] theorem writeWord_sys (c : Chip) (ga : Nat) (w : Word) (poison : Bool) (by_ : Option Nat) : (writeWord c ga w poison by_).sys = c.sys := by
  obtain ⟨_, _, _, _, _, h⟩ := writeWord_only c ga w poison by_
  rw [h]

@[simp] theorem writeMem_islands (c : Chip) (ga : Nat) (size : Nat) (v : Word) (poison : Bool) (by_ : Option Nat) : (writeMem c ga size v poison by_).islands = c.islands := by
  obtain ⟨_, _, _, _, _, h⟩ := writeMem_only c ga size v poison by_
  rw [h]

@[simp] theorem writeMem_sys (c : Chip) (ga : Nat) (size : Nat) (v : Word) (poison : Bool) (by_ : Option Nat) : (writeMem c ga size v poison by_).sys = c.sys := by
  obtain ⟨_, _, _, _, _, h⟩ := writeMem_only c ga size v poison by_
  rw [h]

@[simp] theorem placeResv_islands (c : Chip) (k : Nat) (t : Tgt) (words : Nat) : (placeResv c k t words).islands = c.islands := by
  unfold placeResv
  dsimp only
  (repeat' split) <;> simp

@[simp] theorem placeResv_sys (c : Chip) (k : Nat) (t : Tgt) (words : Nat) : (placeResv c k t words).sys = c.sys := by
  unfold placeResv
  dsimp only
  (repeat' split) <;> simp

@[simp] theorem countOff_islands (c : Chip) (p : Nat) : (countOff c p).islands = c.islands := by
  simp [countOff]

@[simp] theorem countOff_sys (c : Chip) (p : Nat) : (countOff c p).sys = c.sys := by
  simp [countOff]

@[simp] theorem csrPut_islands (c : Chip) (k i : Nat) (w : Word) : (csrPut c k i w).islands = c.islands := by
  simp [csrPut]

@[simp] theorem csrPut_sys (c : Chip) (k i : Nat) (w : Word) : (csrPut c k i w).sys = c.sys := by
  simp [csrPut]

@[simp] theorem offMet_islands (c : Chip) (k p : Nat) : (offMet c k p).islands = c.islands := by
  simp [offMet]

@[simp] theorem offMet_sys (c : Chip) (k p : Nat) : (offMet c k p).sys = c.sys := by
  simp [offMet]

@[simp] theorem countWord_islands (c : Chip) (k : Nat) : (countWord c k).islands = c.islands := by
  simp [countWord]

@[simp] theorem countWord_sys (c : Chip) (k : Nat) : (countWord c k).sys = c.sys := by
  simp [countWord]

@[simp] theorem retire_islands (c : Chip) (k pc : Nat) : (retire c k pc).islands = c.islands := by
  unfold retire
  dsimp only
  split <;> simp

@[simp] theorem retire_sys (c : Chip) (k pc : Nat) : (retire c k pc).sys = c.sys := by
  unfold retire
  dsimp only
  split <;> simp

@[simp] theorem completeWait_islands (c : Chip) (k : Nat) (push : List Word) : (completeWait c k push).islands = c.islands := by
  simp [completeWait]

@[simp] theorem completeWait_sys (c : Chip) (k : Nat) (push : List Word) : (completeWait c k push).sys = c.sys := by
  simp [completeWait]

@[simp] theorem raiseTrap_islands (c : Chip) (k : Nat) (t : ITrap) : (raiseTrap c k t).islands = c.islands := by
  simp [raiseTrap]

@[simp] theorem raiseTrap_sys (c : Chip) (k : Nat) (t : ITrap) : (raiseTrap c k t).sys = c.sys := by
  simp [raiseTrap]

@[simp] theorem withdrawWait_islands (c : Chip) (k : Nat) : (withdrawWait c k).islands = c.islands := by
  unfold withdrawWait
  split <;> simp

@[simp] theorem dropResv_islands (c : Chip) (k : Nat) : (dropResv c k).islands = c.islands := by
  simp [dropResv]

@[simp] theorem haltCore_islands (c : Chip) (k : Nat) : (haltCore c k).islands = c.islands := by
  simp [haltCore]

@[simp] theorem chPushRaw_islands (c : Chip) (s : Nat) (w : Word) (p : Bool) : (chPushRaw c s w p).islands = c.islands := by
  simp [chPushRaw]

@[simp] theorem chPushRaw_sys (c : Chip) (s : Nat) (w : Word) (p : Bool) : (chPushRaw c s w p).sys = c.sys := by
  simp [chPushRaw]

@[simp] theorem chPopRaw_islands (c : Chip) (s : Nat) : (chPopRaw c s).1.islands = c.islands := by
  unfold chPopRaw
  dsimp only
  (repeat' split) <;> simp

@[simp] theorem chPopRaw_sys (c : Chip) (s : Nat) : (chPopRaw c s).1.sys = c.sys := by
  unfold chPopRaw
  dsimp only
  (repeat' split) <;> simp

@[simp] theorem moveWord_islands (c : Chip) (src dst : Nat) : (moveWord c src dst).islands = c.islands := by
  obtain ⟨_, h⟩ := putWord_only c dst (wordAt c src)
  simp [moveWord, h]

@[simp] theorem moveWord_sys (c : Chip) (src dst : Nat) : (moveWord c src dst).sys = c.sys := by
  obtain ⟨_, h⟩ := putWord_only c dst (wordAt c src)
  simp [moveWord, h]

@[simp] theorem chCut_islands (c : Chip) (s rem n : Nat) : (chCut c s rem n).islands = c.islands := by
  simp [chCut, -List.foldl_reverse]

@[simp] theorem chCut_sys (c : Chip) (s rem n : Nat) : (chCut c s rem n).sys = c.sys := by
  simp [chCut, -List.foldl_reverse]

@[simp] theorem chCutTail_islands (c : Chip) (s n : Nat) : (chCutTail c s n).islands = c.islands := by
  simp [chCutTail]

@[simp] theorem chCutTail_sys (c : Chip) (s n : Nat) : (chCutTail c s n).sys = c.sys := by
  simp [chCutTail]

@[simp] theorem chRelease_islands (c : Chip) (s room n : Nat) : (chRelease c s room n).islands = c.islands := by
  induction n generalizing c with
  | zero => simp [chRelease]
  | succ n ih =>
    simp only [chRelease]
    refine iteInduction (motive := fun d : Chip => d.islands = c.islands) (fun _ => rfl) (fun _ => ?_)
    split
    · refine iteInduction (motive := fun d : Chip => d.islands = c.islands) (fun _ => ?_) (fun _ => rfl)
      simp [ih]
    · rfl

@[simp] theorem chRelease_sys (c : Chip) (s room n : Nat) : (chRelease c s room n).sys = c.sys := by
  induction n generalizing c with
  | zero => simp [chRelease]
  | succ n ih =>
    simp only [chRelease]
    refine iteInduction (motive := fun d : Chip => d.sys = c.sys) (fun _ => rfl) (fun _ => ?_)
    split
    · refine iteInduction (motive := fun d : Chip => d.sys = c.sys) (fun _ => ?_) (fun _ => rfl)
      simp [ih]
    · rfl

@[simp] theorem chPushRecord_islands (c : Chip) (s : Nat) (data : List QWord) (tag : Nat) : (chPushRecord c s data tag).1.islands = c.islands := by
  unfold chPushRecord
  (repeat' split) <;> simp

@[simp] theorem chPushRecord_sys (c : Chip) (s : Nat) (data : List QWord) (tag : Nat) : (chPushRecord c s data tag).1.sys = c.sys := by
  unfold chPushRecord
  (repeat' split) <;> simp

@[simp] theorem chTake_islands (c : Chip) (s : Nat) : (chTake c s).1.islands = c.islands := by
  simp [chTake]

@[simp] theorem chTake_sys (c : Chip) (s : Nat) : (chTake c s).1.sys = c.sys := by
  simp [chTake]

@[simp] theorem chTakeN_islands (c : Chip) (s n : Nat) : (chTakeN c s n).1.islands = c.islands := by
  induction n generalizing c with
  | zero => rfl
  | succ n ih => exact (ih _).trans (chTake_islands c s)

@[simp] theorem chTakeN_sys (c : Chip) (s n : Nat) : (chTakeN c s n).1.sys = c.sys := by
  induction n generalizing c with
  | zero => rfl
  | succ n ih => exact (ih _).trans (chTake_sys c s)

@[simp] theorem chMet_islands (c : Chip) (s k : Nat) : (chMet c s k).islands = c.islands := by
  unfold chMet
  split <;> simp

@[simp] theorem chMet_sys (c : Chip) (s k : Nat) : (chMet c s k).sys = c.sys := by
  unfold chMet
  split <;> simp

@[simp] theorem sendBroken_islands (c : Chip) (s k : Nat) : (sendBroken c s k).islands = c.islands := by
  simp [sendBroken]

@[simp] theorem sendBroken_sys (c : Chip) (s k : Nat) : (sendBroken c s k).sys = c.sys := by
  simp [sendBroken]

@[simp] theorem recvBroken_islands (c : Chip) (s k : Nat) : (recvBroken c s k).islands = c.islands := by
  simp [recvBroken]

@[simp] theorem recvBroken_sys (c : Chip) (s k : Nat) : (recvBroken c s k).sys = c.sys := by
  simp [recvBroken]

@[simp] theorem logWait_islands (c : Chip) (k kind hd : Nat) (vals : List Word) (trap : Option ITrap) :
    (logWait c k kind hd vals trap).islands = c.islands := by
  simp [logWait]

@[simp] theorem logWait_sys (c : Chip) (k kind hd : Nat) (vals : List Word) (trap : Option ITrap) :
    (logWait c k kind hd vals trap).sys = c.sys := by
  simp [logWait]

@[simp] theorem loseChannels_islands (c : Chip) (p : Nat) : (loseChannels c p).islands = c.islands := by
  unfold loseChannels
  apply foldl_islands
  intro d a
  rfl

@[simp] theorem loseChannels_sys (c : Chip) (p : Nat) : (loseChannels c p).sys = c.sys := by
  unfold loseChannels
  apply foldl_sys
  intro d a
  rfl

@[simp] theorem flushChannel_islands (c : Chip) (s held recs : Nat) : (flushChannel c s held recs).1.islands = c.islands := by
  simp [flushChannel]

@[simp] theorem flushChannel_sys (c : Chip) (s held recs : Nat) : (flushChannel c s held recs).1.sys = c.sys := by
  simp [flushChannel]

@[simp] theorem msixRequest_islands (c : Chip) (v : Nat) : (msixRequest c v).islands = c.islands := by
  simp [msixRequest]

@[simp] theorem msixRequest_sys (c : Chip) (v : Nat) : (msixRequest c v).sys = c.sys := by
  simp [msixRequest]

@[simp] theorem hostDeliver_islands (c : Chip) (s : Nat) : (hostDeliver c s).islands = c.islands := by
  simp [hostDeliver]

@[simp] theorem hostDeliver_sys (c : Chip) (s : Nat) : (hostDeliver c s).sys = c.sys := by
  simp [hostDeliver]

@[simp] theorem becomePending_islands (c : Chip) (s : Nat) : (becomePending c s).islands = c.islands := by
  simp [becomePending]

@[simp] theorem becomePending_sys (c : Chip) (s : Nat) : (becomePending c s).sys = c.sys := by
  simp [becomePending]

@[simp] theorem becomeIdle_islands (c : Chip) (s : Nat) : (becomeIdle c s).islands = c.islands := by
  simp [becomeIdle]

@[simp] theorem becomeIdle_sys (c : Chip) (s : Nat) : (becomeIdle c s).sys = c.sys := by
  simp [becomeIdle]

@[simp] theorem completeSrc_islands (c : Chip) (s : Nat) : (completeSrc c s).islands = c.islands := by
  simp [completeSrc]

@[simp] theorem completeSrc_sys (c : Chip) (s : Nat) : (completeSrc c s).sys = c.sys := by
  simp [completeSrc]

@[simp] theorem completeHeld_islands (c : Chip) (e : Nat) : (completeHeld c e).islands = c.islands := by
  simp [completeHeld]

@[simp] theorem completeHeld_sys (c : Chip) (e : Nat) : (completeHeld c e).sys = c.sys := by
  simp [completeHeld]

@[simp] theorem recheckAll_islands (c : Chip) : (recheckAll c).islands = c.islands := by
  simp [recheckAll]

@[simp] theorem recheckAll_sys (c : Chip) : (recheckAll c).sys = c.sys := by
  simp [recheckAll]

@[simp] theorem updStream_islands (c : Chip) (p k : Nat) (f : Stream → Stream) : (updStream c p k f).islands = c.islands := by
  simp [updStream]

@[simp] theorem updStream_sys (c : Chip) (p k : Nat) (f : Stream → Stream) : (updStream c p k f).sys = c.sys := by
  simp [updStream]

@[simp] theorem noteDone_islands (c : Chip) (lane job : Nat) : (noteDone c lane job).islands = c.islands := by
  simp [noteDone]

@[simp] theorem noteDone_sys (c : Chip) (lane job : Nat) : (noteDone c lane job).sys = c.sys := by
  simp [noteDone]

@[simp] theorem popWords_islands (c : Chip) (s n : Nat) : (popWords c s n).1.islands = c.islands := by
  induction n generalizing c with
  | zero => rfl
  | succ n ih => exact (ih _).trans (chPopRaw_islands c s)

@[simp] theorem popWords_sys (c : Chip) (s n : Nat) : (popWords c s n).1.sys = c.sys := by
  induction n generalizing c with
  | zero => rfl
  | succ n ih => exact (ih _).trans (chPopRaw_sys c s)

@[simp] theorem takeGap_islands (c : Chip) (s : Nat) : (takeGap c s).1.islands = c.islands := by
  simp [takeGap]

@[simp] theorem takeGap_sys (c : Chip) (s : Nat) : (takeGap c s).1.sys = c.sys := by
  simp [takeGap]

@[simp] theorem releaseFrame_islands (c : Chip) (p k s : Nat) : (releaseFrame c p k s).islands = c.islands := by
  unfold releaseFrame
  split <;> simp

@[simp] theorem releaseFrame_sys (c : Chip) (p k s : Nat) : (releaseFrame c p k s).sys = c.sys := by
  unfold releaseFrame
  split <;> simp

@[simp] theorem takeBank_islands (c : Chip) (p k s : Nat) : (takeBank c p k s).islands = c.islands := by
  unfold takeBank
  split <;> simp

@[simp] theorem takeBank_sys (c : Chip) (p k s : Nat) : (takeBank c p k s).sys = c.sys := by
  unfold takeBank
  split <;> simp

@[simp] theorem takeBanks_islands (c : Chip) (p k s n : Nat) : (takeBanks c p k s n).islands = c.islands := by
  induction n generalizing c with
  | zero => rfl
  | succ n ih =>
    rw [takeBanks]
    split
    · rfl
    · split
      · rfl
      · exact (ih _).trans (takeBank_islands c p k s)

@[simp] theorem takeBanks_sys (c : Chip) (p k s n : Nat) : (takeBanks c p k s n).sys = c.sys := by
  induction n generalizing c with
  | zero => rfl
  | succ n ih =>
    rw [takeBanks]
    split
    · rfl
    · split
      · rfl
      · exact (ih _).trans (takeBank_sys c p k s)

@[simp] theorem closeBank_islands (c : Chip) (p s : Nat) (slot : Option Nat) (lane job : Nat) :
    (closeBank c p s slot lane job).1.islands = c.islands := by
  unfold closeBank
  split <;> simp

@[simp] theorem closeBank_sys (c : Chip) (p s : Nat) (slot : Option Nat) (lane job : Nat) :
    (closeBank c p s slot lane job).1.sys = c.sys := by
  unfold closeBank
  split <;> simp

@[simp] theorem setDev_islands (c : Chip) (new : DevState) (cause : Nat) : (setDev c new cause).islands = c.islands := by
  unfold setDev
  dsimp only
  (repeat' split) <;> simp

@[simp] theorem setDev_lut (c : Chip) (new : DevState) (cause : Nat) : (setDev c new cause).lut = c.lut := by
  unfold setDev
  dsimp only
  (repeat' split) <;> simp

@[simp] theorem setBank_islands (c : Chip) (b n : Nat) : (setBank c b n).islands = c.islands := by
  simp [setBank]

@[simp] theorem dropShadows_islands (c : Chip) (mask : Nat) : (dropShadows c mask).islands = c.islands := by
  unfold dropShadows
  apply foldl_islands
  intro d a
  rfl

@[simp] theorem endArm_islands (c : Chip) (detail : Nat) : (endArm c detail).islands = c.islands := by
  unfold endArm
  split <;> simp

@[simp] theorem drainStart_pegAddr (c : Chip) (d : Detach) : (drainStart c d).sys.pegAddr = c.sys.pegAddr := by
  simp [drainStart]

@[simp] theorem drainStart_islands (c : Chip) (d : Detach) : (drainStart c d).islands = c.islands := by
  simp [drainStart]

@[simp] theorem tabStop_pegAddr (c : Chip) : (tabStop c).sys.pegAddr = c.sys.pegAddr := by
  unfold tabStop
  dsimp only
  (repeat' split) <;> simp

@[simp] theorem tabStop_islands (c : Chip) : (tabStop c).islands = c.islands := by
  unfold tabStop
  dsimp only
  (repeat' split) <;> simp

@[simp] theorem enterHalted_pegAddr (c : Chip) (cause : Nat) : (enterHalted c cause).sys.pegAddr = c.sys.pegAddr := by
  simp [enterHalted]

@[simp] theorem enterHalted_islands (c : Chip) (cause : Nat) : (enterHalted c cause).islands = c.islands := by
  simp [enterHalted]

@[simp] theorem linkDown_islands (c : Chip) (p : Nat) : (linkDown c p).islands = c.islands := by
  simp [linkDown]

@[simp] theorem drivesOff_islands (c : Chip) (p : Nat) : (drivesOff c p).islands = c.islands := by
  simp [drivesOff]

@[simp] theorem dropDrive_islands (c : Chip) (p : Nat) : (dropDrive c p).islands = c.islands := by
  simp [dropDrive]

@[simp] theorem dropAllDrives_islands (c : Chip) : (dropAllDrives c).islands = c.islands := by
  simp [dropAllDrives]

@[simp] theorem returnPlace_islands (c : Chip) (p : Pair) : (returnPlace c p).islands = c.islands := by
  unfold returnPlace
  (repeat' split) <;> simp

@[simp] theorem discardPairs_islands (c : Chip) (n : Nat) : (discardPairs c n).islands = c.islands := by
  simp [discardPairs]

@[simp] theorem stopCourse_islands (c : Chip) (n : Nat) : (stopCourse c n).islands = c.islands := by
  simp [stopCourse]

@[simp] theorem fatalHalt_islands (c : Chip) (n : Nat) : (fatalHalt c n).islands = c.islands := by
  simp [fatalHalt]

@[simp] theorem fatalStop_pegAddr (c : Chip) : (fatalStop c).sys.pegAddr = c.sys.pegAddr := by
  simp [fatalStop]

@[simp] theorem fatalStop_islands (c : Chip) : (fatalStop c).islands = c.islands := by
  simp [fatalStop]

@[simp] theorem failAccepted_pegAddr (c : Chip) : (failAccepted c).sys.pegAddr = c.sys.pegAddr := by
  simp [failAccepted]

@[simp] theorem failAccepted_islands (c : Chip) : (failAccepted c).islands = c.islands := by
  simp [failAccepted]

@[simp] theorem fatalRecord_islands (c : Chip) (cause : Nat) (detail : Word) : (fatalRecord c cause detail).islands = c.islands := by
  simp [fatalRecord]

@[simp] theorem fatal_pegAddr (c : Chip) (cause : Nat) (detail : Word) : (fatal c cause detail).sys.pegAddr = c.sys.pegAddr := by
  unfold fatal
  dsimp only
  (repeat' split) <;> simp -implicitDefEqProofs

@[simp] theorem fatal_islands (c : Chip) (cause : Nat) (detail : Word) : (fatal c cause detail).islands = c.islands := by
  simp -implicitDefEqProofs [fatal]

@[simp] theorem endHand_islands (c : Chip) (n : Nat) : (endHand c n).islands = c.islands := by
  unfold endHand
  split <;> simp

@[simp] theorem endHand_sys (c : Chip) (n : Nat) : (endHand c n).sys = c.sys := by
  unfold endHand
  split <;> simp

@[simp] theorem mismatch_islands (c : Chip) (n mcause entry : Nat) : (mismatch c n mcause entry).islands = c.islands := by
  simp [mismatch]

@[simp] theorem mismatch_sys (c : Chip) (n mcause entry : Nat) : (mismatch c n mcause entry).sys = c.sys := by
  simp [mismatch]

@[simp] theorem fillFlight_islands (c : Chip) (k slot : Nat) (g : Flight → Word) (trap : Nat) :
    (fillFlight c k slot g trap).islands = c.islands := by
  simp [fillFlight]

@[simp] theorem fillFlight_sys (c : Chip) (k slot : Nat) (g : Flight → Word) (trap : Nat) :
    (fillFlight c k slot g trap).sys = c.sys := by
  simp [fillFlight]

@[simp] theorem settleOwn_islands (c : Chip) (k : Nat) : (settleOwn c k).islands = c.islands := by
  simp [settleOwn]

@[simp] theorem settleOwn_sys (c : Chip) (k : Nat) : (settleOwn c k).sys = c.sys := by
  simp [settleOwn]

@[simp] theorem performPriv_islands (c : Chip) (n : Nat) (e : Entry) : (performPriv c n e).islands = c.islands := by
  simp [performPriv]

@[simp] theorem performPriv_sys (c : Chip) (n : Nat) (e : Entry) : (performPriv c n e).sys = c.sys := by
  simp [performPriv]

@[simp] theorem compareB_islands (c : Chip) (n : Nat) (e : Entry) : (compareB c n e).islands = c.islands := by
  unfold compareB
  dsimp only
  split <;> simp

@[simp] theorem compareB_sys (c : Chip) (n : Nat) (e : Entry) : (compareB c n e).sys = c.sys := by
  unfold compareB
  dsimp only
  split <;> simp

@[simp] theorem placeEntry_islands (c : Chip) (k : Nat) (e : Entry) : (placeEntry c k e).islands = c.islands := by
  unfold placeEntry
  dsimp only
  (repeat' split) <;> simp

@[simp] theorem placeEntry_sys (c : Chip) (k : Nat) (e : Entry) : (placeEntry c k e).sys = c.sys := by
  unfold placeEntry
  dsimp only
  (repeat' split) <;> simp

@[simp] theorem sendEnds_islands (c : Chip) (s : Nat) (k : Nat) : (sendEnds c s k).islands = c.islands := by
  unfold sendEnds
  split <;> simp

@[simp] theorem sendEnds_sys (c : Chip) (s : Nat) (k : Nat) : (sendEnds c s k).sys = c.sys := by
  unfold sendEnds
  split <;> simp

@[simp] theorem breakWaits_islands (c : Chip) (s : Nat) : (breakWaits c s).islands = c.islands := by
  simp [breakWaits]

@[simp] theorem breakWaits_sys (c : Chip) (s : Nat) : (breakWaits c s).sys = c.sys := by
  simp [breakWaits]

@[simp] theorem breakChannels_islands (c : Chip) (p : Nat) : (breakChannels c p).islands = c.islands := by
  simp [breakChannels]

@[simp] theorem breakChannels_sys (c : Chip) (p : Nat) : (breakChannels c p).sys = c.sys := by
  simp [breakChannels]

@[simp] theorem camPush_islands (c : Chip) (e : Nat) (o : CamOp) : (camPush c e o).islands = c.islands := by
  simp [camPush]

@[simp] theorem camPush_sys (c : Chip) (e : Nat) (o : CamOp) : (camPush c e o).sys = c.sys := by
  simp [camPush]

@[simp] theorem camWaitEnd_islands (c : Chip) (e : Nat) (lane : Bool) (who : Nat) : (camWaitEnd c e lane who).islands = c.islands := by
  simp [camWaitEnd]

@[simp] theorem camWaitEnd_sys (c : Chip) (e : Nat) (lane : Bool) (who : Nat) : (camWaitEnd c e lane who).sys = c.sys := by
  simp [camWaitEnd]

@[simp] theorem camTake_islands (c : Chip) (e : Nat) (o : CamOp) : (camTake c e o).islands = c.islands := by
  simp [camTake]

@[simp] theorem camTake_sys (c : Chip) (e : Nat) (o : CamOp) : (camTake c e o).sys = c.sys := by
  simp [camTake]

@[simp] theorem camAdmit_islands (c : Chip) (n e : Nat) : (camAdmit n c e).islands = c.islands := by
  induction n generalizing c with
  | zero => rfl
  | succ n ih =>
    rw [camAdmit]
    split
    · exact (ih _).trans (by simp)
    · rfl

@[simp] theorem camAdmit_sys (c : Chip) (n e : Nat) : (camAdmit n c e).sys = c.sys := by
  induction n generalizing c with
  | zero => rfl
  | succ n ih =>
    rw [camAdmit]
    split
    · exact (ih _).trans (by simp)
    · rfl

@[simp] theorem camAdmitAll_islands (c : Chip) (e : Nat) : (camAdmitAll c e).islands = c.islands := by
  simp [camAdmitAll]

@[simp] theorem camAdmitAll_sys (c : Chip) (e : Nat) : (camAdmitAll c e).sys = c.sys := by
  simp [camAdmitAll]

@[simp] theorem pickNear_islands (c : Chip) (num : Int) (den w : Nat) : (pickNear c num den w).1.islands = c.islands := by
  simp [pickNear]

@[simp] theorem pickNear_sys (c : Chip) (num : Int) (den w : Nat) : (pickNear c num den w).1.sys = c.sys := by
  simp [pickNear]

@[simp] theorem camEval_islands (c : Chip) (l : List Byte) (ofs p : Nat) : (camEval c l ofs p).1.islands = c.islands := by
  unfold camEval
  split <;> simp

@[simp] theorem camEval_sys (c : Chip) (l : List Byte) (ofs p : Nat) : (camEval c l ofs p).1.sys = c.sys := by
  unfold camEval
  split <;> simp

@[simp] theorem camFailure_islands (c : Chip) (e code sel : Nat) : (camFailure c e code sel).islands = c.islands := by
  unfold camFailure
  rw [regSetFld_islands, regSetFld_islands, regOr_islands, regCount_islands]

@[simp] theorem camFailure_sys (c : Chip) (e code sel : Nat) : (camFailure c e code sel).sys = c.sys := by
  unfold camFailure
  rw [regSetFld_sys, regSetFld_sys, regOr_sys, regCount_sys]

@[simp] theorem camOor_islands (c : Chip) (e : Nat) : (camOor c e).islands = c.islands := by
  simp [camOor]

@[simp] theorem camOor_sys (c : Chip) (e : Nat) : (camOor c e).sys = c.sys := by
  simp [camOor]

@[simp] theorem camEcc_islands (c : Chip) (e sel ecc at_ : Nat) (touched : Nat → Bool) :
    (camEcc c e sel ecc at_ touched).1.islands = c.islands := by
  simp -implicitDefEqProofs [camEcc]

@[simp] theorem camEcc_sys (c : Chip) (e sel ecc at_ : Nat) (touched : Nat → Bool) :
    (camEcc c e sel ecc at_ touched).1.sys = c.sys := by
  simp -implicitDefEqProofs [camEcc]

@[simp] theorem camEvaluate_islands (c : Chip) (e sel : Nat) (p ecc at_ : Nat) : (camEvaluate c e sel p ecc at_).1.islands = c.islands := by
  simp [camEvaluate]

@[simp] theorem camEvaluate_sys (c : Chip) (e sel : Nat) (p ecc at_ : Nat) : (camEvaluate c e sel p ecc at_).1.sys = c.sys := by
  simp [camEvaluate]

@[simp] theorem setOfs_islands (c : Chip) (e sel d : Nat) : (setOfs c e sel d).islands = c.islands := by
  simp [setOfs]

@[simp] theorem setOfs_sys (c : Chip) (e sel d : Nat) : (setOfs c e sel d).sys = c.sys := by
  simp [setOfs]

@[simp] theorem camRegRead_islands (c : Chip) (e i : Nat) : (camRegRead c e i).1.islands = c.islands := by
  simp [camRegRead]

@[simp] theorem camRegRead_sys (c : Chip) (e i : Nat) : (camRegRead c e i).1.sys = c.sys := by
  simp [camRegRead]

@[simp] theorem camRegWrite_islands (c : Chip) (e i : Nat) (w : Word) : (camRegWrite c e i w).islands = c.islands := by
  simp [camRegWrite]

@[simp] theorem camRegWrite_sys (c : Chip) (e i : Nat) (w : Word) : (camRegWrite c e i w).sys = c.sys := by
  simp [camRegWrite]

@[simp] theorem landCore_islands (c : Chip) (k op slot : Nat) (lo hi : Word) (trap code : Nat) (ta : Word) :
    (landCore c k op slot lo hi trap code ta).islands = c.islands := by
  simp [landCore]

@[simp] theorem landCore_sys (c : Chip) (k op slot : Nat) (lo hi : Word) (trap code : Nat) (ta : Word) :
    (landCore c k op slot lo hi trap code ta).sys = c.sys := by
  simp [landCore]

@[simp] theorem landOp_islands (c : Chip) (o : CamOp) (lo hi : Word) (trap code : Nat) (ta : Word) :
    (landOp c o lo hi trap code ta).islands = c.islands := by
  simp [landOp]

@[simp] theorem landOp_sys (c : Chip) (o : CamOp) (lo hi : Word) (trap code : Nat) (ta : Word) :
    (landOp c o lo hi trap code ta).sys = c.sys := by
  simp [landOp]

@[simp] theorem landStatus_islands (c : Chip) (o : CamOp) (code : Nat) : (landStatus c o code).islands = c.islands := by
  simp [landStatus]

@[simp] theorem landStatus_sys (c : Chip) (o : CamOp) (code : Nat) : (landStatus c o code).sys = c.sys := by
  simp [landStatus]

@[simp] theorem landEval_islands (c : Chip) (o : CamOp) (code : Nat) (v w : Word) : (landEval c o code v w).islands = c.islands := by
  simp [landEval]

@[simp] theorem landEval_sys (c : Chip) (o : CamOp) (code : Nat) (v w : Word) : (landEval c o code v w).sys = c.sys := by
  simp [landEval]

@[simp] theorem camPop_islands (c : Chip) (e : Nat) : (camPop c e).islands = c.islands := by
  simp [camPop]

@[simp] theorem camPop_sys (c : Chip) (e : Nat) : (camPop c e).sys = c.sys := by
  simp [camPop]

@[simp] theorem camDo_islands (c : Chip) (e : Nat) (o : CamOp) (ecc at_ : Nat) : (camDo c e o ecc at_).islands = c.islands := by
  simp [camDo]

@[simp] theorem camDo_sys (c : Chip) (e : Nat) (o : CamOp) (ecc at_ : Nat) : (camDo c e o ecc at_).sys = c.sys := by
  simp [camDo]

@[simp] theorem copyWords_islands (c : Chip) (ga n : Nat) : (copyWords c ga n).1.islands = c.islands := by
  induction n generalizing c ga with
  | zero => rfl
  | succ n ih =>
    have ho : ∀ o : Option Nat, (match o with | some p => offMet c (16 * (p / 2)) p | none => c).islands = c.islands := by
      intro o
      cases o <;> simp
    have hr := (ih (c := (readWord c ga 3 0).1) (ga + 4)).trans (readWord_islands c ga 3 0)
    rw [copyWords]
    dsimp only
    split_ifs
    · exact ho _
    · exact readWord_islands c ga 3 0
    · exact hr

@[simp] theorem copyWords_sys (c : Chip) (ga n : Nat) : (copyWords c ga n).1.sys = c.sys := by
  induction n generalizing c ga with
  | zero => rfl
  | succ n ih =>
    have ho : ∀ o : Option Nat, (match o with | some p => offMet c (16 * (p / 2)) p | none => c).sys = c.sys := by
      intro o
      cases o <;> simp
    have hr := (ih (c := (readWord c ga 3 0).1) (ga + 4)).trans (readWord_sys c ga 3 0)
    rw [copyWords]
    dsimp only
    split_ifs
    · exact ho _
    · exact readWord_sys c ga 3 0
    · exact hr

@[simp] theorem camldResult_islands (c : Chip) (e : Nat) (y : CamCopy) (ecc at_ : Nat) : (camldResult c e y ecc at_).1.islands = c.islands := by
  unfold camldResult
  dsimp only
  (repeat' split) <;> simp -implicitDefEqProofs

@[simp] theorem camldResult_sys (c : Chip) (e : Nat) (y : CamCopy) (ecc at_ : Nat) : (camldResult c e y ecc at_).1.sys = c.sys := by
  unfold camldResult
  dsimp only
  (repeat' split) <;> simp -implicitDefEqProofs

@[simp] theorem endCamld_islands (c : Chip) (e : Nat) (y : CamCopy) (code : Nat) : (endCamld c e y code).islands = c.islands := by
  simp [endCamld]

@[simp] theorem endCamld_sys (c : Chip) (e : Nat) (y : CamCopy) (code : Nat) : (endCamld c e y code).sys = c.sys := by
  simp [endCamld]

@[simp] theorem camldEnd_islands (c : Chip) (e ecc at_ : Nat) : (camldEnd c e ecc at_).islands = c.islands := by
  unfold camldEnd
  split <;> simp

@[simp] theorem camldEnd_sys (c : Chip) (e ecc at_ : Nat) : (camldEnd c e ecc at_).sys = c.sys := by
  unfold camldEnd
  split <;> simp

@[simp] theorem camSwitch_islands (c : Chip) (e : Nat) : (camSwitch c e).islands = c.islands := by
  unfold camSwitch
  split <;> simp

@[simp] theorem camSwitch_sys (c : Chip) (e : Nat) : (camSwitch c e).sys = c.sys := by
  unfold camSwitch
  split <;> simp

@[simp] theorem camPowerDown_islands (c : Chip) (e : Nat) (off : Bool) : (camPowerDown c e off).islands = c.islands := by
  simp [camPowerDown]

@[simp] theorem camPowerDown_sys (c : Chip) (e : Nat) (off : Bool) : (camPowerDown c e off).sys = c.sys := by
  simp [camPowerDown]

@[simp] theorem tabEv_islands (c : Chip) (n : Nat) : (tabEv c n).islands = c.islands := by
  simp [tabEv]

@[simp] theorem tabEv_sys (c : Chip) (n : Nat) : (tabEv c n).sys = c.sys := by
  simp [tabEv]

@[simp] theorem fpEv_islands (c : Chip) (p m : Nat) : (fpEv c p m).islands = c.islands := by
  simp [fpEv]

@[simp] theorem fpEv_sys (c : Chip) (p m : Nat) : (fpEv c p m).sys = c.sys := by
  simp [fpEv]

@[simp] theorem fpSkip_islands (c : Chip) (p : Nat) : (fpSkip c p).islands = c.islands := by
  simp -implicitDefEqProofs [fpSkip]

@[simp] theorem fpSkip_sys (c : Chip) (p : Nat) : (fpSkip c p).sys = c.sys := by
  simp -implicitDefEqProofs [fpSkip]

@[simp] theorem fpRefuse_islands (c : Chip) (p : Nat) : (fpRefuse c p).islands = c.islands := by
  unfold fpRefuse
  rw [fpEv_islands, regCount_islands]

@[simp] theorem fpRefuse_sys (c : Chip) (p : Nat) : (fpRefuse c p).sys = c.sys := by
  unfold fpRefuse
  rw [fpEv_sys, regCount_sys]

@[simp] theorem fpCfgErr_islands (c : Chip) (p : Nat) : (fpCfgErr c p).islands = c.islands := by
  simp [fpCfgErr]

@[simp] theorem fpCfgErr_sys (c : Chip) (p : Nat) : (fpCfgErr c p).sys = c.sys := by
  simp [fpCfgErr]

@[simp] theorem cfgWrite_islands (c : Chip) (p : Nat) (w : Word) : (cfgWrite c p w).islands = c.islands := by
  simp [cfgWrite]

@[simp] theorem cfgWrite_sys (c : Chip) (p : Nat) (w : Word) : (cfgWrite c p w).sys = c.sys := by
  simp [cfgWrite]

@[simp] theorem countFlush_islands (c : Chip) (k n : Nat) : (countFlush c k n).islands = c.islands := by
  simp -implicitDefEqProofs [countFlush]

@[simp] theorem countFlush_sys (c : Chip) (k n : Nat) : (countFlush c k n).sys = c.sys := by
  simp -implicitDefEqProofs [countFlush]

@[simp] theorem flushRx_islands (c : Chip) (p : Nat) : (flushRx c p).1.islands = c.islands := by
  unfold flushRx
  split <;> simp

@[simp] theorem flushRx_sys (c : Chip) (p : Nat) : (flushRx c p).1.sys = c.sys := by
  unfold flushRx
  split <;> simp

@[simp] theorem flushTx_islands (c : Chip) (p : Nat) : (flushTx c p).1.islands = c.islands := by
  unfold flushTx
  split <;> simp

@[simp] theorem flushTx_sys (c : Chip) (p : Nat) : (flushTx c p).1.sys = c.sys := by
  unfold flushTx
  split <;> simp

@[simp] theorem flushLinkQ_islands (c : Chip) (p k : Nat) : (flushLinkQ c p k).1.islands = c.islands := by
  unfold flushLinkQ
  dsimp only
  split
  · rfl
  · simp only [updChan_islands, updStream_islands]
    rw [foldl_islands (fun d b => by split <;> simp), foldl_islands (fun d f => by split <;> simp)]

@[simp] theorem flushLinkQ_sys (c : Chip) (p k : Nat) : (flushLinkQ c p k).1.sys = c.sys := by
  unfold flushLinkQ
  dsimp only
  split
  · rfl
  · simp only [updChan_sys, updStream_sys]
    rw [foldl_sys (fun d b => by split <;> simp), foldl_sys (fun d f => by split <;> simp)]

@[simp] theorem flushPort_islands (c : Chip) (p : Nat) : (flushPort c p).islands = c.islands := by
  simp [flushPort]

@[simp] theorem flushPort_sys (c : Chip) (p : Nat) : (flushPort c p).sys = c.sys := by
  simp [flushPort]

@[simp] theorem droneDown_islands (c : Chip) (d : Nat) : (droneDown c d).islands = c.islands := by
  simp [droneDown]

@[simp] theorem droneDown_sys (c : Chip) (d : Nat) : (droneDown c d).sys = c.sys := by
  simp [droneDown]

@[simp] theorem reconfigure_islands (c : Chip) (p : Nat) (ctl : Word) : (reconfigure c p ctl).islands = c.islands := by
  simp -implicitDefEqProofs [reconfigure]

@[simp] theorem reconfigure_sys (c : Chip) (p : Nat) (ctl : Word) : (reconfigure c p ctl).sys = c.sys := by
  simp -implicitDefEqProofs [reconfigure]

@[simp] theorem linkStart_islands (c : Chip) (p : Nat) : (linkStart c p).islands = c.islands := by
  simp [linkStart]

@[simp] theorem linkStart_sys (c : Chip) (p : Nat) : (linkStart c p).sys = c.sys := by
  simp [linkStart]

@[simp] theorem settle_islands (c : Chip) (p : Nat) (old v : Word) : (settle c p old v).islands = c.islands := by
  simp [settle]

@[simp] theorem settle_sys (c : Chip) (p : Nat) (old v : Word) : (settle c p old v).sys = c.sys := by
  simp [settle]

@[simp] theorem ctlWrite_islands (c : Chip) (p : Nat) (w : Word) : (ctlWrite c p w).islands = c.islands := by
  unfold ctlWrite
  extract_lets v c1 old c2 c3 c4
  have h1 : c1.islands = c.islands := by
    simp only [c1]
    split <;> simp
  have h4 : c4.islands = c.islands := by
    simp only [c4, c3, c2]
    (repeat' split) <;> simp [h1]
  split
  · simp [h1]
  · (repeat' split) <;> simp [h4]

@[simp] theorem ctlWrite_sys (c : Chip) (p : Nat) (w : Word) : (ctlWrite c p w).sys = c.sys := by
  unfold ctlWrite
  extract_lets v c1 old c2 c3 c4
  have h1 : c1.sys = c.sys := by
    simp only [c1]
    split <;> simp
  have h4 : c4.sys = c.sys := by
    simp only [c4, c3, c2]
    (repeat' split) <;> simp [h1]
  split
  · simp [h1]
  · (repeat' split) <;> simp [h4]

@[simp] theorem stepTarget_islands (c : Chip) (p : Nat) (w : Word) : (stepTarget c p w).islands = c.islands := by
  simp [stepTarget]

@[simp] theorem stepTarget_sys (c : Chip) (p : Nat) (w : Word) : (stepTarget c p w).sys = c.sys := by
  simp [stepTarget]

@[simp] theorem ssiStart_islands (c : Chip) (p : Nat) : (ssiStart c p).islands = c.islands := by
  simp [ssiStart]

@[simp] theorem ssiStart_sys (c : Chip) (p : Nat) : (ssiStart c p).sys = c.sys := by
  simp [ssiStart]

@[simp] theorem outApply_islands (c : Chip) (p : Nat) (w : Word) : (outApply c p w).islands = c.islands := by
  simp [outApply]

@[simp] theorem outApply_sys (c : Chip) (p : Nat) (w : Word) : (outApply c p w).sys = c.sys := by
  simp [outApply]

@[simp] theorem data0Apply_islands (c : Chip) (p : Nat) (w : Word) : (data0Apply c p w).islands = c.islands := by
  simp [data0Apply]

@[simp] theorem data0Apply_sys (c : Chip) (p : Nat) (w : Word) : (data0Apply c p w).sys = c.sys := by
  simp [data0Apply]

@[simp] theorem applyHeld_islands (c : Chip) (p : Nat) (x : Nat × Word) : (applyHeld c p x).islands = c.islands := by
  simp [applyHeld]

@[simp] theorem applyHeld_sys (c : Chip) (p : Nat) (x : Nat × Word) : (applyHeld c p x).sys = c.sys := by
  simp [applyHeld]

@[simp] theorem fpWrite_islands (c : Chip) (p o : Nat) (w : Word) : (fpWrite c p o w).1.islands = c.islands := by
  simp [fpWrite]

@[simp] theorem fpWrite_sys (c : Chip) (p o : Nat) (w : Word) : (fpWrite c p o w).1.sys = c.sys := by
  simp [fpWrite]

@[simp] theorem linkRestart_islands (c : Chip) (p : Nat) : (linkRestart c p).islands = c.islands := by
  simp [linkRestart]

@[simp] theorem linkRestart_sys (c : Chip) (p : Nat) : (linkRestart c p).sys = c.sys := by
  simp [linkRestart]

@[simp] theorem xLinkRestart_islands (c : Chip) (p : Nat) (w : Word) : (xLinkRestart c p w).islands = c.islands := by
  simp [xLinkRestart]

@[simp] theorem xLinkRestart_sys (c : Chip) (p : Nat) (w : Word) : (xLinkRestart c p w).sys = c.sys := by
  simp [xLinkRestart]

@[simp] theorem fpWriteAny_islands (c : Chip) (p o : Nat) (w : Word) : (fpWriteAny c p o w).1.islands = c.islands := by
  simp [fpWriteAny]

@[simp] theorem fpWriteAny_sys (c : Chip) (p o : Nat) (w : Word) : (fpWriteAny c p o w).1.sys = c.sys := by
  simp [fpWriteAny]

@[simp] theorem countOffAt_islands (c : Chip) (lo hi : Nat) : (countOffAt c lo hi).islands = c.islands := by
  unfold countOffAt
  dsimp only
  split <;> simp

@[simp] theorem countOffAt_sys (c : Chip) (lo hi : Nat) : (countOffAt c lo hi).sys = c.sys := by
  unfold countOffAt
  dsimp only
  split <;> simp

@[simp] theorem chOffAt_islands (c : Chip) (w : Word) : (chOffAt c w).islands = c.islands := by
  unfold chOffAt
  (repeat' split) <;> simp

@[simp] theorem chOffAt_sys (c : Chip) (w : Word) : (chOffAt c w).sys = c.sys := by
  unfold chOffAt
  (repeat' split) <;> simp

@[simp] theorem offDst_islands (c : Chip) (w : Word) (cause len : Nat) : (offDst c w cause len).islands = c.islands := by
  simp [offDst]

@[simp] theorem offDst_sys (c : Chip) (w : Word) (cause len : Nat) : (offDst c w cause len).sys = c.sys := by
  simp [offDst]

@[simp] theorem writeNoteMem_islands (c : Chip) (ga : Nat) (l : List QWord) : (writeNoteMem c ga l).islands = c.islands := by
  induction l generalizing c ga with
  | nil => simp [writeNoteMem]
  | cons q l ih =>
    obtain ⟨_, _, _, _, _, h⟩ := writeWord_only c ga q.w q.p none
    rw [writeNoteMem, ih, h]

@[simp] theorem writeNoteMem_sys (c : Chip) (ga : Nat) (l : List QWord) : (writeNoteMem c ga l).sys = c.sys := by
  induction l generalizing c ga with
  | nil => simp [writeNoteMem]
  | cons q l ih =>
    obtain ⟨_, _, _, _, _, h⟩ := writeWord_only c ga q.w q.p none
    rw [writeNoteMem, ih, h]

@[simp] theorem writeDst_islands (c : Chip) (w : Word) (off : Nat) (l : List QWord) : (writeDst c w off l).1.islands = c.islands := by
  unfold writeDst
  (repeat' split) <;> simp

@[simp] theorem writeDst_sys (c : Chip) (w : Word) (off : Nat) (l : List QWord) : (writeDst c w off l).1.sys = c.sys := by
  unfold writeDst
  (repeat' split) <;> simp

@[simp] theorem setMoved_islands (c : Chip) (lane no n : Nat) : (setMoved c lane no n).islands = c.islands := by
  simp [setMoved]

@[simp] theorem setMoved_sys (c : Chip) (lane no n : Nat) : (setMoved c lane no n).sys = c.sys := by
  simp [setMoved]

@[simp] theorem failNote_pegAddr (c : Chip) (lane : Nat) (j : Job) (cause : Nat) : (failNote c lane j cause).sys.pegAddr = c.sys.pegAddr := by
  unfold failNote
  dsimp only
  (repeat' split) <;> simp

@[simp] theorem failNote_islands (c : Chip) (lane : Nat) (j : Job) (cause : Nat) : (failNote c lane j cause).islands = c.islands := by
  simp [failNote]

@[simp] theorem camoutDo_pegAddr (c : Chip) (e : Nat) (o : CamOp) (ecc : Nat) (at_ : Nat) : (camoutDo c e o ecc at_).sys.pegAddr = c.sys.pegAddr := by
  unfold camoutDo
  dsimp only
  (repeat' split) <;> simp

@[simp] theorem camoutDo_islands (c : Chip) (e : Nat) (o : CamOp) (ecc : Nat) (at_ : Nat) : (camoutDo c e o ecc at_).islands = c.islands := by
  unfold camoutDo
  split <;> simp

@[simp] theorem camOpDo_pegAddr (c : Chip) (e : Nat) (o : CamOp) (ecc : Nat) (at_ : Nat) : (camOpDo c e o ecc at_).sys.pegAddr = c.sys.pegAddr := by
  unfold camOpDo
  split <;> simp

@[simp] theorem camOpDo_islands (c : Chip) (e : Nat) (o : CamOp) (ecc : Nat) (at_ : Nat) : (camOpDo c e o ecc at_).islands = c.islands := by
  simp [camOpDo]

@[simp] theorem camDrain_pegAddr (n : Nat) (c : Chip) (e : Nat) : (camDrain n c e).sys.pegAddr = c.sys.pegAddr := by
  induction n generalizing c with
  | zero => simp [camDrain]
  | succ n ih =>
    rw [camDrain]
    split <;> simp [ih]

@[simp] theorem camDrain_islands (n : Nat) (c : Chip) (e : Nat) : (camDrain n c e).islands = c.islands := by
  induction n generalizing c with
  | zero => simp [camDrain]
  | succ n ih =>
    rw [camDrain]
    split <;> simp [ih]

@[simp] theorem camGateClosed_pegAddr (c : Chip) (e : Nat) (off : Bool) : (camGateClosed c e off).sys.pegAddr = c.sys.pegAddr := by
  unfold camGateClosed
  (repeat' split) <;> simp

@[simp] theorem camGateClosed_islands (c : Chip) (e : Nat) (off : Bool) : (camGateClosed c e off).islands = c.islands := by
  unfold camGateClosed
  (repeat' split) <;> simp

@[simp] theorem setIsl_sys (c : Chip) (k : Nat) (s : PegState) : (setIsl c k s).sys = c.sys := by
  simp [setIsl]

@[simp] theorem setPeg_islands (c : Chip) (p : Nat) (s : PegState) (clearing : Bool) : (setPeg c p s clearing).islands = c.islands := by
  simp [setPeg]

@[simp] theorem setPeg_sys (c : Chip) (p : Nat) (s : PegState) (clearing : Bool) : (setPeg c p s clearing).sys = c.sys := by
  simp [setPeg]

@[simp] theorem retarget_sys (c : Chip) (k : Nat) : (retarget c k).sys = c.sys := by
  simp -implicitDefEqProofs [retarget]

@[simp] theorem dropCourseWork_islands (c : Chip) (n : Nat) : (dropCourseWork c n).islands = c.islands := by
  unfold dropCourseWork
  dsimp only
  (repeat' split) <;> simp

@[simp] theorem dropCourseWork_sys (c : Chip) (n : Nat) : (dropCourseWork c n).sys = c.sys := by
  unfold dropCourseWork
  dsimp only
  (repeat' split) <;> simp

@[simp] theorem offCourse_islands (c : Chip) (n : Nat) : (offCourse c n).islands = c.islands := by
  simp [offCourse]

@[simp] theorem offCourse_sys (c : Chip) (n : Nat) : (offCourse c n).sys = c.sys := by
  simp [offCourse]

@[simp] theorem dropResvIn_islands (c : Chip) (p : Nat) : (dropResvIn c p).islands = c.islands := by
  simp [dropResvIn]

@[simp] theorem dropResvIn_sys (c : Chip) (p : Nat) : (dropResvIn c p).sys = c.sys := by
  simp [dropResvIn]

@[simp] theorem gateCloses_pegAddr (c : Chip) (p : Nat) (off : Bool) : (gateCloses c p off).sys.pegAddr = c.sys.pegAddr := by
  unfold gateCloses
  split <;> simp

@[simp] theorem gateCloses_islands (c : Chip) (p : Nat) (off : Bool) : (gateCloses c p off).islands = c.islands := by
  simp [gateCloses]

@[simp] theorem pegOff_pegAddr (c : Chip) (p : Nat) : (pegOff c p).sys.pegAddr = c.sys.pegAddr := by
  unfold pegOff
  split <;> simp

@[simp] theorem pegOff_islands (c : Chip) (p : Nat) : (pegOff c p).islands = c.islands := by
  simp [pegOff]

@[simp] theorem islandOff_pegAddr (c : Chip) (k : Nat) : (islandOff c k).sys.pegAddr = c.sys.pegAddr := by
  simp [islandOff]

@[simp] theorem verdict_islands (c : Chip) (n v : Nat) : (verdict c n v).islands = c.islands := by
  simp [verdict]

@[simp] theorem verdict_sys (c : Chip) (n v : Nat) : (verdict c n v).sys = c.sys := by
  simp [verdict]

end Sys2Proof.Machine
end

section
/-! PROOFS. The peg bus as a module hears it (R689, R690): the tokens of a frame give its bytes back. -/

namespace Sys2Proof.Machine

open Sys2Proof Sys2Proof.Safety

/-- The bits of a byte in the order the peg bus sends them, the least significant first (R690). -/
def byteBools (b : Byte) : List Bool := (List.range 8).map (fun i => b.getLsbD i)

/-- The symbol a bit goes out as. -/
def bitSym (b : Bool) : PegSym := if b then .one else .zero

theorem byteToks_eq (b : Byte) : byteToks b = (byteBools b).map bitSym := by
  simp [byteToks, byteBools, bitSym, Function.comp_def]

theorem flatMap_byteToks (l : List Byte) : l.flatMap byteToks = (l.flatMap byteBools).map bitSym := by
  simp [List.map_flatMap, funext byteToks_eq]

@[simp] theorem length_byteBools (b : Byte) : (byteBools b).length = 8 := by simp [byteBools]

theorem length_flatMap_byteBools (l : List Byte) : (l.flatMap byteBools).length = 8 * l.length := by
  induction l with
  | nil => rfl
  | cons b l ih => simp [ih]; omega

theorem ofNat_bitsNat_byteBools : ∀ b : Byte, BitVec.ofNat 8 (bitsNat (byteBools b)) = b := by decide

theorem byteBits_flatMap (l : List Byte) : byteBits l.length (l.flatMap byteBools) = l := by
  induction l with
  | nil => rfl
  | cons b l ih =>
    simp only [List.length_cons, byteBits, List.flatMap_cons, List.cons.injEq]
    rw [List.take_left' (length_byteBools b), List.drop_left' (length_byteBools b)]
    exact ⟨ofNat_bitsNat_byteBools b, ih⟩

theorem pegToken_mark (b : PegBus) : pegToken b .mark = ⟨true, true, []⟩ := rfl

theorem pegToken_bit (l : List Bool) (b : Bool) : pegToken ⟨true, true, l⟩ (bitSym b) = ⟨true, true, l ++ [b]⟩ := by
  cases b <;> rfl

/-- Behind a MARK the bits that are missing from a frame complete it. -/
theorem pegFeed_bits (l m : List Bool) (hm : m ≠ []) (hl : l.length + m.length = 32) :
    pegFeed ⟨true, true, l⟩ (m.map bitSym) = (⟨true, false, []⟩, some (byteBits 4 (l ++ m))) := by
  induction m generalizing l with
  | nil => exact absurd rfl hm
  | cons b m ih =>
    rw [List.map_cons, pegFeed, pegToken_bit]
    cases m with
    | nil => simp_all
    | cons b' m =>
      rw [if_neg (by simp only [List.length_append, List.length_cons, List.length_nil] at hl ⊢; omega),
        ih (l ++ [b]) (by simp) (by simp only [List.length_append, List.length_cons, List.length_nil] at hl ⊢; omega)]
      simp

/-- A whole frame is heard as its four bytes, whatever the bus held before. -/
theorem pegFeed_frame (bus : PegBus) (b k p crc : Byte) :
    pegFeed bus (.mark :: [b, k, p, crc].flatMap byteToks) = (⟨true, false, []⟩, some [b, k, p, crc]) := by
  have hlen : ([b, k, p, crc].flatMap byteBools).length = 32 := by rw [length_flatMap_byteBools]; rfl
  have hlen' : ([] : List Bool).length + ([b, k, p, crc].flatMap byteBools).length = 32 := by rw [hlen]; rfl
  rw [pegFeed, pegToken_mark, if_neg (by simp), flatMap_byteToks,
    pegFeed_bits [] _ (List.ne_nil_of_length_pos (by omega)) hlen', List.nil_append]
  exact congrArg (fun l => (_, some l)) (byteBits_flatMap [b, k, p, crc])

/-- The device once a frame has been heard whole. -/
def heardFrame (c : Chip) : Chip := { c with sys := { c.sys with bus := ⟨true, false, []⟩ } }

/-- The device once a frame of a good CRC that is addressed to it has been counted. -/
def countedFrame (c : Chip) : Chip := regWrap (heardFrame c) 0x6000003C 15 0 1

@[simp] theorem heardFrame_regs (c : Chip) : (heardFrame c).regs = c.regs := rfl

/-- What a module that has an address makes of a frame (R690, R691). -/
theorem pegFrame_heard {c : Chip} {own : Nat} (haon : c.sys.aon = true) (hown : c.sys.pegAddr = some own) (cmd b k p crc : Byte)
    (f : Chip → Byte → Chip) :
    pegFrame c cmd (.mark :: [b, k, p, crc].flatMap byteToks) f =
      if crc8 [b, k, p] ≠ crc then regCount (heardFrame c) 0x6000003C 23 16 1
      else if b.toNat ≠ own then heardFrame c
      else if k = 0 ∨ 6 < k.toNat then pegReply (countedFrame c) stOPCODE []
      else if k = cmd then f (countedFrame c) p
      else heardFrame c := by
  unfold pegFrame
  rw [haon, pegFeed_frame]
  refine (if_neg (by decide)).trans ?_
  dsimp only
  split
  · next hframe haddr =>
      obtain rfl := Option.some.inj (hown.symm.trans haddr)
      cases hframe
      rfl
  · next h => exact absurd hown (h _ _ _ _ _ rfl)

/-- The six commands of the peg bus hear a frame in one way, and differ in what they make of it. -/
theorem exec_peg (l : List PegSym) : ∀ i ∈ [Instr.pegStatus .mark l, .pegIdent .mark l, .pegAttach .mark l, .pegDetach .mark l,
    .pegWake .mark l, .pegReset .mark l],
    ∃ cmd f, ∀ s, exec i s = onChip s (fun c => pegFrame c cmd (.mark :: l) f) := by
  simp only [List.mem_cons, List.not_mem_nil, or_false, forall_eq_or_imp, forall_eq]
  exact ⟨⟨_, _, fun _ => rfl⟩, ⟨_, _, fun _ => rfl⟩, ⟨_, _, fun _ => rfl⟩, ⟨_, _, fun _ => rfl⟩, ⟨_, _, fun _ => rfl⟩,
    ⟨_, _, fun _ => rfl⟩⟩

/-! ### The counters of the bus and an answer -/

theorem keepsWork_regUpd (c : Chip) (a : Nat) (f : Word → Word) : KeepsWork c (regUpd c a f) := ⟨rfl, rfl, rfl⟩

theorem onlyRegs_countedFrame (c : Chip) : OnlyRegs [0x6000003C] c (countedFrame c) := fun a ha =>
  regVal_regUpd_other (heardFrame c) _ (by simpa using ha)

@[simp] theorem countedFrame_sys (c : Chip) : (countedFrame c).sys = { c.sys with bus := ⟨true, false, []⟩ } := rfl
@[simp] theorem countedFrame_dev (c : Chip) : (countedFrame c).dev = c.dev := rfl
@[simp] theorem countedFrame_out (c : Chip) : (countedFrame c).out = c.out := rfl
theorem keepsWork_countedFrame (c : Chip) : KeepsWork c (countedFrame c) := ⟨rfl, rfl, rfl⟩

theorem regVal_countedFrame {c : Chip} {a : Nat} (h : a ≠ 0x6000003C) : regVal (countedFrame c) a = regVal c a :=
  regVal_regUpd_other (heardFrame c) _ h

theorem frames_countedFrame (c : Chip) :
    bits (regVal (countedFrame c) 0x6000003C) 15 0 = (bits (regVal c 0x6000003C) 15 0 + 1) % 65536 := by
  rw [countedFrame, regWrap, regVal_regUpd_same, bits_setBits_same _ _ (by decide) (by decide)]
  rfl

/-- A bad frame is counted up to 255 (R690). -/
theorem badFrames_counted {c : Chip} (h : bits (regVal c 0x6000003C) 23 16 < 255) :
    bits (regVal (regCount (heardFrame c) 0x6000003C 23 16 1) 0x6000003C) 23 16 = bits (regVal c 0x6000003C) 23 16 + 1 := by
  rw [regCount, regVal_regUpd_same, bits_setBits_same _ _ (by decide) (by decide)]
  show sat (bits (regVal c 0x6000003C) 23 16 + 1) 255 % 256 = _
  generalize bits (regVal c 0x6000003C) 23 16 = n at h ⊢
  rw [sat, if_pos (by omega)]
  omega

/-- A frame on the bus that answers one heard (R690): it is counted, the reply leaves, and nothing else changes. -/
structure Answered (c t : Chip) (status : Nat) (data : List Byte) : Prop where
  out : t.out = c.out ++ [.peg (((BitVec.ofNat 8 status :: BitVec.ofNat 8 data.length :: data) ++
    [crc8 (BitVec.ofNat 8 status :: BitVec.ofNat 8 data.length :: data)]).flatMap byteToks)]
  counted : bits (regVal t 0x6000003C) 15 0 = (bits (regVal c 0x6000003C) 15 0 + 1) % 65536
  sys : t.sys = { c.sys with bus := ⟨true, false, []⟩ }
  work : KeepsWork c t
  regs : OnlyRegs [0x6000003C] c t

theorem answered_pegReply (c : Chip) (status : Nat) (data : List Byte) :
    Answered c (pegReply (countedFrame c) status data) status data where
  out := rfl
  counted := frames_countedFrame c
  sys := rfl
  work := ⟨rfl, rfl, rfl⟩
  regs := onlyRegs_countedFrame c

end Sys2Proof.Machine
end

section
/-! PROOFS. The peg bus (O57): what its commands make of a frame heard, and single register writes. -/

namespace Sys2Proof.Machine

open Sys2Proof Sys2Proof.Safety

/-! ### A detach that waits for no stop position -/

theorem drainStart_sys (c : Chip) (d : Detach) :
    (drainStart c d).sys = { c.sys with detach := some { d with stop := none, reached := false, drain := true } } := by
  have h (l : List Nat) : (l.foldl (fun c s => (closeBank c (partyNo (chanOf c s).cons) s none 9 0).1) c).sys = c.sys := by
    simp
  unfold drainStart
  dsimp only
  rw [h]

theorem tabStop_drains {c : Chip} {d : Detach} (hd : c.sys.detach = some d) (hs : d.stop.isSome = true) :
    (tabStop c).sys = { c.sys with detach := some { d with stop := none, reached := false, drain := true } } := by
  unfold tabStop
  dsimp only
  split
  · next e he =>
      obtain rfl : d = e := Option.some.inj (hd.symm.trans he)
      rw [if_pos hs, drainStart_sys]
      rfl
  · next he => exact absurd (hd.symm.trans he) (by simp)

theorem setAttach_attach (c : Chip) (a : Attach) : (setAttach c a).sys.attach = a := by
  unfold setAttach
  split
  · assumption
  · dsimp only
    split <;> simp

@[simp] theorem setAttach_dev (c : Chip) (a : Attach) : (setAttach c a).dev = c.dev := by
  unfold setAttach
  dsimp only
  (repeat' split) <;> simp

/-- A detach that waits for no stop position drains the channels at once (R69, R71). -/
theorem detachBegin_drains (c : Chip) (r : Option ReplyTo) (stop : Word) (limit : Nat) :
    (detachBegin c r false stop limit).dev = .detaching ∧ (detachBegin c r false stop limit).sys.attach = .detaching ∧
      draining (detachBegin c r false stop limit) = true := by
  unfold detachBegin
  extract_lets fields waits behind d sys sys' e
  have hw : waits = false := by simp [waits]
  rw [hw, if_neg (by decide)]
  have hdev : e.dev = .detaching := by
    show (pulse _ _).dev = _
    rw [pulse_dev, setAttach_dev, setDev_dev]
  have hatt : e.sys.attach = .detaching := by
    show (pulse _ _).sys.attach = _
    rw [pulse_sys, setAttach_attach]
  have hs := tabStop_drains (c := e) rfl rfl
  exact ⟨(tabStop_dev e).trans hdev, by rw [hs]; exact hatt, by rw [draining, hs]⟩

/-! ### A reset of every domain but AON -/

theorem retarget_islands (c : Chip) (k : Nat) : (retarget c k).islands = c.islands := by
  unfold retarget
  exact (regSetFld_islands ..).trans (regSetFld_islands ..)

theorem islandOff_islands (c : Chip) (k : Nat) : (islandOff c k).islands = Tbl.put .off c.islands k .off := by
  have hfold : ((pegsOfIsland k).foldl pegOff c).islands = c.islands := by simp
  rw [islandOff, retarget_islands, regSetFld_islands, setIsl]
  dsimp only
  rw [hfold]

theorem islOf_islandOff (c : Chip) (k j : Nat) : islOf (islandOff c k) j = if j = k then .off else islOf c j := by
  rw [islOf, islandOff_islands]
  split
  · next hj => rw [hj, Tbl.get_put_same]
  · next hj => exact Tbl.get_put_apart _ _ _ _ hj

theorem islOf_foldl_islandOff (l : List Nat) (c : Chip) (j : Nat) :
    islOf (l.foldl islandOff c) j = if j ∈ l then .off else islOf c j := by
  induction l generalizing c with
  | nil => simp
  | cons k l ih =>
    rw [List.foldl_cons, ih, islOf_islandOff]
    by_cases hj : j ∈ l <;> by_cases hk : j = k <;> simp [hj, hk]

@[simp] theorem allOff_pegAddr (c : Chip) : (allOff c).sys.pegAddr = c.sys.pegAddr := by
  simp [allOff, -List.foldl_cons]

theorem perOff_islands (c : Chip) : (perOff c).islands = c.islands := rfl
theorem perOff_per (c : Chip) : (perOff c).sys.per = false := rfl
theorem perOff_pegAddr (c : Chip) : (perOff c).sys.pegAddr = c.sys.pegAddr := rfl
theorem lutOff_islands (c : Chip) : (lutOff c).islands = c.islands := rfl
theorem lutOff_per (c : Chip) : (lutOff c).sys.per = c.sys.per := rfl
theorem lutOff_pegAddr (c : Chip) : (lutOff c).sys.pegAddr = c.sys.pegAddr := rfl
theorem lutOff_off (c : Chip) : (lutOff c).lut = false ∧ (lutOff c).cores = [] ∧ (lutOff c).courses = [] := ⟨rfl, rfl, rfl⟩

/-- After a reset of every domain but AON nothing runs, and the module keeps its address on the bus. -/
theorem resetAllButAon_off (c : Chip) :
    (resetAllButAon c).sys.per = false ∧ (resetAllButAon c).lut = false ∧ (resetAllButAon c).dev = .boot ∧
    (resetAllButAon c).sys.attach = .unattached ∧ (resetAllButAon c).cores = [] ∧ (resetAllButAon c).courses = [] ∧
    (∀ k, k < 8 → islOf (resetAllButAon c) k = .off) ∧ (resetAllButAon c).sys.pegAddr = c.sys.pegAddr := by
  have hisl : (lutOff (perOff (allOff c))).islands = (allOff c).islands := by rw [lutOff_islands, perOff_islands]
  have hper : (lutOff (perOff (allOff c))).sys.per = false := by rw [lutOff_per, perOff_per]
  have haddr : (lutOff (perOff (allOff c))).sys.pegAddr = c.sys.pegAddr := by
    rw [lutOff_pegAddr, perOff_pegAddr, allOff_pegAddr]
  obtain ⟨hlut, hcores, hcourses⟩ := lutOff_off (perOff (allOff c))
  unfold resetAllButAon
  generalize lutOff (perOff (allOff c)) = d at *
  refine ⟨?_, ?_, setDev_dev .., ?_, ?_, ?_, fun k hk => ?_, ?_⟩
  · rwa [setDev_sys]
  · rwa [setDev_lut]
  · rw [setDev_sys]
  · rwa [setDev_cores]
  · rwa [setDev_courses]
  · rw [islOf, setDev_islands]
    dsimp only
    rw [hisl]
    show islOf (allOff c) k = .off
    rw [allOff, islOf_foldl_islandOff, if_pos (List.mem_range.mpr hk)]
  · rwa [setDev_sys]

/-! ### Single register writes -/

theorem camBusy_low (c : Chip) {a : Nat} (h : a < 0x60200000) : camBusy c a = false := by
  simp [camBusy, show ¬ 0x60200000 ≤ a by omega]

/-- A doubleword written with every byte enabled reaches a register below the cam engines while PER is on. -/
theorem xRegisterWrite_reaches {c : Chip} {a : Nat} (w : Word) (hper : c.sys.per = true) (ha : a % 4 = 0)
    (hlo : 0x60000000 ≤ a) (hhi : a < 0x60200000) : xRegisterWrite c a ⟨15, w⟩ = (regWrite c a w).1 := by
  unfold xRegisterWrite
  rw [if_neg (by simp), if_pos ⟨ha, by simp [inRegs]; omega, by simp [regReach, hper], camBusy_low c hhi⟩]

theorem xRegisterWrite_unpowered {c : Chip} (a : Nat) (w : HostWord) (hper : c.sys.per = false) : xRegisterWrite c a w = c := by
  simp [xRegisterWrite, hper, regReach]

theorem keeps_regPut (c : Chip) (a : Nat) (w : Word) : KeepsWork c (regPut c a w) ∧ OnlyRegs [a] c (regPut c a w) :=
  ⟨⟨rfl, rfl, rfl⟩, fun _ hb => regVal_regPut_other c w (by simpa using hb)⟩

/-- A register of the retained block or of the power block keeps what is written to it, in its fields. -/
theorem leaves_registerWrite_put {s : State} {a : Nat} {w v : Word} (hper : s.chip.sys.per = true) (ha : a % 4 = 0)
    (hlo : 0x60000000 ≤ a) (hhi : a < 0x60200000) (hw : (regWrite s.chip a w).1 = regPut s.chip a v) :
    leaves (.registerWrite a ⟨15, w⟩) s (fun t => regVal t a = v ∧ KeepsWork s.chip t ∧ OnlyRegs [a] s.chip t) := by
  refine leaves_of_onUnit (f := fun c => xRegisterWrite c a ⟨15, w⟩) rfl
    (by simp [isRegister, isEnables]; omega) ?_
  show _ ∧ _ ∧ _
  rw [xRegisterWrite_reaches w hper ha hlo hhi, hw]
  exact ⟨regVal_regPut_same _ _ _, keeps_regPut _ _ _⟩

theorem leaves_registerWrite_unpowered {s : State} (a : Nat) (w : HostWord) (hper : s.chip.sys.per = false) :
    leaves (.registerWrite a w) s (fun t => t = s.chip) := by
  refine ⟨_, rfl, ?_, ?_⟩
  · show (if _ then _ else s).pending = _
    split <;> rfl
  · show (if _ then _ else s).chip = _
    split
    · exact xRegisterWrite_unpowered a w hper
    · rfl

/-- A write without every byte enabled is dropped and recorded (R494). -/
theorem leaves_registerWrite_partial {s : State} {a be : Nat} (w : Word) (hbe : be < 15) (hper : s.chip.sys.per = true)
    (hlo : 0x60000000 ≤ a) (hhi : a < 0x61000000) (ha : a % 4 = 0) :
    leaves (.registerWrite a ⟨be, w⟩) s (fun t =>
      bit (regVal t 0x60003004) 4 = true ∧ KeepsWork s.chip t ∧ OnlyRegs [0x60003004] s.chip t) := by
  refine leaves_of_onUnit (f := fun c => xRegisterWrite c a ⟨be, w⟩) rfl (by simp [isRegister, isEnables]; omega) ?_
  have h : xRegisterWrite s.chip a ⟨be, w⟩ = regOr s.chip 0x60003004 0x10 := by
    unfold xRegisterWrite
    rw [if_pos (by simp; omega), if_pos hper]
    rfl
  show _ ∧ _ ∧ _
  rw [h]
  refine ⟨?_, keeps_regPut _ _ _⟩
  rw [regOr, regVal_regUpd_same, bit_eq_getLsbD, BitVec.getLsbD_or, wd, BitVec.getLsbD_ofNat]
  exact (Bool.or_eq_true _ _).mpr (Or.inr (by decide))

/-- A wake from HIBERNATE by the peg bus records its source and the device state it began in (R632). -/
theorem wake_hibernating {c : Chip} (hd : c.dev = .hibernate) (hw : c.sys.waking = false) :
    (wake c 4 0).sys.waking = true ∧ regVal (wake c 4 0) 0x60001038 = wd (4 + 256 * 10) ∧ (wake c 4 0).out = c.out ∧
      KeepsWork c (wake c 4 0) := by
  have h : wake c 4 0 = { regPut c 0x60001038 (wd (4 + 256 * 10)) with sys := { c.sys with waking := true } } := by
    rw [wake, if_pos (Or.inr hd), hw, hd]
    rfl
  rw [h]
  have hreg := regVal_regPut_same c 0x60001038 (wd (4 + 256 * 10))
  generalize wd (4 + 256 * 10) = v at hreg ⊢
  exact ⟨rfl, hreg, rfl, ⟨rfl, rfl, rfl⟩⟩

/-! ### The obligation -/

/-- A frame of a command of the bus, as the module the address names hears it. -/
def pegFrameToks (a cmd param : Byte) : List PegSym := [a, cmd, param, crc8 [a, cmd, param]].flatMap byteToks

/-- A frame that is addressed to the module and carries a command's own CMD is counted and acted on. -/
theorem pegFrame_own {c : Chip} {a : Byte} (haon : c.sys.aon = true) (hown : c.sys.pegAddr = some a.toNat) {cmd : Byte} (p : Byte)
    (f : Chip → Byte → Chip) (hcmd : ¬ (cmd = 0 ∨ 6 < cmd.toNat)) :
    pegFrame c cmd (.mark :: pegFrameToks a cmd p) f = f (countedFrame c) p := by
  rw [pegFrameToks, pegFrame_heard haon hown, if_neg (by simp), if_neg (by simp), if_neg hcmd, if_pos rfl]

section
variable {s : State} {a : Byte} (haon : s.chip.sys.aon = true) (hown : s.chip.sys.pegAddr = some a.toNat)
include haon hown

/-- A frame that is bad, another module's, or of no command of the table (R690, R691). -/
theorem peg_frames_not_acted_on (b k p crc : Byte) :
    let l := [b, k, p, crc].flatMap byteToks
    ∀ i ∈ [Instr.pegStatus .mark l, .pegIdent .mark l, .pegAttach .mark l, .pegDetach .mark l, .pegWake .mark l, .pegReset .mark l],
      (crc ≠ crc8 [b, k, p] → bits (regVal s.chip 0x6000003C) 23 16 < 255 → leaves i s (fun t => t.out = s.chip.out ∧
        bits (regVal t 0x6000003C) 23 16 = bits (regVal s.chip 0x6000003C) 23 16 + 1 ∧ t.sys = (heardFrame s.chip).sys ∧
        KeepsWork s.chip t ∧ OnlyRegs [0x6000003C] s.chip t)) ∧
      (crc = crc8 [b, k, p] → b ≠ a → leaves i s (fun t => t = heardFrame s.chip)) ∧
      (crc = crc8 [b, k, p] → b = a → k = 0 ∨ 6 < k.toNat → leaves i s (fun t => Answered s.chip t stOPCODE [])) := by
  intro l i hi
  obtain ⟨cmd, f, hf⟩ := exec_peg l i hi
  refine ⟨fun hcrc hn => leaves_of_onChip (hf s) ?_, fun hcrc hb => leaves_of_onChip (hf s) ?_,
    fun hcrc hb hk => leaves_of_onChip (hf s) ?_⟩
  · rw [pegFrame_heard haon hown, if_pos (Ne.symm hcrc)]
    exact ⟨rfl, badFrames_counted hn, rfl, ⟨rfl, rfl, rfl⟩, fun x hx => regVal_regUpd_other (heardFrame s.chip) _ (by simpa using hx)⟩
  · rw [pegFrame_heard haon hown, if_neg (not_not.mpr hcrc.symm), if_pos (fun h => hb (BitVec.eq_of_toNat_eq h))]
  · rw [pegFrame_heard haon hown, if_neg (not_not.mpr hcrc.symm), if_neg (not_not.mpr (congrArg _ hb)), if_pos hk]
    exact answered_pegReply _ _ _

/-- A parameter that no command takes is answered PARAM. -/
theorem peg_param_refused {p : Byte} (h0 : p ≠ 0) (h5 : p ≠ 0x5A) (h16 : p.toNat % 16 ≠ 0) :
    ∀ i ∈ [Instr.pegStatus .mark (pegFrameToks a 1 p), .pegIdent .mark (pegFrameToks a 2 p), .pegAttach .mark (pegFrameToks a 3 p),
      .pegDetach .mark (pegFrameToks a 4 p), .pegWake .mark (pegFrameToks a 5 p), .pegReset .mark (pegFrameToks a 6 p)],
      leaves i s (fun t => Answered s.chip t stPARAM []) := by
  have hrefused {i : Instr} {f : Chip → Chip} (hi : exec i s = onChip s f)
      (hf : f s.chip = pegReply (countedFrame s.chip) stPARAM []) : leaves i s (fun t => Answered s.chip t stPARAM []) :=
    leaves_of_onChip hi (hf ▸ answered_pegReply _ _ _)
  simp only [List.mem_cons, List.not_mem_nil, or_false, forall_eq_or_imp, forall_eq]
  refine ⟨hrefused (f := fun c => xPegStatus c _) rfl ?_, hrefused (f := fun c => xPegIdent c _) rfl ?_,
    hrefused (f := fun c => xPegAttach c _) rfl ?_, hrefused (f := fun c => xPegDetach c _) rfl ?_,
    hrefused (f := fun c => xPegWake c _) rfl ?_, hrefused (f := fun c => xPegReset c _) rfl ?_⟩
  · exact (pegFrame_own haon hown p _ (by decide)).trans (if_pos h0)
  · exact (pegFrame_own haon hown p _ (by decide)).trans (if_pos (Or.inl h16))
  · exact (pegFrame_own haon hown p _ (by decide)).trans (if_pos h0)
  · exact (pegFrame_own haon hown p _ (by decide)).trans (if_pos h0)
  · exact (pegFrame_own haon hown p _ (by decide)).trans (if_pos h0)
  · exact (pegFrame_own haon hown p _ (by decide)).trans (if_pos h5)

theorem pegStatus_answers : leaves (.pegStatus .mark (pegFrameToks a 1 0)) s (fun t => Answered s.chip t stOK
    [BitVec.ofNat 8 (devCode s.chip.dev), BitVec.ofNat 8 (attachCode s.chip.sys.attach), (regVal s.chip 0x60008014).extractLsb' 0 8,
      BitVec.ofNat 8 (b1 (bit (regVal s.chip 0x60000004) 0) + 2 * b1 s.chip.fixedUnison + 4 * b1 (bit (regVal s.chip 0x60008028) 3))]) := by
  refine leaves_of_onChip (f := fun c => xPegStatus c _) rfl ?_
  have h14 : regFld (countedFrame s.chip) 0x60008014 7 0 = regFld s.chip 0x60008014 7 0 := by
    rw [regFld, regFld, regVal_countedFrame (by decide)]
  have hbyte : BitVec.ofNat 8 (regFld s.chip 0x60008014 7 0) = (regVal s.chip 0x60008014).extractLsb' 0 8 := by
    apply BitVec.eq_of_toNat_eq
    simp [regFld, bits]
  show Answered _ (pegFrame _ _ _ _) _ _
  rw [pegFrame_own haon hown 0 _ (by decide), if_neg (by simp)]
  dsimp only [rGLB, rRET]
  rw [h14, regVal_countedFrame (by decide), regVal_countedFrame (by decide), ← hbyte]
  exact answered_pegReply _ _ _

omit haon hown in
theorem identRecord_countedFrame (c : Chip) : identRecord (countedFrame c) = identRecord c := by
  have h : identBody (countedFrame c) = identBody c := by
    unfold identBody
    rw [rGLB, regVal_countedFrame (by decide)]
    rfl
  rw [identRecord, identRecord, h]

theorem pegIdent_answers {n : Nat} (hn : n < 4) : leaves (.pegIdent .mark (pegFrameToks a 2 (BitVec.ofNat 8 (16 * n)))) s (fun t =>
    Answered s.chip t stOK (((identRecord s.chip).drop (16 * n)).take 16)) := by
  refine leaves_of_onChip (f := fun c => xPegIdent c _) rfl ?_
  have hnat : (BitVec.ofNat 8 (16 * n)).toNat = 16 * n := by simp; omega
  show Answered _ (pegFrame _ _ _ _) _ _
  rw [pegFrame_own haon hown _ _ (by decide), hnat, if_neg (by omega), identRecord_countedFrame]
  exact answered_pegReply _ _ _

/-- ATTACH in STANDBY asks for the attach (R66). -/
theorem pegAttach_asks (hdev : s.chip.dev = .standby) (hatt : s.chip.sys.attach = .unattached) :
    leaves (.pegAttach .mark (pegFrameToks a 3 0)) s (fun t =>
      t.sys = { (heardFrame s.chip).sys with attachReq := true } ∧ t.out = (pegReply (countedFrame s.chip) stOK []).out ∧
      KeepsWork s.chip t ∧ OnlyRegs [0x6000003C] s.chip t) := by
  refine leaves_of_onChip (f := fun c => xPegAttach c _) rfl ?_
  have h : xPegAttach s.chip (.mark :: pegFrameToks a 3 0) =
      pegReply { countedFrame s.chip with sys := { (countedFrame s.chip).sys with attachReq := true } } stOK [] := by
    unfold xPegAttach
    rw [pegFrame_own haon hown 0 _ (by decide), if_neg (by simp), if_neg (by simp [hdev]), if_neg (by simp [hdev, hatt]),
      if_neg (by simp [hatt])]
  dsimp only
  rw [h]
  exact ⟨rfl, rfl, ⟨rfl, rfl, rfl⟩, onlyRegs_countedFrame _⟩

/-- ATTACH while the module cannot attach is refused. -/
theorem pegAttach_refused (hst : s.chip.dev = .boot ∨ s.chip.sys.attach = .detaching ∨ s.chip.sys.attach = .removed)
    (hw : s.chip.dev ≠ .watch) (hh : s.chip.dev ≠ .hibernate) :
    leaves (.pegAttach .mark (pegFrameToks a 3 0)) s (fun t => Answered s.chip t stSTATE []) := by
  refine leaves_of_onChip (f := fun c => xPegAttach c _) rfl ?_
  have hst' : (countedFrame s.chip).dev = .boot ∨ (countedFrame s.chip).sys.attach = .detaching ∨
      (countedFrame s.chip).sys.attach = .removed := hst
  have hdev : ¬ ((countedFrame s.chip).dev = .watch ∨ (countedFrame s.chip).dev = .hibernate) := not_or.mpr ⟨hw, hh⟩
  show Answered _ (pegFrame _ _ _ _) _ _
  rw [pegFrame_own haon hown 0 _ (by decide), if_neg (by simp), if_neg hdev, if_pos hst']
  exact answered_pegReply _ _ _

/-- A failed luthier answers no DETACH (R655). -/
theorem pegDetach_unanswered (hsafe : (courseOf s.chip luthierCourse).safe = true) :
    leaves (.pegDetach .mark (pegFrameToks a 4 0)) s (fun t => t = countedFrame s.chip) := by
  refine leaves_of_onChip (f := fun c => xPegDetach c _) rfl ?_
  show pegFrame _ _ _ _ = _
  rw [pegFrame_own haon hown 0 _ (by decide), if_neg (by simp)]
  exact if_pos hsafe

/-- What DETACH does while the luthier answers and no stop position is waited for. -/
theorem xPegDetach_answered (hsafe : (courseOf s.chip luthierCourse).safe = false) (hstop : stopPos s.chip = none) :
    xPegDetach s.chip (.mark :: pegFrameToks a 4 0) =
      if detachLegal s.chip then detachBegin (pegReply (countedFrame s.chip) stOK []) none false 0 100
      else pegReply (countedFrame s.chip) stSTATE [] := by
  have hs : (courseOf (countedFrame s.chip) luthierCourse).safe = false := hsafe
  have hp : stopPos (countedFrame s.chip) = none := hstop
  unfold xPegDetach
  rw [pegFrame_own haon hown 0 _ (by decide), if_neg (by simp), if_neg (by rw [hs]; decide), if_neg (by rw [hp]; decide)]
  rfl

theorem pegDetach_begins (hsafe : (courseOf s.chip luthierCourse).safe = false) (hstop : stopPos s.chip = none)
    (hlegal : detachLegal s.chip = true) : leaves (.pegDetach .mark (pegFrameToks a 4 0)) s (fun t =>
      t.dev = .detaching ∧ t.sys.attach = .detaching ∧ draining t = true) := by
  refine leaves_of_onChip (f := fun c => xPegDetach c _) rfl ?_
  rw [xPegDetach_answered haon hown hsafe hstop, if_pos hlegal]
  exact detachBegin_drains _ _ _ _

theorem pegDetach_refused (hsafe : (courseOf s.chip luthierCourse).safe = false) (hstop : stopPos s.chip = none)
    (hlegal : detachLegal s.chip = false) : leaves (.pegDetach .mark (pegFrameToks a 4 0)) s (fun t => Answered s.chip t stSTATE []) := by
  refine leaves_of_onChip (f := fun c => xPegDetach c _) rfl ?_
  rw [xPegDetach_answered haon hown hsafe hstop, if_neg (by rw [hlegal]; decide)]
  exact answered_pegReply _ _ _

/-- WAKE in HIBERNATE begins the wake and records its source (R632). -/
theorem pegWake_wakes (hdev : s.chip.dev = .hibernate) (hw : s.chip.sys.waking = false) :
    leaves (.pegWake .mark (pegFrameToks a 5 0)) s (fun t => t.sys.waking = true ∧ regVal t 0x60001038 = wd (4 + 256 * 10) ∧
      t.out = (pegReply (countedFrame s.chip) stOK []).out ∧ KeepsWork s.chip t) := by
  refine leaves_of_onChip (f := fun c => xPegWake c _) rfl ?_
  have hd : (pegReply (countedFrame s.chip) stOK []).dev = .hibernate := hdev
  have hs : (pegReply (countedFrame s.chip) stOK []).sys.waking = false := hw
  have h : xPegWake s.chip (.mark :: pegFrameToks a 5 0) = wake (pegReply (countedFrame s.chip) stOK []) 4 0 := by
    unfold xPegWake
    rw [pegFrame_own haon hown 0 _ (by decide), if_neg (by simp)]
  rw [h]
  obtain ⟨hsys, hreg, hout, hwork⟩ := wake_hibernating hd hs
  exact ⟨hsys, hreg, hout, keepsWork_trans (d := pegReply (countedFrame s.chip) stOK []) ⟨rfl, rfl, rfl⟩ hwork⟩

/-- RESET resets every domain but AON, and the module keeps its address. -/
theorem pegReset_resets : leaves (.pegReset .mark (pegFrameToks a 6 0x5A)) s (fun t => t.sys.per = false ∧ t.lut = false ∧
    t.dev = .boot ∧ t.sys.attach = .unattached ∧ t.cores = [] ∧ t.courses = [] ∧ (∀ k, k < 8 → islOf t k = .off) ∧
    t.sys.pegAddr = s.chip.sys.pegAddr) := by
  refine leaves_of_onChip (f := fun c => xPegReset c _) rfl ?_
  have h : xPegReset s.chip (.mark :: pegFrameToks a 6 0x5A) = resetAllButAon (pegReply (countedFrame s.chip) stOK []) := by
    unfold xPegReset
    rw [pegFrame_own haon hown _ _ (by decide), if_neg (by simp)]
  rw [h]
  exact resetAllButAon_off _

end

/-- Settles O57: the four bytes of a frame are heard from its tokens, and each command acts on the device once the frame has
been counted. -/
theorem pegBus : Obligations.PegBus := by
  unfold Obligations.PegBus
  intro s
  refine ⟨fun a haon hown => ⟨fun b k p crc i hi => ?_, fun p h0 h5 h16 i hi => ?_, ?_, fun n hn => ?_, fun hdev hatt => ?_,
    fun hst hw hh => ?_, fun hsafe => ?_, fun hsafe hstop => ⟨fun hlegal => pegDetach_begins haon hown hsafe hstop hlegal,
      fun hlegal => ?_⟩, fun hdev hw => ?_, pegReset_resets haon hown⟩,
    fun w => ⟨fun hper => leaves_registerWrite_put hper (by decide) (by decide) (by decide) rfl,
      fun hper => leaves_registerWrite_put hper (by decide) (by decide) (by decide) rfl,
      fun a be hper => leaves_registerWrite_unpowered a _ hper,
      fun a be hbe hper ha h4 => leaves_registerWrite_partial w hbe hper (by omega) (by omega) (by omega)⟩⟩
  · obtain ⟨hbad, hother, hop⟩ := peg_frames_not_acted_on haon hown b k p crc i hi
    exact ⟨hbad, hother, fun hcrc hb hk => leaves_mono (hop hcrc hb hk) fun t h => ⟨h.out, h.counted, h.sys, h.work, h.regs⟩⟩
  · exact leaves_mono (peg_param_refused haon hown h0 h5 h16 i hi) fun t h => ⟨h.out, h.counted, h.sys, h.work, h.regs⟩
  · exact leaves_mono (pegStatus_answers haon hown) fun t h => ⟨h.counted, h.sys, h.work, h.regs, h.out⟩
  · exact leaves_mono (pegIdent_answers haon hown hn) fun t h => ⟨h.counted, h.sys, h.work, h.regs, h.out⟩
  · exact pegAttach_asks haon hown hdev hatt
  · exact leaves_mono (pegAttach_refused haon hown hst hw hh) fun t h => ⟨h.sys, h.out, h.work, h.regs⟩
  · exact leaves_mono (pegDetach_unanswered haon hown hsafe) fun t h =>
      h ▸ ⟨rfl, rfl, keepsWork_countedFrame _, onlyRegs_countedFrame _⟩
  · exact leaves_mono (pegDetach_refused haon hown hsafe hstop hlegal) fun t h => ⟨h.sys, h.out, h.work, h.regs⟩
  · exact pegWake_wakes haon hown hdev hw

end Sys2Proof.Machine
end

section
/-! PROOFS. Field by field: what the host interfaces leave. -/

namespace Sys2Proof.Machine

open Sys2Proof Sys2Proof.Safety

@[simp] theorem ite_pcie {p : Prop} [Decidable p] (c d : Chip) : (if p then c else d).pcie = if p then c.pcie else d.pcie :=
  apply_ite Chip.pcie p c d

@[simp] theorem ite_fst_pcie {p : Prop} [Decidable p] {α : Type} (c d : Chip × α) :
    (if p then c else d).1.pcie = if p then c.1.pcie else d.1.pcie :=
  apply_ite (fun r => r.1.pcie) p c d

@[simp] theorem foldl_pcie {α : Type} {f : Chip → α → Chip} (hf : ∀ c a, (f c a).pcie = c.pcie) (l : List α) (c : Chip) :
    (l.foldl f c).pcie = c.pcie := by
  induction l generalizing c with
  | nil => rfl
  | cons a l ih => exact (ih (f c a)).trans (hf c a)

theorem foldl_fst_pcie {α β : Type} {f : Chip × β → α → Chip × β} (hf : ∀ a x, (f a x).1.pcie = a.1.pcie) (l : List α)
    (a : Chip × β) : (l.foldl f a).1.pcie = a.1.pcie := by
  induction l generalizing a with
  | nil => rfl
  | cons x l ih => exact (ih (f a x)).trans (hf a x)

@[simp] theorem ite_ptp {p : Prop} [Decidable p] (c d : Chip) : (if p then c else d).ptp = if p then c.ptp else d.ptp :=
  apply_ite Chip.ptp p c d

@[simp] theorem ite_fst_ptp {p : Prop} [Decidable p] {α : Type} (c d : Chip × α) :
    (if p then c else d).1.ptp = if p then c.1.ptp else d.1.ptp :=
  apply_ite (fun r => r.1.ptp) p c d

@[simp] theorem foldl_ptp {α : Type} {f : Chip → α → Chip} (hf : ∀ c a, (f c a).ptp = c.ptp) (l : List α) (c : Chip) :
    (l.foldl f c).ptp = c.ptp := by
  induction l generalizing c with
  | nil => rfl
  | cons a l ih => exact (ih (f c a)).trans (hf c a)

theorem foldl_fst_ptp {α β : Type} {f : Chip × β → α → Chip × β} (hf : ∀ a x, (f a x).1.ptp = a.1.ptp) (l : List α)
    (a : Chip × β) : (l.foldl f a).1.ptp = a.1.ptp := by
  induction l generalizing a with
  | nil => rfl
  | cons x l ih => exact (ih (f a x)).trans (hf a x)

@[simp] theorem pulse_ptp (c : Chip) (s : Nat) : (pulse c s).ptp = c.ptp := by
  simp [pulse]

@[simp] theorem pulse_tb (c : Chip) (s : Nat) : (pulse c s).tb = c.tb := by
  simp [pulse]

@[simp] theorem chCutTail_regs (c : Chip) (s n : Nat) : (chCutTail c s n).regs = c.regs := by
  simp [chCutTail]

@[simp] theorem chCutTail_pcie (c : Chip) (s n : Nat) : (chCutTail c s n).pcie = c.pcie := by
  simp [chCutTail]

@[simp] theorem chCutTail_queues (c : Chip) (s n : Nat) : (chCutTail c s n).queues = c.queues := by
  simp [chCutTail]

@[simp] theorem chCutTail_cores (c : Chip) (s n : Nat) : (chCutTail c s n).cores = c.cores := by
  simp [chCutTail]

@[simp] theorem chCutTail_courses (c : Chip) (s n : Nat) : (chCutTail c s n).courses = c.courses := by
  simp [chCutTail]

@[simp] theorem flushChannel_regs (c : Chip) (s held recs : Nat) : (flushChannel c s held recs).1.regs = c.regs := by
  simp [flushChannel]

@[simp] theorem flushChannel_pcie (c : Chip) (s held recs : Nat) : (flushChannel c s held recs).1.pcie = c.pcie := by
  simp [flushChannel]

@[simp] theorem flushChannel_queues (c : Chip) (s held recs : Nat) : (flushChannel c s held recs).1.queues = c.queues := by
  simp [flushChannel]

@[simp] theorem flushChannel_cores (c : Chip) (s held recs : Nat) : (flushChannel c s held recs).1.cores = c.cores := by
  simp [flushChannel]

@[simp] theorem flushChannel_courses (c : Chip) (s held recs : Nat) : (flushChannel c s held recs).1.courses = c.courses := by
  simp [flushChannel]

@[simp] theorem countFlush_cores (c : Chip) (k n : Nat) : (countFlush c k n).cores = c.cores := by
  simp -implicitDefEqProofs [countFlush]

@[simp] theorem countFlush_courses (c : Chip) (k n : Nat) : (countFlush c k n).courses = c.courses := by
  simp -implicitDefEqProofs [countFlush]

@[simp] theorem tbStep_cores (c : Chip) (ofs : Int) : (tbStep c ofs).cores = c.cores := by
  unfold tbStep
  dsimp only
  (repeat' split) <;> simp -implicitDefEqProofs

@[simp] theorem tbStep_courses (c : Chip) (ofs : Int) : (tbStep c ofs).courses = c.courses := by
  unfold tbStep
  dsimp only
  (repeat' split) <;> simp -implicitDefEqProofs

@[simp] theorem tbctlWrite_cores (c : Chip) (w : Word) : (tbctlWrite c w).cores = c.cores := by
  simp [tbctlWrite]

@[simp] theorem tbctlWrite_courses (c : Chip) (w : Word) : (tbctlWrite c w).courses = c.courses := by
  simp [tbctlWrite]

@[simp] theorem flushHostChans_regs (c : Chip) : (flushHostChans c).1.regs = c.regs := by
  unfold flushHostChans
  apply foldl_fst_regs
  intro a s
  exact flushChannel_regs _ _ _ _

@[simp] theorem flushHostChans_pcie (c : Chip) : (flushHostChans c).1.pcie = c.pcie := by
  unfold flushHostChans
  apply foldl_fst_pcie
  intro a s
  exact flushChannel_pcie _ _ _ _

@[simp] theorem flushHostChans_queues (c : Chip) : (flushHostChans c).1.queues = c.queues := by
  unfold flushHostChans
  apply foldl_fst_queues
  intro a s
  exact flushChannel_queues _ _ _ _

@[simp] theorem flushHostChans_cores (c : Chip) : (flushHostChans c).1.cores = c.cores := by
  unfold flushHostChans
  apply foldl_fst_cores
  intro a s
  exact flushChannel_cores _ _ _ _

@[simp] theorem flushHostChans_courses (c : Chip) : (flushHostChans c).1.courses = c.courses := by
  unfold flushHostChans
  apply foldl_fst_courses
  intro a s
  exact flushChannel_courses _ _ _ _

@[simp] theorem pcieReset_cores (c : Chip) (d3 : Bool) : (pcieReset c d3).cores = c.cores := by
  simp -implicitDefEqProofs [pcieReset]

@[simp] theorem pcieReset_courses (c : Chip) (d3 : Bool) : (pcieReset c d3).courses = c.courses := by
  simp -implicitDefEqProofs [pcieReset]

@[simp] theorem ethFlush_cores (c : Chip) (k : Nat) : (ethFlush c k).cores = c.cores := by
  simp [ethFlush]

@[simp] theorem ethFlush_courses (c : Chip) (k : Nat) : (ethFlush c k).courses = c.courses := by
  simp [ethFlush]

@[simp] theorem ptpPstate_cores (c : Chip) (n : Nat) : (ptpPstate c n).cores = c.cores := by
  simp [ptpPstate]

@[simp] theorem ptpPstate_courses (c : Chip) (n : Nat) : (ptpPstate c n).courses = c.courses := by
  simp [ptpPstate]

@[simp] theorem ptpRate_cores (c : Chip) (r : Word) : (ptpRate c r).cores = c.cores := by
  simp [ptpRate]

@[simp] theorem ptpRate_courses (c : Chip) (r : Word) : (ptpRate c r).courses = c.courses := by
  simp [ptpRate]

@[simp] theorem ptpSync_cores (c : Chip) (ofs dly : Word) : (ptpSync c ofs dly).cores = c.cores := by
  unfold ptpSync
  split <;> simp -implicitDefEqProofs

@[simp] theorem ptpSync_courses (c : Chip) (ofs dly : Word) : (ptpSync c ofs dly).courses = c.courses := by
  unfold ptpSync
  split <;> simp -implicitDefEqProofs

@[simp] theorem ptpStamped_cores (c : Chip) (e : PtpEvent) : (ptpStamped c e).cores = c.cores := by
  simp [ptpStamped]

@[simp] theorem ptpStamped_courses (c : Chip) (e : PtpEvent) : (ptpStamped c e).courses = c.courses := by
  simp [ptpStamped]

end Sys2Proof.Machine
end

section
/-! PROOFS. Bits of registers after the usual writes, and the reset of the PCI Express function (R495). -/

namespace Sys2Proof.Machine

open Sys2Proof Sys2Proof.Safety

variable {c : Chip}

/-! ### Bits of a register written -/

theorem bit_regOr (c : Chip) (a m : Nat) {i : Nat} (hi : i < 32) :
    bit (regVal (regOr c a m) a) i = (bit (regVal c a) i || m.testBit i) := by
  rw [regOr, regVal_regUpd_same, bit_eq_getLsbD, bit_eq_getLsbD, BitVec.getLsbD_or, wd, BitVec.getLsbD_ofNat,
    decide_eq_true hi, Bool.true_and]

theorem bit_regClr (c : Chip) (a m : Nat) {i : Nat} (hi : i < 32) :
    bit (regVal (regClr c a m) a) i = (bit (regVal c a) i && !m.testBit i) := by
  rw [regClr, regVal_regUpd_same, bit_eq_getLsbD, bit_eq_getLsbD, BitVec.getLsbD_and, BitVec.getLsbD_not, wd,
    BitVec.getLsbD_ofNat, decide_eq_true hi, Bool.true_and, Bool.true_and]

theorem bits_eq_zero {w : Word} {hi lo : Nat} (h : ∀ i, lo ≤ i → i ≤ hi → bit w i = false) : bits w hi lo = 0 := by
  rw [bits_congr (w := 0) fun i h1 h2 => (h i h1 h2).trans (by simp [bit])]
  simp [bits]

theorem keepsRegs_regUpd {W : Nat → Prop} (c : Chip) {b : Nat} (f : Word → Word) (h : W b) : KeepsRegs W c (regUpd c b f) :=
  keepsRegs_regPut c _ h

/-- A register that no write of a step names keeps its value. -/
theorem regVal_of_keepsRegs {d : Chip} {a : Nat} (h : KeepsRegs (· ≠ a) c d) : regVal d a = regVal c a := h a (by simp)

theorem bits_word (w : Word) : bits w 31 0 = w.toNat := by
  have := w.isLt
  simp [bits]
  omega

/-- A field of all bits is the word. -/
theorem setBits_word (w : Word) (v : Nat) : setBits w 31 0 v = wd v := by
  apply BitVec.eq_of_toNat_eq
  rw [← bits_word, bits_setBits_same _ _ (Nat.zero_le 31) (by decide)]
  rfl

/-- A counter of a whole register wraps. -/
theorem regVal_regWrap_word (c : Chip) (a : Nat) : regVal (regWrap c a 31 0 1) a = regVal c a + 1 := by
  rw [regWrap, regVal_regUpd_same, setBits_word, bits_word]
  apply BitVec.eq_of_toNat_eq
  simp [wd]

/-- A counter of a whole register counts up to its greatest value. -/
theorem regVal_regCount_word {a : Nat} (h : (regVal c a).toNat < 0xFFFFFFFF) :
    regVal (regCount c a 31 0 1) a = regVal c a + 1 := by
  rw [regCount, regVal_regUpd_same, setBits_word, bits_word, sat, if_pos (by omega)]
  apply BitVec.eq_of_toNat_eq
  simp [wd]

/-! ### The reset of the function -/

theorem rCMD_ne {q p : Nat} (h : q ≠ p) : rCMD q 0x08 ≠ rCMD p 0x08 := by simp only [rCMD]; omega

/-- One ring switched off. -/
def ringOff (c : Chip) (q : Nat) : Chip := updQueue (regClr c (rCMD q 0x08) 0x10) q (fun r => { r with replies := [] })

theorem ringOff_same (c : Chip) (q : Nat) : (queueOf (ringOff c q) q).replies = [] ∧ queueEn (ringOff c q) q = false := by
  refine ⟨by rw [ringOff, queueOf_updQueue_same], ?_⟩
  show bit (regVal (regClr c (rCMD q 0x08) 0x10) (rCMD q 0x08)) 4 = false
  rw [bit_regClr _ _ _ (by decide), show Nat.testBit 0x10 4 = true by decide, Bool.not_true, Bool.and_false]

theorem ringOff_other (c : Chip) {q p : Nat} (h : q ≠ p) :
    queueOf (ringOff c p) q = queueOf c q ∧ queueEn (ringOff c p) q = queueEn c q := by
  refine ⟨by rw [ringOff, queueOf_updQueue_other _ _ h]; rfl, ?_⟩
  show bit (regVal (regClr c (rCMD p 0x08) 0x10) (rCMD q 0x08)) 4 = bit (regVal c (rCMD q 0x08)) 4
  rw [regClr, regVal_regUpd_other c _ (rCMD_ne h)]

theorem ringsOff_off (l : List Nat) (c : Chip) {q : Nat} (hq : q ∈ l) :
    (queueOf (l.foldl ringOff c) q).replies = [] ∧ queueEn (l.foldl ringOff c) q = false := by
  induction l using List.reverseRecOn with
  | nil => exact absurd hq List.not_mem_nil
  | append_singleton l p ih =>
    rw [List.foldl_concat]
    by_cases hp : q = p
    · exact hp ▸ ringOff_same _ _
    · obtain ⟨h1, h2⟩ := ringOff_other (l.foldl ringOff c) hp
      rw [h1, h2]
      exact ih (by simpa [hp] using hq)

/-- The host's channels flushed and counted. -/
def hostFlushed (c : Chip) : Chip :=
  countFlush { (flushHostChans c).1 with flushing := uPCIE :: (flushHostChans c).1.flushing.filter (· ≠ uPCIE) } 4 (flushHostChans c).2

/-- The registers of the link and of MSI-X as a reset of the function leaves them. -/
def linkCleared (c : Chip) (d3 : Bool) : Chip :=
  regClr (if d3 then regOr (regClr c 0x60003000 0x40) 0x60003000 0x80 else regClr c 0x60003000 0xFF) 0x6000300C 3

/-- The function's structures at their defaults. -/
def pcieDefault (c : Chip) : Chip :=
  { c with pcie := { c.pcie with pend := [], masked := allVectors, mps256 := false, bars := [], table := [] } }

theorem pcieReset_eq (c : Chip) (d3 : Bool) : pcieReset c d3 =
    regCount (regOr ([0, 1, 2, 3].foldl ringOff (pcieDefault (linkCleared (hostFlushed c) d3))) 0x60003004 0x20) 0x60003008 31 16 1 := by
  cases d3 <;> rfl

theorem keepsRegs_ringsOff {W : Nat → Prop} {l : List Nat} (hW : ∀ q, W (rCMD q 0x08)) (c : Chip) :
    KeepsRegs W c (l.foldl ringOff c) := by
  have h (c : Chip) (q : Nat) : KeepsRegs W c (ringOff c q) := keepsRegs_regUpd c (fun w => w &&& ~~~ (wd 0x10)) (hW q)
  exact keepsRegs_foldl h l c

/-- Flushing a domain's crossing writes its own counters only. -/
theorem keepsRegs_countFlush {W : Nat → Prop} (c : Chip) (k n : Nat) (h : ∀ a, 0x60002000 ≤ a → a < 0x60003000 → W a)
    (hk : k < 8) : KeepsRegs W c (countFlush c k n) := by
  have hW : W (0x60002060 + 4 * k) := h _ (by omega) (by omega)
  exact keepsRegs_trans (keepsRegs_regUpd c _ (h _ (by decide) (by decide)))
    (keepsRegs_trans (keepsRegs_regUpd _ _ (h _ (by decide) (by decide)))
      (keepsRegs_trans (keepsRegs_regUpd _ _ hW) (keepsRegs_regUpd _ _ hW)))

theorem regVal_hostFlushed (c : Chip) {a : Nat} (h : 0x60003000 ≤ a) : regVal (hostFlushed c) a = regVal c a :=
  regVal_of_keepsRegs (keepsRegs_trans (keepsRegs_of_regs (flushHostChans_regs c))
    (keepsRegs_countFlush _ 4 _ (fun b _ hb => by omega) (by decide)))

/-- The register of the link after a reset of the function: all its live bits are gone, and in D3hot BME goes and D3 is set. -/
theorem regVal_pcieReset_link (c : Chip) (d3 : Bool) :
    regVal (pcieReset c d3) 0x60003000 =
      if d3 then regVal (regOr (regClr c 0x60003000 0x40) 0x60003000 0x80) 0x60003000 else regVal (regClr c 0x60003000 0xFF) 0x60003000 := by
  have hkeep : KeepsRegs (· ≠ 0x60003000) (linkCleared (hostFlushed c) d3) (pcieReset c d3) := by
    rw [pcieReset_eq]
    exact keepsRegs_trans (keepsRegs_trans (keepsRegs_trans (keepsRegs_of_regs (d := pcieDefault _) rfl)
      (keepsRegs_ringsOff (fun q => by simp only [rCMD]; omega) _)) (keepsRegs_regUpd _ _ (by decide)))
      (keepsRegs_regUpd _ _ (by decide))
  rw [regVal_of_keepsRegs hkeep, linkCleared, regClr, regVal_regUpd_other _ _ (by decide)]
  cases d3
  · simp only [Bool.false_eq_true, if_false]
    rw [regClr, regClr, regVal_regUpd_same, regVal_regUpd_same, regVal_hostFlushed c (by decide)]
  · simp only [if_true]
    rw [regOr, regOr, regClr, regClr, regVal_regUpd_same, regVal_regUpd_same, regVal_regUpd_same, regVal_regUpd_same,
      regVal_hostFlushed c (by decide)]

theorem pcieReset_flag (c : Chip) (d3 : Bool) : bit (regVal (pcieReset c d3) 0x60003004) 5 = true := by
  rw [pcieReset_eq, regCount, regVal_regUpd_other _ _ (by decide), bit_regOr _ _ _ (by decide)]
  exact (Bool.or_eq_true _ _).mpr (Or.inr (by decide))

theorem ringsOff_fields (l : List Nat) (c : Chip) :
    (l.foldl ringOff c).pcie = c.pcie ∧ (l.foldl ringOff c).flushing = c.flushing := by
  induction l generalizing c with
  | nil => exact ⟨rfl, rfl⟩
  | cons q l ih => exact ih (ringOff c q)

theorem linkCleared_fields (c : Chip) (d3 : Bool) :
    (linkCleared c d3).pcie = c.pcie ∧ (linkCleared c d3).flushing = c.flushing := by
  cases d3 <;> exact ⟨rfl, rfl⟩

theorem countFlush_fields (c : Chip) (k n : Nat) :
    (countFlush c k n).pcie = c.pcie ∧ (countFlush c k n).flushing = c.flushing := ⟨rfl, rfl⟩

theorem hostFlushed_fields (c : Chip) : (hostFlushed c).pcie = c.pcie ∧ uPCIE ∈ (hostFlushed c).flushing := by
  rw [hostFlushed, (countFlush_fields _ _ _).1, (countFlush_fields _ _ _).2]
  exact ⟨flushHostChans_pcie c, List.mem_cons_self⟩

theorem pcieReset_pcie (c : Chip) (d3 : Bool) : (pcieReset c d3).pcie =
    { c.pcie with pend := [], masked := allVectors, mps256 := false, bars := [], table := [] } := by
  rw [pcieReset_eq, regCount_pcie, regOr_pcie, (ringsOff_fields _ _).1, pcieDefault]
  dsimp only
  rw [(linkCleared_fields _ _).1, (hostFlushed_fields c).1]

theorem pcieReset_flushing (c : Chip) (d3 : Bool) : uPCIE ∈ (pcieReset c d3).flushing := by
  rw [pcieReset_eq, regCount_flushing, regOr_flushing, (ringsOff_fields _ _).2, pcieDefault]
  dsimp only
  rw [(linkCleared_fields _ _).2]
  exact (hostFlushed_fields c).2

theorem pcieReset_rings (c : Chip) (d3 : Bool) {q : Nat} (hq : q < 4) :
    (queueOf (pcieReset c d3) q).replies = [] ∧ queueEn (pcieReset c d3) q = false := by
  have hne (x : Nat) (hx : x = 0x60003004 ∨ x = 0x60003008) : rCMD q 0x08 ≠ x := by simp only [rCMD]; omega
  have hmem : q ∈ [0, 1, 2, 3] := by simp only [List.mem_cons, List.not_mem_nil]; omega
  rw [pcieReset_eq]
  generalize pcieDefault (linkCleared (hostFlushed c) d3) = d
  obtain ⟨h1, h2⟩ := ringsOff_off [0, 1, 2, 3] d hmem
  generalize [0, 1, 2, 3].foldl ringOff d = e at *
  refine ⟨by rw [queueOf_regCount, queueOf_regOr, h1], ?_⟩
  rw [queueEn, regCount, regOr, regVal_regUpd_other _ _ (hne _ (.inr rfl)), regVal_regUpd_other _ _ (hne _ (.inl rfl))]
  exact h2

theorem bits_regClr_low (c : Chip) (a : Nat) : bits (regVal (regClr c a 0xFF) a) 7 0 = 0 := by
  refine bits_eq_zero fun i _ hi => ?_
  rw [bit_regClr _ _ _ (by omega), show Nat.testBit 0xFF i = true by interval_cases i <;> rfl, Bool.not_true, Bool.and_false]

/-- The live bits of a link whose function entered D3hot: UP and D3. -/
theorem bits_link_d3 {w : Word} (h : bits w 7 0 = 1 ∨ bits w 7 0 = 65) :
    bits ((w &&& ~~~ (wd 0x40)) ||| wd 0x80) 7 0 = 0x81 := by
  have hb (i : Nat) (hi : i < 8) : bit w i = (bits w 7 0).testBit i := by
    rw [testBit_bits, decide_eq_true (by omega), Bool.true_and, Nat.zero_add]
  refine (bits_congr (w := wd 0x81) fun i _ hi => ?_).trans (by decide)
  rw [bit_or, bit_and, bit_not _ (by omega), bit_wd (by omega), bit_wd (by omega), bit_wd (by omega), hb i (by omega)]
  rcases h with h | h <;> rw [h] <;> interval_cases i <;> rfl

end Sys2Proof.Machine
end

section
/-! PROOFS. The PCI Express function (R492 to R499): its link, its resets, its configuration and its messages. -/

namespace Sys2Proof.Machine

open Sys2Proof Sys2Proof.Safety

variable {s : State}

section
variable (hper : s.chip.sys.per = true)
include hper

theorem pcieLinkUp_up {v w : Nat} (hp : s.chip.pcie.perst = true) (h1 : 1 ≤ v) (h3 : v ≤ 3) (hw : w = 1 ∨ w = 2 ∨ w = 4)
    (hsafe : (courseOf s.chip luthierCourse).safe = false) : leaves (.pcieLinkUp v w) s (fun t =>
      regVal t 0x60003000 = ((regVal s.chip 0x60003000 &&& 0x8040) ||| wd (1 + 2 * v + 8 * w)) ∧ KeepsWork s.chip t ∧
      OnlyRegs [0x60003000] s.chip t) := by
  refine leaves_of_onUnit (f := fun c => xPcieLinkUp c v w) rfl
    (by rcases hw with rfl | rfl | rfl <;> simp [isSpeed, isWidth] <;> omega) ?_
  show _ ∧ _ ∧ _
  rw [xPcieLinkUp, if_pos ⟨hper, hp, h1, h3, hw, hsafe⟩]
  exact ⟨regVal_regPut_same _ _ _, keeps_regPut _ _ _⟩

/-- A hot reset or a link-down clears the link, the function and the rings of the host (R495). -/
theorem pcieFunctionReset_link {k : Nat} (hk : k = 1 ∨ k = 2) (hup : bit (regVal s.chip 0x60003000) 0 = true) :
    leaves (.pcieFunctionReset k) s (fun t => t = pcieReset s.chip false) := by
  refine leaves_of_onUnit (f := fun c => xPcieFunctionReset c k) rfl (by rcases hk with rfl | rfl <;> rfl) ?_
  show xPcieFunctionReset s.chip k = _
  rw [xPcieFunctionReset, hper, if_neg (by decide), if_neg (by omega), rHST]
  rw [show bit (regVal s.chip (0x60003000 + 0x000)) 0 = true from hup, if_neg (by decide), if_pos hk]

/-- PERST_N asserted resets the function (R495). -/
theorem pcieFunctionReset_perst (hp : s.chip.pcie.perst = true) : leaves (.pcieFunctionReset 0) s (fun t =>
    t = pcieReset { s.chip with pcie := { s.chip.pcie with perst := false } } false) := by
  refine leaves_of_onUnit (f := fun c => xPcieFunctionReset c 0) rfl rfl ?_
  show xPcieFunctionReset s.chip 0 = _
  rw [xPcieFunctionReset, hper, if_neg (by decide), if_pos rfl, if_pos hp]

/-- The entry into D3hot resets the function but keeps the link up (R495). -/
theorem pcieFunctionReset_d3 (hlink : bits (regVal s.chip 0x60003000) 7 0 = 1 ∨ bits (regVal s.chip 0x60003000) 7 0 = 65) :
    leaves (.pcieFunctionReset 3) s (fun t => t = pcieReset s.chip true) := by
  have hb (i : Nat) (hi : i < 8) : bit (regVal s.chip 0x60003000) i = (bits (regVal s.chip 0x60003000) 7 0).testBit i := by
    rw [testBit_bits, decide_eq_true (by omega), Bool.true_and, Nat.zero_add]
  have h0 : bit (regVal s.chip 0x60003000) 0 = true := by rw [hb 0 (by decide)]; rcases hlink with h | h <;> rw [h] <;> rfl
  have h7 : bit (regVal s.chip 0x60003000) 7 = false := by rw [hb 7 (by decide)]; rcases hlink with h | h <;> rw [h] <;> rfl
  refine leaves_of_onUnit (f := fun c => xPcieFunctionReset c 3) rfl rfl ?_
  show xPcieFunctionReset s.chip 3 = _
  unfold xPcieFunctionReset
  rw [hper, if_neg (by decide), if_neg (by decide), show bit (regVal s.chip (rHST 0x000)) 0 = true from h0, if_neg (by decide),
    if_neg (by decide), if_pos rfl, show bit (regVal s.chip (rHST 0x000)) 7 = false from h7, if_neg (by decide)]

/-- A write of the function's configuration is performed while the link is up. -/
theorem leaves_pcieConfigWrite {f v : Nat} {w : Word} {P : Chip → Prop} (hup : bit (regVal s.chip 0x60003000) 0 = true)
    (hok : isCfgWrite f v = true) (hP : P (
      if f = 0 then regSetFld s.chip 0x60003000 6 6 (b1 (bit w 0))
      else if f = 1 then regSetFld s.chip 0x6000300C 0 0 (b1 (bit w 0))
      else if f = 2 then regSetFld s.chip 0x6000300C 1 1 (b1 (bit w 0))
      else if f = 3 then bar2Write s.chip v w
      else if f = 4 then
        (if bit w 0 then (if bit (regVal s.chip 0x60003000) 7 then s.chip else pcieReset s.chip true) else regClr s.chip 0x60003000 0x80)
      else if f = 5 then { s.chip with pcie := { s.chip.pcie with mps256 := bit w 0 } }
      else if f = 6 then { s.chip with pcie := { s.chip.pcie with bars := Tbl.put 0 s.chip.pcie.bars v (w &&& barMask v) } }
      else s.chip)) : leaves (.pcieConfigWrite f v w) s P := by
  refine leaves_of_onUnit (f := fun c => xPcieConfigWrite c f v w) rfl hok ?_
  have hup' : bit (regVal s.chip (rHST 0x000)) 0 = true := hup
  show P (xPcieConfigWrite s.chip f v w)
  rw [xPcieConfigWrite, hper, hup', if_neg (by decide)]
  exact hP

theorem pcieConfigWrite_bme {w : Word} (hup : bit (regVal s.chip 0x60003000) 0 = true) :
    leaves (.pcieConfigWrite 0 0 w) s (fun t => bit (regVal t 0x60003000) 6 = bit w 0 ∧ KeepsWork s.chip t ∧
      OnlyRegs [0x60003000] s.chip t) := by
  refine leaves_pcieConfigWrite hper hup rfl ?_
  rw [if_pos rfl]
  refine ⟨?_, keeps_regPut _ _ _⟩
  rw [regSetFld, regVal_regUpd_same, bit_setBits_same _ _ (by decide)]

theorem pcieConfigWrite_msix {f : Nat} {w : Word} (hf : f = 1 ∨ f = 2) (hup : bit (regVal s.chip 0x60003000) 0 = true) :
    leaves (.pcieConfigWrite f 0 w) s (fun t => bit (regVal t 0x6000300C) (f - 1) = bit w 0 ∧ KeepsWork s.chip t ∧
      OnlyRegs [0x6000300C] s.chip t) := by
  have h (i : Nat) (hi : i < 2) : bit (regVal (regSetFld s.chip 0x6000300C i i (b1 (bit w 0))) 0x6000300C) i = bit w 0 := by
    rw [regSetFld, regVal_regUpd_same, bit_setBits_same _ _ (by omega)]
  rcases hf with rfl | rfl
  · exact leaves_pcieConfigWrite hper hup rfl ⟨h 0 (by decide), keeps_regPut _ _ _⟩
  · exact leaves_pcieConfigWrite hper hup rfl ⟨h 1 (by decide), keeps_regPut _ _ _⟩

omit hper in
/-- The mask bit of a vector follows what is written to its entry's last doubleword. -/
theorem bar2Write_mask (c : Chip) {v : Nat} (w : Word) (hv : v < 64) :
    (v ∈ (bar2Write c (16 * v + 12) w).pcie.masked ↔ bit w 0 = true) ∧
    (∀ u, u ≠ v → (u ∈ (bar2Write c (16 * v + 12) w).pcie.masked ↔ u ∈ c.pcie.masked)) ∧
    (bar2Write c (16 * v + 12) w).pcie.table = c.pcie.table ∧ KeepsWork c (bar2Write c (16 * v + 12) w) ∧
    OnlyRegs [] c (bar2Write c (16 * v + 12) w) := by
  unfold bar2Write
  rw [if_neg (by omega), if_pos (by omega), show (16 * v + 12) / 16 = v by omega]
  refine ⟨?_, fun u hu => ?_, rfl, ⟨rfl, rfl, rfl⟩, onlyRegs_of_regs rfl⟩
  · dsimp only
    split <;> simp [*]
  · dsimp only
    split <;> simp [hu]

omit hper in
/-- A doubleword of a vector's address or data is kept, and no other doubleword of the table changes. -/
theorem bar2Write_entry (c : Chip) {v j : Nat} (w : Word) (hv : v < 64) (hj : j < 3) :
    bar2Word (bar2Write c (16 * v + 4 * j) w) (16 * v + 4 * j) = w ∧
    (∀ o, o ≠ 16 * v + 4 * j → bar2Word (bar2Write c (16 * v + 4 * j) w) o = bar2Word c o) ∧
    KeepsWork c (bar2Write c (16 * v + 4 * j) w) ∧ OnlyRegs [] c (bar2Write c (16 * v + 4 * j) w) := by
  unfold bar2Write
  rw [if_neg (by omega), if_neg (by omega)]
  refine ⟨?_, fun o ho => ?_, ⟨rfl, rfl, rfl⟩, onlyRegs_of_regs rfl⟩
  · rw [bar2Word, if_pos (by omega), if_neg (by omega)]
    exact Tbl.get_put_same _ _ _ _
  · unfold bar2Word
    dsimp only
    rw [Tbl.get_put_apart _ _ _ _ ho]

theorem pcieConfigWrite_bar {v : Nat} {w : Word} (hv : v < 4) (hup : bit (regVal s.chip 0x60003000) 0 = true) :
    leaves (.pcieConfigWrite 6 v w) s (fun t =>
      barWord t v = ((if v = 0 then w &&& 0xFF000000 else if v = 2 then w &&& 0xFFFFE000 else w) ||| (if v % 2 = 0 then 4 else 0)) ∧
      (∀ u, u ≠ v → barWord t u = barWord s.chip u) ∧ KeepsWork s.chip t ∧ OnlyRegs [] s.chip t) := by
  refine leaves_pcieConfigWrite hper hup (by simp [isCfgWrite]; omega) ?_
  refine ⟨?_, fun u hu => ?_, ⟨rfl, rfl, rfl⟩, onlyRegs_of_regs rfl⟩
  · have hmask : w &&& barMask v = if v = 0 then w &&& 0xFF000000 else if v = 2 then w &&& 0xFFFFE000 else w := by
      unfold barMask
      split_ifs
      · rfl
      · rfl
      · exact BitVec.and_allOnes
    show Tbl.get 0 (Tbl.put 0 s.chip.pcie.bars v (w &&& barMask v)) v ||| _ = _
    rw [Tbl.get_put_same, hmask]
  · show Tbl.get 0 (Tbl.put 0 s.chip.pcie.bars v (w &&& barMask v)) u ||| _ = _
    rw [Tbl.get_put_apart _ _ _ _ hu, barWord]

omit hper in
/-- A pending vector whose entry is open leaves as its message (R497). -/
theorem msixMessage_sends {v : Nat} (hv : v < 64) (hp : v ∈ s.chip.pcie.pend) (ho : msixOpen s.chip v = true) :
    leaves (.msixMessage v) s (fun t =>
      t.out = s.chip.out ++ [.msix v ((bar2Word s.chip (16 * v + 4)).toNat * 2 ^ 32 + (bar2Word s.chip (16 * v)).toNat)
        (bar2Word s.chip (16 * v + 8))] ∧
      t.pcie.pend = s.chip.pcie.pend.erase v ∧ KeepsWork s.chip t ∧ OnlyRegs [0x6000300C] s.chip t) := by
  refine leaves_of_onUnit (f := fun c => xMsixMessage c v) rfl (by simp [isVector, hv]) ?_
  have hnext (x : Nat) (w : Word) (c : Chip) (h : x ∉ [0x6000300C]) : regVal (regPut c (rHST 0x00C) w) x = regVal c x :=
    regVal_regPut_other c w (by simpa [rHST] using h)
  show _ ∧ _ ∧ _ ∧ _
  rw [xMsixMessage, if_pos ⟨hp, ho⟩]
  exact ⟨rfl, rfl, ⟨rfl, rfl, rfl⟩, fun x hx => hnext x _ { s.chip with pcie := _ } hx⟩

end

end Sys2Proof.Machine
end

section
/-! PROOFS. Ethernet, PTP and the time base (R500 to R514). -/

namespace Sys2Proof.Machine

open Sys2Proof Sys2Proof.Safety

variable {s : State}

theorem leaves_eth {i : Instr} {k : Nat} {f : Chip → Chip} {P : Chip → Prop} (hi : exec i s = onUnit (isEth k) s f) (hk : k < 2)
    (hP : P (f s.chip)) : leaves i s P := leaves_of_onUnit hi (decide_eq_true hk) hP

/-- A port with a link rate, 10 to 1000 Mbit/s (R500). -/
theorem ethLinkUp_up {k r : Nat} (hper : s.chip.sys.per = true) (hk : k < 2) (h1 : 1 ≤ r) (h3 : r ≤ 3) (hpll : onPll s.chip = true)
    (hen : bit (regVal s.chip (ethReg k 0)) 0 = true) : leaves (.ethLinkUp k r) s (fun t =>
      (Config.optE = true → regVal t (ethReg k 4) = wd (1 + 2 * r) ∧ KeepsWork s.chip t ∧ OnlyRegs [ethReg k 4] s.chip t) ∧
      (Config.optE = false → t = s.chip)) := by
  refine leaves_eth (f := fun c => xEthLinkUp c k r) rfl hk ⟨fun ho => ?_, fun ho => ?_⟩
  · show _ ∧ _ ∧ _
    rw [xEthLinkUp, if_pos (by simp [ho, hper, hpll, hk, hen, h1, h3])]
    exact ⟨regVal_regPut_same _ _ _, keeps_regPut _ _ _⟩
  · show xEthLinkUp s.chip k r = _
    rw [xEthLinkUp, if_neg (by simp [ho])]

theorem ethReg_lt {k o : Nat} (hk : k < 2) (ho : o < 0x20) : 0x60003000 ≤ ethReg k o ∧ ethReg k o < 0x60004000 := by
  simp only [ethReg, rHST]; omega

/-- A port that loses its link is flushed (R603). -/
theorem ethLinkLoss_flushes {k : Nat} (hper : s.chip.sys.per = true) (hk : k < 2) (hup : bit (regVal s.chip (ethReg k 4)) 0 = true) :
    leaves (.ethLinkLoss k) s (fun t =>
      bits (regVal t (ethReg k 4)) 2 0 = 0 ∧ uPCIE + 1 + k ∈ t.flushing ∧ KeepsWork s.chip t) := by
  refine leaves_eth (f := fun c => xEthLinkLoss c k) rfl hk ?_
  obtain ⟨hlo, _⟩ := ethReg_lt (o := 4) hk (by decide)
  have hreg : regVal (ethFlush (regClr s.chip (ethReg k 4) 7) k) (ethReg k 4) = regVal (regClr s.chip (ethReg k 4) 7) (ethReg k 4) :=
    regVal_of_keepsRegs (keepsRegs_trans (keepsRegs_of_regs rfl)
      (keepsRegs_countFlush _ (5 + k) 0 (fun a h1 h2 => by omega) (by omega)))
  show _ ∧ _ ∧ _
  rw [xEthLinkLoss, if_pos ⟨hper, hk, hup⟩]
  refine ⟨?_, ?_, ⟨by simp, by simp, by simp⟩⟩
  · rw [hreg]
    refine bits_eq_zero fun i _ hi => ?_
    rw [bit_regClr _ _ _ (by omega), show Nat.testBit 7 i = true by interval_cases i <;> rfl, Bool.not_true, Bool.and_false]
  · rw [ethFlush, (countFlush_fields _ _ _).2]
    exact List.mem_cons_self

/-- A frame a port takes: its MAC and its receiver are on and nothing of it is being flushed. -/
structure EthTakes (c : Chip) (k : Nat) : Prop where
  per : c.sys.per = true
  port : k < 2
  link : bit (regVal c (ethReg k 4)) 0 = true
  enabled : bit (regVal c (ethReg k 0)) 0 = true
  addressed : regVal c (ethReg k 8) ≠ 0
  idle : uPCIE + 1 + k ∉ c.flushing

/-- A port without the option takes no frame. -/
theorem xEthFrameReceived_without {c : Chip} (k kind ret : Nat) (data : List Byte) (ho : Config.optE = false) :
    xEthFrameReceived c k kind ret data = c := by
  rw [xEthFrameReceived, if_neg (by simp [ho])]

theorem xEthFrameReceived_taken {c : Chip} {k : Nat} (h : EthTakes c k) (kind ret : Nat) (data : List Byte) (ho : Config.optE = true) :
    xEthFrameReceived c k kind ret data =
      if kind = 0 then emit (regWrap c (ethReg k 0x14) 31 0 1) (.datagram k ret (leBytes 6 (macNat k)))
      else if kind = 1 ∧ bit (regVal c (ethReg k 0)) 3 = true then emit (regWrap c (ethReg k 0x14) 31 0 1) (.datagram k ret data)
      else if kind = 2 then ethCommand (regWrap c (ethReg k 0x14) 31 0 1) k ret data
      else ethDrop c k := by
  obtain ⟨hper, hport, hlink, hen, haddr, hidle⟩ := h
  rw [xEthFrameReceived, if_pos (by simp [ho, hper, hport, hlink, hen, hidle]; exact haddr)]

/-- A datagram of a wrong length is dropped and counted (R502). -/
theorem ethCommand_wrongLength {c : Chip} {k : Nat} (ret : Nat) {data : List Byte} (h : data.length ≠ 16 + fieldAt data 6 2 + 44) :
    ethCommand c k ret data = ethDrop c k := by
  rw [ethCommand, if_pos h]

theorem ethDropped (c : Chip) (k : Nat) :
    let t := ethDrop (regWrap c (ethReg k 0x14) 31 0 1) k
    t.out = c.out ∧ t.queues = c.queues ∧ KeepsWork c t ∧ OnlyRegs [ethReg k 0x14, ethReg k 0x18] c t ∧
      ((regVal c (ethReg k 0x18)).toNat < 0xFFFFFFFF → regVal t (ethReg k 0x18) = regVal c (ethReg k 0x18) + 1) := by
  have hne : ethReg k 0x18 ≠ ethReg k 0x14 := by simp only [ethReg, rHST]; omega
  have h18 : regVal (regWrap c (ethReg k 0x14) 31 0 1) (ethReg k 0x18) = regVal c (ethReg k 0x18) := regVal_regUpd_other c _ hne
  refine ⟨rfl, rfl, ⟨rfl, rfl, rfl⟩, fun x hx => ?_, fun hlt => ?_⟩
  · obtain ⟨h1, h2⟩ := not_or.mp (fun h => hx (by simpa using h))
    exact (regVal_regUpd_other _ _ h2).trans (regVal_regUpd_other c _ h1)
  · rw [ethDrop, regVal_regCount_word (by rw [h18]; exact hlt), h18]

theorem ethTaken (c : Chip) (k : Nat) (o : Output) :
    KeepsWork c (emit (regWrap c (ethReg k 0x14) 31 0 1) o) ∧ OnlyRegs [ethReg k 0x14] c (emit (regWrap c (ethReg k 0x14) 31 0 1) o) :=
  ⟨⟨rfl, rfl, rfl⟩, keepsRegs_trans (d := regWrap c (ethReg k 0x14) 31 0 1) (keepsRegs_regUpd c _ (by simp))
    (keepsRegs_of_regs rfl)⟩

theorem ethFrames {k : Nat} (h : EthTakes s.chip k) (ret : Nat) (data : List Byte) :
    leaves (.ethFrameReceived k 0 ret data) s (fun t =>
      (Config.optE = true → t.out = s.chip.out ++ [.datagram k ret (leBytes 6 (macNat k))] ∧ KeepsWork s.chip t ∧
        OnlyRegs [ethReg k 0x14] s.chip t) ∧ (Config.optE = false → t = s.chip)) ∧
    leaves (.ethFrameReceived k 1 ret data) s (fun t =>
      (Config.optE = true → bit (regVal s.chip (ethReg k 0)) 3 = true → t.out = s.chip.out ++ [.datagram k ret data] ∧
        KeepsWork s.chip t ∧ OnlyRegs [ethReg k 0x14] s.chip t) ∧
      (Config.optE = true → bit (regVal s.chip (ethReg k 0)) 3 = false → t = ethDrop s.chip k)) ∧
    leaves (.ethFrameReceived k 3 ret data) s (fun t =>
      (Config.optE = true → t = ethDrop s.chip k) ∧ (Config.optE = false → t = s.chip)) ∧
    (data.length ≠ 16 + fieldAt data 6 2 + 44 → leaves (.ethFrameReceived k 2 ret data) s (fun t =>
      Config.optE = true → t.out = s.chip.out ∧ t.queues = s.chip.queues ∧ KeepsWork s.chip t ∧
        OnlyRegs [ethReg k 0x14, ethReg k 0x18] s.chip t ∧
        ((regVal s.chip (ethReg k 0x18)).toNat < 0xFFFFFFFF → regVal t (ethReg k 0x18) = regVal s.chip (ethReg k 0x18) + 1))) := by
  have hleaves {kind : Nat} {P : Chip → Prop} (hP : P (xEthFrameReceived s.chip k kind ret data)) :
      leaves (.ethFrameReceived k kind ret data) s P := leaves_eth (f := fun c => xEthFrameReceived c k kind ret data) rfl h.port hP
  refine ⟨hleaves ⟨fun ho => ?_, xEthFrameReceived_without k 0 ret data⟩, hleaves ⟨fun ho h3 => ?_, fun ho h3 => ?_⟩,
    hleaves ⟨fun ho => ?_, xEthFrameReceived_without k 3 ret data⟩, fun hlen => hleaves fun ho => ?_⟩
  · rw [xEthFrameReceived_taken h 0 ret data ho, if_pos rfl]
    exact ⟨rfl, ethTaken _ _ _⟩
  · rw [xEthFrameReceived_taken h 1 ret data ho, if_neg (by decide), if_pos ⟨rfl, h3⟩]
    exact ⟨rfl, ethTaken _ _ _⟩
  · rw [xEthFrameReceived_taken h 1 ret data ho, if_neg (by decide), if_neg (by simp [h3]), if_neg (by decide)]
  · rw [xEthFrameReceived_taken h 3 ret data ho, if_neg (by decide), if_neg (by simp), if_neg (by decide)]
  · rw [xEthFrameReceived_taken h 2 ret data ho, if_neg (by decide), if_neg (by simp), if_pos rfl, ethCommand_wrongLength ret hlen]
    exact ethDropped _ k

/-! ### PTP (R506 to R509, R513) -/

/-- A pulse of a source writes its clock domain's own registers only. -/
theorem regVal_pulse (c : Chip) (n : Nat) {a : Nat} (h4 : a ≠ 0x60002004) (h14 : a ≠ 0x60002014) :
    regVal (pulse c n) a = regVal c a := by
  unfold pulse
  split
  · exact (regVal_regUpd_other _ _ h4).trans (regVal_regUpd_other (updSrc c n _) _ h14)
  · rfl

/-- PTP runs on a port. -/
structure PtpOn (c : Chip) : Prop where
  per : c.sys.per = true
  enabled : bit (regVal c 0x6000302C) 0 = true
  pll : onPll c = true
  link : bit (regVal c (ethReg (bits c.ptp.ctl 1 1) 4)) 0 = true
  addressed : regVal c (ethReg (bits c.ptp.ctl 1 1) 8) ≠ 0
  idle : uPCIE + 1 + bits c.ptp.ctl 1 1 ∉ c.flushing

theorem ptpRuns_of_on {c : Chip} (h : PtpOn c) (ho : Config.optE = true) : ptpRuns c = true := by
  obtain ⟨hper, hen, hpll, hlink, haddr, hidle⟩ := h
  have hen' : bit (regVal c (rHST 0x02C)) 0 = true := hen
  simp only [ptpRuns, ptpPort, ho, hper, hen', hpll, hlink, hidle, Bool.and_true, Bool.true_and, decide_false, Bool.not_false]
  exact decide_eq_true haddr

theorem ptpRuns_without (c : Chip) (ho : Config.optE = false) : ptpRuns c = false := by simp [ptpRuns, ho]

theorem ptpAllowed_of {c : Chip} {n : Nat} (h : n = 4 ∨ n = 9) : ptpAllowed c n = true := by
  rcases h with rfl | rfl <;> simp [ptpAllowed]

/-- The servo's registers once the offset and the delay of a SYNC within its lock range are in, before the pulse of LOCK. -/
def ptpSynced (c : Chip) (ofs dly : Word) : Chip :=
  let d := regPut (regPut (regWrap c 0x60003030 31 16 1) 0x60003034 ofs) 0x60003038 dly
  let good := Nat.min 16 (c.ptp.good + 1)
  regSetFld { d with ptp := { d.ptp with good := good } } 0x60003030 4 4
    (b1 (decide (regFld d 0x60003030 3 0 = 9) && decide (16 ≤ good)))

theorem ptpSync_eq (c : Chip) {ofs : Word} (dly : Word) (h : (sgn ofs).natAbs ≤ 1000) :
    ptpSync c ofs dly = ptpSynced c ofs dly ∨ ptpSync c ofs dly = pulse (ptpSynced c ofs dly) 979 := by
  unfold ptpSync
  simp only [if_pos h]
  split
  · exact Or.inl rfl
  · exact Or.inr rfl

/-- What a SYNC within the lock range leaves (R507). -/
structure Synced (c d : Chip) (ofs dly : Word) : Prop where
  state : bits (regVal d 0x60003030) 3 0 = bits (regVal c 0x60003030) 3 0
  ofs : regVal d 0x60003034 = ofs
  dly : regVal d 0x60003038 = dly
  good : d.ptp = { c.ptp with good := Nat.min 16 (c.ptp.good + 1) }
  lock : bits (regVal c 0x60003030) 3 0 = 9 → bit (regVal d 0x60003030) 4 = decide (15 ≤ c.ptp.good)
  tb : d.tb = c.tb
  work : KeepsWork c d
  others : ∀ a, 0x60003000 ≤ a → a ≠ 0x60003030 → a ≠ 0x60003034 → a ≠ 0x60003038 → regVal d a = regVal c a

theorem synced_ptpSynced (c : Chip) (ofs dly : Word) : Synced c (ptpSynced c ofs dly) ofs dly := by
  have h30 : regVal (regPut (regPut (regWrap c 0x60003030 31 16 1) 0x60003034 ofs) 0x60003038 dly) 0x60003030 =
      setBits (regVal c 0x60003030) 31 16 (bits (regVal c 0x60003030) 31 16 + 1) := by
    rw [regVal_regPut_other _ _ (by decide), regVal_regPut_other _ _ (by decide), regWrap, regVal_regUpd_same]
  have hst : bits (setBits (regVal c 0x60003030) 31 16 (bits (regVal c 0x60003030) 31 16 + 1)) 3 0 =
      bits (regVal c 0x60003030) 3 0 := bits_setBits_apart _ _ (by decide) (by decide) (by decide)
  have hfld : regFld (regPut (regPut (regWrap c 0x60003030 31 16 1) 0x60003034 ofs) 0x60003038 dly) 0x60003030 3 0 =
      bits (regVal c 0x60003030) 3 0 := by rw [regFld, h30, hst]
  unfold ptpSynced
  extract_lets d good
  have hreg (x : Nat) : regVal { d with ptp := { d.ptp with good := good } } x = regVal d x := rfl
  refine ⟨?_, ?_, ?_, rfl, fun h9 => ?_, rfl, ⟨rfl, rfl, rfl⟩, fun a _ h0 h4 h8 => ?_⟩
  · rw [regSetFld, regVal_regUpd_same, bits_setBits_apart _ _ (by decide) (by decide) (by decide), hreg, h30, hst]
  · rw [regSetFld, regVal_regUpd_other _ _ (by decide), hreg, regVal_regPut_other _ _ (by decide), regVal_regPut_same]
  · rw [regSetFld, regVal_regUpd_other _ _ (by decide), hreg, regVal_regPut_same]
  · rw [regSetFld, regVal_regUpd_same, bit_setBits_same _ _ (by decide), hfld, h9, decide_eq_true rfl, Bool.true_and]
    refine decide_eq_decide.mpr ?_
    show 16 ≤ min 16 (c.ptp.good + 1) ↔ _
    omega
  · rw [regSetFld, regVal_regUpd_other _ _ h0, hreg, regVal_regPut_other _ _ h8, regVal_regPut_other _ _ h4, regWrap,
      regVal_regUpd_other _ _ h0]

theorem synced_ptpSync (c : Chip) {ofs : Word} (dly : Word) (h : (sgn ofs).natAbs ≤ 1000) :
    Synced c (ptpSync c ofs dly) ofs dly := by
  have hs := synced_ptpSynced c ofs dly
  rcases ptpSync_eq c dly h with he | he
  · exact he ▸ hs
  · rw [he]
    have hr {a : Nat} (ha : 0x60003000 ≤ a) : regVal (pulse (ptpSynced c ofs dly) 979) a = regVal (ptpSynced c ofs dly) a :=
      regVal_pulse _ _ (by omega) (by omega)
    exact ⟨by rw [hr (by decide), hs.state], by rw [hr (by decide), hs.ofs], by rw [hr (by decide), hs.dly],
      by rw [pulse_ptp, hs.good], fun h9 => by rw [hr (by decide), hs.lock h9], by rw [pulse_tb, hs.tb],
      keepsWork_trans hs.work ⟨by simp, by simp, by simp⟩,
      fun a ha h0 h4 h8 => by rw [hr ha, hs.others a ha h0 h4 h8]⟩

/-- The receive stamp corrected on a 1000 Mbit/s link (R508). -/
theorem ptpStamp_rx (c : Chip) (sfd : Nat) : ptpStamp c false sfd =
    if bits (regVal c (ethReg (bits c.ptp.ctl 1 1) 4)) 2 1 = 3 then sfd - bits (regVal c 0x6000303C) 15 0 else sfd := by
  rw [ptpStamp, ite_not]
  rfl

theorem ptpStamp_tx (c : Chip) (sfd : Nat) : ptpStamp c true sfd =
    if bits (regVal c (ethReg (bits c.ptp.ctl 1 1) 4)) 2 1 = 3 then sfd + bits (regVal c 0x6000303C) 31 16 else sfd := by
  rw [ptpStamp, ite_not]
  rfl

/-- A rate within the greatest is taken as it stands (R509). -/
theorem ptpRate_within (c : Chip) {r : Word} (h : (sgn r).natAbs ≤ 549755814) : ptpRate c r = regPut c 0x60003018 r := by
  rw [ptpRate, if_neg (by omega), if_neg (by omega)]
  rfl

theorem ptpPstate_slave (c : Chip) : ptpPstate c 9 = regSetFld c 0x60003030 3 0 9 := by
  rw [ptpPstate, if_pos rfl]
  rfl

theorem ptpStamped_regs (c : Chip) (e : PtpEvent) : (ptpStamped c e).regs = c.regs := by
  unfold ptpStamped
  split_ifs <;> rfl

/-- The device once a message of PTP has been counted, its reception stamped and the port's state is SLAVE. -/
def ptpHeard (c : Chip) (sfd : Nat) : Chip :=
  regSetFld (ptpStamped (regWrap c (ethReg (ptpPort c) 0x14) 31 0 1) ⟨[], 1, sfd⟩) 0x60003030 3 0 9

theorem ethReg_port (c : Chip) (o : Nat) (ho : o < 0x20) :
    0x60003040 ≤ ethReg (ptpPort c) o ∧ ethReg (ptpPort c) o < 0x60003080 := by
  have h : ptpPort c < 2 := Nat.mod_lt _ (by decide)
  simp only [ethReg, rHST]
  omega

theorem regVal_ptpHeard (c : Chip) (sfd : Nat) {a : Nat} (h0 : a ≠ 0x60003030) (hp : a ≠ ethReg (ptpPort c) 0x14) :
    regVal (ptpHeard c sfd) a = regVal c a := by
  rw [ptpHeard, regSetFld, regVal_regUpd_other _ _ h0, regVal_of_regs (ptpStamped_regs _ _), regWrap, regVal_regUpd_other c _ hp]

theorem ptpHeard_state (c : Chip) (sfd : Nat) : bits (regVal (ptpHeard c sfd) 0x60003030) 3 0 = 9 := by
  rw [ptpHeard, regSetFld, regVal_regUpd_same, bits_setBits_same _ _ (by decide) (by decide)]
  rfl

theorem ptpHeard_count (c : Chip) (sfd : Nat) : regVal (ptpHeard c sfd) (ethReg (ptpPort c) 0x14) =
    regVal c (ethReg (ptpPort c) 0x14) + 1 := by
  obtain ⟨hlo, _⟩ := ethReg_port c 0x14 (by decide)
  rw [ptpHeard, regSetFld, regVal_regUpd_other _ _ (by omega), regVal_of_regs (ptpStamped_regs _ _), regVal_regWrap_word]

theorem ptpHeard_stamp (c : Chip) (sfd : Nat) : (ptpHeard c sfd).ptp = { c.ptp with rxStamp := ptpStamp c false sfd } := by
  have hlo := (ethReg_port c 0x14 (by decide)).1
  have hne : ethReg (ptpPort c) 4 ≠ ethReg (ptpPort c) 0x14 := by simp only [ethReg, rHST]; omega
  have h : ptpStamp (regWrap c (ethReg (ptpPort c) 0x14) 31 0 1) false sfd = ptpStamp c false sfd := by
    have hport : ptpPort (regWrap c (ethReg (ptpPort c) 0x14) 31 0 1) = ptpPort c := rfl
    have hlink : regFld (regWrap c (ethReg (ptpPort c) 0x14) 31 0 1) (ethReg (ptpPort c) 4) 2 1 = regFld c (ethReg (ptpPort c) 4) 2 1 :=
      congrArg (bits · 2 1) (regVal_regUpd_other c _ hne)
    have hcor (hi lo : Nat) : regFld (regWrap c (ethReg (ptpPort c) 0x14) 31 0 1) (rHST 0x03C) hi lo = regFld c (rHST 0x03C) hi lo :=
      congrArg (bits · hi lo) (regVal_regUpd_other c _ (by simp only [rHST]; omega))
    rw [ptpStamp, hport, hlink, hcor, hcor, ptpStamp]
  rw [ptpHeard, regSetFld_ptp, ptpStamped, if_pos rfl, h]
  rfl

/-- A SYNC with its offset, delay and rate at a port in SLAVE (R507 to R509). -/
theorem xPtpMessage_sync {c : Chip} (hon : PtpOn c) {ofs rate : Word} (dly : Word) (sfd : Nat) (hofs : (sgn ofs).natAbs ≤ 1000)
    (hen : bit (regVal c 0x60003024) 0 = true) (hrate : (sgn rate).natAbs ≤ 549755814) (ho : Config.optE = true) :
    xPtpMessage c 9 true ofs dly rate 0 ⟨[], 1, sfd⟩ = regPut (ptpSync (ptpHeard c sfd) ofs dly) 0x60003018 rate := by
  have hs := synced_ptpSync (ptpHeard c sfd) dly hofs
  have hlo := (ethReg_port c 0x14 (by decide)).1
  have h24 : bit (regVal (ptpSync (ptpHeard c sfd) ofs dly) 0x60003024) 0 = true := by
    rw [hs.others _ (by decide) (by decide) (by decide) (by decide), regVal_ptpHeard c sfd (by decide) (by omega), hen]
  unfold xPtpMessage
  rw [if_pos ⟨ptpRuns_of_on hon ho, ptpAllowed_of (.inr rfl)⟩, ptpPstate_slave]
  refine (if_pos ⟨rfl, h24⟩).trans ?_
  exact ptpRate_within _ hrate

/-- A port that leaves SLAVE loses its lock (R506). -/
theorem ptpPstate_unlocks (c : Chip) {n : Nat} (hn : n ≠ 9) (hlt : n < 16) :
    bits (regVal (ptpPstate c n) 0x60003030) 3 0 = n ∧ bit (regVal (ptpPstate c n) 0x60003030) 4 = false ∧
      (ptpPstate c n).ptp.txStamp = c.ptp.txStamp := by
  have hr (e : Chip) (b : Bool) : regVal (if b then pulse e 979 else e) 0x60003030 = regVal e 0x60003030 := by
    cases b
    · rfl
    · exact regVal_pulse e 979 (by decide) (by decide)
  have hp (e : Chip) (b : Bool) : (if b then pulse e 979 else e).ptp = e.ptp := by
    cases b
    · rfl
    · exact pulse_ptp e 979
  rw [ptpPstate, if_neg hn]
  dsimp only
  rw [hr, hp]
  refine ⟨?_, ?_, rfl⟩
  · show bits (regVal (regClr (regSetFld c 0x60003030 3 0 n) 0x60003030 0x10) 0x60003030) 3 0 = n
    rw [bits_congr (w := regVal (regSetFld c 0x60003030 3 0 n) 0x60003030) fun i _ hi => by
      rw [bit_regClr _ _ _ (by omega), show Nat.testBit 0x10 i = false by interval_cases i <;> rfl, Bool.not_false, Bool.and_true],
      regSetFld, regVal_regUpd_same, bits_setBits_same _ _ (by decide) (by decide)]
    exact Nat.mod_eq_of_lt hlt
  · show bit (regVal (regClr (regSetFld c 0x60003030 3 0 n) 0x60003030 0x10) 0x60003030) 4 = false
    rw [bit_regClr _ _ _ (by decide), show Nat.testBit 0x10 4 = true by decide, Bool.not_true, Bool.and_false]

theorem ptpStamped_sent (c : Chip) (sfd : Nat) : (ptpStamped c ⟨[], 2, sfd⟩).ptp.txStamp = ptpStamp c true sfd := by
  rw [ptpStamped, if_neg (by simp), if_pos rfl]

/-- A message sent in MASTER is stamped. -/
theorem ptpMessageInterval_sent {c : Chip} (hon : PtpOn c) (sfd : Nat) (ho : Config.optE = true) :
    xPtpMessageInterval c 4 ⟨[], 2, sfd⟩ = ptpPstate (ptpStamped c ⟨[], 2, sfd⟩) 4 := by
  unfold xPtpMessageInterval
  rw [if_pos ⟨ptpRuns_of_on hon ho, ptpAllowed_of (.inl rfl)⟩]
  rfl

/-! ### The time base -/

theorem xTimeBaseStep_eq {c : Chip} (hper : c.sys.per = true) {w : Word} (h1 : bit w 1 = true) (h0 : bit w 0 = false) :
    xTimeBaseStep c w = tbStep (regPut c 0x60003024 (w &&& 1)) (tbOfs c) := by
  have hofs (v : Word) : tbOfs (regPut c 0x60003024 v) = tbOfs c := by
    unfold tbOfs
    rw [rHST, rHST, regVal_regPut_other _ _ (by decide), regVal_regPut_other _ _ (by decide)]
  have hbit : bit (regVal (regPut c (rHST 0x024) (w &&& 1)) (rHST 0x024)) 0 = false := by
    rw [regVal_regPut_same, bit_and, h0, Bool.false_and]
  rw [xTimeBaseStep, if_pos ⟨hper, h1⟩, tbctlWrite]
  simp only [h0, Bool.false_and, Bool.false_eq_true, if_false]
  rw [if_pos ⟨h1, hbit⟩]
  exact congrArg (tbStep _) (hofs _)

theorem stepBarred_regPut (c : Chip) (a : Nat) (v : Word) : stepBarred (regPut c a v) = stepBarred c := rfl

theorem timeBase_stepped {c : Chip} {ofs : Int} (hb : stepBarred c = false) (h0 : 0 ≤ (c.tb : Int) + ofs) :
    ((tbStep c ofs).tb : Int) = c.tb + ofs ∧ (srcOf (tbStep c ofs) 978).pulseBusy = true := by
  rw [tbStep, if_neg (by rw [hb]; simp; omega)]
  dsimp only
  refine ⟨?_, pulse_busy _ _⟩
  rw [pulse_tb, regWrap_tb]
  split <;> exact Int.toNat_of_nonneg h0

theorem timeBase_barred {c : Chip} (ofs : Int) (hb : stepBarred c = true) :
    (tbStep c ofs).tb = c.tb ∧ bit (regVal (tbStep c ofs) 0x60003028) 0 = true ∧ (srcOf (tbStep c ofs) 978).pulseBusy = true := by
  rw [tbStep, if_pos (Or.inl hb)]
  refine ⟨by rw [pulse_tb, regOr_tb], ?_, pulse_busy _ _⟩
  rw [regVal_pulse _ _ (by decide) (by decide), rHST]
  show bit (regVal (regOr c 0x60003028 1) 0x60003028) 0 = true
  rw [bit_regOr _ _ _ (by decide)]
  exact (Bool.or_eq_true _ _).mpr (Or.inr (by decide))

/-! ### The obligation -/

/-- What a SYNC at a port in SLAVE leaves (R507 to R509). -/
theorem leaves_ptpMessage {s : State} (hon : PtpOn s.chip) {ofs rate : Word} (dly : Word) (sfd : Nat) (hofs : (sgn ofs).natAbs ≤ 1000)
    (hen : bit (regVal s.chip 0x60003024) 0 = true) (hrate : (sgn rate).natAbs ≤ 549755814) :
    leaves (.ptpMessage 9 true ofs dly rate 0 ⟨[], 1, sfd⟩) s (fun t =>
      (Config.optE = true → t.ptp.rxStamp = ptpStamp s.chip false sfd ∧
        bits (regVal t 0x60003030) 3 0 = 9 ∧ regVal t 0x60003034 = ofs ∧ regVal t 0x60003038 = dly ∧ regVal t 0x60003018 = rate ∧
        regVal t (ethReg (bits s.chip.ptp.ctl 1 1) 0x14) = regVal s.chip (ethReg (bits s.chip.ptp.ctl 1 1) 0x14) + 1 ∧
        t.ptp.good = Nat.min 16 (s.chip.ptp.good + 1) ∧
        bit (regVal t 0x60003030) 4 = decide (15 ≤ s.chip.ptp.good) ∧ t.tb = s.chip.tb ∧ KeepsWork s.chip t) ∧
      (Config.optE = false → t = s.chip)) := by
  refine leaves_of_onUnit (f := fun c => xPtpMessage c 9 true ofs dly rate 0 ⟨[], 1, sfd⟩) rfl rfl ⟨fun ho => ?_, fun ho => ?_⟩
  · have hs := synced_ptpSync (ptpHeard s.chip sfd) dly hofs
    have hlo := (ethReg_port s.chip 0x14 (by decide)).1
    have hne {a : Nat} (h : a ≠ 0x60003018) : regVal (regPut (ptpSync (ptpHeard s.chip sfd) ofs dly) 0x60003018 rate) a =
        regVal (ptpSync (ptpHeard s.chip sfd) ofs dly) a := regVal_regPut_other _ _ h
    have h9 := ptpHeard_state s.chip sfd
    have hstamp := ptpHeard_stamp s.chip sfd
    have hcount : regVal (ptpSync (ptpHeard s.chip sfd) ofs dly) (ethReg (ptpPort s.chip) 0x14) =
        regVal s.chip (ethReg (ptpPort s.chip) 0x14) + 1 := by
      rw [hs.others _ (by omega) (by omega) (by omega) (by omega), ptpHeard_count]
    rw [xPtpMessage_sync hon dly sfd hofs hen hrate ho]
    refine ⟨?_, ?_, ?_, ?_, regVal_regPut_same _ _ _, (hne (by show ethReg (ptpPort s.chip) 0x14 ≠ _; omega)).trans hcount, ?_, ?_,
      hs.tb, keepsWork_trans (d := ptpHeard s.chip sfd) ⟨rfl, rfl, rfl⟩ (keepsWork_trans hs.work ⟨rfl, rfl, rfl⟩)⟩
    · rw [regPut_ptp, hs.good, hstamp]
    · rw [hne (by decide), hs.state, h9]
    · rw [hne (by decide), hs.ofs]
    · rw [hne (by decide), hs.dly]
    · rw [regPut_ptp, hs.good, hstamp]
    · rw [hne (by decide), hs.lock h9, hstamp]
  · show xPtpMessage s.chip 9 true ofs dly rate 0 ⟨[], 1, sfd⟩ = _
    rw [xPtpMessage, if_neg (by rw [ptpRuns_without _ ho]; simp)]

theorem leaves_ptpInterval {s : State} (hon : PtpOn s.chip) (sfd : Nat) :
    leaves (.ptpMessageInterval 4 ⟨[], 2, sfd⟩) s (fun t =>
      (Config.optE = true → t.ptp.txStamp = ptpStamp s.chip true sfd ∧
        bits (regVal t 0x60003030) 3 0 = 4 ∧ bit (regVal t 0x60003030) 4 = false ∧ KeepsWork s.chip t) ∧
      (Config.optE = false → t = s.chip)) := by
  refine leaves_of_onUnit (f := fun c => xPtpMessageInterval c 4 ⟨[], 2, sfd⟩) rfl rfl ⟨fun ho => ?_, fun ho => ?_⟩
  · obtain ⟨hst, hlock, htx⟩ := ptpPstate_unlocks (ptpStamped s.chip ⟨[], 2, sfd⟩) (n := 4) (by decide) (by decide)
    rw [ptpMessageInterval_sent hon sfd ho]
    exact ⟨htx.trans (ptpStamped_sent _ _), hst, hlock, ⟨by simp, by simp, by simp⟩⟩
  · show xPtpMessageInterval s.chip 4 ⟨[], 2, sfd⟩ = _
    rw [xPtpMessageInterval, if_neg (by rw [ptpRuns_without _ ho]; simp)]

theorem leaves_timeBaseStep {s : State} (hper : s.chip.sys.per = true) {w : Word} (h1 : bit w 1 = true) (h0 : bit w 0 = false) :
    (stepBarred s.chip = false → 0 ≤ (s.chip.tb : Int) + tbOfs s.chip → leaves (.timeBaseStep w) s (fun t =>
      (t.tb : Int) = s.chip.tb + tbOfs s.chip ∧ (srcOf t 978).pulseBusy = true ∧ KeepsWork s.chip t)) ∧
    (stepBarred s.chip = true → leaves (.timeBaseStep w) s (fun t =>
      t.tb = s.chip.tb ∧ bit (regVal t 0x60003028) 0 = true ∧ (srcOf t 978).pulseBusy = true ∧ KeepsWork s.chip t)) := by
  have hwork : KeepsWork s.chip (tbStep (regPut s.chip 0x60003024 (w &&& 1)) (tbOfs s.chip)) := ⟨by simp, by simp, by simp⟩
  have hstep := xTimeBaseStep_eq hper h1 h0
  refine ⟨fun hb hpos => leaves_of_onChip (f := fun c => xTimeBaseStep c w) rfl ?_,
    fun hb => leaves_of_onChip (f := fun c => xTimeBaseStep c w) rfl ?_⟩
  · obtain ⟨htb, hbusy⟩ := timeBase_stepped (c := regPut s.chip 0x60003024 (w &&& 1)) hb hpos
    rw [hstep]
    exact ⟨htb, hbusy, hwork⟩
  · obtain ⟨htb, hbit, hbusy⟩ := timeBase_barred (c := regPut s.chip 0x60003024 (w &&& 1)) (tbOfs s.chip) hb
    rw [hstep]
    exact ⟨htb, hbit, hbusy, hwork⟩

theorem leaves_tbloRead {s : State} (hper : s.chip.sys.per = true) : leaves .tbloRead s (fun t =>
    t.out = s.chip.out ++ [.read 0x60003010 (wd s.chip.tb)] ∧ regVal t 0x60003014 = wd (s.chip.tb / 2 ^ 32) ∧
    KeepsWork s.chip t ∧ OnlyRegs [0x60003014] s.chip t) := by
  refine leaves_of_onChip (f := fun c => xTbloRead c) rfl ?_
  obtain ⟨hwork, hregs⟩ := keeps_regPut s.chip 0x60003014 (wd (s.chip.tb / 2 ^ 32))
  have hsame := regVal_regPut_same s.chip 0x60003014 (wd (s.chip.tb / 2 ^ 32))
  rw [xTbloRead, if_pos hper, tbloRead, rHST, rHST]
  generalize wd (s.chip.tb / 2 ^ 32) = v at *
  exact ⟨rfl, hsame, ⟨rfl, rfl, rfl⟩, hregs⟩

/-- Settles O49: each event of an interface, by the equation of its command under the conditions it names. -/
theorem hostInterfaces : Obligations.HostInterfaces := by
  unfold Obligations.HostInterfaces
  intro s hper
  refine ⟨leaves_of_onChip (f := fun c => xPerstRelease c) rfl rfl,
    fun v w hp h1 h3 hw hsafe => pcieLinkUp_up hper hp h1 h3 hw hsafe, fun k hk hup => ?_, fun hp => ?_, fun hlink => ?_,
    fun v w hup => ⟨pcieConfigWrite_bme hper hup, fun hv => ?_, fun hv j hj => ?_, fun f hf => pcieConfigWrite_msix hper hf hup,
      leaves_pcieConfigWrite hper hup rfl rfl, fun hv => pcieConfigWrite_bar hper hv hup⟩,
    fun v hv hp ho => msixMessage_sends hv hp ho,
    fun k hk => ⟨fun r h1 h3 hpll hen => ethLinkUp_up hper hk h1 h3 hpll hen, fun hup => ethLinkLoss_flushes hper hk hup,
      fun ret data hup hen haddr hidle => ethFrames ⟨hper, hk, hup, hen, haddr, hidle⟩ ret data⟩,
    fun hen hpll hup haddr hidle => ⟨fun ofs dly rate sfd hofs hadj hrate => ?_, fun sfd => ?_⟩,
    fun w h1 h0 => leaves_timeBaseStep hper h1 h0, leaves_tbloRead hper⟩
  · refine leaves_mono (pcieFunctionReset_link hper hk hup) fun t ht => ?_
    rw [ht, regVal_pcieReset_link, pcieReset_pcie]
    exact ⟨bits_regClr_low _ _, rfl, rfl, rfl, pcieReset_flag _ _, pcieReset_flushing _ _, fun q hq => pcieReset_rings _ _ hq⟩
  · refine leaves_mono (pcieFunctionReset_perst hper hp) fun t ht => ?_
    rw [ht, regVal_pcieReset_link, pcieReset_pcie, pcieReset_cores, pcieReset_courses]
    exact ⟨rfl, bits_regClr_low _ _, rfl, pcieReset_flag _ _, pcieReset_flushing _ _, rfl, rfl⟩
  · refine leaves_mono (pcieFunctionReset_d3 hper hlink) fun t ht => ?_
    rw [ht, regVal_pcieReset_link, if_pos rfl, pcieReset_pcie, pcieReset_cores, pcieReset_courses, regOr, regVal_regUpd_same,
      regClr, regVal_regUpd_same]
    exact ⟨bits_link_d3 hlink, rfl, pcieReset_flag _ _, pcieReset_flushing _ _, rfl, rfl⟩
  · exact leaves_pcieConfigWrite hper hup (by simp [isCfgWrite]; omega) (bar2Write_mask s.chip w hv)
  · exact leaves_pcieConfigWrite hper hup (by simp [isCfgWrite]; omega) (bar2Write_entry s.chip w hv hj)
  · rw [← ptpStamp_rx]
    exact leaves_ptpMessage ⟨hper, hen, hpll, hup, haddr, hidle⟩ dly sfd hofs hadj hrate
  · rw [← ptpStamp_tx]
    exact leaves_ptpInterval ⟨hper, hen, hpll, hup, haddr, hidle⟩ sfd

end Sys2Proof.Machine
end

section
/-! PROOFS. Field by field: what the distributor leaves. -/

namespace Sys2Proof.Machine

open Sys2Proof Sys2Proof.Safety

@[simp] theorem ite_srcs {p : Prop} [Decidable p] (c d : Chip) : (if p then c else d).srcs = if p then c.srcs else d.srcs :=
  apply_ite Chip.srcs p c d

@[simp] theorem ite_fst_srcs {p : Prop} [Decidable p] {α : Type} (c d : Chip × α) :
    (if p then c else d).1.srcs = if p then c.1.srcs else d.1.srcs :=
  apply_ite (fun r => r.1.srcs) p c d

@[simp] theorem foldl_srcs {α : Type} {f : Chip → α → Chip} (hf : ∀ c a, (f c a).srcs = c.srcs) (l : List α) (c : Chip) :
    (l.foldl f c).srcs = c.srcs := by
  induction l generalizing c with
  | nil => rfl
  | cons a l ih => exact (ih (f c a)).trans (hf c a)

theorem foldl_fst_srcs {α β : Type} {f : Chip × β → α → Chip × β} (hf : ∀ a x, (f a x).1.srcs = a.1.srcs) (l : List α)
    (a : Chip × β) : (l.foldl f a).1.srcs = a.1.srcs := by
  induction l generalizing a with
  | nil => rfl
  | cons x l ih => exact (ih (f a x)).trans (hf a x)

@[simp] theorem ite_hostList {p : Prop} [Decidable p] (c d : Chip) : (if p then c else d).hostList = if p then c.hostList else d.hostList :=
  apply_ite Chip.hostList p c d

@[simp] theorem ite_fst_hostList {p : Prop} [Decidable p] {α : Type} (c d : Chip × α) :
    (if p then c else d).1.hostList = if p then c.1.hostList else d.1.hostList :=
  apply_ite (fun r => r.1.hostList) p c d

@[simp] theorem foldl_hostList {α : Type} {f : Chip → α → Chip} (hf : ∀ c a, (f c a).hostList = c.hostList) (l : List α) (c : Chip) :
    (l.foldl f c).hostList = c.hostList := by
  induction l generalizing c with
  | nil => rfl
  | cons a l ih => exact (ih (f c a)).trans (hf c a)

theorem foldl_fst_hostList {α β : Type} {f : Chip × β → α → Chip × β} (hf : ∀ a x, (f a x).1.hostList = a.1.hostList) (l : List α)
    (a : Chip × β) : (l.foldl f a).1.hostList = a.1.hostList := by
  induction l generalizing a with
  | nil => rfl
  | cons x l ih => exact (ih (f a x)).trans (hf a x)

@[simp] theorem csrPut_srcs (c : Chip) (k i : Nat) (w : Word) : (csrPut c k i w).srcs = c.srcs := by
  simp [csrPut]

@[simp] theorem csrPut_regs (c : Chip) (k i : Nat) (w : Word) : (csrPut c k i w).regs = c.regs := by
  simp [csrPut]

@[simp] theorem countWord_srcs (c : Chip) (k : Nat) : (countWord c k).srcs = c.srcs := by
  simp [countWord]

@[simp] theorem countWord_regs (c : Chip) (k : Nat) : (countWord c k).regs = c.regs := by
  simp [countWord]

@[simp] theorem retire_srcs (c : Chip) (k pc : Nat) : (retire c k pc).srcs = c.srcs := by
  unfold retire
  dsimp only
  split <;> simp

@[simp] theorem retire_regs (c : Chip) (k pc : Nat) : (retire c k pc).regs = c.regs := by
  unfold retire
  dsimp only
  split <;> simp

@[simp] theorem completeWait_srcs (c : Chip) (k : Nat) (push : List Word) : (completeWait c k push).srcs = c.srcs := by
  simp [completeWait]

@[simp] theorem completeWait_regs (c : Chip) (k : Nat) (push : List Word) : (completeWait c k push).regs = c.regs := by
  simp [completeWait]

@[simp] theorem withdraw_hostList (c : Chip) (s : Nat) : (withdraw c s).hostList = c.hostList := by
  simp [withdraw]

@[simp] theorem msixRequest_srcs (c : Chip) (v : Nat) : (msixRequest c v).srcs = c.srcs := by
  simp [msixRequest]

@[simp] theorem msixRequest_regs (c : Chip) (v : Nat) : (msixRequest c v).regs = c.regs := by
  simp [msixRequest]

@[simp] theorem msixRequest_hostList (c : Chip) (v : Nat) : (msixRequest c v).hostList = c.hostList := by
  simp [msixRequest]

@[simp] theorem becomeIdle_regs (c : Chip) (s : Nat) : (becomeIdle c s).regs = c.regs := by
  simp [becomeIdle]

@[simp] theorem becomeIdle_hostList (c : Chip) (s : Nat) : (becomeIdle c s).hostList = c.hostList := by
  simp [becomeIdle]

@[simp] theorem srcEdge_cores (c : Chip) (s : Nat) : (srcEdge c s).cores = c.cores := by
  simp [srcEdge]

@[simp] theorem srcEdge_courses (c : Chip) (s : Nat) : (srcEdge c s).courses = c.courses := by
  simp [srcEdge]

@[simp] theorem srcJudge_cores (c : Chip) (s : Nat) : (srcJudge c s).cores = c.cores := by
  simp [srcJudge]

@[simp] theorem srcJudge_courses (c : Chip) (s : Nat) : (srcJudge c s).courses = c.courses := by
  simp [srcJudge]

@[simp] theorem srcSample_cores (c : Chip) (s : Nat) : (srcSample c s).cores = c.cores := by
  simp [srcSample]

@[simp] theorem srcSample_courses (c : Chip) (s : Nat) : (srcSample c s).courses = c.courses := by
  simp [srcSample]

@[simp] theorem eventWake_srcs (c : Chip) (k : Nat) : (eventWake c k).srcs = c.srcs := by
  unfold eventWake
  split <;> simp

@[simp] theorem eventWake_regs (c : Chip) (k : Nat) : (eventWake c k).regs = c.regs := by
  unfold eventWake
  split <;> simp

@[simp] theorem recheckAll_cores (c : Chip) : (recheckAll c).cores = c.cores := by
  simp [recheckAll]

@[simp] theorem recheckAll_courses (c : Chip) : (recheckAll c).courses = c.courses := by
  simp [recheckAll]

@[simp] theorem withdrawEvery_cores (c : Chip) : (withdrawEvery c).cores = c.cores := by
  simp [withdrawEvery]

@[simp] theorem withdrawEvery_courses (c : Chip) : (withdrawEvery c).courses = c.courses := by
  simp [withdrawEvery]

@[simp] theorem edsWrite_cores (c : Chip) (s : Nat) (w : Word) : (edsWrite c s w).cores = c.cores := by
  simp [edsWrite]

@[simp] theorem edsWrite_courses (c : Chip) (s : Nat) (w : Word) : (edsWrite c s w).courses = c.courses := by
  simp [edsWrite]

@[simp] theorem edgRaise_cores (c : Chip) (w : Word) : (edgRaise c w).cores = c.cores := by
  simp [edgRaise]

@[simp] theorem edgRaise_courses (c : Chip) (w : Word) : (edgRaise c w).courses = c.courses := by
  simp [edgRaise]

@[simp] theorem luthierTakes_cores (c : Chip) (s : Nat) : (luthierTakes c s).cores = c.cores := by
  simp [luthierTakes]

@[simp] theorem luthierTakes_courses (c : Chip) (s : Nat) : (luthierTakes c s).courses = c.courses := by
  simp [luthierTakes]

end Sys2Proof.Machine
end

section
/-! PROOFS. The event distributor (R563 to R588): what its own operations make of a source. -/

namespace Sys2Proof.Machine

open Sys2Proof Sys2Proof.Safety

variable {c : Chip}

/-! ### A source changed -/

theorem chWords_updSrc (c : Chip) (x : Nat) (f : Src → Src) (s : Nat) (h : Chan) (n i : Nat) :
    chWords (updSrc c x f) s h i n = chWords c s h i n := by
  induction n generalizing i with
  | zero => rfl
  | succ n ih => rw [chWords, chWords, ih]; rfl

theorem chLevel_updSrc (c : Chip) (x : Nat) (f : Src → Src) (s : Nat) (h : Chan) :
    chLevel (updSrc c x f) s h = chLevel c s h := by
  have hall : chAll (updSrc c x f) s = chAll c s := by simp only [chAll, chWords_updSrc, chanOf_updSrc]
  unfold chLevel chVisible chRecords
  rw [hall]
  rfl

/-- The level of a source is a matter of the unit it stands for. -/
theorem srcLevel_updSrc (c : Chip) (x y : Nat) (f : Src → Src) : srcLevel (updSrc c x f) y = srcLevel c y := by
  unfold srcLevel
  simp only [chLevel_updSrc]
  rfl

theorem srcSense_updSrc (c : Chip) (x y : Nat) (f : Src → Src) : srcSense (updSrc c x f) y = srcSense c y := rfl
theorem srcKind_updSrc (c : Chip) (x y : Nat) (f : Src → Src) : srcKind (updSrc c x f) y = srcKind c y := rfl

/-- What a step that changes one source only leaves. -/
theorem keeps_updSrc (c : Chip) (x : Nat) (f : Src → Src) (l : List Nat) :
    KeepsWork c (updSrc c x f) ∧ OnlyRegs l c (updSrc c x f) := ⟨⟨rfl, rfl, rfl⟩, onlyRegs_of_regs rfl⟩

/-- A source that is not the host's becomes pending (R566). -/
theorem becomePending_core {x : Nat} (hk : srcKind c x ≠ 3) :
    becomePending c x = updSrc c x (fun r => { r with st := 1, holder := 0, since := c.tb, notgt := false }) := by
  unfold becomePending
  exact if_neg fun h => hk h.1

theorem srcOf_becomeIdle (c : Chip) (x : Nat) :
    srcOf (becomeIdle c x) x = { srcOf c x with st := 0, holder := 0, sat := false, notgt := false } := srcOf_updSrc_same c x _

/-- A delivery to the host's list (R582). -/
theorem hostDeliver_src (c : Chip) (x : Nat) :
    srcOf (hostDeliver c x) x = { srcOf c x with st := 3, holder := 0x3FF, notgt := false } := by
  have h : (hostDeliver c x).srcs = (updSrc c x (fun r => { r with st := 3, holder := 0x3FF, notgt := false })).srcs := by
    rw [hostDeliver, msixRequest_srcs, regWrap_srcs, regWrap_srcs]
  rw [srcOf, h]
  exact srcOf_updSrc_same c x _

theorem hostDeliver_list (c : Chip) (x : Nat) :
    (hostDeliver c x).hostList = c.hostList ++ [⟨x, srcPrio c x, srcTsel c x⟩] := by
  rw [hostDeliver, msixRequest_hostList, regWrap_hostList, regWrap_hostList]
  rfl

theorem hostDeliver_regs {W : Nat → Prop} (h40 : W 0x60007040) (h24 : W 0x60007024) (c : Chip) (x : Nat) :
    KeepsRegs W c (hostDeliver c x) := by
  intro a ha
  have h1 : a ≠ 0x60007040 := by rintro rfl; exact ha h40
  have h2 : a ≠ 0x60007024 := by rintro rfl; exact ha h24
  rw [hostDeliver, regVal_of_regs (msixRequest_regs _ _), regWrap, regVal_regUpd_other _ _ h2, regWrap, regVal_regUpd_other _ _ h1]
  rfl

theorem keepsWork_hostDeliver (c : Chip) (x : Nat) : KeepsWork c (hostDeliver c x) := ⟨by simp, by simp, by simp⟩

theorem becomePending_regs {W : Nat → Prop} (h40 : W 0x60007040) (h24 : W 0x60007024) (c : Chip) (x : Nat) :
    KeepsRegs W c (becomePending c x) := by
  have h (f : Src → Src) : KeepsRegs W c (updSrc c x f) := keepsRegs_of_regs rfl
  unfold becomePending
  dsimp only
  split
  · exact keepsRegs_trans (h _) (hostDeliver_regs h40 h24 _ _)
  · exact h _

theorem withdraw_regs {W : Nat → Prop} (h28 : W 0x60007028) (c : Chip) (x : Nat) : KeepsRegs W c (withdraw c x) :=
  keepsRegs_trans (d := updSrc c x _) (keepsRegs_of_regs rfl) (keepsRegs_regUpd _ _ h28)

theorem srcOf_withdraw (c : Chip) (x : Nat) : srcOf (withdraw c x) x = { srcOf c x with st := 1, holder := 0 } := by
  rw [withdraw, srcOf_regCount, srcOf_updSrc_same]

theorem srcOf_withdraw_other (c : Chip) {x y : Nat} (h : y ≠ x) : srcOf (withdraw c x) y = srcOf c y := by
  rw [withdraw, srcOf_regCount, srcOf_updSrc_other c _ h]

/-! ### An edge -/

/-- An edge at a source that is not the host's: a source that is idle becomes pending, another is counted (R567). -/
theorem srcOf_srcEdge {x : Nat} (hk : srcKind c x ≠ 3) : srcOf (srcEdge c x) x =
    if (srcOf c x).st = 0 then { srcOf c x with st := 1, holder := 0, since := c.tb, notgt := false }
    else if (srcOf c x).count < 255 then { srcOf c x with count := (srcOf c x).count + 1 }
    else { srcOf c x with sat := true } := by
  unfold srcEdge
  dsimp only
  split
  · rw [becomePending_core hk, srcOf_updSrc_same]
  · split
    · rw [srcOf_updSrc_same]
    · rw [srcOf_regOr, srcOf_regCount, srcOf_updSrc_same]

theorem srcEdge_keeps {x : Nat} (hk : srcKind c x ≠ 3) :
    KeepsWork c (srcEdge c x) ∧ OnlyRegs [0x60007004, 0x6000703C] c (srcEdge c x) ∧
      ((srcOf c x).st = 0 → OnlyRegs [] c (srcEdge c x)) := by
  unfold srcEdge
  dsimp only
  split
  · rw [becomePending_core hk]
    exact ⟨⟨rfl, rfl, rfl⟩, onlyRegs_of_regs rfl, fun _ => onlyRegs_of_regs rfl⟩
  · next hst =>
    refine ⟨?_, ?_, fun h => absurd h hst⟩
    · split <;> exact ⟨rfl, rfl, rfl⟩
    · split
      · exact onlyRegs_of_regs rfl
      · exact keepsRegs_trans (keepsRegs_trans (d := updSrc c x _) (keepsRegs_of_regs rfl) (keepsRegs_regUpd _ _ (by simp)))
          (keepsRegs_regUpd _ _ (by simp))

/-! ### Withdrawals of every source (R573) -/

/-- A source that is withdrawn is listed. -/
theorem listed_of_presented {y : Nat} (h : (srcOf c y).st = 2) : y ∈ (c.srcs.filter (fun x => decide (x.2.st = 2))).map Prod.fst := by
  unfold srcOf at h
  generalize c.srcs = l at h
  induction l with
  | nil => exact absurd h (by simp [Tbl.get])
  | cons e l ih =>
    obtain ⟨j, v⟩ := e
    rw [Tbl.get] at h
    split at h
    · next hj => simp [hj, h]
    · obtain ⟨p, hp, hpy⟩ := List.mem_map.mp (ih h)
      obtain ⟨hl, hst⟩ := List.mem_filter.mp hp
      exact List.mem_map.mpr ⟨p, List.mem_filter.mpr ⟨List.mem_cons_of_mem _ hl, hst⟩, hpy⟩

theorem st_withdraw (c : Chip) (x y : Nat) : (srcOf (withdraw c x) y).st = if y = x then 1 else (srcOf c y).st := by
  split
  · next h => rw [h, srcOf_withdraw]
  · next h => rw [srcOf_withdraw_other c h]

theorem st_foldl_withdraw (l : List Nat) (c : Chip) (y : Nat) :
    (srcOf (l.foldl withdraw c) y).st = if y ∈ l then 1 else (srcOf c y).st := by
  induction l generalizing c with
  | nil => simp
  | cons x l ih =>
    rw [List.foldl_cons, ih, st_withdraw]
    by_cases hy : y ∈ l <;> by_cases hx : y = x <;> simp [hy, hx]

theorem withdrawEvery_none (c : Chip) (y : Nat) : (srcOf (withdrawEvery c) y).st ≠ 2 := by
  rw [withdrawEvery, st_foldl_withdraw]
  split
  · decide
  · next hn => exact fun h => hn (listed_of_presented h)

theorem withdrawEvery_regs {W : Nat → Prop} (h28 : W 0x60007028) (c : Chip) : KeepsRegs W c (withdrawEvery c) :=
  keepsRegs_foldl (withdraw_regs h28) _ c

/-- Which core takes a source is a matter of registers and cores, and not of the counter of withdrawals. -/
theorem stillFits_withdraw (c : Chip) {x y : Nat} (h : y ≠ x) : stillFits (withdraw c x) y = stillFits c y := by
  have hr {a : Nat} (ha : a ≠ 0x60007028) : regVal (withdraw c x) a = regVal c a := withdraw_regs ha c x a (by simp)
  have heds (hi lo : Nat) : regFld (withdraw c x) (edsAddr y) hi lo = regFld c (edsAddr y) hi lo := by
    rw [regFld, regFld, hr (by simp only [edsAddr]; omega)]
  have hgroup (g e : Nat) : inGroup (withdraw c x) g e = inGroup c g e := by
    unfold inGroup
    rw [hr (by simp only [clReg]; omega)]
  have hel (e p : Nat) : eligible (withdraw c x) e p = eligible c e p := rfl
  have hin (e : Nat) : inTargets (withdraw c x) y e = inTargets c y e := by
    unfold inTargets srcKind srcTsel srcCmask
    rw [heds, heds, heds, hgroup]
  unfold stillFits srcPrio
  simp only [srcOf_withdraw_other c h, heds, hin, hel]

/-- Of the sources rechecked none stays presented that does not fit. -/
theorem recheck_fits (l : List Nat) (c : Chip) (y : Nat) (hy : y ∈ l ∨ (srcOf c y).st ≠ 2 ∨ stillFits c y = true) :
    let d := l.foldl (fun c s => if stillFits c s then c else withdraw c s) c
    (srcOf d y).st = 2 → stillFits d y = true := by
  induction l generalizing c with
  | nil =>
    rcases hy with h | h | h
    · exact absurd h List.not_mem_nil
    · exact fun h' => absurd h' h
    · exact fun _ => h
  | cons x l ih =>
    rw [List.foldl_cons]
    apply ih
    by_cases hf : stillFits c x = true
    · rw [if_pos hf]
      rcases hy with h | h | h
      · rcases List.mem_cons.mp h with rfl | h
        · exact Or.inr (Or.inr hf)
        · exact Or.inl h
      · exact Or.inr (Or.inl h)
      · exact Or.inr (Or.inr h)
    · rw [if_neg hf]
      by_cases hx : y = x
      · exact Or.inr (Or.inl (by rw [st_withdraw, if_pos hx]; decide))
      · rw [st_withdraw, if_neg hx, stillFits_withdraw c hx]
        exact hy.imp_left fun h => (List.mem_cons.mp h).resolve_left hx

theorem recheckAll_fits (c : Chip) (y : Nat) : (srcOf (recheckAll c) y).st = 2 → stillFits (recheckAll c) y = true := by
  refine recheck_fits _ c y ?_
  by_cases h : (srcOf c y).st = 2
  · exact Or.inl (listed_of_presented h)
  · exact Or.inr (Or.inl h)

theorem recheckAll_regs {W : Nat → Prop} (h28 : W 0x60007028) (c : Chip) : KeepsRegs W c (recheckAll c) :=
  keepsRegs_foldl (fun c x => by
    split
    · exact keepsRegs_of_regs rfl
    · exact withdraw_regs h28 c x) _ c

end Sys2Proof.Machine
end

section
/-! PROOFS. The event distributor (O53). -/

namespace Sys2Proof.Machine

open Sys2Proof Sys2Proof.Safety

variable {s : State} {x : Nat}

theorem leaves_source {i : Instr} {f : Chip → Chip} {P : Chip → Prop} (hi : exec i s = onUnit (isSource x) s f)
    (hx : srcValid x = true) (hP : P (f s.chip)) : leaves i s P := by
  refine leaves_of_onUnit hi ?_ hP
  simp only [srcValid, Bool.and_eq_true, decide_eq_true_eq] at hx
  simp only [isSource, Bool.and_eq_true, decide_eq_true_eq]
  omega

section
variable (hx : srcValid x = true) (hper : s.chip.sys.per = true)
include hx hper

/-- A pulse at a source of rising edges (R567). -/
theorem sourceAssert_pulse (hs : srcSense s.chip x = 3) (hb : (srcOf s.chip x).pulseBusy = true)
    (ha : (srcOf s.chip x).again = false) (hk : srcKind s.chip x ≠ 3) :
    leaves (.sourceAssert x) s (fun t => KeepsWork s.chip t ∧ OnlyRegs [0x60007004, 0x6000703C] s.chip t ∧ srcOf t x =
      if (srcOf s.chip x).st = 0 then
        { srcOf s.chip x with input := srcLevel s.chip x, pulseBusy := false, st := 1, holder := 0, since := s.chip.tb, notgt := false }
      else if (srcOf s.chip x).count < 255 then
        { srcOf s.chip x with input := srcLevel s.chip x, pulseBusy := false, count := (srcOf s.chip x).count + 1 }
      else { srcOf s.chip x with input := srcLevel s.chip x, pulseBusy := false, sat := true }) := by
  refine leaves_source (f := fun c => xSourceAssert c x) rfl hx ?_
  have hmoved : srcMoved s.chip x = true := by simp [srcMoved, hx, hb]
  let sampled : Src → Src := fun r => { r with input := srcLevel s.chip x, pulseBusy := r.pulseBusy && r.again, again := false }
  have hsample : srcSample s.chip x = srcEdge (updSrc s.chip x sampled) x := by
    unfold srcSample
    simp only [hs, hb]
    rfl
  have hsrc : srcOf (updSrc s.chip x sampled) x = { srcOf s.chip x with input := srcLevel s.chip x, pulseBusy := false } := by
    rw [srcOf_updSrc_same]
    simp only [sampled, ha, Bool.and_false]
  have hk' : srcKind (updSrc s.chip x sampled) x ≠ 3 := hk
  obtain ⟨hwork, hregs, _⟩ := srcEdge_keeps hk'
  obtain ⟨hw0, hr0⟩ := keeps_updSrc s.chip x sampled [0x60007004, 0x6000703C]
  show _ ∧ _ ∧ _
  rw [xSourceAssert, if_pos ⟨hper, hmoved⟩, hsample, srcOf_srcEdge hk', hsrc]
  exact ⟨keepsWork_trans hw0 hwork, keepsRegs_trans hr0 hregs, rfl⟩

/-- A level makes its idle source pending (R566). -/
theorem sourceAssert_level (hs : srcSense s.chip x = 1) (hb : (srcOf s.chip x).pulseBusy = false)
    (hl : srcLevel s.chip x = true) (h0 : (srcOf s.chip x).st = 0) (hk : srcKind s.chip x ≠ 3) :
    leaves (.sourceAssert x) s (fun t => (srcOf t x).st = 1 ∧ (srcOf t x).since = s.chip.tb ∧ KeepsWork s.chip t ∧
      OnlyRegs [] s.chip t) := by
  refine leaves_source (f := fun c => xSourceAssert c x) rfl hx ?_
  have hmoved : srcMoved s.chip x = true := by simp [srcMoved, hx, hs, h0, srcActive, hl, isLevelSense]
  let sampled : Src → Src := fun r => { r with input := srcLevel s.chip x, pulseBusy := r.pulseBusy && r.again, again := false }
  have hactive : srcActive (updSrc s.chip x sampled) x = true := by
    rw [srcActive, srcSense_updSrc, if_pos hs, srcLevel_updSrc, hl]
  have hst : (srcOf (updSrc s.chip x sampled) x).st = 0 := by rw [srcOf_updSrc_same]; exact h0
  have hsample : srcSample s.chip x = becomePending (updSrc s.chip x sampled) x := by
    unfold srcSample
    simp only [hs, hb]
    show srcJudge (updSrc s.chip x sampled) x = _
    rw [srcJudge, if_pos hactive, if_pos hst]
  show _ ∧ _ ∧ _ ∧ _
  rw [xSourceAssert, if_pos ⟨hper, hmoved⟩, hsample, becomePending_core (c := updSrc s.chip x sampled) hk, srcOf_updSrc_same]
  exact ⟨rfl, rfl, ⟨rfl, rfl, rfl⟩, onlyRegs_of_regs rfl⟩

/-! ### A decision -/

omit hx in
theorem xPresentation_decides (hd : decidable s.chip x = true) (hg : goesBefore s.chip x = false) :
    xPresentation s.chip x = decideSrc s.chip x := if_pos ⟨hper, hd, hg⟩

/-- A presentation at a core (R571), and the SLEEP it ends (R580). -/
theorem presentation_core (hd : decidable s.chip x = true) (hg : goesBefore s.chip x = false) {e : Nat}
    (hk : srcKind s.chip x ≠ 3) (ht : chooseTarget s.chip x = some e) :
    leaves (.presentation x) s (fun t => t = present s.chip x e) := by
  refine leaves_source (f := fun c => xPresentation c x) rfl hx ?_
  show xPresentation s.chip x = _
  rw [xPresentation_decides hper hd hg, decideSrc, if_neg hk, ht]

theorem presentation_host (hd : decidable s.chip x = true) (hg : goesBefore s.chip x = false) (hk : srcKind s.chip x = 3) :
    leaves (.presentation x) s (fun t => srcOf t x = { srcOf s.chip x with st := 3, holder := 0x3FF, notgt := false } ∧
      t.hostList = s.chip.hostList ++ [⟨x, srcPrio s.chip x, srcTsel s.chip x⟩] ∧ KeepsWork s.chip t ∧
      OnlyRegs [0x60007024, 0x60007040] s.chip t) := by
  refine leaves_source (f := fun c => xPresentation c x) rfl hx ?_
  show _ ∧ _ ∧ _ ∧ _
  rw [xPresentation_decides hper hd hg, decideSrc, if_pos hk]
  exact ⟨hostDeliver_src _ _, hostDeliver_list _ _, keepsWork_hostDeliver _ _, hostDeliver_regs (by simp) (by simp) _ _⟩

end

/-- The device once a source is presented and counted, before its core takes notice. -/
def presented (c : Chip) (x e : Nat) : Chip :=
  let d := regWrap (updSrc c x (fun r => { r with st := 2, holder := e, notgt := false })) 0x60007024 31 0 1
  let d := if e < 512 then regWrap d (clReg (e / 16) 0x94) 15 0 1 else d
  if asleep c e then regCount d 0x60007030 31 0 1 else d

theorem present_eq (c : Chip) (x e : Nat) : present c x e =
    eventWake (updCore (presented c x e) (targetCore c e) (fun r => { r with mskPend := false })) (targetCore c e) := rfl

theorem presented_srcs (c : Chip) (x e : Nat) :
    (presented c x e).srcs = (updSrc c x (fun r => { r with st := 2, holder := e, notgt := false })).srcs := by
  unfold presented
  dsimp only
  split <;> split <;> rfl

theorem coreOf_presented (c : Chip) (x e k : Nat) : coreOf (presented c x e) k = coreOf c k := by
  unfold presented
  dsimp only
  split <;> split <;> rfl

theorem inUnison_presented (c : Chip) (x e n : Nat) : inUnison (presented c x e) n = inUnison c n := by
  unfold presented
  dsimp only
  split <;> split <;> rfl

/-- A presented source stands with its core. -/
theorem present_source (c : Chip) (x e : Nat) :
    srcOf (present c x e) x = { srcOf c x with st := 2, holder := e, notgt := false } := by
  rw [present_eq, srcOf, eventWake_srcs, updCore_srcs, presented_srcs]
  exact srcOf_updSrc_same c x _

/-- A string in split that sleeps goes on behind its SLEEP (R580). -/
theorem eventWake_sleep {c : Chip} {k : Nat} (hu : inUnison c (courseNo k) = false) (hrep : (coreOf c k).rep = none)
    (hw : (coreOf c k).wait = some ⟨1, 0, 0, 0, false⟩) :
    (coreOf (eventWake c k) k).wait = none ∧ (coreOf (eventWake c k) k).pc = (coreOf c k).pc + 2 ∧
      (coreOf (eventWake c k) k).stk = (coreOf c k).stk := by
  have h : eventWake c k = retire (updCore c k (fun r => { r with stk := r.stk })) k ((coreOf c k).pc + 2) := by
    unfold eventWake
    simp only [hw, hu]
    show completeWait c k [] = _
    unfold completeWait
    simp only [hw, List.nil_append, List.drop_zero, coreOf_updCore_same]
  have hcore : coreOf (updCore c k (fun r => { r with stk := r.stk })) k = coreOf c k := coreOf_updCore_same c k _
  rw [h]
  obtain ⟨_, hgo, hwait, _, _, x, y, z, u, v, w, hc⟩ :=
    retire_core (updCore c k (fun r => { r with stk := r.stk })) k ((coreOf c k).pc + 2)
  refine ⟨hwait, ?_, by rw [hc, hcore]⟩
  unfold goesOn at hgo
  rw [hcore, hrep] at hgo
  exact hgo.1

theorem present_wakes {c : Chip} {e : Nat} (x : Nat) (ht : targetCore c e = e) (hu : inUnison c (courseNo e) = false)
    (hrep : (coreOf c e).rep = none) (hw : (coreOf c e).wait = some ⟨1, 0, 0, 0, false⟩) :
    (coreOf (present c x e) e).wait = none ∧ (coreOf (present c x e) e).pc = (coreOf c e).pc + 2 ∧
      (coreOf (present c x e) e).stk = (coreOf c e).stk := by
  have hcore : coreOf (updCore (presented c x e) e (fun r => { r with mskPend := false })) e = { coreOf c e with mskPend := false } := by
    rw [coreOf_updCore_same, coreOf_presented]
  obtain ⟨h1, h2, h3⟩ := eventWake_sleep (c := updCore (presented c x e) e (fun r => { r with mskPend := false })) (k := e)
    ((inUnison_presented c x e _).trans hu) (by rw [hcore]; exact hrep) (by rw [hcore]; exact hw)
  rw [present_eq, ht]
  exact ⟨h1, by rw [h2, hcore], by rw [h3, hcore]⟩

/-! ### Registers of the distributor -/

/-- Does a TSEL name no target of its KIND (R568)? -/
def edsBadTarget (w : Word) : Bool :=
  (bits w 9 8 = 0 && decide (31 < bits w 15 10)) || (bits w 9 8 = 1 && decide (3 < bits w 15 10)) ||
    (bits w 9 8 = 2 && decide (bits w 15 10 ≠ 0))

/-- What EDS keeps of a value: its reserved bit reads 0, and so does a SENSE or a TSEL that is reserved. -/
def edsKept (w : Word) : Word :=
  let v := wd (w.toNat - w.toNat / 8 % 2 * 8)
  let v := if decide (5 < bits w 2 0) then setBits v 2 0 0 else v
  if edsBadTarget w then setBits v 15 10 0 else v

/-- A source after its EDS has changed (R568, R573). -/
def edsSettled (old v : Word) (c : Chip) (x : Nat) : Chip :=
  if bits old 2 0 ≠ bits v 2 0 ∨ bits old 9 8 ≠ bits v 9 8 then
    let c := if (srcOf c x).st = 2 then withdraw c x else c
    let c := becomeIdle (updSrc c x (fun r => { r with count := 0, input := srcLevel c x })) x
    if isLevelSense (srcSense c x) ∧ srcActive c x then becomePending c x else c
  else if (srcOf c x).st = 2 ∧ !stillFits c x then withdraw c x
  else c

theorem edsWrite_eq (c : Chip) {x : Nat} (hx : srcValid x = true) (w : Word) : edsWrite c x w =
    edsSettled (regVal c (edsAddr x)) (edsKept w)
      (regPut (if decide (5 < bits w 2 0) || edsBadTarget w then regOr c 0x60007004 (2 ^ 15) else c) (edsAddr x) (edsKept w)) x := by
  unfold edsWrite
  rw [hx]
  rfl

theorem keepsRegs_ite {W : Nat → Prop} {p : Prop} [Decidable p] {c d e : Chip} (hd : p → KeepsRegs W c d)
    (he : ¬ p → KeepsRegs W c e) : KeepsRegs W c (if p then d else e) := by
  split
  · next h => exact hd h
  · next h => exact he h

theorem edsSettled_regs {W : Nat → Prop} (h24 : W 0x60007024) (h28 : W 0x60007028) (h40 : W 0x60007040) (old v : Word) (c : Chip)
    (x : Nat) : KeepsRegs W c (edsSettled old v c x) := by
  have hidle (d : Chip) (f : Src → Src) : KeepsRegs W d (becomeIdle (updSrc d x f) x) := keepsRegs_of_regs rfl
  have hwd (p : Prop) [Decidable p] : KeepsRegs W c (if p then withdraw c x else c) := by
    split
    · exact withdraw_regs h28 c x
    · exact keepsRegs_refl c
  unfold edsSettled
  refine keepsRegs_ite (fun _ => ?_) fun _ => hwd _
  extract_lets d e
  exact keepsRegs_trans (d := e) (keepsRegs_trans (d := d) (hwd _) (hidle d _))
    (keepsRegs_ite (fun _ => becomePending_regs h40 h24 _ _) fun _ => keepsRegs_refl _)

theorem keepsWork_edsWrite (c : Chip) (x : Nat) (w : Word) : KeepsWork c (edsWrite c x w) := ⟨by simp, by simp, by simp⟩

theorem edsMask_eq (w : Word) : wd (w.toNat - w.toNat / 8 % 2 * 8) = w &&& 0xFFFFFFF7 := by
  have h : wd (w.toNat - w.toNat / 8 % 2 * 8) = setBits w 3 3 0 := by simp [setBits, wd]
  rw [h]
  refine word_ext fun i => ?_
  by_cases hi : i < 32
  · rw [bit_setBits w _ _ (Nat.le_refl 3) (by decide), bit_and]
    have hmask : bit (0xFFFFFFF7 : Word) i = decide (i ≠ 3) := by
      interval_cases i <;> decide
    rw [hmask]
    split
    · next h3 =>
        obtain rfl : i = 3 := by omega
        simp
    · next h3 =>
        rw [decide_eq_true (by omega), Bool.and_true]
  · rw [bit_of_ge _ (by omega), bit_of_ge _ (by omega)]

theorem edsKept_legal {w : Word} (hs : bits w 2 0 ≤ 5) (hb : edsBadTarget w = false) : edsKept w = w &&& 0xFFFFFFF7 := by
  unfold edsKept
  rw [hb, edsMask_eq, decide_eq_false (by omega)]
  rfl

theorem edsKept_sense {w : Word} (hs : 5 < bits w 2 0) : bits (edsKept w) 2 0 = 0 := by
  unfold edsKept
  simp only [decide_eq_true hs, if_true]
  have h (v : Word) : bits (setBits v 2 0 0) 2 0 = 0 := by rw [bits_setBits_same _ _ (by decide) (by decide)]; rfl
  split
  · rw [bits_setBits_apart _ _ (by decide) (by decide) (by decide), h]
  · exact h _

section
variable (hx : srcValid x = true) (hper : s.chip.sys.per = true)
include hx hper

/-- A legal value is kept in EDS (R568). -/
theorem edsWrite_legal {w : Word} (hs : bits w 2 0 ≤ 5) (h0 : bits w 9 8 = 0 → bits w 15 10 ≤ 31)
    (h1 : bits w 9 8 = 1 → bits w 15 10 ≤ 3) (h2 : bits w 9 8 = 2 → bits w 15 10 = 0) :
    leaves (.edsWrite x w) s (fun t => regVal t (edsAddr x) = (w &&& 0xFFFFFFF7) ∧ KeepsWork s.chip t ∧
      OnlyRegs [edsAddr x, 0x60007024, 0x60007028, 0x60007040] s.chip t) := by
  refine leaves_source (f := fun c => xEdsWrite c x w) rfl hx ?_
  have hb : edsBadTarget w = false := by
    simp only [edsBadTarget, Bool.or_eq_false_iff, Bool.and_eq_false_imp, decide_eq_true_eq, decide_eq_false_iff_not]
    exact ⟨⟨fun h => by have := h0 h; omega, fun h => by have := h1 h; omega⟩, fun h => not_not.mpr (h2 h)⟩
  have hwork := keepsWork_edsWrite s.chip x w
  have hkept := edsKept_legal hs hb
  have hbad : (decide (5 < bits w 2 0) || edsBadTarget w) = false := by simp [hb]; omega
  have heq := edsWrite_eq s.chip hx w
  rw [hbad, if_neg (by decide)] at heq
  have heds : edsAddr x = 0x60010000 + 4 * x := rfl
  show _ ∧ _ ∧ _
  rw [xEdsWrite, if_pos ⟨hper, hx⟩]
  refine ⟨?_, hwork, ?_⟩
  · rw [heq, regVal_of_keepsRegs (edsSettled_regs (W := (· ≠ edsAddr x)) (by omega) (by omega) (by omega) _ _ _ _),
      regVal_regPut_same, hkept]
  · rw [heq]
    exact keepsRegs_trans (keepsRegs_regPut _ _ (by simp)) (edsSettled_regs (by simp) (by simp) (by simp) _ _ _ _)

/-- A reserved SENSE reads 0 and sets CFGERR (R568). -/
theorem edsWrite_reserved {w : Word} (hs : 5 < bits w 2 0) : leaves (.edsWrite x w) s (fun t =>
    bits (regVal t (edsAddr x)) 2 0 = 0 ∧ bit (regVal t 0x60007004) 15 = true ∧ KeepsWork s.chip t) := by
  refine leaves_source (f := fun c => xEdsWrite c x w) rfl hx ?_
  have hwork := keepsWork_edsWrite s.chip x w
  have hbad : (decide (5 < bits w 2 0) || edsBadTarget w) = true := by rw [decide_eq_true hs, Bool.true_or]
  have heq := edsWrite_eq s.chip hx w
  rw [hbad, if_pos rfl] at heq
  have heds : edsAddr x = 0x60010000 + 4 * x := rfl
  show _ ∧ _ ∧ _
  rw [xEdsWrite, if_pos ⟨hper, hx⟩]
  refine ⟨?_, ?_, hwork⟩
  · rw [heq, regVal_of_keepsRegs (edsSettled_regs (W := (· ≠ edsAddr x)) (by omega) (by omega) (by omega) _ _ _ _),
      regVal_regPut_same, edsKept_sense hs]
  · rw [heq, regVal_of_keepsRegs (edsSettled_regs (W := (· ≠ 0x60007004)) (by decide) (by decide) (by decide) _ _ _ _),
      regVal_regPut_other _ _ (by omega), bit_regOr _ _ _ (by decide)]
    exact (Bool.or_eq_true _ _).mpr (Or.inr (by decide))

/-- RAISE makes an edge at an idle source that senses edges (R583). -/
theorem edgRaise_edge {w : Word} (hw : bits w 9 0 = x) (hs : 3 ≤ srcSense s.chip x) (h0 : (srcOf s.chip x).st = 0)
    (hk : srcKind s.chip x ≠ 3) : leaves (.edgRaise w) s (fun t =>
      (srcOf t x).st = 1 ∧ (srcOf t x).since = s.chip.tb ∧ KeepsWork s.chip t ∧ OnlyRegs [] s.chip t) := by
  refine leaves_of_onChip (f := fun c => xEdgRaise c w) rfl ?_
  have heq : xEdgRaise s.chip w = srcEdge s.chip x := by
    rw [xEdgRaise, if_pos hper, edgRaise, hw]
    exact if_pos ⟨hx, hs⟩
  obtain ⟨hwork, _, hregs⟩ := srcEdge_keeps hk
  show _ ∧ _ ∧ _ ∧ _
  rw [heq]
  refine ⟨?_, ?_, hwork, hregs h0⟩ <;> rw [srcOf_srcEdge hk, if_pos h0]

omit hx in
theorem edgRaise_refused {w : Word} (hw : bits w 9 0 = x) (hs : srcSense s.chip x < 3) : leaves (.edgRaise w) s (fun t =>
    regVal t 0x60007004 = (regVal s.chip 0x60007004 ||| 1) ∧ t.srcs = s.chip.srcs ∧ KeepsWork s.chip t ∧
    OnlyRegs [0x60007004] s.chip t) := by
  refine leaves_of_onChip (f := fun c => xEdgRaise c w) rfl ?_
  have heq : xEdgRaise s.chip w = regOr s.chip 0x60007004 1 := by
    rw [xEdgRaise, if_pos hper, edgRaise, hw]
    exact if_neg fun h => by omega
  show _ ∧ _ ∧ _ ∧ _
  rw [heq]
  exact ⟨regVal_regUpd_same _ _ _, rfl, keeps_regPut _ _ _⟩

omit hx in
/-- DELIVER (R573): written 0, nothing stays presented. -/
theorem edgCtlWrite_delivers (w : Word) : leaves (.edgCtlWrite w) s (fun t => regVal t 0x60007000 = wd (bits w 0 0) ∧
    KeepsWork s.chip t ∧ OnlyRegs [0x60007000, 0x60007028] s.chip t ∧ (bit w 0 = true → t.srcs = s.chip.srcs) ∧
    (bit w 0 = false → ∀ y, (srcOf t y).st ≠ 2)) := by
  refine leaves_of_onChip (f := fun c => xEdgCtlWrite c w) rfl ?_
  obtain ⟨hwork, hregs⟩ := keeps_regPut s.chip 0x60007000 (wd (bits w 0 0))
  show _ ∧ _ ∧ _ ∧ _ ∧ _
  rw [xEdgCtlWrite, if_pos hper, edgCtl]
  by_cases hw : bit w 0 = true
  · rw [if_pos hw]
    exact ⟨regVal_regPut_same _ _ _, hwork, keepsRegs_regPut _ _ (by simp), fun _ => rfl, fun h => absurd (hw.symm.trans h) (by decide)⟩
  · rw [if_neg hw]
    refine ⟨?_, keepsWork_trans hwork ⟨by simp, by simp, by simp⟩, ?_, fun h => absurd h hw, fun _ y => withdrawEvery_none _ y⟩
    · rw [regVal_of_keepsRegs (withdrawEvery_regs (W := (· ≠ 0x60007000)) (by decide) _), regVal_regPut_same]
    · exact keepsRegs_trans (keepsRegs_regPut _ _ (by simp)) (withdrawEvery_regs (by simp) _)

omit hx in
/-- HPOP takes the oldest delivery, and 0 of none (R586). -/
theorem hpopRead_pops : leaves .hpopRead s (fun t => KeepsWork s.chip t ∧ OnlyRegs [] s.chip t ∧
    t.hostList = s.chip.hostList.drop 1 ∧ t.out = s.chip.out ++ [.read 0x60007018 (match s.chip.hostList with
      | [] => 0
      | d :: _ => wd (d.src + 65536 * d.prio + 16777216 * d.vector))]) := by
  refine leaves_of_onChip (f := fun c => xHpopRead c) rfl ?_
  show _ ∧ _ ∧ _ ∧ _
  rw [xHpopRead, readOut, if_pos hper, hpop]
  cases hl : s.chip.hostList with
  | nil => exact ⟨⟨rfl, rfl, rfl⟩, onlyRegs_of_regs rfl, hl, rfl⟩
  | cons d l => exact ⟨⟨rfl, rfl, rfl⟩, onlyRegs_of_regs rfl, rfl, rfl⟩

/-- HCOMPLETE of a source in service with the host that owes nothing (R588). -/
theorem hcompleteWrite_ends {w : Word} (hw : w.toNat = x) (h3 : (srcOf s.chip x).st = 3) (hh : (srcOf s.chip x).holder = 0x3FF)
    (hs : isLevelSense (srcSense s.chip x) = false) (hc : (srcOf s.chip x).count = 0) :
    leaves (.hcompleteWrite w) s (fun t =>
      srcOf t x = { srcOf s.chip x with st := 0, holder := 0, sat := false, notgt := false } ∧ KeepsWork s.chip t ∧
      OnlyRegs [] s.chip t) := by
  refine leaves_of_onChip (f := fun c => xHcompleteWrite c w) rfl ?_
  have heq : xHcompleteWrite s.chip w = becomeIdle s.chip x := by
    rw [xHcompleteWrite, if_pos hper, completeBy, hw]
    rw [if_pos ⟨hx, h3, hh⟩, completeSrc]
    rw [hs, if_neg (by decide), if_neg (not_not.mpr hc)]
  show _ ∧ _ ∧ _
  rw [heq]
  exact ⟨srcOf_becomeIdle _ _, ⟨rfl, rfl, rfl⟩, onlyRegs_of_regs rfl⟩

omit hx in
theorem hcompleteWrite_stray {w : Word} (hw : w.toNat = x) (hs : (srcOf s.chip x).st ≠ 3 ∨ (srcOf s.chip x).holder ≠ 0x3FF)
    (hn : regVal s.chip 0x60007008 ≠ 0xFFFFFFFF) : leaves (.hcompleteWrite w) s (fun t =>
      regVal t 0x60007008 = regVal s.chip 0x60007008 + 1 ∧ t.srcs = s.chip.srcs ∧ KeepsWork s.chip t ∧
      OnlyRegs [0x60007008] s.chip t) := by
  refine leaves_of_onChip (f := fun c => xHcompleteWrite c w) rfl ?_
  have heq : xHcompleteWrite s.chip w = regCount s.chip 0x60007008 31 0 1 := by
    rw [xHcompleteWrite, if_pos hper, completeBy, hw]
    exact if_neg fun h => hs.elim (fun h' => h' h.2.1) fun h' => h' h.2.2
  have hlt : (regVal s.chip 0x60007008).toNat < 0xFFFFFFFF := by
    have h1 := (regVal s.chip 0x60007008).isLt
    have h2 : (regVal s.chip 0x60007008).toNat ≠ 0xFFFFFFFF := fun h => hn (BitVec.eq_of_toNat_eq h)
    omega
  show _ ∧ _ ∧ _ ∧ _
  rw [heq]
  exact ⟨regVal_regCount_word hlt, rfl, keeps_regPut _ _ _⟩

omit hx in
/-- A changed group withdraws what no longer fits (R573). -/
theorem groupMaskWrite_rechecks (k : Nat) (hi : Bool) (w : Word) (hk : k < 32) : leaves (.groupMaskWrite k hi w) s (fun t =>
    regVal t (clReg k (if hi then 0x84 else 0x80)) = w ∧ (∀ y, (srcOf t y).st = 2 → stillFits t y = true) ∧ KeepsWork s.chip t ∧
    OnlyRegs [clReg k (if hi then 0x84 else 0x80), 0x60007028] s.chip t) := by
  refine leaves_of_onUnit (f := fun c => xGroupMaskWrite c k hi w) rfl (decide_eq_true hk) ?_
  have hcl := clReg_high k (if hi then 0x84 else 0x80)
  show _ ∧ _ ∧ _ ∧ _
  rw [xGroupMaskWrite, if_pos ⟨hper, hk⟩, groupWrite]
  generalize clReg k (if hi then 0x84 else 0x80) = a at *
  refine ⟨?_, recheckAll_fits _, ⟨by simp, by simp, by simp⟩, ?_⟩
  · rw [regVal_of_keepsRegs (recheckAll_regs (W := (· ≠ a)) (by omega) _), regVal_regPut_same]
  · exact keepsRegs_trans (keepsRegs_regPut _ _ (by simp)) (recheckAll_regs (by simp) _)

end

/-! ### Gorene (R585) -/

/-- Entries of a table are entries of it before a change, or the one changed. -/
theorem mem_put {α : Type} [DecidableEq α] {d v : α} {t : Tbl α} {k : Nat} {e : Nat × α} (h : e ∈ Tbl.put d t k v) :
    e ∈ t ∨ e = (k, v) := by
  have hdel (t : Tbl α) (h : e ∈ Tbl.del t k) : e ∈ t := by
    induction t with
    | nil => exact h
    | cons p t ih =>
      obtain ⟨j, u⟩ := p
      rw [Tbl.del] at h
      split at h
      · exact List.mem_cons_of_mem _ (ih h)
      · rcases List.mem_cons.mp h with h | h
        · exact h ▸ List.mem_cons_self
        · exact List.mem_cons_of_mem _ (ih h)
  have hins (t : Tbl α) (h : e ∈ Tbl.ins t k v) : e ∈ t ∨ e = (k, v) := by
    induction t with
    | nil => exact Or.inr (List.mem_singleton.mp h)
    | cons p t ih =>
      obtain ⟨j, u⟩ := p
      rw [Tbl.ins] at h
      split at h
      · exact (List.mem_cons.mp h).symm
      · split at h
        · rcases List.mem_cons.mp h with h | h
          · exact Or.inr h
          · exact Or.inl (List.mem_cons_of_mem _ h)
        · rcases List.mem_cons.mp h with h | h
          · exact Or.inl (h ▸ List.mem_cons_self)
          · exact (ih h).imp_left (List.mem_cons_of_mem _)
  unfold Tbl.put at h
  split at h
  · exact Or.inl (hdel t h)
  · exact hins t h

theorem presentedTo_becomeIdle {c : Chip} {e : Nat} (x : Nat) (h : presentedTo c e = []) : presentedTo (becomeIdle c x) e = [] := by
  have h' : ∀ p ∈ c.srcs, ¬ (p.2.st = 2 ∧ p.2.holder = e) := by
    simpa [presentedTo, List.filter_eq_nil_iff] using h
  unfold presentedTo
  rw [List.map_eq_nil_iff, List.filter_eq_nil_iff]
  intro p hp
  rcases mem_put (α := Src) hp with hp | rfl
  · simpa using h' p hp
  · simp

/-- A source claimed by Gorene, with its latency. -/
def lutClaimed (c : Chip) (x : Nat) : Chip :=
  let c := updSrc c x (fun r => { r with st := 3, notgt := false })
  let p := srcPrio c x
  if p = 0 then c else regMax c (0x60007040 + 4 * p) 31 0 (c.tb - (srcOf c x).since)

theorem luthierTakes_eq (c : Chip) (x : Nat) : luthierTakes c x =
    if isLevelSense (srcSense (lutClaimed c x) x) then lutClaimed c x else completeSrc (lutClaimed c x) x := rfl

theorem srcOf_lutClaimed (c : Chip) (x : Nat) : srcOf (lutClaimed c x) x = { srcOf c x with st := 3, notgt := false } := by
  unfold lutClaimed
  dsimp only
  split
  · exact srcOf_updSrc_same c x _
  · rw [srcOf_regMax, srcOf_updSrc_same]

theorem srcSense_lutClaimed (c : Chip) (x : Nat) : srcSense (lutClaimed c x) x = srcSense c x := by
  have hp (d : Chip) : srcPrio d x < 16 := Nat.mod_lt _ (by decide)
  unfold lutClaimed
  dsimp only
  split
  · rfl
  · rw [srcSense, regFld, regMax, regVal_regUpd_other _ _ (by
      have := hp (updSrc c x (fun r => { r with st := 3, notgt := false }))
      simp only [edsAddr]
      omega)]
    rfl

/-- Gorene claims a source presented to the luthier, and completes it at once unless it is a level's (R585). -/
theorem st_luthierTakes {c : Chip} {x : Nat} (hc : (srcOf c x).count = 0) :
    (srcOf (luthierTakes c x) x).st = if isLevelSense (srcSense c x) then 3 else 0 := by
  rw [luthierTakes_eq, srcSense_lutClaimed]
  split
  · rw [srcOf_lutClaimed]
  · next hl =>
    have hcount : (srcOf (lutClaimed c x) x).count = 0 := by rw [srcOf_lutClaimed]; exact hc
    rw [completeSrc, srcSense_lutClaimed, if_neg hl, if_neg (not_not.mpr hcount), srcOf_becomeIdle]

section
variable (hper : s.chip.sys.per = true) (hg : gorene s.chip = true)
include hper hg

theorem luthierEventSample_claims (he : luthierEnded s.chip = []) (hp : presentedTo s.chip 512 = [x])
    (hc : (srcOf s.chip x).count = 0) : leaves .luthierEventSample s (fun t =>
      (srcOf t x).st = (if isLevelSense (srcSense s.chip x) then 3 else 0) ∧ KeepsWork s.chip t) := by
  refine leaves_of_onChip (f := fun c => xLuthierEventSample c) rfl ?_
  have heq : xLuthierEventSample s.chip = luthierTakes s.chip x := by
    rw [xLuthierEventSample, if_pos ⟨hg, hper⟩, he, List.foldl_nil]
    dsimp only
    rw [hp, List.foldl_cons, List.foldl_nil]
  show _ ∧ _
  rw [heq]
  exact ⟨st_luthierTakes hc, ⟨by simp, by simp, by simp⟩⟩

theorem luthierEventSample_completes (he : luthierEnded s.chip = [x]) (hp : presentedTo s.chip 512 = []) :
    leaves .luthierEventSample s (fun t => (srcOf t x).st = 0 ∧ KeepsWork s.chip t ∧ OnlyRegs [] s.chip t) := by
  refine leaves_of_onChip (f := fun c => xLuthierEventSample c) rfl ?_
  have hlevel : isLevelSense (srcSense s.chip x) = true ∧ srcActive s.chip x = false := by
    have hmem : x ∈ luthierEnded s.chip := he ▸ List.mem_singleton_self x
    obtain ⟨e, hf, rfl⟩ := List.mem_map.mp hmem
    have hcond := (List.mem_filter.mp hf).2
    simp only [Bool.and_eq_true, Bool.not_eq_true'] at hcond
    exact ⟨hcond.1.2, hcond.2⟩
  have heq : xLuthierEventSample s.chip = becomeIdle s.chip x := by
    rw [xLuthierEventSample, if_pos ⟨hg, hper⟩, he, List.foldl_cons, List.foldl_nil, completeSrc, if_pos hlevel.1, hlevel.2,
      if_neg (by decide)]
    dsimp only
    rw [presentedTo_becomeIdle x hp, List.foldl_nil]
  show _ ∧ _ ∧ _
  rw [heq]
  exact ⟨by rw [srcOf_becomeIdle], ⟨rfl, rfl, rfl⟩, onlyRegs_of_regs rfl⟩

end

/-- Settles O53: each event of the distributor by the equation of its command, and by what the change of one source leaves. -/
theorem eventSources : Obligations.EventSources := by
  unfold Obligations.EventSources
  intro s x hx hper
  refine ⟨fun hs hb ha hk => sourceAssert_pulse hx hper hs hb ha hk, fun hs hb hl h0 hk => sourceAssert_level hx hper hs hb hl h0 hk,
    fun hd hg => ⟨fun e hk ht => ?_, fun hk => presentation_host hx hper hd hg hk⟩,
    fun w => ⟨fun hs h0 h1 h2 => edsWrite_legal hx hper hs h0 h1 h2, fun hs => edsWrite_reserved hx hper hs⟩,
    fun w hw => ⟨fun hs h0 hk => edgRaise_edge hx hper hw hs h0 hk, fun hs => edgRaise_refused hper hw hs⟩,
    fun w => edgCtlWrite_delivers hper w, hpopRead_pops hper,
    fun w hw => ⟨fun h3 hh hs hc => hcompleteWrite_ends hx hper hw h3 hh hs hc, fun hs hn => hcompleteWrite_stray hper hw hs hn⟩,
    fun k hi w hk => groupMaskWrite_rechecks hper k hi w hk,
    fun hg => ⟨fun he hp hc => luthierEventSample_claims hper hg he hp hc, fun he hp => luthierEventSample_completes hper hg he hp⟩⟩
  refine leaves_mono (presentation_core hx hper hd hg hk ht) fun t h => ?_
  rw [h]
  exact ⟨present_source _ _ _, present_mem _ _ _, fun _ htc hu hrep hw => present_wakes x htc hu hrep hw⟩

end Sys2Proof.Machine
end

section
/-! PROOFS. What the device reads of an image, and what it makes of it, is a matter of memory and poison. -/

namespace Sys2Proof.Machine

open Sys2Proof Sys2Proof.Safety

section
variable {c d : Chip} (h : d.mem = c.mem) (hp : d.poison = c.poison)
include h

theorem imF_of_mem (b o n : Nat) : imF d b o n = imF c b o n := by
  simp only [imF, leNat_of_mem h]

theorem magicChk_of_mem (b : Nat) : magicChk d b = magicChk c b := by
  simp only [magicChk, imF_of_mem h]

include hp in
omit h in
theorem verifyRun_of_poison (b : Nat) (l : List (Nat × Chk)) : verifyRun d b l = verifyRun c b l := by
  induction l with
  | nil => rfl
  | cons e t ih => simp only [verifyRun, hp, ih]

theorem imLength_of_mem (b : Nat) : imLength d b = imLength c b := by
  simp only [imLength, imF_of_mem h]

theorem imW_of_mem (b o : Nat) : imW d b o = imW c b o := by
  simp only [imW, wordAt_of_mem h]

theorem headChk_of_mem (b : Nat) : headChk d b = headChk c b := by
  simp only [headChk, bytesAt_of_mem h, imLength_of_mem h, imW_of_mem h]

theorem sectionNotes_of_mem (b po size : Nat) : section_ d b po size = section_ c b po size := by
  simp only [section_, imF_of_mem h]

theorem psNotes_of_mem (b : Nat) : psNotes d b = psNotes c b := by
  simp only [psNotes, sectionNotes_of_mem h]

theorem imTper_of_mem (b : Nat) : imTper d b = imTper c b := by
  simp only [imTper, imF_of_mem h]

theorem orderChk_of_mem (b : Nat) (time : Bool) (l : List Nat) (prev : Option Nat) :
    orderChk d b time l prev = orderChk c b time l prev := by
  induction l generalizing prev with
  | nil => rfl
  | cons o t ih => simp only [orderChk, imW_of_mem h, imTper_of_mem h, ih]

theorem noteOfWord_of_mem (b w : Nat) : noteOfWord d b w = noteOfWord c b w := by
  simp only [noteOfWord, imF_of_mem h]

theorem bindChk_of_mem (b e : Nat) : bindChk d b e = bindChk c b e := by
  simp only [bindChk, noteOfWord_of_mem h, imW_of_mem h, imF_of_mem h]

theorem notePointChk_of_mem (b : Nat) (bw : List Nat) (o : Nat) : notePointChk d b bw o = notePointChk c b bw o := by
  simp only [notePointChk, imW_of_mem h]

theorem tsNotes_of_mem (b : Nat) : tsNotes d b = tsNotes c b := by
  simp only [tsNotes, sectionNotes_of_mem h]

theorem camEntries_of_mem (b : Nat) : camEntries d b = camEntries c b := by
  simp only [camEntries, sectionNotes_of_mem h]

theorem camExtents_of_mem (b : Nat) : camExtents d b = camExtents c b := by
  simp only [camExtents, camEntries_of_mem h, imF_of_mem h]

theorem reqChk_of_mem (b e : Nat) : reqChk d b e = reqChk c b e := by
  simp only [reqChk, imF_of_mem h]

theorem resChk_of_mem (b e : Nat) : resChk d b e = resChk c b e := by
  simp only [resChk, imW_of_mem h, imF_of_mem h]

theorem resEntries_of_mem (b : Nat) : resEntries d b = resEntries c b := by
  simp only [resEntries, sectionNotes_of_mem h]

theorem imTalign_of_mem (b : Nat) : imTalign d b = imTalign c b := by
  simp only [imTalign, imF_of_mem h]

theorem imTscnt_of_mem (b : Nat) : imTscnt d b = imTscnt c b := by
  simp only [imTscnt, imF_of_mem h]

theorem frameChk_of_mem (b : Nat) : frameChk d b = frameChk c b := by
  simp only [frameChk, imTper_of_mem h, imTalign_of_mem h, imTscnt_of_mem h]

theorem noteLenChk_of_mem (b o : Nat) : noteLenChk d b o = noteLenChk c b o := by
  simp only [noteLenChk, imW_of_mem h]

theorem reqEntries_of_mem (b : Nat) : reqEntries d b = reqEntries c b := by
  simp only [reqEntries, sectionNotes_of_mem h]

theorem bindEntries_of_mem (b : Nat) : bindEntries d b = bindEntries c b := by
  simp only [bindEntries, sectionNotes_of_mem h]

theorem imMaxspd_of_mem (b : Nat) : imMaxspd d b = imMaxspd c b := by
  simp only [imMaxspd, imF_of_mem h]

theorem imDrone_of_mem (b : Nat) : imDrone d b = imDrone c b := by
  simp only [imDrone, imF_of_mem h]

theorem headerChk_of_mem (b : Nat) : headerChk d b = headerChk c b := by
  simp only [headerChk, imMaxspd_of_mem h, imDrone_of_mem h, imF_of_mem h]

theorem noteFieldChk_of_mem (b stave o : Nat) : noteFieldChk d b stave o = noteFieldChk c b stave o := by
  simp only [noteFieldChk, imW_of_mem h]

theorem imTable_of_mem (b e : Nat) : imTable d b e = imTable c b e := by
  simp only [imTable, bytesAt_of_mem h, imF_of_mem h]

theorem camGives_of_mem (b k e : Nat) : camGives d b k e = camGives c b k e := by
  simp only [camGives, imF_of_mem h]

theorem camUnits_of_mem (b k : Nat) (l : List Nat) : camUnits d b k l = camUnits c b k l := by
  simp only [camUnits, funext (camGives_of_mem h b k), imF_of_mem h]

theorem camDirChk_of_mem (b : Nat) (before l : List Nat) : camDirChk d b before l = camDirChk c b before l := by
  induction l generalizing before with
  | nil => rfl
  | cons e t ih => simp only [camDirChk, imF_of_mem h, imTable_of_mem h, camUnits_of_mem h, ih]

theorem boundWords_of_mem (b : Nat) : boundWords d b = boundWords c b := by
  simp only [boundWords, bindEntries_of_mem h, imF_of_mem h]

theorem bodyBytes_of_mem (b : Nat) : bodyBytes d b = bodyBytes c b := by
  simp only [bodyBytes, byteAt_of_mem h, imLength_of_mem h, boundWords_of_mem h]

theorem crowdChk_of_mem (b most : Nat) (l : List Nat) (cur n : Nat) : crowdChk d b most l cur n = crowdChk c b most l cur n := by
  induction l generalizing cur n with
  | nil => rfl
  | cons o t ih => simp only [crowdChk, imW_of_mem h, ih]

theorem imExtents_of_mem (b : Nat) : imExtents d b = imExtents c b := by
  simp only [imExtents, imF_of_mem h]

theorem bodyChk_of_mem (b : Nat) : bodyChk d b = bodyChk c b := by
  simp only [bodyChk, psNotes_of_mem h, orderChk_of_mem h, funext (bindChk_of_mem h b),
    funext (notePointChk_of_mem h b (boundWords c b)), tsNotes_of_mem h, camExtents_of_mem h, funext (reqChk_of_mem h b),
    funext (resChk_of_mem h b), resEntries_of_mem h, frameChk_of_mem h, funext (noteLenChk_of_mem h b), imF_of_mem h,
    reqEntries_of_mem h, bindEntries_of_mem h, headerChk_of_mem h, imW_of_mem h, funext (noteFieldChk_of_mem h b 0),
    funext (noteFieldChk_of_mem h b 1), camDirChk_of_mem h, bodyBytes_of_mem h, imLength_of_mem h, crowdChk_of_mem h,
    boundWords_of_mem h, camEntries_of_mem h, imExtents_of_mem h]

include hp in
theorem verifyImage_of_mem (b : Nat) : verifyImage d b = verifyImage c b := by
  simp only [verifyImage, magicChk_of_mem h, verifyRun_of_poison hp, imLength_of_mem h, headChk_of_mem h, bodyChk_of_mem h]

end

end Sys2Proof.Machine
end

section
/-! PROOFS. Field by field: what the tablature engine leaves. -/

namespace Sys2Proof.Machine

open Sys2Proof Sys2Proof.Safety

@[simp] theorem fresh_cores (c : Chip) : (fresh c).1.cores = c.cores := by
  simp [fresh]

@[simp] theorem fresh_courses (c : Chip) : (fresh c).1.courses = c.courses := by
  simp [fresh]

@[simp] theorem fresh_tab (c : Chip) : (fresh c).1.tab = c.tab := by
  simp [fresh]

@[simp] theorem fresh_dev (c : Chip) : (fresh c).1.dev = c.dev := by
  simp [fresh]

@[simp] theorem fresh_accepted (c : Chip) : (fresh c).1.accepted = c.accepted := by
  simp [fresh]

@[simp] theorem fresh_queues (c : Chip) : (fresh c).1.queues = c.queues := by
  simp [fresh]

@[simp] theorem pulse_queues (c : Chip) (s : Nat) : (pulse c s).queues = c.queues := by
  simp [pulse]

@[simp] theorem setDev_tab (c : Chip) (new : DevState) (cause : Nat) : (setDev c new cause).tab = c.tab := by
  unfold setDev
  dsimp only
  (repeat' split) <;> simp

@[simp] theorem setDev_queues (c : Chip) (new : DevState) (cause : Nat) : (setDev c new cause).queues = c.queues := by
  unfold setDev
  dsimp only
  (repeat' split) <;> simp

@[simp] theorem dropShadows_tab (c : Chip) (mask : Nat) : (dropShadows c mask).tab = c.tab := by
  unfold dropShadows
  apply foldl_tab
  intro d a
  rfl

@[simp] theorem dropShadows_accepted (c : Chip) (mask : Nat) : (dropShadows c mask).accepted = c.accepted := by
  unfold dropShadows
  apply foldl_accepted
  intro d a
  rfl

@[simp] theorem dropShadows_queues (c : Chip) (mask : Nat) : (dropShadows c mask).queues = c.queues := by
  unfold dropShadows
  apply foldl_queues
  intro d a
  rfl

@[simp] theorem camPush_cores (c : Chip) (e : Nat) (o : CamOp) : (camPush c e o).cores = c.cores := by
  simp [camPush]

@[simp] theorem camPush_courses (c : Chip) (e : Nat) (o : CamOp) : (camPush c e o).courses = c.courses := by
  simp [camPush]

@[simp] theorem camPush_regs (c : Chip) (e : Nat) (o : CamOp) : (camPush c e o).regs = c.regs := by
  simp [camPush]

@[simp] theorem camPush_tab (c : Chip) (e : Nat) (o : CamOp) : (camPush c e o).tab = c.tab := by
  simp [camPush]

@[simp] theorem camFailure_cores (c : Chip) (e code sel : Nat) : (camFailure c e code sel).cores = c.cores := by
  unfold camFailure
  rw [regSetFld_cores, regSetFld_cores, regOr_cores, regCount_cores]

@[simp] theorem camFailure_courses (c : Chip) (e code sel : Nat) : (camFailure c e code sel).courses = c.courses := by
  unfold camFailure
  rw [regSetFld_courses, regSetFld_courses, regOr_courses, regCount_courses]

@[simp] theorem camFailure_tab (c : Chip) (e code sel : Nat) : (camFailure c e code sel).tab = c.tab := by
  unfold camFailure
  rw [regSetFld_tab, regSetFld_tab, regOr_tab, regCount_tab]

@[simp] theorem camFailure_dev (c : Chip) (e code sel : Nat) : (camFailure c e code sel).dev = c.dev := by
  unfold camFailure
  rw [regSetFld_dev, regSetFld_dev, regOr_dev, regCount_dev]

@[simp] theorem camFailure_accepted (c : Chip) (e code sel : Nat) : (camFailure c e code sel).accepted = c.accepted := by
  unfold camFailure
  rw [regSetFld_accepted, regSetFld_accepted, regOr_accepted, regCount_accepted]

@[simp] theorem camFailure_queues (c : Chip) (e code sel : Nat) : (camFailure c e code sel).queues = c.queues := by
  unfold camFailure
  rw [regSetFld_queues, regSetFld_queues, regOr_queues, regCount_queues]

@[simp] theorem tabEv_cores (c : Chip) (n : Nat) : (tabEv c n).cores = c.cores := by
  simp [tabEv]

@[simp] theorem tabEv_courses (c : Chip) (n : Nat) : (tabEv c n).courses = c.courses := by
  simp [tabEv]

@[simp] theorem tabEv_tab (c : Chip) (n : Nat) : (tabEv c n).tab = c.tab := by
  simp [tabEv]

@[simp] theorem tabEv_queues (c : Chip) (n : Nat) : (tabEv c n).queues = c.queues := by
  simp [tabEv]

@[simp] theorem tabEv_cams (c : Chip) (n : Nat) : (tabEv c n).cams = c.cams := by
  simp [tabEv]

@[simp] theorem stopIfLast_cores (c : Chip) : (stopIfLast c).cores = c.cores := by
  simp [stopIfLast]

@[simp] theorem stopIfLast_courses (c : Chip) : (stopIfLast c).courses = c.courses := by
  simp [stopIfLast]

@[simp] theorem camSwitchPush_cores (c : Chip) (e : Nat) : (camSwitchPush c e).cores = c.cores := by
  unfold camSwitchPush
  split <;> simp

@[simp] theorem camSwitchPush_courses (c : Chip) (e : Nat) : (camSwitchPush c e).courses = c.courses := by
  unfold camSwitchPush
  split <;> simp

@[simp] theorem camSwitchPush_regs (c : Chip) (e : Nat) : (camSwitchPush c e).regs = c.regs := by
  unfold camSwitchPush
  split <;> simp

@[simp] theorem camSwitchPush_tab (c : Chip) (e : Nat) : (camSwitchPush c e).tab = c.tab := by
  unfold camSwitchPush
  split <;> simp

@[simp] theorem camSwitches_cores (c : Chip) : (camSwitches c).cores = c.cores := by
  simp [camSwitches]

@[simp] theorem camSwitches_courses (c : Chip) : (camSwitches c).courses = c.courses := by
  simp [camSwitches]

@[simp] theorem camSwitches_regs (c : Chip) : (camSwitches c).regs = c.regs := by
  simp [camSwitches]

@[simp] theorem camSwitches_tab (c : Chip) : (camSwitches c).tab = c.tab := by
  simp [camSwitches]

@[simp] theorem dropNote_cores (c : Chip) (d : Due) : (dropNote c d).cores = c.cores := by
  simp [dropNote]

@[simp] theorem dropNote_courses (c : Chip) (d : Due) : (dropNote c d).courses = c.courses := by
  simp [dropNote]

@[simp] theorem dropNote_tab (c : Chip) (d : Due) : (dropNote c d).tab = c.tab := by
  simp [dropNote]

@[simp] theorem dropNote_sys (c : Chip) (d : Due) : (dropNote c d).sys = c.sys := by
  simp [dropNote]

@[simp] theorem takeDue_cores (c : Chip) (d : Due) : (takeDue c d).cores = c.cores := by
  simp [takeDue]

@[simp] theorem takeDue_courses (c : Chip) (d : Due) : (takeDue c d).courses = c.courses := by
  simp [takeDue]

@[simp] theorem takeDue_sys (c : Chip) (d : Due) : (takeDue c d).sys = c.sys := by
  simp [takeDue]

@[simp] theorem noteLate_cores (c : Chip) (idx : Nat) (time : Bool) (pos due : Nat) (lane lateness : Nat) :
    (noteLate c idx time pos due lane lateness).cores = c.cores := by
  simp [noteLate]

@[simp] theorem noteLate_courses (c : Chip) (idx : Nat) (time : Bool) (pos due : Nat) (lane lateness : Nat) :
    (noteLate c idx time pos due lane lateness).courses = c.courses := by
  simp [noteLate]

@[simp] theorem noteLate_tab (c : Chip) (idx : Nat) (time : Bool) (pos due : Nat) (lane lateness : Nat) :
    (noteLate c idx time pos due lane lateness).tab = c.tab := by
  simp [noteLate]

@[simp] theorem noteLate_sys (c : Chip) (idx : Nat) (time : Bool) (pos due : Nat) (lane lateness : Nat) :
    (noteLate c idx time pos due lane lateness).sys = c.sys := by
  simp [noteLate]

@[simp] theorem noteLate_cams (c : Chip) (idx : Nat) (time : Bool) (pos due : Nat) (lane lateness : Nat) :
    (noteLate c idx time pos due lane lateness).cams = c.cams := by
  simp [noteLate]

@[simp] theorem issue_cores (c : Chip) (d : Due) (w0 w1 : Word) (w2 w3 : Word) : (issue c d w0 w1 w2 w3).cores = c.cores := by
  simp [issue]

@[simp] theorem issue_courses (c : Chip) (d : Due) (w0 w1 : Word) (w2 w3 : Word) : (issue c d w0 w1 w2 w3).courses = c.courses := by
  simp [issue]

@[simp] theorem issue_sys (c : Chip) (d : Due) (w0 w1 : Word) (w2 w3 : Word) : (issue c d w0 w1 w2 w3).sys = c.sys := by
  simp [issue]

@[simp] theorem stageEngine_cores (c : Chip) (b k : Nat) : (stageEngine c b k).cores = c.cores := by
  simp [stageEngine]

@[simp] theorem stageEngine_courses (c : Chip) (b k : Nat) : (stageEngine c b k).courses = c.courses := by
  simp [stageEngine]

@[simp] theorem stageEngine_regs (c : Chip) (b k : Nat) : (stageEngine c b k).regs = c.regs := by
  simp [stageEngine]

@[simp] theorem stageEngine_tab (c : Chip) (b k : Nat) : (stageEngine c b k).tab = c.tab := by
  simp [stageEngine]

@[simp] theorem stageEngine_dev (c : Chip) (b k : Nat) : (stageEngine c b k).dev = c.dev := by
  simp [stageEngine]

@[simp] theorem stageEngine_accepted (c : Chip) (b k : Nat) : (stageEngine c b k).accepted = c.accepted := by
  simp [stageEngine]

@[simp] theorem stageEngine_queues (c : Chip) (b k : Nat) : (stageEngine c b k).queues = c.queues := by
  simp [stageEngine]

@[simp] theorem stageEngine_sys (c : Chip) (b k : Nat) : (stageEngine c b k).sys = c.sys := by
  simp [stageEngine]

@[simp] theorem stageEcc_cores (c : Chip) (mask e : Nat) (sel ecc at_ : Nat) : (stageEcc c mask e sel ecc at_).cores = c.cores := by
  simp -implicitDefEqProofs [stageEcc]

@[simp] theorem stageEcc_courses (c : Chip) (mask e : Nat) (sel ecc at_ : Nat) : (stageEcc c mask e sel ecc at_).courses = c.courses := by
  simp -implicitDefEqProofs [stageEcc]

@[simp] theorem stageEcc_tab (c : Chip) (mask e : Nat) (sel ecc at_ : Nat) : (stageEcc c mask e sel ecc at_).tab = c.tab := by
  simp -implicitDefEqProofs [stageEcc]

@[simp] theorem stageEcc_dev (c : Chip) (mask e : Nat) (sel ecc at_ : Nat) : (stageEcc c mask e sel ecc at_).dev = c.dev := by
  simp -implicitDefEqProofs [stageEcc]

@[simp] theorem stageEcc_accepted (c : Chip) (mask e : Nat) (sel ecc at_ : Nat) : (stageEcc c mask e sel ecc at_).accepted = c.accepted := by
  simp -implicitDefEqProofs [stageEcc]

@[simp] theorem stageEcc_queues (c : Chip) (mask e : Nat) (sel ecc at_ : Nat) : (stageEcc c mask e sel ecc at_).queues = c.queues := by
  simp -implicitDefEqProofs [stageEcc]

@[simp] theorem stageEcc_sys (c : Chip) (mask e : Nat) (sel ecc at_ : Nat) : (stageEcc c mask e sel ecc at_).sys = c.sys := by
  simp -implicitDefEqProofs [stageEcc]

@[simp] theorem stageMemory_cores (c : Chip) (mask : Nat) : (stageMemory c mask).cores = c.cores := by
  simp [stageMemory]

@[simp] theorem stageMemory_courses (c : Chip) (mask : Nat) : (stageMemory c mask).courses = c.courses := by
  simp [stageMemory]

@[simp] theorem stageMemory_tab (c : Chip) (mask : Nat) : (stageMemory c mask).tab = c.tab := by
  simp [stageMemory]

@[simp] theorem stageMemory_dev (c : Chip) (mask : Nat) : (stageMemory c mask).dev = c.dev := by
  simp [stageMemory]

@[simp] theorem stageMemory_accepted (c : Chip) (mask : Nat) : (stageMemory c mask).accepted = c.accepted := by
  simp [stageMemory]

@[simp] theorem stageMemory_queues (c : Chip) (mask : Nat) : (stageMemory c mask).queues = c.queues := by
  simp [stageMemory]

@[simp] theorem stageMemory_sys (c : Chip) (mask : Nat) : (stageMemory c mask).sys = c.sys := by
  simp [stageMemory]

end Sys2Proof.Machine
end

section
/-! PROOFS. The tablature engine (O42): frames, notes that fall due, notes fetched and issued, the speed window. -/

namespace Sys2Proof.Machine

open Sys2Proof Sys2Proof.Safety

variable {c : Chip}

/-! ### Frames (R352) -/

theorem dueBefore_none (limit n : Nat) (h : nextMoment c = none) : dueBefore c limit n = c := by
  cases n with
  | zero => rfl
  | succ n => rw [dueBefore, h]

/-- A frame that has begun. -/
structure FrameBegun (c t : Chip) (b f : Nat) : Prop where
  frame : t.tab.frame = some f
  idx : t.tab.tIdx = 0
  bank : t.tab.tsBank = some b
  queue : t.tab.tsQ = c.tab.tsQ
  due : t.tab.dueT = c.tab.dueT
  low : regVal t 0x60005044 = wd f
  high : regVal t 0x60005048 = wd (f / 2 ^ 32)
  count : regVal t 0x60005108 = regVal c 0x60005108 + 1
  work : KeepsWork c t
  regs : OnlyRegs [0x60005044, 0x60005048, 0x60005108, 0x6000510C, 0x60005038] c t

/-- A frame begins with the number of notes left over counted, where there are any. -/
theorem frameBegun (b f : Nat) (h : nextMoment c = none) : FrameBegun c (beginFrame c b f) b f := by
  let e := if c.tab.dueT.isEmpty then c else tabEv (regCount c 0x6000510C 31 0 1) 6
  have he : KeepsRegs (fun a => a = 0x6000510C ∨ a = 0x60005038) c e :=
    keepsRegs_ite (fun _ => keepsRegs_refl c)
      fun _ => keepsRegs_trans (keepsRegs_regUpd c _ (Or.inl rfl)) (keepsRegs_regUpd _ _ (Or.inr rfl))
  have htab : e.tab = c.tab := by simp only [e]; split <;> rfl
  have hwork : KeepsWork c e := by simp only [e]; split <;> exact ⟨rfl, rfl, rfl⟩
  have heq : beginFrame c b f = { regWrap (regPut (regPut e 0x60005044 (wd f)) 0x60005048 (wd (f / 2 ^ 32))) 0x60005108 31 0 1 with
      tab := { e.tab with tsBank := some b, frame := some f, tIdx := 0 } } := by
    unfold beginFrame
    rw [dueBefore_none _ _ h]
    rfl
  clear_value e
  have hreg (a : Nat) : regVal (beginFrame c b f) a =
      regVal (regWrap (regPut (regPut e 0x60005044 (wd f)) 0x60005048 (wd (f / 2 ^ 32))) 0x60005108 31 0 1) a :=
    regVal_of_regs (by rw [heq]) a
  refine ⟨by rw [heq], by rw [heq], by rw [heq], by rw [heq]; show e.tab.tsQ = _; rw [htab],
    by rw [heq]; show e.tab.dueT = _; rw [htab],
    ?_, ?_, ?_, keepsWork_trans hwork (by rw [heq]; exact ⟨rfl, rfl, rfl⟩), fun a ha => ?_⟩
  · rw [hreg, regWrap, regVal_regUpd_other _ _ (by decide), regVal_regPut_other _ _ (by decide), regVal_regPut_same]
  · rw [hreg, regWrap, regVal_regUpd_other _ _ (by decide), regVal_regPut_same]
  · rw [hreg, regVal_regWrap_word, regVal_regPut_other _ _ (by decide), regVal_regPut_other _ _ (by decide), he _ (by decide)]
  · simp only [List.mem_cons, List.not_mem_nil, or_false, not_or] at ha
    obtain ⟨h44, h48, h108, h10C, h38⟩ := ha
    rw [hreg, regWrap, regVal_regUpd_other _ _ h108, regVal_regPut_other _ _ h48, regVal_regPut_other _ _ h44,
      he a (not_or.mpr ⟨h10C, h38⟩)]

/-- The next frame of the stave in force. -/
theorem xFrameStart_next {b f : Nat} (hr : tabRuns c = true) (hq : c.tab.tsQ = []) (hb : c.tab.tsBank = some b)
    (hf : c.tab.frame = some f) (hle : f + imTper c b ≤ c.tb) :
    xFrameStart c = beginFrame c b (f + imTper c b) := by
  have hforce : inForce c (f + imTper c b) = true := by
    unfold inForce comingStave
    rw [hq, nextStave]
  have hnext : nextFrame c = some (b, f + imTper c b) := by
    unfold nextFrame
    rw [hb, hf]
    exact if_pos ⟨hle, hforce⟩
  rw [xFrameStart, hr, hnext]
  rfl

/-- The first frame of the stave that follows. -/
theorem xFrameStart_first {b m : Nat} (hr : tabRuns c = true) (hq : c.tab.tsQ = [(b, m)]) (hb : c.tab.tsBank = none)
    (hn : imTscnt c b ≠ 0) (hle : firstBoundary c b m ≤ c.tb) :
    xFrameStart c = { beginFrame c b (firstBoundary c b m) with tab := { (beginFrame c b (firstBoundary c b m)).tab with tsQ := [] } } := by
  have hnext : nextFrame c = none := by
    unfold nextFrame
    rw [hb]
  have hcoming : comingStave c = some (b, firstBoundary c b m, []) := by
    unfold comingStave
    rw [hq, hb]
    simp only [nextStave, staveStart, if_neg hn]
  rw [xFrameStart, hr, hnext, hcoming]
  simp only [Bool.not_true, Bool.false_eq_true, if_false]
  rw [if_pos hle, beginStave, if_neg hn]

theorem nextMoment_noBank (h : c.tab.tsBank = none) : nextMoment c = none := by
  unfold nextMoment
  rw [h]

/-! ### Time notes that fall due, notes in hand -/

theorem timeDue_kept (b idx m : Nat) (h : dropEn c = false) : timeDue c b idx m =
    { c with tab := { c.tab with dueT := c.tab.dueT ++ [⟨true, b, idx, 0, m, true⟩], tIdx := idx + 1 } } := by
  unfold timeDue
  simp [h]

/-! ### The speed window (R369, R370) -/

/-- The judgement of a window: faster than MAXSPD, the flag is set, with its event where it was not; else it is clear. -/
def windowJudged (c : Chip) (fast : Bool) : Chip :=
  if fast then (if bit (regVal c 0x60005004) 3 then c else tabEv (regOr c 0x60005004 8) 3) else regClr c 0x60005004 8

theorem windowJudged_flag (c : Chip) (fast : Bool) : bit (regVal (windowJudged c fast) 0x60005004) 3 = fast := by
  cases fast
  · show bit (regVal (regClr c 0x60005004 8) 0x60005004) 3 = false
    rw [bit_regClr _ _ _ (by decide), show Nat.testBit 8 3 = true by decide, Bool.not_true, Bool.and_false]
  · show bit (regVal (if bit (regVal c 0x60005004) 3 then c else tabEv (regOr c 0x60005004 8) 3) 0x60005004) 3 = true
    split
    · assumption
    · rw [tabEv, rTAB, regOr, regVal_regUpd_other _ _ (by decide), bit_regOr _ _ _ (by decide)]
      exact (Bool.or_eq_true _ _).mpr (Or.inr (by decide))

theorem windowJudged_regs {W : Nat → Prop} (h4 : W 0x60005004) (h38 : W 0x60005038) (c : Chip) (fast : Bool) :
    KeepsRegs W c (windowJudged c fast) :=
  keepsRegs_ite (fun _ => keepsRegs_ite (fun _ => keepsRegs_refl c)
    fun _ => keepsRegs_trans (keepsRegs_regUpd c _ h4) (keepsRegs_regUpd _ _ h38)) fun _ => keepsRegs_regUpd c _ h4

theorem windowJudged_rest (c : Chip) (fast : Bool) : (windowJudged c fast).tab = c.tab ∧ KeepsWork c (windowJudged c fast) := by
  unfold windowJudged
  split
  · split <;> exact ⟨rfl, rfl, rfl, rfl⟩
  · exact ⟨rfl, rfl, rfl, rfl⟩

/-- The window's end. -/
def windowEnded (c : Chip) : Chip :=
  regMax (regPut { c with tab := { c.tab with win := 0, winIdx := c.tb / 1000000 } } 0x60005024 (wd (c.tab.win * 1000))) 0x60005028
    31 0 (c.tab.win * 1000)

theorem xSpeedWindow_eq (hper : c.sys.per = true) (hw : c.tb / 1000000 ≠ c.tab.winIdx) :
    xSpeedWindow c = windowJudged (windowEnded c) (match c.tab.active with
      | some b => decide (imMaxspd c b < c.tab.win * 1000)
      | none => false) := by
  have hm (b : Nat) : imMaxspd (windowEnded c) b = imMaxspd c b := imMaxspd_of_mem rfl b
  have h : xSpeedWindow c = windowJudged (windowEnded c) (match (windowEnded c).tab.active with
      | some b => decide (imMaxspd (windowEnded c) b < c.tab.win * 1000)
      | none => false) := by
    unfold xSpeedWindow
    rw [if_neg (not_or.mpr ⟨hw, by simp [hper]⟩)]
    rfl
  rw [h, show (windowEnded c).tab.active = c.tab.active from rfl]
  cases c.tab.active with
  | none => rfl
  | some b => simp only [hm]

theorem speedWindow_judges {s : State} (hper : s.chip.sys.per = true) (hw : s.chip.tb / 1000000 ≠ s.chip.tab.winIdx) :
    leaves .speedWindow s (fun t =>
      t.tab.win = 0 ∧ t.tab.winIdx = s.chip.tb / 1000000 ∧ regVal t 0x60005024 = wd (s.chip.tab.win * 1000) ∧
      bit (regVal t 0x60005004) 3 = (match s.chip.tab.active with
        | some b => decide (imMaxspd s.chip b < s.chip.tab.win * 1000)
        | none => false) ∧
      KeepsWork s.chip t ∧ OnlyRegs [0x60005004, 0x60005024, 0x60005028, 0x60005038] s.chip t) := by
  refine leaves_of_onChip (f := fun c => xSpeedWindow c) rfl ?_
  show _ ∧ _ ∧ _ ∧ _ ∧ _ ∧ _
  rw [xSpeedWindow_eq hper hw]
  generalize (match s.chip.tab.active with
        | some b => decide (imMaxspd s.chip b < s.chip.tab.win * 1000)
        | none => false) = fast
  obtain ⟨htab, hwork⟩ := windowJudged_rest (windowEnded s.chip) fast
  refine ⟨by rw [htab]; rfl, by rw [htab]; rfl, ?_, windowJudged_flag _ _, keepsWork_trans (d := windowEnded s.chip) ⟨rfl, rfl, rfl⟩ hwork, ?_⟩
  · rw [regVal_of_keepsRegs (windowJudged_regs (W := (· ≠ 0x60005024)) (by decide) (by decide) _ _), windowEnded, regMax,
      regVal_regUpd_other _ _ (by decide), regVal_regPut_same]
  · exact keepsRegs_trans (d := windowEnded s.chip)
      (keepsRegs_trans (keepsRegs_trans (keepsRegs_of_regs rfl) (keepsRegs_regPut _ _ (by simp))) (keepsRegs_regUpd _ _ (by simp)))
      (windowJudged_regs (by simp) (by simp) _ _)

end Sys2Proof.Machine
end

section
/-! PROOFS. The tablature engine (O42): notes issued, stagings, clears and verifications. -/

namespace Sys2Proof.Machine

open Sys2Proof Sys2Proof.Safety

variable {c : Chip}

/-! ### A note issued (R327, R354) -/

theorem stopReached_of_sys {c d : Chip} (h : d.sys = c.sys) : stopReached d = stopReached c := by rw [stopReached, stopReached, h]

theorem stopIfLast_running (h : stopReached c = false) : stopIfLast c = c := by
  rw [stopIfLast, if_neg (by rw [h]; simp)]

/-- What taking a due note out of its queue leaves of the tablature. -/
theorem takeDue_tab (c : Chip) (d : Due) : (takeDue c d).tab.lanes = c.tab.lanes ∧ (takeDue c d).tab.issueNo = c.tab.issueNo ∧
    (takeDue c d).tab.chgDue = c.tab.chgDue ∧ (takeDue c d).tab.active = c.tab.active ∧
    (d.time = true → (takeDue c d).tab.dueT = c.tab.dueT.drop 1 ∧ (takeDue c d).tab.dueP = c.tab.dueP) ∧
    (d.time = false → (takeDue c d).tab.dueT = c.tab.dueT) := by
  have hf : (useFetched c.tab d).lanes = c.tab.lanes ∧ (useFetched c.tab d).issueNo = c.tab.issueNo ∧
      (useFetched c.tab d).chgDue = c.tab.chgDue ∧ (useFetched c.tab d).active = c.tab.active ∧
      (useFetched c.tab d).dueT = c.tab.dueT ∧ (useFetched c.tab d).dueP = c.tab.dueP := by
    unfold useFetched
    split <;> split <;> exact ⟨rfl, rfl, rfl, rfl, rfl, rfl⟩
  obtain ⟨hl, hn, hc, ha, ht, hp⟩ := hf
  unfold takeDue
  dsimp only
  cases hd : d.time
  · exact ⟨hl, hn, hc, ha, fun h => absurd h (by decide), fun _ => ht⟩
  · exact ⟨hl, hn, hc, ha, fun _ => ⟨congrArg (List.drop 1) ht, hp⟩, fun h => absurd h (by decide)⟩

theorem takeDue_regs (c : Chip) (d : Due) : (takeDue c d).regs = c.regs := by
  unfold takeDue
  dsimp only
  split <;> rfl

theorem takeDue_tb (c : Chip) (d : Due) : (takeDue c d).tb = c.tb := by
  unfold takeDue
  dsimp only
  split <;> rfl

/-- A due note taken and counted. -/
def noteTaken (c : Chip) (d : Due) : Chip :=
  let c := regWrap (takeDue c d) 0x6000504C 31 0 1
  if d.time then c else regPut c 0x6000500C (dronePos c (imDrone c d.bank))

theorem noteTaken_tab (c : Chip) (d : Due) : (noteTaken c d).tab = (takeDue c d).tab := by
  unfold noteTaken
  dsimp only
  split <;> rfl

theorem noteTaken_tb (c : Chip) (d : Due) : (noteTaken c d).tb = c.tb := by
  unfold noteTaken
  dsimp only
  split <;> exact takeDue_tb c d

theorem regVal_noteTaken (c : Chip) (d : Due) {a : Nat} (h : a ≠ 0x6000500C) :
    regVal (noteTaken c d) a = regVal (regWrap (takeDue c d) 0x6000504C 31 0 1) a := by
  unfold noteTaken
  dsimp only
  split
  · rfl
  · exact regVal_regPut_other _ _ h

theorem regVal_noteTaken_other (c : Chip) (d : Due) {a : Nat} (h : a ≠ 0x6000500C) (h' : a ≠ 0x6000504C) :
    regVal (noteTaken c d) a = regVal c a := by
  rw [regVal_noteTaken c d h, regWrap, regVal_regUpd_other _ _ h', regVal_of_regs (takeDue_regs c d)]

/-- The entry of a note in its lane's queue. -/
def queuedNote (c : Chip) (d : Due) (w0 w1 w2 w3 : Word) : Job :=
  ⟨c.tab.issueNo + 1, d.time, d.bank, d.idx, d.pos, d.stamp, w0, w1, w2, w3,
    c.tab.chgDue && decide (c.tab.active = some d.bank) && bit (regVal c 0x60005000) 0, c.tb, 0, 0⟩

/-- The tablature once the number of a note has been given out. -/
def numbered (c : Chip) (d : Due) : Tab :=
  { c.tab with
    issueNo := c.tab.issueNo + 1
    chgDue := c.tab.chgDue && !(c.tab.chgDue && decide (c.tab.active = some d.bank)) }

/-- A note taken goes to the tail of its lane's queue. -/
def noteQueued (c : Chip) (d : Due) (w0 w1 w2 w3 : Word) : Chip :=
  let lane := nLane w3
  let no := c.tab.issueNo + 1
  let job := queuedNote c d w0 w1 w2 w3
  let c := updLane { c with tab := numbered c d } lane (fun l => { l with q := l.q ++ [job] })
  let c := if d.time ∨ c.tab.active = some d.bank then c
    else { c with cams := c.cams.map (fun (e : Nat × Cam) => (e.1, { e.2 with sw := e.2.sw.map (fun _ => no) })) }
  regMax c (laneReg lane 0x18) 31 0 (laneOf c lane).q.length

theorem issue_onTime {d : Due} (w0 w1 w2 w3 : Word) (h : c.tb - d.stamp ≤ lateTh c) :
    issue c d w0 w1 w2 w3 = noteQueued (noteTaken c d) d w0 w1 w2 w3 := by
  have hl : lateTh (noteTaken c d) = lateTh c := by
    unfold lateTh
    rw [regFld, regFld, regVal_noteTaken_other c d (by decide) (by decide)]
  have heq : issue c d w0 w1 w2 w3 = noteQueued (if lateTh (noteTaken c d) < c.tb - d.stamp then
      noteLate (noteTaken c d) d.idx d.time d.pos d.stamp (nLane w3) (c.tb - d.stamp) else noteTaken c d) d w0 w1 w2 w3 := rfl
  rw [heq, if_neg (by omega)]

theorem noteQueued_tab (c : Chip) (d : Due) (w0 w1 w2 w3 : Word) : (noteQueued c d w0 w1 w2 w3).tab =
    (updLane { c with tab := numbered c d } (nLane w3) (fun l => { l with q := l.q ++ [queuedNote c d w0 w1 w2 w3] })).tab := by
  unfold noteQueued
  dsimp only
  split <;> rfl

theorem noteQueued_lane (c : Chip) (d : Due) (w0 w1 w2 w3 : Word) :
    laneOf (noteQueued c d w0 w1 w2 w3) (nLane w3) =
      { laneOf c (nLane w3) with q := (laneOf c (nLane w3)).q ++ [queuedNote c d w0 w1 w2 w3] } := by
  rw [laneOf, noteQueued_tab]
  exact Tbl.get_put_same _ _ _ _

theorem noteQueued_lane_other (c : Chip) (d : Due) (w0 w1 w2 w3 : Word) {l : Nat} (h : l ≠ nLane w3) :
    laneOf (noteQueued c d w0 w1 w2 w3) l = laneOf c l := by
  rw [laneOf, noteQueued_tab]
  exact Tbl.get_put_apart _ _ _ _ h

theorem regVal_noteQueued (c : Chip) (d : Due) (w0 w1 w2 w3 : Word) {a : Nat} (h : a < 0x60005080) :
    regVal (noteQueued c d w0 w1 w2 w3) a = regVal c a := by
  unfold noteQueued
  dsimp only
  rw [regMax, regVal_regUpd_other _ _ (by simp only [laneReg, rTAB]; omega)]
  split <;> rfl

/-- No word of a note is found bad. -/
theorem noBadWord {bad ga : Nat} (hb : 4 ≤ bad) (hp : ∀ i, i < 4 → ga + 4 * i ∉ c.poison) :
    (List.range 4).find? (fun i => decide (i = bad) || decide (ga + 4 * i ∈ c.poison)) = none := by
  rw [List.find?_eq_none]
  intro i hi
  have h4 := List.mem_range.mp hi
  simp only [Bool.or_eq_true, decide_eq_true_eq, not_or]
  exact ⟨by omega, hp i h4⟩

section
variable {d : Due} {bad : Nat} (hi : tabIssues c = true) (hs : stopReached c = false) (hd : nextDue c = some d)
  (hh : inHand c d ≠ 0) (hb : 4 ≤ bad)
  (hp : ∀ i, i < 4 → tabGa d.bank (imF c d.bank (if d.time then 0x28 else 0x20) 4 + 16 * d.idx) + 4 * i ∉ c.poison)
include hi hs hd hh hb hp

/-- A note in hand is dropped or issued (R354, R358). -/
theorem xNoteIssue_hand : xNoteIssue c bad =
    if (!d.time && overspeed c && dropEn c && nDrop (noteWord c d.bank d.time d.idx 0) && decide (lateTh c < c.tb - d.stamp)) = true then
      camSwitches (takeDue (dropNote c d) d)
    else if 32 ≤ (laneOf c (nLane (noteWord c d.bank d.time d.idx 3))).q.length then c
    else camSwitches (issue c d (noteWord c d.bank d.time d.idx 0) (noteWord c d.bank d.time d.idx 1)
      (noteWord c d.bank d.time d.idx 2) (noteWord c d.bank d.time d.idx 3)) := by
  have h1 : stopIfLast (takeDue (dropNote c d) d) = takeDue (dropNote c d) d :=
    stopIfLast_running ((stopReached_of_sys (by simp)).trans hs)
  have h2 (w0 w1 w2 w3 : Word) : stopIfLast (issue c d w0 w1 w2 w3) = issue c d w0 w1 w2 w3 :=
    stopIfLast_running ((stopReached_of_sys (by simp)).trans hs)
  unfold xNoteIssue
  rw [hi, if_neg (by decide), hd]
  dsimp only
  rw [if_neg hh, noBadWord hb hp]
  dsimp only
  rw [h1, h2]

theorem xNoteIssue_issues (hdrop : dropEn c = false) (hq : (laneOf c (nLane (noteWord c d.bank d.time d.idx 3))).q.length < 32)
    (hl : c.tb - d.stamp ≤ lateTh c) :
    xNoteIssue c bad = camSwitches (noteQueued (noteTaken c d) d (noteWord c d.bank d.time d.idx 0) (noteWord c d.bank d.time d.idx 1)
      (noteWord c d.bank d.time d.idx 2) (noteWord c d.bank d.time d.idx 3)) := by
  rw [xNoteIssue_hand hi hs hd hh hb hp, if_neg (by simp [hdrop]), if_neg (by omega), issue_onTime _ _ _ _ hl]

theorem xNoteIssue_drops (ht : d.time = false) (ho : overspeed c = true) (hdrop : dropEn c = true)
    (hn : nDrop (noteWord c d.bank d.time d.idx 0) = true) (hl : lateTh c < c.tb - d.stamp) :
    xNoteIssue c bad = camSwitches (takeDue (dropNote c d) d) := by
  rw [xNoteIssue_hand hi hs hd hh hb hp, if_pos]
  rw [ht, ho, hdrop, decide_eq_true hl]
  rw [ht] at hn
  rw [hn]
  rfl

end

end Sys2Proof.Machine
end

section
/-! PROOFS. The tablature engine (O42): what its events leave. -/

namespace Sys2Proof.Machine

open Sys2Proof Sys2Proof.Safety

variable {s : State}

/-! ### Notes -/

/-- What a note that is issued leaves (R354). -/
theorem noteIssued_state (c : Chip) (d : Due) (w0 w1 w2 w3 : Word) :
    let t := camSwitches (noteQueued (noteTaken c d) d w0 w1 w2 w3)
    (laneOf t (nLane w3)).q = (laneOf c (nLane w3)).q ++ [queuedNote c d w0 w1 w2 w3] ∧
    (laneOf t (nLane w3)).fl = (laneOf c (nLane w3)).fl ∧ (∀ l, l ≠ nLane w3 → laneOf t l = laneOf c l) ∧
    t.tab.issueNo = c.tab.issueNo + 1 ∧ regVal t 0x6000504C = regVal c 0x6000504C + 1 ∧
    (d.time = true → t.tab.dueT = c.tab.dueT.drop 1 ∧ t.tab.dueP = c.tab.dueP) ∧
    (d.time = false → t.tab.dueT = c.tab.dueT) := by
  obtain ⟨hlanes, hno, hchg, hact, htime, hpos⟩ := takeDue_tab c d
  rw [← noteTaken_tab] at hlanes hno hchg hact htime hpos
  have hlane (l : Nat) : laneOf (noteTaken c d) l = laneOf c l := by rw [laneOf, hlanes, laneOf]
  have hjob : queuedNote (noteTaken c d) d w0 w1 w2 w3 = queuedNote c d w0 w1 w2 w3 := by
    unfold queuedNote
    rw [hno, hchg, hact, noteTaken_tb, regVal_noteTaken_other c d (by decide) (by decide)]
  have htab (t : Chip) (ht : t.tab = (noteQueued (noteTaken c d) d w0 w1 w2 w3).tab) (l : Nat) :
      laneOf t l = laneOf (noteQueued (noteTaken c d) d w0 w1 w2 w3) l := by rw [laneOf, ht, laneOf]
  intro t
  have ht : t.tab = (noteQueued (noteTaken c d) d w0 w1 w2 w3).tab := camSwitches_tab _
  have hn := noteQueued_tab (noteTaken c d) d w0 w1 w2 w3
  refine ⟨?_, ?_, fun l hl => ?_, ?_, ?_, fun h => ?_, fun h => ?_⟩
  · rw [htab t ht, noteQueued_lane, hlane, hjob]
  · rw [htab t ht, noteQueued_lane, hlane]
  · rw [htab t ht, noteQueued_lane_other _ _ _ _ _ _ hl, hlane]
  · rw [ht, hn]
    exact congrArg (· + 1) hno
  · rw [regVal_of_regs (camSwitches_regs _), regVal_noteQueued _ _ _ _ _ _ (by decide), regVal_noteTaken c d (by decide),
      regVal_regWrap_word, regVal_of_regs (takeDue_regs c d)]
  · rw [ht, hn]
    exact htime h
  · rw [ht, hn]
    exact hpos h

theorem keepsWork_noteIssue (c : Chip) (d : Due) (w0 w1 w2 w3 : Word) (h : c.tb - d.stamp ≤ lateTh c) :
    KeepsWork c (camSwitches (noteQueued (noteTaken c d) d w0 w1 w2 w3)) := by
  rw [← issue_onTime _ _ _ _ h]
  exact ⟨by simp, by simp, by simp⟩

/-- What a note that is dropped leaves (R358). -/
theorem noteDropped_state (c : Chip) {d : Due} (ht : d.time = false) :
    let t := camSwitches (takeDue (dropNote c d) d)
    t.tab.lanes = c.tab.lanes ∧ t.tab.issueNo = c.tab.issueNo ∧
    regVal t 0x60005078 = recIdx d.idx false (nLane (noteWord c d.bank d.time d.idx 3)) 0 ∧ KeepsWork c t ∧
    OnlyRegs [0x60005058, 0x60005078, 0x60005038] c t := by
  obtain ⟨hlanes, hno, _⟩ := takeDue_tab (dropNote c d) d
  intro t
  have htab : t.tab = (takeDue (dropNote c d) d).tab := camSwitches_tab _
  have hregs : t.regs = (dropNote c d).regs := (camSwitches_regs _).trans (takeDue_regs _ _)
  refine ⟨by rw [htab, hlanes, dropNote_tab], by rw [htab, hno, dropNote_tab], ?_,
    ⟨by simp [t], by simp [t], by simp [t]⟩, ?_⟩
  · rw [regVal_of_regs hregs, dropNote]
    rw [tabEv, rTAB, regOr, regVal_regUpd_other _ _ (by decide), rTAB, regVal_regPut_same, ht]
  · refine keepsRegs_trans (d := dropNote c d) ?_ (keepsRegs_of_regs hregs)
    exact keepsRegs_trans (keepsRegs_trans (keepsRegs_regUpd c _ (by simp [rTAB])) (keepsRegs_regPut _ _ (by simp [rTAB])))
      (keepsRegs_regUpd _ _ (by simp [rTAB]))

/-! ### A command completed -/

/-- A completion of a command, on a device whose commands and rings are as they were. -/
theorem completed_complete {c d : Chip} (r : ReplyTo) (status : Nat) (detail : Word) (hacc : d.accepted = c.accepted)
    (hq : d.queues = c.queues) (hcan : canWriteHost d = canWriteHost c) : Completed c (complete d r status detail) r status := by
  refine ⟨by rw [complete_accepted, hacc], fun hr hlt hhost => ?_⟩
  have hpost := posted_post d r true status detail [] r.handle true hlt (hcan.trans hhost)
  rw [queueOf_of_queues hq] at hpost
  rw [complete, if_pos (by rw [hacc]; exact hr)]
  exact hpost

/-! ### Stagings (R356 to R358) -/

theorem bankState_setBank (c : Chip) (b n : Nat) : bankState (setBank c b n) b = n := by
  unfold bankState setBank
  split <;> rfl

theorem setBank_rest (c : Chip) (b n : Nat) : KeepsWork c (setBank c b n) ∧ (setBank c b n).regs = c.regs ∧
    (setBank c b n).dev = c.dev ∧ (setBank c b n).accepted = c.accepted ∧ (setBank c b n).queues = c.queues ∧
    (setBank c b n).mem = c.mem := by
  unfold setBank
  split <;> exact ⟨⟨rfl, rfl, rfl⟩, rfl, rfl, rfl, rfl, rfl⟩

/-- The registers of the engines of a mask that a staging may write: CSTAT and the counter of errors. -/
def stagedRegs (mask : Nat) : List Nat := ((List.range 32).filter mask.testBit).flatMap (fun k => [camReg k 1, camReg k 7])

theorem camFailure_regs {W : Nat → Prop} {e : Nat} (h1 : W (camReg e 1)) (h7 : W (camReg e 7)) (c : Chip) (code sel : Nat) :
    KeepsRegs W c (camFailure c e code sel) := by
  have hcount : KeepsRegs W c (regOr (regCount c (camReg e 7) 15 0 1) (camReg e 1) 2) :=
    keepsRegs_trans (keepsRegs_regUpd c _ h7) (keepsRegs_regUpd _ _ h1)
  exact keepsRegs_trans hcount (keepsRegs_trans (keepsRegs_regUpd _ _ h1) (keepsRegs_regUpd _ _ h1))

/-- What table memory meets is recorded in the engine that meets it (R413). -/
theorem stageEcc_regs (c : Chip) (mask e sel ecc at_ : Nat) (he : e < 32) : OnlyRegs (stagedRegs mask) c (stageEcc c mask e sel ecc at_) := by
  unfold stageEcc
  dsimp only
  refine keepsRegs_ite (fun _ => keepsRegs_refl c) fun h => ?_
  have hmask : mask.testBit e = true := by
    cases hm : mask.testBit e
    · exact absurd (Or.inl hm) h
    · rfl
  have hmem (a : Nat) (ha : a = camReg e 1 ∨ a = camReg e 7) : a ∈ stagedRegs mask :=
    List.mem_flatMap.mpr ⟨e, List.mem_filter.mpr ⟨List.mem_range.mpr he, hmask⟩, by simpa using ha⟩
  have h1 := hmem _ (Or.inl rfl)
  have h7 := hmem _ (Or.inr rfl)
  refine keepsRegs_ite (fun _ => keepsRegs_trans (keepsRegs_regUpd c _ h7) (keepsRegs_regUpd _ _ h1))
    fun _ => keepsRegs_ite (fun _ => ?_) fun _ => keepsRegs_refl c
  generalize hd : updCam c e _ = d
  have hcam : KeepsRegs (· ∈ stagedRegs mask) c d := keepsRegs_of_regs (hd ▸ rfl)
  exact keepsRegs_trans (keepsRegs_trans hcam (keepsRegs_regUpd d _ h1)) (camFailure_regs h1 h7 _ _ _)

theorem stageMemory_regs (c : Chip) (mask : Nat) : OnlyRegs (stagedRegs mask) c (stageMemory c mask) := by
  unfold stageMemory fresh
  exact keepsRegs_trans (d := { c with free := c.free + 1 }) (keepsRegs_of_regs rfl)
    (stageEcc_regs _ _ _ _ _ _ (Nat.mod_lt _ (by decide)))

/-- The engines of a staging with their tables in the shadow sets. -/
def stagedAll (c : Chip) (a : Arm) : Chip :=
  stageMemory (((List.range 32).filter a.mask.testBit).foldl (fun c k => stageEngine c a.bank k) c) a.mask

/-- What a staging leaves of the device. -/
structure Staged (c d : Chip) (mask : Nat) : Prop where
  tab : d.tab = c.tab
  dev : d.dev = c.dev
  accepted : d.accepted = c.accepted
  work : KeepsWork c d
  regs : OnlyRegs (stagedRegs mask) c d

theorem stagedAll_staged (c : Chip) (a : Arm) : Staged c (stagedAll c a) a.mask where
  tab := by simp [stagedAll]
  dev := by simp [stagedAll]
  accepted := by simp [stagedAll]
  work := ⟨by simp [stagedAll], by simp [stagedAll], by simp [stagedAll]⟩
  regs := keepsRegs_trans (keepsRegs_of_regs (by simp)) (stageMemory_regs _ _)

theorem stagedRegs_high {mask a : Nat} (h : a < 0x60200000) : a ∉ stagedRegs mask := by
  intro hm
  obtain ⟨k, _, hk⟩ := List.mem_flatMap.mp hm
  simp only [List.mem_cons, List.not_mem_nil, or_false, camReg] at hk
  have h1 := clReg_high k (0x40 + 4 * 1)
  have h7 := clReg_high k (0x40 + 4 * 7)
  omega

theorem staged_dronePos {c d : Chip} {mask : Nat} (h : Staged c d mask) (b : Nat) :
    dronePos d (imDrone d b) = dronePos c (imDrone c b) := by
  have hlt : imDrone c b < 256 := by
    show leNat c _ 1 < 256
    simp only [leNat]
    have := (byteAt c (tabGa b 0x18)).isLt
    omega
  rw [imDrone_of_mem h.work.mem, dronePos, h.regs _ (stagedRegs_high (by simp only [drnReg]; omega)), dronePos]

theorem bankState_of_tab {c d : Chip} (h : d.tab = c.tab) (b : Nat) : bankState d b = bankState c b := by
  rw [bankState, bankState, h]

/-- A staging that ends in time is ARMED. -/
def armStaged (c : Chip) (a : Arm) (p : Word) : Chip :=
  { c with tab := { c.tab with arm := some { a with p := p, staged := true }, fetchP2 := 0, fetchT2 := 0 } }

@[inherit_doc armStaged]
def stagingArmed (c : Chip) (a : Arm) (p : Word) : Chip := setBank (armStaged c a p) a.bank 5

theorem armStaged_rest (c : Chip) (a : Arm) (p : Word) : (armStaged c a p).tab.arm = some { a with p := p, staged := true } ∧
    KeepsWork c (armStaged c a p) ∧ (armStaged c a p).regs = c.regs ∧ (armStaged c a p).dev = c.dev :=
  ⟨rfl, ⟨rfl, rfl, rfl⟩, rfl, rfl⟩

theorem setBank_arm (c : Chip) (b n : Nat) : (setBank c b n).tab.arm = c.tab.arm := by
  unfold setBank
  split <;> rfl

/-- A staging whose position has gone by ends with TIMEOUT. -/
def stagingLate (c : Chip) (a : Arm) (d : Word) : Chip :=
  let c := dropShadows (setBank c a.bank 3) a.mask
  let c := tabEv { c with tab := { c.tab with arm := none, lasterr := d } } 5
  complete (setDev c (if a.running then .running else .configured) 0) a.reply stTIMEOUT d

theorem xStagingEnd_ends {c : Chip} {a : Arm} (ha : c.tab.arm = some a) (hs : a.staged = false)
    (hsw : ∀ k, k < 32 → a.mask.testBit k = true → switchOwed c k = false) :
    let d := dronePos c (imDrone c a.bank)
    let p := if a.now then d + 1 else a.p
    xStagingEnd c = if 1 ≤ sgn (p - d) then stagingArmed (stagedAll c a) a p else stagingLate (stagedAll c a) a d := by
  have hany : ((List.range 32).filter a.mask.testBit).any (switchOwed c) = false := by
    rw [List.any_eq_false]
    intro k hk
    obtain ⟨hk, hm⟩ := List.mem_filter.mp hk
    simp [hsw k (List.mem_range.mp hk) hm]
  have hd := staged_dronePos (stagedAll_staged c a) a.bank
  intro d p
  have heq : xStagingEnd c = if 1 ≤ sgn ((if a.now then dronePos (stagedAll c a) (imDrone (stagedAll c a) a.bank) + 1 else a.p) -
        dronePos (stagedAll c a) (imDrone (stagedAll c a) a.bank)) then
      stagingArmed (stagedAll c a) a (if a.now then dronePos (stagedAll c a) (imDrone (stagedAll c a) a.bank) + 1 else a.p)
      else stagingLate (stagedAll c a) a (dronePos (stagedAll c a) (imDrone (stagedAll c a) a.bank)) := by
    unfold xStagingEnd
    rw [ha]
    exact if_neg (by rw [hs, hany]; decide)
  rw [heq, hd]

theorem stagingEnd_armed {a : Arm} (ha : s.chip.tab.arm = some a) (hs : a.staged = false)
    (hsw : ∀ k, k < 32 → a.mask.testBit k = true → switchOwed s.chip k = false) :
    let d := dronePos s.chip (imDrone s.chip a.bank)
    let p := if a.now then d + 1 else a.p
    1 ≤ sgn (p - d) → leaves .stagingEnd s (fun t =>
      t.tab.arm = some { a with p := p, staged := true } ∧ bankState t a.bank = 5 ∧ t.dev = s.chip.dev ∧ KeepsWork s.chip t ∧
      OnlyRegs (stagedRegs a.mask) s.chip t) := by
  intro d p hp
  have he := stagedAll_staged s.chip a
  refine leaves_of_onChip (f := fun c => xStagingEnd c) rfl ?_
  show _ ∧ _ ∧ _ ∧ _ ∧ _
  rw [xStagingEnd_ends ha hs hsw, if_pos hp, stagingArmed]
  obtain ⟨harm, hkeep, hgs, hdv⟩ := armStaged_rest (stagedAll s.chip a) a p
  generalize armStaged (stagedAll s.chip a) a p = e at harm hkeep hgs hdv
  obtain ⟨hwork, hregs, hdev, _⟩ := setBank_rest e a.bank 5
  exact ⟨(setBank_arm _ _ _).trans harm, bankState_setBank _ _ _, (hdev.trans hdv).trans he.dev,
    keepsWork_trans he.work (keepsWork_trans hkeep hwork), keepsRegs_trans he.regs (keepsRegs_of_regs (hregs.trans hgs))⟩

theorem stagingEnd_late {a : Arm} (ha : s.chip.tab.arm = some a) (hs : a.staged = false)
    (hsw : ∀ k, k < 32 → a.mask.testBit k = true → switchOwed s.chip k = false) :
    let d := dronePos s.chip (imDrone s.chip a.bank)
    let p := if a.now then d + 1 else a.p
    sgn (p - d) < 1 → leaves .stagingEnd s (fun t =>
      t.tab.arm = none ∧ bankState t a.bank = 3 ∧ t.tab.lasterr = d ∧
      t.dev = (if a.running then .running else .configured) ∧ t.accepted = s.chip.accepted.erase a.reply ∧ KeepsWork s.chip t) := by
  intro d p hp
  have he := stagedAll_staged s.chip a
  refine leaves_of_onChip (f := fun c => xStagingEnd c) rfl ?_
  show _ ∧ _ ∧ _ ∧ _ ∧ _ ∧ _
  rw [xStagingEnd_ends ha hs hsw, if_neg (Int.not_le.mpr hp)]
  generalize stagedAll s.chip a = e at he
  obtain ⟨hwork, _, _, hacc, _⟩ := setBank_rest e a.bank 3
  have htab : (stagingLate e a d).tab = { (setBank e a.bank 3).tab with arm := none, lasterr := d } := by
    unfold stagingLate
    dsimp only
    rw [complete_tab, setDev_tab, tabEv_tab, dropShadows_tab]
  refine ⟨by rw [htab], ?_, by rw [htab], ?_, ?_, keepsWork_trans he.work (keepsWork_trans hwork ?_)⟩
  · rw [bankState, htab]
    exact bankState_setBank e a.bank 3
  · rw [stagingLate, complete_dev, setDev_dev]
  · rw [stagingLate, complete_accepted, setDev_accepted]
    show (dropShadows (setBank e a.bank 3) a.mask).accepted.erase _ = _
    rw [dropShadows_accepted, hacc, he.accepted]
  · exact ⟨by simp [stagingLate], by simp [stagingLate], by simp [stagingLate]⟩

/-! ### Clears and verifications (R372, R373) -/

theorem canWriteHost_of_regs {c d : Chip} (h : d.regs = c.regs) : canWriteHost d = canWriteHost c := by
  unfold canWriteHost
  rw [regVal_of_regs h]

/-- A bank cleared, before its command is answered. -/
def bankCleared (c : Chip) (b : Nat) : Chip :=
  let c := clearRange c (tabGa b 0) (tabGa b 0x800000)
  { c with tab := if b = 0 then { c.tab with clearA := none } else { c.tab with clearB := none } }

theorem tabClearDone_clears {b : Nat} {r : ReplyTo} (hb : b < 2)
    (hr : (if b = 0 then s.chip.tab.clearA else s.chip.tab.clearB) = some r) : leaves (.tabClearDone b) s (fun t =>
      (∀ a, byteAt t a = if tabGa b 0 ≤ a ∧ a < tabGa b 0x800000 then 0 else byteAt s.chip a) ∧
      (if b = 0 then t.tab.clearA else t.tab.clearB) = none ∧ bankState t b = bankState s.chip b ∧ Completed s.chip t r stOK) := by
  refine leaves_of_onUnit (f := fun c => xTabClearDone c b) rfl (decide_eq_true hb) ?_
  have hr' : (if b = 0 then s.chip.tab.clearA else if b = 1 then s.chip.tab.clearB else none) = some r := by
    rw [← hr]
    split
    · rfl
    · rw [if_pos (by omega)]
  have heq : xTabClearDone s.chip b = complete (bankCleared s.chip b) r stOK 0 := by
    unfold xTabClearDone
    rw [hr']
    rfl
  show _ ∧ _ ∧ _ ∧ _
  rw [heq, complete_tab, bankState_of_tab (complete_tab _ _ _ _)]
  refine ⟨fun a => ?_, ?_, ?_, completed_complete r stOK 0 rfl rfl rfl⟩
  · rw [byteAt, complete_mem]
    show Memory.read (Memory.clear s.chip.mem (tabGa b 0) (tabGa b 0x800000)) a = _
    rw [Memory.read_clear]
    split
    · next h =>
      simp only [tabGa] at h
      exact if_neg (by omega)
    · rfl
  · unfold bankCleared
    dsimp only
    split <;> rfl
  · unfold bankCleared bankState
    dsimp only
    split <;> rfl

/-- A verification ended, before its command is answered. -/
def verifyEnded (c : Chip) (b : Nat) : Chip :=
  { c with tab := if b = 0 then { c.tab with verA := none } else { c.tab with verB := none } }

theorem xTabVerifyDone_verdict {c : Chip} {b : Nat} {r : ReplyTo} (hb : b < 2) (hr : (if b = 0 then c.tab.verA else c.tab.verB) = some r) :
    xTabVerifyDone c b = match verifyImage c b with
      | .fault => complete (setBank (verifyEnded c b) b 1) r stFAULT 0
      | .passes => complete (setBank (verifyEnded c b) b 3) r stOK (wd (imLength (verifyEnded c b) b))
      | .fails code off =>
        complete { (setBank (verifyEnded c b) b 1) with tab := { (setBank (verifyEnded c b) b 1).tab with
          lasterr := wd (off % 0x1000000 + 0x1000000 * code) } } r stPARAM (wd (off % 0x1000000 + 0x1000000 * code)) := by
  have hr' : (if b = 0 then c.tab.verA else if b = 1 then c.tab.verB else none) = some r := by
    rw [← hr]
    split
    · rfl
    · rw [if_pos (by omega)]
  unfold xTabVerifyDone
  rw [hr', ← verifyImage_of_mem (c := c) (d := verifyEnded c b) rfl rfl b]
  rfl

theorem tabVerifyDone_ends {b : Nat} {r : ReplyTo} (hb : b < 2)
    (hr : (if b = 0 then s.chip.tab.verA else s.chip.tab.verB) = some r) :
    (verifyImage s.chip b = .fault → leaves (.tabVerifyDone b) s (fun t =>
      bankState t b = 1 ∧ Completed s.chip t r stFAULT ∧ KeepsWork s.chip t)) ∧
    (verifyImage s.chip b = .passes → leaves (.tabVerifyDone b) s (fun t =>
      bankState t b = 3 ∧ Completed s.chip t r stOK ∧ KeepsWork s.chip t)) ∧
    (∀ code off, verifyImage s.chip b = .fails code off → leaves (.tabVerifyDone b) s (fun t =>
      bankState t b = 1 ∧ t.tab.lasterr = wd (off % 0x1000000 + 0x1000000 * code) ∧ Completed s.chip t r stPARAM ∧
      KeepsWork s.chip t)) := by
  have hx := xTabVerifyDone_verdict hb hr
  have hwork : KeepsWork s.chip (verifyEnded s.chip b) := ⟨rfl, rfl, rfl⟩
  have hend (n st : Nat) (w : Word) : bankState (complete (setBank (verifyEnded s.chip b) b n) r st w) b = n ∧
      Completed s.chip (complete (setBank (verifyEnded s.chip b) b n) r st w) r st ∧
      KeepsWork s.chip (complete (setBank (verifyEnded s.chip b) b n) r st w) := by
    obtain ⟨hw, hregs, _, hacc, hq, _⟩ := setBank_rest (verifyEnded s.chip b) b n
    refine ⟨by rw [bankState_of_tab (complete_tab _ _ _ _), bankState_setBank],
      completed_complete r st w hacc hq (canWriteHost_of_regs hregs), keepsWork_trans hwork (keepsWork_trans hw ⟨?_, ?_, ?_⟩)⟩
    · exact complete_cores _ _ _ _
    · exact complete_courses _ _ _ _
    · exact complete_mem _ _ _ _
  have hleaves {P : Chip → Prop} (h : P (xTabVerifyDone s.chip b)) : leaves (.tabVerifyDone b) s P :=
    leaves_of_onUnit (f := fun c => xTabVerifyDone c b) rfl (decide_eq_true hb) h
  refine ⟨fun hv => hleaves ?_, fun hv => hleaves ?_, fun code off hv => hleaves ?_⟩
  · rw [hx, hv]
    exact hend 1 stFAULT 0
  · rw [hx, hv]
    exact hend 3 stOK _
  · obtain ⟨hw, hregs, _, hacc, hq, _⟩ := setBank_rest (verifyEnded s.chip b) b 1
    rw [hx, hv]
    dsimp only
    refine ⟨?_, by rw [complete_tab], completed_complete r stPARAM _ hacc hq (canWriteHost_of_regs hregs),
      keepsWork_trans hwork (keepsWork_trans hw ⟨?_, ?_, ?_⟩)⟩
    · rw [bankState_of_tab (complete_tab _ _ _ _)]
      exact bankState_setBank (verifyEnded s.chip b) b 1
    · rw [complete_cores]
    · rw [complete_courses]
    · rw [complete_mem]

end Sys2Proof.Machine
end

section
/-! PROOFS. The tablature engine (O42): frames, notes in hand, and the statement. -/

namespace Sys2Proof.Machine

open Sys2Proof Sys2Proof.Safety

variable {s : State}

/-- A frame that has begun with no further stave waiting. -/
def Begins (c : Chip) (b f : Nat) (t : Chip) : Prop :=
  t.tab.frame = some f ∧ t.tab.tIdx = 0 ∧ t.tab.tsBank = some b ∧ t.tab.tsQ = [] ∧ t.tab.dueT = c.tab.dueT ∧
  regVal t 0x60005044 = wd f ∧ regVal t 0x60005048 = wd (f / 2 ^ 32) ∧
  regVal t 0x60005108 = regVal c 0x60005108 + 1 ∧ KeepsWork c t ∧
  OnlyRegs [0x60005044, 0x60005048, 0x60005108, 0x6000510C, 0x60005038] c t

theorem frameStart_next {b f : Nat} (hr : tabRuns s.chip = true) (hq : s.chip.tab.tsQ = []) (hb : s.chip.tab.tsBank = some b)
    (hf : s.chip.tab.frame = some f) (hm : nextMoment s.chip = none) (hle : f + imTper s.chip b ≤ s.chip.tb) :
    leaves .frameStart s (Begins s.chip b (f + imTper s.chip b)) := by
  refine leaves_of_onChip (f := fun c => xFrameStart c) rfl ?_
  show Begins _ _ _ (xFrameStart s.chip)
  rw [xFrameStart_next hr hq hb hf hle]
  obtain ⟨hframe, hidx, hbank, hqueue, hdue, hlow, hhigh, hcount, hwork, hregs⟩ := frameBegun b (f + imTper s.chip b) hm
  exact ⟨hframe, hidx, hbank, hqueue.trans hq, hdue, hlow, hhigh, hcount, hwork, hregs⟩

theorem frameStart_first {b m : Nat} (hr : tabRuns s.chip = true) (hq : s.chip.tab.tsQ = [(b, m)]) (hb : s.chip.tab.tsBank = none)
    (hn : imTscnt s.chip b ≠ 0) (hle : firstBoundary s.chip b m ≤ s.chip.tb) :
    leaves .frameStart s (Begins s.chip b (firstBoundary s.chip b m)) := by
  refine leaves_of_onChip (f := fun c => xFrameStart c) rfl ?_
  show Begins _ _ _ (xFrameStart s.chip)
  rw [xFrameStart_first hr hq hb hn hle]
  obtain ⟨hframe, hidx, hbank, _, hdue, hlow, hhigh, hcount, hwork, hregs⟩ :=
    frameBegun b (firstBoundary s.chip b m) (nextMoment_noBank hb)
  generalize beginFrame s.chip b (firstBoundary s.chip b m) = e at hframe hidx hbank hdue hlow hhigh hcount hwork hregs
  exact ⟨hframe, hidx, hbank, rfl, hdue, hlow, hhigh, hcount,
    keepsWork_trans (d := e) hwork ⟨rfl, rfl, rfl⟩, keepsRegs_trans (d := e) hregs (keepsRegs_of_regs rfl)⟩

theorem timeNoteDue_falls {b m : Nat} (hr : tabRuns s.chip = true) (hn : nextMoment s.chip = some (b, m)) (hm : m ≤ s.chip.tb)
    (hf : inForce s.chip m = true) (hd : dropEn s.chip = false) : leaves .timeNoteDue s (fun t =>
      t = { s.chip with tab := { s.chip.tab with
        dueT := s.chip.tab.dueT ++ [⟨true, b, s.chip.tab.tIdx, 0, m, true⟩], tIdx := s.chip.tab.tIdx + 1 } }) := by
  refine leaves_of_onChip (f := fun c => xTimeNoteDue c) rfl ?_
  show xTimeNoteDue s.chip = _
  rw [xTimeNoteDue, hr, hn]
  simp only [Bool.not_true, Bool.false_eq_true, if_false]
  rw [if_pos ⟨hm, hf⟩, timeDue_kept _ _ _ hd]

theorem noteFetch_time (n : Nat) (hi : tabIssues s.chip = true) : leaves (.noteFetch true n) s (fun t =>
    t.tab.fetchT = Nat.min 512 (s.chip.tab.fetchT + n) ∧ t.tab.fetchP = s.chip.tab.fetchP ∧
    t.tab.fetchT2 = (if fetchesOther s.chip true then Nat.min 512 (s.chip.tab.fetchT2 + n) else s.chip.tab.fetchT2) ∧
    t.tab.lanes = s.chip.tab.lanes ∧ KeepsWork s.chip t ∧ OnlyRegs [] s.chip t) := by
  refine leaves_of_onChip (f := fun c => xNoteFetch c true n) rfl ?_
  refine ⟨?_, ?_, ?_, ?_, ⟨rfl, rfl, rfl⟩, keepsRegs_of_regs rfl⟩ <;>
    cases h : fetchesOther s.chip true <;> simp [xNoteFetch, hi, h, readAhead]

theorem noteFetch_position (n : Nat) (hi : tabIssues s.chip = true) : leaves (.noteFetch false n) s (fun t =>
    t.tab.fetchP = Nat.min 512 (s.chip.tab.fetchP + n) ∧ t.tab.fetchT = s.chip.tab.fetchT ∧
    t.tab.fetchP2 = (if fetchesOther s.chip false then Nat.min 512 (s.chip.tab.fetchP2 + n) else s.chip.tab.fetchP2) ∧
    t.tab.lanes = s.chip.tab.lanes ∧ KeepsWork s.chip t ∧ OnlyRegs [] s.chip t) := by
  refine leaves_of_onChip (f := fun c => xNoteFetch c false n) rfl ?_
  refine ⟨?_, ?_, ?_, ?_, ⟨rfl, rfl, rfl⟩, keepsRegs_of_regs rfl⟩ <;>
    cases h : fetchesOther s.chip false <;> simp [xNoteFetch, hi, h, readAhead]

/-- A note issued at the tail of its lane's queue (R354). -/
def NoteIssued (c : Chip) (d : Due) (w : Nat → Word) (t : Chip) : Prop :=
  (laneOf t (nLane (w 3))).q = (laneOf c (nLane (w 3))).q ++ [queuedNote c d (w 0) (w 1) (w 2) (w 3)] ∧
  (laneOf t (nLane (w 3))).fl = (laneOf c (nLane (w 3))).fl ∧ (∀ l, l ≠ nLane (w 3) → laneOf t l = laneOf c l) ∧
  t.tab.issueNo = c.tab.issueNo + 1 ∧ regVal t 0x6000504C = regVal c 0x6000504C + 1 ∧
  (d.time = true → t.tab.dueT = c.tab.dueT.drop 1 ∧ t.tab.dueP = c.tab.dueP) ∧
  (d.time = false → t.tab.dueT = c.tab.dueT) ∧ KeepsWork c t

theorem noteIssued_queued (c : Chip) (d : Due) (w : Nat → Word) (h : c.tb - d.stamp ≤ lateTh c) :
    NoteIssued c d w (camSwitches (noteQueued (noteTaken c d) d (w 0) (w 1) (w 2) (w 3))) := by
  have hs := noteIssued_state c d (w 0) (w 1) (w 2) (w 3)
  have hk := keepsWork_noteIssue c d (w 0) (w 1) (w 2) (w 3) h
  generalize camSwitches (noteQueued (noteTaken c d) d (w 0) (w 1) (w 2) (w 3)) = t at hs hk
  obtain ⟨hqueue, hfl, hrest, hno, hcount, htime, hpos⟩ := hs
  exact ⟨hqueue, hfl, hrest, hno, hcount, htime, hpos, hk⟩

section
variable {d : Due} {bad : Nat} (hi : tabIssues s.chip = true) (hs : stopReached s.chip = false) (hd : nextDue s.chip = some d)
  (hh : inHand s.chip d ≠ 0) (hb : 4 ≤ bad)
  (hp : ∀ i, i < 4 → tabGa d.bank (imF s.chip d.bank (if d.time then 0x28 else 0x20) 4 + 16 * d.idx) + 4 * i ∉ s.chip.poison)
include hi hs hd hh hb hp

theorem noteIssue_issues (hdrop : dropEn s.chip = false)
    (hq : (laneOf s.chip (nLane (noteWord s.chip d.bank d.time d.idx 3))).q.length < 32)
    (hl : s.chip.tb - d.stamp ≤ lateTh s.chip) :
    leaves (.noteIssue bad) s (NoteIssued s.chip d (noteWord s.chip d.bank d.time d.idx)) := by
  refine leaves_of_onChip (f := fun c => xNoteIssue c bad) rfl ?_
  show NoteIssued _ _ _ (xNoteIssue s.chip bad)
  rw [xNoteIssue_issues hi hs hd hh hb hp hdrop hq hl]
  exact noteIssued_queued _ _ _ hl

theorem noteIssue_drops (ht : d.time = false) (ho : overspeed s.chip = true) (hdrop : dropEn s.chip = true)
    (hn : nDrop (noteWord s.chip d.bank d.time d.idx 0) = true) (hl : lateTh s.chip < s.chip.tb - d.stamp) :
    leaves (.noteIssue bad) s (fun t => t.tab.lanes = s.chip.tab.lanes ∧ t.tab.issueNo = s.chip.tab.issueNo ∧
      regVal t 0x60005078 = recIdx d.idx false (nLane (noteWord s.chip d.bank d.time d.idx 3)) 0 ∧ KeepsWork s.chip t ∧
      OnlyRegs [0x60005058, 0x60005078, 0x60005038] s.chip t) := by
  refine leaves_of_onChip (f := fun c => xNoteIssue c bad) rfl ?_
  show _ ∧ _ ∧ _ ∧ _ ∧ _
  rw [xNoteIssue_drops hi hs hd hh hb hp ht ho hdrop hn hl]
  exact noteDropped_state s.chip ht

end

/-- Settles O42: each event of the tablature engine by its lemma; a note issued, dropped or staged leaves the registers outside
the counters of its own. -/
theorem tablatureEvents : Obligations.TablatureEvents := by
  intro s
  refine ⟨⟨?_, ?_⟩, ?_, ?_, ?_, ?_, ?_, ?_, ?_⟩
  · exact fun b f hr hq hb hf hm hle => frameStart_next hr hq hb hf hm hle
  · exact fun b m hr hq hb hn hle => frameStart_first hr hq hb hn hle
  · exact fun b m hr hn hm hf hd => timeNoteDue_falls hr hn hm hf hd
  · exact fun n hi => ⟨noteFetch_time n hi, noteFetch_position n hi⟩
  · exact fun d bad hi hs hd hh hb hp => ⟨fun hdrop hq hl => noteIssue_issues hi hs hd hh hb hp hdrop hq hl,
      fun ht ho hdrop hn hl => noteIssue_drops hi hs hd hh hb hp ht ho hdrop hn hl⟩
  · exact fun hper hw => speedWindow_judges hper hw
  · exact fun a ha hs hsw => ⟨stagingEnd_armed ha hs hsw, stagingEnd_late ha hs hsw⟩
  · exact fun b r hb hr => tabClearDone_clears hb hr
  · exact fun b r hb hr => tabVerifyDone_ends hb hr

end Sys2Proof.Machine
end

section
/-! PROOFS. Cores and courses are untouched by the walk of a tablature, by drones and by their rate generators. -/

namespace Sys2Proof.Machine

open Sys2Proof Sys2Proof.Safety

@[simp] theorem noteCorrected_ports (c : Chip) (ga : Nat) : (noteCorrected c ga).ports = c.ports := by
  simp -implicitDefEqProofs [noteCorrected]

@[simp] theorem noteCorrected_drones (c : Chip) (ga : Nat) : (noteCorrected c ga).drones = c.drones := by
  simp -implicitDefEqProofs [noteCorrected]

@[simp] theorem noteUncorrectable_ports (c : Chip) (ga src core : Nat) : (noteUncorrectable c ga src core).ports = c.ports := by
  simp [noteUncorrectable]

@[simp] theorem noteUncorrectable_drones (c : Chip) (ga src core : Nat) : (noteUncorrectable c ga src core).drones = c.drones := by
  simp [noteUncorrectable]

@[simp] theorem readWord_ports (c : Chip) (ga src core : Nat) : (readWord c ga src core).1.ports = c.ports := by
  simp [readWord]

@[simp] theorem readWord_drones (c : Chip) (ga src core : Nat) : (readWord c ga src core).1.drones = c.drones := by
  simp [readWord]

@[simp] theorem chPopRaw_ports (c : Chip) (s : Nat) : (chPopRaw c s).1.ports = c.ports := by
  unfold chPopRaw
  dsimp only
  (repeat' split) <;> simp

@[simp] theorem chPopRaw_drones (c : Chip) (s : Nat) : (chPopRaw c s).1.drones = c.drones := by
  unfold chPopRaw
  dsimp only
  (repeat' split) <;> simp

@[simp] theorem chTake_ports (c : Chip) (s : Nat) : (chTake c s).1.ports = c.ports := by
  simp [chTake]

@[simp] theorem chTake_drones (c : Chip) (s : Nat) : (chTake c s).1.drones = c.drones := by
  simp [chTake]

@[simp] theorem chTakeN_ports (c : Chip) (s n : Nat) : (chTakeN c s n).1.ports = c.ports := by
  induction n generalizing c with
  | zero => rfl
  | succ n ih => exact (ih _).trans (chTake_ports c s)

@[simp] theorem chTakeN_drones (c : Chip) (s n : Nat) : (chTakeN c s n).1.drones = c.drones := by
  induction n generalizing c with
  | zero => rfl
  | succ n ih => exact (ih _).trans (chTake_drones c s)

@[simp] theorem updStream_ports (c : Chip) (p k : Nat) (f : Stream → Stream) : (updStream c p k f).ports = c.ports := by
  simp [updStream]

@[simp] theorem updStream_drones (c : Chip) (p k : Nat) (f : Stream → Stream) : (updStream c p k f).drones = c.drones := by
  simp [updStream]

@[simp] theorem noteDone_ports (c : Chip) (lane job : Nat) : (noteDone c lane job).ports = c.ports := by
  simp [noteDone]

@[simp] theorem noteDone_drones (c : Chip) (lane job : Nat) : (noteDone c lane job).drones = c.drones := by
  simp [noteDone]

@[simp] theorem popWords_ports (c : Chip) (s n : Nat) : (popWords c s n).1.ports = c.ports := by
  induction n generalizing c with
  | zero => rfl
  | succ n ih => exact (ih _).trans (chPopRaw_ports c s)

@[simp] theorem popWords_drones (c : Chip) (s n : Nat) : (popWords c s n).1.drones = c.drones := by
  induction n generalizing c with
  | zero => rfl
  | succ n ih => exact (ih _).trans (chPopRaw_drones c s)

@[simp] theorem takeGap_ports (c : Chip) (s : Nat) : (takeGap c s).1.ports = c.ports := by
  simp [takeGap]

@[simp] theorem takeGap_drones (c : Chip) (s : Nat) : (takeGap c s).1.drones = c.drones := by
  simp [takeGap]

@[simp] theorem releaseFrame_ports (c : Chip) (p k s : Nat) : (releaseFrame c p k s).ports = c.ports := by
  unfold releaseFrame
  split <;> simp

@[simp] theorem releaseFrame_drones (c : Chip) (p k s : Nat) : (releaseFrame c p k s).drones = c.drones := by
  unfold releaseFrame
  split <;> simp

@[simp] theorem takeBank_ports (c : Chip) (p k s : Nat) : (takeBank c p k s).ports = c.ports := by
  unfold takeBank
  split <;> simp

@[simp] theorem takeBank_drones (c : Chip) (p k s : Nat) : (takeBank c p k s).drones = c.drones := by
  unfold takeBank
  split <;> simp

@[simp] theorem takeBanks_ports (c : Chip) (p k s n : Nat) : (takeBanks c p k s n).ports = c.ports := by
  induction n generalizing c with
  | zero => rfl
  | succ n ih =>
    rw [takeBanks]
    split
    · rfl
    · split
      · rfl
      · exact (ih _).trans (takeBank_ports c p k s)

@[simp] theorem takeBanks_drones (c : Chip) (p k s n : Nat) : (takeBanks c p k s n).drones = c.drones := by
  induction n generalizing c with
  | zero => rfl
  | succ n ih =>
    rw [takeBanks]
    split
    · rfl
    · split
      · rfl
      · exact (ih _).trans (takeBank_drones c p k s)

@[simp] theorem closeBank_ports (c : Chip) (p s : Nat) (slot : Option Nat) (lane job : Nat) :
    (closeBank c p s slot lane job).1.ports = c.ports := by
  unfold closeBank
  split <;> simp

@[simp] theorem closeBank_drones (c : Chip) (p s : Nat) (slot : Option Nat) (lane job : Nat) :
    (closeBank c p s slot lane job).1.drones = c.drones := by
  unfold closeBank
  split <;> simp

@[simp] theorem setDev_ports (c : Chip) (new : DevState) (cause : Nat) : (setDev c new cause).ports = c.ports := by
  unfold setDev
  dsimp only
  (repeat' split) <;> simp

@[simp] theorem setDev_drones (c : Chip) (new : DevState) (cause : Nat) : (setDev c new cause).drones = c.drones := by
  unfold setDev
  dsimp only
  (repeat' split) <;> simp

@[simp] theorem setBank_ports (c : Chip) (b n : Nat) : (setBank c b n).ports = c.ports := by
  simp [setBank]

@[simp] theorem setBank_drones (c : Chip) (b n : Nat) : (setBank c b n).drones = c.drones := by
  simp [setBank]

@[simp] theorem dropShadows_ports (c : Chip) (mask : Nat) : (dropShadows c mask).ports = c.ports := by
  unfold dropShadows
  apply foldl_ports
  intro d a
  rfl

@[simp] theorem dropShadows_drones (c : Chip) (mask : Nat) : (dropShadows c mask).drones = c.drones := by
  unfold dropShadows
  apply foldl_drones
  intro d a
  rfl

@[simp] theorem endArm_ports (c : Chip) (detail : Nat) : (endArm c detail).ports = c.ports := by
  unfold endArm
  split <;> simp

@[simp] theorem endArm_drones (c : Chip) (detail : Nat) : (endArm c detail).drones = c.drones := by
  unfold endArm
  split <;> simp

@[simp] theorem drainStart_ports (c : Chip) (d : Detach) : (drainStart c d).ports = c.ports := by
  simp [drainStart]

@[simp] theorem drainStart_drones (c : Chip) (d : Detach) : (drainStart c d).drones = c.drones := by
  simp [drainStart]

@[simp] theorem tabStop_ports (c : Chip) : (tabStop c).ports = c.ports := by
  unfold tabStop
  dsimp only
  (repeat' split) <;> simp

@[simp] theorem tabStop_drones (c : Chip) : (tabStop c).drones = c.drones := by
  unfold tabStop
  dsimp only
  (repeat' split) <;> simp

@[simp] theorem enterHalted_cores (c : Chip) (cause : Nat) : (enterHalted c cause).cores = c.cores := by
  simp [enterHalted]

@[simp] theorem enterHalted_courses (c : Chip) (cause : Nat) : (enterHalted c cause).courses = c.courses := by
  simp [enterHalted]

@[simp] theorem enterHalted_ports (c : Chip) (cause : Nat) : (enterHalted c cause).ports = c.ports := by
  simp [enterHalted]

@[simp] theorem enterHalted_drones (c : Chip) (cause : Nat) : (enterHalted c cause).drones = c.drones := by
  simp [enterHalted]

@[simp] theorem camPush_ports (c : Chip) (e : Nat) (o : CamOp) : (camPush c e o).ports = c.ports := by
  simp [camPush]

@[simp] theorem camPush_drones (c : Chip) (e : Nat) (o : CamOp) : (camPush c e o).drones = c.drones := by
  simp [camPush]

@[simp] theorem camPush_dev (c : Chip) (e : Nat) (o : CamOp) : (camPush c e o).dev = c.dev := by
  simp [camPush]

@[simp] theorem camPush_accepted (c : Chip) (e : Nat) (o : CamOp) : (camPush c e o).accepted = c.accepted := by
  simp [camPush]

@[simp] theorem camFailure_ports (c : Chip) (e code sel : Nat) : (camFailure c e code sel).ports = c.ports := by
  unfold camFailure
  rw [regSetFld_ports, regSetFld_ports, regOr_ports, regCount_ports]

@[simp] theorem tabEv_ports (c : Chip) (n : Nat) : (tabEv c n).ports = c.ports := by
  simp [tabEv]

@[simp] theorem tabEv_drones (c : Chip) (n : Nat) : (tabEv c n).drones = c.drones := by
  simp [tabEv]

@[simp] theorem setH_cores (c : Chip) (w : Word) : (setH c w).cores = c.cores := by
  simp [setH]

@[simp] theorem setH_courses (c : Chip) (w : Word) : (setH c w).courses = c.courses := by
  simp [setH]

@[simp] theorem setH_ports (c : Chip) (w : Word) : (setH c w).ports = c.ports := by
  simp [setH]

@[simp] theorem setH_sys (c : Chip) (w : Word) : (setH c w).sys = c.sys := by
  simp [setH]

@[simp] theorem setH_drones (c : Chip) (w : Word) : (setH c w).drones = c.drones := by
  simp [setH]

@[simp] theorem addSteps_cores (c : Chip) (n : Nat) : (addSteps c n).cores = c.cores := by
  simp [addSteps]

@[simp] theorem addSteps_courses (c : Chip) (n : Nat) : (addSteps c n).courses = c.courses := by
  simp [addSteps]

@[simp] theorem addSteps_ports (c : Chip) (n : Nat) : (addSteps c n).ports = c.ports := by
  simp [addSteps]

@[simp] theorem addSteps_drones (c : Chip) (n : Nat) : (addSteps c n).drones = c.drones := by
  simp [addSteps]

@[simp] theorem stopIfLast_ports (c : Chip) : (stopIfLast c).ports = c.ports := by
  simp [stopIfLast]

@[simp] theorem stopIfLast_drones (c : Chip) : (stopIfLast c).drones = c.drones := by
  simp [stopIfLast]

@[simp] theorem dueAt_cores (c : Chip) (b : Nat) (p : Word) (stamp : Nat) : (dueAt c b p stamp).cores = c.cores := by
  simp [dueAt]

@[simp] theorem dueAt_courses (c : Chip) (b : Nat) (p : Word) (stamp : Nat) : (dueAt c b p stamp).courses = c.courses := by
  simp [dueAt]

@[simp] theorem dueAt_ports (c : Chip) (b : Nat) (p : Word) (stamp : Nat) : (dueAt c b p stamp).ports = c.ports := by
  simp [dueAt]

@[simp] theorem dueAt_sys (c : Chip) (b : Nat) (p : Word) (stamp : Nat) : (dueAt c b p stamp).sys = c.sys := by
  simp [dueAt]

@[simp] theorem dueAt_drones (c : Chip) (b : Nat) (p : Word) (stamp : Nat) : (dueAt c b p stamp).drones = c.drones := by
  simp [dueAt]

@[simp] theorem camSwitchPush_ports (c : Chip) (e : Nat) : (camSwitchPush c e).ports = c.ports := by
  unfold camSwitchPush
  split <;> simp

@[simp] theorem camSwitchPush_sys (c : Chip) (e : Nat) : (camSwitchPush c e).sys = c.sys := by
  unfold camSwitchPush
  split <;> simp

@[simp] theorem camSwitchPush_drones (c : Chip) (e : Nat) : (camSwitchPush c e).drones = c.drones := by
  unfold camSwitchPush
  split <;> simp

@[simp] theorem camSwitchPush_dev (c : Chip) (e : Nat) : (camSwitchPush c e).dev = c.dev := by
  unfold camSwitchPush
  split <;> simp

@[simp] theorem camSwitchPush_accepted (c : Chip) (e : Nat) : (camSwitchPush c e).accepted = c.accepted := by
  unfold camSwitchPush
  split <;> simp

@[simp] theorem camSwitches_ports (c : Chip) : (camSwitches c).ports = c.ports := by
  simp [camSwitches]

@[simp] theorem camSwitches_sys (c : Chip) : (camSwitches c).sys = c.sys := by
  simp [camSwitches]

@[simp] theorem camSwitches_drones (c : Chip) : (camSwitches c).drones = c.drones := by
  simp [camSwitches]

@[simp] theorem camSwitches_dev (c : Chip) : (camSwitches c).dev = c.dev := by
  simp [camSwitches]

@[simp] theorem camSwitches_accepted (c : Chip) : (camSwitches c).accepted = c.accepted := by
  simp [camSwitches]

@[simp] theorem changeover_cores (c : Chip) (a : Arm) (stamp : Nat) : (changeover c a stamp).cores = c.cores := by
  unfold changeover
  extract_lets old mask c1 c2 c3 c4 c5 n c6 t c7 c8
  have h4 : c4.cores = c3.cores := by
    simp only [c4]
    clear_value old
    cases old <;> simp
  have h5 : c6.cores = c5.cores := by
    apply foldl_cores
    intro d e
    rfl
  simp [c8, c7, h5, c5, h4, c3, c2, c1]

@[simp] theorem changeover_courses (c : Chip) (a : Arm) (stamp : Nat) : (changeover c a stamp).courses = c.courses := by
  unfold changeover
  extract_lets old mask c1 c2 c3 c4 c5 n c6 t c7 c8
  have h4 : c4.courses = c3.courses := by
    simp only [c4]
    clear_value old
    cases old <;> simp
  have h5 : c6.courses = c5.courses := by
    apply foldl_courses
    intro d e
    rfl
  simp [c8, c7, h5, c5, h4, c3, c2, c1]

@[simp] theorem changeover_ports (c : Chip) (a : Arm) (stamp : Nat) : (changeover c a stamp).ports = c.ports := by
  unfold changeover
  extract_lets old mask c1 c2 c3 c4 c5 n c6 t c7 c8
  have h4 : c4.ports = c3.ports := by
    simp only [c4]
    clear_value old
    cases old <;> simp
  have h5 : c6.ports = c5.ports := by
    apply foldl_ports
    intro d e
    rfl
  simp [c8, c7, h5, c5, h4, c3, c2, c1]

@[simp] theorem changeover_sys (c : Chip) (a : Arm) (stamp : Nat) : (changeover c a stamp).sys = c.sys := by
  unfold changeover
  extract_lets old mask c1 c2 c3 c4 c5 n c6 t c7 c8
  have h4 : c4.sys = c3.sys := by
    simp only [c4]
    clear_value old
    cases old <;> simp
  have h5 : c6.sys = c5.sys := by
    apply foldl_sys
    intro d e
    rfl
  simp [c8, c7, h5, c5, h4, c3, c2, c1]

@[simp] theorem changeover_drones (c : Chip) (a : Arm) (stamp : Nat) : (changeover c a stamp).drones = c.drones := by
  unfold changeover
  extract_lets old mask c1 c2 c3 c4 c5 n c6 t c7 c8
  have h4 : c4.drones = c3.drones := by
    simp only [c4]
    clear_value old
    cases old <;> simp
  have h5 : c6.drones = c5.drones := by
    apply foldl_drones
    intro d e
    rfl
  simp [c8, c7, h5, c5, h4, c3, c2, c1]

@[simp] theorem walkPos_cores (c : Chip) (stamp : Nat) : (walkPos c stamp).cores = c.cores := by
  unfold walkPos
  dsimp only
  (repeat' split) <;> simp

@[simp] theorem walkPos_courses (c : Chip) (stamp : Nat) : (walkPos c stamp).courses = c.courses := by
  unfold walkPos
  dsimp only
  (repeat' split) <;> simp

@[simp] theorem walkPos_ports (c : Chip) (stamp : Nat) : (walkPos c stamp).ports = c.ports := by
  unfold walkPos
  dsimp only
  (repeat' split) <;> simp

@[simp] theorem walkPos_drones (c : Chip) (stamp : Nat) : (walkPos c stamp).drones = c.drones := by
  unfold walkPos
  dsimp only
  (repeat' split) <;> simp

@[simp] theorem walk_cores (c : Chip) (stamp n : Nat) : (walk c stamp n).cores = c.cores := by
  induction n generalizing c with
  | zero => rfl
  | succ n ih => rw [walk, ih, walkPos_cores]

@[simp] theorem walk_courses (c : Chip) (stamp n : Nat) : (walk c stamp n).courses = c.courses := by
  induction n generalizing c with
  | zero => rfl
  | succ n ih => rw [walk, ih, walkPos_courses]

@[simp] theorem walk_ports (c : Chip) (stamp n : Nat) : (walk c stamp n).ports = c.ports := by
  induction n generalizing c with
  | zero => rfl
  | succ n ih => rw [walk, ih, walkPos_ports]

@[simp] theorem walk_drones (c : Chip) (stamp n : Nat) : (walk c stamp n).drones = c.drones := by
  induction n generalizing c with
  | zero => rfl
  | succ n ih => rw [walk, ih, walkPos_drones]

@[simp] theorem reverse_cores (c : Chip) (back : Bool) (diff : Int) : (reverse c back diff).cores = c.cores := by
  simp [reverse]

@[simp] theorem reverse_courses (c : Chip) (back : Bool) (diff : Int) : (reverse c back diff).courses = c.courses := by
  simp [reverse]

@[simp] theorem reverse_ports (c : Chip) (back : Bool) (diff : Int) : (reverse c back diff).ports = c.ports := by
  simp [reverse]

@[simp] theorem reverse_drones (c : Chip) (back : Bool) (diff : Int) : (reverse c back diff).drones = c.drones := by
  simp [reverse]

@[simp] theorem advance_cores (c : Chip) (n : Nat) : (advance c n).cores = c.cores := by
  simp [advance]

@[simp] theorem advance_courses (c : Chip) (n : Nat) : (advance c n).courses = c.courses := by
  simp [advance]

@[simp] theorem advance_ports (c : Chip) (n : Nat) : (advance c n).ports = c.ports := by
  simp [advance]

@[simp] theorem advance_drones (c : Chip) (n : Nat) : (advance c n).drones = c.drones := by
  simp [advance]

@[simp] theorem jump_cores (c : Chip) (pos : Word) (n : Nat) : (jump c pos n).cores = c.cores := by
  simp [jump]

@[simp] theorem jump_courses (c : Chip) (pos : Word) (n : Nat) : (jump c pos n).courses = c.courses := by
  simp [jump]

@[simp] theorem jump_ports (c : Chip) (pos : Word) (n : Nat) : (jump c pos n).ports = c.ports := by
  simp [jump]

@[simp] theorem jump_drones (c : Chip) (pos : Word) (n : Nat) : (jump c pos n).drones = c.drones := by
  simp [jump]

@[simp] theorem tabWritten_cores (c : Chip) (d : Nat) (old : Word) : (tabWritten c d old).cores = c.cores := by
  unfold tabWritten
  split <;> simp

@[simp] theorem tabWritten_courses (c : Chip) (d : Nat) (old : Word) : (tabWritten c d old).courses = c.courses := by
  unfold tabWritten
  split <;> simp

@[simp] theorem tabWritten_ports (c : Chip) (d : Nat) (old : Word) : (tabWritten c d old).ports = c.ports := by
  unfold tabWritten
  split <;> simp

@[simp] theorem tabWritten_drones (c : Chip) (d : Nat) (old : Word) : (tabWritten c d old).drones = c.drones := by
  unfold tabWritten
  split <;> simp

@[simp] theorem fpEv_cores (c : Chip) (p m : Nat) : (fpEv c p m).cores = c.cores := by
  simp [fpEv]

@[simp] theorem fpEv_courses (c : Chip) (p m : Nat) : (fpEv c p m).courses = c.courses := by
  simp [fpEv]

@[simp] theorem fpEv_ports (c : Chip) (p m : Nat) : (fpEv c p m).ports = c.ports := by
  simp [fpEv]

@[simp] theorem fpEv_drones (c : Chip) (p m : Nat) : (fpEv c p m).drones = c.drones := by
  simp [fpEv]

@[simp] theorem fpLine_ports (c : Chip) (p : Nat) : (fpLine c p).ports = c.ports := by
  simp [fpLine]

@[simp] theorem fpLine_drones (c : Chip) (p : Nat) : (fpLine c p).drones = c.drones := by
  simp [fpLine]

@[simp] theorem droneDown_cores (c : Chip) (d : Nat) : (droneDown c d).cores = c.cores := by
  simp [droneDown]

@[simp] theorem droneDown_courses (c : Chip) (d : Nat) : (droneDown c d).courses = c.courses := by
  simp [droneDown]

@[simp] theorem encCount_cores (c : Chip) (p : Nat) (up : Bool) : (encCount c p up).cores = c.cores := by
  simp [encCount]

@[simp] theorem encCount_courses (c : Chip) (p : Nat) (up : Bool) : (encCount c p up).courses = c.courses := by
  simp [encCount]

@[simp] theorem encCount_drones (c : Chip) (p : Nat) (up : Bool) : (encCount c p up).drones = c.drones := by
  simp [encCount]

@[simp] theorem setDrone_cores (c : Chip) (d : Nat) (w : Word) : (setDrone c d w).cores = c.cores := by
  simp [setDrone]

@[simp] theorem setDrone_courses (c : Chip) (d : Nat) (w : Word) : (setDrone c d w).courses = c.courses := by
  simp [setDrone]

@[simp] theorem setDrone_ports (c : Chip) (d : Nat) (w : Word) : (setDrone c d w).ports = c.ports := by
  simp [setDrone]

@[simp] theorem setDrone_drones (c : Chip) (d : Nat) (w : Word) : (setDrone c d w).drones = c.drones := by
  simp [setDrone]

@[simp] theorem oweSteps_cores (c : Chip) (d : Nat) (n : Int) : (oweSteps c d n).cores = c.cores := by
  simp [oweSteps]

@[simp] theorem oweSteps_courses (c : Chip) (d : Nat) (n : Int) : (oweSteps c d n).courses = c.courses := by
  simp [oweSteps]

@[simp] theorem oweSteps_ports (c : Chip) (d : Nat) (n : Int) : (oweSteps c d n).ports = c.ports := by
  simp [oweSteps]

@[simp] theorem feedDrone_cores (c : Chip) (d : Nat) (count : Int) : (feedDrone c d count).cores = c.cores := by
  simp [feedDrone]

@[simp] theorem feedDrone_courses (c : Chip) (d : Nat) (count : Int) : (feedDrone c d count).courses = c.courses := by
  simp [feedDrone]

@[simp] theorem drnCfgErr_cores (c : Chip) (d : Nat) : (drnCfgErr c d).cores = c.cores := by
  simp [drnCfgErr]

@[simp] theorem drnCfgErr_courses (c : Chip) (d : Nat) : (drnCfgErr c d).courses = c.courses := by
  simp [drnCfgErr]

@[simp] theorem advanceRate_cores (c : Chip) (d : Nat) : (advanceRate c d).cores = c.cores := by
  simp [advanceRate]

@[simp] theorem advanceRate_courses (c : Chip) (d : Nat) : (advanceRate c d).courses = c.courses := by
  simp [advanceRate]

@[simp] theorem advanceRate_ports (c : Chip) (d : Nat) : (advanceRate c d).ports = c.ports := by
  simp [advanceRate]

@[simp] theorem spdAtOnce_cores (c : Chip) (d : Nat) : (spdAtOnce c d).cores = c.cores := by
  simp [spdAtOnce]

@[simp] theorem spdAtOnce_courses (c : Chip) (d : Nat) : (spdAtOnce c d).courses = c.courses := by
  simp [spdAtOnce]

@[simp] theorem rateWrite_cores (c : Chip) (d o : Nat) (w : Word) : (rateWrite c d o w).cores = c.cores := by
  simp [rateWrite]

@[simp] theorem rateWrite_courses (c : Chip) (d o : Nat) (w : Word) : (rateWrite c d o w).courses = c.courses := by
  simp [rateWrite]

@[simp] theorem drnCtl_cores (c : Chip) (d : Nat) (w : Word) : (drnCtl c d w).cores = c.cores := by
  simp [drnCtl]

@[simp] theorem drnCtl_courses (c : Chip) (d : Nat) (w : Word) : (drnCtl c d w).courses = c.courses := by
  simp [drnCtl]

end Sys2Proof.Machine
end

section
/-! PROOFS. Drones (O45): steps and the tablature that follows them. -/

namespace Sys2Proof.Machine

open Sys2Proof Sys2Proof.Safety

variable {c : Chip} {s : State} {d : Nat}

/-! ### Addresses -/

theorem drnReg_apart {d o o' : Nat} (h : o ≠ o') : drnReg d o ≠ drnReg d o' := by
  unfold drnReg
  omega

theorem drnReg_above (d o : Nat) {a : Nat} (h : a < 0x60006000) : a ≠ drnReg d o := by
  unfold drnReg
  omega

/-! ### A step of a drone (R448) -/

/-- A drone that has taken one of the steps it owes, before the tablature sees it. -/
def stepped (c : Chip) (d : Nat) : Chip :=
  let i : Int := if decide (0 < (droneOf c d).backlog) = true then 1 else -1
  regPut (updDrone c d (fun r => { r with backlog := r.backlog - i })) (drnReg d 0x04) (dronePos c d + wi i)

theorem xDroneStep_steps (hd : d < 16) (hper : c.sys.per = true) (hb : (droneOf c d).backlog ≠ 0) (hm : droneMoves c d = true) :
    xDroneStep c d = tabStep (stepped c d) d (decide (0 < (droneOf c d).backlog)) :=
  if_pos ⟨hd, hper, hb, hm⟩

theorem xDroneStep_stays (hm : droneMoves c d = false) : xDroneStep c d = c := if_neg fun h => by simp [hm] at h

theorem dronePos_stepped : dronePos (stepped c d) d = dronePos c d + (if 0 < (droneOf c d).backlog then 1 else -1) := by
  rw [dronePos, stepped, regVal_regPut_same]
  by_cases h : 0 < (droneOf c d).backlog
  · rw [if_pos (decide_eq_true h), if_pos h]
    rfl
  · rw [if_neg (by simpa using h), if_neg h]
    rfl

theorem droneOf_stepped : droneOf (stepped c d) d = { droneOf c d with
    backlog := if 0 < (droneOf c d).backlog then (droneOf c d).backlog - 1 else (droneOf c d).backlog + 1 } := by
  rw [stepped, droneOf_regPut, droneOf_updDrone_same]
  by_cases h : 0 < (droneOf c d).backlog
  · rw [if_pos (decide_eq_true h), if_pos h]
  · rw [if_neg (by simpa using h), if_neg h, Int.sub_neg]

theorem stepped_regs : KeepsRegs (· ∈ [drnReg d 4]) c (stepped c d) :=
  keepsRegs_trans (d := updDrone c d _) (keepsRegs_of_regs rfl) (keepsRegs_regPut _ _ (by simp))

theorem keepsWork_stepped (c : Chip) (d : Nat) : KeepsWork c (stepped c d) := ⟨rfl, rfl, rfl⟩

theorem firstStart_none {e : Chip} (h : e.tab.arm = none) : firstStart e d = none := by
  rw [firstStart, armReady, h]

theorem tabStep_apart {e : Chip} (ha : e.tab.active = none) (hm : e.tab.arm = none) (fwd : Bool) : tabStep e d fwd = e := by
  have hcount : counted e d = false := by simp [counted, ha, hm]
  have hruns : tabRuns e = false := by simp [tabRuns, ha]
  unfold tabStep
  dsimp only
  rw [if_neg (by simp [hcount]), firstStart_none hm]
  exact if_neg (by simp [hruns])

theorem droneStep_apart (hd : d < 16) (hper : s.chip.sys.per = true) (hb : (droneOf s.chip d).backlog ≠ 0)
    (hm : droneMoves s.chip d = true) (ha : s.chip.tab.active = none) (harm : s.chip.tab.arm = none) :
    leaves (.droneStep d) s (fun t =>
      dronePos t d = dronePos s.chip d + (if 0 < (droneOf s.chip d).backlog then 1 else -1) ∧
      droneOf t d = { droneOf s.chip d with
        backlog := if 0 < (droneOf s.chip d).backlog then (droneOf s.chip d).backlog - 1 else (droneOf s.chip d).backlog + 1 } ∧
      t.tab = s.chip.tab ∧ KeepsWork s.chip t ∧ OnlyRegs [drnReg d 4] s.chip t) := by
  refine leaves_of_onUnit (f := fun c => xDroneStep c d) rfl (decide_eq_true hd) ?_
  show _ ∧ _ ∧ _ ∧ _ ∧ _
  rw [xDroneStep_steps hd hper hb hm, tabStep_apart (e := stepped s.chip d) ha harm]
  exact ⟨dronePos_stepped, droneOf_stepped, rfl, keepsWork_stepped _ _, stepped_regs⟩

/-! ### A position the tablature walks (R364) -/

/-- The engine about to walk one position behind H. -/
def walking (c : Chip) : Chip :=
  { (regClr (setH (addSteps c 1) (servedH c)) 0x60005004 0x10) with
    tab := { (regClr (setH (addSteps c 1) (servedH c)) 0x60005004 0x10).tab with lastFwd := true } }

theorem servedH_walking (c : Chip) : servedH (walking c) = servedH c := by
  show regVal (regClr (setH (addSteps c 1) (servedH c)) 0x60005004 0x10) 0x60005010 = _
  rw [regClr, regVal_regUpd_other _ _ (by decide)]
  exact regVal_regPut_same _ _ _

theorem walking_regs (c : Chip) : KeepsRegs (fun a => a = 0x60005004 ∨ a = 0x60005010) c (walking c) :=
  keepsRegs_trans (d := setH (addSteps c 1) (servedH c)) (keepsRegs_trans (d := addSteps c 1) (keepsRegs_of_regs rfl)
    (keepsRegs_regPut _ _ (.inr rfl))) (keepsRegs_trans (d := regClr (setH (addSteps c 1) (servedH c)) 0x60005004 0x10)
      (keepsRegs_regUpd _ _ (.inl rfl)) (keepsRegs_of_regs rfl))

theorem keepsWork_walking (c : Chip) : KeepsWork c (walking c) := ⟨rfl, rfl, rfl⟩

theorem sgn_next (h : Word) : sgn (h + 1 - h) = 1 := by
  rw [show h + 1 - h = 1 by bv_omega]
  rfl

/-- A drone at the position behind H has the engine walk to it. -/
theorem tabStep_walks (hruns : tabRuns c = true) (hf : followed c = some d) (hfirst : firstStart c d = none)
    (hwalk : walkFrom c (dronePos c d) = servedH c) (hpos : dronePos c d = servedH c + 1) :
    tabStep c d true = walkPos (walking c) c.tb := by
  have hcount : counted c d = true := by
    unfold followed at hf
    unfold counted
    cases ha : c.tab.active with
    | none => simp [ha] at hf
    | some b => simpa [ha] using hf
  have hruns' : tabRuns (addSteps c 1) = true := hruns
  have hf' : followed (addSteps c 1) = some d := hf
  have hfirst' : firstStart (addSteps c 1) d = none := hfirst
  have hwalk' : walkFrom (addSteps c 1) (dronePos c d) = servedH c := hwalk
  have hdiff : sgn (dronePos c d - servedH c) = 1 := by rw [hpos, sgn_next]
  unfold tabStep
  dsimp only
  rw [if_pos ⟨rfl, hcount⟩, hfirst']
  dsimp only
  rw [if_pos ⟨hruns', hf'⟩, hwalk', hdiff, if_pos (by decide)]
  rfl

theorem stopReached_none (hd : c.sys.detach = none) : stopReached c = false := by rw [stopReached, hd]

theorem stopPos_none (hd : c.sys.detach = none) : stopPos c = none := by rw [stopPos, hd]

/-- A passed position, once an armed changeover there has taken place. -/
def walkOn (e : Chip) (p : Word) (stamp : Nat) : Chip :=
  match e.tab.active with
  | some b =>
    if stopReached e then e
    else if stopPos e = some p then
      stopIfLast { e with sys := { e.sys with detach := e.sys.detach.map (fun d => { d with reached := true }) } }
    else if e.dev = .detaching ∧ (stopPos e).isNone then e
    else setH (dueAt e b p stamp) p
  | none => e

theorem walkPos_eq (c : Chip) (stamp : Nat) : walkPos c stamp = walkOn (match armReady c with
    | some a => if a.p = servedH c + 1 then changeover c a stamp else c
    | none => c) (servedH c + 1) stamp := rfl

/-- Without a stop position the notes at the position fall due and H moves on. -/
theorem walkOn_serves {e : Chip} {b : Nat} {p : Word} {stamp : Nat} (ha : e.tab.active = some b) (hd : e.sys.detach = none)
    (hdev : e.dev ≠ .detaching) : walkOn e p stamp = setH (dueAt e b p stamp) p := by
  unfold walkOn
  rw [ha]
  dsimp only
  rw [stopReached_none hd, stopPos_none hd, if_neg (by decide), if_neg (by simp), if_neg (by simp [hdev])]

theorem walkPos_serves {b stamp : Nat} (harm : armReady c = none) (ha : c.tab.active = some b) (hd : c.sys.detach = none)
    (hdev : c.dev ≠ .detaching) :
    walkPos c stamp = setH (dueAt c b (servedH c + 1) stamp) (servedH c + 1) := by
  rw [walkPos_eq, harm]
  exact walkOn_serves ha hd hdev

/-- An armed changeover at the next position takes place first. -/
theorem walkPos_changes {a : Arm} {stamp : Nat} (harm : armReady c = some a) (hp : a.p = servedH c + 1)
    (ha : (changeover c a stamp).tab.active = some a.bank) (hd : c.sys.detach = none)
    (hdev : (changeover c a stamp).dev ≠ .detaching) :
    walkPos c stamp = setH (dueAt (changeover c a stamp) a.bank a.p stamp) a.p := by
  rw [walkPos_eq, harm]
  dsimp only
  rw [if_pos hp, ← hp]
  exact walkOn_serves ha (by rw [changeover_sys, hd]) hdev

theorem dueAt_tab (c : Chip) (b : Nat) (p : Word) (stamp : Nat) : ∃ l, (dueAt c b p stamp).tab = { c.tab with dueP := l } := by
  unfold dueAt
  extract_lets l held full new src e
  refine iteInduction (motive := fun t : Chip => ∃ l, t.tab = { c.tab with dueP := l }) (fun _ => ⟨_, rfl⟩) fun _ => ?_
  exact iteInduction (motive := fun t : Chip => ∃ l, t.tab = { c.tab with dueP := l }) (fun _ => ⟨_, rfl⟩) fun _ => ⟨_, rfl⟩

theorem dueAt_regs (c : Chip) (b : Nat) (p : Word) (stamp : Nat) :
    KeepsRegs (fun a => a = 0x6000507C ∨ a = 0x60005038 ∨ a = 0x60005128) c (dueAt c b p stamp) := by
  unfold dueAt
  extract_lets l held full new src e
  refine keepsRegs_ite (fun _ => keepsRegs_refl c) fun _ => keepsRegs_ite (fun _ => ?_) fun _ => ?_
  · exact keepsRegs_trans (d := e) (keepsRegs_of_regs rfl) (keepsRegs_trans (keepsRegs_regUpd _ _ (.inl rfl))
      (keepsRegs_regUpd _ _ (.inr (.inl rfl))))
  · exact keepsRegs_trans (d := e) (keepsRegs_of_regs rfl) (keepsRegs_regUpd _ _ (.inr (.inr rfl)))

theorem dueAt_rest (c : Chip) (b : Nat) (p : Word) (stamp : Nat) : (dueAt c b p stamp).dev = c.dev ∧
    (dueAt c b p stamp).accepted = c.accepted ∧ KeepsWork c (dueAt c b p stamp) := by
  refine ⟨?_, ?_, ⟨dueAt_cores _ _ _ _, dueAt_courses _ _ _ _, dueAt_mem _ _ _ _⟩⟩
  all_goals
    unfold dueAt
    dsimp only
    split
    · rfl
    split <;> rfl

/-- The due unit has room, so every note at the position is stamped (R365). -/
theorem dueAt_stamped {b stamp : Nat} (p : Word) (hheld : stampedHeld c.tab.dueP < 256) (hall : ∀ q ∈ c.tab.dueP, q.stamped = true) :
    (dueAt c b p stamp).tab.dueP = c.tab.dueP ++ (notesAt c b (bits p 15 0)).map (fun i => ⟨false, b, i, p.toNat, stamp, true⟩) := by
  have hany : c.tab.dueP.any (fun d => !d.stamped) = false := by
    rw [List.any_eq_false]
    intro q hq
    simp [hall q hq]
  unfold dueAt
  dsimp only
  split
  next h => rw [List.isEmpty_iff.mp h, List.map_nil, List.append_nil]
  next =>
    have hfull : (decide (256 ≤ stampedHeld c.tab.dueP) || c.tab.dueP.any (fun d => !d.stamped)) = false := by
      rw [hany, decide_eq_false (by omega), Bool.or_false]
    rw [hfull, if_neg (by decide)]
    rfl

end Sys2Proof.Machine
end

section
/-! PROOFS. Drones (O45): the notes and the changeover of a step that the tablature follows. -/

namespace Sys2Proof.Machine

open Sys2Proof Sys2Proof.Safety

variable {c : Chip} {s : State} {d : Nat}

theorem dev_of_tabRuns (hr : tabRuns c = true) (hd : c.sys.detach = none) : c.dev = .running ∨ c.dev = .changeover := by
  have h : c.tab.active.isSome = true ∧ (c.dev = .running ∨ c.dev = .changeover) := by simpa [tabRuns, stopPos_none hd] using hr
  exact h.2

theorem servedH_stepped (c : Chip) (d : Nat) : servedH (stepped c d) = servedH c :=
  stepped_regs 0x60005010 (by simpa using drnReg_above d 4 (by decide))

theorem dronePos_stepped_forward (hb : 0 < (droneOf c d).backlog) (hpos : dronePos c d = servedH c) :
    dronePos (stepped c d) d = servedH c + 1 := by
  rw [dronePos_stepped, if_pos hb, hpos]

@[simp] theorem walking_mem (c : Chip) : (walking c).mem = c.mem := rfl
@[simp] theorem walking_dev (c : Chip) : (walking c).dev = c.dev := rfl
@[simp] theorem walking_sys (c : Chip) : (walking c).sys = c.sys := rfl
@[simp] theorem walking_accepted (c : Chip) : (walking c).accepted = c.accepted := rfl
@[simp] theorem walking_tab (c : Chip) : (walking c).tab = { c.tab with win := c.tab.win + 1, lastFwd := true } := rfl
@[simp] theorem stepped_mem (c : Chip) (d : Nat) : (stepped c d).mem = c.mem := rfl
@[simp] theorem stepped_dev (c : Chip) (d : Nat) : (stepped c d).dev = c.dev := rfl
@[simp] theorem stepped_sys (c : Chip) (d : Nat) : (stepped c d).sys = c.sys := rfl
@[simp] theorem stepped_accepted (c : Chip) (d : Nat) : (stepped c d).accepted = c.accepted := rfl
@[simp] theorem stepped_tab (c : Chip) (d : Nat) : (stepped c d).tab = c.tab := rfl

theorem armReady_congr {c e : Chip} (ha : e.tab.arm = c.tab.arm) (hd : e.dev = c.dev) : armReady e = armReady c := by
  rw [armReady, armReady, ha, hd]

theorem notesAt_of_mem {c e : Chip} (h : e.mem = c.mem) (b phi : Nat) : notesAt e b phi = notesAt c b phi := by
  simp only [notesAt, imPscnt, imW_of_mem h, imF_of_mem h]

/-- A step forward from H has the engine walk one position. -/
theorem stepped_walks (hr : tabRuns c = true) (hf : followed c = some d) (hb : 0 < (droneOf c d).backlog)
    (hpos : dronePos c d = servedH c) (hfirst : firstStart c d = none) (hwalk : walkFrom c (servedH c + 1) = servedH c) :
    tabStep (stepped c d) d true = walkPos (walking (stepped c d)) c.tb := by
  have hH := servedH_stepped c d
  have hp := dronePos_stepped_forward hb hpos
  have harm : armReady (stepped c d) = armReady c := rfl
  have hdev : (stepped c d).dev = c.dev := rfl
  refine tabStep_walks (c := stepped c d) hr hf hfirst ?_ (by rw [hp, hH])
  unfold walkFrom at hwalk ⊢
  rw [hp, harm, hH, hdev]
  exact hwalk

/-- What walking one position leaves a served drone: its notes, its position and H. -/
theorem served_position {b : Nat} (hb : 0 < (droneOf c d).backlog) (hpos : dronePos c d = servedH c)
    (hheld : stampedHeld c.tab.dueP < 256) (hall : ∀ q ∈ c.tab.dueP, q.stamped = true) :
    let t := setH (dueAt (walking (stepped c d)) b (servedH c + 1) c.tb) (servedH c + 1)
    servedH t = servedH c + 1 ∧ dronePos t d = servedH c + 1 ∧ t.dev = c.dev ∧ KeepsWork c t ∧
    t.tab.dueP = c.tab.dueP ++ (notesAt c b (bits (servedH c + 1) 15 0)).map
      (fun i => ⟨false, b, i, (servedH c + 1).toNat, c.tb, true⟩) := by
  have hmem : (walking (stepped c d)).mem = c.mem := by simp
  have hdueP : (walking (stepped c d)).tab.dueP = c.tab.dueP := by simp
  have hdue := dueAt_stamped (c := walking (stepped c d)) (b := b) (stamp := c.tb) (servedH c + 1)
    (by rw [hdueP]; exact hheld) (by rw [hdueP]; exact hall)
  rw [notesAt_of_mem hmem, hdueP] at hdue
  obtain ⟨hdv, _, hwork⟩ := dueAt_rest (walking (stepped c d)) b (servedH c + 1) c.tb
  rw [walking_dev, stepped_dev] at hdv
  have hregs : KeepsRegs (· ≠ drnReg d 4) (walking (stepped c d)) (dueAt (walking (stepped c d)) b (servedH c + 1) c.tb) :=
    keepsRegs_mono (by rintro a (rfl | rfl | rfl) <;> exact drnReg_above d 4 (by decide)) (dueAt_regs _ _ _ _)
  have hwalk : KeepsRegs (· ≠ drnReg d 4) (stepped c d) (walking (stepped c d)) :=
    keepsRegs_mono (by rintro a (rfl | rfl) <;> exact drnReg_above d 4 (by decide)) (walking_regs _)
  have hp := dronePos_stepped_forward hb hpos
  generalize dueAt (walking (stepped c d)) b (servedH c + 1) c.tb = e at hdue hdv hwork hregs
  refine ⟨regVal_regPut_same _ _ _, ?_, hdv,
    keepsWork_trans (keepsWork_stepped c d) (keepsWork_trans (keepsWork_walking _) (keepsWork_trans hwork ⟨rfl, rfl, rfl⟩)), hdue⟩
  rw [dronePos, setH, regVal_regPut_other _ _ (drnReg_above d 4 (by decide)).symm, hregs _ (by simp), hwalk _ (by simp),
    ← dronePos, hp]

/-- A step forward from H: the notes at the next position fall due, and H moves on. -/
theorem droneStep_serves {b : Nat} (hd : d < 16) (hper : s.chip.sys.per = true) (hb : 0 < (droneOf s.chip d).backlog)
    (hm : droneMoves s.chip d = true) (hr : tabRuns s.chip = true) (hf : followed s.chip = some d)
    (hdet : s.chip.sys.detach = none) (hpos : dronePos s.chip d = servedH s.chip) (ha : s.chip.tab.active = some b)
    (harm : s.chip.tab.arm = none) (hheld : stampedHeld s.chip.tab.dueP < 256) (hall : ∀ q ∈ s.chip.tab.dueP, q.stamped = true) :
    leaves (.droneStep d) s (fun t =>
      servedH t = servedH s.chip + 1 ∧ dronePos t d = servedH s.chip + 1 ∧ t.dev = s.chip.dev ∧ KeepsWork s.chip t ∧
      t.tab.dueP = s.chip.tab.dueP ++ (notesAt s.chip b (bits (servedH s.chip + 1) 15 0)).map
        (fun i => ⟨false, b, i, (servedH s.chip + 1).toNat, s.chip.tb, true⟩)) := by
  have hready : armReady s.chip = none := by rw [armReady, harm]
  have hready' : armReady (walking (stepped s.chip d)) = none := (armReady_congr (by simp) (by simp)).trans hready
  have hdev : (walking (stepped s.chip d)).dev ≠ .detaching := by
    rw [walking_dev, stepped_dev]
    rcases dev_of_tabRuns hr hdet with h | h <;> simp [h]
  have hx : xDroneStep s.chip d = setH (dueAt (walking (stepped s.chip d)) b (servedH s.chip + 1) s.chip.tb) (servedH s.chip + 1) := by
    rw [xDroneStep_steps hd hper (by omega) hm, decide_eq_true hb,
      stepped_walks hr hf hb hpos (firstStart_none harm) (by rw [walkFrom, hready]),
      walkPos_serves hready' (b := b) (by simpa using ha) (by simpa using hdet) hdev, servedH_walking, servedH_stepped]
  refine leaves_of_onUnit (f := fun c => xDroneStep c d) rfl (decide_eq_true hd) ?_
  show _ ∧ _ ∧ _ ∧ _ ∧ _
  rw [hx]
  exact served_position hb hpos hheld hall

/-! ### The changeover (R359) -/

/-- The registers of a changeover written. -/
def changedRegs (c : Chip) (a : Arm) (stamp : Nat) : Chip :=
  let c := regPut (regPut (regPut c 0x60005018 a.p) 0x6000501C (wd stamp)) 0x60005020 (wd (stamp / 2 ^ 32))
  let c := regWrap (regPut c 0x60005114 (wd (openJobs c))) 0x60005110 31 0 1
  setH c (a.p - 1)

/-- The old bank READY, the new one ACTIVE, and the switches of the new bank's engines owed. -/
def changedBanks (c : Chip) (a : Arm) (stamp : Nat) : Chip :=
  let old := c.tab.active
  let mask := camMask c a.bank
  let c := changedRegs c a stamp
  let c := match old with | some b => setBank c b 3 | none => c
  let c := setBank c a.bank 6
  let n := c.tab.issueNo
  ((List.range 32).filter mask.testBit).foldl (fun c e => updCam c e (fun m => { m with sw := some n })) c

/-- The tablature after a changeover. -/
def changedTab (t : Tab) (a : Arm) (tb : Nat) : Tab :=
  { t with arm := none, active := some a.bank, chgDue := true, tsQ := t.tsQ ++ [(a.bank, tb)],
           fetchP := t.fetchP2, fetchT := t.fetchT2, fetchP2 := t.fetchP, fetchT2 := t.fetchT,
           lastFwd := true, stopped := false }

theorem changeover_eq (c : Chip) (a : Arm) (stamp : Nat) : changeover c a stamp =
    complete (camSwitches (setDev (tabEv { changedBanks c a stamp with
      tab := changedTab (changedBanks c a stamp).tab a (changedBanks c a stamp).tb } 4) .running 0)) a.reply stOK (wd a.bank) := rfl

theorem regVal_changedRegs (c : Chip) (a : Arm) (stamp : Nat) : regVal (changedRegs c a stamp) 0x60005018 = a.p := by
  unfold changedRegs setH
  dsimp only
  rw [regVal_regPut_other _ _ (by decide), regWrap, regVal_regUpd_other _ _ (by decide), regVal_regPut_other _ _ (by decide),
    regVal_regPut_other _ _ (by decide), regVal_regPut_other _ _ (by decide), regVal_regPut_same]

theorem changedRegs_tab (c : Chip) (a : Arm) (stamp : Nat) : (changedRegs c a stamp).tab = c.tab := rfl

theorem changedRegs_accepted (c : Chip) (a : Arm) (stamp : Nat) : (changedRegs c a stamp).accepted = c.accepted := rfl

theorem keepsWork_changedRegs (c : Chip) (a : Arm) (stamp : Nat) : KeepsWork c (changedRegs c a stamp) := ⟨rfl, rfl, rfl⟩

theorem bankState_setBank_other (c : Chip) {b b' : Nat} (n : Nat) (hb : b < 2) (hb' : b' < 2) (h : b ≠ b') :
    bankState (setBank c b' n) b = bankState c b := by
  unfold bankState setBank
  by_cases h0 : b = 0
  · rw [if_pos h0, if_pos h0, if_neg (by omega)]
  · rw [if_neg h0, if_neg h0, if_pos (by omega)]

/-- The switches owed change the engines alone. -/
theorem switchesOwed_rest (l : List Nat) (n : Nat) (c : Chip) :
    let e := l.foldl (fun c e => updCam c e (fun m => { m with sw := some n })) c
    e.tab = c.tab ∧ e.regs = c.regs ∧ e.accepted = c.accepted ∧ KeepsWork c e := by
  induction l generalizing c with
  | nil => exact ⟨rfl, rfl, rfl, keepsWork_refl c⟩
  | cons k l ih =>
    obtain ⟨htab, hregs, hacc, hwork⟩ := ih (updCam c k (fun m => { m with sw := some n }))
    exact ⟨htab, hregs, hacc, keepsWork_trans (d := updCam c k (fun m => { m with sw := some n })) ⟨rfl, rfl, rfl⟩ hwork⟩

theorem changedBanks_rest {a : Arm} {b : Nat} (stamp : Nat) (hact : c.tab.active = some b) (hb : b < 2) (ha : a.bank < 2)
    (hne : b ≠ a.bank) :
    bankState (changedBanks c a stamp) a.bank = 6 ∧ bankState (changedBanks c a stamp) b = 3 ∧
    regVal (changedBanks c a stamp) 0x60005018 = a.p ∧ (changedBanks c a stamp).accepted = c.accepted ∧
    KeepsWork c (changedBanks c a stamp) := by
  have htab := changedRegs_tab c a stamp
  have hacc := changedRegs_accepted c a stamp
  have hwork := keepsWork_changedRegs c a stamp
  have hreg := regVal_changedRegs c a stamp
  unfold changedBanks
  rw [hact]
  dsimp only
  generalize changedRegs c a stamp = e at htab hacc hwork hreg
  obtain ⟨hwork1, hregs1, _, hacc1, _⟩ := setBank_rest e b 3
  obtain ⟨hwork2, hregs2, _, hacc2, _⟩ := setBank_rest (setBank e b 3) a.bank 6
  obtain ⟨htab3, hregs3, hacc3, hwork3⟩ := switchesOwed_rest ((List.range 32).filter (camMask c a.bank).testBit)
    (setBank (setBank e b 3) a.bank 6).tab.issueNo (setBank (setBank e b 3) a.bank 6)
  refine ⟨?_, ?_, ?_, ?_, keepsWork_trans hwork (keepsWork_trans hwork1 (keepsWork_trans hwork2 hwork3))⟩
  · rw [bankState_of_tab htab3, bankState_setBank]
  · rw [bankState_of_tab htab3, bankState_setBank_other _ _ hb ha hne, bankState_setBank]
  · rw [regVal_of_regs (hregs3.trans (hregs2.trans hregs1)), hreg]
  · rw [hacc3, hacc2, hacc1, hacc]

/-- What a changeover leaves (R359). -/
structure ChangedOver (c t : Chip) (a : Arm) (b : Nat) : Prop where
  active : t.tab.active = some a.bank
  new : bankState t a.bank = 6
  old : bankState t b = 3
  arm : t.tab.arm = none
  dev : t.dev = .running
  position : regVal t 0x60005018 = a.p
  accepted : t.accepted = c.accepted.erase a.reply
  work : KeepsWork c t

theorem changedOver {a : Arm} {b : Nat} (stamp : Nat) (hact : c.tab.active = some b) (hb : b < 2) (ha : a.bank < 2)
    (hne : b ≠ a.bank) : ChangedOver c (changeover c a stamp) a b := by
  obtain ⟨hnew, hold, hreg, hacc, hwork⟩ := changedBanks_rest (a := a) stamp hact hb ha hne
  rw [changeover_eq]
  generalize changedBanks c a stamp = e at hnew hold hreg hacc hwork
  have hregs : (complete (camSwitches (setDev (tabEv { e with tab := changedTab e.tab a e.tb } 4) .running 0)) a.reply stOK
      (wd a.bank)).regs = (setDev (tabEv { e with tab := changedTab e.tab a e.tb } 4) .running 0).regs :=
    (complete_regs _ _ _ _).trans (camSwitches_regs _)
  have htab : (complete (camSwitches (setDev (tabEv { e with tab := changedTab e.tab a e.tb } 4) .running 0)) a.reply stOK
      (wd a.bank)).tab = changedTab e.tab a e.tb := by
    rw [complete_tab, camSwitches_tab, setDev_tab, tabEv_tab]
  have hsd := setDev_regs (tabEv { e with tab := changedTab e.tab a e.tb } 4) .running 0 0x60005018 (by simp [DevWrites])
  refine ⟨by rw [htab]; rfl, ?_, ?_, by rw [htab]; rfl, ?_, ?_, ?_, keepsWork_trans hwork ⟨?_, ?_, ?_⟩⟩
  · rw [bankState, htab]
    exact hnew
  · rw [bankState, htab]
    exact hold
  · rw [complete_dev, camSwitches_dev, setDev_dev]
  · rw [regVal_of_regs hregs, hsd, tabEv, regOr, regVal_regUpd_other _ _ (by decide)]
    exact hreg
  · rw [complete_accepted, camSwitches_accepted, setDev_accepted]
    exact congrArg (·.erase a.reply) hacc
  · rw [complete_cores, camSwitches_cores, setDev_cores, tabEv_cores]
  · rw [complete_courses, camSwitches_courses, setDev_courses, tabEv_courses]
  · rw [complete_mem, camSwitches_mem, setDev_mem, tabEv_mem]

/-- A step onto the position of an armed changeover: it takes place, and the notes there fall due in the new bank. -/
theorem xDroneStep_changes {a : Arm} {b : Nat} (hd : d < 16) (hper : c.sys.per = true) (hb : 0 < (droneOf c d).backlog)
    (hm : droneMoves c d = true) (hr : tabRuns c = true) (hf : followed c = some d) (hdet : c.sys.detach = none)
    (hpos : dronePos c d = servedH c) (harm : armReady c = some a) (hdev : c.dev = .changeover) (hact : c.tab.active = some b)
    (ha : a.bank < 2) (hb2 : b < 2) (hne : b ≠ a.bank) (hp : a.p = servedH c + 1) :
    xDroneStep c d = setH (dueAt (changeover (walking (stepped c d)) a c.tb) a.bank a.p c.tb) a.p := by
  have hfirst : firstStart c d = none := by
    rw [firstStart, harm]
    exact if_neg fun h => by simp [hdev] at h
  have hback : sgn (servedH c - a.p) = -1 := by
    rw [hp, show servedH c - (servedH c + 1) = -1 by bv_omega]
    rfl
  have hwalk : walkFrom c (servedH c + 1) = servedH c := by
    rw [walkFrom, harm]
    exact if_neg fun h => by
      have := h.2.1
      omega
  have harm' : armReady (walking (stepped c d)) = some a := (armReady_congr (by simp) (by simp)).trans harm
  have hch := changedOver (c := walking (stepped c d)) (a := a) c.tb (by simpa using hact) hb2 ha hne
  rw [xDroneStep_steps hd hper (by omega) hm, decide_eq_true hb, stepped_walks hr hf hb hpos hfirst hwalk,
    walkPos_changes harm' (by rw [servedH_walking, servedH_stepped, hp]) hch.active (by simpa using hdet) (by simp [hch.dev])]

theorem droneStep_changes {a : Arm} {b : Nat} (hd : d < 16) (hper : s.chip.sys.per = true) (hb : 0 < (droneOf s.chip d).backlog)
    (hm : droneMoves s.chip d = true) (hr : tabRuns s.chip = true) (hf : followed s.chip = some d) (hdet : s.chip.sys.detach = none)
    (hpos : dronePos s.chip d = servedH s.chip) (harm : armReady s.chip = some a) (hdev : s.chip.dev = .changeover)
    (hact : s.chip.tab.active = some b) (ha : a.bank < 2) (hb2 : b < 2) (hne : b ≠ a.bank) (hp : a.p = servedH s.chip + 1) :
    leaves (.droneStep d) s (fun t =>
      t.tab.active = some a.bank ∧ bankState t a.bank = 6 ∧ bankState t b = 3 ∧ t.tab.arm = none ∧ t.dev = .running ∧
      servedH t = a.p ∧ regVal t 0x60005018 = a.p ∧ t.accepted = s.chip.accepted.erase a.reply ∧ KeepsWork s.chip t) := by
  refine leaves_of_onUnit (f := fun c => xDroneStep c d) rfl (decide_eq_true hd) ?_
  show _ ∧ _ ∧ _ ∧ _ ∧ _ ∧ _ ∧ _ ∧ _ ∧ _
  rw [xDroneStep_changes hd hper hb hm hr hf hdet hpos harm hdev hact ha hb2 hne hp]
  obtain ⟨hactive, hnew, hold, hnone, hdv, hreg, hacc, hwork⟩ :=
    changedOver (c := walking (stepped s.chip d)) (a := a) s.chip.tb (by simpa using hact) hb2 ha hne
  rw [walking_accepted, stepped_accepted] at hacc
  generalize changeover (walking (stepped s.chip d)) a s.chip.tb = e at hactive hnew hold hnone hdv hreg hacc hwork
  obtain ⟨l, htab⟩ := dueAt_tab e a.bank a.p s.chip.tb
  obtain ⟨hdv', hacc', hwork'⟩ := dueAt_rest e a.bank a.p s.chip.tb
  have hreg' := dueAt_regs e a.bank a.p s.chip.tb 0x60005018 (by decide)
  generalize dueAt e a.bank a.p s.chip.tb = u at htab hdv' hacc' hwork' hreg'
  refine ⟨?_, ?_, ?_, ?_, hdv'.trans hdv, regVal_regPut_same _ _ _, ?_, hacc'.trans hacc,
    keepsWork_trans (keepsWork_stepped _ _) (keepsWork_trans (keepsWork_walking _) (keepsWork_trans hwork
      (keepsWork_trans hwork' ⟨rfl, rfl, rfl⟩)))⟩
  · show u.tab.active = _
    rw [htab, hactive]
  · show (if a.bank = 0 then u.tab.stA else u.tab.stB) = 6
    rw [htab]
    exact hnew
  · show (if b = 0 then u.tab.stA else u.tab.stB) = 3
    rw [htab]
    exact hold
  · show u.tab.arm = _
    rw [htab, hnone]
  · rw [setH, regVal_regPut_other _ _ (by decide), hreg', hreg]

end Sys2Proof.Machine
end

section
/-! PROOFS. Drones (O45): positions written, rate generators, kinds. -/

namespace Sys2Proof.Machine

open Sys2Proof Sys2Proof.Safety

variable {c : Chip} {s : State} {d : Nat}

/-! ### A written position (R367, R447) -/

theorem xDrnSetWrite_writes (hd : d < 16) (hper : c.sys.per = true) (w : Word) :
    xDrnSetWrite c d w = tabWritten (regPut c (drnReg d 0x04) w) d (dronePos c d) := if_pos ⟨hd, hper⟩

theorem drnSetWrite_apart (hd : d < 16) (hper : s.chip.sys.per = true) (ha : s.chip.tab.active = none)
    (harm : s.chip.tab.arm = none) (w : Word) : leaves (.drnSetWrite d w) s (fun t =>
      dronePos t d = w ∧ t.drones = s.chip.drones ∧ t.tab = s.chip.tab ∧ KeepsWork s.chip t ∧ OnlyRegs [drnReg d 4] s.chip t) := by
  have hx : xDrnSetWrite s.chip d w = regPut s.chip (drnReg d 0x04) w := by
    have hruns : tabRuns s.chip = false := by simp [tabRuns, ha]
    have hruns' : tabRuns (regPut s.chip (drnReg d 0x04) w) = false := hruns
    rw [xDrnSetWrite_writes hd hper]
    unfold tabWritten
    dsimp only
    rw [firstStart_none (e := regPut s.chip (drnReg d 0x04) w) harm]
    exact if_neg (by simp [hruns'])
  refine leaves_of_onUnit (f := fun c => xDrnSetWrite c d w) rfl (decide_eq_true hd) ?_
  show _ ∧ _ ∧ _ ∧ _ ∧ _
  rw [hx]
  exact ⟨regVal_regPut_same _ _ _, rfl, rfl, ⟨rfl, rfl, rfl⟩, keepsRegs_regPut _ _ (by simp)⟩

/-- The tablature with what was due discarded and its engine stopped. -/
def dueDropped (c : Chip) : Chip :=
  { c with tab := { c.tab with dueP := [], dueT := [], frame := none, stopped := true } }

theorem endArm_none (h : c.tab.arm = none) (detail : Nat) : endArm c detail = c := by
  rw [endArm, h]

theorem enterHalted_running (hdev : c.dev = .running) (harm : c.tab.arm = none) (hdet : c.sys.detach = none) (cause : Nat) :
    enterHalted c cause =
      setDev (regCount (dueDropped c) 0x6000505C 31 0 (c.tab.dueP.length + c.tab.dueT.length)) .halted cause := by
  have hstop : tabStop c = regCount (dueDropped c) 0x6000505C 31 0 (c.tab.dueP.length + c.tab.dueT.length) := by
    unfold tabStop
    dsimp only
    split
    · next d h => exact absurd (hdet.symm.trans h) (by simp)
    · rfl
  have hend : endArm (tabStop c) 3 = tabStop c := endArm_none (by rw [hstop]; exact harm) 3
  unfold enterHalted
  dsimp only
  rw [if_pos (by rw [tabStop_dev, hdev]; simp), hend, hstop]

/-- What a jump of the followed drone leaves of a RUNNING device. -/
theorem jumped (hdev : c.dev = .running) (harm : c.tab.arm = none) (hdet : c.sys.detach = none) (w : Word) (n : Nat) :
    let t := jump c w n
    t.dev = .halted ∧ servedH t = w ∧ t.tab.dueP = [] ∧ t.tab.dueT = [] ∧ bit (regVal t 0x60005038) 8 = true ∧
    KeepsWork c t ∧ ∀ a, 0x60006000 ≤ a → a < 0x60008000 → regVal t a = regVal c a := by
  unfold jump
  extract_lets skipped e t
  have ht : t = enterHalted (setH (tabEv e 8) w) 3 := rfl
  clear_value t
  have he : KeepsRegs (fun a => a = 0x6000505C ∨ a = 0x60005120) c e :=
    keepsRegs_trans (keepsRegs_regUpd _ _ (.inl rfl)) (keepsRegs_regUpd _ _ (.inr rfl))
  have hwork : KeepsWork c e := ⟨rfl, rfl, rfl⟩
  have hrest : e.dev = c.dev ∧ e.tab = c.tab ∧ e.sys = c.sys := ⟨rfl, rfl, rfl⟩
  clear_value e
  obtain ⟨hdev', htab', hsys'⟩ := hrest
  have hu := enterHalted_running (c := setH (tabEv e 8) w) (hdev'.trans hdev) (by rw [← harm, ← htab']; rfl)
    (by rw [← hdet, ← hsys']; rfl) 3
  have hbit : bit (regVal (setH (tabEv e 8) w) 0x60005038) 8 = true := by
    rw [setH, regVal_regPut_other _ _ (by decide), tabEv]
    exact (bit_regOr e 0x60005038 (2 ^ 8) (by decide)).trans (by rw [show Nat.testBit (2 ^ 8) 8 = true from rfl, Bool.or_true])
  have hH : servedH (setH (tabEv e 8) w) = w := regVal_regPut_same _ _ _
  have hin : KeepsRegs (fun a => a = 0x60005038 ∨ a = 0x60005010) e (setH (tabEv e 8) w) :=
    keepsRegs_trans (keepsRegs_regUpd _ _ (.inl rfl)) (keepsRegs_regPut _ _ (.inr rfl))
  have hwork' : KeepsWork e (setH (tabEv e 8) w) := ⟨rfl, rfl, rfl⟩
  have hrun : (setH (tabEv e 8) w).dev = .running := hdev'.trans hdev
  rw [← ht] at hu
  clear ht
  generalize setH (tabEv e 8) w = u at hu hbit hH hin hwork' hrun
  rw [hu]
  have hdrop : KeepsRegs (· = 0x6000505C) u (regCount (dueDropped u) 0x6000505C 31 0 (u.tab.dueP.length + u.tab.dueT.length)) :=
    keepsRegs_trans (d := dueDropped u) (keepsRegs_of_regs rfl) (keepsRegs_regUpd _ _ rfl)
  have htab : (regCount (dueDropped u) 0x6000505C 31 0 (u.tab.dueP.length + u.tab.dueT.length)).tab = (dueDropped u).tab := rfl
  have hwork'' : KeepsWork u (regCount (dueDropped u) 0x6000505C 31 0 (u.tab.dueP.length + u.tab.dueT.length)) := ⟨rfl, rfl, rfl⟩
  have hrun' : (regCount (dueDropped u) 0x6000505C 31 0 (u.tab.dueP.length + u.tab.dueT.length)).dev = .running := hrun
  generalize regCount (dueDropped u) 0x6000505C 31 0 (u.tab.dueP.length + u.tab.dueT.length) = v at hdrop htab hwork'' hrun'
  have hset := setDev_regs v .halted 3
  have hnot {a : Nat} (h : a ∉ [0x60000000, 0x60000034, 0x60000038, 0x60008038, 0x60002014, 0x60002004]) : ¬ DevWrites v a := by
    rintro (h' | ⟨h', _⟩)
    · exact h h'
    · simp [hrun'] at h'
  refine ⟨setDev_dev _ _ _, ?_, by rw [setDev_tab, htab]; rfl, by rw [setDev_tab, htab]; rfl, ?_,
    keepsWork_trans hwork (keepsWork_trans hwork' (keepsWork_trans hwork''
      ⟨setDev_cores _ _ _, setDev_courses _ _ _, setDev_mem _ _ _⟩)), fun a hlo hhi => ?_⟩
  · show regVal _ 0x60005010 = w
    rw [hset _ (hnot (by decide)), hdrop _ (by decide)]
    exact hH
  · rw [hset _ (hnot (by decide)), hdrop _ (by decide), hbit]
  · rw [hset _ (hnot (by simp; omega)), hdrop _ (by omega), hin _ (by omega), he _ (by omega)]

theorem drnSetWrite_jumps (hd : d < 16) (hper : s.chip.sys.per = true) (hr : tabRuns s.chip = true)
    (hf : followed s.chip = some d) (hdet : s.chip.sys.detach = none) (harm : s.chip.tab.arm = none) (hdev : s.chip.dev = .running)
    (w : Word) (hw : 65536 < sgn (w - servedH s.chip)) : leaves (.drnSetWrite d w) s (fun t =>
      t.dev = .halted ∧ servedH t = w ∧ dronePos t d = w ∧ t.tab.dueP = [] ∧ t.tab.dueT = [] ∧
      bit (regVal t 0x60005038) 8 = true ∧ KeepsWork s.chip t) := by
  have hruns' : tabRuns (regPut s.chip (drnReg d 0x04) w) = true := hr
  have hf' : followed (regPut s.chip (drnReg d 0x04) w) = some d := hf
  have hpos : dronePos (regPut s.chip (drnReg d 0x04) w) d = w := regVal_regPut_same _ _ _
  have hH : servedH (regPut s.chip (drnReg d 0x04) w) = servedH s.chip :=
    regVal_regPut_other _ _ (drnReg_above d 4 (by decide))
  have hx : xDrnSetWrite s.chip d w = jump (regPut s.chip (drnReg d 0x04) w) w (sgn (w - servedH s.chip)).toNat := by
    rw [xDrnSetWrite_writes hd hper]
    unfold tabWritten
    dsimp only
    rw [firstStart_none (e := regPut s.chip (drnReg d 0x04) w) harm]
    dsimp only
    rw [if_pos ⟨hruns', hf'⟩, hpos, hH, if_pos hw]
  obtain ⟨hdv, hserved, hP, hT, hbit, hwork, hkeep⟩ := jumped (c := regPut s.chip (drnReg d 0x04) w) hdev harm hdet w
    (sgn (w - servedH s.chip)).toNat
  refine leaves_of_onUnit (f := fun c => xDrnSetWrite c d w) rfl (decide_eq_true hd) ?_
  show _ ∧ _ ∧ _ ∧ _ ∧ _ ∧ _ ∧ _
  rw [hx]
  refine ⟨hdv, hserved, ?_, hP, hT, hbit, keepsWork_trans (d := regPut s.chip (drnReg d 0x04) w) ⟨rfl, rfl, rfl⟩ hwork⟩
  rw [dronePos, hkeep _ (by simp only [drnReg]; omega) (by simp only [drnReg]; omega), ← dronePos, hpos]

end Sys2Proof.Machine
end

section
/-! PROOFS. Drones (O45): rate generators, kinds, counts of ports, and the statement. -/

namespace Sys2Proof.Machine

open Sys2Proof Sys2Proof.Safety

variable {c : Chip} {s : State} {d : Nat}

/-! ### Steps owed -/

theorem oweSteps_owed {e : Chip} {n : Int} (h : ((droneOf e d).backlog + n).natAbs < 32768) :
    oweSteps e d n = updDrone e d (fun r => { r with backlog := (droneOf e d).backlog + n }) :=
  if_neg (by omega)

/-! ### Rate generators (R450) -/

theorem rampSpd_steady (v acc : Int) (ns : Nat) : rampSpd v v acc ns = (v, 2 * v * (ns : Int)) := by
  have hall : (if acc = 0 then 0 else ((v - v).natAbs * 1000000 : Nat) / (acc * 256)) = 0 := by
    split
    · rfl
    · simp
  unfold rampSpd
  rw [hall, if_pos (by omega)]
  simp

/-- A generator at its set speed owes the steps of the time since. -/
theorem advanceRate_steady (h : sgn (regVal c (drnReg d 0x14)) = sgn (regVal c (drnReg d 0x0C))) :
    let ph := (droneOf c d).phase + 2 * sgn (regVal c (drnReg d 0x14)) * ((c.tb - (droneOf c d).lastRamp : Nat) : Int)
    advanceRate c d = oweSteps (updDrone (regPut c (drnReg d 0x14) (regVal c (drnReg d 0x14))) d
      (fun r => { r with lastRamp := c.tb, phase := ph - ph.tdiv 512000000000 * 512000000000 })) d (ph.tdiv 512000000000) := by
  intro ph
  unfold advanceRate
  dsimp only
  rw [← h, rampSpd_steady]
  dsimp only
  rw [if_neg (by simp), show wi (sgn (regVal c (drnReg d 0x14))) = regVal c (drnReg d 0x14) from BitVec.ofInt_toInt]
  rfl

theorem regPut_same_regs {W : Nat → Prop} (c : Chip) (a : Nat) : KeepsRegs W c (regPut c a (regVal c a)) := fun b _ => by
  by_cases h : b = a
  · rw [h, regVal_regPut_same]
  · rw [regVal_regPut_other _ _ h]

theorem rateStep_owes (hd : d < 16) (hper : s.chip.sys.per = true) (hk : drnKind s.chip d = 2)
    (h : sgn (regVal s.chip (drnReg d 0x14)) = sgn (regVal s.chip (drnReg d 0x0C))) :
    let ph := (droneOf s.chip d).phase + 2 * sgn (regVal s.chip (drnReg d 0x14)) * ((s.chip.tb - (droneOf s.chip d).lastRamp : Nat) : Int)
    let n := ph.tdiv 512000000000
    ((droneOf s.chip d).backlog + n).natAbs < 32768 → leaves (.rateStep d) s (fun t =>
      droneOf t d = { droneOf s.chip d with
        lastRamp := s.chip.tb, phase := ph - n * 512000000000, backlog := (droneOf s.chip d).backlog + n } ∧
      KeepsWork s.chip t ∧ OnlyRegs [] s.chip t) := by
  intro ph n hn
  refine leaves_of_onUnit (f := fun c => xRateStep c d) rfl (decide_eq_true hd) ?_
  have hsame : OnlyRegs [] s.chip (regPut s.chip (drnReg d 0x14) (regVal s.chip (drnReg d 0x14))) := regPut_same_regs _ _
  have hdrone : droneOf (regPut s.chip (drnReg d 0x14) (regVal s.chip (drnReg d 0x14))) d = droneOf s.chip d := rfl
  have hwork : KeepsWork s.chip (regPut s.chip (drnReg d 0x14) (regVal s.chip (drnReg d 0x14))) := ⟨rfl, rfl, rfl⟩
  have hx : xRateStep s.chip d = advanceRate s.chip d := if_pos ⟨hd, hper, hk⟩
  show _ ∧ _ ∧ _
  rw [hx, advanceRate_steady h]
  generalize regPut s.chip (drnReg d 0x14) (regVal s.chip (drnReg d 0x14)) = e at hsame hdrone hwork
  rw [oweSteps_owed (by rw [droneOf_updDrone_same, hdrone]; exact hn), droneOf_updDrone_same, droneOf_updDrone_same, hdrone]
  exact ⟨rfl, keepsWork_trans (d := e) hwork ⟨rfl, rfl, rfl⟩, keepsRegs_trans (d := e) hsame (keepsRegs_of_regs rfl)⟩

/-- A rate written at the moment of the last advance. -/
theorem rateWrite_now (hk : drnKind c d = 2) (h : sgn (regVal c (drnReg d 0x14)) = sgn (regVal c (drnReg d 0x0C)))
    (ht : c.tb = (droneOf c d).lastRamp) (hp : (droneOf c d).phase = 0) (hb : (droneOf c d).backlog.natAbs < 32768) (w : Word) :
    let t := rateWrite c d 0x0C w
    regVal t (drnReg d 0x0C) = w ∧ OnlyRegs [drnReg d 0x0C, drnReg d 0x14] c t ∧
    regVal t (drnReg d 0x14) = if regVal c (drnReg d 0x10) = 0 then w else regVal c (drnReg d 0x14) := by
  have hadv : KeepsRegs (fun _ => False) c (advanceRate c d) := by
    rw [advanceRate_steady h, oweSteps_owed]
    · exact keepsRegs_trans (d := regPut c (drnReg d 0x14) (regVal c (drnReg d 0x14))) (regPut_same_regs _ _) (keepsRegs_of_regs rfl)
    · rw [droneOf_updDrone_same, hp, ← ht]
      simpa using hb
  have hreg (x : Nat) : regVal (advanceRate c d) x = regVal c x := hadv x id
  have hkind : drnKind (regPut (advanceRate c d) (drnReg d 0x0C) w) d = 2 := by
    rw [drnKind, regFld, regVal_regPut_other _ _ (drnReg_apart (by decide)), hreg]
    exact hk
  have hacc : regVal (regPut (advanceRate c d) (drnReg d 0x0C) w) (drnReg d 0x10) = regVal c (drnReg d 0x10) := by
    rw [regVal_regPut_other _ _ (drnReg_apart (by decide)), hreg]
  have h14 : regVal (regPut (advanceRate c d) (drnReg d 0x0C) w) (drnReg d 0x14) = regVal c (drnReg d 0x14) := by
    rw [regVal_regPut_other _ _ (drnReg_apart (by decide)), hreg]
  have hput : OnlyRegs [drnReg d 0x0C, drnReg d 0x14] c (regPut (advanceRate c d) (drnReg d 0x0C) w) :=
    keepsRegs_trans (d := advanceRate c d) (fun a _ => hreg a) (keepsRegs_regPut _ _ (by simp))
  have hC : regVal (regPut (advanceRate c d) (drnReg d 0x0C) w) (drnReg d 0x0C) = w := regVal_regPut_same _ _ _
  unfold rateWrite
  rw [if_pos hk]
  generalize regPut (advanceRate c d) (drnReg d 0x0C) w = e at hkind hacc h14 hput hC
  unfold spdAtOnce
  by_cases h0 : regVal c (drnReg d 0x10) = 0
  · rw [if_pos ⟨hkind, hacc.trans h0⟩, if_pos h0]
    refine ⟨?_, keepsRegs_trans (d := e) hput (keepsRegs_regPut _ _ (by simp)), (regVal_regPut_same _ _ _).trans hC⟩
    rw [regVal_regPut_other _ _ (drnReg_apart (by decide)), hC]
  · rw [if_neg fun hh => h0 (hacc.symm.trans hh.2), if_neg h0]
    exact ⟨hC, hput, h14⟩

theorem regWrite_rate (hd : d < 16) (w : Word) : (regWrite c (drnReg d 0x0C) w).1 = drnWrite c d 0x0C w := by
  have hpop : regPopulated (drnReg d 0x0C) = true := by
    have h : ∀ k, k < 16 → regPopulated (drnReg k 0x0C) = true := by decide
    exact h d hd
  have hdiv : drnReg d 0x0C / 0x1000 = 0x60006 := by
    unfold drnReg
    omega
  have hblock : drnReg d 0x0C % 0x1000 / 0x20 = d := by
    unfold drnReg
    omega
  have hofs : drnReg d 0x0C % 0x1000 % 0x20 = 0x0C := by
    unfold drnReg
    omega
  unfold regWrite
  rw [if_neg (by simp [hpop]), hdiv]
  dsimp only
  rw [hblock, hofs]
  rfl

theorem registerWrite_rate (hd : d < 16) (hper : s.chip.sys.per = true) (hk : drnKind s.chip d = 2)
    (h : sgn (regVal s.chip (drnReg d 0x14)) = sgn (regVal s.chip (drnReg d 0x0C)))
    (ht : s.chip.tb = (droneOf s.chip d).lastRamp) (hp : (droneOf s.chip d).phase = 0)
    (hb : (droneOf s.chip d).backlog.natAbs < 32768) (w : Word) (hw : (sgn w).natAbs ≤ 1024000000) :
    leaves (.registerWrite (drnReg d 0x0C) ⟨15, w⟩) s (fun t =>
      regVal t (drnReg d 0x0C) = w ∧ OnlyRegs [drnReg d 0x0C, drnReg d 0x14] s.chip t ∧
      regVal t (drnReg d 0x14) = if regVal s.chip (drnReg d 0x10) = 0 then w else regVal s.chip (drnReg d 0x14)) := by
  have hlo : 0x60000000 ≤ drnReg d 0x0C := by unfold drnReg; omega
  have hhi : drnReg d 0x0C < 0x60200000 := by unfold drnReg; omega
  have hal : drnReg d 0x0C % 4 = 0 := by unfold drnReg; omega
  refine leaves_of_onUnit (f := fun c => xRegisterWrite c (drnReg d 0x0C) ⟨15, w⟩) rfl
    (by simp [isRegister, isEnables]; omega) ?_
  have hx : drnWrite s.chip d 0x0C w = rateWrite s.chip d 0x0C w := by
    unfold drnWrite
    dsimp only
    rw [if_neg (by decide), if_neg (by decide), if_pos rfl, if_pos hw]
  show _ ∧ _ ∧ _
  rw [xRegisterWrite_reaches w hper hal hlo hhi, regWrite_rate hd, hx]
  exact rateWrite_now hk h ht hp hb w

end Sys2Proof.Machine
end

section
/-! PROOFS. Drones (O45): kinds, counts and frames of ports, and the statement. -/

namespace Sys2Proof.Machine

open Sys2Proof Sys2Proof.Safety

variable {c : Chip} {s : State} {d : Nat}

/-! ### The control register (R447, R449) -/

/-- What DRN.CTL keeps of a write. -/
def ctlKept (w : Word) : Word := (if decide (4 ≤ bits w 2 0) = true then setBits w 2 0 0 else w) &&& 0xFF7

theorem bits_kindMask (w : Word) : bits (w &&& 0xFF7) 2 0 = bits w 2 0 :=
  bits_congr fun i _ hi => by
    rw [bit_and]
    interval_cases i <;> exact Bool.and_true _

theorem bits_sourceMask (w : Word) : bits (w &&& 0xFF7) 10 4 = bits w 10 4 :=
  bits_congr fun i hlo hi => by
    rw [bit_and]
    interval_cases i <;> exact Bool.and_true _

theorem ctlKept_legal {w : Word} (h : bits w 2 0 < 4) : ctlKept w = w &&& 0xFF7 := by
  rw [ctlKept, if_neg (by simpa using h)]

theorem ctlKept_reserved {w : Word} (h : 4 ≤ bits w 2 0) : ctlKept w = setBits w 2 0 0 &&& 0xFF7 := by
  rw [ctlKept, if_pos (by simpa using h)]

theorem kind_ctlKept_reserved {w : Word} (h : 4 ≤ bits w 2 0) : bits (ctlKept w) 2 0 = 0 := by
  rw [ctlKept_reserved h, bits_kindMask, bits_setBits_same _ _ (by decide) (by decide), Nat.zero_mod]

/-- DRN.CTL written, with the steps of a rate generator that ends. -/
def ctlPut (c : Chip) (d : Nat) (w : Word) : Chip :=
  let new := decide (bits (regVal c (drnReg d 0x00)) 2 0 ≠ bits (ctlKept w) 2 0)
  let c := if new && decide (bits (regVal c (drnReg d 0x00)) 2 0 = 2) then advanceRate c d else c
  regPut (if decide (4 ≤ bits w 2 0) = true then drnCfgErr c d else c) (drnReg d 0x00) (ctlKept w)

/-- A drone that starts afresh, at speed 0. -/
def restarted (c : Chip) (d : Nat) : Chip :=
  regPut (updDrone c d (fun r => { r with frac := 0, lastRamp := c.tb, phase := 0, down := false })) (drnReg d 0x14) 0

/-- A drone starts afresh with a new kind. -/
def kindStarted (c : Chip) (d : Nat) (new : Bool) : Chip := if !new then c else spdAtOnce (restarted c d) d

/-- A drone under its new kind. -/
def kindTaken (c : Chip) (d : Nat) (v : Word) (new : Bool) : Chip :=
  let c := kindStarted c d new
  if bits v 2 0 = 1 ∧ sourceServes c (bits v 10 4) = false then droneDown c d else c

theorem drnCtl_eq (c : Chip) (d : Nat) (w : Word) : drnCtl c d w = kindTaken (ctlPut c d w) d (ctlKept w)
    (decide (bits (regVal c (drnReg d 0x00)) 2 0 ≠ bits (ctlKept w) 2 0)) := rfl

theorem spdAtOnce_regs (e : Chip) (d : Nat) : KeepsRegs (· = drnReg d 0x14) e (spdAtOnce e d) :=
  keepsRegs_ite (fun _ => keepsRegs_regPut _ _ rfl) fun _ => keepsRegs_refl e

theorem restarted_regs (e : Chip) (d : Nat) : KeepsRegs (· = drnReg d 0x14) e (restarted e d) :=
  keepsRegs_trans (d := updDrone e d _) (keepsRegs_of_regs rfl) (keepsRegs_regPut _ _ rfl)

theorem kindStarted_regs (e : Chip) (d : Nat) (new : Bool) : KeepsRegs (· = drnReg d 0x14) e (kindStarted e d new) :=
  keepsRegs_ite (fun _ => keepsRegs_refl e) fun _ => keepsRegs_trans (restarted_regs e d) (spdAtOnce_regs _ _)

theorem kindTaken_regs (e : Chip) (d : Nat) (v : Word) (new : Bool) :
    KeepsRegs (fun a => a = drnReg d 0x14 ∨ a = drnReg d 0x1C) e (kindTaken e d v new) := by
  have h := kindStarted_regs e d new
  unfold kindTaken
  dsimp only
  refine keepsRegs_trans (keepsRegs_mono (fun a => .inl) h) (keepsRegs_ite (fun _ => ?_) fun _ => keepsRegs_refl _)
  exact keepsRegs_trans (d := updDrone _ d _) (keepsRegs_of_regs rfl) (keepsRegs_regUpd _ _ (.inr rfl))

/-- A kind without a port leaves the drone's error flags. -/
theorem kindTaken_quiet (e : Chip) (d : Nat) {v : Word} (new : Bool) (h : bits v 2 0 ≠ 1) :
    kindTaken e d v new = kindStarted e d new := if_neg fun h' => h h'.1

theorem regVal_ctlPut (c : Chip) (d : Nat) (w : Word) : regVal (ctlPut c d w) (drnReg d 0) = ctlKept w := regVal_regPut_same _ _ _

theorem regVal_drnCtl (c : Chip) (d : Nat) (w : Word) : regVal (drnCtl c d w) (drnReg d 0) = ctlKept w := by
  rw [drnCtl_eq, kindTaken_regs _ _ _ _ _ (by simp [drnReg]), regVal_ctlPut]

theorem keepsWork_drnCtl (c : Chip) (d : Nat) (w : Word) : KeepsWork c (drnCtl c d w) := ⟨by simp, by simp, by simp⟩

theorem xDroneCtlWrite_writes (hd : d < 16) (hper : c.sys.per = true) (w : Word) : xDroneCtlWrite c d w = drnCtl c d w :=
  if_pos ⟨hd, hper⟩

/-- From another kind than RATE nothing but the register itself changes before the new kind is taken. -/
theorem ctlPut_legal {w : Word} (hk : drnKind c d ≠ 2) (h : bits w 2 0 < 4) : ctlPut c d w = regPut c (drnReg d 0x00) (ctlKept w) := by
  have h2 : (decide (bits (regVal c (drnReg d 0x00)) 2 0 ≠ bits (ctlKept w) 2 0) && decide (bits (regVal c (drnReg d 0x00)) 2 0 = 2)) = false := by
    rw [decide_eq_false (p := bits (regVal c (drnReg d 0x00)) 2 0 = 2) hk, Bool.and_false]
  unfold ctlPut
  dsimp only
  rw [h2, if_neg Bool.false_ne_true, if_neg (by simpa using h)]

theorem drnCtl_legal_regs {w : Word} (hk : drnKind c d ≠ 2) (h : bits w 2 0 < 4) (h1 : bits w 2 0 ≠ 1) :
    OnlyRegs [drnReg d 0, drnReg d 0x14] c (drnCtl c d w) := by
  rw [drnCtl_eq, kindTaken_quiet _ _ _ (by rw [ctlKept_legal h, bits_kindMask]; exact h1), ctlPut_legal hk h]
  exact keepsRegs_trans (keepsRegs_regPut _ _ (by simp)) (keepsRegs_mono (by rintro a rfl; simp) (kindStarted_regs _ d _))

/-- A drone that becomes a rate generator starts at its set speed where it has no ramp, else at 0. -/
theorem drnCtl_rate_speed {w : Word} (hk : drnKind c d ≠ 2) (h2 : bits w 2 0 = 2) :
    regVal (drnCtl c d w) (drnReg d 0x14) = if regVal c (drnReg d 0x10) = 0 then regVal c (drnReg d 0x0C) else 0 := by
  have hkept : bits (ctlKept w) 2 0 = 2 := by rw [ctlKept_legal (by omega), bits_kindMask, h2]
  have hnew : decide (bits (regVal c (drnReg d 0x00)) 2 0 ≠ bits (ctlKept w) 2 0) = true := by
    rw [hkept]
    exact decide_eq_true hk
  rw [drnCtl_eq, kindTaken_quiet _ _ _ (by omega), ctlPut_legal hk (by omega), hnew]
  have h0 : regVal (regPut c (drnReg d 0x00) (ctlKept w)) (drnReg d 0x00) = ctlKept w := regVal_regPut_same _ _ _
  have hr {o : Nat} (ho : o ≠ 0) : regVal (regPut c (drnReg d 0x00) (ctlKept w)) (drnReg d o) = regVal c (drnReg d o) :=
    regVal_regPut_other _ _ (drnReg_apart ho)
  generalize regPut c (drnReg d 0x00) (ctlKept w) = e at h0 hr
  have hput {o : Nat} (ho : o ≠ 0x14) : regVal (restarted e d) (drnReg d o) = regVal e (drnReg d o) :=
    restarted_regs e d _ (drnReg_apart ho)
  have hz : regVal (restarted e d) (drnReg d 0x14) = 0 := regVal_regPut_same _ _ _
  rw [kindStarted, if_neg (by decide)]
  generalize restarted e d = u at hput hz
  have hkind : drnKind u d = 2 := by rw [drnKind, regFld, hput (by decide), h0, hkept]
  unfold spdAtOnce
  by_cases hz' : regVal c (drnReg d 0x10) = 0
  · rw [if_pos ⟨hkind, by rw [hput (by decide), hr (by decide), hz']⟩, if_pos hz', regVal_regPut_same, hput (by decide), hr (by decide)]
  · rw [if_neg fun h => hz' (by rw [← h.2, hput (by decide), hr (by decide)]), if_neg hz', hz]

theorem droneCtlWrite_legal (hd : d < 16) (hper : s.chip.sys.per = true) {w : Word} (h : bits w 2 0 < 4) (h1 : bits w 2 0 ≠ 1) :
    leaves (.droneCtlWrite d w) s (fun t =>
      regVal t (drnReg d 0) = w &&& 0xFF7 ∧ KeepsWork s.chip t ∧
      (drnKind s.chip d ≠ 2 → OnlyRegs [drnReg d 0, drnReg d 0x14] s.chip t ∧ (bits w 2 0 = 2 → drnKind s.chip d ≠ 2 →
        regVal t (drnReg d 0x14) = if regVal s.chip (drnReg d 0x10) = 0 then regVal s.chip (drnReg d 0x0C) else 0))) := by
  refine leaves_of_onUnit (f := fun c => xDroneCtlWrite c d w) rfl (decide_eq_true hd) ?_
  show _ ∧ _ ∧ _
  rw [xDroneCtlWrite_writes hd hper]
  exact ⟨by rw [regVal_drnCtl, ctlKept_legal h], keepsWork_drnCtl _ _ _,
    fun hk => ⟨drnCtl_legal_regs hk h h1, fun h2 _ => drnCtl_rate_speed hk h2⟩⟩

theorem droneCtlWrite_reserved (hd : d < 16) (hper : s.chip.sys.per = true) {w : Word} (h : 4 ≤ bits w 2 0) :
    leaves (.droneCtlWrite d w) s (fun t =>
      regVal t (drnReg d 0) = setBits w 2 0 0 &&& 0xFF7 ∧ bit (regVal t (drnReg d 0x1C)) 15 = true) := by
  refine leaves_of_onUnit (f := fun c => xDroneCtlWrite c d w) rfl (decide_eq_true hd) ?_
  show _ ∧ _
  rw [xDroneCtlWrite_writes hd hper]
  refine ⟨by rw [regVal_drnCtl, ctlKept_reserved h], ?_⟩
  rw [drnCtl_eq, kindTaken_quiet _ _ _ (by rw [kind_ctlKept_reserved h]; decide), kindStarted_regs _ _ _ _ (drnReg_apart (by decide))]
  unfold ctlPut
  dsimp only
  rw [regVal_regPut_other _ _ (drnReg_apart (by decide)), if_pos (by simpa using h), drnCfgErr, bit_regOr _ _ _ (by decide)]
  exact Bool.or_true _

theorem sourceServes_of_ports {e : Chip} (h : e.ports = c.ports) (p : Nat) : sourceServes e p = sourceServes c p := by
  have hp : portOf e p = portOf c p := by rw [portOf, portOf, h]
  simp only [sourceServes, isSsi, hp]

/-- A drone whose port does not serve it is down. -/
theorem droneCtlWrite_down (hd : d < 16) (hper : s.chip.sys.per = true) {w : Word} (h1 : bits w 2 0 = 1)
    (hsrc : sourceServes s.chip (bits w 10 4) = false) : leaves (.droneCtlWrite d w) s (fun t => (droneOf t d).down = true) := by
  have hports : (ctlPut s.chip d w).ports = s.chip.ports := by
    unfold ctlPut
    dsimp only
    rw [regPut_ports]
    split <;> split <;> simp [drnCfgErr]
  refine leaves_of_onUnit (f := fun c => xDroneCtlWrite c d w) rfl (decide_eq_true hd) ?_
  show (droneOf (xDroneCtlWrite s.chip d w) d).down = true
  rw [xDroneCtlWrite_writes hd hper, drnCtl_eq, ctlKept_legal (by omega)]
  generalize ctlPut s.chip d w = e at hports
  unfold kindTaken
  dsimp only
  rw [bits_kindMask, bits_sourceMask]
  have hp (new : Bool) : (kindStarted e d new).ports = s.chip.ports := by
    unfold kindStarted spdAtOnce
    split
    · exact hports
    · split <;> exact hports
  rw [if_pos ⟨h1, (sourceServes_of_ports (hp _) _).trans hsrc⟩, droneDown, droneOf_regOr, droneOf_updDrone_same]

end Sys2Proof.Machine
end

section
/-! PROOFS. Drones (O45): counts and frames of ports, and the statement. -/

namespace Sys2Proof.Machine

open Sys2Proof Sys2Proof.Safety

variable {c : Chip} {s : State} {d p : Nat}

theorem fpReg_apart (p : Nat) {o o' : Nat} (h : o ≠ o') : fpReg p o ≠ fpReg p o' := by
  unfold fpReg
  omega

theorem drnReg_fpReg {o o' : Nat} (hd : d < 16) (ho : o < 0x20) : drnReg d o ≠ fpReg p o' := by
  unfold drnReg fpReg
  omega

theorem isPort_of_portOk (h : portOk c p = true) : isPort p = true := by
  simp only [portOk, Bool.and_eq_true] at h
  exact h.1

/-! ### Counts of an encoder (R444) -/

/-- The count after an edge. -/
def edgeCount (c : Chip) (p : Nat) (up : Bool) : Word :=
  if (up != bit (regVal c (fpReg p 8)) 8) = true then regVal c (fpReg p 0x18) + 1 else regVal c (fpReg p 0x18) - 1

theorem edgeCount_eq (up : Bool) : edgeCount c p up =
    regVal c (fpReg p 0x18) + wi (if (up != bit (regVal c (fpReg p 8)) 8) = true then 1 else -1) := by
  unfold edgeCount
  split
  · rfl
  · exact BitVec.sub_eq_add_neg _ _

/-- The registers of an edge, before the compare event. -/
def edgeTaken (c : Chip) (p : Nat) (up : Bool) : Chip :=
  updPort (regPut (regPut (regPut c (fpReg p 0x18) (edgeCount c p up)) (fpReg p 0x1C) (wd c.tb)) (fpReg p 0x24)
    (wd (b1 (!(up != bit (regVal c (fpReg p 8)) 8))))) p
    (fun r => { r with rateCnt := if (up != bit (regVal c (fpReg p 8)) 8) = true then r.rateCnt + 1 else r.rateCnt - 1 })

theorem encCount_eq (c : Chip) (p : Nat) (up : Bool) : encCount c p up =
    if edgeCount c p up = regVal (edgeTaken c p up) (fpReg p 0x28) then fpEv (edgeTaken c p up) p 1 else edgeTaken c p up := rfl

/-- What an edge leaves: the count, its stamp and no other drone, port or register. -/
structure EdgeCounted (c t : Chip) (p : Nat) (up : Bool) : Prop where
  count : regVal t (fpReg p 0x18) = regVal c (fpReg p 0x18) + wi (if (up != bit (regVal c (fpReg p 8)) 8) = true then 1 else -1)
  stamp : regVal t (fpReg p 0x1C) = wd c.tb
  drones : t.drones = c.drones
  work : KeepsWork c t
  regs : OnlyRegs [fpReg p 0x18, fpReg p 0x1C, fpReg p 0x24, fpReg p 0x14] c t

theorem edgeTaken_counted (c : Chip) (p : Nat) (up : Bool) : EdgeCounted c (edgeTaken c p up) p up := by
  refine ⟨?_, ?_, rfl, ⟨rfl, rfl, rfl⟩, ?_⟩
  · show regVal (regPut (regPut (regPut c (fpReg p 0x18) (edgeCount c p up)) _ _) _ _) _ = _
    rw [regVal_regPut_other _ _ (fpReg_apart p (by decide)), regVal_regPut_other _ _ (fpReg_apart p (by decide)),
      regVal_regPut_same, edgeCount_eq]
  · show regVal (regPut (regPut (regPut c (fpReg p 0x18) (edgeCount c p up)) _ _) _ _) _ = _
    rw [regVal_regPut_other _ _ (fpReg_apart p (by decide)), regVal_regPut_same]
  · exact keepsRegs_trans (d := regPut (regPut (regPut c (fpReg p 0x18) (edgeCount c p up)) _ _) _ _)
      (keepsRegs_trans (keepsRegs_trans (keepsRegs_regPut _ _ (by simp)) (keepsRegs_regPut _ _ (by simp)))
        (keepsRegs_regPut _ _ (by simp))) (keepsRegs_of_regs rfl)

theorem encCount_counted (c : Chip) (p : Nat) (up : Bool) : EdgeCounted c (encCount c p up) p up := by
  have h := edgeTaken_counted c p up
  rw [encCount_eq]
  generalize edgeTaken c p up = e at h
  obtain ⟨hcount, hstamp, hdrones, hwork, hregs⟩ := h
  split
  · have hev {o : Nat} (ho : o ≠ 0x14) : regVal (fpEv e p 1) (fpReg p o) = regVal e (fpReg p o) :=
      regVal_regUpd_other _ _ (fpReg_apart p ho)
    exact ⟨(hev (by decide)).trans hcount, (hev (by decide)).trans hstamp, hdrones, keepsWork_trans hwork ⟨rfl, rfl, rfl⟩,
      keepsRegs_trans hregs (keepsRegs_regUpd _ _ (by simp))⟩
  · exact ⟨hcount, hstamp, hdrones, hwork, hregs⟩

theorem xEncCount_single (ho : encOk c p = true) (up : Bool) : xEncCount c p up false =
    (fedBy c p).foldl (fun e d => feedDrone e d (if (up != bit (regVal c (fpReg p 8)) 8) = true then 1 else -1)) (encCount c p up) := by
  unfold xEncCount
  rw [if_neg (by simp [ho]), if_neg (by decide)]

theorem portOk_of_encOk (h : encOk c p = true) : portOk c p = true := by
  simp only [encOk, Bool.and_eq_true] at h
  exact h.1.1.1.1

theorem encCount_both (ho : encOk s.chip p = true) (up : Bool) : leaves (.encCount p up true) s (fun t =>
    regVal t (fpReg p 0x18) = regVal s.chip (fpReg p 0x18) ∧ t.drones = s.chip.drones) := by
  refine leaves_of_onUnit (f := fun c => xEncCount c p up true) rfl (isPort_of_portOk (portOk_of_encOk ho)) ?_
  show _ ∧ _
  unfold xEncCount
  rw [if_neg (by simp [ho]), if_pos rfl]
  split
  · exact ⟨(regVal_regUpd_other _ _ (fpReg_apart p (by decide))).trans (regVal_regUpd_other _ _ (fpReg_apart p (by decide))), rfl⟩
  · exact ⟨rfl, rfl⟩

theorem encCount_alone (ho : encOk s.chip p = true) (hf : fedBy s.chip p = []) (up : Bool) :
    leaves (.encCount p up false) s (fun t => EdgeCounted s.chip t p up) := by
  refine leaves_of_onUnit (f := fun c => xEncCount c p up false) rfl (isPort_of_portOk (portOk_of_encOk ho)) ?_
  show EdgeCounted _ (xEncCount s.chip p up false) _ _
  rw [xEncCount_single ho, hf]
  exact encCount_counted _ _ _

/-- A count fed to a drone whose backlog has room. -/
theorem feedDrone_fed {e : Chip} {v : Int} (hs : droneOf e d = droneOf c d) (h8 : regVal e (drnReg d 8) = regVal c (drnReg d 8))
    (h0 : regVal e (drnReg d 0) = regVal c (drnReg d 0)) :
    let scale : Int := (regVal c (drnReg d 8)).toNat
    let acc := (droneOf c d).frac + (if bit (regVal c (drnReg d 0)) 11 then -(v * scale) else v * scale)
    ((droneOf c d).backlog + acc.tdiv 65536).natAbs < 32768 →
      droneOf (feedDrone e d v) d = { droneOf c d with
        frac := acc - acc.tdiv 65536 * 65536, backlog := (droneOf c d).backlog + acc.tdiv 65536, down := false } ∧
      (feedDrone e d v).regs = e.regs := by
  intro scale acc hroom
  unfold feedDrone
  dsimp only
  rw [hs, h8, h0, oweSteps_owed (by rw [droneOf_updDrone_same, hs]; exact hroom), droneOf_updDrone_same, droneOf_updDrone_same, hs]
  exact ⟨rfl, rfl⟩

theorem encCount_fed (hd : d < 16) (ho : encOk s.chip p = true) (hf : fedBy s.chip p = [d]) (up : Bool) :
    let v : Int := if (up != bit (regVal s.chip (fpReg p 8)) 8) = true then 1 else -1
    let scale : Int := (regVal s.chip (drnReg d 8)).toNat
    let acc := (droneOf s.chip d).frac + (if bit (regVal s.chip (drnReg d 0)) 11 then -(v * scale) else v * scale)
    ((droneOf s.chip d).backlog + acc.tdiv 65536).natAbs < 32768 → leaves (.encCount p up false) s (fun t =>
      droneOf t d = { droneOf s.chip d with
        frac := acc - acc.tdiv 65536 * 65536, backlog := (droneOf s.chip d).backlog + acc.tdiv 65536, down := false } ∧
      regVal t (fpReg p 0x18) = regVal s.chip (fpReg p 0x18) + wi v) := by
  intro v scale acc hroom
  obtain ⟨hcount, _, hdrones, _, hregs⟩ := encCount_counted s.chip p up
  have hreg {o : Nat} (h : o < 0x20) : regVal (encCount s.chip p up) (drnReg d o) = regVal s.chip (drnReg d o) :=
    hregs _ (by simp [drnReg_fpReg hd h])
  obtain ⟨hdrone, hsame⟩ := feedDrone_fed (c := s.chip) (e := encCount s.chip p up) (d := d) (v := v) (by rw [droneOf, hdrones, droneOf])
    (hreg (by decide)) (hreg (by decide)) hroom
  refine leaves_of_onUnit (f := fun c => xEncCount c p up false) rfl (isPort_of_portOk (portOk_of_encOk ho)) ?_
  show _ ∧ _
  rw [xEncCount_single ho, hf]
  exact ⟨hdrone, (regVal_of_regs hsame _).trans hcount⟩

/-! ### Frames of an SSI sensor (R445) -/

/-- A port whose frame has ended. -/
def frameOver (c : Chip) (p : Nat) : Chip :=
  updPort c p (fun r => { r with ssiBusy := false, ssiFree := c.tb + 1000 * regFld c (fpReg p 0x08) 31 24 })

/-- A port with a frame that was good. -/
def frameGood (c : Chip) (p : Nat) (pos : Word) : Chip :=
  let c := updPort c p (fun r => { r with ssiGood := true })
  let c := regPut (regPut c (fpReg p 0x20) (regVal c (fpReg p 0x18))) (fpReg p 0x18) pos
  regPut c (fpReg p 0x24) (wd ((regFld c (fpReg p 0x24) 7 0 + 1) % 256))

theorem keepsWork_frameOver (c : Chip) (p : Nat) : KeepsWork c (frameOver c p) := ⟨rfl, rfl, rfl⟩

theorem frameOver_regs (c : Chip) (p : Nat) : (frameOver c p).regs = c.regs := rfl

theorem ssiBusy_frameOver (c : Chip) (p : Nat) : (portOf (frameOver c p) p).ssiBusy = false := by
  rw [frameOver, portOf_updPort_same]

theorem keepsWork_frameGood (c : Chip) (p : Nat) (pos : Word) : KeepsWork c (frameGood c p pos) := ⟨rfl, rfl, rfl⟩

theorem ssiBusy_frameGood (c : Chip) (p : Nat) (pos : Word) : (portOf (frameGood c p pos) p).ssiBusy = (portOf c p).ssiBusy := by
  rw [frameGood, portOf_regPut, portOf_regPut, portOf_regPut, portOf_updPort_same]

theorem frameGood_regs (c : Chip) (p : Nat) (pos : Word) :
    KeepsRegs (fun a => a = fpReg p 0x20 ∨ a = fpReg p 0x18 ∨ a = fpReg p 0x24) c (frameGood c p pos) :=
  keepsRegs_trans (d := updPort c p _) (keepsRegs_of_regs rfl) (keepsRegs_trans
    (keepsRegs_trans (keepsRegs_regPut _ _ (.inl rfl)) (keepsRegs_regPut _ _ (.inr (.inl rfl)))) (keepsRegs_regPut _ _ (.inr (.inr rfl))))

theorem regVal_frameGood (c : Chip) (p : Nat) (pos : Word) : regVal (frameGood c p pos) (fpReg p 0x18) = pos ∧
    regVal (frameGood c p pos) (fpReg p 0x20) = regVal c (fpReg p 0x18) := by
  constructor
  · rw [frameGood, regVal_regPut_other _ _ (fpReg_apart p (by decide)), regVal_regPut_same]
  · rw [frameGood, regVal_regPut_other _ _ (fpReg_apart p (by decide)), regVal_regPut_other _ _ (fpReg_apart p (by decide)),
      regVal_regPut_same]
    rfl

theorem ssiEnd_eq (c : Chip) (p : Nat) (raw : Word) (good : Bool) : ssiEnd c p raw good =
    if good then portAnnounce (frameGood (frameOver c p) p (ssiPos c p raw)) p
      ⟨0, [ssiPos c p raw, regVal (frameGood (frameOver c p) p (ssiPos c p raw)) (fpReg p 0x1C)]⟩
    else fpLine (regOr (frameOver c p) (fpReg p 0x24) 0x100) p := rfl

section
variable (ho : portOk s.chip p = true) (hi : isSsi s.chip p = true) (hb : (portOf s.chip p).ssiBusy = true) (raw : Word)
include ho hi hb

theorem xSsiFrameEnd_good (hf : fedBy s.chip p = []) (h0 : regFld s.chip (fpReg p 0x0C) 15 0 = 0) :
    xSsiFrameEnd s.chip p raw true = fpEv (frameGood (frameOver s.chip p) p (ssiPos s.chip p raw)) p 1 := by
  have hann : regFld (frameGood (frameOver s.chip p) p (ssiPos s.chip p raw)) (fpReg p 0x0C) 15 0 = 0 := by
    rw [regFld, frameGood_regs _ _ _ _ (by simp [fpReg]), regVal_of_regs (frameOver_regs _ _)]
    exact h0
  have hend : ssiEnd s.chip p raw true = fpEv (frameGood (frameOver s.chip p) p (ssiPos s.chip p raw)) p 1 := by
    rw [ssiEnd_eq, if_pos rfl, portAnnounce, if_pos hann]
  have hfed : fedBy (fpEv (frameGood (frameOver s.chip p) p (ssiPos s.chip p raw)) p 1) p = fedBy s.chip p := by
    have hreg {k : Nat} (hk : k < 16) : regVal (fpEv (frameGood (frameOver s.chip p) p (ssiPos s.chip p raw)) p 1) (drnReg k 0) =
        regVal s.chip (drnReg k 0) := by
      rw [fpEv, regOr, regVal_regUpd_other _ _ (drnReg_fpReg hk (by decide)), frameGood_regs _ _ _ _ (by simp [drnReg_fpReg hk]),
        regVal_of_regs (frameOver_regs _ _)]
    unfold fedBy
    refine List.filter_congr fun k hk => ?_
    rw [regFld, regFld, hreg (List.mem_range.mp hk), regFld, regFld]
  unfold xSsiFrameEnd
  rw [if_pos (by simp [ho, hi, hb])]
  dsimp only
  rw [hend, if_pos rfl, hfed, hf]
  rfl

theorem ssiFrameEnd_good (hf : fedBy s.chip p = []) (h0 : regFld s.chip (fpReg p 0x0C) 15 0 = 0) :
    leaves (.ssiFrameEnd p raw true) s (fun t => (portOf t p).ssiBusy = false ∧ regVal t (fpReg p 0x18) = ssiPos s.chip p raw ∧
      regVal t (fpReg p 0x20) = regVal s.chip (fpReg p 0x18) ∧ bit (regVal t (fpReg p 0x14)) 0 = true ∧ KeepsWork s.chip t) := by
  refine leaves_of_onUnit (f := fun c => xSsiFrameEnd c p raw true) rfl (isPort_of_portOk ho) ?_
  show _ ∧ _ ∧ _ ∧ _ ∧ _
  rw [xSsiFrameEnd_good ho hi hb raw hf h0]
  obtain ⟨hpos, hold⟩ := regVal_frameGood (frameOver s.chip p) p (ssiPos s.chip p raw)
  have hbusy := (ssiBusy_frameGood (frameOver s.chip p) p (ssiPos s.chip p raw)).trans (ssiBusy_frameOver s.chip p)
  have hwork := keepsWork_trans (keepsWork_frameOver s.chip p) (keepsWork_frameGood (frameOver s.chip p) p (ssiPos s.chip p raw))
  generalize frameGood (frameOver s.chip p) p (ssiPos s.chip p raw) = e at hpos hold hbusy hwork
  have hev {o : Nat} (ho : o ≠ 0x14) : regVal (fpEv e p 1) (fpReg p o) = regVal e (fpReg p o) :=
    regVal_regUpd_other _ _ (fpReg_apart p ho)
  refine ⟨hbusy, (hev (by decide)).trans hpos, (hev (by decide)).trans (hold.trans (regVal_of_regs (frameOver_regs _ _) _)), ?_,
    keepsWork_trans hwork ⟨rfl, rfl, rfl⟩⟩
  rw [fpEv, bit_regOr _ _ _ (by decide)]
  exact Bool.or_true _

theorem ssiFrameEnd_bad : leaves (.ssiFrameEnd p raw false) s (fun t => (portOf t p).ssiBusy = false ∧
    regVal t (fpReg p 0x18) = regVal s.chip (fpReg p 0x18) ∧ bit (regVal t (fpReg p 0x14)) 8 = true ∧ KeepsWork s.chip t) := by
  have hx : xSsiFrameEnd s.chip p raw false = fpLine (regOr (frameOver s.chip p) (fpReg p 0x24) 0x100) p := by
    unfold xSsiFrameEnd
    rw [if_pos (by simp [ho, hi, hb])]
    rfl
  refine leaves_of_onUnit (f := fun c => xSsiFrameEnd c p raw false) rfl (isPort_of_portOk ho) ?_
  show _ ∧ _ ∧ _ ∧ _
  rw [hx]
  have hbusy := ssiBusy_frameOver s.chip p
  have hregs := frameOver_regs s.chip p
  have hwork := keepsWork_frameOver s.chip p
  generalize frameOver s.chip p = e at hbusy hregs hwork
  refine ⟨hbusy, ?_, ?_, keepsWork_trans hwork ⟨rfl, rfl, rfl⟩⟩
  · rw [fpLine, fpEv, regOr, regVal_regUpd_other _ _ (fpReg_apart p (by decide)), regCount,
      regVal_regUpd_other _ _ (fpReg_apart p (by decide)), regOr, regVal_regUpd_other _ _ (fpReg_apart p (by decide)),
      regVal_of_regs hregs]
  · rw [fpLine, fpEv, bit_regOr _ _ _ (by decide)]
    exact Bool.or_true _

end

/-- Settles O45: each event of a drone by its lemma; a step that the tablature follows walks one position behind H. -/
theorem droneEvents : Obligations.DroneEvents := by
  intro s d hd hper
  refine ⟨?_, ?_, ?_, ?_, ?_, ?_, ?_, ?_⟩
  · intro hm
    refine leaves_of_onUnit (f := fun c => xDroneStep c d) rfl (decide_eq_true hd) ?_
    exact xDroneStep_stays hm
  · exact fun hb hm ⟨ha, harm⟩ => droneStep_apart hd hper hb hm ha harm
  · exact fun hb hm ⟨hr, hf, hdet⟩ hpos =>
      ⟨fun b ha harm hheld hall => droneStep_serves hd hper hb hm hr hf hdet hpos ha harm hheld hall,
       fun a b harm hdev hact ha hb2 hne hp => droneStep_changes hd hper hb hm hr hf hdet hpos harm hdev hact ha hb2 hne hp⟩
  · exact fun w => ⟨fun ⟨ha, harm⟩ => drnSetWrite_apart hd hper ha harm w,
      fun ⟨hr, hf, hdet⟩ harm hdev hw => drnSetWrite_jumps hd hper hr hf hdet harm hdev w hw⟩
  · exact fun hk h => rateStep_owes hd hper hk h
  · exact fun w => ⟨fun h h1 => droneCtlWrite_legal hd hper h h1, fun h => droneCtlWrite_reserved hd hper h,
      fun h1 hsrc => droneCtlWrite_down hd hper h1 hsrc, fun hk h ht hp hb hw => registerWrite_rate hd hper hk h ht hp hb w hw⟩
  · refine fun p up ho => ⟨encCount_both ho up, fun hf => ?_, fun hf => encCount_fed hd ho hf up⟩
    exact leaves_mono (encCount_alone ho hf up) fun t h => ⟨h.count, h.stamp, h.drones, h.work, h.regs⟩
  · exact fun p raw ho hi hb h0 hf => ⟨ssiFrameEnd_good ho hi hb raw hf h0, ssiFrameEnd_bad ho hi hb raw⟩

end Sys2Proof.Machine
end

section
/-! PROOFS. Field ports (O46): encoders, SSI sensors and step drives. -/

namespace Sys2Proof.Machine

open Sys2Proof Sys2Proof.Safety

variable {c : Chip} {s : State} {p : Nat}

/-! ### Writes of DATA0 and OUT (R437) -/

/-- The change of a port that keeps what it is. -/
theorem keepsWork_updPort (c : Chip) (p : Nat) (f : Port → Port) : KeepsWork c (updPort c p f) := ⟨rfl, rfl, rfl⟩

theorem fpWrite_data0 (hm : (portOf c p).mode ≠ 0) (hr : (portOf c p).ready = true) (w : Word) :
    (fpWrite c p 0x18 w).1 = data0Apply c p w := by
  unfold fpWrite
  simp [hm, hr, applyHeld]

theorem fpWrite_out (hm : (portOf c p).mode ≠ 0) (hr : (portOf c p).ready = true) (ho : outRefused c p = false) (w : Word) :
    (fpWrite c p 0x28 w).1 = outApply c p w := by
  unfold fpWrite
  simp [hm, hr, ho, applyHeld]

theorem fpWrite_refused (ho : outRefused c p = true) (w : Word) : (fpWrite c p 0x28 w).1 = fpRefuse c p := by
  unfold fpWrite
  simp [ho]

theorem ready_of_enabled (h : enabled c p = true) : (portOf c p).ready = true := by
  simp only [enabled, Bool.and_eq_true] at h
  exact h.2

/-- A refused write of OUT sets its event and leaves the port. -/
theorem fpRefuse_event (c : Chip) (p : Nat) : bit (regVal (fpRefuse c p) (fpReg p 0x14)) 10 = true := by
  rw [fpRefuse, fpEv, bit_regOr _ _ _ (by decide), show Nat.testBit 0x400 10 = true from rfl, Bool.or_true]

theorem fpRefuse_refused (c : Chip) (p : Nat) : bit (regVal (fpRefuse c p) (fpReg p 0x14)) 10 = true ∧
    portOf (fpRefuse c p) p = portOf c p ∧ (fpRefuse c p).out = c.out ∧ KeepsWork c (fpRefuse c p) ∧
    OnlyRegs [fpReg p 0x2C, fpReg p 0x14] c (fpRefuse c p) := by
  refine ⟨fpRefuse_event c p, ?_, ?_, ⟨?_, ?_, ?_⟩, ?_⟩
  · rw [fpRefuse, fpEv, portOf_regOr, portOf_regCount]
  · rw [fpRefuse, fpEv, regOr_out, regCount_out]
  · rw [fpRefuse, fpEv, regOr_cores, regCount_cores]
  · rw [fpRefuse, fpEv, regOr_courses, regCount_courses]
  · rw [fpRefuse, fpEv, regOr_mem, regCount_mem]
  · exact keepsRegs_trans (d := regCount c (fpReg p 0x2C) 31 24 1) (keepsRegs_regUpd _ _ (by simp)) (keepsRegs_regUpd _ _ (by simp))

theorem mode_of_isSsi (hi : isSsi c p = true) : (portOf c p).mode = 2 ∧ (portOf c p).sub = 2 := by
  simpa [isSsi] using hi

theorem driving_congr {c d : Chip} (hp : enabled d p = enabled c p) (hA : (portOf d p).settleA = (portOf c p).settleA)
    (hB : (portOf d p).settleB = (portOf c p).settleB) (hm : (portOf d p).mode = (portOf c p).mode)
    (hsub : (portOf d p).sub = (portOf c p).sub) (ht : (portOf d p).tx = (portOf c p).tx) : driving d p = driving c p := by
  simp only [driving, canDrive, isHalf, hp, hA, hB, hm, hsub, ht]

section
variable (ho : portOk s.chip p = true)
include ho

/-! ### Encoders (R443) -/

theorem encPreset_writes (hm : (portOf s.chip p).mode = 3) (hr : (portOf s.chip p).ready = true) (w : Word) :
    leaves (.encPreset p w) s (fun t => regVal t (fpReg p 0x18) = w ∧ KeepsWork s.chip t ∧ OnlyRegs [fpReg p 0x18] s.chip t) := by
  refine leaves_of_onUnit (f := fun c => xEncPreset c p w) rfl (isPort_of_portOk ho) ?_
  show _ ∧ _ ∧ _
  rw [xEncPreset, if_pos (by simp [ho, hm]), fpWrite_data0 (by simp [hm]) hr, data0Apply, if_pos hm]
  exact ⟨regVal_regPut_same _ _ _, keeps_regPut _ _ _⟩

theorem encCompareWrite_writes (hm : (portOf s.chip p).mode = 3) (hr : (portOf s.chip p).ready = true) (w : Word) :
    leaves (.encCompareWrite p w) s (fun t => regVal t (fpReg p 0x28) = w ∧ KeepsWork s.chip t ∧ OnlyRegs [fpReg p 0x28] s.chip t) := by
  refine leaves_of_onUnit (f := fun c => xEncCompareWrite c p w) rfl (isPort_of_portOk ho) ?_
  show _ ∧ _ ∧ _
  rw [xEncCompareWrite, if_pos (by simp [ho, hm]), fpWrite_out (by simp [hm]) hr (by simp [outRefused, hm]), outApply, if_pos hm]
  exact ⟨regVal_regPut_same _ _ _, keeps_regPut _ _ _⟩

theorem encRateWindow_counts (hm : (portOf s.chip p).mode = 3) (hw : (portOf s.chip p).rateWin ≠ s.chip.tb / 1000000) :
    leaves (.encRateWindow p) s (fun t =>
      regVal t (fpReg p 0x20) = (portOf s.chip p).rateCnt ∧
      portOf t p = { portOf s.chip p with rateCnt := 0, rateWin := s.chip.tb / 1000000 } ∧ KeepsWork s.chip t ∧
      OnlyRegs [fpReg p 0x20] s.chip t) := by
  refine leaves_of_onUnit (f := fun c => xEncRateWindow c p) rfl (isPort_of_portOk ho) ?_
  show _ ∧ _ ∧ _ ∧ _
  have hx : xEncRateWindow s.chip p = updPort (regPut s.chip (fpReg p 0x20) (portOf s.chip p).rateCnt) p
      (fun r => { r with rateCnt := 0, rateWin := s.chip.tb / 1000000 }) := if_pos (by simp [ho, hm, hw])
  rw [hx]
  refine ⟨(regVal_updPort _ _ _ _).trans (regVal_regPut_same _ _ _), ?_, ⟨rfl, rfl, rfl⟩,
    keepsRegs_trans (keepsRegs_regPut _ _ (by simp)) (keepsRegs_of_regs rfl)⟩
  rw [portOf_updPort_same]
  rfl

/-! ### SSI sensors (R445) -/

theorem ssiFrameStart_starts (hi : isSsi s.chip p = true) (he : enabled s.chip p = true) (hb : (portOf s.chip p).ssiBusy = false)
    (hf : (portOf s.chip p).ssiFree ≤ s.chip.tb) (w : Word) : leaves (.ssiFrameStart p w) s (fun t =>
      (portOf t p).ssiBusy = true ∧ t.out = s.chip.out ++ (if driving s.chip p then [.ssi p] else []) ∧
      regVal t (fpReg p 0x1C) = wd s.chip.tb ∧ KeepsWork s.chip t ∧ OnlyRegs [fpReg p 0x1C] s.chip t) := by
  obtain ⟨hm, hsub⟩ := mode_of_isSsi hi
  refine leaves_of_onUnit (f := fun c => xSsiFrameStart c p w) rfl (isPort_of_portOk ho) ?_
  show _ ∧ _ ∧ _ ∧ _ ∧ _
  rw [xSsiFrameStart, if_pos (by simp [ho, hi]), fpWrite_out (by simp [hm]) (ready_of_enabled he) (by simp [outRefused, he]),
    outApply, if_neg (by simp [hm]), if_neg (by simp [hm]), if_pos ⟨hm, hsub⟩, ssiStart,
    if_neg (by simp [hb]; omega)]
  have hport : portOf (updPort (regPut s.chip (fpReg p 0x1C) (wd s.chip.tb)) p (fun r => { r with ssiBusy := true })) p =
      { portOf s.chip p with ssiBusy := true } := portOf_updPort_same _ _ _
  have hctl : regVal (updPort (regPut s.chip (fpReg p 0x1C) (wd s.chip.tb)) p (fun r => { r with ssiBusy := true })) (fpReg p 0) =
      regVal s.chip (fpReg p 0) := (regVal_updPort _ _ _ _).trans (regVal_regPut_other _ _ (fpReg_apart p (by decide)))
  have hstamp : regVal (updPort (regPut s.chip (fpReg p 0x1C) (wd s.chip.tb)) p (fun r => { r with ssiBusy := true })) (fpReg p 0x1C) =
      wd s.chip.tb := (regVal_updPort _ _ _ _).trans (regVal_regPut_same _ _ _)
  have hregs : OnlyRegs [fpReg p 0x1C] s.chip
      (updPort (regPut s.chip (fpReg p 0x1C) (wd s.chip.tb)) p (fun r => { r with ssiBusy := true })) :=
    keepsRegs_trans (keepsRegs_regPut _ _ (by simp)) (keepsRegs_of_regs rfl)
  have hwork : KeepsWork s.chip (updPort (regPut s.chip (fpReg p 0x1C) (wd s.chip.tb)) p (fun r => { r with ssiBusy := true })) :=
    ⟨rfl, rfl, rfl⟩
  have hout : (updPort (regPut s.chip (fpReg p 0x1C) (wd s.chip.tb)) p (fun r => { r with ssiBusy := true })).out = s.chip.out := rfl
  generalize updPort (regPut s.chip (fpReg p 0x1C) (wd s.chip.tb)) p (fun r => { r with ssiBusy := true }) = e
    at hport hctl hstamp hregs hwork hout
  have hdrive : driving e p = driving s.chip p := driving_congr (by simp only [enabled, hport, hctl]) (by rw [hport]) (by rw [hport])
    (by rw [hport]) (by rw [hport]) (by rw [hport])
  dsimp only
  rw [hdrive]
  split
  · exact ⟨by rw [portOf_emit, hport], by rw [← hout]; rfl, hstamp, keepsWork_trans hwork ⟨rfl, rfl, rfl⟩,
      keepsRegs_trans hregs (keepsRegs_of_regs rfl)⟩
  · exact ⟨by rw [hport], by rw [hout, List.append_nil], hstamp, hwork, hregs⟩

theorem ssiFrameStart_refused (hi : isSsi s.chip p = true) (he : enabled s.chip p = false) (w : Word) :
    leaves (.ssiFrameStart p w) s (fun t => (portOf t p).ssiBusy = (portOf s.chip p).ssiBusy ∧ t.out = s.chip.out ∧
      bit (regVal t (fpReg p 0x14)) 10 = true ∧ KeepsWork s.chip t) := by
  obtain ⟨hm, hsub⟩ := mode_of_isSsi hi
  obtain ⟨hbit, hport, hout, hwork, _⟩ := fpRefuse_refused s.chip p
  refine leaves_of_onUnit (f := fun c => xSsiFrameStart c p w) rfl (isPort_of_portOk ho) ?_
  show _ ∧ _ ∧ _ ∧ _
  rw [xSsiFrameStart, if_pos (by simp [ho, hi]), fpWrite_refused (by simp [outRefused, hm, hsub, he])]
  exact ⟨by rw [hport], hout, hbit, hwork⟩

/-! ### Step drives (R453, R455) -/

theorem stepTargetWrite_moves (hm : (portOf s.chip p).mode = 4) (he : enabled s.chip p = true) {w : Word}
    (hw : w ≠ regVal s.chip (fpReg p 0x18)) : leaves (.stepTargetWrite p w) s (fun t =>
      regVal t (fpReg p 0x28) = w ∧ regVal t (fpReg p 0x1C) = w - regVal s.chip (fpReg p 0x18) ∧ (portOf t p).moving = true ∧
      bit (regVal t (fpReg p 0x24)) 0 = true ∧ regVal t (fpReg p 0x18) = regVal s.chip (fpReg p 0x18) ∧ KeepsWork s.chip t) := by
  have hne : (sgn (w - regVal s.chip (fpReg p 0x18))).natAbs ≠ 0 := by
    intro h
    refine hw (sub_eq_zero.mp ?_)
    exact BitVec.eq_of_toInt_eq (Int.natAbs_eq_zero.mp h)
  have hput : ∀ e : Chip, e = regPut (regPut s.chip (fpReg p 0x28) w) (fpReg p 0x1C) (w - regVal s.chip (fpReg p 0x18)) →
      regVal e (fpReg p 0x28) = w ∧ regVal e (fpReg p 0x1C) = w - regVal s.chip (fpReg p 0x18) ∧
      regVal e (fpReg p 0x18) = regVal s.chip (fpReg p 0x18) ∧ KeepsWork s.chip e := by
    rintro e rfl
    exact ⟨by rw [regVal_regPut_other _ _ (fpReg_apart p (by decide)), regVal_regPut_same], regVal_regPut_same _ _ _,
      by rw [regVal_regPut_other _ _ (fpReg_apart p (by decide)), regVal_regPut_other _ _ (fpReg_apart p (by decide))], ⟨rfl, rfl, rfl⟩⟩
  refine leaves_of_onUnit (f := fun c => xStepTargetWrite c p w) rfl (isPort_of_portOk ho) ?_
  show _ ∧ _ ∧ _ ∧ _ ∧ _ ∧ _
  rw [xStepTargetWrite, if_pos (by simp [ho, hm]), fpWrite_out (by simp [hm]) (ready_of_enabled he) (by simp [outRefused, he]),
    outApply, if_neg (by simp [hm]), if_pos hm]
  unfold stepTarget
  dsimp only
  obtain ⟨h28, h1C, h18, hwork⟩ := hput _ rfl
  rw [if_neg hne]
  generalize regPut (regPut s.chip (fpReg p 0x28) w) (fpReg p 0x1C) (w - regVal s.chip (fpReg p 0x18)) = e at h28 h1C h18 hwork
  have hmoving : (portOf (updPort (regOr e (fpReg p 0x24) 1) p (fun r => { r with moving := true })) p).moving = true := by
    rw [portOf_updPort_same]
  have hbit : bit (regVal (updPort (regOr e (fpReg p 0x24) 1) p (fun r => { r with moving := true })) (fpReg p 0x24)) 0 = true := by
    rw [regVal_updPort, bit_regOr _ _ _ (by decide)]
    exact Bool.or_true _
  have hreg : KeepsRegs (· = fpReg p 0x24) e (updPort (regOr e (fpReg p 0x24) 1) p (fun r => { r with moving := true })) :=
    keepsRegs_trans (d := regOr e (fpReg p 0x24) 1) (keepsRegs_regUpd _ _ rfl) (keepsRegs_of_regs rfl)
  have hwork' : KeepsWork e (updPort (regOr e (fpReg p 0x24) 1) p (fun r => { r with moving := true })) := ⟨rfl, rfl, rfl⟩
  generalize updPort (regOr e (fpReg p 0x24) 1) p (fun r => { r with moving := true }) = u at hmoving hbit hreg hwork'
  split
  · have hev {o : Nat} (h24 : o ≠ 0x24) (h14 : o ≠ 0x14) : regVal (fpEv (regOr u (fpReg p 0x24) 4) p 4) (fpReg p o) = regVal e (fpReg p o) := by
      rw [fpEv, regOr, regVal_regUpd_other _ _ (fpReg_apart p h14), regOr, regVal_regUpd_other _ _ (fpReg_apart p h24),
        hreg _ (fpReg_apart p h24)]
    refine ⟨(hev (by decide) (by decide)).trans h28, (hev (by decide) (by decide)).trans h1C, hmoving, ?_,
      (hev (by decide) (by decide)).trans h18, keepsWork_trans hwork (keepsWork_trans hwork' ⟨rfl, rfl, rfl⟩)⟩
    rw [fpEv, regOr, regVal_regUpd_other _ _ (fpReg_apart p (by decide)), bit_regOr _ _ _ (by decide), hbit]
    rfl
  · have hev {o : Nat} (h24 : o ≠ 0x24) : regVal (regClr u (fpReg p 0x24) 4) (fpReg p o) = regVal e (fpReg p o) := by
      rw [regClr, regVal_regUpd_other _ _ (fpReg_apart p h24), hreg _ (fpReg_apart p h24)]
    refine ⟨(hev (by decide)).trans h28, (hev (by decide)).trans h1C, hmoving, ?_,
      (hev (by decide)).trans h18, keepsWork_trans hwork (keepsWork_trans hwork' ⟨rfl, rfl, rfl⟩)⟩
    rw [bit_regClr _ _ _ (by decide), hbit]
    rfl

theorem stepTargetWrite_refused (hm : (portOf s.chip p).mode = 4) (he : enabled s.chip p = false) (w : Word) :
    leaves (.stepTargetWrite p w) s (fun t =>
      regVal t (fpReg p 0x28) = regVal s.chip (fpReg p 0x28) ∧ regVal t (fpReg p 0x1C) = regVal s.chip (fpReg p 0x1C) ∧
      portOf t p = portOf s.chip p ∧ bit (regVal t (fpReg p 0x14)) 10 = true ∧ KeepsWork s.chip t) := by
  obtain ⟨hbit, hport, _, hwork, hregs⟩ := fpRefuse_refused s.chip p
  refine leaves_of_onUnit (f := fun c => xStepTargetWrite c p w) rfl (isPort_of_portOk ho) ?_
  show _ ∧ _ ∧ _ ∧ _ ∧ _
  rw [xStepTargetWrite, if_pos (by simp [ho, hm]), fpWrite_refused (by simp [outRefused, hm, he])]
  exact ⟨hregs _ (by simp [fpReg]), hregs _ (by simp [fpReg]), hport, hbit, hwork⟩

theorem stepStop_stops (hm : (portOf s.chip p).mode = 4) (hr : (portOf s.chip p).ready = true) (w : Word) :
    leaves (.stepStop p w) s (fun t =>
      regVal t (fpReg p 0x18) = w ∧ regVal t (fpReg p 0x28) = w ∧ regVal t (fpReg p 0x1C) = 0 ∧ (portOf t p).moving = false ∧
      bit (regVal t (fpReg p 0x24)) 0 = false ∧ KeepsWork s.chip t) := by
  refine leaves_of_onUnit (f := fun c => xStepStop c p w) rfl (isPort_of_portOk ho) ?_
  show _ ∧ _ ∧ _ ∧ _ ∧ _ ∧ _
  rw [xStepStop, if_pos (by simp [ho, hm]), fpWrite_data0 (by simp [hm]) hr, data0Apply, if_neg (by simp [hm]), if_pos hm]
  have hev {o : Nat} (h24 : o ≠ 0x24) (e : Chip) (f : Port → Port) : regVal (regClr (updPort e p f) (fpReg p 0x24) 1) (fpReg p o) =
      regVal e (fpReg p o) := by
    rw [regClr, regVal_regUpd_other _ _ (fpReg_apart p h24), regVal_updPort]
  refine ⟨?_, ?_, ?_, ?_, ?_, ⟨rfl, rfl, rfl⟩⟩
  · rw [hev (by decide), regVal_regPut_other _ _ (fpReg_apart p (by decide)), regVal_regPut_other _ _ (fpReg_apart p (by decide)),
      regVal_regPut_same]
  · rw [hev (by decide), regVal_regPut_other _ _ (fpReg_apart p (by decide)), regVal_regPut_same]
  · rw [hev (by decide), regVal_regPut_same]
  · rw [portOf_regClr, portOf_updPort_same]
  · rw [bit_regClr _ _ _ (by decide)]
    exact Bool.and_false _

end

end Sys2Proof.Machine
end

section
/-! PROOFS. Field ports (O46): step pulses, captures, serial characters, readiness and drives. -/

namespace Sys2Proof.Machine

open Sys2Proof Sys2Proof.Safety

variable {c : Chip} {s : State} {p : Nat}

/-! ### Step pulses (R455) -/

/-- The position after the next pulse. -/
def pulsePos (c : Chip) (p : Nat) : Word :=
  if decide (0 < sgn (regVal c (fpReg p 0x1C))) = true then regVal c (fpReg p 0x18) + 1 else regVal c (fpReg p 0x18) - 1

/-- The registers of a step drive after a pulse. -/
def pulsed (c : Chip) (p : Nat) : Chip :=
  regSetFld (regPut (regPut (regPut c (fpReg p 0x18) (pulsePos c p)) (fpReg p 0x1C) (regVal c (fpReg p 0x28) - pulsePos c p))
    (fpReg p 0x20) (wd c.tb)) (fpReg p 0x24) 1 1 (b1 (decide (0 < sgn (regVal c (fpReg p 0x1C)))))

/-- A step drive that has reached its target stops. -/
def pulseEnded (c : Chip) (p : Nat) (left : Word) : Chip :=
  if left = 0 then fpEv (regClr (updPort c p (fun r => { r with moving := false })) (fpReg p 0x24) 1) p 1 else c

theorem xStepPulse_eq (ho : portOk c p = true) (hm : (portOf c p).mode = 4) (hv : (portOf c p).moving = true)
    (he : enabled c p = true) : xStepPulse c p =
      pulseEnded (if driving (pulsed c p) p then emit (pulsed c p) (.step p (decide (0 < sgn (regVal c (fpReg p 0x1C))))) else pulsed c p)
        p (regVal c (fpReg p 0x28) - pulsePos c p) :=
  if_pos (by simp [ho, hm, hv, he])

theorem pulsed_regs (c : Chip) (p : Nat) : regVal (pulsed c p) (fpReg p 0x18) = pulsePos c p ∧
    regVal (pulsed c p) (fpReg p 0x1C) = regVal c (fpReg p 0x28) - pulsePos c p ∧
    regVal (pulsed c p) (fpReg p 0x28) = regVal c (fpReg p 0x28) ∧ regVal (pulsed c p) (fpReg p 0) = regVal c (fpReg p 0) := by
  unfold pulsed regSetFld
  refine ⟨?_, ?_, ?_, ?_⟩
  · rw [regVal_regUpd_other _ _ (fpReg_apart p (by decide)), regVal_regPut_other _ _ (fpReg_apart p (by decide)),
      regVal_regPut_other _ _ (fpReg_apart p (by decide)), regVal_regPut_same]
  · rw [regVal_regUpd_other _ _ (fpReg_apart p (by decide)), regVal_regPut_other _ _ (fpReg_apart p (by decide)), regVal_regPut_same]
  · rw [regVal_regUpd_other _ _ (fpReg_apart p (by decide)), regVal_regPut_other _ _ (fpReg_apart p (by decide)),
      regVal_regPut_other _ _ (fpReg_apart p (by decide)), regVal_regPut_other _ _ (fpReg_apart p (by decide))]
  · rw [regVal_regUpd_other _ _ (fpReg_apart p (by decide)), regVal_regPut_other _ _ (fpReg_apart p (by decide)),
      regVal_regPut_other _ _ (fpReg_apart p (by decide)), regVal_regPut_other _ _ (fpReg_apart p (by decide))]

theorem portOf_pulsed (c : Chip) (p : Nat) : portOf (pulsed c p) p = portOf c p := by
  rw [pulsed, portOf_regSetFld, portOf_regPut, portOf_regPut, portOf_regPut]

theorem pulsed_out (c : Chip) (p : Nat) : (pulsed c p).out = c.out := by
  rw [pulsed, regSetFld_out, regPut_out, regPut_out, regPut_out]

theorem keepsWork_pulsed (c : Chip) (p : Nat) : KeepsWork c (pulsed c p) := ⟨rfl, rfl, rfl⟩

theorem driving_pulsed (c : Chip) (p : Nat) : driving (pulsed c p) p = driving c p := by
  obtain ⟨_, _, _, hctl⟩ := pulsed_regs c p
  have hp := portOf_pulsed c p
  exact driving_congr (by simp only [enabled, hp, hctl]) (by rw [hp]) (by rw [hp]) (by rw [hp]) (by rw [hp]) (by rw [hp])

/-- What a stop at the target leaves: the registers of the move stand, and nothing moves where nothing is left. -/
theorem pulseEnded_rest (e : Chip) (p : Nat) (left : Word) : (portOf (pulseEnded e p left) p).moving =
      (if left = 0 then false else (portOf e p).moving) ∧ (pulseEnded e p left).out = e.out ∧ KeepsWork e (pulseEnded e p left) ∧
    KeepsRegs (fun a => a = fpReg p 0x24 ∨ a = fpReg p 0x14) e (pulseEnded e p left) := by
  unfold pulseEnded
  split
  · refine ⟨?_, rfl, ⟨rfl, rfl, rfl⟩, ?_⟩
    · rw [fpEv, portOf_regOr, portOf_regClr, portOf_updPort_same]
    · exact keepsRegs_trans (d := updPort e p _) (keepsRegs_of_regs rfl)
        (keepsRegs_trans (keepsRegs_regUpd _ _ (.inl rfl)) (keepsRegs_regUpd _ _ (.inr rfl)))
  · exact ⟨rfl, rfl, keepsWork_refl e, keepsRegs_refl e⟩

theorem stepPulse_steps (ho : portOk s.chip p = true) (hm : (portOf s.chip p).mode = 4) (he : enabled s.chip p = true)
    (hv : (portOf s.chip p).moving = true) : leaves (.stepPulse p) s (fun t =>
      let pos := if 0 < sgn (regVal s.chip (fpReg p 0x1C)) then regVal s.chip (fpReg p 0x18) + 1 else regVal s.chip (fpReg p 0x18) - 1
      regVal t (fpReg p 0x18) = pos ∧ regVal t (fpReg p 0x1C) = regVal s.chip (fpReg p 0x28) - pos ∧
      regVal t (fpReg p 0x28) = regVal s.chip (fpReg p 0x28) ∧
      t.out = s.chip.out ++ (if driving s.chip p then [.step p (decide (0 < sgn (regVal s.chip (fpReg p 0x1C))))] else []) ∧
      (portOf t p).moving = decide (regVal s.chip (fpReg p 0x28) ≠ pos) ∧ KeepsWork s.chip t) := by
  have hpos : (if 0 < sgn (regVal s.chip (fpReg p 0x1C)) then regVal s.chip (fpReg p 0x18) + 1 else regVal s.chip (fpReg p 0x18) - 1) =
      pulsePos s.chip p := by
    unfold pulsePos
    by_cases h : 0 < sgn (regVal s.chip (fpReg p 0x1C))
    · rw [if_pos h, if_pos (by simpa using h)]
    · rw [if_neg h, if_neg (by simpa using h)]
  refine leaves_of_onUnit (f := fun c => xStepPulse c p) rfl (isPort_of_portOk ho) ?_
  dsimp only
  rw [hpos, xStepPulse_eq ho hm hv he, driving_pulsed]
  obtain ⟨h18, h1C, h28, _⟩ := pulsed_regs s.chip p
  have hport := portOf_pulsed s.chip p
  have hout := pulsed_out s.chip p
  have hwork := keepsWork_pulsed s.chip p
  generalize pulsed s.chip p = e at h18 h1C h28 hport hout hwork
  generalize hk : (Output.step p (decide (0 < sgn (regVal s.chip (fpReg p 0x1C))))) = o
  have hemit : (if driving s.chip p then emit e o else e).out = s.chip.out ++ (if driving s.chip p then [o] else []) ∧
      portOf (if driving s.chip p then emit e o else e) p = portOf s.chip p ∧
      (if driving s.chip p then emit e o else e).regs = e.regs ∧ KeepsWork e (if driving s.chip p then emit e o else e) := by
    split
    · exact ⟨by rw [← hout]; rfl, by rw [portOf_emit, hport], rfl, ⟨rfl, rfl, rfl⟩⟩
    · exact ⟨by rw [hout, List.append_nil], hport, rfl, keepsWork_refl e⟩
  obtain ⟨hout', hport', hregs', hwork'⟩ := hemit
  generalize (if driving s.chip p then emit e o else e) = u at hout' hport' hregs' hwork'
  obtain ⟨hmove, hkeepout, hkeepwork, hkeepregs⟩ := pulseEnded_rest u p (regVal s.chip (fpReg p 0x28) - pulsePos s.chip p)
  have hreg {o : Nat} (h24 : o ≠ 0x24) (h14 : o ≠ 0x14) :
      regVal (pulseEnded u p (regVal s.chip (fpReg p 0x28) - pulsePos s.chip p)) (fpReg p o) = regVal e (fpReg p o) := by
    rw [hkeepregs _ (by simp [fpReg_apart p h24, fpReg_apart p h14]), regVal_of_regs hregs']
  refine ⟨(hreg (by decide) (by decide)).trans h18, (hreg (by decide) (by decide)).trans h1C, (hreg (by decide) (by decide)).trans h28,
    hkeepout.trans hout', ?_, keepsWork_trans hwork (keepsWork_trans hwork' hkeepwork)⟩
  rw [hmove, hport', hv]
  by_cases h : regVal s.chip (fpReg p 0x28) = pulsePos s.chip p
  · rw [if_pos (by rw [h, BitVec.sub_self]; rfl), decide_eq_false (by simpa using h)]
  · rw [if_neg (fun h' => h (sub_eq_zero.mp h')), decide_eq_true h]

/-! ### Readiness and levels (R433, R435) -/

theorem portReady_ready (ho : portOk s.chip p = true) (hr : (portOf s.chip p).ready = false) (hm : (portOf s.chip p).mode ≠ 1)
    (hf : p ∉ s.chip.flushing) (hh : (portOf s.chip p).held = []) : leaves (.portReady p) s (fun t =>
      t = updPort s.chip p (fun r => { r with ready := true, held := [], settleA := false, settleB := false })) := by
  refine leaves_of_onUnit (f := fun c => xPortReady c p) rfl (isPort_of_portOk ho) ?_
  have hx : xPortReady s.chip p = setReady s.chip p := if_pos (by simp [ho, hr, hm, hf])
  show xPortReady s.chip p = _
  rw [hx, setReady, hh]
  rfl

/-- A port whose levels have settled. -/
def settled (c : Chip) (p : Nat) : Chip := updPort c p (fun r => { r with settleA := false, settleB := false })

theorem portOf_settled (c : Chip) (p : Nat) : portOf (settled c p) p = { portOf c p with settleA := false, settleB := false } :=
  portOf_updPort_same _ _ _

theorem linkStart_otherMode (h : (portOf c p).mode ≠ 1) : linkStart c p = c := if_neg fun h' => h h'.1

theorem xPortLevelChange_settles (ho : portOk c p = true) (hr : (portOf c p).ready = true)
    (hs : ((portOf c p).settleA || (portOf c p).settleB) = true) :
    xPortLevelChange c p = if driving (settled c p) p then linkStart (settled c p) p else settled c p :=
  if_pos (by rw [ho, hr, hs]; rfl)

theorem portLevelChange_settles (ho : portOk s.chip p = true) (hr : (portOf s.chip p).ready = true)
    (hs : ((portOf s.chip p).settleA || (portOf s.chip p).settleB) = true) (hm : (portOf s.chip p).mode ≠ 1) :
    leaves (.portLevelChange p) s (fun t => t = settled s.chip p) := by
  refine leaves_of_onUnit (f := fun c => xPortLevelChange c p) rfl (isPort_of_portOk ho) ?_
  show xPortLevelChange s.chip p = _
  rw [xPortLevelChange_settles ho hr hs, linkStart_otherMode (by rw [portOf_settled]; exact hm)]
  exact ite_self _

theorem portLevelChange_starts (ho : portOk s.chip p = true) (hr : (portOf s.chip p).ready = true)
    (hs : ((portOf s.chip p).settleA || (portOf s.chip p).settleB) = true) (hm : (portOf s.chip p).mode = 1)
    (hl : (linkOf s.chip p).lstate = 0) (he : enabled s.chip p = true) : leaves (.portLevelChange p) s (fun t =>
      (portOf t p).settleA = false ∧ (portOf t p).settleB = false ∧
      (linkOf t p).lstate = (if (linkOf s.chip p).locked then 1 else 0) ∧ KeepsWork s.chip t ∧ OnlyRegs [] s.chip t) := by
  have hp := portOf_settled s.chip p
  have hen : enabled (settled s.chip p) p = true := by
    rw [← he]
    simp only [enabled, hp]
    rfl
  have hdrive : driving (settled s.chip p) p = true := by
    simp only [driving, canDrive, isHalf, hen, hp, hm]
    rfl
  have hlink : linkOf (settled s.chip p) p = linkOf s.chip p := rfl
  have hwork : KeepsWork s.chip (settled s.chip p) := ⟨rfl, rfl, rfl⟩
  have hregs : (settled s.chip p).regs = s.chip.regs := rfl
  refine leaves_of_onUnit (f := fun c => xPortLevelChange c p) rfl (isPort_of_portOk ho) ?_
  show _ ∧ _ ∧ _ ∧ _ ∧ _
  rw [xPortLevelChange_settles ho hr hs, if_pos hdrive]
  generalize settled s.chip p = e at hp hlink hwork hregs
  unfold linkStart
  dsimp only
  rw [hlink, hp]
  split
  next h =>
    refine ⟨?_, ?_, ?_, keepsWork_trans hwork ⟨rfl, rfl, rfl⟩, onlyRegs_of_regs hregs⟩
    · rw [portOf_updLink, hp]
    · rw [portOf_updLink, hp]
    · rw [linkOf_updLink_same, if_pos h.2.1]
  next h =>
    refine ⟨by rw [hp], by rw [hp], ?_, hwork, onlyRegs_of_regs hregs⟩
    rw [hlink, hl, if_neg fun hk => h ⟨hm, hk, hl⟩]

end Sys2Proof.Machine
end

section
/-! PROOFS. Field ports (O46): drives enabled, captures and serial characters. -/

namespace Sys2Proof.Machine

open Sys2Proof Sys2Proof.Safety

variable {c : Chip} {s : State} {p : Nat}

/-! ### DRVEN (R433) -/

/-- A control word of the port's own mode, with the drive as it stood. -/
def ctlHeld (c : Chip) (p : Nat) (w : Word) : Chip :=
  let c := if ctlStored w = w &&& 0x3FF then c else fpCfgErr c p
  let old := regVal c (fpReg p 0x00)
  regPut (settle c p old (ctlStored w)) (fpReg p 0x00) (setBits (ctlStored w) 9 9 (bits old 9 9))

/-- The drive enabled or disabled. -/
def driveSet (c : Chip) (p : Nat) (on : Bool) : Chip :=
  if on then (if c.sys.psupLim ∨ c.dev = .faulted then c else regOr (updPort c p (fun r => { r with ilim := false })) (fpReg p 0x00) 0x200)
  else regClr c (fpReg p 0x00) 0x200

/-- A port follows its drive. -/
def driveTaken (c : Chip) (p : Nat) : Chip := if driving c p then linkStart c p else if enabled c p then c else drivesOff c p

theorem ctlWrite_sameMode {w : Word} (h : reconfigures c p w = false) :
    ctlWrite c p w = driveTaken (driveSet (ctlHeld c p w) p (bit (ctlStored w) 9)) p := by
  have h0 : regVal (if ctlStored w = w &&& 0x3FF then c else fpCfgErr c p) (fpReg p 0x00) = regVal c (fpReg p 0x00) := by
    split
    · rfl
    · exact regVal_regUpd_other _ _ (fpReg_apart p (by decide))
  have hrec : reconfigures (if ctlStored w = w &&& 0x3FF then c else fpCfgErr c p) p w = false := by
    rw [← h, reconfigures, regFld, h0]
    rfl
  exact if_neg (by rw [hrec]; decide)

/-- What the control word leaves before the drive: the drive and the limit as they stood. -/
theorem ctlHeld_rest (c : Chip) (p : Nat) (w : Word) : bit (regVal (ctlHeld c p w) (fpReg p 0)) 9 = bit (regVal c (fpReg p 0)) 9 ∧
    (portOf (ctlHeld c p w) p).ilim = (portOf c p).ilim ∧ (portOf (ctlHeld c p w) p).mode = (portOf c p).mode ∧
    (ctlHeld c p w).sys = c.sys ∧ (ctlHeld c p w).dev = c.dev ∧ KeepsWork c (ctlHeld c p w) := by
  have hpre : regVal (if ctlStored w = w &&& 0x3FF then c else fpCfgErr c p) (fpReg p 0x00) = regVal c (fpReg p 0x00) ∧
      portOf (if ctlStored w = w &&& 0x3FF then c else fpCfgErr c p) p = portOf c p ∧
      (if ctlStored w = w &&& 0x3FF then c else fpCfgErr c p).sys = c.sys ∧
      (if ctlStored w = w &&& 0x3FF then c else fpCfgErr c p).dev = c.dev ∧
      KeepsWork c (if ctlStored w = w &&& 0x3FF then c else fpCfgErr c p) := by
    split
    · exact ⟨rfl, rfl, rfl, rfl, keepsWork_refl c⟩
    · exact ⟨regVal_regUpd_other _ _ (fpReg_apart p (by decide)), rfl, rfl, rfl, ⟨rfl, rfl, rfl⟩⟩
  unfold ctlHeld
  dsimp only
  generalize (if ctlStored w = w &&& 0x3FF then c else fpCfgErr c p) = e at hpre
  obtain ⟨h0, hport, hsys, hdev, hwork⟩ := hpre
  refine ⟨?_, ?_, ?_, hsys, hdev, keepsWork_trans hwork ⟨rfl, rfl, rfl⟩⟩
  · rw [regVal_regPut_same, h0, bit_setBits _ _ _ (by decide) (by decide)]
    simp [bits, bit]
  · rw [portOf_regPut, settle, portOf_updPort_same, hport]
  · rw [portOf_regPut, settle, portOf_updPort_same, hport]

/-- In a mode other than LINK the drive register, the limit and the work stand as the drive is taken. -/
theorem driveTaken_rest (hm : (portOf c p).mode ≠ 1) : regVal (driveTaken c p) (fpReg p 0) = regVal c (fpReg p 0) ∧
    (portOf (driveTaken c p) p).ilim = (portOf c p).ilim ∧ KeepsWork c (driveTaken c p) := by
  unfold driveTaken
  rw [linkStart_otherMode hm]
  split
  · exact ⟨rfl, rfl, keepsWork_refl c⟩
  split
  · exact ⟨rfl, rfl, keepsWork_refl c⟩
  unfold drivesOff
  split
  · refine ⟨?_, ?_, ⟨rfl, rfl, rfl⟩⟩
    · dsimp only
      rw [regClr, regVal_regUpd_other _ _ (fpReg_apart p (by decide)), regVal_regPut_other _ _ (fpReg_apart p (by decide)),
        regVal_regPut_other _ _ (fpReg_apart p (by decide)), regVal_updPort]
    · dsimp only
      rw [portOf_regClr, portOf_regPut, portOf_regPut, portOf_updPort_same]
  · exact ⟨rfl, rfl, keepsWork_refl c⟩

theorem xPortDriveEnable_writes {w : Word} (ho : portOk c p = true) (h : reconfigures c p w = false) :
    xPortDriveEnable c p w = driveTaken (driveSet (ctlHeld c p w) p (bit (ctlStored w) 9)) p := by
  rw [← ctlWrite_sameMode h]
  exact if_pos (by rw [ho, h]; rfl)

section
variable {w : Word} (ho : portOk s.chip p = true) (h : reconfigures s.chip p w = false) (hm : (portOf s.chip p).mode ≠ 1)
include ho h hm

theorem portDriveEnable_drives (hb : bit (ctlStored w) 9 = true) (hl : s.chip.sys.psupLim = false) (hd : s.chip.dev ≠ .faulted) :
    leaves (.portDriveEnable p w) s (fun t =>
      bit (regVal t (fpReg p 0)) 9 = true ∧ (portOf t p).ilim = false ∧ KeepsWork s.chip t) := by
  refine leaves_of_onUnit (f := fun c => xPortDriveEnable c p w) rfl (isPort_of_portOk ho) ?_
  obtain ⟨_, _, hmode, hsys, hdev, hwork⟩ := ctlHeld_rest s.chip p w
  show _ ∧ _ ∧ _
  rw [xPortDriveEnable_writes ho h, hb]
  generalize ctlHeld s.chip p w = e at hmode hsys hdev hwork
  rw [driveSet, if_pos rfl, if_neg (by simp [hsys, hl, hdev, hd])]
  obtain ⟨hreg, hilim, hkeep⟩ := driveTaken_rest (c := regOr (updPort e p (fun r => { r with ilim := false })) (fpReg p 0x00) 0x200) (p := p)
    (by rw [portOf_regOr, portOf_updPort_same]; exact hmode ▸ hm)
  refine ⟨?_, ?_, keepsWork_trans hwork (keepsWork_trans (d := regOr (updPort e p (fun r => { r with ilim := false })) (fpReg p 0x00) 0x200)
    ⟨rfl, rfl, rfl⟩ hkeep)⟩
  · rw [hreg, bit_regOr _ _ _ (by decide), show Nat.testBit 0x200 9 = true from rfl, Bool.or_true]
  · rw [hilim, portOf_regOr, portOf_updPort_same]

theorem portDriveEnable_limited (hb : bit (ctlStored w) 9 = true) (hl : s.chip.sys.psupLim = true) :
    leaves (.portDriveEnable p w) s (fun t =>
      bit (regVal t (fpReg p 0)) 9 = bit (regVal s.chip (fpReg p 0)) 9 ∧ (portOf t p).ilim = (portOf s.chip p).ilim ∧ KeepsWork s.chip t) := by
  refine leaves_of_onUnit (f := fun c => xPortDriveEnable c p w) rfl (isPort_of_portOk ho) ?_
  obtain ⟨hbit, hil, hmode, hsys, _, hwork⟩ := ctlHeld_rest s.chip p w
  show _ ∧ _ ∧ _
  rw [xPortDriveEnable_writes ho h, hb]
  generalize ctlHeld s.chip p w = e at hbit hil hmode hsys hwork
  rw [driveSet, if_pos rfl, if_pos (by simp [hsys, hl])]
  obtain ⟨hreg, hilim, hkeep⟩ := driveTaken_rest (c := e) (p := p) (hmode ▸ hm)
  exact ⟨by rw [hreg, hbit], by rw [hilim, hil], keepsWork_trans hwork hkeep⟩

theorem portDriveEnable_disables (hb : bit (ctlStored w) 9 = false) : leaves (.portDriveEnable p w) s (fun t =>
    bit (regVal t (fpReg p 0)) 9 = false ∧ KeepsWork s.chip t) := by
  refine leaves_of_onUnit (f := fun c => xPortDriveEnable c p w) rfl (isPort_of_portOk ho) ?_
  obtain ⟨_, _, hmode, _, _, hwork⟩ := ctlHeld_rest s.chip p w
  show _ ∧ _
  rw [xPortDriveEnable_writes ho h, hb]
  generalize ctlHeld s.chip p w = e at hmode hwork
  rw [driveSet, if_neg (by decide)]
  obtain ⟨hreg, _, hkeep⟩ := driveTaken_rest (c := regClr e (fpReg p 0x00) 0x200) (p := p) (by rw [portOf_regClr]; exact hmode ▸ hm)
  refine ⟨?_, keepsWork_trans hwork (keepsWork_trans (d := regClr e (fpReg p 0x00) 0x200) ⟨rfl, rfl, rfl⟩ hkeep)⟩
  rw [hreg, bit_regClr _ _ _ (by decide), show Nat.testBit 0x200 9 = true from rfl, Bool.not_true, Bool.and_false]

end

/-! ### Captures (R458) -/

/-- The level an edge leaves on its input. -/
def edgeSeen (c : Chip) (p : Nat) (pairB fall : Bool) : Chip :=
  updPort c p (fun r => if pairB then { r with rxb := !fall } else { r with rxa := !fall })

/-- The dead time of an input begins. -/
def deadBegun (c : Chip) (p : Nat) (pairB : Bool) (dead : Nat) : Chip :=
  updPort c p (fun r => if pairB then { r with deadB := dead } else { r with deadA := dead })

/-- The registers of a capture. -/
def captureTaken (c : Chip) (p : Nat) (pairB fall : Bool) (stamp : Nat) (pos : Word) : Chip :=
  regPut (regPut (regPut (regPut c (fpReg p 0x18) (wd stamp)) (fpReg p 0x1C) (wd (stamp / 2 ^ 32))) (fpReg p 0x20) pos) (fpReg p 0x24)
    (wd ((regFld c (fpReg p 0x24) 7 0 + 1) % 256 + 256 * b1 pairB + 512 * b1 fall))

theorem xCapture_eq {pairB fall : Bool} {stamp : Nat} (ho : portOk c p = true) (ht : stamp ≤ c.tb)
    (hc : captures c p pairB fall = true) : xCapture c p pairB fall stamp =
      if stamp < (if pairB then (portOf c p).deadB else (portOf c p).deadA) then fpSkip (edgeSeen c p pairB fall) p
      else
        let cfg := regVal c (fpReg p 0x08)
        let e := deadBegun (edgeSeen c p pairB fall) p pairB (stamp + Nat.max 100 (1000 * bits cfg 31 16))
        let pos := dronePos c (bits cfg 7 4)
        portAnnounce (captureTaken e p pairB fall stamp pos) p ⟨b1 pairB + 2 * b1 fall, [wd stamp, wd (stamp / 2 ^ 32), pos]⟩ := by
  have hgo : ¬ (!portOk c p || decide (c.tb < stamp)) = true := by simp [ho, ht]
  have hon : ¬ (!captures c p pairB fall) = true := by simp [hc]
  exact (if_neg hgo).trans (if_neg hon)

theorem edgeSeen_rx (c : Chip) (p : Nat) (pairB fall : Bool) :
    (if pairB then (portOf (edgeSeen c p pairB fall) p).rxb else (portOf (edgeSeen c p pairB fall) p).rxa) = !fall := by
  rw [edgeSeen, portOf_updPort_same]
  cases pairB <;> rfl

theorem deadBegun_rx (c : Chip) (p : Nat) (pairB : Bool) (dead : Nat) :
    (if pairB then (portOf (deadBegun c p pairB dead) p).rxb else (portOf (deadBegun c p pairB dead) p).rxa) =
      if pairB then (portOf c p).rxb else (portOf c p).rxa := by
  rw [deadBegun, portOf_updPort_same]
  cases pairB <;> rfl

section
variable {pairB fall : Bool} {stamp : Nat} (ho : portOk s.chip p = true) (hc : captures s.chip p pairB fall = true)
  (ht : stamp ≤ s.chip.tb)
include ho hc ht

theorem capture_takes (h0 : regVal s.chip (fpReg p 0x0C) = 0)
    (hd : (if pairB then (portOf s.chip p).deadB else (portOf s.chip p).deadA) ≤ stamp) :
    leaves (.capture p pairB fall stamp) s (fun t =>
      regVal t (fpReg p 0x18) = wd stamp ∧ regVal t (fpReg p 0x1C) = wd (stamp / 2 ^ 32) ∧
      regVal t (fpReg p 0x20) = dronePos s.chip (bits (regVal s.chip (fpReg p 8)) 7 4) ∧
      bit (regVal t (fpReg p 0x14)) 0 = true ∧ (if pairB then (portOf t p).rxb else (portOf t p).rxa) = !fall ∧ KeepsWork s.chip t) := by
  refine leaves_of_onUnit (f := fun c => xCapture c p pairB fall stamp) rfl (isPort_of_portOk ho) ?_
  show _ ∧ _ ∧ _ ∧ _ ∧ _ ∧ _
  rw [xCapture_eq ho ht hc, if_neg (by omega)]
  dsimp only
  generalize dronePos s.chip (bits (regVal s.chip (fpReg p 8)) 7 4) = pos
  generalize hk : stamp + Nat.max 100 (1000 * bits (regVal s.chip (fpReg p 8)) 31 16) = dead
  have hrx : (if pairB then (portOf (deadBegun (edgeSeen s.chip p pairB fall) p pairB dead) p).rxb
      else (portOf (deadBegun (edgeSeen s.chip p pairB fall) p pairB dead) p).rxa) = !fall := (deadBegun_rx _ _ _ _).trans (edgeSeen_rx _ _ _ _)
  have hregs : (deadBegun (edgeSeen s.chip p pairB fall) p pairB dead).regs = s.chip.regs := rfl
  have hwork : KeepsWork s.chip (deadBegun (edgeSeen s.chip p pairB fall) p pairB dead) := ⟨rfl, rfl, rfl⟩
  generalize deadBegun (edgeSeen s.chip p pairB fall) p pairB dead = e at hrx hregs hwork
  have hnone : regFld (captureTaken e p pairB fall stamp pos) (fpReg p 0x0C) 15 0 = 0 := by
    rw [regFld, captureTaken, regVal_regPut_other _ _ (fpReg_apart p (by decide)), regVal_regPut_other _ _ (fpReg_apart p (by decide)),
      regVal_regPut_other _ _ (fpReg_apart p (by decide)), regVal_regPut_other _ _ (fpReg_apart p (by decide)), regVal_of_regs hregs, h0]
    rfl
  have hev {o : Nat} (h : o ≠ 0x14) : regVal (fpEv (captureTaken e p pairB fall stamp pos) p 1) (fpReg p o) =
      regVal (captureTaken e p pairB fall stamp pos) (fpReg p o) := regVal_regUpd_other _ _ (fpReg_apart p h)
  have hport : portOf (fpEv (captureTaken e p pairB fall stamp pos) p 1) p = portOf e p := by
    rw [fpEv, portOf_regOr, captureTaken, portOf_regPut, portOf_regPut, portOf_regPut, portOf_regPut]
  rw [portAnnounce, if_pos hnone, hport]
  refine ⟨?_, ?_, ?_, ?_, hrx, keepsWork_trans hwork ⟨rfl, rfl, rfl⟩⟩
  · rw [hev (by decide), captureTaken, regVal_regPut_other _ _ (fpReg_apart p (by decide)),
      regVal_regPut_other _ _ (fpReg_apart p (by decide)), regVal_regPut_other _ _ (fpReg_apart p (by decide)), regVal_regPut_same]
  · rw [hev (by decide), captureTaken, regVal_regPut_other _ _ (fpReg_apart p (by decide)),
      regVal_regPut_other _ _ (fpReg_apart p (by decide)), regVal_regPut_same]
  · rw [hev (by decide), captureTaken, regVal_regPut_other _ _ (fpReg_apart p (by decide)), regVal_regPut_same]
  · rw [fpEv, bit_regOr _ _ _ (by decide), show Nat.testBit 1 0 = true from rfl, Bool.or_true]

theorem capture_skips (hd : stamp < (if pairB then (portOf s.chip p).deadB else (portOf s.chip p).deadA)) :
    leaves (.capture p pairB fall stamp) s (fun t =>
      regVal t (fpReg p 0x18) = regVal s.chip (fpReg p 0x18) ∧ regVal t (fpReg p 0x14) = regVal s.chip (fpReg p 0x14) ∧
      KeepsWork s.chip t ∧ OnlyRegs [fpReg p 0x2C] s.chip t) := by
  refine leaves_of_onUnit (f := fun c => xCapture c p pairB fall stamp) rfl (isPort_of_portOk ho) ?_
  show _ ∧ _ ∧ _ ∧ _
  rw [xCapture_eq ho ht hc, if_pos hd]
  have hregs : OnlyRegs [fpReg p 0x2C] s.chip (fpSkip (edgeSeen s.chip p pairB fall) p) :=
    keepsRegs_trans (d := edgeSeen s.chip p pairB fall) (keepsRegs_of_regs rfl) (keepsRegs_regUpd _ _ (by simp))
  exact ⟨hregs _ (by simp [fpReg]), hregs _ (by simp [fpReg]), ⟨rfl, rfl, rfl⟩, hregs⟩

end

/-! ### Serial characters (R459) -/

theorem portOk_of_serOk (h : serOk c p = true) : portOk c p = true := by
  simp only [serOk, Bool.and_eq_true] at h
  exact h.1.1.1

/-- A port that has heard a character. -/
def heard (c : Chip) (p : Nat) (b : Byte) : Chip :=
  regWrap (regOr (updPort c p (fun r => { r with rxOpen := true, rxBytes := r.rxBytes ++ [b] })) (fpReg p 0x24) 2) (fpReg p 0x18) 31 0 1

theorem xSerCharacter_heard (ho : serOk c p = true) (b : Byte) (hh : hears (portOf c p) = true)
    (hx : regFld c (fpReg p 0x0C) 15 0 ≠ 0) : xSerCharacter c p b false false false =
      if 64 ≤ (portOf (heard c p b) p).rxBytes.length then serClose (heard c p b) p else heard c p b := by
  simp [xSerCharacter, ho, hh, hx, heard]

theorem portOf_heard (c : Chip) (p : Nat) (b : Byte) :
    portOf (heard c p b) p = { portOf c p with rxBytes := (portOf c p).rxBytes ++ [b], rxOpen := true } := by
  rw [heard, portOf_regWrap, portOf_regOr, portOf_updPort_same]

theorem serCharacter_heard (ho : serOk s.chip p = true) (b : Byte) (hh : hears (portOf s.chip p) = true)
    (hx : regFld s.chip (fpReg p 0x0C) 15 0 ≠ 0) (hn : (portOf s.chip p).rxBytes.length < 63) :
    leaves (.serCharacter p b false false false) s (fun t =>
      portOf t p = { portOf s.chip p with rxBytes := (portOf s.chip p).rxBytes ++ [b], rxOpen := true } ∧
      regVal t (fpReg p 0x18) = regVal s.chip (fpReg p 0x18) + 1 ∧ KeepsWork s.chip t ∧
      OnlyRegs [fpReg p 0x18, fpReg p 0x24] s.chip t) := by
  have hlen : ((portOf s.chip p).rxBytes ++ [b]).length < 64 := by
    rw [List.length_append, List.length_singleton]
    omega
  refine leaves_of_onUnit (f := fun c => xSerCharacter c p b false false false) rfl (isPort_of_portOk (portOk_of_serOk ho)) ?_
  show _ ∧ _ ∧ _ ∧ _
  rw [xSerCharacter_heard ho b hh hx, portOf_heard, if_neg (Nat.not_le.mpr hlen), portOf_heard]
  refine ⟨rfl, ?_, ⟨rfl, rfl, rfl⟩, ?_⟩
  · rw [heard, regVal_regWrap_word, regOr, regVal_regUpd_other _ _ (fpReg_apart p (by decide)), regVal_updPort]
  · exact keepsRegs_trans (d := updPort s.chip p _) (keepsRegs_of_regs rfl)
      (keepsRegs_trans (keepsRegs_regUpd _ _ (by simp)) (keepsRegs_regUpd _ _ (by simp)))

theorem serCharacter_unheard (ho : serOk s.chip p = true) (b : Byte) (hh : hears (portOf s.chip p) = false) :
    leaves (.serCharacter p b false false false) s (fun t => t = s.chip) := by
  refine leaves_of_onUnit (f := fun c => xSerCharacter c p b false false false) rfl (isPort_of_portOk (portOk_of_serOk ho)) ?_
  exact if_neg (by simp [hh])

theorem xSerTransmit_eq (ho : serOk c p = true) (hd : canDrive c p = true) : xSerTransmit c p =
    match (portOf c p).tx with
    | b :: rest => serSend c p b rest
    | [] => if regFld c (fpReg p 0x0C) 31 16 = 0 then c else serPop c p := by
  exact if_pos (by simp [ho, hd])

theorem serTransmit_sends (ho : serOk s.chip p = true) {b : Byte} {rest : List Byte} (hd : canDrive s.chip p = true)
    (ht : (portOf s.chip p).tx = b :: rest) : leaves (.serTransmit p) s (fun t =>
      t.out = s.chip.out ++ [.serial p [b]] ∧ (portOf t p).tx = rest ∧ regVal t (fpReg p 0x1C) = regVal s.chip (fpReg p 0x1C) + 1 ∧
      (rest = [] → bit (regVal t (fpReg p 0x24)) 0 = false) ∧ KeepsWork s.chip t ∧ OnlyRegs [fpReg p 0x1C, fpReg p 0x24] s.chip t) := by
  have hx : xSerTransmit s.chip p = serSend s.chip p b rest := by rw [xSerTransmit_eq ho hd, ht]
  refine leaves_of_onUnit (f := fun c => xSerTransmit c p) rfl (isPort_of_portOk (portOk_of_serOk ho)) ?_
  show _ ∧ _ ∧ _ ∧ _ ∧ _ ∧ _
  rw [hx, serSend]
  have hout : (emit (updPort (regWrap s.chip (fpReg p 0x1C) 31 0 1) p (fun r => { r with tx := rest, txSent := true })) (.serial p [b])).out =
      s.chip.out ++ [.serial p [b]] := rfl
  have htx : (portOf (emit (updPort (regWrap s.chip (fpReg p 0x1C) 31 0 1) p (fun r => { r with tx := rest, txSent := true }))
      (.serial p [b])) p).tx = rest := by rw [portOf_emit, portOf_updPort_same]
  have hreg : regVal (emit (updPort (regWrap s.chip (fpReg p 0x1C) 31 0 1) p (fun r => { r with tx := rest, txSent := true }))
      (.serial p [b])) (fpReg p 0x1C) = regVal s.chip (fpReg p 0x1C) + 1 := by
    rw [regVal_emit, regVal_updPort, regVal_regWrap_word]
  have hregs : OnlyRegs [fpReg p 0x1C, fpReg p 0x24] s.chip
      (emit (updPort (regWrap s.chip (fpReg p 0x1C) 31 0 1) p (fun r => { r with tx := rest, txSent := true })) (.serial p [b])) :=
    keepsRegs_trans (d := regWrap s.chip (fpReg p 0x1C) 31 0 1) (keepsRegs_regUpd _ _ (by simp)) (keepsRegs_of_regs rfl)
  have hwork : KeepsWork s.chip (emit (updPort (regWrap s.chip (fpReg p 0x1C) 31 0 1) p (fun r => { r with tx := rest, txSent := true }))
      (.serial p [b])) := ⟨rfl, rfl, rfl⟩
  generalize emit (updPort (regWrap s.chip (fpReg p 0x1C) 31 0 1) p (fun r => { r with tx := rest, txSent := true })) (.serial p [b]) = e
    at hout htx hreg hregs hwork
  split
  · refine ⟨by rw [regClr_out, hout], by rw [portOf_regClr, htx], ?_, fun _ => ?_, keepsWork_trans hwork ⟨rfl, rfl, rfl⟩,
      keepsRegs_trans hregs (keepsRegs_regUpd _ _ (by simp))⟩
    · rw [regClr, regVal_regUpd_other _ _ (fpReg_apart p (by decide)), hreg]
    · rw [bit_regClr _ _ _ (by decide), show Nat.testBit 1 0 = true from rfl, Bool.not_true, Bool.and_false]
  next h => exact ⟨hout, htx, hreg, fun hr => absurd (by rw [hr]; rfl) h, hwork, hregs⟩

end Sys2Proof.Machine
end

section
/-! PROOFS. Ports stand while a channel is pushed to or popped, and the queues are flushed of a port that changes its mode. -/

namespace Sys2Proof.Machine

open Sys2Proof Sys2Proof.Safety

@[simp] theorem ite_out {p : Prop} [Decidable p] (c d : Chip) : (if p then c else d).out = if p then c.out else d.out :=
  apply_ite Chip.out p c d

@[simp] theorem ite_fst_out {p : Prop} [Decidable p] {α : Type} (c d : Chip × α) :
    (if p then c else d).1.out = if p then c.1.out else d.1.out :=
  apply_ite (fun r => r.1.out) p c d

@[simp] theorem foldl_out {α : Type} {f : Chip → α → Chip} (hf : ∀ c a, (f c a).out = c.out) (l : List α) (c : Chip) :
    (l.foldl f c).out = c.out := by
  induction l generalizing c with
  | nil => rfl
  | cons a l ih => exact (ih (f c a)).trans (hf c a)

theorem foldl_fst_out {α β : Type} {f : Chip × β → α → Chip × β} (hf : ∀ a x, (f a x).1.out = a.1.out) (l : List α)
    (a : Chip × β) : (l.foldl f a).1.out = a.1.out := by
  induction l generalizing a with
  | nil => rfl
  | cons x l ih => exact (ih (f a x)).trans (hf a x)

@[simp] theorem ite_flushing {p : Prop} [Decidable p] (c d : Chip) : (if p then c else d).flushing = if p then c.flushing else d.flushing :=
  apply_ite Chip.flushing p c d

@[simp] theorem ite_fst_flushing {p : Prop} [Decidable p] {α : Type} (c d : Chip × α) :
    (if p then c else d).1.flushing = if p then c.1.flushing else d.1.flushing :=
  apply_ite (fun r => r.1.flushing) p c d

@[simp] theorem foldl_flushing {α : Type} {f : Chip → α → Chip} (hf : ∀ c a, (f c a).flushing = c.flushing) (l : List α) (c : Chip) :
    (l.foldl f c).flushing = c.flushing := by
  induction l generalizing c with
  | nil => rfl
  | cons a l ih => exact (ih (f c a)).trans (hf c a)

theorem foldl_fst_flushing {α β : Type} {f : Chip × β → α → Chip × β} (hf : ∀ a x, (f a x).1.flushing = a.1.flushing) (l : List α)
    (a : Chip × β) : (l.foldl f a).1.flushing = a.1.flushing := by
  induction l generalizing a with
  | nil => rfl
  | cons x l ih => exact (ih (f a x)).trans (hf a x)

@[simp] theorem noteCorrected_out (c : Chip) (ga : Nat) : (noteCorrected c ga).out = c.out := by
  simp -implicitDefEqProofs [noteCorrected]

@[simp] theorem noteUncorrectable_out (c : Chip) (ga src core : Nat) : (noteUncorrectable c ga src core).out = c.out := by
  simp [noteUncorrectable]

@[simp] theorem readWord_out (c : Chip) (ga src core : Nat) : (readWord c ga src core).1.out = c.out := by
  simp [readWord]

@[simp] theorem touchGranule_ports (c : Chip) (ga : Nat) (by_ : Option Nat) : (touchGranule c ga by_).ports = c.ports := by
  simp [touchGranule]

@[simp] theorem writeWord_ports (c : Chip) (ga : Nat) (w : Word) (poison : Bool) (by_ : Option Nat) : (writeWord c ga w poison by_).ports = c.ports := by
  obtain ⟨_, _, _, _, _, h⟩ := writeWord_only c ga w poison by_
  rw [h]

@[simp] theorem chPushRaw_ports (c : Chip) (s : Nat) (w : Word) (p : Bool) : (chPushRaw c s w p).ports = c.ports := by
  simp [chPushRaw]

@[simp] theorem chPopRaw_out (c : Chip) (s : Nat) : (chPopRaw c s).1.out = c.out := by
  unfold chPopRaw
  dsimp only
  (repeat' split) <;> simp

@[simp] theorem chTake_out (c : Chip) (s : Nat) : (chTake c s).1.out = c.out := by
  simp [chTake]

@[simp] theorem sendFlits_ports (c : Chip) (l : List Nat) (n : Nat) : (sendFlits c l n).ports = c.ports := by
  simp [sendFlits]

@[simp] theorem sendFlits_chans (c : Chip) (l : List Nat) (n : Nat) : (sendFlits c l n).chans = c.chans := by
  simp [sendFlits]

@[simp] theorem droneDown_ports (c : Chip) (d : Nat) : (droneDown c d).ports = c.ports := by
  simp [droneDown]

@[simp] theorem droneDown_flushing (c : Chip) (d : Nat) : (droneDown c d).flushing = c.flushing := by
  simp [droneDown]

end Sys2Proof.Machine
end

section
/-! PROOFS. Field ports (O46): records of the serial receiver, frames of the transmitter. -/

namespace Sys2Proof.Machine

open Sys2Proof Sys2Proof.Safety

variable {c : Chip} {s : State} {p x : Nat}

/-! ### Records received (R440, R459) -/

theorem isLinkQ_of_fmt {h : Chan} (hf : h.fmt = 1) : isLinkQ h = false := by simp [isLinkQ, hf]

/-- A word pushed to a channel of records in memory. -/
theorem chPushRaw_chan (hf : (chanOf c x).fmt = 1) (w : Word) (b : Bool) :
    (chanOf (chPushRaw c x w b) x).depth = (chanOf c x).depth + 1 ∧ (chanOf (chPushRaw c x w b) x).seq = (chanOf c x).seq ∧
    (chanOf (chPushRaw c x w b) x).fmt = 1 := by
  obtain ⟨m, po, sb, r, cs, hw⟩ := writeWord_only c (chWordGa x (chanOf c x) (chanOf c x).depth) w b none
  have hch : chanOf (writeWord c (chWordGa x (chanOf c x) (chanOf c x).depth) w b none) x = chanOf c x := by rw [hw]; rfl
  unfold chPushRaw
  dsimp only
  rw [if_neg (show ¬ isLinkQ (chanOf c x) = true by rw [isLinkQ_of_fmt hf]; decide)]
  split <;> simp [hch, hf, tailRestart]

theorem chPushAll_chan (l : List QWord) (hf : (chanOf c x).fmt = 1) :
    (chanOf (l.foldl (fun c q => chPushRaw c x q.w q.p) c) x).depth = (chanOf c x).depth + l.length ∧
    (chanOf (l.foldl (fun c q => chPushRaw c x q.w q.p) c) x).seq = (chanOf c x).seq := by
  induction l generalizing c with
  | nil => exact ⟨rfl, rfl⟩
  | cons q l ih =>
    obtain ⟨hd, hs, hf'⟩ := chPushRaw_chan hf q.w q.p
    obtain ⟨hd', hs'⟩ := ih hf'
    refine ⟨?_, hs'.trans hs⟩
    rw [List.foldl_cons, hd', hd, List.length_cons]
    omega

/-- A record that fits on a channel of records: its header and its words are placed. -/
theorem chPushRecord_chan (hf : (chanOf c x).fmt = 1) (hk : (chanOf c x).kind = 2) (data : List QWord) (tag : Nat)
    (hfit : data.length + 1 ≤ chFree (chanOf c x)) :
    (chanOf (chPushRecord c x data tag).1 x).depth = (chanOf c x).depth + data.length + 1 ∧
    (chanOf (chPushRecord c x data tag).1 x).seq = ((chanOf c x).seq + 1) % 256 ∧ (chPushRecord c x data tag).1.ports = c.ports := by
  unfold chPushRecord
  dsimp only
  rw [if_neg (show ¬ (chanOf c x).kind = 0 by rw [hk]; decide)]
  rw [if_pos (show data.length + (if (chanOf c x).fmt = 1 then 1 else 0) ≤ chFree (chanOf c x) by rw [if_pos hf]; exact hfit)]
  have hports (e : Chip) : (data.foldl (fun c q => chPushRaw c x q.w q.p) e).ports = e.ports := by simp
  obtain ⟨hd, hs, hf'⟩ := chPushRaw_chan hf (mkHeader data.length (chanOf c x).seq tag false) false
  have hp := chPushRaw_ports c x (mkHeader data.length (chanOf c x).seq tag false) false
  dsimp only
  rw [if_pos hf, hports]
  generalize chPushRaw c x (mkHeader data.length (chanOf c x).seq tag false) false = e at hd hs hf' hp
  have he : chanOf (updChan e x (fun h => { h with seq := (h.seq + 1) % 256 })) x = { chanOf e x with seq := ((chanOf e x).seq + 1) % 256 } :=
    chanOf_updChan_same _ _ _
  obtain ⟨hd', hs'⟩ := chPushAll_chan (c := updChan e x (fun h => { h with seq := (h.seq + 1) % 256 })) data (by rw [he]; exact hf')
  rw [he] at hd' hs'
  refine ⟨?_, by rw [hs']; exact congrArg (fun n => (n + 1) % 256) hs, hp⟩
  rw [hd']
  show (chanOf e x).depth + data.length = _
  omega

/-- A port whose open record is closed. -/
def recordClosed (c : Chip) (p : Nat) : Chip :=
  regClr (updPort c p (fun r => { r with rxBytes := [], rxOpen := false, rxFrame := false, rxParity := false, rxBreak := false }))
    (fpReg p 0x24) 2

/-- The tag of a serial record. -/
def recordTag (r : Port) : Nat := r.rxBytes.length % 4 + 4 * b1 r.rxFrame + 8 * b1 r.rxParity + 16 * b1 r.rxBreak

theorem serClose_eq (c : Chip) (p : Nat) : serClose c p =
    portRecord (recordClosed c p) p ⟨recordTag (portOf c p), wordsOf (portOf c p).rxBytes⟩ := rfl

theorem portRx_congr {c d : Chip} (hr : regVal d (fpReg p 0x0C) = regVal c (fpReg p 0x0C)) (hc : d.chans = c.chans) :
    portRx d p = portRx c p := by
  have hch (k : Nat) : chanOf d k = chanOf c k := by rw [chanOf, chanOf, hc]
  simp only [portRx, slotOfHandle, regFld, hr, hch]
  rfl

/-- A record that nothing holds is pushed. -/
theorem portRecord_pushes {r : PRec} (hx : portRx c p = some x) (hk : (chanOf c x).kind = 2) (hw : (portOf c p).wait = [])
    (hs : c.stopped = []) : portRecord c p r = portPush c p x r := by
  have hheld : portWaits c p x (portOf c p).wait r = false := by simp [portWaits, hk, hw, pathHeld, hs]
  unfold portRecord
  rw [hx]
  exact if_neg (by rw [hheld]; decide)

theorem portPush_mailbox {r : PRec} (hk : (chanOf c x).kind = 2) : portPush c p x r =
    fpEv (chPushRecord (sendFlits c (recordPath c p x) (itemFlits (4 * r.words.length))) x
      (r.words.map (fun w => (⟨w, false⟩ : QWord))) r.tag).1 p 1 := by
  unfold portPush
  dsimp only
  rw [if_neg (by rw [hk]; decide)]

theorem serRecordClose_closes (ho : serOk s.chip p = true) (hopen : (portOf s.chip p).rxOpen = true) (hw : (portOf s.chip p).wait = [])
    (hst : s.chip.stopped = []) (hx : portRx s.chip p = some x) (hk : (chanOf s.chip x).kind = 2) (hf : (chanOf s.chip x).fmt = 1)
    (hfit : (wordsOf (portOf s.chip p).rxBytes).length + 1 ≤ chFree (chanOf s.chip x)) : leaves (.serRecordClose p) s (fun t =>
      (portOf t p).rxBytes = [] ∧ (portOf t p).rxOpen = false ∧ bit (regVal t (fpReg p 0x14)) 0 = true ∧
      (chanOf t x).depth = (chanOf s.chip x).depth + (wordsOf (portOf s.chip p).rxBytes).length + 1 ∧
      (chanOf t x).seq = ((chanOf s.chip x).seq + 1) % 256) := by
  have hport : portOf (recordClosed s.chip p) p = { portOf s.chip p with
      rxBytes := [], rxOpen := false, rxFrame := false, rxParity := false, rxBreak := false } := by
    rw [recordClosed, portOf_regClr, portOf_updPort_same]
  have hch : chanOf (recordClosed s.chip p) x = chanOf s.chip x := rfl
  have hreg : regVal (recordClosed s.chip p) (fpReg p 0x0C) = regVal s.chip (fpReg p 0x0C) := by
    rw [recordClosed, regClr, regVal_regUpd_other _ _ (fpReg_apart p (by decide)), regVal_updPort]
  have hrx : portRx (recordClosed s.chip p) p = some x := (portRx_congr hreg rfl).trans hx
  have hstop : (recordClosed s.chip p).stopped = [] := hst
  have hx : xSerRecordClose s.chip p = serClose s.chip p := if_pos (by rw [ho, hopen]; rfl)
  refine leaves_of_onUnit (f := fun c => xSerRecordClose c p) rfl (isPort_of_portOk (portOk_of_serOk ho)) ?_
  show _ ∧ _ ∧ _ ∧ _ ∧ _
  rw [hx, serClose_eq]
  generalize recordClosed s.chip p = e at hport hch hrx hstop
  rw [portRecord_pushes hrx (by rw [hch, hk]) (by rw [hport]; exact hw) hstop, portPush_mailbox (by rw [hch, hk])]
  have hsend : chanOf (sendFlits e (recordPath e p x) (itemFlits (4 * (wordsOf (portOf s.chip p).rxBytes).length))) x = chanOf s.chip x := by
    rw [chanOf, sendFlits_chans, ← chanOf, hch]
  have hsp := sendFlits_ports e (recordPath e p x) (itemFlits (4 * (wordsOf (portOf s.chip p).rxBytes).length))
  dsimp only
  generalize sendFlits e (recordPath e p x) (itemFlits (4 * (wordsOf (portOf s.chip p).rxBytes).length)) = u at hsend hsp
  obtain ⟨hd, hsq, hports⟩ := chPushRecord_chan (c := u) (x := x) (by rw [hsend, hf]) (by rw [hsend, hk])
    ((wordsOf (portOf s.chip p).rxBytes).map (fun w => (⟨w, false⟩ : QWord))) (recordTag (portOf s.chip p))
    (by rw [List.length_map, hsend]; exact hfit)
  rw [List.length_map, hsend] at hd
  rw [hsend] at hsq
  generalize (chPushRecord u x ((wordsOf (portOf s.chip p).rxBytes).map (fun w => (⟨w, false⟩ : QWord)))
    (recordTag (portOf s.chip p))).1 = v at hd hsq hports
  have hpv : portOf (fpEv v p 1) p = portOf e p := by
    rw [fpEv, portOf_regOr, portOf, hports, hsp, ← portOf]
  refine ⟨by rw [hpv, hport], by rw [hpv, hport], ?_, hd, hsq⟩
  rw [fpEv, bit_regOr _ _ _ (by decide), show Nat.testBit 1 0 = true from rfl, Bool.or_true]

/-! ### Frames transmitted (R459) -/

/-- A word taken from a channel of records in memory. -/
structure WordTaken (c e : Chip) (x : Nat) : Prop where
  depth : (chanOf e x).depth = (chanOf c x).depth - 1
  fmt : (chanOf e x).fmt = 1
  gap : (chanOf e x).gapPend = false
  place : ∀ i, chWordGa x (chanOf e x) i = chWordGa x (chanOf c x) (i + 1)
  mem : e.mem = c.mem
  ports : e.ports = c.ports
  out : e.out = c.out
  regs : KeepsLowRegs c e

/-- The place behind the one taken. -/
theorem chWordGa_taken (x : Nat) (h : Chan) (i : Nat) (e : Chan) (hrd : e.rd = (h.rd + 1) % chCap h) (hk : e.k = h.k)
    (hq : e.qbase = h.qbase) : chWordGa x e i = chWordGa x h (i + 1) := by
  have hcap : chCap e = chCap h := by rw [chCap, chCap, hk]
  rw [chWordGa, chWordGa, hrd, hq, hcap, Nat.mod_add_mod]
  congr 3
  omega

/-- A popped word of a channel of records in memory. -/
def wordPopped (c : Chip) (x : Nat) : Chip × Word × Bool :=
  let h := chanOf c x
  let r := readWord c (chWordGa x h 0) 3 0
  let e := updChan r.1 x (fun h => { h with rd := (h.rd + 1) % chCap h, depth := h.depth - 1 })
  (updChan e x (fun h => { (creditPop (tailRestart e h)) with tailf := false, psn := if r.2.2 then sat (h.psn + 1) 255 else h.psn }),
    r.2.1, r.2.2)

theorem chPopRaw_eq (hf : (chanOf c x).fmt = 1) : chPopRaw c x = wordPopped c x := by
  unfold chPopRaw
  dsimp only
  rw [if_neg (show ¬ isLinkQ (chanOf c x) = true by rw [isLinkQ_of_fmt hf]; decide)]
  rfl

theorem creditPop_place (h : Chan) : (creditPop h).depth = h.depth ∧ (creditPop h).fmt = h.fmt ∧ (creditPop h).gapPend = h.gapPend ∧
    (creditPop h).rd = h.rd ∧ (creditPop h).k = h.k ∧ (creditPop h).qbase = h.qbase := by
  unfold creditPop
  split
  · exact ⟨rfl, rfl, rfl, rfl, rfl, rfl⟩
  split <;> exact ⟨rfl, rfl, rfl, rfl, rfl, rfl⟩

theorem wordPopped_chan (c : Chip) (x : Nat) : let h := chanOf c x
    let e := chanOf (wordPopped c x).1 x
    e.depth = h.depth - 1 ∧ e.fmt = h.fmt ∧ e.gapPend = h.gapPend ∧ e.rd = (h.rd + 1) % chCap h ∧ e.k = h.k ∧ e.qbase = h.qbase := by
  obtain ⟨r, sb, hr⟩ := readWord_only c (chWordGa x (chanOf c x) 0) 3 0
  have hch : chanOf (readWord c (chWordGa x (chanOf c x) 0) 3 0).1 x = chanOf c x := by rw [hr]; rfl
  unfold wordPopped
  dsimp only
  generalize readWord c (chWordGa x (chanOf c x) 0) 3 0 = q at hch
  rw [chanOf_updChan_same, chanOf_updChan_same, hch]
  generalize updChan q.1 x _ = u
  exact creditPop_place (tailRestart u { chanOf c x with rd := ((chanOf c x).rd + 1) % chCap (chanOf c x), depth := (chanOf c x).depth - 1 })

theorem chTake_word (hf : (chanOf c x).fmt = 1) (hg : (chanOf c x).gapPend = false) :
    WordTaken c (chTake c x).1 x ∧ (chTake c x).2.1 = wordAt c (chWordGa x (chanOf c x) 0 / 4 * 4) := by
  have htake : chTake c x = (updChan (wordPopped c x).1 x (fun h =>
      { h with rem := if h.fmt = 0 then 0 else if h.rem = 0 then hdrLen (wordPopped c x).2.1 else h.rem - 1 }),
      (wordPopped c x).2.1, (wordPopped c x).2.2) := by
    unfold chTake
    dsimp only
    rw [if_neg (show ¬ ((chanOf c x).gapPend = true ∧ (chanOf c x).rem = 0) by simp [hg]), chPopRaw_eq hf]
  obtain ⟨hd, hf', hg', hrd, hk, hq⟩ := wordPopped_chan c x
  have hlow : KeepsLowRegs c (wordPopped c x).1 := fun a ha => keepsLowRegs_readWord c (chWordGa x (chanOf c x) 0) 3 0 a ha
  have hword : (wordPopped c x).2.1 = wordAt c (chWordGa x (chanOf c x) 0 / 4 * 4) := by
    obtain ⟨r, sb, hr⟩ := readWord_only c (chWordGa x (chanOf c x) 0) 3 0
    unfold wordPopped
    dsimp only
    rw [hr]
  have hmem := chTake_mem c x
  have hports := chTake_ports c x
  have hout := chTake_out c x
  rw [htake] at hmem hports hout ⊢
  generalize wordPopped c x = q at hd hf' hg' hrd hk hq hlow hword hmem hports hout
  refine ⟨⟨?_, ?_, ?_, fun i => ?_, hmem, hports, hout, hlow⟩, hword⟩
  · rw [chanOf_updChan_same]
    exact hd
  · rw [chanOf_updChan_same]
    exact hf'.trans hf
  · rw [chanOf_updChan_same]
    exact hg'.trans hg
  · rw [chanOf_updChan_same]
    exact chWordGa_taken x (chanOf c x) i _ hrd hk hq

theorem chTakeN_two (c : Chip) (x : Nat) : chTakeN c x 2 = ((chTake (chTake c x).1 x).1,
    [⟨(chTake c x).2.1, (chTake c x).2.2⟩, ⟨(chTake (chTake c x).1 x).2.1, (chTake (chTake c x).1 x).2.2⟩]) := rfl

end Sys2Proof.Machine
end

section
/-! PROOFS. Field ports (O46): frames transmitted, ports reconfigured, and the statement. -/

namespace Sys2Proof.Machine

open Sys2Proof Sys2Proof.Safety

variable {c : Chip} {s : State} {p x : Nat}

/-- The bytes of a frame taken for transmission. -/
def frameLoaded (e : Chip) (p : Nat) (l : List Byte) : Chip :=
  regOr (updPort e p (fun r => { r with tx := l })) (fpReg p 0x24) 1

theorem serPop_loads (hx : portTx c p = some x) (hr : chReady (chanOf c x) = true) (h12 : bit (chTake c x).2.1 12 = false)
    (hl : hdrLen (chTake c x).2.1 = 2) (h1 : 1 ≤ (chTake (chTake c x).1 x).2.1.toNat) (h4 : (chTake (chTake c x).1 x).2.1.toNat ≤ 4) :
    serPop c p = frameLoaded (chTake (chTake (chTake c x).1 x).1 x).1 p
      ((bytesOfWord (chTake (chTake (chTake c x).1 x).1 x).2.1).take (chTake (chTake c x).1 x).2.1.toNat) := by
  rcases ht1 : chTake c x with ⟨e, w, b⟩
  rw [ht1] at h12 hl h1 h4
  dsimp only at h12 hl h1 h4 ⊢
  unfold serPop
  rw [hx]
  dsimp only
  rw [if_neg (by simp [hr]), ht1]
  dsimp only
  rw [if_neg (by simp [h12]), hl, chTakeN_two]
  dsimp only
  rw [if_pos ⟨h1, h4⟩, frameLoaded]
  simp only [List.map_cons, List.map_nil, bytesOf, List.append_nil]

theorem keepsLowRegs_frameLoaded (e : Chip) (p : Nat) (l : List Byte) : KeepsRegs (· = fpReg p 0x24) e (frameLoaded e p l) :=
  keepsRegs_trans (d := updPort e p _) (keepsRegs_of_regs rfl) (keepsRegs_regUpd _ _ rfl)

theorem fpReg_low (hp : p < 128) {o : Nat} (ho : o < 0x40) : fpReg p o < 0x60200000 := by
  unfold fpReg
  omega

theorem lt_of_portOk (h : portOk c p = true) : p < 128 := by
  simp only [portOk, Bool.and_eq_true, decide_eq_true_eq] at h
  exact h.1

theorem fmt_of_portTx (h : portTx c p = some x) : (chanOf c x).fmt = 1 := by
  unfold portTx at h
  split at h
  · dsimp only at h
    split at h
    next hc =>
      obtain rfl := Option.some.inj h
      exact hc.2.2.2
    next => exact absurd h (by simp)
  · exact absurd h (by simp)

theorem serTransmit_loads (ho : serOk s.chip p = true) (hd : canDrive s.chip p = true) (ht : (portOf s.chip p).tx = [])
    (h0 : regFld s.chip (fpReg p 0x0C) 31 16 ≠ 0) (hx : portTx s.chip p = some x) :
    let h := chanOf s.chip x
    let w (i : Nat) : Word := wordAt s.chip (chWordGa x h i / 4 * 4)
    h.gapPend = false → h.lead = 0 → 3 ≤ h.depth → bit (w 0) 12 = false → hdrLen (w 0) = 2 →
    1 ≤ (w 1).toNat → (w 1).toNat ≤ 4 → leaves (.serTransmit p) s (fun t =>
      (portOf t p).tx = (bytesOfWord (w 2)).take (w 1).toNat ∧ (chanOf t x).depth = h.depth - 3 ∧
      bit (regVal t (fpReg p 0x24)) 0 = true ∧ t.out = s.chip.out ∧ regVal t (fpReg p 0x1C) = regVal s.chip (fpReg p 0x1C) ∧
      t.mem = s.chip.mem) := by
  intro h w hg hlead hdep h12 hlen h1 h4
  have hf : h.fmt = 1 := fmt_of_portTx hx
  have hready : chReady h = true := by
    simp only [chReady, chPoppable, chDepth, isLinkQ_of_fmt hf, hlead]
    simp
    omega
  obtain ⟨t1, hw0⟩ := chTake_word (c := s.chip) (x := x) hf hg
  obtain ⟨t2, hw1⟩ := chTake_word (c := (chTake s.chip x).1) (x := x) t1.fmt t1.gap
  obtain ⟨t3, hw2⟩ := chTake_word (c := (chTake (chTake s.chip x).1 x).1) (x := x) t2.fmt t2.gap
  have hword {e : Chip} (hm : e.mem = s.chip.mem) (a : Nat) : wordAt e a = wordAt s.chip a := by
    simp only [wordAt, leNat_of_mem hm]
  rw [t1.place, hword t1.mem] at hw1
  rw [t2.place, t1.place, hword (t2.mem.trans t1.mem)] at hw2
  have hp := lt_of_portOk (portOk_of_serOk ho)
  have hpop : xSerTransmit s.chip p = serPop s.chip p := by
    rw [xSerTransmit_eq ho hd, ht]
    exact if_neg h0
  refine leaves_of_onUnit (f := fun c => xSerTransmit c p) rfl (isPort_of_portOk (portOk_of_serOk ho)) ?_
  show _ ∧ _ ∧ _ ∧ _ ∧ _ ∧ _
  rw [hpop, serPop_loads hx hready (by rw [hw0]; exact h12) (by rw [hw0]; exact hlen) (by rw [hw1]; exact h1) (by rw [hw1]; exact h4), hw1, hw2]
  have hdepth := t3.depth
  rw [t2.depth, t1.depth] at hdepth
  have hout := t3.out.trans (t2.out.trans t1.out)
  have hmem := t3.mem.trans (t2.mem.trans t1.mem)
  have hlow := keepsLowRegs_trans t1.regs (keepsLowRegs_trans t2.regs t3.regs)
  generalize (chTake (chTake (chTake s.chip x).1 x).1 x).1 = e at hdepth hout hmem hlow
  refine ⟨?_, ?_, ?_, hout, ?_, hmem⟩
  · rw [frameLoaded, portOf_regOr, portOf_updPort_same]
  · show (chanOf e x).depth = _
    omega
  · rw [frameLoaded, bit_regOr _ _ _ (by decide), show Nat.testBit 1 0 = true from rfl, Bool.or_true]
  · rw [keepsLowRegs_frameLoaded _ _ _ _ (fpReg_apart p (by decide)), hlow _ (fpReg_low hp (by decide))]

/-! ### Reconfiguration (R431) -/

/-- Registers of a port set to 0. -/
theorem regVal_zeroed (l : List Nat) (c : Chip) (p a : Nat) :
    regVal (l.foldl (fun c o => regPut c (fpReg p o) 0) c) a = if a ∈ l.map (fpReg p) then 0 else regVal c a := by
  induction l generalizing c with
  | nil => rfl
  | cons o l ih =>
    rw [List.foldl_cons, ih]
    by_cases h : a = fpReg p o
    · subst h
      simp [regVal_regPut_same]
    · rw [regVal_regPut_other _ _ h]
      simp [h]

/-- The port's registers at their defaults for a mode. -/
def modeRegs (c : Chip) (p : Nat) (ctl : Word) : Chip :=
  let c := regPut c (fpReg p 0x00) (setBits ctl 9 9 0)
  let c := [0x14, 0x18, 0x1C, 0x20, 0x24, 0x28, 0x2C].foldl (fun c o => regPut c (fpReg p o) 0) c
  regPut c (fpReg p 0x08) (cfgDefault (bits ctl 2 0) (bits ctl 4 3))

theorem regVal_modeRegs (c : Chip) (p : Nat) (ctl : Word) : regVal (modeRegs c p ctl) (fpReg p 0) = setBits ctl 9 9 0 ∧
    regVal (modeRegs c p ctl) (fpReg p 8) = cfgDefault (bits ctl 2 0) (bits ctl 4 3) ∧
    ∀ o ∈ [0x14, 0x18, 0x1C, 0x20, 0x24, 0x28, 0x2C], regVal (modeRegs c p ctl) (fpReg p o) = 0 := by
  unfold modeRegs
  dsimp only
  refine ⟨?_, regVal_regPut_same _ _ _, fun o ho => ?_⟩
  · rw [regVal_regPut_other _ _ (fpReg_apart p (by decide)), regVal_zeroed, if_neg (by simp [fpReg]), regVal_regPut_same]
  · have h8 : o ≠ 8 := by
      rintro rfl
      exact absurd ho (by decide)
    rw [regVal_regPut_other _ _ (fpReg_apart p h8), regVal_zeroed, if_pos (List.mem_map_of_mem ho)]

/-- A port in a new mode. -/
def modeTaken (c : Chip) (p : Nat) (ctl : Word) : Chip :=
  let c := updPort c p (fun r => { mode := bits ctl 2 0, sub := bits ctl 4 3, safec := r.safec, rateWin := c.tb / 1000000, rxa := r.rxa,
                                   rxb := r.rxb })
  updLink c p (fun l => { streams := l.streams, ord := l.ord, lastNodes := l.lastNodes, lastIdents := l.lastIdents, started := l.started })

theorem reconfigure_eq (c : Chip) (p : Nat) (ctl : Word) : ∃ e, p ∈ e.flushing ∧ reconfigure c p ctl =
    (fedBy (modeTaken (modeRegs e p ctl) p ctl) p).foldl droneDown (modeTaken (modeRegs e p ctl) p ctl) := by
  refine ⟨flushPort (if inLink c p then linkDown c p else c) p, ?_, rfl⟩
  generalize (if inLink c p then linkDown c p else c) = u
  have hflush : ∃ (v : Chip) (n : Nat), flushPort u p = countFlush { v with flushing := p :: v.flushing.filter (· ≠ p) } 2 n := ⟨_, _, rfl⟩
  obtain ⟨v, n, hv⟩ := hflush
  rw [hv, (countFlush_fields _ _ _).2]
  exact List.mem_cons_self

/-- The drones a port fed go down, which leaves the port's registers. -/
theorem dronesDown_port (p : Nat) (l : List Nat) (hl : ∀ d ∈ l, d < 16) (c : Chip) :
    (l.foldl droneDown c).ports = c.ports ∧ (l.foldl droneDown c).flushing = c.flushing ∧
    ∀ o, regVal (l.foldl droneDown c) (fpReg p o) = regVal c (fpReg p o) := by
  induction l generalizing c with
  | nil => exact ⟨rfl, rfl, fun _ => rfl⟩
  | cons d l ih =>
    obtain ⟨hports, hflush, hregs⟩ := ih (fun d hd => hl d (List.mem_cons_of_mem _ hd)) (droneDown c d)
    refine ⟨hports.trans (droneDown_ports c d), hflush.trans (droneDown_flushing c d), fun o => (hregs o).trans ?_⟩
    rw [droneDown, regOr, regVal_regUpd_other _ _ (drnReg_fpReg (hl d List.mem_cons_self) (by decide)).symm, regVal_updDrone]

theorem reconfigure_port (p : Nat) (c : Chip) (ctl : Word) : let t := reconfigure c p ctl
    (portOf t p).mode = bits ctl 2 0 ∧ (portOf t p).sub = bits ctl 4 3 ∧ (portOf t p).ready = false ∧
    regVal t (fpReg p 0) = setBits ctl 9 9 0 ∧ p ∈ t.flushing ∧ regVal t (fpReg p 8) = cfgDefault (bits ctl 2 0) (bits ctl 4 3) ∧
    (∀ o ∈ [0x14, 0x18, 0x1C, 0x20, 0x24, 0x28, 0x2C], regVal t (fpReg p o) = 0) ∧ t.mem = c.mem := by
  obtain ⟨e, hflush, ht⟩ := reconfigure_eq c p ctl
  obtain ⟨h0, h8, hz⟩ := regVal_modeRegs e p ctl
  have hfl : (modeTaken (modeRegs e p ctl) p ctl).flushing = e.flushing := by simp [modeTaken, modeRegs]
  have hregs : (modeTaken (modeRegs e p ctl) p ctl).regs = (modeRegs e p ctl).regs := rfl
  have hport : (portOf (modeTaken (modeRegs e p ctl) p ctl) p).mode = bits ctl 2 0 ∧
      (portOf (modeTaken (modeRegs e p ctl) p ctl) p).sub = bits ctl 4 3 ∧
      (portOf (modeTaken (modeRegs e p ctl) p ctl) p).ready = false := by
    rw [modeTaken, portOf_updLink, portOf_updPort_same]
    exact ⟨rfl, rfl, rfl⟩
  have hlt : ∀ d ∈ fedBy (modeTaken (modeRegs e p ctl) p ctl) p, d < 16 := fun d hd =>
    List.mem_range.mp (List.mem_filter.mp hd).1
  obtain ⟨hports, hflush', hreg⟩ := dronesDown_port p _ hlt (modeTaken (modeRegs e p ctl) p ctl)
  have hmem := reconfigure_mem c p ctl
  intro t
  have hpt : portOf t p = portOf (modeTaken (modeRegs e p ctl) p ctl) p := by rw [portOf, show t = _ from ht, hports, portOf]
  have hrt (o : Nat) : regVal t (fpReg p o) = regVal (modeRegs e p ctl) (fpReg p o) := by
    rw [show t = _ from ht, hreg, regVal_of_regs hregs]
  refine ⟨by rw [hpt, hport.1], by rw [hpt, hport.2.1], by rw [hpt, hport.2.2], by rw [hrt, h0], ?_, by rw [hrt, h8],
    fun o ho => by rw [hrt, hz o ho], hmem⟩
  rw [show t = _ from ht, hflush', hfl]
  exact hflush

theorem portReconfigure_reconfigures {w : Word} (ho : portOk s.chip p = true) (h : reconfigures s.chip p w = true) :
    leaves (.portReconfigure p w) s (fun t =>
      (portOf t p).mode = bits (ctlStored w) 2 0 ∧ (portOf t p).sub = bits (ctlStored w) 4 3 ∧ (portOf t p).ready = false ∧
      regVal t (fpReg p 0) = setBits (ctlStored w) 9 9 0 ∧ p ∈ t.flushing ∧
      regVal t (fpReg p 8) = cfgDefault (bits (ctlStored w) 2 0) (bits (ctlStored w) 4 3) ∧
      (∀ o ∈ [0x14, 0x18, 0x1C, 0x20, 0x24, 0x28, 0x2C], regVal t (fpReg p o) = 0) ∧ t.mem = s.chip.mem) := by
  have h0 : regVal (if ctlStored w = w &&& 0x3FF then s.chip else fpCfgErr s.chip p) (fpReg p 0x00) = regVal s.chip (fpReg p 0x00) := by
    split
    · rfl
    · exact regVal_regUpd_other _ _ (fpReg_apart p (by decide))
  have hmem : (if ctlStored w = w &&& 0x3FF then s.chip else fpCfgErr s.chip p).mem = s.chip.mem := by
    split <;> rfl
  have hrec : reconfigures (if ctlStored w = w &&& 0x3FF then s.chip else fpCfgErr s.chip p) p w = true := by
    rw [← h, reconfigures, regFld, h0]
    rfl
  have hx : xPortReconfigure s.chip p w =
      reconfigure (if ctlStored w = w &&& 0x3FF then s.chip else fpCfgErr s.chip p) p (ctlStored w) :=
    (if_pos (by rw [ho, h]; rfl)).trans (if_pos hrec)
  refine leaves_of_onUnit (f := fun c => xPortReconfigure c p w) rfl (isPort_of_portOk ho) ?_
  show _ ∧ _ ∧ _ ∧ _ ∧ _ ∧ _ ∧ _ ∧ _
  rw [hx, ← hmem]
  exact reconfigure_port p _ _

/-- Settles O46: each mode's commands by their lemmas. -/
theorem portCommands : Obligations.PortCommands := by
  intro s p ho
  refine ⟨?_, ?_, ?_, ?_, ?_, ?_, ?_, ?_, ?_, ?_⟩
  · exact fun w h _ => portReconfigure_reconfigures ho h
  · exact fun hr hm hf hh => portReady_ready ho hr hm hf hh
  · exact fun hr hs => ⟨fun hm => portLevelChange_settles ho hr hs hm, fun hm hl he => portLevelChange_starts ho hr hs hm hl he⟩
  · exact fun w h hm => ⟨fun hb hl hd => portDriveEnable_drives ho h hm hb hl hd, fun hb hl => portDriveEnable_limited ho h hm hb hl,
      fun hb => portDriveEnable_disables ho h hm hb⟩
  · exact fun w hm hr => ⟨encPreset_writes ho hm hr w, encCompareWrite_writes ho hm hr w⟩
  · exact fun hm hw => encRateWindow_counts ho hm hw
  · exact fun w hi => ⟨fun he hb hf => ssiFrameStart_starts ho hi he hb hf w, fun he => ssiFrameStart_refused ho hi he w⟩
  · exact fun w hm => ⟨fun he hw => stepTargetWrite_moves ho hm he hw, fun he => stepTargetWrite_refused ho hm he w,
      fun he hv => stepPulse_steps ho hm he hv, fun hr => stepStop_stops ho hm hr w⟩
  · intro pairB fall stamp hm hr hs hsub he ht h0
    have hc : captures s.chip p pairB fall = true := by
      simp only [captures, hm, hr, hs, he]
      cases pairB with
      | false => rfl
      | true => simp [hsub rfl]
    exact ⟨fun hd => capture_takes ho hc ht h0 hd, fun hd => capture_skips ho hc ht hd⟩
  · intro hser
    exact ⟨fun b hh hx hn => serCharacter_heard hser b hh hx hn, fun b hh => serCharacter_unheard hser b hh,
      fun x hopen hw hst hx hk hf hfit => serRecordClose_closes hser hopen hw hst hx hk hf hfit,
      fun b rest hd ht => serTransmit_sends hser hd ht,
      fun x hd ht h0 hx hg _ hl hdep h12 hlen h1 h4 => serTransmit_loads hser hd ht h0 hx hg hl hdep h12 hlen h1 h4⟩

end Sys2Proof.Machine
end

section
/-! PROOFS. Firos links (O47, O48): lines that a link sends, its training and its start-up. -/

namespace Sys2Proof.Machine

open Sys2Proof Sys2Proof.Safety

variable {c : Chip} {s : State} {p : Nat}

/-! ### Lines (R467, R468) -/

/-- The line of a frame's body: the body with its CRC between SOF and EOF, coded. -/
def lineOf (plus : Bool) (body : List Byte) : List (BitVec 10) := (codeLine plus (frameSyms (body ++ bytesOfWord (crc32 body)))).1

/-- A frame has gone out on the line of a port. -/
structure LineSent (c t : Chip) (p typ : Nat) (body : List Byte) : Prop where
  link : linkOf t p = { linkOf c p with plus := (linkOf t p).plus }
  out : t.out = c.out ++ [.firos p typ (lineOf (linkOf c p).plus body)]
  work : KeepsWork c t
  regs : t.regs = c.regs
  tb : t.tb = c.tb

/-- The body of a frame. -/
def frameBody (typ : Nat) (fresh : Bool) (addr stream slot seq rewind : Nat) (l : List QWord) : List Byte :=
  frameHeader typ (decide (poisonMask 0 l ≠ 0)) fresh addr stream slot seq rewind l.length ++
    (if poisonMask 0 l = 0 then [] else bytesOfWord (wd (poisonMask 0 l))) ++ bytesOf (l.map (fun q => q.w))

theorem sendFrame_sent (c : Chip) (p typ : Nat) (fresh : Bool) (addr stream slot seq rewind : Nat) (l : List QWord) :
    LineSent c (sendFrame c p typ fresh addr stream slot seq rewind l) p typ (frameBody typ fresh addr stream slot seq rewind l) := by
  have heq : sendFrame c p typ fresh addr stream slot seq rewind l =
      sendLine c p typ (frameBody typ fresh addr stream slot seq rewind l ++ bytesOfWord (crc32 (frameBody typ fresh addr stream slot seq rewind l))) := rfl
  rw [heq]
  generalize frameBody typ fresh addr stream slot seq rewind l = body
  unfold sendLine
  rcases hline : codeLine (linkOf c p).plus (frameSyms (body ++ bytesOfWord (crc32 body))) with ⟨line, plus⟩
  refine ⟨?_, ?_, ⟨rfl, rfl, rfl⟩, rfl, rfl⟩
  · rw [linkOf_emit, linkOf_updLink_same]
  · rw [lineOf, hline]
    rfl

theorem poisonMask_plain (l : List Word) (i : Nat) : poisonMask i (plain l) = 0 := by
  induction l generalizing i with
  | nil => rfl
  | cons w l ih =>
    show (if false = true then 2 ^ i else 0) + poisonMask (i + 1) (plain l) = 0
    rw [ih]
    rfl

theorem map_word_plain (l : List Word) : (plain l).map (fun q => q.w) = l := by
  rw [plain, List.map_map]
  exact List.map_id l

/-- A frame of words that are not poisoned. -/
theorem frameBody_plain (typ : Nat) (fresh : Bool) (addr stream slot seq rewind : Nat) (l : List Word) :
    frameBody typ fresh addr stream slot seq rewind (plain l) =
      frameHeader typ false fresh addr stream slot seq rewind l.length ++ bytesOf l := by
  have hm := poisonMask_plain l 0
  have hlen : (plain l).length = l.length := List.length_map _
  rw [frameBody, if_pos hm, map_word_plain, decide_eq_false (by simp [hm]), List.append_nil, hlen]

/-- A port whose link sends is a port. -/
theorem portOk_of_linkOk {c : Chip} (h : linkOk c p = true) : portOk c p = true := by
  simp only [linkOk, Bool.and_eq_true] at h
  exact h.1.1.1

/-- A link alone changed. -/
theorem keepsWork_updLink (c : Chip) (p : Nat) (f : Link → Link) : KeepsWork c (updLink c p f) := ⟨rfl, rfl, rfl⟩

/-! ### The changes of a link -/

theorem xLinkTrained_trains (hp : onPll c = true) (hl : (linkOf c p).locked = false) (hf : p ∉ c.flushing)
    (hb : (portOf c p).settleB = false) (hpo : portOk c p = true) (hin : inLink c p = true) (syms : List (BitVec 10)) :
    xLinkTrained c p syms =
      let e := updLink c p (fun l => { l with locked := (rxFeed rxLocks (linkOf c p).rx syms).2, rx := (rxFeed rxLocks (linkOf c p).rx syms).1 })
      if !(rxFeed rxLocks (linkOf c p).rx syms).2 then e
      else
        let u := if (portOf e p).ready then e else setReady e p
        if driving u p then linkStart u p else u :=
  if_pos (by simp [hp, hl, hf, hb, hpo, hin])

/-- Retries forgotten, frames kept. -/
theorem frames_retriesForgotten (l : Tbl Stream) (k : Nat) :
    (Tbl.get {} (l.map (fun e => (e.1, { e.2 with retries := 0 }))) k : Stream).frames = (Tbl.get {} l k).frames := by
  induction l with
  | nil => rfl
  | cons e l ih =>
    show (if e.1 = k then _ else _ : Stream).frames = (if e.1 = k then _ else _ : Stream).frames
    split
    · rfl
    · exact ih

/-- A link that goes down with no management access waiting. -/
theorem linkDown_idle {e : Chip} (hm : (linkOf e p).mgmt = []) : let t := linkDown e p
    (linkOf t p).locked = (linkOf e p).locked ∧ (linkOf t p).lstate = 0 ∧ portOf t p = portOf e p ∧ KeepsWork e t ∧
    (∀ k, (streamOf t p k).frames = (streamOf e p k).frames) := by
  have hm' : (Tbl.get {} e.links p : Link).mgmt = [] := hm
  unfold linkDown
  dsimp only
  rw [hm']
  have hl : linkOf { e with links := Tbl.put {} e.links p { (Tbl.get {} e.links p : Link) with
      lstate := 0, up := 0, echo := 0, syncDue := false, mgmt := [],
      streams := (Tbl.get {} e.links p : Link).streams.map (fun e => (e.1, { e.2 with retries := 0 })) } } p =
      { linkOf e p with lstate := 0, up := 0, echo := 0, syncDue := false, mgmt := [],
                        streams := (linkOf e p).streams.map (fun e => (e.1, { e.2 with retries := 0 })) } := Tbl.get_put_same _ _ _ _
  have hp : portOf { e with links := Tbl.put {} e.links p { (Tbl.get {} e.links p : Link) with
      lstate := 0, up := 0, echo := 0, syncDue := false, mgmt := [],
      streams := (Tbl.get {} e.links p : Link).streams.map (fun e => (e.1, { e.2 with retries := 0 })) } } p = portOf e p := rfl
  have hw : KeepsWork e { e with links := Tbl.put {} e.links p { (Tbl.get {} e.links p : Link) with
      lstate := 0, up := 0, echo := 0, syncDue := false, mgmt := [],
      streams := (Tbl.get {} e.links p : Link).streams.map (fun e => (e.1, { e.2 with retries := 0 })) } } := ⟨rfl, rfl, rfl⟩
  simp only [List.filterMap_nil, List.foldl_nil]
  generalize ({ e with links := Tbl.put {} e.links p { (Tbl.get {} e.links p : Link) with
      lstate := 0, up := 0, echo := 0, syncDue := false, mgmt := [],
      streams := (Tbl.get {} e.links p : Link).streams.map (fun e => (e.1, { e.2 with retries := 0 })) } } : Chip) = u at hl hp hw
  have hstream (k : Nat) : (streamOf u p k).frames = (streamOf e p k).frames := by
    rw [streamOf, hl]
    exact frames_retriesForgotten _ _
  split
  · exact ⟨by rw [hl], by rw [hl], hp, hw, hstream⟩
  · exact ⟨by rw [linkOf_regOr, hl], by rw [linkOf_regOr, hl], by rw [portOf_regOr, hp], keepsWork_trans hw ⟨rfl, rfl, rfl⟩,
      fun k => (congrArg Stream.frames (by rw [streamOf, linkOf_regOr, streamOf])).trans (hstream k)⟩

section
variable (ho : portOk s.chip p = true) (hi : inLink s.chip p = true)
include ho hi

/-! ### Training (R469) -/

theorem linkTrained_unlocked (hp : onPll s.chip = true) (hl : (linkOf s.chip p).locked = false) (hf : p ∉ s.chip.flushing)
    (hb : (portOf s.chip p).settleB = false) {syms : List (BitVec 10)} (hr : (rxFeed rxLocks (linkOf s.chip p).rx syms).2 = false) :
    leaves (.linkTrained ⟨p, syms⟩) s (fun t => (linkOf t p).locked = false ∧
      (linkOf t p).lstate = (linkOf s.chip p).lstate ∧ t.ports = s.chip.ports ∧ KeepsWork s.chip t ∧ OnlyRegs [] s.chip t) := by
  refine leaves_of_onUnit (f := fun c => xLinkTrained c p syms) rfl (isPort_of_portOk ho) ?_
  show _ ∧ _ ∧ _ ∧ _ ∧ _
  rw [xLinkTrained_trains hp hl hf hb ho hi]
  dsimp only
  rw [hr, if_pos (show (!false) = true from rfl), linkOf_updLink_same]
  exact ⟨rfl, rfl, rfl, ⟨rfl, rfl, rfl⟩, onlyRegs_of_regs rfl⟩

/-- A port that has locked begins its link. -/
theorem linkTrained_locked (hp : onPll s.chip = true) (hl : (linkOf s.chip p).locked = false) (hf : p ∉ s.chip.flushing)
    (hb : (portOf s.chip p).settleB = false) {syms : List (BitVec 10)} (hr : (rxFeed rxLocks (linkOf s.chip p).rx syms).2 = true)
    (hrd : (portOf s.chip p).ready = false) (hh : (portOf s.chip p).held = []) (hil : (portOf s.chip p).ilim = false)
    (hsh : (portOf s.chip p).safeh = false) (hst : (linkOf s.chip p).lstate = 0) :
    leaves (.linkTrained ⟨p, syms⟩) s (fun t => (linkOf t p).locked = true ∧ (portOf t p).ready = true ∧ KeepsWork s.chip t ∧
      OnlyRegs [] s.chip t ∧ (linkOf t p).lstate = (if bit (regVal s.chip (fpReg p 0)) 9 then 1 else 0)) := by
  have hm : (portOf s.chip p).mode = 1 := by simpa [inLink] using hi
  refine leaves_of_onUnit (f := fun c => xLinkTrained c p syms) rfl (isPort_of_portOk ho) ?_
  show _ ∧ _ ∧ _ ∧ _ ∧ _
  rw [xLinkTrained_trains hp hl hf hb ho hi]
  dsimp only
  rw [hr, if_neg (by decide)]
  have hport : portOf (updLink s.chip p (fun l => { l with locked := true, rx := (rxFeed rxLocks (linkOf s.chip p).rx syms).1 })) p =
      portOf s.chip p := rfl
  have hlink : linkOf (updLink s.chip p (fun l => { l with locked := true, rx := (rxFeed rxLocks (linkOf s.chip p).rx syms).1 })) p =
      { linkOf s.chip p with locked := true, rx := (rxFeed rxLocks (linkOf s.chip p).rx syms).1 } := linkOf_updLink_same _ _ _
  have hregs : (updLink s.chip p (fun l => { l with locked := true, rx := (rxFeed rxLocks (linkOf s.chip p).rx syms).1 })).regs =
      s.chip.regs := rfl
  have hwork := keepsWork_updLink s.chip p (fun l => { l with locked := true, rx := (rxFeed rxLocks (linkOf s.chip p).rx syms).1 })
  generalize updLink s.chip p (fun l => { l with locked := true, rx := (rxFeed rxLocks (linkOf s.chip p).rx syms).1 }) = e
    at hport hlink hregs hwork
  have hready : setReady e p = updPort e p (fun r => { r with ready := true, held := [], settleA := false, settleB := false }) := by
    rw [setReady, hport, hh]
    rfl
  rw [if_neg (show ¬ (portOf e p).ready = true by simp [hport, hrd]), hready]
  have hport' : portOf (updPort e p (fun r => { r with ready := true, held := [], settleA := false, settleB := false })) p =
      { portOf s.chip p with ready := true, held := [], settleA := false, settleB := false } := by
    rw [portOf_updPort_same, hport]
  have hlink' : linkOf (updPort e p (fun r => { r with ready := true, held := [], settleA := false, settleB := false })) p = linkOf e p := rfl
  have hregs' : (updPort e p (fun r => { r with ready := true, held := [], settleA := false, settleB := false })).regs = s.chip.regs := hregs
  have hwork' := keepsWork_trans hwork (keepsWork_updPort e p (fun r => { r with ready := true, held := [], settleA := false, settleB := false }))
  generalize updPort e p (fun r => { r with ready := true, held := [], settleA := false, settleB := false }) = u
    at hport' hlink' hregs' hwork'
  have hdrive : driving u p = bit (regVal s.chip (fpReg p 0)) 9 := by
    simp only [driving, canDrive, enabled, isHalf, hport', hm, hil, hsh, regVal_of_regs hregs']
    simp [hasOut]
  rw [hdrive]
  split
  · unfold linkStart
    dsimp only
    rw [hlink', hlink, hport', if_pos ⟨hm, rfl, hst⟩, linkOf_updLink_same, hlink', hlink, portOf_updLink, hport']
    exact ⟨rfl, rfl, keepsWork_trans hwork' (keepsWork_updLink _ _ _), keepsRegs_trans (keepsRegs_of_regs hregs') (keepsRegs_of_regs rfl), rfl⟩
  · rw [hlink', hlink, hport']
    exact ⟨rfl, rfl, hwork', onlyRegs_of_regs hregs', hst⟩

/-! ### Loss of lock and restart (R471, R474) -/

theorem lockLoss_keeps (hl : (linkOf s.chip p).locked = true) {syms : List (BitVec 10)}
    (hr : (rxFeed rxLoses (linkOf s.chip p).rx syms).2 = false) : leaves (.lockLoss ⟨p, syms⟩) s (fun t =>
      t = updLink s.chip p (fun l => { l with rx := (rxFeed rxLoses (linkOf s.chip p).rx syms).1 })) := by
  refine leaves_of_onUnit (f := fun c => xLockLoss c p syms) rfl (isPort_of_portOk ho) ?_
  show xLockLoss s.chip p syms = _
  unfold xLockLoss
  rw [if_pos (by simp [ho, hi, hl])]
  rcases hf : rxFeed rxLoses (linkOf s.chip p).rx syms with ⟨r, lost⟩
  rw [hf] at hr
  dsimp only at hr ⊢
  rw [hr, if_neg (by decide)]

theorem lockLoss_loses (hl : (linkOf s.chip p).locked = true) {syms : List (BitVec 10)}
    (hr : (rxFeed rxLoses (linkOf s.chip p).rx syms).2 = true) (hm : (linkOf s.chip p).mgmt = []) :
    leaves (.lockLoss ⟨p, syms⟩) s (fun t =>
      (linkOf t p).locked = false ∧ (linkOf t p).lstate = 0 ∧ (portOf t p).ready = (portOf s.chip p).ready ∧ KeepsWork s.chip t ∧
      ∀ k, (streamOf t p k).frames = (streamOf s.chip p k).frames) := by
  have hx : xLockLoss s.chip p syms = linkDown (updLink s.chip p (fun l => { l with locked := false, rx := {} })) p := by
    unfold xLockLoss
    rw [if_pos (by simp [ho, hi, hl])]
    rcases hf : rxFeed rxLoses (linkOf s.chip p).rx syms with ⟨r, lost⟩
    rw [hf] at hr
    dsimp only at hr ⊢
    rw [hr, if_pos rfl]
  have hlink : linkOf (updLink s.chip p (fun l => { l with locked := false, rx := {} })) p = { linkOf s.chip p with locked := false, rx := {} } :=
    linkOf_updLink_same _ _ _
  have hport : portOf (updLink s.chip p (fun l => { l with locked := false, rx := {} })) p = portOf s.chip p := rfl
  have hwork := keepsWork_updLink s.chip p (fun l => { l with locked := false, rx := {} })
  refine leaves_of_onUnit (f := fun c => xLockLoss c p syms) rfl (isPort_of_portOk ho) ?_
  show _ ∧ _ ∧ _ ∧ _ ∧ _
  rw [hx]
  generalize updLink s.chip p (fun l => { l with locked := false, rx := {} }) = e at hlink hport hwork
  obtain ⟨hlock, hstate, hp, hw, hf⟩ := linkDown_idle (e := e) (by rw [hlink]; exact hm)
  refine ⟨by rw [hlock, hlink], hstate, by rw [hp, hport], keepsWork_trans hwork hw, fun k => (hf k).trans ?_⟩
  rw [streamOf, hlink, streamOf]

theorem linkRestart_starts {w : Word} (hw : bit w 0 = true) (hr : (portOf s.chip p).ready = true) (hd : driving s.chip p = true)
    (hl : (linkOf s.chip p).locked = true) : leaves (.linkRestart p w) s (fun t =>
      (linkOf t p).lstate = 1 ∧ (linkOf t p).up = 3 ∧ KeepsWork s.chip t ∧ OnlyRegs [] s.chip t) := by
  have hm : (portOf s.chip p).mode = 1 := by simpa [inLink] using hi
  have hx : xLinkRestart s.chip p w = linkStart (updLink s.chip p (fun l => { l with lstate := 0, up := 0 })) p := by
    have hd' : driving (updLink s.chip p (fun l => { l with lstate := 0, up := 0 })) p = true := hd
    unfold xLinkRestart
    rw [if_pos (by simp [ho, hi]), if_neg (by simp [hr]), if_pos hw]
    exact if_pos hd'
  have hlink : linkOf (updLink s.chip p (fun l => { l with lstate := 0, up := 0 })) p = { linkOf s.chip p with lstate := 0, up := 0 } :=
    linkOf_updLink_same _ _ _
  have hport : portOf (updLink s.chip p (fun l => { l with lstate := 0, up := 0 })) p = portOf s.chip p := rfl
  have hwork := keepsWork_updLink s.chip p (fun l => { l with lstate := 0, up := 0 })
  have hregs : (updLink s.chip p (fun l => { l with lstate := 0, up := 0 })).regs = s.chip.regs := rfl
  refine leaves_of_onUnit (f := fun c => xLinkRestart c p w) rfl (isPort_of_portOk ho) ?_
  show _ ∧ _ ∧ _ ∧ _
  rw [hx]
  generalize updLink s.chip p (fun l => { l with lstate := 0, up := 0 }) = e at hlink hport hwork hregs
  unfold linkStart
  dsimp only
  rw [hlink, hport, if_pos ⟨hm, hl, rfl⟩, linkOf_updLink_same]
  exact ⟨rfl, rfl, keepsWork_trans hwork (keepsWork_updLink _ _ _), keepsRegs_trans (keepsRegs_of_regs hregs) (keepsRegs_of_regs rfl)⟩

/-- A cycle of the local time base begins (R487). -/
theorem linkCycleStart_begins (hb : bit (regVal s.chip (fpReg p 8)) 12 = true)
    (hn : bits (regVal s.chip (fpReg p 8)) 27 16 * 500 ≠ 0)
    (hc : (linkOf s.chip p).cycle ≠ some (s.chip.tb - s.chip.tb % (bits (regVal s.chip (fpReg p 8)) 27 16 * 500))) :
    let len := bits (regVal s.chip (fpReg p 8)) 27 16 * 500
    leaves (.linkCycleStart p) s (fun t =>
      linkOf t p = { linkOf s.chip p with cycle := some (s.chip.tb - s.chip.tb % len), cycLen := len,
                                          syncDue := decide ((linkOf s.chip p).lstate = 2) } ∧
      KeepsWork s.chip t ∧ OnlyRegs [] s.chip t) := by
  intro len
  have hx : xLinkCycleStart s.chip p = updLink s.chip p (fun l =>
      { l with cycle := some (s.chip.tb - s.chip.tb % len), cycLen := len, syncDue := decide (l.lstate = 2) }) := by
    unfold xLinkCycleStart
    rw [if_pos (by simp [ho, hi])]
    dsimp only
    rw [if_pos hb, if_neg hn]
    exact if_neg hc
  refine leaves_of_onUnit (f := fun c => xLinkCycleStart c p) rfl (isPort_of_portOk ho) ?_
  show _ ∧ _ ∧ _
  rw [hx, linkOf_updLink_same]
  exact ⟨rfl, keepsWork_updLink _ _ _, onlyRegs_of_regs rfl⟩

end

/-! ### Enumeration, echoes and delays (R475 to R478) -/

theorem startupEnum_sends (hk : linkOk s.chip p = true) (hs : (linkOf s.chip p).lstate = 1) (hl : (linkOf s.chip p).locked = true)
    (hu : (linkOf s.chip p).up = 3) : leaves (.startupEnum p) s (fun t =>
      linkOf t p = { linkOf s.chip p with up := 4, plus := (linkOf t p).plus } ∧
      t.out = s.chip.out ++ [.firos p 7 (lineOf (linkOf s.chip p).plus [7, 15, 0, 0, 0, 1, 0, 0, 0, 0, 0, 0])] ∧
      KeepsWork s.chip t ∧ OnlyRegs [] s.chip t) := by
  have hstart : linkStart s.chip p = s.chip := by
    unfold linkStart
    exact if_neg (by simp [hs])
  have hx : xStartupEnum s.chip p =
      sendFrame (updLink s.chip p (fun l => { l with up := 4 })) p 7 false 15 0 0 0 0 (plain [0]) := by
    unfold xStartupEnum
    rw [if_pos (by simp [hk, hl]), hstart]
    exact if_pos ⟨hs, hu⟩
  refine leaves_of_onUnit (f := fun c => xStartupEnum c p) rfl (isPort_of_portOk (portOk_of_linkOk hk)) ?_
  show _ ∧ _ ∧ _ ∧ _
  rw [hx]
  have hsent := sendFrame_sent (updLink s.chip p (fun l => { l with up := 4 })) p 7 false 15 0 0 0 0 (plain [0])
  generalize sendFrame (updLink s.chip p (fun l => { l with up := 4 })) p 7 false 15 0 0 0 0 (plain [0]) = t at hsent
  have hlink := hsent.link
  have hout := hsent.out
  rw [linkOf_updLink_same] at hlink hout
  exact ⟨hlink, hout, keepsWork_trans (keepsWork_updLink _ _ _) hsent.work, onlyRegs_of_regs hsent.regs⟩

theorem enumReturn_counts (hk : linkOk s.chip p = true) (hs : (linkOf s.chip p).lstate = 1) (hu : (linkOf s.chip p).up = 4) {n : Nat}
    (h1 : 1 ≤ n) (h8 : n ≤ 8) : leaves (.enumReturn p n false) s (fun t =>
      linkOf t p = { linkOf s.chip p with nodes := n, echo := 1, up := 5, idents := [] } ∧ KeepsWork s.chip t ∧ OnlyRegs [] s.chip t) := by
  have hn : n ≠ 0 := Nat.pos_iff_ne_zero.mp h1
  have hx : xEnumReturn s.chip p n false = updLink s.chip p (fun l => { l with nodes := n, echo := 1, up := 5, idents := [] }) := by
    unfold xEnumReturn
    dsimp only
    rw [if_pos (by simp [hk, hs, hu]), if_neg (by simp; omega), if_neg hn, if_neg hn]
  refine leaves_of_onUnit (f := fun c => xEnumReturn c p n false) rfl (isPort_of_portOk (portOk_of_linkOk hk)) ?_
  show _ ∧ _ ∧ _
  rw [hx, linkOf_updLink_same]
  exact ⟨rfl, keepsWork_updLink _ _ _, onlyRegs_of_regs rfl⟩

theorem enumReturn_refused (hk : linkOk s.chip p = true) (hs : (linkOf s.chip p).lstate = 1) (hu : (linkOf s.chip p).up = 4) {n : Nat}
    {e : Bool} (he : e = true ∨ 8 < n) : leaves (.enumReturn p n e) s (fun t =>
      linkOf t p = { linkOf s.chip p with up := 0, topo := true } ∧ bit (regVal t (fpReg p 0x14)) 10 = true ∧ KeepsWork s.chip t) := by
  have hx : xEnumReturn s.chip p n e = regOr (updLink s.chip p (fun l => { l with up := 0, topo := true })) (fpReg p 0x14) 0x400 := by
    unfold xEnumReturn
    dsimp only
    rw [if_pos (by simp [hk, hs, hu]), if_pos he]
  refine leaves_of_onUnit (f := fun c => xEnumReturn c p n e) rfl (isPort_of_portOk (portOk_of_linkOk hk)) ?_
  show _ ∧ _ ∧ _
  rw [hx, linkOf_regOr, linkOf_updLink_same, bit_regOr _ _ _ (by decide), show Nat.testBit 0x400 10 = true from by decide, Bool.or_true]
  exact ⟨rfl, rfl, ⟨rfl, rfl, rfl⟩⟩

theorem enumTimeout_repeats (ho : portOk s.chip p = true) (hs : (linkOf s.chip p).lstate = 1) (hu : (linkOf s.chip p).up = 4) :
    leaves (.enumTimeout p) s (fun t => t = updLink s.chip p (fun l => { l with up := 3 })) :=
  leaves_of_onUnit (f := fun c => xEnumTimeout c p) rfl (isPort_of_portOk ho) (if_pos (by simp [ho, hs, hu]))

/-- What a node's echo leaves of its link. -/
def echoed (l : Link) (x : Nat) (ident : Word) : Link :=
  { l with idents := l.idents ++ [ident], mgmt := l.mgmt ++ [⟨l.echo, 0x118, wd (oneWay x), false, none⟩],
           rtt := if l.echo = l.nodes then (x + 2) / 4 else l.rtt, echo := l.echo + 1, up := if l.nodes ≤ l.echo then 7 else 5 }

theorem echoReply_echoed (hk : linkOk s.chip p = true) (hs : (linkOf s.chip p).lstate = 1) (hu : (linkOf s.chip p).up = 6) (x : Nat)
    (ident : Word) : leaves (.echoReply p x ident) s (fun t =>
      linkOf t p = echoed (linkOf s.chip p) x ident ∧ KeepsWork s.chip t) := by
  have hx : xEchoReply s.chip p x ident = updLink s.chip p (fun l => echoed l x ident) := by
    unfold xEchoReply
    exact if_pos (by simp [hk, hs, hu])
  refine leaves_of_onUnit (f := fun c => xEchoReply c p x ident) rfl (isPort_of_portOk (portOk_of_linkOk hk)) ?_
  show _ ∧ _
  rw [hx, linkOf_updLink_same]
  exact ⟨rfl, keepsWork_updLink _ _ _⟩

/-- The write of the last node's delay brings the link UP. -/
theorem dataFrameSend_lastDelay (hk : linkOk s.chip p = true) (hs : (linkOf s.chip p).lstate = 1) (hu : (linkOf s.chip p).up = 7) {w : Word}
    (hm : (linkOf s.chip p).mgmt = [⟨(linkOf s.chip p).nodes, 0x118, w, false, none⟩]) : leaves (.dataFrameSend p) s (fun t =>
      (linkOf t p).lstate = 2 ∧ (linkOf t p).mgmt = [] ∧ (linkOf t p).started = true ∧
      t.out = s.chip.out ++ [.firos p 5 (lineOf (linkOf s.chip p).plus
        ([5, BitVec.ofNat 8 (linkOf s.chip p).nodes, 0, 0, 0, 2, 0, 0] ++ bytesOfWord 0x118 ++ bytesOfWord w))] ∧ KeepsWork s.chip t) := by
  refine leaves_of_onUnit (f := fun c => xDataFrameSend c p) rfl (isPort_of_portOk (portOk_of_linkOk hk)) ?_
  show _ ∧ _ ∧ _ ∧ _ ∧ _
  generalize hn : (linkOf s.chip p).nodes = n at hm
  have hx : xDataFrameSend s.chip p =
      linkUp (sendFrame (updLink s.chip p (fun l => { l with mgmt := [] })) p 5 false n 0 0 0 0 (plain [0x118, w])) p := by
    have hmap : updLink s.chip p (fun l => { l with mgmt := l.mgmt.filterMap (fun x =>
          if x = ⟨n, 0x118, w, false, none⟩ then none else some x) }) = updLink s.chip p (fun l => { l with mgmt := [] }) := by
      have heq : { linkOf s.chip p with mgmt := (linkOf s.chip p).mgmt.filterMap (fun x : Mgmt =>
          if x = ⟨n, 0x118, w, false, none⟩ then none else some x) } = { linkOf s.chip p with mgmt := [] } := by
        rw [hm]
        simp
      exact congrArg (fun l => { s.chip with links := Tbl.put {} s.chip.links p l }) heq
    unfold xDataFrameSend
    dsimp only
    rw [if_pos (by simp [hk, hs]), if_neg (by simp [hs]), if_neg (by simp [hs])]
    unfold sendMgmt
    dsimp only
    rw [hm]
    show (if lastDelay (linkOf s.chip p) ⟨n, 0x118, w, false, none⟩ then _ else _) = _
    rw [if_pos (by simp [lastDelay, hs, hu, hn])]
    exact congrArg (fun c => linkUp (sendFrame c p 5 false n 0 0 0 0 (plain [0x118, w])) p) hmap
  rw [hx]
  have hsent := sendFrame_sent (updLink s.chip p (fun l => { l with mgmt := [] })) p 5 false n 0 0 0 0 (plain [0x118, w])
  generalize sendFrame (updLink s.chip p (fun l => { l with mgmt := [] })) p 5 false n 0 0 0 0 (plain [0x118, w]) = t at hsent
  have hlink := hsent.link
  have hout := hsent.out
  rw [linkOf_updLink_same] at hlink hout
  rw [frameBody_plain] at hout
  rw [linkUp, linkOf_updLink_same, hlink]
  refine ⟨rfl, rfl, rfl, ?_, keepsWork_trans (keepsWork_updLink _ _ _) (keepsWork_trans hsent.work (keepsWork_updLink _ _ _))⟩
  show t.out = _
  rw [hout]
  rfl

/-- Settles O47: each clause by what its command leaves of the link; a frame that is sent by its body (`sendFrame_sent`). -/
theorem linkStartUp : Obligations.LinkStartUp := by
  unfold Obligations.LinkStartUp
  intro s p ho hi c l r line
  refine ⟨fun syms hp hl hf hb hr => linkTrained_unlocked ho hi hp hl hf hb hr,
    fun syms hp hl hf hb hr hrd hh hil hsh hst => linkTrained_locked ho hi hp hl hf hb hr hrd hh hil hsh hst,
    fun hk hs => ⟨fun hl hu => startupEnum_sends hk hs hl hu, fun n hu h1 h8 => enumReturn_counts hk hs hu h1 h8,
      fun n e hu he => enumReturn_refused hk hs hu he, fun hu => enumTimeout_repeats ho hs hu, fun x ident hu => ⟨fun hlt => ?_, fun heq => ?_⟩,
      fun w hu hm => dataFrameSend_lastDelay hk hs hu hm⟩,
    fun syms hl hr => lockLoss_keeps ho hi hl hr, fun syms hl hr hm => lockLoss_loses ho hi hl hr hm,
    fun w hw hrd hd hl => linkRestart_starts ho hi hw hrd hd hl, fun hb hn hc => linkCycleStart_begins ho hi hb hn hc⟩
  · refine leaves_mono (echoReply_echoed hk hs hu x ident) ?_
    rintro t ⟨hl, hw⟩
    rw [hl]
    exact ⟨hs, rfl, if_neg (Nat.not_le.mpr hlt), rfl, rfl, hw⟩
  · refine leaves_mono (echoReply_echoed hk hs hu x ident) ?_
    rintro t ⟨hl, hw⟩
    rw [hl]
    exact ⟨hs, if_pos heq.ge, if_pos heq, rfl, hw⟩

end Sys2Proof.Machine
end

section
/-! PROOFS. Firos links (O48): frames, acknowledgements, STATUS and management of a link that is UP. -/

namespace Sys2Proof.Machine

open Sys2Proof Sys2Proof.Safety

variable {c : Chip} {s : State} {p k : Nat} {st : Stream} {f : LFrame}

/-! ### Streams -/

theorem linkOf_updStream (c : Chip) (p k : Nat) (g : Stream → Stream) :
    linkOf (updStream c p k g) p = { linkOf c p with streams := Tbl.put {} (linkOf c p).streams k (g (streamOf c p k)) } :=
  linkOf_updLink_same _ _ _

theorem streamOf_updStream_same (c : Chip) (p k : Nat) (g : Stream → Stream) : streamOf (updStream c p k g) p k = g (streamOf c p k) := by
  rw [streamOf, linkOf_updStream, Tbl.get_put_same]

theorem streamOf_of_links {c d : Chip} (h : d.links = c.links) (p k : Nat) : streamOf d p k = streamOf c p k := by
  rw [streamOf, linkOf, h]
  rfl

/-- A link with one stream: the stream. -/
theorem streamOf_single (h : (linkOf c p).streams = [(k, st)]) : streamOf c p k = st := by
  rw [streamOf, h]
  exact if_pos rfl

/-- A link with one stream: no other stream has a frame. -/
theorem streamOf_single_other (h : (linkOf c p).streams = [(k, st)]) {j : Nat} (hj : j ≠ k) : streamOf c p j = {} := by
  rw [streamOf, h]
  exact if_neg (Ne.symm hj)

/-- One stream changed, others keep what they have. -/
theorem streamOf_updStream_other (c : Chip) (p k : Nat) (g : Stream → Stream) {j : Nat} (hj : j ≠ k) :
    streamOf (updStream c p k g) p j = streamOf c p j := by
  rw [streamOf, linkOf_updStream]
  exact Tbl.get_put_other _ _ _ hj

/-! ### Data frames (R467, R479, R480) -/

theorem poisonMask_eq_zero (l : List QWord) (i : Nat) : poisonMask i l = 0 ↔ l.any (fun q => q.p) = false := by
  induction l generalizing i with
  | nil => simp [poisonMask]
  | cons q l ih =>
    rw [poisonMask, Nat.add_eq_zero_iff, ih, List.any_cons, Bool.or_eq_false_iff]
    cases q.p <;> simp

/-- The body of a data frame. -/
def dataFrame (k : Nat) (f : LFrame) (first : Bool) : List Byte :=
  let bad := f.words.any (fun q => q.p)
  [BitVec.ofNat 8 (1 + (if bad then 16 else 0) + (if first then 32 else 0)), BitVec.ofNat 8 (15 + 16 * k), BitVec.ofNat 8 f.slotNo,
    BitVec.ofNat 8 f.seq, BitVec.ofNat 8 f.seq, BitVec.ofNat 8 f.words.length, 0, 0] ++
  (if bad then bytesOfWord (wd (poisonMask 0 f.words)) else []) ++ bytesOf (f.words.map (fun q => q.w))

theorem frameBody_data (k : Nat) (f : LFrame) (first : Bool) :
    frameBody 1 first 15 k f.slotNo f.seq f.seq f.words = dataFrame k f first := by
  unfold frameBody dataFrame
  dsimp only
  by_cases hm : poisonMask 0 f.words = 0
  · rw [if_pos hm, decide_eq_false (not_not_intro hm), (poisonMask_eq_zero f.words 0).mp hm]
    cases first <;> rfl
  · have hbad : f.words.any (fun q => q.p) = true := by
      rw [← Bool.not_eq_false]
      exact fun h => hm ((poisonMask_eq_zero f.words 0).mpr h)
    rw [if_neg hm, decide_eq_true hm, hbad]
    cases first <;> rfl

/-- A frame that has been sent. -/
def sentFrame (c : Chip) (st : Stream) (f : LFrame) : LFrame :=
  { f with sent := true, again := false, sentAt := c.tb, fresh := st.fresh || f.fresh }

/-- The only frame of a stream has gone out. -/
structure DataSent (c t : Chip) (p k : Nat) (st : Stream) (f : LFrame) : Prop where
  stream : streamOf t p k = { st with fresh := false, frames := [sentFrame c st f] }
  retx : (linkOf t p).retx = (linkOf c p).retx
  out : t.out = c.out ++ [.firos p 1 (lineOf (linkOf c p).plus (dataFrame k f (st.fresh || f.fresh)))]
  work : KeepsWork c t
  regs : t.regs = c.regs

theorem sendData_single (h : (linkOf c p).streams = [(k, st)]) (hf : st.frames = [f]) : DataSent c (sendData c p k f) p k st f := by
  have hst := streamOf_single h
  have hrew : rewindOf st = f.seq := by
    unfold rewindOf
    rw [hf]
  have hx : sendData c p k f =
      updStream (sendFrame c p 1 (st.fresh || f.fresh) 15 k f.slotNo f.seq f.seq f.words) p k (fun x =>
        { x with fresh := false, frames := x.frames.map (fun y =>
          if y.seq = f.seq then
            { y with sent := true, again := false, sentAt := (sendFrame c p 1 (st.fresh || f.fresh) 15 k f.slotNo f.seq f.seq f.words).tb,
                     fresh := st.fresh || f.fresh }
          else y) }) := by
    unfold sendData
    dsimp only
    rw [hst, hrew]
  have hsent := sendFrame_sent c p 1 (st.fresh || f.fresh) 15 k f.slotNo f.seq f.seq f.words
  rw [frameBody_data] at hsent
  generalize sendFrame c p 1 (st.fresh || f.fresh) 15 k f.slotNo f.seq f.seq f.words = t at hx hsent
  have hstream : streamOf t p k = st := by
    rw [streamOf, hsent.link]
    exact hst
  rw [hx]
  refine ⟨?_, ?_, hsent.out, keepsWork_trans hsent.work ⟨rfl, rfl, rfl⟩, hsent.regs⟩
  · rw [streamOf_updStream_same, hstream, hf, hsent.tb, List.map_cons, List.map_nil, if_pos rfl]
    rfl
  · rw [linkOf_updStream, hsent.link]

section
variable (hk : linkOk s.chip p = true) (hs : (linkOf s.chip p).lstate = 2)
include hk hs

theorem dataFrameSend_sync (hd : (linkOf s.chip p).syncDue = true) : leaves (.dataFrameSend p) s (fun t =>
    linkOf t p = { linkOf s.chip p with syncDue := false, plus := (linkOf t p).plus } ∧ KeepsWork s.chip t ∧ OnlyRegs [] s.chip t ∧
    t.out = s.chip.out ++ [.firos p 2 (lineOf (linkOf s.chip p).plus ([2, 15, 0, 0, 0, 4, 0, 0] ++ bytesOf [wd s.chip.tb,
      wd (s.chip.tb / 2 ^ 32), wd (bits (regVal s.chip (fpReg p 8)) 11 0 * 40), wd (linkOf s.chip p).cycLen]))]) := by
  have hx : xDataFrameSend s.chip p = sendFrame (updLink s.chip p (fun l => { l with syncDue := false })) p 2 false 15 0 0 0 0
      (plain [wd s.chip.tb, wd (s.chip.tb / 2 ^ 32), wd (regFld s.chip (fpReg p 0x08) 11 0 * 40), wd (linkOf s.chip p).cycLen]) := by
    unfold xDataFrameSend
    dsimp only
    rw [if_pos (by simp [hk, hs])]
    exact if_pos ⟨hs, hd⟩
  refine leaves_of_onUnit (f := fun c => xDataFrameSend c p) rfl (isPort_of_portOk (portOk_of_linkOk hk)) ?_
  show _ ∧ _ ∧ _ ∧ _
  rw [hx]
  have hsent := sendFrame_sent (updLink s.chip p (fun l => { l with syncDue := false })) p 2 false 15 0 0 0 0
    (plain [wd s.chip.tb, wd (s.chip.tb / 2 ^ 32), wd (regFld s.chip (fpReg p 0x08) 11 0 * 40), wd (linkOf s.chip p).cycLen])
  rw [frameBody_plain] at hsent
  generalize sendFrame (updLink s.chip p (fun l => { l with syncDue := false })) p 2 false 15 0 0 0 0
    (plain [wd s.chip.tb, wd (s.chip.tb / 2 ^ 32), wd (regFld s.chip (fpReg p 0x08) 11 0 * 40), wd (linkOf s.chip p).cycLen]) = t
    at hsent
  have hlink := hsent.link
  have hout := hsent.out
  rw [linkOf_updLink_same] at hlink hout
  exact ⟨hlink, keepsWork_trans (keepsWork_updLink _ _ _) hsent.work, onlyRegs_of_regs hsent.regs, hout⟩

variable (hd : (linkOf s.chip p).syncDue = false) (h : (linkOf s.chip p).streams = [(k, st)]) (hf : st.frames = [f])
include hd h hf

/-- A new frame whose time has come. -/
theorem dataFrameSend_new (hsent : f.sent = false) (hag : f.again = false) (ht : f.start ≤ s.chip.tb) (hlate : f.late = false)
    (hlane : f.lane = 9) : leaves (.dataFrameSend p) s (fun t => DataSent s.chip t p k st f) := by
  have hagain : firstAgain st = none := by
    rw [firstAgain, hf]
    exact List.find?_eq_none.mpr (by simp [hag])
  have hnew : firstNew st = some f := by
    rw [firstNew, hf]
    exact List.find?_cons_of_pos (by simp [hsent])
  have hready (b : Bool) : ready_ s.chip p b = if f.slot.isSome = b then [(k, f)] else [] := by
    unfold ready_
    rw [h, List.filterMap_cons, hagain, hnew]
    dsimp only
    by_cases hb : f.slot.isSome = b
    · rw [if_pos ⟨hb, ht⟩, if_pos hb]
      rfl
    · rw [if_neg (fun hh => hb hh.1), if_neg hb]
      rfl
  have hsend : sendNew s.chip p k f = sendData s.chip p k f := by
    unfold sendNew
    rw [hlate]
    unfold linksendDone
    exact if_pos (by rw [hlane]; decide)
  have hfind : (linkOf s.chip p).streams.find? (fun e => (firstAgain e.2).isSome) = none := by
    rw [h]
    exact List.find?_eq_none.mpr (by simp [hagain])
  have hx : xDataFrameSend s.chip p = sendData s.chip p k f := by
    unfold xDataFrameSend
    dsimp only
    rw [if_pos (by simp [hk, hs]), if_neg (by simp [hd]), if_pos hs, hfind, hready, hready]
    dsimp only
    cases hb : f.slot.isSome with
    | true => exact hsend
    | false => exact hsend
  refine leaves_of_onUnit (f := fun c => xDataFrameSend c p) rfl (isPort_of_portOk (portOk_of_linkOk hk)) ?_
  show DataSent _ _ _ _ _ _
  rw [hx]
  exact sendData_single h hf

/-- A frame that is sent again. -/
theorem dataFrameSend_again (hag : f.again = true) : leaves (.dataFrameSend p) s (fun t =>
    (streamOf t p k).frames = [sentFrame s.chip st f] ∧
    t.out = s.chip.out ++ [.firos p 1 (lineOf (linkOf s.chip p).plus (dataFrame k f (st.fresh || f.fresh)))] ∧
    (linkOf t p).retx = (linkOf s.chip p).retx + 1 ∧ KeepsWork s.chip t ∧ OnlyRegs [] s.chip t) := by
  have hagain : firstAgain st = some f := by
    rw [firstAgain, hf]
    exact List.find?_cons_of_pos hag
  have hfind : (linkOf s.chip p).streams.find? (fun e => (firstAgain e.2).isSome) = some (k, st) := by
    rw [h]
    exact List.find?_cons_of_pos (by simp [hagain])
  have hx : xDataFrameSend s.chip p = updLink (sendData s.chip p k f) p (fun l => { l with retx := l.retx + 1 }) := by
    unfold xDataFrameSend
    dsimp only
    rw [if_pos (by simp [hk, hs]), if_neg (by simp [hd]), if_pos hs, hfind]
    dsimp only
    rw [hagain]
  have hsent := sendData_single h hf
  refine leaves_of_onUnit (f := fun c => xDataFrameSend c p) rfl (isPort_of_portOk (portOk_of_linkOk hk)) ?_
  show _ ∧ _ ∧ _ ∧ _ ∧ _
  rw [hx]
  generalize sendData s.chip p k f = t at hsent
  refine ⟨?_, hsent.out, ?_, keepsWork_trans hsent.work (keepsWork_updLink _ _ _), onlyRegs_of_regs hsent.regs⟩
  · rw [streamOf, linkOf_updLink_same]
    exact congrArg Stream.frames hsent.stream
  · rw [linkOf_updLink_same]
    exact congrArg (· + 1) hsent.retx

end

end Sys2Proof.Machine
end

section
/-! PROOFS. Firos links (O48, continued): acknowledgements, STATUS frames, management; the obligation. -/

namespace Sys2Proof.Machine

open Sys2Proof Sys2Proof.Safety

variable {c d : Chip} {s : State} {p k : Nat} {st : Stream} {f : LFrame}

/-! ### Acknowledgements, sending again (R481 to R483) -/

/-- A stream that is sent again. -/
def resent (st : Stream) (f : LFrame) : Stream := { st with retries := st.retries + 1, frames := [{ f with again := true }] }

/-- A link whose only stream holds one frame that was sent. -/
structure OneSent (c : Chip) (p k : Nat) (st : Stream) (f : LFrame) : Prop where
  streams : (linkOf c p).streams = [(k, st)]
  frames : st.frames = [f]
  sent : f.sent = true

theorem retransmit_none (h : (streamOf c p k).frames = []) : retransmit c p k = c := by
  unfold retransmit
  dsimp only
  rw [h]
  rfl

theorem retransmit_again (h : OneSent c p k st f) (hr : st.retries < regFld c (fpReg p 8) 31 28) :
    retransmit c p k = updStream c p k (fun _ => resent st f) := by
  have hst := streamOf_single h.streams
  have hany : st.frames.any (fun f => f.sent) = true := by
    rw [h.frames, List.any_cons, h.sent, Bool.true_or]
  have heq : { st with retries := st.retries + 1, frames := st.frames.map (fun f => { f with again := f.sent }) } = resent st f := by
    simp [h.frames, h.sent, resent]
  unfold retransmit
  dsimp only
  rw [hst, hany, if_neg (by decide), if_neg (Nat.not_le.mpr hr)]
  unfold updStream
  rw [hst]
  exact congrArg (fun x => updLink c p (fun l => { l with streams := Tbl.put {} l.streams k x })) heq

theorem retransmit_spent (h : OneSent c p k st f) (hr : regFld c (fpReg p 8) 31 28 ≤ st.retries) :
    retransmit c p k = linkDown c p := by
  have hst := streamOf_single h.streams
  have hany : st.frames.any (fun f => f.sent) = true := by
    rw [h.frames, List.any_cons, h.sent, Bool.true_or]
  unfold retransmit
  dsimp only
  rw [hst, hany, if_neg (by decide), if_pos hr]

/-- A NAK and a time-out go through the four streams. -/
theorem retransmit_fold (hk : k < 4) (h : OneSent c p k st f) (hr : st.retries < regFld c (fpReg p 8) 31 28) :
    [0, 1, 2, 3].foldl (fun c k => retransmit c p k) c = updStream c p k (fun _ => resent st f) := by
  have hbefore {j : Nat} (hj : j ≠ k) : retransmit c p j = c := retransmit_none (by rw [streamOf_single_other h.streams hj])
  have hafter {j : Nat} (hj : j ≠ k) : retransmit (updStream c p k (fun _ => resent st f)) p j = updStream c p k (fun _ => resent st f) :=
    retransmit_none (by rw [streamOf_updStream_other _ _ _ _ hj, streamOf_single_other h.streams hj])
  have hat := retransmit_again h hr
  simp only [List.foldl_cons, List.foldl_nil]
  obtain rfl | rfl | rfl | rfl : k = 0 ∨ k = 1 ∨ k = 2 ∨ k = 3 := by omega
  · rw [hat, hafter (by decide), hafter (by decide), hafter (by decide)]
  · rw [hbefore (by decide), hat, hafter (by decide), hafter (by decide)]
  · rw [hbefore (by decide), hbefore (by decide), hat, hafter (by decide)]
  · rw [hbefore (by decide), hbefore (by decide), hbefore (by decide), hat]

theorem retransmit_fold_empty (h : ∀ j, (streamOf c p j).frames = []) : [0, 1, 2, 3].foldl (fun c k => retransmit c p k) c = c := by
  simp only [List.foldl_cons, List.foldl_nil, retransmit_none (h _)]

/-- A stream with nothing left to acknowledge. -/
def freedStream (c : Chip) (p k : Nat) : Chip := updStream c p k (fun x => { x with frames := [], retries := 0 })

theorem freedStream_rest (c : Chip) (p k : Nat) : KeepsWork c (freedStream c p k) ∧ (freedStream c p k).regs = c.regs := ⟨⟨rfl, rfl, rfl⟩, rfl⟩

theorem ackStream_frees (h : OneSent c p k st f) (hch : st.chan = none) :
    ackStream c p k ((f.seq + 1) % 256) = freedStream c p k := by
  have hst := streamOf_single h.streams
  have hdiff : diff8 ((f.seq + 1) % 256) f.seq = 1 := by
    have hone : BitVec.ofNat 8 ((f.seq + 1) % 256 + 256 - f.seq % 256) = 1#8 := BitVec.eq_of_toNat_eq (by simp; omega)
    rw [diff8, hone]
    rfl
  have hkeep : st.frames.filter (fun x => !(x.sent && decide (0 < diff8 ((f.seq + 1) % 256) x.seq))) = [] := by
    rw [h.frames]
    exact List.filter_cons_of_neg (by simp [h.sent, hdiff])
  have hchan : (streamOf (updStream c p k (fun x => { x with frames := [], retries := 0 })) p k).chan = none := by
    rw [streamOf_updStream_same, hst, hch]
  unfold ackStream
  dsimp only
  rw [hst, hkeep, if_neg (by simp [h.frames]), hchan]
  rfl

/-- An acknowledgement of one stream names no other. -/
theorem ackStream_fold (hk : k < 4) (b : Word) : [0, 1, 2, 3].foldl (fun c j =>
    if (2 ^ k).testBit j then ackStream c p j (bits b (8 * j + 7) (8 * j)) else c) c = ackStream c p k (bits b (8 * k + 7) (8 * k)) := by
  simp only [List.foldl_cons, List.foldl_nil, Nat.testBit_two_pow]
  obtain rfl | rfl | rfl | rfl : k = 0 ∨ k = 1 ∨ k = 2 ∨ k = 3 := by omega
  all_goals rfl

/-- An acknowledgement that says nothing. -/
theorem ackStream_fold_none (b : Word) : [0, 1, 2, 3].foldl (fun c j =>
    if (0 : Nat).testBit j then ackStream c p j (bits b (8 * j + 7) (8 * j)) else c) c = c := by
  simp only [List.foldl_cons, List.foldl_nil, Nat.zero_testBit]
  rfl

theorem freedStream_empty (h : (linkOf c p).streams = [(k, st)]) (j : Nat) : (streamOf (freedStream c p k) p j).frames = [] := by
  by_cases hj : j = k
  · subst hj
    rw [freedStream, streamOf_updStream_same]
  · rw [freedStream, streamOf_updStream_other _ _ _ _ hj, streamOf_single_other h hj]

/-- No entry of the link's table holds a frame either. -/
theorem freedStream_all (h : (linkOf c p).streams = [(k, st)]) :
    (linkOf (freedStream c p k) p).streams.all (fun e => e.2.frames.isEmpty) = true := by
  rw [freedStream, linkOf_updStream, h, Tbl.put]
  split
  · rw [Tbl.del, if_pos rfl]
    rfl
  · rw [Tbl.ins, if_neg (Nat.lt_irrefl k), if_pos rfl]
    rfl

section
variable (ho : portOk s.chip p = true) (hi : inLink s.chip p = true) (hs : (linkOf s.chip p).lstate = 2) (hk : k < 4)
  (h : OneSent s.chip p k st f)
include ho hi hs hk h

theorem ackReceived_frees (nak : Bool) {b : Word} (hch : st.chan = none) (hb : bits b (8 * k + 7) (8 * k) = (f.seq + 1) % 256) :
    leaves (.ackReceived p nak (2 ^ k) b) s (fun t =>
      (streamOf t p k).frames = [] ∧ (streamOf t p k).retries = 0 ∧ bit (regVal t (fpReg p 0x14)) 1 = true ∧
      (nak = true → bit (regVal t (fpReg p 0x14)) 8 = true) ∧ KeepsWork s.chip t) := by
  have hhad : (linkOf s.chip p).streams.any (fun e => !e.2.frames.isEmpty) = true := by
    rw [h.streams, List.any_cons, h.frames]
    rfl
  have hx : xAckReceived s.chip p nak (2 ^ k) b =
      if nak then regOr (regOr (freedStream s.chip p k) (fpReg p 0x14) 2) (fpReg p 0x14) 0x100
      else regOr (freedStream s.chip p k) (fpReg p 0x14) 2 := by
    unfold xAckReceived
    dsimp only
    rw [if_pos (by simp [ho, hi, hs]), ackStream_fold hk, hb, ackStream_frees h hch, hhad]
    have hall := freedStream_all h.streams
    have hnone := freedStream_empty h.streams
    generalize freedStream s.chip p k = e at hall hnone
    simp only [hall, and_self, if_true]
    cases nak with
    | false => exact if_neg (by decide)
    | true =>
      rw [if_pos rfl, if_pos rfl]
      refine retransmit_fold_empty fun j => ?_
      rw [streamOf, linkOf_regOr, linkOf_regOr]
      exact hnone j
  have hempty := freedStream_empty h.streams k
  have hret : (streamOf (freedStream s.chip p k) p k).retries = 0 := by
    rw [freedStream, streamOf_updStream_same]
  have hwork := (freedStream_rest s.chip p k).1
  refine leaves_of_onUnit (f := fun c => xAckReceived c p nak (2 ^ k) b) rfl (isPort_of_portOk ho) ?_
  show _ ∧ _ ∧ _ ∧ _ ∧ _
  rw [hx]
  generalize freedStream s.chip p k = e at hempty hret hwork
  have hdone : bit (regVal (regOr e (fpReg p 0x14) 2) (fpReg p 0x14)) 1 = true := by
    rw [bit_regOr _ _ _ (by decide), show Nat.testBit 2 1 = true from rfl, Bool.or_true]
  cases nak with
  | false => exact ⟨hempty, hret, hdone, nofun, keepsWork_trans hwork ⟨rfl, rfl, rfl⟩⟩
  | true =>
    refine ⟨hempty, hret, ?_, fun _ => ?_, keepsWork_trans hwork ⟨rfl, rfl, rfl⟩⟩
    · rw [if_pos rfl, bit_regOr _ _ _ (by decide), hdone, Bool.true_or]
    · rw [if_pos rfl, bit_regOr _ _ _ (by decide), show Nat.testBit 0x100 8 = true from rfl, Bool.or_true]

theorem ackReceived_nak (b : Word) (hr : st.retries < regFld s.chip (fpReg p 8) 31 28) :
    leaves (.ackReceived p true 0 b) s (fun t =>
      streamOf t p k = resent st f ∧ (linkOf t p).lstate = 2 ∧ KeepsWork s.chip t) := by
  have hnone : (linkOf s.chip p).streams.all (fun e => e.2.frames.isEmpty) = false := by
    rw [h.streams, List.all_cons, h.frames]
    rfl
  have hx : xAckReceived s.chip p true 0 b = updStream (regOr s.chip (fpReg p 0x14) 0x100) p k (fun _ => resent st f) := by
    unfold xAckReceived
    dsimp only
    rw [if_pos (by simp [ho, hi, hs]), ackStream_fold_none, if_pos rfl, hnone, if_neg (fun hh => absurd hh.2 (by decide))]
    refine retransmit_fold hk ⟨h.streams, h.frames, h.sent⟩ ?_
    rw [regFld, regOr, regVal_regUpd_other _ _ (fpReg_apart p (by decide))]
    exact hr
  refine leaves_of_onUnit (f := fun c => xAckReceived c p true 0 b) rfl (isPort_of_portOk ho) ?_
  show _ ∧ _ ∧ _
  rw [hx, streamOf_updStream_same, linkOf_updStream]
  exact ⟨rfl, hs, ⟨rfl, rfl, rfl⟩⟩

theorem xAckTimeout_due (hag : f.again = false) (ht : 4 * (linkOf s.chip p).rtt + 12000 ≤ s.chip.tb - f.sentAt) :
    xAckTimeout s.chip p k = retransmit s.chip p k := by
  unfold xAckTimeout
  rw [if_pos (by simp [ho, hi, hs, hk]), streamOf_single h.streams, h.frames]
  exact if_pos ⟨h.sent, hag, ht⟩

theorem ackTimeout_again (hag : f.again = false) (ht : 4 * (linkOf s.chip p).rtt + 12000 ≤ s.chip.tb - f.sentAt)
    (hr : st.retries < regFld s.chip (fpReg p 8) 31 28) : leaves (.ackTimeout p k) s (fun t =>
      streamOf t p k = resent st f ∧ KeepsWork s.chip t) := by
  refine leaves_of_onUnit (f := fun c => xAckTimeout c p k) rfl (by simp [isPort_of_portOk ho, isStream, hk]) ?_
  show _ ∧ _
  rw [xAckTimeout_due ho hi hs hk h hag ht, retransmit_again h hr, streamOf_updStream_same]
  exact ⟨rfl, ⟨rfl, rfl, rfl⟩⟩

/-- After the last retry the link goes down and keeps its frames (R483). -/
theorem ackTimeout_down (hag : f.again = false) (ht : 4 * (linkOf s.chip p).rtt + 12000 ≤ s.chip.tb - f.sentAt)
    (hr : regFld s.chip (fpReg p 8) 31 28 ≤ st.retries) (hm : (linkOf s.chip p).mgmt = []) : leaves (.ackTimeout p k) s (fun t =>
      (linkOf t p).lstate = 0 ∧ (streamOf t p k).frames = [f] ∧ KeepsWork s.chip t) := by
  refine leaves_of_onUnit (f := fun c => xAckTimeout c p k) rfl (by simp [isPort_of_portOk ho, isStream, hk]) ?_
  show _ ∧ _ ∧ _
  rw [xAckTimeout_due ho hi hs hk h hag ht, retransmit_spent h hr]
  obtain ⟨-, hstate, -, hw, hf⟩ := linkDown_idle hm
  exact ⟨hstate, by rw [hf, streamOf_single h.streams, h.frames], hw⟩

end

/-! ### STATUS frames (R485, R486) -/

theorem areaOf_updLink (c : Chip) (p : Nat) (g : Link → Link) (m : Nat) :
    areaOf (updLink c p g) p m = Tbl.get {} (g (linkOf c p)).areas m := by
  rw [areaOf, linkOf_updLink_same]

section
variable (ho : portOk s.chip p = true) (hi : inLink s.chip p = true) (hl : (linkOf s.chip p).locked = true)
include ho hi hl

theorem statusFrame_bad (n q : Nat) (words : List Word) : leaves (.statusFrameReceived p n q words false) s (fun t =>
    linkOf t p = { linkOf s.chip p with crcerr := (linkOf s.chip p).crcerr + 1 } ∧ bit (regVal t (fpReg p 0x14)) 8 = true ∧
    KeepsWork s.chip t) := by
  have hx : xStatusFrameReceived s.chip p n q words false =
      regOr (updLink s.chip p (fun l => { l with crcerr := l.crcerr + 1 })) (fpReg p 0x14) 0x100 := by
    unfold xStatusFrameReceived
    rw [if_pos (by simp [ho, hi, hl])]
    exact if_pos rfl
  refine leaves_of_onUnit (f := fun c => xStatusFrameReceived c p n q words false) rfl (isPort_of_portOk ho) ?_
  show _ ∧ _ ∧ _
  rw [hx, linkOf_regOr, linkOf_updLink_same, bit_regOr _ _ _ (by decide), show Nat.testBit 0x100 8 = true from rfl, Bool.or_true]
  exact ⟨rfl, rfl, ⟨rfl, rfl, rfl⟩⟩

theorem statusFrame_good {n q : Nat} {words : List Word} (h1 : 1 ≤ n) (h8 : n ≤ 8) (hw : words.length ≤ 60) :
    leaves (.statusFrameReceived p n q words true) s (fun t =>
      areaOf t p n = ⟨q % 256, words.length, true, s.chip.tb, words⟩ ∧ (∀ m, m ≠ n → areaOf t p m = areaOf s.chip p m) ∧
      bit (regVal t (fpReg p 0x14)) 0 = true ∧ KeepsWork s.chip t ∧
      ((areaOf s.chip p n).valid = true → (areaOf s.chip p n).seq = 255 → q % 256 ≠ 0 →
        (linkOf t p).upmiss = (linkOf s.chip p).upmiss + q % 256 ∧ bit (regVal t (fpReg p 0x14)) 9 = true)) := by
  refine leaves_of_onUnit (f := fun c => xStatusFrameReceived c p n q words true) rfl (isPort_of_portOk ho) ?_
  show _ ∧ _ ∧ _ ∧ _ ∧ _
  unfold xStatusFrameReceived
  rw [if_pos (by simp [ho, hi, hl]), if_neg (by simp; omega)]
  dsimp only
  generalize hmiss : (if (areaOf s.chip p n).valid = true then (q % 256 + 511 - (areaOf s.chip p n).seq) % 256 else 0) = missed
  have hpos : (areaOf s.chip p n).valid = true → (areaOf s.chip p n).seq = 255 → missed = q % 256 := by
    intro hv hq
    rw [← hmiss, if_pos hv, hq]
    omega
  have hlink : linkOf (updLink s.chip p (fun l => { l with
      upmiss := l.upmiss + missed, areas := Tbl.put {} l.areas n ⟨q % 256, words.length, true, s.chip.tb, words⟩ })) p =
      { linkOf s.chip p with upmiss := (linkOf s.chip p).upmiss + missed,
                             areas := Tbl.put {} (linkOf s.chip p).areas n ⟨q % 256, words.length, true, s.chip.tb, words⟩ } :=
    linkOf_updLink_same _ _ _
  have hwork := keepsWork_updLink s.chip p (fun l => { l with
    upmiss := l.upmiss + missed, areas := Tbl.put {} l.areas n ⟨q % 256, words.length, true, s.chip.tb, words⟩ })
  generalize updLink s.chip p (fun l => { l with
    upmiss := l.upmiss + missed, areas := Tbl.put {} l.areas n ⟨q % 256, words.length, true, s.chip.tb, words⟩ }) = e at hlink hwork
  have hseen (d : Chip) : bit (regVal (regOr d (fpReg p 0x14) 1) (fpReg p 0x14)) 0 = true := by
    rw [bit_regOr _ _ _ (by decide), show Nat.testBit 1 0 = true from rfl, Bool.or_true]
  have hget : areaOf e p n = ⟨q % 256, words.length, true, s.chip.tb, words⟩ := by
    rw [areaOf, hlink, Tbl.get_put_same]
  have hother (m : Nat) (hm : m ≠ n) : areaOf e p m = areaOf s.chip p m := by
    rw [areaOf, hlink, areaOf]
    exact Tbl.get_put_other _ _ _ hm
  split
  next h0 =>
    exact ⟨hget, hother, hseen e, keepsWork_trans hwork ⟨rfl, rfl, rfl⟩, fun hv hq hne => absurd ((hpos hv hq).symm.trans h0) hne⟩
  next h0 =>
    refine ⟨hget, hother, hseen _, keepsWork_trans hwork ⟨rfl, rfl, rfl⟩, fun hv hq _ => ⟨?_, ?_⟩⟩
    · rw [linkOf_regOr, linkOf_regOr, hlink, hpos hv hq]
    · rw [bit_regOr _ _ _ (by decide), bit_regOr _ _ _ (by decide), show Nat.testBit 0x200 9 = true from rfl, Bool.or_true, Bool.true_or]

end

/-! ### Management (R488, R489, R554) -/

section
variable {m : Mgmt} {q : ReplyTo} (ho : portOk s.chip p = true) (hm : (linkOf s.chip p).mgmt = [m]) (hq : m.reply = some q)
include ho hm hq

omit ho hq in
/-- The one management access of a link completes. -/
theorem mgmt_completes (status : Nat) (detail : Word) :
    let t := complete (updLink s.chip p (fun l => { l with mgmt := l.mgmt.erase m })) q status detail
    (linkOf t p).mgmt = [] ∧ Completed s.chip t q status ∧ KeepsWork s.chip t := by
  intro t
  have hlink : linkOf t p = { linkOf s.chip p with mgmt := (linkOf s.chip p).mgmt.erase m } := by
    rw [linkOf, complete_links]
    exact linkOf_updLink_same _ _ _
  refine ⟨?_, completed_complete q status detail rfl rfl rfl, ⟨?_, ?_, ?_⟩⟩
  · rw [hlink, hm, List.erase_cons_head]
  · exact complete_cores _ _ _ _
  · exact complete_courses _ _ _ _
  · exact complete_mem _ _ _ _

theorem mgmtReply_completes (hi : inLink s.chip p = true) (hsent : m.sent = true) (err : Bool) (data : Word) :
    leaves (.mgmtReply p m.node m.word0 err data) s (fun t =>
      (linkOf t p).mgmt = [] ∧ Completed s.chip t q (if err then stPARAM else stOK) ∧ KeepsWork s.chip t) := by
  have hfind : (linkOf s.chip p).mgmt.find? (fun x => x.sent && decide (x.node = m.node) && decide (x.word0 = m.word0)) = some m := by
    rw [hm]
    exact List.find?_cons_of_pos (by simp [hsent])
  have hx : xMgmtReply s.chip p m.node m.word0 err data =
      if err then complete (updLink s.chip p (fun l => { l with mgmt := l.mgmt.erase m })) q stPARAM 0
      else complete (updLink s.chip p (fun l => { l with mgmt := l.mgmt.erase m })) q stOK data := by
    unfold xMgmtReply
    rw [if_pos (by simp [ho, hi]), hfind]
    dsimp only
    rw [hq]
  refine leaves_of_onUnit (f := fun c => xMgmtReply c p m.node m.word0 err data) rfl (isPort_of_portOk ho) ?_
  show _ ∧ _ ∧ _
  rw [hx]
  cases err with
  | false => exact mgmt_completes hm stOK data
  | true => exact mgmt_completes hm stPARAM 0

theorem mgmtTimeout_completes : leaves (.mgmtTimeout p) s (fun t =>
    (linkOf t p).mgmt = [] ∧ Completed s.chip t q stTIMEOUT ∧ KeepsWork s.chip t) := by
  have hfind : (linkOf s.chip p).mgmt.find? (fun x => x.reply.isSome) = some m := by
    rw [hm]
    exact List.find?_cons_of_pos (by simp [hq])
  have hx : xMgmtTimeout s.chip p = complete (updLink s.chip p (fun l => { l with mgmt := l.mgmt.erase m })) q stTIMEOUT 0 := by
    unfold xMgmtTimeout
    rw [if_pos ho, hfind]
    dsimp only
    rw [hq]
  refine leaves_of_onUnit (f := fun c => xMgmtTimeout c p) rfl (isPort_of_portOk ho) ?_
  show _ ∧ _ ∧ _
  rw [hx]
  exact mgmt_completes hm stTIMEOUT 0

end

/-- Settles O48: each clause by what its command leaves; a data frame that is sent by `sendData_single`. -/
theorem linkTraffic : Obligations.LinkTraffic := by
  unfold Obligations.LinkTraffic
  intro s p ho hi hs c l line dataFrame out
  refine ⟨fun hk => ⟨fun hd => dataFrameSend_sync hk hs hd, fun k st f hd hst hf hlen => ⟨fun hsent hag ht hlate hlane => ?_, fun hag => ?_⟩⟩,
    fun k st f hk hst hf hsent => ⟨fun nak b hch hseq hb => ?_, fun b hr => ?_, fun hag ht => ⟨fun hr => ?_, fun hr hm => ?_⟩⟩,
    fun n q words hl h1 h8 hw => ⟨statusFrame_good ho hi hl h1 h8 hw, statusFrame_bad ho hi hl n q words⟩,
    fun m q hm hq => ⟨fun data hsent => mgmtReply_completes ho hm hq hi hsent false data,
      fun data hsent => mgmtReply_completes ho hm hq hi hsent true data, mgmtTimeout_completes ho hm hq⟩⟩
  · refine leaves_mono (dataFrameSend_new hk hs hd hst hf hsent hag ht hlate hlane) ?_
    rintro t ⟨hstream, -, hout, hwork, hregs⟩
    exact ⟨hstream, hout, hwork, onlyRegs_of_regs hregs⟩
  · exact dataFrameSend_again hk hs hd hst hf hag
  · exact ackReceived_frees ho hi hs hk ⟨hst, hf, hsent⟩ nak hch hb
  · exact ackReceived_nak ho hi hs hk ⟨hst, hf, hsent⟩ b hr
  · exact ackTimeout_again ho hi hs hk ⟨hst, hf, hsent⟩ hag ht hr
  · exact ackTimeout_down ho hi hs hk ⟨hst, hf, hsent⟩ hag ht hr hm

end Sys2Proof.Machine
end
